-- ==== Sys2Proof/Word.lean ====
section
/-! DEFINITION. The word types of the KX9 and the sparse table every register file and every population of units is held in. -/

namespace Sys2Proof

/-- A byte (R2). -/
abbrev Byte := BitVec 8
/-- A 64-bit register (R69). -/
abbrev Word := BitVec 64
/-- A 32-bit lane of a tile, an epilogue register or a mask. -/
abbrev Lane := BitVec 32
/-- A vector register, 256 bits (R69). -/
abbrev VWord := BitVec 256

/-- A finite table: entries sorted by key, one entry a key. A key that is not listed reads as the
default its reader names, so that a population of thousands of like units, or a register file right
after start, is written down by the units that differ. -/
structure Table (α : Type) where
  cells : List (Nat × α)
deriving DecidableEq, Repr

/-- The table that lists nothing. -/
def Table.empty {α : Type} : Table α := ⟨[]⟩

/-- The entry of a key in a list of entries. -/
def Table.findIn {α : Type} (k : Nat) : List (Nat × α) → Option α
  | [] => none
  | c :: cs => if c.1 = k then some c.2 else Table.findIn k cs

/-- Write an entry, keeping the list sorted by key. -/
def Table.putIn {α : Type} (k : Nat) (v : α) : List (Nat × α) → List (Nat × α)
  | [] => [(k, v)]
  | c :: cs =>
    if c.1 = k then (k, v) :: cs
    else if k < c.1 then (k, v) :: c :: cs
    else c :: Table.putIn k v cs

/-- The entry of a key, if it is listed. -/
def Table.find {α : Type} (t : Table α) (k : Nat) : Option α := Table.findIn k t.cells
/-- The entry of a key, or the default. -/
def Table.get {α : Type} (d : α) (t : Table α) (k : Nat) : α := (t.find k).getD d
/-- Write an entry. -/
def Table.set {α : Type} (t : Table α) (k : Nat) (v : α) : Table α := ⟨Table.putIn k v t.cells⟩
/-- Unlist a key. -/
def Table.erase {α : Type} (t : Table α) (k : Nat) : Table α := ⟨t.cells.filter (fun c => c.1 != k)⟩
/-- The listed keys, rising. -/
def Table.keys {α : Type} (t : Table α) : List Nat := t.cells.map (·.1)
/-- Apply a function to every listed entry. -/
def Table.mapAll {α : Type} (t : Table α) (f : Nat → α → α) : Table α :=
  ⟨t.cells.map (fun c => (c.1, f c.1 c.2))⟩

/-- The unsigned field `<hi:lo>` of a number (R2). -/
def fld (x hi lo : Nat) : Nat := (x / 2 ^ lo) % 2 ^ (hi + 1 - lo)
/-- The signed value of a `w`-bit number (R4's SignExtend). -/
def sgn (w x : Nat) : Int := if x % 2 ^ w < 2 ^ (w - 1) then (x % 2 ^ w : Nat) else (x % 2 ^ w : Nat) - (2 ^ w : Nat)
/-- The `w`-bit pattern of an integer. -/
def unsgn (w : Nat) (x : Int) : Nat := (x % (2 ^ w : Nat)).toNat

end Sys2Proof
end

