-- ==== Sys2Proof/Word/Operand.lean ====
section
/-! DEFINITION. The names and alternatives instructions and state are made of: registers, type codes, directions, operand
forms, numbers. -/

namespace Sys2Proof

/-- The direction codes E = 0, S = 1, W = 2, N = 3 (R100). -/
inductive Dir where
  | e | s | w | n
deriving DecidableEq, Repr

/-- The register a specifier names (R89). The reserved specifiers 54 to 62 have no constructor. -/
inductive Reg where
  /-- w0 to w23, of the current window. -/
  | w (n : Fin 24)
  | g (n : Fin 8)
  | o (n : Fin 8)
  /-- l0 to l3, read only. -/
  | l (n : Fin 4)
  | i (n : Fin 4)
  /-- qn, qe, qs, qw. -/
  | q (d : Dir)
  /-- Reads zero; discards a write. -/
  | z
  /-- Reads the bundle address. -/
  | pc
  /-- A destination whose result goes only to l0. -/
  | nil
deriving DecidableEq, Repr

/-- The plain types of R42, in code order. -/
inductive Ty where
  | i8 | n8 | i16 | n16 | i32 | n32 | i64 | n64 | f16 | bf16 | f32 | e4m3 | e5m2
deriving DecidableEq, Repr

/-- The rounding modes of R52, in code order. -/
inductive Rm where
  | rne | rtz | rup | rdn
deriving DecidableEq, Repr

/-- An exact number: NaN, an infinity, or `(-1)^neg * m * 2^e`. Integers are finite numbers with `e = 0`. -/
inductive Num where
  | nan
  | inf (neg : Bool)
  | fin (neg : Bool) (m : Nat) (e : Int)
deriving DecidableEq, Repr

/-- The five sticky flags of R54 as one operation raises them, in the order of R355: NV DZ OF UF NX. -/
structure Flags where
  nv : Bool
  dz : Bool
  ovf : Bool
  unf : Bool
  nx : Bool
deriving DecidableEq, Repr

/-- The second source of a class A operation (R91, R92). -/
inductive Src2 where
  | reg (r : Reg)
  /-- simm6: no S extension. -/
  | s6 (v : BitVec 6)
  /-- imm32, in the S extension. -/
  | i32 (v : BitVec 32)
deriving DecidableEq, Repr

/-- A two-source class A operation (R280): the 32-bit form, the destination and the sources. -/
structure AluOps where
  w32 : Bool
  dst : Reg
  a : Reg
  b : Src2
deriving DecidableEq, Repr

/-- A one-source class A operation (R92). -/
structure UnOps where
  w32 : Bool
  dst : Reg
  src : Src2
deriving DecidableEq, Repr

/-- func<2:1> of MULH (R333). -/
inductive MulhKind where
  | ss | uu | su
deriving DecidableEq, Repr

/-- The conditions of CMP (R296) and VCMP (R363), in code order. -/
inductive Cond where
  | eq | ne | lt | le | gt | ge
deriving DecidableEq, Repr

/-- The branch offset of BR and CALL: offset18 in the short op, or offset32 in the S extension (R91). -/
inductive Off where
  | short (v : BitVec 18)
  | long (v : BitVec 32)
deriving DecidableEq, Repr

/-- A class M address: base register and disp32 (0 when the S extension is absent, R91). -/
structure Addr where
  base : Reg
  disp : BitVec 32
deriving DecidableEq, Repr

/-- func of RST (R346). -/
inductive RstKind where
  | fe | dw | accF32 | accI32 | accF16 | accDwF32 | accDwI32 | accDwF16
deriving DecidableEq, Repr

/-- func of RED (R179), in code order. -/
inductive RedOp where
  | addI32 | addI64 | minI32 | minI64 | minN32 | minN64 | maxI32 | maxI64
  | maxN32 | maxN64 | and | or | xor | faddF32 | fminF32 | fmaxF32
deriving DecidableEq, Repr

/-- The kinds of a FENCE (R202). -/
inductive FenceKind where
  | r | a | x
deriving DecidableEq, Repr

/-- The scopes of R198, in code order. -/
inductive Scope where
  | core | die | dev | sys
deriving DecidableEq, Repr

/-- The sync object an ACQ, RLS or BIND names: kinds HW, FE, DW with a register holding the address, or CH with the
sel of R195 (R201, R202). -/
inductive ObjRef where
  | hw (r : Reg)
  | fe (r : Reg)
  | dw (r : Reg)
  | ch (sel : BitVec 4)
deriving DecidableEq, Repr

/-- A sync object's identity (R201): a global address, a core and offset, or a counter of this core. -/
inductive Obj where
  | hw (va : Nat)
  | fe (core off : Nat)
  | dw (core off : Nat)
  | ch (sel : Nat)
deriving DecidableEq, Repr

/-- The extension of LKSPARSE (R129). -/
structure SparseCfg where
  mode : BitVec 2
  t : BitVec 2
  nm : BitVec 2
  sideB : Bool
deriving DecidableEq, Repr

/-- The two forms of LKDRAIN (R324). -/
inductive DrainForm where
  | now
  | redrain (base : Reg) (disp : BitVec 16)
deriving DecidableEq, Repr

/-- The four QBIND operations (R152). -/
inductive QBindOp where
  | bind (d : Dir) (ctx : BitVec 4)
  | unbind (d : Dir)
  | free (ctx : BitVec 4)
  | nofree (ctx : BitVec 4)
deriving DecidableEq, Repr

/-- The parameters of LVSET (R154), as the extension carries them. -/
structure LvParams where
  pq : BitVec 6
  wc : BitVec 4
  wp : BitVec 4
  gi : BitVec 3
  gp : BitVec 3
  setp : BitVec 5
deriving DecidableEq, Repr

/-- The conditions of LKWAIT (R329). -/
inductive LkCond where
  | done | ready | prod | idle
deriving DecidableEq, Repr

/-- The b operand of a V-slot operation: a vector, or o0 to o7 broadcast (R84). -/
inductive VSrc where
  | v (n : Fin 16)
  | o (n : Fin 8)
deriving DecidableEq, Repr

/-- The fields most V-slot operations share: type, destination, a, b, mask (R84). -/
structure VOps where
  ty : Ty
  vd : Fin 16
  va : Fin 16
  vb : VSrc
  mask : Fin 8
deriving DecidableEq, Repr

/-- A one-source V-slot operation. -/
structure VUnOps where
  ty : Ty
  vd : Fin 16
  va : Fin 16
  mask : Fin 8
deriving DecidableEq, Repr

/-- The op field of VREDUCE and VSCAN (R374, R376). -/
inductive RedKind where
  | add | min | max
deriving DecidableEq, Repr

/-- A lane shift's amount: lanes of vb or a scalar, or an immediate (R378). -/
inductive VAmt where
  | src (b : VSrc)
  | imm (s : BitVec 6)
deriving DecidableEq, Repr

/-- The source of VBCAST (R362). -/
inductive BcSrc where
  | lane (va : Fin 16) (k : BitVec 5)
  | o (n : Fin 8)
deriving DecidableEq, Repr

/-- A source specifier of an epilogue operation (R138). -/
inductive ESrc where
  | e (n : Fin 6)
  | acc
  | z
deriving DecidableEq, Repr

/-- The sel field of ELDC (R140). -/
inductive ESel where
  | c (n : Fin 4)
  | rsum | csum | kv
deriving DecidableEq, Repr

/-- The cond field of ESEL (R140). -/
inductive ECond where
  | ne | lt | gt | eq
deriving DecidableEq, Repr

/-- The element types of accumulate-on-write (R164). -/
inductive AccTy where
  | f32 | i32 | f16
deriving DecidableEq, Repr

/-- The fault codes of R238. -/
inductive FCode where
  | illegal | fetchAlign | align | bounds | translate | protect | memErr | window | queue
  | rzvOrder | rzvMismatch | rzvBroken | leaseRevoked | drainTarget | format | teamBounds
  | async | hazard | priv | soft | brk | coupling | holdGrace | sourceGone
deriving DecidableEq, Repr

/-- The states of a pleach engine, in the code order of R124. -/
inductive EState where
  | dormant | waking | idle | openPending | ready | running | draining | done | faulted | suspended
deriving DecidableEq, Repr

end Sys2Proof
end

