-- ==== Sys2Proof/Word/Packet.lean ====
section
/-! DEFINITION. What travels between the units of the device: requests to homes, fabric packets, drain rows, lease requests,
log entries, and the writes of the host. -/

namespace Sys2Proof

/-- What a request does at its home (R172, R177 to R183). -/
inductive HomeKind where
  /-- A 64-byte line for a load (R173). -/
  | load
  /-- A fine-grain load of `n` bytes (R175). -/
  | fine (n : Nat)
  /-- A drained write-combining entry: 64 data bytes under a byte mask (R174). -/
  | store (mask : BitVec 64)
  | hold
  | hrel
  | red (op : RedOp)
  | xsum (ty : Ty)
  | xread
deriving DecidableEq, Repr

/-- A request on its way to, or waiting at, a home: who sent it, its physical and virtual address, the space it was
translated in, the resident bit its translation carried (R260), its data, and a number that its reply names. -/
structure HomeReq where
  kind : HomeKind
  core : Nat
  ctx : Nat
  pa : Nat
  va : Nat
  space : Nat
  res : Bool
  tok : Nat
  data : List Byte
  /-- The refusals a HOLD has met (R177's doubling delay). -/
  tries : Nat
  /-- Its line may fill the read cache of its cluster: nothing has invalidated the line since the home read it (R199, R204). -/
  fill : Bool := true
  /-- The fine-grain form of a HOLD (R175). -/
  fg : Bool := false
  /-- The size of the page its translation used (R261). -/
  size : Nat := 65536
deriving DecidableEq, Repr

/-- One row of a drain, as it is written at its receiver (R117). -/
structure RowWrite where
  link : Nat
  core : Nat
  off : Nat
  bytes : List Byte
  /-- Accumulate-on-write with this element type; `none` overwrites. -/
  acc : Option AccTy
  /-- The datum word credited after the write. -/
  dw : Option Nat
  /-- The last row of its drain. -/
  last : Bool
  /-- The drain's chainage number. -/
  num : Nat
deriving DecidableEq, Repr

/-- A levelling demand, or its withdrawal (`none`), sent to a producer in a neighbour core (R156). -/
structure LevMsg where
  core : Nat
  ctx : Nat
  srcCore : Nat
  ctl : Nat
  val : Option Nat
deriving DecidableEq, Repr

/-- The four routing classes (R200, R231). -/
inductive PktClass where
  | sync | rsp | data | req
deriving DecidableEq, Repr

/-- What a fabric packet carries. -/
inductive PktBody where
  /-- A plain remote store of ST or VST (R351, R379). -/
  | store (off : Nat) (bytes : List Byte)
  /-- RST.fe (R346). -/
  | fe (off : Nat) (v : Word)
  /-- RST.dw: write, then credit the datum word at `q`. -/
  | dw (off : Nat) (v : Word) (q : Nat)
  /-- RST.acc and RST.acc.dw. -/
  | acc (t : AccTy) (off : Nat) (bytes : List Byte) (q : Option Nat)
  /-- A drain row of the fabric path (R117). -/
  | row (r : RowWrite)
  /-- The acknowledgement of a remote store (R198). -/
  | ack
deriving DecidableEq, Repr

/-- A packet: class, source and destination core, length in flits, priority (R230), the issuing context and the number its
acknowledgement names, the fabric cycles its head has waited (R232), and the send order at its source. -/
structure Pkt where
  cls : PktClass
  src : Nat
  dst : Nat
  flits : Nat
  prio : Nat
  ctx : Nat
  tok : Nat
  wait : Nat
  body : PktBody
  /-- The cycle from which its head can request an output. -/
  at_ : Nat := 0
deriving DecidableEq, Repr

/-- An entry of a lease FIFO (R101): the link, the requester and its pending number, the cycle it entered, and whether it
is the re-lease of a saved engine (R249). -/
structure LeaseReq where
  link : Nat
  core : Nat
  ctx : Nat
  tok : Nat
  team : Nat
  pri : Nat
  at_ : Nat
  restore : Bool
deriving DecidableEq, Repr

/-- An entry of a fault log (R242). -/
structure LogEnt where
  code : FCode
  kind : Nat
  addr : Word
  info : Nat
deriving DecidableEq, Repr

/-- What a parking operation receives when it ends (R9). -/
inductive Reply where
  | done
  | word (v : Word)
  /-- The 64-byte line, or the fine-grain burst, of a global load. -/
  | bytes (bs : List Byte)
  /-- The access ended with a fault (R245, R246). -/
  | fault (c : FCode) (addr : Word)
deriving DecidableEq, Repr

/-- The registers a host or a program writes that have no behaviour of their own (R34, R355). -/
inductive HostReg where
  /-- ARG0 to ARG5 of the mailbox. -/
  | arg (k : Fin 6)
  /-- Eight bytes of DATA at `8*k`. -/
  | data (k : Fin 480)
  /-- CMD, which starts the command its code names. -/
  | cmd
  /-- DBGHZ, EVICTWAIT, PREEMPTWAIT, as steward core `k` writes them. -/
  | dbghz (k : Nat)
  | evictwait (k : Nat)
  | preemptwait (k : Nat)
deriving DecidableEq, Repr

end Sys2Proof
end

