-- ==== Sys2Proof/Config.lean ====
section
/-! DEFINITION. The fixed figures of the device, and the free values: what the spec leaves open, as constants without a body
that nothing in Lean can evaluate. -/

namespace Sys2Proof.Config

/-- Compute cores of the package (R14). -/
def cores : Nat := 2304
/-- Steward cores (R19); steward core `k` is core `2304 + k` of the model. -/
def stewards : Nat := 16
/-- Scratchpad bytes of a core (R160). -/
def spadSize : Nat := 0x20000
/-- First global virtual address (R160). -/
def globalBase : Nat := 0x1_0000_0000
/-- End of the virtual address space (R255). -/
def vaTop : Nat := 2 ^ 52
/-- Base of the scratchpads in the model's one memory: scratchpad byte `off` of core `c` is cell
`spadBase + c * 0x20000 + off`, above every physical address of R171. -/
def spadBase : Nat := 2 ^ 52
/-- First physical address of the staging region, and its end (R33). -/
def stagingBase : Nat := 0x00BC_0000_0000
def stagingTop : Nat := 0x00C0_0000_0000
/-- End of local HBM (R171). -/
def hbmTop : Nat := 0x00C0_0000_0000

/-- Cycles from a grant to the wake (R101). -/
def wakeCycles : Nat := 1500
/-- Cycles from placement to the first bundle (R222). -/
def launchCycles : Nat := 1024
/-- The published latencies of R76 and R237, in core cycles. -/
def readCacheHit : Nat := 40
def homeHit : Nat := 220
def homeWay : Nat := 110
def hbmMiss : Nat := 700
/-- One way over a span link (R237). -/
def spanWay : Nat := 450
/-- 64 fabric cycles, the resend delay of R166, R177 and R248, in core cycles. -/
def resend : Nat := 96
/-- One round trip over the control ports (R354). -/
def deviceWrite : Nat := 24
/-- A remote demand's travel (R156). -/
def demandCycles : Nat := 43
/-- Idle cycles after which a write-combining entry drains (R174). -/
def wcIdle : Nat := 256

/-- FREE VALUE: the choice the device makes where the spec fixes no order (R174, R187; log entry 7); the
argument is a counter of the state (log entry 13). -/
opaque choice : Nat → Nat
/-- FREE VALUE: whether an image's ML-DSA-44 signature verifies (R26; log entry 9): image kind, image. -/
opaque verifies : Nat → List Byte → Bool
/-- FREE VALUE: the 32-bit version inside a signed image (R27; log entry 10). -/
opaque imageVersion : List Byte → Nat
/-- FREE VALUE: the minimum version of kind `k` that an image carries (R27, R28; log entry 10). -/
opaque imageMinimum : List Byte → Nat → Nat
/-- FREE VALUE: the harvested core ids a configuration map names (R28; log entry 10). -/
opaque mapHarvest : List Byte → List Nat
/-- FREE VALUE: the lease-token count a configuration map gives a die (R28; log entry 10). -/
opaque mapTokens : List Byte → Nat → Nat
/-- FREE VALUE: the span-link and root-port enable masks of a configuration map (R28; log entry 10). -/
opaque mapSpans : List Byte → BitVec 24
opaque mapPorts : List Byte → BitVec 8
/-- FREE VALUE: the SHA3-256 digest (R26, R31; log entry 9). -/
opaque sha3 : List Byte → BitVec 256
/-- FREE VALUE: byte by byte, the signature of the identity key over a digest (R31; log entry 9). -/
opaque identityByte : BitVec 256 → Nat → Byte
/-- The signature: 2,420 bytes (R26). -/
def identitySign (digest : BitVec 256) : List Byte := (List.range 2420).map (identityByte digest)
/-- FREE VALUE: the code base and the frames the steward chooses for an upload (log entry 84). -/
opaque uploadChoice : Nat → Nat × Nat
/-- FREE VALUE: where steward firmware starts (R26 stage 4) and the table root it starts with (R262): firmware image, core (log entry 10). -/
opaque stewardEntry : List Byte → Nat → Word
opaque stewardRoot : List Byte → Nat → Word
/-- FREE VALUE: the length and offset of the identity certificate, and the stepping (R25; log entry 9). -/
opaque certificate : BitVec 64
opaque stepping : BitVec 16

/-- FREE VALUE: byte `k` of what a peer's memory or a PCIe port gives a copy's read (log entry 21); the first argument is a counter of
the state. -/
opaque outsideByte : Nat → Nat → Byte

/-- FREE VALUE: how a peer, or a port's device, ends a request: 1 with F_PROTECT, 2 with an error, else well (R171; log entry 21); the
argument is a counter of the state. -/
opaque outsideEnds : Nat → Nat

/-- FREE VALUE: byte `k` of a part of the context area whose inner layout the spec does not give, as a function of what the part holds
(R250, R251; log entry 40); the first argument is a counter of the state, then what the part holds. -/
opaque savedByte : Nat → List Nat → Nat → Byte

/-- FREE VALUE: the die, x and y fields CTXID gives on a steward core (R299 states the fields of a core of a die; log entry 19). -/
opaque stewardPlace : Nat → BitVec 12

end Sys2Proof.Config
end

