-- ==== Sys2Proof/Syntax.lean ====
section
/-! DEFINITION. The instructions: one constructor for each row of spec/opcode_table.json. The first 90 are S-slot
operations (R93, R94), the next 29 V-slot operations (R95), the next 17 epilogue operations (R140); the rest are the whole
steps the device, its host and its surroundings make (spec/95). -/

namespace Sys2Proof

inductive Instr where
  -- S slot: class A, L, E and F arithmetic
  | nop
  | add (x : AluOps)
  | sub (x : AluOps)
  | mul (x : AluOps)
  | mulh (k : MulhKind) (x : AluOps)
  | div (u : Bool) (x : AluOps)
  | rem (u : Bool) (x : AluOps)
  | and (x : AluOps)
  | or (x : AluOps)
  | xor (x : AluOps)
  | ltab (w32 : Bool) (dst a b : Reg) (tbl : BitVec 8)
  | shl (x : AluOps)
  | shr (x : AluOps)
  | sra (x : AluOps)
  | rot (x : AluOps)
  | fsh (w32 : Bool) (dst a b : Reg) (sh : BitVec 6)
  | min (u : Bool) (x : AluOps)
  | max (u : Bool) (x : AluOps)
  | clz (x : UnOps)
  | popc (x : UnOps)
  | bfx (sx : Bool) (dst a : Reg) (pos len : BitVec 6)
  | bfi (dst a b : Reg) (pos len : BitVec 6)
  | cmp (u : Bool) (c : Cond) (pd : Fin 8) (w32 : Bool) (a : Reg) (b : Src2)
  | sel (inv : Bool) (p : Fin 8) (dst a b : Reg)
  | mov (x : UnOps)
  | li (dst : Reg) (imm : BitVec 32)
  | lih (dst : Reg) (imm : BitVec 32)
  | addpc (dst : Reg) (imm : BitVec 32)
  | plog (pd pa pb pc : Fin 8) (tbl : BitVec 8)
  -- control flow and contexts
  | br (off : Off)
  | jmp (a : Addr)
  | call (off : Off)
  | ret
  | iter (off : BitVec 32)
  | exit
  | ctxstart (n : BitVec 4) (off : BitVec 32)
  | ctxreap (n : BitVec 4)
  | ctxid (dst : Reg)
  | levid (dst : Reg) (level : BitVec 3)
  -- memory
  | ld (fg : Bool) (ty : BitVec 3) (dst : Reg) (a : Addr)
  | st (ty : BitVec 3) (src : Reg) (a : Addr)
  | vld (v : Fin 16) (a : Addr)
  | vst (v : Fin 16) (a : Addr)
  | bpack (all : Bool) (v : Fin 16) (ctl : Reg) (a : Addr)
  | bunpk (ty : Ty) (v : Fin 16) (ctl : Reg) (a : Addr)
  | ldfe (n64 : Bool) (dst : Reg) (a : Addr)
  | stfe (n64 : Bool) (src : Reg) (a : Addr)
  | feinit (full : Bool) (words : BitVec 9) (a : Addr)
  | rst (k : RstKind) (src dw : Reg) (a : Addr)
  | hold (fg : Bool) (dst : Reg) (a : Addr)
  | hrel (src : Reg) (a : Addr)
  | red (op : RedOp) (src : Reg) (a : Addr)
  | xsum (ty : Ty) (src : Reg) (a : Addr)
  | xread (dst : Reg) (a : Addr)
  | dwinit (src : Reg) (a : Addr)
  | dwwait (src : Reg) (a : Addr)
  -- SYNC group
  | fence (k : FenceKind) (sc : Scope)
  | spfence
  | acq (o : ObjRef)
  | rls (o : ObjRef)
  | bind (slot : BitVec 4) (base : Reg) (lines : BitVec 20) (o : ObjRef)
  | unbind (slot : BitVec 4)
  | trig
  | chwait (sel : BitVec 4) (src : Reg)
  | chread (dst : Reg) (sel : BitVec 4)
  -- COPY group
  | copy (dst base : Reg) (disp : BitVec 16) (swz : Bool)
  | gather (dst base : Reg) (disp : BitVec 16) (swz : Bool) (fill : BitVec 8)
  | scatter (dst base : Reg) (disp : BitVec 16)
  | cstage (st : BitVec 16)
  -- LINK group
  | lease (dst : Reg) (d : Dir) (pri : BitVec 2)
  | unlease (d : Dir)
  | lkopen (dst base : Reg) (d : Dir) (roleB : Bool) (disp : BitVec 16)
  | lkfeed (d : Dir) (handle : BitVec 4) (base : Reg) (bdisp : BitVec 6) (stride : BitVec 12) (count : BitVec 16)
  | lksparse (d : Dir) (c : SparseCfg) (bound : Option Reg)
  | lkdrain (d : Dir) (f : DrainForm)
  | lkclose (d : Dir)
  | lkstat (dst : Reg) (d : Dir) (word : Fin 3)
  | lkwait (d : Dir) (c : LkCond)
  | cbload (d : Dir) (slot : BitVec 3) (base : Reg) (disp : BitVec 16)
  | epload (d : Dir) (slot : Bool) (base : Reg) (disp : BitVec 16)
  -- QUEUE group
  | qbind (op : QBindOp)
  | qctl (d : Dir) (src : Reg)
  | qhnd (d : Dir) (src : Reg)
  | lvset (ctl : BitVec 3) (ps : Option LvParams)
  | lvread (dst : Reg) (ctl : BitVec 3)
  -- SYS group
  | trap (dst : Reg) (svc : BitVec 8) (src : Reg)
  | eret
  | brk (imm : BitVec 16)
  | sysrd (dst : Reg) (sreg : BitVec 12)
  | syswr (sreg : BitVec 12) (src : Reg)
  -- V slot
  | vnop
  | vadd (sat : Bool) (x : VOps)
  | vsub (sat : Bool) (x : VOps)
  | vmul (x : VOps)
  | vfma (x : VOps)
  | vmad (x : VOps)
  | vmin (x : VOps)
  | vmax (x : VOps)
  | vabs (sat : Bool) (x : VUnOps)
  | vneg (sat : Bool) (x : VUnOps)
  | vltab (vd va vb : Fin 16) (mask : Fin 8) (tbl : BitVec 8)
  | vshl (ty : Ty) (vd va : Fin 16) (amt : VAmt) (mask : Fin 8)
  | vshr (ty : Ty) (vd va : Fin 16) (amt : VAmt) (mask : Fin 8)
  | vsra (ty : Ty) (vd va : Fin 16) (amt : VAmt) (mask : Fin 8)
  | vfsh (ty : Ty) (vd va vb : Fin 16) (mask : Fin 8) (sh : BitVec 6)
  | vcmp (c : Cond) (ty : Ty) (md : Fin 8) (va : Fin 16) (vb : VSrc) (mask : Fin 8)
  | vsel (vd va vb : Fin 16) (mask : Fin 8)
  | vmask (md ma : Fin 8) (mb : Sum (Fin 8) (Fin 8)) (mask : Fin 8) (tbl : BitVec 4)
  | vcvt (td : Ty) (vd va : Fin 16) (mask : Fin 8) (ts : Ty) (rm : Rm) (sat : Bool) (part : BitVec 3)
  | vdot (su : Bool) (x : VOps)
  | vqmul (x : VOps)
  | vreduce (op : RedKind) (x : VUnOps)
  | vscan (op : RedKind) (ex : Bool) (hm : Fin 8) (x : VUnOps)
  | vperm (ty : Ty) (vd va vb : Fin 16) (mask : Fin 8)
  | vbcast (ty : Ty) (vd : Fin 16) (src : BcSrc) (mask : Fin 8)
  | vpopc (x : VUnOps)
  | vrcp (vd va : Fin 16) (mask : Fin 8)
  | vrsq (vd va : Fin 16) (mask : Fin 8)
  | vexp2 (vd va : Fin 16) (mask : Fin 8)
  -- epilogue programs
  | eend
  | emov (d : Fin 6) (a : ESrc)
  | eadd (f : Bool) (d : Fin 6) (a b : ESrc)
  | esub (f : Bool) (d : Fin 6) (a b : ESrc)
  | emul (f : Bool) (d : Fin 6) (a b : ESrc)
  | efma (f : Bool) (d : Fin 6) (a b c : ESrc)
  | emin (f : Bool) (d : Fin 6) (a b : ESrc)
  | emax (f : Bool) (d : Fin 6) (a b : ESrc)
  | eshrImm (d : Fin 6) (a : ESrc) (sh : BitVec 5)
  | eshrReg (d : Fin 6) (a b : ESrc)
  | eqmul (d : Fin 6) (a b : ESrc)
  | ecvt (f : Bool) (d : Fin 6) (a : ESrc) (ty : Ty) (rm : Rm) (sat : Bool)
  | ezpc (f : Bool) (d : Fin 6) (a b c : ESrc)
  | erelu (f : Bool) (d : Fin 6) (a : ESrc)
  | esel (f : Bool) (d : Fin 6) (a b c : ESrc) (k : ECond)
  | eldc (f : Bool) (d : Fin 6) (sl : ESel)
  | ewr (a : ESrc)
  -- boot, host and power
  | deviceReset
  | bootStage (stage : Nat)
  | hbmTrainingAttempt (stack : Fin 12) (ok : Bool)
  | spanLinkTraining (link : Fin 24) (lanes : Nat) (peer : BitVec 8)
  | portTraining (port : Fin 9) (width rate : Nat)
  | upload (tag : BitVec 16) (codeBase place : Nat)
  | release (tag : BitVec 16)
  | attest (tag : BitVec 16)
  | flashwr (tag : BitVec 16)
  | reset (tag : BitVec 16)
  | mailboxCommandComplete
  | registerWrite (r : HostReg) (v : Word)
  | kick (k : Nat) (v : Word)
  | hostStagingWrite (off : Nat) (bytes : List Byte)
  | hostStagingRead (off n : Nat)
  -- sequencer and switch
  | replayBegin (slot : Nat)
  | placement
  | teamLaunch (team : Nat)
  | teamComplete (team : Nat)
  | preemptTrigger
  | preemptStopIssue (team : Nat)
  | preemptHoldGrace (team : Nat)
  | holdGraceExpiry (team : Nat)
  | preemptDrain (team : Nat)
  | preemptEngineStop (team : Nat)
  | preemptSave (team : Nat)
  | resume (team : Nat)
  | teamTeardown (team : Nat)
  -- traps and faults
  | trapEntry (core ctx : Nat) (code : FCode) (w2 w3 : Word)
  | lightHandlerCall (core ctx : Nat) (d : Dir)
  | softError (core ctx : Nat)
  | faultLogEntry (core ctx : Nat) (e : LogEnt)
  -- the barrel core
  | replyWrite (core ctx tok : Nat) (r : Reply)
  | pendingCompletionWrite (core ctx tok : Nat) (v : Word)
  | eagerSpill (core : Nat)
  | windowSpill (core ctx : Nat)
  | windowRefill (core ctx : Nat)
  | weightTakesEffect (core ctx : Nat)
  | throttleStepBegin (core : Nat)
  | throttleStepEnd (core : Nat)
  -- queues and levelling
  | queueEntryArrive (core : Nat) (d : Dir)
  | creditReturn (core : Nat) (d : Dir)
  | levellingSample (core ctl : Nat)
  | levellingDemandArrive (m : LevMsg)
  | engineLevelSample (link : Nat)
  -- pleach engines
  | leaseGrant (die : Nat)
  | engineWake (link : Nat)
  | eviction (die : Nat)
  | heldOpenTakesEffect (link : Nat) (far : Bool)
  | prePass (link : Nat)
  | loaderFetch (link : Nat) (far : Bool)
  | kStep (link : Nat)
  | splitDrain (link : Nat)
  | drainBegin (link : Nat)
  | epilogueRow (link : Nat)
  | drainRowWrite (r : RowWrite)
  | engineRestore (link : Nat)
  -- fabric and homes
  | injectionSend (core : Nat)
  | outputArbitration (core port : Nat)
  | escapeEntry (core chan : Nat)
  | homeRequestArrival (r : HomeReq)
  | holdGrant (pa : Nat)
  | holdResend (r : HomeReq)
  | remoteStoreArrival (p : Pkt)
  | rstFeArrival (p : Pkt)
  | rstFeResend (p : Pkt)
  | writeResend (p : Pkt)
  | acknowledgement (core ctx tok : Nat)
  | wcIdleTimeout (core pa : Nat)
  | fineGrainBatchIssue (ch : Nat)
  | hbmRequestServe (ch : Nat)
  | hbmRefresh (ch : Nat)
  -- copies, schedules, iterations
  | copyCommandStart (core : Nat)
  | gatherIndexBatch (core id : Nat)
  | copyRowWrite (core id k : Nat)
  | copyCommandComplete (core id : Nat)
  | scheduleEntryRelease (team sched : Nat)
  | triggerNotice (core ctx : Nat)
  | iterationClaim (core : Nat)
  | claimReply (core : Nat) (chunk : Option (Nat × Nat))
  -- translation, residency and the outside
  | pageWalk (die : Nat)
  | residencyRepair (space va : Nat)
  | residencyFatal (space va : Nat) (protect : Bool)
  | spanInboundRequest (link : Fin 24) (r : HomeReq)
  | pcieCompletion (core ctx tok : Nat) (bytes : List Byte)
  | pcieCompletionTimeout (core ctx tok : Nat)
  | trapAnswer (core ctx : Nat) (v : Word)
  | swreq (k : Nat) (v : Word)
  | svcreq (k : Nat) (dst : Reg)
  | svcans (k : Nat) (v : Word)
  | tlbinv (k : Nat) (v : Word)
  | slotroot (k : Nat) (v : Word)
  | spanin (k : Nat) (v : Word)
  | escwait (k : Nat) (v : Word)
  | powerLoss
  | uncorrectableError (key : Nat)
  | sramSelfTest (ok : Bool)
  | dieBridgeTraining (ok : Bool)
deriving DecidableEq, Repr

end Sys2Proof
end

