-- ==== Sys2Proof/WellFormed.lean ====
section
/-! DEFINITION. Which instructions and bundles the encodings of the spec can carry: the decode checks of R80 to R96 that read
encoded fields alone, said of the syntax. -/

namespace Sys2Proof

/-- Specifiers R89 allows as a source. -/
def Reg.isSrc : Reg → Bool
  | .nil => false
  | _ => true

/-- Specifiers R89 allows as a destination. -/
def Reg.isDst : Reg → Bool
  | .l _ | .pc => false
  | _ => true

/-- Pending destinations: w0 to w23 and g0 to g7 (R73). -/
def Reg.isPend : Reg → Bool
  | .w _ | .g _ => true
  | _ => false

/-- The status register of the COPY group: a pending destination, or z (R73). -/
def Reg.isStatus : Reg → Bool
  | .w _ | .g _ | .z => true
  | _ => false

/-- Registers read and written by one bundle (R321, R330). -/
def Reg.isRw : Reg → Bool
  | .w _ | .g _ | .o _ | .i _ => true
  | _ => false

/-- The register fields of the SYNC, COPY and LINK groups (R202, R322). -/
def Reg.isPlain : Reg → Bool
  | .w _ | .g _ | .o _ | .l _ | .i _ => true
  | _ => false

/-- The registers of LKSPARSE's bound (R129) and of QHND (R152). -/
def Reg.isWgo : Reg → Bool
  | .w _ | .g _ | .o _ => true
  | _ => false

/-- The type code of R42. -/
def Ty.code : Ty → Nat
  | .i8 => 0 | .n8 => 1 | .i16 => 2 | .n16 => 3 | .i32 => 4 | .n32 => 5 | .i64 => 6 | .n64 => 7
  | .f16 => 8 | .bf16 => 9 | .f32 => 10 | .e4m3 => 11 | .e5m2 => 12

/-- Codes 13 to 15 name no type (R42). -/
def Ty.ofCode : Nat → Option Ty
  | 0 => some .i8 | 1 => some .n8 | 2 => some .i16 | 3 => some .n16 | 4 => some .i32 | 5 => some .n32
  | 6 => some .i64 | 7 => some .n64 | 8 => some .f16 | 9 => some .bf16 | 10 => some .f32 | 11 => some .e4m3
  | 12 => some .e5m2 | _ => none

/-- The lane width W of R360, in bits. -/
def Ty.width : Ty → Nat
  | .i8 | .n8 | .e4m3 | .e5m2 => 8
  | .i16 | .n16 | .f16 | .bf16 => 16
  | .i32 | .n32 | .f32 => 32
  | .i64 | .n64 => 64

/-- Lanes of a vector: L = 256 / W (R360). -/
def Ty.lanes (t : Ty) : Nat := 256 / t.width

/-- Class I of R360. -/
def Ty.isInt (t : Ty) : Bool := t.code < 8
/-- Class F of R360. -/
def Ty.isFloat : Ty → Bool
  | .f16 | .bf16 | .f32 => true
  | _ => false
/-- Signed: the .i types. -/
def Ty.signed : Ty → Bool
  | .i8 | .i16 | .i32 | .i64 => true
  | _ => false
/-- Class I or F. -/
def Ty.isIF (t : Ty) : Bool := t.code < 11

/-- The counters `sel` names (R195). -/
def selOk (n : Nat) : Bool := n == 0 || (4 ≤ n && n ≤ 11)

/-- The system registers (R355). -/
def sregOk (n : Nat) : Bool := n ≤ 5 || (0x10 ≤ n && n ≤ 0x13) || (0x20 ≤ n && n ≤ 0x28)

/-- Whether the access mark of a system register is "priv" in a team (R355). -/
def sregPriv (n : Nat) (write : Bool) : Bool :=
  if n = 0x22 ∨ n = 0x23 ∨ n = 0x24 ∨ n = 0x26 ∨ n = 0x28 then true
  else write && (n == 0 || (0x10 ≤ n && n ≤ 0x13) || n == 0x20 || n == 0x21 || n == 0x25 || n == 0x27)

def Src2.wf : Src2 → Bool
  | .reg r => r.isSrc
  | _ => true
def AluOps.wf (x : AluOps) : Bool := x.dst.isDst && x.a.isSrc && x.b.wf
def UnOps.wf (x : UnOps) : Bool := x.dst.isDst && x.src.wf
def Addr.wf (a : Addr) : Bool := a.base.isSrc
def ObjRef.wf : ObjRef → Bool
  | .hw r | .fe r | .dw r => r.isPlain
  | .ch sel => selOk sel.toNat
def SparseCfg.wf (c : SparseCfg) : Bool :=
  c.mode.toNat != 3 && c.nm.toNat != 3 && (c.t.toNat != 0 || (c.nm.toNat == 0 && c.mode.toNat == 0))

/-- The source of an RST's datum-word register (R346). -/
def RstKind.hasDw : RstKind → Bool
  | .dw | .accDwF32 | .accDwI32 | .accDwF16 => true
  | _ => false

/-- Which part of a step an instruction is. -/
inductive Slot where
  | s | v | e | event
deriving DecidableEq, Repr

/-- The encodable S-slot operations. -/
def Instr.wfS : Instr → Bool
  | .nop | .ret | .exit | .eret | .trig | .spfence | .cstage _ | .brk _ | .plog .. | .br _ | .call _ | .iter _ => true
  | .ctxstart n _ | .ctxreap n => n.toNat != 0
  | .add x | .sub x | .mul x | .mulh _ x | .div _ x | .rem _ x | .and x | .or x | .xor x | .shl x | .shr x
  | .sra x | .rot x | .min _ x | .max _ x => x.wf
  | .clz x | .popc x | .mov x => x.wf
  | .ltab _ dst a b _ => dst.isRw && a.isSrc && b.isSrc
  | .fsh w32 dst a b sh => dst.isDst && a.isSrc && b.isSrc && (!w32 || sh.toNat < 32)
  | .bfx _ dst a _ _ => dst.isDst && a.isSrc
  | .bfi dst a b _ _ => dst.isDst && a.isSrc && b.isSrc
  | .cmp u c _ _ a b => a.isSrc && b.wf && !(u && (c == .eq || c == .ne))
  | .sel _ _ dst a b => dst.isDst && a.isSrc && b.isSrc
  | .li dst _ | .addpc dst _ => dst.isDst
  | .lih dst _ => dst.isRw
  | .jmp a => a.wf
  | .ctxid dst | .levid dst _ => dst.isDst
  | .ld _ _ dst a => dst.isDst && a.wf
  | .st _ src a => src.isSrc && a.wf
  | .vld _ a | .vst _ a => a.wf
  | .bpack _ v ctl a => v.val % 2 == 0 && ctl.isSrc && a.wf
  | .bunpk _ _ ctl a => ctl.isSrc && a.wf
  | .ldfe _ dst a => dst.isDst && a.wf
  | .stfe _ src a => src.isSrc && a.wf
  | .feinit _ _ a => a.wf
  | .rst k src dw a => src.isSrc && a.wf && (if k.hasDw then dw.isSrc else dw == .w 0)
  | .hold _ dst a => dst.isDst && a.wf
  | .hrel src a | .red _ src a | .dwinit src a | .dwwait src a => src.isSrc && a.wf
  | .xsum t src a => src.isSrc && a.wf && t.isFloat
  | .xread dst a => dst.isPend && a.wf
  | .fence .. => true
  | .acq o | .rls o => o.wf
  | .bind _ base lines o => base.isPlain && o.wf && lines.toNat != 0
  | .unbind _ => true
  | .chwait k src => selOk k.toNat && src.isSrc
  | .chread dst k => selOk k.toNat && dst.isDst
  | .copy dst base _ _ | .gather dst base _ _ _ | .scatter dst base _ => dst.isStatus && base.isPlain
  | .lease dst _ _ => dst.isPend
  | .unlease _ | .lkclose _ | .lkwait .. => true
  | .lkopen dst base _ _ _ => dst.isPend && base.isPlain
  | .lkfeed _ _ base _ _ count => base.isPlain && count.toNat != 0
  | .lksparse _ c bound => c.wf && (match bound with
      | some r => c.mode.toNat == 2 && r.isWgo
      | none => c.mode.toNat != 2)
  | .lkdrain _ f => (match f with
      | .now => true
      | .redrain base _ => base.isPlain)
  | .lkstat dst _ _ => dst.isDst
  | .cbload _ _ base _ | .epload _ _ base _ => base.isSrc
  | .qbind _ => true
  | .qctl _ src => src.isSrc
  | .qhnd _ src => src.isWgo
  | .lvset _ ps => (match ps with
      | some p => p.setp.toNat ≤ 16
      | none => true)
  | .lvread dst _ => dst.isDst
  | .trap dst _ src => dst.isDst && src.isSrc
  | .sysrd dst n => dst.isDst && sregOk n.toNat
  | .syswr n src => src.isSrc && sregOk n.toNat
  | _ => false

/-- The number of parts of the wider vector of a VCVT (R364). -/
def cvtParts (td ts : Ty) : Nat := Max.max td.lanes ts.lanes / Min.min td.lanes ts.lanes

def VAmt.wf (t : Ty) : VAmt → Bool
  | .src _ => true
  | .imm s => s.toNat < t.width

/-- The encodable V-slot operations. -/
def Instr.wfV : Instr → Bool
  | .vnop => true
  | .vadd sat x | .vsub sat x => x.ty.isIF && (!sat || x.ty.isInt)
  | .vmul x | .vfma x | .vmad x | .vmin x | .vmax x => x.ty.isIF
  | .vabs sat x | .vneg sat x => x.ty.isIF && (!sat || x.ty.isInt)
  | .vltab .. | .vsel .. | .vmask .. | .vrcp .. | .vrsq .. | .vexp2 .. => true
  | .vshl t _ _ amt _ | .vshr t _ _ amt _ | .vsra t _ _ amt _ => t.isInt && amt.wf t
  | .vfsh t _ _ _ _ sh => t.isInt && sh.toNat < t.width
  | .vcmp _ t .. => t.isIF
  | .vcvt td _ _ _ ts _ _ part => part.toNat < cvtParts td ts
  | .vdot su x => (x.ty == .i8 || (!su && (x.ty == .n8 || x.ty == .i16 || x.ty == .f16 || x.ty == .bf16)))
  | .vqmul x => x.ty == .i8 || x.ty == .i16 || x.ty == .i32
  | .vreduce _ x | .vscan _ _ _ x => x.ty.isIF
  | .vperm t .. => t.isInt
  | .vbcast t _ src _ => (match src with
      | .lane _ k => k.toNat < t.lanes
      | .o _ => true)
  | .vpopc x => x.ty.isInt
  | _ => false

/-- The target types of ECVT (R140). -/
def ecvtTy : Ty → Bool
  | .i8 | .n8 | .i32 | .f16 | .bf16 | .f32 => true
  | _ => false

/-- The encodable epilogue operations (R139, R140). -/
def Instr.wfE : Instr → Bool
  | .eend | .emov .. | .eadd .. | .esub .. | .emul .. | .efma .. | .emin .. | .emax .. | .eshrImm .. | .eshrReg ..
  | .eqmul .. | .ezpc .. | .erelu .. | .esel .. | .ewr _ => true
  | .ecvt _ _ _ t _ _ => ecvtTy t
  | .eldc f _ sl => !f || sl == .kv
  | _ => false

/-- The events: whole steps of the device, which have no encoding. -/
def Instr.isEvent : Instr → Bool
  | i => match i with
    | .deviceReset | .bootStage .. | .hbmTrainingAttempt .. | .spanLinkTraining .. | .portTraining .. | .upload ..
    | .release .. | .attest .. | .flashwr .. | .reset .. | .mailboxCommandComplete | .registerWrite .. | .kick ..
    | .hostStagingWrite .. | .hostStagingRead .. | .replayBegin .. | .placement | .teamLaunch .. | .teamComplete ..
    | .preemptTrigger | .preemptStopIssue .. | .preemptHoldGrace .. | .holdGraceExpiry .. | .preemptDrain ..
    | .preemptEngineStop .. | .preemptSave .. | .resume .. | .teamTeardown .. | .trapEntry .. | .lightHandlerCall ..
    | .softError .. | .faultLogEntry .. | .replyWrite .. | .pendingCompletionWrite .. | .eagerSpill .. | .windowSpill ..
    | .windowRefill .. | .weightTakesEffect .. | .throttleStepBegin .. | .throttleStepEnd .. | .queueEntryArrive ..
    | .creditReturn .. | .levellingSample .. | .levellingDemandArrive .. | .engineLevelSample .. | .leaseGrant ..
    | .engineWake .. | .eviction .. | .heldOpenTakesEffect .. | .prePass .. | .loaderFetch .. | .kStep .. | .splitDrain ..
    | .drainBegin .. | .epilogueRow .. | .drainRowWrite .. | .engineRestore .. | .injectionSend .. | .outputArbitration ..
    | .escapeEntry .. | .homeRequestArrival .. | .holdGrant .. | .holdResend .. | .remoteStoreArrival .. | .rstFeArrival ..
    | .rstFeResend .. | .writeResend .. | .acknowledgement .. | .wcIdleTimeout .. | .fineGrainBatchIssue ..
    | .hbmRequestServe .. | .hbmRefresh .. | .copyCommandStart .. | .gatherIndexBatch .. | .copyRowWrite ..
    | .copyCommandComplete .. | .scheduleEntryRelease .. | .triggerNotice .. | .iterationClaim .. | .claimReply ..
    | .pageWalk .. | .residencyRepair .. | .residencyFatal .. | .spanInboundRequest .. | .pcieCompletion ..
    | .pcieCompletionTimeout .. | .trapAnswer .. | .swreq .. | .svcreq .. | .svcans .. | .tlbinv .. | .slotroot ..
    | .spanin .. | .escwait .. | .powerLoss | .uncorrectableError .. | .sramSelfTest .. | .dieBridgeTraining .. => true
    | _ => false

/-- How an S operation uses the S extension (R86, R92). -/
inductive ExtRule where
  | needs | never | opt
deriving DecidableEq, Repr

def Src2.extRule : Src2 → ExtRule
  | .reg _ => .opt
  | .s6 _ => .never
  | .i32 _ => .needs

def Off.extRule : Off → ExtRule
  | .short _ => .never
  | .long _ => .needs

/-- The use each S operation makes of its extension; the V slot's and the events' answers are never asked. -/
def Instr.extRule : Instr → ExtRule
  | .add x | .sub x | .mul x | .mulh _ x | .div _ x | .rem _ x | .and x | .or x | .xor x | .shl x | .shr x
  | .sra x | .rot x | .min _ x | .max _ x => x.b.extRule
  | .clz x | .popc x | .mov x => x.src.extRule
  | .cmp _ _ _ _ _ b => b.extRule
  | .br o | .call o => o.extRule
  | .nop | .sel .. | .ret | .exit | .ctxreap _ | .ctxid _ | .levid .. | .jmp _ | .ld .. | .st .. | .vld .. | .vst ..
  | .bpack .. | .bunpk .. | .ldfe .. | .stfe .. | .feinit .. | .rst .. | .hold .. | .hrel .. | .red .. | .xsum ..
  | .xread .. | .dwinit .. | .dwwait .. => .opt
  | _ => .needs

/-- The displacement of an S operation whose extension is optional: the value an absent extension must stand for. -/
def Instr.optDisp : Instr → BitVec 32
  | .jmp a | .ld _ _ _ a | .st _ _ a | .vld _ a | .vst _ a | .bpack _ _ _ a | .bunpk _ _ _ a | .ldfe _ _ a
  | .stfe _ _ a | .feinit _ _ a | .rst _ _ _ a | .hold _ _ a | .hrel _ a | .red _ _ a | .xsum _ _ a | .xread _ a
  | .dwinit _ a | .dwwait _ a => a.disp
  | _ => 0

/-- The V extension's value is fixed by the operation (R87): an operation that needs a nonzero one needs the extension. -/
def Instr.vExt : Instr → Nat
  | .vltab _ _ _ _ tbl => tbl.toNat
  | .vshl _ _ _ amt _ | .vshr _ _ _ amt _ | .vsra _ _ _ amt _ => (match amt with
      | .imm s => s.toNat
      | .src _ => 0)
  | .vfsh _ _ _ _ _ sh => sh.toNat
  | .vcmp c .. => (match c with
      | .eq => 0 | .ne => 1 | .lt => 2 | .le => 3 | .gt => 4 | .ge => 5)
  | .vmask _ _ _ _ tbl => tbl.toNat
  | .vcvt _ _ _ _ ts rm sat part =>
    ts.code + 16 * (match rm with
      | .rne => 0 | .rtz => 1 | .rup => 2 | .rdn => 3) + 64 * sat.toNat + 128 * part.toNat
  | .vreduce op _ => (match op with
      | .add => 0 | .min => 1 | .max => 2)
  | .vscan op ex hm _ => (match op with
      | .add => 0 | .min => 1 | .max => 2) + 4 * ex.toNat + 8 * hm.val
  | .vbcast _ _ src _ => (match src with
      | .lane _ k => k.toNat
      | .o _ => 0)
  | _ => 0

/-- The four shapes of R80. -/
inductive Shape where
  | b64 | b96s | b96v | b128
deriving DecidableEq, Repr

/-- The bundle's length in bytes (R80). -/
def Shape.bytes : Shape → Nat
  | .b64 => 8
  | .b96s | .b96v => 12
  | .b128 => 16
def Shape.hasS : Shape → Bool
  | .b96s | .b128 => true
  | _ => false
def Shape.hasV : Shape → Bool
  | .b96v | .b128 => true
  | _ => false

/-- A bundle: shape, predicate and the two operations (R68, R80, R81). -/
structure Bundle where
  shape : Shape
  pred : Fin 8
  pneg : Bool
  s : Instr
  v : Instr
deriving DecidableEq, Repr

/-- The register fields an S operation reads, each with its lowest bundle bit (R83). -/
def Instr.srcFields : Instr → List (Nat × Reg)
  | .add x | .sub x | .mul x | .mulh _ x | .div _ x | .rem _ x | .and x | .or x | .xor x | .shl x | .shr x
  | .sra x | .rot x | .min _ x | .max _ x => (20, x.a) :: (match x.b with
      | .reg r => [(26, r)]
      | _ => [])
  | .clz x | .popc x | .mov x => (match x.src with
      | .reg r => [(20, r)]
      | _ => [])
  | .cmp _ _ _ _ a b => (20, a) :: (match b with
      | .reg r => [(26, r)]
      | _ => [])
  | .ltab _ dst a b _ => [(14, dst), (20, a), (26, b)]
  | .fsh _ _ a b _ | .bfi _ a b _ _ | .sel _ _ _ a b => [(20, a), (26, b)]
  | .bfx _ _ a _ _ => [(20, a)]
  | .lih dst _ => [(14, dst)]
  | .jmp a | .ld _ _ _ a | .vld _ a | .vst _ a | .ldfe _ _ a | .feinit _ _ a | .hold _ _ a | .xread _ a => [(20, a.base)]
  | .st _ src a | .stfe _ src a | .hrel src a | .red _ src a | .xsum _ src a | .dwinit src a | .dwwait src a =>
    [(14, src), (20, a.base)]
  | .bpack _ _ ctl a | .bunpk _ _ ctl a => [(20, a.base), (26, ctl)]
  | .rst k src dw a => (14, src) :: (20, a.base) :: (if k.hasDw then [(26, dw)] else [])
  | .acq o | .rls o => (match o with
      | .hw r | .fe r | .dw r => [(20, r)]
      | .ch _ => [])
  | .bind _ base _ o => (20, base) :: (match o with
      | .hw r | .fe r | .dw r => [(26, r)]
      | .ch _ => [])
  | .chwait _ src | .qctl _ src | .qhnd _ src | .trap _ _ src | .syswr _ src => [(20, src)]
  | .copy _ base _ _ | .gather _ base _ _ _ | .scatter _ base _ | .lkopen _ base _ _ _ | .lkfeed _ _ base _ _ _
  | .cbload _ _ base _ | .epload _ _ base _ => [(20, base)]
  | .lksparse _ _ bound => (match bound with
      | some r => [(20, r)]
      | none => [])
  | .lkdrain _ f => (match f with
      | .now => []
      | .redrain base _ => [(20, base)])
  | _ => []

/-- The register an S operation writes, if it has a destination field. -/
def Instr.dstReg : Instr → Option Reg
  | .add x | .sub x | .mul x | .mulh _ x | .div _ x | .rem _ x | .and x | .or x | .xor x | .shl x | .shr x
  | .sra x | .rot x | .min _ x | .max _ x => some x.dst
  | .clz x | .popc x | .mov x => some x.dst
  | .ltab _ dst _ _ _ | .fsh _ dst _ _ _ | .bfx _ dst _ _ _ | .bfi dst _ _ _ _ | .sel _ _ dst _ _ | .li dst _
  | .lih dst _ | .addpc dst _ | .ctxid dst | .levid dst _ | .ld _ _ dst _ | .ldfe _ dst _ | .hold _ dst _ | .xread dst _
  | .chread dst _ | .copy dst _ _ _ | .gather dst _ _ _ _ | .scatter dst _ _ | .lease dst _ _ | .lkopen dst _ _ _ _
  | .lkstat dst _ _ | .lvread dst _ | .trap dst _ _ | .sysrd dst _ => some dst
  | .qctl d _ => some (.q d)
  | _ => none

/-- The vector register an S operation writes (R68). -/
def Instr.sVecDst : Instr → Option (Fin 16)
  | .vld v _ | .bunpk _ v _ _ => some v
  | _ => none

/-- The vector register a V operation writes. -/
def Instr.vecDst : Instr → Option (Fin 16)
  | .vadd _ x | .vsub _ x | .vmul x | .vfma x | .vmad x | .vmin x | .vmax x | .vdot _ x | .vqmul x => some x.vd
  | .vabs _ x | .vneg _ x | .vreduce _ x | .vscan _ _ _ x | .vpopc x => some x.vd
  | .vltab vd _ _ _ _ | .vsel vd _ _ _ | .vrcp vd _ _ | .vrsq vd _ _ | .vexp2 vd _ _ => some vd
  | .vshl _ vd _ _ _ | .vshr _ vd _ _ _ | .vsra _ vd _ _ _ | .vfsh _ vd _ _ _ _ | .vperm _ vd _ _ _
  | .vbcast _ vd _ _ => some vd
  | .vcvt _ vd _ _ _ _ _ _ => some vd
  | _ => none

/-- The second field of a list that names one queue register twice (R90). -/
def dupQueue : List (Nat × Reg) → Option Nat
  | [] => none
  | (_, r) :: fs =>
    match r, fs.find? (fun f => f.2 = r) with
    | .q _, some f => some f.1
    | _, _ => dupQueue fs

/-- Step 7 of R98: the lowest bit of the field that names a destination of both slots, or a queue register twice. -/
def bundleClash (s v : Instr) : Option Nat :=
  match s.sVecDst, v.vecDst with
  | some a, some b => if a = b then some 42 else dupQueue s.srcFields
  | _, _ => dupQueue s.srcFields

/-- A bundle the encodings can carry, on a compute core. -/
def Bundle.wf (b : Bundle) : Bool :=
  b.s.wfS && b.v.wfV && !(b.pneg && b.pred == 0)
    && (match b.s.extRule with
        | .needs => b.shape.hasS
        | .never => !b.shape.hasS
        | .opt => b.shape.hasS || b.s.optDisp == 0)
    && (b.shape.hasV || b.v.vExt == 0)
    && (bundleClash b.s b.v).isNone
    && (match b.s with
        | .sysrd _ n => !sregPriv n.toNat false
        | .syswr n _ => !sregPriv n.toNat true
        | _ => true)

/-- Well-formedness of one instruction: an encodable operation of its slot, or an event. -/
def Instr.wf (i : Instr) : Bool := i.wfS || i.wfV || i.wfE || i.isEvent

end Sys2Proof
end

