-- ==== Sys2Proof/Decode.lean ====
section
/-! DEFINITION. Decoding and encoding: the checks of R98 steps 3 to 8 in their order, each failure with the reason, part and
position of R99, and the encoder written from the same tables. -/

namespace Sys2Proof

/-- Why a bundle is no instruction: the fault R98 gives. -/
inductive DecErr where
  /-- F_FETCHALIGN: the bundle crosses its fetch block (step 4). -/
  | cross
  /-- F_ILLEGAL with reason, part and pos (R99). -/
  | illegal (reason part pos : Nat)
  /-- F_PRIV (step 8). -/
  | priv
deriving DecidableEq, Repr

abbrev Dec (α : Type) := Except DecErr α

/-- The check `c`, and what it refuses with. -/
def need (c : Bool) (reason part pos : Nat) : Dec Unit :=
  if c then .ok () else .error (.illegal reason part pos)

def okOr {α : Type} (x : Option α) (reason part pos : Nat) : Dec α :=
  match x with
  | some a => .ok a
  | none => .error (.illegal reason part pos)

/-! ### Register specifiers (R89) -/

/-- The register a specifier names; 54 to 62 name none. -/
def Reg.ofCode (n : Nat) : Option Reg :=
  if h : n < 24 then some (.w ⟨n, h⟩)
  else if n < 32 then some (.g (Fin.ofNat 8 (n - 24)))
  else if n < 40 then some (.o (Fin.ofNat 8 (n - 32)))
  else if n < 44 then some (.l (Fin.ofNat 4 (n - 40)))
  else if n < 48 then some (.i (Fin.ofNat 4 (n - 44)))
  else match n with
    | 48 => some (.q .n) | 49 => some (.q .e) | 50 => some (.q .s) | 51 => some (.q .w)
    | 52 => some .z | 53 => some .pc | 63 => some .nil
    | _ => none

/-- The specifier of a register. -/
def Reg.code : Reg → Nat
  | .w n => n.val
  | .g n => 24 + n.val
  | .o n => 32 + n.val
  | .l n => 40 + n.val
  | .i n => 44 + n.val
  | .q .n => 48 | .q .e => 49 | .q .s => 50 | .q .w => 51
  | .z => 52 | .pc => 53 | .nil => 63

/-- A specifier that must name a register `p` allows; on a steward core 44 to 51 are refused (R97). -/
def decReg (st : Bool) (p : Reg → Bool) (pos n : Nat) : Dec Reg :=
  match Reg.ofCode n with
  | none => .error (.illegal 0x07 1 pos)
  | some r =>
    if st && (44 ≤ n && n ≤ 51) then .error (.illegal 0x0D 1 pos)
    else if p r then .ok r else .error (.illegal 0x07 1 pos)

def Dir.code : Dir → Nat
  | .e => 0 | .s => 1 | .w => 2 | .n => 3
def Dir.ofCode : Nat → Dir
  | 0 => .e | 1 => .s | 2 => .w | _ => .n
def Rm.code : Rm → Nat
  | .rne => 0 | .rtz => 1 | .rup => 2 | .rdn => 3
def Rm.ofCode : Nat → Rm
  | 0 => .rne | 1 => .rtz | 2 => .rup | _ => .rdn
def Cond.code : Cond → Nat
  | .eq => 0 | .ne => 1 | .lt => 2 | .le => 3 | .gt => 4 | .ge => 5
def Cond.ofCode : Nat → Option Cond
  | 0 => some .eq | 1 => some .ne | 2 => some .lt | 3 => some .le | 4 => some .gt | 5 => some .ge | _ => none
def RedOp.code : RedOp → Nat
  | .addI32 => 0 | .addI64 => 1 | .minI32 => 2 | .minI64 => 3 | .minN32 => 4 | .minN64 => 5 | .maxI32 => 6
  | .maxI64 => 7 | .maxN32 => 8 | .maxN64 => 9 | .and => 10 | .or => 11 | .xor => 12 | .faddF32 => 13
  | .fminF32 => 14 | .fmaxF32 => 15
def RedOp.ofCode : Nat → RedOp
  | 0 => .addI32 | 1 => .addI64 | 2 => .minI32 | 3 => .minI64 | 4 => .minN32 | 5 => .minN64 | 6 => .maxI32
  | 7 => .maxI64 | 8 => .maxN32 | 9 => .maxN64 | 10 => .and | 11 => .or | 12 => .xor | 13 => .faddF32
  | 14 => .fminF32 | _ => .fmaxF32
def RstKind.code : RstKind → Nat
  | .fe => 0 | .dw => 1 | .accF32 => 2 | .accI32 => 3 | .accF16 => 4 | .accDwF32 => 5 | .accDwI32 => 6 | .accDwF16 => 7
def RstKind.ofCode : Nat → RstKind
  | 0 => .fe | 1 => .dw | 2 => .accF32 | 3 => .accI32 | 4 => .accF16 | 5 => .accDwF32 | 6 => .accDwI32 | _ => .accDwF16
def Scope.code : Scope → Nat
  | .core => 0 | .die => 1 | .dev => 2 | .sys => 3
def Scope.ofCode : Nat → Scope
  | 0 => .core | 1 => .die | 2 => .dev | _ => .sys
def FenceKind.code : FenceKind → Nat
  | .r => 0 | .a => 1 | .x => 2
def LkCond.code : LkCond → Nat
  | .done => 0 | .ready => 1 | .prod => 2 | .idle => 3
def LkCond.ofCode : Nat → Option LkCond
  | 0 => some .done | 1 => some .ready | 2 => some .prod | 3 => some .idle | _ => none
def RedKind.code : RedKind → Nat
  | .add => 0 | .min => 1 | .max => 2
def RedKind.ofCode : Nat → Option RedKind
  | 0 => some .add | 1 => some .min | 2 => some .max | _ => none

/-! ### The S slot -/

/-- The fields of an S short op (R83) and its extension, when present. -/
structure SRaw where
  op : Nat
  dst : Nat
  a : Nat
  b : Nat
  func : Nat
  ext : Option Nat
deriving DecidableEq, Repr

/-- The extension's value; 0 when absent. -/
def SRaw.x (r : SRaw) : Nat := r.ext.getD 0

/-- The short op of R83. -/
def SRaw.short (r : SRaw) : Nat := r.op + r.dst * 2 ^ 6 + r.a * 2 ^ 12 + r.b * 2 ^ 18 + r.func * 2 ^ 24

def SRaw.ofShort (w : Nat) (ext : Option Nat) : SRaw :=
  ⟨fld w 5 0, fld w 11 6, fld w 17 12, fld w 23 18, fld w 27 24, ext⟩

/-- Fields of the short op that must be zero, each with its lowest bundle bit. -/
def zeroS : List (Nat × Nat) → Dec Unit
  | [] => .ok ()
  | (pos, v) :: fs => if v = 0 then zeroS fs else .error (.illegal 0x09 1 pos)

/-- A required extension is present (R92; reason 0x0A, pos 0). -/
def needExt (r : SRaw) : Dec Unit := need r.ext.isSome 0x0A 1 0

/-- Class A operands; `f21` are the values of func<2:1> the entry lists (R92, R280, R333), `fpos` the position of the func
field an unlisted value is refused for. -/
def decAlu (st : Bool) (r : SRaw) (f21 : List Nat) (fpos : Nat := 33) : Dec AluOps := do
  let dst ← decReg st Reg.isDst 14 r.dst
  let a ← decReg st Reg.isSrc 20 r.a
  if fld r.func 3 3 = 0 then do
    let b ← decReg st Reg.isSrc 26 r.b
    need (f21.contains (fld r.func 2 1)) 0x09 1 fpos
    zeroS [(64, r.x)]
    return ⟨fld r.func 0 0 == 1, dst, a, .reg b⟩
  else
    match r.ext with
    | none => do
      need (f21.contains (fld r.func 2 1)) 0x09 1 fpos
      return ⟨fld r.func 0 0 == 1, dst, a, .s6 (BitVec.ofNat 6 r.b)⟩
    | some x => do
      zeroS [(26, r.b)]
      need (f21.contains (fld r.func 2 1)) 0x09 1 fpos
      return ⟨fld r.func 0 0 == 1, dst, a, .i32 (BitVec.ofNat 32 x)⟩

/-- Class A, one source (R92). -/
def decUn (st : Bool) (r : SRaw) : Dec UnOps := do
  let dst ← decReg st Reg.isDst 14 r.dst
  if fld r.func 3 3 = 0 then do
    let a ← decReg st Reg.isSrc 20 r.a
    zeroS [(26, r.b), (33, fld r.func 2 1), (64, r.x)]
    return ⟨fld r.func 0 0 == 1, dst, .reg a⟩
  else do
    zeroS [(20, r.a)]
    match r.ext with
    | none => do
      zeroS [(33, fld r.func 2 1)]
      return ⟨fld r.func 0 0 == 1, dst, .s6 (BitVec.ofNat 6 r.b)⟩
    | some x => do
      zeroS [(26, r.b), (33, fld r.func 2 1)]
      return ⟨fld r.func 0 0 == 1, dst, .i32 (BitVec.ofNat 32 x)⟩

/-- The condition of CMP; EQ and NE have no unsigned form (R296). -/
def decCond (r : SRaw) (u : Bool) : Dec Cond := do
  let cc ← okOr (Cond.ofCode (fld r.dst 5 3)) 0x09 1 17
  need (!(u && (cc == .eq || cc == .ne))) 0x09 1 17
  return cc

/-- CMP (R296). -/
def decCmp (st : Bool) (r : SRaw) : Dec Instr := do
  let a ← decReg st Reg.isSrc 20 r.a
  let u := fld r.func 1 1 == 1
  let pd := Fin.ofNat 8 (fld r.dst 2 0)
  if fld r.func 3 3 = 0 then do
    let b ← decReg st Reg.isSrc 26 r.b
    let cc ← decCond r u
    zeroS [(34, fld r.func 2 2), (64, r.x)]
    return .cmp u cc pd (fld r.func 0 0 == 1) a (.reg b)
  else do
    let cc ← decCond r u
    match r.ext with
    | none => do
      zeroS [(34, fld r.func 2 2)]
      return .cmp u cc pd (fld r.func 0 0 == 1) a (.s6 (BitVec.ofNat 6 r.b))
    | some x => do
      zeroS [(26, r.b), (34, fld r.func 2 2)]
      return .cmp u cc pd (fld r.func 0 0 == 1) a (.i32 (BitVec.ofNat 32 x))

/-- The offset of BR and CALL (R91, R288). -/
def decOff (r : SRaw) : Dec Off :=
  match r.ext with
  | none => do
    zeroS [(32, r.func)]
    return .short (BitVec.ofNat 18 (r.dst + r.a * 64 + r.b * 4096))
  | some x => do
    zeroS [(14, r.dst), (20, r.a), (26, r.b), (32, r.func)]
    return .long (BitVec.ofNat 32 x)

/-- A class M address (R92). -/
def decAddr (st : Bool) (r : SRaw) : Dec Addr := do
  let base ← decReg st Reg.isSrc 20 r.a
  return ⟨base, BitVec.ofNat 32 r.x⟩

/-- The class A opcodes. -/
def decodeA (st : Bool) (r : SRaw) : Dec (Option Instr) :=
  match r.op with
  | 0x01 => do return some (.add (← decAlu st r [0]))
  | 0x02 => do return some (.sub (← decAlu st r [0]))
  | 0x03 => do return some (.mul (← decAlu st r [0]))
  | 0x04 => do
    let x ← decAlu st r [0, 1, 2]
    return some (.mulh (match fld r.func 2 1 with
      | 0 => .ss | 1 => .uu | _ => .su) x)
  | 0x05 => do return some (.div (fld r.func 1 1 == 1) (← decAlu st r [0, 1] 34))
  | 0x06 => do return some (.rem (fld r.func 1 1 == 1) (← decAlu st r [0, 1] 34))
  | 0x07 => do return some (.and (← decAlu st r [0]))
  | 0x08 => do return some (.or (← decAlu st r [0]))
  | 0x09 => do return some (.xor (← decAlu st r [0]))
  | 0x0B => do return some (.shl (← decAlu st r [0]))
  | 0x0C => do return some (.shr (← decAlu st r [0]))
  | 0x0D => do return some (.sra (← decAlu st r [0]))
  | 0x0E => do return some (.rot (← decAlu st r [0]))
  | 0x10 => do return some (.min (fld r.func 1 1 == 1) (← decAlu st r [0, 1]))
  | 0x11 => do return some (.max (fld r.func 1 1 == 1) (← decAlu st r [0, 1]))
  | 0x12 => do return some (.clz (← decUn st r))
  | 0x13 => do return some (.popc (← decUn st r))
  | 0x16 => do return some (← decCmp st r)
  | 0x18 => do return some (.mov (← decUn st r))
  | _ => .ok none

/-- Classes L, E, B and F. -/
def decodeX (st : Bool) (r : SRaw) : Dec (Option Instr) :=
  let x := r.x
  match r.op with
  | 0x00 => do
    zeroS [(14, r.dst), (20, r.a), (26, r.b), (32, r.func), (64, x)]
    return some .nop
  | 0x0A => do
    let dst ← decReg st Reg.isRw 14 r.dst
    let a ← decReg st Reg.isSrc 20 r.a
    let b ← decReg st Reg.isSrc 26 r.b
    needExt r
    zeroS [(33, fld r.func 3 1), (72, fld x 31 8)]
    return some (.ltab (fld r.func 0 0 == 1) dst a b (BitVec.ofNat 8 (fld x 7 0)))
  | 0x0F => do
    let dst ← decReg st Reg.isDst 14 r.dst
    let a ← decReg st Reg.isSrc 20 r.a
    let b ← decReg st Reg.isSrc 26 r.b
    needExt r
    let w32 := fld r.func 0 0 == 1
    zeroS [(33, fld r.func 3 1), (69, if w32 then fld x 5 5 else 0), (70, fld x 31 6)]
    return some (.fsh w32 dst a b (BitVec.ofNat 6 (fld x 5 0)))
  | 0x14 => do
    let dst ← decReg st Reg.isDst 14 r.dst
    let a ← decReg st Reg.isSrc 20 r.a
    needExt r
    zeroS [(26, r.b), (32, r.func), (77, fld x 31 13)]
    return some (.bfx (fld x 12 12 == 1) dst a (BitVec.ofNat 6 (fld x 5 0)) (BitVec.ofNat 6 (fld x 11 6)))
  | 0x15 => do
    let dst ← decReg st Reg.isDst 14 r.dst
    let a ← decReg st Reg.isSrc 20 r.a
    let b ← decReg st Reg.isSrc 26 r.b
    needExt r
    zeroS [(32, r.func), (76, fld x 12 12), (77, fld x 31 13)]
    return some (.bfi dst a b (BitVec.ofNat 6 (fld x 5 0)) (BitVec.ofNat 6 (fld x 11 6)))
  | 0x17 => do
    let dst ← decReg st Reg.isDst 14 r.dst
    let a ← decReg st Reg.isSrc 20 r.a
    let b ← decReg st Reg.isSrc 26 r.b
    zeroS [(64, x)]
    return some (.sel (fld r.func 3 3 == 1) (Fin.ofNat 8 (fld r.func 2 0)) dst a b)
  | 0x19 => do
    let dst ← decReg st Reg.isDst 14 r.dst
    needExt r
    zeroS [(20, r.a), (26, r.b), (32, r.func)]
    return some (.li dst (BitVec.ofNat 32 x))
  | 0x1A => do
    let dst ← decReg st Reg.isRw 14 r.dst
    needExt r
    zeroS [(20, r.a), (26, r.b), (32, r.func)]
    return some (.lih dst (BitVec.ofNat 32 x))
  | 0x1B => do
    let dst ← decReg st Reg.isDst 14 r.dst
    needExt r
    zeroS [(20, r.a), (26, r.b), (32, r.func)]
    return some (.addpc dst (BitVec.ofNat 32 x))
  | 0x1C => do
    needExt r
    zeroS [(14, r.dst), (20, r.a), (26, r.b), (32, r.func), (84, fld x 31 20)]
    return some (.plog (Fin.ofNat 8 (fld x 10 8)) (Fin.ofNat 8 (fld x 13 11)) (Fin.ofNat 8 (fld x 16 14))
      (Fin.ofNat 8 (fld x 19 17)) (BitVec.ofNat 8 (fld x 7 0)))
  | 0x1D => do return some (.br (← decOff r))
  | 0x1E => do
    let a ← decAddr st r
    zeroS [(14, r.dst), (26, r.b), (32, r.func)]
    return some (.jmp a)
  | 0x1F => do return some (.call (← decOff r))
  | 0x20 => do
    zeroS [(14, r.dst), (20, r.a), (26, r.b), (32, r.func), (64, x)]
    return some .ret
  | 0x21 => do
    needExt r
    zeroS [(14, r.dst), (20, r.a), (26, r.b), (32, r.func)]
    return some (.iter (BitVec.ofNat 32 x))
  | 0x22 => do
    zeroS [(14, r.dst), (20, r.a), (26, r.b), (32, r.func), (64, x)]
    return some .exit
  | 0x23 => do
    needExt r
    zeroS [(14, r.dst), (20, r.a), (26, r.b)]
    need (r.func != 0) 0x0C 1 32
    return some (.ctxstart (BitVec.ofNat 4 r.func) (BitVec.ofNat 32 x))
  | 0x24 => do
    zeroS [(14, r.dst), (20, r.a), (26, r.b), (64, x)]
    need (r.func != 0) 0x0C 1 32
    return some (.ctxreap (BitVec.ofNat 4 r.func))
  | 0x25 => do
    let dst ← decReg st Reg.isDst 14 r.dst
    zeroS [(20, r.a), (26, r.b), (32, r.func), (64, x)]
    return some (.ctxid dst)
  | 0x26 => do
    let dst ← decReg st Reg.isDst 14 r.dst
    zeroS [(20, r.a), (26, r.b), (35, fld r.func 3 3), (64, x)]
    return some (.levid dst (BitVec.ofNat 3 (fld r.func 2 0)))
  | _ => .ok none

/-- Class M. -/
def decodeM (st : Bool) (r : SRaw) : Dec (Option Instr) :=
  match r.op with
  | 0x27 => do
    let dst ← decReg st Reg.isDst 14 r.dst
    let a ← decAddr st r
    zeroS [(26, r.b)]
    return some (.ld (fld r.func 3 3 == 1) (BitVec.ofNat 3 (fld r.func 2 0)) dst a)
  | 0x28 => do
    let src ← decReg st Reg.isSrc 14 r.dst
    let a ← decAddr st r
    zeroS [(26, r.b), (35, fld r.func 3 3)]
    return some (.st (BitVec.ofNat 3 (fld r.func 2 0)) src a)
  | 0x29 => do
    let a ← decAddr st r
    zeroS [(18, fld r.dst 5 4), (26, r.b), (32, r.func)]
    return some (.vld (Fin.ofNat 16 (fld r.dst 3 0)) a)
  | 0x2A => do
    let a ← decAddr st r
    zeroS [(18, fld r.dst 5 4), (26, r.b), (32, r.func)]
    return some (.vst (Fin.ofNat 16 (fld r.dst 3 0)) a)
  | 0x2B => do
    need (fld r.dst 0 0 == 0) 0x07 1 14
    let a ← decAddr st r
    let ctl ← decReg st Reg.isSrc 26 r.b
    zeroS [(18, fld r.dst 5 4), (33, fld r.func 3 1)]
    return some (.bpack (fld r.func 0 0 == 1) (Fin.ofNat 16 (fld r.dst 3 0)) ctl a)
  | 0x2C => do
    let a ← decAddr st r
    let ctl ← decReg st Reg.isSrc 26 r.b
    let t ← okOr (Ty.ofCode r.func) 0x08 1 32
    zeroS [(18, fld r.dst 5 4)]
    return some (.bunpk t (Fin.ofNat 16 (fld r.dst 3 0)) ctl a)
  | 0x2D => do
    need (!st) 0x0D 1 8
    let dst ← decReg st Reg.isDst 14 r.dst
    let a ← decAddr st r
    need (r.func == 6 || r.func == 7) 0x08 1 32
    zeroS [(26, r.b)]
    return some (.ldfe (r.func == 7) dst a)
  | 0x2E => do
    need (!st) 0x0D 1 8
    let src ← decReg st Reg.isSrc 14 r.dst
    let a ← decAddr st r
    need (r.func == 6 || r.func == 7) 0x08 1 32
    zeroS [(26, r.b)]
    return some (.stfe (r.func == 7) src a)
  | 0x2F => do
    need (!st) 0x0D 1 8
    let a ← decAddr st r
    zeroS [(14, r.dst)]
    return some (.feinit (fld r.func 3 3 == 1) (BitVec.ofNat 9 (fld r.func 2 0 * 64 + r.b)) a)
  | 0x30 => do
    need (!st) 0x0D 1 8
    let k := RstKind.ofCode (fld r.func 2 0)
    let src ← decReg st Reg.isSrc 14 r.dst
    let a ← decAddr st r
    if r.func < 8 && k.hasDw then do
      let dw ← decReg st Reg.isSrc 26 r.b
      return some (.rst k src dw a)
    else do
      zeroS [(26, r.b)]
      need (r.func < 8) 0x09 1 32
      return some (.rst k src (.w 0) a)
  | 0x31 => do
    let dst ← decReg st Reg.isDst 14 r.dst
    let a ← decAddr st r
    zeroS [(26, r.b), (33, fld r.func 3 1)]
    return some (.hold (fld r.func 0 0 == 1) dst a)
  | 0x32 => do
    let src ← decReg st Reg.isSrc 14 r.dst
    let a ← decAddr st r
    zeroS [(26, r.b), (32, r.func)]
    return some (.hrel src a)
  | 0x33 => do
    let src ← decReg st Reg.isSrc 14 r.dst
    let a ← decAddr st r
    zeroS [(26, r.b)]
    return some (.red (RedOp.ofCode r.func) src a)
  | 0x34 => do
    let src ← decReg st Reg.isSrc 14 r.dst
    let a ← decAddr st r
    let t ← okOr (Ty.ofCode r.func) 0x08 1 32
    need t.isFloat 0x08 1 32
    zeroS [(26, r.b)]
    return some (.xsum t src a)
  | 0x35 => do
    let dst ← decReg st Reg.isPend 14 r.dst
    let a ← decAddr st r
    zeroS [(26, r.b), (32, r.func)]
    return some (.xread dst a)
  | 0x36 => do
    need (!st) 0x0D 1 8
    let src ← decReg st Reg.isSrc 14 r.dst
    let a ← decAddr st r
    zeroS [(26, r.b), (32, r.func)]
    return some (.dwinit src a)
  | 0x37 => do
    need (!st) 0x0D 1 8
    let src ← decReg st Reg.isSrc 14 r.dst
    let a ← decAddr st r
    zeroS [(26, r.b), (32, r.func)]
    return some (.dwwait src a)
  | _ => .ok none

/-- The sync object of ACQ, RLS and BIND: the register field `v` at `pos` (R202). Its `sel` field is checked by `selCheck`, and
the register field of kind 3, rsv 0, by `objZero`. -/
def decObj (st : Bool) (x pos v : Nat) : Dec ObjRef :=
  match fld x 7 6 with
  | 0 => do return .hw (← decReg st Reg.isPlain pos v)
  | 1 => do return .fe (← decReg st Reg.isPlain pos v)
  | 2 => do return .dw (← decReg st Reg.isPlain pos v)
  | _ => return .ch (BitVec.ofNat 4 (fld x 11 8))

def objZero (x v : Nat) : Nat := if fld x 7 6 = 3 then v else 0

/-- A reserved `sel` (R195). -/
def selCheck (x : Nat) : Dec Unit := need (fld x 7 6 != 3 || selOk (fld x 11 8)) 0x09 1 72

/-- The `sel` field of ACQ, RLS and BIND is rsv 0 for kinds 0 to 2. -/
def objSelZero (x : Nat) : List (Nat × Nat) := if fld x 7 6 = 3 then [] else [(72, fld x 11 8)]

/-- The SYNC group (R94, R195, R202). -/
def decodeSync (st : Bool) (r : SRaw) : Dec Instr :=
  let x := r.x
  match r.func with
  | 0 => do
    needExt r
    zeroS [(14, r.dst), (20, r.a), (26, r.b), (68, fld x 31 4)]
    match fld x 1 0 with
    | 0 => return .fence .r (Scope.ofCode (fld x 3 2))
    | 1 => return .fence .a (Scope.ofCode (fld x 3 2))
    | 2 => return .fence .x (Scope.ofCode (fld x 3 2))
    | _ => .error (.illegal 0x09 1 64)
  | 1 => do
    need (!st) 0x0D 1 32
    needExt r
    zeroS [(14, r.dst), (20, r.a), (26, r.b), (64, x)]
    return .spfence
  | 2 => do
    let o ← decObj st x 20 r.a
    needExt r
    zeroS ([(14, r.dst), (20, objZero x r.a), (26, r.b), (64, fld x 5 0)] ++ objSelZero x ++ [(76, fld x 31 12)])
    selCheck x
    return .acq o
  | 3 => do
    let o ← decObj st x 20 r.a
    needExt r
    zeroS ([(14, r.dst), (20, objZero x r.a), (26, r.b), (64, fld x 5 0)] ++ objSelZero x ++ [(76, fld x 31 12)])
    selCheck x
    return .rls o
  | 4 => do
    need (!st) 0x0D 1 32
    let base ← decReg st Reg.isPlain 20 r.a
    let o ← decObj st x 26 r.b
    needExt r
    zeroS ([(14, r.dst), (26, objZero x r.b), (68, fld x 5 4)] ++ objSelZero x)
    selCheck x
    need (fld x 31 12 != 0) 0x0C 1 76
    return .bind (BitVec.ofNat 4 (fld x 3 0)) base (BitVec.ofNat 20 (fld x 31 12)) o
  | 5 => do
    need (!st) 0x0D 1 32
    needExt r
    zeroS [(14, r.dst), (20, r.a), (26, r.b), (68, fld x 31 4)]
    return .unbind (BitVec.ofNat 4 (fld x 3 0))
  | 6 => do
    need (!st) 0x0D 1 32
    needExt r
    zeroS [(14, r.dst), (20, r.a), (26, r.b), (64, x)]
    return .trig
  | 7 => do
    need (!st) 0x0D 1 32
    let src ← decReg st Reg.isSrc 20 r.a
    needExt r
    zeroS [(14, r.dst), (26, r.b), (68, fld x 31 4)]
    need (selOk (fld x 3 0)) 0x09 1 64
    return .chwait (BitVec.ofNat 4 (fld x 3 0)) src
  | 8 => do
    need (!st) 0x0D 1 32
    let dst ← decReg st Reg.isDst 14 r.dst
    needExt r
    zeroS [(20, r.a), (26, r.b), (68, fld x 31 4)]
    need (selOk (fld x 3 0)) 0x09 1 64
    return .chread dst (BitVec.ofNat 4 (fld x 3 0))
  | _ => .error (.illegal 0x05 1 32)

/-- The COPY group (R185). -/
def decodeCopy (st : Bool) (r : SRaw) : Dec Instr :=
  let x := r.x
  match r.func with
  | 0 => do
    need (!st) 0x0D 1 8
    let dst ← decReg st Reg.isStatus 14 r.dst
    let base ← decReg st Reg.isPlain 20 r.a
    needExt r
    zeroS [(26, r.b), (80, fld x 23 16), (89, fld x 31 25)]
    return .copy dst base (BitVec.ofNat 16 (fld x 15 0)) (fld x 24 24 == 1)
  | 1 => do
    need (!st) 0x0D 1 8
    let dst ← decReg st Reg.isStatus 14 r.dst
    let base ← decReg st Reg.isPlain 20 r.a
    needExt r
    zeroS [(26, r.b), (89, fld x 31 25)]
    return .gather dst base (BitVec.ofNat 16 (fld x 15 0)) (fld x 24 24 == 1) (BitVec.ofNat 8 (fld x 23 16))
  | 2 => do
    need (!st) 0x0D 1 8
    let dst ← decReg st Reg.isStatus 14 r.dst
    let base ← decReg st Reg.isPlain 20 r.a
    needExt r
    zeroS [(26, r.b), (80, fld x 31 16)]
    return .scatter dst base (BitVec.ofNat 16 (fld x 15 0))
  | 3 => do
    need (!st) 0x0D 1 8
    needExt r
    zeroS [(14, r.dst), (20, r.a), (26, r.b), (80, fld x 31 16)]
    return .cstage (BitVec.ofNat 16 (fld x 15 0))
  | _ => .error (.illegal 0x05 1 32)

/-- LKSPARSE (R129). -/
def decSparse (st : Bool) (r : SRaw) : Dec Instr := do
  let x := r.x
  let d := Dir.ofCode (fld x 1 0)
  let c : SparseCfg := ⟨BitVec.ofNat 2 (fld x 11 10), BitVec.ofNat 2 (fld x 9 8), BitVec.ofNat 2 (fld x 7 6), fld x 4 4 == 1⟩
  if r.ext.isSome && fld x 11 10 = 2 && fld x 9 8 != 0 then do
    let b ← decReg st Reg.isWgo 20 r.a
    zeroS [(14, r.dst), (26, r.b), (66, fld x 3 2), (69, fld x 5 5)]
    need (fld x 7 6 != 3) 0x09 1 70
    zeroS [(76, fld x 31 12)]
    return .lksparse d c (some b)
  else do
    needExt r
    zeroS [(14, r.dst), (20, r.a), (26, r.b), (66, fld x 3 2), (69, fld x 5 5)]
    need (fld x 7 6 != 3) 0x09 1 70
    if fld x 9 8 = 0 then zeroS [(70, fld x 7 6), (74, fld x 11 10)] else pure ()
    need (fld x 11 10 != 3) 0x09 1 74
    zeroS [(76, fld x 31 12)]
    return .lksparse d c none

/-- The LINK group (R129, R292, R305, R322). -/
def decodeLink (st : Bool) (r : SRaw) : Dec Instr :=
  let x := r.x
  let d := Dir.ofCode (fld x 1 0)
  if st && r.func ≤ 10 then .error (.illegal 0x0D 1 8) else
  match r.func with
  | 0 => do
    let dst ← decReg st Reg.isPend 14 r.dst
    needExt r
    zeroS [(20, r.a), (26, r.b), (68, fld x 31 4)]
    return .lease dst d (BitVec.ofNat 2 (fld x 3 2))
  | 1 => do
    needExt r
    zeroS [(14, r.dst), (20, r.a), (26, r.b), (66, fld x 31 2)]
    return .unlease d
  | 2 => do
    let dst ← decReg st Reg.isPend 14 r.dst
    let base ← decReg st Reg.isPlain 20 r.a
    needExt r
    zeroS [(26, r.b), (67, fld x 15 3)]
    return .lkopen dst base d (fld x 2 2 == 1) (BitVec.ofNat 16 (fld x 31 16))
  | 3 => do
    let base ← decReg st Reg.isPlain 20 r.a
    needExt r
    zeroS [(76, fld x 15 12)]
    need (fld x 31 16 != 0) 0x0C 1 80
    return .lkfeed (Dir.ofCode (fld r.dst 1 0)) (BitVec.ofNat 4 (fld r.dst 5 2)) base (BitVec.ofNat 6 r.b)
      (BitVec.ofNat 12 (fld x 11 0)) (BitVec.ofNat 16 (fld x 31 16))
  | 4 => decSparse st r
  | 5 => do
    if r.ext.isSome && fld x 2 2 = 1 then do
      let base ← decReg st Reg.isPlain 20 r.a
      zeroS [(14, r.dst), (26, r.b), (67, fld x 15 3)]
      return .lkdrain d (.redrain base (BitVec.ofNat 16 (fld x 31 16)))
    else do
      needExt r
      zeroS [(14, r.dst), (20, r.a), (26, r.b), (67, fld x 15 3), (80, fld x 31 16)]
      return .lkdrain d .now
  | 6 => do
    needExt r
    zeroS [(14, r.dst), (20, r.a), (26, r.b), (66, fld x 31 2)]
    return .lkclose d
  | 7 => do
    let dst ← decReg st Reg.isDst 14 r.dst
    needExt r
    zeroS [(20, r.a), (26, r.b), (68, fld x 31 4)]
    need (fld x 3 2 != 3) 0x09 1 66
    return .lkstat dst d (Fin.ofNat 3 (fld x 3 2))
  | 8 => do
    needExt r
    zeroS [(14, r.dst), (20, r.a), (26, r.b), (69, fld x 31 5)]
    let cc ← okOr (LkCond.ofCode (fld x 4 2)) 0x09 1 66
    return .lkwait d cc
  | 9 => do
    let base ← decReg st Reg.isSrc 20 r.a
    needExt r
    zeroS [(14, r.dst), (26, r.b), (69, fld x 15 5)]
    return .cbload d (BitVec.ofNat 3 (fld x 4 2)) base (BitVec.ofNat 16 (fld x 31 16))
  | 10 => do
    let base ← decReg st Reg.isSrc 20 r.a
    needExt r
    zeroS [(14, r.dst), (26, r.b), (67, fld x 15 3)]
    return .epload d (fld x 2 2 == 1) base (BitVec.ofNat 16 (fld x 31 16))
  | _ => .error (.illegal 0x05 1 32)

/-- QBIND's operation (R152). -/
def decQBind (x : Nat) : Dec QBindOp :=
  match fld x 9 8 with
  | 0 => do
    zeroS [(66, fld x 3 2), (74, fld x 31 10)]
    return .bind (Dir.ofCode (fld x 1 0)) (BitVec.ofNat 4 (fld x 7 4))
  | 1 => do
    zeroS [(66, fld x 3 2), (68, fld x 7 4), (74, fld x 31 10)]
    return .unbind (Dir.ofCode (fld x 1 0))
  | 2 => do
    zeroS [(64, fld x 1 0), (66, fld x 3 2), (74, fld x 31 10)]
    return .free (BitVec.ofNat 4 (fld x 7 4))
  | _ => do
    zeroS [(64, fld x 1 0), (66, fld x 3 2), (74, fld x 31 10)]
    return .nofree (BitVec.ofNat 4 (fld x 7 4))

/-- The QUEUE group (R152, R154, R158). -/
def decodeQueue (st : Bool) (r : SRaw) : Dec Instr :=
  let x := r.x
  if st && r.func ≤ 4 then .error (.illegal 0x0D 1 8) else
  match r.func with
  | 0 => do
    needExt r
    zeroS [(14, r.dst), (20, r.a), (26, r.b)]
    return .qbind (← decQBind x)
  | 1 => do
    let dst ← decReg st (fun q => match q with
      | .q _ => true
      | _ => false) 14 r.dst
    let src ← decReg st Reg.isSrc 20 r.a
    needExt r
    zeroS [(26, r.b), (64, x)]
    match dst with
    | .q d => return .qctl d src
    | _ => .error (.illegal 0x07 1 14)
  | 2 => do
    let src ← decReg st Reg.isWgo 20 r.a
    needExt r
    zeroS [(14, r.dst), (26, r.b), (66, fld x 31 2)]
    return .qhnd (Dir.ofCode (fld x 1 0)) src
  | 3 => do
    needExt r
    zeroS [(14, r.dst), (20, r.a), (26, r.b), (67, fld x 5 3)]
    if fld x 31 31 = 0 then do
      zeroS [(70, fld x 10 6), (75, fld x 13 11), (78, fld x 16 14), (81, fld x 20 17), (85, fld x 24 21), (89, fld x 30 25)]
      return .lvset (BitVec.ofNat 3 (fld x 2 0)) none
    else do
      need (fld x 10 6 ≤ 16) 0x0C 1 70
      return .lvset (BitVec.ofNat 3 (fld x 2 0)) (some ⟨BitVec.ofNat 6 (fld x 30 25), BitVec.ofNat 4 (fld x 24 21),
        BitVec.ofNat 4 (fld x 20 17), BitVec.ofNat 3 (fld x 16 14), BitVec.ofNat 3 (fld x 13 11), BitVec.ofNat 5 (fld x 10 6)⟩)
  | 4 => do
    let dst ← decReg st Reg.isDst 14 r.dst
    needExt r
    zeroS [(20, r.a), (26, r.b), (67, fld x 31 3)]
    return .lvread dst (BitVec.ofNat 3 (fld x 2 0))
  | _ => .error (.illegal 0x05 1 32)

/-- The SYS group (R289, R306, R354, R356). -/
def decodeSys (st : Bool) (r : SRaw) : Dec Instr :=
  let x := r.x
  match r.func with
  | 0 => do
    let dst ← decReg st Reg.isDst 14 r.dst
    let src ← decReg st Reg.isSrc 20 r.a
    needExt r
    zeroS [(26, r.b), (72, fld x 31 8)]
    return .trap dst (BitVec.ofNat 8 (fld x 7 0)) src
  | 1 => do
    needExt r
    zeroS [(14, r.dst), (20, r.a), (26, r.b), (64, x)]
    return .eret
  | 2 => do
    needExt r
    zeroS [(14, r.dst), (20, r.a), (26, r.b), (80, fld x 31 16)]
    return .brk (BitVec.ofNat 16 (fld x 15 0))
  | 3 => do
    let dst ← decReg st Reg.isDst 14 r.dst
    needExt r
    zeroS [(20, r.a), (26, r.b), (76, fld x 31 12)]
    need (sregOk (fld x 11 0)) 0x09 1 64
    return .sysrd dst (BitVec.ofNat 12 (fld x 11 0))
  | 4 => do
    let src ← decReg st Reg.isSrc 20 r.a
    needExt r
    zeroS [(14, r.dst), (26, r.b), (76, fld x 31 12)]
    need (sregOk (fld x 11 0)) 0x09 1 64
    return .syswr (BitVec.ofNat 12 (fld x 11 0)) src
  | _ => .error (.illegal 0x05 1 32)

/-- ITER, CTXSTART, CTXREAP and LEVID are not available on a steward core (R97). -/
def stewardOp (n : Nat) : Bool := !(n == 0x21 || n == 0x23 || n == 0x24 || n == 0x26)

/-- The checks of step 5 of R98, in the order of the fields. -/
def decodeSlot (st : Bool) (r : SRaw) : Dec Instr :=
  if r.op ≥ 0x3D then .error (.illegal 0x04 1 8)
  else if st && !stewardOp r.op then .error (.illegal 0x0D 1 8)
  else match r.op with
    | 0x38 => decodeSync st r
    | 0x39 => decodeCopy st r
    | 0x3A => decodeLink st r
    | 0x3B => decodeQueue st r
    | 0x3C => decodeSys st r
    | _ => do
      match ← decodeA st r with
      | some i => return i
      | none =>
        match ← decodeX st r with
        | some i => return i
        | none =>
          match ← decodeM st r with
          | some i => return i
          | none => .error (.illegal 0x04 1 8)

/-- The short op with the register field at `pos` cleared. -/
def SRaw.clear (r : SRaw) (pos : Nat) : SRaw :=
  if pos = 14 then { r with dst := 0 } else if pos = 20 then { r with a := 0 } else { r with b := 0 }

/-- Is one of the used register fields past the refused ones at `pos` a specifier a steward core has not? Each round clears a
refused field. -/
def stewardUse (r : SRaw) : Nat → Nat → Option DecErr
  | 0, _ => none
  | n + 1, pos =>
    match decodeSlot true (r.clear pos) with
    | .error (.illegal 0x07 1 p) => stewardUse (r.clear pos) n p
    | .error (.illegal 0x0D 1 p) => some (.illegal 0x0D 1 p)
    | _ => none

/-- Step 5 of R98: the S slot. `st` says whether the core is a steward core, where availability (R97) comes before the check of
each specifier. -/
def decodeS (st : Bool) (r : SRaw) : Dec Instr :=
  match decodeSlot st r with
  | .error (.illegal 0x07 1 pos) => .error (if st then (stewardUse r 2 pos).getD (.illegal 0x07 1 pos) else .illegal 0x07 1 pos)
  | x => x

/-! ### The V slot -/

/-- The fields of a V short op (R84), its extension (0 when absent), and the extension's lowest bundle bit. -/
structure VRaw where
  op : Nat
  vd : Nat
  va : Nat
  vb : Nat
  ty : Nat
  mask : Nat
  vf : Nat
  x : Nat
  xpos : Nat
deriving DecidableEq, Repr

def VRaw.short (r : VRaw) : Nat :=
  r.op + r.vd * 2 ^ 6 + r.va * 2 ^ 10 + r.vb * 2 ^ 14 + r.ty * 2 ^ 18 + r.mask * 2 ^ 22 + r.vf * 2 ^ 25

def VRaw.ofShort (w x xpos : Nat) : VRaw :=
  ⟨fld w 5 0, fld w 9 6, fld w 13 10, fld w 17 14, fld w 21 18, fld w 24 22, fld w 27 25, x, xpos⟩

def zeroV : List (Nat × Nat) → Dec Unit
  | [] => .ok ()
  | (pos, v) :: fs => if v = 0 then zeroV fs else .error (.illegal 0x09 2 pos)

/-- The type field, which must name a type `p` accepts (R85). -/
def decTy (r : VRaw) (p : Ty → Bool) : Dec Ty := do
  let t ← okOr (Ty.ofCode r.ty) 0x08 2 54
  need (p t) 0x08 2 54
  return t

/-- An operation that takes no type requires type 0 (R85). -/
def noTy (r : VRaw) : Dec Unit := need (r.ty == 0) 0x08 2 54

/-- vb<3> is zero where vfunc<2> makes vb an o register (R85); a register field, it is checked before the type. -/
def bOk (r : VRaw) : Dec Unit := zeroV [(53, if fld r.vf 2 2 = 1 then fld r.vb 3 3 else 0)]

/-- The b operand (R84, R85). -/
def decVb (r : VRaw) : Dec VSrc :=
  if fld r.vf 2 2 = 1 then do
    bOk r
    return .o (Fin.ofNat 8 (fld r.vb 2 0))
  else .ok (.v (Fin.ofNat 16 r.vb))

def decVOps (r : VRaw) (p : Ty → Bool) : Dec VOps := do
  bOk r
  let t ← decTy r p
  let b ← decVb r
  return ⟨t, Fin.ofNat 16 r.vd, Fin.ofNat 16 r.va, b, Fin.ofNat 8 r.mask⟩

def decVUn (r : VRaw) (p : Ty → Bool) : Dec VUnOps := do
  bOk r
  let t ← decTy r p
  zeroV [(50, r.vb)]
  return ⟨t, Fin.ofNat 16 r.vd, Fin.ofNat 16 r.va, Fin.ofNat 8 r.mask⟩

/-- A lane shift's amount (R378). -/
def decAmt (r : VRaw) (t : Ty) : Dec VAmt :=
  if fld r.vf 0 0 = 1 then do
    zeroV [(50, r.vb), (62, fld r.vf 1 1), (63, fld r.vf 2 2), (r.xpos + 6, fld r.x 31 6)]
    need (fld r.x 5 0 < t.width) 0x0C 2 r.xpos
    return .imm (BitVec.ofNat 6 (fld r.x 5 0))
  else do
    let b ← decVb r
    zeroV [(62, fld r.vf 1 1), (r.xpos, r.x)]
    return .src b

/-- Step 6 of R98: the V slot. -/
def decodeV (r : VRaw) : Dec Instr :=
  let vd := Fin.ofNat 16 r.vd
  let va := Fin.ofNat 16 r.va
  let vbr := Fin.ofNat 16 r.vb
  let m := Fin.ofNat 8 r.mask
  match r.op with
  | 0x00 => do
    bOk r
    noTy r
    zeroV [(42, r.vd), (46, r.va), (50, r.vb), (58, r.mask), (61, r.vf), (r.xpos, r.x)]
    return .vnop
  | 0x01 => do
    let x ← decVOps r Ty.isIF
    zeroV [(61, if x.ty.isInt then 0 else fld r.vf 0 0), (62, fld r.vf 1 1), (r.xpos, r.x)]
    return .vadd (fld r.vf 0 0 == 1) x
  | 0x02 => do
    let x ← decVOps r Ty.isIF
    zeroV [(61, if x.ty.isInt then 0 else fld r.vf 0 0), (62, fld r.vf 1 1), (r.xpos, r.x)]
    return .vsub (fld r.vf 0 0 == 1) x
  | 0x03 => do
    let x ← decVOps r Ty.isIF
    zeroV [(61, fld r.vf 0 0), (62, fld r.vf 1 1), (r.xpos, r.x)]
    return .vmul x
  | 0x04 => do
    let x ← decVOps r Ty.isIF
    zeroV [(61, fld r.vf 0 0), (62, fld r.vf 1 1), (r.xpos, r.x)]
    return .vfma x
  | 0x05 => do
    let x ← decVOps r Ty.isIF
    zeroV [(61, fld r.vf 0 0), (62, fld r.vf 1 1), (r.xpos, r.x)]
    return .vmad x
  | 0x06 => do
    let x ← decVOps r Ty.isIF
    zeroV [(61, fld r.vf 0 0), (62, fld r.vf 1 1), (r.xpos, r.x)]
    return .vmin x
  | 0x07 => do
    let x ← decVOps r Ty.isIF
    zeroV [(61, fld r.vf 0 0), (62, fld r.vf 1 1), (r.xpos, r.x)]
    return .vmax x
  | 0x08 => do
    let x ← decVUn r Ty.isIF
    zeroV [(61, if x.ty.isInt then 0 else fld r.vf 0 0), (62, fld r.vf 1 1), (63, fld r.vf 2 2), (r.xpos, r.x)]
    return .vabs (fld r.vf 0 0 == 1) x
  | 0x09 => do
    let x ← decVUn r Ty.isIF
    zeroV [(61, if x.ty.isInt then 0 else fld r.vf 0 0), (62, fld r.vf 1 1), (63, fld r.vf 2 2), (r.xpos, r.x)]
    return .vneg (fld r.vf 0 0 == 1) x
  | 0x0A => do
    bOk r
    noTy r
    zeroV [(61, r.vf), (r.xpos + 8, fld r.x 31 8)]
    return .vltab vd va vbr m (BitVec.ofNat 8 (fld r.x 7 0))
  | 0x0B => do
    bOk r
    let t ← decTy r Ty.isInt
    return .vshl t vd va (← decAmt r t) m
  | 0x0C => do
    bOk r
    let t ← decTy r Ty.isInt
    return .vshr t vd va (← decAmt r t) m
  | 0x0D => do
    bOk r
    let t ← decTy r Ty.isInt
    return .vsra t vd va (← decAmt r t) m
  | 0x0E => do
    bOk r
    let t ← decTy r Ty.isInt
    zeroV [(61, r.vf), (r.xpos + 6, fld r.x 31 6)]
    need (fld r.x 5 0 < t.width) 0x0C 2 r.xpos
    return .vfsh t vd va vbr m (BitVec.ofNat 6 (fld r.x 5 0))
  | 0x0F => do
    zeroV [(45, fld r.vd 3 3)]
    bOk r
    let t ← decTy r Ty.isIF
    let b ← decVb r
    zeroV [(61, fld r.vf 1 0), (r.xpos + 3, fld r.x 31 3)]
    let cc ← okOr (Cond.ofCode (fld r.x 2 0)) 0x09 2 r.xpos
    return .vcmp cc t (Fin.ofNat 8 (fld r.vd 2 0)) va b m
  | 0x10 => do
    bOk r
    noTy r
    zeroV [(61, r.vf), (r.xpos, r.x)]
    return .vsel vd va vbr m
  | 0x11 => do
    zeroV [(45, fld r.vd 3 3), (49, fld r.va 3 3), (53, fld r.vb 3 3)]
    noTy r
    zeroV [(61, fld r.vf 1 0), (r.xpos + 4, fld r.x 31 4)]
    let k := Fin.ofNat 8 (fld r.vb 2 0)
    return .vmask (Fin.ofNat 8 (fld r.vd 2 0)) (Fin.ofNat 8 (fld r.va 2 0)) (if fld r.vf 2 2 = 1 then .inr k else .inl k) m
      (BitVec.ofNat 4 (fld r.x 3 0))
  | 0x12 => do
    bOk r
    let td ← decTy r (fun _ => true)
    let ts ← okOr (Ty.ofCode (fld r.x 3 0)) 0x08 2 r.xpos
    zeroV [(50, r.vb), (61, r.vf)]
    need (fld r.x 9 7 < cvtParts td ts) 0x09 2 (r.xpos + 7)
    zeroV [(r.xpos + 10, fld r.x 31 10)]
    return .vcvt td vd va m ts (Rm.ofCode (fld r.x 5 4)) (fld r.x 6 6 == 1) (BitVec.ofNat 3 (fld r.x 9 7))
  | 0x13 => do
    let su := fld r.vf 0 0 == 1
    let x ← decVOps r (fun t => t == .i8 || (!su && (t == .n8 || t == .i16 || t == .f16 || t == .bf16)))
    zeroV [(62, fld r.vf 1 1), (r.xpos, r.x)]
    return .vdot su x
  | 0x14 => do
    let x ← decVOps r (fun t => t == .i8 || t == .i16 || t == .i32)
    zeroV [(61, fld r.vf 1 0), (r.xpos, r.x)]
    return .vqmul x
  | 0x15 => do
    let x ← decVUn r Ty.isIF
    zeroV [(61, r.vf), (r.xpos + 2, fld r.x 31 2)]
    let o ← okOr (RedKind.ofCode (fld r.x 1 0)) 0x09 2 r.xpos
    return .vreduce o x
  | 0x16 => do
    let x ← decVUn r Ty.isIF
    zeroV [(61, r.vf), (r.xpos + 6, fld r.x 31 6)]
    let o ← okOr (RedKind.ofCode (fld r.x 1 0)) 0x09 2 r.xpos
    return .vscan o (fld r.x 2 2 == 1) (Fin.ofNat 8 (fld r.x 5 3)) x
  | 0x17 => do
    bOk r
    let t ← decTy r Ty.isInt
    zeroV [(61, r.vf), (r.xpos, r.x)]
    return .vperm t vd va vbr m
  | 0x18 => do
    bOk r
    let t ← decTy r (fun _ => true)
    if fld r.vf 2 2 = 1 then do
      let b ← decVb r
      zeroV [(46, r.va), (61, fld r.vf 1 0), (r.xpos, r.x)]
      match b with
      | .o n => return .vbcast t vd (.o n) m
      | .v n => return .vbcast t vd (.lane n 0) m
    else do
      zeroV [(50, r.vb), (61, r.vf)]
      need (fld r.x 4 0 < t.lanes) 0x09 2 (r.xpos + Nat.log2 t.lanes)
      zeroV [(r.xpos + 5, fld r.x 31 5)]
      return .vbcast t vd (.lane va (BitVec.ofNat 5 (fld r.x 4 0))) m
  | 0x19 => do
    let x ← decVUn r Ty.isInt
    zeroV [(61, r.vf), (r.xpos, r.x)]
    return .vpopc x
  | 0x1A => do
    let x ← decVUn r (· == .f32)
    zeroV [(61, r.vf), (r.xpos, r.x)]
    return .vrcp x.vd x.va x.mask
  | 0x1B => do
    let x ← decVUn r (· == .f32)
    zeroV [(61, r.vf), (r.xpos, r.x)]
    return .vrsq x.vd x.va x.mask
  | 0x1C => do
    let x ← decVUn r (· == .f32)
    zeroV [(61, r.vf), (r.xpos, r.x)]
    return .vexp2 x.vd x.va x.mask
  | _ => .error (.illegal 0x06 2 36)

/-! ### The bundle -/

/-- LEN and FORM (R80). -/
def decShape (w : Nat) : Dec Shape :=
  match fld w 1 0, fld w 7 6 with
  | 0, 0 => .ok .b64
  | 1, 0 => .ok .b96s
  | 1, 1 => .ok .b96v
  | 2, 0 => .ok .b128
  | 3, _ => .error (.illegal 0x01 0 0)
  | _, _ => .error (.illegal 0x02 0 6)

/-- The S slot's raw fields of a bundle. -/
def bundleS (sh : Shape) (w : Nat) : SRaw := SRaw.ofShort (fld w 35 8) (if sh.hasS then some (fld w 95 64) else none)

/-- The V slot's raw fields of a bundle. -/
def bundleV (sh : Shape) (w : Nat) : VRaw :=
  match sh with
  | .b96v => VRaw.ofShort (fld w 63 36) (fld w 95 64) 64
  | .b128 => VRaw.ofShort (fld w 63 36) (fld w 127 96) 96
  | _ => VRaw.ofShort (fld w 63 36) 0 96

/-- Step 8 of R98: a system register marked priv in a team (R97). -/
def privCheck (st : Bool) (i : Instr) : Dec Unit :=
  match i with
  | .sysrd _ n => if !st && sregPriv n.toNat false then .error .priv else .ok ()
  | .syswr n _ => if !st && sregPriv n.toNat true then .error .priv else .ok ()
  | _ => .ok ()

/-- Steps 3 to 8 of R98, on the bundle's bits `w` (bits beyond its length are ignored) at offset `off` of its fetch block. -/
def decodeBundle (st : Bool) (off w : Nat) : Dec Bundle := do
  let sh ← decShape w
  let pneg := fld w 5 5 == 1
  need (!(pneg && fld w 4 2 == 0)) 0x03 0 5
  if 32 < off + sh.bytes then .error .cross else do
    let s ← decodeS st (bundleS sh w)
    let v ← decodeV (bundleV sh w)
    match bundleClash s v with
    | some pos => .error (.illegal 0x0B 3 pos)
    | none => do
      privCheck st s
      return ⟨sh, Fin.ofNat 8 (fld w 4 2), pneg, s, v⟩

/-! ### Epilogue words (R138 to R140) -/

def ESrc.ofCode : Nat → ESrc
  | 0 => .e 0 | 1 => .e 1 | 2 => .e 2 | 3 => .e 3 | 4 => .e 4 | 5 => .e 5 | 6 => .acc | _ => .z
def ESrc.code : ESrc → Nat
  | .e n => n.val
  | .acc => 6
  | .z => 7
def ECond.ofCode : Nat → ECond
  | 0 => .ne | 1 => .lt | 2 => .gt | _ => .eq
def ECond.code : ECond → Nat
  | .ne => 0 | .lt => 1 | .gt => 2 | .eq => 3
def ESel.ofCode : Nat → Option ESel
  | 0 => some (.c 0) | 1 => some (.c 1) | 2 => some (.c 2) | 3 => some (.c 3) | 4 => some .rsum | 5 => some .csum
  | 6 => some .kv | _ => none
def ESel.code : ESel → Nat
  | .c n => n.val
  | .rsum => 4
  | .csum => 5
  | .kv => 6

/-- The fields of an epilogue word (R139). -/
structure ERaw where
  op : Nat
  dst : Nat
  a : Nat
  b : Nat
  c : Nat
  imm : Nat
deriving DecidableEq, Repr

def ERaw.word (r : ERaw) : Nat := r.op + r.dst * 2 ^ 6 + r.a * 2 ^ 9 + r.b * 2 ^ 12 + r.c * 2 ^ 15 + r.imm * 2 ^ 18

def ERaw.ofWord (w : Nat) : ERaw := ⟨fld w 5 0, fld w 8 6, fld w 11 9, fld w 14 12, fld w 17 15, fld w 31 18⟩

/-- One epilogue word (R140, R146): `none` where the op code, a specifier or a reserved field is not allowed. -/
def decodeEpi (w : Nat) : Option Instr :=
  let r := ERaw.ofWord w
  let f := fld r.imm 13 13 == 1
  let lo := fld r.imm 12 0
  let a := ESrc.ofCode r.a
  let b := ESrc.ofCode r.b
  let cc := ESrc.ofCode r.c
  if r.op = 0 then (if r.dst + r.a + r.b + r.c + r.imm = 0 then some .eend else none)
  else if r.op = 0x0F then (if r.dst + r.b + r.c + r.imm = 0 then some (.ewr a) else none)
  else if h : r.dst < 6 then
    let d : Fin 6 := ⟨r.dst, h⟩
    match r.op with
    | 0x01 => if r.b + r.c + r.imm = 0 then some (.emov d a) else none
    | 0x02 => if r.c + lo = 0 then some (.eadd f d a b) else none
    | 0x03 => if r.c + lo = 0 then some (.esub f d a b) else none
    | 0x04 => if r.c + lo = 0 then some (.emul f d a b) else none
    | 0x05 => if lo = 0 then some (.efma f d a b cc) else none
    | 0x06 => if r.c + lo = 0 then some (.emin f d a b) else none
    | 0x07 => if r.c + lo = 0 then some (.emax f d a b) else none
    | 0x08 =>
      if r.c + fld r.imm 13 6 ≠ 0 then none
      else if fld r.imm 5 5 = 1 then (if fld r.imm 4 0 = 0 then some (.eshrReg d a b) else none)
      else if r.b = 0 then some (.eshrImm d a (BitVec.ofNat 5 (fld r.imm 4 0))) else none
    | 0x09 => if r.c + r.imm = 0 then some (.eqmul d a b) else none
    | 0x0A =>
      if r.b + r.c + fld r.imm 12 7 ≠ 0 then none
      else match Ty.ofCode (fld r.imm 3 0) with
        | some t => if ecvtTy t then some (.ecvt f d a t (Rm.ofCode (fld r.imm 5 4)) (fld r.imm 6 6 == 1)) else none
        | none => none
    | 0x0B => if lo = 0 then some (.ezpc f d a b cc) else none
    | 0x0C => if r.b + r.c + lo = 0 then some (.erelu f d a) else none
    | 0x0D => if fld r.imm 12 2 = 0 then some (.esel f d a b cc (ECond.ofCode (fld r.imm 1 0))) else none
    | 0x0E =>
      if r.a + r.b + r.c + fld r.imm 12 3 ≠ 0 then none
      else match ESel.ofCode (fld r.imm 2 0) with
        | some sl => if f && sl != .kv then none else some (.eldc f d sl)
        | none => none
    | _ => none
  else none

/-! ### Encoding -/

/-- The fields of an S operation; `ext` is its extension's value if the bundle gives it one (R83, R86, R92). -/
def Src2.code : Src2 → Nat × Nat
  | .reg r => (r.code, 0)
  | .s6 v => (v.toNat, 0)
  | .i32 v => (0, v.toNat)
def Src2.imm : Src2 → Nat
  | .reg _ => 0
  | _ => 8

/-- Short fields (op, dst, srcA, srcB, func) and extension value of an operation. -/
structure SEnc where
  op : Nat
  dst : Nat
  a : Nat
  b : Nat
  func : Nat
  x : Nat
deriving DecidableEq, Repr

def encAlu (op f21 : Nat) (x : AluOps) : SEnc :=
  ⟨op, x.dst.code, x.a.code, x.b.code.1, x.b.imm + 2 * f21 + x.w32.toNat, x.b.code.2⟩

def encUn (op : Nat) (x : UnOps) : SEnc :=
  match x.src with
  | .reg r => ⟨op, x.dst.code, r.code, 0, x.w32.toNat, 0⟩
  | .s6 v => ⟨op, x.dst.code, 0, v.toNat, 8 + x.w32.toNat, 0⟩
  | .i32 v => ⟨op, x.dst.code, 0, 0, 8 + x.w32.toNat, v.toNat⟩

def encOff (op : Nat) : Off → SEnc
  | .short v => ⟨op, fld v.toNat 5 0, fld v.toNat 11 6, fld v.toNat 17 12, 0, 0⟩
  | .long v => ⟨op, 0, 0, 0, 0, v.toNat⟩

/-- The register field and the extension bits `<11:6>` of a sync object. -/
def encObj : ObjRef → Nat × Nat
  | .hw r => (r.code, 0)
  | .fe r => (r.code, 64)
  | .dw r => (r.code, 128)
  | .ch n => (0, 192 + 256 * n.toNat)

/-- The fields of every S operation, from the tables of spec/05 and the entries of spec/23 to spec/25. -/
def encS : Instr → SEnc
  | .nop => ⟨0x00, 0, 0, 0, 0, 0⟩
  | .add x => encAlu 0x01 0 x
  | .sub x => encAlu 0x02 0 x
  | .mul x => encAlu 0x03 0 x
  | .mulh k x => encAlu 0x04 (match k with
      | .ss => 0 | .uu => 1 | .su => 2) x
  | .div u x => encAlu 0x05 u.toNat x
  | .rem u x => encAlu 0x06 u.toNat x
  | .and x => encAlu 0x07 0 x
  | .or x => encAlu 0x08 0 x
  | .xor x => encAlu 0x09 0 x
  | .ltab w32 dst a b tbl => ⟨0x0A, dst.code, a.code, b.code, w32.toNat, tbl.toNat⟩
  | .shl x => encAlu 0x0B 0 x
  | .shr x => encAlu 0x0C 0 x
  | .sra x => encAlu 0x0D 0 x
  | .rot x => encAlu 0x0E 0 x
  | .fsh w32 dst a b sh => ⟨0x0F, dst.code, a.code, b.code, w32.toNat, sh.toNat⟩
  | .min u x => encAlu 0x10 u.toNat x
  | .max u x => encAlu 0x11 u.toNat x
  | .clz x => encUn 0x12 x
  | .popc x => encUn 0x13 x
  | .bfx sx dst a pos len => ⟨0x14, dst.code, a.code, 0, 0, pos.toNat + 64 * len.toNat + 4096 * sx.toNat⟩
  | .bfi dst a b pos len => ⟨0x15, dst.code, a.code, b.code, 0, pos.toNat + 64 * len.toNat⟩
  | .cmp u c pd w32 a b => ⟨0x16, pd.val + 8 * c.code, a.code, b.code.1, b.imm + 2 * u.toNat + w32.toNat, b.code.2⟩
  | .sel inv p dst a b => ⟨0x17, dst.code, a.code, b.code, p.val + 8 * inv.toNat, 0⟩
  | .mov x => encUn 0x18 x
  | .li dst imm => ⟨0x19, dst.code, 0, 0, 0, imm.toNat⟩
  | .lih dst imm => ⟨0x1A, dst.code, 0, 0, 0, imm.toNat⟩
  | .addpc dst imm => ⟨0x1B, dst.code, 0, 0, 0, imm.toNat⟩
  | .plog pd pa pb pc tbl =>
    ⟨0x1C, 0, 0, 0, 0, tbl.toNat + 2 ^ 8 * pd.val + 2 ^ 11 * pa.val + 2 ^ 14 * pb.val + 2 ^ 17 * pc.val⟩
  | .br o => encOff 0x1D o
  | .jmp a => ⟨0x1E, 0, a.base.code, 0, 0, a.disp.toNat⟩
  | .call o => encOff 0x1F o
  | .ret => ⟨0x20, 0, 0, 0, 0, 0⟩
  | .iter off => ⟨0x21, 0, 0, 0, 0, off.toNat⟩
  | .exit => ⟨0x22, 0, 0, 0, 0, 0⟩
  | .ctxstart n off => ⟨0x23, 0, 0, 0, n.toNat, off.toNat⟩
  | .ctxreap n => ⟨0x24, 0, 0, 0, n.toNat, 0⟩
  | .ctxid dst => ⟨0x25, dst.code, 0, 0, 0, 0⟩
  | .levid dst level => ⟨0x26, dst.code, 0, 0, level.toNat, 0⟩
  | .ld fg ty dst a => ⟨0x27, dst.code, a.base.code, 0, ty.toNat + 8 * fg.toNat, a.disp.toNat⟩
  | .st ty src a => ⟨0x28, src.code, a.base.code, 0, ty.toNat, a.disp.toNat⟩
  | .vld v a => ⟨0x29, v.val, a.base.code, 0, 0, a.disp.toNat⟩
  | .vst v a => ⟨0x2A, v.val, a.base.code, 0, 0, a.disp.toNat⟩
  | .bpack all v ctl a => ⟨0x2B, v.val, a.base.code, ctl.code, all.toNat, a.disp.toNat⟩
  | .bunpk ty v ctl a => ⟨0x2C, v.val, a.base.code, ctl.code, ty.code, a.disp.toNat⟩
  | .ldfe n64 dst a => ⟨0x2D, dst.code, a.base.code, 0, 6 + n64.toNat, a.disp.toNat⟩
  | .stfe n64 src a => ⟨0x2E, src.code, a.base.code, 0, 6 + n64.toNat, a.disp.toNat⟩
  | .feinit full words a =>
    ⟨0x2F, 0, a.base.code, fld words.toNat 5 0, fld words.toNat 8 6 + 8 * full.toNat, a.disp.toNat⟩
  | .rst k src dw a => ⟨0x30, src.code, a.base.code, dw.code, k.code, a.disp.toNat⟩
  | .hold fg dst a => ⟨0x31, dst.code, a.base.code, 0, fg.toNat, a.disp.toNat⟩
  | .hrel src a => ⟨0x32, src.code, a.base.code, 0, 0, a.disp.toNat⟩
  | .red op src a => ⟨0x33, src.code, a.base.code, 0, op.code, a.disp.toNat⟩
  | .xsum ty src a => ⟨0x34, src.code, a.base.code, 0, ty.code, a.disp.toNat⟩
  | .xread dst a => ⟨0x35, dst.code, a.base.code, 0, 0, a.disp.toNat⟩
  | .dwinit src a => ⟨0x36, src.code, a.base.code, 0, 0, a.disp.toNat⟩
  | .dwwait src a => ⟨0x37, src.code, a.base.code, 0, 0, a.disp.toNat⟩
  | .fence k sc => ⟨0x38, 0, 0, 0, 0, k.code + 4 * sc.code⟩
  | .spfence => ⟨0x38, 0, 0, 0, 1, 0⟩
  | .acq o => ⟨0x38, 0, (encObj o).1, 0, 2, (encObj o).2⟩
  | .rls o => ⟨0x38, 0, (encObj o).1, 0, 3, (encObj o).2⟩
  | .bind slot base lines o =>
    ⟨0x38, 0, base.code, (encObj o).1, 4, slot.toNat + (encObj o).2 + 4096 * lines.toNat⟩
  | .unbind slot => ⟨0x38, 0, 0, 0, 5, slot.toNat⟩
  | .trig => ⟨0x38, 0, 0, 0, 6, 0⟩
  | .chwait n src => ⟨0x38, 0, src.code, 0, 7, n.toNat⟩
  | .chread dst n => ⟨0x38, dst.code, 0, 0, 8, n.toNat⟩
  | .copy dst base disp swz => ⟨0x39, dst.code, base.code, 0, 0, disp.toNat + 2 ^ 24 * swz.toNat⟩
  | .gather dst base disp swz fill =>
    ⟨0x39, dst.code, base.code, 0, 1, disp.toNat + 2 ^ 16 * fill.toNat + 2 ^ 24 * swz.toNat⟩
  | .scatter dst base disp => ⟨0x39, dst.code, base.code, 0, 2, disp.toNat⟩
  | .cstage s => ⟨0x39, 0, 0, 0, 3, s.toNat⟩
  | .lease dst d pri => ⟨0x3A, dst.code, 0, 0, 0, d.code + 4 * pri.toNat⟩
  | .unlease d => ⟨0x3A, 0, 0, 0, 1, d.code⟩
  | .lkopen dst base d roleB disp => ⟨0x3A, dst.code, base.code, 0, 2, d.code + 4 * roleB.toNat + 2 ^ 16 * disp.toNat⟩
  | .lkfeed d handle base bdisp stride count =>
    ⟨0x3A, d.code + 4 * handle.toNat, base.code, bdisp.toNat, 3, stride.toNat + 2 ^ 16 * count.toNat⟩
  | .lksparse d c bound =>
    ⟨0x3A, 0, (match bound with
      | some r => r.code
      | none => 0), 0, 4,
     d.code + 16 * c.sideB.toNat + 64 * c.nm.toNat + 256 * c.t.toNat + 1024 * c.mode.toNat⟩
  | .lkdrain d f =>
    (match f with
     | .now => ⟨0x3A, 0, 0, 0, 5, d.code⟩
     | .redrain base disp => ⟨0x3A, 0, base.code, 0, 5, d.code + 4 + 2 ^ 16 * disp.toNat⟩)
  | .lkclose d => ⟨0x3A, 0, 0, 0, 6, d.code⟩
  | .lkstat dst d word => ⟨0x3A, dst.code, 0, 0, 7, d.code + 4 * word.val⟩
  | .lkwait d c => ⟨0x3A, 0, 0, 0, 8, d.code + 4 * c.code⟩
  | .cbload d slot base disp => ⟨0x3A, 0, base.code, 0, 9, d.code + 4 * slot.toNat + 2 ^ 16 * disp.toNat⟩
  | .epload d slot base disp => ⟨0x3A, 0, base.code, 0, 10, d.code + 4 * slot.toNat + 2 ^ 16 * disp.toNat⟩
  | .qbind op =>
    ⟨0x3B, 0, 0, 0, 0, (match op with
      | .bind d n => d.code + 16 * n.toNat
      | .unbind d => d.code + 256
      | .free n => 16 * n.toNat + 512
      | .nofree n => 16 * n.toNat + 768)⟩
  | .qctl d src => ⟨0x3B, (Reg.q d).code, src.code, 0, 1, 0⟩
  | .qhnd d src => ⟨0x3B, 0, src.code, 0, 2, d.code⟩
  | .lvset ctl ps =>
    ⟨0x3B, 0, 0, 0, 3, (match ps with
      | none => ctl.toNat
      | some p => ctl.toNat + 2 ^ 6 * p.setp.toNat + 2 ^ 11 * p.gp.toNat + 2 ^ 14 * p.gi.toNat + 2 ^ 17 * p.wp.toNat
          + 2 ^ 21 * p.wc.toNat + 2 ^ 25 * p.pq.toNat + 2 ^ 31)⟩
  | .lvread dst ctl => ⟨0x3B, dst.code, 0, 0, 4, ctl.toNat⟩
  | .trap dst svc src => ⟨0x3C, dst.code, src.code, 0, 0, svc.toNat⟩
  | .eret => ⟨0x3C, 0, 0, 0, 1, 0⟩
  | .brk imm => ⟨0x3C, 0, 0, 0, 2, imm.toNat⟩
  | .sysrd dst n => ⟨0x3C, dst.code, 0, 0, 3, n.toNat⟩
  | .syswr n src => ⟨0x3C, 0, src.code, 0, 4, n.toNat⟩
  | _ => ⟨0, 0, 0, 0, 0, 0⟩

def SEnc.raw (e : SEnc) (hasExt : Bool) : SRaw := ⟨e.op, e.dst, e.a, e.b, e.func, if hasExt then some e.x else none⟩

def VSrc.code : VSrc → Nat
  | .v n => n.val
  | .o n => n.val
def VSrc.flag : VSrc → Nat
  | .v _ => 0
  | .o _ => 4

/-- Short fields of a V operation: (op, vd, va, vb, type, mask, vfunc). -/
def encVOps (op f : Nat) (x : VOps) : VRaw := ⟨op, x.vd.val, x.va.val, x.vb.code, x.ty.code, x.mask.val, x.vb.flag + f, 0, 0⟩
def encVUn (op f : Nat) (x : VUnOps) : VRaw := ⟨op, x.vd.val, x.va.val, 0, x.ty.code, x.mask.val, f, 0, 0⟩
def encShift (op : Nat) (t : Ty) (vd va : Fin 16) (amt : VAmt) (m : Fin 8) : VRaw :=
  match amt with
  | .imm _ => ⟨op, vd.val, va.val, 0, t.code, m.val, 1, 0, 0⟩
  | .src b => ⟨op, vd.val, va.val, b.code, t.code, m.val, b.flag, 0, 0⟩

/-- The short-op fields of every V operation (R95, spec/25); the extension's value is `Instr.vExt`. -/
def encV : Instr → VRaw
  | .vadd sat x => encVOps 0x01 sat.toNat x
  | .vsub sat x => encVOps 0x02 sat.toNat x
  | .vmul x => encVOps 0x03 0 x
  | .vfma x => encVOps 0x04 0 x
  | .vmad x => encVOps 0x05 0 x
  | .vmin x => encVOps 0x06 0 x
  | .vmax x => encVOps 0x07 0 x
  | .vabs sat x => encVUn 0x08 sat.toNat x
  | .vneg sat x => encVUn 0x09 sat.toNat x
  | .vltab vd va vb m _ => ⟨0x0A, vd.val, va.val, vb.val, 0, m.val, 0, 0, 0⟩
  | .vshl t vd va amt m => encShift 0x0B t vd va amt m
  | .vshr t vd va amt m => encShift 0x0C t vd va amt m
  | .vsra t vd va amt m => encShift 0x0D t vd va amt m
  | .vfsh t vd va vb m _ => ⟨0x0E, vd.val, va.val, vb.val, t.code, m.val, 0, 0, 0⟩
  | .vcmp _ t md va b m => ⟨0x0F, md.val, va.val, b.code, t.code, m.val, b.flag, 0, 0⟩
  | .vsel vd va vb m => ⟨0x10, vd.val, va.val, vb.val, 0, m.val, 0, 0, 0⟩
  | .vmask md ma mb m _ =>
    (match mb with
     | .inl k => ⟨0x11, md.val, ma.val, k.val, 0, m.val, 0, 0, 0⟩
     | .inr k => ⟨0x11, md.val, ma.val, k.val, 0, m.val, 4, 0, 0⟩)
  | .vcvt td vd va m _ _ _ _ => ⟨0x12, vd.val, va.val, 0, td.code, m.val, 0, 0, 0⟩
  | .vdot su x => encVOps 0x13 su.toNat x
  | .vqmul x => encVOps 0x14 0 x
  | .vreduce _ x => encVUn 0x15 0 x
  | .vscan _ _ _ x => encVUn 0x16 0 x
  | .vperm t vd va vb m => ⟨0x17, vd.val, va.val, vb.val, t.code, m.val, 0, 0, 0⟩
  | .vbcast t vd src m =>
    (match src with
     | .lane va _ => ⟨0x18, vd.val, va.val, 0, t.code, m.val, 0, 0, 0⟩
     | .o n => ⟨0x18, vd.val, 0, n.val, t.code, m.val, 4, 0, 0⟩)
  | .vpopc x => encVUn 0x19 0 x
  | .vrcp vd va m => ⟨0x1A, vd.val, va.val, 0, 10, m.val, 0, 0, 0⟩
  | .vrsq vd va m => ⟨0x1B, vd.val, va.val, 0, 10, m.val, 0, 0, 0⟩
  | .vexp2 vd va m => ⟨0x1C, vd.val, va.val, 0, 10, m.val, 0, 0, 0⟩
  | _ => ⟨0, 0, 0, 0, 0, 0, 0, 0, 0⟩

/-- LEN and FORM of a shape (R80). -/
def Shape.header : Shape → Nat
  | .b64 => 0x00
  | .b96s => 0x01
  | .b96v => 0x41
  | .b128 => 0x02

/-- The bits of a well-formed bundle (R81, R83, R84). -/
def encode (b : Bundle) : Nat :=
  let first := b.shape.header + 4 * b.pred.val + 32 * b.pneg.toNat
    + 2 ^ 8 * ((encS b.s).raw false).short + 2 ^ 36 * (encV b.v).short
  match b.shape with
  | .b64 => first
  | .b96s => first + 2 ^ 64 * (encS b.s).x
  | .b96v => first + 2 ^ 64 * b.v.vExt
  | .b128 => first + 2 ^ 64 * (encS b.s).x + 2 ^ 96 * b.v.vExt

/-- The word of an epilogue operation (R139, R140). -/
def encodeEpi : Instr → Nat
  | .eend => 0
  | .emov d a => ERaw.word ⟨0x01, d.val, a.code, 0, 0, 0⟩
  | .eadd f d a b => ERaw.word ⟨0x02, d.val, a.code, b.code, 0, f.toNat * 2 ^ 13⟩
  | .esub f d a b => ERaw.word ⟨0x03, d.val, a.code, b.code, 0, f.toNat * 2 ^ 13⟩
  | .emul f d a b => ERaw.word ⟨0x04, d.val, a.code, b.code, 0, f.toNat * 2 ^ 13⟩
  | .efma f d a b c => ERaw.word ⟨0x05, d.val, a.code, b.code, c.code, f.toNat * 2 ^ 13⟩
  | .emin f d a b => ERaw.word ⟨0x06, d.val, a.code, b.code, 0, f.toNat * 2 ^ 13⟩
  | .emax f d a b => ERaw.word ⟨0x07, d.val, a.code, b.code, 0, f.toNat * 2 ^ 13⟩
  | .eshrImm d a sh => ERaw.word ⟨0x08, d.val, a.code, 0, 0, sh.toNat⟩
  | .eshrReg d a b => ERaw.word ⟨0x08, d.val, a.code, b.code, 0, 32⟩
  | .eqmul d a b => ERaw.word ⟨0x09, d.val, a.code, b.code, 0, 0⟩
  | .ecvt f d a t rm sat =>
    ERaw.word ⟨0x0A, d.val, a.code, 0, 0, f.toNat * 2 ^ 13 + 64 * sat.toNat + 16 * rm.code + t.code⟩
  | .ezpc f d a b c => ERaw.word ⟨0x0B, d.val, a.code, b.code, c.code, f.toNat * 2 ^ 13⟩
  | .erelu f d a => ERaw.word ⟨0x0C, d.val, a.code, 0, 0, f.toNat * 2 ^ 13⟩
  | .esel f d a b c k => ERaw.word ⟨0x0D, d.val, a.code, b.code, c.code, f.toNat * 2 ^ 13 + k.code⟩
  | .eldc f d sl => ERaw.word ⟨0x0E, d.val, 0, 0, 0, f.toNat * 2 ^ 13 + sl.code⟩
  | .ewr a => ERaw.word ⟨0x0F, 0, a.code, 0, 0, 0⟩
  | _ => 0

/-- The instruction the decoder reads from the bits of a table row. A row of 32 bits is an epilogue word; the bits of a bundle
name its S operation, or its V operation when the S slot is NOP and the V slot is not. -/
def decodeTableWord (nbits w : Nat) : Option Instr :=
  if nbits ≤ 32 then decodeEpi (w % 2 ^ 32)
  else match decodeBundle false 0 w with
    | .ok b => if b.s = .nop ∧ b.v ≠ .vnop then some b.v else some b.s
    | .error _ => none

end Sys2Proof
end

