-- ==== Sys2Proof/Machine/Bits.lean ====
section
/-! DEFINITION. Bytes, little-endian values and bit counts. -/

namespace Sys2Proof.Machine

/-- The little-endian value of bytes, lowest first (R78). -/
def leNat : List Byte → Nat
  | [] => 0
  | b :: bs => b.toNat + 256 * leNat bs

/-- The `n` low bytes of a value, lowest first. -/
def leBytes : Nat → Nat → List Byte
  | 0, _ => []
  | n + 1, x => BitVec.ofNat 8 x :: leBytes n (x / 256)

/-- The address of the line (or aligned block of `n` bytes) an address lies in. -/
def alignDown (n a : Nat) : Nat := a - a % n

/-- SignExtend of R4, from `w` bits to 64. -/
def sx64 (w x : Nat) : Word := BitVec.ofInt 64 (sgn w x)

/-- The number of 1 bits in the low `w` bits. -/
def popCount : Nat → Nat → Nat
  | 0, _ => 0
  | w + 1, x => x % 2 + popCount w (x / 2)

/-- The number of bits up to the highest 1 bit. -/
def bitLen : Nat → Nat → Nat
  | 0, _ => 0
  | w + 1, x => if x = 0 then 0 else 1 + bitLen w (x / 2)

/-- The integer square root of `x`, by bits from bit `k` down. -/
def isqrtFrom : Nat → Nat → Nat → Nat
  | 0, _, r => r
  | k + 1, x, r => let r' := r + 2 ^ k; isqrtFrom k x (if r' * r' ≤ x then r' else r)
def isqrt (bits x : Nat) : Nat := isqrtFrom bits x 0

/-- Bit `k` of a number. -/
def bit (x k : Nat) : Bool := x / 2 ^ k % 2 == 1

/-- The number whose bit `k` is `f k`, for `k` below `n`. -/
def ofBits (f : Nat → Bool) : Nat → Nat
  | 0 => 0
  | n + 1 => ofBits f n + (if f n then 2 ^ n else 0)

/-- Replace the element at `k`. -/
def setAt {α : Type} : List α → Nat → α → List α
  | [], _, _ => []
  | _ :: xs, 0, v => v :: xs
  | x :: xs, k + 1, v => x :: setAt xs k v

/-- Update the element at `k`. -/
def modAt {α : Type} (f : α → α) : List α → Nat → List α
  | [], _ => []
  | x :: xs, 0 => f x :: xs
  | x :: xs, k + 1 => x :: modAt f xs k

end Sys2Proof.Machine
end

