-- ==== Sys2Proof/Machine/State.lean ====
section
/-! DEFINITION. The state of the KX9: plain data, holding every piece of state the spec gives the machine, and the machine
right after reset. Unlisted entries of a Table read as the default its reader names. -/

namespace Sys2Proof.Machine

/-- How a step can stop. -/
inductive Fault where
  /-- Raised by `step` after POWER_LOSS (R27) while no input is pending: the module has no supply and does nothing. Safe: it
  allows nothing the hardware would not do. -/
  | noSupply
deriving DecidableEq, Repr

/-- What the model gives no meaning to. -/
inductive Refusal where
  /-- An instruction whose arm is not written. Raised by `exec` only; safe. -/
  | notModelled (mnemonic : String)
  /-- An epilogue word in progress that is no instruction. Raised by `step` only, in states EPLOAD (R146) cannot produce;
  safe. -/
  | illFormed
deriving DecidableEq, Repr

/-! ### Contexts -/

/-- Where a pending register lives (R73): a global, a kept or passed register of the window at a depth, or a window that RET
has discarded. -/
inductive PLoc where
  | g (n : Nat)
  | win (depth reg : Nat)
  | gone (serial reg : Nat)
deriving DecidableEq, Repr

/-- A pending register: the number its completion names, its place, whether an LKOPEN made it (R247), and the fault its reader
takes instead of a value (R381). -/
structure Pend where
  tok : Nat
  loc : PLoc
  lkopen : Bool
  bad : Option (FCode × Word)
deriving DecidableEq, Repr

/-- A resident window: w8 to w23 and the clean mark (R71). -/
structure Win where
  regs : Table Word
  clean : Bool
deriving DecidableEq, Repr

/-- What opened a window (R151, R239, R291). -/
inductive Opener where
  | call | trap | light
deriving DecidableEq, Repr

/-- What a result park does with its reply (R66). -/
inductive Result where
  /-- Put the word, with the shift (DIV, REM). -/
  | put (dst : Reg)
  /-- A load of `n` bytes at `a`; `fwd` are the bytes the write-combining buffer supplied (R174). -/
  | load (dst : Reg) (n : Nat) (signed : Bool) (a : Nat) (fwd : List (Option Byte))
  | vload (v : Fin 16) (a : Nat) (fwd : List (Option Byte))
  /-- HOLD of a word: virtual and physical address. -/
  | hold (dst : Reg) (a pa : Nat)
  /-- The steward's answer; the cluster read cache is then invalidated (R356). -/
  | answer (dst : Reg)
  /-- FENCE, SPFENCE, a device-scope SYSWR. -/
  | none
  /-- SPFENCE: the generation advances when the wait ends (R208). -/
  | generation
deriving DecidableEq, Repr

/-- Why a bundle is condition-parked, or a context waits for a window (R66). -/
inductive Wait where
  | reg (loc : PLoc)
  | pendRoom
  | queues (srcs dsts : List Dir)
  /-- w16 or w17 pending before a light-handler call (R151). -/
  | calleeRegs
  /-- An LDFE (`full`) or STFE waiting for its word since a cycle (R166). -/
  | fe (off : Nat) (full : Bool) (since : Nat)
  | dw (off g : Nat)
  | counter (n : Nat) (v : Nat)
  | lk (d : Dir) (c : LkCond) (prods : Nat)
  /-- A window must be spilled before a CALL, or before a trap entry or light call completes (R71, R239). -/
  | spill
  /-- Window `depth` must be refilled (R71). -/
  | refill (depth : Nat)
  | wcb
  | inj
  | copyQ
  | feedQ (d : Dir)
  | restored (d : Dir)
  /-- CTXREAP of a running context. -/
  | ctxEnds (n : Nat)
  /-- CTXSTART of a context with unacknowledged operations (R244). -/
  | ctxAcked (n : Nat)
  | noPend
  | iter
  /-- A translation in progress for the 64 KiB region (R258). -/
  | xlat (space region : Nat)
  /-- An instruction fetch from a page that is not resident (R245, R260). -/
  | page (space va : Nat)
deriving DecidableEq, Repr

/-- Why a context is parked. A result park carries the number its reply names and its bundle's length; a condition park the bundle
that re-executes when the condition holds, or none where its fetch waits. -/
inductive Park where
  | result (tok len : Nat) (r : Result)
  | cond (w : Wait) (b : Option Bundle)
  /-- Trap entry, or a light call, waiting for a window spill (R239): code, w1, w2, w3. -/
  | trapEntry (code : FCode) (w1 w2 w3 : Word)
  | lightCall (d : Dir) (v : Word)
deriving DecidableEq, Repr

/-- The states of R74. -/
inductive CtxSt where
  | idle | running | exited
deriving DecidableEq, Repr

/-- A held word: virtual and physical address (R177). -/
structure Held where
  va : Nat
  pa : Nat
deriving DecidableEq, Repr

/-- A queue entry: data and control bit (R148). -/
structure QEnt where
  v : Word
  ctl : Bool
deriving DecidableEq, Repr

/-- What a bundle whose S slot took a result park has done (R68): the cycle it issued, the entries it popped with their directions, and
the vectors, masks and flags before it. -/
structure Undo where
  at_ : Nat
  pops : List (Dir × QEnt)
  v : Table VWord
  m : Table Lane
  flags : Flags
deriving DecidableEq, Repr

/-- A context. -/
structure Ctx where
  st : CtxSt
  halted : Bool
  pc : Word
  /-- The bundle that transferred control here; 0 for sequential flow (R99, R238). -/
  src : Word
  /-- It issues in its first slot at or after this cycle (R9, R11, R222). -/
  readyAt : Nat
  trapDepth : Nat
  /-- What opened each window above the first, latest first; the window depth D is one more than their number (R71). -/
  openers : List Opener
  /-- Resident windows by depth (R71). -/
  wins : Table Win
  /-- w0 to w7 of depth 1. -/
  base : Table Word
  /-- The received registers of the oldest resident window, when the window below it is not resident, and whether its stack copy
  is still valid. -/
  recv : Table Word
  recvClean : Bool
  /-- Number of windows RET has discarded. -/
  serial : Nat
  g : Table Word
  o : Table Word
  l : Table Word
  i : Table Word
  p : Table Bool
  v : Table VWord
  m : Table Lane
  flags : Flags
  flogn : Nat
  pend : List Pend
  park : Option Park
  /-- Issue weight in force, weights written with the rotation start each governs from, and the demands of controllers by key
  (R64, R156). -/
  weight : Nat
  nextWeights : List (Nat × Nat)
  demands : Table Nat
  held : List Held
  trig : Bool
  noticed : Bool
  /-- Numbers a later write of the context waits for (R206). -/
  barrier : List Nat
  /-- Chainage number of its last COPY-group command (R203). -/
  lastCopy : Nat
  /-- The translation a walk fetched for its parked bundle: space, region, and the entry or the fault (R258). -/
  xlat : Option (Nat × Nat × Option (Nat × Nat × Nat))
  /-- prods as LKWAIT recorded it at its bundle's first issue, and whether its end has been open since (R329). -/
  prodRec : Option (Nat × Bool)
  /-- The cycle an LDFE or STFE began to wait (R166). -/
  since : Option Nat
  /-- The bytes a parked CBLOAD or EPLOAD read at its issue (R292, R305). -/
  image : Option Nat
  /-- MODEL: what a fault reply of its result park takes back (R68, R149). -/
  undo : Option Undo
deriving DecidableEq, Repr

/-! ### Cores -/

/-- A levelling controller (R153 to R158): its declaration, its parameters and its state. -/
structure Lev where
  fifo : Bool
  dir : Dir
  prodFar : Bool
  prodCtx : Nat
  cons : Nat
  en : Bool
  setp : Nat
  gp : Nat
  gi : Nat
  wp0 : Nat
  wc0 : Nat
  period : Nat
  integ : Int
  ez : Nat
  fz : Nat
  occ : Nat
  wc : Nat
  wp : Nat
  n : Nat
  /-- The cycle of its next sample. -/
  nextAt : Nat
deriving DecidableEq, Repr

/-- A binding (R201). -/
structure Binding where
  base : Nat
  lines : Nat
  obj : Obj
deriving DecidableEq, Repr

/-- A write-combining entry (R174): line addresses, byte mask and data, owners, the number its acknowledgement names, the last
merge, whether merges are over, the numbers it waits for, and the resident bit of its translation. -/
structure WC where
  pa : Nat
  va : Nat
  space : Nat
  mask : BitVec 64
  data : List Byte
  owners : List Nat
  tok : Nat
  last : Nat
  closed : Bool
  after : List Nat
  res : Bool
  /-- The size of its page (R261). -/
  size : Nat := 65536
deriving DecidableEq, Repr

/-- What an unacknowledged operation is (R198). -/
inductive OutKind where
  | remote (dst : Nat)
  | atomic (pa va : Nat)
  | wc (pa va : Nat)
  /-- An XREAD, performed when its home has read the slot: later accesses of the line keep its order (R199). -/
  | xread (pa va : Nat)
deriving DecidableEq, Repr

/-- An operation that has left its context and is not yet acknowledged. -/
structure Out where
  tok : Nat
  ctxs : List Nat
  kind : OutKind
deriving DecidableEq, Repr

/-- What an injection entry sends (R234). -/
inductive InjBody where
  | home (r : HomeReq)
  | pkt (p : Pkt)
  /-- The marker of a FENCE: the context and the number of its park. -/
  | marker (ctx tok : Nat)
deriving DecidableEq, Repr

/-- An entry of the injection queue, the numbers it is held for (R203), and the earliest cycle in which it can be sent. -/
structure Inj where
  body : InjBody
  after : List Nat
  ready : Nat := 0
deriving DecidableEq, Repr

inductive CmdKind where
  | copy | gather | scatter
deriving DecidableEq, Repr

/-- One requested row of a command: row number, where it reads and writes, its bytes once read. -/
structure Row where
  k : Nat
  src : Nat
  dst : Nat
  /-- The fill byte of an out-of-range GATHER row. -/
  fill : Option Byte
  /-- Its bytes still to write, once they have been read, and how many have been written (R278). -/
  data : Option (List Byte) := none
  done : Nat := 0
deriving DecidableEq, Repr

/-- A command of a copy context (R184 to R192). -/
structure Cmd where
  id : Nat
  kind : CmdKind
  /-- The 512 bits of the descriptor (R186, R188). -/
  desc : Nat
  swz : Bool
  fill : Byte
  ctx : Nat
  /-- The pending register's number; none for z and for schedule entries. -/
  tok : Option Nat
  num : Nat
  /-- The schedule and entry index of a static-schedule entry (R197). -/
  sched : Option (Nat × Nat)
  active : Bool
  /-- Rows (for indexed kinds, index batches) not yet requested begin here. -/
  next : Nat
  rows : List Row
  sentAll : Bool
  err : Option FCode
  oor : Nat
  /-- Numbers it waits for before it starts (R206). -/
  after : List Nat
  /-- Rows written but for words that another holds (R178): the number of those writes, the row, the core its credit goes to. -/
  waits : List (Nat × Nat × Nat) := []
  /-- Parked on a translation or residency fault at this address (R192). -/
  parked : Option Nat
  /-- Waits for a walk of the page of this address (R259). -/
  walk : Option Nat := none
  /-- The address of the first error (R238, R242). -/
  errAt : Nat := 0
deriving DecidableEq, Repr

/-- An RST.fe in the wait buffer (R166). -/
structure RstW where
  off : Nat
  v : Word
  src : Nat
  ctx : Nat
  tok : Nat
  since : Nat
deriving DecidableEq, Repr

/-- The iteration fetcher (R226). -/
structure Fetcher where
  cur : Option (Nat × Nat)
  ahead : Option (Nat × Nat)
  out : Bool
  exhausted : Bool
deriving DecidableEq, Repr

/-- A TLB entry (R258): one page of any size, with its attributes <8:3> of R256 as bits <5:0>. -/
structure TlbE where
  space : Nat
  va : Nat
  size : Nat
  pa : Nat
  attr : Nat
deriving DecidableEq, Repr

structure Core where
  team : Option Nat
  qin : Table (List QEnt)
  transit : Table (List QEnt)
  /-- Credits held toward each direction (R148). -/
  credits : Table Nat
  /-- Binding changes by direction with the cycle each governs from; the last due one holds (R150, R338). -/
  qbind : List (Nat × Nat × Option Nat)
  /-- Directions left unbound because no permitted team is there yet, with the resource map's wish (R150). -/
  wish : Table (Option Nat)
  handlers : Table Word
  free : List Nat
  essential : List Nat
  lev : Table Lev
  /-- Binding slots with the cycle each change governs from (R286, R358). -/
  slots : List (Nat × Nat × Option Binding)
  wcb : List WC
  unacked : List Out
  inj : List Inj
  cmds : List Cmd
  /-- Released schedule entries that wait for a place (R184): the schedule and the entry. -/
  schWait : List (Nat × Nat)
  /-- Commands numbered, the chainage counter, and completed numbers above it (R194). -/
  copyNum : Nat
  copyCtr : Nat
  copyDone : List Nat
  rstWait : List RstW
  /-- Refused RST.fe (R166), and refused writes of R248, oldest first: the source core plus 4096 times the number. -/
  rstRefused : List Nat
  refused : List Nat
  gen : Nat
  fetch : Fetcher
  utlb : List TlbE
  /-- The core's share of its team has ended, and its exited contexts are reaped (R75). -/
  ended : Bool
deriving DecidableEq, Repr

/-- A line of a cluster read cache (R173). -/
structure RLine where
  space : Nat
  va : Nat
  pa : Nat
  data : List Byte
deriving DecidableEq, Repr

structure Cluster where
  /-- Most recently used first. -/
  lines : List RLine
  tlb : List TlbE
  /-- The cycle from which the copy engine can move its next beat (R184). -/
  beatAt : Nat := 0
deriving DecidableEq, Repr

/-- A service request (R356). -/
structure SvcReq where
  tok : Nat
  core : Nat
  ctx : Nat
  svc : Nat
  node : Nat
  slot : Nat
  arg : Word
deriving DecidableEq, Repr

structure Steward where
  popped : Option SvcReq
  svcarg : Word
  stroot : Word
  stvec : Word
  /-- MODEL: the request number at its TLBINV write: earlier accesses are awaited (R261). -/
  inv : Option Nat
deriving DecidableEq, Repr

/-! ### The fabric -/

/-- An input channel of a router: packets, oldest first, and its ageing counter (R231, R235). -/
structure Chan where
  q : List Pkt
  age : Nat
deriving DecidableEq, Repr

structure Router where
  /-- Key 16 * input port + 4 * class + (0, 1 adaptive, 2, 3 escape halves). -/
  chans : Table Chan
  /-- The port last granted at each output, and the cycle its packet ends. -/
  last : Table Nat
  busy : Table Nat
  /-- Packets of the local port that wait for a buffer of it (R231). -/
  wait : List Pkt
deriving DecidableEq, Repr

/-! ### Pleach engines -/

/-- A lease (R101): team, priority, the leasing context and pending number, grant cycle, cycles queued. -/
structure Lease where
  team : Nat
  pri : Nat
  core : Nat
  ctx : Nat
  tok : Nat
  grantAt : Nat
  waited : Nat
deriving DecidableEq, Repr

/-- A fault posted to an end (R122): its party (16 times the team's number plus the context), and the address of its descriptor. -/
structure Post where
  code : FCode
  ctx : Nat
  addr : Nat
  prod : Nat
  kdone : Nat
  why : Nat
deriving DecidableEq, Repr

/-- A queued feed (R111): handle, base, stride, K-block count and blocks fetched, chainage number, the codebooks in force at its
issue (R114). -/
structure Feed where
  handle : Nat
  base : Nat
  stride : Nat
  count : Nat
  pos : Nat
  num : Nat
  books : Table (List (BitVec 16))
  /-- The scratchpad generation at its issue (R228). -/
  gen : Nat
deriving DecidableEq, Repr

/-- A line of an operand cache (R113). -/
structure CLine where
  handle : Nat
  gen : Nat
  off : Nat
  data : List Byte
deriving DecidableEq, Repr

/-- One K index of an operand: its 32 elements (`none` absent), or the fault its decoding raises (R49, R122). -/
structure Col where
  k : Nat
  els : List (Option Num)
  bad : Option FCode
  /-- Where it was read: the feed, the K-block, the place in the block. -/
  feed : Feed
  blk : Nat
  sub : Nat
  /-- The cycle of its fetch. -/
  at_ : Nat
deriving DecidableEq, Repr

/-- A K-block of an operand stream (R111): its feed, its place in the feed, its first K index, and the columns a rewind keeps of it, when
its feed has retired (R133). -/
structure Blk where
  feed : Feed
  blk : Nat
  k0 : Nat
  kept : List Col
deriving DecidableEq, Repr

/-- What a loader reads: the cycle its read ends in, the K-block (none for the preload tile, R116), and whether that block is the next of
the feeds, not one read before. -/
structure Fetch where
  ends : Nat
  what : Option Blk
  fresh : Bool
deriving DecidableEq, Repr

/-- A topiary configuration (R129): term count, N:M code, mode, loss bound, and the cycle it was issued. -/
structure SpCfg where
  t : Nat
  nm : Nat
  mode : Nat
  bound : BitVec 32
  at_ : Nat
  /-- For the tie of R130: the address of the LKSPARSE, and what its bundle's V slot may have changed. -/
  pc : Word
  undo : Option (Table VWord × Table Lane × Flags)
deriving DecidableEq, Repr

/-- An open waiting for the old rendezvous to end (R276). -/
structure HeldOpen where
  ctx : Nat
  roleB : Bool
  desc : Nat
  addr : Nat
  tok : Nat
  feeds : List Feed
  cfgs : List SpCfg
  /-- Acknowledgements that RLS puts before its feeds (R206). -/
  acks : List (Nat × Nat)
deriving DecidableEq, Repr

/-- An end of an engine. -/
structure EEnd where
  isOpen : Bool
  /-- 16 times the team's number, plus the context. -/
  party : Nat
  /-- The context that most recently opened it (R322). -/
  last : Option Nat
  roleB : Bool
  desc : Nat
  addr : Nat
  /-- The LKOPEN register not yet written. -/
  tok : Option Nat
  feeds : List Feed
  heldOpen : Option HeldOpen
  /-- The posted fault, and a second resumable one held behind it (R123, R254). -/
  fault : Option Post
  fault2 : Option Post
  handles : Table Nat
  cache : List CLine
  books : Table (List (BitVec 16))
  /-- The operand FIFO, and the columns of products whose pre-pass has not ended (R115, R132). -/
  fifo : List Col
  pre : List Col
  /-- The read in progress, the K-blocks to be read again (R122, R275), and the number of products whose preload tile is read (R116). -/
  fetch : Option Fetch
  again : List Blk
  preTile : Nat
  /-- K indices of the stream fetched since the rendezvous formed. -/
  fetched : Nat
  /-- The automatic controller's demand and those of declared controllers (R157). -/
  autoWeight : Nat
  demands : Table Nat
  /-- rsum or csum of the product in progress, as numbers (R112), and its K indices summed. -/
  sums : List Lane
  /-- K indices of the feeds accepted since the rendezvous formed. -/
  fed : Nat
  /-- A feed fault at this end waits for its party's next link instruction (R122). -/
  resume : Bool
deriving DecidableEq, Repr

/-- One K-step of a topiary plan: the groups its slots belong to and the K index of each of `d` slots for each column or row (R133), or
one clipping. -/
inductive PStep where
  | term (groups : List Nat) (slots : List (List (Option Nat)))
  | clip (k n : Nat)
deriving DecidableEq, Repr

/-- The plan of a product (R132, R133): its configuration's side and M, its steps, the columns both loaders read in the pre-pass, and the
cycle the pre-pass ended. -/
structure Plan where
  sideB : Bool
  mm : Nat
  steps : List PStep
  colsA : List Col
  colsB : List Col
  at_ : Nat
deriving DecidableEq, Repr

/-- Status word 1 and the bit fb of a product (R124, R135, R136). -/
structure Counts where
  loss : BitVec 32
  executed : Nat
  dropped : Nat
  fb : Bool
deriving DecidableEq, Repr

/-- A drain (R117): the product, the copied tile, next row, sums and K, receiver fields, format, epilogue image, chainage
number; whether a split drain or an LKDRAIN copy. -/
structure Drain where
  prod : Nat
  tile : List Lane
  row : Nat
  rsum : List Lane
  csum : List Lane
  num : Nat
  split : Bool
  forced : Bool
  /-- The last drain of its product. -/
  final : Bool
  image : Option (List Byte)
  /-- The cycle it may begin, and whether its receiver checks have passed. -/
  due : Nat
  begun : Bool
  /-- Rows written at the receiver. -/
  landed : Nat
  /-- The K-step of the product its sums begin with (R119). -/
  k0 : Nat
deriving DecidableEq, Repr

structure Engine where
  st : EState
  lease : Option Lease
  /-- It holds a token of its die; a suspended engine does not (R252). -/
  token : Bool
  /-- An UNLEASE is recorded (R13, R359). -/
  unl : Bool
  near : EEnd
  far : EEnd
  formed : Bool
  tile0 : List Lane
  tile1 : List Lane
  prod : Nat
  kdone : Nat
  prods : Nat
  /-- K indices of the product in progress consumed. -/
  kpos : Nat
  /-- K-steps since the last split drain (R119). -/
  since : Nat
  /-- The tile of the product in progress has its preload or zeros (R116). -/
  started : Bool
  cfgA : List SpCfg
  cfgB : List SpCfg
  /-- The plans of products whose pre-pass has ended. -/
  plans : Table Plan
  /-- Pairs that passed the intersection unit since the last executed K-step, with whether each survives (R127). -/
  passed : List (Col × Col × Bool)
  /-- Pairs consumed since the product's first K-step, or its last split drain, latest first (R246). -/
  hist : List (Col × Col × Bool)
  /-- The configuration each product's pre-pass began with: side B and the configuration (R129). -/
  sp : Table (Option (Bool × SpCfg))
  /-- LKSPARSEs recorded while suspended (R327). -/
  spLater : List (Bool × SpCfg)
  /-- The cycle of R12, and the cycle after the last K-step (R118). -/
  t0 : Nat
  expect : Nat
  /-- The cycle from which the loaders, the engine and the epilogue stand still, and whether for a feed (R17, R121); and the cycles in which
  the drain path holds the epilogue's row (R147). -/
  held : Option (Nat × Bool)
  press : Option (Nat × Nat)
  /-- The cycle from which the next row may enter the epilogue (R147). -/
  rowAt : Nat
  /-- Drains under way or waiting, oldest first, and the tile held after a drain fault (R117). -/
  drains : List Drain
  heldTile : Option Drain
  /-- LKDRAIN copies asked for and not yet taken (R120): their numbers. -/
  copies : List Nat
  /-- The state before a fault, and the state a suspension saved (R125). -/
  back : EState
  saved : EState
  /-- Bits <255:128> of the A descriptor, as LKDRAIN may have replaced them. -/
  recv : Nat
  nbv : Nat
  ep : Table (List Byte)
  /-- EPLOADs with the cycle they govern from (R114). -/
  epLater : List (Nat × Nat × List Byte)
  /-- When the drain path is free, in 64ths of a cycle (R117, R147). -/
  path : Nat
  stalls : Nat
  /-- The counts of products with a pre-pass. -/
  counts : Table Counts
  /-- Chainage: numbers given, counter, completed numbers above it (R194). -/
  num : Nat
  ctr : Nat
  done : List Nat
  /-- The cycle and number of the last LKFEED of the B end (R194). -/
  lastB : Option (Nat × Nat)
  /-- The team whose context area holds it (R252), the priority it is re-leased at, and a broken or discarded record (R254). -/
  savedBy : Option Nat
  savedPri : Nat
  broken : Bool
  /-- A pre-emption or eviction stops it at its next K-step boundary. -/
  stopping : Bool
  /-- Acknowledgements (core, number) its drains wait for, by an RLS before its LINK commands (R206). -/
  acks : List (Nat × Nat)
deriving DecidableEq, Repr

/-- An epilogue row in progress (R137): engine, next word, e0 to e5. -/
structure EpiRow where
  link : Nat
  word : Nat
  e : List (List Lane)
  /-- Cycles the drain path held the row (R147). -/
  stall : Nat
deriving DecidableEq, Repr

/-! ### Dies and memory -/

/-- A walk in progress (R259): the requester's space and 64 KiB region, and the misses that wait for it. -/
structure Walk where
  space : Nat
  region : Nat
  waiters : List (Nat × Nat)
  /-- The cycle in which it ends; 0 while it waits for a walker. -/
  ends : Nat := 0
deriving DecidableEq, Repr

structure Die where
  tokens : Nat
  free : Nat
  fifos : Table (List LeaseReq)
  walks : List Walk
  resq : List HomeReq
  /-- The cycle of the last grant of its lease queue (R101). -/
  granted : Option Nat
  /-- Home-buffer lines, most recently used first, with the dirty mark (R172). -/
  lines : List (Nat × Bool)
deriving DecidableEq, Repr

/-- A pseudo-channel (R236): queued requests with the cycle each entered. -/
structure HbmChan where
  reads : List (Nat × HomeReq)
  writes : List (Nat × Nat)
  fine : List (Nat × HomeReq)
  row : Option Nat
  draining : Bool
  notBefore : Nat
deriving DecidableEq, Repr

/-- A held word: its holder and the queue at its home (R177, R178). -/
structure HoldQ where
  core : Nat
  ctx : Nat
  queue : List HomeReq
deriving DecidableEq, Repr

/-! ### Graphs, teams and the switch -/

structure Variant where
  w : Nat
  h : Nat
  entry : Nat
deriving DecidableEq, Repr

/-- An entry of a static schedule (R196). -/
structure SEntry where
  stage : Nat
  cx : Nat
  cy : Nat
  kind : CmdKind
  swz : Bool
  fill : Byte
  desc : Nat
deriving DecidableEq, Repr

/-- A resource-map entry (R221): bits <63:0>, whose fields `a` keep the numbers of the map, then b and c. -/
structure RmEntry where
  kind : Nat
  cx : Nat
  cy : Nat
  a : Nat
  b : Nat
  c : Nat
deriving DecidableEq, Repr

/-- A launch record (R218). -/
structure LRec where
  ctxa : Nat
  trapv : Nat
  pri : Nat
  nbv : Nat
  wss : Nat
  ff : Nat
  cmin : Nat
  hint : Nat
  ext : List Nat
  vars : List Variant
  lev : List (Nat × Nat)
  peers : List Nat
  sch : List (List SEntry)
  rm : List RmEntry
  /-- The essential free marks of R159: core offset (cx, cy) and context. -/
  essential : List (Nat × Nat × Nat)
deriving DecidableEq, Repr

structure Edge where
  trig : Bool
  src : Nat
  dst : Nat
deriving DecidableEq, Repr

/-- A patch point (R213): a launch-record word of a node, or a global memory word. -/
inductive Patch where
  | word (node k : Nat)
  | mem (va : Nat)
deriving DecidableEq, Repr

structure Graph where
  nodes : List LRec
  edges : List Edge
  patches : List Patch
  codeBase : Nat
deriving DecidableEq, Repr

/-- Where a node stands in a replay (R217, R225). -/
inductive NodeSt where
  | waiting
  | ready (since : Nat)
  | placed (team : Nat)
  | triggered (team : Nat)
  | completed
  | dropped
deriving DecidableEq, Repr

structure Replay where
  kickedAt : Nat
  /-- The cause it will end with (R215). -/
  err : Nat
  nodes : List NodeSt
  recs : List LRec
deriving DecidableEq, Repr

/-- A graph slot (R214, R215, R262). -/
structure Slot where
  graph : Option Graph
  kicks : List (Nat × Nat)
  replay : Option Replay
  err : Nat
  lost : Nat
  done : Nat
  root : Nat
deriving DecidableEq, Repr

inductive TeamSt where
  | placed | running | stopping | suspended | halted
deriving DecidableEq, Repr

/-- A halt report (R253): core, context, code, bundle address, w2, w3. -/
structure Halt where
  core : Nat
  ctx : Nat
  code : FCode
  pc : Word
  w2 : Word
  w3 : Word
deriving DecidableEq, Repr

/-- A schedule of a team (R197): entries released, numbers completed, and the chainage counter. -/
structure SchedSt where
  released : Nat
  ctr : Nat
  done : List Nat
deriving DecidableEq, Repr

structure Team where
  slot : Nat
  node : Nat
  die : Nat
  ox : Nat
  oy : Nat
  variant : Nat
  lr : LRec
  codeBase : Nat
  st : TeamSt
  placedAt : Nat
  readyAt : Nat
  stage : Nat
  scheds : List SchedSt
  /-- The traverse counter (R226). -/
  next : Nat
  halt : Option Halt
  /-- CSTAGE releases held under R203: context, stage, and the numbers and copy number they wait for. -/
  stages : List (Nat × Nat × Nat × List Nat × Nat)
  /-- TRIG releases held: core, context, numbers, copy number. -/
  trigs : List (Nat × Nat × List Nat × Nat)
  /-- Saved engines that were idle: their codebooks and epilogue slots (R125, R251). -/
  saved : List (Nat × Engine)
  /-- What its context area holds of its contexts and cores while it is pre-empted, and completions that came meanwhile (R247, R250). -/
  savedCtx : List (Nat × Ctx)
  savedCore : List (Nat × Core)
  late : List (Nat × Nat × Nat × Word)
deriving DecidableEq, Repr

/-- The switch sequencer (R247): team, step 1 to 5, the cycle and the bundles of step 2. -/
structure Switch where
  team : Nat
  step : Nat
  since : Nat
  bundles : Nat
  /-- The steward core and number that SWREQ parked. -/
  waiter : Option (Nat × Nat)
deriving DecidableEq, Repr

/-! ### Boot and host -/

/-- A copy of a signed image in flash: valid, and its bytes (R27). -/
structure FlashCopy where
  valid : Bool
  data : List Byte
deriving DecidableEq, Repr

/-- The FLASHWR in progress: kind, copy, bytes so far (R35). -/
structure FlashBuf where
  kind : Nat
  copy : Nat
  total : Nat
  data : List Byte
deriving DecidableEq, Repr

/-- A running mailbox command (R34): its tag, the result it ends with, RES0 to RES3, and DATA where it gives any. -/
structure MailRun where
  tag : BitVec 16
  result : Nat
  res : List Word
  data : List Byte
  /-- It forms an attestation report (R31). -/
  report : Bool
deriving DecidableEq, Repr

/-- The host mailbox (R34). -/
structure Mailbox where
  args : Table Word
  res : Table Word
  data : Table Byte
  busy : Bool
  ovr : Bool
  tag : BitVec 16
  result : Nat
  running : Option MailRun
  /-- ATTESTs that wait for the report being formed: tag and nonce (R31). -/
  waiting : List (BitVec 16 × List Byte)
  resetAfter : Bool
  msix : Nat
deriving DecidableEq, Repr

/-- Boot status, record 0x0007 (R25). -/
structure Boot where
  reached : Nat
  failed : Nat
  cause : Nat
  recovery : Bool
  ready : Bool
  lostk : Nat
deriving DecidableEq, Repr

/-- Training outcomes of bring-up (R20, R21, R32). -/
structure Training where
  hbmTries : Table Nat
  hbmOk : BitVec 12
  sram : Option Bool
  bridge : Option Bool
  /-- lanes and version of each span link; width and rate of each port. -/
  span : Table (Nat × Nat)
  port : Table (Nat × Nat)
deriving DecidableEq, Repr

/-- The machine. -/
structure State where
  /-- The common core cycle count t (R60). -/
  now : Nat
  /-- MODEL: the next core to be offered this cycle's slot. -/
  turn : Nat
  /-- MODEL: internal events and the cycle each is due, sorted by that cycle. -/
  agenda : List (Nat × Instr)
  /-- MODEL: what the outside world does next, each with the cycle it happens at or after. -/
  inputs : List (Nat × Instr)
  /-- MODEL: the next request number. -/
  tok : Nat
  /-- MODEL: the next argument of a free value. -/
  fresh : Nat
  /-- MODEL: the context whose operation `exec` runs, and its bundle's length. -/
  curCore : Nat
  curCtx : Nat
  curLen : Nat
  /-- The bundle of the acting context, for an LDFE or STFE that waits. -/
  curBundle : Option Bundle
  /-- MODEL: the S operation just run took no effect (a trap or a condition park), so its bundle's V slot takes none. -/
  noEffect : Bool
  epi : Option EpiRow
  mem : List Host.Cell
  full : List Nat
  bad : List Nat
  ctxs : Table Ctx
  cores : Table Core
  clusters : Table Cluster
  stewards : Table Steward
  /-- Steward cores stopped by a fatal fault (R383). -/
  stewardStopped : Bool
  routers : Table Router
  engines : Table Engine
  dies : Table Die
  chans : Table HbmChan
  holds : Table HoldQ
  svcq : List SvcReq
  /-- TRAP requests held under R203 or waiting for room in the service queue: request, numbers and copy number. -/
  svcHeld : List (SvcReq × List Nat × Nat)
  /-- Reports of nonempty fault logs at completion (R244): slot, node, core, context, address of the log. -/
  flogReports : List (Nat × Nat × Nat × Nat × Nat)
  teams : Table Team
  slots : Table Slot
  switch : Option Switch
  dbghz : Bool
  evictwait : Nat
  preemptwait : Nat
  escwait : Nat
  /-- Inbound windows of span links: base and size (R171). -/
  spanin : Table (Nat × Nat)
  /-- Harvested core ids (R28, R29). -/
  harvest : List Nat
  spanEn : BitVec 24
  portEn : BitVec 8
  mailbox : Mailbox
  boot : Boot
  flash : Table FlashCopy
  flashBuf : Option FlashBuf
  /-- The images boot has chosen, by stage (R27). -/
  images : Table (List Byte)
  measures : Table (BitVec 256)
  training : Training
  hostRead : List Byte
  /-- Port-range accesses waiting for a PCIe completion: core, context, number, and the cycle of the request (R171). -/
  pcie : List (Nat × Nat × Nat × Nat)
  /-- Cores that a throttle step covers (R17, R65). -/
  throttled : List Nat
  powered : Bool
deriving DecidableEq, Repr

/-! ### Defaults -/

def Flags.zero : Flags := ⟨false, false, false, false, false⟩

/-- An idle context: what an unlisted context is (R69, R74, R301). -/
def Ctx.idle : Ctx :=
  { st := .idle, halted := false, pc := 0, src := 0, readyAt := 0, trapDepth := 0, openers := [],
    wins := .empty, base := .empty, recv := .empty, recvClean := true, serial := 0, g := .empty, o := .empty, l := .empty,
    i := .empty, p := .empty, v := .empty, m := .empty, flags := Flags.zero, flogn := 0, pend := [], park := none,
    weight := 16, nextWeights := [], demands := .empty, held := [], trig := false, noticed := false, barrier := [],
    lastCopy := 0, xlat := none, prodRec := none, since := none, image := none, undo := none }

/-- An unlisted core: in no team. -/
def Core.idle : Core :=
  { team := none, qin := .empty, transit := .empty, credits := .empty, qbind := [], wish := .empty, handlers := .empty,
    free := [], essential := [], lev := .empty, slots := [], wcb := [], unacked := [], inj := [], cmds := [], schWait := [], copyNum := 0,
    copyCtr := 0, copyDone := [], rstWait := [], rstRefused := [], refused := [], gen := 0,
    fetch := ⟨none, none, false, false⟩, utlb := [], ended := false }

def Counts.zero : Counts := ⟨0, 0, 0, false⟩
def EEnd.closed : EEnd :=
  { isOpen := false, party := 0, last := none, roleB := false, desc := 0, addr := 0, tok := none, feeds := [],
    heldOpen := none, fault := none, fault2 := none, handles := .empty, cache := [], books := .empty, fifo := [],
    pre := [], fetch := none, again := [], preTile := 0, fetched := 0, autoWeight := 16, demands := .empty, sums := [], fed := 0, resume := false }

/-- An unlisted engine: dormant, no lease, nothing recorded. -/
def Engine.dormant : Engine :=
  { st := .dormant, lease := none, token := false, unl := false, near := .closed, far := .closed, formed := false, tile0 := [], tile1 := [], prod := 0,
    kdone := 0, prods := 0, kpos := 0, since := 0, started := false, cfgA := [], cfgB := [], plans := .empty, passed := [],
    hist := [], sp := .empty, spLater := [], t0 := 0,
    expect := 0, held := none, press := none, rowAt := 0, drains := [],
    heldTile := none, copies := [], back := .idle, saved := .idle, recv := 0, nbv := 0, ep := .empty, epLater := [], path := 0, stalls := 0,
    counts := .empty, num := 0, ctr := 0, done := [], lastB := none, savedBy := none, savedPri := 0,
    broken := false, stopping := false, acks := [] }

def Cluster.idle : Cluster := ⟨[], [], 0⟩
def Steward.idle : Steward := ⟨none, 0, 0, 0, none⟩
def Router.idle : Router := ⟨.empty, .empty, .empty, []⟩
def Chan.idle : Chan := ⟨[], 0⟩
def Die.idle : Die := ⟨0, 0, .empty, [], [], none, []⟩
def HbmChan.idle : HbmChan := ⟨[], [], [], none, false, 0⟩
def Slot.idle : Slot := ⟨none, [], none, 0, 0, 0, 0⟩
def FlashCopy.blank : FlashCopy := ⟨false, []⟩
def Mailbox.idle : Mailbox := ⟨.empty, .empty, .empty, false, false, 0, 0, none, [], false, 0⟩
def Boot.start : Boot := ⟨1, 0, 0, false, false, 0⟩
def Training.none : Training := ⟨.empty, 0, Option.none, Option.none, .empty, .empty⟩

/-- The machine right after reset: core cycle 0 on every core (R60), nothing placed, not ready (R30), DBGHZ, EVICTWAIT,
PREEMPTWAIT and ESCWAIT at the values of R355, stage 1 reached and the boot ROM about to choose stage 2 (R26). Values the spec does not give: log entry 1. -/
def State.reset : State :=
  { now := 0, turn := 0, agenda := [(1, .bootStage 2)], inputs := [], tok := 1, fresh := 0, curCore := 0, curCtx := 0, curLen := 8,
    curBundle := none, noEffect := false, epi := none, mem := [], full := [], bad := [], ctxs := .empty, cores := .empty, clusters := .empty,
    stewards := .empty, stewardStopped := false, routers := .empty, engines := .empty, dies := .empty, chans := .empty,
    holds := .empty, svcq := [], svcHeld := [], flogReports := [], teams := .empty, slots := .empty, switch := none, dbghz := false, evictwait := 100000,
    preemptwait := 2000000, escwait := 64, spanin := .empty, harvest := [], spanEn := 0, portEn := 0,
    mailbox := .idle, boot := .start, flash := .empty, flashBuf := none, images := .empty, measures := .empty, training := .none,
    hostRead := [], pcie := [], throttled := [], powered := true }

end Sys2Proof.Machine
end

