-- ==== Sys2Proof/Machine/Memory.lean ====
section
/-! DEFINITION. The one memory: a canonical list of nonzero cells. Scratchpad byte `off` of core `c` is the cell
`Config.spadBase + c * 0x20000 + off`; every lower cell is a physical address (R160, R171). An unlisted cell reads zero (log
entry 2). -/

namespace Sys2Proof.Machine

/-- The byte at an address. (DESIGN CHOICE, log entry 2.) -/
def memRead : List Host.Cell → Nat → Byte
  | [], _ => 0
  | c :: cs, a => if c.1 = a then c.2 else memRead cs a

/-- Write one byte, keeping the canonical form: addresses strictly rising, no zero listed. -/
def memWrite : List Host.Cell → Nat → Byte → List Host.Cell
  | [], a, b => if b = 0 then [] else [(a, b)]
  | c :: cs, a, b =>
    if c.1 < a then c :: memWrite cs a b
    else if c.1 = a then (if b = 0 then cs else (a, b) :: cs)
    else if b = 0 then c :: cs else (a, b) :: c :: cs

/-- `n` bytes from an address upward. -/
def memBytes (m : List Host.Cell) : Nat → Nat → List Byte
  | 0, _ => []
  | n + 1, a => memRead m a :: memBytes m n (a + 1)

/-- Write bytes from an address upward. -/
def memPut (m : List Host.Cell) : Nat → List Byte → List Host.Cell
  | _, [] => m
  | a, b :: bs => memPut (memWrite m a b) (a + 1) bs

/-- Write the bytes a mask selects. -/
def memPutMasked (m : List Host.Cell) (a : Nat) (mask : Nat) : List Byte → List Host.Cell
  | [] => m
  | b :: bs => memPutMasked (if mask % 2 = 1 then memWrite m a b else m) (a + 1) (mask / 2) bs

/-- Every cell from `lo` up to but not including `hi` reads zero. -/
def memClear (m : List Host.Cell) (lo hi : Nat) : List Host.Cell := m.filter (fun c => c.1 < lo || hi ≤ c.1)

/-- Copy `n` bytes from `src` to `dst`; the two spans do not overlap. -/
def memMove (m : List Host.Cell) (src dst n : Nat) : List Host.Cell :=
  m.filter (fun c => c.1 < dst) ++ (m.filter (fun c => src ≤ c.1 && c.1 < src + n)).map (fun c => (dst + (c.1 - src), c.2))
    ++ m.filter (fun c => dst + n ≤ c.1)

/-- The canonical form: addresses strictly rising and no listed zero. -/
def memWfFrom : Nat → List Host.Cell → Bool
  | _, [] => true
  | lo, c :: cs => lo ≤ c.1 && c.2 != 0 && memWfFrom (c.1 + 1) cs
def Memory.wf (m : List Host.Cell) : Bool := memWfFrom 0 m

/-- A little-endian value of `n` bytes. -/
def memLe (m : List Host.Cell) (n a : Nat) : Nat := leNat (memBytes m n a)

/-- The cell of a scratchpad byte. -/
def spad (core off : Nat) : Nat := Config.spadBase + core * Config.spadSize + off

/-- Write bytes: an aligned word written whole has new check bits (R246). -/
def State.store (s : State) (cell : Nat) (bs : List Byte) : State :=
  { s with
    mem := memPut s.mem cell bs
    bad := s.bad.filter (fun w => !(cell ≤ w && w + 8 ≤ cell + bs.length)) }
/-- An uncorrectable error in an aligned word that a span touches (R246). -/
def State.badIn (s : State) (cell n : Nat) : Bool := s.bad.any (fun w => w < cell + n && cell < w + 8)
/-- An uncorrectable error in a word that a span writes only in part. -/
def State.badPart (s : State) (cell n : Nat) : Bool :=
  s.bad.any (fun w => w < cell + n && cell < w + 8 && !(cell ≤ w && w + 8 ≤ cell + n))
/-- The keys of `bad` above every cell: the head entry of a core's inbound queue, and an engine's accumulator tile. -/
def badQueue (core dir : Nat) : Nat := 2 ^ 54 + 4 * core + dir
def badTile (link : Nat) : Nat := 2 ^ 55 + link

/-- Insert into, or remove from, a rising list. -/
def insertNat (a : Nat) : List Nat → List Nat
  | [] => [a]
  | x :: xs => if a < x then a :: x :: xs else if a = x then x :: xs else x :: insertNat a xs
def removeNat (a : Nat) (xs : List Nat) : List Nat := xs.filter (· != a)

/-- The full/empty bits of `n` words from a word's cell upward (R165). -/
def setFullRange (full : List Nat) (b : Bool) : Nat → Nat → List Nat
  | 0, _ => full
  | n + 1, a => setFullRange (if b then insertNat a full else removeNat a full) b n (a + 8)

end Sys2Proof.Machine
end

