-- ==== Sys2Proof/Machine/Ops.lean ====
section
/-! DEFINITION. The named operations over contexts, cores, windows and registers, and taking an exception. -/

namespace Sys2Proof.Machine

/-! ### Where things are -/

/-- Core ids: die 576 * d + 24 * y + x; steward core k is 2304 + k. -/
def isSteward (c : Nat) : Bool := Config.cores ≤ c
def coreDie (c : Nat) : Nat := if isSteward c then 0 else c / 576
def coreY (c : Nat) : Nat := c % 576 / 24
def coreX (c : Nat) : Nat := c % 24
def coreAt (d x y : Nat) : Nat := 576 * d + 24 * y + x
/-- The neighbour in a direction (R100, R148). -/
def neighbour (c : Nat) : Dir → Nat
  | .e => coreAt (coreDie c) ((coreX c + 1) % 24) (coreY c)
  | .w => coreAt (coreDie c) ((coreX c + 23) % 24) (coreY c)
  | .s => coreAt (coreDie c) (coreX c) ((coreY c + 1) % 24)
  | .n => coreAt (coreDie c) (coreX c) ((coreY c + 23) % 24)
def dirNum : Dir → Nat
  | .e => 0 | .s => 1 | .w => 2 | .n => 3
def dirOf : Nat → Dir
  | 0 => .e | 1 => .s | 2 => .w | _ => .n
def dirOpp : Dir → Dir
  | .e => .w | .w => .e | .n => .s | .s => .n
def allDirs : List Dir := [.e, .s, .w, .n]
/-- The core that owns the link in a direction, and whether it is this core (R100). -/
def linkOwner (c : Nat) (d : Dir) : Nat :=
  match d with
  | .e | .s => c
  | .w | .n => neighbour c d
/-- The global link id (R100). -/
def linkId (c : Nat) (d : Dir) : Nat :=
  let o := linkOwner c d
  1152 * coreDie o + 2 * (24 * coreY o + coreX o) + (match d with
    | .e | .w => 0
    | .s | .n => 1)
/-- The owner core of a link, and the core at its far end. -/
def linkNear (l : Nat) : Nat := 576 * (l / 1152) + l % 1152 / 2
def linkFar (l : Nat) : Nat := neighbour (linkNear l) (if l % 2 = 0 then .e else .s)
/-- Whether the link's near end is this core's end in the direction. -/
def isNear (d : Dir) : Bool :=
  match d with
  | .e | .s => true
  | .w | .n => false
/-- The direction by which an end's core names a link. -/
def linkDir (l : Nat) (far : Bool) : Dir :=
  if l % 2 = 0 then (if far then .w else .e) else (if far then .n else .s)
/-- The cluster of a core (R15); a steward core has a cache of its own (R19, R262). -/
def clusterOf (c : Nat) : Nat :=
  if isSteward c then 576 + (c - Config.cores) else 144 * coreDie c + 12 * (coreY c / 2) + coreX c / 2

/-! ### Reading and updating units -/

def State.ctx (s : State) (c n : Nat) : Ctx := Table.get Ctx.idle s.ctxs (16 * c + n)
def State.setCtx (s : State) (c n : Nat) (x : Ctx) : State := { s with ctxs := s.ctxs.set (16 * c + n) x }
def State.modCtx (s : State) (c n : Nat) (f : Ctx → Ctx) : State := s.setCtx c n (f (s.ctx c n))
def State.core (s : State) (c : Nat) : Core := Table.get Core.idle s.cores c
def State.setCore (s : State) (c : Nat) (x : Core) : State := { s with cores := s.cores.set c x }
def State.modCore (s : State) (c : Nat) (f : Core → Core) : State := s.setCore c (f (s.core c))
def State.eng (s : State) (l : Nat) : Engine := Table.get Engine.dormant s.engines l
def State.setEng (s : State) (l : Nat) (x : Engine) : State := { s with engines := s.engines.set l x }
def State.modEng (s : State) (l : Nat) (f : Engine → Engine) : State := s.setEng l (f (s.eng l))
def State.cluster (s : State) (k : Nat) : Cluster := Table.get Cluster.idle s.clusters k
def State.modCluster (s : State) (k : Nat) (f : Cluster → Cluster) : State :=
  { s with clusters := s.clusters.set k (f (s.cluster k)) }
def State.die (s : State) (d : Nat) : Die := Table.get Die.idle s.dies d
def State.modDie (s : State) (d : Nat) (f : Die → Die) : State := { s with dies := s.dies.set d (f (s.die d)) }
def State.chan (s : State) (k : Nat) : HbmChan := Table.get HbmChan.idle s.chans k
def State.modChan (s : State) (k : Nat) (f : HbmChan → HbmChan) : State := { s with chans := s.chans.set k (f (s.chan k)) }
def State.router (s : State) (k : Nat) : Router := Table.get Router.idle s.routers k
def State.modRouter (s : State) (k : Nat) (f : Router → Router) : State := { s with routers := s.routers.set k (f (s.router k)) }
def State.steward (s : State) (k : Nat) : Steward := Table.get Steward.idle s.stewards k
def State.modSteward (s : State) (k : Nat) (f : Steward → Steward) : State :=
  { s with stewards := s.stewards.set k (f (s.steward k)) }
def State.slot (s : State) (k : Nat) : Slot := Table.get Slot.idle s.slots k
def State.modSlot (s : State) (k : Nat) (f : Slot → Slot) : State := { s with slots := s.slots.set k (f (s.slot k)) }
def State.modTeam (s : State) (t : Nat) (f : Team → Team) : State :=
  match s.teams.find t with
  | some x => { s with teams := s.teams.set t (f x) }
  | none => s
/-- The team a core is in. -/
def State.teamOf (s : State) (c : Nat) : Option (Nat × Team) :=
  match (s.core c).team with
  | some t => (s.teams.find t).map (fun x => (t, x))
  | none => none
/-- A context as an engine end names it: 16 times its team's number, plus its own. (DEDUCED, log entry 39.) -/
def State.meId (s : State) : Nat := 16 * (s.core s.curCore).team.getD 0 + s.curCtx
/-- The acting context. -/
def State.me (s : State) : Ctx := s.ctx s.curCore s.curCtx
def State.modMe (s : State) (f : Ctx → Ctx) : State := s.modCtx s.curCore s.curCtx f

/-- Schedule an internal event; events of one cycle keep the order they were scheduled in. -/
def insertEv (due : Nat) (i : Instr) : List (Nat × Instr) → List (Nat × Instr)
  | [] => [(due, i)]
  | e :: es => if due < e.1 then (due, i) :: e :: es else e :: insertEv due i es
def State.sched (s : State) (delay : Nat) (i : Instr) : State := { s with agenda := insertEv (s.now + delay) i s.agenda }

/-- Entries that govern from a cycle, by key: a change replaces what will have governed then, and past changes are folded. -/
def timedGet {α : Type} (now k : Nat) (l : List (Nat × Nat × Option α)) : Option α :=
  l.foldl (fun acc e => if e.1 ≤ now ∧ e.2.1 = k then e.2.2 else acc) none
def timedPut {α : Type} (now delay k : Nat) (v : Option α) (l : List (Nat × Nat × Option α)) : List (Nat × Nat × Option α) :=
  l.filter (fun e => e.2.1 != k) ++ [(0, k, timedGet now k l)] ++ l.filter (fun e => e.2.1 == k && now < e.1) ++ [(now + delay, k, v)]

/-- A chainage counter (R194): a number completes; the counter is the greatest number below which all have. -/
def chainFold : Nat → Nat → List Nat → Nat × List Nat
  | 0, c, l => (c, l)
  | n + 1, c, l => if l.contains (c + 1) then chainFold n (c + 1) (removeNat (c + 1) l) else (c, l)
def chainDone (ctr : Nat) (done : List Nat) (n : Nat) : Nat × List Nat :=
  let l := if ctr < n then (if done.contains n then done else insertNat n done) else done
  chainFold (l.length + 1) ctr l

/-- A new request number. -/
def State.newTok (s : State) : State := { s with tok := s.tok + 1 }

/-- The free choice among `n` candidates, when the spec fixes no order. (DESIGN CHOICE, log entry 7.) -/
def State.pick (s : State) (n : Nat) : Nat := if n ≤ 1 then 0 else Config.choice s.fresh % n
def State.spend (s : State) (n : Nat) : State := if n ≤ 1 then s else { s with fresh := s.fresh + 1 }

/-- Region geometry of a team. -/
def Team.width (t : Team) : Nat := ((t.lr.vars[t.variant]?).map (·.w)).getD 1
def Team.height (t : Team) : Nat := ((t.lr.vars[t.variant]?).map (·.h)).getD 1
/-- The team's cores in the order of R219. -/
def Team.cores (t : Team) : List Nat :=
  (List.range t.height).flatMap (fun cy => (List.range t.width).map (fun cx => coreAt t.die (t.ox + cx) (t.oy + cy)))
def Team.hasCore (t : Team) (c : Nat) : Bool :=
  !isSteward c && coreDie c == t.die && t.ox ≤ coreX c && coreX c < t.ox + t.width && t.oy ≤ coreY c && coreY c < t.oy + t.height
/-- The core's place within the region (R219). -/
def Team.index (t : Team) (c : Nat) : Nat := (coreY c - t.oy) * t.width + (coreX c - t.ox)

/-- A team may target another: the same team, or a peer node's of the same replay (R160, R220). -/
def Team.permits (t u : Team) : Bool := u.slot == t.slot && (u.node == t.node || t.lr.peers.contains u.node)
/-- The team that an access of `t` to a core means: the one there, or else a permitted one that was pre-empted from it and keeps
its region (R248). -/
def State.aimed (s : State) (t : Team) (c : Nat) : Option (Nat × Team) :=
  match s.teamOf c with
  | some (k, u) =>
    if t.permits u then some (k, u) else s.teams.cells.find? (fun v => v.2.st == .suspended && t.permits v.2 && v.2.hasCore c)
  | none => s.teams.cells.find? (fun v => v.2.st == .suspended && t.permits v.2 && v.2.hasCore c)
/-- Whether a core may be targeted by a team. -/
def State.reaches (s : State) (t : Team) (c : Nat) : Bool := (s.aimed t c).isSome

/-- Update the side of core `k` that core `c`'s team means: a pre-empted team's core is the one its context area holds (R152, R248). -/
def State.modSide (s : State) (c k : Nat) (f : Core → Core) : State :=
  match (s.teamOf c).bind (fun t => s.aimed t.2 k) with
  | some (t, u) =>
    if u.savedCore.any (fun x => x.1 == k) then
      s.modTeam t (fun u => { u with savedCore := u.savedCore.map (fun x => if x.1 = k then (k, f x.2) else x) })
    else s.modCore k f
  | none => s.modCore k f

/-- A link may be used by a core of a team (R102, R106, R322 check 1). -/
def State.linkHarvested (s : State) (c : Nat) (d : Dir) : Bool := s.harvest.contains c || s.harvest.contains (neighbour c d)
def State.linkOutside (s : State) (c : Nat) (d : Dir) : Bool :=
  match s.teamOf c with
  | some (_, t) => !s.reaches t (neighbour c d)
  | none => false

/-! ### Windows (R71, R72) -/

/-- The window-stack size of each context of a core, in bytes; a steward core has no window stack. (DESIGN CHOICE, log entry 19.) -/
def State.wss (s : State) (c : Nat) : Nat :=
  match s.teamOf c with
  | some (_, t) => 128 * t.lr.wss
  | none => 0
/-- `Touches(a, n, WindowStacks)`. -/
def State.touchesStacks (s : State) (c a n : Nat) : Bool := Config.spadSize < a + n + 16 * s.wss c && a < Config.spadSize && s.wss c != 0

/-- The window depth D: 1, and one for each window opened since (R71). -/
def Ctx.depth (x : Ctx) : Nat := x.openers.length + 1
def Ctx.win (x : Ctx) (k : Nat) : Win := Table.get ⟨.empty, false⟩ x.wins k
/-- The depth of the oldest resident window. -/
def Ctx.oldest (x : Ctx) : Nat :=
  match x.wins.cells with
  | c :: _ => c.1
  | [] => x.depth
def Ctx.resident (x : Ctx) (k : Nat) : Bool := k == x.depth || (x.wins.find k).isSome

/-- A received register, wherever it lives. -/
def Ctx.readBelow (x : Ctx) (r : Nat) : Word :=
  if x.depth = 1 then Table.get 0 x.base r
  else match x.wins.find (x.depth - 1) with
    | some w => Table.get 0 w.regs (r + 16)
    | none => Table.get 0 x.recv r
def Ctx.readW (x : Ctx) (r : Nat) : Word :=
  if 8 ≤ r then Table.get 0 (x.win x.depth).regs r else x.readBelow r
/-- Write a register of a window; the window is no longer clean (R71). -/
def Ctx.writeWin (x : Ctx) (k r : Nat) (v : Word) : Ctx := { x with wins := x.wins.set k ⟨(x.win k).regs.set r v, false⟩ }
def Ctx.writeW (x : Ctx) (r : Nat) (v : Word) : Ctx :=
  if 8 ≤ r then x.writeWin x.depth r v
  else if x.depth = 1 then { x with base := x.base.set r v }
  else match x.wins.find (x.depth - 1) with
    | some _ => x.writeWin (x.depth - 1) (r + 16) v
    | none => { x with recv := x.recv.set r v, recvClean := false }

/-- The place of a windowed register. -/
def Ctx.locW (x : Ctx) (r : Nat) : PLoc := if 8 ≤ r then .win x.depth r else .win (x.depth - 1) (r + 16)
def Ctx.writeLoc (x : Ctx) (p : PLoc) (v : Word) : Ctx :=
  match p with
  | .g n => { x with g := x.g.set n v }
  | .win 0 r => { x with base := x.base.set (r - 16) v }
  | .win k r =>
    if x.resident k then x.writeWin k r v
    else if k + 1 = x.oldest then { x with recv := x.recv.set (r - 16) v, recvClean := false } else x
  | .gone _ _ => x

/-- Whether a window holds a pending register. -/
def Ctx.winPending (x : Ctx) (k : Nat) : Bool :=
  x.pend.any (fun p => match p.loc with
    | .win j _ => j == k
    | _ => false)
/-- Slots of discarded windows that still await a completion (R73, R343). -/
def Ctx.goneSlots (x : Ctx) : Nat :=
  ((x.pend.filterMap (fun p => match p.loc with
    | .gone n _ => some n
    | _ => none)).eraseDups).length
/-- Window slots in use; four exist. -/
def Ctx.slotsUsed (x : Ctx) : Nat :=
  x.wins.cells.length + (if (x.wins.find x.depth).isSome then 0 else 1) + x.goneSlots

inductive Room where
  | free | reuse | spill | blocked
deriving DecidableEq, Repr

/-- What opening a window needs (R71): a free slot, reuse of the clean oldest window, a spill first, or a completion first. A slot that a
discarded window still holds is waited for, before any window is displaced (R73). -/
def Ctx.room (x : Ctx) : Room :=
  if x.slotsUsed < 4 then .free
  else if x.goneSlots ≠ 0 then .blocked
  else if x.oldest = x.depth ∨ x.winPending x.oldest ∨ x.winPending (x.oldest - 1) then .blocked
  else if (x.win x.oldest).clean && x.recvClean then .reuse
  else .spill

/-- Move pending marks of windows: the place `f` gives, or where they stand. -/
def Ctx.movePend (x : Ctx) (f : Nat → Nat → Option PLoc) : Ctx :=
  { x with pend := x.pend.map (fun (p : Pend) => match p.loc with
      | .win k r => { p with loc := (f k r).getD p.loc }
      | _ => p) }

/-- Drop the oldest resident window; its passed registers stay as the received registers of the next. -/
def Ctx.dropOldest (x : Ctx) : Ctx :=
  let k := x.oldest
  { x with
    recv := ⟨((List.range 8).map (fun r => (r, Table.get 0 (x.win k).regs (r + 16))))⟩
    recvClean := true
    wins := x.wins.erase k }

/-- Raise D with a fresh zero window (R71, R291). -/
def Ctx.openWindow (x : Ctx) (op : Opener) : Ctx :=
  let x := if x.slotsUsed < 4 then x else x.dropOldest
  let y := { x with wins := x.wins.set x.depth (x.win x.depth) }
  { y with openers := op :: y.openers, wins := y.wins.set (y.depth + 1) ⟨.empty, false⟩ }

/-- Lower D: the current window is discarded; pending registers of it still complete, unseen (R343). -/
def Ctx.closeWindow (x : Ctx) : Ctx :=
  let x := x.movePend (fun k r => if k = x.depth then some (.gone x.serial r) else none)
  { x with
    serial := x.serial + 1
    wins := x.wins.erase x.depth
    openers := x.openers.tail }

/-- The scratchpad offset of window `k`'s place in the stack of context `n`: kept registers below, passed above (R72). -/
def State.stackAt (s : State) (c n k : Nat) : Nat := Config.spadSize - n * s.wss c - 128 * k
def winBytes (t : Table Word) (lo : Nat) : List Byte := (List.range 8).flatMap (fun r => leBytes 8 (Table.get 0 t (lo + r)).toNat)
def winLoad (m : List Host.Cell) (a lo : Nat) : List (Nat × Word) :=
  (List.range 8).map (fun r => (lo + r, BitVec.ofNat 64 (memLe m 8 (a + 8 * r))))

/-- Spill window `k` of a context: 128 bytes (R71); the window is then clean. A written received register of the oldest window is
written back to the place of the window below (log entry 11). -/
def State.spillWindow (s : State) (c n k : Nat) : State :=
  let x := s.ctx c n
  let a := spad c (s.stackAt c n k)
  let m := memPut (memPut s.mem a (winBytes (x.win k).regs 8)) (a + 64) (winBytes (x.win k).regs 16)
  let back := k == x.oldest && !x.recvClean && k != 1
  let m := if back then memPut m (spad c (s.stackAt c n (k - 1)) + 64) (winBytes x.recv 0) else m
  { s with mem := m }.setCtx c n
    { x with wins := x.wins.set k ⟨(x.win k).regs, true⟩, recvClean := if k == x.oldest then true else x.recvClean }

/-- Refill window `k`, the one below the oldest resident window (R71, log entry 11). -/
def State.refillWindow (s : State) (c n k : Nat) : State :=
  let x := s.ctx c n
  let kept := winLoad s.mem (spad c (s.stackAt c n k)) 8
  let passed := (List.range 8).map (fun r => (r + 16, Table.get 0 x.recv r))
  let below := if k = 1 then Table.empty else ⟨winLoad s.mem (spad c (s.stackAt c n (k - 1)) + 64) 0⟩
  s.setCtx c n { x with wins := x.wins.set k ⟨⟨kept ++ passed⟩, x.recvClean⟩, recv := below, recvClean := true }

/-- The greatest legal depth (R72). -/
def State.maxDepth (s : State) (c : Nat) : Nat := 4 + s.wss c / 128

/-! ### Registers (R69, R70, R89) -/

/-- A context that can take a trap: started, not exited, not halted (R62). -/
def Ctx.live (x : Ctx) : Bool := x.st == .running && !x.halted

/-- The shift of the last-result registers (R70). -/
def Ctx.shift (x : Ctx) (v : Word) : Ctx :=
  { x with l := (((x.l.set 3 (Table.get 0 x.l 2)).set 2 (Table.get 0 x.l 1)).set 1 (Table.get 0 x.l 0)).set 0 v }

/-- The value of a register other than a queue (R89). -/
def Ctx.read (x : Ctx) : Reg → Word
  | .w r => x.readW r.val
  | .g n => Table.get 0 x.g n.val
  | .o n => Table.get 0 x.o n.val
  | .l n => Table.get 0 x.l n.val
  | .i n => Table.get 0 x.i n.val
  | .q _ | .z | .nil => 0
  | .pc => x.pc

/-- Write a register other than a queue; z, nil and the read-only specifiers take nothing (R89). -/
def Ctx.write (x : Ctx) (r : Reg) (v : Word) : Ctx :=
  match r with
  | .w k => x.writeW k.val v
  | .g n => { x with g := x.g.set n.val v }
  | .o n => { x with o := x.o.set n.val v }
  | .i n => { x with i := x.i.set n.val v }
  | .l _ | .q _ | .z | .nil | .pc => x

/-- A predicate; p0 reads true (R69). -/
def Ctx.readP (x : Ctx) (k : Fin 8) : Bool := if k.val = 0 then true else Table.get false x.p k.val
def Ctx.writeP (x : Ctx) (k : Fin 8) (b : Bool) : Ctx := if k.val = 0 then x else { x with p := x.p.set k.val b }
/-- A lane mask; m0 reads all ones (R69). -/
def Ctx.readM (x : Ctx) (k : Fin 8) : Lane := if k.val = 0 then BitVec.allOnes 32 else Table.get 0 x.m k.val
def Ctx.writeM (x : Ctx) (k : Fin 8) (v : Lane) : Ctx := if k.val = 0 then x else { x with m := x.m.set k.val v }
def Ctx.readV (x : Ctx) (k : Fin 16) : VWord := Table.get 0 x.v k.val
def Ctx.writeV (x : Ctx) (k : Fin 16) (v : VWord) : Ctx := { x with v := x.v.set k.val v }

/-- The place a register's pending mark would stand at. -/
def Ctx.loc (x : Ctx) : Reg → Option PLoc
  | .w r => some (x.locW r.val)
  | .g n => some (.g n.val)
  | _ => none
def Ctx.pendOf (x : Ctx) (r : Reg) : Option Pend :=
  match x.loc r with
  | some p => x.pend.find? (fun e => e.loc = p)
  | none => none
/-- Make a register pending under a number (R73). -/
def Ctx.addPend (x : Ctx) (r : Reg) (tok : Nat) (lkopen : Bool) : Ctx :=
  match x.loc r with
  | some p => { x with pend := x.pend ++ [⟨tok, p, lkopen, none⟩] }
  | none => x

/-- A completion write: no shift (R70, R73). -/
def State.complete (s : State) (c n tok : Nat) (v : Word) : State :=
  let x := s.ctx c n
  match x.pend.find? (fun e => e.tok == tok) with
  | some e => s.setCtx c n { x.writeLoc e.loc v with pend := x.pend.filter (fun e => e.tok != tok) }
  | none =>
    -- the register of a pre-empted team's context receives it at its resume
    { s with teams := s.teams.mapAll (fun _ (t : Team) =>
        if t.savedCtx.any (fun x => x.1 == 16 * c + n && x.2.pend.any (fun e => e.tok == tok)) then
          { t with late := t.late ++ [(c, n, tok, v)] } else t) }

/-- Park the context of a core. -/
def State.park (s : State) (c n : Nat) (p : Park) : State := s.modCtx c n (fun x => { x with park := some p })
/-- Wake it: it is runnable from the next cycle (R9). -/
def State.wake (s : State) (c n : Nat) : State := s.modCtx c n (fun x => { x with park := none, readyAt := s.now + 1 })

/-! ### Taking an exception (R238 to R241, R253, R383) -/

/-- The fault codes of R238. -/
def fcNum : FCode → Nat
  | .illegal => 0x01 | .fetchAlign => 0x02 | .align => 0x03 | .bounds => 0x04 | .translate => 0x05 | .protect => 0x06
  | .memErr => 0x07 | .window => 0x08 | .queue => 0x09 | .rzvOrder => 0x0A | .rzvMismatch => 0x0B | .rzvBroken => 0x0C
  | .leaseRevoked => 0x0D | .drainTarget => 0x0E | .format => 0x0F | .teamBounds => 0x10 | .async => 0x11 | .hazard => 0x12
  | .priv => 0x13 | .soft => 0x14 | .brk => 0x15 | .coupling => 0x16 | .holdGrace => 0x17 | .sourceGone => 0x20

/-- The engines a team holds a lease on or an open end of. -/
def State.teamEngines (s : State) (t : Nat) : List Nat :=
  (s.engines.cells.filter (fun e =>
    (match e.2.lease with
     | some l => l.team == t
     | none => false)
    || (e.2.near.isOpen && e.2.near.party / 16 == t) || (e.2.near.heldOpen.elim false (·.ctx / 16 == t))
    || (e.2.far.isOpen && e.2.far.party / 16 == t) || (e.2.far.heldOpen.elim false (·.ctx / 16 == t)))).map (·.1)

/-- A fatal fault halts the whole team (R253): every context stops issuing, its engines stop at a K-step boundary and keep their
leases, the halt is reported. On a steward core it stops that core, and the steward counts as stopped (R383). -/
def State.haltTeam (s : State) (c n : Nat) (code : FCode) (w1 w2 w3 : Word) : State :=
  if isSteward c then { s with stewardStopped := true }.modCtx c n (fun x => { x with halted := true })
  else match s.teamOf c with
    | none => s.modCtx c n (fun x => { x with halted := true })
    | some (t, u) =>
      let s := s.modTeam t (fun u => { u with st := .halted, halt := some (u.halt.getD ⟨c, n, code, w1, w2, w3⟩) })
      let s := (s.teamEngines t).foldl (fun s l => s.modEng l (fun e => { e with stopping := true })) s
      { s with ctxs := s.ctxs.mapAll (fun k x => if u.hasCore (k / 16) then { x with halted := true } else x) }

/-- The trap handler's address (R239, R383); a steward core with STVEC 0 has none. -/
def State.handler (s : State) (c : Nat) : Option Word :=
  if isSteward c then
    (let v := (s.steward (c - Config.cores)).stvec
     if v = 0 then none else some v)
  else match s.teamOf c with
    | some (_, t) => some (BitVec.ofNat 64 (t.codeBase + t.lr.trapv))
    | none => some 0

/-- p1 to p7 as the word of R239 step 3. -/
def Ctx.predWord (x : Ctx) : Word :=
  BitVec.ofNat 64 (ofBits (fun k => if k = 0 then false else Table.get false x.p k) 8)

/-- Trap entry once room is made (R239): the four steps, then the handler. -/
def Ctx.enterTrap (x : Ctx) (h : Word) (code : FCode) (w1 w2 w3 : Word) : Ctx :=
  let d := x.depth
  let saved := (List.range 4).map (fun r => x.readW (16 + r))
  let y := x.openWindow .trap
  let y := { y with trapDepth := y.trapDepth + 1 }
  let y := y.movePend (fun k r => if k = d ∧ 16 ≤ r ∧ r < 20 then some (.win (d + 1) (r - 4)) else none)
  let y := (List.range 4).foldl (fun y r => y.writeW (12 + r) (saved.getD r 0)) y
  let y := y.writeW 11 x.predWord
  let y := y.writeW 0 (BitVec.ofNat 64 (fcNum code))
  let y := y.writeW 1 w1
  let y := y.writeW 2 w2
  let y := y.writeW 3 w3
  { y with pc := h, src := w1, park := none, prodRec := none, since := none, image := none, xlat := none }

/-- TAKE AN EXCEPTION: `code` at context `n` of core `c`, with frame words w1 (the bundle address), w2 and w3. Fatal at trap
depth 2, past the window stack, for F_SOFT, and on a steward core without STVEC (R241, R383). A window spill that entry needs is
waited for (R239). -/
def State.trap (s : State) (c n : Nat) (code : FCode) (w1 w2 w3 : Word) : State :=
  let x := s.ctx c n
  let s := { s with noEffect := true }
  if code = .soft ∨ code = .holdGrace ∨ 2 ≤ x.trapDepth then s.haltTeam c n code w1 w2 w3
  else if s.maxDepth c < x.depth + 1 then s.haltTeam c n .window w1 0 (BitVec.ofNat 64 (x.depth + 1))
  else match s.handler c with
    | none => s.haltTeam c n code w1 w2 w3
    | some h =>
      match x.room with
      | .free | .reuse => s.setCtx c n { x.enterTrap h code w1 w2 w3 with readyAt := s.now + 1 }
      | .spill | .blocked => s.park c n (.trapEntry code w1 w2 w3)

/-- A precise fault of the acting context's bundle (R279's Fault). -/
def State.fault (s : State) (code : FCode) (w2 w3 : Word) : State := s.trap s.curCore s.curCtx code s.me.pc w2 w3

/-- RETURN FROM AN EXCEPTION (R240, R306), with the window below resident: w16 to w19 and their pending state move back, the
predicates return, D and the trap depth fall, and the pc is w1. -/
def Ctx.leaveTrap (x : Ctx) : Ctx :=
  let d := x.depth
  let saved := (List.range 4).map (fun r => x.readW (12 + r))
  let preds := (x.readW 11).toNat
  let t := x.readW 1
  let x := x.movePend (fun k r => if k = d ∧ 12 ≤ r ∧ r < 16 then some (.win (d - 1) (r + 4)) else none)
  let y := x.closeWindow
  let y := (List.range 4).foldl (fun y r => y.writeW (16 + r) (saved.getD r 0)) y
  { y with
    p := ⟨(List.range 7).map (fun k => (k + 1, bit preds (k + 1)))⟩
    trapDepth := y.trapDepth - 1
    src := x.pc
    pc := t }

/-- Advance past the bundle. -/
def State.advance (s : State) : State :=
  s.modMe (fun x => { x with pc := x.pc + BitVec.ofNat 64 s.curLen, src := 0, prodRec := none, since := none, image := none, xlat := none })
/-- Go to an address; this bundle is where control came from (R99, R238). -/
def State.jump (s : State) (t : Word) : State :=
  s.modMe (fun x => { x with pc := t, src := x.pc, prodRec := none, since := none, image := none, xlat := none })

end Sys2Proof.Machine
end

