-- ==== Sys2Proof/Machine/Flags.lean ====
section
/-! DEFINITION. Sticky flags (R54, R355) and comparisons. -/

namespace Sys2Proof.Machine

/-- Merge raised flags into the sticky ones (R54). -/
def flagsOr (a b : Flags) : Flags := ⟨a.nv || b.nv, a.dz || b.dz, a.ovf || b.ovf, a.unf || b.unf, a.nx || b.nx⟩
def flagsAll (l : List Flags) : Flags := l.foldl flagsOr Flags.zero
/-- The FLAGS word of R355. -/
def flagsWord (f : Flags) : Nat := f.nx.toNat + 2 * f.unf.toNat + 4 * f.ovf.toNat + 8 * f.dz.toNat + 16 * f.nv.toNat
def flagsOf (w : Nat) : Flags := ⟨bit w 4, bit w 3, bit w 2, bit w 1, bit w 0⟩
/-- Raise flags in a context. -/
def Ctx.raise (x : Ctx) (f : Flags) : Ctx := { x with flags := flagsOr x.flags f }

/-- A condition on integers (R296, R363). -/
def condInt (c : Cond) (a b : Int) : Bool :=
  match c with
  | .eq => a == b | .ne => a != b | .lt => a < b | .le => a ≤ b | .gt => b < a | .ge => b ≤ a

end Sys2Proof.Machine
end

