-- ==== Sys2Proof/Machine/Float.lean ====
section
/-! DEFINITION. Numbers (R37 to R59): exact values, rounding, conversion, sums in accumulation order, and the bit-exact functions
of the V slot. -/

namespace Sys2Proof.Machine

/-! ### Exact values -/

/-- The bit length of a number. -/
def bitLength (m : Nat) : Nat := if m = 0 then 0 else Nat.log2 m + 1

/-- The value of an integer. -/
def numInt (x : Int) : Num := .fin (x < 0) x.natAbs 0
def numNeg : Num → Num
  | .nan => .nan
  | .inf n => .inf (!n)
  | .fin n m e => .fin (!n) m e
def numAbs : Num → Num
  | .nan => .nan
  | .inf _ => .inf false
  | .fin _ m e => .fin false m e
def numIsZero : Num → Bool
  | .fin _ m _ => m == 0
  | _ => false
def numIsNeg : Num → Bool
  | .nan => false
  | .inf n => n
  | .fin n m _ => n && m != 0
/-- The exact product; 0 × ∞ is NaN, and a zero takes the exclusive OR of the signs (R52). -/
def numMul : Num → Num → Num
  | .nan, _ => .nan
  | _, .nan => .nan
  | .inf a, .inf b => .inf (a != b)
  | .inf a, .fin b m _ => if m = 0 then .nan else .inf (a != b)
  | .fin a m _, .inf b => if m = 0 then .nan else .inf (a != b)
  | .fin a m e, .fin b k f => .fin (a != b) (m * k) (e + f)
/-- Multiply by a power of two, exactly. -/
def numScale (x : Num) (k : Int) : Num :=
  match x with
  | .fin n m e => .fin n m (e + k)
  | x => x
/-- A finite number's signed mantissa at exponent `e0`, which is at most its own. -/
def mantAt (e0 : Int) : Num → Int
  | .fin n m e => let v : Int := (m * 2 ^ (e - e0).toNat : Nat); if n then -v else v
  | _ => 0
def expOf : Num → Option Int
  | .fin _ m e => if m = 0 then none else some e
  | _ => none
/-- The lowest exponent of nonzero finite terms. -/
def minExp (l : List Num) : Int :=
  ((l.filterMap expOf).foldl (fun (a : Option Int) e => some (a.elim e (fun x => if e ≤ x then e else x))) none).getD 0

/-- ExactSum (R56) with the zero signs of R52: NaN with a NaN term or both infinities, else an infinity, else the real sum. -/
def numSum (rm : Rm) (l : List Num) : Num :=
  if l.any (· == .nan) || (l.any (· == .inf true) && l.any (· == .inf false)) then .nan
  else if l.any (· == .inf true) then .inf true
  else if l.any (· == .inf false) then .inf false
  else
    let e0 := minExp l
    let v : Int := (l.map (mantAt e0)).foldl (· + ·) 0
    if v ≠ 0 then .fin (v < 0) v.natAbs e0
    else
      let signs := l.map (fun x => match x with
        | .fin n m _ => if m = 0 then some n else none
        | _ => none)
      if !l.isEmpty && signs.all (· == some true) then .fin true 0 0
      else if signs.all (· == some false) then .fin false 0 0
      else .fin (rm == .rdn) 0 0

/-- The order of two non-NaN numbers, −0 equal to +0: negative, zero or positive. -/
def numCmp (a b : Num) : Int :=
  match a, b with
  | .inf x, .inf y => if x = y then 0 else if x then -1 else 1
  | .inf x, _ => if x then -1 else 1
  | _, .inf y => if y then 1 else -1
  | a, b => let e0 := minExp [a, b]; mantAt e0 a - mantAt e0 b
/-- Whether the sign bit is set. -/
def numSign : Num → Bool
  | .nan => false
  | .inf n => n
  | .fin n _ _ => n
/-- Less than, with −0 below +0 (R361). -/
def numBelow (a b : Num) : Bool := numCmp a b < 0 || (numCmp a b == 0 && numSign a && !numSign b)

/-! ### Formats (R37 to R39) -/

/-- A floating-point format: exponent and fraction widths, and whether it is E4M3's encoding. -/
structure Fmt where
  eb : Nat
  fb : Nat
  e4 : Bool
deriving DecidableEq, Repr

def fp32 : Fmt := ⟨8, 23, false⟩
def fp16 : Fmt := ⟨5, 10, false⟩
def bf16 : Fmt := ⟨8, 7, false⟩
def fpE5M2 : Fmt := ⟨5, 2, false⟩
def fpE4M3 : Fmt := ⟨4, 3, true⟩

def Fmt.width (f : Fmt) : Nat := 1 + f.eb + f.fb
def Fmt.bias (f : Fmt) : Nat := 2 ^ (f.eb - 1) - 1
/-- The exponent of the least subnormal. -/
def Fmt.emin (f : Fmt) : Int := 1 - (f.bias : Int) - f.fb
/-- The exponent of the last place of the greatest finite values, and the greatest mantissa. -/
def Fmt.qmax (f : Fmt) : Int := (f.bias : Int) + (if f.e4 then 1 else 0) - f.fb
def Fmt.mmax (f : Fmt) : Nat := 2 ^ (f.fb + 1) - (if f.e4 then 2 else 1)
def Fmt.signBit (f : Fmt) (neg : Bool) : Nat := if neg then 2 ^ (f.eb + f.fb) else 0
/-- The canonical NaN (R39). -/
def Fmt.nan (f : Fmt) : Nat := if f.e4 then 0x7F else (2 ^ (f.eb + 1) - 1) * 2 ^ (f.fb - 1)
def Fmt.inf (f : Fmt) (neg : Bool) : Nat := f.signBit neg + (2 ^ f.eb - 1) * 2 ^ f.fb
/-- The greatest finite value, signed. -/
def Fmt.max (f : Fmt) (neg : Bool) : Nat :=
  f.signBit neg + (if f.e4 then 0x7E else (2 ^ f.eb - 1) * 2 ^ f.fb - 1)

/-- The value of an encoding (R38). -/
def Fmt.decode (f : Fmt) (x : Nat) : Num :=
  let neg := bit x (f.eb + f.fb)
  let e := x / 2 ^ f.fb % 2 ^ f.eb
  let m := x % 2 ^ f.fb
  if f.e4 && e == 15 && m == 7 then .nan
  else if !f.e4 && e == 2 ^ f.eb - 1 then (if m = 0 then .inf neg else .nan)
  else if e = 0 then .fin neg m f.emin
  else .fin neg (2 ^ f.fb + m) (f.emin + ((e : Int) - 1))

/-! ### Rounding (R52 to R54) -/

/-- `m * 2^sh` rounded to an integer, and whether it was inexact. -/
def roundShift (neg : Bool) (m : Nat) (sh : Int) (rm : Rm) : Nat × Bool :=
  if 0 ≤ sh then (m * 2 ^ sh.toNat, false)
  else
    let d := 2 ^ (-sh).toNat
    let q := m / d
    let r := m % d
    let up := match rm with
      | .rne => d < 2 * r || (d == 2 * r && q % 2 == 1)
      | .rtz => false
      | .rup => !neg && r != 0
      | .rdn => neg && r != 0
    (if up then q + 1 else q, r != 0)

/-- The flags that are all clear but those named. -/
def flagsOfNX (nx : Bool) : Flags := ⟨false, false, false, false, nx⟩
def flagNV : Flags := ⟨true, false, false, false, false⟩
def flagDZ : Flags := ⟨false, true, false, false, false⟩
def flagOFNX : Flags := ⟨false, false, true, false, true⟩

/-- Round an exact number into a format (R52, R53, R55): the encoding and the flags. Tininess is judged after rounding (R54). -/
def Fmt.round (f : Fmt) (rm : Rm) (sat : Bool) (x : Num) : Nat × Flags :=
  match x with
  | .nan => (f.nan, Flags.zero)
  | .inf neg => if sat then (f.max neg, Flags.zero) else if f.e4 then (f.nan, flagNV) else (f.inf neg, Flags.zero)
  | .fin neg m e =>
    if m = 0 then (f.signBit neg, Flags.zero)
    else
      let top := e + (bitLength m : Int) - 1
      -- precision alone, exponent unbounded
      let q := top - f.fb
      let u := roundShift neg m (e - q) rm
      let tiny := (u.1 < 2 ^ (f.fb + 1) && top < f.emin + f.fb) || (u.1 == 2 ^ (f.fb + 1) && top + 1 < f.emin + f.fb)
      -- as encoded: subnormals keep their reduced precision
      let q' := if q < f.emin then f.emin else q
      let r := roundShift neg m (e - q') rm
      let big := r.1 = 2 ^ (f.fb + 1)
      let m' := if big then 2 ^ f.fb else r.1
      let q'' := if big then q' + 1 else q'
      if f.qmax < q'' ∨ (q'' = f.qmax ∧ f.mmax < m') then
        let toInf := match rm with
          | .rne => true
          | .rtz => false
          | .rup => !neg
          | .rdn => neg
        if sat || !toInf then (f.max neg, flagOFNX)
        else if f.e4 then (f.nan, flagsOr flagOFNX flagNV)
        else (f.inf neg, flagOFNX)
      else
        let ex := if m' < 2 ^ f.fb then 0 else (q'' - f.emin).toNat + 1
        (f.signBit neg + ex * 2 ^ f.fb + m' % 2 ^ f.fb, ⟨false, false, false, tiny && r.2, r.2⟩)

/-- RoundFP32 (R56), without flags. -/
def roundFP32 (x : Num) (rm : Rm) : Nat := (fp32.round rm false x).1
def dec32 (x : Nat) : Num := fp32.decode x

/-! ### Plain types (R42, R55) -/

/-- The format of a float type. -/
def fmtOf : Ty → Option Fmt
  | .f16 => some fp16
  | .bf16 => some bf16
  | .f32 => some fp32
  | .e4m3 => some fpE4M3
  | .e5m2 => some fpE5M2
  | _ => none

/-- The value of the low bits of a pattern as a type. -/
def decodeTy (t : Ty) (x : Nat) : Num :=
  match fmtOf t with
  | some f => f.decode (x % 2 ^ t.width)
  | none => numInt (if t.signed then sgn t.width x else ((x % 2 ^ t.width : Nat) : Int))

def tyMin (t : Ty) : Int := if t.signed then -(2 ^ (t.width - 1) : Nat) else 0
def tyMax (t : Ty) : Int := if t.signed then (2 ^ (t.width - 1) : Nat) - 1 else (2 ^ t.width : Nat) - 1
/-- Clamp an integer to a type's range. -/
def clampTy (t : Ty) (x : Int) : Int := if x < tyMin t then tyMin t else if tyMax t < x then tyMax t else x

/-- Round a number to an integer type (R55). -/
def roundInt (t : Ty) (rm : Rm) (sat : Bool) (x : Num) : Nat × Flags :=
  match x with
  | .nan => (0, flagNV)
  | .inf neg => (unsgn t.width (if neg then tyMin t else tyMax t), if sat then Flags.zero else flagNV)
  | .fin neg m e =>
    let r := roundShift neg m e rm
    let v : Int := if neg then -(r.1 : Int) else r.1
    if v < tyMin t ∨ tyMax t < v then (unsgn t.width (clampTy t v), if sat then flagsOfNX true else flagNV)
    else (unsgn t.width v, flagsOfNX r.2)

/-- Convert (R55): integer to integer clamps when saturating and keeps the low bits otherwise, with no flags; every other
conversion rounds once. A conversion between like types copies (R364). -/
def convertTy (ts td : Ty) (rm : Rm) (sat : Bool) (x : Nat) : Nat × Flags :=
  if ts = td then (x % 2 ^ td.width, Flags.zero)
  else match fmtOf td with
    | some f => f.round rm sat (decodeTy ts x)
    | none =>
      if ts.isInt then
        (let v : Int := if ts.signed then sgn ts.width x else ((x % 2 ^ ts.width : Nat) : Int)
         (unsgn td.width (if sat then clampTy td v else v), Flags.zero))
      else roundInt td rm sat (decodeTy ts x)

/-! ### Float operations of a unit that rounds with RNE -/

/-- Round, raising NV where a NaN arises from operands that are none (R360). -/
def Fmt.result (f : Fmt) (ops : List Num) (x : Num) : Nat × Flags :=
  if x = .nan then (f.nan, if ops.any (· == .nan) then Flags.zero else flagNV) else f.round .rne false x
def Fmt.add (f : Fmt) (a b : Num) : Nat × Flags := f.result [a, b] (numSum .rne [a, b])
def Fmt.mul (f : Fmt) (a b : Num) : Nat × Flags := f.result [a, b] (numMul a b)
/-- `a * b + c`, rounded once. -/
def Fmt.fma (f : Fmt) (a b c : Num) : Nat × Flags := f.result [a, b, c] (numSum .rne [numMul a b, c])
/-- Minimum and maximum: −0 below +0, any NaN gives the canonical NaN, no flags (R361). -/
def Fmt.pickMin (f : Fmt) (x y : Nat) : Nat :=
  let a := f.decode x
  let b := f.decode y
  if a = .nan ∨ b = .nan then f.nan else if numBelow b a then y else x
def Fmt.pickMax (f : Fmt) (x y : Nat) : Nat :=
  let a := f.decode x
  let b := f.decode y
  if a = .nan ∨ b = .nan then f.nan else if numBelow a b then y else x

/-! ### VRCP, VRSQ, VEXP2 (R366, R373, R375) -/

/-- Half-even rounding of a quotient. -/
def divHalfEven (a b : Nat) : Nat :=
  let q := a / b
  let r := a % b
  if b < 2 * r || (2 * r == b && q % 2 == 1) then q + 1 else q

/-- Decompose (R373): a nonzero finite FP32 magnitude as a 24-bit mantissa with its leading bit set and the exponent of that bit. -/
def normalise (m : Nat) (e : Int) : Nat × Int :=
  let l := bitLength m
  (m * 2 ^ (24 - l), e + (l : Int) - 1)

/-- `RoundFP32` of an exact expression, as a number. -/
def rnd (x : Num) : Num := dec32 (roundFP32 x .rne)
def numPos (m : Nat) (e : Int) : Num := .fin false m e
def one : Num := .fin false 1 0
def mulAdd (a b c : Num) : Num := rnd (numSum .rne [numMul a b, c])

/-- VRCP of one lane (R373). -/
def vrcpLane (x : Nat) : Nat × Flags :=
  match dec32 x with
  | .nan => (fp32.nan, Flags.zero)
  | .inf neg => (fp32.signBit neg, Flags.zero)
  | .fin neg mm ee =>
    if mm = 0 then (fp32.inf neg, flagDZ)
    else
      let n := normalise mm ee
      let m := numPos n.1 (-23)
      let i := (n.1 - 2 ^ 23) / 2 ^ 13
      let y0 := numPos (divHalfEven (2 ^ 31) (2049 + 2 * i)) (-20)
      let t := rnd (numSum .rne [one, numNeg (numMul m y0)])
      let q := mulAdd t t t
      let y := mulAdd y0 q y0
      fp32.round .rne false (if neg then numNeg (numScale y (-n.2)) else numScale y (-n.2))

/-- The table of R375: `RoundHalfEven(2^20 / sqrt(2^h * (1 + (2j+1)/2^10)))`. -/
def rsqTable (h j : Nat) : Nat :=
  let d := 2 ^ h * (1025 + 2 * j)
  let n := isqrt 21 (2 ^ 50 / d)
  if d * (2 * n + 1) ^ 2 < 2 ^ 52 then n + 1 else n

/-- VRSQ of one lane (R375). -/
def vrsqLane (x : Nat) : Nat × Flags :=
  match dec32 x with
  | .nan => (fp32.nan, Flags.zero)
  | .inf neg => if neg then (fp32.nan, flagNV) else (0, Flags.zero)
  | .fin neg mm ee =>
    if mm = 0 then (fp32.inf neg, flagDZ)
    else if neg then (fp32.nan, flagNV)
    else
      let n := normalise mm ee
      let odd := n.2 % 2 ≠ 0
      let k : Int := n.2 / 2
      let mn := if odd then 2 * n.1 else n.1
      let m := numPos mn (-23)
      let h := if 2 ^ 24 ≤ mn then 1 else 0
      let j := (mn - 2 ^ (23 + h)) / 2 ^ (14 + h)
      let y0 := numPos (rsqTable h j) (-20)
      let g := rnd (numMul m y0)
      let t := rnd (numSum .rne [one, numNeg (numMul g y0)])
      let u := mulAdd t (numPos 3 (-3)) (numPos 1 (-1))
      let v := rnd (numMul t u)
      let y := mulAdd y0 v y0
      fp32.round .rne false (numScale y (-k))

/-- The greatest `n` with `n^64 ≤ x`, by bits. -/
def root64From : Nat → Nat → Nat → Nat
  | 0, _, r => r
  | k + 1, x, r => let r' := r + 2 ^ k; root64From k x (if r' ^ 64 ≤ x then r' else r)
/-- `RoundFP32(2^(i/64))` as a mantissa over 2^23 (R366). -/
def exp2Table (i : Nat) : Nat :=
  let n := root64From 25 (2 ^ (64 * 23 + i)) 0
  if (2 * n + 1) ^ 64 < 2 ^ (64 * 24 + i) then n + 1 else n

/-- VEXP2 of one lane (R366). -/
def vexp2Lane (x : Nat) : Nat × Flags :=
  match dec32 x with
  | .nan => (fp32.nan, Flags.zero)
  | .inf neg => if neg then (0, Flags.zero) else (fp32.inf false, Flags.zero)
  | .fin neg m e =>
    let a : Num := .fin neg m e
    if 0 ≤ numCmp a (numPos 128 0) then (fp32.inf false, flagOFNX)
    else if numCmp a (.fin true 150 0) < 0 then (0, ⟨false, false, false, true, true⟩)
    else
      -- the floor of a, and the fraction f over 2^k
      let k := if e < 0 then (-e).toNat else 0
      let v : Int := mantAt (-(k : Int)) a
      let n : Int := v / (2 ^ k : Nat)
      let f : Nat := (v % (2 ^ k : Nat)).toNat
      let i := f * 64 / 2 ^ k
      let dd := numPos (f * 64 % 2 ^ k) (-(k : Int) - 6)
      let t := numPos (exp2Table i) (-23)
      let u := mulAdd dd (dec32 0x3D635847) (dec32 0x3E75FDF0)
      let u := mulAdd dd u (dec32 0x3F317218)
      let u := rnd (numMul dd u)
      let y := mulAdd t u t
      fp32.round .rne false (numScale y n)

/-! ### Blocks (R44 to R51) -/

/-- The class of a format code: 4-bit, or 8-bit; none for an unlisted code (R46). -/
def blockIs4 (fmt : Nat) : Option Bool :=
  if 1 ≤ fmt ∧ fmt ≤ 4 then some false else if 8 ≤ fmt ∧ fmt ≤ 16 then some true else none
def blockIsInt (fmt : Nat) : Bool := fmt == 1 || fmt == 2 || fmt == 16

/-- A block's 512 bits (R47, R48): bit b is bit b mod 8 of byte b div 8. -/
def blockPres (blk i : Nat) : Bool := bit blk (16 + i)
def blockElem (is4 : Bool) (blk i : Nat) : Nat := if is4 then fld blk (115 + 4 * i) (112 + 4 * i) else fld blk (71 + 8 * i) (64 + 8 * i)
def blockScale (is4 : Bool) (blk i : Nat) : Nat := if is4 && 48 ≤ i then fld blk 503 496 else fld blk 15 8

/-- ElemValue (R49): none is an absent element, the error F_FORMAT. Codebooks hold 16 BF16 entries; an unwritten slot holds
zeros (R51). -/
def elemValue (books : Table (List (BitVec 16))) (blk i : Nat) : Except Unit (Option Num) :=
  let fmt := fld blk 6 0
  match blockIs4 fmt with
  | none => .error ()
  | some is4 =>
    if !blockPres blk i then .ok none
    else
      let sc := blockScale is4 blk i
      let x := blockElem is4 blk i
      if blockIsInt fmt then
        (if sc ≠ 127 then .error ()
         else .ok (some (numInt (if fmt = 2 then ((x : Nat) : Int) else sgn (if is4 then 4 else 8) x))))
      else if sc = 255 then .ok (some .nan)
      else
        let v :=
          if is4 then bf16.decode ((((Table.get [] books (fmt - 8))[x]?).getD 0).toNat)
          else if fmt = 3 then fpE4M3.decode x else fpE5M2.decode x
        .ok (some (numScale v ((sc : Int) - 127)))

/-! ### Engine and epilogue arithmetic (R56, R57) -/

/-- FlushFP32 (R56). -/
def flushFP32 (x : Nat) : Nat := if x / 2 ^ 23 % 256 = 0 then x / 2 ^ 31 * 2 ^ 31 else x

/-- One K-step of a cell (R56): the accumulator's bits, the mode, and the products present. -/
def kStepCell (nbv : Nat) (int sat : Bool) (acc : Nat) (ps : List Num) : Nat :=
  if ps.isEmpty then acc
  else if int then
    (let s : Int := (ps.map (mantAt 0)).foldl (· + ·) (sgn 32 acc)
     unsgn 32 (if sat then clampTy .i32 s else s))
  else if nbv = 1 then
    ps.foldl (fun acc p => flushFP32 (roundFP32 (numSum .rne [dec32 acc, dec32 (flushFP32 (roundFP32 p .rne))]) .rne)) acc
  else
    (let rm := if nbv = 2 then Rm.rtz else Rm.rne
     roundFP32 (numSum rm (dec32 acc :: ps)) rm)

/-- Accumulate-on-write of one element (R57, R164): its width in bytes, and old + new. -/
def accWidth : AccTy → Nat
  | .f32 | .i32 => 4
  | .f16 => 2
def accAdd (t : AccTy) (old new : Nat) : Nat :=
  match t with
  | .i32 => (old + new) % 2 ^ 32
  | .f32 => (fp32.add (dec32 old) (dec32 new)).1
  | .f16 => (fp16.add (fp16.decode old) (fp16.decode new)).1

end Sys2Proof.Machine
end

