-- ==== Sys2Proof/Machine/Translate.lean ====
section
/-! DEFINITION. Address translation (R255 to R262), the cluster read cache, and the fault log. -/

namespace Sys2Proof.Machine

/-- Where a physical address leads (R171). -/
inductive PaKind where
  | hbm
  | peer (link off : Nat)
  | port (j off : Nat)
  | invalid
deriving DecidableEq, Repr

def paKind (pa : Nat) : PaKind :=
  if pa < Config.hbmTop then .hbm
  else if 2 ^ 48 ≤ pa ∧ pa < 2 ^ 48 + 24 * 2 ^ 40 ∧ (pa - 2 ^ 48) % 2 ^ 40 < Config.hbmTop then
    .peer ((pa - 2 ^ 48) / 2 ^ 40) ((pa - 2 ^ 48) % 2 ^ 40)
  else if 2 ^ 49 ≤ pa ∧ pa < 2 ^ 49 + 9 * 2 ^ 44 then .port ((pa - 2 ^ 49) / 2 ^ 44) ((pa - 2 ^ 49) % 2 ^ 44)
  else .invalid

/-- Fold of R170: the exclusive or of `n` groups of `k` bits. -/
def foldBits (k : Nat) : Nat → Nat → Nat
  | 0, _ => 0
  | n + 1, x => (x % 2 ^ k) ^^^ foldBits k n (x / 2 ^ k)
/-- The home of a local physical address (R170): its die. -/
def homeDie (pa : Nat) : Nat := fld pa 9 8 ^^^ foldBits 2 12 (fld pa 37 15)
/-- Its stack, channel and pseudo-channel. -/
def homeStack (pa : Nat) : Nat := 3 * homeDie pa + (pa / 2 ^ 38 + fld pa 37 15 % 3) % 3
def homeChannel (pa : Nat) : Nat := fld pa 14 10 ^^^ foldBits 5 5 (fld pa 37 15)
/-- The pseudo-channel's number in the package. -/
def homeChan (pa : Nat) : Nat := 64 * homeStack pa + 2 * homeChannel pa + fld pa 15 15

/-- Attribute bits, entry bits <8:3> of R256. -/
def attrR : Nat := 1
def attrW : Nat := 2
def attrX : Nat := 4
def attrFG : Nat := 16
def attrRES : Nat := 32
/-- Whether `attr` has every bit of `want`. -/
def hasAttr (attr want : Nat) : Bool := attr &&& want == want

/-- Page size and table index of a level (R255). -/
def pageSize : Nat → Nat
  | 1 => 2 ^ 30 | 2 => 2 ^ 21 | _ => 2 ^ 16
def tableIndex (level va : Nat) : Nat :=
  match level with
  | 0 => fld va 51 39 | 1 => fld va 38 30 | 2 => fld va 29 21 | _ => fld va 20 16

/-- A table entry at a level: the next table, a leaf (page base and attributes), or invalid (R256). -/
inductive Entry where
  | next (pa : Nat)
  | leaf (pa attr : Nat)
  | invalid
deriving DecidableEq, Repr

def readEntry (level e : Nat) : Entry :=
  let pa := fld e 51 12 * 4096
  let attr := fld e 8 3
  if fld e 63 52 ≠ 0 ∨ fld e 11 9 ≠ 0 ∨ fld e 2 2 ≠ 0 then .invalid
  else if fld e 1 0 = 1 then
    (if level = 3 ∨ attr ≠ 0 ∨ paKind pa ≠ .hbm then .invalid else .next pa)
  else if fld e 1 0 = 2 then
    (if level = 0 ∨ pa % pageSize level ≠ 0 ∨ paKind pa = .invalid ∨ (hasAttr attr attrX ∧ (hasAttr attr attrW ∨ paKind pa ≠ .hbm))
     then .invalid else .leaf pa attr)
  else .invalid

/-- The walk (R255, R259): the page of a virtual address, or none. `fuel` levels are left. -/
def walkFrom (m : List Host.Cell) (space va : Nat) : Nat → Nat → Nat → Option TlbE
  | 0, _, _ => none
  | fuel + 1, level, tbl =>
    match readEntry level (memLe m 8 (tbl + 8 * tableIndex level va)) with
    | .invalid => none
    | .leaf pa attr => some ⟨space, alignDown (pageSize level) va, pageSize level, pa, attr⟩
    | .next pa => walkFrom m space va fuel (level + 1) pa

/-- The address space of a core: its graph slot's, or its steward space 1024 + k (R262). -/
def State.spaceOf (s : State) (c : Nat) : Nat :=
  if isSteward c then 1024 + (c - Config.cores)
  else match s.teamOf c with
    | some (_, t) => t.slot
    | none => 1040
/-- The table root of a space (R255, R262). -/
def State.rootOf (s : State) (space : Nat) : Nat :=
  if space < 1024 then (s.slot space).root else (s.steward (space - 1024)).stroot.toNat
def State.walk (s : State) (space va : Nat) : Option TlbE := walkFrom s.mem space va 4 0 (s.rootOf space)

def TlbE.covers (e : TlbE) (space va : Nat) : Bool := e.space == space && e.va ≤ va && va < e.va + e.size
/-- The physical address of a virtual one in an entry's page. -/
def TlbE.phys (e : TlbE) (va : Nat) : Nat := e.pa + (va - e.va)

/-- Use or insert an entry at the front of a least-recently-used list. -/
def lruPut (cap : Nat) (e : TlbE) (l : List TlbE) : List TlbE := (e :: l.filter (· != e)).take cap

/-- A translation as an access finds it. -/
inductive Xlat where
  | hit (e : TlbE)
  | none
  | miss
deriving DecidableEq, Repr

/-- Look up the micro-TLB, the cluster TLB, and what a walk fetched for this bundle (R258). -/
def State.xlate (s : State) (c n va : Nat) : Xlat :=
  let sp := s.spaceOf c
  match (s.core c).utlb.find? (fun e => e.covers sp va) with
  | some e => .hit e
  | Option.none =>
    match (s.cluster (clusterOf c)).tlb.find? (fun e => e.covers sp va) with
    | some e => .hit e
    | Option.none =>
      match (s.ctx c n).xlat with
      | some (sp', region, r) =>
        if sp' = sp ∧ region = va / 65536 then
          (match r with
           | some (base, pa, attr) => .hit ⟨sp, base, 65536, pa, attr⟩
           | Option.none => .none)
        else .miss
      | Option.none => .miss

/-- Use an entry of a cluster's TLB (R258); a steward core's TLB has 64 entries (R262). -/
def State.useClusterTlb (s : State) (c : Nat) (e : TlbE) : State :=
  s.modCluster (clusterOf c) (fun k => { k with tlb := lruPut (if isSteward c then 64 else 1024) e k.tlb })
/-- Use a TLB entry: it is the most recent of both TLBs; a steward core has one TLB alone (R258, R262). -/
def State.useTlb (s : State) (c : Nat) (e : TlbE) : State :=
  (if isSteward c then s else s.modCore c (fun x => { x with utlb := lruPut 32 e x.utlb })).useClusterTlb c e

/-- The addresses of the entries a walk reads. -/
def walkReads (m : List Host.Cell) (va : Nat) : Nat → Nat → Nat → List Nat
  | 0, _, _ => []
  | fuel + 1, level, tbl =>
    let a := tbl + 8 * tableIndex level va
    a :: (match readEntry level (memLe m 8 a) with
      | .next pa => walkReads m va fuel (level + 1) pa
      | _ => [])
def State.readsOf (s : State) (space va : Nat) : List Nat := walkReads s.mem va 4 0 (s.rootOf space)

/-- A walk takes a read at a home for each level it reads (R259). -/
def State.walkCycles (s : State) (space va : Nat) : Nat := (s.readsOf space va).length * Config.homeHit
/-- Queue a walk for a miss, or join one in progress for the same region, up to 64 misses a walk (R259); a miss that finds the walk
full waits for it to end. Whether a walk was added. -/
def joinWalk (space region c n ends : Nat) : List Walk → List Walk × Bool
  | [] => ([⟨space, region, [(c, n)], ends⟩], true)
  | w :: ws =>
    if w.space = space ∧ w.region = region then
      ((if w.waiters.length < 64 then { w with waiters := w.waiters ++ [(c, n)] } else w) :: ws, false)
    else let r := joinWalk space region c n ends ws; (w :: r.1, r.2)
/-- A walk begins at once while fewer than 64 are in progress on the die. Waiter `n = 16` is the core's copy context. -/
def State.startWalk (s : State) (c n va : Nat) : State :=
  let d := coreDie c
  let ws := (s.die d).walks
  let r := joinWalk (s.spaceOf c) (va / 65536) c n (if ws.length < 64 then s.now + s.walkCycles (s.spaceOf c) va else 0) ws
  let s := s.modDie d (fun x => { x with walks := r.1 })
  if r.2 ∧ r.1.length ≤ 64 then s.sched (s.walkCycles (s.spaceOf c) va) (.pageWalk d) else s

/-- A read-cache line by physical line address. -/
def State.cacheFind (s : State) (c pa : Nat) : Option RLine := (s.cluster (clusterOf c)).lines.find? (fun l => l.pa == pa)
/-- Use or fill a line: 1,024 lines, 8,192 in a steward core's cache of 512 KiB, least recently used replaced (R19, R173). -/
def State.cacheFill (s : State) (c : Nat) (l : RLine) : State :=
  s.modCluster (clusterOf c) (fun k => { k with lines := (l :: k.lines.filter (fun o => o.pa != l.pa)).take (if isSteward c then 8192 else 1024) })
/-- Requests of a cluster that have read their line at the home and are still to bring it do not fill the cache with it. -/
def noFill (cl : Nat) (p : HomeReq → Bool) (l : List (Nat × HomeReq)) : List (Nat × HomeReq) :=
  l.map (fun e => if clusterOf e.2.core = cl ∧ p e.2 then (e.1, { e.2 with fill := false }) else e)
def onLine (r : HomeReq) (pa : Nat) : Bool := r.pa / 64 == pa / 64
/-- Invalidate the line of a physical address (R174, R199). -/
def State.cacheDrop (s : State) (c pa : Nat) : State :=
  let cl := clusterOf c
  (s.modCluster cl (fun k => { k with lines := k.lines.filter (fun l => l.pa != alignDown 64 pa) })).modChan (homeChan pa)
    (fun x => { x with reads := noFill cl (onLine · pa) x.reads })
/-- Invalidate every line that overlaps a range of the core's space (R204). -/
def State.cacheDropRange (s : State) (c base len : Nat) : State :=
  let sp := s.spaceOf c
  let cl := clusterOf c
  let hit (space va : Nat) : Bool := space == sp && va + 64 > base && va < base + len
  let s := s.modCluster cl (fun k => { k with lines := k.lines.filter (fun l => !hit l.space l.va) })
  { s with chans := s.chans.mapAll (fun _ (x : HbmChan) => { x with reads := noFill cl (fun r => hit r.space (alignDown 64 r.va)) x.reads }) }
def State.cacheDropAll (s : State) (c : Nat) : State :=
  let cl := clusterOf c
  let s := s.modCluster cl (fun k => { k with lines := [] })
  { s with chans := s.chans.mapAll (fun _ (x : HbmChan) => { x with reads := noFill cl (fun _ => true) x.reads }) }

/-! ### The fault log (R242, R250) -/

/-- The virtual address of a context's fault log; 0 on a steward core (R355). -/
def State.logBase (s : State) (c n : Nat) : Nat :=
  match s.teamOf c with
  | some (_, t) => t.lr.ctxa + 0x1000 + 0x40000 * t.index c + 0x36000 + 0x100 * n
  | none => 0

/-- The 16 bytes of an entry. -/
def logBytes (e : LogEnt) : List Byte := leBytes 8 (e.info % 2 ^ 48 + e.kind * 2 ^ 52 + fcNum e.code * 2 ^ 56) ++ leBytes 8 e.addr.toNat

end Sys2Proof.Machine
end

