-- ==== Sys2Proof/Machine/Operands.lean ====
section
/-! DEFINITION. Operand forms of the S slot: reading registers and queues (R73, R89, R149 to R151), writing the result (R70), and
the frame every S operation runs in. -/

namespace Sys2Proof.Machine

/-- What an operation does once its operands are read: an effect, a precise fault, or a condition park, which may set something
in motion first. -/
inductive Eff where
  | ok (f : State → State)
  | trap (code : FCode) (w2 w3 : Word)
  | wait (w : Wait) (f : State → State)
  /-- A fault whose delivery changes something (R122). -/
  | deliver (f : State → State) (code : FCode) (w2 w3 : Word)

/-! ### Neighbour queues -/

/-- The context a direction is bound to, by the changes that govern this cycle (R150, R338). -/
def Core.owner (x : Core) (now : Nat) (d : Dir) : Option Nat :=
  timedGet now (dirNum d) x.qbind
def Core.inq (x : Core) (d : Dir) : List QEnt := Table.get [] x.qin (dirNum d)
def Core.credit (x : Core) (d : Dir) : Nat := Table.get 0 x.credits (dirNum d)
def Core.handler (x : Core) (d : Dir) : Word := Table.get 0 x.handlers (dirNum d)

/-- The queue registers of a list, lowest specifier first (qn, qe, qs, qw). -/
def queueDirs (rs : List Reg) : List Dir := [Dir.n, .e, .s, .w].filter (fun d => rs.contains (.q d))

/-- Pop an inbound queue; the credit returns 8 cycles later (R148). -/
def State.popQ (s : State) (c : Nat) (d : Dir) : State :=
  (s.modCore c (fun x => { x with qin := x.qin.set (dirNum d) (x.inq d).tail })).sched 8 (.creditReturn (neighbour c d) (dirOpp d))
/-- Spend a credit (R148). -/
def State.spendQ (s : State) (c : Nat) (d : Dir) : State :=
  s.modCore c (fun x => { x with credits := x.credits.set (dirNum d) (x.credit d - 1) })
/-- Send an entry whose credit is spent; it can be popped 8 cycles later (R148). -/
def State.pushQ (s : State) (c : Nat) (d : Dir) (e : QEnt) : State :=
  let k := neighbour c d
  let j := dirNum (dirOpp d)
  (s.modSide c k (fun x => { x with transit := x.transit.set j (Table.get [] x.transit j ++ [e]) })).sched 8
    (.queueEntryArrive k (dirOpp d))

/-- The handler's window of a light-handler call (R151). -/
def Ctx.enterLight (x : Ctx) (h : Word) (d : Dir) (v : Word) : Ctx :=
  let ret := x.pc
  let y := x.openWindow .light
  let y := ((y.writeW 0 v).writeW 1 (BitVec.ofNat 64 (dirNum d))).writeW 8 ret
  { y with pc := h, src := ret, park := none, prodRec := none, since := none, image := none, xlat := none }

/-- The light-handler call of R151 at the head entry of a direction, which holds a control value: the F_QUEUE or F_WINDOW it may
raise, the wait for w16 and w17, the pop, and the call, after a spill where one is needed. -/
def State.lightCall (s : State) (c n : Nat) (d : Dir) : State :=
  let x := s.ctx c n
  let k := s.core c
  match k.inq d with
  | [] => s
  | e :: _ =>
    let s := { s with noEffect := true }
    if k.handler d = 0 then s.trap c n .queue x.pc 0 2
    else if s.maxDepth c < x.depth + 1 then s.trap c n .window x.pc 0 (BitVec.ofNat 64 (x.depth + 1))
    else if (x.pendOf (.w 16)).isSome ∨ (x.pendOf (.w 17)).isSome then s.park c n (.cond .calleeRegs s.curBundle)
    else
      let s := s.popQ c d
      match x.room with
      | .free | .reuse => s.setCtx c n { x.enterLight (k.handler d) d e.v with readyAt := s.now + 1 }
      | .spill | .blocked => s.park c n (.lightCall d e.v)

/-- Condition-park the acting context: its bundle takes no effect (R66). -/
def State.wait (s : State) (w : Wait) : State := { s with noEffect := true }.park s.curCore s.curCtx (.cond w s.curBundle)

/-- The value of a source register, from the state before the bundle (R89, R149). -/
def State.srcVal (s : State) (r : Reg) : Word :=
  match r with
  | .q d => ((s.core s.curCore).inq d).head?.elim 0 (·.v)
  | r => s.me.read r

/-- Put: the result goes to the destination and shifts the last-result registers (R70); a queue destination pushes. -/
def State.putCtx (s : State) (c n : Nat) (dst : Reg) (v : Word) : State :=
  let s := s.modCtx c n (fun x => (x.write dst v).shift v)
  match dst with
  | .q d => s.pushQ c d ⟨v, false⟩
  | _ => s
def State.put (s : State) (dst : Reg) (v : Word) : State := s.putCtx s.curCore s.curCtx dst v

/-- A direction used as a queue register must be bound (R150). (DEDUCED, log entry 69.) -/
def State.queueFault (s : State) (dirs : List Dir) : Option (FCode × Nat) :=
  let k := s.core s.curCore
  if dirs.any (fun d => (k.owner s.now d).isNone) then some (.queue, 1)
  else if s.dbghz && dirs.any (fun d => k.owner s.now d != some s.curCtx) then some (.hazard, 3) else none

/-- Run an operation that reads `srcs` and writes `dst`: pending sources park (R73), a pending destination is a hazard with
DBGHZ (R73, R228), queues follow R149, and the body gets the values of the sources. Its effect acts on the state with the
queues popped and the destination's credit spent. -/
def State.runOp (s : State) (srcs : List Reg) (dst : Option Reg) (body : List Word → Eff) : State :=
  let c := s.curCore
  let x := s.me
  match (srcs.filterMap (fun r => x.pendOf r)).head? with
  | some p =>
    (match p.bad with
     | some (code, a) => (s.modMe (fun x => { x with pend := x.pend.filter (fun e => e.tok != p.tok) })).fault code a 0
     | none => s.wait (.reg p.loc))
  | none =>
    if s.dbghz && (dst.elim false (fun r => (x.pendOf r).isSome)) then s.fault .hazard 0 2
    else
      let ins := queueDirs srcs
      let outs := queueDirs dst.toList
      match s.queueFault (ins ++ outs) with
      | some (code, w3) => s.fault code 0 (BitVec.ofNat 64 w3)
      | none =>
        match ins.find? (fun d => (((s.core c).inq d).head?).elim false (·.ctl)) with
        | some d => s.lightCall c s.curCtx d
        | none =>
          if ins.any (fun d => ((s.core c).inq d).isEmpty) || outs.any (fun d => (s.core c).credit d == 0) then s.wait (.queues ins outs)
          else if ins.any (fun d => s.bad.contains (badQueue c (dirNum d))) then s.fault .memErr 0 0
          else match body (srcs.map s.srcVal) with
            | .trap code w2 w3 => s.fault code w2 w3
            | .wait w f => (f s).wait w
            | .deliver f code w2 w3 => (f s).fault code w2 w3
            | .ok f => f (outs.foldl (fun s d => s.spendQ c d) (ins.foldl (fun s d => s.popQ c d) s))

/-- The frame of an operation that puts one value and goes on. -/
def State.runPut (s : State) (srcs : List Reg) (dst : Reg) (f : List Word → Word) : State :=
  s.runOp srcs (some dst) (fun vs => .ok (fun s => (s.put dst (f vs)).advance))

/-- A result park of the acting context under a new number (R66): the pc stays at the bundle until the reply. -/
def State.parkResult (s : State) (r : Result) : State :=
  (s.park s.curCore s.curCtx (.result s.tok s.curLen r)).newTok

/-! ### Class A operands (R91, R280) -/

/-- The register sources of a second operand. -/
def srcs2 : Src2 → List Reg
  | .reg r => [r]
  | _ => []
/-- The value of a second operand, given the register's value. -/
def val2 (b : Src2) (v : Word) : Word :=
  match b with
  | .reg _ => v
  | .s6 i => i.signExtend 64
  | .i32 i => i.signExtend 64

/-- The w-bit operands and the result of R280: `op w a b` on w-bit unsigned values; the 32-bit result is sign-extended. -/
def aluWord (w32 : Bool) (op : Nat → Nat → Nat → Nat) (a b : Word) : Word :=
  if w32 then sx64 32 (op 32 (a.toNat % 2 ^ 32) (b.toNat % 2 ^ 32)) else BitVec.ofNat 64 (op 64 a.toNat b.toNat)

/-- A two-source class A operation (R280). -/
def State.alu (s : State) (x : AluOps) (op : Nat → Nat → Nat → Nat) : State :=
  s.runPut (x.a :: srcs2 x.b) x.dst (fun vs => aluWord x.w32 op (vs.getD 0 0) (val2 x.b (vs.getD 1 0)))
/-- A one-source class A operation (R92). -/
def State.alu1 (s : State) (x : UnOps) (op : Nat → Nat → Nat) : State :=
  s.runPut (srcs2 x.src) x.dst (fun vs => aluWord x.w32 (fun w a _ => op w a) (val2 x.src (vs.getD 0 0)) 0)

/-- The offset of BR and CALL in bytes (R91). -/
def offBytes : Off → Word
  | .short v => v.signExtend 64 * 4
  | .long v => v.signExtend 64 * 4

/-- The effective address of class M, JMP and the descriptors (R92). -/
def effAddr (base : Word) (disp : BitVec 32) : Nat := (base + disp.signExtend 64).toNat
def effAddr16 (base : Word) (disp : BitVec 16) : Nat := (base + disp.signExtend 64).toNat

/-- LocalSpan (R279): the fault it raises, if any. -/
def State.localSpan (s : State) (a n al : Nat) : Option FCode :=
  if a % al ≠ 0 then some .align
  else if isSteward s.curCore ∨ Config.spadSize < a + n ∨ s.touchesStacks s.curCore a n then some .bounds else none

/-- Ranges of R160. -/
def isAperture (a : Nat) : Bool := 0x40000000 ≤ a && a < 0x60000000
def isGlobal (a : Nat) : Bool := Config.globalBase ≤ a && a < Config.vaTop
/-- The core and offset an aperture address names; none for x or y of 24 or more. -/
def apertureOf (a : Nat) : Option (Nat × Nat) :=
  if isAperture a && fld a 21 17 < 24 && fld a 26 22 < 24 then some (coreAt (fld a 28 27) (fld a 21 17) (fld a 26 22), fld a 16 0)
  else none

/-- A fault effect. -/
def eFault (code : FCode) (w2 w3 : Nat) : Eff := .trap code (BitVec.ofNat 64 w2) (BitVec.ofNat 64 w3)
/-- F_ILLEGAL, reason 0x0C, raised at execution: the S slot's part, pos 0 (R99). (DEDUCED, log entry 15.) -/
def eRefuse : Eff := .trap .illegal 0 (BitVec.ofNat 64 (0x0C + 256))

end Sys2Proof.Machine
end

