-- ==== Sys2Proof/Machine/Alu.lean ====
section
/-! DEFINITION. Meanings of the class A, L and E integer operations of the S slot (R280 to R285, R295, R296, R302, R310, R320, R321,
R330, R333 to R337, R342, R345, R348, R349, R353, R380). -/

namespace Sys2Proof.Machine

/-- The outcome of a meaning. -/
abbrev Res := Host.Outcome State Fault Refusal

/-- NOP (R334). -/
def execNop (s : State) : Res := .next s.advance

def opAdd (w a b : Nat) : Nat := (a + b) % 2 ^ w
def opSub (w a b : Nat) : Nat := (a + 2 ^ w - b) % 2 ^ w
def opMul (w a b : Nat) : Nat := a * b % 2 ^ w
/-- MULH: the floor of the product's high half, by signedness (R333). -/
def opMulh (k : MulhKind) (w a b : Nat) : Nat :=
  let x : Int := match k with
    | .uu => a
    | _ => sgn w a
  let y : Int := match k with
    | .ss => sgn w b
    | _ => b
  unsgn w ((x * y) / (2 ^ w : Nat))
/-- DIV's quotient (R302). -/
def opDiv (u : Bool) (w a b : Nat) : Nat :=
  if b = 0 then 2 ^ w - 1
  else if u then a / b
  else if a = 2 ^ (w - 1) ∧ b = 2 ^ w - 1 then a
  else unsgn w (Int.tdiv (sgn w a) (sgn w b))
/-- REM's remainder (R342). -/
def opRem (u : Bool) (w a b : Nat) : Nat :=
  if b = 0 then a
  else if u then a % b
  else if a = 2 ^ (w - 1) ∧ b = 2 ^ w - 1 then 0
  else unsgn w (Int.tmod (sgn w a) (sgn w b))
/-- Q of R302: significant bits of the quotient's magnitude, w for a zero divisor. -/
def divBits (u : Bool) (w a b : Nat) : Nat :=
  if b = 0 then w
  else bitLen (w + 1) (if u then a / b else (sgn w a).natAbs / (sgn w b).natAbs)
def opAnd (_ a b : Nat) : Nat := a &&& b
def opOr (_ a b : Nat) : Nat := a ||| b
def opXor (_ a b : Nat) : Nat := a ^^^ b
def opShl (w a b : Nat) : Nat := a * 2 ^ (b % w) % 2 ^ w
def opShr (w a b : Nat) : Nat := a / 2 ^ (b % w)
def opSra (w a b : Nat) : Nat := unsgn w (sgn w a / (2 ^ (b % w) : Nat))
def opRot (w a b : Nat) : Nat :=
  let k := b % w
  if k = 0 then a else a * 2 ^ k % 2 ^ w + a / 2 ^ (w - k)
def opMin (u : Bool) (w a b : Nat) : Nat := if u then Nat.min a b else if sgn w a ≤ sgn w b then a else b
def opMax (u : Bool) (w a b : Nat) : Nat := if u then Nat.max a b else if sgn w a ≤ sgn w b then b else a
def opClz (w a : Nat) : Nat := w - bitLen w a
def opPopc (w a : Nat) : Nat := popCount w a

def execAdd (x : AluOps) (s : State) : Res := .next (s.alu x opAdd)
def execSub (x : AluOps) (s : State) : Res := .next (s.alu x opSub)
def execMul (x : AluOps) (s : State) : Res := .next (s.alu x opMul)
def execMulh (k : MulhKind) (x : AluOps) (s : State) : Res := .next (s.alu x (opMulh k))
def execAnd (x : AluOps) (s : State) : Res := .next (s.alu x opAnd)
def execOr (x : AluOps) (s : State) : Res := .next (s.alu x opOr)
def execXor (x : AluOps) (s : State) : Res := .next (s.alu x opXor)
def execShl (x : AluOps) (s : State) : Res := .next (s.alu x opShl)
def execShr (x : AluOps) (s : State) : Res := .next (s.alu x opShr)
def execSra (x : AluOps) (s : State) : Res := .next (s.alu x opSra)
def execRot (x : AluOps) (s : State) : Res := .next (s.alu x opRot)
def execMin (u : Bool) (x : AluOps) (s : State) : Res := .next (s.alu x (opMin u))
def execMax (u : Bool) (x : AluOps) (s : State) : Res := .next (s.alu x (opMax u))
def execClz (x : UnOps) (s : State) : Res := .next (s.alu1 x opClz)
def execPopc (x : UnOps) (s : State) : Res := .next (s.alu1 x opPopc)
def execMov (x : UnOps) (s : State) : Res := .next (s.alu1 x (fun _ a => a))

/-- DIV and REM park until their result is written, 4 + Q cycles after issue (R302, R342). -/
def State.divOp (s : State) (x : AluOps) (u : Bool) (op : Nat → Nat → Nat → Nat) : State :=
  s.runOp (x.a :: srcs2 x.b) (some x.dst) (fun vs =>
    let a := vs.getD 0 0
    let b := val2 x.b (vs.getD 1 0)
    let q := if x.w32 then divBits u 32 (a.toNat % 2 ^ 32) (b.toNat % 2 ^ 32) else divBits u 64 a.toNat b.toNat
    .ok (fun s => (s.sched (4 + q) (.replyWrite s.curCore s.curCtx s.tok (.word (aluWord x.w32 op a b)))).parkResult (.put x.dst)))
def execDiv (u : Bool) (x : AluOps) (s : State) : Res := .next (s.divOp x u (opDiv u))
def execRem (u : Bool) (x : AluOps) (s : State) : Res := .next (s.divOp x u (opRem u))

/-- The three-input bit function of LTAB and VLTAB: `y` weighs 4, `z` 2, `x` 1 (R330, R367). -/
def tableBits (n tbl x y z : Nat) : Nat := ofBits (fun k => bit tbl (4 * (bit y k).toNat + 2 * (bit z k).toNat + (bit x k).toNat)) n

/-- LTAB (R330). -/
def execLtab (w32 : Bool) (dst a b : Reg) (tbl : BitVec 8) (s : State) : Res :=
  .next (s.runPut [dst, a, b] dst (fun vs =>
    let r := tableBits 64 tbl.toNat (vs.getD 0 0).toNat (vs.getD 1 0).toNat (vs.getD 2 0).toNat
    if w32 then sx64 32 r else BitVec.ofNat 64 r))

/-- FSH (R310). -/
def execFsh (w32 : Bool) (dst a b : Reg) (sh : BitVec 6) (s : State) : Res :=
  .next (s.runPut [a, b] dst (fun vs =>
    aluWord w32 (fun w x y => (x * 2 ^ w + y) / 2 ^ sh.toNat % 2 ^ w) (vs.getD 0 0) (vs.getD 1 0)))

/-- BFX (R285): bits beyond 63 read as zero. -/
def execBfx (sx : Bool) (dst a : Reg) (pos len : BitVec 6) (s : State) : Res :=
  .next (s.runPut [a] dst (fun vs =>
    let l := len.toNat + 1
    let f := (vs.getD 0 0).toNat / 2 ^ pos.toNat % 2 ^ l
    if sx then sx64 l f else BitVec.ofNat 64 f))

/-- BFI (R285): bits of the field beyond 63 are dropped. -/
def execBfi (dst a b : Reg) (pos len : BitVec 6) (s : State) : Res :=
  .next (s.runPut [a, b] dst (fun vs =>
    let p := pos.toNat
    let hi := Nat.min (p + len.toNat + 1) 64
    let x := (vs.getD 0 0).toNat
    BitVec.ofNat 64 (x % 2 ^ p + (vs.getD 1 0).toNat % 2 ^ (hi - p) * 2 ^ p + x / 2 ^ hi * 2 ^ hi)))

/-- CMP writes a predicate and shifts nothing (R296). -/
def execCmp (u : Bool) (c : Cond) (pd : Fin 8) (w32 : Bool) (a : Reg) (b : Src2) (s : State) : Res :=
  .next (s.runOp (a :: srcs2 b) none (fun vs =>
    let w := if w32 then 32 else 64
    let x : Nat := (vs.getD 0 0).toNat % 2 ^ w
    let y : Nat := (val2 b (vs.getD 1 0)).toNat % 2 ^ w
    let r := if u then condInt c x y else condInt c (sgn w x) (sgn w y)
    .ok (fun s => (s.modMe (fun x => x.writeP pd r)).advance)))

/-- SEL reads both sources (R348). -/
def execSel (inv : Bool) (p : Fin 8) (dst a b : Reg) (s : State) : Res :=
  .next (s.runPut [a, b] dst (fun vs => if (s.me.readP p) != inv then vs.getD 0 0 else vs.getD 1 0))

/-- LI, LIH, ADDPC (R283, R320, R321). -/
def execLi (dst : Reg) (imm : BitVec 32) (s : State) : Res := .next (s.runPut [] dst (fun _ => imm.signExtend 64))
def execLih (dst : Reg) (imm : BitVec 32) (s : State) : Res :=
  .next (s.runPut [dst] dst (fun vs => BitVec.ofNat 64 (imm.toNat * 2 ^ 32 + (vs.getD 0 0).toNat % 2 ^ 32)))
def execAddpc (dst : Reg) (imm : BitVec 32) (s : State) : Res := .next (s.runPut [] dst (fun _ => s.me.pc + imm.signExtend 64))

/-- PLOG (R336). -/
def execPlog (pd pa pb pc : Fin 8) (tbl : BitVec 8) (s : State) : Res :=
  let x := s.me
  let r := bit tbl.toNat (4 * (x.readP pa).toNat + 2 * (x.readP pb).toNat + (x.readP pc).toNat)
  .next (s.modMe (fun x => x.writeP pd r)).advance

end Sys2Proof.Machine
end

