-- ==== Sys2Proof/Machine/Send.lean ====
section
/-! DEFINITION. What leaves a core: the write-combining buffer's drains, the injection queue, unacknowledged operations, the
holds of releases (R174, R198, R199, R203, R206, R234), and the routers packets enter (R229 to R235). -/

namespace Sys2Proof.Machine

/-- Cycles to the next fabric cycle: two fabric cycles span three core cycles (R15). -/
def State.toFabric (s : State) : Nat := if s.now % 3 = 0 then 2 else 1
/-- Core cycles that `n` fabric cycles take. -/
def fabricCycles (n : Nat) : Nat := (3 * n + 1) / 2
/-- The core cycle that lies `n` fabric cycles after this one. -/
def State.afterFabric (s : State) (n : Nat) : Nat := s.now + (if s.now % 3 = 2 then 3 * n / 2 else fabricCycles n)

/-- An event is on the agenda. -/
def State.due (s : State) (i : Instr) : Bool := s.agenda.any (fun e => e.2 == i)
/-- Schedule an event unless it is scheduled already. -/
def State.schedOnce (s : State) (delay : Nat) (i : Instr) : State := if s.due i then s else s.sched delay i
/-- An event is due within `delay` cycles, or is scheduled. -/
def State.schedSoon (s : State) (delay : Nat) (i : Instr) : State :=
  if s.agenda.any (fun e => e.2 == i && e.1 ≤ s.now + delay) then s else s.sched delay i

/-! ### Routers -/

def clsNum : PktClass → Nat
  | .sync => 0 | .rsp => 1 | .data => 2 | .req => 3
/-- Distance along a ring, and whether the positive way (E or S) or the negative way is productive (R232). -/
def ringDist (a b : Nat) : Nat := let d := (b + 24 - a) % 24; Nat.min d (24 - d)
def ringPlus (a b : Nat) : Bool := let d := (b + 24 - a) % 24; d != 0 && d ≤ 12
def ringMinus (a b : Nat) : Bool := let d := (b + 24 - a) % 24; 12 ≤ d

/-- Where a packet heads on this die, and the port it leaves by there: a die bridge, horizontal crossings first, or the local
port (R233). Dies 0 and 1 are above 2 and 3. -/
def pktTarget (c dst : Nat) : Nat × Nat × Nat :=
  if coreDie c = coreDie dst then (coreX dst, coreY dst, 5)
  else if coreDie c % 2 ≠ coreDie dst % 2 then (if coreDie c % 2 = 0 then 23 else 0, coreY dst, 4)
  else (coreX dst, if coreDie c / 2 = 0 then 23 else 0, 4)
/-- Hops of a path, a die crossing counted as three (R237). -/
def hopCount (a b : Nat) : Nat :=
  if coreDie a = coreDie b then ringDist (coreX a) (coreX b) + ringDist (coreY a) (coreY b)
  else
    let cross1 := coreDie a % 2 ≠ coreDie b % 2
    let x1 := if coreDie a % 2 = 0 then 23 else 0
    let a1 := if cross1 then coreAt (2 * (coreDie a / 2) + coreDie b % 2) (23 - x1) (coreY b) else a
    let h1 := if cross1 then ringDist (coreX a) x1 + ringDist (coreY a) (coreY b) + 3 else 0
    if coreDie a1 = coreDie b then h1 + ringDist (coreX a1) (coreX b) + ringDist (coreY a1) (coreY b)
    else
      let y1 := if coreDie a1 / 2 = 0 then 23 else 0
      h1 + ringDist (coreX a1) (coreX b) + ringDist (coreY a1) y1 + 3 + ringDist (23 - y1) (coreY b)

/-- The router and input port at the far side of an output port. -/
def portPeer (c p : Nat) : Nat × Nat :=
  match p with
  | 0 => (neighbour c .e, 2)
  | 1 => (neighbour c .s, 3)
  | 2 => (neighbour c .w, 0)
  | 3 => (neighbour c .n, 1)
  | _ =>
    -- the die bridge
    if coreX c = 23 ∧ coreDie c % 2 = 0 ∧ coreY c < 24 then (coreAt (coreDie c + 1) 0 (coreY c), 4)
    else if coreX c = 0 ∧ coreDie c % 2 = 1 then (coreAt (coreDie c - 1) 23 (coreY c), 4)
    else if coreY c = 23 ∧ coreDie c < 2 then (coreAt (coreDie c + 2) (coreX c) 0, 4)
    else (coreAt (coreDie c - 2) (coreX c) 23, 4)
/-- The bridge a packet crosses at a corner core is the one of its crossing. -/
def bridgePeer (c dst : Nat) : Nat × Nat :=
  if coreDie c % 2 ≠ coreDie dst % 2 then
    (if coreDie c % 2 = 0 then (coreAt (coreDie c + 1) 0 (coreY c), 4) else (coreAt (coreDie c - 1) 23 (coreY c), 4))
  else if coreDie c < 2 then (coreAt (coreDie c + 2) (coreX c) 0, 4)
  else (coreAt (coreDie c - 2) (coreX c) 23, 4)
def pktPeer (c p dst : Nat) : Nat × Nat := if p = 4 then bridgePeer c dst else portPeer c p

/-- The channel of an input port: class, and 0 and 1 adaptive, 2 and 3 the escape halves (R231). -/
def chanKey (port cls sub : Nat) : Nat := 16 * port + 4 * cls + sub
def Router.chan (r : Router) (k : Nat) : Chan := Table.get Chan.idle r.chans k
def Chan.flits (x : Chan) : Nat := (x.q.map (·.flits)).foldl (· + ·) 0
/-- Free buffers of a channel of four flits. -/
def Chan.free (x : Chan) : Nat := 4 - x.flits

/-- The outputs that reduce the distance (R232). -/
def productive (c tx ty : Nat) : List Nat :=
  (if ringPlus (coreX c) tx then [0] else []) ++ (if ringPlus (coreY c) ty then [1] else [])
    ++ (if ringMinus (coreX c) tx then [2] else []) ++ (if ringMinus (coreY c) ty then [3] else [])
/-- The escape route: x first, then y, the shorter way, E or S at 12 (R232). -/
def escapePort (c tx ty : Nat) : Nat :=
  if coreX c ≠ tx then (if ringPlus (coreX c) tx then 0 else 2) else if ringPlus (coreY c) ty then 1 else 3

/-- The output a packet at the head of a channel requests. -/
def State.outPort (s : State) (c sub : Nat) (p : Pkt) : Nat :=
  let t := pktTarget c p.dst
  if coreX c = t.1 ∧ coreY c = t.2.1 then t.2.2
  else if p.cls = .sync ∨ 2 ≤ sub then escapePort c t.1 t.2.1
  else
    let free (o : Nat) : Nat :=
      let q := pktPeer c o p.dst
      let r := s.router q.1
      (r.chan (chanKey q.2 (clsNum p.cls) 0)).free + (r.chan (chanKey q.2 (clsNum p.cls) 1)).free
    match productive c t.1 t.2.1 with
    | [] => 5
    | o :: os => os.foldl (fun best k => if free best < free k then k else best) o

/-- Offer every output some head requests: at the next fabric cycle, or when its packet reaches the router. -/
def State.kickRouter (s : State) (c : Nat) : State :=
  let heads := (s.router c).chans.cells.filterMap (fun k => k.2.q.head?.map (fun p =>
    (s.outPort c (k.1 % 4) p, if s.now < p.at_ then p.at_ - s.now else s.toFabric)))
  heads.foldl (fun s h => s.schedSoon h.2 (.outputArbitration c h.1)) s

/-- A packet enters an input channel; as its head it requests an output after `delay` cycles. -/
def State.enterChan (s : State) (c key delay : Nat) (p : Pkt) : State :=
  let s := s.modRouter c (fun r => { r with
    chans := r.chans.set key { r.chan key with q := (r.chan key).q ++ [{ p with wait := 0, at_ := s.now + delay }] } })
  match ((s.router c).chan key).q with
  | [q] => s.schedSoon delay (.outputArbitration c (s.outPort c (key % 4) q))
  | _ => s

/-- The channel of the local port a packet enters: the escape half of the SYNC class, else the freer adaptive channel (R231, R232). -/
def Router.localKey (r : Router) (cls : PktClass) : Nat :=
  let f (j : Nat) : Nat := (r.chan (chanKey 5 (clsNum cls) j)).free
  chanKey 5 (clsNum cls) (if cls = PktClass.sync then 2 else if f 0 < f 1 then 1 else 0)
/-- A channel has the buffers for a packet; an empty one takes any. -/
def Chan.takes (x : Chan) (n : Nat) : Bool := x.q.isEmpty || n ≤ x.free
/-- The local port has a buffer for a packet, and nothing of its class waits for one. -/
def Router.takesLocal (r : Router) (p : Pkt) : Bool :=
  !r.wait.any (fun q => q.cls == p.cls) && (r.chan (r.localKey p.cls)).takes p.flits
/-- Cycles from the local port to the first arbitration: an acknowledgement's, a drain row's, a remote store's (R237). (DESIGN CHOICE,
log entry 5.) -/
def localDelay (p : Pkt) : Nat :=
  match p.body with
  | .ack => 0
  | .row _ => 20
  | _ => 18
/-- A packet enters the local port of a router, or waits for a buffer of it. -/
def State.enterRouter (s : State) (c : Nat) (p : Pkt) : State :=
  if (s.router c).takesLocal p then s.enterChan c ((s.router c).localKey p.cls) (localDelay p) p
  else s.modRouter c (fun r => { r with wait := r.wait ++ [p] })
/-- What waits for buffers of the local port takes those that are free, oldest first in each class. -/
def State.admitLocal (s : State) (c : Nat) : State :=
  let ps := (s.router c).wait
  if ps.isEmpty then s
  else ps.foldl (fun (s : State) p => s.enterRouter c p) (s.modRouter c (fun r => { r with wait := [] }))

/-- A packet reaches its destination core: the event that applies it. -/
def arrivalOf (p : Pkt) : Instr :=
  match p.body with
  | .store .. | .dw .. | .acc .. => .remoteStoreArrival p
  | .fe .. => .rstFeArrival p
  | .row r => .drainRowWrite r
  | .ack => .acknowledgement p.dst p.ctx p.tok

/-- Flits of a packet with `n` bytes of payload (R230). -/
def flitsOf (n : Nat) : Nat := if n ≤ 32 then 1 else 1 + (n - 32 + 63) / 64
/-- The priority of a core's packets (R230). -/
def State.pktPrio (s : State) (c : Nat) : Nat :=
  match s.teamOf c with
  | some (_, t) => t.lr.pri / 2
  | none => 3

/-- Send a packet that needs no injection entry (an acknowledgement, a drain row). -/
def State.sendPkt (s : State) (cls : PktClass) (src dst ctx tok n : Nat) (b : PktBody) : State :=
  s.enterRouter src
    { cls := cls, src := src, dst := dst, flits := flitsOf n, prio := s.pktPrio src, ctx := ctx, tok := tok, wait := 0, body := b }

/-! ### Refused writes (R166, R248) -/

/-- The key of a refused write: its source core, and its number there. -/
def refusalKey (src tok : Nat) : Nat := src + 4096 * tok
/-- An earlier refused write of the source stands before a write. -/
def refusedBefore (l : List Nat) (src tok : Nat) : Bool :=
  match l.find? (fun k => k % 4096 == src) with
  | some k => k != refusalKey src tok
  | none => false
def addRefused (l : List Nat) (src tok : Nat) : List Nat := if l.contains (refusalKey src tok) then l else l ++ [refusalKey src tok]
def dropRefused (l : List Nat) (src tok : Nat) : List Nat := l.filter (fun k => k != refusalKey src tok)
/-- A core's router refuses a write, or lets one in. -/
def State.refuseAt (s : State) (c src tok : Nat) : State := s.modCore c (fun x => { x with refused := addRefused x.refused src tok })
def State.letIn (s : State) (c src tok : Nat) : State :=
  if (s.core c).refused.isEmpty then s else s.modCore c (fun x => { x with refused := dropRefused x.refused src tok })
/-- A write that will not be sent again stands before nothing. -/
def State.forgetRefused (s : State) (src tok : Nat) : State :=
  if s.cores.cells.any (fun x => x.2.refused.contains (refusalKey src tok)) then
    { s with cores := s.cores.mapAll (fun _ (x : Core) => { x with refused := dropRefused x.refused src tok }) }
  else s

/-! ### Outstanding operations -/

/-- An operation is not yet acknowledged: in the write-combining buffer, or sent. -/
def Core.tokOut (x : Core) (t : Nat) : Bool := x.wcb.any (fun w => w.tok == t) || x.unacked.any (fun o => o.tok == t)
def Core.anyOut (x : Core) (ts : List Nat) : Bool := ts.any x.tokOut
/-- Stores, atomics and XREADs of a line on their way (R199). -/
def Core.lineToks (x : Core) (pa : Nat) : List Nat :=
  x.unacked.filterMap (fun o => match o.kind with
    | .atomic p _ | .wc p _ | .xread p _ => if p / 64 = pa / 64 then some o.tok else none
    | .remote _ => none)

/-- Free entries of the injection queue (R234). -/
def Core.injFree (x : Core) : Bool := x.inj.length < 16

/-- Whether an entry may not pass a held one (R234): the same destination core or home line, a SYNC packet, a marker. -/
def Inj.behind (e h : Inj) : Bool :=
  match e.body with
  | .marker .. => true
  | .pkt p => p.cls == .sync || (match h.body with
      | .pkt q => q.dst == p.dst
      | _ => false)
  | .home r => (match h.body with
      | .home q => q.pa / 64 == r.pa / 64
      | _ => false)
/-- An access at its home uses the line of the home buffer, or allocates it (R172): 327,680 lines a die, least recently used replaced;
a dirty line that goes is written back. Whether the line was present. -/
def State.touchLine (s : State) (pa : Nat) (dirty : Bool) : State × Bool :=
  let d := homeDie pa
  let k := pa / 64
  let ls := (s.die d).lines
  match ls.find? (fun e => e.1 == k) with
  | some e => (s.modDie d (fun x => { x with lines := (k, e.2 || dirty) :: ls.filter (fun e => e.1 != k) }), true)
  | none =>
    let all := (k, dirty) :: ls
    let s := s.modDie d (fun x => { x with lines := all.take 327680 })
    (match all.drop 327680 with
     | (v, true) :: _ =>
       let ch := homeChan (64 * v)
       (s.modChan ch (fun x => { x with writes := x.writes ++ [(s.now, 64 * v)] })).schedSoon 2 (.hbmRequestServe ch)
     | _ => s, false)
/-- Every line of a span is accessed at its home. -/
def State.touchLines (s : State) (dirty : Bool) (pa n : Nat) : State :=
  (List.range ((pa % 64 + n + 63) / 64)).foldl (fun (s : State) k => (s.touchLine (alignDown 64 pa + 64 * k) dirty).1) s
/-- Every line of a span is written at its home. -/
def State.touchSpan (s : State) (pa n : Nat) : State := s.touchLines true pa n

/-- The input queue of a home, past the 64 entries of its channel's read or write queue, holds 48 or more (R234, R236). (DESIGN CHOICE, log
entry 42.) -/
def State.homeFull (s : State) (pa : Nat) : Bool :=
  let x := s.chan (homeChan pa)
  64 + 48 ≤ x.reads.length || 64 + 48 ≤ x.writes.length
/-- The home of an address asserts back-pressure: its input queue (R234), or its residency queue (R245), is full. -/
def State.backPressure (s : State) (e : Inj) : Bool :=
  match e.body with
  | .home r => paKind r.pa = .hbm && (s.homeFull r.pa || 512 ≤ (s.die (homeDie r.pa)).resq.length)
  | _ => false
/-- The index of the oldest eligible entry. -/
def Core.pickInj (x : Core) (back : Inj → Bool) (held : List Inj) (k : Nat) : List Inj → Option Nat
  | [] => none
  | e :: es =>
    if x.anyOut e.after || back e || held.any (fun h => e.behind h) then x.pickInj back (held ++ [e]) (k + 1) es else some k

/-- A span link is enabled and trained (R20). -/
def State.spanUp (s : State) (k : Nat) : Bool := s.spanEn.toNat / 2 ^ k % 2 = 1 && (Table.get (0, 0) s.training.span k).1 ≠ 0
/-- How a peer ends a request, or a port a read: with F_PROTECT (outside the window its steward has set), with F_MEMERR, or well. The
peer and the device are outside the machine (log entry 21). -/
def State.outsideEnd (s : State) (port : Bool) : Option FCode :=
  match Config.outsideEnds s.fresh with
  | 1 => if port then none else some .protect
  | 2 => some .memErr
  | _ => none
/-- The way of a request to a peer's home and back: two span links and two control ports, and the homes' own way (R237). -/
def peerWay (d : Nat) : Nat := d + Config.homeWay + 2 * (Config.spanWay + 12)
/-- The kind a fault of a request without a reply is logged with (R242). -/
def logKindOf (r : HomeReq) : Nat :=
  match r.kind with
  | .red _ => 0
  | .xsum _ => 1
  | _ => 2
/-- End a request beyond the local homes: a fault, or a reply with bytes from outside; an XREAD is acknowledged with it. -/
def State.endOutside (s : State) (r : HomeReq) (delay : Nat) (bad : Option FCode) : State :=
  let byte (k : Nat) : Byte := Config.outsideByte s.fresh k
  let reply (n : Nat) : Reply := match bad with
    | some f => .fault f (BitVec.ofNat 64 r.va)
    | none => match r.kind with
      | .xread => .word (BitVec.ofNat 64 (leNat ((List.range 4).map byte)))
      | _ => .bytes ((List.range n).map byte)
  let s := { s with fresh := s.fresh + 1 }
  match r.kind with
  | .load => s.sched delay (.replyWrite r.core r.ctx r.tok (reply 64))
  | .fine n => s.sched delay (.replyWrite r.core r.ctx r.tok (reply n))
  | .xread => (s.sched delay (.replyWrite r.core r.ctx r.tok (reply 0))).sched delay (.acknowledgement r.core r.ctx r.tok)
  | _ =>
    let owners := (((s.core r.core).unacked.find? (fun o => o.tok == r.tok)).map (·.ctxs)).getD [r.ctx]
    let s := match bad with
      | some f => owners.foldl (fun (s : State) n => s.sched delay (.faultLogEntry r.core n ⟨f, logKindOf r, BitVec.ofNat 64 r.va, 0⟩)) s
      | none => s
    s.sched delay (.acknowledgement r.core r.ctx r.tok)
/-- Send a request to its home, `d` cycles away: local homes, the peer on a span link, or a PCIe port (R171). -/
def State.sendHome (s : State) (r : HomeReq) (d : Nat) : State :=
  match paKind r.pa with
  | .hbm => s.sched d (.homeRequestArrival r)
  | .peer k _ =>
    -- a link that is down ends the access with F_PROTECT; otherwise the peer answers
    if s.spanUp k then s.endOutside r (peerWay d) (s.outsideEnd false) else s.endOutside r d (some .protect)
  | .port _ _ =>
    (match r.kind with
     | .store _ => s.sched Config.deviceWrite (.acknowledgement r.core r.ctx r.tok)
     | _ => { s with pcie := s.pcie ++ [(r.core, r.ctx, r.tok, s.now)] }.sched 150000000 (.pcieCompletionTimeout r.core r.ctx r.tok))
  | .invalid => s

/-- Send a write-combining entry to its home (R174): it accepts no more merges, and its core's cluster loses the line. -/
def State.sendWc (s : State) (c : Nat) (w : WC) : State :=
  let s := s.modCore c (fun x => { x with
    wcb := x.wcb.filter (fun e => e.tok != w.tok)
    unacked := x.unacked ++ [⟨w.tok, w.owners, .wc w.pa w.va⟩] })
  (s.cacheDrop c w.pa).sendHome (
    { kind := .store w.mask, core := c, ctx := w.owners.headD 0, pa := w.pa, va := w.va, space := w.space, res := w.res,
      tok := w.tok, data := w.data, tries := 0, size := w.size } : HomeReq) Config.homeWay

/-- The closed entries whose waits are over, and that have no earlier access of their line on its way. -/
def Core.readyWc (x : Core) : List WC :=
  x.wcb.filter (fun w => w.closed && !x.anyOut (w.after ++ (x.lineToks w.pa).filter (· < w.tok)))
/-- Drain them, in an order the device does not fix (R174). -/
def State.drainReady (s : State) (c : Nat) : Nat → State
  | 0 => s
  | n + 1 =>
    let ws := (s.core c).readyWc
    match ws[s.pick ws.length]? with
    | some w => ((s.spend ws.length).sendWc c w).drainReady c n
    | none => s
/-- Whatever may leave a core leaves: closed entries drain, and the injection queue is offered the next fabric cycle in which its oldest
eligible entry is ready. -/
def State.pump (s : State) (c : Nat) : State :=
  let s := s.drainReady c 8
  match ((s.core c).pickInj s.backPressure [] 0 (s.core c).inj).bind ((s.core c).inj[·]?) with
  | some e => s.schedSoon (if s.now < e.ready then e.ready - s.now else s.toFabric) (.injectionSend c)
  | none => s

/-- Offer every core its injection queue again: back-pressure may be over (R234). -/
def State.pumpAll (s : State) : State := s.cores.cells.foldl (fun (s : State) c => if c.2.inj.isEmpty then s else s.pump c.1) s
/-- The places of a write-combining buffer in use: its entries, and those on their way to their homes (R174). (DEDUCED, log entry 65.) -/
def State.wcbUsed (s : State) (c : Nat) : Nat :=
  (s.core c).wcb.length + (s.agenda.filter (fun e => match e.2 with
    | .homeRequestArrival r => r.core == c && (match r.kind with
        | .store _ => true
        | _ => false)
    | _ => false)).length
/-- Begin draining entries of the write-combining buffer. -/
def State.closeWc (s : State) (c : Nat) (f : WC → Bool) : State :=
  (s.modCore c (fun x => { x with wcb := x.wcb.map (fun w => if f w then { w with closed := true } else w) })).pump c

/-- Cycles from issue to injection (log entry 5). -/
def injDelay : Nat := 2
/-- Queue an entry for injection. -/
def State.inject (s : State) (c : Nat) (b : InjBody) (after : List Nat) : State :=
  (s.modCore c (fun x => { x with inj := x.inj ++ [⟨b, after, s.now + injDelay⟩] })).pump c
/-- Record an unacknowledged operation of a context. -/
def State.newOut (s : State) (c n tok : Nat) (k : OutKind) : State :=
  s.modCore c (fun x => { x with unacked := x.unacked ++ [⟨tok, [n], k⟩] })

/-! ### Releases (R203, R206) -/

/-- The binding of a slot that governs this cycle (R286, R358). -/
def Core.slot (x : Core) (now k : Nat) : Option Binding :=
  timedGet now k x.slots
/-- The ranges bound to an object. -/
def Core.boundTo (x : Core) (now : Nat) (o : Obj) : List Binding :=
  ((List.range 16).filterMap (x.slot now)).filter (fun b => b.obj == o)
def overlaps (bs : List Binding) (va n : Nat) : Bool := bs.any (fun b => b.base < va + n && va < b.base + 64 * b.lines)

/-- Begin a release of an object by context `n`: drain the entries of bound ranges, and name what it waits for: those entries,
earlier ones still unacknowledged, and the issuer's atomics to the ranges. -/
def State.releaseBound (s : State) (c n : Nat) (o : Obj) : State × List Nat :=
  let x := s.core c
  let bs := x.boundTo s.now o
  let mine := x.wcb.filter (fun w => overlaps bs w.va 64)
  let sent := x.unacked.filterMap (fun u => match u.kind with
    | .wc _ va => if overlaps bs va 64 then some u.tok else none
    | .atomic _ va => if u.ctxs.contains n && overlaps bs va 8 then some u.tok else none
    | .remote _ | .xread .. => none)
  (s.closeWc c (fun w => overlaps bs w.va 64), mine.map (·.tok) ++ sent)
/-- Numbers of the issuer's remote stores. -/
def Core.remoteToks (x : Core) (n : Nat) : List Nat :=
  x.unacked.filterMap (fun u => match u.kind with
    | .remote _ => if u.ctxs.contains n then some u.tok else none
    | _ => none)
def Core.atomicToks (x : Core) (n : Nat) : List Nat :=
  x.unacked.filterMap (fun u => match u.kind with
    | .atomic _ _ => if u.ctxs.contains n then some u.tok else none
    | _ => none)
/-- The full release of TRIG, CSTAGE and TRAP: every entry present drains; the issuer's remote stores and atomics; and the
number of its last COPY-group command. -/
def State.releaseAll (s : State) (c n : Nat) : State × List Nat × Nat :=
  let x := s.core c
  let toks := x.wcb.map (·.tok) ++ (x.unacked.filterMap (fun u => match u.kind with
    | .wc _ _ => some u.tok
    | _ => none)) ++ x.remoteToks n ++ x.atomicToks n
  (s.closeWc c (fun _ => true), toks, (s.ctx c n).lastCopy)
/-- A release has ended. -/
def State.released (s : State) (c : Nat) (toks : List Nat) (copy : Nat) : Bool :=
  !(s.core c).anyOut toks && copy ≤ (s.core c).copyCtr

/-- The acquire of R204: the read-cache lines of bound ranges go. -/
def State.acquire (s : State) (c : Nat) (o : Obj) : State :=
  ((s.core c).boundTo s.now o).foldl (fun s b => s.cacheDropRange c b.base (64 * b.lines)) s

end Sys2Proof.Machine
end

