-- ==== Sys2Proof/Machine/Mem.lean ====
section
/-! DEFINITION. Meanings of the class M operations: loads, stores, blocks, full/empty words, remote stores, atomics and datum
words (R160 to R183, R287, R290, R303, R304, R308, R312, R313, R316, R317, R341, R346, R351, R352, R368, R379, R381, R382). -/

namespace Sys2Proof.Machine

/-! ### Local accesses -/

/-- The lines an active feed names overlap a span (R111, R228). -/
def Feed.touches (f : Feed) (blocks : Bool) (a n : Nat) : Bool :=
  if blocks then (List.range 32).any (fun m => f.base + m * f.stride < a + n && a < f.base + m * f.stride + 64 * f.count)
  else (List.range f.count).any (fun j => f.base + j * f.stride < a + n && a < f.base + j * f.stride + 64)
/-- Rule 1 of R228: a plain store into a range of an active LKFEED of this core without an SPFENCE since it. -/
def State.feedHazard (s : State) (c a n : Nat) : Bool :=
  s.dbghz && allDirs.any (fun d =>
    let e := s.eng (linkId c d)
    let x := if isNear d then e.near else e.far
    x.feeds.any (fun f => f.gen == (s.core c).gen && f.touches (128 ≤ fld x.desc 7 0) a n))

/-- The value of a span of bytes, and a vector of 32. -/
def State.localNat (s : State) (off n : Nat) : Nat := memLe s.mem n (spad s.curCore off)

/-- Extension of a loaded value of `n` bytes. -/
def loadWord (n : Nat) (signed : Bool) (v : Nat) : Word := if signed then sx64 (8 * n) v else BitVec.ofNat 64 v
/-- The bytes and signedness of the types .i8 to .n64 (R316). -/
def memBytesOf (ty : BitVec 3) : Nat := 2 ^ (ty.toNat / 2)
def memSigned (ty : BitVec 3) : Bool := ty.toNat % 2 == 0

/-- A local store of bytes: the faults, then the write (R351, R379, R287). (DESIGN CHOICE, log entry 3.) -/
def State.localStore (s : State) (a : Nat) (bs : List Byte) : Eff :=
  let cell := spad s.curCore a
  if s.badPart cell bs.length then eFault .memErr a 0
  else if s.feedHazard s.curCore a bs.length then eFault .hazard a 1
  else .ok (fun s => (s.store cell bs).advance)

/-! ### Translation of an access (R257, R258) -/

def State.withPage (s : State) (va want : Nat) (k : TlbE → Nat → Eff) : Eff :=
  match s.xlate s.curCore s.curCtx va with
  | .miss => .wait (.xlat (s.spaceOf s.curCore) (va / 65536)) (fun s => s.startWalk s.curCore s.curCtx va)
  | .none => eFault .translate va 0
  | .hit e => if hasAttr e.attr want then k e (e.phys va) else eFault .protect va 0

/-- The write-combining entry of a line begins to drain (R199). -/
def State.drainLine (s : State) (pa : Nat) : State :=
  if (s.core s.curCore).wcb.any (fun w => w.pa == alignDown 64 pa) then s.closeWc s.curCore (fun w => w.pa == alignDown 64 pa) else s
/-- What an access to a line that drains its write-combining entry waits for in the injection queue: that entry, until it is
acknowledged (R199). -/
def Core.wcToks (x : Core) (pa : Nat) : List Nat :=
  (x.wcb.filter (fun w => w.pa == alignDown 64 pa)).map (·.tok) ++ x.unacked.filterMap (fun o => match o.kind with
    | .wc p _ => if p == alignDown 64 pa then some o.tok else none
    | _ => none)
/-- The same, with the atomics of the line on their way. -/
def Core.drainToks (x : Core) (pa : Nat) : List Nat :=
  (x.wcb.filter (fun w => w.pa == alignDown 64 pa)).map (·.tok) ++ x.lineToks pa
/-- An injection entry must be free (R234). -/
def State.withInj (s : State) (k : Eff) : Eff := if (s.core s.curCore).injFree then k else .wait .inj id

/-- A request of the acting context to a home. -/
def State.mkReq (s : State) (k : HomeKind) (e : TlbE) (va tok : Nat) (data : List Byte) : HomeReq :=
  { kind := k, core := s.curCore, ctx := s.curCtx, pa := e.phys va, va := va, space := s.spaceOf s.curCore,
    res := hasAttr e.attr attrRES, tok := tok, data := data, tries := 0
    -- only a HOLD reads this: the page's fine-grain default (R175)
    fg := hasAttr e.attr attrFG, size := e.size }

/-! ### Loads -/

/-- An entry that a later atomic of its line drains supplies no load (R199). -/
def Core.behindAtomic (x : Core) (w : WC) : Bool :=
  w.closed && x.unacked.any (fun o => match o.kind with
    | .atomic p _ => p / 64 == w.pa / 64 && w.tok < o.tok
    | _ => false)
/-- The bytes of a span that the write-combining buffer supplies: the latest entry that holds a byte wins (R174). -/
def Core.forward (x : Core) (pa n : Nat) : List (Option Byte) :=
  (List.range n).map (fun k =>
    let ws := x.wcb.filter (fun w => w.pa == alignDown 64 pa && bit w.mask.toNat ((pa + k) % 64) && !x.behindAtomic w)
    match ws.getLast? with
    | some w => w.data[(pa + k) % 64]?
    | none => none)

/-- The bytes of a reply, with the forwarded bytes in place. -/
def mergeReply (fwd : List (Option Byte)) (n a : Nat) (bs : List Byte) : List Byte :=
  (List.range n).map (fun k => ((fwd.getD k none).getD (if bs.length = 64 then bs.getD (a % 64 + k) 0 else bs.getD k 0)))

/-- A global load of `n` bytes (R316, R368): the context parks, and its value comes from the write-combining buffer, the read
cache, or beyond the core (R173 to R175). `fg` asks for the fine-grain form; `r` says what the reply writes. (DEDUCED, log entry 22.) -/
def State.globalLoad (s : State) (a n : Nat) (fg fgAllowed : Bool) (r : List (Option Byte) → Result) : Eff :=
  s.withPage a attrR (fun e pa =>
    let x := s.core s.curCore
    let local_ := paKind pa = .hbm
    if local_ ∧ fgAllowed ∧ (fg ∨ hasAttr e.attr attrFG) then
      s.withInj (.ok (fun s =>
        let q := s.mkReq (.fine (if n ≤ 8 then 8 else 16)) e a s.tok []
        (((s.drainLine pa).useTlb s.curCore e).parkResult (r [])).inject s.curCore (.home q) (x.drainToks pa)))
    else
      let fwd := x.forward pa n
      if fwd.all Option.isSome then
        .ok (fun s => ((s.useTlb s.curCore e).sched Config.readCacheHit (.replyWrite s.curCore s.curCtx s.tok (.bytes []))).parkResult (r fwd))
      else
        -- a line with an own operation on its way is read at its home, after that operation (R199)
        match (if local_ ∧ (x.lineToks pa).isEmpty then s.cacheFind s.curCore (alignDown 64 pa) else none) with
        | some l =>
          .ok (fun s =>
            (((s.useTlb s.curCore e).cacheFill s.curCore l).sched Config.readCacheHit
              (.replyWrite s.curCore s.curCtx s.tok (.bytes l.data))).parkResult (r fwd))
        | none =>
          s.withInj (.ok (fun s =>
            let q := s.mkReq (if local_ then .load else .fine n) e a s.tok []
            ((s.useTlb s.curCore e).parkResult (r fwd)).inject s.curCore (.home q) (x.lineToks pa))))

/-- LD (R316). -/
def execLd (fg : Bool) (ty : BitVec 3) (dst : Reg) (a : Addr) (s : State) : Res :=
  .next (s.runOp [a.base] (some dst) (fun vs =>
    let va := effAddr (vs.getD 0 0) a.disp
    let n := memBytesOf ty
    if va % n ≠ 0 then eFault .align va 0
    else if va < Config.spadSize ∧ !isSteward s.curCore then
      (if s.touchesStacks s.curCore va n then eFault .bounds va 0
       else if s.badIn (spad s.curCore va) n then eFault .memErr va 0
       else .ok (fun s => (s.put dst (loadWord n (memSigned ty) (s.localNat va n))).advance))
    else if isGlobal va then s.globalLoad va n fg true (.load dst n (memSigned ty) va)
    else eFault .bounds va 0))

/-- VLD (R368): no fine-grain form, no shift. -/
def execVld (v : Fin 16) (a : Addr) (s : State) : Res :=
  .next (s.runOp [a.base] none (fun vs =>
    let va := effAddr (vs.getD 0 0) a.disp
    if va % 32 ≠ 0 then eFault .align va 0
    else if va < Config.spadSize ∧ !isSteward s.curCore then
      (if s.touchesStacks s.curCore va 32 then eFault .bounds va 0
       else if s.badIn (spad s.curCore va) 32 then eFault .memErr va 0
       else .ok (fun s => (s.modMe (fun x => x.writeV v (BitVec.ofNat 256 (s.localNat va 32)))).advance))
    else if isGlobal va then s.globalLoad va 32 false false (.vload v va)
    else eFault .bounds va 0))

/-! ### Stores -/

/-- A byte mask of `n` bytes at offset `off` of a line. -/
def lineMask (off n : Nat) : BitVec 64 := BitVec.ofNat 64 ((2 ^ n - 1) * 2 ^ off)
def putBytes (l : List Byte) (off : Nat) (bs : List Byte) : List Byte := l.take off ++ bs ++ l.drop (off + bs.length)

/-- Merge a store into the write-combining buffer (R174), or make an entry. -/
def State.wcStore (s : State) (e : TlbE) (va : Nat) (bs : List Byte) : Eff :=
  let pa := e.phys va
  let line := alignDown 64 pa
  let x := s.core s.curCore
  let touch (s : State) : State :=
    (((s.useTlb s.curCore e).cacheDrop s.curCore pa).pump s.curCore).sched Config.wcIdle (.wcIdleTimeout s.curCore line)
  match x.wcb.find? (fun w => w.pa == line && !w.closed) with
  | some w =>
    let w' := { w with
      mask := w.mask ||| lineMask (pa % 64) bs.length
      data := putBytes w.data (pa % 64) bs
      owners := if w.owners.contains s.curCtx then w.owners else w.owners ++ [s.curCtx]
      last := s.now
      after := w.after ++ s.me.barrier
      closed := w.mask ||| lineMask (pa % 64) bs.length == BitVec.allOnes 64 }
    .ok (fun s => (touch (s.modCore s.curCore (fun x => { x with wcb := x.wcb.map (fun v => if v.tok = w.tok then w' else v) }))).advance)
  | none =>
    if s.wcbUsed s.curCore < 8 then
      .ok (fun s =>
        let w : WC :=
          { pa := line, va := alignDown 64 va, space := s.spaceOf s.curCore, mask := lineMask (pa % 64) bs.length,
            data := putBytes (List.replicate 64 0) (pa % 64) bs, owners := [s.curCtx], tok := s.tok, last := s.now,
            closed := false, after := s.me.barrier ++ (x.wcb.filter (fun w => w.pa == line)).map (·.tok),
            res := hasAttr e.attr attrRES, size := e.size }
        (touch (s.newTok.modCore s.curCore (fun x => { x with wcb := x.wcb ++ [w] }))).advance)
    else .wait .wcb (fun s =>
        if x.wcb.length < 8 then s else s.closeWc s.curCore (fun w => some w.tok == (x.wcb.head?.map (·.tok))))

/-- The target of an aperture address, and the faults of R160. -/
def State.aperture (s : State) (a : Nat) (k : Nat → Nat → Eff) : Eff :=
  match apertureOf a with
  | none => eFault .bounds a 0
  | some (c, off) =>
    match s.teamOf s.curCore with
    | some (_, t) => if s.reaches t c then k c off else eFault .teamBounds a 0
    | none => k c off

/-- Send a remote store (R198, R203): a number, the unacknowledged mark and the packet, held for `rel` and an RLS before it. -/
def State.remote (s : State) (cls : PktClass) (c : Nat) (b : PktBody) (rel : List Nat) : State :=
  let p : Pkt := { cls := cls, src := s.curCore, dst := c, flits := 1, prio := s.pktPrio s.curCore, ctx := s.curCtx, tok := s.tok,
                   wait := 0, body := b }
  ((s.newTok.newOut s.curCore s.curCtx p.tok (.remote c)).inject s.curCore (.pkt p) (s.me.barrier ++ rel)).advance

/-- ST and VST at an address with bytes to store (R351, R379). -/
def State.storeAt (s : State) (va : Nat) (bs : List Byte) : Eff :=
  if va % bs.length ≠ 0 then eFault .align va 0
  else if va < Config.spadSize ∧ !isSteward s.curCore then
    (if s.touchesStacks s.curCore va bs.length then eFault .bounds va 0 else s.localStore va bs)
  else if isAperture va ∧ !isSteward s.curCore then
    s.aperture va (fun c off => s.withInj (.ok (fun s => s.remote .data c (.store off bs) [])))
  else if isGlobal va then s.withPage va attrW (fun e _ => s.wcStore e va bs)
  else eFault .bounds va 0

/-- ST (R351). -/
def execSt (ty : BitVec 3) (src : Reg) (a : Addr) (s : State) : Res :=
  .next (s.runOp [src, a.base] none (fun vs =>
    s.storeAt (effAddr (vs.getD 1 0) a.disp) (leBytes (memBytesOf ty) (vs.getD 0 0).toNat)))

/-- VST (R379). -/
def execVst (v : Fin 16) (a : Addr) (s : State) : Res :=
  .next (s.runOp [a.base] none (fun vs => s.storeAt (effAddr (vs.getD 0 0) a.disp) (leBytes 32 (s.me.readV v).toNat)))

/-! ### Blocks (R287, R290) -/

/-- The block BPACK builds, or the lowest bit of the offending control field. -/
def packBlock (all : Bool) (c e : Nat) : Except Nat Nat :=
  let fmt := fld c 7 0
  let s0 := fld c 15 8
  let s1 := fld c 23 16
  if fld c 63 24 ≠ 0 then .error 24
  else match blockIs4 fmt with
    | none => .error 0
    | some is4 =>
      if blockIsInt fmt ∧ s0 ≠ 127 then .error 8
      else if (fmt = 16 ∧ s1 ≠ 127) ∨ (!is4 ∧ s1 ≠ 0) then .error 16
      else
        let n := if is4 then 96 else 48
        let w := if is4 then 4 else 8
        let body := if is4 then e % 2 ^ 384 * 2 ^ 112 + s1 * 2 ^ 496 else e % 2 ^ 384 * 2 ^ 64
        .ok (fmt + s0 * 256 + body + ofBits (fun i => all || e / 2 ^ (w * i) % 2 ^ w != 0) n * 2 ^ 16)

/-- BPACK (R287). -/
def execBpack (all : Bool) (v : Fin 16) (ctl : Reg) (a : Addr) (s : State) : Res :=
  .next (s.runOp [a.base, ctl] none (fun vs =>
    let va := effAddr (vs.getD 0 0) a.disp
    match s.localSpan va 64 64 with
    | some f => eFault f va 0
    | none =>
      match packBlock all (vs.getD 1 0).toNat ((s.me.readV v).toNat + 2 ^ 256 * (s.me.readV (v + 1)).toNat) with
      | .error b => eFault .format va b
      | .ok blk => s.localStore va (leBytes 64 blk)))

/-- The conversion of one element of a block (R290, R55): integers to integer types clamp or wrap. -/
def unpackElem (t : Ty) (rm : Rm) (sat isInt : Bool) (x : Num) : Nat × Flags :=
  match fmtOf t with
  | some f => f.round rm sat x
  | none =>
    if isInt then (let v := mantAt 0 x; (unsgn t.width (if sat then clampTy t v else v), Flags.zero))
    else roundInt t rm sat x

def rmOf : Nat → Rm
  | 0 => .rne | 1 => .rtz | 2 => .rup | _ => .rdn

/-- The lanes BUNPK decodes, or none for F_FORMAT in an element. -/
def unpackBlock (t : Ty) (blk c : Nat) : Option (List (Nat × Flags)) :=
  let fmt := fld blk 6 0
  let is4 := (blockIs4 fmt).getD false
  let n := if is4 then 96 else 48
  (List.range (256 / t.width)).mapM (fun j =>
    let i := fld c 6 0 + j
    if n ≤ i then some (0, Flags.zero)
    else if is4 ∧ fmt ≠ 16 then some (if blockPres blk i then blockElem true blk i else 0, Flags.zero)
    else match elemValue .empty blk i with
      | .error _ => none
      | .ok none => some (0, Flags.zero)
      | .ok (some x) => some (unpackElem t (rmOf (fld c 9 8)) (bit c 10) (blockIsInt fmt) x))

/-- Lanes as a vector. -/
def laneWord (w : Nat) : List (Nat × Flags) → Nat
  | [] => 0
  | x :: xs => x.1 % 2 ^ w + 2 ^ w * laneWord w xs

/-- BUNPK (R290). (DEDUCED, log entry 38.) -/
def execBunpk (ty : Ty) (v : Fin 16) (ctl : Reg) (a : Addr) (s : State) : Res :=
  .next (s.runOp [a.base, ctl] none (fun vs =>
    let va := effAddr (vs.getD 0 0) a.disp
    match s.localSpan va 64 64 with
    | some f => eFault f va 0
    | none =>
      let c := (vs.getD 1 0).toNat
      let blk := s.localNat va 64
      if s.badIn (spad s.curCore va) 64 then eFault .memErr va 0
      else if fld c 7 7 ≠ 0 then eFault .format va 7
      else if fld c 63 11 ≠ 0 then eFault .format va 11
      else if (blockIs4 (fld blk 7 0)).isNone then eFault .format va 0
      else if 8 ≤ fld blk 6 0 ∧ fld blk 6 0 < 16 ∧ !ty.isInt then eFault .format va 0
      else match unpackBlock ty blk c with
        | none => eFault .format va 0
        | some ls => .ok (fun s =>
            (s.modMe (fun x => (x.writeV v (BitVec.ofNat 256 (laneWord ty.width ls))).raise (flagsAll (ls.map (·.2))))).advance)))

/-! ### Full/empty words (R165, R166, R308, R317, R352) -/

/-- The full/empty bit of a scratchpad word. -/
def State.isFull (s : State) (c off : Nat) : Bool := s.full.contains (spad c off)
def State.setFull (s : State) (c off : Nat) (b : Bool) : State :=
  { s with full := if b then insertNat (spad c off) s.full else removeNat (spad c off) s.full }

/-- A parked LDFE (`full`) or STFE on a word: when it began to wait, and its context. -/
def State.feWaiters (s : State) (c off : Nat) (full : Bool) : List (Nat × Nat) :=
  (List.range 16).filterMap (fun n => match (s.ctx c n).park with
    | some (.cond (.fe o f since) _) => if o = off ∧ f = full then some (since, n) else none
    | _ => none)
/-- An older waiter on the same word, for the same state, goes first (R166). -/
def State.feBehind (s : State) (off : Nat) (full : Bool) : Bool :=
  let mine := s.me.since.getD s.now
  (s.feWaiters s.curCore off full).any (fun w => w.1 < mine || (w.1 == mine && w.2 < s.curCtx))
  || (!full && (s.core s.curCore).rstWait.any (fun r => r.off == off && r.since < mine))
/-- Wait for a word's state, keeping the age of the first issue. -/
def State.feWait (s : State) (off : Nat) (full : Bool) : Eff :=
  let since := s.me.since.getD s.now
  .wait (.fe off full since) (fun s => s.modMe (fun x => { x with since := some since }))

/-- LDFE (R317). -/
def execLdfe (n64 : Bool) (dst : Reg) (a : Addr) (s : State) : Res :=
  let _ := n64
  .next (s.runOp [a.base] (some dst) (fun vs =>
    let va := effAddr (vs.getD 0 0) a.disp
    if isAperture va ∨ isGlobal va then eFault .bounds va 0
    else match s.localSpan va 8 8 with
      | some f => eFault f va 0
      | none =>
        if !s.isFull s.curCore va || s.feBehind va true then s.feWait va true
        else if s.badIn (spad s.curCore va) 8 then eFault .memErr va 0
        else .ok (fun s =>
          let v := BitVec.ofNat 64 (s.localNat va 8)
          (((s.setFull s.curCore va false).put dst v).acquire s.curCore (.fe s.curCore va)).advance)))

/-- STFE (R352): a release of local stores and of stores bound on this core; it drains nothing (R203). -/
def execStfe (n64 : Bool) (src : Reg) (a : Addr) (s : State) : Res :=
  let _ := n64
  .next (s.runOp [src, a.base] none (fun vs =>
    let va := effAddr (vs.getD 1 0) a.disp
    if isAperture va ∨ isGlobal va then eFault .bounds va 0
    else match s.localSpan va 8 8 with
      | some f => eFault f va 0
      | none =>
        if s.isFull s.curCore va || s.feBehind va false then s.feWait va false
        else .ok (fun s => ((s.store (spad s.curCore va) (leBytes 8 (vs.getD 0 0).toNat)).setFull s.curCore va true).advance)))

/-- FEINIT (R308). -/
def execFeinit (full : Bool) (words : BitVec 9) (a : Addr) (s : State) : Res :=
  .next (s.runOp [a.base] none (fun vs =>
    let va := effAddr (vs.getD 0 0) a.disp
    let n := words.toNat + 1
    match s.localSpan va (8 * n) 8 with
    | some f => eFault f va 0
    | none => .ok (fun s => { s with full := setFullRange s.full full n (spad s.curCore va) }.advance)))

/-! ### Remote stores (R346) -/

def rstBytes : RstKind → Nat
  | .fe | .dw => 8
  | .accF32 | .accI32 | .accDwF32 | .accDwI32 => 4
  | .accF16 | .accDwF16 => 2
def rstAcc : RstKind → AccTy
  | .accI32 | .accDwI32 => .i32
  | .accF16 | .accDwF16 => .f16
  | _ => .f32

/-- RST (R346): the .fe and .dw forms are releases and travel in the SYNC class. -/
def execRst (k : RstKind) (src dw : Reg) (a : Addr) (s : State) : Res :=
  .next (s.runOp ([src, a.base] ++ (if k.hasDw then [dw] else [])) none (fun vs =>
    let va := effAddr (vs.getD 1 0) a.disp
    let n := rstBytes k
    let v := vs.getD 0 0
    let q := (vs.getD 2 0).toNat
    if va % n ≠ 0 then eFault .align va 0
    else s.aperture va (fun c off =>
      s.withInj (.ok (fun s =>
        match k with
        | .accF32 | .accI32 | .accF16 => s.remote .data c (.acc (rstAcc k) off (leBytes n v.toNat) none) []
        | .fe =>
          let r := s.releaseBound s.curCore s.curCtx (.fe c off)
          r.1.remote .sync c (.fe off v) (r.2 ++ (r.1.core s.curCore).remoteToks s.curCtx)
        | .dw =>
          let r := s.releaseBound s.curCore s.curCtx (.dw c q)
          r.1.remote .sync c (.dw off v q) (r.2 ++ (r.1.core s.curCore).remoteToks s.curCtx)
        | .accDwF32 | .accDwI32 | .accDwF16 =>
          let r := s.releaseBound s.curCore s.curCtx (.dw c q)
          r.1.remote .sync c (.acc (rstAcc k) off (leBytes n v.toNat) (some q)) (r.2 ++ (r.1.core s.curCore).remoteToks s.curCtx))))))

/-! ### Atomics (R177 to R183, R312, R313, R341, R381, R382) -/

/-- The address checks of the atomics: alignment, then a global address. -/
def atomicCheck (va al : Nat) (k : Eff) : Eff :=
  if va % al ≠ 0 then eFault .align va 0 else if !isGlobal va then eFault .bounds va 0 else k

/-- HOLD, HREL and a port range of the other atomics raise F_PROTECT (R171). -/
def homeOnly (pa va : Nat) (peer : Bool) (k : Eff) : Eff :=
  match paKind pa with
  | .hbm => k
  | .peer _ _ => if peer then k else eFault .protect va 0
  | _ => eFault .protect va 0

/-- HOLD (R312), with its fine-grain form (R175). -/
def execHold (fg : Bool) (dst : Reg) (a : Addr) (s : State) : Res :=
  .next (s.runOp [a.base] (some dst) (fun vs =>
    let va := effAddr (vs.getD 0 0) a.disp
    atomicCheck va 8 (
      if s.me.held.any (fun h => h.va == va) ∨ 2 ≤ s.me.held.length then eRefuse
      else s.withPage va (attrR + attrW) (fun e pa =>
        homeOnly pa va false (s.withInj (.ok (fun s =>
          let q : HomeReq := let r := s.mkReq .hold e va s.tok []; { r with fg := fg || r.fg }
          ((((s.drainLine pa).useTlb s.curCore e).cacheDrop s.curCore pa).parkResult (.hold dst va pa)).inject s.curCore (.home q)
            (s.me.barrier ++ (s.core s.curCore).drainToks pa)))))))) 

/-- The request of HREL: the write and release of the held word; where its page has moved since the grant, the write at the new place.
(DESIGN CHOICE, log entry 75.) -/
def State.hrelReq (s : State) (e : TlbE) (va pa : Nat) (h : Held) (v : Word) : HomeReq :=
  let bs := leBytes 8 v.toNat
  if pa = h.pa then { s.mkReq .hrel e va s.tok bs with res := true }
  else { s.mkReq (.store (lineMask (pa % 64) 8)) e va s.tok (putBytes (List.replicate 64 0) (pa % 64) bs) with
    pa := alignDown 64 pa, va := alignDown 64 va }
def wordKey (pa : Nat) : Nat := pa / 8
/-- The holder number of a word that is released and not yet granted again. -/
def noHolder : Nat := 65535
/-- The contexts a fault of a request is logged at: every owner of a drained entry (R174). (DEDUCED, log entry 55.) -/
def State.ownersOf (s : State) (r : HomeReq) : List Nat :=
  (((s.core r.core).unacked.find? (fun o => o.tok == r.tok)).map (·.ctxs)).getD [r.ctx]
/-- A word is held, and the requester is not its holder. -/
def HoldQ.blocks (s : State) (r : HomeReq) (h : HoldQ) : Bool := h.core != r.core || !(s.ownersOf r).contains h.ctx
/-- The word whose queue a request for the word at `a` waits in: that word, if another holds it, or the word of its line in whose queue an
XSUM waits, which came first to every word of the line (R172); the holder's own accesses wait nowhere (R178). -/
def State.queueFor (s : State) (r : HomeReq) (a : Nat) : Option Nat :=
  match s.holds.find (wordKey a) with
  | some h => if h.blocks s r then some a else none
  | none =>
    ((List.range 8).map (fun k => alignDown 64 a + 8 * k)).find? (fun b => (s.holds.find (wordKey b)).elim false (fun h =>
      h.blocks s r && h.queue.any (fun q => match q.kind with
        | .xsum _ => true
        | _ => false)))
/-- Wait in a held word's queue. -/
def State.waitHeld (s : State) (a : Nat) (r : HomeReq) : State :=
  match s.holds.find (wordKey a) with
  | some h => { s with holds := s.holds.set (wordKey a) { h with queue := h.queue ++ [r] } }
  | none => s
/-- Byte mask of word `k` of a line. -/
def maskWord (mask k : Nat) : Nat := mask / 2 ^ (8 * k) % 256
/-- The home of a held word lets it go with its value unchanged, `d` cycles later. -/
def State.letGo (s : State) (pa d : Nat) : State :=
  match s.holds.find (wordKey pa) with
  | some h => ({ s with holds := s.holds.set (wordKey pa) { h with core := noHolder } }).sched d (.holdGrant pa)
  | none => s
/-- HREL (R313): a release held under R203; the context continues. -/
def execHrel (src : Reg) (a : Addr) (s : State) : Res :=
  .next (s.runOp [src, a.base] none (fun vs =>
    let va := effAddr (vs.getD 1 0) a.disp
    if va % 8 ≠ 0 then eFault .align va 0
    else match s.me.held.find? (fun h => h.va == va) with
      | none => eRefuse
      | some h => s.withPage va (attrR + attrW) (fun e pa => homeOnly pa va false (s.withInj (.ok (fun s =>
          let r := s.releaseBound s.curCore s.curCtx (.hw va)
          let rel := r.2 ++ (r.1.core s.curCore).remoteToks s.curCtx ++ s.me.barrier ++ (s.core s.curCore).wcToks pa
          let s := (((r.1.drainLine pa).useTlb s.curCore e).modMe (fun x => { x with held := x.held.filter (fun k => k.va != va) })).cacheDrop
            s.curCore pa
          let q := s.hrelReq e va pa h (vs.getD 0 0)
          let s := if pa = h.pa then s else s.letGo h.pa Config.homeWay
          ((s.newTok.newOut s.curCore s.curCtx q.tok (.atomic pa va)).inject s.curCore (.home q) rel).advance))))))

/-- RED and XSUM: a non-returning request to the home (R179, R182). -/
def State.reduce (s : State) (k : HomeKind) (va al : Nat) (bs : List Byte) : Eff :=
  atomicCheck va al (s.withPage va (attrR + attrW) (fun e pa =>
    homeOnly pa va true (s.withInj (.ok (fun s =>
      let q := s.mkReq k e va s.tok bs
      let rel := s.me.barrier ++ (s.core s.curCore).wcToks pa
      let s := ((s.drainLine pa).useTlb s.curCore e).cacheDrop s.curCore pa
      ((s.newTok.newOut s.curCore s.curCtx q.tok (.atomic pa va)).inject s.curCore (.home q) rel).advance)))))

def redBytes : RedOp → Nat
  | .addI32 | .minI32 | .minN32 | .maxI32 | .maxN32 | .faddF32 | .fminF32 | .fmaxF32 => 4
  | .addI64 | .minI64 | .minN64 | .maxI64 | .maxN64 | .and | .or | .xor => 8

/-- RED (R341). -/
def execRed (op : RedOp) (src : Reg) (a : Addr) (s : State) : Res :=
  .next (s.runOp [src, a.base] none (fun vs =>
    s.reduce (.red op) (effAddr (vs.getD 1 0) a.disp) (redBytes op) (leBytes (redBytes op) (vs.getD 0 0).toNat)))

/-- XSUM (R382). -/
def execXsum (ty : Ty) (src : Reg) (a : Addr) (s : State) : Res :=
  .next (s.runOp [src, a.base] none (fun vs =>
    s.reduce (.xsum ty) (effAddr (vs.getD 1 0) a.disp) 64 (leBytes (ty.width / 8) (vs.getD 0 0).toNat)))

/-- Fewer than eight pending registers (R73). -/
def State.withPend (s : State) (k : Eff) : Eff := if s.me.pend.length < 8 then k else .wait .pendRoom id

/-- XREAD (R381): the result goes to a pending register. -/
def execXread (dst : Reg) (a : Addr) (s : State) : Res :=
  .next (s.runOp [a.base] (some dst) (fun vs =>
    let va := effAddr (vs.getD 0 0) a.disp
    atomicCheck va 64 (s.withPage va attrR (fun e pa =>
      homeOnly pa va true (s.withPend (s.withInj (.ok (fun s =>
        let q := s.mkReq .xread e va s.tok []
        let rel := (s.core s.curCore).drainToks pa
        let s := (((s.drainLine pa).useTlb s.curCore e).modMe (fun x => x.addPend dst s.tok false)).newTok
        ((s.newOut s.curCore s.curCtx q.tok (.xread pa va)).inject s.curCore (.home q) rel).advance))))))))

/-! ### Datum words (R167 to R169, R303, R304) -/

def State.dwTarget (s : State) (c off : Nat) : Nat := memLe s.mem 4 (spad c off)
def State.dwCount (s : State) (c off : Nat) : Nat := memLe s.mem 4 (spad c off + 4)
def State.dwGen (s : State) (c off : Nat) : Nat := memLe s.mem 4 (spad c off + 8)
/-- DWWAIT's condition (R169). -/
def State.dwReached (s : State) (c off g : Nat) : Bool := 0 ≤ sgn 32 ((s.dwGen c off + 2 ^ 32 - g % 2 ^ 32) % 2 ^ 32)

/-- A fault-log entry: written while FLOGN is below 16, and counted, saturating (R242). A steward core has no log: the fault is
fatal for that core (R383). -/
def State.logFault (s : State) (c n : Nat) (e : LogEnt) : State :=
  if isSteward c then s.haltTeam c n e.code 0 e.addr 0
  else
    let x := s.ctx c n
    let s := if x.flogn < 16 then
        (match s.walk (s.spaceOf c) (s.logBase c n + 16 * x.flogn) with
         | some p => { s with mem := memPut s.mem (p.phys (s.logBase c n + 16 * x.flogn)) (logBytes e) }
         | none => s)
      else s
    s.modCtx c n (fun x => { x with flogn := if x.flogn < 255 then x.flogn + 1 else 255 })

/-- A credit (R168): none if it is applied, else the error. A phase ended with a count left is a hazard under DBGHZ (R228). -/
def State.creditError (s : State) (c q : Nat) : Option FCode :=
  if q % 16 ≠ 0 then some .align
  else if Config.spadSize < q + 16 ∨ s.touchesStacks c q 16 then some .bounds else none
def State.credit (s : State) (c q b : Nat) : State :=
  let tgt := s.dwTarget c q
  let cnt := s.dwCount c q + b
  let ends := tgt ≤ cnt
  let left := if ends then cnt - tgt else cnt
  let gen := if ends then (s.dwGen c q + 1) % 2 ^ 32 else s.dwGen c q
  let s := { s with mem := memPut s.mem (spad c q + 4) (leBytes 4 left ++ leBytes 4 gen) }
  if s.dbghz ∧ ends ∧ left % 2 ^ 32 ≠ 0 then s.logFault c 0 ⟨.hazard, 8, BitVec.ofNat 64 q, 0⟩ else s

/-- DWINIT (R303). -/
def execDwinit (src : Reg) (a : Addr) (s : State) : Res :=
  .next (s.runOp [src, a.base] none (fun vs =>
    let va := effAddr (vs.getD 1 0) a.disp
    match s.localSpan va 16 16 with
    | some f => eFault f va 0
    | none =>
      if s.dbghz ∧ s.dwCount s.curCore va ≠ 0 then eFault .hazard va 5
      else .ok (fun s => (s.store (spad s.curCore va) (leBytes 8 (vs.getD 0 0).toNat)).advance)))

/-- DWWAIT (R304). -/
def execDwwait (src : Reg) (a : Addr) (s : State) : Res :=
  .next (s.runOp [src, a.base] none (fun vs =>
    let va := effAddr (vs.getD 1 0) a.disp
    let g := (vs.getD 0 0).toNat % 2 ^ 32
    match s.localSpan va 16 16 with
    | some f => eFault f va 0
    | none =>
      if s.dwReached s.curCore va g then .ok (fun s => (s.acquire s.curCore (.dw s.curCore va)).advance)
      else .wait (.dw va g) id))

end Sys2Proof.Machine
end

