-- ==== Sys2Proof/Machine/Sync.lean ====
section
/-! DEFINITION. Meanings of the SYNC group but for CHWAIT and CHREAD, of CSTAGE, and the objects they name (R201 to R209, R281,
R286, R298, R309, R344, R350, R357, R358). -/

namespace Sys2Proof.Machine

/-- Ident (R279): the object, or the fault its address raises. -/
def State.ident (s : State) (o : ObjRef) (v : Nat) : Except FCode Obj :=
  let place : Option (Nat × Nat) := if v < Config.spadSize then some (s.curCore, v) else apertureOf v
  match o with
  | .hw _ => if v % 8 ≠ 0 then .error .align else if isGlobal v then .ok (.hw v) else .error .bounds
  | .fe _ =>
    if v % 8 ≠ 0 then .error .align else match place with
      | some (c, off) => .ok (.fe c off)
      | none => .error .bounds
  | .dw _ =>
    if v % 16 ≠ 0 then .error .align else match place with
      | some (c, off) => .ok (.dw c off)
      | none => .error .bounds
  | .ch sel => .ok (.ch sel.toNat)
def ObjRef.regs : ObjRef → List Reg
  | .hw r | .fe r | .dw r => [r]
  | .ch _ => []

/-- F_ASYNC in place of a FENCE, RLS or EXIT while the fault log is not empty (R243). -/
def State.asyncFirst (s : State) (k : Eff) : Eff :=
  if s.me.flogn ≠ 0 then eFault .async (s.logBase s.curCore s.curCtx) s.me.flogn else k

/-- Whether a remote store's target lies in a scope of FENCE.X (R207). -/
def inScope (c dst : Nat) : Scope → Bool
  | .core => c == dst
  | .die => coreDie c == coreDie dst
  | .dev | .sys => true

/-- FENCE (R207, R309): R and X leave a marker in the injection queue, which waits for what the fence names. (DEDUCED, log entry 25.) -/
def execFence (k : FenceKind) (sc : Scope) (s : State) : Res :=
  let mark (toks : State → List Nat) (close : Bool) : Eff :=
    s.withInj (.ok (fun s =>
      let ts := toks s
      let m : InjBody := .marker s.curCtx s.tok
      let s := if close then s.closeWc s.curCore (fun _ => true) else s
      (s.parkResult .none).inject s.curCore m ts))
  .next (s.runOp [] none (fun _ => s.asyncFirst (
    match k, sc with
    | .r, .core | .a, .core => .ok State.advance
    | .r, _ => mark (fun s =>
        let x := s.core s.curCore
        x.wcb.map (·.tok) ++ (x.unacked.filterMap (fun u => match u.kind with
          | .wc _ _ => some u.tok
          | _ => none)) ++ x.atomicToks s.curCtx) true
    | .a, _ => .ok (fun s => (s.cacheDropAll s.curCore).advance)
    | .x, sc => mark (fun s => (s.core s.curCore).unacked.filterMap (fun u => match u.kind with
        | .remote d => if u.ctxs.contains s.curCtx && inScope s.curCore d sc then some u.tok else none
        | _ => none)) false)))

/-- SPFENCE (R208, R350). A K-block fetch is one event here, so none is in progress between events. -/
def execSpfence (s : State) : Res :=
  .next (s.runOp [] none (fun _ => .ok (fun s =>
    (s.sched 1 (.replyWrite s.curCore s.curCtx s.tok .done)).parkResult .generation)))

/-- ACQ (R281). -/
def execAcq (o : ObjRef) (s : State) : Res :=
  .next (s.runOp (ObjRef.regs o) none (fun vs =>
    let v := (vs.getD 0 0).toNat
    match s.ident o v with
    | .error f => eFault f v 0
    | .ok i => .ok (fun s => (s.acquire s.curCore i).advance)))

/-- RLS (R206, R344): later writes of the context wait for what it drains. -/
def execRls (o : ObjRef) (s : State) : Res :=
  .next (s.runOp (ObjRef.regs o) none (fun vs => s.asyncFirst (
    let v := (vs.getD 0 0).toNat
    match s.ident o v with
    | .error f => eFault f v 0
    | .ok i => .ok (fun s =>
        let r := s.releaseBound s.curCore s.curCtx i
        (r.1.modMe (fun x => { x with barrier := x.barrier.filter (s.core s.curCore).tokOut ++ r.2 })).advance))))

/-- BIND (R286): it governs 8 cycles later. -/
def execBind (slot : BitVec 4) (base : Reg) (lines : BitVec 20) (o : ObjRef) (s : State) : Res :=
  .next (s.runOp (base :: ObjRef.regs o) none (fun vs =>
    let b := (vs.getD 0 0).toNat
    let v := (vs.getD 1 0).toNat
    if lines.toNat = 0 then eRefuse
    else if b % 64 ≠ 0 then eFault .align b 0
    else if b < Config.globalBase ∨ Config.vaTop < b + 64 * lines.toNat then eFault .bounds b 0
    else match s.ident o v with
      | .error f => eFault f v 0
      | .ok i => .ok (fun s =>
          (s.modCore s.curCore (fun x => { x with slots := timedPut s.now 8 slot.toNat (some ⟨b, lines.toNat, i⟩) x.slots })).advance)))

/-- UNBIND (R358). -/
def execUnbind (slot : BitVec 4) (s : State) : Res :=
  .next (s.runOp [] none (fun _ => .ok (fun s =>
    (s.modCore s.curCore (fun x => { x with slots := timedPut s.now 8 slot.toNat none x.slots })).advance)))

/-- TRIG (R209, R357): the notice is sent when the release of R203 has ended; a second TRIG does nothing. -/
def execTrig (s : State) : Res :=
  .next (s.runOp [] none (fun _ => .ok (fun s =>
    if s.me.trig then s.advance
    else
      let r := s.releaseAll s.curCore s.curCtx
      let s := r.1.modMe (fun x => { x with trig := true })
      (match s.teamOf s.curCore with
       | some (t, _) => s.modTeam t (fun u => { u with trigs := u.trigs ++ [(s.curCore, s.curCtx, r.2.1, r.2.2)] })
       | none => s).advance)))

/-- CSTAGE (R197, R298): applied when the release has ended. -/
def execCstage (st : BitVec 16) (s : State) : Res :=
  .next (s.runOp [] none (fun _ => .ok (fun s =>
    let r := s.releaseAll s.curCore s.curCtx
    (match r.1.teamOf s.curCore with
     | some (t, _) => r.1.modTeam t (fun u => { u with stages := u.stages ++ [(s.curCore, s.curCtx, st.toNat, r.2.1, r.2.2)] })
     | none => r.1).advance)))

end Sys2Proof.Machine
end

