-- ==== Sys2Proof/Machine/Control.lean ====
section
/-! DEFINITION. Meanings of control flow, contexts and system calls (R74, R226, R227, R240, R288, R289, R291, R299 to R301, R306, R307,
R314, R315, R319, R343, R356). -/

namespace Sys2Proof.Machine

/-- BR (R288). -/
def execBr (off : Off) (s : State) : Res := .next (s.runOp [] none (fun _ => .ok (fun s => s.jump (s.me.pc + offBytes off))))

/-- JMP (R315). -/
def execJmp (a : Addr) (s : State) : Res :=
  .next (s.runOp [a.base] none (fun vs => .ok (fun s => s.jump (BitVec.ofNat 64 (effAddr (vs.getD 0 0) a.disp)))))

/-- CALL (R291): a fresh window holds the return address in its w8. -/
def execCall (off : Off) (s : State) : Res :=
  .next (s.runOp [] none (fun _ =>
    let x := s.me
    if s.maxDepth s.curCore < x.depth + 1 then eFault .window 0 (x.depth + 1)
    else match x.room with
      | .free | .reuse => .ok (fun s =>
          (s.modMe (fun x => (x.openWindow .call).writeW 8 (x.pc + BitVec.ofNat 64 s.curLen))).jump (s.me.pc + offBytes off))
      | .spill | .blocked => .wait .spill id))

/-- RET (R343): the caller's window must be resident. -/
def execRet (s : State) : Res :=
  .next (s.runOp [.w 8] none (fun vs =>
    let x := s.me
    if x.depth = 1 ∨ x.openers.head? = some .trap then eRefuse
    else if !x.resident (x.depth - 1) then .wait (.refill (x.depth - 1)) id
    else .ok (fun s => (s.jump (vs.getD 0 0)).modMe Ctx.closeWindow)))

/-- ERET (R240, R306). -/
def execEret (s : State) : Res :=
  .next (s.runOp [.w 1, .w 11] none (fun _ =>
    let x := s.me
    if x.trapDepth = 0 then eRefuse
    else if !x.resident (x.depth - 1) then .wait (.refill (x.depth - 1)) id
    else .ok (fun s => s.modMe (fun x => { x.leaveTrap with prodRec := none, since := none, image := none, xlat := none }))))

/-- BRK (R289). -/
def execBrk (imm : BitVec 16) (s : State) : Res :=
  .next (s.runOp [] none (fun _ => eFault .brk 0 imm.toNat))

/-! ### The iteration fetcher (R226, R227) -/

/-- Iterations left in a chunk. -/
def chunkLeft : Option (Nat × Nat) → Nat
  | some c => c.2 - c.1
  | none => 0
/-- Send a claim when the current chunk has fewer than 16 iterations left and none is outstanding or ahead. -/
def State.fetchAhead (s : State) (c : Nat) : State :=
  let f := (s.core c).fetch
  if (s.core c).team.isSome ∧ !f.out ∧ !f.exhausted ∧ f.ahead = none ∧ chunkLeft f.cur < 16 then
    (s.modCore c (fun x => { x with fetch := { f with out := true } })).sched Config.homeWay (.iterationClaim c)
  else s
/-- The fetcher with its current chunk not empty, if either holds an iteration. -/
def Fetcher.front (f : Fetcher) : Fetcher := if chunkLeft f.cur = 0 then { f with cur := f.ahead, ahead := none } else f
/-- Unpack a flat index (R227). -/
def unpackIndex : List Nat → Nat → Nat → List (Nat × Word)
  | [], _, _ => []
  | e :: es, k, q => (k, BitVec.ofNat 64 (q % e)) :: unpackIndex es (k + 1) (q / e)

/-- An ITER of the core has waited for longer: iterations are dealt in issue order (R226). -/
def State.iterBehind (s : State) : Bool :=
  (List.range 16).any (fun n => match (s.ctx s.curCore n).park with
    | some (.cond .iter _) => (s.ctx s.curCore n).live && n != s.curCtx && (s.ctx s.curCore n).since.getD s.now < s.me.since.getD s.now
    | _ => false)
/-- Wait for a claim, keeping the cycle of the first issue. -/
def State.iterWait (s : State) : Eff :=
  .wait .iter (fun t => (t.modMe (fun x => { x with since := some (s.me.since.getD s.now) })).fetchAhead t.curCore)

/-- ITER (R314). -/
def execIter (off : BitVec 32) (s : State) : Res :=
  .next (s.runOp [] none (fun _ =>
    let f := (s.core s.curCore).fetch.front
    if !f.exhausted && s.iterBehind then s.iterWait else
    match f.cur with
    | some (lo, hi) =>
      if lo < hi then
        .ok (fun s =>
          let s := s.modCore s.curCore (fun x => { x with fetch := { f with cur := some (lo + 1, hi) } })
          let ext := match s.teamOf s.curCore with
            | some (_, t) => t.lr.ext
            | none => []
          ((s.modMe (fun x => { x.shift (BitVec.ofNat 64 lo) with
              i := (unpackIndex ext 0 lo).foldl (fun t e => t.set e.1 e.2) x.i })).fetchAhead s.curCore).advance)
      else if f.exhausted then .ok (fun s => s.jump (s.me.pc + offBytes (.long off))) else s.iterWait
    | none =>
      if f.exhausted then .ok (fun s => s.jump (s.me.pc + offBytes (.long off))) else s.iterWait))

/-- Claim() at the home of the team's die: the chunk, or Exhausted. -/
def Team.claim (t : Team) : Option (Nat × Nat) :=
  let total := t.lr.ext.foldl (· * ·) 1
  let r := total - t.next
  if r = 0 then none
  else
    let d := t.lr.ff * t.cores.length
    let c := Nat.min r (Nat.max t.lr.cmin ((r + d - 1) / d))
    some (t.next, t.next + c)

/-- ITERATION_CLAIM: the claim is made at the home, indivisibly. -/
def execIterationClaim (core : Nat) (s : State) : Res :=
  .next (match s.teamOf core with
    | some (t, u) =>
      let c := u.claim
      (s.modTeam t (fun u => { u with next := c.elim u.next (·.2) })).sched Config.homeWay (.claimReply core c)
    | none => s)

/-- CLAIM_REPLY: the chunk is the fetcher's current one, or the one claimed ahead. -/
def execClaimReply (core : Nat) (chunk : Option (Nat × Nat)) (s : State) : Res :=
  .next (if (s.core core).fetch.out then
      (s.modCore core (fun x =>
        let f := { x.fetch with out := false }
        { x with fetch := match chunk with
          | none => { f with exhausted := true }
          | some c => if chunkLeft f.cur = 0 then { f with cur := some c } else { f with ahead := some c } })).fetchAhead core
    else s)

/-! ### Weights (R64, R156) -/

/-- The weight the demands and the free mark give a context. -/
def weightOf (free : Bool) (demands : Table Nat) : Nat :=
  if free || demands.cells.isEmpty then 16 else (demands.cells.map (·.2)).foldl Nat.max 1
/-- Write the weight that governs from a rotation start. -/
def Ctx.writeWeight (x : Ctx) (at_ w : Nat) : Ctx := { x with nextWeights := x.nextWeights.filter (fun e => e.1 != at_) ++ [(at_, w)] }
/-- The weights written for rotations that have begun are in force (R64). -/
def Ctx.takeWeight (x : Ctx) (now : Nat) : Ctx :=
  { x with
    weight := (((x.nextWeights.filter (fun e => e.1 ≤ now)).getLast?).map (·.2)).getD x.weight
    nextWeights := x.nextWeights.filter (fun e => now < e.1) }
/-- Recompute a context's weight; it takes effect from the first rotation that begins after this cycle. -/
def State.reweigh (s : State) (c n : Nat) : State :=
  let w := weightOf ((s.core c).free.contains n) (s.ctx c n).demands
  (s.modCtx c n (fun x => x.writeWeight ((s.now / 16 + 1) * 16) w)).sched ((s.now / 16 + 1) * 16 - s.now) (.weightTakesEffect c n)

/-! ### Contexts -/

/-- A context as it starts (R69, R301, R222): at an address, not before a cycle. -/
def Ctx.start (pc : Word) (at_ : Nat) : Ctx := { Ctx.idle with st := .running, pc := pc, readyAt := at_ }
/-- The first slot of context `n` at or after a cycle (R11). (DEDUCED, log entry 61.) -/
def ownSlot (n t : Nat) : Nat := t + (n + 16 - t % 16) % 16

/-- A context has operations of an earlier start unacknowledged (R244). -/
def Core.ctxOut (x : Core) (n : Nat) : Bool :=
  x.wcb.any (fun w => w.owners.contains n) || x.unacked.any (fun u => u.ctxs.contains n && (match u.kind with
    | .xread .. => false
    | _ => true))

/-- CTXSTART (R301, R244, R209): a context started after its starter's TRIG counts as triggered. Demands made on it before hold: it
starts at weight 16 and takes them from the next rotation (R64, R154). (DEDUCED, log entry 72.) -/
def execCtxstart (n : BitVec 4) (off : BitVec 32) (s : State) : Res :=
  .next (s.runOp [] none (fun _ =>
    let k := n.toNat
    if s.curCtx ≠ 0 ∨ k = 0 ∨ (s.ctx s.curCore k).st ≠ .idle then eRefuse
    else if (s.core s.curCore).ctxOut k then .wait (.ctxAcked k) id
    else .ok (fun s =>
      let old := s.ctx s.curCore k
      let s := s.setCtx s.curCore k { Ctx.start (s.me.pc + offBytes (.long off)) (ownSlot k (s.now + 8)) with
          demands := old.demands, trig := s.me.trig || old.trig, noticed := s.me.trig || old.noticed, lastCopy := old.lastCopy, src := s.me.pc }
      (if old.demands.cells.isEmpty then s else s.reweigh s.curCore k).advance)))

/-- CTXREAP (R300). -/
def execCtxreap (n : BitVec 4) (s : State) : Res :=
  .next (s.runOp [] none (fun _ =>
    let k := n.toNat
    if s.curCtx ≠ 0 ∨ k = 0 then eRefuse
    else if (s.ctx s.curCore k).st = .running then .wait (.ctxEnds k) id
    else .ok (fun s => (s.modCtx s.curCore k (fun x => { x with st := .idle })).advance)))

/-- The CTXID word (R299). (DESIGN CHOICE, log entry 19.) -/
def ctxidWord (c n : Nat) : Nat :=
  if isSteward c then (Config.stewardPlace (c - Config.cores)).toNat * 16 + n
  else coreDie c * 2 ^ 14 + coreY c * 2 ^ 9 + coreX c * 2 ^ 4 + n
def execCtxid (dst : Reg) (s : State) : Res :=
  .next (s.runPut [] dst (fun _ => BitVec.ofNat 64 (ctxidWord s.curCore s.curCtx)))

/-- The LEVID word of a level (R219). -/
def Team.levWord (t : Team) (c n level : Nat) : Nat :=
  let l := t.lr.lev.getD level (0, 0)
  let groups := if l.2 < 3 then 1 else if l.2 = 3 then t.cores.length else 16 * t.cores.length
  let index := if l.2 < 3 then 0 else if l.2 = 3 then t.index c else 16 * t.index c + n
  l.1 * 2 ^ 32 + groups % 2 ^ 16 * 2 ^ 16 + index % 2 ^ 16
/-- LEVID (R319): a level beyond nlev is refused. -/
def execLevid (dst : Reg) (level : BitVec 3) (s : State) : Res :=
  .next (s.runOp [] (some dst) (fun _ =>
    match s.teamOf s.curCore with
    | some (_, t) =>
      if t.lr.lev.length ≤ level.toNat then eRefuse
      else .ok (fun s => (s.put dst (BitVec.ofNat 64 (t.levWord s.curCore s.curCtx level.toNat))).advance)
    | none => eRefuse))

/-- EXIT (R307): a fault a pending register holds is taken first (R381); the windows are discarded. (DESIGN CHOICE, log entry 66.) -/
def execExit (s : State) : Res :=
  .next (s.runOp [] none (fun _ => s.asyncFirst (
    if s.me.held ≠ [] then eRefuse
    else match s.me.pend.findSome? (fun p => p.bad.map (fun b => (p.tok, b))) with
      | some (tok, code, a) =>
        .deliver (fun s => s.modMe (fun x => { x with pend := x.pend.filter (fun e => e.tok != tok) })) code a 0
      | none =>
        if s.me.pend ≠ [] then .wait .noPend id
        else .ok (fun s =>
          (s.closeWc s.curCore (fun _ => true)).modMe (fun x => { x with
            st := .exited, wins := .empty, base := .empty, recv := .empty, openers := [], trapDepth := 0 })))))

/-- TRAP (R356): the request releases every earlier write, and the context parks until the steward answers. -/
def execTrap (dst : Reg) (svc : BitVec 8) (src : Reg) (s : State) : Res :=
  .next (s.runOp [src] (some dst) (fun vs =>
    if isSteward s.curCore then eRefuse
    else .ok (fun s =>
      let r := s.releaseAll s.curCore s.curCtx
      let s := r.1
      let q : SvcReq := match s.teamOf s.curCore with
        | some (_, t) => ⟨s.tok, s.curCore, s.curCtx, svc.toNat, t.node, t.slot, vs.getD 0 0⟩
        | none => ⟨s.tok, s.curCore, s.curCtx, svc.toNat, 0, 0, vs.getD 0 0⟩
      { s.parkResult (.answer dst) with svcHeld := s.svcHeld ++ [(q, r.2.1, r.2.2)] })))

end Sys2Proof.Machine
end

