-- ==== Sys2Proof/Machine/Queue.lean ====
section
/-! DEFINITION. Meanings of the QUEUE group and of the queue and levelling events (R148 to R158, R331, R332, R338 to R340). -/

namespace Sys2Proof.Machine

/-! ### Weights (R64, R156) -/

/-- The key of a controller's demand: its core, its number, and whether it is made on its producer. -/
def levKey (core ctl : Nat) (prod : Bool) : Nat := 2 * (8 * core + ctl) + prod.toNat
/-- WEIGHT_TAKES_EFFECT (R64). -/
def execWeightTakesEffect (core ctx : Nat) (s : State) : Res :=
  .next (s.modCtx core ctx (fun x => x.takeWeight s.now))

/-- Set or withdraw a demand on a context. -/
def State.demand (s : State) (c n key : Nat) (v : Option Nat) : State :=
  (s.modCtx c n (fun x => { x with demands := match v with
    | some w => x.demands.set key w
    | none => x.demands.erase key })).reweigh c n

def Core.levOf (x : Core) (k : Nat) : Option Lev := x.lev.find k
def State.setLev (s : State) (c k : Nat) (l : Lev) : State := s.modCore c (fun x => { x with lev := x.lev.set k l })

/-- Make, or withdraw, both demands of a controller: the consumer is a context of this core; the producer is a context here, a
context of the neighbour (43 cycles away), or a loader (R156, R157). -/
def State.makeDemands (s : State) (c k : Nat) (l : Lev) (on : Bool) : State :=
  let s := s.demand c l.cons (levKey c k false) (if on then some l.wc else none)
  let v := if on then some l.wp else none
  if l.fifo then
    let upd (x : EEnd) : EEnd := { x with demands := match v with
      | some w => x.demands.set (levKey c k true) w
      | none => x.demands.erase (levKey c k true) }
    s.modEng (linkId c l.dir) (fun e => if isNear l.dir then { e with near := upd e.near } else { e with far := upd e.far })
  else if l.prodFar then
    s.sched Config.demandCycles (.levellingDemandArrive ⟨neighbour c l.dir, l.prodCtx, c, k, v⟩)
  else s.demand c l.prodCtx (levKey c k true) v

/-- A neighbour's demand arrives at a core (R156). -/
def State.demandArrives (s : State) (m : LevMsg) : State := s.demand m.core m.ctx (levKey m.srcCore m.ctl true) m.val
/-- LEVELLING_DEMAND_ARRIVE (R156). -/
def execLevellingDemandArrive (m : LevMsg) (s : State) : Res := .next (s.demandArrives m)

/-- Products per K-step of an operand format, K indices per K-block, and its legality (R105). -/
def fmtDepth (ofmt : Nat) : Nat := if ofmt = 0x81 then 4 else if ofmt = 8 ∨ ofmt = 9 then 1 else 2
def fmtBlock (ofmt : Nat) : Nat := if ofmt = 0x80 then 48 else if ofmt = 0x81 then 96 else fmtDepth ofmt

/-- Entries of an operand FIFO, of one K-step each, 0 to 64: a K-block's columns count until the K-step that uses them (R115, R155). -/
def Engine.entries (e : Engine) (x : EEnd) : Nat :=
  let d := fmtDepth (fld x.desc 7 0)
  Nat.min 64 ((x.fifo.length + (e.passed.filter (·.2.2)).length + d - 1) / d)
/-- Entries of a controller's source as it stands at the start of the cycle (R155). -/
def State.levEntries (s : State) (c : Nat) (l : Lev) : Nat :=
  if l.fifo then
    let e := s.eng (linkId c l.dir)
    let x := if isNear l.dir then e.near else e.far
    e.entries x
  else
    ((s.core c).inq l.dir).length + (s.agenda.filter (fun e => e.1 ≤ s.now && e.2 == .queueEntryArrive c l.dir)).length

def clampInt (lo hi x : Int) : Int := if x < lo then lo else if hi < x then hi else x

/-- Sample(c) of R155. -/
def levSample (l : Lev) (raw : Nat) : Lev :=
  let cap := if l.fifo then 64 else 16
  let occ := if l.fifo then raw / 4 else raw
  let ez := if raw = 0 then Nat.min (l.ez + 1) 2 else 0
  let fz := if raw = cap then Nat.min (l.fz + 1) 2 else 0
  let e : Int := (occ : Int) - l.setp
  let i : Int := if ez = 2 ∨ fz = 2 then 0 else clampInt (-64) 63 (l.integ + e)
  let u : Int := 4 * e / (2 ^ l.gp : Nat) + i / (2 ^ l.gi : Nat)
  let wc := (clampInt 1 16 ((l.wc0 : Int) + u)).toNat
  let wp := (clampInt 1 16 ((l.wp0 : Int) - u)).toNat
  { l with
    integ := i, ez := ez, fz := fz, occ := occ
    wp := if ez = 2 then 16 else wp
    wc := if fz = 2 then 16 else wc
    n := (l.n + 1) % 2 ^ 21 }

/-- LEVELLING_SAMPLE: an event left by earlier parameters samples nothing. -/
def execLevellingSample (core ctl : Nat) (s : State) : Res :=
  .next (match (s.core core).levOf ctl with
    | some l =>
      if l.en ∧ l.nextAt = s.now then
        let l := { levSample l (s.levEntries core l) with nextAt := s.now + l.period }
        ((s.setLev core ctl l).makeDemands core ctl l true).sched l.period (.levellingSample core ctl)
      else s
    | none => s)

/-- A loader's weight: the greatest of the automatic demand and the demands of the controllers declared on its FIFO (R157). -/
def EEnd.weight (x : EEnd) : Nat := x.demands.cells.foldl (fun a d => Nat.max a d.2) x.autoWeight
/-- ENGINE_LEVEL_SAMPLE: the automatic controller of R157, every 64 cycles from the cycle of R12 on while a rendezvous runs; while it is
faulted or suspended it demands nothing new. -/
def execEngineLevelSample (link : Nat) (s : State) : Res :=
  let e := s.eng link
  .next (if !e.formed then s
  else if (s.now - e.t0) % 64 ≠ 0 ∨ !(e.st == .ready || e.st == .running || e.st == .draining) then
    s.schedSoon (64 - (s.now - e.t0) % 64) (.engineLevelSample link)
  else
    let a := e.entries e.near
    let b := e.entries e.far
    let gap : Int := if a ≤ b then b - a else a - b
    let w := (clampInt 1 16 (16 - gap / 4)).toNat
    let f (x : EEnd) (fuller : Bool) : EEnd := { x with autoWeight := if fuller then w else 16 }
    (s.setEng link { e with near := f e.near (b < a), far := f e.far (a < b) }).schedSoon 64 (.engineLevelSample link))

/-! ### The instructions -/

/-- QBIND (R338). -/
def execQbind (op : QBindOp) (s : State) : Res :=
  .next (s.runOp [] none (fun _ =>
    let c := s.curCore
    let x := s.core c
    let sources (d : Dir) : List Lev := (x.lev.cells.filter (fun l => l.2.en && !l.2.fifo && l.2.dir == d)).map (·.2)
    if s.curCtx ≠ 0 then eRefuse
    else match op with
      | .bind d n =>
        if s.linkHarvested c d ∨ s.linkOutside c d then eFault .teamBounds 0 0
        else if (sources d).any (fun l => l.cons != n.toNat) then eFault .coupling 0 (dirNum d)
        else .ok (fun s => (s.modCore c (fun x => { x with qbind := timedPut s.now 8 (dirNum d) (some n.toNat) x.qbind })).advance)
      | .unbind d =>
        if !(sources d).isEmpty then eFault .coupling 0 (dirNum d)
        else .ok (fun s => (s.modCore c (fun x => { x with qbind := timedPut s.now 8 (dirNum d) none x.qbind })).advance)
      | .free n =>
        .ok (fun s => ((s.modCore c (fun x => { x with free := insertNat n.toNat x.free })).reweigh c n.toNat).advance)
      | .nofree n =>
        if x.essential.contains n.toNat then eFault .coupling 0 n.toNat
        else .ok (fun s => ((s.modCore c (fun x => { x with free := removeNat n.toNat x.free })).reweigh c n.toNat).advance)))

/-- QCTL (R339): it shifts no register. -/
def execQctl (d : Dir) (src : Reg) (s : State) : Res :=
  .next (s.runOp [src] (some (.q d)) (fun vs => .ok (fun s => (s.pushQ s.curCore d ⟨vs.getD 0 0, true⟩).advance)))

/-- QHND (R340). -/
def execQhnd (d : Dir) (src : Reg) (s : State) : Res :=
  .next (s.runOp [src] none (fun vs =>
    match (s.core s.curCore).owner s.now d with
    | none => eFault .queue 0 1
    | some n =>
      if n ≠ s.curCtx then eRefuse
      else
        let h := vs.getD 0 0
        if h.toNat % 4 ≠ 0 then eFault .align h.toNat 0
        else .ok (fun s => (s.modCore s.curCore (fun x => { x with handlers := x.handlers.set (dirNum d) h })).advance)))

/-- The parameters of an enabling LVSET (R154), and the controller as it starts with them: its demands are those of u = 0. -/
def levEnable (l : Lev) (p : LvParams) (nextAt : Nat) : Lev :=
  { l with
    en := true, setp := p.setp.toNat, gp := p.gp.toNat, gi := p.gi.toNat, wp0 := p.wp.toNat + 1, wc0 := p.wc.toNat + 1
    period := 16 * (p.pq.toNat + 1), integ := 0, ez := 0, fz := 0, n := 0
    wc := p.wc.toNat + 1, wp := p.wp.toNat + 1, nextAt := nextAt }
/-- The first rotation start at or after a cycle. -/
def rotationFrom (t : Nat) : Nat := (t + 15) / 16 * 16

/-- LVSET (R332). -/
def execLvset (ctl : BitVec 3) (ps : Option LvParams) (s : State) : Res :=
  .next (s.runOp [] none (fun _ =>
    let c := s.curCore
    let k := ctl.toNat
    if ps.elim false (fun p => 16 < p.setp.toNat) then eRefuse
    else match (s.core c).levOf k with
      | none => eFault .coupling 0 k
      | some l =>
        match ps with
        | some p =>
          if 16 * (p.pq.toNat + 1) < 64 ∧ (p.gp = 0 ∨ p.gi = 0) then eFault .coupling 0 k
          else .ok (fun s =>
            let l := levEnable l p (rotationFrom (s.now + 16 * (p.pq.toNat + 1)))
            ((((s.setLev c k l).makeDemands c k l true).sched (l.nextAt - s.now) (.levellingSample c k))).advance)
        | none =>
          .ok (fun s =>
            let l := { l with en := false, integ := 0, ez := 0, fz := 0, n := 0 }
            ((s.setLev c k l).makeDemands c k l false).advance)))

/-- The LVREAD word (R158). -/
def levWord (l : Lev) : Nat :=
  l.wc * 2 ^ 43 + l.wp * 2 ^ 38 + unsgn 7 l.integ * 2 ^ 31 + l.occ * 2 ^ 26 + l.ez * 2 ^ 24 + l.fz * 2 ^ 22 + l.en.toNat * 2 ^ 21 + l.n
/-- LVREAD (R331). -/
def execLvread (dst : Reg) (ctl : BitVec 3) (s : State) : Res :=
  .next (s.runOp [] (some dst) (fun _ =>
    match (s.core s.curCore).levOf ctl.toNat with
    | none => eFault .coupling 0 ctl.toNat
    | some l => .ok (fun s => (s.put dst (BitVec.ofNat 64 (levWord l))).advance)))

/-! ### Queue events (R148) -/

/-- The oldest entry in transit can be popped. -/
def State.entryArrives (s : State) (core : Nat) (d : Dir) : State :=
  s.modSide (neighbour core d) core (fun x =>
    match Table.get [] x.transit (dirNum d) with
    | [] => x
    | e :: es => { x with transit := x.transit.set (dirNum d) es, qin := x.qin.set (dirNum d) (x.inq d ++ [e]) })
/-- A credit returns, whatever the direction is bound to; a direction never holds more than 16. -/
def State.creditReturns (s : State) (core : Nat) (d : Dir) : State :=
  s.modSide (neighbour core d) core (fun x => { x with credits := x.credits.set (dirNum d) (Nat.min 16 (x.credit d + 1)) })
/-- QUEUE_ENTRY_ARRIVE. -/
def execQueueEntryArrive (core : Nat) (d : Dir) (s : State) : Res := .next (s.entryArrives core d)
/-- CREDIT_RETURN. -/
def execCreditReturn (core : Nat) (d : Dir) (s : State) : Res := .next (s.creditReturns core d)

/-- What is on its way to a core over the links of R148 and R156. -/
def isQueueEvent (c : Nat) : Instr → Bool
  | .queueEntryArrive k _ | .creditReturn k _ => k == c
  | .levellingDemandArrive m => m.core == c
  | _ => false
/-- What is on its way to a core over those links reaches it now, where its team's state is about to be saved (R152, R156). -/
def State.settleCore (s : State) (c : Nat) : State :=
  ((s.agenda.filter (fun e => isQueueEvent c e.2)).foldl (fun (s : State) e => match e.2 with
    | .queueEntryArrive k d => s.entryArrives k d
    | .creditReturn k d => s.creditReturns k d
    | .levellingDemandArrive m => s.demandArrives m
    | _ => s) { s with agenda := s.agenda.filter (fun e => !isQueueEvent c e.2) })

/-- LIGHT_HANDLER_CALL (R151). -/
def execLightHandlerCall (core ctx : Nat) (d : Dir) (s : State) : Res := .next (s.lightCall core ctx d)

end Sys2Proof.Machine
end

