-- ==== Sys2Proof/Machine/Engine.lean ====
section
/-! DEFINITION. The pleach engine: its descriptor fields, status words, posted faults, the opening, forming and closing of a
rendezvous, its loaders and what moves it on (R100 to R125, R252 to R254, R276). -/

namespace Sys2Proof.Machine

/-! ### Ends and descriptors -/

def Engine.end_ (e : Engine) (far : Bool) : EEnd := if far then e.far else e.near
def Engine.modEnd (e : Engine) (far : Bool) (f : EEnd → EEnd) : Engine :=
  if far then { e with far := f e.far } else { e with near := f e.near }
def State.modEnd (s : State) (l : Nat) (far : Bool) (f : EEnd → EEnd) : State := s.modEng l (fun e => e.modEnd far f)
/-- The core of an end. -/
def endCore (l : Nat) (far : Bool) : Nat := if far then linkFar l else linkNear l
/-- Whether the A side of a formed rendezvous is the far end. -/
def Engine.aFar (e : Engine) : Bool := e.near.roleB
/-- The A side's descriptor, which gives the product fields (R107). -/
def Engine.dA (e : Engine) : Nat := (e.end_ e.aFar).desc

/-- The operand fields of a descriptor (R104, R105). -/
def dOfmt (d : Nat) : Nat := fld d 7 0
def dDepth (d : Nat) : Nat := fmtDepth (dOfmt d)
def dBlock (d : Nat) : Nat := fmtBlock (dOfmt d)
def dIsBlock (d : Nat) : Bool := 128 ≤ dOfmt d
def dK (d : Nat) : Nat := fld d 39 16
/-- The product fields of a rendezvous. -/
def Engine.kLen (e : Engine) : Nat := dK e.dA
def Engine.depth (e : Engine) : Nat := dDepth e.dA
def Engine.rows (e : Engine) : Nat := fld e.dA 69 64
def Engine.colsN (e : Engine) : Nat := fld e.dA 77 72
def Engine.amode (e : Engine) : Nat := fld e.dA 81 80
def Engine.otype (e : Engine) : Nat := fld e.dA 87 84
def Engine.eslot (e : Engine) : Nat := fld e.dA 89 88
def Engine.sched_ (e : Engine) : Bool := bit e.dA 90
def Engine.pre (e : Engine) : Bool := bit e.dA 91
def Engine.kspl (e : Engine) : Nat := fld e.dA 111 96
def Engine.pm1 (e : Engine) : Nat := fld e.dA 127 112
/-- Bytes of an element of otype (R106). -/
def otypeBytes (t : Nat) : Nat := if t = 10 ∨ t = 4 then 4 else if t = 8 ∨ t = 9 then 2 else 1

/-! ### Status and detail words (R122, R124) -/

def estNum : EState → Nat
  | .dormant => 0 | .waking => 1 | .idle => 2 | .openPending => 3 | .ready => 4 | .running => 5 | .draining => 6 | .done => 7
  | .faulted => 8 | .suspended => 9
/-- A lease request waits in the die's queue. -/
def State.leaseQueued (s : State) (l : Nat) : Bool :=
  (s.die (l / 1152)).fifos.cells.any (fun f => f.2.any (fun r => r.link == l))
def EEnd.roleNum (x : EEnd) : Nat := if x.isOpen then (if x.roleB then 2 else 1) else 0
/-- Status word 0, 1 or 2 as an end reads it (R124, R328). (DEDUCED, log entry 29.) -/
def State.statusWord (s : State) (l : Nat) (far : Bool) (w : Nat) : Nat :=
  let e := s.eng l
  let x := e.end_ far
  let y := e.end_ (!far)
  let k := Table.get Counts.zero e.counts e.prod
  let queued := (s.leaseQueued l).toNat * 2 ^ 51
  let opens := y.isOpen.toNat * 2 ^ 7 + x.isOpen.toNat * 2 ^ 6 + x.roleNum * 2 ^ 4
  if e.st = .dormant then (if w = 0 then queued + opens else 0)
  else if w = 0 then
    (x.fault.elim 0 (fun p => fcNum p.code)) * 2 ^ 56 + estNum e.st * 2 ^ 52 + queued
      + (e.drains.any (·.begun)).toNat * 2 ^ 50 + e.heldTile.isSome.toNat * 2 ^ 49 + k.fb.toNat * 2 ^ 48
      + e.kdone % 2 ^ 24 * 2 ^ 24 + e.prods % 2 ^ 16 * 2 ^ 8 + opens
  else if w = 1 then k.loss.toNat * 2 ^ 32 + k.executed % 2 ^ 16 * 2 ^ 16 + k.dropped % 2 ^ 16
  else Nat.min e.stalls (2 ^ 32 - 1)
/-- The detail word of R122. -/
def detailWord (l : Nat) (far : Bool) (prod kdone why : Nat) : Nat :=
  prod % 2 ^ 16 * 2 ^ 48 + kdone % 2 ^ 24 * 2 ^ 24 + why * 2 ^ 18 + dirNum (linkDir l far) * 2 ^ 16 + l
def Post.detail (p : Post) (l : Nat) (far : Bool) : Nat := detailWord l far p.prod p.kdone p.why

/-! ### Posting (R122, R123, R254) -/

def terminal (c : FCode) : Bool := c == .rzvMismatch || c == .rzvBroken || c == .leaseRevoked
/-- Post to an end: a terminal fault replaces a resumable one, the first terminal fault stands, a second resumable one waits. -/
def EEnd.post (x : EEnd) (p : Post) : EEnd :=
  match x.fault with
  | none => { x with fault := some p }
  | some q =>
    if terminal q.code then x
    else if terminal p.code then { x with fault := some p, fault2 := none }
    else if x.fault2.isNone then { x with fault2 := some p } else x
/-- Under K-split, the product and the K-step from which a new rendezvous resumes (R119): where the first sums begin whose rows have not
all passed the epilogue. (DEDUCED, log entry 35.) -/
def Engine.resumePoint (e : Engine) : Nat × Nat :=
  match (e.heldTile.toList ++ e.drains).find? (fun d => !d.forced && d.row < e.rows) with
  | some d => (d.prod, d.k0)
  | none => (e.prod, e.kdone - e.since)
/-- Post `code` to the party of an end; F_LEASE_REVOKED under K-split names the place to resume from (R119).
(DEDUCED, log entry 28.) -/
def State.post (s : State) (l : Nat) (far : Bool) (code : FCode) (why : Nat) : State :=
  let e := s.eng l
  let r := if code = .leaseRevoked ∧ e.kspl ≠ 0 then e.resumePoint else (e.prod, e.kdone)
  s.modEnd l far (fun x => x.post ⟨code, x.party, x.addr, r.1, r.2, why⟩)

/-- The context that holds an end (R108, R109): its open, its held open, or a terminal fault not yet delivered to it. -/
def EEnd.holder (x : EEnd) (n : Nat) : Bool :=
  (x.isOpen && x.party == n) || (x.heldOpen.elim false (·.ctx == n))
    || (x.fault.elim false (fun p => terminal p.code && p.ctx == n))
/-- Opened, under R108. -/
def EEnd.opened (x : EEnd) : Bool := x.isOpen || x.heldOpen.isSome

/-- Complete an engine's numbered operation (R194). -/
def Engine.numDone (e : Engine) (n : Nat) : Engine := let r := chainDone e.ctr e.done n; { e with ctr := r.1, done := r.2 }
/-- Discard an end's queued feeds; each counts as complete (R272). -/
def Engine.dropFeeds (e : Engine) (far : Bool) : Engine :=
  ((e.end_ far).feeds.foldl (fun e f => e.numDone f.num) e).modEnd far (fun x => { x with feeds := [] })

/-- Write an end's LKOPEN register with status word 0 (R107). (DEDUCED, log entry 32.) -/
def State.writeOpen (s : State) (l : Nat) (far : Bool) : State :=
  let x := (s.eng l).end_ far
  match x.tok with
  | none => s
  | some t => (s.complete (endCore l far) (x.party % 16) t (BitVec.ofNat 64 (s.statusWord l far 0))).modEnd l far (fun x => { x with tok := none })

/-! ### Tiles and drains -/

/-- A drain not yet finished: under way, waiting, or held. -/
def Engine.pendingDrains (e : Engine) : List Drain := e.drains ++ e.heldTile.toList
/-- Product `q` may use its tile, with at most one other drain outstanding (R115, R119). -/
def Engine.tileFree (e : Engine) (q : Nat) : Bool :=
  e.pendingDrains.length ≤ 1 && !e.pendingDrains.any (fun d => d.final && d.prod % 2 == q % 2)

/-! ### What may run -/

/-- The members of the engine stand still in cycle `now` (R17, R121). -/
def Engine.standing (e : Engine) (now : Nat) : Bool := e.held.elim false (fun h => h.1 ≤ now)
/-- A rendezvous is formed and runs, and no save or halt stops it. -/
def Engine.runs (e : Engine) : Bool := e.formed && !e.stopping && (e.st == .ready || e.st == .running || e.st == .draining)
/-- The engine moves in cycle `now`: it runs, and does not stand. -/
def Engine.moving (e : Engine) (now : Nat) : Bool := e.runs && !e.standing now
/-- The reads in progress are dropped: the engine stops at a fault. -/
def Engine.quiet (e : Engine) : Engine :=
  { e with held := none, near := { e.near with fetch := none }, far := { e.far with fetch := none } }

/-- The pairs that survive and wait for the next dense K-step (R127). -/
def Engine.survivors (e : Engine) : List (Col × Col × Bool) := e.passed.filter (·.2.2)
/-- The plan of the product in progress. -/
def Engine.plan (e : Engine) : Option Plan := e.plans.find e.prod
/-- Product `q` has a term in force, and its pre-pass has not ended (R132). -/
def Engine.inPrePass (e : Engine) (q : Nat) : Bool := (Table.get none e.sp q).isSome && (e.plans.find q).isNone

/-- The K-blocks of the other side, by place in the product, that step `i` draws: those of the groups its slots belong to, or that of
the clipping (R275). -/
def Plan.draws (p : Plan) (blk i : Nat) : List Nat :=
  match p.steps[i]? with
  | none => []
  | some (.clip k _) => [k / blk]
  | some (.term gs _) => (gs.flatMap (fun g => (List.range p.mm).map (fun j => (g * p.mm + j) / blk))).eraseDups
/-- The K-blocks read again for the steps from `i` on, in turn: a block two steps in a row draw stays in the FIFO.
(DEDUCED, log entry 80.) -/
def Plan.reads (p : Plan) (blk i : Nat) : List Nat :=
  (List.range (p.steps.length - i)).flatMap (fun j =>
    (p.draws blk (i + j)).filter (fun b => j = 0 || !(p.draws blk (i + j - 1)).contains b))
/-- The end that supplies what the steps of a plan draw: the side that is not configured. -/
def Engine.drawFar (e : Engine) (p : Plan) : Bool := if p.sideB then e.aFar else !e.aFar
/-- The columns the next step of a plan draws, the first of its FIFO. -/
def Engine.drawn (e : Engine) (p : Plan) : List Col :=
  let x := e.end_ (e.drawFar p)
  x.fifo.take ((p.draws (dBlock x.desc) e.kdone).length * dBlock x.desc)
def Engine.drawsAll (e : Engine) (p : Plan) : Bool :=
  let x := e.end_ (e.drawFar p)
  (p.draws (dBlock x.desc) e.kdone).length * dBlock x.desc ≤ x.fifo.length

/-! ### Loaders (R111 to R116, R129, R132) -/

/-- The K-blocks a list of columns comes from, in turn; the columns are kept where `keep` holds of each. -/
def blocksOf (keep : Col → Bool) (cs : List Col) : List Blk :=
  (cs.foldl (fun (acc : List Blk) c =>
    match acc with
    | b :: rest =>
      if b.k0 + c.sub = c.k then { b with kept := b.kept ++ [c] } :: rest else ⟨c.feed, c.blk, c.k - c.sub, [c]⟩ :: acc
    | [] => [⟨c.feed, c.blk, c.k - c.sub, [c]⟩]) []).reverse.map (fun b => if b.kept.all keep then b else { b with kept := [] })

/-- The configuration in force for a pre-pass that begins in cycle `now`: of the side whose latest configuration of 8 or more cycles
ago has a nonzero T (R129). -/
def Engine.cfgNow (e : Engine) (now : Nat) : Option (Bool × SpCfg) :=
  let f (b : Bool) : Option (Bool × SpCfg) :=
    match ((if b then e.cfgB else e.cfgA).filter (fun c => c.at_ + 8 ≤ now)).getLast? with
    | some c => if c.t ≠ 0 then some (b, c) else none
    | none => none
  (f false).or (f true)
/-- The loaders come to product `q`: its configuration is fixed, and its fields of status word 1 are reset (R129, R135). -/
def Engine.beginPre (e : Engine) (now q : Nat) : Engine :=
  if (e.sp.find q).isSome then e else { e with sp := e.sp.set q (e.cfgNow now), counts := e.counts.set q Counts.zero }

/-- Product `q` is loaded now: its tile is free, or it has begun (R115). -/
def Engine.loads (e : Engine) (q : Nat) : Bool :=
  q ≤ e.pm1 && q ≤ e.prod + 1 && (e.tileFree q || (q == e.prod && e.started))
/-- An end's FIFO has room for a K-block: 64 entries of one K-step (R115), or what the next step of a plan draws. -/
def Engine.room (e : Engine) (far : Bool) : Bool :=
  let x := e.end_ far
  x.fifo.length + e.survivors.length + dBlock x.desc ≤ 64 * e.depth
    || e.plan.elim false (fun p => e.drawFar p == far && !e.drawsAll p)
/-- What an end's loader reads next, and whether it is the next of the feeds: first what it reads again, in turn. A K-block of a product
in its pre-pass needs no room of the FIFO, and passes one that waits for room. -/
def Engine.nextRead (e : Engine) (far : Bool) : Option (Blk × Bool) :=
  let x := e.end_ far
  let q (b : Blk) : Nat := b.k0 / e.kLen
  let pre (b : Blk) : Bool := e.inPrePass (q b)
  let cands := x.again.map (fun b => (b, false)) ++ x.feeds.head?.toList.map (fun f => ((⟨f, f.pos, x.fetched, []⟩ : Blk), true))
  let first := cands.find? (fun c => !pre c.1)
  cands.find? (fun c => e.loads (q c.1) && (pre c.1
    || (first == some c && e.room far && !(e.prod < q c.1 && e.inPrePass e.prod))))
/-- Offer a loader its next read, which begins `base` cycles from now: a plain K-block in that cycle, a block of block operands in 32
cycles, and before a product's first the preload tile in 64 (R115, R116). -/
def State.driveLoader (s : State) (l : Nat) (far : Bool) (base : Nat) : State :=
  let e := s.eng l
  let x := e.end_ far
  if !e.runs ∨ x.fetch.isSome then s
  else
    let b := e.beginPre (s.now + base) (x.fetched / e.kLen)
    match b.nextRead far with
    | none => s
    | some (k, fresh) =>
      let tile := e.pre && far == e.aFar && fresh && x.preTile ≤ k.k0 / e.kLen
      let r : Fetch := if tile then ⟨s.now + base + 63, none, false⟩
        else ⟨s.now + base + (if dIsBlock x.desc then 31 else 0), some k, fresh⟩
      (s.setEng l ((if fresh && !tile then b else e).modEnd far (fun x => { x with fetch := some r }))).sched (r.ends - s.now)
        (.loaderFetch l far)

/-! ### Lockstep and throttle steps (R17, R121) -/

/-- The read of the product in progress that a loader comes to has no feed. (DEDUCED, log entry 79.) -/
def Engine.feedMissing (e : Engine) (far : Bool) : Bool :=
  let x := e.end_ far
  x.fetch.isNone && x.again.isEmpty && x.feeds.isEmpty && x.fetched / e.kLen == e.prod && e.loads e.prod && e.room far
/-- The first cycle from which the engine must stand, and whether a feed is missing: a throttle step of an end core; and in a lockstep group
a missing feed, or a row that the drain path holds. (DESIGN CHOICE, log entry 79.) -/
def State.standFrom (s : State) (l base : Nat) : Option (Nat × Bool) :=
  let e := s.eng l
  let missing := e.sched_ && (e.st == .ready || e.st == .running) && (e.feedMissing false || e.feedMissing true)
  let why : List Nat :=
    (if s.throttled.contains (linkNear l) || s.throttled.contains (linkFar l) then [s.now] else [])
      ++ (if missing then [s.now + base] else [])
      ++ (match e.press with
          | some p => if e.sched_ && s.now < p.2 then [p.1] else []
          | none => [])
  if !e.runs then none
  else match why with
    | [] => none
    | d :: ds => some (ds.foldl Nat.min d, missing)
/-- What is due of an engine's members comes `n` cycles later, its rows `m`. -/
def Engine.delay (e : Engine) (n m : Nat) : Engine :=
  let c (k : Col) : Col := { k with at_ := k.at_ + n }
  let x (y : EEnd) : EEnd := { y with
    fifo := y.fifo.map c, pre := y.pre.map c, fetch := y.fetch.map (fun f => { f with ends := f.ends + n }) }
  { e with
    near := x e.near, far := x e.far, passed := e.passed.map (fun p => (c p.1, c p.2.1, p.2.2))
    plans := e.plans.mapAll (fun _ (p : Plan) => { p with at_ := p.at_ + n }), expect := e.expect + n
    drains := e.drains.map (fun d => { d with due := d.due + n }), rowAt := e.rowAt + m }
/-- The engine stood from cycle `h`, and goes on in cycle `t`: every member is that much later, and word 2 counts the cycles in a
lockstep group (R121, R124). -/
def State.goOnEng (s : State) (l h t : Nat) : State :=
  let e := s.eng l
  let n := t - h
  let e' := { e.delay n (t - Nat.max h (e.press.elim 0 (·.2))) with held := none, stalls := if e.sched_ then e.stalls + n else e.stalls }
  let read (s : State) (far : Bool) : State :=
    match (e'.end_ far).fetch with
    | some f => s.sched (f.ends - s.now) (.loaderFetch l far)
    | none => s
  read (read (s.setEng l e') false) true
/-- The state of standing now: the engine begins to stand, stands on, or goes on. -/
def State.standing (s : State) (l base : Nat) : State :=
  let e := s.eng l
  match s.standFrom l base with
  | some d => s.modEng l (fun e => { e with held := some (e.held.elim d.1 (fun h => Nat.min h.1 d.1), d.2) })
  | none =>
    match e.held with
    | some h => if e.runs then s.goOnEng l h.1 (if h.2 then s.now + base else s.now) else s.modEng l (fun e => { e with held := none })
    | none => s

/-! ### K-steps -/

/-- The next K-step has its data: all the product has of a dense one, or what the next step of a plan draws. -/
def Engine.stepReady (e : Engine) : Bool :=
  match e.plan with
  | some p => e.drawsAll p
  | none => !e.inPrePass e.prod && (e.depth ≤ e.survivors.length || e.kLen ≤ e.kpos + e.passed.length)
/-- The cycle its data allow it (R118), after the step before. -/
def Engine.stepFrom (e : Engine) : Nat :=
  Nat.max e.expect (12 + (match e.plan with
    | some p => (e.drawn p).foldl (fun a c => Nat.max a c.at_) p.at_
    | none => e.passed.foldl (fun a p => Nat.max a (Nat.max p.1.at_ p.2.1.at_)) e.t0))
/-- The next K-step may be due (R115): the product may start or go on. -/
def Engine.stepDue (e : Engine) : Bool :=
  e.runs && e.st == .running && e.stepReady && (if e.started then e.pendingDrains.length ≤ 1 else e.tileFree e.prod)

/-- The presence of any row or column of the product (R126, R127). -/
def anyPresent (n : Nat) (c : Col) : Bool := (c.els.take n).any Option.isSome
/-- Move pairs through the intersection unit while the next dense K-step is not complete. A column that raises a fault survives, whatever
the other side holds, so its K-step raises it. (DESIGN CHOICE, log entry 81.) -/
def absorb : Nat → Engine → Engine
  | 0, e => e
  | n + 1, e =>
    if (Table.get none e.sp e.prod).isSome ∨ e.depth ≤ e.survivors.length ∨ e.kLen ≤ e.kpos + e.passed.length then e
    else match (e.end_ e.aFar).fifo, (e.end_ (!e.aFar)).fifo with
      | a :: as, b :: bs =>
        let live := (anyPresent e.rows a && anyPresent e.colsN b) || a.bad.isSome || b.bad.isSome
        absorb n (({ e with passed := e.passed ++ [(a, b, live)] }.modEnd e.aFar (fun x => { x with fifo := as })).modEnd
          (!e.aFar) (fun x => { x with fifo := bs }))
      | _, _ => e

/-- The next drain to begin, and whether one is passing its rows. -/
def Engine.nextDrain (e : Engine) : Option Drain := e.drains.find? (fun d => !d.begun)
def Engine.passing (e : Engine) : Option Drain := e.drains.find? (fun d => d.begun && d.row < e.rows)

/-- Both loaders have read product `q` whole, and its plan is not made yet (R132). -/
def Engine.prePassReady (e : Engine) (q : Nat) : Bool :=
  e.inPrePass q
    && (e.near.pre.filter (fun c => c.k / e.kLen == q)).length == e.kLen
    && (e.far.pre.filter (fun c => c.k / e.kLen == q)).length == e.kLen

/-- The members of an engine that does not stand are offered what they may do next: the loaders, the pre-pass, the K-steps, the
drains. -/
def State.offerEng (s : State) (l base : Nat) : State :=
  let e := s.eng l
  let s := (s.driveLoader l false base).driveLoader l true base
  let s := if e.runs ∧ (e.prePassReady e.prod ∨ e.prePassReady (e.prod + 1)) then s.schedOnce 0 (.prePass l) else s
  let s := if e.stepDue then s.schedSoon (Nat.max base (e.stepFrom - s.now)) (.kStep l) else s
  let s := if e.runs ∧ ((e.st = .draining ∧ e.pendingDrains.isEmpty) ∨ !e.copies.isEmpty) then s.schedSoon 1 (.kStep l) else s
  match e.nextDrain with
  | some d =>
    if e.runs ∧ e.heldTile.isNone ∧ e.passing.isNone ∧ e.st ≠ .ready then
      s.schedSoon (Nat.max d.due (Nat.max e.rowAt ((e.path + 63) / 64)) - s.now) (.drainBegin l)
    else s
  | none => s
/-- Move an engine on: the first feeds start it (R125); it stands, or its members are offered what is due `base` cycles from now or
later. -/
def State.driveEng (s : State) (l base : Nat) : State :=
  let e := s.eng l
  let e := if e.st = .ready ∧ !e.stopping ∧ 0 < e.near.fed ∧ 0 < e.far.fed then { e with st := .running } else e
  let e := if e.runs then absorb (64 * e.depth + 96) e else e
  let stood := e.held.isSome
  let s := (s.setEng l e).standing l base
  if (s.eng l).standing (s.now + base) then s
  else s.offerEng l (if stood && (s.eng l).held.isNone && !(e.held.elim false (·.2)) then 0 else base)

/-! ### Leases and dormancy (R101, R103, R13) -/

/-- Offer a die's tokens to its queue: in this cycle, or the next if one was granted in it. -/
def State.offerLease (s : State) (d : Nat) : State :=
  if 0 < (s.die d).free ∧ (s.die d).fifos.cells.any (fun f => !f.2.isEmpty) then
    s.schedOnce (if (s.die d).granted = some s.now then 1 else 0) (.leaseGrant d)
  else s

/-- What stays recorded at an end while the engine is dormant: opens, queued feeds, and faults to deliver. -/
def EEnd.keep (x : EEnd) : EEnd :=
  { EEnd.closed with
    isOpen := x.isOpen, party := x.party, last := x.last, roleB := x.roleB, desc := x.desc, addr := x.addr, tok := x.tok
    feeds := x.feeds, fed := x.fed, heldOpen := x.heldOpen, fault := x.fault, fault2 := x.fault2 }
def Engine.sleep (e : Engine) : Engine := { Engine.dormant with near := e.near.keep, far := e.far.keep }
/-- The engine goes dormant and its token returns. -/
def State.returnToken (s : State) (l : Nat) : State :=
  let held := (s.eng l).token
  let s := s.modEng l Engine.sleep
  if held then (s.modDie (l / 1152) (fun d => { d with free := d.free + 1 })).offerLease (l / 1152) else s

/-- The lease status word (R102). -/
def leaseWord (outcome pri waited l : Nat) : Word :=
  BitVec.ofNat 64 (outcome * 2 ^ 56 + pri * 2 ^ 54 + Nat.min (waited / 256) 0xFFFF * 2 ^ 32 + l)
/-- The LEASE register of a waking engine receives outcome 0x04 (R359). (DEDUCED, log entry 33.) -/
def State.cancelLease (s : State) (l : Nat) : State :=
  match (s.eng l).lease with
  | some z => if (s.eng l).st = EState.waking then s.complete z.core z.ctx z.tok (leaseWord 4 z.pri z.waited l) else s
  | none => s
/-- The lease ends. -/
def State.giveUp (s : State) (l : Nat) : State := (s.cancelLease l).returnToken l

/-! ### Forming and closing (R107, R125, R276) -/

/-- The rendezvous and everything of it is gone. -/
def Engine.clearRun (e : Engine) : Engine :=
  let f (x : EEnd) : EEnd := { x with
    fifo := [], pre := [], fetch := none, again := [], preTile := 0, fetched := 0, fed := 0, sums := [], resume := false, autoWeight := 16 }
  { e with
    near := f e.near, far := f e.far, formed := false, tile0 := [], tile1 := [], prod := 0, kdone := 0, kpos := 0, since := 0
    started := false, cfgA := [], cfgB := [], plans := .empty, passed := [], hist := [], sp := .empty, spLater := [], drains := []
    heldTile := none, copies := [], held := none, press := none, rowAt := 0, path := 0, acks := []
    counts := Table.set .empty 0 (Table.get Counts.zero e.counts e.prod) }

/-- Both ends are open: the engine is ready in this cycle, both registers are written and the loaders begin (R12, R118). -/
def State.becomeReady (s : State) (l : Nat) : State :=
  let s := s.modEng l (fun e => { e with st := .ready, t0 := s.now, expect := 0 })
  ((((s.writeOpen l false).writeOpen l true).driveEng l 0)).schedSoon 64 (.engineLevelSample l)

/-- K indices a list of feeds covers at an end. -/
def fedK (d : Nat) (fs : List Feed) : Nat := (fs.map (fun f => f.count * dBlock d)).foldl (· + ·) 0
/-- Feeds that keep within the last product, and those that would pass it (R325). -/
def splitFeeds (room d : Nat) : List Feed → List Feed × List Feed
  | [] => ([], [])
  | f :: fs =>
    if f.count * dBlock d ≤ room then let r := splitFeeds (room - f.count * dBlock d) d fs; (f :: r.1, r.2)
    else let r := splitFeeds room d fs; (r.1, f :: r.2)
/-- The check of early feeds at an end when its rendezvous forms. -/
def State.checkFeeds (s : State) (l : Nat) (far : Bool) : State :=
  let e := s.eng l
  let x := e.end_ far
  let r := splitFeeds (e.kLen * (e.pm1 + 1)) x.desc x.feeds
  let e := (r.2.foldl (fun e f => e.numDone f.num) e).modEnd far (fun x => { x with feeds := r.1, fed := fedK x.desc r.1 })
  let s := s.setEng l e
  if r.2.isEmpty then s else s.post l far .bounds 0
/-- The descriptors match: the product fields are taken, early feeds and an early B configuration are checked (R107, R130, R325). -/
def State.form (s : State) (l : Nat) : State :=
  let e := { s.eng l with formed := true, prods := 0, stalls := 0, counts := .empty }
  let nbv := match s.teams.find ((e.end_ e.aFar).party / 16) with
    | some t => t.lr.nbv
    | none => 3
  let badB := e.kspl ≠ 0 ∧ (e.cfgB.any (fun c => c.t != 0) ∨ e.spLater.any (fun c => c.1 && c.2.t != 0))
  let s := s.setEng l { e with
    recv := fld e.dA 255 128, nbv := nbv, cfgB := if badB then [] else e.cfgB
    spLater := if badB then e.spLater.filter (fun c => !c.1) else e.spLater }
  let s := (s.checkFeeds l e.aFar).checkFeeds l (!e.aFar)
  if badB then s.post l (!e.aFar) .format 0 else s

/-- Whether two descriptors match, the roles apart (R107). -/
def descMatch (a b : Nat) : Bool := dK a == dK b && fld a 8 8 == fld b 8 8 && dDepth a == dDepth b
/-- An open has been recorded at an end: the first leaves the engine open-pending, the second forms the rendezvous or ends in
F_RZV_MISMATCH (R107, R125). (DEDUCED, log entry 31.) -/
def State.openEffect (s : State) (l : Nat) (far : Bool) : State :=
  let e := s.eng l
  let x := e.end_ far
  let y := e.end_ (!far)
  if !y.isOpen then (if e.st = .idle then s.modEng l (fun e => { e with st := .openPending }) else s)
  else if x.roleB ≠ y.roleB ∧ descMatch x.desc y.desc then
    let s := s.form l
    if e.st = .idle ∨ e.st = .openPending then s.becomeReady l else s
  else
    let close (x : EEnd) : EEnd := { x with isOpen := false, fed := 0 }
    let e := (e.dropFeeds false).dropFeeds true
    let s := s.setEng l { e with
      near := close e.near, far := close e.far, cfgA := [], cfgB := [], spLater := []
      st := if e.st = .openPending then .idle else e.st
      saved := if e.st = .suspended then .idle else e.saved }
    let s := (s.post l false .rzvMismatch 0).post l true .rzvMismatch 0
    (s.writeOpen l false).writeOpen l true

/-- The record of a suspended engine waits for its team to resume. -/
def State.recordStands (s : State) (l : Nat) : Bool :=
  (s.eng l).st == .suspended && ((s.eng l).savedBy.bind s.teams.find).elim false (fun t => t.st == .suspended || t.st == .stopping)
/-- The held opens of an engine take effect. -/
def State.offerHeld (s : State) (l : Nat) : State :=
  let s := if (s.eng l).near.heldOpen.isSome then s.schedOnce 0 (.heldOpenTakesEffect l false) else s
  if (s.eng l).far.heldOpen.isSome then s.schedOnce 0 (.heldOpenTakesEffect l true) else s
/-- Both ends have closed: the engine is idle, held opens take effect, of a saved engine when its record is discarded at the resume, and a
recorded UNLEASE applies (R13, R276). -/
def State.settle (s : State) (l : Nat) : State :=
  let e := s.eng l
  if e.near.isOpen ∨ e.far.isOpen then s
  else
    let e := e.clearRun
    let e := match e.st with
      | .openPending | .ready | .running | .draining | .done | .faulted => { e with st := .idle }
      | .suspended => { e with saved := .idle }
      | _ => e
    let s := s.setEng l e
    let s := if s.recordStands l then s else s.offerHeld l
    if (e.st = .idle ∨ e.st = .waking) ∧ e.near.heldOpen.isNone ∧ e.far.heldOpen.isNone ∧ e.unl then s.giveUp l else s

/-- Close an end; an LKOPEN register not yet written gets status word 0. -/
def State.closeEnd (s : State) (l : Nat) (far : Bool) : State :=
  let s := s.modEnd l far (fun x => { x with isOpen := false, resume := false })
  let s := s.modEng l (fun e => { e with st := if e.st = .openPending then .idle else e.st })
  (s.writeOpen l far).settle l

/-- An early close (R323): tiles, feeds and drains go, every number completes, and the partner is told F_RZV_BROKEN. -/
def State.breakRzv (s : State) (l : Nat) (far : Bool) : State :=
  let e := ((s.eng l |>.dropFeeds false).dropFeeds true).quiet
  let f (x : EEnd) : EEnd := { x with fifo := [], pre := [], again := [] }
  let s := if e.end_ (!far) |>.isOpen then s.setEng l e |>.post l (!far) .rzvBroken 0 else s.setEng l e
  s.modEng l (fun e => { e with
    near := f e.near, far := f e.far, tile0 := [], tile1 := [], plans := .empty, passed := [], hist := [], drains := [], heldTile := none
    copies := [], ctr := e.num, done := [], st := .faulted })

/-- HELD_OPEN_TAKES_EFFECT (R276): it acts as an LKOPEN issued now, and what queued behind it follows. -/
def execHeldOpenTakesEffect (link : Nat) (far : Bool) (s : State) : Res :=
  let x := (s.eng link).end_ far
  .next (match x.heldOpen with
    | none => s
    | some h =>
      if (s.eng link).near.isOpen && (s.eng link).formed || (s.eng link).far.isOpen && (s.eng link).formed then s
      else
        let s := s.modEnd link far (fun x => { x with
          isOpen := true, party := h.ctx, last := some h.ctx, roleB := h.roleB, desc := h.desc, addr := h.addr, tok := some h.tok
          feeds := h.feeds, fed := fedK h.desc h.feeds, heldOpen := none })
        let cfgs := h.cfgs.map (fun c => { c with at_ := s.now })
        let s := s.modEng link (fun e =>
          let e := { e with acks := e.acks ++ h.acks }
          if h.roleB then { e with cfgB := cfgs } else { e with cfgA := cfgs })
        s.openEffect link far)

/-! ### Delivery (R122, R322) -/

/-- The effect of delivering the fault posted to an end: a terminal one closes it, a feed fault arms the resumption. -/
def State.delivered (s : State) (l : Nat) (far : Bool) (p : Post) : State :=
  let s := s.modEnd l far (fun x => { x with fault := x.fault2, fault2 := none })
  if terminal p.code then (if ((s.eng l).end_ far).isOpen && ((s.eng l).end_ far).party == p.ctx then s.closeEnd l far else s.settle l)
  else if p.code ≠ .drainTarget ∧ ((s.eng l).st = .faulted ∨ (s.eng l).st = .suspended) then s.modEnd l far (fun x => { x with resume := true })
  else s

/-- Decoded elements of a line of a plain operand: `q` is its K index in the block (R105, R111, R126). -/
def plainEls (ofmt : Nat) (line q : Nat) : List (Option Num) :=
  (List.range 32).map (fun x =>
    if ofmt = 8 ∨ ofmt = 9 then
      (let v := line / 2 ^ (16 * x) % 2 ^ 16
       let n := (if ofmt = 8 then fp16 else bf16).decode v
       if numIsZero n then none else some n)
    else
      (let v := line / 2 ^ (8 * (32 * q + x)) % 256
       let n := if ofmt = 0 then numInt (sgn 8 v) else if ofmt = 1 then numInt v
         else if ofmt = 11 then fpE4M3.decode v else fpE5M2.decode v
       if numIsZero n then none else some n))
/-- A block that no operand of this class and mode may hold (R50). -/
def blockWrong (is4 int : Bool) (blk : Nat) : Bool :=
  bit blk 7 || (match blockIs4 (fld blk 6 0) with
    | none => true
    | some k => k != is4 || (int && !blockIsInt (fld blk 6 0)))

/-- One line of an operand, from the cache where a valid line matches, else from the scratchpad (R113, R246). -/
def State.opLine (s : State) (core : Nat) (cache : List CLine) (h base off : Nat) : List CLine × Nat × Bool :=
  let gen := (s.core core).gen
  match cache.find? (fun c => c.handle == h && c.gen == gen && c.off == off) with
  | some c => (c :: cache.filter (fun k => k != c), leNat c.data, false)
  | none =>
    let data := memBytes s.mem 64 (spad core (base + off))
    if s.badIn (spad core (base + off)) 64 then (cache, leNat data, true)
    else ((⟨h, gen, off, data⟩ :: cache).take 128, leNat data, false)
/-- The lines of a K-block, in turn. -/
def State.opLines (s : State) (core : Nat) (h base : Nat) : List Nat → List CLine → List CLine × List (Nat × Bool)
  | [], cache => (cache, [])
  | off :: offs, cache =>
    let r := s.opLine core cache h base off
    let t := s.opLines core h base offs r.1
    (t.1, r.2 :: t.2)
/-- The columns of K-block `blk` of a feed, numbered from `k0`, and the cache after its fetch (R111). -/
def State.readBlock (s : State) (core : Nat) (cache : List CLine) (ofmt : Nat) (int : Bool) (f : Feed) (blk k0 : Nat) :
    List CLine × List Col :=
  if ofmt < 128 then
    let r := s.opLines core f.handle f.base [blk * f.stride] cache
    let l := r.2.headD (0, false)
    (r.1, (List.range (fmtDepth ofmt)).map (fun q =>
      { k := k0 + q, els := plainEls ofmt l.1 q, bad := if l.2 then some .memErr else none, feed := f, blk := blk, sub := q, at_ := s.now }))
  else
    let r := s.opLines core f.handle f.base ((List.range 32).map (fun m => blk * 64 + m * f.stride)) cache
    let mem := r.2.any (·.2)
    let fmtBad := r.2.any (fun l => blockWrong (ofmt == 0x81) int l.1)
    (r.1, (List.range (fmtBlock ofmt)).map (fun q =>
      let vs := r.2.map (fun l => elemValue f.books l.1 q)
      { k := k0 + q
        els := vs.map (fun v => match v with
          | .ok x => x
          | .error _ => none)
        bad := if mem then some .memErr
          else if fmtBad || vs.any (fun v => match v with
            | .ok _ => false
            | .error _ => true) then some .format else none
        feed := f, blk := blk, sub := q, at_ := s.now }))

/-- Rewind both loaders to the first incomplete K-step (R122, R252): the operand caches are empty, and every K-block that is read and not
yet consumed is read again, for a product with a term in force from its pre-pass on (R132). What a retired feed brought without a fault is
kept, since its program may write over it (R133, R194). (DEDUCED, log entry 82.) -/
def Engine.rewind (e : Engine) : Engine :=
  let f (x : EEnd) (passed : List Col) (planned : Plan → List Col) : EEnd :=
    let keep (c : Col) : Bool := c.bad.isNone && !x.feeds.any (fun g => g.num == c.feed.num)
    let cols := e.plans.cells.flatMap (fun p => planned p.2) ++ x.pre ++ passed ++ x.fifo.filter (fun c => (e.plans.find (c.k / e.kLen)).isNone)
    let old := x.again.filter (fun b => (e.plans.find (b.k0 / e.kLen)).isNone)
    { x with
      cache := [], fifo := [], pre := [], fetch := none
      again := (blocksOf keep cols ++ old).mergeSort (fun a b => a.k0 ≤ b.k0) }
  let e' := { e with plans := .empty, passed := [] }
  (e'.modEnd e.aFar (fun x => f x (e.passed.map (·.1)) (·.colsA))).modEnd (!e.aFar) (fun x => f x (e.passed.map (·.2.1)) (·.colsB))

/-- The engine resumes after a delivered feed fault (R122), unless one still waits at an end; a suspended one when it is restored. -/
def State.resumeEng (s : State) (l : Nat) : State :=
  let waits (x : EEnd) : Bool := x.fault.elim false (fun p => !terminal p.code && p.code != .drainTarget)
  if waits (s.eng l).near ∨ waits (s.eng l).far then s else
  let s := s.modEng l (fun e => { e.rewind with
    st := if e.st = .faulted then e.back else e.st
    saved := if e.st = .suspended ∧ e.saved = .faulted then e.back else e.saved
    near := { e.rewind.near with resume := false }, far := { e.rewind.far with resume := false } })
  s.driveEng l 1

/-- Follow an outcome's effect. -/
def Eff.after (g : State → State) : Eff → Eff
  | .ok f => .ok (fun s => f (g s))
  | .wait w f => .wait w (fun s => f (g s))
  | .deliver f code w2 w3 => .deliver (fun s => f (g s)) code w2 w3
  | .trap code w2 w3 => .deliver g code w2 w3

/-- Who R108 lets issue an instruction. -/
inductive LinkWho where
  | any | party | lastParty | partyOrClosed
deriving DecidableEq, Repr
def EEnd.allows (x : EEnd) (n : Nat) : LinkWho → Bool
  | .any => true
  | .party => x.holder n
  | .lastParty => x.holder n || x.last == some n
  | .partyOrClosed => !x.opened || x.holder n

/-- Checks 1 to 3 of R322, then the member's own part `k`, given the state, the link and the end. A fault posted because the
partner's team has ended (R217, R253) is delivered although the link then leaves the region. After a delivered feed fault the engine
first resumes. -/
def State.linkChecks (s : State) (d : Dir) (who : LinkWho) (k : State → Nat → Bool → Eff) : Eff :=
  let c := s.curCore
  let l := linkId c d
  let far := !isNear d
  let x := (s.eng l).end_ far
  if s.linkHarvested c d ∨ (s.linkOutside c d && !x.fault.elim false (fun p => p.ctx == s.meId)) then eFault .teamBounds 0 0
  else if !x.allows s.meId who then eRefuse
  else
    let next : Eff := if x.resume && x.holder s.meId then (k (s.resumeEng l) l far).after (fun s => s.resumeEng l) else k s l far
    match x.fault with
    | some p =>
      if p.ctx = s.meId then
        .deliver (fun s => s.delivered l far p) p.code (BitVec.ofNat 64 p.addr) (BitVec.ofNat 64 (p.detail l far))
      else next
    | none => next

end Sys2Proof.Machine
end

