-- ==== Sys2Proof/Machine/Link.lean ====
section
/-! DEFINITION. Meanings of the LINK group, CHWAIT and CHREAD (R101 to R131, R145, R146, R194, R195, R292 to R294, R305, R318, R322 to
R329, R359). -/

namespace Sys2Proof.Machine

/-! ### Leases -/

/-- LEASE (R318). (DEDUCED, log entry 30.) -/
def execLease (dst : Reg) (d : Dir) (pri : BitVec 2) (s : State) : Res :=
  .next (s.runOp [] (some dst) (fun _ => s.withPend (.ok (fun s =>
    let c := s.curCore
    let l := linkId c d
    let tok := s.tok
    let out := if s.linkHarvested c d then 1 else if s.linkOutside c d then 2
      else if (s.eng l).lease.isSome ∨ s.leaseQueued l then 3 else 0
    let s := (s.modMe (fun x => x.addPend dst tok false)).newTok
    (if out ≠ 0 then s.sched 8 (.pendingCompletionWrite c s.curCtx tok (leaseWord out pri.toNat 0 l))
     else
      let q : LeaseReq :=
        { link := l, core := c, ctx := s.curCtx, tok := tok, team := (s.core c).team.getD 0, pri := pri.toNat, at_ := s.now, restore := false }
      let s := s.modDie (l / 1152) (fun x => { x with fifos := x.fifos.set pri.toNat (Table.get [] x.fifos pri.toNat ++ [q]) })
      let s := if pri = 3 then s.sched (s.evictwait + 1) (.eviction (l / 1152)) else s
      s.offerLease (l / 1152)).advance))))

/-- Remove the request for a link from its die's queue. -/
def State.unqueue (s : State) (l : Nat) : State :=
  s.modDie (l / 1152) (fun x => { x with fifos := x.fifos.mapAll (fun _ q => q.filter (fun r => r.link != l)) })
def State.queuedReq (s : State) (l : Nat) : Option LeaseReq :=
  ((s.die (l / 1152)).fifos.cells.flatMap (·.2)).find? (fun r => r.link == l)

/-- The effect of UNLEASE by a team (R359). The queued re-lease of an engine that was saved idle is a queued request: it is removed with what
was saved; it has no LEASE register. (DEDUCED, log entry 30.) -/
def State.unlease (s : State) (l team : Nat) : State :=
  let e := s.eng l
  match s.queuedReq l with
  | some r =>
    if r.team = team ∧ !r.restore then (s.unqueue l).complete r.core r.ctx r.tok (leaseWord 4 r.pri (s.now - r.at_) l)
    else if r.team = team ∧ e.st = .dormant then
      (s.unqueue l).modTeam team (fun t => { t with saved := t.saved.filter (fun x => x.1 != l) })
    else if e.lease.elim false (·.team == team) then s.modEng l (fun e => { e with unl := true }) else s
  | none =>
    if !(e.lease.elim false (·.team == team)) ∨ e.unl then s
    else if e.near.opened ∨ e.far.opened ∨ e.st = .suspended then s.modEng l (fun e => { e with unl := true })
    else s.giveUp l

/-- UNLEASE (R359). -/
def execUnlease (d : Dir) (s : State) : Res :=
  .next (s.runOp [] none (fun _ => s.linkChecks d .any (fun _ l _ => .ok (fun s =>
    (match (s.core s.curCore).team with
     | some t => s.unlease l t
     | none => s).advance))))

/-! ### LKOPEN (R106, R109, R326) -/

/-- A descriptor of the acting core's scratchpad, after its address checks. -/
def State.withLocal (s : State) (a n al : Nat) (k : Nat → Eff) : Eff :=
  match s.localSpan a n al with
  | some f => eFault f a 0
  | none => if s.badIn (spad s.curCore a) n then eFault .memErr a 0 else k (s.localNat a n)

def rsvA : List (Nat × Nat) :=
  [(511, 273), (223, 209), (191, 178), (147, 145), (95, 92), (83, 82), (79, 78), (71, 70), (63, 40), (15, 10)]
def rsvB : List (Nat × Nat) := [(511, 64), (63, 40), (15, 10)]
/-- The multiple K must be of (R105). -/
def kMultiple (ofmt : Nat) : Nat := if ofmt = 0x80 then 48 else if ofmt = 0x81 then 96 else fmtDepth ofmt
def legalOfmt (o : Nat) : Bool := [0, 1, 8, 9, 11, 12, 128, 129].contains o
/-- The first F_FORMAT of R106: the lowest bit of the offending field. -/
def State.descBad (s : State) (d : Nat) (roleB : Bool) : Option Nat :=
  let o := dOfmt d
  let cls := fld d 8 8
  let sg := fld d 9 9
  let am := fld d 81 80
  let ot := fld d 87 84
  let es := fld d 89 88
  let ks := fld d 111 96
  let pa := fld d 272 256
  let k := dK d
  let a (c : Bool) : Bool := !roleB && c
  ((if roleB then rsvB else rsvA).filterMap (fun r => if fld d r.1 r.2 ≠ 0 then some r.2 else none)).head?.or
  ([ (cls == 1 && sg == 1, 9), (!legalOfmt o, 0), (a (am == 3), 80), (a (es == 3), 88), (a (12 < ot), 84),
     (a (fld d 69 64 == 0 || 32 < fld d 69 64), 64), (a (fld d 77 72 == 0 || 32 < fld d 77 72), 72),
     (k == 0 || k % kMultiple o != 0, 16), (o < 128 && (cls == 1) != (8 ≤ o), 8), (o < 2 && (sg == 1) != (o == 0), 9),
     (a ((am == 0) != (cls == 1)), 80), (a (!([10, 8, 9, 4, 0, 1].contains ot)), 84),
     (a (es == 0 && ot != (if am = 0 then 10 else 4)), 84), (a (ks != 0 && (es != 0 || am == 2)), 96),
     (a (fld d 91 91 == 1 && (pa % 64 != 0 || Config.spadSize < pa + 4096 || s.touchesStacks s.curCore pa 4096)), 256)
   ].filterMap (fun c => if c.1 then some c.2 else none)).head?

/-- The links the acting context holds (R109). -/
def State.heldLinks (s : State) : List Nat :=
  (allDirs.filter (fun d =>
    let e := s.eng (linkId s.curCore d)
    (e.end_ (!isNear d)).holder s.meId)).map (linkId s.curCore)

/-- LKOPEN (R326). -/
def execLkopen (dst base : Reg) (d : Dir) (roleB : Bool) (disp : BitVec 16) (s : State) : Res :=
  .next (s.runOp [base] (some dst) (fun vs => s.linkChecks d .any (fun s l far =>
    let a := effAddr16 (vs.getD 0 0) disp
    match s.localSpan a 64 64 with
    | some f => eFault f a 0
    | none =>
      let desc := s.localNat a 64
      let e := s.eng l
      let x := e.end_ far
      let held := s.heldLinks
      if s.badIn (spad s.curCore a) 64 then eFault .memErr a 0
      else match s.descBad desc roleB with
        | some b => eFault .format a b
        | none =>
          if x.opened then eRefuse
          else if 2 ≤ held.length ∨ held.any (fun h => l ≤ h) then eFault .rzvOrder a (detailWord l far e.prod e.kdone 0)
          else s.withPend (.ok (fun s =>
            let tok := s.tok
            let y := (s.eng l).end_ (!far)
            let s := (s.modMe (fun c => c.addPend dst tok true)).newTok
            (if y.isOpen && ((s.eng l).formed || (y.fault.elim false (fun p => terminal p.code))) then
              -- R276: the old rendezvous still stands at the other end
              s.modEnd l far (fun x => { x with
                last := some s.meId
                heldOpen := some { ctx := s.meId, roleB := roleB, desc := desc, addr := a, tok := tok, feeds := [], cfgs := [], acks := [] } })
             else
              (s.modEnd l far (fun x => { x with
                isOpen := true, party := s.meId, last := some s.meId, roleB := roleB, desc := desc, addr := a, tok := some tok
                feeds := [], fed := 0 })).openEffect l far).advance)))))

/-! ### LKFEED (R325) -/

/-- Queue a feed at an end, or behind its held open. An A feed and a B feed of one cycle are numbered A first (R194). -/
def State.queueFeed (s : State) (l : Nat) (far : Bool) (f : Feed) : State :=
  let e := s.eng l
  let x := e.end_ far
  let roleB := x.heldOpen.elim x.roleB (·.roleB)
  let swap := !roleB && e.lastB == some (s.now, e.num)
  let n := if swap then e.num else e.num + 1
  let bump (y : EEnd) : EEnd := { y with
    feeds := y.feeds.map (fun g => if g.num = e.num then { g with num := e.num + 1 } else g)
    heldOpen := y.heldOpen.map (fun h => { h with feeds := h.feeds.map (fun g => if g.num = e.num then { g with num := e.num + 1 } else g) }) }
  let e := if swap then e.modEnd (!far) bump else e
  let f := { f with num := n }
  let e := e.modEnd far (fun x => match x.heldOpen with
    | some h => { x with heldOpen := some { h with feeds := h.feeds ++ [f] } }
    | none => { x with feeds := x.feeds ++ [f], fed := x.fed + f.count * dBlock x.desc })
  let e := { e with num := e.num + 1, lastB := if roleB then some (s.now, n) else none }
  (s.setEng l e).driveEng l 1

/-- LKFEED (R325). -/
def execLkfeed (d : Dir) (handle : BitVec 4) (base : Reg) (bdisp : BitVec 6) (stride : BitVec 12) (count : BitVec 16) (s : State) : Res :=
  .next (s.runOp [base] none (fun vs => s.linkChecks d .party (fun s l far =>
    let e := s.eng l
    let x := e.end_ far
    let desc := x.heldOpen.elim x.desc (·.desc)
    let queued := x.heldOpen.elim x.feeds (·.feeds)
    let b := (vs.getD 0 0 + BitVec.ofNat 64 (64 * bdisp.toNat)).toNat
    let st := 64 * stride.toNat
    let c := count.toNat
    let n := if dIsBlock desc then (c - 1) * 64 + 31 * st + 64 else (c - 1) * st + 64
    if !x.opened ∨ c = 0 then eRefuse
    else if b % 64 ≠ 0 then eFault .align b 0
    else if Config.spadSize < b + n ∨ s.touchesStacks s.curCore b n then eFault .bounds b 0
    else if e.formed ∧ x.heldOpen.isNone ∧ e.kLen * (e.pm1 + 1) < x.fed + c * dBlock desc then eFault .bounds b 0
    else if 4 ≤ queued.length then .wait (.feedQ d) id
    else .ok (fun s =>
      let f : Feed := { handle := handle.toNat, base := b, stride := st, count := c, pos := 0, num := 0, books := x.books,
                        gen := (s.core s.curCore).gen }
      let acks := s.me.barrier.map (fun t => (s.curCore, t))
      let s := s.modEng l (fun e =>
        if x.heldOpen.isSome then e.modEnd far (fun x => { x with heldOpen := x.heldOpen.map (fun h => { h with acks := h.acks ++ acks }) })
        else { e with acks := e.acks ++ acks })
      (s.queueFeed l far f).advance))))

/-! ### LKSPARSE (R129, R130, R327) -/

/-- M of an N:M code, and N. -/
def nmM (nm : Nat) : Nat := if nm = 2 then 8 else 4
def nmN (nm : Nat) : Nat := if nm = 0 then 1 else if nm = 1 then 2 else 4
/-- A nonzero T queued, or still able to take effect (R129). -/
def cfgActive (now : Nat) : List SpCfg → Bool
  | [] => false
  | c :: cs =>
    -- latest first
    c.t != 0 || (now < c.at_ + 8 && cfgActive now cs)
/-- The configurations of a side that are queued or may be in force, with the one a suspended engine will apply (R327). -/
def Engine.cfgs (e : Engine) (now : Nat) (sideB : Bool) : List SpCfg :=
  (if sideB then e.cfgB else e.cfgA)
    ++ ((e.spLater.filter (fun c => c.1 == sideB)).getLast?.map (fun c => { c.2 with at_ := now })).toList
/-- A side has a nonzero T in force or queued: a product whose pre-pass has begun keeps its term (R129, R130). -/
def Engine.sideActive (e : Engine) (now : Nat) (sideB : Bool) : Bool :=
  cfgActive now (e.cfgs now sideB).reverse
    || (e.formed && e.st != .done && [e.prod, e.prod + 1].any (fun q => match Table.get none e.sp q with
      | some (b, _) => b == sideB
      | none => false))
/-- Without the B configuration of cycle `now`, if there is one. -/
def Engine.dropB (e : Engine) (now : Nat) : Engine :=
  { e with
    cfgB := if e.cfgB.getLast?.any (fun c => c.at_ == now) then e.cfgB.dropLast else e.cfgB
    spLater := e.spLater.filter (fun c => !(c.1 && c.2.at_ == now)) }
/-- The B configuration of cycle `now`. -/
def Engine.lastB_ (e : Engine) (now : Nat) : Option SpCfg :=
  (e.cfgB ++ (e.spLater.filter (·.1)).map (·.2)).getLast?.filter (fun c => c.at_ == now)

/-- The B party's LKSPARSE of this cycle is refused after all (R130): F_ILLEGAL at its bundle, whose V slot takes no effect. -/
def State.refuseB (s : State) (l : Nat) (far : Bool) : State :=
  let e := s.eng l
  match (e.lastB_ s.now).filter (fun c => c.t != 0) with
  | some c =>
    let k := endCore l (!far)
    let n := (e.end_ (!far)).party % 16
    let s := s.setEng l (e.dropB s.now)
    let s := s.modCtx k n (fun x => match c.undo with
      | some (v, m, f) => { x with v := v, m := m, flags := f, pc := c.pc }
      | none => { x with pc := c.pc })
    { s.trap k n .illegal c.pc 0 (BitVec.ofNat 64 (0x0C + 256)) with noEffect := s.noEffect }
  | none => s

/-- LKSPARSE. -/
def execLksparse (d : Dir) (c : SparseCfg) (bound : Option Reg) (s : State) : Res :=
  .next (s.runOp bound.toList none (fun vs => s.linkChecks d .party (fun s l far =>
    let e := s.eng l
    let x := e.end_ far
    let roleB := x.heldOpen.elim x.roleB (·.roleB)
    let desc := x.heldOpen.elim x.desc (·.desc)
    let b : BitVec 32 := BitVec.ofNat 32 (vs.getD 0 0).toNat
    let bn := dec32 b.toNat
    let other := !c.sideB
    -- a B configuration of this very cycle gives way to the A party's
    let active := (if c.sideB then e else e.dropB s.now).sideActive s.now other
    if !x.opened ∨ c.sideB ≠ roleB then eRefuse
    else if c.t ≠ 0 ∧ x.heldOpen.isNone ∧ active then eRefuse
    else if c.t ≠ 0 ∧ c.mode = 2 ∧ (bn = .nan ∨ (numIsNeg bn && !numIsZero bn)) then eFault .format 0 0
    else if c.t ≠ 0 ∧ (dK desc % nmM c.nm.toNat ≠ 0 ∨ (!roleB && fld desc 111 96 != 0)
        ∨ (roleB && e.formed && x.heldOpen.isNone && e.kspl != 0)) then eFault .format 0 0
    else .ok (fun s =>
      let cfg : SpCfg := { t := c.t.toNat, nm := c.nm.toNat, mode := c.mode.toNat, bound := b, at_ := s.now, pc := s.me.pc,
                           undo := if c.sideB then some (s.me.v, s.me.m, s.me.flags) else none }
      let s := if !c.sideB && c.t != 0 && x.heldOpen.isNone then s.refuseB l far else s
      (s.modEng l (fun e =>
        if x.heldOpen.isSome then e.modEnd far (fun x => { x with heldOpen := x.heldOpen.map (fun h => { h with cfgs := h.cfgs ++ [cfg] }) })
        else if e.st = .suspended then { e with spLater := e.spLater ++ [(c.sideB, cfg)] }
        else if c.sideB then { e with cfgB := e.cfgB ++ [cfg] } else { e with cfgA := e.cfgA ++ [cfg] })).advance))))

/-! ### LKDRAIN, LKCLOSE, LKSTAT, LKWAIT (R323, R324, R328, R329) -/

/-- The rsv fields among bits <255:128> of a descriptor, as they stand in those bits. -/
def rsvRecv : List (Nat × Nat) := [(147, 145), (191, 178), (223, 209)]
/-- LKDRAIN. -/
def execLkdrain (d : Dir) (f : DrainForm) (s : State) : Res :=
  let srcs : List Reg := match f with
    | .now => []
    | .redrain b _ => [b]
  .next (s.runOp srcs none (fun vs => s.linkChecks d .party (fun s l far =>
    let e := s.eng l
    let x := e.end_ far
    if !x.isOpen ∨ x.roleB then eRefuse
    else if e.st = .suspended then .wait (.restored d) id
    else
      let acks (s : State) : State := s.modEng l (fun e => { e with acks := e.acks ++ s.me.barrier.map (fun t => (s.curCore, t)) })
      match f with
      | .now =>
        if e.st ≠ .running then eRefuse
        else .ok (fun s =>
          ((((acks s).modEng l (fun e => { e with num := e.num + 1, copies := e.copies ++ [e.num + 1] })).schedOnce 1 (.kStep l))).advance)
      | .redrain _ disp =>
        let a := effAddr16 (vs.getD 0 0) disp
        match s.localSpan a 64 64 with
        | some f => eFault f a 0
        | none =>
          if e.heldTile.isNone then eRefuse
          else if s.badIn (spad s.curCore a) 64 then eFault .memErr a 0
          else
            let desc := s.localNat a 64
            match (rsvRecv.filter (fun r => fld desc r.1 r.2 != 0)).head? with
            | some r => eFault .format a r.2
            | none => .ok (fun s =>
                let s := (acks s).modEng l (fun e => { e with
                  recv := fld desc 255 128
                  drains := e.heldTile.toList.map (fun h => { h with due := s.now }) ++ e.drains
                  heldTile := none, st := e.back })
                (s.driveEng l 1).advance))))

/-- LKCLOSE. -/
def execLkclose (d : Dir) (s : State) : Res :=
  .next (s.runOp [] none (fun _ => s.linkChecks d .lastParty (fun _ l far => .ok (fun s =>
    let e := s.eng l
    let x := e.end_ far
    (match x.heldOpen with
     | some h =>
       let s := s.complete s.curCore (h.ctx % 16) h.tok (BitVec.ofNat 64 (s.statusWord l far 0))
       let e := h.feeds.foldl (fun (e : Engine) (f : Feed) => e.numDone f.num) (s.eng l)
       (s.setEng l (e.modEnd far (fun x => { x with heldOpen := none }))).settle l
     | none =>
       if !x.isOpen then s
       else match e.st with
         | .dormant | .waking =>
           let e := e.dropFeeds far
           let e := { e with formed := false, cfgA := if x.roleB then e.cfgA else [], cfgB := if x.roleB then [] else e.cfgB }
           (s.setEng l (e.modEnd far (fun x => { x with fed := 0 }))).closeEnd l far
         | .openPending => (s.setEng l (e.dropFeeds far)).closeEnd l far
         | .ready | .running | .draining | .faulted => (s.breakRzv l far).closeEnd l far
         | .suspended =>
           -- the record goes at its team's resume (R254); once both ends have closed there is none
           let s := (s.setEng l { e.dropFeeds far with broken := true }).closeEnd l far
           if (s.eng l).near.isOpen ∨ (s.eng l).far.isOpen ∨ s.recordStands l then s else s.modEng l (fun e => { e with broken := false })
         | .done | .idle => s.closeEnd l far).advance))))

/-- LKSTAT. -/
def execLkstat (dst : Reg) (d : Dir) (word : Fin 3) (s : State) : Res :=
  .next (s.runOp [] (some dst) (fun _ => s.linkChecks d .any (fun _ l far =>
    .ok (fun s => (s.put dst (BitVec.ofNat 64 (s.statusWord l far word.val))).advance))))

/-- Whether LKWAIT's condition holds. -/
def Engine.lkHolds (e : Engine) (c : LkCond) (prods : Nat) : Bool :=
  match c with
  | .done => e.st == .done
  | .ready => e.st == .ready || e.st == .running || e.st == .draining || e.st == .done
  | .prod => e.prods % 2 ^ 16 != prods && e.st != .suspended
  | .idle => e.st == .dormant || e.st == .idle
/-- LKWAIT. -/
def execLkwait (d : Dir) (c : LkCond) (s : State) : Res :=
  .next (s.runOp [] none (fun _ => s.linkChecks d .any (fun s l far =>
    let e := s.eng l
    let x := e.end_ far
    let rec_ := s.me.prodRec.getD (e.prods % 2 ^ 16, x.opened)
    if e.lkHolds c rec_.1 then .ok State.advance
    else if s.me.prodRec.isSome && !x.holder s.meId && (x.fault.isSome || (rec_.2 && !x.opened)) then .ok State.advance
    else if !x.opened ∧ c ≠ .idle then eRefuse
    else .wait (.lk d c rec_.1) (fun s => s.modMe (fun m => { m with prodRec := some rec_ })))))

/-! ### CBLOAD and EPLOAD (R292, R305) -/

/-- EngineLoad of the bytes `w`: `apply` acts at once, in the wake cycle for a waking engine, whose slots nothing reads before; while the
engine is suspended the context parks with them. (DEDUCED, log entry 34.) -/
def State.engineLoad (s : State) (d : Dir) (w : Nat) (apply : State → Nat → Bool → State) : Eff :=
  s.linkChecks d .partyOrClosed (fun s l _ =>
    match (s.eng l).st with
    | .dormant => eRefuse
    | .suspended => .wait (.restored d) (fun s => s.modMe (fun x => { x with image := some w }))
    | _ => .ok (fun s => (apply s l (!isNear d)).advance))

/-- `n` bytes read at issue: a load that parked while its engine was suspended keeps what it read (R292, R305). -/
def State.withImage (s : State) (a n al : Nat) (k : Nat → Eff) : Eff :=
  match s.me.image with
  | some w => k w
  | none => s.withLocal a n al k
/-- CBLOAD. -/
def execCbload (d : Dir) (slot : BitVec 3) (base : Reg) (disp : BitVec 16) (s : State) : Res :=
  .next (s.runOp [base] none (fun vs =>
    s.withImage (effAddr16 (vs.getD 0 0) disp) 32 32 (fun w =>
      let book := (List.range 16).map (fun k => BitVec.ofNat 16 (w / 2 ^ (16 * k)))
      s.engineLoad d w (fun s l far => s.modEnd l far (fun x => { x with books := x.books.set slot.toNat book })))))

/-- An image that R146 allows: legal words up to the end, one EWR among them, a plain EEND, and zeros after it. -/
def imageWords : Nat → List Nat → Nat → Bool
  | _, [], ewr => ewr == 1
  | pos, w :: ws, ewr =>
    if w % 64 = 0 then w == 0 && ws.all (· == 0) && ewr == 1
    else (decodeEpi w).isSome && imageWords (pos + 1) ws (ewr + (if w % 64 = 0x0F then 1 else 0))
def imageOk (img : Nat) : Bool := imageWords 0 ((List.range 32).map (fun k => img / 2 ^ (32 * k) % 2 ^ 32)) 0

/-- EPLOAD: drains that begin 8 or more cycles later use it (R114). -/
def execEpload (d : Dir) (slot : Bool) (base : Reg) (disp : BitVec 16) (s : State) : Res :=
  .next (s.runOp [base] none (fun vs =>
    s.withImage (effAddr16 (vs.getD 0 0) disp) 640 64 (fun img =>
      if !imageOk img then eRefuse
      else s.engineLoad d img (fun s l _ => s.modEng l (fun e =>
        if e.st = .waking then { e with ep := e.ep.set slot.toNat (leBytes 640 img) }
        else { e with epLater := e.epLater ++ [(s.now + 8, slot.toNat, leBytes 640 img)] })))))

/-! ### Chainage (R194, R195, R293, R294) -/

/-- The counter that sel names. -/
def State.counter (s : State) (c sel : Nat) : Nat :=
  if sel = 0 then (s.core c).copyCtr
  else if sel < 8 then
    (match s.teamOf c with
     | some (_, t) => ((t.scheds[sel - 4]?).map (·.ctr)).getD 0
     | none => 0)
  else
    let e := s.eng (linkId c (dirOf (sel - 8)))
    if e.st = .dormant then 0 else e.ctr
/-- The numbers a copy context, or a declared schedule, has assigned; none where R195 sets no bound. (DEDUCED, log entry 26.) -/
def State.assigned (s : State) (c sel : Nat) : Option Nat :=
  if sel = 0 then some (s.core c).copyNum
  else if sel < 8 then
    (match s.teamOf c with
     | some (_, t) => ((t.lr.sch[sel - 4]?).map (·.length))
     | none => none)
  else none

/-- CHREAD. -/
def execChread (dst : Reg) (sel : BitVec 4) (s : State) : Res :=
  .next (s.runPut [] dst (fun _ => BitVec.ofNat 64 (s.counter s.curCore sel.toNat)))

/-- CHWAIT. -/
def execChwait (sel : BitVec 4) (src : Reg) (s : State) : Res :=
  .next (s.runOp [src] none (fun vs =>
    let n := (vs.getD 0 0).toNat
    let k := sel.toNat
    let c := s.curCore
    let go : Eff :=
      if n ≤ s.counter c k then .ok (fun s => (s.acquire c (.ch k)).advance) else .wait (.counter k n) id
    if k < 8 then
      (match s.assigned c k with
       | none => eRefuse
       | some m => if m < n then eRefuse else go)
    else
      let d := dirOf (k - 8)
      let l := linkId c d
      let far := !isNear d
      let e := s.eng l
      match (e.end_ far).fault.filter (fun p => p.ctx == s.meId && terminal p.code) with
      | some p => .deliver (fun s => s.delivered l far p) p.code (BitVec.ofNat 64 p.addr) (BitVec.ofNat 64 (p.detail l far))
      | none =>
        if e.st = .dormant ∧ 0 < n then eRefuse else if e.st = .suspended then .wait (.counter k n) id else go))

end Sys2Proof.Machine
end

