-- ==== Sys2Proof/Machine/Vector.lean ====
section
/-! DEFINITION. Meanings of the V-slot operations (R10, R360 to R380). A V operation reads and writes only the acting context's
vectors, masks and flags; the S operation of its bundle moves the pc. -/

namespace Sys2Proof.Machine

/-- The lanes of a vector, lane 0 first, and the vector of lanes. -/
def lanesOf (w : Nat) (v : VWord) : List Nat := (List.range (256 / w)).map (fun j => v.toNat / 2 ^ (w * j) % 2 ^ w)
def packLanes (w : Nat) : List Nat → Nat
  | [] => 0
  | x :: xs => x % 2 ^ w + 2 ^ w * packLanes w xs
def vecOf (w : Nat) (l : List Nat) : VWord := BitVec.ofNat 256 (packLanes w l)

/-- The mask's bits over bytes, as 256 bits (R10). -/
def byteMask (m : Lane) : VWord := BitVec.ofNat 256 (packLanes 8 ((List.range 32).map (fun j => if bit m.toNat j then 255 else 0)))
/-- New bytes where the mask selects, old bytes elsewhere. -/
def mergeBytes (m : Lane) (old new : VWord) : VWord := (new &&& byteMask m) ||| (old &&& ~~~(byteMask m))
/-- Whether any byte of lane `j` of width `w` is written. -/
def laneOn (w : Nat) (m : Lane) (j : Nat) : Bool := m.toNat / 2 ^ (w / 8 * j) % 2 ^ (w / 8) != 0
/-- The flags of the lanes with a written byte (R360). -/
def laneFlags (w : Nat) (m : Lane) (fs : List Flags) : Flags :=
  flagsAll ((fs.zip (List.range fs.length)).map (fun p => if laneOn w m p.2 then p.1 else Flags.zero))

/-- Write result lanes under the mask, with their flags. -/
def Ctx.vPut (x : Ctx) (w : Nat) (vd : Fin 16) (mask : Fin 8) (r : List (Nat × Flags)) : Ctx :=
  let m := x.readM mask
  (x.writeV vd (mergeBytes m (x.readV vd) (vecOf w (r.map (·.1))))).raise (laneFlags w m (r.map (·.2)))
/-- Write result lanes that raise no flag. -/
def Ctx.vPutPlain (x : Ctx) (w : Nat) (vd : Fin 16) (mask : Fin 8) (r : List Nat) : Ctx :=
  x.writeV vd (mergeBytes (x.readM mask) (x.readV vd) (vecOf w r))

/-- The lanes of the b operand: a vector, or a scalar in every lane (R360). -/
def Ctx.vbLanes (x : Ctx) (w : Nat) : VSrc → List Nat
  | .v n => lanesOf w (x.readV n)
  | .o n => List.replicate (256 / w) ((Table.get 0 x.o n.val).toNat % 2 ^ w)
def Ctx.vLanes (x : Ctx) (w : Nat) (n : Fin 16) : List Nat := lanesOf w (x.readV n)

/-- Zip three lists with a function. -/
def map3 {α : Type} (f : Nat → Nat → Nat → α) : List Nat → List Nat → List Nat → List α
  | a :: as, b :: bs, d :: ds => f a b d :: map3 f as bs ds
  | _, _, _ => []

/-- The integer value of a lane of a type. -/
def laneInt (t : Ty) (x : Nat) : Int := if t.signed then sgn t.width x else ((x : Nat) : Int)
/-- An integer result: wrapped, or clamped (R360). -/
def intResult (t : Ty) (sat : Bool) (r : Int) : Nat := unsgn t.width (if sat then clampTy t r else r)

/-- A three-operand lane operation: an exact integer function and a float function. -/
def Ctx.vArith (x : Ctx) (o : VOps) (sat : Bool) (fi : Int → Int → Int → Int) (ff : Fmt → Nat → Nat → Nat → Nat × Flags) : Ctx :=
  let w := o.ty.width
  let f (a b d : Nat) : Nat × Flags :=
    match fmtOf o.ty with
    | some fm => ff fm a b d
    | none => (intResult o.ty sat (fi (laneInt o.ty a) (laneInt o.ty b) (laneInt o.ty d)), Flags.zero)
  x.vPut w o.vd o.mask (map3 f (x.vLanes w o.va) (x.vbLanes w o.vb) (x.vLanes w o.vd))

/-- Run a V operation on the acting context. -/
def State.vRun (s : State) (f : Ctx → Ctx) : State := s.modMe f

def execVnop (s : State) : Res := .next s
def execVadd (sat : Bool) (x : VOps) (s : State) : Res :=
  .next (s.vRun (fun c => c.vArith x sat (fun a b _ => a + b) (fun f a b _ => f.add (f.decode a) (f.decode b))))
def execVsub (sat : Bool) (x : VOps) (s : State) : Res :=
  .next (s.vRun (fun c => c.vArith x sat (fun a b _ => a - b) (fun f a b _ => f.add (f.decode a) (numNeg (f.decode b)))))
def execVmul (x : VOps) (s : State) : Res :=
  .next (s.vRun (fun c => c.vArith x false (fun a b _ => a * b) (fun f a b _ => f.mul (f.decode a) (f.decode b))))
def execVfma (x : VOps) (s : State) : Res :=
  .next (s.vRun (fun c => c.vArith x false (fun a b d => a * b + d) (fun f a b d => f.fma (f.decode a) (f.decode b) (f.decode d))))
def execVmad (x : VOps) (s : State) : Res :=
  .next (s.vRun (fun c => c.vArith x false (fun a b d => d * a + b) (fun f a b d => f.fma (f.decode d) (f.decode a) (f.decode b))))
def execVmin (x : VOps) (s : State) : Res :=
  .next (s.vRun (fun c => c.vArith x false (fun a b _ => Min.min a b) (fun f a b _ => (f.pickMin a b, Flags.zero))))
def execVmax (x : VOps) (s : State) : Res :=
  .next (s.vRun (fun c => c.vArith x false (fun a b _ => Max.max a b) (fun f a b _ => (f.pickMax a b, Flags.zero))))

/-- VABS and VNEG (R361): a NaN gives the canonical NaN, any other float changes only its sign bit. -/
def Ctx.vSign (x : Ctx) (o : VUnOps) (sat : Bool) (fi : Int → Int) (neg : Bool → Bool) : Ctx :=
  let w := o.ty.width
  let f (a : Nat) : Nat :=
    match fmtOf o.ty with
    | some fm => if fm.decode a = .nan then fm.nan else fm.signBit (neg (bit a (w - 1))) + a % 2 ^ (w - 1)
    | none => intResult o.ty sat (fi (laneInt o.ty a))
  x.vPutPlain w o.vd o.mask ((x.vLanes w o.va).map f)
def execVabs (sat : Bool) (x : VUnOps) (s : State) : Res :=
  .next (s.vRun (fun c => c.vSign x sat (fun a => if a < 0 then -a else a) (fun _ => false)))
def execVneg (sat : Bool) (x : VUnOps) (s : State) : Res :=
  .next (s.vRun (fun c => c.vSign x sat (fun a => -a) (fun b => !b)))

/-- VLTAB (R367). -/
def execVltab (vd va vb : Fin 16) (mask : Fin 8) (tbl : BitVec 8) (s : State) : Res :=
  .next (s.vRun (fun c => c.vPutPlain 256 vd mask
    [tableBits 256 tbl.toNat (c.readV vd).toNat (c.readV va).toNat (c.readV vb).toNat]))

/-- A lane shift (R378): the amount is an immediate, or a lane taken mod W. -/
def Ctx.vShift (x : Ctx) (t : Ty) (vd va : Fin 16) (amt : VAmt) (mask : Fin 8) (f : Nat → Nat → Nat) : Ctx :=
  let w := t.width
  let amts := match amt with
    | .imm k => List.replicate (256 / w) k.toNat
    | .src b => (x.vbLanes w b).map (· % w)
  x.vPutPlain w vd mask (List.zipWith f (x.vLanes w va) amts)
def execVshl (ty : Ty) (vd va : Fin 16) (amt : VAmt) (mask : Fin 8) (s : State) : Res :=
  .next (s.vRun (fun c => c.vShift ty vd va amt mask (fun a k => a * 2 ^ k % 2 ^ ty.width)))
def execVshr (ty : Ty) (vd va : Fin 16) (amt : VAmt) (mask : Fin 8) (s : State) : Res :=
  .next (s.vRun (fun c => c.vShift ty vd va amt mask (fun a k => a / 2 ^ k)))
def execVsra (ty : Ty) (vd va : Fin 16) (amt : VAmt) (mask : Fin 8) (s : State) : Res :=
  .next (s.vRun (fun c => c.vShift ty vd va amt mask (fun a k => unsgn ty.width (sgn ty.width a / (2 ^ k : Nat)))))

/-- VFSH (R367). -/
def execVfsh (ty : Ty) (vd va vb : Fin 16) (mask : Fin 8) (sh : BitVec 6) (s : State) : Res :=
  let w := ty.width
  .next (s.vRun (fun c => c.vPutPlain w vd mask
    (List.zipWith (fun a b => (a * 2 ^ w + b) / 2 ^ sh.toNat % 2 ^ w) (c.vLanes w va) (c.vLanes w vb))))

/-- A condition on float encodings: ne holds for a NaN, the others fail (R363). -/
def condFloat (f : Fmt) (k : Cond) (a b : Nat) : Bool :=
  let x := f.decode a
  let y := f.decode b
  if x = .nan ∨ y = .nan then k == .ne else condInt k (numCmp x y) 0

/-- Write mask bits under the guarding mask. -/
def Ctx.mPut (x : Ctx) (md mask : Fin 8) (r : Lane) : Ctx :=
  let g := x.readM mask
  x.writeM md ((r &&& g) ||| (x.readM md &&& ~~~g))

/-- VCMP (R363). -/
def execVcmp (c : Cond) (ty : Ty) (md : Fin 8) (va : Fin 16) (vb : VSrc) (mask : Fin 8) (s : State) : Res :=
  let w := ty.width
  let f (a b : Nat) : Nat :=
    let r := match fmtOf ty with
      | some fm => condFloat fm c a b
      | none => condInt c (laneInt ty a) (laneInt ty b)
    if r then 2 ^ (w / 8) - 1 else 0
  .next (s.vRun (fun x => x.mPut md mask (BitVec.ofNat 32 (packLanes (w / 8) (List.zipWith f (x.vLanes w va) (x.vbLanes w vb))))))

/-- VSEL: the mask selects, and every byte is written (R377). -/
def execVsel (vd va vb : Fin 16) (mask : Fin 8) (s : State) : Res :=
  .next (s.vRun (fun c => c.writeV vd (mergeBytes (c.readM mask) (c.readV vb) (c.readV va))))

/-- VMASK (R369). -/
def execVmask (md ma : Fin 8) (mb : Sum (Fin 8) (Fin 8)) (mask : Fin 8) (tbl : BitVec 4) (s : State) : Res :=
  .next (s.vRun (fun c =>
    let a := (c.readM ma).toNat
    let b := match mb with
      | .inl k => (c.readM k).toNat
      | .inr n => (Table.get 0 c.o n.val).toNat
    c.mPut md mask (BitVec.ofNat 32 (ofBits (fun j => bit tbl.toNat (2 * (bit a j).toNat + (bit b j).toNat)) 32))))

/-- VCVT (R364): the lanes outside the part keep their bytes and contribute no flags. -/
def execVcvt (td : Ty) (vd va : Fin 16) (mask : Fin 8) (ts : Ty) (rm : Rm) (sat : Bool) (part : BitVec 3) (s : State) : Res :=
  let ls := ts.lanes
  let ld := td.lanes
  let n := if ls ≤ ld then ls else ld
  .next (s.vRun (fun c =>
    let src := c.vLanes ts.width va
    let lo := if ls < ld then part.toNat * n else 0
    let r := (List.zip (c.vLanes td.width vd) (List.range ld)).map (fun p =>
      if lo ≤ p.2 ∧ p.2 < lo + n then
        convertTy ts td rm sat (src.getD (if ld < ls then part.toNat * n + (p.2 - lo) else p.2 - lo) 0)
      else (p.1, Flags.zero))
    c.vPut td.width vd mask r))

/-- Consecutive groups of `k`. -/
def groups (k : Nat) (l : List Nat) : List (List Nat) :=
  (List.range (l.length / k)).map (fun j => (l.drop (k * j)).take k)

/-- VDOT (R365): the b operand's scalar is 32 bits. -/
def execVdot (su : Bool) (x : VOps) (s : State) : Res :=
  let w := x.ty.width
  let tb : Ty := if su then .n8 else x.ty
  .next (s.vRun (fun c =>
    let bs := (c.vbLanes 32 x.vb).flatMap (fun g => (List.range (32 / w)).map (fun q => g / 2 ^ (w * q) % 2 ^ w))
    let f (ab : List Nat × List Nat) (d : Nat) : Nat × Flags :=
      match fmtOf x.ty with
      | some fm =>
        let as' := ab.1.map fm.decode
        let bs' := ab.2.map fm.decode
        fp32.result (dec32 d :: (as' ++ bs')) (numSum .rne (dec32 d :: List.zipWith numMul as' bs'))
      | none =>
        (unsgn 32 ((List.zipWith (fun a b => laneInt x.ty a * laneInt tb b) ab.1 ab.2).foldl (· + ·) (sgn 32 d)), Flags.zero)
    c.vPut 32 x.vd x.mask
      (List.zipWith f (List.zip (groups (32 / w) (c.vLanes w x.va)) (groups (32 / w) bs)) (c.vLanes 32 x.vd))))

/-- The fixed-point multiply of VQMUL and EQMUL (R142, R372). -/
def qmul (w a b : Nat) : Nat :=
  if a = 2 ^ (w - 1) ∧ b = 2 ^ (w - 1) then 2 ^ (w - 1) - 1
  else unsgn w ((2 * sgn w a * sgn w b + (2 ^ (w - 1) : Nat)) / (2 ^ w : Nat))
def execVqmul (x : VOps) (s : State) : Res :=
  let w := x.ty.width
  .next (s.vRun (fun c => c.vPutPlain w x.vd x.mask (List.zipWith (qmul w) (c.vLanes w x.va) (c.vbLanes w x.vb))))

/-- One combination of VREDUCE and VSCAN (R374, R376). -/
def combine (t : Ty) (op : RedKind) (a b : Nat) : Nat × Flags :=
  match fmtOf t with
  | some f =>
    (match op with
     | .add => f.add (f.decode a) (f.decode b)
     | .min => (f.pickMin a b, Flags.zero)
     | .max => (f.pickMax a b, Flags.zero))
  | none =>
    (match op with
     | .add => ((a + b) % 2 ^ t.width, Flags.zero)
     | .min => (if laneInt t b < laneInt t a then b else a, Flags.zero)
     | .max => (if laneInt t a < laneInt t b then b else a, Flags.zero))

/-- One level of the pairwise tree (R58). -/
def reduceLevel (t : Ty) (op : RedKind) : List Nat → List Nat × Flags
  | a :: b :: rest =>
    let r := combine t op a b
    let q := reduceLevel t op rest
    (r.1 :: q.1, flagsOr r.2 q.2)
  | l => (l, Flags.zero)
def reduceTree (t : Ty) (op : RedKind) : Nat → List Nat → Flags → Nat × Flags
  | 0, l, f => (l.headD 0, f)
  | n + 1, l, f =>
    match l with
    | [a] => (a, f)
    | _ => let r := reduceLevel t op l; reduceTree t op n r.1 (flagsOr f r.2)

/-- VREDUCE (R374). -/
def execVreduce (op : RedKind) (x : VUnOps) (s : State) : Res :=
  let w := x.ty.width
  .next (s.vRun (fun c =>
    c.vPut w x.vd x.mask (reduceTree x.ty op 6 (c.vLanes w x.va) Flags.zero :: List.replicate (x.ty.lanes - 1) (0, Flags.zero))))

/-- The identity of a scan (R376). -/
def scanIdentity (t : Ty) (op : RedKind) : Nat :=
  match fmtOf t, op with
  | some f, .add => f.signBit true
  | some f, .min => f.inf false
  | some f, .max => f.inf true
  | none, .add => 0
  | none, .min => unsgn t.width (tyMax t)
  | none, .max => unsgn t.width (tyMin t)
def scanFrom (t : Ty) (op : RedKind) (ex : Bool) (head : Nat → Bool) : Nat → Nat → List Nat → List (Nat × Flags)
  | _, _, [] => []
  | j, run, a :: as =>
    let run := if head j then scanIdentity t op else run
    let r := combine t op run a
    (if ex then run else r.1, r.2) :: scanFrom t op ex head (j + 1) r.1 as

/-- VSCAN (R376). -/
def execVscan (op : RedKind) (ex : Bool) (hm : Fin 8) (x : VUnOps) (s : State) : Res :=
  let w := x.ty.width
  .next (s.vRun (fun c =>
    let head (j : Nat) : Bool := hm.val != 0 && bit (c.readM hm).toNat (w / 8 * j)
    c.vPut w x.vd x.mask (scanFrom x.ty op ex head 0 (scanIdentity x.ty op) (c.vLanes w x.va))))

/-- VPERM (R367). -/
def execVperm (ty : Ty) (vd va vb : Fin 16) (mask : Fin 8) (s : State) : Res :=
  let w := ty.width
  .next (s.vRun (fun c =>
    let as' := c.vLanes w va
    c.vPutPlain w vd mask ((c.vLanes w vb).map (fun b => as'.getD (b % ty.lanes) 0))))

/-- VBCAST (R362). -/
def execVbcast (ty : Ty) (vd : Fin 16) (src : BcSrc) (mask : Fin 8) (s : State) : Res :=
  let w := ty.width
  .next (s.vRun (fun c =>
    let v := match src with
      | .lane va k => (c.vLanes w va).getD k.toNat 0
      | .o n => (Table.get 0 c.o n.val).toNat % 2 ^ w
    c.vPutPlain w vd mask (List.replicate ty.lanes v)))

/-- VPOPC (R371). -/
def execVpopc (x : VUnOps) (s : State) : Res :=
  let w := x.ty.width
  .next (s.vRun (fun c => c.vPutPlain w x.vd x.mask ((c.vLanes w x.va).map (popCount w))))

/-- VRCP, VRSQ and VEXP2 over .f32 lanes (R366, R373, R375). -/
def execVrcp (vd va : Fin 16) (mask : Fin 8) (s : State) : Res :=
  .next (s.vRun (fun c => c.vPut 32 vd mask ((c.vLanes 32 va).map vrcpLane)))
def execVrsq (vd va : Fin 16) (mask : Fin 8) (s : State) : Res :=
  .next (s.vRun (fun c => c.vPut 32 vd mask ((c.vLanes 32 va).map vrsqLane)))
def execVexp2 (vd va : Fin 16) (mask : Fin 8) (s : State) : Res :=
  .next (s.vRun (fun c => c.vPut 32 vd mask ((c.vLanes 32 va).map vexp2Lane)))

end Sys2Proof.Machine
end

