-- ==== Sys2Proof/Machine/Epilogue.lean ====
section
/-! DEFINITION. Meanings of the epilogue operations (R137 to R147), and the row's way from the tile to the drain path (R117). -/

namespace Sys2Proof.Machine

/-! ### The drain path -/

/-- The receiver fields, as bits of `recv` (R104). -/
def Engine.raddr (e : Engine) (p row : Nat) : Int := (fld e.recv 16 0 : Int) + p * sgn 32 (fld e.recv 127 96) + row * fld e.recv 47 32
def Engine.recvCore (e : Engine) : Nat := coreAt (fld e.recv 31 30) (fld e.recv 24 20) (fld e.recv 29 25)
/-- Accumulate-on-write: by wmode, and always under K-split (R119). -/
def Engine.accType (e : Engine) : Option AccTy :=
  if fld e.recv 48 48 = 0 ∧ e.kspl = 0 then none
  else if e.otype = 4 then some .i32 else if e.otype = 8 then some .f16 else some .f32

/-- Replace the drain that passes its rows. -/
def Engine.modPassing (e : Engine) (f : Drain → Drain) : Engine :=
  match e.passing with
  | none => e
  | some d => { e with drains := e.drains.map (fun x => if x.num = d.num then f x else x) }

/-- Hand the row in progress to the drain path, `w` cycles after it entered the program: the state, and the cycles the path held it
(R117, R118, R144, R147). -/
def State.handRow (s : State) (l w : Nat) (lanes : List Lane) : State × Nat :=
  let e := s.eng l
  match e.passing with
  | none => (s, 0)
  | some d =>
    let eb := otypeBytes e.otype
    let n := e.colsN * eb
    let r : RowWrite :=
      { link := l, core := e.recvCore, off := (e.raddr d.prod d.row).toNat
        bytes := (lanes.take e.colsN).flatMap (fun v => leBytes eb v.toNat)
        acc := e.accType, dw := if fld e.recv 49 49 = 1 then some (fld e.recv 80 64) else none
        last := d.row + 1 == e.rows, num := d.num }
    let ready := s.now + w
    let near := r.core = linkNear l ∨ r.core = linkFar l
    let hand := Nat.max ready (if near then e.path / 64 else (e.path + 63) / 64)
    let path := Nat.max e.path (hand * 64) + (if near then n else 96 * flitsOf n)
    let a := endCore l e.aFar
    -- a program's row that the path cannot accept holds the epilogue, and a lockstep group with it
    let held := d.image.isSome ∧ ready < hand
    let s := s.modEng l (fun e => { e with path := path, press := if held then some (ready, hand) else e.press })
    let s := if near then s.sched ((path - 1) / 64 + 8 - s.now) (.drainRowWrite r)
      else
        -- the packet enters the router when its row has been transferred
        s.sched ((path - 1) / 64 - s.now) (.writeResend
          { cls := .data, src := a, dst := r.core, flits := flitsOf n, prio := s.pktPrio a, ctx := 0, tok := 0, wait := 0, body := .row r })
    (if held then (s.driveEng l 1).sched (hand - s.now) (.kStep l) else s, hand - ready)

/-- A row has passed: the next, of this drain or the next one, enters `gap` cycles after it (R147). -/
def State.finishRow (s : State) (l gap : Nat) : State :=
  let s := s.modEng l (fun e => { e.modPassing (fun d => { d with row := d.row + 1 }) with rowAt := s.now + gap })
  if (s.eng l).passing.isSome then s.sched gap (.epilogueRow l) else s.driveEng l 1

/-- Row `m` of a tile. -/
def tileRow (t : List Lane) (m : Nat) : List Lane := (List.range 32).map (fun n => (t.drop (32 * m)).getD n 0)

/-- EPILOGUE_ROW: the row enters the program, or is written unchanged when eslot is 0 (R117, R137); in an engine that stands, later. -/
def execEpilogueRow (link : Nat) (s : State) : Res :=
  let e := s.eng link
  .next (match e.passing with
    | none => s
    | some d =>
      if e.runs && e.standing s.now then s.schedOnce 1 (.epilogueRow link)
      else if s.now < e.rowAt then s.schedOnce (e.rowAt - s.now) (.epilogueRow link) else
      match d.image with
      | some _ => { s with epi := some { link := link, word := 0, e := List.replicate 6 (List.replicate 32 0), stall := 0 } }
      | none =>
        let r := s.handRow link 0 (tileRow d.tile d.row)
        r.1.finishRow link r.2)

/-! ### The program -/

def zeroRow : List Lane := List.replicate 32 0
/-- The drain whose row is in progress. -/
def State.epiDrain (s : State) : Option Drain := s.epi.elim none (fun r => (s.eng r.link).passing)
/-- A source of 32 lanes (R138). -/
def State.epiSrc (s : State) : ESrc → List Lane
  | .e n => s.epi.elim zeroRow (fun r => r.e.getD n.val zeroRow)
  | .acc => s.epiDrain.elim zeroRow (fun d => tileRow d.tile d.row)
  | .z => zeroRow
/-- Write a register and go on to the next word. -/
def State.epiPut (s : State) (d : Fin 6) (lanes : List Lane) : State :=
  { s with epi := s.epi.map (fun r => { r with word := r.word + 1, e := setAt r.e d.val lanes }) }

/-- Lane-wise operations of one, two and three sources. -/
def State.epi1 (s : State) (d : Fin 6) (a : ESrc) (f : Nat → Nat) : State :=
  s.epiPut d ((s.epiSrc a).map (fun x => BitVec.ofNat 32 (f x.toNat)))
def State.epi2 (s : State) (d : Fin 6) (a b : ESrc) (f : Nat → Nat → Nat) : State :=
  s.epiPut d (List.zipWith (fun x y => BitVec.ofNat 32 (f x.toNat y.toNat)) (s.epiSrc a) (s.epiSrc b))
def State.epi3 (s : State) (d : Fin 6) (a b c : ESrc) (f : Nat → Nat → Nat → Nat) : State :=
  s.epiPut d (List.zipWith (fun x (y : Lane × Lane) => BitVec.ofNat 32 (f x.toNat y.1.toNat y.2.toNat)) (s.epiSrc a)
    ((s.epiSrc b).zip (s.epiSrc c)))

/-- EEND (R137): the row's program ends. It takes no cycle. -/
def execEend (s : State) : Res :=
  .next (match s.epi with
    | none => s
    | some r => { s with epi := none }.finishRow r.link (r.word + r.stall))
/-- EMOV. -/
def execEmov (d : Fin 6) (a : ESrc) (s : State) : Res := .next (s.epi1 d a id)
/-- EADD, ESUB, EMUL, EFMA (R141). -/
def execEadd (f : Bool) (d : Fin 6) (a b : ESrc) (s : State) : Res :=
  .next (s.epi2 d a b (fun x y => if f then (fp32.add (dec32 x) (dec32 y)).1 else (x + y) % 2 ^ 32))
def execEsub (f : Bool) (d : Fin 6) (a b : ESrc) (s : State) : Res :=
  .next (s.epi2 d a b (fun x y => if f then (fp32.add (dec32 x) (numNeg (dec32 y))).1 else (x + 2 ^ 32 - y) % 2 ^ 32))
def execEmul (f : Bool) (d : Fin 6) (a b : ESrc) (s : State) : Res :=
  .next (s.epi2 d a b (fun x y => if f then (fp32.mul (dec32 x) (dec32 y)).1 else x * y % 2 ^ 32))
def execEfma (f : Bool) (d : Fin 6) (a b c : ESrc) (s : State) : Res :=
  .next (s.epi3 d a b c (fun x y z => if f then (fp32.fma (dec32 x) (dec32 y) (dec32 z)).1 else (x * y + z) % 2 ^ 32))
/-- EMIN and EMAX. -/
def execEmin (f : Bool) (d : Fin 6) (a b : ESrc) (s : State) : Res :=
  .next (s.epi2 d a b (fun x y => if f then fp32.pickMin x y else if sgn 32 x ≤ sgn 32 y then x else y))
def execEmax (f : Bool) (d : Fin 6) (a b : ESrc) (s : State) : Res :=
  .next (s.epi2 d a b (fun x y => if f then fp32.pickMax x y else if sgn 32 x ≤ sgn 32 y then y else x))
/-- The rounding shift of ESHR (R142). -/
def eshr (x sh : Nat) : Nat := if sh = 0 then x else unsgn 32 ((sgn 32 x + (2 ^ (sh - 1) : Nat)) / (2 ^ sh : Nat))
def execEshrImm (d : Fin 6) (a : ESrc) (sh : BitVec 5) (s : State) : Res := .next (s.epi1 d a (fun x => eshr x sh.toNat))
def execEshrReg (d : Fin 6) (a b : ESrc) (s : State) : Res := .next (s.epi2 d a b (fun x y => eshr x (y % 32)))
/-- EQMUL. -/
def execEqmul (d : Fin 6) (a b : ESrc) (s : State) : Res := .next (s.epi2 d a b (qmul 32))
/-- ECVT (R143). -/
def execEcvt (f : Bool) (d : Fin 6) (a : ESrc) (ty : Ty) (rm : Rm) (sat : Bool) (s : State) : Res :=
  .next (s.epi1 d a (fun x => (convertTy (if f then .f32 else .i32) ty rm sat x).1))

/-- A sum of the row in progress: rsum[m], or csum lane by lane. -/
def State.epiRsum (s : State) : Lane := s.epiDrain.elim 0 (fun d => d.rsum.getD d.row 0)
def State.epiCsum (s : State) : List Lane := s.epiDrain.elim zeroRow (fun d => (List.range 32).map (fun n => d.csum.getD n 0))
/-- kv: the rendezvous's K. -/
def State.epiK (s : State) : Nat := s.epi.elim 0 (fun r => (s.eng r.link).kLen)
/-- EZPC (R142). -/
def zpcLane (f : Bool) (k rsum csum x za zb : Nat) : Nat :=
  if f then
    (let n (v : Nat) := dec32 v
     roundFP32 (numSum .rne [n x, numNeg (numMul (n za) (n csum)), numNeg (numMul (n zb) (n rsum)),
       numMul (numInt k) (numMul (n za) (n zb))]) .rne)
  else
    (let g (v : Nat) := sgn 32 v
     unsgn 32 (g x - g za * g csum - g zb * g rsum + k * g za * g zb))
def execEzpc (f : Bool) (d : Fin 6) (a b c : ESrc) (s : State) : Res :=
  let bc := (s.epiSrc b).zip ((s.epiSrc c).zip s.epiCsum)
  .next (s.epiPut d (List.zipWith (fun x (y : Lane × Lane × Lane) =>
    BitVec.ofNat 32 (zpcLane f s.epiK s.epiRsum.toNat y.2.2.toNat x.toNat y.1.toNat y.2.1.toNat)) (s.epiSrc a) bc))

/-- ERELU. -/
def execErelu (f : Bool) (d : Fin 6) (a : ESrc) (s : State) : Res :=
  .next (s.epi1 d a (fun x =>
    if f then (match dec32 x with
      | .nan => fp32.nan
      | v => if numIsNeg v ∨ numIsZero v then 0 else x)
    else if sgn 32 x < 0 then 0 else x))
/-- The condition of ESEL. -/
def eselCond (f : Bool) (k : ECond) (c : Nat) : Bool :=
  if f then
    (match dec32 c with
     | .nan => k == .ne
     | v => (match k with
       | .ne => !numIsZero v
       | .lt => numIsNeg v && !numIsZero v
       | .gt => !numIsNeg v && !numIsZero v
       | .eq => numIsZero v))
  else (match k with
    | .ne => c % 2 ^ 32 != 0
    | .lt => sgn 32 c < 0
    | .gt => 0 < sgn 32 c
    | .eq => c % 2 ^ 32 == 0)
def execEsel (f : Bool) (d : Fin 6) (a b c : ESrc) (k : ECond) (s : State) : Res :=
  .next (s.epi3 d a b c (fun x y z => if eselCond f k z then x else y))
/-- ELDC: a parameter vector of the image, or a sum (R145). -/
def execEldc (f : Bool) (d : Fin 6) (sl : ESel) (s : State) : Res :=
  .next (s.epiPut d (match sl with
    | .c k =>
      let img := (s.epiDrain.elim none (·.image)).getD []
      (List.range 32).map (fun n => BitVec.ofNat 32 (leNat ((img.drop (128 + 128 * k.val + 4 * n)).take 4)))
    | .rsum => List.replicate 32 s.epiRsum
    | .csum => s.epiCsum
    | .kv => List.replicate 32 (BitVec.ofNat 32 (if f then roundFP32 (numInt s.epiK) .rne else s.epiK))))
/-- EWR (R144): the row goes to the drain path; the program goes on. -/
def execEwr (a : ESrc) (s : State) : Res :=
  .next (match s.epi with
    | none => s
    | some r =>
      let h := s.handRow r.link r.word (s.epiSrc a)
      { h.1 with epi := some { r with word := r.word + 1, stall := h.2 } })

end Sys2Proof.Machine
end

