-- ==== Sys2Proof/Machine/EngineRun.lean ====
section
/-! DEFINITION. Meanings of the engine events: leases and waking, the loaders, the pre-pass, K-steps, drains, eviction and restore
(R101, R103, R111 to R136, R249, R252). -/

namespace Sys2Proof.Machine

/-! ### Leases (R101, R103, R249, R252) -/

/-- What a re-lease brings back to an idle engine that a save put to sleep: codebooks, epilogue slots, numbering and counter (R194, R249).
Numbers given while it was dormant follow the saved ones. -/
def Engine.reload (e v : Engine) : Engine :=
  let up (f : Feed) : Feed := { f with num := f.num + v.num }
  let x (y b : EEnd) : EEnd := { y with
    books := b.books, feeds := y.feeds.map up, heldOpen := y.heldOpen.map (fun h => { h with feeds := h.feeds.map up }) }
  { e with
    near := x e.near v.near, far := x e.far v.far, ep := v.epLater.foldl (fun t i => t.set i.2.1 i.2.2) v.ep, epLater := []
    num := v.num + e.num, ctr := v.ctr + e.ctr, done := e.done.map (· + v.num) }
/-- LEASE_GRANT: the head of the highest-priority FIFO takes a token, one in a cycle; the engine wakes 1,500 cycles later. -/
def execLeaseGrant (die : Nat) (s : State) : Res :=
  let d := s.die die
  .next (if d.granted = some s.now then s.offerLease die else match (if d.free = 0 then none else ([3, 2, 1, 0].filterMap (fun p => (Table.get [] d.fifos p).head?)).head?) with
    | none => s
    | some r =>
      let s := s.modDie die (fun d => { d with free := d.free - 1, granted := some s.now, fifos := d.fifos.set r.pri (Table.get [] d.fifos r.pri).tail })
      let saved := match s.teams.find r.team with
        | some t => ((t.saved.find? (fun x => x.1 == r.link)).map (·.2))
        | none => none
      let s := s.modEng r.link (fun e =>
        let z : Lease := match e.lease with
          | some z => { z with grantAt := s.now, waited := s.now - r.at_ }
          | none => { team := r.team, pri := r.pri, core := r.core, ctx := r.ctx, tok := r.tok, grantAt := s.now, waited := s.now - r.at_ }
        let e := { e with lease := some z, token := true }
        if e.st = .dormant then
          (match (if r.restore then saved else none) with
           | some v => { e.reload v with st := .waking }
           | none => { e with st := .waking, ep := .empty, epLater := [] })
        else e)
      let s := if r.restore then s.modTeam r.team (fun t => { t with saved := t.saved.filter (fun x => x.1 != r.link) }) else s
      (s.sched Config.wakeCycles (.engineWake r.link)).offerLease die)

/-- ENGINE_WAKE (R12, R101, R125): the LEASE register is written, and the ends as they stand decide the state. -/
def execEngineWake (link : Nat) (s : State) : Res :=
  .next (match (s.eng link).lease with
    | none => s
    | some z =>
      let e := s.eng link
      if z.grantAt + Config.wakeCycles ≠ s.now ∨ !e.token then s
      else if e.st = .suspended then s.sched 0 (.engineRestore link)
      else if e.st ≠ .waking then s
      else
        let s := s.complete z.core z.ctx z.tok (leaseWord 0 z.pri z.waited link)
        let s := s.modEng link (fun e => { e with st := if e.near.isOpen ∨ e.far.isOpen then .openPending else .idle })
        if e.formed then s.becomeReady link else s)

/-- Both parties' teams, where there are parties, run. -/
def State.partiesRun (s : State) (l : Nat) : Bool :=
  let e := s.eng l
  let runs (far : Bool) : Bool := !(e.end_ far).opened || (match s.teams.find ((e.end_ far).party / 16) with
    | some t => t.st == .running || t.st == .placed
    | none => true)
  runs false && runs true
/-- A party closed its end between the resume and the restore: the rendezvous ends as by an early LKCLOSE (R125, R254).
(DEDUCED, log entry 83.) -/
def State.breakRestored (s : State) (l : Nat) : State :=
  let s := s.modEng l (fun e => { e with broken := false })
  let e := s.eng l
  if e.near.isOpen then s.breakRzv l true else if e.far.isOpen then s.breakRzv l false else s.settle l
/-- ENGINE_RESTORE (R249, R252, R292, R327): the saved state, with its loaders rewound, once both teams run. -/
def execEngineRestore (link : Nat) (s : State) : Res :=
  let e := s.eng link
  let woken := e.lease.elim false (fun z => z.grantAt + Config.wakeCycles ≤ s.now)
  .next (if e.st ≠ .suspended ∨ !e.token ∨ !woken ∨ !s.partiesRun link then s
    else
      let late (b : Bool) : List SpCfg := (e.spLater.filter (fun c => c.1 == b)).map (fun c => { c.2 with at_ := s.now })
      let e := { e.rewind with
        st := e.saved, stopping := false, savedBy := none, spLater := [], cfgA := e.cfgA ++ late false, cfgB := e.cfgB ++ late true }
      let s := s.setEng link e
      if e.broken then s.breakRestored link
      else if e.st = .openPending ∧ e.formed then s.becomeReady link
      else if e.st = .idle then (if e.near.isOpen ∨ e.far.isOpen then s.modEng link (fun e => { e with st := .openPending }) else s.settle link)
      else s.driveEng link 1)

/-- Evict a lease (R103): everything of the engine is lost, and each party that has opened it is told. (DEDUCED, log entry 35.) -/
def State.evict (s : State) (l : Nat) : State :=
  let e := s.eng l
  let s := if e.near.isOpen then s.post l false .leaseRevoked 0 else s
  let s := if e.far.isOpen then s.post l true .leaseRevoked 0 else s
  let e := ((s.eng l).dropFeeds false).dropFeeds true
  let f (x : EEnd) : EEnd := { x with feeds := [], fed := 0 }
  ((s.setEng l { e with near := f e.near, far := f e.far }).cancelLease l).returnToken l
/-- The switch sequencer saves the engine's state: its team leases it, or a party of an open end is of that team (R103, R123, R252). -/
def State.isSaving (s : State) (l : Nat) : Bool :=
  let e := s.eng l
  s.switch.elim false (fun w => 4 ≤ w.step && (e.lease.elim false (fun z => z.team == w.team)
    || (e.near.opened && e.near.party / 16 == w.team) || (e.far.opened && e.far.party / 16 == w.team)))
/-- EVICTION: no token free, and the head of the priority-3 FIFO has waited longer than EVICTWAIT. The engine stands between K-steps
at every event. -/
def execEviction (die : Nat) (s : State) : Res :=
  let d := s.die die
  .next (match (Table.get [] d.fifos 3).head? with
    | none => s
    | some r =>
      if s.now - r.at_ ≤ s.evictwait then s.schedOnce (r.at_ + s.evictwait + 1 - s.now) (.eviction die)
      else if 0 < d.free then s
      else
        let cands := s.engines.cells.filterMap (fun e =>
          if e.1 / 1152 = die ∧ e.2.token ∧ !s.isSaving e.1 then e.2.lease.map (fun z => (e.1, z)) else none)
        match cands with
        | [] => s
        | c :: cs =>
          let v := cs.foldl (fun b k => if k.2.pri < b.2.pri ∨ (k.2.pri = b.2.pri ∧ b.2.grantAt < k.2.grantAt) then k else b) c
          let s := s.evict v.1
          match (Table.get [] d.fifos 3)[1]? with
          | some n => s.schedOnce (n.at_ + s.evictwait + 1 - s.now) (.eviction die)
          | none => s)

/-! ### Loaders (R111 to R114, R132, R275) -/

/-- A feed fault at the parties whose column is bad (R122): the engine stops with its tile kept. -/
def State.feedFault (s : State) (l : Nat) (a b : Option FCode) : State :=
  let e := s.eng l
  let s := match a with
    | some c => s.post l e.aFar c 0
    | none => s
  let s := match b with
    | some c => s.post l (!e.aFar) c 0
    | none => s
  s.modEng l (fun e => { e.quiet with back := e.st, st := .faulted })
/-- A fault in the pre-pass of product `q` is a feed fault of that product with kdone 0 (R132). -/
def State.prePassFault (s : State) (l q : Nat) (far : Bool) (c : FCode) : State :=
  let e := s.eng l
  let s := s.setEng l { e with prod := q, kdone := 0 }
  (if far = e.aFar then s.feedFault l (some c) none else s.feedFault l none (some c)).modEng l (fun x => { x with prod := e.prod, kdone := e.kdone })

/-- An end's cache, by the binding of the handle: the loader rebinds it when it begins a feed with another base; a K-block read again under
an older binding passes the cache by (R113). -/
def State.readOne (s : State) (l : Nat) (far : Bool) (b : Blk) (fresh : Bool) : EEnd × List Col :=
  let e := s.eng l
  let x := e.end_ far
  let other := x.handles.find b.feed.handle ≠ some b.feed.base
  let x := if fresh ∧ b.blk = 0 ∧ other then { x with
      handles := x.handles.set b.feed.handle b.feed.base, cache := x.cache.filter (fun c => c.handle != b.feed.handle) }
    else x
  let bound := x.handles.find b.feed.handle = some b.feed.base
  let r := s.readBlock (endCore l far) (if bound then x.cache else []) (dOfmt x.desc) (e.amode != 0) b.feed b.blk b.k0
  if b.kept.isEmpty then (if bound then { x with cache := r.1 } else x, r.2) else (x, b.kept.map (fun c => { c with at_ := s.now }))
/-- LOADER_FETCH: the read of an end's loader ends. A K-block goes to the pre-pass, where a bad column faults at once, or into the FIFO,
but for what a K-step has used already; the feed retires with its last. -/
def execLoaderFetch (link : Nat) (far : Bool) (s : State) : Res :=
  let e := s.eng link
  let x := e.end_ far
  .next (match (if e.moving s.now then x.fetch.filter (fun f => f.ends == s.now) else none) with
    | none => s
    | some f =>
      match f.what with
      | none => (s.modEnd link far (fun x => { x with fetch := none, preTile := x.preTile + 1 })).driveEng link 1
      | some b =>
        let r := s.readOne link far b f.fresh
        let q := b.k0 / e.kLen
        let pre := e.inPrePass q
        let cols := r.2.filter (fun c => pre || e.prod * e.kLen + e.kpos ≤ c.k)
        let ends := b.blk + 1 = b.feed.count
        let y := { r.1 with fetch := none, pre := if pre then r.1.pre ++ cols else r.1.pre, fifo := if pre then r.1.fifo else r.1.fifo ++ cols }
        let y := if f.fresh then { y with
            fetched := y.fetched + dBlock y.desc
            feeds := if ends then y.feeds.tail else { b.feed with pos := b.blk + 1 } :: y.feeds.tail }
          else { y with again := y.again.erase b }
        let e := e.modEnd far (fun _ => y)
        let s := s.setEng link (if f.fresh ∧ ends then e.numDone b.feed.num else e)
        match (if pre then cols.findSome? (·.bad) else none) with
        | some c => s.prePassFault link q far c
        | none => s.driveEng link 1)

/-! ### Sums and cells (R56, R112, R126) -/

/-- Add a column's elements to the sums of its rows or columns. -/
def addSums (int : Bool) (sums : List Lane) (c : Col) : List Lane :=
  let sums := if sums.isEmpty then zeroRow else sums
  List.zipWith (fun (a : Lane) (x : Option Num) =>
    let v := x.getD (numInt 0)
    if int then a + BitVec.ofInt 32 (mantAt 0 v) else BitVec.ofNat 32 (roundFP32 (numSum .rne [dec32 a.toNat, v]) .rne)) sums c.els
/-- A product's present factors. -/
def prodOf (a b : Option Num) : Option Num :=
  match a, b with
  | some x, some y => some (numMul x y)
  | _, _ => none
/-- One K-step over the tile: `f m n` lists the products of cell (m, n). -/
def stepTile (e : Engine) (tile : List Lane) (f : Nat → Nat → List Num) : List Lane :=
  tile.zipIdx.map (fun c => BitVec.ofNat 32 (kStepCell e.nbv (e.amode != 0) (e.amode == 2) c.1.toNat (f (c.2 / 32) (c.2 % 32))))
def colEl (c : Col) (n : Nat) : Option Num := c.els.getD n none

/-- The tile of the product in progress. -/
def Engine.tile (e : Engine) : List Lane := if e.prod % 2 = 0 then e.tile0 else e.tile1
def Engine.setTile (e : Engine) (t : List Lane) : Engine := if e.prod % 2 = 0 then { e with tile0 := t } else { e with tile1 := t }
/-- The tile a product, or its first split, starts from (R116). -/
def State.startTile (s : State) (l : Nat) (e : Engine) : List Lane :=
  if e.pre then
    (List.range 1024).map (fun k => BitVec.ofNat 32 (memLe s.mem 4 (spad (endCore l e.aFar) (fld e.dA 272 256 + 4 * k))))
  else List.replicate 1024 0

/-- rsum or csum as they stand (R112, R120): with a term in force, what the pre-pass read, over the whole K; else what the K-steps used,
nothing before the first. -/
def Engine.sumsOf (e : Engine) (far : Bool) : List Lane :=
  match e.plan with
  | some p => (if far = e.aFar then p.colsA else p.colsB).foldl (addSums (e.amode != 0)) zeroRow
  | none => if e.started then (e.end_ far).sums else zeroRow
/-- The drain of a tile as it stands (R112, R117, R120). -/
def Engine.drainOf (e : Engine) (num : Nat) (final forced : Bool) (due : Nat) : Drain :=
  { prod := e.prod, tile := e.tile, row := 0, rsum := e.sumsOf e.aFar, csum := e.sumsOf (!e.aFar), num := num
    split := e.kspl ≠ 0, forced := forced, final := final, image := none, due := due, begun := false, landed := 0, k0 := e.kdone - e.since }

/-! ### The pre-pass (R132 to R136) -/

/-- The assignment of one group to one row or column: its K indices that are present and survive, in order. -/
def assignOf (cols : List Col) (live : List Bool) (g mm n x : Nat) : List Nat :=
  (List.range mm).filterMap (fun j =>
    let k := g * mm + j
    if x < n && live.getD k false && ((cols[k]?).elim false (fun c => (colEl c x).isSome)) then some k else none)

/-- Cut a list into pieces of `d`. -/
def chunks {α : Type} (d : Nat) : Nat → List α → List (List α)
  | 0, _ => []
  | n + 1, l => if l.isEmpty then [] else l.take d :: chunks d n (l.drop d)

/-- The clippings of a product, in order: what the terms have no slot for (R132). -/
def clipsOf (c : SpCfg) (groups : List (List (List Nat))) : List (Nat × Nat) :=
  (groups.flatMap (fun g => g.zipIdx.flatMap (fun r => (r.1.drop (c.t * nmN c.nm)).map (fun k => (k, r.2))))).mergeSort
    (fun a b => a.1 < b.1 || (a.1 == b.1 && a.2 ≤ b.2))
/-- The steps of term `t`: the slots of the groups it uses, `d` a step, the last one padded (R133). -/
def termSteps (d nn t : Nat) (groups : List (List (List Nat))) : List PStep :=
  let slots := (groups.zipIdx.filter (fun g => g.1.any (fun r => t * nn < r.length))).flatMap (fun g =>
    (List.range nn).map (fun i => (g.2, g.1.map (fun r => r[t * nn + i]?))))
  (chunks d slots.length slots).map (fun ch =>
    PStep.term (ch.map (·.1)).eraseDups ((List.range 32).map (fun x => ch.map (fun sl => sl.2.getD x none))))
/-- The decomposition of a product: `side` is the configured operand's columns, `n` its rows or columns in the product. No plan where more
than 512 clippings leave the product to the dense path (R136). -/
def makePlan (e : Engine) (sideB : Bool) (c : SpCfg) (colsA colsB : List Col) (now : Nat) : Option (Plan × Counts) :=
  let mm := nmM c.nm
  let side := if sideB then colsB else colsA
  let n := if sideB then e.colsN else e.rows
  let live := List.zipWith (fun a b => anyPresent e.rows a && anyPresent e.colsN b) colsA colsB
  let groups := (List.range (e.kLen / mm)).map (fun g => (List.range 32).map (assignOf side live g mm n))
  let clips := clipsOf c groups
  if 512 < clips.length then none
  else
    let vals := clips.map (fun k => ((side[k.1]?).elim (numInt 0) (fun col => (colEl col k.2).getD (numInt 0))))
    let mag := numSum .rne (vals.map numAbs)
    let within := match mag with
      | .nan => false
      | v => numCmp v (dec32 c.bound.toNat) ≤ 0
    let drop := c.mode == 1 || (c.mode == 2 && within)
    some ({ sideB := sideB, mm := mm, colsA := colsA, colsB := colsB, at_ := now
            steps := (List.range c.t).flatMap (fun t => termSteps e.depth (nmN c.nm) t groups)
              ++ (if drop then [] else clips.map (fun k => PStep.clip k.1 k.2)) },
          { loss := if drop then BitVec.ofNat 32 (roundFP32 mag .rne) else 0
            executed := if drop then 0 else clips.length, dropped := if drop then clips.length else 0, fb := false })

/-- Put K-blocks to be read again before those of later products. -/
def againPut (kLen q : Nat) (bs again : List Blk) : List Blk :=
  again.takeWhile (fun b => b.k0 / kLen ≤ q) ++ bs ++ again.dropWhile (fun b => b.k0 / kLen ≤ q)
/-- The pre-pass of product `q` ends: its plan is made, and the other side's K-blocks are read again for its steps from the first not
done on; or the product falls back to the dense path, and both sides' are (R132, R136, R275). -/
def Engine.endPrePass (e : Engine) (q now : Nat) : Engine :=
  let mine (x : EEnd) : List Col := x.pre.filter (fun c => c.k / e.kLen == q)
  let ca := mine (e.end_ e.aFar)
  let cb := mine (e.end_ (!e.aFar))
  let f (x : EEnd) (bs : List Blk) : EEnd := { x with
    pre := x.pre.filter (fun c => c.k / e.kLen != q), again := againPut e.kLen q bs x.again }
  let blocks (cs : List Col) : List Blk := blocksOf (fun _ => false) cs
  match Table.get none e.sp q with
  | none => e
  | some (sideB, c) =>
    match makePlan e sideB c ca cb now with
    | some (p, k) =>
      let far := e.drawFar p
      let bs := blocks (if sideB then ca else cb)
      let rd := (p.reads (dBlock (e.end_ far).desc) (if q = e.prod then e.kdone else 0)).filterMap (fun i => bs[i]?)
      let e := { e with plans := e.plans.set q p, counts := e.counts.set q k }
      (e.modEnd far (fun x => f x rd)).modEnd (!far) (fun x => f x [])
    | none =>
      let e := { e with sp := e.sp.set q none, counts := e.counts.set q { Counts.zero with fb := true } }
      (e.modEnd e.aFar (fun x => f x (blocks ca))).modEnd (!e.aFar) (fun x => f x (blocks cb))
/-- PRE_PASS. -/
def execPrePass (link : Nat) (s : State) : Res :=
  let e := s.eng link
  .next (if !e.moving s.now then s
    else if e.prePassReady e.prod then (s.setEng link (e.endPrePass e.prod s.now)).driveEng link 1
    else if e.prePassReady (e.prod + 1) then (s.setEng link (e.endPrePass (e.prod + 1) s.now)).driveEng link 1
    else s)

/-! ### K-steps (R56, R115, R116, R118 to R121, R127, R133) -/

/-- Start the product in progress: its tile and its sums (R112, R116). -/
def State.startProduct (s : State) (l : Nat) : State :=
  let e := s.eng l
  let e := { e with
    started := true, kpos := 0, kdone := 0, since := 0, hist := [], near := { e.near with sums := zeroRow }, far := { e.far with sums := zeroRow } }
  { s with bad := s.bad.filter (· != badTile l) }.setEng l (e.setTile (s.startTile l e))

/-- The product's last K-step has ended: its tile drains from 5 cycles after it on (R118), and the next product, if any, is in
progress. -/
def Engine.endProduct (e : Engine) (now : Nat) : Engine :=
  let rest (x : EEnd) : EEnd := { x with fifo := x.fifo.filter (fun c => c.k / e.kLen != e.prod) }
  let e := { e with
    drains := e.drains ++ [e.drainOf 0 true false (if e.kdone = 0 then now + 5 else e.expect + 4)]
    near := rest e.near, far := rest e.far, plans := e.plans.erase e.prod, passed := [], hist := [] }
  if e.prod = e.pm1 then { e with st := .draining } else { e with prod := e.prod + 1, kdone := 0, kpos := 0, since := 0, started := false }

/-- Count a K-step. -/
def Engine.counted (e : Engine) (now : Nat) : Engine := { e with kdone := e.kdone + 1, since := e.since + 1, expect := now + 1 }

/-- The pairs of the next dense step: up to and with its last survivor, or all that are left of the product (R127). -/
def Engine.stepPairs (e : Engine) : List (Col × Col × Bool) :=
  let live := e.survivors
  match live[e.depth - 1]? with
  | some p =>
    let rest := e.passed.filter (fun q => p.1.k < q.1.k)
    if e.kLen ≤ e.kpos + e.passed.length ∧ !rest.any (·.2.2) then e.passed else e.passed.filter (fun q => q.1.k ≤ p.1.k)
  | none => e.passed
/-- The dense step: the sums fold over the indices it uses up. -/
def Engine.denseStep (e : Engine) (now : Nat) : Engine :=
  let used := e.stepPairs
  let live := used.filter (·.2.2)
  let int := e.amode != 0
  let tile := if live.isEmpty then e.tile
    else stepTile e e.tile (fun m n => live.filterMap (fun p => prodOf (colEl p.1 m) (colEl p.2.1 n)))
  let e := (e.setTile tile).modEnd e.aFar (fun x => { x with sums := (used.map (·.1)).foldl (addSums int) x.sums })
  let e := e.modEnd (!e.aFar) (fun x => { x with sums := (used.map (·.2.1)).foldl (addSums int) x.sums })
  let e : Engine := { e with kpos := e.kpos + used.length, passed := e.passed.drop used.length, hist := used.reverse ++ e.hist }
  let e : Engine := if live.isEmpty then e else e.counted now
  if e.kLen ≤ e.kpos then e.endProduct now else e

/-- The next step of a plan (R133): the configured side gives its pre-pass values, the other side what the step draws; what the next step
does not draw leaves the FIFO (R275). -/
def Engine.planStep (e : Engine) (p : Plan) (now : Nat) : Engine :=
  let side := if p.sideB then p.colsB else p.colsA
  let drawn := e.drawn p
  let mine (k n : Nat) : Option Num := (side[k]?).elim none (fun c => colEl c n)
  let theirs (k n : Nat) : Option Num := (drawn.find? (fun c => c.k % e.kLen == k)).elim none (fun c => colEl c n)
  let pair (k m n : Nat) : Option Num := if p.sideB then prodOf (theirs k m) (mine k n) else prodOf (mine k m) (theirs k n)
  match p.steps[e.kdone]? with
  | none => e.endProduct now
  | some st =>
    let tile := stepTile e e.tile (fun m n => match st with
      | .term _ slots => (slots.getD (if p.sideB then n else m) []).filterMap (fun k => k.elim none (fun k => pair k m n))
      | .clip k x => if (if p.sideB then n else m) = x then (pair k m n).toList else [])
    let next (blk : Nat) : List Nat := p.draws blk (e.kdone + 1)
    let e := ((e.setTile tile).counted now).modEnd (e.drawFar p) (fun x => { x with
      fifo := drawn.filter (fun c => (next (dBlock x.desc)).contains (c.k % e.kLen / dBlock x.desc)) ++ x.fifo.drop drawn.length })
    if p.steps.length ≤ e.kdone then e.endProduct now else e

/-- An uncorrectable error in the tile (R246): F_MEMERR to the A party, and the product starts again from its first K-step or its last
split drain. A product of split drains has no epilogue, so its sums are never read (R106). -/
def State.tileError (s : State) (l : Nat) : State :=
  let s := s.post l (s.eng l).aFar .memErr 0
  let e := s.eng l
  let fresh := if e.kdone = e.since then s.startTile l e else List.replicate 1024 0
  let back := e.hist.reverse
  { s with bad := s.bad.filter (· != badTile l) }.setEng l
    { (e.setTile fresh).quiet with
      passed := back ++ e.passed, hist := [], kpos := e.kpos - back.length, kdone := e.kdone - e.since, since := 0
      near := { e.quiet.near with sums := zeroRow }, far := { e.quiet.far with sums := zeroRow }, back := e.st, st := .faulted }

/-- The next K-step runs in cycle `now`, and the columns it uses that raise a fault. -/
def Engine.stepNow (e : Engine) (now : Nat) : Bool := e.stepDue && e.stepFrom ≤ now
def Engine.stepBad (e : Engine) : Option FCode × Option FCode :=
  match e.plan with
  | some p => let c := (e.drawn p).findSome? (·.bad); if e.drawFar p = e.aFar then (c, none) else (none, c)
  | none => ((e.passed.find? (fun p => p.1.bad.isSome || p.2.1.bad.isSome)).map (fun p => (p.1.bad, p.2.1.bad))).getD (none, none)
/-- The copies asked for are taken at a K-step boundary (R120). -/
def State.takeCopies (s : State) (l : Nat) : State :=
  let e := s.eng l
  let tile := if e.started then e else e.setTile (s.startTile l e)
  s.setEng l { e with drains := e.drains ++ e.copies.map (fun n => tile.drainOf n false true (s.now + 1)), copies := [] }
/-- K_STEP: one step runs if it is due, or its columns' faults are posted; a fault beats the copies asked for (R123), which else are taken at
the K-step boundary before it; a rendezvous whose last row is written is done (R118, R120). An engine that stood may go on. -/
def execKStep (link : Nat) (s : State) : Res :=
  let e := s.eng link
  .next (if !e.runs then s
    else if e.standing s.now then s.driveEng link 0
    else if e.st = .draining ∧ e.pendingDrains.isEmpty then s.modEng link (fun e => { e with st := .done })
    else if e.stepNow s.now && e.stepBad != (none, none) then s.feedFault link e.stepBad.1 e.stepBad.2
    else
      let s := if e.stepNow s.now && !e.started then s.startProduct link else s
      let s := s.takeCopies link
      let s := if !(s.eng link).stepNow s.now then s
        else if s.bad.contains (badTile link) then s.tileError link
        else match (s.eng link).plan with
          | some p => s.setEng link ((s.eng link).planStep p s.now)
          | none => s.setEng link ((s.eng link).denseStep s.now)
      let e := s.eng link
      let s := if e.kspl ≠ 0 ∧ e.since = e.kspl ∧ e.started ∧ e.st = .running then s.schedOnce 0 (.splitDrain link) else s
      s.driveEng link 1)

/-- SPLIT_DRAIN (R119): the tile drains, and restarts at zero. (DEDUCED, log entry 36.) -/
def execSplitDrain (link : Nat) (s : State) : Res :=
  let e := s.eng link
  .next (if e.kspl ≠ 0 ∧ e.since = e.kspl ∧ e.started ∧ e.st = .running then
      (s.setEng link { (e.setTile (List.replicate 1024 0)) with
        drains := e.drains ++ [e.drainOf 0 false false (s.now + 5)], since := 0, hist := [] }).driveEng link 1
    else s)

/-! ### Drains (R117) -/

/-- The receiver checks: 0, or why the drain is refused, 1 to 9 in order; and the program of its rows (R114). -/
def Engine.imageAt (e : Engine) (now slot : Nat) : Option (List Byte) :=
  match (e.epLater.filter (fun x => x.1 ≤ now ∧ x.2.1 = slot)).getLast? with
  | some x => some x.2.2
  | none => e.ep.find slot
def State.drainWhy (s : State) (l : Nat) (d : Drain) : Nat :=
  let e := s.eng l
  let eb := otypeBytes e.otype
  let pitch := fld e.recv 47 32
  let rd := fld e.recv 31 30
  let c := e.recvCore
  let dwa := fld e.recv 80 64
  let ra := e.raddr d.prod 0
  let n := e.colsN * eb
  let out (a : Int) (k : Nat) : Bool := a < 0 || (Config.spadSize : Int) < a + k || s.touchesStacks c a.toNat k
  let acc := fld e.recv 48 48 = 1 ∨ e.kspl ≠ 0
  if rd ≠ l / 1152 ∨ 23 < fld e.recv 24 20 ∨ 23 < fld e.recv 29 25 then 1
  else if ra % 16 ≠ 0 ∨ pitch % 16 ≠ 0 then 2
  else if pitch < n then 3
  else if (List.range e.rows).any (fun m => out (e.raddr d.prod m) n) || (fld e.recv 49 49 == 1 && (dwa % 16 != 0 || out dwa 16)) then 4
  else match ((s.teams.find ((e.end_ e.aFar).party / 16)).bind (fun v => s.aimed v c)).or (s.teamOf c) with
    | none => 5
    | some (_, u) =>
      let mine := match s.teams.find ((e.end_ e.aFar).party / 16) with
        | some v => v.permits u
        | none => false
      if !mine then 6
      else if u.st = .halted then 7
      else if e.eslot ≠ 0 ∧ (e.imageAt s.now (e.eslot - 1)).isNone then 8
      else if acc ∧ !([10, 4, 8].contains e.otype) then 9
      else 0

/-- DRAIN_BEGIN: the drain takes its number (R194), its receiver is checked, and its rows begin or it is refused (R125).
(DEDUCED, log entry 37.) -/
def execDrainBegin (link : Nat) (s : State) : Res :=
  let e := s.eng link
  .next (if !e.moving s.now ∨ e.heldTile.isSome ∨ e.passing.isSome ∨ e.st = .ready then s
    else match e.nextDrain with
      | none => s
      | some d =>
        if s.now < Nat.max d.due e.rowAt then s.schedOnce (Nat.max d.due e.rowAt - s.now) (.drainBegin link)
        else if e.acks.any (fun a => (s.core a.1).tokOut a.2) then s.schedOnce 1 (.drainBegin link)
        else
          let n := if d.num = 0 then e.num + 1 else d.num
          let e := { e with num := Nat.max e.num n, acks := [] }
          let why := s.drainWhy link d
          if why = 0 then
            let d' := { d with num := n, begun := true, image := if e.eslot = 0 then none else e.imageAt s.now (e.eslot - 1) }
            (s.setEng link { e with rowAt := s.now, drains := e.drains.map (fun x => if x = d then d' else x) }).sched 0 (.epilogueRow link)
          else
            let s := s.setEng link { e.quiet with
              drains := e.drains.filter (fun x => x != d), heldTile := some { d with num := n }, back := e.st, st := .faulted }
            let s := s.post link e.aFar .drainTarget why
            if why = 7 then s.logFault e.recvCore 0 ⟨.drainTarget, 7, BitVec.ofInt 64 (e.raddr d.prod 0), 0⟩ else s)

/-- How a write aimed at a core fares (R248, R253): a suspended team's router refuses it, a halted team, or none, drops it. -/
inductive Gate where
  | pass | refuse | drop
deriving DecidableEq, Repr
def State.gate (s : State) (core : Nat) (own : Option Nat) : Gate :=
  let target := match own.bind s.teams.find with
    | some o => s.aimed o core
    | none => s.teamOf core
  match target with
  | none => .drop
  | some (t, u) => match u.st with
    | .placed | .running => .pass
    | .stopping => if own = some t then .pass else .refuse
    | .suspended => .refuse
    | .halted => .drop

/-- Bytes land in a scratchpad, overwriting or accumulating element by element (R57, R164); none where an uncorrectable error is
consumed (R246). -/
def accBytes (m : List Host.Cell) (t : AccTy) (a : Nat) : Nat → List Byte → List Byte
  | 0, _ => []
  | n + 1, bs =>
    let w := accWidth t
    leBytes w (accAdd t (memLe m w a) (leNat (bs.take w))) ++ accBytes m t (a + w) n (bs.drop w)
def State.land (s : State) (core off : Nat) (bs : List Byte) (acc : Option AccTy) : Option State :=
  let cell := spad core off
  match acc with
  | none => if s.badPart cell bs.length then none else some (s.store cell bs)
  | some t => if s.badIn cell bs.length then none else some (s.store cell (accBytes s.mem t cell (bs.length / accWidth t) bs))

/-- A row has been written: the last of a drain finishes it (R194), and the engine goes on. -/
def State.rowLanded (s : State) (r : RowWrite) : State :=
  let e := s.eng r.link
  match e.drains.find? (fun d => d.begun && d.num == r.num) with
  | none => s
  | some d =>
    if d.landed + 1 < e.rows then
      s.setEng r.link { e with drains := e.drains.map (fun x => if x.num = r.num then { x with landed := x.landed + 1 } else x) }
    else
      let e := { e.numDone r.num with
        drains := e.drains.filter (fun x => x.num != r.num), prods := if d.final then e.prods + 1 else e.prods }
      (s.setEng r.link e).driveEng r.link 1

/-- The source of a drain row, and its number among the writes of that core (R248). -/
def State.rowSrc (s : State) (r : RowWrite) : Nat := endCore r.link (s.eng r.link).aFar
def rowTok (r : RowWrite) : Nat := 2 ^ 48 + r.link * 2 ^ 17 + r.off
/-- DRAIN_ROW_WRITE: the row lands at the receiver and credits its datum word. -/
def execDrainRowWrite (r : RowWrite) (s : State) : Res :=
  let own := some (((s.eng r.link).end_ (s.eng r.link).aFar).party / 16)
  let g := s.gate r.core own
  .next (if g = .refuse ∨ (g = .pass ∧ refusedBefore (s.core r.core).refused (s.rowSrc r) (rowTok r)) then
      (s.refuseAt r.core (s.rowSrc r) (rowTok r)).sched Config.resend (.drainRowWrite r)
    else
    let s := s.letIn r.core (s.rowSrc r) (rowTok r)
    match g with
    | .refuse => s
    | .drop => (match s.teamOf r.core with
        | some _ => s.logFault r.core 0 ⟨.drainTarget, 7, BitVec.ofNat 64 r.off, 0⟩
        | none => s).rowLanded r
    | .pass =>
      match s.land r.core r.off r.bytes r.acc with
      | none => (s.logFault r.core 0 ⟨.memErr, 2, BitVec.ofNat 64 r.off, 0⟩).rowLanded r
      | some s =>
        let s := match r.dw with
          | some q => s.credit r.core q r.bytes.length
          | none => s
        s.rowLanded r)

end Sys2Proof.Machine
end

