-- ==== Sys2Proof/Machine/Copy.lean ====
section
/-! DEFINITION. Meanings of the COPY group and of the copy engine's events (R184 to R197, R277, R278, R297, R311, R347). -/

namespace Sys2Proof.Machine

/-! ### Descriptors (R186, R188, R191) -/

def isPad (a : Nat) : Bool := a < Config.spadSize || isAperture a
/-- The first F_FORMAT of R191: the lowest bit of the offending field. -/
def cmdBad (kind : CmdKind) (swz : Bool) (d : Nat) : Option Nat :=
  let rsv : List (Nat × Nat) := [(511, 484), (463, 448)] ++ (if kind = .copy then [] else [(447, 384), (191, 160)])
  let aw := fld d 483 482
  let len := fld d 159 128
  let ix := fld d 319 256
  let dst := match kind with
    | .copy | .gather => fld d 127 64
    | .scatter => fld d 63 0
  ((rsv.filterMap (fun r => if fld d r.1 r.2 ≠ 0 then some r.2 else none)).head?).or
  (([(kind != .copy && (len < 16 || 65536 < len || len % 16 != 0), 128),
     (kind != .copy && (ix % 32 != 0 || !(ix < Config.spadSize || isGlobal ix)), 256),
     (swz && !isPad dst, 64), (swz && len % 256 != 0, 128), (aw != 0 && isGlobal dst, 482)].filterMap
    (fun c => if c.1 then some c.2 else none)).head?)

/-- Rows of a box, or index batches. -/
def Cmd.total (c : Cmd) : Nat :=
  match c.kind with
  | .copy => if fld c.desc 159 128 = 0 then 0 else fld c.desc 191 160 * fld c.desc 223 192 * fld c.desc 255 224
  | _ => (fld c.desc 383 352 + 7) / 8
def Cmd.len (c : Cmd) : Nat := fld c.desc 159 128
/-- An address the pseudocode computes with unbounded integers (R4): 2^64, which is no address, where it leaves the 64 bits. -/
def addrOf (x : Int) : Nat := if x < 0 ∨ (2 ^ 64 : Nat) ≤ x then 2 ^ 64 else x.toNat
/-- Row `j` of a box (R187). -/
def Cmd.boxRow (c : Cmd) (j : Nat) : Row :=
  let d := c.desc
  let e1 := fld d 191 160
  let e2 := fld d 223 192
  let i1 := j % e1
  let i2 := j / e1 % e2
  let i3 := j / (e1 * e2)
  let g (hi lo : Nat) : Int := sgn 32 (fld d hi lo)
  { k := j, src := addrOf (fld d 63 0 + i1 * g 287 256 + i2 * g 319 288 + i3 * g 351 320)
    dst := addrOf (fld d 127 64 + i1 * g 383 352 + i2 * g 415 384 + i3 * g 447 416), fill := none }
/-- Row `i` of a gather or scatter with index `x` (R189); the fill byte marks a row out of range. -/
def Cmd.indexRow (c : Cmd) (i x : Nat) : Row :=
  let d := c.desc
  let tbl := addrOf (fld d 63 0 + x * sgn 32 (fld d 255 224))
  let lin := addrOf (fld d 127 64 + i * sgn 32 (fld d 351 320))
  let inside := x < fld d 223 192
  match c.kind with
  | .scatter => { k := i, src := lin, dst := tbl, fill := if inside then none else some 0 }
  | _ => { k := i, src := tbl, dst := lin, fill := if inside then none else some c.fill }

/-! ### Access by a copy engine (R160, R192, R257) -/

/-- How an access of a copy engine ends: with its value, an error, a stall at a suspended team, parked on a page, or with a miss in the
cluster TLB. -/
inductive CopyRes (α : Type) where
  | ok (v : α)
  | err (c : FCode)
  | stall
  | parked (va : Nat)
  | miss (va : Nat)
/-- Go on with the value of an access. -/
def CopyRes.andThen {α β : Type} (r : CopyRes α) (f : α → CopyRes β) : CopyRes β :=
  match r with
  | .ok v => f v
  | .err c => .err c
  | .stall => .stall
  | .parked va => .parked va
  | .miss va => .miss va

/-- A span of virtual addresses, cut at 64 KiB. -/
def pageCuts : Nat → Nat → Nat → List (Nat × Nat)
  | 0, _, _ => []
  | f + 1, va, n => if n = 0 then [] else
      let k := Nat.min n (65536 - va % 65536)
      (va, k) :: pageCuts f (va + k) (n - k)
/-- A translated piece of a span: the entry of its page, its virtual address and length. -/
structure Piece where
  e : TlbE
  va : Nat
  len : Nat
deriving DecidableEq, Repr
def Piece.pa (p : Piece) : Nat := p.e.phys p.va
/-- Translate a span by the cluster TLB (R258): its pieces, or the first page that misses, is forbidden, or is not resident. -/
def State.spanPieces (s : State) (core want : Nat) : List (Nat × Nat) → CopyRes (List Piece)
  | [] => .ok []
  | (va, k) :: ps =>
    match (s.cluster (clusterOf core)).tlb.find? (fun e => e.covers (s.spaceOf core) va) with
    | none => .miss va
    | some e =>
      if !hasAttr e.attr (want + attrRES) then .parked va
      else (s.spanPieces core want ps).andThen (fun r => .ok (⟨e, va, k⟩ :: r))
/-- The pieces' pages are used. -/
def State.usePieces (s : State) (core : Nat) (ps : List Piece) : State := ps.foldl (fun (s : State) p => s.useClusterTlb core p.e) s
/-- The first error of what lies beyond the local homes (R171): a link that is down or a peer that refuses, a port that fails. -/
def State.piecesBad (s : State) (write : Bool) (ps : List Piece) : Option FCode :=
  ps.findSome? (fun p => match paKind p.pa with
    | .peer k _ => if s.spanUp k then s.outsideEnd false else some .protect
    | .port _ _ => if write then none else s.outsideEnd true
    | _ => none)
/-- The scratchpad a span lies in: core and offset, or the error of R160 and R192, or the stall of R248. `write` tells how a gone team
counts, and that an earlier refused write of the same source stands before it; `id` is the command. -/
def State.padSpan (s : State) (core id a n : Nat) (write : Bool) : CopyRes (Nat × Nat) :=
  let own := (s.core core).team
  match (if a < Config.spadSize then some (core, a) else apertureOf a) with
  | none => .err .bounds
  | some (c, off) =>
    if Config.spadSize < off + n then .err .bounds
    else
      let target := match s.teamOf core with
        | some (_, t) => s.aimed t c
        | none => s.teamOf c
      let go : CopyRes (Nat × Nat) := if write && refusedBefore (s.core c).refused core id then .stall else .ok (c, off)
      if target.isNone && (s.teamOf c).isSome then .err .teamBounds
      else if s.touchesStacks c off n then .err .bounds
      else match target with
        | none => .err (if write then .teamBounds else .sourceGone)
        | some (_, u) => match u.st with
          | .halted => if write then .err .teamBounds else .ok (c, off)
          | .suspended => .stall
          | .stopping => if own = (s.core c).team then go else .stall
          | .placed | .running => go
/-- The core a scratchpad address names. -/
def padCore (core a : Nat) : Nat := if a < Config.spadSize then core else ((apertureOf a).map (·.1)).getD core

/-- The pieces of a global span. -/
def State.globalSpan (s : State) (core a n want : Nat) : CopyRes (List Piece) :=
  if isGlobal a ∧ a + n ≤ Config.vaTop then s.spanPieces core want (pageCuts (n / 65536 + 2) a n) else .err .bounds
/-- Read a span (R187, R193, R277): its bytes, and the state with the TLB and the lines it uses. (DESIGN CHOICE, log entry 21.) -/
def State.copyRead (s : State) (core id a n : Nat) : CopyRes (List Byte × State) :=
  if isPad a then
    (s.padSpan core id a n false).andThen (fun (c, off) =>
      if s.badIn (spad c off) n then .err .memErr else .ok (memBytes s.mem n (spad c off), s))
  else (s.globalSpan core a n attrR).andThen (fun ps =>
    match s.piecesBad false ps with
    | some e => .err e
    | none =>
      if ps.any (fun p => paKind p.pa = .hbm && s.badIn p.pa p.len) then .err .memErr
      else .ok (ps.flatMap (fun p => match paKind p.pa with
          | .hbm => memBytes s.mem p.len p.pa
          | _ => (List.range p.len).map (Config.outsideByte s.fresh)),
        ps.foldl (fun (s : State) p => if paKind p.pa = .hbm then s.touchLines false p.pa p.len else s) (s.usePieces core ps)))

/-- Write bytes of a local home: the words that no one holds at once, the others when they reach the head of their word's queue (R178);
those wait under number `tok`. (DEDUCED, log entry 77.) -/
def State.putHome (s : State) (core tok : Nat) (p : Piece) (bs : List Byte) : State :=
  if s.holds.cells.isEmpty then s.store p.pa bs
  else
    let r (a : Nat) (k n : Nat) : HomeReq :=
      { kind := .store (lineMask (a % 64 + k) n), core := core, ctx := 16, pa := alignDown 64 a, va := alignDown 64 (p.va + (a - p.pa)),
        space := p.e.space, res := true, tok := tok
        data := putBytes (List.replicate 64 0) (a % 64 + k) ((bs.drop (a + k - p.pa)).take n), tries := 0, size := p.e.size }
    let w0 := alignDown 8 p.pa
    (List.range ((p.pa + p.len + 7 - w0) / 8)).foldl (fun (s : State) j =>
      let a := w0 + 8 * j
      let k := if a < p.pa then p.pa - a else 0
      let n := Nat.min 8 (p.pa + p.len - a) - k
      match s.queueFor (r a k n) a with
      | some b => s.waitHeld b (r a k n)
      | none => s.store (a + k) ((bs.drop (a + k - p.pa)).take n)) s
/-- Write pieces of a global span; what leaves the device is not the model's. -/
def State.putPieces (s : State) (core tok : Nat) : List Piece → List Byte → State
  | [], _ => s
  | p :: ps, bs =>
    let s := match paKind p.pa with
      | .hbm => (s.putHome core tok p (bs.take p.len)).touchSpan p.pa p.len
      | _ => s
    s.putPieces core tok ps (bs.drop p.len)
/-- Something written under a number still waits for a held word. -/
def State.tokHeld (s : State) (core tok : Nat) : Bool := s.holds.cells.any (fun h => h.2.queue.any (fun q => q.core == core && q.tok == tok))
def awType (aw : Nat) : Option AccTy := if aw = 1 then some .f32 else if aw = 2 then some .i32 else if aw = 3 then some .f16 else none
/-- Element alignment under accumulate-on-write (R187). -/
def awBad (aw a n : Nat) : Bool := (awType aw).elim false (fun t => a % accWidth t != 0 || n % accWidth t != 0)
/-- Write bytes (R164, R187, R189): the state after it, the core the credit goes to, and the number under which words still wait. -/
def State.copyWrite (s : State) (core id a aw : Nat) (bs : List Byte) : CopyRes (State × Nat × Option Nat) :=
  if isPad a then
    (s.padSpan core id a bs.length true).andThen (fun (c, off) =>
      if awBad aw off bs.length then .err .align
      else match s.land c off bs (awType aw) with
        | some t => .ok (t.letIn c core id, c, none)
        | none => .err .memErr)
  else (s.globalSpan core a bs.length attrW).andThen (fun ps =>
    match s.piecesBad true ps with
    | some e => .err e
    | none =>
      if ps.any (fun p => paKind p.pa = .hbm && s.badPart p.pa p.len) then .err .memErr
      else
        let t := (s.usePieces core ps).newTok.putPieces core s.tok ps bs
        .ok (t, core, if t.tokHeld core s.tok then some s.tok else none))

/-- A swizzled row (R190): chunk `c` goes to chunk `c XOR (j mod 16)`. -/
def swizzle (j : Nat) (bs : List Byte) : List Byte :=
  (List.range (bs.length / 16)).flatMap (fun p => (bs.drop (16 * (p ^^^ (j % 16)))).take 16)

/-! ### Commands -/

def Core.findCmd (x : Core) (id : Nat) : Option Cmd := x.cmds.find? (fun c => c.id == id)
def State.modCmd (s : State) (core id : Nat) (f : Cmd → Cmd) : State :=
  s.modCore core (fun x => { x with cmds := x.cmds.map (fun c => if c.id = id then f c else c) })
/-- The team of a core takes no new work (R247, R253). -/
def State.teamStopped (s : State) (core : Nat) : Bool :=
  match s.teamOf core with
  | some (_, t) => t.st == .stopping || t.st == .suspended || t.st == .halted
  | none => true

/-- Cycles of `n` bytes' beats, 64 bytes a fabric cycle (R184). -/
def rowCycles (n : Nat) : Nat := fabricCycles ((n + 63) / 64 + 1)
/-- The copy engine of a core's cluster, which its four copy contexts share, moves the beats of `n` bytes (R184). -/
def State.takeBeats (s : State) (core n : Nat) : State :=
  s.modCluster (clusterOf core) (fun k => { k with beatAt := s.afterFabric ((n + 63) / 64) })
/-- A row waits for words that another holds (R178). -/
def Cmd.rowHeld (c : Cmd) (k : Nat) : Bool := c.waits.any (fun w => w.2.1 == k)
/-- Offer the landing of one of a command's outstanding rows, in an order the device does not fix (R187, R189); a fill row first, at its
point of the order of requests (R277). -/
def State.offerRow (s : State) (core id delay : Nat) : State :=
  match (s.core core).findCmd id with
  | none => s
  | some c =>
    let rs := c.rows.filter (fun r => !c.rowHeld r.k)
    match rs.find? (fun r => r.fill.isSome) with
    | some r => s.schedOnce delay (.copyRowWrite core id r.k)
    | none => match rs[s.pick rs.length]? with
      | some r => (s.spend rs.length).schedOnce delay (.copyRowWrite core id r.k)
      | none => s
/-- A command that has nothing left to do completes; a global destination is acknowledged first. -/
def State.finishCmd (s : State) (core id : Nat) : State :=
  match (s.core core).findCmd id with
  | none => s
  | some c =>
    if c.rows.isEmpty ∧ c.waits.isEmpty ∧ (c.sentAll ∨ c.err.isSome) then
      s.schedOnce (if isPad (match c.kind with
        | .scatter => fld c.desc 63 0
        | _ => fld c.desc 127 64) then 1 else 2 * Config.homeWay) (.copyCommandComplete core id)
    else s
/-- An error at an address ends a command's requests (R192). -/
def State.failCmd (s : State) (core id : Nat) (e : FCode) (a : Nat) : State :=
  let s := s.modCmd core id (fun c => { c with
    err := some (c.err.getD e), errAt := if c.err.isSome then c.errAt else a, rows := [], sentAll := true })
  ((s.forgetRefused core id).finishCmd core id).schedOnce 1 (.copyCommandStart core)
/-- Request rows of a box while fewer than eight are outstanding. -/
def requestRows : Nat → Cmd → Cmd
  | 0, c => c
  | n + 1, c =>
    if c.rows.length < 8 ∧ c.next < c.total then
      requestRows n { c with rows := c.rows ++ [c.boxRow c.next], next := c.next + 1, sentAll := c.next + 1 == c.total }
    else { c with sentAll := c.next == c.total }

/-- The core whose scratchpad holds a command's datum word: the destination's, or the issuer's (R186). -/
def Cmd.dwCore (c : Cmd) (core : Nat) : Nat :=
  let dst := match c.kind with
    | .scatter => fld c.desc 63 0
    | _ => fld c.desc 127 64
  if isAperture dst then padCore core dst else core
/-- A command's credit of `n` bytes, the error it reports (R168), or none where the target's team refuses it for now (R248). -/
def State.cmdCredit (s : State) (core id dst n : Nat) : Option State :=
  match (s.core core).findCmd id with
  | none => some s
  | some c =>
    let q := fld c.desc 480 464
    if fld c.desc 481 481 = 0 ∨ c.err.isSome then some s
    else match s.gate dst (s.core core).team with
      | .refuse => none
      | .drop => some (s.failCmd core id .teamBounds q)
      | .pass =>
        if refusedBefore (s.core dst).refused core id then none
        else match s.creditError dst q with
          | some e => some (s.failCmd core id e q)
          | none => some ((s.credit dst q n).letIn dst core id)
/-- A command waits for the walk of a page that the cluster TLB misses (R259). -/
def State.missCmd (s : State) (core id va : Nat) : State := (s.modCmd core id (fun c => { c with walk := some va })).startWalk core 16 va
def State.parkCmd (s : State) (core id va : Nat) : State := s.modCmd core id (fun c => { c with parked := some va })
def State.modRow (s : State) (core id k : Nat) (f : Row → Row) : State :=
  s.modCmd core id (fun c => { c with rows := c.rows.map (fun r => if r.k = k then f r else r) })
/-- A row has been written whole: its credit, and the command goes on. A credit that is refused is sent again (R248). -/
def State.endRow (s : State) (core id k dst : Nat) : State :=
  match (s.core core).findCmd id with
  | none => s
  | some c =>
    match s.cmdCredit core id dst c.len with
    | none => ((s.refuseAt dst core id).modRow core id k (fun r => { r with data := some [] })).schedOnce Config.resend (.copyRowWrite core id k)
    | some s =>
      let s := s.modCmd core id (fun c => { c with rows := c.rows.filter (fun x => x.k != k) })
      match (s.core core).findCmd id with
      | none => s
      | some c' =>
        if c'.err.isSome then s.finishCmd core id
        else
          let s := if c.kind = .copy then (s.modCmd core id (requestRows 8)).schedOnce 1 (.copyCommandStart core) else s
          (s.offerRow core id 1).finishCmd core id

/-- COPY under accumulate-on-write: row length, destination and strides are multiples of the element size (R187). -/
def Cmd.strideBad (c : Cmd) : Bool :=
  let d := c.desc
  c.kind == .copy && (awType (fld d 483 482)).elim false (fun t =>
    [fld d 159 128, fld d 127 64, fld d 383 352, fld d 415 384, fld d 447 416].any (fun v => v % accWidth t != 0))

/-- COPY_COMMAND_START (R184): the oldest command not yet active starts once the one before it has sent its reads, four at most. -/
def execCopyCommandStart (core : Nat) (s : State) : Res :=
  let x := s.core core
  let act := x.cmds.filter (·.active)
  .next (match x.cmds.find? (fun c => !c.active) with
    | none => s
    | some c =>
      if s.teamStopped core ∨ 4 ≤ act.length ∨ !(act.getLast?.elim true (·.sentAll)) then s
      else if x.anyOut c.after then s.schedOnce 8 (.copyCommandStart core)
      else
        let on (s : State) : State := s.modCmd core c.id (fun c => { c with active := true })
        if c.total = 0 then
          (match (on s).cmdCredit core c.id (c.dwCore core) 0 with
           | none => (s.refuseAt (c.dwCore core) core c.id).schedOnce Config.resend (.copyCommandStart core)
           | some s => ((s.modCmd core c.id (fun c => { c with sentAll := true })).finishCmd core c.id).schedOnce 1 (.copyCommandStart core))
        else if c.strideBad then (on s).failCmd core c.id .align (fld c.desc 127 64)
        else match c.kind with
          | .copy =>
            let s := (on s).modCmd core c.id (requestRows 8)
            (s.offerRow core c.id (fabricCycles 1 + (if isPad (fld c.desc 63 0) then 8 else 2 * Config.homeWay))).schedOnce 1
              (.copyCommandStart core)
          | _ => (on s).schedOnce (if isPad (fld c.desc 319 256) then 8 else 2 * Config.homeWay) (.gatherIndexBatch core c.id))

/-- GATHER_INDEX_BATCH (R189): eight indices give up to eight row requests; out-of-range rows are counted. -/
def execGatherIndexBatch (core id : Nat) (s : State) : Res :=
  .next (match (s.core core).findCmd id with
    | none => s
    | some c =>
      if c.err.isSome ∨ c.sentAll ∨ c.parked.isSome ∨ c.walk.isSome then s
      else if s.throttled.contains core then s.schedOnce (16 - s.now % 16) (.gatherIndexBatch core id)
      else
        let ix := fld c.desc 319 256 + 32 * c.next
        let n := Nat.min 8 (fld c.desc 383 352 - 8 * c.next)
        match s.copyRead core id ix 32 with
        | .err e => s.failCmd core id e ix
        | .stall => s.schedOnce Config.resend (.gatherIndexBatch core id)
        | .parked va => s.parkCmd core id va
        | .miss va => s.missCmd core id va
        | .ok (bs, s) =>
          let rows := (List.range n).map (fun i => c.indexRow (8 * c.next + i) (leNat ((bs.drop (4 * i)).take 4)))
          let s := { s with fresh := s.fresh + 1 }.modCmd core id (fun c => { c with
            rows := c.rows ++ rows, next := c.next + 1, sentAll := c.next + 1 == c.total
            oor := c.oor + (rows.filter (fun (r : Row) => r.fill.isSome)).length })
          let s := s.offerRow core id (fabricCycles 1 + 8)
          if c.next + 1 = c.total then s.schedOnce 1 (.copyCommandStart core)
          else s.schedOnce (12 + rowCycles (8 * c.len)) (.gatherIndexBatch core id))

/-- The bytes a row has still to write: those kept, its fill bytes, or what it reads, placed under R190. -/
def State.rowBytes (s : State) (core : Nat) (c : Cmd) (r : Row) : CopyRes (List Byte × State) :=
  match r.data, r.fill with
  | some bs, _ => .ok (bs, s)
  | none, some b => .ok (List.replicate c.len b, s)
  | none, none => (s.copyRead core c.id r.src c.len).andThen (fun (bs, t) =>
      .ok (if c.swz then swizzle r.k bs else bs, { t with fresh := t.fresh + 1 }))
/-- The bytes of a row that one event writes: up to the end of a 64-byte segment in a scratchpad, all of them at the homes (R278). -/
def segLen (a n : Nat) : Nat := if isPad a then Nat.min n (64 - a % 64) else n
/-- The span and element alignment of a whole row in a scratchpad, checked before its first byte is written. -/
def State.rowOk (s : State) (core : Nat) (c : Cmd) (r : Row) : CopyRes Unit :=
  if !isPad r.dst ∨ r.done ≠ 0 then .ok ()
  else (s.padSpan core c.id r.dst c.len true).andThen (fun (_, off) => if awBad (fld c.desc 483 482) off c.len then .err .align else .ok ())

/-- A row's write, not its read, is refused at its target: later writes of the source stay behind it (R248). -/
def State.refuseRow (s : State) (core : Nat) (c : Cmd) (r : Row) : State :=
  if isPad r.dst then (match s.padSpan core c.id r.dst 1 true with
    | .stall => s.refuseAt (padCore core r.dst) core c.id
    | _ => s)
  else s

/-- COPY_ROW_WRITE (R187, R189, R190, R278): the row is read whole, written segment by segment, then credits; nothing moves in a throttle
step of the core (R17). -/
def execCopyRowWrite (core id k : Nat) (s : State) : Res :=
  .next (match (s.core core).findCmd id with
    | none => s
    | some c =>
      match c.rows.find? (fun r => r.k == k) with
      | none => (s.offerRow core id 1).finishCmd core id
      | some r =>
        let beatAt := (s.cluster (clusterOf core)).beatAt
        let again (s : State) (d : Nat) : State := s.schedOnce d (.copyRowWrite core id k)
        if c.parked.isSome ∨ c.walk.isSome ∨ c.rowHeld k then s
        else if s.throttled.contains core then again s (16 - s.now % 16)
        else if s.now < beatAt then again s (beatAt - s.now)
        else if r.data = some [] then s.endRow core id k (if c.kind = .scatter ∧ r.fill.isSome then c.dwCore core else padCore core r.dst)
        else if c.kind = .scatter ∧ r.fill.isSome then s.endRow core id k (c.dwCore core)
        else match (s.rowOk core c r).andThen (fun _ => s.rowBytes core c r) with
          | .err e => s.failCmd core id e (if r.data.isNone ∧ r.fill.isNone ∧ e ≠ .align ∧ e ≠ .teamBounds then r.src else r.dst)
          | .stall => again (s.refuseRow core c r) Config.resend
          | .parked va => s.parkCmd core id va
          | .miss va => s.missCmd core id va
          | .ok (bs, t) =>
            let a := r.dst + r.done
            let n := segLen a bs.length
            match t.copyWrite core id a (fld c.desc 483 482) (bs.take n) with
            | .err e => s.failCmd core id e a
            | .stall => again (s.refuseRow core c r) Config.resend
            | .parked va => s.parkCmd core id va
            | .miss va => s.missCmd core id va
            | .ok (t, d, held) =>
              let t := t.takeBeats core n
              (match held with
               | some tok =>
                 -- the words another holds are written when it releases them
                 (t.modCmd core id (fun c => { c with waits := c.waits ++ [(tok, k, d)] })).offerRow core id 1
               | none =>
                 if bs.length ≤ n then t.endRow core id k d
                 else again (t.modRow core id k (fun r => { r with data := some (bs.drop n), done := r.done + n }))
                   ((t.cluster (clusterOf core)).beatAt - t.now)))

/-- A held word has taken the last waiting part of a row: the row is written whole. -/
def State.heldRowEnds (s : State) (core tok : Nat) : State :=
  match (s.core core).cmds.findSome? (fun c => (c.waits.find? (fun w => w.1 == tok)).map (fun w => (c.id, w.2.1, w.2.2))) with
  | some (id, k, d) =>
    let s := s.modCmd core id (fun c => { c with waits := c.waits.filter (fun w => w.1 != tok) })
    if ((s.core core).findCmd id).elim false (·.err.isSome) then s.finishCmd core id else s.endRow core id k d
  | none => s

/-- A command goes on after a page or a walk it waited for. -/
def State.goOnCmd (s : State) (core id : Nat) : State :=
  match (s.core core).findCmd id with
  | none => s
  | some c =>
    if c.parked.isSome ∨ c.walk.isSome then s
    else
      let s := if c.kind ≠ .copy ∧ !c.sentAll then s.schedOnce 1 (.gatherIndexBatch core id) else s
      s.offerRow core id 1
/-- Continue every command that is parked on a page (R192, R245). -/
def State.retryCmds (s : State) (core : Nat) (hit : Nat → Bool) : State :=
  (s.core core).cmds.foldl (fun s c =>
    if c.parked.elim false hit then (s.modCmd core c.id (fun c => { c with parked := none })).goOnCmd core c.id else s) s

/-! ### Schedules (R196, R197) -/

/-- Released schedule entries take the free places of their core's copy context (R184). -/
def State.admitSched (s : State) (core : Nat) : Nat → State
  | 0 => s
  | f + 1 =>
    match (s.core core).schWait, s.teamOf core with
    | (k, j) :: rest, some (_, t) =>
      if 16 ≤ (s.core core).cmds.length ∨ s.teamStopped core then s
      else
        let s := s.modCore core (fun x => { x with schWait := rest })
        (match (t.lr.sch[k]?).bind (·[j]?) with
         | some e =>
           let c : Cmd :=
             { id := s.tok, kind := e.kind, desc := e.desc, swz := e.swz, fill := e.fill, ctx := 0, tok := none, num := j + 1
               sched := some (k, j), active := false, next := 0, rows := [], sentAll := false, err := none, oor := 0, after := []
               parked := none }
           (s.newTok.modCore core (fun x => { x with cmds := x.cmds ++ [c] })).schedOnce 1 (.copyCommandStart core)
         | none => s).admitSched core f
    | _, _ => s
/-- SCHEDULE_ENTRY_RELEASE: the next entry of a schedule is released when its stage is reached, and takes a place of its core's copy context
when one is free. -/
def execScheduleEntryRelease (team sched : Nat) (s : State) : Res :=
  .next (match s.teams.find team with
    | none => s
    | some t =>
      match t.lr.sch[sched]?, t.scheds[sched]? with
      | some es, some st =>
        (match es[st.released]? with
         | none => s
         | some e =>
           let core := coreAt t.die (t.ox + e.cx) (t.oy + e.cy)
           if t.stage < e.stage ∨ s.teamStopped core then s
           else
             let s := s.modTeam team (fun t => { t with scheds := modAt (fun (y : SchedSt) => { y with released := y.released + 1 }) t.scheds sched })
             let s := s.modCore core (fun x => { x with schWait := x.schWait ++ [(sched, st.released)] })
             (s.admitSched core 16).schedOnce 0 (.scheduleEntryRelease team sched))
      | _, _ => s)

/-- The status word of R192. -/
def Cmd.status (c : Cmd) : Nat :=
  (c.err.elim 0 fcNum) * 2 ^ 56 + Nat.min c.oor 255 * 2 ^ 48 + c.num % 2 ^ 48
/-- COPY_COMMAND_COMPLETE (R192, R194): the status word, or a log entry, and the chainage number; a schedule entry that waits comes
first to the free place (R184). -/
def execCopyCommandComplete (core id : Nat) (s : State) : Res :=
  .next (match (s.core core).findCmd id with
    | none => s
    | some c =>
      let s := s.modCore core (fun x => { x with cmds := x.cmds.filter (fun y => y.id != id) })
      let s := match c.tok, c.err with
        | some t, _ => s.sched 0 (.pendingCompletionWrite core c.ctx t (BitVec.ofNat 64 c.status))
        | none, some e =>
          (match c.sched with
           | some (k, j) => s.sched 0 (.faultLogEntry core 0 ⟨e, 4, BitVec.ofNat 64 c.errAt, k * 2 ^ 46 + j % 2 ^ 46⟩)
           | none => s.sched 0 (.faultLogEntry core c.ctx ⟨e, 3, BitVec.ofNat 64 c.errAt, c.num % 2 ^ 48⟩))
        | none, none => s
      let s := match c.sched with
        | some (k, _) =>
          (match (s.core core).team with
           | some t => s.modTeam t (fun u => { u with scheds := modAt (fun (y : SchedSt) =>
               let r := chainDone y.ctr y.done c.num; { y with ctr := r.1, done := r.2 }) u.scheds k })
           | none => s)
        | none => s.modCore core (fun x => let r := chainDone x.copyCtr x.copyDone c.num; { x with copyCtr := r.1, copyDone := r.2 })
      let s := s.admitSched core 16
      s.schedOnce 1 (.copyCommandStart core))

/-! ### The instructions -/

/-- COPY, GATHER and SCATTER (R297): the descriptor is checked and read at issue. -/
def State.copyOp (s : State) (kind : CmdKind) (dst base : Reg) (disp : BitVec 16) (swz : Bool) (fill : Byte) : Res :=
  .next (s.runOp [base] (some dst) (fun vs =>
    let a := effAddr16 (vs.getD 0 0) disp
    match s.localSpan a 64 64 with
    | some f => eFault f a 0
    | none =>
      if s.badIn (spad s.curCore a) 64 then eFault .memErr a 0
      else
        let d := s.localNat a 64
        match cmdBad kind swz d with
        | some b => eFault .format a b
        | none =>
          if 16 ≤ (s.core s.curCore).cmds.length then .wait .copyQ id
          else
            let go : Eff := .ok (fun s =>
              let x := s.core s.curCore
              let c : Cmd :=
                { id := s.tok, kind := kind, desc := d, swz := swz, fill := fill, ctx := s.curCtx
                  tok := if dst = .z then none else some s.tok, num := x.copyNum + 1, sched := none, active := false, next := 0
                  rows := [], sentAll := false, err := none, oor := 0, after := s.me.barrier, parked := none }
              let s := s.modMe (fun m => { m.addPend dst s.tok false with lastCopy := x.copyNum + 1 })
              let s := s.newTok.modCore s.curCore (fun x => { x with cmds := x.cmds ++ [c], copyNum := x.copyNum + 1 })
              (s.schedOnce 1 (.copyCommandStart s.curCore)).advance)
            if dst = .z then go else s.withPend go))
def execCopy (dst base : Reg) (disp : BitVec 16) (swz : Bool) (s : State) : Res := s.copyOp .copy dst base disp swz 0
def execGather (dst base : Reg) (disp : BitVec 16) (swz : Bool) (fill : BitVec 8) (s : State) : Res :=
  s.copyOp .gather dst base disp swz fill
def execScatter (dst base : Reg) (disp : BitVec 16) (s : State) : Res := s.copyOp .scatter dst base disp false 0

end Sys2Proof.Machine
end

