-- ==== Sys2Proof/Machine/Barrel.lean ====
section
/-! DEFINITION. Meanings of the barrel core's own events: replies, completion writes, window traffic, throttle steps, trap entry, soft
errors, the fault log and trigger notices (R9, R65, R66, R71, R73, R209, R239 to R242). -/

namespace Sys2Proof.Machine

/-! ### Trap entry and light calls that waited for a spill (R151, R239) -/

/-- Complete the trap entry or light call of a context once its window has room. -/
def State.finishEntry (s : State) (c n : Nat) : State :=
  let x := s.ctx c n
  if x.room = .spill ∨ x.room = .blocked then s
  else match x.park with
    | some (.trapEntry code w1 w2 w3) =>
      (match s.handler c with
       | some h => s.setCtx c n { x.enterTrap h code w1 w2 w3 with readyAt := s.now + 1 }
       | none => s.haltTeam c n code w1 w2 w3)
    | some (.lightCall d v) => s.setCtx c n { x.enterLight ((s.core c).handler d) d v with readyAt := s.now + 1 }
    | _ => s

/-- TRAP_ENTRY (R239): the waiting entry completes, or the fault is taken at the context's bundle. -/
def execTrapEntry (core ctx : Nat) (code : FCode) (w2 w3 : Word) (s : State) : Res :=
  .next (match (s.ctx core ctx).park with
    | some (.trapEntry ..) | some (.lightCall ..) => s.finishEntry core ctx
    | _ => if (s.ctx core ctx).live then s.trap core ctx code (s.ctx core ctx).pc w2 w3 else s)

/-- SOFT_ERROR (R241): fatal. -/
def execSoftError (core ctx : Nat) (s : State) : Res :=
  .next (if (s.ctx core ctx).live then s.trap core ctx .soft (s.ctx core ctx).pc 0 0 else s)

/-- FAULT_LOG_ENTRY (R242). -/
def execFaultLogEntry (core ctx : Nat) (e : LogEnt) (s : State) : Res := .next (s.logFault core ctx e)

/-- TRIGGER_NOTICE (R209). -/
def execTriggerNotice (core ctx : Nat) (s : State) : Res :=
  .next ((s.modCtx core ctx (fun x => { x with noticed := true })).schedOnce 0 .placement)

/-! ### Replies (R9, R66, R316, R381) -/

/-- The value a reply carries. -/
def replyVal : Reply → Word
  | .word v => v
  | _ => 0
def replyData : Reply → List Byte
  | .bytes bs => bs
  | _ => []

/-- Write the result of a result park. -/
def State.writeResult (s : State) (c n : Nat) (res : Result) (r : Reply) : State :=
  match res with
  | .put dst => s.putCtx c n dst (replyVal r)
  | .load dst k signed a fwd => s.putCtx c n dst (loadWord k signed (leNat (mergeReply fwd k a (replyData r))))
  | .vload v a fwd => s.modCtx c n (fun x => x.writeV v (BitVec.ofNat 256 (leNat (mergeReply fwd 32 a (replyData r)))))
  | .hold dst a pa => ((s.putCtx c n dst (replyVal r)).modCtx c n (fun x => { x with held := x.held ++ [⟨a, pa⟩] })).acquire c (.hw a)
  | .answer dst => (s.putCtx c n dst (replyVal r)).cacheDropAll c
  | .none => s
  | .generation => s.modCore c (fun k => { k with gen := k.gen + 1 })

/-- A queue destination's credit returns when its bundle takes a fault instead. (DEDUCED, log entry 45.) -/
def State.refund (s : State) (c : Nat) (res : Result) : State :=
  match res with
  | .put (.q d) | .load (.q d) .. | .hold (.q d) .. | .answer (.q d) =>
    s.modCore c (fun k => { k with credits := k.credits.set (dirNum d) (k.credit d + 1) })
  | _ => s
/-- Remove the first event that satisfies a test, and whether there was one. -/
def cutEvent (p : Nat × Instr → Bool) : List (Nat × Instr) → List (Nat × Instr) × Bool
  | [] => ([], false)
  | e :: es => if p e then (es, true) else let r := cutEvent p es; (e :: r.1, r.2)
/-- Put a popped entry back at the head of its queue: its credit is not returned, or is taken back. (DEDUCED, log entry 45.) -/
def State.unpop (s : State) (c at_ : Nat) (p : Dir × QEnt) : State :=
  let k := neighbour c p.1
  let r := cutEvent (fun e => e.1 == at_ + 8 && e.2 == .creditReturn k (dirOpp p.1)) s.agenda
  let s := s.modCore c (fun x => { x with qin := x.qin.set (dirNum p.1) (p.2 :: x.inq p.1) })
  if r.2 then { s with agenda := r.1 }
  else s.modSide c k (fun x => { x with credits := x.credits.set (dirNum (dirOpp p.1)) (x.credit (dirOpp p.1) - 1) })
/-- A bundle whose park ends in a fault leaves both slots without effect (R68). -/
def State.undoBundle (s : State) (c n : Nat) : State :=
  match (s.ctx c n).undo with
  | some u =>
    u.pops.foldl (fun (s : State) p => s.unpop c u.at_ p)
      (s.modCtx c n (fun x => { x with v := u.v, m := u.m, flags := u.flags, undo := none }))
  | none => s

/-- End the result park, or complete the pending register, that a number names. -/
def State.reply (s : State) (c n tok : Nat) (r : Reply) : State :=
  let x := s.ctx c n
  match x.park with
  | some (.result t len res) =>
    if t = tok then
      (match r with
       | .fault code a => ((((s.refund c res).undoBundle c n).modCtx c n (fun x => { x with park := none })).trap c n code x.pc a 0)
       | _ => (s.writeResult c n res r).modCtx c n (fun x => { x with
           park := none, undo := none, readyAt := s.now + 1, pc := x.pc + BitVec.ofNat 64 len, src := 0, prodRec := none, since := none, image := none, xlat := none }))
    else (match r with
      | .fault code a => s.modCtx c n (fun x => { x with pend := x.pend.map (fun p => if p.tok = tok then { p with bad := some (code, a) } else p) })
      | _ => s.complete c n tok (replyVal r))
  | _ => (match r with
    | .fault code a => s.modCtx c n (fun x => { x with pend := x.pend.map (fun p => if p.tok = tok then { p with bad := some (code, a) } else p) })
    | _ => s.complete c n tok (replyVal r))

/-- REPLY_WRITE. -/
def execReplyWrite (core ctx tok : Nat) (r : Reply) (s : State) : Res := .next (s.reply core ctx tok r)

/-- PENDING_COMPLETION_WRITE (R73). -/
def execPendingCompletionWrite (core ctx tok : Nat) (v : Word) (s : State) : Res := .next (s.complete core ctx tok v)

/-! ### Window traffic (R71) -/

/-- The oldest resident window of a context that an eager spill would take: no valid copy, nothing pending in it, and a place in the
stack. -/
def State.dirtyWindow (s : State) (c n : Nat) : Option Nat :=
  let x := s.ctx c n
  let valid (k : Nat) : Bool := (x.win k).clean && (k != x.oldest || x.recvClean)
  if x.live then
    ((List.range (x.depth + 1 - x.oldest)).map (fun j => x.oldest + j)).find? (fun k =>
      x.resident k && !valid k && !x.winPending k && 128 * k ≤ s.wss c)
  else none
/-- EAGER_SPILL. -/
def execEagerSpill (core : Nat) (s : State) : Res :=
  .next (match (List.range 16).findSome? (fun n => (s.dirtyWindow core n).map (fun k => (n, k))) with
    | some (n, k) => s.spillWindow core n k
    | none => s)

/-- A context that waits for a window to be spilled, and can have it. -/
def State.wantsSpill (s : State) (c n : Nat) : Bool :=
  let x := s.ctx c n
  x.live && x.room == .spill && (match x.park with
    | some (.cond .spill _) | some (.trapEntry ..) | some (.lightCall ..) => true
    | _ => false)
/-- WINDOW_SPILL: what waited for it completes; a CALL re-executes at the end of the cycle (R68). -/
def execWindowSpill (core ctx : Nat) (s : State) : Res :=
  .next (if s.wantsSpill core ctx then
      let s := s.spillWindow core ctx (s.ctx core ctx).oldest
      match (s.ctx core ctx).park with
      | some (.cond ..) => s
      | _ => s.finishEntry core ctx
    else s)

/-- A context that waits for the window below its oldest, with a slot for it. -/
def State.wantsRefill (s : State) (c n : Nat) : Option Nat :=
  let x := s.ctx c n
  match x.park with
  | some (.cond (.refill k) _) => if x.live ∧ k + 1 = x.oldest ∧ x.slotsUsed < 4 then some k else none
  | _ => none
/-- WINDOW_REFILL: the RET or ERET re-executes at the end of the cycle (R68). -/
def execWindowRefill (core ctx : Nat) (s : State) : Res :=
  .next (match s.wantsRefill core ctx with
    | some k => s.refillWindow core ctx k
    | none => s)

/-! ### Throttle steps (R17, R65, R121) -/

/-- The engines of a core's links stand, or go on. -/
def State.driveLinks (s : State) (c : Nat) : State :=
  allDirs.foldl (fun (s : State) d => if (s.eng (linkId c d)).runs then s.driveEng (linkId c d) 0 else s) s

/-- THROTTLE_STEP_BEGIN: at a rotation boundary. -/
def execThrottleStepBegin (core : Nat) (s : State) : Res :=
  .next (if s.now % 16 = 0 then { s with throttled := insertNat core s.throttled }.driveLinks core
    else s.schedOnce (16 - s.now % 16) (.throttleStepBegin core))
/-- THROTTLE_STEP_END. -/
def execThrottleStepEnd (core : Nat) (s : State) : Res :=
  .next (if s.now % 16 = 0 then { s with throttled := removeNat core s.throttled }.driveLinks core
    else s.schedOnce (16 - s.now % 16) (.throttleStepEnd core))

end Sys2Proof.Machine
end

