-- ==== Sys2Proof/Machine/Sys.lean ====
section
/-! DEFINITION. Meanings of the system registers, of the steward's device registers and of the service queue (R261, R262, R273, R354 to
R356). Steward core `k` is core `Config.cores + k`. -/

namespace Sys2Proof.Machine

/-- The core of steward core `k`. -/
def stewardCore (k : Nat) : Nat := Config.cores + k
/-- End the park of a steward core's device-scope write (R354). -/
def State.wakeSteward (s : State) (k : Nat) : State :=
  match (s.ctx (stewardCore k) 0).park with
  | some (.result t _ .none) => s.reply (stewardCore k) 0 t .done
  | _ => s
/-- F_ILLEGAL, reason 0x0C, at a steward core's bundle. -/
def State.refuseSteward (s : State) (k : Nat) : State :=
  (s.modCtx (stewardCore k) 0 (fun x => { x with park := none })).trap (stewardCore k) 0 .illegal (s.ctx (stewardCore k) 0).pc 0
    (BitVec.ofNat 64 (0x0C + 256))

/-! ### The service queue (R356) -/

/-- The SVCREQ word. -/
def svcWord (r : SvcReq) : Nat :=
  2 ^ 63 + r.svc * 2 ^ 48 + r.node * 2 ^ 32 + r.slot * 2 ^ 22 + coreDie r.core * 2 ^ 20 + coreY r.core * 2 ^ 15 + coreX r.core * 2 ^ 10
    + r.ctx * 2 ^ 6
/-- Pop the oldest request for steward core `k`: the word, or 0. -/
def State.svcPop (s : State) (k : Nat) (dst : Reg) : State :=
  match s.svcq with
  | [] => s.putCtx (stewardCore k) 0 dst 0
  | r :: rs =>
    (({ s with svcq := rs }.modSteward k (fun x => { x with popped := some r, svcarg := r.arg }))).putCtx (stewardCore k) 0 dst
      (BitVec.ofNat 64 (svcWord r))
/-- SVCREQ: a steward core's read of the register. -/
def execSvcreq (k : Nat) (dst : Reg) (s : State) : Res := .next (s.svcPop k dst)

/-- Cycles from an SVCANS write to the trapping core: a control-port crossing and the fabric path from its column's port (R233, R237). -/
def answerCycles (c : Nat) : Nat := 12 + 40 + 3 * hopCount (coreAt (coreDie c) (3 * (coreX c / 3) + 1) 12) c
/-- Answer the request last popped. -/
def State.svcAnswer (s : State) (k : Nat) (v : Word) : State :=
  match (s.steward k).popped with
  | some r => (s.modSteward k (fun x => { x with popped := none })).sched (answerCycles r.core) (.trapAnswer r.core r.ctx v)
  | none => s
/-- SVCANS: a steward core's write of the register. -/
def execSvcans (k : Nat) (v : Word) (s : State) : Res := .next (s.svcAnswer k v)
/-- TRAP_ANSWER. -/
def execTrapAnswer (core ctx : Nat) (v : Word) (s : State) : Res :=
  .next (match (s.ctx core ctx).park with
    | some (.result t _ (.answer _)) => s.reply core ctx t (.word v)
    | _ => s)

/-! ### Writes of device scope, as they are applied -/

/-- The window of a SPANIN write: link, base and size in units of 2^30; none if it is refused (R355). (DEDUCED, log entry 67.) -/
def spaninOf (v : Word) : Option (Nat × Nat × Nat) :=
  let l := fld v.toNat 4 0
  let base := fld v.toNat 27 8
  let size := fld v.toNat 47 28
  if 23 < l ∨ (size ≠ 0 ∧ 752 < base + size) then none else some (l, base * 2 ^ 30, size * 2 ^ 30)
/-- SPANIN. -/
def execSpanin (k : Nat) (v : Word) (s : State) : Res :=
  .next (match spaninOf v with
    | some (l, b, n) => { s with spanin := s.spanin.set l (b, n) }.wakeSteward k
    | none => s.refuseSteward k)

/-- The root of a SLOTROOT write; none if it is not local HBM. -/
def slotRootOf (v : Word) : Option (Nat × Nat) :=
  let root := fld v.toNat 51 16 * 65536
  if root < Config.hbmTop then some (fld v.toNat 63 54, root) else none
/-- SLOTROOT (R262). -/
def execSlotroot (k : Nat) (v : Word) (s : State) : Res :=
  .next (match slotRootOf v with
    | some (sl, root) => (s.modSlot sl (fun x => { x with root := root })).wakeSteward k
    | none => s.refuseSteward k)

/-- The value of an ESCWAIT write; none outside 16 to 4,096. -/
def escwaitOf (v : Word) : Option Nat := let n := fld v.toNat 12 0; if 16 ≤ n ∧ n ≤ 4096 then some n else none
/-- ESCWAIT. -/
def execEscwait (k : Nat) (v : Word) (s : State) : Res :=
  .next (match escwaitOf v with
    | some n => { s with escwait := n }.wakeSteward k
    | none => s.refuseSteward k)

/-- The page of an address may be the page of a TLBINV address: pages are at most 1 GiB. -/
def samePage (all : Bool) (va a : Nat) : Bool := all || a / 2 ^ 30 == va / 2 ^ 30
/-- A page of a size holds both addresses. -/
def inPage (all : Bool) (va a size : Nat) : Bool := all || a / size == va / size
/-- An access made before request number `t` that used a translation of the page is not yet performed at its home (R261). -/
def State.oldAccess (s : State) (t : Nat) (all : Bool) (va : Nat) : Bool :=
  let old (r : HomeReq) : Bool := r.tok < t && inPage all va r.va r.size
  s.cores.cells.any (fun c =>
    c.2.wcb.any (fun w => w.tok < t && inPage all va w.va w.size)
    -- beyond the device an access is performed when it is acknowledged
    || c.2.unacked.any (fun o => o.tok < t && (match o.kind with
        | .atomic p a | .wc p a | .xread p a => paKind p != .hbm && samePage all va a
        | .remote _ => false))
    || c.2.inj.any (fun i => match i.body with
        | .home r => old r
        | _ => false))
  || s.agenda.any (fun e => match e.2 with
      | .homeRequestArrival r | .holdResend r => old r
      | _ => false)
  || s.dies.cells.any (fun d => d.2.resq.any old)
  || s.holds.cells.any (fun h => h.2.queue.any old)
/-- Drop what a TLBINV matches from every TLB, and from the walks already fetched for parked bundles. (DEDUCED, log entry 44.) -/
def State.dropTlb (s : State) (all : Bool) (va : Nat) : State :=
  let hit (e : TlbE) : Bool := all || (e.va ≤ va && va < e.va + e.size)
  { s with
    cores := s.cores.mapAll (fun _ (c : Core) => { c with utlb := c.utlb.filter (fun e => !hit e) })
    clusters := s.clusters.mapAll (fun _ (c : Cluster) => { c with tlb := c.tlb.filter (fun e => !hit e) })
    ctxs := s.ctxs.mapAll (fun _ (x : Ctx) => { x with xlat := match x.xlat with
      | some (sp, r, e) => if samePage all va (r * 65536) then none else some (sp, r, e)
      | none => none }) }
/-- TLBINV (R261): the TLBs drop the entry; a walk reads its tables when it ends; the earlier accesses of the page are awaited. -/
def execTlbinv (k : Nat) (v : Word) (s : State) : Res :=
  let all := bit v.toNat 0
  let va := fld v.toNat 51 16 * 65536
  .next (
    let t := (s.steward k).inv.getD s.tok
    let s := if (s.steward k).inv.isNone then s.dropTlb all va else s
    if s.oldAccess t all va then (s.modSteward k (fun x => { x with inv := some t })).sched 8 (.tlbinv k v)
    else (s.modSteward k (fun x => { x with inv := none })).wakeSteward k)

/-- The running team of a node of a slot's replay. -/
def State.runningTeam (s : State) (slot node : Nat) : Option Nat :=
  (s.teams.cells.find? (fun t => t.2.slot == slot && t.2.node == node && t.2.st == .running)).map (·.1)
/-- Begin a switch-out: step 1 comes at the next rotation boundary (R247). -/
def State.beginSwitch (s : State) (t : Nat) (w : Option (Nat × Nat)) : State :=
  { s with switch := some ⟨t, 1, s.now, 0, w⟩ }.sched ((16 - s.now % 16) % 16) (.preemptStopIssue t)
/-- SWREQ (R273): a switch-out in progress is waited for (R225). -/
def execSwreq (k : Nat) (v : Word) (s : State) : Res :=
  .next (match s.runningTeam (fld v.toNat 41 32) (fld v.toNat 15 0) with
    | none => s.wakeSteward k
    | some t =>
      if s.switch.isSome then s.sched 16 (.swreq k v)
      else s.beginSwitch t (match (s.ctx (stewardCore k) 0).park with
        | some (.result tok _ .none) => some (k, tok)
        | _ => none))

/-! ### SYSRD and SYSWR -/

/-- The value SYSRD gives, but for SVCREQ (R355). -/
def State.sysValue (s : State) (n : Nat) : Word :=
  let c := s.curCore
  let st := isSteward c
  let x := s.me
  let k := s.steward (c - Config.cores)
  match n with
  | 0x000 => (match s.teamOf c with
      | some (_, t) => BitVec.ofNat 64 t.lr.nbv
      | none => 3)
  | 0x001 => BitVec.ofNat 64 (flagsWord x.flags)
  | 0x002 => BitVec.ofNat 64 x.flogn
  | 0x003 => BitVec.ofNat 64 (s.logBase c s.curCtx)
  | 0x004 => BitVec.ofNat 64 s.now
  | 0x005 => if st then 16 else BitVec.ofNat 64 x.weight
  | 0x010 => BitVec.ofNat 64 s.dbghz.toNat
  | 0x011 => BitVec.ofNat 64 s.evictwait
  | 0x012 => BitVec.ofNat 64 s.preemptwait
  | 0x013 => BitVec.ofNat 64 s.escwait
  | 0x023 => k.svcarg
  | 0x026 => k.stroot
  | 0x028 => k.stvec
  | _ => 0

/-- F_ILLEGAL with reason 0x09: a number that is not in the map; sreg is the extension's lowest field. -/
def eNoReg : Eff := .trap .illegal 0 (BitVec.ofNat 64 (0x09 + 256 + 64 * 2 ^ 16))

/-- SYSRD (R354). (DEDUCED, log entry 18.) -/
def execSysrd (dst : Reg) (sreg : BitVec 12) (s : State) : Res :=
  let n := sreg.toNat
  let st := isSteward s.curCore
  .next (s.runOp [] (some dst) (fun _ =>
    if !sregOk n then eNoReg
    else if !st && sregPriv n false then .trap .priv 0 0
    else if n = 0x022 then .ok (fun s => (s.svcPop (s.curCore - Config.cores) dst).advance)
    else .ok (fun s => (s.put dst (s.sysValue n)).advance)))

/-- A write of device scope parks until every die has applied it. -/
def devWrite (i : Instr) : Eff := .ok (fun s => (s.sched Config.deviceWrite i).parkResult .none)
/-- SYSWR (R354). -/
def execSyswr (sreg : BitVec 12) (src : Reg) (s : State) : Res :=
  let n := sreg.toNat
  let st := isSteward s.curCore
  let k := s.curCore - Config.cores
  .next (s.runOp [src] none (fun vs =>
    let v := vs.getD 0 0
    let mine (f : Ctx → Ctx) : Eff := .ok (fun s => (s.modMe f).advance)
    let own (f : Steward → Steward) : Eff := .ok (fun s => (s.modSteward k f).advance)
    if !sregOk n then eNoReg
    else if !st && sregPriv n true then .trap .priv 0 0
    else match n with
      | 0x001 => mine (fun x => { x with flags := flagsOf v.toNat })
      | 0x002 => mine (fun x => { x with flogn := if st then 0 else v.toNat % 256 })
      | 0x010 => devWrite (.registerWrite (.dbghz k) v)
      | 0x011 => devWrite (.registerWrite (.evictwait k) v)
      | 0x012 => devWrite (.registerWrite (.preemptwait k) v)
      | 0x013 => if (escwaitOf v).isNone then eRefuse else devWrite (.escwait k v)
      | 0x020 => devWrite (.tlbinv k v)
      | 0x021 =>
        if (s.runningTeam (fld v.toNat 41 32) (fld v.toNat 15 0)).isNone then .ok State.advance
        else .ok (fun s => (s.sched 0 (.swreq k v)).parkResult .none)
      | 0x024 => .ok (fun s => (s.svcAnswer k v).advance)
      | 0x025 => if (slotRootOf v).isNone then eRefuse else devWrite (.slotroot k v)
      | 0x026 => own (fun x => { x with stroot := BitVec.ofNat 64 (fld v.toNat 51 16 * 65536) })
      | 0x027 => if (spaninOf v).isNone then eRefuse else devWrite (.spanin k v)
      | 0x028 => own (fun x => { x with stvec := BitVec.ofNat 64 (fld v.toNat 51 2 * 4) })
      | _ => eRefuse))

end Sys2Proof.Machine
end

