-- ==== Sys2Proof/Machine/Fabric.lean ====
section
/-! DEFINITION. Meanings of the fabric's events: injection, arbitration, escape, the arrival of remote stores and RST.fe, and
acknowledgements (R160, R166, R168, R198, R230 to R235, R242, R248, R253). -/

namespace Sys2Proof.Machine

/-! ### Injection (R234) -/

/-- The key under which a router notes the cycle from which its core may inject again, and the one for the last arrival it has ordered
of the SYNC class. -/
def injKey : Nat := 7
def syncKey : Nat := 6
/-- An entry finds the buffer it needs. -/
def State.injRoom (s : State) (core : Nat) (e : Inj) : Bool :=
  match e.body with
  | .pkt p => (s.router core).takesLocal p
  | _ => true
/-- INJECTION_SEND: the oldest eligible entry leaves, one in a fabric cycle; a marker that leaves ends its fence (R207). (DESIGN CHOICE,
log entry 6.) -/
def execInjectionSend (core : Nat) (s : State) : Res :=
  let x := s.core core
  .next (match (x.pickInj s.backPressure [] 0 x.inj).bind (fun k => (x.inj[k]?).map (fun e => (k, e))) with
    | none => s
    | some (k, e) =>
      let from_ := Table.get 0 (s.router core).busy injKey
      if s.now < e.ready then s.schedSoon (e.ready - s.now) (.injectionSend core)
      else if s.now < from_ then s.schedSoon (from_ - s.now) (.injectionSend core)
      else if !s.injRoom core e then s.schedSoon s.toFabric (.injectionSend core)
      else
        let s := (s.modCore core (fun x => { x with inj := x.inj.take k ++ x.inj.drop (k + 1) })).modRouter core (fun r => { r with
          busy := r.busy.set injKey (s.now + s.toFabric) })
        let s := match e.body with
          | .home r => s.sendHome r (Config.homeWay - injDelay)
          | .pkt p => s.enterRouter core p
          | .marker ctx tok => s.sched 0 (.replyWrite core ctx tok .done)
        s.pump core)

/-! ### Arbitration (R230 to R235) -/

/-- A head that requests an output: channel key, packet, ageing counter. -/
structure Req where
  key : Nat
  pkt : Pkt
  age : Nat
deriving DecidableEq, Repr

/-- The heads that have reached the router and request an output, in the order of R235's ports and channels. -/
def State.requests (s : State) (c port : Nat) : List Req :=
  let r := s.router c
  ((List.range 6).flatMap (fun p => (List.range 4).flatMap (fun k => [2, 3, 0, 1].map (fun sub => chanKey p k sub)))).filterMap
    (fun key => match (r.chan key).q with
      | p :: _ => if p.at_ ≤ s.now ∧ s.outPort c (key % 4) p = port then some ⟨key, p, (r.chan key).age⟩ else none
      | [] => none)

/-- The channel a packet would enter at the next router: the freer adaptive channel, or the escape half of its ring (R231, R232). -/
def State.nextChan (s : State) (c port : Nat) (q : Req) : Nat × Nat :=
  let pr := pktPeer c port q.pkt.dst
  let k := clsNum q.pkt.cls
  let sub := q.key % 4
  if sub < 2 ∧ q.pkt.cls ≠ .sync then
    let f (j : Nat) : Nat := ((s.router pr.1).chan (chanKey pr.2 k j)).free
    (pr.1, chanKey pr.2 k (if f 0 < f 1 then 1 else 0))
  else
    -- the second half from the dateline on, the first half at the start of each ring
    let cross := (port = 0 ∧ coreX c = 23) ∨ (port = 2 ∧ coreX c = 0) ∨ (port = 1 ∧ coreY c = 23) ∨ (port = 3 ∧ coreY c = 0)
    let sameRing := q.key / 16 < 4 ∧ q.key / 16 % 2 = port % 2
    (pr.1, chanKey pr.2 k (if port < 4 ∧ (cross ∨ (sub = 3 ∧ sameRing)) then 3 else 2))
/-- It has the buffers for the packet; the local port always has. -/
def State.canTake (s : State) (c port : Nat) (q : Req) : Bool :=
  port == 5 || (let n := s.nextChan c port q; q.pkt.flits ≤ ((s.router n.1).chan n.2).free)

/-- `a` is preferred to `b`, which precedes it in the order of ports and channels (R235). -/
def Req.beats (last : Nat) (a b : Req) : Bool :=
  let p (r : Req) : Nat := r.key / 16
  if a.age = 255 ∨ b.age = 255 then
    (if a.age = b.age then p a < p b else a.age == 255)
  else if a.pkt.prio ≠ b.pkt.prio then b.pkt.prio < a.pkt.prio
  else if a.age ≠ b.age then b.age < a.age
  else (p a + 5 - last) % 6 < (p b + 5 - last) % 6
def bestReq (last : Nat) : List Req → Option Req
  | [] => none
  | r :: rs => some (rs.foldl (fun b a => if a.beats last b then a else b) r)

/-- The requesters that are not granted age, and wait on (R232, R235). -/
def State.ageHeads (s : State) (c : Nat) (qs : List Req) : State :=
  qs.foldl (fun (s : State) q =>
    let s := s.modRouter c (fun r => { r with chans := r.chans.set q.key { r.chan q.key with
      age := Nat.min 255 (q.age + 1)
      q := match (r.chan q.key).q with
        | p :: ps => { p with wait := p.wait + 1 } :: ps
        | [] => [] } })
    if q.key % 4 < 2 ∧ q.pkt.cls ≠ .sync ∧ s.escwait ≤ q.pkt.wait + 1 then s.schedOnce 0 (.escapeEntry c q.key) else s) s

/-- Cycles from the local port's grant to the core: an acknowledgement's, another packet's (R237). (DESIGN CHOICE, log entry 5.) -/
def ejectDelay (p : Pkt) : Nat := if p.body = PktBody.ack then 12 else 20
/-- A packet leaves the router for its core; the SYNC class keeps its order (R200). -/
def State.eject (s : State) (c : Nat) (p : Pkt) : State :=
  if p.cls = .sync then
    let at_ := Nat.max (s.now + ejectDelay p) (Table.get 0 (s.router c).busy syncKey)
    (s.modRouter c (fun r => { r with busy := r.busy.set syncKey at_ })).sched (at_ - s.now) (arrivalOf p)
  else s.sched (ejectDelay p) (arrivalOf p)
/-- Grant an output to a requester: every flit follows in consecutive fabric cycles. Both bridges of a corner core share its port 4, with
its buffers and its one grant at a time. (DESIGN CHOICE, log entry 78.) -/
def State.grant (s : State) (c port : Nat) (q : Req) : State :=
  let nx := s.nextChan c port q
  let s := s.modRouter c (fun r => { r with
    chans := r.chans.set q.key ⟨(r.chan q.key).q.tail, 0⟩
    last := r.last.set port (q.key / 16)
    busy := r.busy.set port (s.afterFabric q.pkt.flits) })
  let s := if port = 5 then s.eject c q.pkt else s.enterChan nx.1 nx.2 (if port = 4 then 9 else 3) q.pkt
  if q.key / 16 = 5 then s.admitLocal c else s

/-- OUTPUT_ARBITRATION: one output in one fabric cycle. A head may request another output by then, which is offered next. -/
def execOutputArbitration (core port : Nat) (s : State) : Res :=
  let qs := s.requests core port
  let r := s.router core
  .next (if qs.isEmpty then s.kickRouter core
    else
      let pick := if s.now < Table.get 0 r.busy port then none
        else bestReq (Table.get 5 r.last port) (qs.filter (s.canTake core port))
      match pick with
      | none => (s.ageHeads core qs).kickRouter core
      | some q =>
        let s := (s.ageHeads core (qs.filter (fun k => k.key != q.key))).grant core port q
        s.kickRouter core)

/-- ESCAPE_ENTRY (R232): a head that has waited ESCWAIT fabric cycles goes to the escape channel of its class. -/
def execEscapeEntry (core chan : Nat) (s : State) : Res :=
  let r := s.router core
  let key := chan - chan % 4 + 2
  .next (match (r.chan chan).q with
    | p :: ps =>
      if chan % 4 < 2 ∧ s.escwait ≤ p.wait ∧ p.flits ≤ (r.chan key).free then
        let s := s.modRouter core (fun r => { r with
          chans := (r.chans.set chan ⟨ps, 0⟩).set key { r.chan key with q := (r.chan key).q ++ [p] } })
        (if chan / 16 = 5 then s.admitLocal core else s).kickRouter core
      else s
    | [] => s)

/-! ### Arrivals at a core -/

/-- The aperture address of a scratchpad byte (R160). -/
def apertureAddr (c off : Nat) : Word := BitVec.ofNat 64 (0x40000000 + coreDie c * 2 ^ 27 + coreY c * 2 ^ 22 + coreX c * 2 ^ 17 + off)
/-- The acknowledgement's time back at the sender (R237). -/
def ackCycles (src dst : Nat) : Nat := 12 + 3 * hopCount dst src
/-- Acknowledge operation `tok` of a context at core `src`, from core `c`: a packet of the SYNC class (R198, R200). -/
def State.ackTo (s : State) (c src ctx tok : Nat) : State := s.sendPkt .sync c src ctx tok 0 .ack
/-- Acknowledge a packet. -/
def State.ackPkt (s : State) (p : Pkt) : State := s.ackTo p.dst p.src p.ctx p.tok
/-- Report a fault of a packet at its sender, and end it. -/
def State.failPkt (s : State) (p : Pkt) (code : FCode) (kind : Nat) (a : Word) : State :=
  (s.sched (ackCycles p.src p.dst) (.faultLogEntry p.src p.ctx ⟨code, kind, a, 0⟩)).ackPkt p

/-- The gate of R248 and R253 for a packet: refused and resent, dropped and reported, or let in. -/
def State.arrive (s : State) (p : Pkt) (dropKind off : Nat) (k : State → State) : State :=
  let x := s.core p.dst
  let g := s.gate p.dst (s.core p.src).team
  if g = .refuse ∨ (g = .pass ∧ refusedBefore x.refused p.src p.tok) then
    (s.refuseAt p.dst p.src p.tok).sched Config.resend (.writeResend p)
  else
    let s := s.letIn p.dst p.src p.tok
    if g = .drop then s.failPkt p .teamBounds dropKind (apertureAddr p.dst off)
    else k s

/-- A credit by a remote store to `off`, or its report, which names the store's target (R242). (DEDUCED, log entry 70.) -/
def State.pktCredit (s : State) (p : Pkt) (off q n : Nat) : State :=
  match s.creditError p.dst q with
  | some e => s.failPkt p e 5 (apertureAddr p.dst off)
  | none => (s.credit p.dst q n).ackPkt p
/-- A remote store's bytes at its target. -/
def State.landPkt (s : State) (p : Pkt) (off : Nat) (bs : List Byte) (acc : Option AccTy) (q : Option Nat) : State :=
  s.arrive p 5 off (fun s =>
    if s.touchesStacks p.dst off bs.length then s.failPkt p .bounds 5 (apertureAddr p.dst off)
    else match s.land p.dst off bs acc with
      | none => s.failPkt p .memErr 2 (apertureAddr p.dst off)
      | some s =>
        match q with
        | some q => s.pktCredit p off q bs.length
        | none => s.ackPkt p)

/-- REMOTE_STORE_ARRIVAL (R160, R164, R168, R346, R351). -/
def execRemoteStoreArrival (p : Pkt) (s : State) : Res :=
  .next (match p.body with
    | .store off bs => s.landPkt p off bs none none
    | .dw off v q => s.landPkt p off (leBytes 8 v.toNat) none (some q)
    | .acc t off bs q => s.landPkt p off bs (some t) q
    | _ => s)

/-- Write a full/empty word and set it full. -/
def State.fillWord (s : State) (c off : Nat) (v : Word) : State := (s.store (spad c off) (leBytes 8 v.toNat)).setFull c off true

/-- RST_FE_ARRIVAL (R166): written at once if the word is empty and nothing waits to fill it; else it waits in the buffer, or is
refused. -/
def execRstFeArrival (p : Pkt) (s : State) : Res :=
  .next (match p.body with
    | .fe off v =>
      s.arrive p 6 off (fun s =>
        if s.touchesStacks p.dst off 8 then s.failPkt p .bounds 5 (apertureAddr p.dst off)
        else
          let x := s.core p.dst
          let filler := x.rstWait.any (fun w => w.off == off) || !(s.feWaiters p.dst off false).isEmpty
          if refusedBefore x.rstRefused p.src p.tok then
            (s.modCore p.dst (fun x => { x with rstRefused := addRefused x.rstRefused p.src p.tok })).sched Config.resend (.rstFeResend p)
          else if !s.isFull p.dst off ∧ !filler then
            ((s.modCore p.dst (fun x => { x with rstRefused := dropRefused x.rstRefused p.src p.tok })).fillWord p.dst off v).ackPkt p
          else if x.rstWait.length < 32 then
            s.modCore p.dst (fun x => { x with
              rstRefused := dropRefused x.rstRefused p.src p.tok
              rstWait := x.rstWait ++ [{ off := off, v := v, src := p.src, ctx := p.ctx, tok := p.tok, since := s.now }] })
          else (s.modCore p.dst (fun x => { x with rstRefused := addRefused x.rstRefused p.src p.tok })).sched Config.resend (.rstFeResend p))
    | _ => s)

/-- Send a refused packet again, in the class and order it had. -/
def State.resendPkt (s : State) (p : Pkt) : State := s.enterRouter p.src p
/-- RST_FE_RESEND. -/
def execRstFeResend (p : Pkt) (s : State) : Res := .next (s.resendPkt p)
/-- WRITE_RESEND (R248): a refused write is sent again; a drain row's packet enters the router (R118). -/
def execWriteResend (p : Pkt) (s : State) : Res := .next (s.resendPkt p)

/-- ACKNOWLEDGEMENT (R198): the operation is performed, and what waited for it may leave. That of context 16 is a copied row's, which held
words delayed (R178). -/
def execAcknowledgement (core ctx tok : Nat) (s : State) : Res :=
  .next (if ctx = 16 then s.heldRowEnds core tok
    else if (s.core core).unacked.any (fun o => o.tok == tok) then
      (s.modCore core (fun x => { x with unacked := x.unacked.filter (fun o => o.tok != tok) })).pump core
    else s)

/-- WC_IDLE_TIMEOUT (R174): an event left by a store that another followed drains nothing. -/
def execWcIdleTimeout (core pa : Nat) (s : State) : Res :=
  .next (if (s.core core).wcb.any (fun w => w.pa == pa && !w.closed && w.last + Config.wcIdle ≤ s.now) then
      s.closeWc core (fun w => w.pa == pa && w.last + Config.wcIdle ≤ s.now)
    else s)

end Sys2Proof.Machine
end

