-- ==== Sys2Proof/Machine/Home.lean ====
section
/-! DEFINITION. Meanings of the homes: requests and held words, reductions and exact sums, the HBM channels, walks, residency, and
what comes from the span links, the PCIe ports and failing memory (R170 to R183, R236, R242, R245, R246, R258 to R260). -/

namespace Sys2Proof.Machine

/-! ### Answers of a home -/

/-- A requester beyond the device: a span link or the host port. -/
def fromOutside (r : HomeReq) : Bool := 4096 ≤ r.core
/-- Span link `k` as a requester. -/
def outsideCore (k : Nat) : Nat := 4096 + k

/-- The reply of a home; an XREAD is acknowledged with it. -/
def State.replyHome (s : State) (r : HomeReq) (delay : Nat) (v : Reply) : State :=
  if fromOutside r then s
  else
    let s := s.sched delay (.replyWrite r.core r.ctx r.tok v)
    if r.kind = .xread then s.sched delay (.acknowledgement r.core r.ctx r.tok) else s
def State.ackHome (s : State) (r : HomeReq) : State :=
  if fromOutside r then s else s.sched Config.homeWay (.acknowledgement r.core r.ctx r.tok)
def State.logHome (s : State) (r : HomeReq) (code : FCode) (kind va : Nat) : State :=
  if fromOutside r then s
  else if r.ctx = 16 then
    -- a copy's write that waited for a held word: the command's error
    s.modCore r.core (fun x => { x with cmds := x.cmds.map (fun c =>
      if c.err.isNone ∧ c.waits.any (fun w => w.1 == r.tok) then { c with err := some code, errAt := va } else c) })
  else (s.ownersOf r).foldl (fun (s : State) n =>
    s.sched Config.homeWay (.faultLogEntry r.core n ⟨code, kind, BitVec.ofNat 64 va, 0⟩)) s

/-! ### Operations on memory -/

/-- RED's operation (R179) on values of its width. -/
def redOp (op : RedOp) (old x : Nat) : Nat :=
  let nanMin (pick : Nat → Nat → Nat) : Nat :=
    if dec32 old = .nan then (if dec32 x = .nan then fp32.nan else x) else if dec32 x = .nan then old else pick old x
  match op with
  | .addI32 => opAdd 32 old x
  | .addI64 => opAdd 64 old x
  | .minI32 => opMin false 32 old x
  | .minI64 => opMin false 64 old x
  | .minN32 => opMin true 32 old x
  | .minN64 => opMin true 64 old x
  | .maxI32 => opMax false 32 old x
  | .maxI64 => opMax false 64 old x
  | .maxN32 => opMax true 32 old x
  | .maxN64 => opMax true 64 old x
  | .and => old &&& x
  | .or => old ||| x
  | .xor => old ^^^ x
  | .faddF32 => (fp32.add (dec32 old) (dec32 x)).1
  | .fminF32 => nanMin fp32.pickMin
  | .fmaxF32 => nanMin fp32.pickMax

/-- XsumAdd (R182) on the 512 bits of a slot (R181). -/
def xsumAdd (slot : Nat) (x : Num) : Nat :=
  let cnt := (slot / 2 ^ 448 + 1) % 2 ^ 64
  let rest := slot % 2 ^ 448
  let r := match x with
    | .nan => if bit rest 384 then rest else rest + 2 ^ 384
    | .inf false => if bit rest 385 then rest else rest + 2 ^ 385
    | .inf true => if bit rest 386 then rest else rest + 2 ^ 386
    | .fin .. => rest / 2 ^ 384 * 2 ^ 384 + unsgn 384 ((rest % 2 ^ 384 : Nat) + mantAt (-160) x)
  cnt * 2 ^ 448 + r
/-- The value XREAD gives (R183). -/
def xreadVal (slot : Nat) : Nat :=
  if bit slot 384 || (bit slot 385 && bit slot 386) then fp32.nan
  else if bit slot 385 then fp32.inf false
  else if bit slot 386 then fp32.inf true
  else roundFP32 (numScale (numInt (sgn 384 slot)) (-160)) .rne

/-! ### Held words (R177, R178) -/

/-- The queue that the first blocked one of the words at `pas` waits in. -/
def State.blockedAt (s : State) (r : HomeReq) (pas : List Nat) : Option Nat := pas.findSome? (s.queueFor r)
/-- A part of a request still waits in a held word's queue. -/
def State.stillHeld (s : State) (r : HomeReq) : Bool := s.holds.cells.any (fun h => h.2.queue.any (fun q => q.core == r.core && q.tok == r.tok))
/-! ### Writes at the home -/

/-- Write word `k` of a drained line: part of a bad word is dropped and logged (R246). -/
def State.storeWord (s : State) (r : HomeReq) (mask k : Nat) : State :=
  let m := maskWord mask k
  let a := r.pa + 8 * k
  if m = 0 then s
  else if m ≠ 255 ∧ s.badIn a 8 then s.logHome r .memErr 2 (r.va + 8 * k)
  else { s with
    mem := memPutMasked s.mem a m ((r.data.drop (8 * k)).take 8)
    bad := if m = 255 then removeNat a s.bad else s.bad }
/-- The words of a line a store touches, by their place. -/
def storeWords (mask : Nat) : List Nat := (List.range 8).filter (fun k => maskWord mask k != 0)
/-- Store at the home: the words that no other holds at once, each other one when it reaches the head of its word's queue (R172, R178).
Whether all are written. -/
def State.storeHome (s : State) (r : HomeReq) (mask : Nat) : State :=
  (storeWords mask).foldl (fun (s : State) k => match s.queueFor r (r.pa + 8 * k) with
    | some a => s.waitHeld a { r with kind := .store (BitVec.ofNat 64 (maskWord mask k * 2 ^ (8 * k))) }
    | none => s.storeWord r mask k) s

/-- The bytes that a parked load consumes from its home: how many, and which the write-combining buffer gave (R174). -/
def State.loadNeeds (s : State) (r : HomeReq) : Nat × List (Option Byte) :=
  match (s.ctx r.core r.ctx).park with
  | some (.result _ _ (.load _ n _ _ fwd)) => (n, fwd)
  | some (.result _ _ (.vload _ _ fwd)) => (32, fwd)
  | _ => (1, [])
/-- A byte the load consumes lies in a bad word. -/
def State.loadBad (s : State) (r : HomeReq) : Bool :=
  let n := s.loadNeeds r
  (List.range n.1).any (fun k => (n.2.getD k none).isNone && s.badIn (r.pa + k) 1)

/-- Send the data of a load, a burst or a granted word; a load's line fills its cluster's read cache (R173), unless the line has been
invalidated, or filled with later data, since the home read it (R199, R204). (DESIGN CHOICE, log entry 23.) -/
def State.sendData (s : State) (r : HomeReq) (delay : Nat) : State :=
  match r.kind with
  | .load =>
    let s := if fromOutside r ∨ !r.fill ∨ s.badIn (alignDown 64 r.pa) 64 then s
      else s.cacheFill r.core ⟨r.space, alignDown 64 r.va, alignDown 64 r.pa, r.data⟩
    s.replyHome r delay (.bytes r.data)
  | .fine _ => s.replyHome r delay (.bytes r.data)
  | .hold => s.replyHome r delay (.word (BitVec.ofNat 64 (leNat r.data)))
  | _ => s

/-- Use the request's line; on a miss the request goes to the HBM channel (R172, R236), on a hit its data leaves at once. -/
def State.lineData (s : State) (r : HomeReq) (dirty : Bool) : State :=
  let t := s.touchLine r.pa dirty
  if t.2 then
    -- earlier reads of the line still to come from HBM are older
    (if r.kind = .load ∧ !fromOutside r then
      t.1.modChan (homeChan r.pa) (fun x => { x with reads := noFill (clusterOf r.core) (onLine · r.pa) x.reads })
     else t.1).sendData r Config.homeWay
  else
    let ch := homeChan r.pa
    (t.1.modChan ch (fun x => { x with reads := x.reads ++ [(s.now, r)] })).schedSoon 2 (.hbmRequestServe ch)

/-- A fine-grain request: from the line if it is present, else by a burst, which fills nothing (R175). -/
def State.fineData (s : State) (r : HomeReq) : State :=
  if (s.die (homeDie r.pa)).lines.any (fun e => e.1 == r.pa / 64) then s.lineData r false
  else
    let ch := homeChan r.pa
    let s := s.modChan ch (fun x => { x with fine := x.fine ++ [(s.now, r)] })
    s.schedSoon (if 8 ≤ (s.chan ch).fine.length then 0 else 24) (.fineGrainBatchIssue ch)

/-- Grant a word to a HOLD: its value, and the holder. (DEDUCED, log entry 41.) -/
def State.grantHold (s : State) (r : HomeReq) (queue : List HomeReq) (direct : Bool) : State :=
  if s.badIn r.pa 8 then
    let s := { s with
      holds := if queue.isEmpty then s.holds.erase (wordKey r.pa) else s.holds.set (wordKey r.pa) ⟨noHolder, 0, queue⟩ }
    (s.replyHome r Config.homeWay (.fault .memErr (BitVec.ofNat 64 r.va))).sched 0 (.holdGrant r.pa)
  else
    let s := { s with holds := s.holds.set (wordKey r.pa) ⟨r.core, r.ctx, queue⟩ }
    let r := { r with data := memBytes s.mem 8 r.pa }
    if direct then s.sendData r Config.homeWay else if r.fg then s.fineData r else s.lineData r false

/-- An access that bypasses the read cache is applied: its requester's cluster keeps no older copy of the line (R199). -/
def State.dropCopy (s : State) (r : HomeReq) : State := if fromOutside r then s else s.cacheDrop r.core r.pa
/-- A request is applied at its home, its page resident (R172, R177 to R183). (DESIGN CHOICE, log entry 42.) -/
def State.atHome (s : State) (r : HomeReq) : State :=
  let s := if r.kind = .load then s else s.dropCopy r
  match r.kind with
  | .load =>
    if s.loadBad r then s.replyHome r Config.homeWay (.fault .memErr (BitVec.ofNat 64 r.va))
    else s.lineData { r with data := memBytes s.mem 64 (alignDown 64 r.pa) } false
  | .fine n =>
    let a := alignDown n r.pa
    let r' := { r with data := (memBytes s.mem n a).drop (r.pa - a) }
    if s.loadBad r then s.replyHome r Config.homeWay (.fault .memErr (BitVec.ofNat 64 r.va)) else s.fineData r'
  | .store mask =>
    let s := (s.storeHome r mask.toNat).lineData r true
    if s.stillHeld r then s else s.ackHome r
  | .hold =>
    (match s.holds.find (wordKey r.pa) with
     | none => s.grantHold r [] false
     | some h =>
       if (h.queue.filter (fun q => q.kind == .hold)).length < 64 then s.waitHeld r.pa r
       else s.sched (Nat.min (Config.resend * 2 ^ r.tries) 6144) (.holdResend { r with tries := r.tries + 1 }))
  | .hrel =>
    let s := s.ackHome r
    (match s.holds.find (wordKey r.pa) with
     | some h =>
       if h.core = r.core ∧ h.ctx = r.ctx then
         let s := (s.store r.pa r.data).lineData r true
         ({ s with holds := s.holds.set (wordKey r.pa) { h with core := noHolder } }).sched 0 (.holdGrant r.pa)
       else s
     | none => s)
  | .red op =>
    (match s.blockedAt r [r.pa] with
     | some a => s.waitHeld a r
     | none =>
       let n := redBytes op
       if s.badIn r.pa n then (s.logHome r .memErr 0 r.va).ackHome r
       else ((s.store r.pa (leBytes n (redOp op (memLe s.mem n r.pa) (leNat r.data)))).lineData r true).ackHome r)
  | .xsum ty =>
    (match s.blockedAt r ((List.range 8).map (fun k => r.pa + 8 * k)) with
     | some a => s.waitHeld a r
     | none =>
       if s.badIn r.pa 64 then (s.logHome r .memErr 1 r.va).ackHome r
       else ((s.store r.pa (leBytes 64 (xsumAdd (memLe s.mem 64 r.pa) (decodeTy ty (leNat r.data))))).lineData r true).ackHome r)
  | .xread =>
    if s.badIn r.pa 64 then s.replyHome r Config.homeWay (.fault .memErr (BitVec.ofNat 64 r.va))
    else (s.lineData r false).replyHome r Config.homeWay (.word (BitVec.ofNat 64 (xreadVal (memLe s.mem 64 r.pa))))

/-- The page of a request is resident: by its translation, or by now (R260). -/
def State.resident (s : State) (r : HomeReq) : Bool := r.res || (s.walk r.space r.va).elim false (fun e => hasAttr e.attr attrRES)
/-- HOME_REQUEST_ARRIVAL (R172, R245): a request whose page is not resident is parked, and later ones to the page join it. -/
def execHomeRequestArrival (r : HomeReq) (s : State) : Res :=
  let d := homeDie r.pa
  .next (if !s.resident r || (s.die d).resq.any (fun q => q.pa / 65536 == r.pa / 65536) then
      s.modDie d (fun x => { x with resq := x.resq ++ [r] })
    else s.atHome r)

/-- Serve the queue of a released word up to its next holder. -/
def State.serveHold (s : State) (k : Nat) : Nat → State
  | 0 => s
  | n + 1 =>
    match s.holds.find k with
    | none => s
    | some h =>
      if h.core ≠ noHolder then s
      else match h.queue with
        | [] => { s with holds := s.holds.erase k }
        | r :: rs =>
          if r.kind = .hold then s.grantHold r rs true
          else
            -- applied as at its arrival, with the word free; what still waits keeps its order
            let s := ({ s with holds := s.holds.erase k }).atHome r
            if rs.isEmpty then s else ({ s with holds := s.holds.set k ⟨noHolder, 0, rs⟩ }).serveHold k n
/-- HOLD_GRANT (R178). -/
def execHoldGrant (pa : Nat) (s : State) : Res :=
  .next (s.serveHold (wordKey pa) (((s.holds.find (wordKey pa)).map (·.queue.length)).getD 0 + 1))
/-- HOLD_RESEND (R177). -/
def execHoldResend (r : HomeReq) (s : State) : Res := .next (s.sendHome r Config.homeWay)

/-! ### The HBM channels (R175, R236) -/

/-- The row of an address in its pseudo-channel (log entry 27). -/
def hbmRow (pa : Nat) : Nat := pa / 2 ^ 17
/-- The index of the oldest of a queue's entries (time of arrival, row) that satisfy a test. -/
def oldestOf (p : Nat × Nat → Bool) (l : List (Nat × Nat)) : Option Nat :=
  (l.zipIdx.filter (fun e => p e.1)).foldl (fun (b : Option ((Nat × Nat) × Nat)) e => match b with
    | some x => if e.1.1 < x.1.1 then some e else b
    | none => some e) none |>.map (·.2)
/-- The request served next: the oldest of those older than 256 fabric cycles, else the oldest of the open row, else the oldest. -/
def pickServe (now : Nat) (row : Option Nat) (l : List (Nat × Nat)) : Nat :=
  (((oldestOf (fun e => e.1 + 384 < now) l).or (oldestOf (fun e => some e.2 == row) l)).or (oldestOf (fun _ => true) l)).getD 0
/-- The arrival of the oldest request. -/
def oldestAt (l : List Nat) : Option Nat := l.foldl (fun b t => some (b.elim t (Nat.min t))) none
def aged (now : Nat) (l : List Nat) : Bool := (oldestAt l).elim false (fun t => t + 384 < now)

/-- HBM_REQUEST_SERVE: one request of a pseudo-channel, out of the 64 entries of each queue; the requests past them are in the home's
input queue (R234). A request is served every two core cycles. (DESIGN CHOICE, log entry 76.) -/
def execHbmRequestServe (ch : Nat) (s : State) : Res :=
  let x := s.chan ch
  .next (
    if s.now < x.notBefore then s.schedSoon (x.notBefore - s.now) (.hbmRequestServe ch)
    else
      let draining := if x.draining then decide (32 < x.writes.length) else decide (48 ≤ x.writes.length)
      let rAt := (x.reads.take 64).map (·.1)
      let wAt := (x.writes.take 64).map (·.1)
      let oldW := aged s.now wAt && (!aged s.now rAt || (oldestAt wAt).getD 0 < (oldestAt rAt).getD 0)
      let write := oldW || (draining && !aged s.now rAt)
      let s := s.modChan ch (fun x => { x with draining := draining })
      let s :=
        if write then
          (let k := pickServe s.now x.row ((x.writes.take 64).map (fun e => (e.1, hbmRow e.2)))
           s.modChan ch (fun x => { x with
             writes := x.writes.take k ++ x.writes.drop (k + 1)
             row := (x.writes[k]?).map (fun e => hbmRow e.2) }))
        else
          (let k := pickServe s.now x.row ((x.reads.take 64).map (fun e => (e.1, hbmRow e.2.pa)))
           match x.reads[k]? with
           | some (_, r) =>
             -- reads of the line that came before this one and are still to come are older
             let before (l : List (Nat × HomeReq)) : List (Nat × HomeReq) :=
               if r.kind = .load then noFill (clusterOf r.core) (onLine · r.pa) l else l
             (s.modChan ch (fun x => { x with reads := before (x.reads.take k) ++ x.reads.drop (k + 1), row := some (hbmRow r.pa) })).sendData r
               (Config.hbmMiss - Config.homeHit - 2 + Config.homeWay)
           | none => s)
      let y := s.chan ch
      -- back-pressure of the home may be over (R234)
      let s := if y.reads.length = 111 ∨ y.writes.length = 111 then s.pumpAll else s
      if !y.reads.isEmpty || 48 ≤ y.writes.length || y.draining && 32 < y.writes.length then s.schedSoon 2 (.hbmRequestServe ch)
      else match oldestAt (y.writes.map (·.1)) with
        | some t => s.schedSoon (Nat.max 2 (t + 385 - s.now)) (.hbmRequestServe ch)
        | none => s)

/-- HBM_REFRESH: its length is not fixed. -/
def execHbmRefresh (ch : Nat) (s : State) : Res :=
  .next ((s.modChan ch (fun x => { x with notBefore := s.now + 1 + s.pick 4096 })).spend 4096)

/-- FINE_GRAIN_BATCH_ISSUE: the waiting bursts go together, those of one row consecutively. -/
def execFineGrainBatchIssue (ch : Nat) (s : State) : Res :=
  let fs := (s.chan ch).fine
  let rows := (fs.map (fun e => hbmRow e.2.pa)).eraseDups
  .next (if fs.isEmpty then s
    else (s.modChan ch (fun x => { x with
        fine := []
        reads := x.reads ++ rows.flatMap (fun k => fs.filter (fun e => hbmRow e.2.pa == k)) })).schedSoon 2 (.hbmRequestServe ch))

/-! ### Walks (R258, R259) -/

/-- Give a walk's result to the contexts parked for its region on the die; they, and those that found it full, go on at the end of
the cycle. -/
def State.endWalk (s : State) (die : Nat) (w : Walk) : State :=
  let va := w.region * 65536
  let e := s.walk w.space va
  let r := e.map (fun e => (va, e.phys va, e.attr))
  let here := s.ctxs.cells.filter (fun x => coreDie (x.1 / 16) == die && (match x.2.park with
    | some (.cond (.xlat sp rg) _) => sp == w.space && rg == w.region
    | _ => false))
  here.foldl (fun (s : State) x =>
    let c := x.1 / 16
    let n := x.1 % 16
    if w.waiters.contains (c, n) then
      (match e with
       | some e => s.useTlb c e
       | none => s).modCtx c n (fun x => { x with xlat := some (w.space, w.region, r) })
    else s) s
/-- Give a walk's result to the copy contexts of the die that wait for its region: they look up again, or are parked for the steward (R192). -/
def State.endCopyWalk (s : State) (die : Nat) (w : Walk) : State :=
  let va := w.region * 65536
  let e := s.walk w.space va
  let mine (c : Nat) (m : Cmd) : Bool := coreDie c == die && s.spaceOf c == w.space && m.walk.elim false (fun a => a / 65536 == w.region)
  s.cores.cells.foldl (fun (s : State) x =>
    if x.2.cmds.any (mine x.1) then
      let s := match e with
        | some e => s.useClusterTlb x.1 e
        | none => s.modCore x.1 (fun k => { k with cmds := k.cmds.map (fun m => if mine x.1 m then { m with parked := m.walk } else m) })
      let ids := (x.2.cmds.filter (mine x.1)).map (·.id)
      let s := s.modCore x.1 (fun k => { k with cmds := k.cmds.map (fun m => if mine x.1 m then { m with walk := none } else m) })
      ids.foldl (fun (s : State) id => s.goOnCmd x.1 id) s
    else s) s

/-- PAGE_WALK: the oldest walk of a die that is over ends. Waiting walks that its page covers end with it; the next waiting one begins. -/
def execPageWalk (die : Nat) (s : State) : Res :=
  let ws := (s.die die).walks
  .next (match (ws.take 64).find? (fun w => w.ends ≤ s.now) with
    | none => s
    | some w =>
      let e := s.walk w.space (w.region * 65536)
      let served (v : Walk) : Bool := e.elim false (fun e => e.covers v.space (v.region * 65536))
      let rest := ws.filter (· != w)
      let late := (rest.drop 63).filter (fun v => !served v)
      let s := (s.readsOf w.space (w.region * 65536)).foldl (fun (s : State) a => (s.touchLine a false).1) s
      let begin_ (v : Walk) : Walk := { v with ends := s.now + s.walkCycles v.space (v.region * 65536) }
      let s := s.modDie die (fun x => { x with walks := rest.take 63 ++ (late.take 1).map begin_ ++ late.drop 1 })
      let s := (w :: (rest.drop 63).filter served).foldl (fun (s : State) v => (s.endWalk die v).endCopyWalk die v) s
      match late with
      | v :: _ => s.sched (s.walkCycles v.space (v.region * 65536)) (.pageWalk die)
      | [] => s)

/-! ### Residency (R192, R245, R260) -/

/-- The virtual page of an address: the entry a walk finds, or the 64 KiB region. -/
def State.pageOf (s : State) (space va : Nat) : TlbE := (s.walk space va).getD ⟨space, alignDown 65536 va, 65536, 0, 0⟩
/-- Retry, or fail, the copies of a space that are parked on a page. -/
def State.retryPage (s : State) (e : TlbE) : State :=
  s.cores.cells.foldl (fun (s : State) c => if s.spaceOf c.1 = e.space then s.retryCmds c.1 (fun va => e.covers e.space va) else s) s
def State.failPage (s : State) (e : TlbE) (code : FCode) : State :=
  s.cores.cells.foldl (fun (s : State) c =>
    if s.spaceOf c.1 = e.space then
      c.2.cmds.foldl (fun (s : State) k =>
        if k.parked.elim false (fun va => e.covers e.space va) then
          (s.modCmd c.1 k.id (fun k => { k with parked := none })).failCmd c.1 k.id code (k.parked.getD 0) else s) s
    else s) s
/-- Take the queued requests of a physical page from every home, in arrival order. -/
def State.takeQueued (s : State) (pa size : Nat) : State × List HomeReq :=
  let inPage (r : HomeReq) : Bool := pa ≤ r.pa && r.pa < pa + size
  ({ s with dies := s.dies.mapAll (fun _ (d : Die) => { d with resq := d.resq.filter (fun r => !inPage r) }) },
   s.dies.cells.flatMap (fun d => d.2.resq.filter inPage))

/-- Contexts whose instruction fetch waits for a page: core and context. -/
def State.fetchWaits (s : State) (e : TlbE) : List (Nat × Nat) :=
  (s.ctxs.cells.filter (fun x => match x.2.park with
    | some (.cond (.page sp va) _) => e.covers sp va
    | _ => false)).map (fun x => (x.1 / 16, x.1 % 16))
/-- They fetch again, or take the fault at the bundle they fetch (R238, R260). -/
def State.wakeFetch (s : State) (e : TlbE) : State := (s.fetchWaits e).foldl (fun (s : State) x => s.wake x.1 x.2) s
def State.failFetch (s : State) (e : TlbE) (code : FCode) : State :=
  (s.fetchWaits e).foldl (fun (s : State) x =>
    let y := s.ctx x.1 x.2
    (s.modCtx x.1 x.2 (fun y => { y with park := none })).trap x.1 x.2 code y.pc y.pc y.src) s

/-- RESIDENCY_REPAIR: the steward marks the page of a space resident; the queued requests replay in arrival order, and parked copies
go on. (DEDUCED, log entry 43.) -/
def execResidencyRepair (space va : Nat) (s : State) : Res :=
  .next (match s.walk space va, (s.readsOf space va).getLast? with
    | some e, some a =>
      let v := memLe s.mem 8 a
      let s := if bit v 8 then s else { s with mem := memPut s.mem a (leBytes 8 (v + 256)) }
      let stale (t : TlbE) : Bool := t.covers space va && !hasAttr t.attr attrRES
      let s := { s with
        cores := s.cores.mapAll (fun _ (c : Core) => { c with utlb := c.utlb.filter (fun t => !stale t) })
        clusters := s.clusters.mapAll (fun _ (c : Cluster) => { c with tlb := c.tlb.filter (fun t => !stale t) })
        -- and what a walk gave a parked bundle
        ctxs := s.ctxs.mapAll (fun _ (x : Ctx) => { x with xlat := x.xlat.filter (fun r => !e.covers r.1 (r.2.1 * 65536)) }) }
      let q := s.takeQueued e.pa e.size
      let s := q.2.foldl (fun (s : State) r => s.atHome { r with res := true }) q.1
      ((s.retryPage e).wakeFetch e).pumpAll
    | _, _ => s)

/-- End a queued request with a fault (R245). (DEDUCED, log entry 54.) -/
def State.failHome (s : State) (r : HomeReq) (code : FCode) : State :=
  match r.kind with
  | .load | .fine _ | .hold | .xread => s.replyHome r Config.homeWay (.fault code (BitVec.ofNat 64 r.va))
  | .store _ => (s.logHome r code 2 r.va).ackHome r
  | .red _ => (s.logHome r code 0 r.va).ackHome r
  | .xsum _ => (s.logHome r code 1 r.va).ackHome r
  | .hrel => s.atHome { r with data := memBytes s.mem 8 r.pa }
/-- RESIDENCY_FATAL: the steward declares the faults of a page fatal, with F_TRANSLATE or F_PROTECT (R260). -/
def execResidencyFatal (space va : Nat) (protect : Bool) (s : State) : Res :=
  let code : FCode := if protect then .protect else .translate
  let e := s.pageOf space va
  .next (
    let q := if (s.walk space va).isSome then s.takeQueued e.pa e.size else (s, [])
    let s := q.2.foldl (fun (s : State) r => s.failHome r code) q.1
    ((s.failPage e code).failFetch e code).pumpAll)

/-! ### From outside (R171) -/

/-- SPAN_INBOUND_REQUEST: a peer's request on link `k`, inside the window SPANIN gives it. -/
def execSpanInboundRequest (link : Fin 24) (r : HomeReq) (s : State) : Res :=
  let w := Table.get (0, 0) s.spanin link.val
  .next (
    let r := { r with core := outsideCore link.val, ctx := 0, res := true }
    match r.kind with
    | .hold | .hrel => s
    | _ =>
      if s.spanEn.toNat / 2 ^ link.val % 2 = 1 ∧ w.1 ≤ r.pa ∧ r.pa < w.1 + w.2 ∧ r.pa < Config.hbmTop then s.sched 0 (.homeRequestArrival r)
      else s)

/-- The port access a number names has not yet ended. -/
def State.endPcie (s : State) (core ctx tok : Nat) (v : Reply) : State :=
  if s.pcie.any (fun p => p.2.2.1 == tok) then
    ({ s with pcie := s.pcie.filter (fun p => p.2.2.1 != tok) }).reply core ctx tok v
  else s
/-- The virtual address of a parked load. -/
def State.parkVa (s : State) (core ctx : Nat) : Word :=
  match (s.ctx core ctx).park with
  | some (.result _ _ (.load _ _ _ a _)) | some (.result _ _ (.vload _ a _)) => BitVec.ofNat 64 a
  | _ => 0
/-- PCIE_COMPLETION: the bytes of a read of a port range; fewer than it asked for are a completion error. (DEDUCED, log entry 46.) -/
def execPcieCompletion (core ctx tok : Nat) (bytes : List Byte) (s : State) : Res :=
  let n := (s.loadNeeds { kind := .load, core := core, ctx := ctx, pa := 0, va := 0, space := 0, res := true, tok := tok, data := [], tries := 0 }).1
  .next (s.endPcie core ctx tok (if bytes.length < n then .fault .memErr (s.parkVa core ctx) else .bytes (bytes.take 32)))
/-- PCIE_COMPLETION_TIMEOUT: 50 ms. -/
def execPcieCompletionTimeout (core ctx tok : Nat) (s : State) : Res :=
  .next (s.endPcie core ctx tok (.fault .memErr (s.parkVa core ctx)))

/-- UNCORRECTABLE_ERROR (R246): a word of memory, a queue's head entry or an accumulator tile goes bad. -/
def execUncorrectableError (key : Nat) (s : State) : Res :=
  .next { s with bad := insertNat (if key < 2 ^ 54 then alignDown 8 key else key) s.bad }

end Sys2Proof.Machine
end

