-- ==== Sys2Proof/Machine/Upload.lean ====
section
/-! DEFINITION. The graph binary: its layout, the checks of upload, and the address space the steward builds for it (R159, R191, R196,
R212 to R214, R218, R221). -/

namespace Sys2Proof.Machine

/-! ### Reading an image -/

/-- An image in memory: where it starts, and its size. -/
structure Img where
  mem : List Host.Cell
  base : Nat
  size : Nat

/-- The little-endian value of `n` bytes at an offset. -/
def Img.get (g : Img) (off n : Nat) : Nat := memLe g.mem n (g.base + off)
/-- An entry lies within the image. -/
def Img.holds (g : Img) (off n : Nat) : Bool := off + n ≤ g.size
/-- The header, and its fields (R212). -/
def Img.hdr (g : Img) : Nat := g.get 0 64
def hNodes (h : Nat) : Nat := fld h 63 48
def hEdges (h : Nat) : Nat := fld h 95 64
def hPatches (h : Nat) : Nat := fld h 127 96
def hNodeOff (h : Nat) : Nat := fld h 159 128
def hEdgeOff (h : Nat) : Nat := fld h 191 160
def hPatchOff (h : Nat) : Nat := fld h 223 192
def hPlanOff (h : Nat) : Nat := fld h 255 224
def hPlans (h : Nat) : Nat := fld h 287 256
def hCodeOff (h : Nat) : Nat := fld h 319 288
def hCodeSize (h : Nat) : Nat := fld h 351 320
def hSize (h : Nat) : Nat := fld h 383 352

/-- Section entries (R213). -/
def Img.node (g : Img) (j : Nat) : Nat := g.get (hNodeOff g.hdr + 8 * j) 8
def Img.edge (g : Img) (j : Nat) : Nat := g.get (hEdgeOff g.hdr + 8 * j) 8
def Img.patch (g : Img) (j : Nat) : Nat := g.get (hPatchOff g.hdr + 16 * j) 16
def Img.plan (g : Img) (j : Nat) : Nat := g.get (hPlanOff g.hdr + 32 * j) 32
def Img.recOff (g : Img) (j : Nat) : Nat := fld (g.node j) 31 0
def Img.lrec (g : Img) (j : Nat) : Nat := g.get (g.recOff j) 192
/-- Resource-map entry `k` and schedule entry `k` of schedule `i` of node `j`. -/
def Img.rm (g : Img) (j k : Nat) : Nat := g.get (fld (g.lrec j) 127 96 + 32 * k) 32
def schWord (r i : Nat) : Nat := fld r (767 + 64 * i) (704 + 64 * i)
def Img.sch (g : Img) (j i k : Nat) : Nat := g.get (schWord (g.lrec j) i % 2 ^ 32 + 80 * k) 80

/-! ### The launch record (R218) -/

def extOf (r j : Nat) : Nat := fld r (287 + 32 * j) (256 + 32 * j)
def extents (r : Nat) : List Nat := (List.range 4).map (extOf r)
def varWord (r v : Nat) : Nat := fld r (447 + 64 * v) (384 + 64 * v)
def variantsOf (r : Nat) : List Variant :=
  (List.range (fld r 135 134 + 1)).map (fun v => ⟨fld (varWord r v) 36 32 + 1, fld (varWord r v) 41 37 + 1, fld (varWord r v) 31 0⟩)
def levByte (r j : Nat) : Nat := fld r (647 + 8 * j) (640 + 8 * j)
def levelsOf (r : Nat) : List (Nat × Nat) :=
  (List.range (fld r 138 136 + 1)).map (fun j => (fld (levByte r j) 4 3, fld (levByte r j) 2 0))
def peersOf (r : Nat) : List Nat := (List.range 8).map (fun j => fld r (975 + 16 * j) (960 + 16 * j))
/-- The common region: its width and height. -/
def commonOf (vs : List Variant) : Nat × Nat := (vs.foldl (fun m v => Nat.min m v.w) 24, vs.foldl (fun m v => Nat.min m v.h) 24)
def rising : List Nat → Bool
  | a :: b :: l => a ≤ b && rising (b :: l)
  | _ => true
/-- The extents are at least 1, and their product is at most 2^63. -/
def extOk (es : List Nat) : Bool := es.all (fun e => e != 0) && es.foldl (· * ·) 1 ≤ 2 ^ 63
/-- A launch record keeps its rules, NBV of R59 among them. -/
def recOk (g : Img) (r : Nat) : Bool :=
  [(1535, 1088), (255, 224), (159, 155), (151, 150), (143, 143), (139, 139), (131, 131)].all (fun b => fld r b.1 b.2 == 0)
  && fld r 63 0 % 4096 == 0 && isGlobal (fld r 63 0) && fld r 95 64 % 4 == 0 && fld r 133 132 != 0 && fld r 149 144 ≤ 32
  && fld r 142 140 ≤ 4 && fld r 175 160 != 0 && fld r 191 176 ≤ 288
  && (if fld r 223 192 = 0 then fld r 127 96 == 0 else fld r 127 96 % 32 == 0)
  && extOk (extents r)
  && (List.range (fld r 135 134 + 1)).all (fun v => fld (varWord r v) 63 42 == 0 && fld (varWord r v) 31 0 % 4 == 0)
  && (variantsOf r).all (fun v => v.w ≤ 24 && v.h ≤ 24)
  && (List.range (fld r 138 136 + 1)).all (fun j => levByte r j < 32) && (levelsOf r).all (fun l => l.2 ≤ 4)
  && rising ((levelsOf r).map (·.2))
  && (peersOf r).all (fun p => p == 0xFFFF || p < hNodes g.hdr)
  && (List.range (fld r 142 140)).all (fun i => fld (schWord r i) 63 48 == 0)

/-! ### The resource map (R221) -/

def rmKind (e : Nat) : Nat := fld e 3 0
/-- The bits of an entry that its kind gives no field. -/
def rmRsv (e : Nat) : List (Nat × Nat) :=
  [(15, 14)] ++ (match rmKind e with
    | 1 => [(63, 34), (127, 96), (255, 128)]
    | 2 => [(63, 33), (255, 128)]
    | 3 => [(63, 23), (127, 64), (255, 128)]
    | 4 => [(63, 20), (127, 64), (255, 128)]
    | 5 => [(63, 31), (127, 96), (255, 128)]
    | _ => [(63, 26), (255, 212)])
/-- A range touches a window stack, or leaves the scratchpad. -/
def rmRangeOk (wss lo n : Nat) : Bool := lo + n + 16 * (128 * wss) ≤ Config.spadSize
/-- The LVSET extension image of kind 5 keeps R154, and its producer the region. -/
def rmLevOk (w h e : Nat) : Bool :=
  let x := fld e 95 64
  let fifo := bit e 19
  let far := bit e 22
  let d := fld e 21 20
  let cx := fld e 8 4
  let cy := fld e 13 9
  fld x 2 0 == fld e 18 16
  && (if bit x 31 then
        fld x 5 3 == 0 && fld x 10 6 ≤ 16 && (64 ≤ 16 * (fld x 30 25 + 1) || (fld x 13 11 != 0 && fld x 16 14 != 0))
      else fld x 30 3 == 0)
  && (if fifo then fld e 26 23 == 0
      else !far || (match dirOf d with
        -- the links of a die wrap around (R100)
        | .e => (cx + 1) % 24 < w
        | .w => (cx + 23) % 24 < w
        | .s => (cy + 1) % 24 < h
        | .n => (cy + 23) % 24 < h))
/-- A binding of kind 6 keeps R201 and R202. -/
def rmBindOk (e : Nat) : Bool :=
  let base := fld e 127 64
  let o := fld e 191 128
  let n := fld e 211 192
  let place := o < Config.spadSize || (apertureOf o).isSome
  base % 64 == 0 && Config.globalBase ≤ base && n != 0 && base + 64 * n ≤ Config.vaTop
  && (match fld e 21 20 with
      | 0 => o % 8 == 0 && isGlobal o
      | 1 => o % 8 == 0 && place
      | 2 => o % 16 == 0 && place
      | _ => [0, 4, 5, 6, 7, 8, 9, 10, 11].contains (fld e 25 22))
/-- An entry keeps its rules, but for the coupling graph of R159. -/
def rmOk (r e : Nat) : Bool :=
  let c := commonOf (variantsOf r)
  let wss := fld r 149 144
  1 ≤ rmKind e && rmKind e ≤ 6 && fld e 8 4 < c.1 && fld e 13 9 < c.2 && (rmRsv e).all (fun b => fld e b.1 b.2 == 0)
  && (match rmKind e with
      | 1 => fld e 32 16 % 8 == 0 && fld e 95 64 % 8 == 0 && 8 ≤ fld e 95 64 && fld e 95 64 ≤ 131072 && rmRangeOk wss (fld e 32 16) (fld e 95 64)
      | 2 => fld e 32 16 % 16 == 0 && rmRangeOk wss (fld e 32 16) 16
      | 5 => rmLevOk c.1 c.2 e
      | 6 => rmBindOk e
      | _ => true)

/-! ### The coupling graph (R159) -/

/-- A vertex: a context 16 * (32 * cy + cx) + n, or a loader 2^20 + 4 * (32 * cy + cx) + direction. -/
def vCtx (cx cy n : Nat) : Nat := 16 * (32 * cy + cx) + n
/-- The consumer and producer of a kind-5 entry. -/
def rmEdge (e : Nat) : Nat × Nat :=
  let cx := fld e 8 4
  let cy := fld e 13 9
  let p := match dirOf (fld e 21 20), bit e 22 with
    | _, false => (cx, cy)
    | .e, true => ((cx + 1) % 24, cy)
    | .w, true => ((cx + 23) % 24, cy)
    | .s, true => (cx, (cy + 1) % 24)
    | .n, true => (cx, (cy + 23) % 24)
  (vCtx cx cy (fld e 30 27),
   if bit e 19 then 2 ^ 20 + 4 * (32 * cy + cx) + fld e 21 20 else vCtx p.1 p.2 (fld e 26 23))
/-- The vertices reached from a set, `fuel` steps. -/
def spread (es : List (Nat × Nat × Nat)) : Nat → List Nat → List Nat
  | 0, l => l
  | n + 1, l =>
    spread es n ((es.flatMap (fun e => (if l.contains e.2.1 then [e.2.2] else []) ++ (if l.contains e.2.2 then [e.2.1] else []))).foldl
      (fun l v => if l.contains v then l else l ++ [v]) l)
/-- Whether two vertices are joined by edges other than number `i`. -/
def joined (es : List (Nat × Nat × Nat)) (i a b : Nat) : Bool :=
  let rest := es.filter (fun e => e.1 != i)
  a == b || (spread rest (rest.length + 1) [a]).contains b
/-- The edges of a resource map, numbered by entry; a controller declared again takes its last declaration. -/
def couplingEdges (rms : List Nat) : List (Nat × Nat × Nat) :=
  let all := ((List.range rms.length).zip rms).filter (fun e => rmKind e.2 == 5)
  (all.filter (fun e => !all.any (fun f => e.1 < f.1 && fld f.2 18 16 == fld e.2 18 16 && fld f.2 13 4 == fld e.2 13 4))).map
    (fun e => (e.1, rmEdge e.2))
def freeMarks (rms : List Nat) : List Nat :=
  (rms.filter (fun e => rmKind e == 4)).map (fun e => vCtx (fld e 8 4) (fld e 13 9) (fld e 19 16))
/-- The first entry that makes a count exceed two, or lies on a cycle without a free context. -/
def couplingBad (rms : List Nat) : Option Nat :=
  let es := couplingEdges rms
  let free := freeMarks rms
  let bound := es.filter (fun e => !free.contains e.2.1 && !free.contains e.2.2)
  (es.find? (fun e =>
    let before := es.filter (fun f => f.1 ≤ e.1)
    2 < (before.filter (fun f => f.2.1 == e.2.1)).length
      || (e.2.2 < 2 ^ 20 && 2 < (before.filter (fun f => f.2.2 == e.2.2)).length)
      || (bound.contains e && joined bound e.1 e.2.1 e.2.2))).map (·.1)
/-- The free marks that lie on a cycle: (cx, cy, context). -/
def essentialMarks (rms : List Nat) : List (Nat × Nat × Nat) :=
  let es := couplingEdges rms
  ((freeMarks rms).eraseDups.filter (fun v => es.any (fun e => (e.2.1 == v || e.2.2 == v) && joined es e.1 e.2.1 e.2.2))).map
    (fun v => (v / 16 % 32, v / 512, v % 16))

/-! ### Schedules (R196) -/

def schKind (e : Nat) : CmdKind := if fld e 35 34 = 0 then .copy else if fld e 35 34 = 1 then .gather else .scatter
def schOk (w h before e : Nat) : Bool :=
  [(127, 48), (39, 37), (23, 16)].all (fun b => fld e b.1 b.2 == 0)
  && fld e 35 34 != 3 && (fld e 35 34 == 1 || fld e 47 40 == 0) && fld e 28 24 < w && fld e 33 29 < h && before ≤ fld e 15 0
  && !(bit e 36 && fld e 35 34 == 2)
  && (cmdBad (schKind e) (bit e 36) (e / 2 ^ 128)).isNone

/-! ### The checks, in order (R214) -/

/-- A failing check: section, entry, node, schedule. -/
structure BadUp where
  sect : Nat
  entry : Nat
  node : Nat
  sched : Nat
deriving DecidableEq, Repr

def headOk (g : Img) (given : Nat) : Bool :=
  let h := g.hdr
  64 ≤ given && fld h 511 384 == 0 && fld h 31 0 == 0x01424753 && fld h 47 32 == 1 && hNodes h != 0 && hSize h == given
  && hCodeOff h % 4096 == 0 && hCodeSize h % 32 == 0 && hPlanOff h % 32 == 0 && hPatchOff h % 16 == 0 && hEdgeOff h % 8 == 0
  && hNodeOff h % 8 == 0 && hCodeOff h + hCodeSize h ≤ given
/-- Reserved bits of node, edge and memory-plan entries read as 0 (R3): R214 names no check of them. -/
def nodeOk (g : Img) (j : Nat) : Bool :=
  g.holds (hNodeOff g.hdr + 8 * j) 8 && g.recOff j % 64 == 0
def edgeOk (g : Img) (j : Nat) : Bool :=
  let e := g.edge j
  g.holds (hEdgeOff g.hdr + 8 * j) 8 && fld e 15 0 < fld e 31 16 && fld e 31 16 < hNodes g.hdr
/-- A memory-plan region: base, size, attributes. -/
def planBase (p : Nat) : Nat := fld p 63 0
def planSize (p : Nat) : Nat := fld p 127 64
def plans (g : Img) : List Nat := (List.range (hPlans g.hdr)).map g.plan
def patchOk (g : Img) (j : Nat) : Bool :=
  let e := g.patch j
  g.holds (hPatchOff g.hdr + 16 * j) 16 && fld e 63 2 == 0
  && (match fld e 1 0 with
      | 0 => fld e 127 85 == 0 && [0, 4, 5].contains (fld e 84 80) && fld e 79 64 < hNodes g.hdr
      | 1 =>
        let va := fld e 127 64
        va % 8 == 0 && (plans g).any (fun p => bit p 193 && planBase p ≤ va && va < planBase p + planSize p)
      | _ => false)
def planOk (g : Img) (j : Nat) : Bool :=
  let p := g.plan j
  g.holds (hPlanOff g.hdr + 32 * j) 32 && planBase p % 65536 == 0 && planSize p % 65536 == 0
  && Config.globalBase ≤ planBase p && planBase p + planSize p ≤ Config.vaTop && fld p 191 160 ≤ planSize p
  && (fld p 159 128 == 0 || g.holds (fld p 159 128) (fld p 191 160))
  && (List.range (hPlans g.hdr)).all (fun k => k == j ||
      (let q := g.plan k; planBase q + planSize q ≤ planBase p || planBase p + planSize p ≤ planBase q))
def firstBad (n : Nat) (ok : Nat → Bool) : Option Nat := (List.range n).find? (fun j => !ok j)
def rmEntries (g : Img) (j : Nat) : List Nat := (List.range (fld (g.lrec j) 223 192)).map (g.rm j)
/-- The first bad resource-map entry of a node. -/
def rmBad (g : Img) (j : Nat) : Option Nat :=
  let r := g.lrec j
  let own := firstBad (fld r 223 192) (fun k => g.holds (fld r 127 96 + 32 * k) 32 && rmOk r (g.rm j k))
  match own, couplingBad (rmEntries g j) with
  | some a, some b => some (Nat.min a b)
  | some a, none => some a
  | none, b => b
/-- The first bad schedule entry of a node: schedule and index. -/
def schBad (g : Img) (j : Nat) : Option (Nat × Nat) :=
  let r := g.lrec j
  let c := commonOf (variantsOf r)
  (List.range (fld r 142 140)).findSome? (fun i =>
    (firstBad (fld (schWord r i) 47 32) (fun k =>
      schWord r i % 2 ^ 32 % 16 == 0 && g.holds (schWord r i % 2 ^ 32 + 80 * k) 80
      && schOk c.1 c.2 (if k = 0 then 0 else fld (g.sch j i (k - 1)) 15 0) (g.sch j i k))).map (fun k => (i, k)))
/-- The first failing check of an image. (DEDUCED, log entry 51.) -/
def uploadBad (g : Img) (given : Nat) : Option BadUp :=
  if !headOk g given then some ⟨0, 0, 0, 0⟩
  else
    let h := g.hdr
    let nn := hNodes h
    (((firstBad nn (nodeOk g)).map (fun j => ⟨1, j, 0, 0⟩)).or
    (((firstBad (hEdges h) (edgeOk g)).map (fun j => ⟨2, j, 0, 0⟩)).or
    (((firstBad (hPatches h) (patchOk g)).map (fun j => ⟨3, j, 0, 0⟩)).or
    (((firstBad (hPlans h) (planOk g)).map (fun j => ⟨4, j, 0, 0⟩)).or
    (((firstBad nn (fun j => g.holds (g.recOff j) 192 && recOk g (g.lrec j))).map (fun j => ⟨5, j, j, 0⟩)).or
    (((List.range nn).findSome? (fun j => (rmBad g j).map (fun k => ⟨6, k, j, 0⟩))).or
    ((List.range nn).findSome? (fun j => (schBad g j).map (fun k => ⟨7, k.2, j, k.1⟩)))))))))
/-- RES0 and RES1 of a failing upload (R35). -/
def BadUp.res (b : BadUp) : List Word :=
  [BitVec.ofNat 64 (b.sect * 2 ^ 32 + b.entry), BitVec.ofNat 64 (b.node * 2 ^ 48 + b.sched * 2 ^ 40)]

/-! ### The graph -/

def rmEntryOf (e : Nat) : RmEntry := ⟨rmKind e, fld e 8 4, fld e 13 9, fld e 63 0, fld e 127 64, fld e 255 128⟩
def schEntryOf (e : Nat) : SEntry := ⟨fld e 15 0, fld e 28 24, fld e 33 29, schKind e, bit e 36, BitVec.ofNat 8 (fld e 47 40), e / 2 ^ 128⟩
def recOf (g : Img) (j : Nat) : LRec :=
  let r := g.lrec j
  { ctxa := fld r 63 0, trapv := fld r 95 64, pri := fld r 130 128, nbv := fld r 133 132, wss := fld r 149 144, ff := fld r 154 152 + 1
    cmin := fld r 175 160, hint := fld r 191 176, ext := extents r, vars := variantsOf r, lev := levelsOf r
    peers := (peersOf r).filter (fun p => p != 0xFFFF)
    sch := (List.range (fld r 142 140)).map (fun i => (List.range (fld (schWord r i) 47 32)).map (fun k => schEntryOf (g.sch j i k)))
    rm := (rmEntries g j).map rmEntryOf, essential := essentialMarks (rmEntries g j) }
def graphOf (g : Img) (codeBase : Nat) : Graph :=
  let h := g.hdr
  { nodes := (List.range (hNodes h)).map (recOf g)
    edges := (List.range (hEdges h)).map (fun j => let e := g.edge j; ⟨bit e 32, fld e 15 0, fld e 31 16⟩)
    patches := (List.range (hPatches h)).map (fun j =>
      let e := g.patch j; if fld e 1 0 = 0 then .word (fld e 79 64) (fld e 84 80) else .mem (fld e 127 64))
    codeBase := codeBase }

/-! ### The address space (R213, R255, R256) -/

/-- Make sure that the entry of an address at a level names a table; a new table takes the next 64 KiB frame, which is clear. -/
def ensureTable (m : List Host.Cell) (next tbl level va : Nat) : List Host.Cell × Nat × Nat :=
  let a := tbl + 8 * tableIndex level va
  match readEntry level (memLe m 8 a) with
  | .next pa => (m, next, pa)
  | _ => (memPut m a (leBytes 8 (next + 1)), next + 65536, next)
/-- Map the next frame at a 64 KiB page. -/
def mapPage (m : List Host.Cell) (next root va attr : Nat) : List Host.Cell × Nat × Nat :=
  let t1 := ensureTable m next root 0 va
  let t2 := ensureTable t1.1 t1.2.1 t1.2.2 1 va
  let t3 := ensureTable t2.1 t2.2.1 t2.2.2 2 va
  let a := t3.2.2 + 8 * tableIndex 3 va
  (memPut t3.1 a (leBytes 8 (t3.2.1 + attr * 8 + 2)), t3.2.1 + 65536, t3.2.1)
/-- Map a region of `n` pages and copy its content in. -/
def mapRegion (root va attr : Nat) (bytes : List Byte) : Nat → List Host.Cell → Nat → List Host.Cell × Nat
  | 0, m, next => (m, next)
  | n + 1, m, next =>
    let r := mapRegion root va attr bytes n m next
    let p := mapPage r.1 r.2 root (va + 65536 * n) attr
    (memPut p.1 p.2.2 ((bytes.drop (65536 * n)).take 65536), p.2.1)
/-- Pages and tables a plan can need, at most. -/
def frameBound (g : Img) : Nat :=
  let pages := (hCodeSize g.hdr + 65535) / 65536 + ((plans g).map (fun p => planSize p / 65536)).foldl (· + ·) 0
  1 + 4 * pages
/-- The steward's choices fit: the code base, and frames from `place` on. -/
def choiceOk (g : Img) (codeBase place : Nat) : Bool :=
  let n := hCodeSize g.hdr
  codeBase % 65536 == 0 && Config.globalBase ≤ codeBase && codeBase + n ≤ Config.vaTop
  && (plans g).all (fun p => planBase p + planSize p ≤ codeBase || codeBase + (n + 65535) / 65536 * 65536 ≤ planBase p)
  && place % 65536 == 0 && place + 65536 * frameBound g ≤ Config.stagingBase
/-- Build a slot's space: the root at `place`, the code with R and X, each region with its attributes, all resident. -/
def buildSpace (m : List Host.Cell) (g : Img) (codeBase place : Nat) : List Host.Cell :=
  let h := g.hdr
  let m := memClear m place (place + 65536 * frameBound g)
  let bytes (off n : Nat) : List Byte := memBytes g.mem n (g.base + off)
  let c := mapRegion place codeBase (attrR + attrX + attrRES) (bytes (hCodeOff h) (hCodeSize h)) ((hCodeSize h + 65535) / 65536) m (place + 65536)
  ((plans g).foldl (fun (r : List Host.Cell × Nat) p =>
    mapRegion place (planBase p)
      ((if bit p 192 then attrR else 0) + (if bit p 193 then attrW else 0) + (if bit p 194 then 8 else 0)
        + (if bit p 195 then attrFG else 0) + attrRES)
      (if fld p 159 128 = 0 then [] else bytes (fld p 159 128) (fld p 191 160)) (planSize p / 65536) r.1 r.2) c).1

end Sys2Proof.Machine
end

