-- ==== Sys2Proof/Machine/Host.lean ====
section
/-! DEFINITION. Meanings of reset, boot and bring-up, of the host mailbox, of the kick registers, of the staging window and of power
(R20, R21, R25 to R36, R214, R215). -/

namespace Sys2Proof.Machine

/-! ### Reset and power (R26, R27, R60) -/

/-- What outlives a reset: flash, and what the outside world does next. (DESIGN CHOICE, log entry 10.) -/
def State.afterReset (s : State) (on : Bool) : State :=
  { State.reset with flash := s.flash, inputs := s.inputs, powered := on, agenda := if on then State.reset.agenda else [] }
/-- DEVICE_RESET: reset or power-up; the boot ROM and cycle 0 begin. -/
def execDeviceReset (s : State) : Res := .next (s.afterReset true)
/-- POWER_LOSS (R27): the volatile state is gone; a copy being written has been erased when its write began. -/
def execPowerLoss (s : State) : Res := .next (s.afterReset false)

/-! ### Images in flash (R26 to R28) -/

def flashKey (kind copy : Nat) : Nat := 2 * kind + copy
def State.copyOf (s : State) (kind copy : Nat) : FlashCopy := Table.get .blank s.flash (flashKey kind copy)
def State.image (s : State) (kind : Nat) : List Byte := Table.get [] s.images kind
/-- A map that raises a token count above 288 fails verification. -/
def mapOk (img : List Byte) : Bool := (List.range 4).all (fun d => Config.mapTokens img d ≤ 288)
/-- The copies of an image that verify. -/
def State.verified (s : State) (kind : Nat) : List (List Byte) :=
  ([0, 1].filterMap (fun c => let f := s.copyOf kind c; if f.valid then some f.data else none)).filter (fun d =>
    Config.verifies kind d && (kind != 3 || mapOk d))
/-- The minimum version a kind must meet: the running stage 2 carries the map's, the map those of stages 2 and 4 (R27). -/
def State.minimum (s : State) (kind : Nat) : Nat :=
  if kind = 3 then (if (s.images.find 2).isSome then Config.imageMinimum (s.image 2) 3 else 0)
  else if (s.images.find 3).isSome then Config.imageMinimum (s.image 3) kind else 0
/-- The copy boot runs: the higher version among those that pass; at equal versions copy 0. (DESIGN CHOICE, log entry 86.) -/
def newest : List (List Byte) → Option (List Byte)
  | [] => none
  | d :: ds => some (ds.foldl (fun b x => if Config.imageVersion b < Config.imageVersion x then x else b) d)
def State.chosen (s : State) (kind : Nat) : Option (List Byte) :=
  newest ((s.verified kind).filter (fun d => kind == 2 || s.minimum kind ≤ Config.imageVersion d))

/-- ENTER_RECOVERY (R27). -/
def State.recover (s : State) (stage cause : Nat) : State :=
  { s with boot := { s.boot with failed := stage, cause := cause, recovery := true, ready := false } }
/-- A stage's image is measured and runs. (DESIGN CHOICE, log entry 50.) -/
def State.runStage (s : State) (k : Nat) (d : List Byte) : State :=
  { s with images := s.images.set k d, measures := s.measures.set k (Config.sha3 d), boot := { s.boot with reached := k } }
/-- What the configuration map supplies (R28). -/
def State.applyMap (s : State) (d : List Byte) : State :=
  { s with
    harvest := (Config.mapHarvest d).filter (fun c => c < Config.cores)
    spanEn := Config.mapSpans d
    portEn := Config.mapPorts d
    dies := ⟨(List.range 4).map (fun k => (k, { Die.idle with tokens := Config.mapTokens d k, free := Config.mapTokens d k }))⟩ }
/-- The steward starts, and the device is ready (R30). -/
def State.startSteward (s : State) : State :=
  let img := s.image 4
  let s := (List.range Config.stewards).foldl (fun (s : State) k =>
    (s.setCtx (Config.cores + k) 0 (Ctx.start (Config.stewardEntry img k) s.now)).modSteward k (fun x => { x with
      stroot := BitVec.ofNat 64 (fld (Config.stewardRoot img k).toNat 51 16 * 65536) })) s
  { s with boot := { s.boot with reached := 5, ready := true } }
/-- Bring-up has trained all it needs (R32). -/
def State.trained (s : State) : Bool := s.training.hbmOk == BitVec.allOnes 12 && s.training.sram == some true && s.training.bridge == some true
/-- Bring-up runs: stage 4 has been reached, and nothing has failed. -/
def State.bringUp (s : State) : Bool := s.boot.reached == 4 && !s.boot.recovery && !s.boot.ready
def State.bringUpGoesOn (s : State) : State := if s.trained then s.schedOnce 1 (.bootStage 5) else s

/-- BOOT_STAGE (R26, R27, R30): the next stage is verified and run, or the device enters recovery. -/
def execBootStage (stage : Nat) (s : State) : Res :=
  .next (if s.boot.recovery ∨ s.boot.reached + 1 ≠ stage then s
    else match stage with
      | 2 => (match s.chosen 2 with
          | none => s.recover 2 1
          | some d => (s.runStage 2 d).sched 1 (.bootStage 3))
      | 3 => (match s.chosen 3 with
          | none => s.recover 3 (if (s.verified 3).isEmpty then 1 else 2)
          | some d =>
            if Config.imageVersion (s.image 2) < Config.imageMinimum d 2 then s.recover 2 2
            else ((s.runStage 3 d).applyMap d).sched 1 (.bootStage 4))
      | 4 => (match s.chosen 4 with
          | none => s.recover 4 (if (s.verified 4).isEmpty then 1 else 2)
          | some d => s.runStage 4 d)
      | 5 => if s.trained then s.startSteward else s
      | _ => s)

/-! ### Bring-up (R20, R21, R32) -/

/-- HBM_TRAINING_ATTEMPT: three attempts a stack. -/
def execHbmTrainingAttempt (stack : Fin 12) (ok : Bool) (s : State) : Res :=
  let n := Table.get 0 s.training.hbmTries stack.val + 1
  .next (if !s.bringUp ∨ bit s.training.hbmOk.toNat stack.val then s
    else
      let s := { s with training := { s.training with hbmTries := s.training.hbmTries.set stack.val n } }
      if ok then ({ s with training := { s.training with hbmOk := s.training.hbmOk ||| BitVec.ofNat 12 (2 ^ stack.val) } }).bringUpGoesOn
      else if 3 ≤ n then s.recover 5 3 else s)
/-- SRAM_SELF_TEST. -/
def execSramSelfTest (ok : Bool) (s : State) : Res :=
  .next (if !s.bringUp then s
    else
      let s := { s with training := { s.training with sram := some ok } }
      if ok then s.bringUpGoesOn else s.recover 5 4)
/-- DIE_BRIDGE_TRAINING: the die bridges and the control ports. -/
def execDieBridgeTraining (ok : Bool) (s : State) : Res :=
  .next (if !s.bringUp then s
    else
      let s := { s with training := { s.training with bridge := some ok } }
      if ok then s.bringUpGoesOn else s.recover 5 5)
/-- SPAN_LINK_TRAINING (R21): eight lanes, else four, else down; the highest common version of 2 and 3. -/
def spanOutcome (lanes : Nat) (peer : Nat) : Nat × Nat :=
  let n := if 8 ≤ lanes then 8 else if 4 ≤ lanes then 4 else 0
  let v := if bit peer 3 then 3 else if bit peer 2 then 2 else 0
  if n = 0 ∨ v = 0 then (0, 0) else (n, v)
def execSpanLinkTraining (link : Fin 24) (lanes : Nat) (peer : BitVec 8) (s : State) : Res :=
  .next (if s.boot.reached < 4 ∨ s.boot.recovery then s
    else { s with training := { s.training with
      span := s.training.span.set link.val (if bit s.spanEn.toNat link.val then spanOutcome lanes peer.toNat else (0, 0)) } })
/-- PORT_TRAINING (R20): port 0 is the host port, port 1 + j root port j. A root port, as a span link, trains from stage 4 on and not in
recovery; an earlier outcome changes nothing. (DESIGN CHOICE, log entry 85.) -/
def portOutcome (port width rate : Nat) : Nat × Nat :=
  if (if port = 0 then [16, 8] else [16, 8, 4, 2, 1]).contains width ∧ 1 ≤ rate ∧ rate ≤ 6 then (width, rate) else (0, 0)
def execPortTraining (port : Fin 9) (width rate : Nat) (s : State) : Res :=
  .next (if port.val ≠ 0 ∧ (s.boot.reached < 4 ∨ s.boot.recovery) then s
    else { s with training := { s.training with
      port := s.training.port.set port.val
        (if port.val = 0 ∨ bit s.portEn.toNat (port.val - 1) then portOutcome port.val width rate else (0, 0)) } })

/-! ### The mailbox (R34, R35) -/

def State.arg (s : State) (k : Nat) : Nat := (Table.get 0 s.mailbox.args k).toNat
def State.mailData (s : State) (n : Nat) : List Byte := (List.range n).map (Table.get 0 s.mailbox.data)
/-- A command begins: it acts, and what it posts when it ends stands by. (DESIGN CHOICE, log entry 47.) -/
def State.begins (s : State) (tag : BitVec 16) (f : State → State × MailRun) : State :=
  let s := { s with mailbox := { s.mailbox with busy := true } }
  let r := f s
  let n := 1 + r.1.pick 4096
  ({ r.1.spend 4096 with mailbox := { r.1.mailbox with running := some { r.2 with tag := tag } } }).sched n .mailboxCommandComplete
/-- A CMD write: while a command runs it is ignored and sets ovr; else the command begins. -/
def State.command (s : State) (tag : BitVec 16) (f : State → State × MailRun) : State :=
  if s.mailbox.busy then { s with mailbox := { s.mailbox with ovr := true } }
  else { s with mailbox := { s.mailbox with ovr := false } }.begins tag f
/-- A command that ends with a result alone. -/
def mailEnd (result : Nat) : MailRun := ⟨0, result, [], [], false⟩
/-- The steward serves: the device is ready and the steward has not stopped (R30, R383). -/
def State.served (s : State) : Bool := s.boot.ready && !s.stewardStopped

/-- The lines an upload's initial content fills (R172). -/
def State.touchContent (s : State) (g : Img) (slot : Nat) : State :=
  (plans g).foldl (fun (s : State) p =>
    (List.range (if fld p 159 128 = 0 then 0 else (fld p 191 160 + 65535) / 65536)).foldl (fun (s : State) k =>
      match s.walk slot (planBase p + 65536 * k) with
      | some e => s.touchSpan (e.phys (planBase p + 65536 * k)) (Nat.min 65536 (fld p 191 160 - 65536 * k))
      | none => s) s) s
/-- UPLOAD (R35, R214): checked, and accepted into its slot; a busy slot is found before the checks. The steward chooses the code base and the
frames; operands that are no choice it may make leave everything as it was. (DESIGN CHOICE, log entry 89.) -/
def execUpload (tag : BitVec 16) (codeBase place : Nat) (s : State) : Res :=
  let off := s.arg 0
  let size := s.arg 1
  let slot := s.arg 2
  let g : Img := ⟨s.mem, Config.stagingBase + off, size⟩
  let sound := off % 4096 == 0 && off + size ≤ Config.stagingTop - Config.stagingBase && slot < 1024
  let free := (s.slot slot).kicks.isEmpty && (s.slot slot).replay.isNone
  let good := s.served && sound && free && (uploadBad g size).isNone
  .next (if good ∧ !s.mailbox.busy ∧ !choiceOk g codeBase place then s
    else s.command tag (fun s =>
      if !s.served then (s, mailEnd 6)
      else if !sound then (s, mailEnd 2)
      else if !free then (s, mailEnd 5)
      else match uploadBad g size with
        | some b => (s, { mailEnd 3 with res := b.res })
        | none =>
          let s := { s with
            mem := buildSpace s.mem g codeBase place
            cores := s.cores.mapAll (fun _ (c : Core) => { c with utlb := c.utlb.filter (fun e => e.space != slot) })
            clusters := s.clusters.mapAll (fun _ (c : Cluster) => { c with tlb := c.tlb.filter (fun e => e.space != slot) }) }
          let s := s.modSlot slot (fun x => { x with graph := some (graphOf g codeBase), root := place })
          (s.touchContent g slot, mailEnd 0)))

/-- RELEASE (R35). -/
def execRelease (tag : BitVec 16) (s : State) : Res :=
  .next (s.command tag (fun s =>
    let slot := s.arg 0
    let x := s.slot slot
    if !s.served then (s, mailEnd 6)
    else if 1024 ≤ slot then (s, mailEnd 2)
    else if !x.kicks.isEmpty ∨ x.replay.isSome then (s, mailEnd 5)
    else (s.modSlot slot (fun x => { x with graph := none }), mailEnd 0)))

/-! #### Attestation (R25, R31) -/

/-- The body of record 0x0002. -/
def State.harvestRecord (s : State) : List Byte :=
  (List.range 4).flatMap (fun d =>
    let map := ofBits (fun b => s.harvest.contains (576 * d + b)) 576
    leBytes 2 (576 - popCount 576 map) ++ List.replicate 6 0 ++ leBytes 72 map)
/-- The body of record 0x0004. -/
def State.leaseRecord (s : State) : List Byte := (List.range 4).flatMap (fun d => leBytes 2 (s.die d).tokens)
/-- The items of a report over a nonce that the identity key signs. (DEDUCED, log entry 48.) -/
def State.reportBody (s : State) (nonce : List Byte) : List Byte :=
  nonce ++ [2, 3, 4].flatMap (fun k => leBytes 32 (Table.get 0 s.measures k).toNat) ++ s.harvestRecord ++ s.leaseRecord
/-- A report is formed, where stage 2 runs. -/
def attestRun (nonce : List Byte) (s : State) : State × MailRun :=
  if s.boot.reached < 2 ∨ s.boot.failed = 2 then (s, mailEnd 6)
  else
    let b := s.reportBody nonce
    let r := b ++ Config.identitySign (Config.sha3 b)
    (s, { mailEnd 0 with res := [BitVec.ofNat 64 r.length], data := r, report := true })
/-- ATTEST: while another report is being formed it waits, with its nonce, until that is returned (R31). (DEDUCED, log entry 47.) -/
def execAttest (tag : BitVec 16) (s : State) : Res :=
  .next (if s.mailbox.running.elim false (·.report) then
      { s with mailbox := { s.mailbox with waiting := s.mailbox.waiting ++ [(tag, s.mailData 32)] } }
    else s.command tag (attestRun (s.mailData 32)))

/-- MAILBOX_COMMAND_COMPLETE: results, tag and result are written, busy is cleared, and MSI-X vector 0 is signalled; an ATTEST that waits
begins. RES words the command gives no value are written 0. (DESIGN CHOICE, log entry 88.) -/
def execMailboxCommandComplete (s : State) : Res :=
  .next (match s.mailbox.running with
    | none => s
    | some r =>
      let m := s.mailbox
      let s := { s with mailbox := { m with
        busy := false, running := none, tag := r.tag, result := r.result, msix := m.msix + 1
        res := ⟨(List.range 4).map (fun k => (k, r.res.getD k 0))⟩
        data := ((List.range r.data.length).zip r.data).foldl (fun t e => t.set e.1 e.2) m.data
        waiting := m.waiting.tail, resetAfter := false } }
      if m.resetAfter then s.sched 0 .deviceReset
      else match m.waiting with
        | (tag, nonce) :: _ => s.begins tag (attestRun nonce)
        | [] => s)

/-! #### FLASHWR (R26, R27, R35) -/

/-- An image passes verification and meets its minimum. -/
def State.passes (s : State) (kind : Nat) (d : List Byte) : Bool :=
  Config.verifies kind d && (kind != 3 || mapOk d) && s.minimum kind ≤ Config.imageVersion d
/-- Take a chunk: the first of an image begins a new one, and erases the copy; one out of order, or with a bad argument, ends it.
(DEDUCED, log entries 49 and 89.) -/
def State.flashChunk (s : State) : State × MailRun :=
  let kind := s.arg 0
  let copy := s.arg 1
  let off := s.arg 2
  let n := s.arg 3
  let total := s.arg 4
  let stop : State × MailRun := ({ s with flashBuf := none }, mailEnd 2)
  if !(2 ≤ kind && kind ≤ 4) || 1 < copy || n = 0 || 3840 < n || total < off + n then stop
  else
    let have_ : Option (List Byte) :=
      if off = 0 then some []
      else match s.flashBuf with
        | some b => if b.kind = kind ∧ b.copy = copy ∧ b.total = total ∧ b.data.length = off then some b.data else none
        | none => none
    match have_ with
    | none => stop
    | some l =>
      let d := l ++ s.mailData n
      let res := [BitVec.ofNat 64 d.length]
      if d.length < total then
        ({ s with
           flashBuf := some ⟨kind, copy, total, d⟩
           flash := s.flash.set (flashKey kind copy) ⟨false, []⟩ }, { mailEnd 0 with res := res })
      else if s.passes kind d then
        ({ s with flashBuf := none, flash := s.flash.set (flashKey kind copy) ⟨true, d⟩ }, { mailEnd 0 with res := res })
      else ({ s with flashBuf := none, flash := s.flash.set (flashKey kind copy) ⟨false, d⟩ }, { mailEnd 4 with res := res })
/-- FLASHWR: served by the security engine, or in recovery of stage 2 by the loader, which takes kind 2 alone and answers another with
result 6. (DESIGN CHOICE, log entry 89.) -/
def execFlashwr (tag : BitVec 16) (s : State) : Res :=
  .next (s.command tag (fun s =>
    if s.boot.reached < 2 ∧ !s.boot.recovery then (s, mailEnd 6)
    else if s.boot.recovery ∧ s.boot.failed = 2 ∧ s.arg 0 ≠ 2 then (s, mailEnd 6)
    else s.flashChunk))

/-- RESET: ARG0 <0> = 1; the device resets after the result is posted. -/
def execReset (tag : BitVec 16) (s : State) : Res :=
  .next (s.command tag (fun s =>
    if s.arg 0 % 2 = 1 then ({ s with mailbox := { s.mailbox with resetAfter := true } }, mailEnd 0) else (s, mailEnd 2)))

/-! ### Plain registers (R34, R355) -/

/-- The steward's choice for an UPLOAD: a free one, where it may make it, else frames from 0 on and code above every region.
(DESIGN CHOICE, log entry 84.) -/
def State.choose (s : State) : Nat × Nat :=
  let g : Img := ⟨s.mem, Config.stagingBase + s.arg 0, s.arg 1⟩
  let c := Config.uploadChoice s.fresh
  if choiceOk g c.1 c.2 then c
  else (((plans g).map (fun p => planBase p + planSize p)).foldl (fun a b => Nat.max a ((b + 65535) / 65536 * 65536)) Config.globalBase, 0)
/-- A CMD write starts the command of R35 that its code names; a code that names none ends with result 1. -/
def State.cmdWrite (s : State) (op : Nat) (tag : BitVec 16) : Res :=
  match op with
  | 1 => execUpload tag s.choose.1 s.choose.2 s
  | 2 => execRelease tag s
  | 3 => execAttest tag s
  | 4 => execFlashwr tag s
  | 5 => execReset tag s
  | _ => .next (s.command tag (fun s => (s, mailEnd 1)))
/-- REGISTER_WRITE: a mailbox argument or data word, CMD, or DBGHZ, EVICTWAIT or PREEMPTWAIT as every die applies it. -/
def execRegisterWrite (r : HostReg) (v : Word) (s : State) : Res :=
  if r = .cmd then s.cmdWrite (fld v.toNat 7 0) (BitVec.ofNat 16 (fld v.toNat 31 16)) else
  .next (match r with
    | .arg k => { s with mailbox := { s.mailbox with args := s.mailbox.args.set k.val v } }
    | .data k =>
      let bs := leBytes 8 v.toNat
      { s with mailbox := { s.mailbox with data := ((List.range 8).zip bs).foldl (fun t e => t.set (8 * k.val + e.1) e.2) s.mailbox.data } }
    | .cmd => s
    | .dbghz k => ({ s with dbghz := bit v.toNat 0 }).wakeSteward k
    | .evictwait k =>
      let s := { s with evictwait := fld v.toNat 31 0 }
      ((List.range 4).foldl (fun (s : State) d => s.schedSoon 0 (.eviction d)) s).wakeSteward k
    | .preemptwait k => (({ s with preemptwait := fld v.toNat 31 0 }).schedOnce 0 .placement).wakeSteward k)

/-! ### Kicks and the staging window (R30, R33, R215) -/

/-- KICK: a write to register `k` of the kick window, whose kick registers are the first 1,024; before ready every write to the window is
counted, to its status half too (R30, R215). (DEDUCED, log entry 87.) -/
def execKick (k : Nat) (v : Word) (s : State) : Res :=
  let t := if s.boot.ready ∨ 2048 ≤ k then s else { s with boot := { s.boot with lostk := Nat.min (s.boot.lostk + 1) (2 ^ 32 - 1) } }
  .next (if 1024 ≤ k then t
    else
      let x := s.slot k
      let s := t
      if !s.boot.ready ∨ fld v.toNat 15 0 ≠ k ∨ x.graph.isNone ∨ 64 ≤ x.kicks.length then
        s.modSlot k (fun x => { x with lost := Nat.min (x.lost + 1) (2 ^ 16 - 1) })
      else
        let s := s.modSlot k (fun x => { x with kicks := x.kicks ++ [(s.now, fld v.toNat 63 16 * 64)] })
        if x.replay.isNone then s.schedOnce 0 (.replayBegin k) else s)

/-- HOST_STAGING_WRITE: bytes of BAR4; discarded until bring-up has completed. -/
def execHostStagingWrite (off : Nat) (bytes : List Byte) (s : State) : Res :=
  let bs := bytes.take (Config.stagingTop - Config.stagingBase - off)
  .next (if s.boot.ready then (s.store (Config.stagingBase + off) bs).touchSpan (Config.stagingBase + off) bs.length else s)
/-- HOST_STAGING_READ: all ones until bring-up has completed. -/
def execHostStagingRead (off n : Nat) (s : State) : Res :=
  .next { s with hostRead :=
    if s.boot.ready then memBytes s.mem (Nat.min n (Config.stagingTop - Config.stagingBase - off)) (Config.stagingBase + off)
    else List.replicate n 255 }

end Sys2Proof.Machine
end

