-- ==== Sys2Proof/Machine/Launch.lean ====
section
/-! DEFINITION. Meanings of the sequencer's events: replays, placement, team set-up, launch, completion and teardown (R150, R159, R166,
R178, R209, R215 to R225, R244, R253, R254). -/

namespace Sys2Proof.Machine

/-! ### Progress of a replay (R209, R217) -/

/-- A producer edge is satisfied. -/
def edgeMet (nodes : List NodeSt) (e : Edge) : Bool :=
  match nodes.getD e.src .waiting with
  | .completed => true
  | .triggered _ => e.trig
  | _ => false
def Graph.isReady (g : Graph) (nodes : List NodeSt) (j : Nat) : Bool := (g.edges.filter (fun e => e.dst == j)).all (edgeMet nodes)
/-- Nodes become ready, and a replay whose nodes have all ended ends; the next queued one begins. (DEDUCED, log entry 53.) -/
def State.advanceReplay (s : State) (slot : Nat) : State :=
  match (s.slot slot).replay, (s.slot slot).graph with
  | some rp, some g =>
    let nodes := (List.range rp.nodes.length).map (fun j => match rp.nodes.getD j .dropped with
      | .waiting => if g.isReady rp.nodes j then .ready s.now else .waiting
      | x => x)
    if nodes.all (fun n => n == .completed || n == .dropped) then
      let s := s.modSlot slot (fun x => { x with
        replay := none, done := (x.done + 1) % 2 ^ 32, err := if rp.err = 0 then x.err else rp.err })
      (if (s.slot slot).kicks.isEmpty then s else s.schedOnce 0 (.replayBegin slot)).schedOnce 0 .placement
    else (s.modSlot slot (fun x => { x with replay := some { rp with nodes := nodes } })).schedOnce 0 .placement
  | _, _ => s
def State.modReplay (s : State) (slot : Nat) (f : Replay → Replay) : State := s.modSlot slot (fun x => { x with replay := x.replay.map f })
def State.setNode (s : State) (slot j : Nat) (n : NodeSt) : State := s.modReplay slot (fun r => { r with nodes := setAt r.nodes j n })

/-! ### Patches (R216) -/

/-- A patch of a launch-record word keeps R218. -/
def patchValOk (k v : Nat) : Bool :=
  if k = 0 then v % 4096 == 0 && isGlobal v else fld v 31 0 != 0 && fld v 63 32 != 0
def patchRec (r : LRec) (k v : Nat) : LRec :=
  if k = 0 then { r with ctxa := v }
  else if k = 4 then { r with ext := [fld v 31 0, fld v 63 32] ++ r.ext.drop 2 }
  else { r with ext := r.ext.take 2 ++ [fld v 31 0, fld v 63 32] }
/-- The error of the first failing entry, in table order. -/
def patchErr (g : Graph) : List (Nat × Nat) → Nat
  | [] => 0
  | (i, v) :: ps =>
    match g.patches[i]? with
    | none => 1
    | some (.word _ k) => if patchValOk k v then patchErr g ps else 2
    | some (.mem _) => patchErr g ps
def patchAll (g : Graph) : List (Nat × Nat) → List LRec → List LRec
  | [], rs => rs
  | (i, v) :: ps, rs => patchAll g ps (match g.patches[i]? with
      | some (.word j k) => modAt (fun r => patchRec r k v) rs j
      | _ => rs)
/-- The memory words, each performed at its home. -/
def State.patchMem (s : State) (g : Graph) (slot : Nat) (ps : List (Nat × Nat)) : State :=
  ps.foldl (fun (s : State) (p : Nat × Nat) => match g.patches[p.1]? with
    | some (Patch.mem va) => (match s.walk slot va with
        | some e => (s.store (e.phys va) (leBytes 8 p.2)).touchSpan (e.phys va) 8
        | none => s)
    | _ => s) s
/-- A patch table: its entries, or none where it leaves the staging region or its count is past 4,096. (DEDUCED, log entry 52.) -/
def State.patchTable (s : State) (pa : Nat) : Option (List (Nat × Nat)) :=
  if pa = 0 then some []
  else
    let n := memLe s.mem 8 pa
    if pa < Config.stagingBase ∨ Config.stagingTop < pa + 8 ∨ 4096 < n ∨ Config.stagingTop < pa + 8 + 16 * n then none
    else some ((List.range n).map (fun k => (memLe s.mem 4 (pa + 8 + 16 * k), memLe s.mem 8 (pa + 16 + 16 * k))))

/-- REPLAY_BEGIN (R215, R216): the oldest kick of a slot; a failed replay launches nothing and counts as ended. -/
def execReplayBegin (slot : Nat) (s : State) : Res :=
  let x := s.slot slot
  .next (match x.replay, x.graph, x.kicks with
    | none, some g, (at_, ptab) :: ks =>
      let s := s.modSlot slot (fun x => { x with kicks := ks })
      let fail (e : Nat) : State :=
        let s := s.modSlot slot (fun x => { x with err := e, done := (x.done + 1) % 2 ^ 32 })
        if ks.isEmpty then s else s.schedOnce 1 (.replayBegin slot)
      (match s.patchTable ptab with
       | none => fail 5
       | some ps =>
         let recs := patchAll g ps g.nodes
         if patchErr g ps ≠ 0 then fail (patchErr g ps)
         else if recs.any (fun r => !extOk r.ext) then fail 2
         else
           let s := s.patchMem g slot ps
           (s.modSlot slot (fun x => { x with replay := some ⟨at_, 0, g.nodes.map (fun _ => .waiting), recs⟩ })).advanceReplay slot)
    | _, _, _ => s)

/-! ### Set-up of a placed team (R222) -/

/-- Events of a core that belong to the team that had it. -/
def ofCore (c : Nat) : Instr → Bool
  | .levellingSample k _ | .weightTakesEffect k _ | .copyCommandStart k | .iterationClaim k
  | .claimReply k _ | .triggerNotice k _ | .trapAnswer k _ _ | .copyRowWrite k _ _ | .gatherIndexBatch k _ | .copyCommandComplete k _ => k == c
  | _ => false
/-- They go, once what a pre-empted team of the core is owed has reached it. -/
def State.dropEvents (s : State) (c : Nat) : State :=
  let s := s.settleCore c
  { s with agenda := s.agenda.filter (fun e => !ofCore c e.2) }
/-- Nothing is on its way any more over a direction that is linked or unlinked. -/
def State.dropLink (s : State) (k : Nat) (d : Dir) : State :=
  { s with agenda := s.agenda.filter (fun e => e.2 != .queueEntryArrive k d && e.2 != .creditReturn k d) }
/-- The contexts of a core are idle. -/
def State.clearCtxs (s : State) (c : Nat) : State := { s with ctxs := ⟨s.ctxs.cells.filter (fun x => x.1 / 16 != c)⟩ }

/-- Step 1: a core of a new team, its scratchpad zero. -/
def State.setupCore (s : State) (t c : Nat) : State :=
  let lo := spad c 0
  let s := (s.dropEvents c).clearCtxs c
  { s with
    mem := memClear s.mem lo (lo + Config.spadSize)
    bad := s.bad.filter (fun k => !((lo ≤ k && k < lo + Config.spadSize) || k / 4 == badQueue c 0 / 4))
    cores := s.cores.set c { Core.idle with team := some t } }

/-- A direction is linked: bound to what it wished for, an empty inbound queue and 16 credits. -/
def Core.linkDir (x : Core) (d : Dir) (ctx : Option Nat) : Core :=
  { x with
    wish := x.wish.erase (dirNum d)
    qbind := x.qbind.filter (fun e => e.2.1 != dirNum d) ++ [(0, dirNum d, ctx)]
    credits := x.credits.set (dirNum d) 16
    qin := x.qin.set (dirNum d) []
    transit := x.transit.set (dirNum d) [] }
/-- A direction is not linked: unbound, without credits, its inbound queue empty. -/
def Core.unlinkDir (x : Core) (d : Dir) : Core :=
  { x with
    wish := x.wish.set (dirNum d) (some 0)
    qbind := x.qbind.filter (fun e => e.2.1 != dirNum d)
    credits := x.credits.set (dirNum d) 0
    qin := x.qin.set (dirNum d) []
    transit := x.transit.set (dirNum d) [] }
/-- Step 2: the directions of a core. -/
def State.setupDirs (s : State) (c : Nat) : State :=
  allDirs.foldl (fun (s : State) d =>
    s.modCore c (fun x => if s.linkHarvested c d || s.linkOutside c d then x.unlinkDir d else x.linkDir d (some 0))) s
/-- Apply a function to core `k` as its team has it, and as each pre-empted team's context area holds it. -/
def State.mapSides (s : State) (k : Nat) (f : Team → Core → Core) : State :=
  let s := match s.teamOf k with
    | some (_, u) => if u.savedCore.any (fun x => x.1 == k) then s else s.modCore k (f u)
    | none => s
  { s with teams := s.teams.mapAll (fun _ (u : Team) => { u with savedCore := u.savedCore.map (fun x => if x.1 = k then (k, f u x.2) else x) }) }
/-- R150: directions of other teams toward core `c` that its team's coming links. -/
def State.linkNeighbours (s : State) (t : Team) (c : Nat) : State :=
  allDirs.foldl (fun (s : State) d =>
    if t.hasCore (neighbour c d) then s
    else (s.dropLink (neighbour c d) (dirOpp d)).mapSides (neighbour c d) (fun u x =>
      match x.wish.find (dirNum (dirOpp d)) with
      | some w => if u.permits t && !(s.harvest.contains c || s.harvest.contains (neighbour c d)) then x.linkDir (dirOpp d) w else x
      | none => x)) s
/-- R150: directions of other teams toward core `c` that the end of its team unlinks. -/
def State.unlinkNeighbours (s : State) (t : Team) (c : Nat) : State :=
  allDirs.foldl (fun (s : State) d =>
    if t.hasCore (neighbour c d) then s
    else (s.dropLink (neighbour c d) (dirOpp d)).mapSides (neighbour c d) (fun u x =>
      if u.permits t && (x.wish.find (dirNum (dirOpp d))).isNone then x.unlinkDir (dirOpp d) else x)) s

/-- A declared controller (R153, R221), as its LVSET image leaves it. -/
def levOf (a x : Nat) : Lev :=
  { fifo := bit a 19, dir := dirOf (fld a 21 20), prodFar := bit a 22, prodCtx := fld a 26 23, cons := fld a 30 27
    en := bit x 31, setp := fld x 10 6, gp := fld x 13 11, gi := fld x 16 14, wp0 := fld x 20 17 + 1, wc0 := fld x 24 21 + 1
    period := 16 * (fld x 30 25 + 1), integ := 0, ez := 0, fz := 0, occ := 0, wc := fld x 24 21 + 1, wp := fld x 20 17 + 1, n := 0
    nextAt := 0 }
/-- The object of a binding entry. -/
def rmObj (c a o : Nat) : Obj :=
  let place := if o < Config.spadSize then (c, o) else (apertureOf o).getD (c, 0)
  match fld a 21 20 with
  | 0 => .hw o
  | 1 => .fe place.1 place.2
  | 2 => .dw place.1 place.2
  | _ => .ch (fld a 25 22)
/-- Step 3: a resource-map entry at its core (R221). -/
def State.applyRm (s : State) (t : Team) (e : RmEntry) : State :=
  let c := coreAt t.die (t.ox + e.cx) (t.oy + e.cy)
  let off := fld e.a 32 16
  match e.kind with
  | 1 => { s with full := setFullRange s.full (bit e.a 33) (fld e.b 31 0 / 8) (spad c off) }
  | 2 => { s with mem := memPut s.mem (spad c off) (leBytes 8 e.b ++ leBytes 8 0) }
  | 3 =>
    let d := fld e.a 17 16
    let v := if bit e.a 18 then some (fld e.a 22 19) else none
    s.modCore c (fun x =>
      if (x.wish.find d).isSome then { x with wish := x.wish.set d v }
      else { x with qbind := x.qbind.filter (fun k => k.2.1 != d) ++ [(0, d, v)] })
  | 4 =>
    let n := fld e.a 19 16
    s.modCore c (fun x => { x with
      free := insertNat n x.free
      essential := if t.lr.essential.contains (e.cx, e.cy, n) then insertNat n x.essential else x.essential })
  | 5 => s.modCore c (fun x => { x with lev := x.lev.set (fld e.a 18 16) (levOf e.a (fld e.b 31 0)) })
  | _ =>
    let k := fld e.a 19 16
    s.modCore c (fun x => { x with
      slots := x.slots.filter (fun v => v.2.1 != k) ++ [(0, k, some ⟨e.b, fld e.c 83 64, rmObj c e.a (fld e.c 63 0)⟩)] })

/-- TEAM_SETUP: the five steps for a team that takes its cores. -/
def State.setupTeam (s : State) (t : Nat) (u : Team) : State :=
  let s := { s with teams := s.teams.set t u }
  let s := u.cores.foldl (fun (s : State) c => s.setupCore t c) s
  let s := u.cores.foldl (fun (s : State) c => (s.setupDirs c).linkNeighbours u c) s
  let s := u.lr.rm.foldl (fun (s : State) e => s.applyRm u e) s
  let s := u.cores.foldl (fun (s : State) c => s.cacheDropAll c) s
  (List.range u.scheds.length).foldl (fun (s : State) k => s.schedOnce 0 (.scheduleEntryRelease t k)) s

/-! ### Placement (R223 to R225) -/

/-- A resume of a team is under way. -/
def State.resuming (s : State) (t : Nat) : Bool := s.due (.resume t)
/-- A core is free and not harvested: in no team, or left by a pre-empted one. -/
def State.coreFree (s : State) (c : Nat) : Bool :=
  !s.harvest.contains c && (match s.teamOf c with
    | none => true
    | some (t, u) => u.st == .suspended && !u.savedCore.isEmpty && !s.resuming t)
def State.freeOn (s : State) (d : Nat) : Nat := ((List.range 576).filter (fun k => s.coreFree (576 * d + k))).length
/-- Dies by free cores descending, then number. -/
def State.dieOrder (s : State) : List Nat :=
  let l := (List.range 4).map (fun d => (s.freeOn d, d))
  let before (a b : Nat × Nat) : Bool := b.1 < a.1 || (a.1 == b.1 && a.2 < b.2)
  ((l.map (fun a => ((l.filter (fun b => before b a)).length, a.2))).foldl (fun t e => Table.putIn e.1 e.2 t) []).map (·.2)
/-- Place(node) of R223: variant, die and origin. -/
def State.placeOf (s : State) (r : LRec) : Option (Nat × Nat × Nat × Nat) :=
  (List.range r.vars.length).findSome? (fun v =>
    let w := (r.vars.getD v ⟨1, 1, 0⟩).w
    let h := (r.vars.getD v ⟨1, 1, 0⟩).h
    s.dieOrder.findSome? (fun d =>
      (List.range (25 - h)).findSome? (fun y =>
        (List.range (25 - w)).findSome? (fun x =>
          if (List.range h).all (fun j => (List.range w).all (fun i => s.coreFree (coreAt d (x + i) (y + j)))) then some (v, d, x, y) else none))))

/-- A ready node, or a pre-empted team that has rejoined its queue: priority, node, kick, slot, readiness, and the team. -/
structure Cand where
  pri : Nat
  node : Nat
  kick : Nat
  slot : Nat
  since : Nat
  team : Option Nat
deriving DecidableEq, Repr

def Cand.before (a b : Cand) : Bool :=
  b.pri < a.pri || (a.pri == b.pri && (a.node < b.node || (a.node == b.node && (a.kick < b.kick || (a.kick == b.kick && a.slot < b.slot)))))
def insertCand (k : Cand) : List Cand → List Cand
  | [] => [k]
  | c :: cs => if k.before c then k :: c :: cs else c :: insertCand k cs
/-- The candidates in the order of R224. -/
def State.cands (s : State) : List Cand :=
  let fromNodes := s.slots.cells.flatMap (fun x => match x.2.replay with
    | some rp => (List.range rp.nodes.length).filterMap (fun j => match rp.nodes.getD j .dropped with
        | .ready at_ => (rp.recs[j]?).map (fun r => ⟨r.pri, j, rp.kickedAt, x.1, at_, none⟩)
        | _ => none)
    | none => [])
  let fromTeams := s.teams.cells.filterMap (fun t =>
    if t.2.st = TeamSt.suspended ∧ !t.2.savedCore.isEmpty ∧ !s.resuming t.1 then
      some ⟨t.2.lr.pri, t.2.node, ((s.slot t.2.slot).replay.map (·.kickedAt)).getD 0, t.2.slot, t.2.readyAt, some t.1⟩ else none)
  (fromNodes ++ fromTeams).foldl (fun l k => insertCand k l) []
/-- The original cores of a pre-empted team are free. -/
def State.homeFree (s : State) (t : Nat) (u : Team) : Bool := u.cores.all (fun c => (s.core c).team == some t || s.coreFree c)
/-- Cycles that the context area takes to move (R384). -/
def Team.moveCycles (t : Team) : Nat :=
  6150 * (t.cores.map (fun c => (t.cores.filter (fun k => clusterOf k == clusterOf c)).length)).foldl Nat.max 1 + 2000

/-- Place a candidate, if it fits. -/
def State.tryPlace (s : State) (k : Cand) : Option State :=
  match k.team with
  | some t =>
    (match s.teams.find t with
     | some u =>
       if s.homeFree t u then
         some ((u.cores.foldl (fun (s : State) c => s.modCore c (fun x => { x with team := some t })) s).sched u.moveCycles (.resume t))
       else none
     | none => none)
  | none =>
    match (s.slot k.slot).replay, (s.slot k.slot).graph with
    | some rp, some g =>
      (match rp.recs[k.node]? with
       | some r => (s.placeOf r).map (fun p =>
           let t := s.tok
           let u : Team :=
             { slot := k.slot, node := k.node, die := p.2.1, ox := p.2.2.1, oy := p.2.2.2, variant := p.1, lr := r, codeBase := g.codeBase
               st := .placed, placedAt := s.now, readyAt := k.since, stage := 0, scheds := r.sch.map (fun _ => ⟨0, 0, []⟩), next := 0
               halt := none, stages := [], trigs := [], saved := [], savedCtx := [], savedCore := [], late := [] }
           ((s.newTok.setupTeam t u).setNode k.slot k.node (.placed t)).sched Config.launchCycles (.teamLaunch t))
       | none => none)
    | _, _ => none

/-- Watch for the waits that PREEMPTWAIT bounds. -/
def State.armPreempt (s : State) : State :=
  match (s.cands.map (·.since)) with
  | [] => s
  | a :: as => s.schedSoon (as.foldl Nat.min a + s.preemptwait + 1 - s.now) .preemptTrigger

/-- PLACEMENT (R223, R224): the first candidate that fits; one a cycle. -/
def execPlacement (s : State) : Res :=
  .next (match s.cands.findSome? s.tryPlace with
    | some s => s.schedOnce 1 .placement
    | none => s.armPreempt)

/-! ### Launch (R64, R154, R222, R226) -/

/-- A demand that holds from the team's first rotation. -/
def State.firstDemand (s : State) (c n key w : Nat) : State :=
  s.modCtx c n (fun x =>
    let d := x.demands.set key w
    let k := weightOf ((s.core c).free.contains n) d
    { x with demands := d, weight := k, nextWeights := [] })
/-- The demands of an enabled controller at launch, and its first sample. (DEDUCED, log entry 56.) -/
def State.startLev (s : State) (c k r0 : Nat) (l : Lev) : State :=
  if !l.en then s
  else
    let s := s.setLev c k { l with nextAt := r0 + l.period }
    let s := s.sched (r0 + l.period - s.now) (.levellingSample c k)
    let s := s.firstDemand c l.cons (levKey c k false) l.wc
    if l.fifo then
      let upd (x : EEnd) : EEnd := { x with demands := x.demands.set (levKey c k true) l.wp }
      s.modEng (linkId c l.dir) (fun e => if isNear l.dir then { e with near := upd e.near } else { e with far := upd e.far })
    else s.firstDemand (if l.prodFar then neighbour c l.dir else c) l.prodCtx (levKey c k true) l.wp
/-- TEAM_LAUNCH: ctx 0 of every core starts at the entry of its variant. -/
def execTeamLaunch (team : Nat) (s : State) : Res :=
  .next (match s.teams.find team with
    | none => s
    | some u =>
      if u.st ≠ .placed then s
      else
        let entry := u.codeBase + ((u.lr.vars[u.variant]?).map (·.entry)).getD 0
        let s := s.modTeam team (fun u => { u with st := .running })
        let s := u.cores.foldl (fun (s : State) c => s.setCtx c 0 (Ctx.start (BitVec.ofNat 64 entry) (ownSlot 0 s.now))) s
        let s := u.cores.foldl (fun (s : State) c =>
          (s.core c).lev.cells.foldl (fun (s : State) l => s.startLev c l.1 (rotationFrom s.now) l.2) s) s
        -- a node that waits may take this team as its victim from now on (R225)
        (u.cores.foldl (fun (s : State) c => s.fetchAhead c) s).schedOnce 0 .placement)

/-! ### The end of a team (R217, R244, R253, R254) -/

/-- A context's part in its team, live or in the context area. -/
def State.teamCtx (s : State) (u : Team) (c n : Nat) : Ctx :=
  if u.savedCtx.isEmpty then s.ctx c n else ((u.savedCtx.find? (fun x => x.1 == 16 * c + n)).map (·.2)).getD .idle
/-- Every started context has sent its notice, or exited with no TRIG of it still held (R203, R209). -/
def State.teamTriggered (s : State) (u : Team) : Bool :=
  u.st != .placed && u.cores.all (fun c => (List.range 16).all (fun n =>
    let x := s.teamCtx u c n
    x.noticed || (x.st != .running && !u.trigs.any (fun r => r.1 == c && r.2.1 == n))))
/-- Context 0 of a core has exited, and no context of it runs (R75). -/
def State.shareOver (s : State) (c : Nat) : Bool :=
  (s.ctx c 0).st == .exited && (List.range 16).all (fun n => (s.ctx c n).st != .running)
/-- A team is complete. -/
def State.teamDone (s : State) (t : Nat) (u : Team) : Bool :=
  u.st == .running && u.trigs.isEmpty && u.stages.isEmpty
  && (List.range u.scheds.length).all (fun k => ((u.scheds[k]?).map (·.released)).getD 0 == ((u.lr.sch[k]?).map (·.length)).getD 0)
  && u.cores.all (fun c => (let x := s.core c; x.ended && x.cmds.isEmpty && x.schWait.isEmpty && x.wcb.isEmpty && x.unacked.isEmpty && x.inj.isEmpty))
  && s.engines.cells.all (fun e => !(e.2.lease.elim false (fun z => z.team == t)) || e.2.st != .draining)

/-- Close an end that a team that ends still holds. -/
def State.dropEnd (s : State) (t l : Nat) (far : Bool) : State :=
  let e := s.eng l
  let x := e.end_ far
  let s := if x.heldOpen.elim false (fun h => h.ctx / 16 == t) then
      s.setEng l ((x.heldOpen.elim e (fun h => h.feeds.foldl (fun (e : Engine) (f : Feed) => e.numDone f.num) e)).modEnd far
        (fun x => { x with heldOpen := none }))
    else s
  let e := s.eng l
  let s :=
    if x.isOpen && x.party / 16 == t then
      (let s := s.modEnd l far (fun x => { x with tok := none })
       let e := e.modEnd far (fun x => { x with tok := none })
       match e.st with
       | .dormant | .waking =>
         (s.setEng l { e.dropFeeds far with
            formed := false, cfgA := if x.roleB then e.cfgA else [], cfgB := if x.roleB then [] else e.cfgB }).closeEnd l far
       | .openPending => (s.setEng l (e.dropFeeds far)).closeEnd l far
       | .ready | .running | .draining | .faulted => (s.breakRzv l far).closeEnd l far
       | .suspended =>
         (if (e.end_ (!far)).isOpen then (s.setEng l { e.dropFeeds far with broken := true }).post l (!far) .rzvBroken 0
          else s.setEng l (e.dropFeeds far)).closeEnd l far
       | .done | .idle => s.closeEnd l far)
    else s
  -- a fault posted to the team that ends is told to nobody
  s.modEnd l far (fun x => { x with
    fault := if x.fault.elim false (fun p => p.ctx / 16 == t) then x.fault2 else x.fault
    fault2 := if x.fault.elim false (fun p => p.ctx / 16 == t) then none else x.fault2
    last := if x.last.elim false (fun n => n / 16 == t) then none else x.last })
/-- The engines of a team that ends: its ends close, its leases return, its queued requests go (R217, R253). -/
def State.dropEngines (s : State) (t : Nat) : State :=
  let ls := s.engines.cells.map (·.1)
  let s := ls.foldl (fun (s : State) l => (s.dropEnd t l false).dropEnd t l true) s
  let s := { s with dies := s.dies.mapAll (fun _ (d : Die) =>
    { d with fifos := d.fifos.mapAll (fun _ q => q.filter (fun (r : LeaseReq) => r.team != t)) }) }
  let s := ls.foldl (fun (s : State) l =>
    let e := s.eng l
    if e.lease.elim false (fun z => z.team == t) then
      (if e.st = EState.suspended ∧ e.savedBy ≠ some t then s.modEng l (fun e => { e with lease := none }) else s.returnToken l)
    else if e.st = EState.suspended ∧ e.savedBy = some t then s.returnToken l
    else s) s
  (List.range 4).foldl (fun (s : State) d => s.offerLease d) s

/-- A core of a team, live or in the context area. -/
def State.teamCore (s : State) (u : Team) (c : Nat) : Core :=
  ((u.savedCore.find? (fun x => x.1 == c)).map (·.2)).getD (s.core c)
/-- RST.fe that still wait at the cores of a team that ends are dropped, and reported at their senders (R166). -/
def State.dropWaiting (s : State) (u : Team) (c : Nat) : State :=
  (s.teamCore u c).rstWait.foldl (fun (s : State) r =>
    (s.sched (ackCycles r.src c) (.faultLogEntry r.src r.ctx ⟨.teamBounds, 6, apertureAddr c r.off, 0⟩)).ackTo c r.src r.ctx r.tok) s
/-- Held words and queued HOLDs of a core whose team is torn down (R178). -/
def State.dropHolds (s : State) (c : Nat) : State :=
  let mine (r : HomeReq) : Bool := r.core == c && r.kind == .hold
  let s := { s with
    agenda := s.agenda.filter (fun e => match e.2 with
      | .homeRequestArrival r | .holdResend r => !mine r
      | _ => true)
    dies := s.dies.mapAll (fun _ (d : Die) => { d with resq := d.resq.filter (fun r => !mine r) })
    holds := s.holds.mapAll (fun _ (h : HoldQ) => { h with
      core := if h.core = c then noHolder else h.core, queue := h.queue.filter (fun r => !mine r) }) }
  s.holds.cells.foldl (fun (s : State) h => if h.2.core = noHolder then s.schedOnce 0 (.holdGrant (8 * h.1)) else s) s
/-- Words that contexts of a pre-empted team hold (granted while its operations drained) are released at its teardown. -/
def State.dropSavedHolds (s : State) (u : Team) : State :=
  let mine (k : Nat) (h : HoldQ) : Bool := u.savedCtx.any (fun x => h.core == x.1 / 16 && h.ctx == x.1 % 16 && x.2.held.any (fun w => w.pa / 8 == k))
  let s := { s with holds := s.holds.mapAll (fun k (h : HoldQ) => if mine k h then { h with core := noHolder } else h) }
  s.holds.cells.foldl (fun (s : State) h => if h.2.core = noHolder then s.schedOnce 0 (.holdGrant (8 * h.1)) else s) s
/-- The cores of a team are free again. -/
def State.freeCores (s : State) (t : Nat) (u : Team) : State :=
  let s := u.cores.foldl (fun (s : State) c => s.unlinkNeighbours u c) s
  let s := u.cores.foldl (fun (s : State) c =>
    let s := s.dropWaiting u c
    if (s.core c).team = some t then ((({ s with cores := s.cores.set c Core.idle }).clearCtxs c).dropEvents c) else s) s
  { s with teams := s.teams.erase t }

/-- TEAM_COMPLETE (R217, R244): reports of nonempty logs, leases and ends, the node, the cores. -/
def execTeamComplete (team : Nat) (s : State) : Res :=
  .next (match s.teams.find team with
    | none => s
    | some u =>
      if !s.teamDone team u then s
      else
        let logs := u.cores.flatMap (fun c => (List.range 16).filterMap (fun n =>
          if (s.ctx c n).flogn ≠ 0 then some (u.slot, u.node, c, n, s.logBase c n) else none))
        let s := { s with flogReports := s.flogReports ++ logs }
        let s := if logs.isEmpty then s else s.modReplay u.slot (fun r => { r with err := if r.err = 3 then 3 else 4 })
        let s := (s.dropEngines team).freeCores team u
        ((s.setNode u.slot u.node .completed).advanceReplay u.slot).schedOnce 0 .placement)

/-- TEAM_TEARDOWN (R253): the steward tears down a halted team, or a pre-empted one; the replay will end with err = 3.
(DEDUCED, log entry 57.) -/
def execTeamTeardown (team : Nat) (s : State) : Res :=
  .next (match s.teams.find team with
    | none => s
    | some u =>
      if u.st ≠ .halted ∧ u.st ≠ .suspended then s
      else
        let own (r : SvcReq) : Bool := r.slot == u.slot && r.node == u.node
        let s := { s with
          svcq := s.svcq.filter (fun r => !own r)
          svcHeld := s.svcHeld.filter (fun r => !own r.1)
          stewards := s.stewards.mapAll (fun _ (k : Steward) => { k with popped := if k.popped.elim false own then none else k.popped }) }
        let live := u.cores.filter (fun c => (s.core c).team == some team)
        let s := (live.foldl (fun (s : State) c => s.dropHolds c) s).dropSavedHolds u
        let s := (s.dropEngines team).freeCores team u
        -- nodes not yet launched are never launched (R217): those placed give their cores back
        let early := s.teams.cells.filter (fun t => t.2.slot == u.slot && t.2.st == .placed)
        let s := early.foldl (fun (s : State) t => (s.dropEngines t.1).freeCores t.1 t.2) s
        let s := s.modReplay u.slot (fun r => { r with
          err := 3
          nodes := (setAt r.nodes u.node NodeSt.completed).map (fun n => match n with
            | .waiting | .ready _ => .dropped
            | .placed t => if early.any (fun e => e.1 == t) then .dropped else n
            | x => x) })
        let s := { s with agenda := s.agenda.filter (fun e => e.2 != Instr.resume team) }
        (s.advanceReplay u.slot).schedOnce 0 .placement)

end Sys2Proof.Machine
end

