-- ==== Sys2Proof/Machine/Switch.lean ====
section
/-! DEFINITION. Meanings of the switch sequencer's events: the trigger, the five steps of a pre-emption, and the resume (R225, R247 to
R252, R384). -/

namespace Sys2Proof.Machine

/-! ### The trigger (R225) -/

/-- The victim for a node of a priority: a running team of the lowest priority, two or more below; among equals the latest placed. -/
def State.victim (s : State) (pri : Nat) : Option Nat :=
  match s.teams.cells.filter (fun t => t.2.st == .running && t.2.lr.pri + 2 ≤ pri) with
  | [] => none
  | t :: ts => some (ts.foldl (fun (b k : Nat × Team) =>
      if k.2.lr.pri < b.2.lr.pri ∨ (k.2.lr.pri = b.2.lr.pri ∧ b.2.placedAt ≤ k.2.placedAt) then k else b) t).1
/-- PREEMPT_TRIGGER: a candidate that has waited longer than PREEMPTWAIT and does not fit. -/
def execPreemptTrigger (s : State) : Res :=
  .next (if s.switch.isSome then s
    else match s.cands.findSome? s.tryPlace with
      | some _ => s.schedOnce 0 .placement
      | none =>
        match s.cands.findSome? (fun k => if k.since + s.preemptwait < s.now then s.victim k.pri else none) with
        | some v => s.beginSwitch v none
        | none =>
          if s.cands.any (fun k => s.now ≤ k.since + s.preemptwait) then
            s.schedSoon (((s.cands.filter (fun k => s.now ≤ k.since + s.preemptwait)).map (·.since)).foldl Nat.min s.now + s.preemptwait + 1 - s.now)
              .preemptTrigger
          else s)

/-! ### Steps 1 to 4 (R247) -/

/-- The switch-out has ended, or its team has halted: the steward core that asked for it goes on, and placement is retried. -/
def State.endSwitch (s : State) : State :=
  let s := match s.switch with
    | some w => (match w.waiter with
        | some (k, tok) => s.reply (stewardCore k) 0 tok .done
        | none => s)
    | none => s
  ({ s with switch := none }).schedOnce 0 .placement
/-- The switch-out of a team in a step. -/
def State.inStep (s : State) (t n : Nat) : Bool := s.switch.elim false (fun w => w.team == t && w.step == n)
def State.setStep (s : State) (n : Nat) : State := { s with switch := s.switch.map (fun w => { w with step := n, since := s.now }) }
/-- A condition park is abandoned with no effect; the bundle issues again on resume. -/
def Ctx.abandon (x : Ctx) : Ctx :=
  match x.park with
  | some (.cond ..) => { x with park := none, since := none, xlat := none, prodRec := none, image := none }
  | _ => x
def State.abandonAll (s : State) (u : Team) : State :=
  u.cores.foldl (fun (s : State) c => (List.range 16).foldl (fun (s : State) n =>
    if (s.ctxs.find (16 * c + n)).isSome then s.modCtx c n Ctx.abandon else s) s) s

/-- PREEMPT_STOP_ISSUE: step 1. -/
def execPreemptStopIssue (team : Nat) (s : State) : Res :=
  .next (match s.teams.find team with
    | some u =>
      if !s.inStep team 1 then s
      else if u.st ≠ .running then s.endSwitch
      else
        let s := (s.modTeam team (fun u => { u with st := .stopping })).abandonAll u
        ((s.setStep 2).sched 0 (.preemptHoldGrace team)).sched 1000000 (.holdGraceExpiry team)
    | none => if s.inStep team 1 then s.endSwitch else s)

/-- The contexts of a team that hold a word, in the order of R219: core and context. -/
def State.holders (s : State) (u : Team) : List (Nat × Nat) :=
  u.cores.flatMap (fun c => (List.range 16).filterMap (fun n => if (s.ctx c n).held.isEmpty then none else some (c, n)))
/-- PREEMPT_HOLD_GRACE: step 2 ends when no word is held. -/
def execPreemptHoldGrace (team : Nat) (s : State) : Res :=
  .next (match s.teams.find team with
    | some u =>
      if !s.inStep team 2 then s
      else if (s.holders u).isEmpty then s.sched 0 (.preemptDrain team)
      else if s.switch.elim false (fun w => 4096 ≤ w.bundles) then s.sched 0 (.holdGraceExpiry team)
      else s
    | none => s)
/-- HOLD_GRACE_EXPIRY: after 4,096 bundles or 1,000,000 cycles the team is halted instead, with F_HOLDGRACE. -/
def execHoldGraceExpiry (team : Nat) (s : State) : Res :=
  .next (match s.teams.find team, s.switch with
    | some u, some w =>
      if w.team ≠ team ∨ w.step ≠ 2 ∨ !(4096 ≤ w.bundles || w.since + 1000000 ≤ s.now) then s
      else match s.holders u with
        | [] => s
        | (c, n) :: _ =>
          let x := s.ctx c n
          let va := (x.held.map (·.va)).foldl Nat.min ((x.held.head?.map (·.va)).getD 0)
          (s.haltTeam c n .holdGrace x.pc (BitVec.ofNat 64 va) (BitVec.ofNat 64 w.bundles)).endSwitch
    | _, _ => s)

/-- A pending register that step 3 does not await: LKOPEN's, one whose command has not started, one that holds a fault. -/
def Core.pendWaits (x : Core) (p : Pend) : Bool :=
  !p.lkopen && p.bad.isNone && !x.cmds.any (fun c => !c.active && c.tok == some p.tok)
/-- A result park, which step 3 awaits: a TRAP's too, until the steward answers (R356), but for one whose release waits for a command
that has not started, which stays queued. (DEDUCED, log entry 74.) -/
def State.parkWaits (s : State) (c : Nat) (x : Ctx) : Bool :=
  match x.park with
  | some (.result t _ _) =>
    !s.svcHeld.any (fun r => r.1.tok == t && (s.core c).cmds.any (fun m => !m.active && m.sched.isNone && m.num ≤ r.2.2))
  | _ => false
/-- Nothing of a core is in flight. -/
def State.coreQuiet (s : State) (c : Nat) : Bool :=
  let k := s.core c
  k.wcb.isEmpty && k.unacked.isEmpty && k.inj.isEmpty && !k.fetch.out && k.cmds.all (fun m => !m.active)
  && (List.range 16).all (fun n => let x := s.ctx c n; x.st != .running || (!x.pend.any k.pendWaits && !s.parkWaits c x))
/-- Queued lease requests of a team are cancelled (R318). -/
def State.cancelLeases (s : State) (t : Nat) : State :=
  let rs := s.dies.cells.flatMap (fun d => d.2.fifos.cells.flatMap (fun q => q.2.filter (fun r => r.team == t && !r.restore)))
  rs.foldl (fun (s : State) r => (s.unqueue r.link).complete r.core r.ctx r.tok (leaseWord 4 r.pri (s.now - r.at_) r.link)) s
/-- PREEMPT_DRAIN: step 3 begins, and ends when nothing of the team is in flight. -/
def execPreemptDrain (team : Nat) (s : State) : Res :=
  .next (match s.teams.find team with
    | some u =>
      if s.inStep team 2 ∧ (s.holders u).isEmpty then
        let s := ((s.abandonAll u).cancelLeases team).setStep 3
        (u.cores.foldl (fun (s : State) c => s.closeWc c (fun _ => true)) s).sched 1 (.preemptDrain team)
      else if s.inStep team 3 ∧ u.cores.all s.coreQuiet then (s.setStep 4).sched 0 (.preemptEngineStop team)
      else s
    | none => s)

/-- PREEMPT_ENGINE_STOP: step 4. Engines stand between K-steps at every event; drains already under way complete. -/
def execPreemptEngineStop (team : Nat) (s : State) : Res :=
  .next (match s.teams.find team with
    | some u =>
      if !s.inStep team 4 then s
      else
        let ls := s.teamEngines team
        let s := ls.foldl (fun (s : State) l => s.modEng l (fun e => { e with stopping := true })) s
        if ls.any (fun l => (s.eng l).drains.any (·.begun)) then s
        else ((s.modTeam team (fun u => { u with st := .suspended })).setStep 5).sched u.moveCycles (.preemptSave team)
    | none => s)

/-! ### Step 5 (R249 to R252) -/

/-- Bytes at a global virtual range of a space, page by page; a piece that is not mapped is skipped (log entry 40). -/
def State.putVirt (s : State) (space : Nat) : Nat → Nat → List Byte → State
  | 0, _, _ => s
  | f + 1, va, bs =>
    if bs.isEmpty then s
    else
      let k := 65536 - va % 65536
      let s := match s.walk space va with
        | some e => if paKind (e.phys va) = PaKind.hbm then { s with mem := memPut s.mem (e.phys va) (bs.take k) } else s
        | none => s
      s.putVirt space f (va + k) (bs.drop k)
/-- Move `n` bytes between the scratchpad image in the context area and a core's scratchpad, page by page. -/
def State.moveVirt (s : State) (space cell : Nat) (out : Bool) : Nat → Nat → Nat → State
  | 0, _, _ => s
  | f + 1, va, n =>
    if n = 0 then s
    else
      let k := Nat.min n (65536 - va % 65536)
      let s := match s.walk space va with
        | some e =>
          if paKind (e.phys va) = PaKind.hbm then
            { s with mem := if out then memMove s.mem cell (e.phys va) k else memMove s.mem (e.phys va) cell k }
          else s
        | none => s
      s.moveVirt space (cell + k) out f (va + k) (n - k)
/-- A value in the context area, if it is mapped. -/
def State.getVirt (s : State) (space n va : Nat) : Option Nat :=
  match s.walk space va with
  | some e => if paKind (e.phys va) = PaKind.hbm then some (memLe s.mem n (e.phys va)) else none
  | none => none

/-- Virtual addresses of the context area (R250). -/
def Team.header (t : Team) : Nat := t.lr.ctxa
def Team.block (t : Team) (c : Nat) : Nat := t.lr.ctxa + 0x1000 + 0x40000 * t.index c
def Team.record (t : Team) (c n : Nat) : Nat := t.block c + 0x22000 + 0x800 * n
/-- `n` bytes of a part whose layout is not given, which holds `vals`. -/
def freeBytes (seed : Nat) (vals : List Nat) (k n : Nat) : List Byte := (List.range n).map (fun j => Config.savedByte seed vals (k + j))
/-- Full/empty bits of a core as 2 KiB: bit `j` is word `j`. -/
def State.feImage (s : State) (c : Nat) : List Byte :=
  let mine := s.full.filter (fun a => spad c 0 ≤ a && a < spad c 0 + Config.spadSize)
  leBytes 2048 (mine.foldl (fun acc a => acc + 2 ^ ((a - spad c 0) / 8)) 0)
/-- The registers of R251 at 0x000, in order. -/
def Ctx.regWords (x : Ctx) : List Word :=
  (List.range 8).map (Table.get 0 x.g) ++ (List.range 8).map (Table.get 0 x.o) ++ (List.range 4).map (Table.get 0 x.l)
    ++ (List.range 4).map (Table.get 0 x.i)
/-- The resident windows of a context, oldest first, then the received registers of the oldest. -/
def Ctx.winWords (x : Ctx) : List Word :=
  let ks := (x.wins.cells.map (·.1)) ++ (if (x.wins.find x.depth).isSome then [] else [x.depth])
  ks.flatMap (fun k => (List.range 16).map (fun r => Table.get 0 (x.win k).regs (8 + r)))
    ++ (List.range 8).map (fun r => if x.oldest = 1 then Table.get 0 x.base r else Table.get 0 x.recv r)
def ctxStNum : CtxSt → Nat
  | .idle => 0 | .running => 1 | .exited => 2
def flagsNum (f : Flags) : Nat := ofBits (fun k => [f.nv, f.dz, f.ovf, f.unf, f.nx].getD k false) 5
/-- A pending record: the register and the number of its completion. -/
def Pend.nums (p : Pend) : List Nat :=
  (match p.loc with
   | .g n => [0, n]
   | .win d r => [1, d, r]
   | .gone k r => [2, k, r]) ++ [p.tok, p.lkopen.toNat, p.bad.elim 0 (fun b => fcNum b.1)]
/-- The context record (R251): the resume address first at 0x0C0 (DEDUCED, log entry 40). -/
def Ctx.recordBytes (x : Ctx) (seed n : Nat) (handlers : List Nat) : List Byte :=
  let wb := x.winWords.flatMap (fun w => leBytes 8 w.toNat)
  x.regWords.flatMap (fun w => leBytes 8 w.toNat) ++ leBytes 8 x.pc.toNat
    ++ freeBytes seed [x.depth, x.trapDepth, ctxStNum x.st, x.predWord.toNat, flagsNum x.flags, x.flogn] (0x800 * n + 8) 0x18
    ++ freeBytes seed (x.pend.flatMap Pend.nums) (0x800 * n + 0x20) 0x20
    ++ (wb ++ List.replicate (0x240 - wb.length) 0).take 0x240
    ++ (List.range 16).flatMap (fun k => leBytes 32 (Table.get 0 x.v k).toNat)
    ++ (List.range 7).flatMap (fun k => leBytes 4 (Table.get 0 x.m (k + 1)).toNat) ++ List.replicate 4 0
    ++ freeBytes seed (handlers ++ [x.weight] ++ x.demands.cells.flatMap (fun d => [d.1, d.2])) (0x800 * n + 0x40) 0x40
    ++ List.replicate 0x260 0

/-- What the core state of R250 holds: queues, credits, bindings and handlers, free marks, controllers, binding slots, the copy queue and
its numbering, the wait buffer. -/
def Core.nums (x : Core) : List Nat :=
  x.qin.cells.flatMap (fun q => q.1 :: q.2.flatMap (fun e => [e.v.toNat, e.ctl.toNat]))
    ++ x.credits.cells.flatMap (fun e => [e.1, e.2]) ++ x.qbind.flatMap (fun e => [e.2.1, e.2.2.getD 16])
    ++ x.handlers.cells.flatMap (fun e => [e.1, e.2.toNat]) ++ x.free
    ++ x.lev.cells.flatMap (fun l => [l.1, l.2.setp, l.2.gp, l.2.gi, l.2.wp0, l.2.wc0, l.2.period, unsgn 7 l.2.integ, l.2.ez, l.2.fz, l.2.wc, l.2.wp, l.2.n])
    ++ x.slots.flatMap (fun b => b.2.1 :: b.2.2.elim [] (fun r => [r.base, r.lines]))
    ++ x.cmds.flatMap (fun m => [m.num, m.desc]) ++ [x.copyNum, x.copyCtr] ++ x.rstWait.flatMap (fun r => [r.off, r.v.toNat, r.src])
/-- What an engine record of R251 holds: the valid bit, tiles, images, codebooks, descriptors, positions, feeds, configurations, the
chainage counter, posted faults and the lease priority. -/
def Engine.nums (e : Engine) (valid : Bool) : List Nat :=
  let end_ (x : EEnd) : List Nat :=
    [x.desc, x.fetched, x.party] ++ x.books.cells.flatMap (fun b => b.1 :: b.2.map (·.toNat)) ++ x.feeds.flatMap (fun f => [f.base, f.stride, f.count, f.pos, f.num])
      ++ x.fault.elim [] (fun p => [fcNum p.code, p.addr, p.prod, p.kdone, p.why])
  [valid.toNat, e.kdone, e.prod, e.prods, e.num, e.ctr, e.savedPri, e.stalls]
    ++ e.counts.cells.flatMap (fun k => [k.1, k.2.loss.toNat, k.2.executed, k.2.dropped, k.2.fb.toNat])
    ++ e.tile0.map (·.toNat) ++ e.tile1.map (·.toNat) ++ e.ep.cells.flatMap (fun i => i.1 :: i.2.map (·.toNat)) ++ end_ e.near ++ end_ e.far
    ++ (e.cfgA ++ e.cfgB).flatMap (fun c => [c.t, c.nm, c.mode, c.bound.toNat])
/-- What the team header of R250 holds. -/
def Team.nums (u : Team) : List Nat :=
  [u.slot, u.node, u.stage, u.next] ++ u.scheds.flatMap (fun x => [x.released, x.ctr]) ++ u.trigs.flatMap (fun r => [r.1, r.2.1])
    ++ u.saved.flatMap (fun e => e.1 :: e.2.lease.elim [] (fun z => [z.pri, z.core, z.ctx]))

/-- Write a core's block of the context area. -/
def State.saveBlock (s : State) (t : Nat) (u : Team) (c : Nat) : State :=
  let sp := u.slot
  let b := u.block c
  let seed := s.fresh
  let s := s.moveVirt sp (spad c 0) true 4 b 0x20000
  let s := s.putVirt sp 2 (b + 0x20000) (s.feImage c)
  let s := s.putVirt sp 2 (b + 0x20800) (freeBytes seed (s.core c).nums 0x8000 0x1000 ++ List.replicate 0x800 0)
  let s := (List.range 16).foldl (fun (s : State) n => s.putVirt sp 2 (u.record c n) ((s.ctx c n).recordBytes seed n
    (allDirs.map (fun d => ((s.core c).handler d).toNat)))) s
  let s := allDirs.foldl (fun (s : State) d =>
    let l := linkId c d
    let idle := (u.saved.find? (fun e => e.1 == l)).map (·.2)
    let e := idle.getD (s.eng l)
    s.putVirt sp 2 (b + 0x2A000 + 0x3000 * dirNum d)
      (freeBytes seed (e.nums (idle.isSome || e.savedBy == some t)) (0x9000 + 0x3000 * dirNum d) 0x3000)) s
  let s := s.putVirt sp 3 (b + 0x37000) (List.replicate 0x9000 0)
  { s with fresh := s.fresh + 1 }

/-- Save an engine: from open-pending to faulted it becomes suspended; an idle one the team leases goes dormant (R125, R252). -/
def State.saveEngine (s : State) (t l : Nat) : State :=
  let e := s.eng l
  let leased := e.lease.elim false (fun z => z.team == t)
  match e.st with
  | .openPending | .ready | .running | .draining | .done | .faulted =>
    let s := s.modEng l (fun e => { e.quiet with
      st := .suspended, saved := e.st, token := false, savedBy := some t, savedPri := (e.lease.map (·.pri)).getD 0, stopping := false })
    if e.token then (s.modDie (l / 1152) (fun d => { d with free := d.free + 1 })).offerLease (l / 1152) else s
  | .idle =>
    if leased then (s.modTeam t (fun u => { u with saved := u.saved ++ [(l, e)] })).returnToken l
    else s.modEng l (fun e => { e with stopping := false })
  | _ => s.modEng l (fun e => { e with stopping := false })

/-- A saved context carries the weight last written (R156). -/
def Ctx.lastWeight (x : Ctx) : Ctx := { x with weight := ((x.nextWeights.getLast?).map (·.2)).getD x.weight, nextWeights := [] }
/-- PREEMPT_SAVE: step 5 ends: the context area is written, the cores are free. -/
def execPreemptSave (team : Nat) (s : State) : Res :=
  .next (match s.teams.find team with
    | some u =>
      if !s.inStep team 5 then s
      else
        let s := u.cores.foldl (fun (s : State) c => s.settleCore c) s
        let s := (s.teamEngines team).foldl (fun (s : State) l => s.saveEngine team l) s
        let u := (s.teams.find team).getD u
        let s := s.putVirt u.slot 2 u.header (freeBytes s.fresh u.nums 0x18000 0x1000)
        let s := u.cores.foldl (fun (s : State) c => s.saveBlock team u c) s
        let ctxs := u.cores.flatMap (fun c => (List.range 16).map (fun n => (16 * c + n, (s.ctx c n).lastWeight)))
        let cores := u.cores.map (fun c => (c, s.core c))
        let s := s.modTeam team (fun u => { u with savedCtx := ctxs, savedCore := cores })
        let s := u.cores.foldl (fun (s : State) c =>
          ({ s with cores := s.cores.set c { Core.idle with team := some team } }.clearCtxs c).dropEvents c) s
        s.endSwitch
    | none => s)

/-! ### Resume (R249, R254) -/

/-- The registers of a context as its record in the context area holds them. -/
def State.loadRecord (s : State) (u : Team) (c n : Nat) (x : Ctx) : Ctx :=
  let a := u.record c n
  let get (off k : Nat) : Option Nat := s.getVirt u.slot k (a + off)
  let word (off : Nat) (old : Word) : Word := ((get off 8).map (BitVec.ofNat 64)).getD old
  let tab (t : Table Word) (off m : Nat) : Table Word := ⟨(List.range m).map (fun k => (k, word (off + 8 * k) (Table.get 0 t k)))⟩
  let ks := (x.wins.cells.map (·.1)) ++ (if (x.wins.find x.depth).isSome then [] else [x.depth])
  let wins := ((List.range ks.length).zip ks).map (fun e =>
    (e.2, (⟨⟨(List.range 16).map (fun r => (8 + r, word (0x100 + 128 * e.1 + 8 * r) (Table.get 0 (x.win e.2).regs (8 + r))))⟩, (x.win e.2).clean⟩ : Win)))
  let low := tab (if x.oldest = 1 then x.base else x.recv) (0x100 + 128 * ks.length) 8
  { x with
    pc := word 0xC0 x.pc
    g := tab x.g 0 8, o := tab x.o 0x40 8, l := tab x.l 0x80 4, i := tab x.i 0xA0 4
    wins := ⟨wins⟩, base := if x.oldest = 1 then low else x.base, recv := if x.oldest = 1 then x.recv else low
    v := ⟨(List.range 16).map (fun k => (k, ((get (0x340 + 32 * k) 32).map (BitVec.ofNat 256)).getD (Table.get 0 x.v k)))⟩
    m := ⟨(List.range 7).map (fun k => (k + 1, ((get (0x540 + 4 * k) 4).map (BitVec.ofNat 32)).getD (Table.get 0 x.m (k + 1))))⟩ }
/-- A context as it goes on: in its own slots from the first rotation after the restore. -/
def Ctx.goOn (x : Ctx) (n r0 : Nat) : Ctx := { x with readyAt := ownSlot n r0 }
/-- The full/empty bits of a core from its block. -/
def State.loadFe (s : State) (u : Team) (c : Nat) : State :=
  match s.getVirt u.slot 2048 (u.block c + 0x20000) with
  | some bits =>
    let rest := s.full.filter (fun a => !(spad c 0 ≤ a && a < spad c 0 + Config.spadSize))
    { s with full := ((List.range 16384).filter (bit bits)).foldl (fun l j => insertNat (spad c (8 * j)) l) rest }
  | none => s
/-- Restore a core: its block, its own state, and its contexts. -/
def State.loadCore (s : State) (u : Team) (r0 c : Nat) (k : Core) : State :=
  let lo := spad c 0
  let s := (s.dropEvents c).clearCtxs c
  let s := { s with
    mem := memClear s.mem lo (lo + Config.spadSize)
    bad := s.bad.filter (fun a => !(lo ≤ a && a < lo + Config.spadSize))
    -- a resumed team starts with empty TLBs (R258)
    clusters := s.clusters.set (clusterOf c)
      { s.cluster (clusterOf c) with tlb := (s.cluster (clusterOf c)).tlb.filter (fun e => e.space != u.slot) }
    cores := s.cores.set c { k with utlb := [], lev := k.lev.mapAll (fun _ (l : Lev) => { l with nextAt := r0 + l.period }) } }
  let s := (s.moveVirt u.slot lo false 4 (u.block c) 0x20000).loadFe u c
  let s := (List.range 16).foldl (fun (s : State) n =>
    match u.savedCtx.find? (fun x => x.1 == 16 * c + n) with
    | some (_, x) => s.setCtx c n ((s.loadRecord u c n x).goOn n r0)
    | none => s) s
  let s := k.lev.cells.foldl (fun (s : State) l =>
    if l.2.en then s.sched (r0 + l.2.period - s.now) (.levellingSample c l.1) else s) s
  if k.cmds.isEmpty then s else s.schedOnce 1 (.copyCommandStart c)
/-- Ask again for a saved engine (R249). -/
def State.askLease (s : State) (t l pri core ctx : Nat) : State :=
  let r : LeaseReq := { link := l, core := core, ctx := ctx, tok := 0, team := t, pri := pri, at_ := s.now, restore := true }
  let s := s.modDie (l / 1152) (fun d => { d with fifos := d.fifos.set pri (Table.get [] d.fifos pri ++ [r]) })
  let s := if pri = 3 then s.sched (s.evictwait + 1) (.eviction (l / 1152)) else s
  s.offerLease (l / 1152)
/-- The engines of a resumed team: a broken record is discarded and its party told; the others are re-leased. -/
def State.resumeEngine (s : State) (t l : Nat) : State :=
  let e := s.eng l
  if e.st ≠ .suspended then s
  else if e.savedBy = some t then
    (if e.broken then
       (let tell (s : State) (far : Bool) : State :=
          if ((s.eng l).end_ far).isOpen ∧ ((s.eng l).end_ far).party / 16 = t then s.post l far .rzvBroken 0 else s
        let s := tell (tell s false) true
        let s := s.setEng l (((s.eng l).dropFeeds false).dropFeeds true)
        -- the old rendezvous has ended at both ends, and an open held at one takes effect (R276)
        let shut (s : State) (far : Bool) : State := (s.modEnd l far (fun x => { x with isOpen := false })).writeOpen l far
        ((shut (shut s false) true).modEng l Engine.sleep).offerHeld l)
     else match e.lease with
       | some z => s.askLease t l e.savedPri z.core z.ctx
       | none => s.askLease t l e.savedPri (linkNear l) 0)
  else if e.token then s.schedOnce 0 (.engineRestore l) else s

/-- RESUME (R249): at the original die, origin and variant. -/
def execResume (team : Nat) (s : State) : Res :=
  .next (match s.teams.find team with
    | some u =>
      if u.st ≠ .suspended ∨ u.savedCore.isEmpty then s
      else
        let r0 := (s.now / 16 + 1) * 16
        let s := u.savedCore.foldl (fun (s : State) k => s.loadCore u r0 k.1 k.2) s
        let s := s.modTeam team (fun u => { u with st := .running, savedCtx := [], savedCore := [], late := [] })
        let s := u.late.foldl (fun (s : State) c => s.complete c.1 c.2.1 c.2.2.1 c.2.2.2) s
        let s := u.saved.foldl (fun (s : State) e =>
          match e.2.lease with
          | some z => s.askLease team e.1 z.pri z.core z.ctx
          | none => s) s
        let s := (s.engines.cells.filter (fun e =>
          e.2.savedBy == some team || (e.2.near.opened && e.2.near.party / 16 == team) || (e.2.far.opened && e.2.far.party / 16 == team))).foldl
            (fun (s : State) e => s.resumeEngine team e.1) s
        let s := (List.range u.scheds.length).foldl (fun (s : State) k => s.schedOnce 0 (.scheduleEntryRelease team k)) s
        let s := u.cores.foldl (fun (s : State) c => s.admitSched c 16) s
        (u.cores.foldl (fun (s : State) c => s.fetchAhead c) s).schedOnce 0 .placement
    | none => s)

end Sys2Proof.Machine
end

