-- ==== Sys2Proof/Machine/Dispatch.lean ====
section
/-! DEFINITION. The dispatch: one arm per instruction, each a direct call of its meaning. -/

namespace Sys2Proof.Machine

def exec (i : Instr) (s : State) : Host.Outcome State Fault Refusal :=
  match i with
  | .nop => Sys2Proof.Machine.execNop s
  | .add x => Sys2Proof.Machine.execAdd x s
  | .sub x => Sys2Proof.Machine.execSub x s
  | .mul x => Sys2Proof.Machine.execMul x s
  | .mulh k x => Sys2Proof.Machine.execMulh k x s
  | .div u x => Sys2Proof.Machine.execDiv u x s
  | .rem u x => Sys2Proof.Machine.execRem u x s
  | .and x => Sys2Proof.Machine.execAnd x s
  | .or x => Sys2Proof.Machine.execOr x s
  | .xor x => Sys2Proof.Machine.execXor x s
  | .ltab w32 dst a b tbl => Sys2Proof.Machine.execLtab w32 dst a b tbl s
  | .shl x => Sys2Proof.Machine.execShl x s
  | .shr x => Sys2Proof.Machine.execShr x s
  | .sra x => Sys2Proof.Machine.execSra x s
  | .rot x => Sys2Proof.Machine.execRot x s
  | .fsh w32 dst a b sh => Sys2Proof.Machine.execFsh w32 dst a b sh s
  | .min u x => Sys2Proof.Machine.execMin u x s
  | .max u x => Sys2Proof.Machine.execMax u x s
  | .clz x => Sys2Proof.Machine.execClz x s
  | .popc x => Sys2Proof.Machine.execPopc x s
  | .bfx sx dst a pos len => Sys2Proof.Machine.execBfx sx dst a pos len s
  | .bfi dst a b pos len => Sys2Proof.Machine.execBfi dst a b pos len s
  | .cmp u c pd w32 a b => Sys2Proof.Machine.execCmp u c pd w32 a b s
  | .sel inv p dst a b => Sys2Proof.Machine.execSel inv p dst a b s
  | .mov x => Sys2Proof.Machine.execMov x s
  | .li dst imm => Sys2Proof.Machine.execLi dst imm s
  | .lih dst imm => Sys2Proof.Machine.execLih dst imm s
  | .addpc dst imm => Sys2Proof.Machine.execAddpc dst imm s
  | .plog pd pa pb pc tbl => Sys2Proof.Machine.execPlog pd pa pb pc tbl s
  | .br off => Sys2Proof.Machine.execBr off s
  | .jmp a => Sys2Proof.Machine.execJmp a s
  | .call off => Sys2Proof.Machine.execCall off s
  | .ret => Sys2Proof.Machine.execRet s
  | .iter off => Sys2Proof.Machine.execIter off s
  | .exit => Sys2Proof.Machine.execExit s
  | .ctxstart n off => Sys2Proof.Machine.execCtxstart n off s
  | .ctxreap n => Sys2Proof.Machine.execCtxreap n s
  | .ctxid dst => Sys2Proof.Machine.execCtxid dst s
  | .levid dst level => Sys2Proof.Machine.execLevid dst level s
  | .ld fg ty dst a => Sys2Proof.Machine.execLd fg ty dst a s
  | .st ty src a => Sys2Proof.Machine.execSt ty src a s
  | .vld v a => Sys2Proof.Machine.execVld v a s
  | .vst v a => Sys2Proof.Machine.execVst v a s
  | .bpack all v ctl a => Sys2Proof.Machine.execBpack all v ctl a s
  | .bunpk ty v ctl a => Sys2Proof.Machine.execBunpk ty v ctl a s
  | .ldfe n64 dst a => Sys2Proof.Machine.execLdfe n64 dst a s
  | .stfe n64 src a => Sys2Proof.Machine.execStfe n64 src a s
  | .feinit full words a => Sys2Proof.Machine.execFeinit full words a s
  | .rst k src dw a => Sys2Proof.Machine.execRst k src dw a s
  | .hold fg dst a => Sys2Proof.Machine.execHold fg dst a s
  | .hrel src a => Sys2Proof.Machine.execHrel src a s
  | .red op src a => Sys2Proof.Machine.execRed op src a s
  | .xsum ty src a => Sys2Proof.Machine.execXsum ty src a s
  | .xread dst a => Sys2Proof.Machine.execXread dst a s
  | .dwinit src a => Sys2Proof.Machine.execDwinit src a s
  | .dwwait src a => Sys2Proof.Machine.execDwwait src a s
  | .fence k sc => Sys2Proof.Machine.execFence k sc s
  | .spfence => Sys2Proof.Machine.execSpfence s
  | .acq o => Sys2Proof.Machine.execAcq o s
  | .rls o => Sys2Proof.Machine.execRls o s
  | .bind slot base lines o => Sys2Proof.Machine.execBind slot base lines o s
  | .unbind slot => Sys2Proof.Machine.execUnbind slot s
  | .trig => Sys2Proof.Machine.execTrig s
  | .chwait sel src => Sys2Proof.Machine.execChwait sel src s
  | .chread dst sel => Sys2Proof.Machine.execChread dst sel s
  | .copy dst base disp swz => Sys2Proof.Machine.execCopy dst base disp swz s
  | .gather dst base disp swz fill => Sys2Proof.Machine.execGather dst base disp swz fill s
  | .scatter dst base disp => Sys2Proof.Machine.execScatter dst base disp s
  | .cstage st => Sys2Proof.Machine.execCstage st s
  | .lease dst d pri => Sys2Proof.Machine.execLease dst d pri s
  | .unlease d => Sys2Proof.Machine.execUnlease d s
  | .lkopen dst base d roleB disp => Sys2Proof.Machine.execLkopen dst base d roleB disp s
  | .lkfeed d handle base bdisp stride count => Sys2Proof.Machine.execLkfeed d handle base bdisp stride count s
  | .lksparse d c bound => Sys2Proof.Machine.execLksparse d c bound s
  | .lkdrain d f => Sys2Proof.Machine.execLkdrain d f s
  | .lkclose d => Sys2Proof.Machine.execLkclose d s
  | .lkstat dst d word => Sys2Proof.Machine.execLkstat dst d word s
  | .lkwait d c => Sys2Proof.Machine.execLkwait d c s
  | .cbload d slot base disp => Sys2Proof.Machine.execCbload d slot base disp s
  | .epload d slot base disp => Sys2Proof.Machine.execEpload d slot base disp s
  | .qbind op => Sys2Proof.Machine.execQbind op s
  | .qctl d src => Sys2Proof.Machine.execQctl d src s
  | .qhnd d src => Sys2Proof.Machine.execQhnd d src s
  | .lvset ctl ps => Sys2Proof.Machine.execLvset ctl ps s
  | .lvread dst ctl => Sys2Proof.Machine.execLvread dst ctl s
  | .trap dst svc src => Sys2Proof.Machine.execTrap dst svc src s
  | .eret => Sys2Proof.Machine.execEret s
  | .brk imm => Sys2Proof.Machine.execBrk imm s
  | .sysrd dst sreg => Sys2Proof.Machine.execSysrd dst sreg s
  | .syswr sreg src => Sys2Proof.Machine.execSyswr sreg src s
  | .vnop => Sys2Proof.Machine.execVnop s
  | .vadd sat x => Sys2Proof.Machine.execVadd sat x s
  | .vsub sat x => Sys2Proof.Machine.execVsub sat x s
  | .vmul x => Sys2Proof.Machine.execVmul x s
  | .vfma x => Sys2Proof.Machine.execVfma x s
  | .vmad x => Sys2Proof.Machine.execVmad x s
  | .vmin x => Sys2Proof.Machine.execVmin x s
  | .vmax x => Sys2Proof.Machine.execVmax x s
  | .vabs sat x => Sys2Proof.Machine.execVabs sat x s
  | .vneg sat x => Sys2Proof.Machine.execVneg sat x s
  | .vltab vd va vb mask tbl => Sys2Proof.Machine.execVltab vd va vb mask tbl s
  | .vshl ty vd va amt mask => Sys2Proof.Machine.execVshl ty vd va amt mask s
  | .vshr ty vd va amt mask => Sys2Proof.Machine.execVshr ty vd va amt mask s
  | .vsra ty vd va amt mask => Sys2Proof.Machine.execVsra ty vd va amt mask s
  | .vfsh ty vd va vb mask sh => Sys2Proof.Machine.execVfsh ty vd va vb mask sh s
  | .vcmp c ty md va vb mask => Sys2Proof.Machine.execVcmp c ty md va vb mask s
  | .vsel vd va vb mask => Sys2Proof.Machine.execVsel vd va vb mask s
  | .vmask md ma mb mask tbl => Sys2Proof.Machine.execVmask md ma mb mask tbl s
  | .vcvt td vd va mask ts rm sat part => Sys2Proof.Machine.execVcvt td vd va mask ts rm sat part s
  | .vdot su x => Sys2Proof.Machine.execVdot su x s
  | .vqmul x => Sys2Proof.Machine.execVqmul x s
  | .vreduce op x => Sys2Proof.Machine.execVreduce op x s
  | .vscan op ex hm x => Sys2Proof.Machine.execVscan op ex hm x s
  | .vperm ty vd va vb mask => Sys2Proof.Machine.execVperm ty vd va vb mask s
  | .vbcast ty vd src mask => Sys2Proof.Machine.execVbcast ty vd src mask s
  | .vpopc x => Sys2Proof.Machine.execVpopc x s
  | .vrcp vd va mask => Sys2Proof.Machine.execVrcp vd va mask s
  | .vrsq vd va mask => Sys2Proof.Machine.execVrsq vd va mask s
  | .vexp2 vd va mask => Sys2Proof.Machine.execVexp2 vd va mask s
  | .eend => Sys2Proof.Machine.execEend s
  | .emov d a => Sys2Proof.Machine.execEmov d a s
  | .eadd f d a b => Sys2Proof.Machine.execEadd f d a b s
  | .esub f d a b => Sys2Proof.Machine.execEsub f d a b s
  | .emul f d a b => Sys2Proof.Machine.execEmul f d a b s
  | .efma f d a b c => Sys2Proof.Machine.execEfma f d a b c s
  | .emin f d a b => Sys2Proof.Machine.execEmin f d a b s
  | .emax f d a b => Sys2Proof.Machine.execEmax f d a b s
  | .eshrImm d a sh => Sys2Proof.Machine.execEshrImm d a sh s
  | .eshrReg d a b => Sys2Proof.Machine.execEshrReg d a b s
  | .eqmul d a b => Sys2Proof.Machine.execEqmul d a b s
  | .ecvt f d a ty rm sat => Sys2Proof.Machine.execEcvt f d a ty rm sat s
  | .ezpc f d a b c => Sys2Proof.Machine.execEzpc f d a b c s
  | .erelu f d a => Sys2Proof.Machine.execErelu f d a s
  | .esel f d a b c k => Sys2Proof.Machine.execEsel f d a b c k s
  | .eldc f d sl => Sys2Proof.Machine.execEldc f d sl s
  | .ewr a => Sys2Proof.Machine.execEwr a s
  | .deviceReset => Sys2Proof.Machine.execDeviceReset s
  | .bootStage stage => Sys2Proof.Machine.execBootStage stage s
  | .hbmTrainingAttempt stack ok => Sys2Proof.Machine.execHbmTrainingAttempt stack ok s
  | .spanLinkTraining link lanes peer => Sys2Proof.Machine.execSpanLinkTraining link lanes peer s
  | .portTraining port width rate => Sys2Proof.Machine.execPortTraining port width rate s
  | .upload tag codeBase place => Sys2Proof.Machine.execUpload tag codeBase place s
  | .release tag => Sys2Proof.Machine.execRelease tag s
  | .attest tag => Sys2Proof.Machine.execAttest tag s
  | .flashwr tag => Sys2Proof.Machine.execFlashwr tag s
  | .reset tag => Sys2Proof.Machine.execReset tag s
  | .mailboxCommandComplete => Sys2Proof.Machine.execMailboxCommandComplete s
  | .registerWrite r v => Sys2Proof.Machine.execRegisterWrite r v s
  | .kick k v => Sys2Proof.Machine.execKick k v s
  | .hostStagingWrite off bytes => Sys2Proof.Machine.execHostStagingWrite off bytes s
  | .hostStagingRead off n => Sys2Proof.Machine.execHostStagingRead off n s
  | .replayBegin slot => Sys2Proof.Machine.execReplayBegin slot s
  | .placement => Sys2Proof.Machine.execPlacement s
  | .teamLaunch team => Sys2Proof.Machine.execTeamLaunch team s
  | .teamComplete team => Sys2Proof.Machine.execTeamComplete team s
  | .preemptTrigger => Sys2Proof.Machine.execPreemptTrigger s
  | .preemptStopIssue team => Sys2Proof.Machine.execPreemptStopIssue team s
  | .preemptHoldGrace team => Sys2Proof.Machine.execPreemptHoldGrace team s
  | .holdGraceExpiry team => Sys2Proof.Machine.execHoldGraceExpiry team s
  | .preemptDrain team => Sys2Proof.Machine.execPreemptDrain team s
  | .preemptEngineStop team => Sys2Proof.Machine.execPreemptEngineStop team s
  | .preemptSave team => Sys2Proof.Machine.execPreemptSave team s
  | .resume team => Sys2Proof.Machine.execResume team s
  | .teamTeardown team => Sys2Proof.Machine.execTeamTeardown team s
  | .trapEntry core ctx code w2 w3 => Sys2Proof.Machine.execTrapEntry core ctx code w2 w3 s
  | .lightHandlerCall core ctx d => Sys2Proof.Machine.execLightHandlerCall core ctx d s
  | .softError core ctx => Sys2Proof.Machine.execSoftError core ctx s
  | .faultLogEntry core ctx e => Sys2Proof.Machine.execFaultLogEntry core ctx e s
  | .replyWrite core ctx tok r => Sys2Proof.Machine.execReplyWrite core ctx tok r s
  | .pendingCompletionWrite core ctx tok v => Sys2Proof.Machine.execPendingCompletionWrite core ctx tok v s
  | .eagerSpill core => Sys2Proof.Machine.execEagerSpill core s
  | .windowSpill core ctx => Sys2Proof.Machine.execWindowSpill core ctx s
  | .windowRefill core ctx => Sys2Proof.Machine.execWindowRefill core ctx s
  | .weightTakesEffect core ctx => Sys2Proof.Machine.execWeightTakesEffect core ctx s
  | .throttleStepBegin core => Sys2Proof.Machine.execThrottleStepBegin core s
  | .throttleStepEnd core => Sys2Proof.Machine.execThrottleStepEnd core s
  | .queueEntryArrive core d => Sys2Proof.Machine.execQueueEntryArrive core d s
  | .creditReturn core d => Sys2Proof.Machine.execCreditReturn core d s
  | .levellingSample core ctl => Sys2Proof.Machine.execLevellingSample core ctl s
  | .levellingDemandArrive m => Sys2Proof.Machine.execLevellingDemandArrive m s
  | .engineLevelSample link => Sys2Proof.Machine.execEngineLevelSample link s
  | .leaseGrant die => Sys2Proof.Machine.execLeaseGrant die s
  | .engineWake link => Sys2Proof.Machine.execEngineWake link s
  | .eviction die => Sys2Proof.Machine.execEviction die s
  | .heldOpenTakesEffect link far => Sys2Proof.Machine.execHeldOpenTakesEffect link far s
  | .prePass link => Sys2Proof.Machine.execPrePass link s
  | .loaderFetch link far => Sys2Proof.Machine.execLoaderFetch link far s
  | .kStep link => Sys2Proof.Machine.execKStep link s
  | .splitDrain link => Sys2Proof.Machine.execSplitDrain link s
  | .drainBegin link => Sys2Proof.Machine.execDrainBegin link s
  | .epilogueRow link => Sys2Proof.Machine.execEpilogueRow link s
  | .drainRowWrite r => Sys2Proof.Machine.execDrainRowWrite r s
  | .engineRestore link => Sys2Proof.Machine.execEngineRestore link s
  | .injectionSend core => Sys2Proof.Machine.execInjectionSend core s
  | .outputArbitration core port => Sys2Proof.Machine.execOutputArbitration core port s
  | .escapeEntry core chan => Sys2Proof.Machine.execEscapeEntry core chan s
  | .homeRequestArrival r => Sys2Proof.Machine.execHomeRequestArrival r s
  | .holdGrant pa => Sys2Proof.Machine.execHoldGrant pa s
  | .holdResend r => Sys2Proof.Machine.execHoldResend r s
  | .remoteStoreArrival p => Sys2Proof.Machine.execRemoteStoreArrival p s
  | .rstFeArrival p => Sys2Proof.Machine.execRstFeArrival p s
  | .rstFeResend p => Sys2Proof.Machine.execRstFeResend p s
  | .writeResend p => Sys2Proof.Machine.execWriteResend p s
  | .acknowledgement core ctx tok => Sys2Proof.Machine.execAcknowledgement core ctx tok s
  | .wcIdleTimeout core pa => Sys2Proof.Machine.execWcIdleTimeout core pa s
  | .fineGrainBatchIssue ch => Sys2Proof.Machine.execFineGrainBatchIssue ch s
  | .hbmRequestServe ch => Sys2Proof.Machine.execHbmRequestServe ch s
  | .hbmRefresh ch => Sys2Proof.Machine.execHbmRefresh ch s
  | .copyCommandStart core => Sys2Proof.Machine.execCopyCommandStart core s
  | .gatherIndexBatch core id => Sys2Proof.Machine.execGatherIndexBatch core id s
  | .copyRowWrite core id k => Sys2Proof.Machine.execCopyRowWrite core id k s
  | .copyCommandComplete core id => Sys2Proof.Machine.execCopyCommandComplete core id s
  | .scheduleEntryRelease team sched => Sys2Proof.Machine.execScheduleEntryRelease team sched s
  | .triggerNotice core ctx => Sys2Proof.Machine.execTriggerNotice core ctx s
  | .iterationClaim core => Sys2Proof.Machine.execIterationClaim core s
  | .claimReply core chunk => Sys2Proof.Machine.execClaimReply core chunk s
  | .pageWalk die => Sys2Proof.Machine.execPageWalk die s
  | .residencyRepair space va => Sys2Proof.Machine.execResidencyRepair space va s
  | .residencyFatal space va protect => Sys2Proof.Machine.execResidencyFatal space va protect s
  | .spanInboundRequest link r => Sys2Proof.Machine.execSpanInboundRequest link r s
  | .pcieCompletion core ctx tok bytes => Sys2Proof.Machine.execPcieCompletion core ctx tok bytes s
  | .pcieCompletionTimeout core ctx tok => Sys2Proof.Machine.execPcieCompletionTimeout core ctx tok s
  | .trapAnswer core ctx v => Sys2Proof.Machine.execTrapAnswer core ctx v s
  | .swreq k v => Sys2Proof.Machine.execSwreq k v s
  | .svcreq k dst => Sys2Proof.Machine.execSvcreq k dst s
  | .svcans k v => Sys2Proof.Machine.execSvcans k v s
  | .tlbinv k v => Sys2Proof.Machine.execTlbinv k v s
  | .slotroot k v => Sys2Proof.Machine.execSlotroot k v s
  | .spanin k v => Sys2Proof.Machine.execSpanin k v s
  | .escwait k v => Sys2Proof.Machine.execEscwait k v s
  | .powerLoss => Sys2Proof.Machine.execPowerLoss s
  | .uncorrectableError key => Sys2Proof.Machine.execUncorrectableError key s
  | .sramSelfTest ok => Sys2Proof.Machine.execSramSelfTest ok s
  | .dieBridgeTraining ok => Sys2Proof.Machine.execDieBridgeTraining ok s

end Sys2Proof.Machine
end

