-- ==== Sys2Proof/Machine/Bundle.lean ====
section
/-! DEFINITION. A bundle: its fetch and decoding, the run of its two slots, and the choice of the issuing context (R62, R63, R67, R68,
R78 to R82, R97 to R99). -/

namespace Sys2Proof.Machine

/-! ### Fetch and decode (R78, R79, R98 steps 1 to 8) -/

/-- What a fetch finds: a walk is needed, the page is not resident, a fault, or a bundle with the translation it used. -/
inductive Fetched where
  | miss
  | page
  | fault (code : FCode) (w2 w3 : Word)
  | bundle (e : TlbE) (b : Bundle)
deriving DecidableEq, Repr

/-- The fault of a failed decode check: code, w2 and w3 (R99). -/
def decFault (src : Word) : DecErr → FCode × Word × Word
  | .cross => (.fetchAlign, src, 1)
  | .illegal reason part pos => (.illegal, 0, BitVec.ofNat 64 (reason + 256 * part + 65536 * pos))
  | .priv => (.priv, 0, 0)

/-- The translation of a fetch: the cluster TLB, or what a walk fetched for this bundle (R258). (DEDUCED, log entry 62.) -/
def State.fetchXlate (s : State) (c n va : Nat) : Xlat :=
  let sp := s.spaceOf c
  if !isGlobal va then .none
  else match (s.cluster (clusterOf c)).tlb.find? (fun e => e.covers sp va) with
    | some e => .hit e
    | none => match (s.ctx c n).xlat with
      | some (sp', region, r) =>
        if sp' = sp ∧ region = va / 65536 then
          (match r with
           | some (base, pa, attr) => .hit ⟨sp, base, 65536, pa, attr⟩
           | none => .none)
        else .miss
      | none => .miss

/-- Fetch the bundle a context stands at. An address past the space, or below the global range on a steward core, raises F_BOUNDS
(R255, R262). -/
def State.fetch (s : State) (c n : Nat) : Fetched :=
  let x := s.ctx c n
  let pc := x.pc.toNat
  if pc % 4 ≠ 0 then .fault .fetchAlign x.src 0
  else if Config.vaTop ≤ pc ∨ (isSteward c ∧ pc < Config.globalBase) then .fault .bounds x.pc x.src
  else match s.fetchXlate c n pc with
    | .miss => .miss
    | .none => .fault .translate x.pc x.src
    | .hit e =>
      if !hasAttr e.attr attrX then .fault .protect x.pc x.src
      else if !hasAttr e.attr attrRES then .page
      else match decodeBundle (isSteward c) (pc % 32) (memLe s.mem 16 (e.phys pc)) with
        | .ok b => .bundle e b
        | .error d => let f := decFault x.src d; .fault f.1 f.2.1 f.2.2

/-! ### The two slots (R67, R68) -/

/-- The predicate of a bundle (R81). -/
def Ctx.holds (x : Ctx) (b : Bundle) : Bool := x.readP b.pred != b.pneg

/-- Make a context the acting one, with its bundle. -/
def State.act (s : State) (c n : Nat) (b : Bundle) : State :=
  { s with curCore := c, curCtx := n, curLen := b.shape.bytes, curBundle := some b, noEffect := false }

/-- What a V operation changes in a context: its vector register, the masks, and the flags it raised. -/
def Ctx.takeV (x y : Ctx) (v : Instr) : Ctx :=
  { x with
    v := match v.vecDst with
      | some d => x.v.set d.val (y.readV d)
      | none => x.v
    m := y.m
    flags := flagsOr x.flags y.flags }

/-- The entries an S operation has popped, by its states before and after. -/
def popped (x y : Core) : List (Dir × QEnt) :=
  allDirs.filterMap (fun d => if y.inq d = x.inq d then none else ((x.inq d).head?).map (fun e => (d, e)))
/-- After an S operation that took a result park, note what a fault reply takes back (R68). -/
def State.noteUndo (s t : State) : State :=
  match (t.ctx s.curCore s.curCtx).park with
  | some (.result ..) => t.modCtx s.curCore s.curCtx (fun x => { x with
      undo := some ⟨s.now, popped (s.core s.curCore) (t.core s.curCore), s.me.v, s.me.m, s.me.flags⟩ })
  | _ => t

/-- Run both slots: each reads the state before the bundle, and a trap or a condition park of the S slot leaves both without
effect. (DEDUCED, log entry 24.) -/
def State.runSlots (s : State) (b : Bundle) : Res :=
  match exec b.s s with
  | .next t =>
    let t := s.noteUndo t
    if t.noEffect ∨ b.v = .vnop then .next t
    else match exec b.v (s.modMe (fun x => { x with flags := Flags.zero })) with
      | .next u => .next (t.modCtx s.curCore s.curCtx (fun x => x.takeV u.me b.v))
      | .fault r => .fault r
      | .refused r => .refused r
  | .fault r => .fault r
  | .refused r => .refused r

/-- Run a bundle of a context: nothing but the pc moves when its predicate is false. -/
def State.runBundle (s : State) (c n : Nat) (b : Bundle) : Res :=
  let s := s.act c n b
  if (s.ctx c n).holds b then s.runSlots b else .next s.advance

/-- The fetched bundle's translation is used in the cluster TLB. -/
def State.useFetch (s : State) (c : Nat) (e : TlbE) : State :=
  s.modCluster (clusterOf c) (fun k => { k with tlb := lruPut (if isSteward c then 64 else 1024) e k.tlb })

/-- A context issues: it fetches, and its bundle runs, or it parks, or it takes the fault. -/
def State.issue (s : State) (c n : Nat) : Res :=
  let pc := (s.ctx c n).pc.toNat
  let idle := { s.act c n ⟨.b64, 0, false, .nop, .vnop⟩ with curBundle := none }
  match s.fetch c n with
  | .miss => .next ((idle.startWalk c n pc).wait (.xlat (s.spaceOf c) (pc / 65536)))
  | .page => .next (idle.wait (.page (s.spaceOf c) pc))
  | .fault code w2 w3 => .next (idle.fault code w2 w3)
  | .bundle e b => (s.useFetch c e).runBundle c n b

/-! ### The rotation (R60 to R65, R71) -/

/-- The team of a core is stopped: by the switch sequencer, but for a context that holds a word in step 2 (R247), or because it
does not run. -/
def State.stopped (s : State) (c n : Nat) : Bool :=
  match s.teamOf c with
  | none => false
  | some (t, u) => match u.st with
    | .running => false
    | .stopping => !(s.inStep t 2 && !(s.ctx c n).held.isEmpty)
    | .placed | .suspended | .halted => true

/-- Runnable, in this cycle (R62). -/
def State.runnable (s : State) (c n : Nat) : Bool :=
  let x := s.ctx c n
  x.live && x.park.isNone && x.readyAt ≤ s.now && !s.stopped c n && !s.throttled.contains c
/-- Admit(c, n) of R63. -/
def Ctx.mayIssue (x : Ctx) (rot : Nat) : Bool := rot * x.weight % 16 < x.weight
/-- The rotation counter of a cycle (R60). -/
def rotation (t : Nat) : Nat := t / 16 % 16
/-- Parked, in this cycle: a reply of this cycle ends the park from the next (R9). -/
def State.parked (s : State) (x : Ctx) : Bool := x.park.isSome || x.readyAt == s.now + 1
/-- The owner of a slot lends it (R63). -/
def State.lends (s : State) (x : Ctx) : Bool := x.live && (s.parked x || !x.mayIssue (rotation s.now))

/-- What a core does with this cycle's slot. -/
inductive SlotUse where
  | issue (n : Nat)
  | spill (n : Nat)
  | refill (n : Nat)
  | eager
  | idle
deriving DecidableEq, Repr

/-- Window traffic in a bubble: spills that something waits for, then refills, then an eager spill; of several contexts the lowest (R71
gives no order between the first two, nor among contexts). (DESIGN CHOICE, log entry 73.) -/
def State.bubble (s : State) (c : Nat) : SlotUse :=
  match (List.range 16).find? (s.wantsSpill c) with
  | some n => .spill n
  | none => match (List.range 16).find? (fun n => (s.wantsRefill c n).isSome) with
    | some n => .refill n
    | none => if (List.range 16).any (fun n => (s.dirtyWindow c n).isSome) then .eager else .idle

/-- IssueChoice of R63: the owner first, then its sibling. A context's own slot makes the window transfer it waits for (R71). A
steward core has one context and issues every 8 cycles of its 2.4 GHz clock at most, which are 10 core cycles (R17, R97). (DESIGN CHOICE, log entry 63.) -/
def State.slotUse (s : State) (c : Nat) : SlotUse :=
  if isSteward c then (if s.now % 10 = 0 ∧ s.runnable c 0 then .issue 0 else .idle)
  else
    let o := s.now % 16
    let b := o ^^^ 8
    let rot := rotation s.now
    let x := s.ctx c o
    if s.wantsSpill c o then .spill o
    else if (s.wantsRefill c o).isSome then .refill o
    else if s.runnable c o && x.mayIssue rot then .issue o
    else if s.lends x && s.runnable c b && (s.ctx c b).mayIssue rot then .issue b
    else s.bubble c

/-- The next core, in number order, that has something to do in this cycle. (DESIGN CHOICE, log entry 4.) -/
def State.nextCore (s : State) : Option Nat :=
  (s.ctxs.cells.map (·.1 / 16)).find? (fun c => s.turn ≤ c && s.slotUse c != .idle)

/-- A bundle of step 2 of a switch is counted, and the grace ends at 4,096 (R247). -/
def State.countBundle (s : State) (c : Nat) : State :=
  match s.teamOf c, s.switch with
  | some (t, u), some w =>
    if u.st = .stopping ∧ w.team = t ∧ w.step = 2 then
      let s := { s with switch := some { w with bundles := w.bundles + 1 } }
      if 4096 ≤ w.bundles + 1 then s.schedOnce 0 (.preemptHoldGrace t) else s
    else s
  | _, _ => s

/-- The slot of a core in this cycle. -/
def State.slotStep (s : State) (c : Nat) : Res :=
  let t := { s with turn := c + 1 }
  match s.slotUse c with
  | .issue n => (t.countBundle c).issue c n
  | .spill n => exec (.windowSpill c n) t
  | .refill n => exec (.windowRefill c n) t
  | .eager => exec (.eagerSpill c) t
  | .idle => .next t

end Sys2Proof.Machine
end

