-- ==== Sys2Proof/Machine/Cycle.lean ====
section
/-! DEFINITION. The end of a core cycle: what waited for a condition that now holds goes on (R9, R66, R166, R197, R203, R209, R217,
R247), and the next cycle begins. -/

namespace Sys2Proof.Machine

/-! ### Condition parks (R66) -/

/-- A posted fault, or a change of the end, that lets a parked link instruction go on: it is told, or refused. An end closed since
(`shut`) or opened since (`!shut`) is such a change. -/
def State.linkNews (s : State) (c n : Nat) (d : Dir) (shut : Bool) : Bool :=
  let x := (s.eng (linkId c d)).end_ (!isNear d)
  let me := 16 * (s.core c).team.getD 0 + n
  s.linkHarvested c d || s.linkOutside c d || x.fault.elim false (fun p => p.ctx == me)
    || (!x.holder me && (x.fault.isSome || x.opened != shut))
/-- A terminal fault posted to a context, which CHWAIT delivers (R122). -/
def State.chNews (s : State) (c n : Nat) (d : Dir) : Bool :=
  ((s.eng (linkId c d)).end_ (!isNear d)).fault.elim false (fun p => p.ctx == 16 * (s.core c).team.getD 0 + n && terminal p.code)

/-- The condition of a park holds. An LDFE or STFE is served, not woken (R166); a fetch from a page waits for the steward. -/
def State.waitOver (s : State) (c n : Nat) (w : Wait) : Bool :=
  let x := s.ctx c n
  let k := s.core c
  match w with
  | .reg loc => !x.pend.any (fun p => p.loc == loc && p.bad.isNone)
  | .pendRoom => x.pend.length < 8
  | .queues ins outs =>
    -- a peer that ended (R150), or every queue it names can proceed (R149)
    (ins ++ outs).any (fun d => (k.owner s.now d).isNone && (k.wish.find (dirNum d)).isSome)
      || (ins.all (fun d => !(k.inq d).isEmpty) && outs.all (fun d => k.credit d != 0))
  | .calleeRegs => (x.pendOf (.w 16)).isNone && (x.pendOf (.w 17)).isNone
  | .fe .. | .page .. => false
  | .dw off g => s.dwReached c off g
  | .counter sel v =>
    let e := s.eng (linkId c (dirOf (sel - 8)))
    if sel < 8 then v ≤ s.counter c sel
    else e.st == .dormant || s.chNews c n (dirOf (sel - 8)) || (e.st != .suspended && v ≤ s.counter c sel)
  | .lk d cond prods =>
    let e := s.eng (linkId c d)
    e.lkHolds cond prods
      || (if (x.prodRec.getD (0, true)).2 then s.linkNews c n d true || !(e.end_ (!isNear d)).opened
          else s.linkHarvested c d || s.linkOutside c d || (e.end_ (!isNear d)).fault.isSome)
  | .spill => x.room == .free || x.room == .reuse
  | .refill k => x.resident k
  | .wcb => s.wcbUsed c < 8
  | .inj => k.injFree
  | .copyQ => k.cmds.length < 16
  | .feedQ d =>
    let y := (s.eng (linkId c d)).end_ (!isNear d)
    (y.heldOpen.elim y.feeds (·.feeds)).length < 4 || s.linkNews c n d true
  | .restored d => (s.eng (linkId c d)).st != .suspended || s.linkNews c n d false
  | .ctxEnds j => (s.ctx c j).st != .running
  | .ctxAcked j => !k.ctxOut j
  | .noPend => x.pend.isEmpty || x.pend.any (fun p => p.bad.isSome)
  | .iter => chunkLeft k.fetch.front.cur != 0 || k.fetch.exhausted
  | .xlat sp r => !(s.die (coreDie c)).walks.any (fun v => v.space == sp && v.region == r)

/-- An end that opened while LKWAIT waits for its engine is noted (R329). (DEDUCED, log entry 59.) -/
def State.noteOpen (s : State) (c n : Nat) (w : Wait) : State :=
  match w with
  | .lk d _ _ =>
    if ((s.eng (linkId c d)).end_ (!isNear d)).opened then
      s.modCtx c n (fun x => { x with prodRec := x.prodRec.map (fun r => (r.1, true)) })
    else s
  | _ => s

/-- A parked bundle re-executes whole in the cycle in which its condition holds, and its context is runnable from the next (R9, R66,
R68). (DEDUCED, log entry 58.) -/
def State.redo (s : State) (c n : Nat) (b : Bundle) : State :=
  match (s.wake c n).runBundle c n b with
  | .next t => t
  | _ => s

/-- What a cycle ends for one context. -/
def State.watchCtx (s : State) (c n : Nat) : State :=
  let x := s.ctx c n
  if !x.live then s
  else match x.park with
    | some (.cond w b) =>
      if s.stopped c n then s
      else if s.waitOver c n w then (match b with
        | some b => s.redo c n b
        | none => s.wake c n)
      else s.noteOpen c n w
    | some (.trapEntry ..) | some (.lightCall ..) => s.finishEntry c n
    | _ => s

/-- Parked ITERs of a core go on in the order of their first issues (R226). -/
def State.serveIters (s : State) (c : Nat) : Nat → State
  | 0 => s
  | k + 1 =>
    let ns := (List.range 16).filter (fun n => match (s.ctx c n).park with
      | some (.cond .iter _) => (s.ctx c n).live && !s.stopped c n && s.waitOver c n .iter
      | _ => false)
    match ns with
    | [] => s
    | n :: rest =>
      let age (n : Nat) : Nat := (s.ctx c n).since.getD s.now
      (s.watchCtx c (rest.foldl (fun b m => if age m < age b then m else b) n)).serveIters c k

/-! ### Full/empty words (R166) -/

/-- A waiter on a full/empty word: when it began to wait, and the context, or the place in the wait buffer. -/
structure FeWaiter where
  since : Nat
  ctx : Option Nat
  entry : Nat
deriving DecidableEq, Repr

/-- Older first; at equal age a context before a buffer entry, a lower context before a higher one (R166). -/
def FeWaiter.before (a b : FeWaiter) : Bool :=
  a.since < b.since || (a.since == b.since && (match a.ctx, b.ctx with
    | some m, some n => m < n
    | some _, none => true
    | none, some _ => false
    | none, none => a.entry < b.entry))
/-- The waiters of a core whose condition holds. -/
def State.feReady (s : State) (c : Nat) : List FeWaiter :=
  let ctxs := (List.range 16).filterMap (fun n => match (s.ctx c n).park with
    | some (.cond (.fe off full since) _) =>
      if (s.ctx c n).live ∧ !s.stopped c n ∧ s.isFull c off = full then some (⟨since, some n, 0⟩ : FeWaiter) else none
    | _ => none)
  let bufs := (s.core c).rstWait.zipIdx.filterMap (fun e =>
    if s.isFull c e.1.off then none else some (⟨e.1.since, none, e.2⟩ : FeWaiter))
  ctxs ++ bufs
/-- Serve one waiter: a context's bundle runs whole; a buffer entry is written and acknowledged. -/
def State.serveFe (s : State) (c : Nat) (w : FeWaiter) : State :=
  match w.ctx with
  | some n =>
    (match (s.ctx c n).park with
     | some (.cond (.fe ..) (some b)) => s.redo c n b
     | _ => s)
  | none =>
    match (s.core c).rstWait[w.entry]? with
    | some r =>
      let s := s.modCore c (fun x => { x with rstWait := x.rstWait.eraseIdx w.entry })
      (s.fillWord c r.off r.v).ackTo c r.src r.ctx r.tok
    | none => s
/-- Serve the oldest, and it alone, until no condition holds. -/
def State.serveFes (s : State) (c : Nat) : Nat → State
  | 0 => s
  | k + 1 =>
    match s.feReady c with
    | [] => s
    | w :: ws => (s.serveFe c (ws.foldl (fun b v => if v.before b then v else b) w)).serveFes c k

/-! ### Teams (R197, R203, R209, R217, R247) -/

/-- The released TRIGs, CSTAGEs of a team act: a notice goes to the sequencer, a stage is reached. -/
def State.watchReleases (s : State) (t : Nat) (u : Team) : State :=
  if u.st = .suspended then s
  else
    let done (r : Nat × Nat × List Nat × Nat) : Bool := s.released r.1 r.2.2.1 r.2.2.2
    let passed (r : Nat × Nat × Nat × List Nat × Nat) : Bool := s.released r.1 r.2.2.2.1 r.2.2.2.2
    let trigs := u.trigs.filter done
    let stages := u.stages.filter passed
    let s := if trigs.isEmpty then s
      else trigs.foldl (fun (s : State) r => s.sched Config.homeWay (.triggerNotice r.1 r.2.1))
        (s.modTeam t (fun u => { u with trigs := u.trigs.filter (fun r => !done r) }))
    if stages.isEmpty then s
    else
      let s := s.modTeam t (fun u => { u with
        stages := u.stages.filter (fun r => !passed r), stage := stages.foldl (fun a r => Nat.max a r.2.2.1) u.stage })
      (List.range u.scheds.length).foldl (fun (s : State) k => s.schedOnce 0 (.scheduleEntryRelease t k)) s

/-- A node whose producers count as triggered, and a team that is complete. -/
def State.watchTeam (s : State) (t : Nat) : State :=
  match s.teams.find t with
  | none => s
  | some u =>
    let s := s.watchReleases t u
    let node := ((s.slot u.slot).replay.bind (fun r => r.nodes[u.node]?)).getD .dropped
    let s := if node = .placed t ∧ s.teamTriggered u then (s.setNode u.slot u.node (.triggered t)).advanceReplay u.slot else s
    match s.teams.find t with
    | some u => if s.teamDone t u then s.schedOnce 0 (.teamComplete t) else s
    | none => s

/-- Released TRAP requests enter the service queue, which has 256 places, in the order they were made (R356). -/
def State.watchSvc : Nat → State → State
  | 0, s => s
  | k + 1, s =>
    let ok (r : SvcReq × List Nat × Nat) : Bool :=
      (match s.teamOf r.1.core with
       | some (_, u) => u.slot == r.1.slot && u.node == r.1.node && u.st != .suspended
       | none => true) && s.released r.1.core r.2.1 r.2.2
    match s.svcHeld.find? ok with
    | some r =>
      if s.svcq.length < 256 then
        State.watchSvc k { s with svcHeld := s.svcHeld.filter (fun v => v.1.tok != r.1.tok), svcq := s.svcq ++ [r.1] }
      else s
    | none => s

/-- The switch sequencer goes on to the next part of a step when the one before it has ended (R247). -/
def State.watchSwitch (s : State) : State :=
  match s.switch with
  | none => s
  | some w =>
    match s.teams.find w.team with
    | none => s.endSwitch
    | some u =>
      if u.st = .halted then s.endSwitch
      else if w.step = 2 then (if (s.holders u).isEmpty ∨ 4096 ≤ w.bundles then s.schedOnce 0 (.preemptHoldGrace w.team) else s)
      else if w.step = 3 then (if u.cores.all s.coreQuiet then s.schedOnce 0 (.preemptDrain w.team) else s)
      else if w.step = 4 then
        (if (s.teamEngines w.team).any (fun l => (s.eng l).drains.any (·.begun)) then s else s.schedOnce 0 (.preemptEngineStop w.team))
      else s

/-! ### The next cycle -/

/-- The keys of contexts a cycle's end looks at. -/
def State.ctxKeys (s : State) : List Nat := s.ctxs.cells.map (·.1)

/-- A core's share ends when context 0 has exited and the others are idle or exited; the exited ones are reaped (R75). -/
def State.watchShare (s : State) (c : Nat) : State :=
  if (s.core c).team.isSome ∧ s.shareOver c then
    { s with ctxs := s.ctxs.mapAll (fun k (x : Ctx) => if k / 16 = c ∧ x.st = CtxSt.exited then { x with st := .idle } else x) }.modCore c
      (fun x => { x with ended := true })
  else s

/-- The end of a cycle, and the next. (DESIGN CHOICE, log entry 4.) -/
def State.tick (s : State) : State :=
  let s := s.cores.keys.foldl (fun (s : State) c => s.serveFes c 48) s
  let s := s.cores.keys.foldl (fun (s : State) c => s.serveIters c 16) s
  let s := s.ctxKeys.foldl (fun (s : State) k => s.watchCtx (k / 16) (k % 16)) s
  let s := s.cores.keys.foldl (fun (s : State) c => s.watchShare c) s
  let s := s.teams.keys.foldl (fun (s : State) t => s.watchTeam t) s
  let s := State.watchSvc s.svcHeld.length s
  let s := s.watchSwitch
  { s with now := s.now + 1, turn := 0 }

/-! ### What comes next (R60) -/

/-- What the outside world may do: the host, the board, the link partners, the steward's decisions, and errors.
(DESIGN CHOICE, log entry 64.) -/
def isInput : Instr → Bool
  | .deviceReset | .powerLoss | .hbmTrainingAttempt .. | .spanLinkTraining .. | .portTraining .. | .sramSelfTest _
  | .dieBridgeTraining _ | .upload .. | .release _ | .attest _ | .flashwr _ | .reset _ | .registerWrite .. | .kick ..
  | .hostStagingWrite .. | .hostStagingRead .. | .teamTeardown _ | .residencyRepair .. | .residencyFatal .. | .throttleStepBegin _
  | .throttleStepEnd _ | .softError .. | .uncorrectableError _ | .spanInboundRequest .. | .pcieCompletion .. => true
  | _ => false

/-- The next input that is due, and the state without it. -/
def State.dueInput (s : State) : Option (Instr × State) :=
  match s.inputs with
  | (t, i) :: rest => if t ≤ s.now then some (i, { s with inputs := rest }) else none
  | [] => none
/-- The level of R162 at which an event takes its scratchpad banks, after the issuing context of the cycle: accumulating arrivals 2, loaders
3, copy rows 4, plain stores, drain rows and RST.fe 5; 0 for an event that takes none. -/
def State.bankLevel (s : State) : Instr → Nat
  | .remoteStoreArrival p => (match p.body with
    | .acc .. => 2
    | _ => 5)
  | .rstFeArrival _ => 5
  | .drainRowWrite r => if r.acc.isSome then 2 else 5
  | .loaderFetch .. => 3
  | .copyRowWrite c id _ => if (s.core c).cmds.any (fun m => m.id == id && fld m.desc 483 482 != 0) then 2 else 4
  | _ => 0
/-- The first due event that satisfies a test, and the agenda without it. -/
def takeDue (now : Nat) (p : Instr → Bool) : List (Nat × Instr) → Option (Instr × List (Nat × Instr))
  | [] => none
  | e :: es =>
    if now < e.1 then none
    else if p e.2 then some (e.2, es)
    else (takeDue now p es).map (fun r => (r.1, e :: r.2))
/-- A throttle step begins or ends with its cycle. -/
def isThrottle : Instr → Bool
  | .throttleStepBegin _ | .throttleStepEnd _ => true
  | _ => false
/-- The next event that is due, and the state without it: before the issue of a cycle those that take no bank, throttle steps first. -/
def State.dueEvent (s : State) : Option (Instr × State) :=
  ((takeDue s.now isThrottle s.agenda).or (takeDue s.now (fun i => s.bankLevel i == 0) s.agenda)).map (fun r => (r.1, { s with agenda := r.2 }))
/-- The next due event that takes a bank, lowest level first, after the issue of the cycle (R162, R164, R169). -/
def State.dueBank (s : State) : Option (Instr × State) :=
  [2, 3, 4, 5].findSome? (fun l =>
    (takeDue s.now (fun i => s.bankLevel i == l) s.agenda).map (fun r => (r.1, { s with agenda := r.2 })))

/-- Without a supply only the return of power, DEVICE_RESET, has an effect (R27). (DESIGN CHOICE, log entry 68.) -/
def State.unpowered (s : State) : Res :=
  match s.inputs with
  | [] => .fault .noSupply
  | (_, .deviceReset) :: rest => exec .deviceReset { s with inputs := rest }
  | _ :: rest => .next { s with inputs := rest }

/-- The next word of the epilogue row in progress: EEND after word 31, or without a program (R137). -/
def State.epiWord (s : State) (r : EpiRow) : Nat :=
  if r.word < 32 then leNat (((((s.eng r.link).passing.bind (·.image)).getD []).drop (4 * r.word)).take 4) else 0

end Sys2Proof.Machine
end

