-- ==== Sys2Proof/Machine/Step.lean ====
section
/-! DEFINITION. One step: a word of an epilogue row in progress, an input of the outside world, an event that is due, the slot of a
core, a scratchpad bank's arrival, or the end of the cycle. -/

namespace Sys2Proof.Machine

/-- One step of the machine. -/
def step (s : State) : Host.Outcome State Fault Refusal :=
  if !s.powered then s.unpowered
  else match s.epi with
    | some r => (match decodeEpi (s.epiWord r) with
        | some i => exec i s
        | none => .refused .illFormed)
    | none => match s.dueInput with
      | some (i, t) => if isInput i then exec i t else .next t
      | none => match s.dueEvent with
        | some (i, t) => exec i t
        | none => match s.nextCore with
          | some c => s.slotStep c
          | none => match s.dueBank with
            | some (i, t) => exec i t
            | none => .next s.tick

/-- A state that has a row of engine 0's drain at word 0 of a program whose first word is `w`: what the next step runs is the
epilogue operation `w`. The A end is the near end, at core 0, with descriptor fields rows = 1 and cols = 1. -/
def State.withEpiWord (s : State) (w : Nat) : State :=
  let d : Drain :=
    { prod := 0, tile := [], row := 0, rsum := [], csum := [], num := 1, split := false, forced := false, final := true,
      image := some (leBytes 640 w), due := 0, begun := true, landed := 0, k0 := 0 }
  let e : Engine := { Engine.dormant with
    st := .draining, formed := true, drains := [d], near := { EEnd.closed with isOpen := true, desc := 2 ^ 64 + 2 ^ 72 },
    far := { EEnd.closed with isOpen := true, roleB := true } }
  { s with
    powered := true
    engines := s.engines.set 0 e
    epi := some { link := 0, word := 0, e := List.replicate 6 (List.replicate 32 0), stall := 0 } }

/-- A state in which context 0 of core 0, in a running team at the first page of the space of graph slot 0, issues next, and the
bundle it stands at is the bytes `w`. -/
def State.withBundle (s : State) (w : Nat) : State :=
  let lr : LRec := ⟨0, 0, 0, 0, 8, 1, 1, 0, [], [⟨1, 1, 0⟩], [], [], [], [], []⟩
  let u : Team :=
    { slot := 0, node := 0, die := 0, ox := 0, oy := 0, variant := 0, lr := lr, codeBase := Config.globalBase, st := .running,
      placedAt := 0, readyAt := 0, stage := 0, scheds := [], next := 0, halt := none, stages := [], trigs := [], saved := [],
      savedCtx := [], savedCore := [], late := [] }
  let page : TlbE := ⟨0, Config.globalBase, 65536, 0, attrR + attrX + attrRES⟩
  { s with
    powered := true, epi := none, inputs := [], agenda := [], now := 0, turn := 0, switch := none
    mem := memPut s.mem 0 (leBytes 16 w)
    teams := s.teams.set 0 u
    throttled := []
    cores := s.cores.set 0 { s.core 0 with team := some 0 }
    clusters := s.clusters.set 0 { s.cluster 0 with tlb := [page] }
    ctxs := (s.ctxs.erase 0).set 0 { Ctx.idle with st := .running, pc := BitVec.ofNat 64 Config.globalBase } }

/-- `s` with the instruction `w` placed where the next step fetches it: a row of 32 bits is an epilogue word, a wider one a bundle. -/
def State.withFetchWord (s : State) (nbits w : Nat) : State :=
  if nbits ≤ 32 then s.withEpiWord (w % 2 ^ 32) else s.withBundle w

end Sys2Proof.Machine
end

