-- ==== Sys2Proof/Machine/Capability.lean ====
section
/-! DEFINITION. What the host reads: the capability list (R22 to R25) the STATUS word of the mailbox (R34) and the
status registers of the kick window (R215), as views of the
state. A read of them changes nothing. -/

namespace Sys2Proof.Machine

/-- The header of a record (R22). -/
def recHeader (next length id : Nat) : Nat := next * 2 ^ 48 + length * 2 ^ 32 + 1 * 2 ^ 16 + id
/-- The words of record 0x0001. -/
def identityWords : List Nat := [4 * 2 ^ 32 + Config.stepping.toNat * 2 ^ 16 + 0x0009, Config.certificate.toNat, 0]
/-- The word of record 0x0003. -/
def State.memoryWord (s : State) : Nat := 64 * 2 ^ 32 + 12 * 2 ^ 16 + s.training.hbmOk.toNat
/-- The word of span link `k` in record 0x0005. -/
def State.spanWord (s : State) (k : Nat) : Nat :=
  let o := Table.get (0, 0) s.training.span k
  (if bit s.spanEn.toNat k then 2 ^ 28 else 0) + o.2 % 256 * 2 ^ 20 + o.1 % 16 * 2 ^ 16 + (if o.1 = 0 then 0 else 224)
/-- The word of a port in record 0x0006: port 0 is the host port, port 1 + j root port j. -/
def State.portWord (s : State) (k : Nat) : Nat :=
  let o := Table.get (0, 0) s.training.port k
  (if k = 0 ∨ bit s.portEn.toNat (k - 1) then 2 ^ 16 else 0) + o.1 % 32 * 2 ^ 8 + o.2 % 16
/-- The words of record 0x0007. -/
def State.bootWords (s : State) : List Nat :=
  let b := s.boot
  [b.cause % 256 * 2 ^ 56 + b.failed % 256 * 2 ^ 48 + b.reached % 256 * 2 ^ 40 + (if b.recovery then 2 else 0) + (if b.ready then 1 else 0),
   b.lostk % 2 ^ 32]
/-- The records by id, with their bodies. -/
def State.records (s : State) : List (Nat × List Byte) :=
  let words (l : List Nat) : List Byte := l.flatMap (leBytes 8)
  [(0x0001, words identityWords), (0x0002, s.harvestRecord), (0x0003, words [s.memoryWord]), (0x0004, s.leaseRecord),
   (0x0005, words ((List.range 24).map s.spanWord)), (0x0006, words ((List.range 9).map s.portWord)), (0x0007, words s.bootWords),
   (0x0008, words [0x4000 * 2 ^ 32]), (0x0009, words [0b00001110]), (0x000A, words [0x1000 * 2 ^ 32 + 0x1000]),
   (0x000B, words [0x00BC00000000, 0x000400000000])]
/-- The records chained from an offset upward, each right after the one before. DESIGN CHOICE: log entry 60. -/
def chainRecords (off : Nat) : List (Nat × List Byte) → List Byte
  | [] => []
  | r :: rs =>
    let n := 8 + r.2.length
    leBytes 8 (recHeader (if rs.isEmpty then 0 else off + n) n r.1) ++ r.2 ++ chainRecords (off + n) rs
/-- The capability list, at BAR0 offset 0x0_0040. -/
def State.capability (s : State) : List Byte := chainRecords 0x40 s.records
/-- The body of a record, as a walk of the list finds it. -/
def State.recordBody (s : State) (id : Nat) : List Byte := ((s.records.find? (fun r => r.1 == id)).map (·.2)).getD []
/-- STATUS (R34). -/
def State.mailStatus (s : State) : Nat :=
  let m := s.mailbox
  (if m.busy then 2 ^ 63 else 0) + (if m.ovr then 2 ^ 62 else 0) + m.tag.toNat * 2 ^ 32 + m.result % 2 ^ 16
/-- Status register `k` of the kick window (R215). -/
def State.kickStatus (s : State) (k : Nat) : Nat :=
  let x := s.slot k
  x.err % 256 * 2 ^ 56 + x.lost % 2 ^ 16 * 2 ^ 32 + x.done % 2 ^ 32

end Sys2Proof.Machine
end

