-- ==== Sys2Proof/Safety.lean ====
section
/-! DEFINITION. The terms statements are made in: when the operands of an S operation can be taken, the state with them taken, what a
frame keeps, and the invariant of every step. -/

namespace Sys2Proof.Machine

/-- The inbound queues a list of sources names can be popped by the acting context: bound to it where DBGHZ asks, with a data entry
at the head that holds no error (R149, R150, R151, R228). -/
def State.canPop (s : State) (srcs : List Reg) : Bool :=
  let k := s.core s.curCore
  (queueDirs srcs).all (fun d =>
    (k.owner s.now d).isSome && (!s.dbghz || k.owner s.now d == some s.curCtx)
    && ((k.inq d).head?).elim false (fun e => !e.ctl) && !s.bad.contains (badQueue s.curCore (dirNum d)))
/-- A queue named as a destination is bound and has a credit (R149, R150). -/
def State.canPush (s : State) (dst : Option Reg) : Bool :=
  let k := s.core s.curCore
  (queueDirs dst.toList).all (fun d =>
    (k.owner s.now d).isSome && (!s.dbghz || k.owner s.now d == some s.curCtx) && k.credit d != 0)
/-- The operands of an operation can be taken: no source is pending, with DBGHZ the destination is not, and the queues it names can
be used (R73, R149, R150, R228). -/
def State.ready (s : State) (srcs : List Reg) (dst : Option Reg) : Bool :=
  srcs.all (fun r => (s.me.pendOf r).isNone) && (!s.dbghz || dst.elim true (fun r => (s.me.pendOf r).isNone))
    && s.canPop srcs && s.canPush dst
/-- The state with the source queues popped and the destination's credit spent (R149). -/
def State.taken (s : State) (srcs : List Reg) (dst : Option Reg) : State :=
  (queueDirs dst.toList).foldl (fun t d => t.spendQ s.curCore d) ((queueDirs srcs).foldl (fun t d => t.popQ s.curCore d) s)
/-- The state after an operation that puts `v` and goes on. -/
def State.result (s : State) (srcs : List Reg) (dst : Reg) (v : Word) : State := ((s.taken srcs (some dst)).put dst v).advance
/-- The value of a second operand (R91). -/
def State.opnd (s : State) : Src2 → Word
  | .reg r => s.srcVal r
  | .s6 i => i.signExtend 64
  | .i32 i => i.signExtend 64

/-- The result of a class A operation on 64-bit operands, or on their low 32 bits with the result sign-extended (R280). -/
def aluRes (w32 : Bool) (f : (w : Nat) → BitVec w → BitVec w → BitVec w) (a b : Word) : Word :=
  if w32 then (f 32 (a.setWidth 32) (b.setWidth 32)).signExtend 64 else f 64 a b

/-- The key of the acting context. -/
def State.meKey (s : State) : Nat := 16 * s.curCore + s.curCtx
/-- Every context but the acting one is as it was. -/
def State.othersKept (s t : State) : Prop := ∀ k, k ≠ s.meKey → Table.get Ctx.idle t.ctxs k = Table.get Ctx.idle s.ctxs k
/-- Every byte of memory is as it was but for `n` bytes from `a` upward. -/
def State.memKept (s t : State) (a n : Nat) : Prop := ∀ b, (b < a ∨ a + n ≤ b) → memRead t.mem b = memRead s.mem b
/-- The registers of a context are as they were but for those listed; a queue register is no register of a context. -/
def Ctx.regsKept (x y : Ctx) (but : List Reg) : Prop := ∀ r, r ∉ but → y.read r = x.read r
/-- The predicates, vectors, masks and sticky flags of a context are as they were. -/
def Ctx.predsKept (x y : Ctx) : Prop := ∀ k, y.readP k = x.readP k
def Ctx.vecsKept (x y : Ctx) : Prop := (∀ k, y.readV k = x.readV k) ∧ (∀ k, y.readM k = x.readM k) ∧ y.flags = x.flags
/-- What an exception saves into and what stands around a context: its depth, its trap depth, its openers, its fault count. -/
def Ctx.frameKept (x y : Ctx) : Prop :=
  y.depth = x.depth ∧ y.trapDepth = x.trapDepth ∧ y.openers = x.openers ∧ y.flogn = x.flogn ∧ y.st = x.st ∧ y.held = x.held
/-- The last-result registers. -/
def lastResults : List Reg := [.l 0, .l 1, .l 2, .l 3]

/-- A register a result can be written to and read back from (R89). -/
def isPlainDst : Reg → Bool
  | .w _ | .g _ | .o _ | .i _ => true
  | _ => false

/-- Byte `j` of a vector, and lane `j` of width `w`. -/
def vByte (v : VWord) (j : Nat) : Byte := v.extractLsb' (8 * j) 8
def vLane (w : Nat) (v : VWord) (j : Nat) : BitVec w := v.extractLsb' (w * j) w

/-! ### Addresses -/

/-- The effective address of a class M operation (R92). -/
def State.ea (s : State) (a : Addr) : Nat := effAddr (s.srcVal a.base) a.disp
/-- `n` bytes at a local address of the acting core: aligned to `al`, within the scratchpad, clear of the window stacks (R160, R279). -/
def State.localFits (s : State) (a n al : Nat) : Bool :=
  !isSteward s.curCore && a % al == 0 && a + n ≤ Config.spadSize && !s.touchesStacks s.curCore a n
/-- The cell of a local byte of the acting core. -/
def State.cellOf (s : State) (a : Nat) : Nat := spad s.curCore a
/-- `n` bytes from a cell are the low bytes of a value, lowest first. -/
def memHolds (m : List Host.Cell) (cell n : Nat) (v : Nat) : Prop :=
  ∀ k, k < n → memRead m (cell + k) = BitVec.ofNat 8 (v / 256 ^ k)
/-- What one instruction of the acting context leaves as it was when it only moves the pc: its registers, predicates, vectors, masks
and flags, its window frame, every other context. -/
def State.onlyPc (s t : State) : Prop :=
  s.me.regsKept t.me [.pc] ∧ s.me.predsKept t.me ∧ s.me.vecsKept t.me ∧ s.me.frameKept t.me ∧ s.othersKept t
  ∧ t.me.pc = s.me.pc + BitVec.ofNat 64 s.curLen
/-- The acting context is parked for the reply its next number names, its pc at the bundle (R66). -/
def State.parksFor (s t : State) (r : Result) : Prop :=
  t.me.park = some (.result s.tok s.curLen r) ∧ t.me.pc = s.me.pc ∧ s.me.regsKept t.me [] ∧ s.me.predsKept t.me ∧ s.me.vecsKept t.me
  ∧ t.tok = s.tok + 1
/-- The injection queue of the acting core gains one entry, held for `after` (R203, R234). -/
def State.injects (s t : State) (b : InjBody) (after : List Nat) : Prop :=
  (t.core s.curCore).inj = (s.core s.curCore).inj ++ [{ body := b, after := after, ready := s.now + injDelay }]
/-- An operation of the acting context is on its way and not yet acknowledged (R198). -/
def State.sends (s t : State) (k : OutKind) : Prop := ⟨s.tok, [s.curCtx], k⟩ ∈ (t.core s.curCore).unacked ∧ t.tok = s.tok + 1
/-- The operands of an access of the acting context to a global page are fit for it: a global address, a translation at hand that keeps
the place in a line, the attribute it needs (R160, R257). -/
def State.pageFits (s : State) (va want : Nat) (e : TlbE) : Prop :=
  isGlobal va = true ∧ s.xlate s.curCore s.curCtx va = .hit e ∧ hasAttr e.attr want = true ∧ e.phys va % 64 = va % 64
/-- Nothing on its way to the line of a physical address, and room to inject (R199, R234). -/
def State.lineFree (s : State) (pa : Nat) : Prop :=
  (∀ w ∈ (s.core s.curCore).wcb, w.pa ≠ alignDown 64 pa) ∧ (s.core s.curCore).lineToks pa = [] ∧ (s.core s.curCore).injFree = true
/-- A remote store of the acting context to core `c`, as its packet (R198, R230). -/
def State.pktTo (s : State) (cls : PktClass) (c : Nat) (b : PktBody) : Pkt :=
  { cls := cls, src := s.curCore, dst := c, flits := 1, prio := s.pktPrio s.curCore, ctx := s.curCtx, tok := s.tok, wait := 0, body := b }

/-! ### Links -/

/-- The link of a direction of the acting core, whether the acting core is its far end, its engine and this end (R100). -/
def State.linkOf (s : State) (d : Dir) : Nat := linkId s.curCore d
def State.engOf (s : State) (d : Dir) : Engine := s.eng (s.linkOf d)
def State.endOf (s : State) (d : Dir) : EEnd := (s.engOf d).end_ (!isNear d)
/-- The checks of R322 let an instruction of any context pass: the link is within the region, no fault waits for delivery, no engine
resumes. -/
def State.linkClear (s : State) (d : Dir) : Prop :=
  s.linkHarvested s.curCore d = false ∧ s.linkOutside s.curCore d = false ∧ (s.endOf d).fault = none ∧ (s.endOf d).resume = false
/-- The acting context is the end's party. -/
def State.isParty (s : State) (d : Dir) : Prop := (s.endOf d).isOpen = true ∧ (s.endOf d).party = s.meId ∧ (s.endOf d).heldOpen = none

/-! ### Vectors -/

/-- Lane `j` of vector `n` of the acting context, and of a b operand: a vector, or the low bits of o0 to o7 in every lane (R360). -/
def State.vOf (s : State) (w : Nat) (n : Fin 16) (j : Nat) : Nat := (vLane w (s.me.readV n) j).toNat
def State.vB (s : State) (w : Nat) (b : VSrc) (j : Nat) : Nat :=
  match b with
  | .v n => s.vOf w n j
  | .o n => (s.me.read (.o n)).toNat % 2 ^ w
/-- What a V operation leaves as it was: every register, the pc among them, every predicate and mask, every other vector, the window frame,
every other context, all of memory and every other unit. -/
def State.vecOnly (s t : State) (vd : Fin 16) : Prop :=
  (∀ r, t.me.read r = s.me.read r) ∧ s.me.predsKept t.me ∧ (∀ k, t.me.readM k = s.me.readM k)
  ∧ (∀ k, k ≠ vd → t.me.readV k = s.me.readV k) ∧ s.me.frameKept t.me ∧ s.othersKept t ∧ t = { s with ctxs := t.ctxs }
/-- Vector `vd` holds the bytes of the lanes `f` where the mask selects, and its old bytes elsewhere (R10). -/
def State.vWrote (s t : State) (vd : Fin 16) (mask : Fin 8) (w : Nat) (f : Nat → Nat) : Prop :=
  ∀ j, j < 32 → vByte (t.me.readV vd) j =
    if (s.me.readM mask).getLsbD j then BitVec.ofNat 8 (f (j / (w / 8)) / 256 ^ (j % (w / 8))) else vByte (s.me.readV vd) j
/-- A V operation writes the lanes `r`, with the flags of the lanes that have a written byte (R360). -/
def State.vDone (s t : State) (vd : Fin 16) (mask : Fin 8) (w : Nat) (r : Nat → Nat × Flags) : Prop :=
  s.vecOnly t vd ∧ s.vWrote t vd mask w (fun j => (r j).1)
  ∧ t.me.flags = flagsOr s.me.flags (flagsAll ((List.range (256 / w)).map (fun j =>
      if laneOn w (s.me.readM mask) j then (r j).2 else Flags.zero)))
/-- The same for lanes that raise no flag. -/
def State.vPlain (s t : State) (vd : Fin 16) (mask : Fin 8) (w : Nat) (r : Nat → Nat) : Prop :=
  s.vecOnly t vd ∧ s.vWrote t vd mask w r ∧ t.me.flags = s.me.flags
/-- A mask operation: bit `j` of the mask register where the guarding mask selects; m0 takes no write (R10, R363, R369). -/
def State.mDone (s t : State) (md mask : Fin 8) (f : Nat → Bool) : Prop :=
  (∀ k j, j < 32 → (t.me.readM k).getLsbD j =
    if k = md ∧ md ≠ 0 ∧ (s.me.readM mask).getLsbD j = true then f j else (s.me.readM k).getLsbD j)
  ∧ (∀ r, t.me.read r = s.me.read r) ∧ s.me.predsKept t.me ∧ (∀ k, t.me.readV k = s.me.readV k) ∧ t.me.flags = s.me.flags
  ∧ s.me.frameKept t.me ∧ s.othersKept t ∧ t = { s with ctxs := t.ctxs }
/-- An integer lane's value, and the result in a lane: wrapped, or clamped to the type's range (R360). -/
def intLane (t : Ty) (x : Nat) : Int := if t.signed then (BitVec.ofNat t.width x).toInt else x
def intWrap (t : Ty) (sat : Bool) (r : Int) : Nat :=
  let lo : Int := if t.signed then -2 ^ (t.width - 1) else 0
  let hi : Int := if t.signed then 2 ^ (t.width - 1) - 1 else 2 ^ t.width - 1
  (BitVec.ofInt t.width (if sat then max lo (min hi r) else r)).toNat

/-! ### Epilogue rows -/

/-- A row is in progress with its six registers of 32 lanes (R137). -/
def State.epiFits (s : State) (r : EpiRow) : Prop := s.epi = some r ∧ r.e.length = 6 ∧ ∀ l ∈ r.e, l.length = 32
/-- Lane `n` of an epilogue source (R138). -/
def State.epiL (s : State) (a : ESrc) (n : Nat) : BitVec 32 := (s.epiSrc a).getD n 0
/-- An epilogue operation writes register `d` lane by lane, goes to the next word, and changes nothing else. -/
def State.epiDone (s t : State) (r : EpiRow) (d : Fin 6) (f : Nat → BitVec 32) : Prop :=
  t = { s with epi := t.epi } ∧ ∃ e, t.epi = some { r with word := r.word + 1, e := e } ∧ e.length = 6
  ∧ (∀ k, k ≠ d.val → e.getD k [] = r.e.getD k []) ∧ (e.getD d.val []).length = 32
  ∧ ∀ n, n < 32 → (e.getD d.val []).getD n 0 = f n

/-- A context's trap depth counts traps its windows still show (R239, R240). -/
def Ctx.nested (x : Ctx) : Prop := x.trapDepth ≤ x.openers.count .trap
/-- The invariant every step keeps: memory is in its canonical form, and every context, on a core or held in a context area, is well
nested. -/
def State.Inv (s : State) : Prop :=
  Memory.wf s.mem = true ∧ (∀ x ∈ s.ctxs.cells, x.2.nested) ∧ (∀ t ∈ s.teams.cells, ∀ x ∈ t.2.savedCtx, x.2.nested)

end Sys2Proof.Machine
end

