-- ==== Sys2Proof/Certificates/Slice0/Obligations.lean ====
section
/-! DEFINITION. The statements about the model, in the terms of `Sys2Proof.Safety`. The parts of a statement of several parts stand under
`Sys2Proof.Claims`. -/

open Sys2Proof Sys2Proof.Machine

/-! ### Decoding, steps and the whole machine -/

/-- Words the spec writes out, bit by bit, decode to the operations they stand for, and its refused bundles to the detail words of R99
(spec/05, worked decodings). -/
def Obligations.DecodeRight : Prop :=
  (∀ off, off + 12 ≤ 32 → decodeBundle false off 0x0000_0001_0000_0000_0006_9901 = .ok ⟨.b96s, 0, false, .li (.g 2) 1, .vnop⟩)
  ∧ (∀ off, off + 16 ≤ 32 → decodeBundle false off 0x0000_0096_0001_86A0_0015_0CA8_0092_010A
      = .ok ⟨.b128, 2, false, .add ⟨false, .w 8, .w 9, .i32 100000⟩, .vltab 3 4 5 0 0x96⟩)
  ∧ (∀ off, 32 < off + 16 → decodeBundle false off 0x0000_0096_0001_86A0_0015_0CA8_0092_010A = .error .cross)
  ∧ decodeBundle false 0 0x3 = .error (.illegal 0x01 0 0) ∧ decodeBundle false 0 0x40 = .error (.illegal 0x02 0 6)
  ∧ decodeBundle false 0 0x20 = .error (.illegal 0x03 0 5) ∧ decodeBundle false 0 0x3D00 = .error (.illegal 0x04 1 8)
  ∧ (∀ e, e < 2 ^ 32 → decodeBundle false 0 (0x0000_0009_0000_3801 + 2 ^ 64 * e) = .error (.illegal 0x05 1 32))
  ∧ decodeBundle false 0 0x0000_0000_0360_0100 = .error (.illegal 0x07 1 20)
  ∧ decodeBundle false 0 0x0340_0010_0000_0000 = .error (.illegal 0x08 2 54)
  ∧ decodeBundle false 0 0x0000_0000_0006_9900 = .error (.illegal 0x0A 1 0)

/-- Every well-formed bundle, wherever it lies whole within a fetch block and whatever follows it, decodes from its encoding to itself, and
every well-formed epilogue operation from its word: no bit of an encoding is dropped (R80, R83, R84, R86, R92, R95, R139). -/
def Obligations.EncodingsRoundTrip : Prop :=
  (∀ (b : Bundle) (off rest : Nat), b.wf = true → off + b.shape.bytes ≤ 32 →
    decodeBundle false off (encode b + 2 ^ (8 * b.shape.bytes) * rest) = .ok b)
  ∧ (∀ i : Instr, i.wfE = true → decodeEpi (encodeEpi i) = some i ∧ encodeEpi i < 2 ^ 32)

/-- A STEP RUNS THE DECODED INSTRUCTION. Where no epilogue word, input or event is due and the next core's slot goes to context `n`, whose
bundle is fetched from an executable, resident page: a bundle that fails a decode check raises its fault whatever its predicate (R82, R98, R99);
one that decodes to `b` with its predicate false only advances the pc past it; else its
S operation runs, and its V operation on the state before the bundle, its vector, masks and flags overlaid; a trap or a condition park of the S
operation leaves the V operation without effect. A word of an epilogue row in progress runs as the operation it decodes to, and one that
decodes to none is refused by name. A due input or event runs as its instruction, throttle steps first, and those that take scratchpad banks
after the bundles of the cycle, in the order of their levels; with nothing left the next cycle begins. A bundle that parks for its result
leaves behind what a fault reply takes back. -/
def Obligations.StepRunsTheDecoded : Prop :=
  (∀ (s : State) (c n : Nat) (e : TlbE) (b : Bundle),
    let pc := (s.ctx c n).pc.toNat
    s.powered = true → s.epi = none → s.dueInput = none → s.dueEvent = none → s.nextCore = some c → s.slotUse c = .issue n →
    pc % 4 = 0 → s.fetchXlate c n pc = .hit e → hasAttr e.attr attrX = true → hasAttr e.attr attrRES = true →
    let found := decodeBundle (isSteward c) (pc % 32) (memLe s.mem 16 (e.phys pc))
    let from_ (t : State) (len : Nat) (now : Option Bundle) : Prop := t = { s with
        turn := c + 1, switch := t.switch, agenda := t.agenda, clusters := t.clusters, curCore := c, curCtx := n,
        curLen := len, curBundle := now, noEffect := false }
    (∀ d, found = .error d → ∃ t, from_ t 8 none ∧ step s = .next (match d with
      | .cross => t.trap c n .fetchAlign (s.ctx c n).pc (s.ctx c n).src 1
      | .illegal reason part pos => t.trap c n .illegal (s.ctx c n).pc 0 (BitVec.ofNat 64 (reason + 256 * part + 65536 * pos))
      | .priv => t.trap c n .priv (s.ctx c n).pc 0 0))
    ∧ (found = .ok b → ∃ t, from_ t b.shape.bytes (some b)
      ∧ ((s.ctx c n).readP b.pred = b.pneg → step s = .next t.advance)
      ∧ ((s.ctx c n).readP b.pred ≠ b.pneg →
        (b.v = .vnop → ∀ u, exec b.s t = .next u → step s = .next (t.noteUndo u))
        ∧ (∀ u, exec b.s t = .next u → u.noEffect = true → step s = .next (t.noteUndo u))
        ∧ (∀ u v, b.v ≠ .vnop → exec b.s t = .next u → u.noEffect = false →
            exec b.v (t.modCtx c n (fun x => { x with flags := Flags.zero })) = .next v →
            step s = .next ((t.noteUndo u).modCtx c n (fun x => { x with
              v := (match b.v.vecDst with
                | some d => x.v.set d.val (v.me.readV d)
                | none => x.v)
              m := v.me.m, flags := flagsOr x.flags v.me.flags }))))))
  ∧ (∀ (s : State) (r : EpiRow) (d : Drain) (img : List Byte), s.powered = true → s.epi = some r → r.word < 32 →
    (s.eng r.link).passing = some d → d.image = some img →
    let w := leNat ((img.drop (4 * r.word)).take 4)
    (∀ i, decodeEpi w = some i → step s = exec i s) ∧ (decodeEpi w = none → step s = .refused .illFormed))
  ∧ (∀ (s : State) (at_ : Nat) (i : Instr) (rest : List (Nat × Instr)), s.powered = true → s.epi = none → at_ ≤ s.now →
    (s.inputs = (at_, i) :: rest → isInput i = true → step s = exec i { s with inputs := rest })
    ∧ (s.dueInput = none → s.agenda = (at_, i) :: rest →
      (isThrottle i = true → step s = exec i { s with agenda := rest })
      ∧ (isThrottle i = false → (∀ v ∈ rest, v.1 ≤ s.now → isThrottle v.2 = false) → s.bankLevel i = 0 →
          step s = exec i { s with agenda := rest })
      ∧ (s.dueEvent = none → s.nextCore = none → s.bankLevel i ≠ 0 →
          (∀ v ∈ rest, v.1 ≤ s.now → s.bankLevel i ≤ s.bankLevel v.2) → step s = exec i { s with agenda := rest })))
  ∧ (∀ s : State, s.powered = true → s.epi = none → s.dueInput = none → s.dueEvent = none → s.nextCore = none → s.dueBank = none →
    step s = .next s.tick ∧ s.tick.now = s.now + 1 ∧ s.tick.turn = 0)
  ∧ (∀ s u : State,
    ((∀ tok len r, (u.ctx s.curCore s.curCtx).park ≠ some (.result tok len r)) → s.noteUndo u = u)
    ∧ (∀ tok len r, (u.ctx s.curCore s.curCtx).park = some (.result tok len r) → s.noteUndo u = u.modCtx s.curCore s.curCtx (fun x => { x with
        undo := some ⟨s.now, popped (s.core s.curCore) (u.core s.curCore), s.me.v, s.me.m, s.me.flags⟩ })))

/-- What reset leaves. The spec's own: cycle 0, DBGHZ 0, EVICTWAIT 100,000, PREEMPTWAIT 2,000,000, ESCWAIT 64, STVEC 0, every full/empty bit
empty, not ready, stage 1 reached. The model's (log entry 1): memory, registers, queues and engines hold zero or nothing. The invariant holds. -/
def Obligations.ResetValues : Prop :=
  State.reset.now = 0 ∧ State.reset.dbghz = false ∧ State.reset.evictwait = 100000 ∧ State.reset.preemptwait = 2000000
  ∧ State.reset.escwait = 64 ∧ (∀ k, (State.reset.steward k).stvec = 0) ∧ State.reset.full = []
  ∧ State.reset.boot.ready = false ∧ State.reset.boot.reached = 1 ∧ State.reset.boot.lostk = 0 ∧ State.reset.powered = true
  ∧ (∀ a, memRead State.reset.mem a = 0)
  ∧ (∀ c n, let x := State.reset.ctx c n
      x.st = .idle ∧ (∀ r, x.read r = 0) ∧ (∀ k, x.readV k = 0) ∧ (∀ k, x.readP k = (k == 0)) ∧ x.flags = Flags.zero ∧ x.depth = 1
      ∧ x.trapDepth = 0)
  ∧ (∀ l, (State.reset.eng l).st = .dormant) ∧ (∀ k, (State.reset.slot k).graph = none) ∧ State.reset.teams = .empty
  ∧ State.reset.Inv

/-- Every step keeps the invariant: memory in its canonical form, and in every context, on a core or saved, no more traps counted than the
windows of trap entries it stands in. -/
def Obligations.StepKeepsInv : Prop :=
  ∀ s t : State, s.Inv → step s = .next t → t.Inv

/-! ### Integer operations of the S slot -/

/-- ADD, SUB, AND, OR and XOR under R280, for every register, queue and immediate form and both widths (R282, R353, R284, R335, R380). -/
def Sys2Proof.Claims.AddLogicResults : Prop :=
  ∀ (s : State) (x : AluOps), s.ready (x.a :: srcs2 x.b) (some x.dst) = true →
    let go (f : (w : Nat) → BitVec w → BitVec w → BitVec w) : Res :=
      .next (s.result (x.a :: srcs2 x.b) x.dst (aluRes x.w32 f (s.srcVal x.a) (s.opnd x.b)))
    exec (.add x) s = go (fun _ a b => a + b) ∧ exec (.sub x) s = go (fun _ a b => a - b)
    ∧ exec (.and x) s = go (fun _ a b => a &&& b) ∧ exec (.or x) s = go (fun _ a b => a ||| b)
    ∧ exec (.xor x) s = go (fun _ a b => a ^^^ b)

/-- MAX, MIN, MOV, MUL and MULH with their signedness forms (R333). MULH is the upper half of the double-width product. -/
def Sys2Proof.Claims.MinMaxMulResults : Prop :=
  ∀ (s : State) (x : AluOps) (y : UnOps) (u : Bool),
    let go (f : (w : Nat) → BitVec w → BitVec w → BitVec w) : Res :=
      .next (s.result (x.a :: srcs2 x.b) x.dst (aluRes x.w32 f (s.srcVal x.a) (s.opnd x.b)))
    (s.ready (x.a :: srcs2 x.b) (some x.dst) = true →
      exec (.mul x) s = go (fun _ a b => a * b)
      ∧ exec (.mulh .ss x) s = go (fun w a b => ((a.signExtend (w + w) * b.signExtend (w + w)) >>> w).setWidth w)
      ∧ exec (.mulh .uu x) s = go (fun w a b => ((a.setWidth (w + w) * b.setWidth (w + w)) >>> w).setWidth w)
      ∧ exec (.mulh .su x) s = go (fun w a b => ((a.signExtend (w + w) * b.setWidth (w + w)) >>> w).setWidth w)
      ∧ exec (.min u x) s = go (fun _ a b => if (if u then a.ule b else a.sle b) then a else b)
      ∧ exec (.max u x) s = go (fun _ a b => if (if u then a.ule b else a.sle b) then b else a))
    ∧ (s.ready (srcs2 y.src) (some y.dst) = true →
      exec (.mov y) s = .next (s.result (srcs2 y.src) y.dst (aluRes y.w32 (fun _ a _ => a) (s.opnd y.src) 0)))

/-- SHL, SHR, SRA and ROT: the amount is the second operand mod the width (R349, R345). -/
def Sys2Proof.Claims.ShiftResults : Prop :=
  ∀ (s : State) (x : AluOps), s.ready (x.a :: srcs2 x.b) (some x.dst) = true →
    let go (f : (w : Nat) → BitVec w → BitVec w → BitVec w) : Res :=
      .next (s.result (x.a :: srcs2 x.b) x.dst (aluRes x.w32 f (s.srcVal x.a) (s.opnd x.b)))
    exec (.shl x) s = go (fun w a b => a <<< (b.toNat % w)) ∧ exec (.shr x) s = go (fun w a b => a >>> (b.toNat % w))
    ∧ exec (.sra x) s = go (fun w a b => a.sshiftRight (b.toNat % w)) ∧ exec (.rot x) s = go (fun w a b => a.rotateLeft (b.toNat % w))

/-- The integer operations of class A. -/
def Obligations.AluResults : Prop :=
  Sys2Proof.Claims.AddLogicResults ∧ Sys2Proof.Claims.MinMaxMulResults ∧ Sys2Proof.Claims.ShiftResults

/-- The quotient and remainder of R302 and R342, and Q: the significant bits of the quotient's magnitude. -/
def Sys2Proof.Machine.divSpec (u : Bool) (w : Nat) (a b : BitVec w) : BitVec w := if b = 0 then BitVec.allOnes w else if u then a / b else a.sdiv b

def Sys2Proof.Machine.remSpec (u : Bool) (w : Nat) (a b : BitVec w) : BitVec w := if b = 0 then a else if u then a % b else a.srem b

def Sys2Proof.Machine.quotBits (u : Bool) (w : Nat) (a b : BitVec w) : Nat :=
  if b = 0 then w
  else
    let q := if u then a.toNat / b.toNat else a.toInt.natAbs / b.toInt.natAbs
    if q = 0 then 0 else Nat.log2 q + 1

/-- DIV and REM park, and their result is written 4 + Q cycles after issue (R302, R342). -/
def Sys2Proof.Claims.DivRemResults : Prop :=
  ∀ (s : State) (x : AluOps) (u : Bool), s.ready (x.a :: srcs2 x.b) (some x.dst) = true →
    let a := s.srcVal x.a
    let b := s.opnd x.b
    let q := if x.w32 then quotBits u 32 (a.setWidth 32) (b.setWidth 32) else quotBits u 64 a b
    let t := s.taken (x.a :: srcs2 x.b) (some x.dst)
    let go (f : (w : Nat) → BitVec w → BitVec w → BitVec w) : Res :=
      .next ((t.sched (4 + q) (.replyWrite s.curCore s.curCtx s.tok (.word (aluRes x.w32 f a b)))).parkResult (.put x.dst))
    exec (.div u x) s = go (divSpec u) ∧ exec (.rem u x) s = go (remSpec u)

/-- CLZ, POPC, FSH, BFX, BFI and LTAB, bit by bit (R295, R337, R310, R285, R330). -/
def Sys2Proof.Claims.BitResults : Prop :=
  ∀ (s : State),
    (∀ (y : UnOps), s.ready (srcs2 y.src) (some y.dst) = true →
      ∀ (w : Nat), w = (if y.w32 then 32 else 64) → ∃ n k : Nat,
        (n ≤ w ∧ (∀ i, w - n ≤ i → i < w → (s.opnd y.src).getLsbD i = false) ∧ (n < w → (s.opnd y.src).getLsbD (w - 1 - n) = true))
        ∧ k = (List.range w).countP (fun i => (s.opnd y.src).getLsbD i)
        ∧ exec (.clz y) s = .next (s.result (srcs2 y.src) y.dst (BitVec.ofNat 64 n))
        ∧ exec (.popc y) s = .next (s.result (srcs2 y.src) y.dst (BitVec.ofNat 64 k)))
    ∧ (∀ (w32 : Bool) (dst a b : Reg) (sh : BitVec 6), s.ready [a, b] (some dst) = true →
      exec (.fsh w32 dst a b sh) s
        = .next (s.result [a, b] dst (aluRes w32 (fun w x y => ((x ++ y : BitVec (w + w)) >>> sh.toNat).setWidth w) (s.srcVal a) (s.srcVal b))))
    ∧ (∀ (sx : Bool) (dst a : Reg) (pos len : BitVec 6), s.ready [a] (some dst) = true →
      let f : BitVec (len.toNat + 1) := (s.srcVal a >>> pos.toNat).setWidth (len.toNat + 1)
      exec (.bfx sx dst a pos len) s = .next (s.result [a] dst (if sx then f.signExtend 64 else f.setWidth 64)))
    ∧ (∀ (dst a b : Reg) (pos len : BitVec 6), s.ready [a, b] (some dst) = true → ∃ r : Word,
      (∀ j, j < 64 → r.getLsbD j =
        if pos.toNat ≤ j ∧ j < pos.toNat + len.toNat + 1 then (s.srcVal b).getLsbD (j - pos.toNat) else (s.srcVal a).getLsbD j)
      ∧ exec (.bfi dst a b pos len) s = .next (s.result [a, b] dst r))
    ∧ (∀ (w32 : Bool) (dst a b : Reg) (tbl : BitVec 8), s.ready [dst, a, b] (some dst) = true → ∃ r : Word,
      (∀ j, j < 64 → r.getLsbD j = tbl.getLsbD
        (4 * ((s.srcVal a).getLsbD j).toNat + 2 * ((s.srcVal b).getLsbD j).toNat + ((s.srcVal dst).getLsbD j).toNat))
      ∧ exec (.ltab w32 dst a b tbl) s = .next (s.result [dst, a, b] dst (if w32 then (r.setWidth 32).signExtend 64 else r)))

/-- Division and the bit operations. -/
def Obligations.DivideAndBitResults : Prop :=
  Sys2Proof.Claims.DivRemResults ∧ Sys2Proof.Claims.BitResults

/-- The conditions of CMP on w-bit operands (R296). -/
def Sys2Proof.Machine.cmpSpec (u : Bool) (c : Cond) (w : Nat) (a b : BitVec w) : Bool :=
  match c, u with
  | .eq, _ => a == b
  | .ne, _ => a != b
  | .lt, false => a.slt b
  | .le, false => a.sle b
  | .gt, false => b.slt a
  | .ge, false => b.sle a
  | .lt, true => a.ult b
  | .le, true => a.ule b
  | .gt, true => b.ult a
  | .ge, true => b.ule a

/-- CMP, SEL and PLOG: a predicate is written, or chooses; p0 reads true and takes no write (R296, R348, R336). -/
def Sys2Proof.Claims.PredicateResults : Prop :=
  ∀ (s : State),
    (∀ (u : Bool) (c : Cond) (pd : Fin 8) (w32 : Bool) (a : Reg) (b : Src2), s.ready (a :: srcs2 b) none = true →
      let r := if w32 then cmpSpec u c 32 ((s.srcVal a).setWidth 32) ((s.opnd b).setWidth 32) else cmpSpec u c 64 (s.srcVal a) (s.opnd b)
      ∃ t, exec (.cmp u c pd w32 a b) s = .next t
        ∧ t = ((s.taken (a :: srcs2 b) none).modMe (fun x => x.writeP pd r)).advance
        ∧ (∀ k, t.me.readP k = if k = pd ∧ pd ≠ 0 then r else s.me.readP k) ∧ (∀ q, q ≠ .pc → t.me.read q = s.me.read q))
    ∧ (∀ (inv : Bool) (p : Fin 8) (dst a b : Reg), s.ready [a, b] (some dst) = true →
      exec (.sel inv p dst a b) s
        = .next (s.result [a, b] dst (if xor (s.me.readP p) inv then s.srcVal a else s.srcVal b)))
    ∧ (∀ (pd pa pb pc : Fin 8) (tbl : BitVec 8),
      let r := tbl.getLsbD (4 * (s.me.readP pa).toNat + 2 * (s.me.readP pb).toNat + (s.me.readP pc).toNat)
      ∃ t, exec (.plog pd pa pb pc tbl) s = .next t ∧ t = (s.modMe (fun x => x.writeP pd r)).advance
        ∧ (∀ k, t.me.readP k = if k = pd ∧ pd ≠ 0 then r else s.me.readP k) ∧ (∀ q, q ≠ .pc → t.me.read q = s.me.read q))
    ∧ s.me.readP 0 = true

/-- NOP only advances the pc; LI, LIH and ADDPC form their word (R334, R320, R321, R283). -/
def Sys2Proof.Claims.ImmediateResults : Prop :=
  ∀ (s : State) (dst : Reg) (imm : BitVec 32),
    exec .nop s = .next s.advance
    ∧ (s.ready [] (some dst) = true →
        exec (.li dst imm) s = .next (s.result [] dst (imm.signExtend 64))
        ∧ exec (.addpc dst imm) s = .next (s.result [] dst (s.me.pc + imm.signExtend 64)))
    ∧ (s.ready [dst] (some dst) = true →
        exec (.lih dst imm) s = .next (s.result [dst] dst (imm ++ (s.srcVal dst).setWidth 32)))

/-- Predicates and immediates. -/
def Obligations.PredicateAndImmediateResults : Prop :=
  Sys2Proof.Claims.PredicateResults ∧ Sys2Proof.Claims.ImmediateResults

/-! ### What putting a result changes, and what stays -/

/-- Put (R70): the destination takes the value, l0 to l3 shift, whatever the destination is, and nothing else of the context changes; a
queue destination pushes toward the neighbour. -/
def Sys2Proof.Claims.PutWritesAndShifts : Prop :=
  ∀ (s : State) (dst : Reg) (v : Word),
    (∀ r, (∀ k, r ≠ .l k) → (s.put dst v).me.read r = if r = dst ∧ isPlainDst dst = true then v else s.me.read r)
    ∧ (s.put dst v).me.read (.l 0) = v ∧ (s.put dst v).me.read (.l 1) = s.me.read (.l 0)
    ∧ (s.put dst v).me.read (.l 2) = s.me.read (.l 1) ∧ (s.put dst v).me.read (.l 3) = s.me.read (.l 2)
    ∧ s.me.predsKept (s.put dst v).me ∧ s.me.vecsKept (s.put dst v).me ∧ s.me.frameKept (s.put dst v).me
    ∧ s.othersKept (s.put dst v)
    ∧ ((∀ d, dst ≠ .q d) → s.put dst v = { s with ctxs := (s.put dst v).ctxs })
    ∧ (∀ d, dst = .q d → s.put dst v = (s.modMe (fun x => x.shift v)).pushQ s.curCore d ⟨v, false⟩)

/-- The operations that put one value: their sources and destination. -/
def Sys2Proof.Machine.putShape : Instr → Option (List Reg × Reg)
  | .add x | .sub x | .mul x | .mulh _ x | .div _ x | .rem _ x | .and x | .or x | .xor x | .shl x | .shr x | .sra x | .rot x
  | .min _ x | .max _ x => some (x.a :: srcs2 x.b, x.dst)
  | .clz y | .popc y | .mov y => some (srcs2 y.src, y.dst)
  | .ltab _ dst a b _ => some ([dst, a, b], dst)
  | .fsh _ dst a b _ | .bfi dst a b _ _ | .sel _ _ dst a b => some ([a, b], dst)
  | .bfx _ dst a _ _ => some ([a], dst)
  | .lih dst _ => some ([dst], dst)
  | .li dst _ | .addpc dst _ | .ctxid dst | .levid dst _ | .chread dst _ | .lvread dst _ | .lkstat dst _ _ => some ([], dst)
  | _ => none

/-- The frame of the operations that put one value: when they take effect, every register but the destination and l0 to l3, every
predicate, vector, mask and flag, the window frame, every other context, all of memory and every other unit are as they were; the
queues and the agenda change only where a queue is popped or pushed, or a division is under way. -/
def Sys2Proof.Claims.PutFrame : Prop :=
  ∀ (i : Instr) (srcs : List Reg) (dst : Reg), putShape i = some (srcs, dst) → ∀ (s t : State),
    s.noEffect = false → exec i s = .next t → t.noEffect = false →
    s.me.regsKept t.me (dst :: .pc :: lastResults) ∧ s.me.predsKept t.me ∧ s.me.vecsKept t.me ∧ s.me.frameKept t.me ∧ s.othersKept t
    ∧ t = { s with ctxs := t.ctxs, cores := t.cores, agenda := t.agenda, teams := t.teams, tok := t.tok }
    ∧ (queueDirs (dst :: srcs) = [] → t.cores = s.cores ∧ t.teams = s.teams)

/-- What putting a result changes, and what stays. -/
def Obligations.PutEffect : Prop :=
  Sys2Proof.Claims.PutWritesAndShifts ∧ Sys2Proof.Claims.PutFrame

/-! ### Control flow -/

/-- The transfers of control: where the pc goes; JMP reads its base; nothing else changes but where control came from (R288, R315). -/
def Sys2Proof.Claims.BranchesGo : Prop :=
  ∀ (s : State) (o : BitVec 18) (p : BitVec 32) (a : Addr),
    exec (.br (.short o)) s = .next (s.jump (s.me.pc + o.signExtend 64 * 4))
    ∧ exec (.br (.long p)) s = .next (s.jump (s.me.pc + p.signExtend 64 * 4))
    ∧ (s.ready [a.base] none = true → exec (.jmp a) s = .next ((s.taken [a.base] none).jump (s.srcVal a.base + a.disp.signExtend 64)))
    ∧ (∀ t, (s.jump t).me.pc = t ∧ (s.jump t).me.src = s.me.pc ∧ s.me.regsKept (s.jump t).me [.pc] ∧ s.me.predsKept (s.jump t).me
        ∧ s.me.vecsKept (s.jump t).me ∧ s.me.frameKept (s.jump t).me ∧ s.othersKept (s.jump t)
        ∧ s.jump t = { s with ctxs := (s.jump t).ctxs })

/-- CALL with room for a window: the callee's w0 to w7 are the caller's w16 to w23, w8 is the return address and w9 to w23 read zero;
no last-result register shifts. One past the greatest depth raises F_WINDOW and changes no depth (R291, R72). -/
def Sys2Proof.Claims.CallOpensWindow : Prop :=
  ∀ (s : State) (off : Off),
    (s.me.depth + 1 ≤ 4 + s.wss s.curCore / 128 → s.me.room = .free ∨ s.me.room = .reuse →
      ∃ t, exec (.call off) s = .next t ∧ t.me.pc = s.me.pc + offBytes off ∧ t.me.depth = s.me.depth + 1
        ∧ t.me.readW 8 = s.me.pc + BitVec.ofNat 64 s.curLen ∧ (∀ r, 9 ≤ r → r < 24 → t.me.readW r = 0)
        ∧ (∀ r, r < 8 → t.me.readW r = s.me.readW (r + 16))
        ∧ (∀ q, (∀ k, q ≠ .w k) → q ≠ .pc → t.me.read q = s.me.read q) ∧ s.me.predsKept t.me ∧ s.me.vecsKept t.me ∧ s.othersKept t
        ∧ t = { s with ctxs := t.ctxs })
    ∧ (4 + s.wss s.curCore / 128 < s.me.depth + 1 →
      exec (.call off) s = .next (s.fault .window 0 (BitVec.ofNat 64 (s.me.depth + 1))))

/-- RET with the caller's window resident: the pc is w8, the depth falls by one, the caller's w16 to w23 are the callee's w0 to w7 and
its w8 to w15 are what its window holds. At depth 1, and in a window trap entry opened, it raises F_ILLEGAL with reason 0x0C (R343). -/
def Sys2Proof.Claims.RetClosesWindow : Prop :=
  ∀ (s : State), s.ready [.w 8] none = true →
    (s.me.depth ≠ 1 → s.me.openers.head? ≠ some .trap → s.me.resident (s.me.depth - 1) = true →
      ∃ t, exec .ret s = .next t ∧ t.me.pc = s.me.readW 8 ∧ t.me.depth = s.me.depth - 1
        ∧ (∀ r, r < 8 → t.me.readW (r + 16) = s.me.readW r)
        ∧ (∀ r, 8 ≤ r → r < 16 → t.me.readW r = Table.get 0 (s.me.win (s.me.depth - 1)).regs r)
        ∧ (∀ q, (∀ k, q ≠ .w k) → q ≠ .pc → t.me.read q = s.me.read q) ∧ s.me.predsKept t.me ∧ s.me.vecsKept t.me ∧ s.othersKept t
        ∧ t = { s with ctxs := t.ctxs })
    ∧ (s.me.depth = 1 ∨ s.me.openers.head? = some .trap → exec .ret s = .next (s.fault .illegal 0 0x10C))

/-- A CALL and the RET of its callee, on a context with a free window slot: control is back behind the CALL, and every register of the
caller reads as before (R71, R291, R343). -/
def Sys2Proof.Claims.CallThenRet : Prop :=
  ∀ (s : State) (off : Off), s.me.depth + 1 ≤ 4 + s.wss s.curCore / 128 → s.me.room = .free → s.me.pend = [] →
    ∃ t u, exec (.call off) s = .next t ∧ exec .ret t = .next u ∧ u.me.pc = s.me.pc + BitVec.ofNat 64 s.curLen
      ∧ u.me.depth = s.me.depth ∧ (∀ r, r ≠ .pc → u.me.read r = s.me.read r) ∧ s.othersKept u

/-- Register windows. -/
def Obligations.WindowsOpenAndClose : Prop :=
  Sys2Proof.Claims.CallOpensWindow ∧ Sys2Proof.Claims.RetClosesWindow ∧ Sys2Proof.Claims.CallThenRet

/-- ITER deals the lowest undealt index of the core's chunk, unpacks it into i0 to i3 and shifts it into l0; with the claims exhausted
it branches to the exit and changes no register (R314, R227). -/
def Sys2Proof.Claims.IterDeals : Prop :=
  ∀ (s : State) (off : BitVec 32),
    let f := (s.core s.curCore).fetch.front
    (∀ lo hi t u e0 e1 e2 e3, (f.exhausted = true ∨ s.iterBehind = false) → f.cur = some (lo, hi) → lo < hi → s.teamOf s.curCore = some (t, u) → u.lr.ext = [e0, e1, e2, e3] →
      ∃ n, exec (.iter off) s = .next n ∧ n.me.read (.l 0) = BitVec.ofNat 64 lo ∧ n.me.read (.l 1) = s.me.read (.l 0)
        ∧ n.me.read (.i 0) = BitVec.ofNat 64 (lo % e0) ∧ n.me.read (.i 1) = BitVec.ofNat 64 (lo / e0 % e1)
        ∧ n.me.read (.i 2) = BitVec.ofNat 64 (lo / e0 / e1 % e2) ∧ n.me.read (.i 3) = BitVec.ofNat 64 (lo / e0 / e1 / e2 % e3)
        ∧ n.me.pc = s.me.pc + BitVec.ofNat 64 s.curLen ∧ (n.core s.curCore).fetch.cur = some (lo + 1, hi)
        ∧ s.me.regsKept n.me ([.pc, .i 0, .i 1, .i 2, .i 3] ++ lastResults) ∧ n.mem = s.mem)
    ∧ ((∀ lo hi, f.cur = some (lo, hi) → hi ≤ lo) → f.exhausted = true →
      exec (.iter off) s = .next (s.jump (s.me.pc + off.signExtend 64 * 4)))
    ∧ (((∀ lo hi, f.cur = some (lo, hi) → hi ≤ lo) ∨ s.iterBehind = true) → f.exhausted = false →
      ∃ n, exec (.iter off) s = .next n ∧ n.me.park = some (.cond .iter s.curBundle) ∧ n.me.pc = s.me.pc)

/-- Transfers of control and iterations. -/
def Obligations.TransfersAndIterations : Prop :=
  Sys2Proof.Claims.BranchesGo ∧ Sys2Proof.Claims.IterDeals

/-! ### Contexts -/

/-- CTXID and LEVID put their words; EXIT ends the context once nothing is pending; CTXSTART starts an idle context with every register
at its starting value; CTXREAP returns an exited context to idle (R299, R319, R307, R301, R300). -/
def Obligations.ContextOps : Prop :=
  ∀ (s : State) (dst : Reg) (level : BitVec 3) (n : BitVec 4) (off : BitVec 32),
    (s.ready [] (some dst) = true → s.curCore < Config.cores → s.curCtx < 16 →
      exec (.ctxid dst) s = .next (s.result [] dst
        (BitVec.ofNat 64 (coreDie s.curCore * 2 ^ 14 + coreY s.curCore * 2 ^ 9 + coreX s.curCore * 2 ^ 4 + s.curCtx))))
    ∧ (∀ t u, s.ready [] (some dst) = true → s.teamOf s.curCore = some (t, u) →
        if u.lr.lev.length ≤ level.toNat then exec (.levid dst level) s = .next (s.fault .illegal 0 0x10C)
        else exec (.levid dst level) s = .next (s.result [] dst (BitVec.ofNat 64 (u.levWord s.curCore s.curCtx level.toNat))))
    ∧ (s.me.flogn = 0 → s.me.held = [] → s.me.pend = [] →
        ∃ t, exec .exit s = .next t ∧ t.me.st = .exited ∧ t.me.depth = 1 ∧ t.mem = s.mem ∧ s.othersKept t
          ∧ (∀ r, (∀ k, r ≠ .w k) → t.me.read r = s.me.read r) ∧ (∀ k, t.me.read (.w k) = 0))
    ∧ (s.curCtx = 0 → n ≠ 0 → (s.ctx s.curCore n.toNat).st = .idle → (s.core s.curCore).ctxOut n.toNat = false →
        ∃ t, exec (.ctxstart n off) s = .next t ∧ t.me.pc = s.me.pc + BitVec.ofNat 64 s.curLen
          ∧ (let y := t.ctx s.curCore n.toNat
             y.st = .running ∧ y.pc = s.me.pc + off.signExtend 64 * 4 ∧ y.depth = 1 ∧ y.trapDepth = 0 ∧ y.flogn = 0 ∧ y.pend = []
               ∧ y.weight = 16 ∧ (∀ r, r ≠ .pc → y.read r = 0) ∧ (∀ k, y.readV k = 0) ∧ (∀ k, y.readP k = (k == 0))
               ∧ (∀ k, y.readM k = if k = 0 then BitVec.allOnes 32 else 0) ∧ y.readyAt % 16 = n.toNat
               ∧ s.now + 8 ≤ y.readyAt ∧ y.readyAt < s.now + 24)
          ∧ (let old := (s.ctx s.curCore n.toNat).demands
             (t.ctx s.curCore n.toNat).demands = old ∧ (old.cells = [] → t.agenda = s.agenda)
               ∧ (old.cells ≠ [] → ((s.now / 16 + 1) * 16, .weightTakesEffect s.curCore n.toNat) ∈ t.agenda))
          ∧ (∀ m, m ≠ n.toNat → m ≠ s.curCtx → t.ctx s.curCore m = s.ctx s.curCore m)
          ∧ s.me.regsKept t.me [.pc] ∧ t = { s with ctxs := t.ctxs, agenda := t.agenda })
    ∧ (s.curCtx = 0 → n ≠ 0 → (s.ctx s.curCore n.toNat).st ≠ .running →
        ∃ t, exec (.ctxreap n) s = .next t ∧ (t.ctx s.curCore n.toNat).st = .idle ∧ t.me.pc = s.me.pc + BitVec.ofNat 64 s.curLen
          ∧ s.me.regsKept t.me [.pc] ∧ t = { s with ctxs := t.ctxs })
    ∧ (s.curCtx ≠ 0 ∨ n = 0 → exec (.ctxstart n off) s = .next (s.fault .illegal 0 0x10C)
        ∧ exec (.ctxreap n) s = .next (s.fault .illegal 0 0x10C))

/-! ### Exceptions -/

/-- TAKING AN EXCEPTION (R239): with trap depth below 2, room for a window and a handler, the context of the fault stands at the handler
in a new window: w0 the code, w1 to w3 the frame words, w11 the predicates p1 to p7, w12 to w15 the interrupted w16 to w19; the last
results, globals, vectors, masks, predicates and flags are as they were, and no other context changes. -/
def Obligations.TrapEntry : Prop :=
  ∀ (s : State) (c n : Nat) (code : FCode) (w1 w2 w3 h : Word), code ≠ .soft → code ≠ .holdGrace → (s.ctx c n).trapDepth < 2 →
    (s.ctx c n).depth + 1 ≤ 4 + s.wss c / 128 → s.handler c = some h → (s.ctx c n).room = .free ∨ (s.ctx c n).room = .reuse →
    let x := s.ctx c n
    let y := (s.trap c n code w1 w2 w3).ctx c n
    y.pc = h ∧ y.src = w1 ∧ y.depth = x.depth + 1 ∧ y.trapDepth = x.trapDepth + 1 ∧ y.openers = .trap :: x.openers
    ∧ y.readW 0 = BitVec.ofNat 64 (fcNum code) ∧ y.readW 1 = w1 ∧ y.readW 2 = w2 ∧ y.readW 3 = w3
    ∧ (∀ k : Nat, k < 64 → (y.readW 11).getLsbD k = (decide (1 ≤ k ∧ k < 8) && Table.get false x.p k))
    ∧ (∀ r, r < 4 → y.readW (12 + r) = x.readW (16 + r))
    ∧ (∀ p ∈ x.pend, ∀ r, 16 ≤ r → r < 20 → p.loc = .win x.depth r → { p with loc := .win (x.depth + 1) (r - 4) } ∈ y.pend)
    ∧ y.weight = x.weight ∧ y.readyAt = s.now + 1
    ∧ (∀ q, (∀ k, q ≠ .w k) → q ≠ .pc → y.read q = x.read q) ∧ x.predsKept y ∧ x.vecsKept y ∧ y.park = none
    ∧ (∀ k, k ≠ 16 * c + n → Table.get Ctx.idle (s.trap c n code w1 w2 w3).ctxs k = Table.get Ctx.idle s.ctxs k)
    ∧ s.trap c n code w1 w2 w3 = { s with ctxs := (s.trap c n code w1 w2 w3).ctxs, noEffect := true }

/-- RETURN FROM AN EXCEPTION (R240, R306): the pc is w1, p1 to p7 come from w11, w16 to w19 of the window below from w12 to w15, the
depth and the trap depth fall by one; at trap depth 0 ERET raises F_ILLEGAL with reason 0x0C. -/
def Sys2Proof.Claims.EretReturns : Prop :=
  ∀ (s : State), s.ready [.w 1, .w 11] none = true →
    (s.me.trapDepth ≠ 0 → s.me.nested → s.me.resident (s.me.depth - 1) = true →
      ∃ t, exec .eret s = .next t ∧ t.me.pc = s.me.readW 1 ∧ t.me.depth = s.me.depth - 1 ∧ t.me.trapDepth = s.me.trapDepth - 1
        ∧ (∀ r, r < 4 → t.me.readW (16 + r) = s.me.readW (12 + r)) ∧ (∀ r, 20 ≤ r → r < 24 → t.me.readW r = s.me.readW (r - 16))
        ∧ (∀ p ∈ s.me.pend, ∀ r, 12 ≤ r → r < 16 → p.loc = .win s.me.depth r → { p with loc := .win (s.me.depth - 1) (r + 4) } ∈ t.me.pend)
        ∧ (∀ k : Fin 8, t.me.readP k = if k = 0 then true else (s.me.readW 11).getLsbD k.val)
        ∧ (∀ q, (∀ k, q ≠ .w k) → q ≠ .pc → t.me.read q = s.me.read q) ∧ s.me.vecsKept t.me ∧ s.othersKept t
        ∧ t = { s with ctxs := t.ctxs })
    ∧ (s.me.trapDepth = 0 → exec .eret s = .next (s.fault .illegal 0 0x10C))

/-- BRK takes F_BREAK with its own address in w1, 0 in w2 and its immediate in w3 (R289). A fault of the acting context is the exception
of R239 at the bundle's address, and the exception at trap depth 2, or past the window stack, halts: the context stands where it stood
(R241). -/
def Sys2Proof.Claims.BreakAndFatal : Prop :=
  ∀ (s : State) (imm : BitVec 16) (code : FCode) (w2 w3 : Word),
    exec (.brk imm) s = .next (s.trap s.curCore s.curCtx .brk s.me.pc 0 (imm.setWidth 64))
    ∧ s.fault code w2 w3 = s.trap s.curCore s.curCtx code s.me.pc w2 w3
    ∧ (2 ≤ s.me.trapDepth ∨ 4 + s.wss s.curCore / 128 < s.me.depth + 1 ∨ code = .soft ∨ code = .holdGrace →
        isSteward s.curCore = false → ∀ t u, s.teamOf s.curCore = some (t, u) → u.hasCore s.curCore = true →
        s.curCtx < 16 → (s.ctxs.find s.meKey).isSome = true →
        let r := s.fault code w2 w3
        r.me.halted = true ∧ r.me.pc = s.me.pc ∧ r.me.depth = s.me.depth ∧ r.mem = s.mem ∧ ∃ v, r.teams.find t = some v ∧ v.st = .halted
          ∧ (u.halt = none → ∃ h, v.halt = some h ∧ h.core = s.curCore ∧ h.ctx = s.curCtx ∧ h.pc = s.me.pc
              ∧ h.code = (if code = .soft ∨ code = .holdGrace ∨ 2 ≤ s.me.trapDepth then code else .window)))

/-- Return from exceptions, and exceptions that halt. -/
def Obligations.ExceptionReturnAndFatal : Prop :=
  Sys2Proof.Claims.EretReturns ∧ Sys2Proof.Claims.BreakAndFatal

/-! ### Local memory -/

/-- Loads from the scratchpad: LD puts the little-endian value of its type, extended by its signedness, VLD writes 32 bytes; a span that
is not aligned raises F_ALIGN, one that leaves the scratchpad or touches a window stack F_BOUNDS (R316, R368, R279). -/
def Sys2Proof.Claims.LocalLoads : Prop :=
  ∀ (s : State) (fg : Bool) (ty : BitVec 3) (dst : Reg) (v : Fin 16) (a : Addr),
    let va := s.ea a
    let n := 2 ^ (ty.toNat / 2)
    let cell := s.cellOf va
    (s.ready [a.base] (some dst) = true → s.localFits va n n = true → s.badIn cell n = false → ∃ r : Word,
      (∀ j, j < 64 → r.getLsbD j = if j < 8 * n then (memRead s.mem (cell + j / 8)).getLsbD (j % 8)
        else ty.toNat % 2 == 0 && (memRead s.mem (cell + n - 1)).getLsbD 7)
      ∧ exec (.ld fg ty dst a) s = .next (s.result [a.base] dst r))
    ∧ (s.ready [a.base] none = true → s.localFits va 32 32 = true → s.badIn cell 32 = false → ∃ r : VWord,
      (∀ j, j < 32 → vByte r j = memRead s.mem (cell + j))
      ∧ exec (.vld v a) s = .next ((s.taken [a.base] none).modMe (fun x => x.writeV v r)).advance)
    ∧ (s.ready [a.base] (some dst) = true → va % n ≠ 0 → exec (.ld fg ty dst a) s = .next (s.fault .align (BitVec.ofNat 64 va) 0))
    ∧ (s.ready [a.base] (some dst) = true → va % n = 0 → isSteward s.curCore = false → va < Config.spadSize →
        s.touchesStacks s.curCore va n = true → exec (.ld fg ty dst a) s = .next (s.fault .bounds (BitVec.ofNat 64 va) 0))

/-- Stores to the scratchpad: the bytes of the value stand at the address, every other byte of memory, every register, predicate,
vector, mask and flag is as it was (R351, R379). -/
def Sys2Proof.Claims.LocalStores : Prop :=
  ∀ (s : State) (ty : BitVec 3) (src : Reg) (v : Fin 16) (a : Addr),
    let va := s.ea a
    let n := 2 ^ (ty.toNat / 2)
    let cell := s.cellOf va
    let same (t : State) : Prop := s.onlyPc t ∧ t = { s with ctxs := t.ctxs, mem := t.mem, bad := t.bad, cores := t.cores, agenda := t.agenda }
    Memory.wf s.mem = true →
    (s.ready [src, a.base] none = true → s.localFits va n n = true → s.badPart cell n = false → s.feedHazard s.curCore va n = false →
      ∃ t, exec (.st ty src a) s = .next t ∧ memHolds t.mem cell n (s.srcVal src).toNat ∧ s.memKept t cell n ∧ same t)
    ∧ (s.ready [a.base] none = true → s.localFits va 32 32 = true → s.badPart cell 32 = false → s.feedHazard s.curCore va 32 = false →
      ∃ t, exec (.vst v a) s = .next t ∧ memHolds t.mem cell 32 (s.me.readV v).toNat ∧ s.memKept t cell 32 ∧ same t)
    ∧ (s.ready [src, a.base] none = true → va % n ≠ 0 → exec (.st ty src a) s = .next (s.fault .align (BitVec.ofNat 64 va) 0))

/-- The scratchpad. -/
def Obligations.LocalMemory : Prop :=
  Sys2Proof.Claims.LocalLoads ∧ Sys2Proof.Claims.LocalStores

/-- Full/empty words and datum words of the core: LDFE of a full word puts it and leaves it empty, STFE of an empty word writes it and
leaves it full, an LDFE of an empty word and an STFE of a full one park; FEINIT sets the bits of its words; DWINIT writes target and
count and leaves the generation; DWWAIT goes on when the generation is reached (R317, R352, R308, R303, R304). -/
def Obligations.SyncWords : Prop :=
  ∀ (s : State) (n64 full : Bool) (words : BitVec 9) (dst src : Reg) (a : Addr),
    let va := s.ea a
    let cell := s.cellOf va
    Memory.wf s.mem = true →
    (s.ready [a.base] (some dst) = true → s.localFits va 8 8 = true → s.full.contains cell = true → s.feBehind va true = false →
      s.badIn cell 8 = false →
      ∃ t, exec (.ldfe n64 dst a) s = .next t
        ∧ t = ((({ s.taken [a.base] (some dst) with full := removeNat cell s.full }).put dst (BitVec.ofNat 64 (memLe s.mem 8 cell))).acquire
            s.curCore (.fe s.curCore va)).advance
        ∧ t.mem = s.mem ∧ (∀ w, w ∈ t.full ↔ w ∈ s.full ∧ w ≠ cell))
    ∧ (s.ready [a.base] (some dst) = true → s.localFits va 8 8 = true → s.full.contains cell = false →
      ∃ t, exec (.ldfe n64 dst a) s = .next t ∧ t.me.park = some (.cond (.fe va true (s.me.since.getD s.now)) s.curBundle)
        ∧ t.me.pc = s.me.pc ∧ t.mem = s.mem ∧ t.full = s.full)
    ∧ (s.ready [src, a.base] none = true → s.localFits va 8 8 = true → s.full.contains cell = false → s.feBehind va false = false →
      ∃ t, exec (.stfe n64 src a) s = .next t ∧ memHolds t.mem cell 8 (s.srcVal src).toNat ∧ s.memKept t cell 8
        ∧ (∀ w, w ∈ t.full ↔ w ∈ s.full ∨ w = cell) ∧ s.onlyPc t)
    ∧ (s.ready [src, a.base] none = true → s.localFits va 8 8 = true → s.full.contains cell = true →
      ∃ t, exec (.stfe n64 src a) s = .next t ∧ t.me.park = some (.cond (.fe va false (s.me.since.getD s.now)) s.curBundle)
        ∧ t.me.pc = s.me.pc ∧ t.mem = s.mem ∧ t.full = s.full)
    ∧ (s.ready [a.base] none = true → s.localFits va (8 * (words.toNat + 1)) 8 = true →
      ∃ t, exec (.feinit full words a) s = .next t ∧ t.mem = s.mem ∧ s.onlyPc t
        ∧ (∀ w, w ∈ t.full ↔ if ∃ k, k ≤ words.toNat ∧ w = cell + 8 * k then full = true else w ∈ s.full))
    ∧ (s.ready [src, a.base] none = true → s.localFits va 16 16 = true → s.dbghz = false →
      ∃ t, exec (.dwinit src a) s = .next t ∧ memHolds t.mem cell 8 (s.srcVal src).toNat ∧ s.memKept t cell 8 ∧ s.onlyPc t)
    ∧ (s.ready [src, a.base] none = true → s.localFits va 16 16 = true →
      let reached := decide (((memLe s.mem 4 (cell + 8) + 2 ^ 32 - (s.srcVal src).toNat % 2 ^ 32) % 2 ^ 32) < 2 ^ 31)
      (reached = true → ∃ t, exec (.dwwait src a) s = .next t ∧ s.onlyPc t ∧ t.mem = s.mem
          ∧ t = ((s.taken [src, a.base] none).acquire s.curCore (.dw s.curCore va)).advance)
      ∧ (reached = false → ∃ t, exec (.dwwait src a) s = .next t ∧ t.mem = s.mem ∧ t.me.pc = s.me.pc
          ∧ t.me.park = some (.cond (.dw va ((s.srcVal src).toNat % 2 ^ 32)) s.curBundle)))

/-! ### Global memory -/

/-- Loads from global memory park. Their bytes come from the write-combining buffer where it holds them all, else, in local HBM, from
the read cache (both 40 cycles later) unless an access of the core to the line is still on its way (R199), else a request goes to the
home; an .fg form or page asks the home for a burst (R316, R368). -/
def Obligations.GlobalLoads : Prop :=
  ∀ (s : State) (fg : Bool) (ty : BitVec 3) (dst : Reg) (v : Fin 16) (a : Addr) (e : TlbE),
    let va := s.ea a
    let pa := e.phys va
    let x := s.core s.curCore
    let n := 2 ^ (ty.toNat / 2)
    let fine : Bool := paKind pa = .hbm ∧ (fg = true ∨ hasAttr e.attr attrFG = true)
    let hitAt (t : State) (bs : List Byte) : Prop :=
      (s.now + 40, Instr.replyWrite s.curCore s.curCtx s.tok (.bytes bs)) ∈ t.agenda
    s.pageFits va attrR e →
    (s.ready [a.base] (some dst) = true → va % n = 0 →
      (fine = false → (x.forward pa n).all Option.isSome = true →
        ∃ t, exec (.ld fg ty dst a) s = .next t ∧ s.parksFor t (.load dst n (ty.toNat % 2 == 0) va (x.forward pa n)) ∧ hitAt t [])
      ∧ (fine = false → (x.forward pa n).all Option.isSome = false → ∀ l, paKind pa = .hbm → x.lineToks pa = [] →
          s.cacheFind s.curCore (alignDown 64 pa) = some l →
        ∃ t, exec (.ld fg ty dst a) s = .next t ∧ s.parksFor t (.load dst n (ty.toNat % 2 == 0) va (x.forward pa n)) ∧ hitAt t l.data)
      ∧ (fine = false → (x.forward pa n).all Option.isSome = false → x.injFree = true →
          (paKind pa ≠ .hbm ∨ x.lineToks pa ≠ [] ∨ s.cacheFind s.curCore (alignDown 64 pa) = none) →
        ∃ t, exec (.ld fg ty dst a) s = .next t ∧ s.parksFor t (.load dst n (ty.toNat % 2 == 0) va (x.forward pa n))
          ∧ s.injects t (.home (s.mkReq (if paKind pa = .hbm then .load else .fine n) e va s.tok [])) (x.lineToks pa))
      ∧ (fine = true → s.lineFree pa →
        ∃ t, exec (.ld fg ty dst a) s = .next t ∧ s.parksFor t (.load dst n (ty.toNat % 2 == 0) va [])
          ∧ s.injects t (.home (s.mkReq (.fine 8) e va s.tok [])) []))
    ∧ (s.ready [a.base] none = true → va % 32 = 0 → (x.forward pa 32).all Option.isSome = false → x.injFree = true →
        (paKind pa ≠ .hbm ∨ x.lineToks pa ≠ [] ∨ s.cacheFind s.curCore (alignDown 64 pa) = none) →
      ∃ t, exec (.vld v a) s = .next t ∧ s.parksFor t (.vload v va (x.forward pa 32))
        ∧ s.injects t (.home (s.mkReq (if paKind pa = .hbm then .load else .fine 32) e va s.tok [])) (x.lineToks pa))

/-- Stores to global memory enter the write-combining buffer: a later load of the core is given their bytes, memory is as it was, and
the context goes on. A store to a line the buffer does not hold takes an entry, a store to a line it holds merges (R174, R351, R379). -/
def Obligations.GlobalStores : Prop :=
  ∀ (s : State) (ty : BitVec 3) (src : Reg) (v : Fin 16) (a : Addr) (e : TlbE),
    let va := s.ea a
    let pa := e.phys va
    let x := s.core s.curCore
    let done (i : Instr) (bs : List Byte) : Prop :=
      ((∀ w ∈ x.wcb, w.pa ≠ alignDown 64 pa ∧ w.tok < s.tok) → s.wcbUsed s.curCore < 8 →
        ∃ t, exec i s = .next t ∧ s.onlyPc t ∧ t.mem = s.mem ∧ (t.core s.curCore).forward pa bs.length = bs.map some
          ∧ (s.now + 256, Instr.wcIdleTimeout s.curCore (alignDown 64 pa)) ∈ t.agenda)
      ∧ (∀ w ∈ x.wcb, w.pa = alignDown 64 pa → w.closed = false → w.data.length = 64 → (∀ u ∈ x.wcb, u.pa = w.pa → u = w) →
        ∃ t, exec i s = .next t ∧ s.onlyPc t ∧ t.mem = s.mem
          ∧ (w.mask ||| lineMask (pa % 64) bs.length ≠ BitVec.allOnes 64 → (t.core s.curCore).forward pa bs.length = bs.map some))
    s.pageFits va attrW e →
    (s.ready [src, a.base] none = true → va % 2 ^ (ty.toNat / 2) = 0 →
      done (.st ty src a) (leBytes (2 ^ (ty.toNat / 2)) (s.srcVal src).toNat))
    ∧ (s.ready [a.base] none = true → va % 32 = 0 → done (.vst v a) (leBytes 32 (s.me.readV v).toNat))

/-- Stores into another core's scratchpad: a packet to the core the address names, not acknowledged yet, and the context goes on; ST and
VST send plain stores, RST its forms, .fe and .dw as releases in the SYNC class. A core that is no permitted target raises F_TEAM_BOUNDS,
an address that names no core F_BOUNDS (R160, R198, R346). -/
def Obligations.RemoteStores : Prop :=
  ∀ (s : State) (ty : BitVec 3) (k : RstKind) (src dw : Reg) (v : Fin 16) (a : Addr),
    let va := s.ea a
    let x := s.core s.curCore
    let n := 2 ^ (ty.toNat / 2)
    let sent (t : State) (cls : PktClass) (c : Nat) (b : PktBody) (rel : List Nat) : Prop :=
      s.injects t (.pkt (s.pktTo cls c b)) (s.me.barrier ++ rel) ∧ s.sends t (.remote c) ∧ s.onlyPc t ∧ t.mem = s.mem
    let open_ (c off : Nat) : Prop := apertureOf va = some (c, off) ∧ x.injFree = true ∧ ∃ t u, s.teamOf s.curCore = some (t, u) ∧ s.reaches u c = true
    (s.ready [src, a.base] none = true → isSteward s.curCore = false → va % n = 0 →
      (∀ c off, open_ c off → ∃ t, exec (.st ty src a) s = .next t ∧ sent t .data c (.store off (leBytes n (s.srcVal src).toNat)) [])
      ∧ (∀ c off t u, apertureOf va = some (c, off) → s.teamOf s.curCore = some (t, u) → s.reaches u c = false →
          exec (.st ty src a) s = .next (s.fault .teamBounds (BitVec.ofNat 64 va) 0))
      ∧ (isAperture va = true → apertureOf va = none → exec (.st ty src a) s = .next (s.fault .bounds (BitVec.ofNat 64 va) 0)))
    ∧ (s.ready [a.base] none = true → isSteward s.curCore = false → va % 32 = 0 →
      ∀ c off, open_ c off → ∃ t, exec (.vst v a) s = .next t ∧ sent t .data c (.store off (leBytes 32 (s.me.readV v).toNat)) [])
    ∧ (s.ready ([src, a.base] ++ (if k.hasDw then [dw] else [])) none = true → va % rstBytes k = 0 → ∀ c off, open_ c off →
      let q := (s.srcVal dw).toNat
      let data := leBytes (rstBytes k) (s.srcVal src).toNat
      ∃ t, exec (.rst k src dw a) s = .next t ∧ (match k with
        | .accF32 | .accI32 | .accF16 => sent t .data c (.acc (rstAcc k) off data none) []
        | .fe => sent t .sync c (.fe off (s.srcVal src)) ((s.releaseBound s.curCore s.curCtx (.fe c off)).2 ++ x.remoteToks s.curCtx)
        | .dw => sent t .sync c (.dw off (s.srcVal src) q) ((s.releaseBound s.curCore s.curCtx (.dw c q)).2 ++ x.remoteToks s.curCtx)
        | .accDwF32 | .accDwI32 | .accDwF16 =>
          sent t .sync c (.acc (rstAcc k) off data (some q)) ((s.releaseBound s.curCore s.curCtx (.dw c q)).2 ++ x.remoteToks s.curCtx)))

/-- The atomics send one request to the home of their word: HOLD parks for the word, HREL, RED and XSUM go on, XREAD leaves its register
pending; HOLD of a word the context holds, and HREL of one it does not, raise F_ILLEGAL with reason 0x0C (R312, R313, R341, R382, R381).
HREL of a word whose page has moved since the grant writes the new place, which is the model's choice (log entry 75). -/
def Obligations.Atomics : Prop :=
  ∀ (s : State) (fg : Bool) (op : RedOp) (ty : Ty) (dst src : Reg) (a : Addr) (e : TlbE),
    let va := s.ea a
    let pa := e.phys va
    (s.ready [a.base] (some dst) = true → va % 8 = 0 → s.pageFits va (attrR + attrW) e → paKind pa = .hbm → s.lineFree pa →
      (∀ h ∈ s.me.held, h.va ≠ va) → s.me.held.length < 2 →
      ∃ t, exec (.hold fg dst a) s = .next t ∧ s.parksFor t (.hold dst va pa)
        ∧ s.injects t (.home { s.mkReq .hold e va s.tok [] with fg := fg || hasAttr e.attr attrFG }) s.me.barrier ∧ t.mem = s.mem)
    ∧ (s.ready [a.base] (some dst) = true → va % 8 = 0 → isGlobal va = true → (∃ h ∈ s.me.held, h.va = va) →
      exec (.hold fg dst a) s = .next (s.fault .illegal 0 0x10C))
    ∧ (s.ready [src, a.base] none = true → va % 8 = 0 → s.pageFits va (attrR + attrW) e → paKind pa = .hbm →
      (s.core s.curCore).injFree = true → ∀ h, s.me.held.find? (fun h => h.va == va) = some h →
      ∃ t, exec (.hrel src a) s = .next t ∧ t.me.held = s.me.held.filter (fun k => k.va != va) ∧ s.sends t (.atomic pa va)
        ∧ (∃ q rel, s.injects t (.home q) rel
            ∧ (pa = h.pa → q.kind = .hrel ∧ q.pa = h.pa ∧ q.data = leBytes 8 (s.srcVal src).toNat)
            ∧ (pa ≠ h.pa → q.kind = .store (lineMask (pa % 64) 8) ∧ q.pa = alignDown 64 pa
                ∧ (q.data.drop (pa % 64)).take 8 = leBytes 8 (s.srcVal src).toNat)
            ∧ (∀ n ∈ (s.releaseBound s.curCore s.curCtx (.hw va)).2, n ∈ rel) ∧ (∀ n ∈ (s.core s.curCore).wcToks pa, n ∈ rel))
        ∧ s.me.regsKept t.me [.pc] ∧ t.mem = s.mem)
    ∧ (s.ready [src, a.base] none = true → va % 8 = 0 → (∀ h ∈ s.me.held, h.va ≠ va) →
      exec (.hrel src a) s = .next (s.fault .illegal 0 0x10C))
    ∧ (s.ready [src, a.base] none = true → s.pageFits va (attrR + attrW) e → s.lineFree pa → (paKind pa = .hbm ∨ ∃ l o, paKind pa = .peer l o) →
      (va % redBytes op = 0 → ∃ t, exec (.red op src a) s = .next t ∧ s.onlyPc t ∧ t.mem = s.mem ∧ s.sends t (.atomic pa va)
        ∧ s.injects t (.home (s.mkReq (.red op) e va s.tok (leBytes (redBytes op) (s.srcVal src).toNat))) s.me.barrier)
      ∧ (va % 64 = 0 → ∃ t, exec (.xsum ty src a) s = .next t ∧ s.onlyPc t ∧ t.mem = s.mem ∧ s.sends t (.atomic pa va)
        ∧ s.injects t (.home (s.mkReq (.xsum ty) e va s.tok (leBytes (ty.width / 8) (s.srcVal src).toNat))) s.me.barrier))
    ∧ (s.ready [a.base] (some dst) = true → va % 64 = 0 → s.pageFits va attrR e → s.lineFree pa →
      (paKind pa = .hbm ∨ ∃ l o, paKind pa = .peer l o) → s.me.pend.length < 8 →
      ∃ t, exec (.xread dst a) s = .next t ∧ s.onlyPc t ∧ t.mem = s.mem ∧ t.tok = s.tok + 1
        ∧ (∀ p, s.me.loc dst = some p → t.me.pend = s.me.pend ++ [⟨s.tok, p, false, none⟩])
        ∧ s.sends t (.xread pa va) ∧ s.injects t (.home (s.mkReq .xread e va s.tok [])) [])

/-! ### Blocks -/

/-- BPACK writes the block of its control word and elements: format, scales, presence bits, elements, every other byte of memory as it
was. BUNPK converts the block's elements from its base index on, an index past the block as zero (R287, R290). -/
def Obligations.Blocks : Prop :=
  ∀ (s : State) (all : Bool) (ty : Ty) (v : Fin 16) (ctl : Reg) (a : Addr),
    let va := s.ea a
    let cell := s.cellOf va
    let c := (s.srcVal ctl).toNat
    let el := (s.me.readV v).toNat + 2 ^ 256 * (s.me.readV (v + 1)).toNat
    Memory.wf s.mem = true → s.ready [a.base, ctl] none = true → s.localFits va 64 64 = true →
    (∀ is4, c < 2 ^ 24 → blockIs4 (c % 256) = some is4 → (blockIsInt (c % 256) = true → c / 256 % 256 = 127) →
      (c % 256 = 16 → c / 65536 = 127) → (is4 = false → c / 65536 = 0) → s.badPart cell 64 = false →
      s.feedHazard s.curCore va 64 = false →
      ∃ t, exec (.bpack all v ctl a) s = .next t ∧ s.memKept t cell 64 ∧ s.onlyPc t
        ∧ memRead t.mem cell = BitVec.ofNat 8 c ∧ memRead t.mem (cell + 1) = BitVec.ofNat 8 (c / 256)
        ∧ (let blk := memLe t.mem 64 cell
           (is4 = false → ∀ i, i < 48 → blk / 2 ^ (64 + 8 * i) % 256 = el / 2 ^ (8 * i) % 256
              ∧ blk.testBit (16 + i) = (all || decide (el / 2 ^ (8 * i) % 256 ≠ 0)))
           ∧ (is4 = true → memRead t.mem (cell + 62) = BitVec.ofNat 8 (c / 65536) ∧ ∀ i, i < 96 → blk / 2 ^ (112 + 4 * i) % 16 = el / 2 ^ (4 * i) % 16
              ∧ blk.testBit (16 + i) = (all || decide (el / 2 ^ (4 * i) % 16 ≠ 0)))))
    ∧ (∀ ls, s.badIn cell 64 = false → c < 2 ^ 11 → c / 128 % 2 = 0 → (blockIs4 (memLe s.mem 1 cell)).isSome = true →
      (8 ≤ memLe s.mem 1 cell → memLe s.mem 1 cell < 16 → ty.isInt = true) → unpackBlock ty (memLe s.mem 64 cell) c = some ls →
      ∃ t r, exec (.bunpk ty v ctl a) s = .next t
        ∧ t = ((s.taken [a.base, ctl] none).modMe (fun x => (x.writeV v r).raise (flagsAll (ls.map (·.2))))).advance
        ∧ (∀ j, j < 256 / ty.width → vLane ty.width r j = BitVec.ofNat ty.width (ls.getD j (0, Flags.zero)).1)
        ∧ (∀ j, j < 256 / ty.width → (if blockIs4 (memLe s.mem 1 cell) = some true then 96 else 48) ≤ c % 128 + j → vLane ty.width r j = 0))

/-! ### Ordering, bindings, releases and chainage -/

/-- FENCE waits behind a marker for what its kind and scope name, FENCE.R.core and FENCE.A.core only advance, FENCE.A empties the read
cache; SPFENCE parks, and its reply advances the generation; a nonempty fault log raises F_ASYNC before a FENCE or RLS (R309, R350, R243). -/
def Obligations.Fences : Prop :=
  ∀ (s : State) (k : FenceKind) (sc : Scope),
    let x := s.core s.curCore
    let wcs := x.unacked.filterMap (fun u => match u.kind with
      | .wc _ _ => some u.tok
      | _ => none)
    (s.me.flogn = 0 →
      (sc = .core → exec (.fence .r sc) s = .next s.advance ∧ exec (.fence .a sc) s = .next s.advance)
      ∧ (sc ≠ .core → (∃ t, exec (.fence .a sc) s = .next t ∧ (t.cluster (clusterOf s.curCore)).lines = [] ∧ s.onlyPc t ∧ t.mem = s.mem)
        ∧ (x.injFree = true → ∃ t, exec (.fence .r sc) s = .next t ∧ s.parksFor t .none ∧ t.mem = s.mem
            ∧ s.injects t (.marker s.curCtx s.tok) (x.wcb.map (·.tok) ++ wcs ++ x.atomicToks s.curCtx)))
      ∧ (x.injFree = true → ∃ t, exec (.fence .x sc) s = .next t ∧ s.parksFor t .none ∧ t.mem = s.mem
          ∧ ∃ toks, s.injects t (.marker s.curCtx s.tok) toks ∧ ∀ n, n ∈ toks ↔ ∃ u ∈ x.unacked, u.tok = n ∧ s.curCtx ∈ u.ctxs
              ∧ ∃ d, u.kind = .remote d ∧ inScope s.curCore d sc = true))
    ∧ (s.me.flogn ≠ 0 → exec (.fence k sc) s = .next (s.fault .async (BitVec.ofNat 64 (s.logBase s.curCore s.curCtx)) (BitVec.ofNat 64 s.me.flogn)))
    ∧ (∃ t, exec .spfence s = .next t ∧ s.parksFor t .generation ∧ t.mem = s.mem
        ∧ (s.now + 1, Instr.replyWrite s.curCore s.curCtx s.tok .done) ∈ t.agenda)

/-- ACQ, RLS, BIND and UNBIND on an object their operand names: ACQ drops the read-cache lines of the ranges bound to it; RLS makes later
writes of the context wait for what it drains; BIND and UNBIND change a slot from 8 cycles on. An operand not aligned to its object raises
F_ALIGN (R281, R344, R286, R358, R279). -/
def Obligations.AcquireRelease : Prop :=
  ∀ (s : State) (o : ObjRef) (i : Obj),
    let v : Nat := (((ObjRef.regs o).map s.srcVal).getD 0 0).toNat
    (s.ready (ObjRef.regs o) none = true → s.ident o v = .ok i →
      exec (.acq o) s = .next ((s.taken (ObjRef.regs o) none).acquire s.curCore i).advance
      ∧ (∀ b ∈ (s.core s.curCore).boundTo s.now i, ∀ l ∈ (((s.taken (ObjRef.regs o) none).acquire s.curCore i).cluster (clusterOf s.curCore)).lines,
          ¬ (l.space = s.spaceOf s.curCore ∧ b.base < l.va + 64 ∧ l.va < b.base + 64 * b.lines))
      ∧ (s.me.flogn = 0 → ∃ t, exec (.rls o) s = .next t ∧ s.onlyPc t ∧ t.mem = s.mem
          ∧ (∀ n ∈ (s.releaseBound s.curCore s.curCtx i).2, n ∈ t.me.barrier)
          ∧ (∀ n ∈ s.me.barrier, (s.core s.curCore).tokOut n = true → n ∈ t.me.barrier)))
    ∧ (∀ (slot : BitVec 4) (base : Reg) (lines : BitVec 20),
        let b := (s.srcVal base).toNat
        let v' : Nat := ((((base :: ObjRef.regs o).map s.srcVal).getD 1 0)).toNat
        s.ready (base :: ObjRef.regs o) none = true → lines ≠ 0 →
        (b % 64 = 0 → Config.globalBase ≤ b → b + 64 * lines.toNat ≤ Config.vaTop → s.ident o v' = .ok i →
          ∃ t, exec (.bind slot base lines o) s = .next t ∧ s.onlyPc t ∧ t.mem = s.mem
            ∧ (t.core s.curCore).slot (s.now + 8) slot.toNat = some ⟨b, lines.toNat, i⟩
            ∧ (∀ k, k ≠ slot.toNat → (t.core s.curCore).slot s.now k = (s.core s.curCore).slot s.now k))
        ∧ (b % 64 ≠ 0 → exec (.bind slot base lines o) s = .next (s.fault .align (BitVec.ofNat 64 b) 0)))
    ∧ (∀ (slot : BitVec 4), ∃ t, exec (.unbind slot) s = .next t ∧ s.onlyPc t ∧ t.mem = s.mem
        ∧ (t.core s.curCore).slot (s.now + 8) slot.toNat = none)
    ∧ (∀ r, v % 8 ≠ 0 → o = .hw r ∨ o = .fe r → s.ready [r] none = true → exec (.acq o) s = .next (s.fault .align (BitVec.ofNat 64 v) 0))

/-- TRIG, CSTAGE and TRAP hold a release of every earlier write: TRIG marks the context once and a second does nothing, CSTAGE records its
stage, TRAP parks for the steward's answer; CHREAD puts a counter; CHWAIT goes on once its counter is reached, parks before, and refuses a
number not assigned yet (R357, R298, R356, R294, R293). -/
def Obligations.ReleasesAndChainage : Prop :=
  ∀ (s : State) (st : BitVec 16) (dst src : Reg) (svc : BitVec 8) (sel : BitVec 4),
    let rel := s.releaseAll s.curCore s.curCtx
    let n := (s.srcVal src).toNat
    (s.me.trig = true → exec .trig s = .next s.advance)
    ∧ (∀ k u, s.teamOf s.curCore = some (k, u) →
        (s.me.trig = false → ∃ t, exec .trig s = .next t ∧ t.me.trig = true ∧ t.mem = s.mem ∧ s.me.regsKept t.me [.pc]
            ∧ ∃ v, t.teams.find k = some v ∧ v.trigs = u.trigs ++ [(s.curCore, s.curCtx, rel.2.1, rel.2.2)])
        ∧ (∃ t, exec (.cstage st) s = .next t ∧ s.onlyPc t ∧ t.mem = s.mem
            ∧ ∃ v, t.teams.find k = some v ∧ v.stages = u.stages ++ [(s.curCore, s.curCtx, st.toNat, rel.2.1, rel.2.2)])
        ∧ (s.ready [src] (some dst) = true → isSteward s.curCore = false →
            ∃ t, exec (.trap dst svc src) s = .next t ∧ s.parksFor t (.answer dst) ∧ t.mem = s.mem
              ∧ t.svcHeld = s.svcHeld ++ [(⟨s.tok, s.curCore, s.curCtx, svc.toNat, u.node, u.slot, s.srcVal src⟩, rel.2.1, rel.2.2)]))
    ∧ (s.ready [src] (some dst) = true → isSteward s.curCore = true → exec (.trap dst svc src) s = .next (s.fault .illegal 0 0x10C))
    ∧ (s.ready [] (some dst) = true →
        exec (.chread dst sel) s = .next (s.result [] dst (BitVec.ofNat 64 (s.counter s.curCore sel.toNat))))
    ∧ (s.ready [src] none = true → ∀ m, s.assigned s.curCore sel.toNat = some m → sel.toNat < 8 →
        (n ≤ s.counter s.curCore sel.toNat → n ≤ m →
          exec (.chwait sel src) s = .next ((s.taken [src] none).acquire s.curCore (.ch sel.toNat)).advance)
        ∧ (s.counter s.curCore sel.toNat < n → n ≤ m → ∃ t, exec (.chwait sel src) s = .next t ∧ t.me.pc = s.me.pc
            ∧ t.me.park = some (.cond (.counter sel.toNat n) s.curBundle))
        ∧ (m < n → exec (.chwait sel src) s = .next (s.fault .illegal 0 0x10C)))
    ∧ (s.ready [src] none = true → 8 ≤ sel.toNat → n ≤ s.counter s.curCore sel.toNat →
        (s.eng (linkId s.curCore (dirOf (sel.toNat - 8)))).st ≠ .suspended →
        ((s.eng (linkId s.curCore (dirOf (sel.toNat - 8)))).end_ (!isNear (dirOf (sel.toNat - 8)))).fault = none →
        exec (.chwait sel src) s = .next ((s.taken [src] none).acquire s.curCore (.ch sel.toNat)).advance)

/-- COPY, GATHER and SCATTER with a descriptor that passes R191 take the copy context's next number and go on; a register destination is
pending under that command, and z gets none. A descriptor that fails raises F_FORMAT with the lowest bit of the field, a full copy context
parks (R297, R311, R347, R191, R194). -/
def Obligations.CopyCommands : Prop :=
  ∀ (s : State) (dst base : Reg) (disp : BitVec 16) (swz : Bool) (fill : BitVec 8),
    let a := effAddr16 (s.srcVal base) disp
    let d := memLe s.mem 64 (s.cellOf a)
    let x := s.core s.curCore
    let go (i : Instr) (kind : CmdKind) (swz : Bool) (fill : Byte) : Prop :=
      (cmdBad kind swz d = none → x.cmds.length < 16 → (dst ≠ .z → s.me.pend.length < 8) →
        ∃ t c, exec i s = .next t ∧ s.onlyPc t ∧ t.mem = s.mem
          ∧ (t.core s.curCore).cmds = x.cmds ++ [c] ∧ (t.core s.curCore).copyNum = x.copyNum + 1 ∧ t.me.lastCopy = x.copyNum + 1
          ∧ c.kind = kind ∧ c.desc = d ∧ c.swz = swz ∧ c.fill = fill ∧ c.ctx = s.curCtx ∧ c.num = x.copyNum + 1 ∧ c.active = false
          ∧ c.after = s.me.barrier ∧ c.tok = (if dst = .z then none else some s.tok) ∧ t.tok = s.tok + 1
          ∧ (∀ p, s.me.loc dst = some p → t.me.pend = s.me.pend ++ [⟨s.tok, p, false, none⟩]) ∧ (dst = .z → t.me.pend = s.me.pend))
      ∧ (∀ b, cmdBad kind swz d = some b → exec i s = .next (s.fault .format (BitVec.ofNat 64 a) (BitVec.ofNat 64 b)))
      ∧ (cmdBad kind swz d = none → 16 ≤ x.cmds.length → ∃ t, exec i s = .next t ∧ t.me.park = some (.cond .copyQ s.curBundle)
          ∧ t.me.pc = s.me.pc)
    s.ready [base] (some dst) = true → s.localFits a 64 64 = true → s.badIn (s.cellOf a) 64 = false →
      go (.copy dst base disp swz) .copy swz 0 ∧ go (.gather dst base disp swz fill) .gather swz fill
      ∧ go (.scatter dst base disp) .scatter false 0

/-! ### Links and engines -/

/-- LEASE leaves its register pending and queues the request at its die behind those of its priority, or answers at once that the link is
harvested, outside the team, or leased already; UNLEASE withdraws a queued request, ends an idle engine's lease, or is recorded (R318, R359). That it
withdraws the queued re-lease of an engine saved idle is the model's reading (log entry 30). -/
def Obligations.LeaseAndUnlease : Prop :=
  ∀ (s : State) (dst : Reg) (d : Dir) (pri : BitVec 2),
    let l := s.linkOf d
    let e := s.engOf d
    let die := l / 1152
    (s.ready [] (some dst) = true → s.me.pend.length < 8 →
      let out := if s.linkHarvested s.curCore d then 1 else if s.linkOutside s.curCore d then 2
        else if e.lease.isSome ∨ s.leaseQueued l then 3 else 0
      ∃ t, exec (.lease dst d pri) s = .next t ∧ s.onlyPc t ∧ t.mem = s.mem ∧ t.tok = s.tok + 1
        ∧ (∀ p, s.me.loc dst = some p → t.me.pend = s.me.pend ++ [⟨s.tok, p, false, none⟩])
        ∧ (out ≠ 0 → (s.now + 8, Instr.pendingCompletionWrite s.curCore s.curCtx s.tok (leaseWord out pri.toNat 0 l)) ∈ t.agenda)
        ∧ (out = 0 → ∃ q, Table.get [] (t.die die).fifos pri.toNat = Table.get [] (s.die die).fifos pri.toNat ++ [q]
            ∧ q.link = l ∧ q.core = s.curCore ∧ q.ctx = s.curCtx ∧ q.tok = s.tok ∧ q.pri = pri.toNat ∧ q.at_ = s.now))
    ∧ (∀ k, s.linkClear d → (s.core s.curCore).team = some k →
      (∀ r, s.queuedReq l = some r → r.team = k → r.restore = false →
        exec (.unlease d) s = .next ((s.unqueue l).complete r.core r.ctx r.tok (leaseWord 4 r.pri (s.now - r.at_) l)).advance)
      ∧ (∀ r, s.queuedReq l = some r → r.team = k → r.restore = true → e.st = .dormant →
        exec (.unlease d) s = .next (((s.unqueue l).modTeam k (fun u => { u with saved := u.saved.filter (fun v => v.1 != l) })).advance))
      ∧ (s.queuedReq l = none → (∀ z, e.lease = some z → z.team ≠ k) → exec (.unlease d) s = .next s.advance)
      ∧ (∀ z, s.queuedReq l = none → e.lease = some z → z.team = k → e.unl = false →
        (e.near.opened = true ∨ e.far.opened = true ∨ e.st = .suspended →
          ∃ t, exec (.unlease d) s = .next t ∧ t.eng l = { e with unl := true } ∧ s.onlyPc t ∧ t.mem = s.mem)
        ∧ (e.near.opened = false → e.far.opened = false → e.st ≠ .suspended → e.st ≠ .waking → e.token = true →
          ∃ t, exec (.unlease d) s = .next t ∧ (t.eng l).st = .dormant ∧ (t.eng l).lease = none
            ∧ (t.die die).free = (s.die die).free + 1 ∧ s.onlyPc t ∧ t.mem = s.mem)))
    ∧ (s.linkHarvested s.curCore d = true → exec (.unlease d) s = .next (s.fault .teamBounds 0 0))

/-- LKOPEN of a free end with a legal descriptor opens it for its context, with the register pending, and the first open of an idle engine
leaves it open-pending; of an opened end it raises F_ILLEGAL, against the link order F_RZV_ORDER, of a bad descriptor F_FORMAT. LKCLOSE by
the party of an open-pending or done engine closes the end (R326, R106, R109, R323). -/
def Obligations.OpenAndClose : Prop :=
  ∀ (s : State) (dst base : Reg) (d : Dir) (roleB : Bool) (disp : BitVec 16),
    let a := effAddr16 (s.srcVal base) disp
    let l := s.linkOf d
    let far := !isNear d
    let desc := memLe s.mem 64 (s.cellOf a)
    let e := s.engOf d
    s.linkClear d →
    (s.ready [base] (some dst) = true → s.localFits a 64 64 = true → s.badIn (s.cellOf a) 64 = false →
      (s.descBad desc roleB = none → (s.endOf d).opened = false → s.heldLinks.length < 2 → (∀ h ∈ s.heldLinks, h < l) → s.me.pend.length < 8 →
        (e.end_ (!far)).isOpen = false →
        ∃ t, exec (.lkopen dst base d roleB disp) s = .next t ∧ s.onlyPc t ∧ t.mem = s.mem
          ∧ (let x := (t.eng l).end_ far
             x.isOpen = true ∧ x.party = s.meId ∧ x.roleB = roleB ∧ x.desc = desc ∧ x.addr = a ∧ x.tok = some s.tok ∧ x.feeds = [])
          ∧ (t.eng l).st = (if e.st = .idle then .openPending else e.st)
          ∧ (∀ p, s.me.loc dst = some p → t.me.pend = s.me.pend ++ [⟨s.tok, p, true, none⟩]))
      ∧ (s.descBad desc roleB = none → (s.endOf d).opened = true →
          exec (.lkopen dst base d roleB disp) s = .next (s.fault .illegal 0 0x10C))
      ∧ (s.descBad desc roleB = none → (s.endOf d).opened = false → (2 ≤ s.heldLinks.length ∨ ∃ h ∈ s.heldLinks, l ≤ h) →
          exec (.lkopen dst base d roleB disp) s
            = .next (s.fault .rzvOrder (BitVec.ofNat 64 a) (BitVec.ofNat 64 (detailWord l far e.prod e.kdone 0))))
      ∧ (∀ b, s.descBad desc roleB = some b →
          exec (.lkopen dst base d roleB disp) s = .next (s.fault .format (BitVec.ofNat 64 a) (BitVec.ofNat 64 b))))
    ∧ (s.isParty d → e.st = .done → (s.endOf d).tok = none → (e.end_ (!far)).isOpen = true →
        ∃ t, exec (.lkclose d) s = .next t ∧ s.onlyPc t ∧ t.mem = s.mem ∧ ((t.eng l).end_ far).isOpen = false
          ∧ ((t.eng l).end_ (!far)).isOpen = true ∧ (t.eng l).st = .done)
    ∧ (s.isParty d → e.st = .openPending → (e.end_ (!far)).isOpen = false → e.unl = false →
        ∃ t, exec (.lkclose d) s = .next t ∧ t.mem = s.mem ∧ ((t.eng l).end_ far).isOpen = false ∧ (t.eng l).st = .idle
          ∧ ((s.endOf d).tok = none → s.onlyPc t))
    ∧ ((s.endOf d).holder s.meId = false → (s.endOf d).last ≠ some s.meId → exec (.lkclose d) s = .next (s.fault .illegal 0 0x10C))

/-- LKFEED queues its lines behind the end's feeds under the engine's next number, LKSPARSE its configuration, LKDRAIN.now a copy of the
tile, LKDRAIN with a descriptor the tile held after a drain fault; the fifth feed parks; LKDRAIN.now parks while the engine is suspended; a
context that is no party raises F_ILLEGAL (R325, R327, R324, R194). -/
def Obligations.FeedsAndDrains : Prop :=
  ∀ (s : State) (d : Dir) (handle : BitVec 4) (base : Reg) (bdisp : BitVec 6) (stride : BitVec 12) (count : BitVec 16) (c : SparseCfg)
    (disp : BitVec 16),
    let l := s.linkOf d
    let far := !isNear d
    let e := s.engOf d
    let x := s.endOf d
    let b := (s.srcVal base + BitVec.ofNat 64 (64 * bdisp.toNat)).toNat
    let n := if dIsBlock x.desc then (count.toNat - 1) * 64 + 31 * (64 * stride.toNat) + 64 else (count.toNat - 1) * (64 * stride.toNat) + 64
    s.linkClear d → s.isParty d →
    (s.ready [base] none = true → count ≠ 0 → b % 64 = 0 → b + n ≤ Config.spadSize → s.touchesStacks s.curCore b n = false →
      (e.formed = true → x.fed + count.toNat * dBlock x.desc ≤ e.kLen * (e.pm1 + 1)) →
      (x.feeds.length < 4 → e.lastB = none → ∃ t f, exec (.lkfeed d handle base bdisp stride count) s = .next t ∧ s.onlyPc t ∧ t.mem = s.mem
        ∧ ((t.eng l).end_ far).feeds = x.feeds ++ [f] ∧ (t.eng l).num = e.num + 1 ∧ f.num = e.num + 1 ∧ f.handle = handle.toNat ∧ f.base = b
        ∧ f.stride = 64 * stride.toNat ∧ f.count = count.toNat ∧ f.pos = 0)
      ∧ (4 ≤ x.feeds.length → ∃ t, exec (.lkfeed d handle base bdisp stride count) s = .next t ∧ t.me.pc = s.me.pc
        ∧ t.me.park = some (.cond (.feedQ d) s.curBundle)))
    ∧ (∀ bound : Option Reg, s.ready bound.toList none = true → c.sideB = x.roleB →
      let bn : BitVec 32 := ((bound.map s.srcVal).getD 0).setWidth 32
      (c.t ≠ 0 → e.sideActive s.now (!c.sideB) = false ∧ (∀ k ∈ e.cfgB, k.at_ ≠ s.now)
        ∧ (∀ k ∈ e.spLater, k.1 = true → k.2.at_ ≠ s.now) ∧ dK x.desc % nmM c.nm.toNat = 0
        ∧ (c.mode = 2 → dec32 bn.toNat ≠ .nan ∧ (numIsNeg (dec32 bn.toNat) = true → numIsZero (dec32 bn.toNat) = true))
        ∧ (x.roleB = false → fld x.desc 111 96 = 0) ∧ (x.roleB = true → e.formed = true → e.kspl = 0)) →
      ∃ t k, exec (.lksparse d c bound) s = .next t ∧ s.onlyPc t ∧ t.mem = s.mem ∧ k.t = c.t.toNat ∧ k.nm = c.nm.toNat ∧ k.mode = c.mode.toNat
        ∧ k.bound = bn ∧ k.at_ = s.now
        ∧ (if e.st = .suspended then (t.eng l).spLater = e.spLater ++ [(c.sideB, k)]
           else if c.sideB then (t.eng l).cfgB = e.cfgB ++ [k] else (t.eng l).cfgA = e.cfgA ++ [k]))
    ∧ (x.roleB = false → e.st = .running → ∃ t, exec (.lkdrain d .now) s = .next t ∧ s.onlyPc t ∧ t.mem = s.mem
        ∧ (t.eng l).copies = e.copies ++ [e.num + 1] ∧ (t.eng l).num = e.num + 1)
    ∧ (x.roleB = false → e.st ≠ .running → e.st ≠ .suspended → exec (.lkdrain d .now) s = .next (s.fault .illegal 0 0x10C))
    ∧ (x.roleB = false → e.st = .suspended → ∃ t, exec (.lkdrain d .now) s = .next t ∧ t.me.pc = s.me.pc ∧ t.mem = s.mem
        ∧ t.me.park = some (.cond (.restored d) s.curBundle))
    ∧ (x.roleB = true → exec (.lkdrain d .now) s = .next (s.fault .illegal 0 0x10C))
    ∧ (let a := effAddr16 (s.srcVal base) disp
       let desc := memLe s.mem 64 (s.cellOf a)
       ∀ h, s.ready [base] none = true → x.roleB = false → e.st ≠ .suspended → s.localFits a 64 64 = true → s.badIn (s.cellOf a) 64 = false →
        e.heldTile = some h → (∀ r ∈ rsvRecv, fld desc r.1 r.2 = 0) →
        ∃ t w, exec (.lkdrain d (.redrain base disp)) s = .next t ∧ s.onlyPc t ∧ t.mem = s.mem ∧ (t.eng l).recv = fld desc 255 128
          ∧ (t.eng l).heldTile = none ∧ (e.held = none → w = 0)
          ∧ (t.eng l).drains = ({ h with due := s.now } :: e.drains).map (fun v => { v with due := v.due + w }))

/-- LKSTAT puts a status word; LKWAIT goes on when its condition holds and parks while it does not; CBLOAD and EPLOAD load a codebook of
this end and an epilogue image; a dormant engine refuses them, and at a suspended one the context parks with what it read, which the load
then takes (R328, R329, R292, R305). -/
def Obligations.EngineReadsAndLoads : Prop :=
  ∀ (s : State) (dst base : Reg) (d : Dir) (w : Fin 3) (c : LkCond) (slot : BitVec 3) (eslot : Bool) (disp : BitVec 16),
    let l := s.linkOf d
    let far := !isNear d
    let e := s.engOf d
    let x := s.endOf d
    let a := effAddr16 (s.srcVal base) disp
    let cell := s.cellOf a
    s.linkClear d →
    (s.ready [] (some dst) = true → exec (.lkstat dst d w) s = .next (s.result [] dst (BitVec.ofNat 64 (s.statusWord l far w.val))))
    ∧ (s.me.prodRec = none →
      (e.lkHolds c (e.prods % 2 ^ 16) = true → exec (.lkwait d c) s = .next s.advance)
      ∧ (e.lkHolds c (e.prods % 2 ^ 16) = false → x.opened = true → ∃ t, exec (.lkwait d c) s = .next t ∧ t.me.pc = s.me.pc
          ∧ t.me.park = some (.cond (.lk d c (e.prods % 2 ^ 16)) s.curBundle) ∧ t.me.prodRec = some (e.prods % 2 ^ 16, true))
      ∧ (e.lkHolds c (e.prods % 2 ^ 16) = false → x.opened = false → c ≠ .idle → exec (.lkwait d c) s = .next (s.fault .illegal 0 0x10C)))
    ∧ (s.ready [base] none = true → x.opened = false ∨ x.holder s.meId = true → ∀ v, s.me.image = some v →
      (e.st ≠ .dormant → e.st ≠ .suspended →
        (∃ t, exec (.cbload d slot base disp) s = .next t ∧ s.onlyPc t ∧ t.mem = s.mem
          ∧ Table.get [] ((t.eng l).end_ far).books slot.toNat = (List.range 16).map (fun k => BitVec.ofNat 16 (v / 2 ^ (16 * k))))
        ∧ (imageOk v = true → e.st ≠ .waking → ∃ t, exec (.epload d eslot base disp) s = .next t ∧ s.onlyPc t ∧ t.mem = s.mem
            ∧ (t.eng l).imageAt (s.now + 8) eslot.toNat = some (leBytes 640 v))))
    ∧ (s.ready [base] none = true → x.opened = false ∨ x.holder s.meId = true → s.me.image = none →
      (s.localFits a 32 32 = true → s.badIn cell 32 = false → e.st = .suspended →
        ∃ t, exec (.cbload d slot base disp) s = .next t ∧ t.mem = s.mem ∧ t.me.pc = s.me.pc
          ∧ t.me.park = some (.cond (.restored d) s.curBundle) ∧ t.me.image = some (memLe s.mem 32 cell))
      ∧ (s.localFits a 640 64 = true → s.badIn cell 640 = false → imageOk (memLe s.mem 640 cell) = true → e.st = .suspended →
        ∃ t, exec (.epload d eslot base disp) s = .next t ∧ t.mem = s.mem ∧ t.me.pc = s.me.pc
          ∧ t.me.park = some (.cond (.restored d) s.curBundle) ∧ t.me.image = some (memLe s.mem 640 cell))
      ∧ (s.localFits a 32 32 = true → s.badIn cell 32 = false →
        (e.st ≠ .dormant → e.st ≠ .suspended →
          ∃ t, exec (.cbload d slot base disp) s = .next t ∧ s.onlyPc t ∧ t.mem = s.mem
            ∧ ∃ book, Table.get [] ((t.eng l).end_ far).books slot.toNat = book ∧ book.length = 16
              ∧ ∀ k, k < 16 → book.getD k 0 = BitVec.ofNat 16 (memLe s.mem 2 (cell + 2 * k)))
        ∧ (e.st = .dormant → exec (.cbload d slot base disp) s = .next (s.fault .illegal 0 0x10C)))
      ∧ (s.localFits a 640 64 = true → s.badIn cell 640 = false → imageOk (memLe s.mem 640 cell) = true →
        (e.st ≠ .dormant → e.st ≠ .suspended → e.st ≠ .waking →
          ∃ t, exec (.epload d eslot base disp) s = .next t ∧ s.onlyPc t ∧ t.mem = s.mem
            ∧ (t.eng l).imageAt (s.now + 8) eslot.toNat = some (memBytes s.mem 640 cell))
        ∧ (e.st = .waking → e.epLater = [] → ∃ t, exec (.epload d eslot base disp) s = .next t ∧ s.onlyPc t ∧ t.mem = s.mem
            ∧ (t.eng l).imageAt s.now eslot.toNat = some (memBytes s.mem 640 cell))
        ∧ (e.st = .dormant → exec (.epload d eslot base disp) s = .next (s.fault .illegal 0 0x10C)))
      ∧ (s.localFits a 640 64 = true → s.badIn cell 640 = false → imageOk (memLe s.mem 640 cell) = false →
          exec (.epload d eslot base disp) s = .next (s.fault .illegal 0 0x10C)))

/-! ### Queues and levelling -/

/-- QBIND binds from 8 cycles on, marks and unmarks free contexts, and is refused to contexts other than 0; a queue push spends a credit
and travels 8 cycles, a pop returns one; QCTL pushes a control value; QHND sets the handler of a direction bound to its context; LVSET starts
a declared controller, LVREAD puts its word; an undeclared one raises F_COUPLING (R338, R148, R339, R340, R332, R331). -/
def Obligations.QueuesAndLevelling : Prop :=
  ∀ (s : State) (d : Dir) (n : BitVec 4) (src dst : Reg) (ctl : BitVec 3) (op : QBindOp),
    let k := s.curCore
    let x := s.core k
    (s.curCtx = 0 →
      (s.linkHarvested k d = false → s.linkOutside k d = false → (∀ e ∈ x.lev.cells, e.2.en = true → e.2.fifo = false → e.2.dir ≠ d) →
        (∃ t, exec (.qbind (.bind d n)) s = .next t ∧ s.onlyPc t ∧ t.mem = s.mem ∧ (t.core k).owner (s.now + 8) d = some n.toNat
          ∧ ∀ d', (t.core k).owner s.now d' = x.owner s.now d')
        ∧ (∃ t, exec (.qbind (.unbind d)) s = .next t ∧ s.onlyPc t ∧ t.mem = s.mem ∧ (t.core k).owner (s.now + 8) d = none))
      ∧ (∃ t, exec (.qbind (.free n)) s = .next t ∧ t.mem = s.mem ∧ n.toNat ∈ (t.core k).free
          ∧ ((s.now / 16 + 1) * 16, 16) ∈ (t.ctx k n.toNat).nextWeights
          ∧ ((s.now / 16 + 1) * 16, Instr.weightTakesEffect k n.toNat) ∈ t.agenda)
      ∧ (n.toNat ∉ x.essential → ∃ t, exec (.qbind (.nofree n)) s = .next t ∧ t.mem = s.mem ∧ n.toNat ∉ (t.core k).free)
      ∧ (n.toNat ∈ x.essential → exec (.qbind (.nofree n)) s = .next (s.fault .coupling 0 (BitVec.ofNat 64 n.toNat))))
    ∧ (s.curCtx ≠ 0 → exec (.qbind op) s = .next (s.fault .illegal 0 0x10C))
    ∧ (s.ready [src] (some (.q d)) = true →
        exec (.qctl d src) s = .next ((s.taken [src] (some (.q d))).pushQ k d ⟨s.srcVal src, true⟩).advance)
    ∧ (∀ v, (s.spendQ k d).core k = { x with credits := x.credits.set (dirNum d) (x.credit d - 1) }
        ∧ (s.now + 8, Instr.queueEntryArrive (neighbour k d) (dirOpp d)) ∈ (s.pushQ k d v).agenda
        ∧ ((s.popQ k d).core k).inq d = (x.inq d).tail
        ∧ (s.now + 8, Instr.creditReturn (neighbour k d) (dirOpp d)) ∈ (s.popQ k d).agenda)
    ∧ (s.ready [src] none = true → x.owner s.now d = some s.curCtx →
        ((s.srcVal src).toNat % 4 = 0 → ∃ t, exec (.qhnd d src) s = .next t ∧ s.onlyPc t ∧ t.mem = s.mem
            ∧ (t.core k).handler d = s.srcVal src)
        ∧ ((s.srcVal src).toNat % 4 ≠ 0 → exec (.qhnd d src) s = .next (s.fault .align (s.srcVal src) 0)))
    ∧ (∀ l p, x.levOf ctl.toNat = some l → p.setp.toNat ≤ 16 → (16 * (p.pq.toNat + 1) < 64 → p.gp ≠ 0 ∧ p.gi ≠ 0) →
        ∃ t c, exec (.lvset ctl (some p)) s = .next t ∧ t.mem = s.mem ∧ (t.core k).levOf ctl.toNat = some c
          ∧ c.en = true ∧ c.setp = p.setp.toNat ∧ c.gp = p.gp.toNat ∧ c.gi = p.gi.toNat ∧ c.wp0 = p.wp.toNat + 1 ∧ c.wc0 = p.wc.toNat + 1
          ∧ c.period = 16 * (p.pq.toNat + 1) ∧ c.integ = 0 ∧ c.n = 0 ∧ c.nextAt % 16 = 0 ∧ s.now + c.period ≤ c.nextAt
          ∧ c.nextAt < s.now + c.period + 16 ∧ (c.nextAt, Instr.levellingSample k ctl.toNat) ∈ t.agenda)
    ∧ (∀ l, x.levOf ctl.toNat = some l → ∃ t c, exec (.lvset ctl none) s = .next t ∧ t.mem = s.mem
          ∧ (t.core k).levOf ctl.toNat = some c ∧ c.en = false)
    ∧ (∀ l, s.ready [] (some dst) = true → x.levOf ctl.toNat = some l →
        exec (.lvread dst ctl) s = .next (s.result [] dst (BitVec.ofNat 64 (levWord l))))
    ∧ (x.levOf ctl.toNat = none → exec (.lvset ctl none) s = .next (s.fault .coupling 0 (BitVec.ofNat 64 ctl.toNat))
        ∧ (s.ready [] (some dst) = true → exec (.lvread dst ctl) s = .next (s.fault .coupling 0 (BitVec.ofNat 64 ctl.toNat))))

/-! ### System registers -/

/-- The registers SYSRD reads in any context, and what SYSWR writes there; a register that is not in the map raises F_ILLEGAL with reason
0x09, a privileged one on a compute core F_PRIV (R354, R355). -/
def Obligations.SystemRegisters : Prop :=
  ∀ (s : State) (dst src : Reg) (sreg : BitVec 12),
    let n := sreg.toNat
    let st := isSteward s.curCore
    let k := s.curCore - Config.cores
    let v := s.srcVal src
    (s.ready [] (some dst) = true →
      let rd (m : Nat) (w : Word) : Prop := n = m → exec (.sysrd dst sreg) s = .next (s.result [] dst w)
      rd 0x001 (BitVec.ofNat 64 (flagsWord s.me.flags)) ∧ rd 0x002 (BitVec.ofNat 64 s.me.flogn)
      ∧ rd 0x003 (BitVec.ofNat 64 (s.logBase s.curCore s.curCtx)) ∧ rd 0x004 (BitVec.ofNat 64 s.now)
      ∧ (st = false → rd 0x005 (BitVec.ofNat 64 s.me.weight) ∧ ∀ t u, s.teamOf s.curCore = some (t, u) → rd 0x000 (BitVec.ofNat 64 u.lr.nbv))
      ∧ (st = true → rd 0x011 (BitVec.ofNat 64 s.evictwait) ∧ rd 0x012 (BitVec.ofNat 64 s.preemptwait) ∧ rd 0x013 (BitVec.ofNat 64 s.escwait)
          ∧ rd 0x010 (BitVec.ofNat 64 s.dbghz.toNat) ∧ rd 0x023 (s.steward k).svcarg ∧ rd 0x026 (s.steward k).stroot
          ∧ rd 0x028 (s.steward k).stvec)
      ∧ (sregOk n = false → exec (.sysrd dst sreg) s = .next (s.fault .illegal 0 0x400109))
      ∧ (sregOk n = true → st = false → sregPriv n false = true → exec (.sysrd dst sreg) s = .next (s.fault .priv 0 0)))
    ∧ (s.ready [src] none = true →
      (n = 0x001 → ∃ t, exec (.syswr sreg src) s = .next t ∧ t.me.flags = flagsOf v.toNat ∧ t.mem = s.mem ∧ s.me.regsKept t.me [.pc]
        ∧ s.me.predsKept t.me ∧ s.othersKept t ∧ t.me.pc = s.me.pc + BitVec.ofNat 64 s.curLen)
      ∧ (n = 0x002 → st = false → ∃ t, exec (.syswr sreg src) s = .next t ∧ t.me.flogn = v.toNat % 256 ∧ t.mem = s.mem
        ∧ s.me.regsKept t.me [.pc] ∧ s.me.predsKept t.me ∧ s.me.vecsKept t.me)
      ∧ (st = true →
        (n = 0x028 → ∃ t, exec (.syswr sreg src) s = .next t ∧ (t.steward k).stvec = BitVec.ofNat 64 (v.toNat / 4 % 2 ^ 50 * 4) ∧ s.onlyPc t)
        ∧ (n = 0x026 → ∃ t, exec (.syswr sreg src) s = .next t ∧ (t.steward k).stroot = BitVec.ofNat 64 (v.toNat / 65536 % 2 ^ 36 * 65536)
            ∧ s.onlyPc t)
        ∧ (∀ i, (n = 0x010 ∧ i = Instr.registerWrite (.dbghz k) v) ∨ (n = 0x011 ∧ i = Instr.registerWrite (.evictwait k) v)
            ∨ (n = 0x012 ∧ i = Instr.registerWrite (.preemptwait k) v) ∨ (n = 0x020 ∧ i = Instr.tlbinv k v) →
            ∃ t, exec (.syswr sreg src) s = .next t ∧ s.parksFor t .none ∧ (s.now + 24, i) ∈ t.agenda))
      ∧ (sregOk n = true → st = false → sregPriv n true = true → exec (.syswr sreg src) s = .next (s.fault .priv 0 0)))

/-! ### The V slot -/

/-- Integer lane arithmetic: the table of R361 over exact integers, wrapped or saturated, no flags (R360, R361). -/
def Obligations.VectorIntegers : Prop :=
  ∀ (s : State) (x : VOps) (y : VUnOps) (sat : Bool),
    (fmtOf x.ty = none →
      let w := x.ty.width
      let go (i : Instr) (sat : Bool) (f : Int → Int → Int → Int) : Prop := ∃ t, exec i s = .next t ∧ s.vPlain t x.vd x.mask w (fun j =>
        intWrap x.ty sat (f (intLane x.ty (s.vOf w x.va j)) (intLane x.ty (s.vB w x.vb j)) (intLane x.ty (s.vOf w x.vd j))))
      go (.vadd sat x) sat (fun a b _ => a + b) ∧ go (.vsub sat x) sat (fun a b _ => a - b) ∧ go (.vmul x) false (fun a b _ => a * b)
      ∧ go (.vfma x) false (fun a b d => a * b + d) ∧ go (.vmad x) false (fun a b d => d * a + b)
      ∧ go (.vmin x) false (fun a b _ => min a b) ∧ go (.vmax x) false (fun a b _ => max a b))
    ∧ (fmtOf y.ty = none →
      let w := y.ty.width
      let go (i : Instr) (f : Int → Int) : Prop := ∃ t, exec i s = .next t ∧ s.vPlain t y.vd y.mask w (fun j =>
        intWrap y.ty sat (f (intLane y.ty (s.vOf w y.va j))))
      go (.vabs sat y) (fun a => |a|) ∧ go (.vneg sat y) (fun a => -a))
    ∧ exec .vnop s = .next s

/-- Float lane arithmetic: one rounding to the lane's format, its flags from the lanes with a written byte; VABS and VNEG change a sign,
VMIN and VMAX order −0 below +0, and these four raise no flag (R360, R361). -/
def Obligations.VectorFloats : Prop :=
  ∀ (s : State) (x : VOps) (y : VUnOps) (f : Fmt),
    (fmtOf x.ty = some f →
      let w := x.ty.width
      let go (i : Instr) (g : Sys2Proof.Num → Sys2Proof.Num → Sys2Proof.Num → Nat × Flags) : Prop := ∃ t, exec i s = .next t ∧ s.vDone t x.vd x.mask w (fun j =>
        g (f.decode (s.vOf w x.va j)) (f.decode (s.vB w x.vb j)) (f.decode (s.vOf w x.vd j)))
      go (.vadd false x) (fun a b _ => f.add a b) ∧ go (.vsub false x) (fun a b _ => f.add a (numNeg b)) ∧ go (.vmul x) (fun a b _ => f.mul a b)
      ∧ go (.vfma x) (fun a b d => f.fma a b d) ∧ go (.vmad x) (fun a b d => f.fma d a b)
      ∧ (∃ t, exec (.vmin x) s = .next t ∧ s.vPlain t x.vd x.mask w (fun j => f.pickMin (s.vOf w x.va j) (s.vB w x.vb j)))
      ∧ (∃ t, exec (.vmax x) s = .next t ∧ s.vPlain t x.vd x.mask w (fun j => f.pickMax (s.vOf w x.va j) (s.vB w x.vb j))))
    ∧ (fmtOf y.ty = some f →
      let w := y.ty.width
      let sign (i : Instr) (g : Bool → Bool) : Prop := ∃ t, exec i s = .next t ∧ s.vPlain t y.vd y.mask w (fun j =>
        let a := s.vOf w y.va j
        if f.decode a = .nan then f.nan else (if g (a.testBit (w - 1)) then 2 ^ (w - 1) else 0) + a % 2 ^ (w - 1))
      sign (.vabs false y) (fun _ => false) ∧ sign (.vneg false y) (fun b => !b))

/-- Lane shifts, funnel shifts, bit tables, selections, permutations, broadcasts, bit counts and the fixed-point multiply (R378, R367, R377,
R362, R371, R372). -/
def Sys2Proof.Claims.VectorBits : Prop :=
  ∀ (s : State) (ty : Ty) (vd va vb : Fin 16) (mask : Fin 8) (tbl : BitVec 8) (sh : BitVec 6) (amt : VAmt) (src : BcSrc) (x : VOps),
    let w := ty.width
    let k (j : Nat) : Nat := match amt with
      | .imm i => i.toNat
      | .src b => s.vB w b j % w
    let a (j : Nat) : Nat := s.vOf w va j
    let b (j : Nat) : Nat := s.vOf w vb j
    let go (i : Instr) (f : Nat → Nat) : Prop := ∃ t, exec i s = .next t ∧ s.vPlain t vd mask w f
    go (.vshl ty vd va amt mask) (fun j => a j * 2 ^ k j % 2 ^ w) ∧ go (.vshr ty vd va amt mask) (fun j => a j / 2 ^ k j)
    ∧ go (.vsra ty vd va amt mask) (fun j => (BitVec.ofInt w ((BitVec.ofNat w (a j)).toInt / 2 ^ k j)).toNat)
    ∧ go (.vfsh ty vd va vb mask sh) (fun j => (a j * 2 ^ w + b j) / 2 ^ sh.toNat % 2 ^ w)
    ∧ go (.vperm ty vd va vb mask) (fun j => a (b j % (256 / w)))
    ∧ go (.vbcast ty vd src mask) (fun _ => match src with
        | .lane n q => if q.toNat < 256 / w then s.vOf w n q.toNat else 0
        | .o n => (s.me.read (.o n)).toNat % 2 ^ w)
    ∧ go (.vpopc ⟨ty, vd, va, mask⟩) (fun j => (List.range w).countP (fun i => (a j).testBit i))
    ∧ (∃ t, exec (.vltab vd va vb mask tbl) s = .next t ∧ s.vecOnly t vd ∧ t.me.flags = s.me.flags
        ∧ ∀ i, i < 256 → (t.me.readV vd).getLsbD i =
          if (s.me.readM mask).getLsbD (i / 8) then tbl.getLsbD (4 * ((s.me.readV va).getLsbD i).toNat + 2 * ((s.me.readV vb).getLsbD i).toNat
            + ((s.me.readV vd).getLsbD i).toNat) else (s.me.readV vd).getLsbD i)
    ∧ (∃ t, exec (.vsel vd va vb mask) s = .next t ∧ s.vecOnly t vd ∧ t.me.flags = s.me.flags
        ∧ ∀ j, j < 32 → vByte (t.me.readV vd) j = if (s.me.readM mask).getLsbD j then vByte (s.me.readV va) j else vByte (s.me.readV vb) j)
    ∧ (let w := x.ty.width
       ∃ t, exec (.vqmul x) s = .next t ∧ s.vPlain t x.vd x.mask w (fun j =>
        let a := (BitVec.ofNat w (s.vOf w x.va j)).toInt
        let b := (BitVec.ofNat w (s.vB w x.vb j)).toInt
        if a = -2 ^ (w - 1) ∧ b = -2 ^ (w - 1) then 2 ^ (w - 1) - 1 else (BitVec.ofInt w ((2 * a * b + 2 ^ (w - 1)) / 2 ^ w)).toNat))

/-- VCMP writes the mask bits of its lanes' bytes, VMASK combines two masks by its table, both under the guarding mask; m0 takes no write,
and every register, vector and flag stays (R363, R369). -/
def Sys2Proof.Claims.VectorMasks : Prop :=
  ∀ (s : State) (c : Cond) (ty : Ty) (md ma mask : Fin 8) (va : Fin 16) (vb : VSrc) (mb : Sum (Fin 8) (Fin 8)) (tbl : BitVec 4),
    let w := ty.width
    (∃ t, exec (.vcmp c ty md va vb mask) s = .next t ∧ s.mDone t md mask (fun j =>
      let a := s.vOf w va (j / (w / 8))
      let b := s.vB w vb (j / (w / 8))
      match fmtOf ty with
      | none => condInt c (intLane ty a) (intLane ty b)
      | some f => if f.decode a = .nan ∨ f.decode b = .nan then c == .ne else condInt c (numCmp (f.decode a) (f.decode b)) 0))
    ∧ (∃ t, exec (.vmask md ma mb mask tbl) s = .next t ∧ s.mDone t md mask (fun j =>
      let b : Bool := match mb with
        | .inl k => (s.me.readM k).getLsbD j
        | .inr n => (s.me.read (.o n)).getLsbD j
      tbl.getLsbD (2 * ((s.me.readM ma).getLsbD j).toNat + b.toNat)))

/-- Lane bits and masks. -/
def Obligations.VectorBitsAndMasks : Prop :=
  Sys2Proof.Claims.VectorBits ∧ Sys2Proof.Claims.VectorMasks

/-- The pairwise tree over the lanes of a vector (R58), and the running value before lane `j` of a scan (R376). -/
def Sys2Proof.Machine.treeOf (t : Ty) (op : RedKind) (a : Nat → Nat) : Nat → Nat → Nat × Flags
  | 0, i => (a i, Flags.zero)
  | n + 1, i =>
    let x := treeOf t op a n (2 * i)
    let y := treeOf t op a n (2 * i + 1)
    let r := combine t op x.1 y.1
    (r.1, flagsOr (flagsOr x.2 y.2) r.2)

def Sys2Proof.Machine.scanRun (t : Ty) (op : RedKind) (head : Nat → Bool) (a : Nat → Nat) : Nat → Nat
  | 0 => scanIdentity t op
  | j + 1 => if head (j + 1) then scanIdentity t op else (combine t op (scanRun t op head a j) (a j)).1

/-- VCVT converts the lanes of its part and leaves the others; VDOT adds the exact products of four or two elements to a 32-bit lane, one
rounding; VREDUCE puts the pairwise reduction in lane 0 and zeros above; VSCAN the running reductions from each head; VRCP, VRSQ and VEXP2
their lane functions (R364, R365, R374, R58, R376, R373, R375, R366). -/
def Obligations.VectorReductions : Prop :=
  ∀ (s : State) (td ts : Ty) (vd va : Fin 16) (mask hm : Fin 8) (rm : Rm) (sat su ex : Bool) (part : BitVec 3) (x : VOps) (y : VUnOps)
    (op : RedKind),
    (let n := min (256 / ts.width) (256 / td.width)
     let lo := if 256 / ts.width < 256 / td.width then part.toNat * n else 0
     let from_ := if 256 / td.width < 256 / ts.width then part.toNat * n else 0
     from_ + n ≤ 256 / ts.width → ∃ t, exec (.vcvt td vd va mask ts rm sat part) s = .next t ∧ s.vDone t vd mask td.width (fun j =>
      if lo ≤ j ∧ j < lo + n then convertTy ts td rm sat (s.vOf ts.width va (from_ + (j - lo))) else (s.vOf td.width vd j, Flags.zero)))
    ∧ (x.ty.width ≤ 16 →
      let w := x.ty.width
      let k := 32 / w
      let a (j q : Nat) : Nat := s.vOf w x.va (k * j + q)
      let b (j q : Nat) : Nat := s.vB 32 x.vb j / 2 ^ (w * q) % 2 ^ w
      ∃ t, exec (.vdot su x) s = .next t ∧ s.vDone t x.vd x.mask 32 (fun j =>
        let d := s.vOf 32 x.vd j
        match fmtOf x.ty with
        | none => ((BitVec.ofInt 32 ((BitVec.ofNat 32 d).toInt + ((List.range k).map (fun q =>
            intLane x.ty (a j q) * intLane (if su then .n8 else x.ty) (b j q))).sum)).toNat, Flags.zero)
        | some f =>
          let as' := (List.range k).map (fun q => f.decode (a j q))
          let bs' := (List.range k).map (fun q => f.decode (b j q))
          fp32.result (dec32 d :: (as' ++ bs')) (numSum .rne (dec32 d :: List.zipWith numMul as' bs'))))
    ∧ (let w := y.ty.width
       let a (j : Nat) : Nat := s.vOf w y.va j
       ∃ t, exec (.vreduce op y) s = .next t ∧ s.vDone t y.vd y.mask w (fun j =>
        if j = 0 then treeOf y.ty op a (Nat.log2 (256 / w)) 0 else (0, Flags.zero)))
    ∧ (let w := y.ty.width
       let a (j : Nat) : Nat := s.vOf w y.va j
       let head (j : Nat) : Bool := hm ≠ 0 && (s.me.readM hm).getLsbD (w / 8 * j)
       ∃ t, exec (.vscan op ex hm y) s = .next t ∧ s.vDone t y.vd y.mask w (fun j =>
        let r := combine y.ty op (scanRun y.ty op head a j) (a j)
        (if ex then scanRun y.ty op head a j else r.1, r.2)))
    ∧ (∃ t, exec (.vrcp vd va mask) s = .next t ∧ s.vDone t vd mask 32 (fun j => vrcpLane (s.vOf 32 va j)))
    ∧ (∃ t, exec (.vrsq vd va mask) s = .next t ∧ s.vDone t vd mask 32 (fun j => vrsqLane (s.vOf 32 va j)))
    ∧ (∃ t, exec (.vexp2 vd va mask) s = .next t ∧ s.vDone t vd mask 32 (fun j => vexp2Lane (s.vOf 32 va j)))

/-! ### Epilogue programs -/

/-- The lane operations of epilogue programs, on INT32 or FP32 lanes: each writes one register lane by lane, goes to the next word, and
changes nothing else (R137, R138, R141, R142, R143). -/
def Sys2Proof.Claims.EpilogueLanes : Prop :=
  ∀ (s : State) (r : EpiRow) (d : Fin 6) (a b c : ESrc) (sh : BitVec 5) (f : Bool) (ty : Ty) (rm : Rm) (sat : Bool) (k : ECond),
    s.epiFits r →
    let go (i : Instr) (g : Nat → BitVec 32) : Prop := ∃ t, exec i s = .next t ∧ s.epiDone t r d g
    let x (n : Nat) := s.epiL a n
    let y (n : Nat) := s.epiL b n
    let z (n : Nat) := s.epiL c n
    let fl (v : BitVec 32) := dec32 v.toNat
    let asr (v : BitVec 32) (h : Nat) : BitVec 32 := if h = 0 then v else BitVec.ofInt 32 ((v.toInt + 2 ^ (h - 1)) / 2 ^ h)
    go (.emov d a) x
    ∧ go (.eadd false d a b) (fun n => x n + y n) ∧ go (.esub false d a b) (fun n => x n - y n) ∧ go (.emul false d a b) (fun n => x n * y n)
    ∧ go (.efma false d a b c) (fun n => x n * y n + z n)
    ∧ go (.emin false d a b) (fun n => if (x n).sle (y n) then x n else y n) ∧ go (.emax false d a b) (fun n => if (x n).sle (y n) then y n else x n)
    ∧ go (.eadd true d a b) (fun n => BitVec.ofNat 32 (fp32.add (fl (x n)) (fl (y n))).1)
    ∧ go (.esub true d a b) (fun n => BitVec.ofNat 32 (fp32.add (fl (x n)) (numNeg (fl (y n)))).1)
    ∧ go (.emul true d a b) (fun n => BitVec.ofNat 32 (fp32.mul (fl (x n)) (fl (y n))).1)
    ∧ go (.efma true d a b c) (fun n => BitVec.ofNat 32 (fp32.fma (fl (x n)) (fl (y n)) (fl (z n))).1)
    ∧ go (.emin true d a b) (fun n => BitVec.ofNat 32 (fp32.pickMin (x n).toNat (y n).toNat))
    ∧ go (.emax true d a b) (fun n => BitVec.ofNat 32 (fp32.pickMax (x n).toNat (y n).toNat))
    ∧ go (.eshrImm d a sh) (fun n => asr (x n) sh.toNat) ∧ go (.eshrReg d a b) (fun n => asr (x n) ((y n).toNat % 32))
    ∧ go (.eqmul d a b) (fun n => if x n = 0x80000000 ∧ y n = 0x80000000 then 0x7FFFFFFF
        else BitVec.ofInt 32 ((2 * (x n).toInt * (y n).toInt + 2 ^ 31) / 2 ^ 32))
    ∧ go (.ecvt f d a ty rm sat) (fun n => BitVec.ofNat 32 (convertTy (if f then .f32 else .i32) ty rm sat (x n).toNat).1)
    ∧ go (.ezpc f d a b c) (fun n => BitVec.ofNat 32 (zpcLane f s.epiK s.epiRsum.toNat (s.epiCsum.getD n 0).toNat (x n).toNat (y n).toNat (z n).toNat))
    ∧ go (.erelu false d a) (fun n => if (x n).slt 0 then 0 else x n)
    ∧ go (.erelu true d a) (fun n => match fl (x n) with
        | .nan => BitVec.ofNat 32 fp32.nan
        | v => if numIsNeg v = true ∨ numIsZero v = true then 0 else x n)
    ∧ go (.esel f d a b c k) (fun n => if eselCond f k (z n).toNat then x n else y n)
    ∧ (∀ q : Fin 4, go (.eldc f d (.c q)) (fun n => BitVec.ofNat 32 (leNat (((((s.epiDrain.elim none (·.image)).getD []).drop
        (128 + 128 * q.val + 4 * n)).take 4)))))
    ∧ go (.eldc f d .rsum) (fun _ => s.epiRsum) ∧ go (.eldc f d .csum) (fun n => s.epiCsum.getD n 0)
    ∧ go (.eldc f d .kv) (fun _ => BitVec.ofNat 32 (if f then roundFP32 (numInt s.epiK) .rne else s.epiK))

/-- EWR hands the row of its source to the drain path, which writes it at the receiver in the type's bytes, and goes to the next word; EEND
ends the row's program and offers the next row, or the next drain (R137, R144, R117). -/
def Sys2Proof.Claims.EpilogueRows : Prop :=
  ∀ (s : State) (r : EpiRow) (a : ESrc) (d : Drain), s.epiFits r → (s.eng r.link).passing = some d →
    let e := s.eng r.link
    (∃ t, exec (.ewr a) s = .next t ∧ t.mem = s.mem ∧ t.ctxs = s.ctxs
      ∧ (∃ st, t.epi = some { r with word := r.word + 1, stall := st })
      ∧ (e.recvCore = linkNear r.link ∨ e.recvCore = linkFar r.link → ∃ due w, (due, Instr.drainRowWrite w) ∈ t.agenda ∧ s.now < due
          ∧ w.link = r.link ∧ w.core = e.recvCore ∧ w.off = (e.raddr d.prod d.row).toNat ∧ w.acc = e.accType ∧ w.num = d.num
          ∧ w.last = (d.row + 1 == e.rows)
          ∧ w.bytes = ((s.epiSrc a).take e.colsN).flatMap (fun v => leBytes (otypeBytes e.otype) v.toNat)))
    ∧ (∃ t, exec .eend s = .next t ∧ t.mem = s.mem ∧ t.ctxs = s.ctxs ∧ t.epi = none
      ∧ (d.row + 1 < e.rows → (∀ x ∈ e.drains, x.num = d.num → x = d) →
          (t.eng r.link).passing = some { d with row := d.row + 1 } ∧ (s.now + (r.word + r.stall), Instr.epilogueRow r.link) ∈ t.agenda))

/-- Epilogue programs. -/
def Obligations.EpilogueOperations : Prop :=
  Sys2Proof.Claims.EpilogueLanes ∧ Sys2Proof.Claims.EpilogueRows

/-! ### Boot, bring-up and power -/

/-- A copy of an image that passes its verification: valid in flash, with a signature that verifies; a map that raises a token count above
288 does not pass (R26, R27, R28). -/
def Sys2Proof.Machine.State.goodCopy (s : State) (kind : Nat) (d : List Byte) : Prop :=
  ∃ c, c < 2 ∧ Table.get FlashCopy.blank s.flash (2 * kind + c) = ⟨true, d⟩ ∧ Config.verifies kind d = true
    ∧ (kind = 3 → ∀ k, k < 4 → Config.mapTokens d k ≤ 288)

/-- `d` is the image boot runs: it passes, it has its minimum, and no copy that does both has a higher version (R27). -/
def Sys2Proof.Machine.State.bootImage (s : State) (kind least : Nat) (d : List Byte) : Prop :=
  s.goodCopy kind d ∧ least ≤ Config.imageVersion d
  ∧ ∀ x, s.goodCopy kind x → least ≤ Config.imageVersion x → Config.imageVersion x ≤ Config.imageVersion d

/-- The device enters recovery and names the failing stage and the cause; nothing else changes. -/
def Sys2Proof.Machine.State.recovers (s t : State) (stage cause : Nat) : Prop :=
  t = { s with boot := { s.boot with failed := stage, cause := cause, recovery := true, ready := false } }

/-- BOOT_STAGE runs and measures the newest copy that verifies and meets its minimum (the running stage 2 names the map's, the map that of
stage 4), or the device enters recovery with cause 1 where none verifies, 2 where every one that does is below its minimum; stage 5 starts
the steward and sets ready once bring-up is complete (R26, R27, R28, R30). -/
def Obligations.BootRunsTheNewestCopy : Prop :=
  ∀ (s : State) (d2 d3 : List Byte), s.boot.recovery = false →
    (s.boot.reached = 1 →
      (∀ d, s.bootImage 2 0 d → ∃ t x, exec (.bootStage 2) s = .next t ∧ s.goodCopy 2 x ∧ Config.imageVersion x = Config.imageVersion d
        ∧ t.images.find 2 = some x ∧ Table.get 0 t.measures 2 = Config.sha3 x ∧ t.boot = { s.boot with reached := 2 }
        ∧ (s.now + 1, Instr.bootStage 3) ∈ t.agenda)
      ∧ ((∀ d, ¬ s.goodCopy 2 d) → ∃ t, exec (.bootStage 2) s = .next t ∧ s.recovers t 2 1))
    ∧ (s.boot.reached = 2 → s.images.find 2 = some d2 →
      (∀ d, s.bootImage 3 (Config.imageMinimum d2 3) d → ∃ x, s.goodCopy 3 x ∧ Config.imageVersion x = Config.imageVersion d
        ∧ (Config.imageMinimum x 2 ≤ Config.imageVersion d2 → ∃ t, exec (.bootStage 3) s = .next t ∧ t.images.find 3 = some x
          ∧ Table.get 0 t.measures 3 = Config.sha3 x ∧ t.boot = { s.boot with reached := 3 } ∧ t.spanEn = Config.mapSpans x
          ∧ t.portEn = Config.mapPorts x ∧ (∀ c, c ∈ t.harvest ↔ c ∈ Config.mapHarvest x ∧ c < 2304)
          ∧ (∀ k, k < 4 → (t.die k).tokens = Config.mapTokens x k))
        ∧ (Config.imageVersion d2 < Config.imageMinimum x 2 → ∃ t, exec (.bootStage 3) s = .next t ∧ s.recovers t 2 2))
      ∧ ((∀ d, ¬ s.goodCopy 3 d) → ∃ t, exec (.bootStage 3) s = .next t ∧ s.recovers t 3 1)
      ∧ (∀ d, s.goodCopy 3 d → (∀ x, s.goodCopy 3 x → Config.imageVersion x < Config.imageMinimum d2 3) →
          ∃ t, exec (.bootStage 3) s = .next t ∧ s.recovers t 3 2))
    ∧ (s.boot.reached = 3 → s.images.find 3 = some d3 →
      (∀ d, s.bootImage 4 (Config.imageMinimum d3 4) d → ∃ t x, exec (.bootStage 4) s = .next t ∧ s.goodCopy 4 x
        ∧ Config.imageVersion x = Config.imageVersion d ∧ t.images.find 4 = some x ∧ Table.get 0 t.measures 4 = Config.sha3 x
        ∧ t = { s with images := t.images, measures := t.measures, boot := { s.boot with reached := 4 } })
      ∧ ((∀ d, ¬ s.goodCopy 4 d) → ∃ t, exec (.bootStage 4) s = .next t ∧ s.recovers t 4 1)
      ∧ (∀ d, s.goodCopy 4 d → (∀ x, s.goodCopy 4 x → Config.imageVersion x < Config.imageMinimum d3 4) →
          ∃ t, exec (.bootStage 4) s = .next t ∧ s.recovers t 4 2))
    ∧ (s.boot.reached = 4 → s.training.hbmOk = BitVec.allOnes 12 → s.training.sram = some true → s.training.bridge = some true →
      ∃ t, exec (.bootStage 5) s = .next t ∧ t.boot = { s.boot with reached := 5, ready := true }
        ∧ (∀ k, k < 16 → (t.ctx (2304 + k) 0).st = .running) ∧ t.mem = s.mem ∧ t.teams = s.teams ∧ t.slots = s.slots)

/-- DEVICE_RESET puts everything but flash at its reset value; POWER_LOSS too, and the machine stands still. Bring-up gives every stack three
attempts and enters recovery with cause 3, 4 or 5 where a stack, the SRAM self-test or the bridges fail; a span link comes up with 8 or 4
lanes at the highest common version, a port at a width and rate it supports, else they stay down (R20, R21, R27, R32, R60). -/
def Obligations.ResetPowerAndTraining : Prop :=
  (∀ s : State,
    exec .deviceReset s = .next { State.reset with flash := s.flash, inputs := s.inputs }
    ∧ exec .powerLoss s = .next { State.reset with flash := s.flash, inputs := s.inputs, agenda := [], powered := false })
  ∧ (∀ s : State, s.boot.reached = 4 → s.boot.recovery = false → s.boot.ready = false →
    (∀ k : Fin 12, s.training.hbmOk.getLsbD k = false →
      (∃ t, exec (.hbmTrainingAttempt k true) s = .next t ∧ t = { s with training := t.training, agenda := t.agenda }
        ∧ ∀ j, j < 12 → t.training.hbmOk.getLsbD j = (s.training.hbmOk.getLsbD j || j == k.val))
      ∧ (∃ t, exec (.hbmTrainingAttempt k false) s = .next t ∧ t = { s with training := t.training, boot := t.boot }
        ∧ t.training.hbmOk = s.training.hbmOk ∧ Table.get 0 t.training.hbmTries k.val = Table.get 0 s.training.hbmTries k.val + 1
        ∧ t.boot = (if 2 ≤ Table.get 0 s.training.hbmTries k.val
            then { s.boot with failed := 5, cause := 3, recovery := true, ready := false } else s.boot)))
    ∧ (∀ ok, ∃ t, exec (.sramSelfTest ok) s = .next t ∧ t.training = { s.training with sram := some ok }
        ∧ t.boot = (if ok then s.boot else { s.boot with failed := 5, cause := 4, recovery := true, ready := false })
        ∧ t = { s with training := t.training, boot := t.boot, agenda := t.agenda })
    ∧ (∀ ok, ∃ t, exec (.dieBridgeTraining ok) s = .next t ∧ t.training = { s.training with bridge := some ok }
        ∧ t.boot = (if ok then s.boot else { s.boot with failed := 5, cause := 5, recovery := true, ready := false })
        ∧ t = { s with training := t.training, boot := t.boot, agenda := t.agenda }))
  ∧ (∀ s : State, 4 ≤ s.boot.reached → s.boot.recovery = false →
    (∀ (k : Fin 24) (lanes : Nat) (peer : BitVec 8), ∃ t, exec (.spanLinkTraining k lanes peer) s = .next t
      ∧ t = { s with training := { s.training with span := t.training.span } }
      ∧ (∀ j, j ≠ k.val → Table.get (0, 0) t.training.span j = Table.get (0, 0) s.training.span j)
      ∧ Table.get (0, 0) t.training.span k.val =
          (if s.spanEn.getLsbD k = true ∧ 4 ≤ lanes ∧ (peer.getLsbD 2 = true ∨ peer.getLsbD 3 = true)
            then (if 8 ≤ lanes then 8 else 4, if peer.getLsbD 3 then 3 else 2) else (0, 0)))
    ∧ (∀ (k : Fin 9) (width rate : Nat), ∃ t, exec (.portTraining k width rate) s = .next t
      ∧ t = { s with training := { s.training with port := t.training.port } }
      ∧ (∀ j, j ≠ k.val → Table.get (0, 0) t.training.port j = Table.get (0, 0) s.training.port j)
      ∧ Table.get (0, 0) t.training.port k.val =
          (if (k.val = 0 ∨ s.portEn.getLsbD (k.val - 1) = true) ∧ 1 ≤ rate ∧ rate ≤ 6
              ∧ (width = 16 ∨ width = 8 ∨ (k.val ≠ 0 ∧ (width = 4 ∨ width = 2 ∨ width = 1)))
            then (width, rate) else (0, 0))))

/-! ### The host -/

/-- The mailbox accepts a command that ends with a result: busy is set, ovr is cleared, and what it posts when it ends stands by; its end
is due in a later cycle (R34). -/
def Sys2Proof.Machine.State.acceptedRun (s t : State) (r : MailRun) : Prop :=
  t.mailbox = { s.mailbox with busy := true, ovr := false, running := some r }
  ∧ ∃ due, s.now < due ∧ (due, Instr.mailboxCommandComplete) ∈ t.agenda
def Sys2Proof.Machine.State.accepted (s t : State) (tag : BitVec 16) (result : Nat) (res : List Word) (data : List Byte) : Prop :=
  s.acceptedRun t ⟨tag, result, res, data, false⟩

/-- The command does nothing besides. -/
def Sys2Proof.Machine.State.acceptedOnly (s t : State) (tag : BitVec 16) (result : Nat) (res : List Word) (data : List Byte) : Prop :=
  s.accepted t tag result res data ∧ t = { s with mailbox := t.mailbox, agenda := t.agenda, fresh := t.fresh }

/-- What an ATTEST over a nonce posts: the items of R31 in order, their signature, and the length; result 6 before stage 2 runs. -/
def Sys2Proof.Machine.State.reportRun (s : State) (tag : BitVec 16) (nonce : List Byte) : MailRun :=
  if s.boot.reached < 2 ∨ s.boot.failed = 2 then ⟨tag, 6, [], [], false⟩
  else
    let items := nonce ++ [2, 3, 4].flatMap (fun k => leBytes 32 (Table.get 0 s.measures k).toNat) ++ s.harvestRecord ++ s.leaseRecord
    let report := items ++ Config.identitySign (Config.sha3 items)
    ⟨tag, 0, [BitVec.ofNat 64 report.length], report, true⟩

/-- While a command runs, a CMD write is ignored and sets ovr (R34), but for an ATTEST while a report is formed, which waits (R31; which of
the two rules holds there is the model's reading, log entry 47). A CMD write runs the command its code names. A command's end writes RES0 to
RES3, DATA, tag and result, clears busy, signals MSI-X vector 0, and begins an ATTEST that waits. RELEASE, ATTEST, RESET and an unknown code end with the results R35 gives: 6 where the command is not available,
2 for a bad argument, 5 for a slot in use, else 0, with the effect of the command; an attestation report holds the items of R31 in order. -/
def Obligations.MailboxCommands : Prop :=
  ∀ (s : State) (tag : BitVec 16),
    let slot := s.arg 0
    let nonce := (List.range 32).map (Table.get 0 s.mailbox.data)
    (s.mailbox.busy = true →
      (∀ i ∈ [Instr.release tag, .flashwr tag, .reset tag],
        exec i s = .next { s with mailbox := { s.mailbox with ovr := true } })
      ∧ (∀ a b, exec (.upload tag a b) s = .next { s with mailbox := { s.mailbox with ovr := true } })
      ∧ (∀ r, s.mailbox.running = some r → exec (.attest tag) s = .next (if r.report
          then { s with mailbox := { s.mailbox with waiting := s.mailbox.waiting ++ [(tag, nonce)] } }
          else { s with mailbox := { s.mailbox with ovr := true } })))
    ∧ (∀ v : Word,
      let op := v.toNat % 256
      let by_ (i : Instr) : Prop := exec (.registerWrite .cmd v) s = exec i s
      (op = 1 → by_ (.upload (v.extractLsb' 16 16) s.choose.1 s.choose.2)) ∧ (op = 2 → by_ (.release (v.extractLsb' 16 16)))
      ∧ (op = 3 → by_ (.attest (v.extractLsb' 16 16))) ∧ (op = 4 → by_ (.flashwr (v.extractLsb' 16 16)))
      ∧ (op = 5 → by_ (.reset (v.extractLsb' 16 16)))
      ∧ (op = 0 ∨ 5 < op → ∃ t, exec (.registerWrite .cmd v) s = .next t
          ∧ (if s.mailbox.busy then t = { s with mailbox := { s.mailbox with ovr := true } }
             else s.acceptedOnly t (v.extractLsb' 16 16) 1 [] [])))
    ∧ (∀ r, s.mailbox.running = some r → ∃ t, exec .mailboxCommandComplete s = .next t
        ∧ t.mailbox.tag = r.tag ∧ t.mailbox.result = r.result
        ∧ t.mailbox.msix = s.mailbox.msix + 1 ∧ (∀ k, k < 4 → Table.get 0 t.mailbox.res k = r.res.getD k 0)
        ∧ (∀ k, Table.get 0 t.mailbox.data k = r.data.getD k (Table.get 0 s.mailbox.data k))
        ∧ (s.mailbox.resetAfter = true → (s.now, Instr.deviceReset) ∈ t.agenda)
        ∧ t.mailbox.waiting = s.mailbox.waiting.tail
        ∧ (if s.mailbox.resetAfter = true ∨ s.mailbox.waiting = [] then t.mailbox.busy = false ∧ t.mailbox.running = none
           else t.mailbox.busy = true ∧ (∀ w, s.mailbox.waiting.head? = some w → t.mailbox.running = some (s.reportRun w.1 w.2))
             ∧ ∃ due, s.now < due ∧ (due, Instr.mailboxCommandComplete) ∈ t.agenda)
        ∧ t = { s with mailbox := t.mailbox, agenda := t.agenda, fresh := t.fresh })
    ∧ (s.mailbox.busy = false →
      (∃ t, exec (.release tag) s = .next t ∧
        (if s.boot.ready = true ∧ s.stewardStopped = false then
          (if 1024 ≤ slot then s.acceptedOnly t tag 2 [] []
           else if (s.slot slot).kicks ≠ [] ∨ (s.slot slot).replay ≠ none then s.acceptedOnly t tag 5 [] []
           else s.accepted t tag 0 [] [] ∧ t.slot slot = { s.slot slot with graph := none } ∧ ∀ k, k ≠ slot → t.slot k = s.slot k)
         else s.acceptedOnly t tag 6 [] []))
      ∧ (s.mailbox.running = none → ∃ t, exec (.attest tag) s = .next t ∧ s.acceptedRun t (s.reportRun tag nonce)
          ∧ t = { s with mailbox := t.mailbox, agenda := t.agenda, fresh := t.fresh })
      ∧ (∃ t, exec (.reset tag) s = .next t ∧ t.mailbox.resetAfter = (s.mailbox.resetAfter || s.arg 0 % 2 == 1)
          ∧ (∃ r, t.mailbox.running = some r ∧ r.tag = tag ∧ r.result = (if s.arg 0 % 2 = 1 then 0 else 2))
          ∧ t.mailbox.busy = true ∧ t = { s with mailbox := t.mailbox, agenda := t.agenda, fresh := t.fresh }))

/-- UPLOAD ends with result 6 before ready, 2 for a bad offset, size or slot, 5 for a slot with a replay queued or running, 3 with the
failing check's place in RES0 and RES1, and else replaces the slot's graph; the steward's choice of the code base and the frames is the
event's (R35, R214). FLASHWR takes the chunks of one image in ascending offset, and its last chunk verifies the image: result 0 and a valid
copy, or 4 and a copy marked invalid; a chunk out of order ends with 2; result 6 before stage 2 runs (R27, R35). That the loader in
recovery of stage 2 answers another kind with 6 is the model's choice (log entry 89). -/
def Obligations.UploadsAndFlashWrites : Prop :=
  ∀ (s : State) (tag : BitVec 16), s.mailbox.busy = false →
    (∀ codeBase place,
      let slot := s.arg 2
      let g : Img := ⟨s.mem, 0x00BC_0000_0000 + s.arg 0, s.arg 1⟩
      let sound := s.arg 0 % 4096 = 0 ∧ s.arg 0 + s.arg 1 ≤ 2 ^ 34 ∧ slot < 1024
      let free := (s.slot slot).kicks = [] ∧ (s.slot slot).replay = none
      let serves := s.boot.ready = true ∧ s.stewardStopped = false
      (¬ serves → ∃ t, exec (.upload tag codeBase place) s = .next t ∧ s.acceptedOnly t tag 6 [] [])
      ∧ (serves → ¬ sound → ∃ t, exec (.upload tag codeBase place) s = .next t ∧ s.acceptedOnly t tag 2 [] [])
      ∧ (serves → sound → ¬ free → ∃ t, exec (.upload tag codeBase place) s = .next t ∧ s.acceptedOnly t tag 5 [] [])
      ∧ (serves → sound → free → ∀ b, uploadBad g (s.arg 1) = some b → ∃ t, exec (.upload tag codeBase place) s = .next t
          ∧ s.acceptedOnly t tag 3 [BitVec.ofNat 64 (b.sect * 2 ^ 32 + b.entry), BitVec.ofNat 64 (b.node * 2 ^ 48 + b.sched * 2 ^ 40)] [])
      ∧ (serves → sound → free → uploadBad g (s.arg 1) = none → choiceOk g codeBase place = true →
          ∃ t, exec (.upload tag codeBase place) s = .next t ∧ s.accepted t tag 0 [] []
            ∧ (t.slot slot).graph = some (graphOf g codeBase) ∧ (t.slot slot).root = place ∧ (∀ k, k ≠ slot → t.slot k = s.slot k)
            ∧ t.mem = buildSpace s.mem g codeBase place))
    ∧ (let kind := s.arg 0
       let copy := s.arg 1
       let off := s.arg 2
       let n := s.arg 3
       let total := s.arg 4
       let chunk := (List.range n).map (Table.get 0 s.mailbox.data)
       2 ≤ s.boot.reached → s.boot.failed ≠ 2 → 2 ≤ kind → kind ≤ 4 → copy ≤ 1 → 1 ≤ n → n ≤ 3840 → off + n ≤ total →
        (∀ l, (off = 0 ∧ l = []) ∨ (0 < off ∧ s.flashBuf = some ⟨kind, copy, total, l⟩ ∧ l.length = off) →
          let d := l ++ chunk
          ∃ t, exec (.flashwr tag) s = .next t
            ∧ (off + n < total → s.accepted t tag 0 [BitVec.ofNat 64 (off + n)] [] ∧ t.flashBuf = some ⟨kind, copy, total, d⟩)
            ∧ (off + n = total → t.flashBuf = none
                ∧ (s.passes kind d = true → s.accepted t tag 0 [BitVec.ofNat 64 total] [] ∧ t.copyOf kind copy = ⟨true, d⟩)
                ∧ (s.passes kind d = false → s.accepted t tag 4 [BitVec.ofNat 64 total] [] ∧ (t.copyOf kind copy).valid = false))
            ∧ (∀ j c, (j ≠ kind ∨ c ≠ copy) → c ≤ 1 → t.copyOf j c = s.copyOf j c)
            ∧ t = { s with mailbox := t.mailbox, agenda := t.agenda, fresh := t.fresh, flash := t.flash, flashBuf := t.flashBuf })
        ∧ (0 < off → (∀ b, s.flashBuf = some b → ¬ (b.kind = kind ∧ b.copy = copy ∧ b.total = total ∧ b.data.length = off)) →
          ∃ t, exec (.flashwr tag) s = .next t ∧ s.accepted t tag 2 [] [] ∧ t.flashBuf = none ∧ t.flash = s.flash))
    ∧ (s.boot.reached < 2 → s.boot.recovery = false → ∃ t, exec (.flashwr tag) s = .next t ∧ s.acceptedOnly t tag 6 [] [])
    ∧ (s.boot.recovery = true → s.boot.failed = 2 → s.arg 0 ≠ 2 → ∃ t, exec (.flashwr tag) s = .next t ∧ s.acceptedOnly t tag 6 [] [])

/-- A host register write sets the mailbox word, or DBGHZ, EVICTWAIT or PREEMPTWAIT for every die; a kick of a ready graph slot is queued
with its patch table, one before ready is counted in record 0x0007 and lost, as is one to an empty slot or a full queue; a write to the status
half of the window counts before ready too, which is the model's reading (log entry 87); the staging window
reaches the staging region once the device is ready, and until then writes are discarded and reads are all ones (R30, R33, R34, R215, R355). -/
def Obligations.HostRegistersAndWindows : Prop :=
  ∀ (s : State),
    (∀ (k : Fin 6) v, ∃ t, exec (.registerWrite (.arg k) v) s = .next t
        ∧ ∀ j, Table.get 0 t.mailbox.args j = if j = k.val then v else Table.get 0 s.mailbox.args j)
    ∧ (∀ (k : Fin 480) v, ∃ t, exec (.registerWrite (.data k) v) s = .next t
        ∧ ∀ j, Table.get 0 t.mailbox.data j =
            if 8 * k.val ≤ j ∧ j < 8 * k.val + 8 then v.extractLsb' (8 * (j - 8 * k.val)) 8 else Table.get 0 s.mailbox.data j)
    ∧ (∀ k v, (∃ t, exec (.registerWrite (.dbghz k) v) s = .next t ∧ t.dbghz = v.getLsbD 0)
        ∧ (∃ t, exec (.registerWrite (.evictwait k) v) s = .next t ∧ t.evictwait = v.toNat % 2 ^ 32)
        ∧ (∃ t, exec (.registerWrite (.preemptwait k) v) s = .next t ∧ t.preemptwait = v.toNat % 2 ^ 32))
    ∧ (∀ k (v : Word), k < 1024 →
      (s.boot.ready = true → v.toNat % 2 ^ 16 = k → (s.slot k).graph ≠ none → (s.slot k).kicks.length < 64 →
        ∃ t, exec (.kick k v) s = .next t ∧ t.slot k = { s.slot k with kicks := (s.slot k).kicks ++ [(s.now, v.toNat / 2 ^ 16 * 64)] }
          ∧ (∀ j, j ≠ k → t.slot j = s.slot j) ∧ t = { s with slots := t.slots, agenda := t.agenda }
          ∧ ((s.slot k).replay = none → ∃ due, (due, Instr.replayBegin k) ∈ t.agenda))
      ∧ (s.boot.ready = false ∨ v.toNat % 2 ^ 16 ≠ k ∨ (s.slot k).graph = none ∨ 64 ≤ (s.slot k).kicks.length →
        ∃ t, exec (.kick k v) s = .next t ∧ t.slot k = { s.slot k with lost := min ((s.slot k).lost + 1) (2 ^ 16 - 1) }
          ∧ (∀ j, j ≠ k → t.slot j = s.slot j)
          ∧ t.boot = (if s.boot.ready then s.boot else { s.boot with lostk := min (s.boot.lostk + 1) (2 ^ 32 - 1) })
          ∧ t = { s with slots := t.slots, boot := t.boot }))
    ∧ (∀ k (v : Word), 1024 ≤ k → exec (.kick k v) s = .next (if s.boot.ready = true ∨ 2048 ≤ k then s
        else { s with boot := { s.boot with lostk := min (s.boot.lostk + 1) (2 ^ 32 - 1) } }))
    ∧ (∀ off (bytes : List Byte), off + bytes.length ≤ 2 ^ 34 →
      (Memory.wf s.mem = true → s.boot.ready = true → ∃ t, exec (.hostStagingWrite off bytes) s = .next t ∧ s.memKept t (0x00BC_0000_0000 + off) bytes.length
          ∧ ∀ j, j < bytes.length → memRead t.mem (0x00BC_0000_0000 + off + j) = bytes.getD j 0)
      ∧ (s.boot.ready = false → exec (.hostStagingWrite off bytes) s = .next s))
    ∧ (∀ off n, off + n ≤ 2 ^ 34 → ∃ t, exec (.hostStagingRead off n) s = .next t ∧ t = { s with hostRead := t.hostRead }
        ∧ t.hostRead.length = n
        ∧ ∀ j, j < n → t.hostRead.getD j 0 = if s.boot.ready then memRead s.mem (0x00BC_0000_0000 + off + j) else 0xFF)

/-! ### Graphs, replays and teams -/

/-- A replay takes its slot's oldest kick once no replay of the slot runs: with no patch table every node starts as the graph has it, a
node without producers ready and the others waiting; a table outside the staging region fails it with err 5, an index or value that is bad
with err 1 or 2, and a failed replay counts as ended (R215, R216, R217). -/
def Obligations.ReplaysBegin : Prop :=
  ∀ (s : State) (k : Nat) (g : Graph) (at_ pa : Nat) (ks : List (Nat × Nat)),
    (s.slot k).replay = none → (s.slot k).graph = some g → (s.slot k).kicks = (at_, pa) :: ks →
    (pa = 0 → g.nodes ≠ [] → (∀ r ∈ g.nodes, extOk r.ext = true) →
      ∃ t rp, exec (.replayBegin k) s = .next t ∧ (t.slot k).kicks = ks ∧ (t.slot k).replay = some rp ∧ rp.kickedAt = at_ ∧ rp.err = 0
        ∧ rp.recs = g.nodes ∧ rp.nodes.length = g.nodes.length
        ∧ (∀ j, j < g.nodes.length →
            rp.nodes.getD j .dropped = if ∃ e ∈ g.edges, e.dst = j then NodeSt.waiting else NodeSt.ready s.now)
        ∧ (∀ j, j ≠ k → t.slot j = s.slot j) ∧ t.mem = s.mem ∧ t.teams = s.teams ∧ t.cores = s.cores ∧ t.ctxs = s.ctxs)
    ∧ (let n := memLe s.mem 8 pa
       (pa ≠ 0 → (pa < 0x00BC_0000_0000 ∨ 0x00C0_0000_0000 < pa + 8 ∨ 4096 < n ∨ 0x00C0_0000_0000 < pa + 8 + 16 * n) →
        ∃ t, exec (.replayBegin k) s = .next t
          ∧ t.slot k = { s.slot k with kicks := ks, err := 5, done := ((s.slot k).done + 1) % 2 ^ 32 }
          ∧ (∀ j, j ≠ k → t.slot j = s.slot j) ∧ t = { s with slots := t.slots, agenda := t.agenda }))
    ∧ (∀ ps, s.patchTable pa = some ps → patchErr g ps ≠ 0 →
        ∃ t, exec (.replayBegin k) s = .next t
          ∧ t.slot k = { s.slot k with kicks := ks, err := patchErr g ps, done := ((s.slot k).done + 1) % 2 ^ 32 }
          ∧ (∀ j, j ≠ k → t.slot j = s.slot j) ∧ t = { s with slots := t.slots, agenda := t.agenda })

/-- PLACEMENT takes the first candidate of R224 that fits. A ready node becomes a placed team on a rectangle of free cores, its contexts idle,
its scratchpad data zero where the resource map writes none, to launch 1,024 cycles later; where none fits, no core changes hands.
TEAM_LAUNCH starts context 0 of every core at the entry of the variant (R222, R223, R224). -/
def Obligations.TeamsPlacedAndLaunched : Prop :=
  (∀ (s : State) (k : Cand) (ks : List Cand) (rp : Replay) (g : Graph) (r : LRec) (v d x y : Nat),
    s.cands = k :: ks → k.team = none → (s.slot k.slot).replay = some rp → (s.slot k.slot).graph = some g → rp.recs[k.node]? = some r →
    s.placeOf r = some (v, d, x, y) →
    ∃ t u, exec .placement s = .next t ∧ t.teams.find s.tok = some u
      ∧ u.slot = k.slot ∧ u.node = k.node ∧ u.die = d ∧ u.ox = x ∧ u.oy = y ∧ u.variant = v ∧ u.lr = r ∧ u.codeBase = g.codeBase
      ∧ u.st = .placed ∧ (∀ c ∈ u.cores, s.coreFree c = true ∧ (t.core c).team = some s.tok ∧ ∀ n, n < 16 → t.ctx c n = Ctx.idle)
      ∧ (r.rm = [] → ∀ c ∈ u.cores, ∀ b, b < 0x20000 → memRead t.mem (spad c b) = 0)
      ∧ (s.now + 1024, Instr.teamLaunch s.tok) ∈ t.agenda)
  ∧ (∀ s : State, (∀ k ∈ s.cands, s.tryPlace k = none) → ∃ t, exec .placement s = .next t ∧ t = { s with agenda := t.agenda })
  ∧ (∀ (s : State) (team : Nat) (u : Team) (v : Variant), s.teams.find team = some u → u.st = .placed → u.lr.vars[u.variant]? = some v →
    ∃ t, exec (.teamLaunch team) s = .next t ∧ t.teams.find team = some { u with st := .running }
      ∧ (∀ c ∈ u.cores, (t.ctx c 0).st = .running ∧ (t.ctx c 0).pc = BitVec.ofNat 64 (u.codeBase + v.entry)
          ∧ (t.ctx c 0).readyAt = ownSlot 0 s.now)
      ∧ t.mem = s.mem ∧ t.slots = s.slots)

/-- A team whose work has ended completes: it is gone, its node has completed, and its contexts' nonempty fault logs are reported, so the
replay will end with err 4. A halted or pre-empted team that the steward tears down is gone with the service requests of its node, its replay
will end with err 3 and the nodes not yet launched never launch, those placed among them (R217, R244, R253, R254, R356). -/
def Obligations.TeamsEnd : Prop :=
  ∀ (s : State) (team : Nat) (u : Team), s.teams.find team = some u →
    (s.teamDone team u = true →
      ∃ t, exec (.teamComplete team) s = .next t ∧ t.teams.find team = none ∧ t.mem = s.mem
        ∧ (∀ e, e ∈ t.flogReports ↔ e ∈ s.flogReports ∨
            ∃ c ∈ u.cores, ∃ n, n < 16 ∧ (s.ctx c n).flogn ≠ 0 ∧ e = (u.slot, u.node, c, n, s.logBase c n))
        ∧ (∀ rp, (t.slot u.slot).replay = some rp → u.node < rp.nodes.length → rp.nodes.getD u.node .waiting = .completed))
    ∧ (s.teamDone team u = false → exec (.teamComplete team) s = .next s)
    ∧ (u.st = .halted ∨ u.st = .suspended →
      ∃ t, exec (.teamTeardown team) s = .next t ∧ t.teams.find team = none ∧ t.mem = s.mem
        ∧ (∀ r ∈ t.svcq, ¬ (r.slot = u.slot ∧ r.node = u.node))
        ∧ (∀ rp, (s.slot u.slot).replay = some rp → (s.slot u.slot).graph ≠ none →
            ((t.slot u.slot).replay = none ∧ (t.slot u.slot).err = 3)
            ∨ ∃ rq, (t.slot u.slot).replay = some rq ∧ rq.err = 3 ∧ ∀ n ∈ rq.nodes, n ≠ .waiting ∧ ∀ q, n ≠ .ready q)
        ∧ (∀ k v, s.teams.find k = some v → v.slot = u.slot → v.st = .placed → t.teams.find k = none)
        ∧ (Instr.resume team) ∉ t.agenda.map (·.2))

/-! ### Pre-emption -/

/-- The switch-out of a team is at a step. -/
def Sys2Proof.Machine.State.switchAt (s : State) (team n : Nat) (w : Switch) : Prop := s.switch = some w ∧ w.team = team ∧ w.step = n

/-- The switch moves to a step now. -/
def Sys2Proof.Machine.State.switchGoes (s t : State) (w : Switch) (n : Nat) : Prop := t.switch = some { w with step := n, since := s.now }

/-- PREEMPT_TRIGGER begins the switch-out of the running team of lowest priority, two or more below a candidate that has waited longer than
PREEMPTWAIT and does not fit, the latest placed among equals, and one switch-out at a time (R225). Steps 1 and 2: every condition park is
abandoned and the team issues no more; it then waits until no context holds a word, for 4,096 bundles or 1,000,000 cycles at most, past which
F_HOLDGRACE halts it instead (R241, R247, R253). -/
def Obligations.PreemptionBegins : Prop :=
  ∀ (s : State) (team : Nat) (u : Team), s.teams.find team = some u →
    (∀ k, s.switch = none → (∀ c ∈ s.cands, s.tryPlace c = none) → s.cands.head? = some k → k.since + s.preemptwait < s.now →
      u.st = .running → u.lr.pri + 2 ≤ k.pri →
      (∀ j ∈ s.teams.cells, j.2.st = .running → j.1 = team ∨ u.lr.pri < j.2.lr.pri ∨ (u.lr.pri = j.2.lr.pri ∧ j.2.placedAt < u.placedAt)) →
        ∃ t due, exec .preemptTrigger s = .next t ∧ t.switch = some ⟨team, 1, s.now, 0, none⟩ ∧ s.now ≤ due ∧ due < s.now + 16 ∧ due % 16 = 0
          ∧ (due, Instr.preemptStopIssue team) ∈ t.agenda ∧ t = { s with switch := t.switch, agenda := t.agenda })
    ∧ (s.switch ≠ none → exec .preemptTrigger s = .next s)
    ∧ (∀ w, s.switchAt team 1 w → u.st = .running →
      ∃ t, exec (.preemptStopIssue team) s = .next t ∧ t.teams.find team = some { u with st := .stopping } ∧ s.switchGoes t w 2
        ∧ (∀ c ∈ u.cores, ∀ n, n < 16 →
            (t.ctx c n).park = (match (s.ctx c n).park with
              | some (.cond ..) => none
              | p => p) ∧ (t.ctx c n).pc = (s.ctx c n).pc)
        ∧ (s.now, Instr.preemptHoldGrace team) ∈ t.agenda ∧ (s.now + 1000000, Instr.holdGraceExpiry team) ∈ t.agenda
        ∧ t = { s with teams := t.teams, switch := t.switch, ctxs := t.ctxs, agenda := t.agenda })
    ∧ (∀ w, s.switchAt team 2 w →
      ((∀ c ∈ u.cores, ∀ n, n < 16 → (s.ctx c n).held = []) → ∃ t, exec (.preemptHoldGrace team) s = .next t
          ∧ (s.now, Instr.preemptDrain team) ∈ t.agenda ∧ t = { s with agenda := t.agenda })
      ∧ (∀ c n, c ∈ u.cores → n < 16 → (s.ctx c n).held ≠ [] →
        (w.bundles < 4096 → exec (.preemptHoldGrace team) s = .next s)
        ∧ (w.bundles < 4096 → s.now < w.since + 1000000 → exec (.holdGraceExpiry team) s = .next s)
        ∧ (4096 ≤ w.bundles ∨ w.since + 1000000 ≤ s.now → (∀ c ∈ u.cores, isSteward c = false ∧ s.teamOf c = some (team, u)) →
          ∃ t h, exec (.holdGraceExpiry team) s = .next t ∧ t.switch = none
            ∧ (∃ v, t.teams.find team = some v ∧ v.st = .halted ∧ (u.halt = none → v.halt = some h))
            ∧ h.code = .holdGrace ∧ h.w3 = BitVec.ofNat 64 w.bundles ∧ (s.ctx h.core h.ctx).held ≠ [] ∧ h.pc = (s.ctx h.core h.ctx).pc)))

/-- Steps 3 to 5: queued lease requests are cancelled and write-combining entries drain until nothing of the team is in flight; its engines stop
at a K-step boundary and drains under way complete; the team is then suspended, its contexts and cores stand in its context area, and its
cores are free for others. RESUME brings the team back at its cores, its contexts at the state saved, each at the address its record in the
context area holds, from the first rotation after the restore (R247 to R252, R384). That the address stands first among the items of 0x0C0 is
the model's reading (log entry 40). -/
def Obligations.SwitchAndResume : Prop :=
  ∀ (s : State) (team : Nat) (u : Team), s.teams.find team = some u →
    (∀ w, s.switchAt team 2 w → (∀ c ∈ u.cores, ∀ n, n < 16 → (s.ctx c n).held = []) →
      ∃ t, exec (.preemptDrain team) s = .next t ∧ s.switchGoes t w 3 ∧ (s.now + 1, Instr.preemptDrain team) ∈ t.agenda
        ∧ ∀ c ∈ u.cores, ∀ e ∈ (t.core c).wcb, e.closed = true)
    ∧ (∀ w, s.switchAt team 3 w →
      ((∀ c ∈ u.cores, s.coreQuiet c = true) → ∃ t, exec (.preemptDrain team) s = .next t ∧ s.switchGoes t w 4
          ∧ (s.now, Instr.preemptEngineStop team) ∈ t.agenda ∧ t = { s with switch := t.switch, agenda := t.agenda })
      ∧ (∀ c ∈ u.cores, s.coreQuiet c = false → exec (.preemptDrain team) s = .next s))
    ∧ (∀ w, s.switchAt team 4 w →
      (∀ l ∈ s.teamEngines team, ∀ d ∈ (s.eng l).drains, d.begun = false) →
      ∃ t, exec (.preemptEngineStop team) s = .next t ∧ t.teams.find team = some { u with st := .suspended } ∧ s.switchGoes t w 5
        ∧ (∀ l ∈ s.teamEngines team, (t.eng l).stopping = true)
        ∧ (s.now + u.moveCycles, Instr.preemptSave team) ∈ t.agenda ∧ t.mem = s.mem ∧ t.ctxs = s.ctxs ∧ t.cores = s.cores)
    ∧ (∀ w, s.switchAt team 5 w →
      -- what is on its way to a core over its queues has reached it
      let q := u.cores.foldl (fun (r : State) c => r.settleCore c) s
      ∃ t v, exec (.preemptSave team) s = .next t ∧ t.switch = none ∧ t.teams.find team = some v
        ∧ (∀ c ∈ u.cores, (t.core c).team = some team ∧ (t.core c).wcb = [] ∧ (∀ n, n < 16 → t.ctx c n = Ctx.idle)
            ∧ (c, q.core c) ∈ v.savedCore ∧ ∀ n, n < 16 → (16 * c + n, (q.ctx c n).lastWeight) ∈ v.savedCtx)
        ∧ (∀ l ∈ s.teamEngines team, (s.eng l).st = .running → (t.eng l).st = .suspended ∧ (t.eng l).token = false))
    ∧ (u.st = .suspended → u.savedCore ≠ [] →
      ∃ t v, exec (.resume team) s = .next t ∧ t.teams.find team = some v ∧ v.st = .running ∧ v.savedCore = [] ∧ v.savedCtx = []
        ∧ ∀ c n x, c ∈ u.savedCore.map (·.1) → n < 16 → u.savedCtx.find? (fun e => e.1 == 16 * c + n) = some (16 * c + n, x) →
            (t.ctx c n).st = x.st
            ∧ (Memory.wf s.mem = true → ∃ q : State, (∀ a, a < 2 ^ 52 → memRead q.mem a = memRead s.mem a) ∧ q.slots = s.slots
                ∧ (t.ctx c n).pc = ((q.getVirt u.slot 8 (u.record c n + 0xC0)).map (BitVec.ofNat 64)).getD x.pc)
            ∧ (t.ctx c n).openers = x.openers ∧ (t.ctx c n).trapDepth = x.trapDepth
            ∧ (t.ctx c n).flags = x.flags ∧ (∀ k, (t.ctx c n).readP k = x.readP k)
            ∧ (t.ctx c n).readyAt = ownSlot n ((s.now / 16 + 1) * 16))
    ∧ (u.st ≠ .suspended → exec (.resume team) s = .next s)

/-! ### The barrel core's own events -/

/-- The resident windows are the latest ones: the window below the current one is resident, or the current one is the oldest resident (R71). -/
def Sys2Proof.Machine.Ctx.windowsLatest (x : Ctx) : Prop := x.depth = 1 ∨ (x.wins.find (x.depth - 1)).isSome = true ∨ x.oldest = x.depth

/-- A reply ends the result park it names: the result goes to the destination and shifts the last results, the context goes on past its bundle
from the next cycle; a reply that is a fault is taken at the parked bundle, whose V slot is without effect (R68). A pending register receives its completion without a shift, wherever
its window now stands (R9, R66, R70, R73, R316). -/
def Obligations.RepliesAndCompletions : Prop :=
  ∀ (s : State) (c n tok : Nat),
    let x := s.ctx c n
    (∀ len dst v, x.park = some (.result tok len (.put dst)) → isPlainDst dst = true →
      ∃ t, exec (.replyWrite c n tok (.word v)) s = .next t
        ∧ (t.ctx c n).read dst = v ∧ (t.ctx c n).read (.l 0) = v ∧ (∀ k : Fin 4, k.val ≠ 0 → (t.ctx c n).read (.l k) = x.read (.l (k - 1)))
        ∧ (t.ctx c n).pc = x.pc + BitVec.ofNat 64 len ∧ (t.ctx c n).park = none ∧ (t.ctx c n).readyAt = s.now + 1
        ∧ x.regsKept (t.ctx c n) (dst :: .pc :: lastResults) ∧ x.predsKept (t.ctx c n) ∧ x.vecsKept (t.ctx c n)
        ∧ (∀ k, k ≠ 16 * c + n → Table.get Ctx.idle t.ctxs k = Table.get Ctx.idle s.ctxs k) ∧ t = { s with ctxs := t.ctxs })
    ∧ (∀ len dst k signed a bs, x.park = some (.result tok len (.load dst k signed a (List.replicate k none))) → isPlainDst dst = true →
      k ∈ [1, 2, 4, 8] → bs.length = k →
      ∃ t, exec (.replyWrite c n tok (.bytes bs)) s = .next t
        ∧ (t.ctx c n).read dst = (if signed then (BitVec.ofNat (8 * k) (leNat bs)).signExtend 64 else BitVec.ofNat 64 (leNat bs))
        ∧ (t.ctx c n).pc = x.pc + BitVec.ofNat 64 len ∧ (t.ctx c n).park = none ∧ t = { s with ctxs := t.ctxs })
    ∧ (∀ len code a, x.park = some (.result tok len .none) →
      exec (.replyWrite c n tok (.fault code a)) s
        = .next (((s.undoBundle c n).modCtx c n (fun y => { y with park := none })).trap c n code x.pc a 0))
    ∧ (x.undo = none → s.undoBundle c n = s)
    ∧ (∀ u, x.undo = some u → u.pops = [] →
      s.undoBundle c n = s.modCtx c n (fun y => { y with v := u.v, m := u.m, flags := u.flags, undo := none }))
    ∧ (∀ p v, x.pend.find? (fun e => e.tok == tok) = some p → x.windowsLatest →
      ∃ t, exec (.pendingCompletionWrite c n tok v) s = .next t ∧ (∀ q ∈ (t.ctx c n).pend, q.tok ≠ tok)
        ∧ (∀ r, x.loc r = some p.loc → (t.ctx c n).read r = v ∧ ∀ q, q ≠ r → (t.ctx c n).read q = x.read q)
        ∧ (∀ a b, p.loc = .gone a b → ∀ q, (t.ctx c n).read q = x.read q)
        ∧ (∀ k, k ≠ 16 * c + n → Table.get Ctx.idle t.ctxs k = Table.get Ctx.idle s.ctxs k) ∧ t = { s with ctxs := t.ctxs })

/-- A spill writes the oldest dirty window's kept registers to its place in the window stack, the passed registers above them, and leaves every
register as it reads; a refill brings the window below back from its place, its passed registers being the received registers of the window
above. A window spill completes the trap entry that waited for it (R71, R72, R239). -/
def Obligations.WindowTraffic : Prop :=
  ∀ (s : State) (c n : Nat),
    let x := s.ctx c n
    (∀ k m, (List.range 16).findSome? (fun j => (s.dirtyWindow c j).map (fun k => (j, k))) = some (m, k) →
      1 ≤ k → 16 * s.wss c ≤ 0x20000 → Memory.wf s.mem = true →
      ∃ t, exec (.eagerSpill c) s = .next t ∧ ((t.ctx c m).win k).clean = true
        ∧ (∀ r, r < 16 → memLe t.mem 8 (spad c (s.stackAt c m k + 8 * r)) = (Table.get 0 ((s.ctx c m).win k).regs (8 + r)).toNat)
        ∧ (∀ q, (t.ctx c m).read q = (s.ctx c m).read q) ∧ (t.ctx c m).pc = (s.ctx c m).pc ∧ t = { s with mem := t.mem, ctxs := t.ctxs })
    ∧ ((∀ j, j < 16 → s.dirtyWindow c j = none) → exec (.eagerSpill c) s = .next s)
    ∧ (∀ b, x.park = some (.cond .spill b) → x.live = true → x.room = .spill →
      ∃ t, exec (.windowSpill c n) s = .next t ∧ ((t.ctx c n).win x.oldest).clean = true ∧ (∀ q, (t.ctx c n).read q = x.read q)
        ∧ (t.ctx c n).park = x.park ∧ t = { s with mem := t.mem, ctxs := t.ctxs })
    ∧ (∀ code w1 w2 w3 h, x.park = some (.trapEntry code w1 w2 w3) → x.live = true → x.room = .spill → s.handler c = some h →
      ∃ t, exec (.windowSpill c n) s = .next t ∧ (t.ctx c n).pc = h ∧ (t.ctx c n).depth = x.depth + 1 ∧ (t.ctx c n).park = none
        ∧ (t.ctx c n).readW 0 = BitVec.ofNat 64 (fcNum code) ∧ (t.ctx c n).readW 1 = w1 ∧ (t.ctx c n).readW 2 = w2 ∧ (t.ctx c n).readW 3 = w3)
    ∧ (∀ k b, x.park = some (.cond (.refill k) b) → x.live = true → k + 1 = x.oldest → x.slotsUsed < 4 → x.resident k = false →
      x.windowsLatest → 1 ≤ k →
      ∃ t, exec (.windowRefill c n) s = .next t ∧ (t.ctx c n).resident k = true ∧ (t.ctx c n).park = x.park
        ∧ (∀ r, r < 8 → Table.get 0 ((t.ctx c n).win k).regs (8 + r) = BitVec.ofNat 64 (memLe s.mem 8 (spad c (s.stackAt c n k) + 8 * r)))
        ∧ (∀ r, r < 8 → Table.get 0 ((t.ctx c n).win k).regs (16 + r) = Table.get 0 x.recv r)
        ∧ (∀ q, (t.ctx c n).read q = x.read q) ∧ t = { s with ctxs := t.ctxs })

/-- A soft error is fatal for the context's team; a fault event is taken as a trap at the context's bundle, and by none that is not live; a
fault-log entry is written at FLOGN of the log while FLOGN is below 16 and counted up to 255; a light-handler call pops the control value and
enters the handler with it in w0, the direction in w1, and the interrupted bundle's address in w8; weights change at a rotation boundary, and
throttle steps begin and end at one: meanwhile no context of the core issues and the engines of its links stand (R17, R64, R65, R121, R151, R239,
R241, R242). -/
def Obligations.BarrelEvents : Prop :=
  ∀ (s : State) (c n : Nat),
    let x := s.ctx c n
    (∀ code w2 w3, (∀ a b d e, x.park ≠ some (.trapEntry a b d e)) → (∀ d v, x.park ≠ some (.lightCall d v)) →
      exec (.trapEntry c n code w2 w3) s = .next (if x.st = .running ∧ x.halted = false then s.trap c n code x.pc w2 w3 else s))
    ∧ (x.st = .running → x.halted = false → ∀ k u, isSteward c = false → s.teamOf c = some (k, u) →
      ∃ t v, exec (.softError c n) s = .next t ∧ t.teams.find k = some v ∧ v.st = .halted ∧ t.mem = s.mem
        ∧ (u.halt = none → v.halt = some ⟨c, n, .soft, x.pc, 0, 0⟩) ∧ (∀ l ∈ s.teamEngines k, (t.eng l).stopping = true))
    ∧ (∀ e p, Memory.wf s.mem = true → isSteward c = false → x.flogn < 16 → e.kind < 16 → s.walk (s.spaceOf c) (s.logBase c n + 16 * x.flogn) = some p →
      ∃ t, exec (.faultLogEntry c n e) s = .next t
        ∧ (let a := p.phys (s.logBase c n + 16 * x.flogn)
           s.memKept t a 16 ∧ memLe t.mem 8 (a + 8) = e.addr.toNat ∧ memRead t.mem (a + 7) = BitVec.ofNat 8 (fcNum e.code)
           ∧ memRead t.mem (a + 6) = BitVec.ofNat 8 (e.kind * 16))
        ∧ (t.ctx c n).flogn = x.flogn + 1 ∧ t = { s with mem := t.mem, ctxs := t.ctxs })
    ∧ (∀ e, isSteward c = false → 16 ≤ x.flogn →
      exec (.faultLogEntry c n e) s = .next (s.modCtx c n (fun y => { y with flogn := min 255 (x.flogn + 1) })))
    ∧ (∀ d e es h, (s.core c).inq d = e :: es → (s.core c).handler d = h → h ≠ 0 → x.depth + 1 ≤ 4 + s.wss c / 128 →
      x.pendOf (.w 16) = none → x.pendOf (.w 17) = none → x.room = .free ∨ x.room = .reuse →
      ∃ t, exec (.lightHandlerCall c n d) s = .next t ∧ (t.ctx c n).pc = h ∧ (t.ctx c n).depth = x.depth + 1
        ∧ (t.ctx c n).readW 0 = e.v ∧ (t.ctx c n).readW 1 = BitVec.ofNat 64 (dirNum d) ∧ (t.ctx c n).readW 8 = x.pc
        ∧ (t.core c).inq d = es ∧ (t.ctx c n).trapDepth = x.trapDepth ∧ t.mem = s.mem)
    ∧ (∃ t, exec (.weightTakesEffect c n) s = .next t
        ∧ t.ctx c n = { x with weight := (t.ctx c n).weight, nextWeights := x.nextWeights.filter (fun e => decide (s.now < e.1)) }
        ∧ (∀ e es, x.nextWeights.filter (fun e => decide (e.1 ≤ s.now)) = es ++ [e] → (t.ctx c n).weight = e.2)
        ∧ ((∀ e ∈ x.nextWeights, s.now < e.1) → (t.ctx c n).weight = x.weight) ∧ t = { s with ctxs := t.ctxs })
    ∧ (s.now % 16 = 0 →
      (∃ t, exec (.throttleStepBegin c) s = .next t ∧ (∀ k, k ∈ t.throttled ↔ k = c ∨ k ∈ s.throttled) ∧ (∀ j, t.runnable c j = false)
        ∧ (c < Config.cores → ∀ d, (s.eng (linkId c d)).runs = true → (t.eng (linkId c d)).moving s.now = false)
        ∧ t = { s with throttled := t.throttled, engines := t.engines, agenda := t.agenda })
      ∧ (∃ t, exec (.throttleStepEnd c) s = .next t ∧ (∀ k, k ∈ t.throttled ↔ k ≠ c ∧ k ∈ s.throttled)
        ∧ t = { s with throttled := t.throttled, engines := t.engines, agenda := t.agenda }))
    ∧ (s.now % 16 ≠ 0 → ∃ t due, exec (.throttleStepBegin c) s = .next t ∧ t = { s with agenda := t.agenda }
        ∧ (due, Instr.throttleStepBegin c) ∈ t.agenda)

/-! ### Queues, levelling and iterations -/

/-- An entry in transit becomes the last of the inbound queue, a returned credit can be spent again, up to 16; a levelling demand sets the
context's greatest demand for its next rotation; a trigger notice is recorded and placement is tried (R148, R156, R209, R224). -/
def Sys2Proof.Claims.QueueEvents : Prop :=
  ∀ (s : State) (c : Nat) (d : Dir),
    let x := s.core c
    ((∀ z ∈ s.teams.cells, ∀ e ∈ z.2.savedCore, e.1 ≠ c) →
      (∀ e es, Table.get [] x.transit (dirNum d) = e :: es →
        ∃ t, exec (.queueEntryArrive c d) s = .next t ∧ (t.core c).inq d = x.inq d ++ [e] ∧ Table.get [] (t.core c).transit (dirNum d) = es
          ∧ (∀ j, j ≠ d → (t.core c).inq j = x.inq j) ∧ (t.core c).credits = x.credits
          ∧ (∀ k, k ≠ c → t.core k = s.core k) ∧ t = { s with cores := t.cores })
      ∧ (∃ t, exec (.creditReturn c d) s = .next t ∧ (t.core c).credit d = min 16 (x.credit d + 1)
          ∧ (∀ j, j ≠ d → (t.core c).credit j = x.credit j) ∧ (t.core c).qin = x.qin
          ∧ (∀ k, k ≠ c → t.core k = s.core k) ∧ t = { s with cores := t.cores }))
    ∧ (∀ (m : LevMsg) w, m.val = some w →
      ∃ t, exec (.levellingDemandArrive m) s = .next t
        ∧ Table.get 0 (t.ctx m.core m.ctx).demands (levKey m.srcCore m.ctl true) = w
        ∧ (∃ v, ((s.now / 16 + 1) * 16, v) ∈ (t.ctx m.core m.ctx).nextWeights ∧ (m.ctx ∈ (s.core m.core).free → v = 16)
            ∧ (m.ctx ∉ (s.core m.core).free → ∀ e ∈ (t.ctx m.core m.ctx).demands.cells, e.2 ≤ v))
        ∧ (t.ctx m.core m.ctx).weight = (s.ctx m.core m.ctx).weight
        ∧ ((s.now / 16 + 1) * 16, Instr.weightTakesEffect m.core m.ctx) ∈ t.agenda ∧ t = { s with ctxs := t.ctxs, agenda := t.agenda })
    ∧ (∀ n, ∃ t, exec (.triggerNotice c n) s = .next t ∧ t.ctx c n = { s.ctx c n with noticed := true }
        ∧ (∃ due, (due, Instr.placement) ∈ t.agenda) ∧ t = { s with ctxs := t.ctxs, agenda := t.agenda })

/-- A controller's sample on a queue: the occupancy, the streaks, the integral and the two demands as R155 computes them; it samples again a
period later. The engine's own controller samples every 64 cycles while the rendezvous runs, and slows the loader of the fuller FIFO by a
quarter of the gap (R155, R157). -/
def Sys2Proof.Claims.LevellingSamples : Prop :=
  ∀ (s : State) (c k : Nat) (l : Lev),
    ((s.core c).lev.find k = some l → l.en = true → l.nextAt = s.now → l.fifo = false →
      (∀ e ∈ s.agenda, s.now < e.1 ∨ e.2 ≠ .queueEntryArrive c l.dir) →
      let raw := ((s.core c).inq l.dir).length
      let ez := if raw = 0 then min (l.ez + 1) 2 else 0
      let fz := if raw = 16 then min (l.fz + 1) 2 else 0
      let e : Int := (raw : Int) - (l.setp : Int)
      let i : Int := if ez = 2 ∨ fz = 2 then 0 else max (-64) (min 63 (l.integ + e))
      let u : Int := Int.shiftRight (4 * e) l.gp + Int.shiftRight i l.gi
      ∃ t z, exec (.levellingSample c k) s = .next t ∧ (t.core c).lev.find k = some z
        ∧ z.occ = raw ∧ z.ez = ez ∧ z.fz = fz ∧ z.integ = i
        ∧ (z.wc : Int) = (if fz = 2 then 16 else max 1 (min 16 ((l.wc0 : Int) + u)))
        ∧ (z.wp : Int) = (if ez = 2 then 16 else max 1 (min 16 ((l.wp0 : Int) - u)))
        ∧ z.n = (l.n + 1) % 2 ^ 21 ∧ z.nextAt = s.now + l.period ∧ z.setp = l.setp ∧ z.period = l.period ∧ z.en = true
        ∧ (s.now + l.period, Instr.levellingSample c k) ∈ t.agenda ∧ t.mem = s.mem)
    ∧ ((s.core c).lev.find k = none → exec (.levellingSample c k) s = .next s)
    ∧ (∀ link, let e := s.eng link
      e.formed = true →
      ((s.now - e.t0) % 64 ≠ 0 ∨ (e.st ≠ .ready ∧ e.st ≠ .running ∧ e.st ≠ .draining) →
        ∃ t, exec (.engineLevelSample link) s = .next t ∧ t = { s with agenda := t.agenda }) ∧
      ((s.now - e.t0) % 64 = 0 → e.st = .ready ∨ e.st = .running ∨ e.st = .draining →
      let o (x : EEnd) : Nat := min 64 ((x.fifo.length + e.survivors.length + fmtDepth (fld x.desc 7 0) - 1) / fmtDepth (fld x.desc 7 0))
      let a : Int := o e.near
      let b : Int := o e.far
      ∃ t, exec (.engineLevelSample link) s = .next t
        ∧ (a < b → ((t.eng link).far.autoWeight : Int) = max 1 (min 16 (16 - Int.shiftRight (b - a) 2)) ∧ (t.eng link).near.autoWeight = 16)
        ∧ (b < a → ((t.eng link).near.autoWeight : Int) = max 1 (min 16 (16 - Int.shiftRight (a - b) 2)) ∧ (t.eng link).far.autoWeight = 16)
        ∧ (a = b → (t.eng link).near.autoWeight = 16 ∧ (t.eng link).far.autoWeight = 16)
        ∧ (∃ due, due ≤ s.now + 64 ∧ (due, Instr.engineLevelSample link) ∈ t.agenda)
        ∧ t = { s with engines := t.engines, agenda := t.agenda }))

/-- A claim takes the next chunk of the team's traverse counter, min(r, max(Cmin, ceil(r / (F P)))) iterations where r are left, or finds it
exhausted; its reply makes the chunk the fetcher's current one, or the one claimed ahead (R226). -/
def Sys2Proof.Claims.IterationClaims : Prop :=
  ∀ (s : State) (c : Nat),
    (∀ k u, s.teamOf c = some (k, u) →
      let r := u.lr.ext.foldl (· * ·) 1 - u.next
      let fp := u.lr.ff * u.cores.length
      let n := min r (max u.lr.cmin ((r + fp - 1) / fp))
      ∃ t, exec (.iterationClaim c) s = .next t ∧ t = { s with teams := t.teams, agenda := t.agenda }
        ∧ (r = 0 → t.teams.find k = some u ∧ (s.now + 110, Instr.claimReply c none) ∈ t.agenda)
        ∧ (r ≠ 0 → t.teams.find k = some { u with next := u.next + n }
            ∧ (s.now + 110, Instr.claimReply c (some (u.next, u.next + n))) ∈ t.agenda))
    ∧ (let f := (s.core c).fetch
       f.out = true → (s.core c).team ≠ none →
      (∃ t, exec (.claimReply c none) s = .next t ∧ (t.core c).fetch = { f with out := false, exhausted := true }
        ∧ (t.core c).qin = (s.core c).qin ∧ t = { s with cores := t.cores })
      ∧ (∀ lo hi, chunkLeft f.cur = 0 → f.ahead = none → f.exhausted = false → lo + 16 ≤ hi →
        ∃ t, exec (.claimReply c (some (lo, hi))) s = .next t ∧ (t.core c).fetch = { f with out := false, cur := some (lo, hi) }
          ∧ t = { s with cores := t.cores })
      ∧ (∀ lo hi, chunkLeft f.cur ≠ 0 →
        ∃ t, exec (.claimReply c (some (lo, hi))) s = .next t ∧ (t.core c).fetch = { f with out := false, ahead := some (lo, hi) }
          ∧ t = { s with cores := t.cores })
      ∧ (∀ lo hi, chunkLeft f.cur = 0 → f.ahead = none → f.exhausted = false → hi < lo + 16 →
        ∃ t, exec (.claimReply c (some (lo, hi))) s = .next t ∧ (t.core c).fetch = { f with out := true, cur := some (lo, hi) }
          ∧ (s.now + 110, Instr.iterationClaim c) ∈ t.agenda))

/-- Queues, levelling and iterations. -/
def Obligations.QueuesLevelsAndClaims : Prop :=
  Sys2Proof.Claims.QueueEvents ∧ Sys2Proof.Claims.LevellingSamples ∧ Sys2Proof.Claims.IterationClaims

/-! ### Engine events -/

/-- The columns an end's loader has read and no K-step has used, oldest first: those past the intersection unit, then the FIFO. -/
def Sys2Proof.Machine.Engine.stream (e : Engine) (far : Bool) : List Col :=
  e.passed.map (fun p => if far = e.aFar then p.1 else p.2.1) ++ (e.end_ far).fifo

/-- LEASE_GRANT gives a free token to the head of the highest-priority queue, one a die in a cycle, and the engine wakes 1,500 cycles later:
its LEASE register is written, and it is idle, or open-pending where an end stands open. EVICTION takes the lease of lowest priority, the latest granted among equals,
when the priority-3 head has waited past EVICTWAIT and no token is free: every party is told F_LEASE_REVOKED (R101, R103, R125). -/
def Obligations.LeaseEvents : Prop :=
  ∀ (s : State),
    (∀ die p r rs, (s.die die).granted ≠ some s.now → 0 < (s.die die).free → p < 4 → Table.get [] (s.die die).fifos p = r :: rs → r.pri = p →
      (∀ q, p < q → q < 4 → Table.get [] (s.die die).fifos q = []) → r.restore = false →
      (s.eng r.link).st = .dormant → (s.eng r.link).lease = none →
      ∃ t z, exec (.leaseGrant die) s = .next t ∧ (t.eng r.link).st = .waking ∧ (t.eng r.link).token = true ∧ (t.eng r.link).lease = some z
        ∧ z.team = r.team ∧ z.pri = r.pri ∧ z.core = r.core ∧ z.ctx = r.ctx ∧ z.tok = r.tok ∧ z.grantAt = s.now ∧ z.waited = s.now - r.at_
        ∧ (t.die die).free = (s.die die).free - 1 ∧ Table.get [] (t.die die).fifos p = rs ∧ (∀ l, l ≠ r.link → t.eng l = s.eng l)
        ∧ (s.now + 1500, Instr.engineWake r.link) ∈ t.agenda ∧ t = { s with engines := t.engines, dies := t.dies, agenda := t.agenda })
    ∧ (∀ die, (s.die die).free = 0 → exec (.leaseGrant die) s = .next s)
    ∧ (∀ die, (s.die die).granted = some s.now → ∃ t, exec (.leaseGrant die) s = .next t ∧ t = { s with agenda := t.agenda })
    ∧ (∀ l z p, let e := s.eng l
      e.lease = some z → e.token = true → e.st = .waking → e.formed = false → z.grantAt + 1500 = s.now →
      (s.ctx z.core z.ctx).pend.find? (fun q => q.tok == z.tok) = some p →
      ∃ t, exec (.engineWake l) s = .next t ∧ (t.eng l).st = (if e.near.isOpen ∨ e.far.isOpen then .openPending else .idle)
        ∧ t.ctx z.core z.ctx = { (s.ctx z.core z.ctx).writeLoc p.loc (leaseWord 0 z.pri z.waited l) with
            pend := (s.ctx z.core z.ctx).pend.filter (fun q => q.tok != z.tok) }
        ∧ t = { s with engines := t.engines, ctxs := t.ctxs })
    ∧ (∀ die r rs v z, let e := s.eng v
      Table.get [] (s.die die).fifos 3 = r :: rs → s.evictwait < s.now - r.at_ → (s.die die).free = 0 → s.switch = none →
      v / 1152 = die → e.token = true → e.lease = some z → e.st ≠ .waking → e.near.fault = none → e.far.fault = none →
      (∀ k ∈ s.engines.cells, k.1 / 1152 = die → k.2.token = true → ∀ y, k.2.lease = some y →
        k.1 = v ∨ z.pri < y.pri ∨ (z.pri = y.pri ∧ y.grantAt < z.grantAt)) →
      ∃ t, exec (.eviction die) s = .next t ∧ (t.eng v).st = .dormant ∧ (t.eng v).lease = none ∧ (t.eng v).token = false
        ∧ (t.die die).free = 1 ∧ (∀ l, l ≠ v → t.eng l = s.eng l)
        ∧ (∀ far, (e.end_ far).isOpen = true → ∃ p, ((t.eng v).end_ far).fault = some p ∧ p.code = .leaseRevoked)
        ∧ (∀ far, (e.end_ far).isOpen = false → ((t.eng v).end_ far).fault = none)
        ∧ t = { s with engines := t.engines, dies := t.dies, agenda := t.agenda })

/-- A held open takes effect once both ends have closed, as an LKOPEN issued then; a saved engine is restored once it has its token again, has
woken and both teams run, its loaders rewound; a loader's fetch reads the next K-block of its feed into the end's stream, or into the pre-pass of
a product with a term in force; a pre-pass makes the product's plan of what both loaders read, or leaves the product to the dense path (R107, R111,
R132, R136, R249, R252, R276). -/
def Obligations.LoadersAndRestores : Prop :=
  ∀ (s : State) (l : Nat) (far : Bool),
    let e := s.eng l
    let x := e.end_ far
    (∀ h, x.heldOpen = some h → e.near.isOpen = false → e.far.isOpen = false → e.st = .idle →
      ∃ t, exec (.heldOpenTakesEffect l far) s = .next t ∧ (t.eng l).st = .openPending
        ∧ (let y := (t.eng l).end_ far
           y.isOpen = true ∧ y.party = h.ctx ∧ y.roleB = h.roleB ∧ y.desc = h.desc ∧ y.addr = h.addr ∧ y.tok = some h.tok ∧ y.feeds = h.feeds
           ∧ y.heldOpen = none)
        ∧ (∀ k, k ≠ l → t.eng k = s.eng k) ∧ t = { s with engines := t.engines })
    ∧ (∀ z, e.st = .suspended → e.token = true → e.lease = some z → z.grantAt + 1500 ≤ s.now → s.partiesRun l = true →
      e.broken = false → e.saved = .done ∨ e.saved = .running ∨ e.saved = .faulted ∨ e.saved = .draining →
      ∃ t, exec (.engineRestore l) s = .next t ∧ (t.eng l).st = e.saved ∧ (t.eng l).savedBy = none ∧ (t.eng l).stopping = false
        ∧ (t.eng l).near.cache = [] ∧ (t.eng l).far.cache = [] ∧ (t.eng l).near.fifo = [] ∧ (t.eng l).far.fifo = []
        ∧ (t.eng l).near.feeds = e.near.feeds ∧ (t.eng l).far.feeds = e.far.feeds ∧ (t.eng l).tile0 = e.tile0 ∧ (t.eng l).tile1 = e.tile1
        ∧ (t.eng l).kdone = e.kdone ∧ (t.eng l).prod = e.prod ∧ t.mem = s.mem ∧ t.ctxs = s.ctxs)
    ∧ (e.st = .suspended → e.token = false → exec (.engineRestore l) s = .next s)
    ∧ (∀ f fs, e.moving s.now = true → x.feeds = f :: fs → x.fetch = some ⟨s.now, some ⟨f, f.pos, x.fetched, []⟩, true⟩ →
      f.pos = 0 ∨ x.handles.find f.handle = some f.base →
      let cache := if x.handles.find f.handle = some f.base then x.cache else x.cache.filter (fun c => c.handle != f.handle)
      let new := (s.readBlock (endCore l far) cache (dOfmt x.desc) (e.amode != 0) f f.pos x.fetched).2
      let pre := e.inPrePass (x.fetched / e.kLen)
      (pre = true → ∀ c ∈ new, c.bad = none) →
      ∃ t, exec (.loaderFetch l far) s = .next t
        ∧ (if pre then ((t.eng l).end_ far).pre = x.pre ++ new ∧ (t.eng l).stream far = e.stream far
           else ((t.eng l).end_ far).pre = x.pre
             ∧ (t.eng l).stream far = e.stream far ++ new.filter (fun c => decide (e.prod * e.kLen + e.kpos ≤ c.k)))
        ∧ ((t.eng l).end_ far).fetched = x.fetched + dBlock x.desc
        ∧ ((t.eng l).end_ far).feeds = (if f.pos + 1 = f.count then fs else { f with pos := f.pos + 1 } :: fs)
        ∧ ((t.eng l).end_ (!far)).feeds = (e.end_ (!far)).feeds ∧ (t.eng l).tile0 = e.tile0 ∧ (t.eng l).tile1 = e.tile1
        ∧ (t.eng l).kdone = e.kdone ∧ (∀ k, k ≠ l → t.eng k = s.eng k) ∧ t = { s with engines := t.engines, agenda := t.agenda })
    ∧ (e.moving s.now = false ∨ x.fetch = none → exec (.loaderFetch l far) s = .next s)
    ∧ (let q := e.prod
       let ca := (e.end_ e.aFar).pre.filter (fun c => c.k / e.kLen == q)
       let cb := (e.end_ (!e.aFar)).pre.filter (fun c => c.k / e.kLen == q)
       e.moving s.now = true → e.prePassReady q = true →
        ∃ t sideB c, exec (.prePass l) s = .next t ∧ Table.get none e.sp q = some (sideB, c)
          ∧ (∀ p k, makePlan e sideB c ca cb s.now = some (p, k) →
              (t.eng l).plans.find q = some p ∧ Table.get Counts.zero (t.eng l).counts q = k)
          ∧ (makePlan e sideB c ca cb s.now = none →
              (t.eng l).plans.find q = none ∧ Table.get none (t.eng l).sp q = none ∧ (Table.get Counts.zero (t.eng l).counts q).fb = true)
          ∧ (∀ y ∈ (t.eng l).near.pre ++ (t.eng l).far.pre, y.k / e.kLen ≠ q) ∧ (t.eng l).kdone = e.kdone
          ∧ (∀ k, k ≠ l → t.eng k = s.eng k) ∧ t = { s with engines := t.engines, agenda := t.agenda })

/-- A K-step of the dense path adds to every cell, in one rounding, the products of its surviving K indices; a tile that no K-step or drain needs
any more is done. A split drain takes the tile as it stands and starts it at zero. A drain begins when its receiver's checks pass, with its
number, or is held with F_DRAIN_TARGET posted to the A party; a row of a drain without an epilogue goes to the drain path, in an engine that
stands later, and lands at its place in the receiver's scratchpad, unless the router refuses it or has refused an earlier write of its source (R56,
R57, R112, R115 to R119, R121, R248). -/
def Obligations.StepsAndDrains : Prop :=
  ∀ (s : State) (l : Nat),
    let e := s.eng l
    let live := e.stepPairs.filter (·.2.2)
    (e.moving s.now = true → e.st = .running → e.started = true → e.stepNow s.now = true → e.copies = [] → badTile l ∉ s.bad →
      e.plan = none → (∀ p ∈ e.passed, p.1.bad = none ∧ p.2.1.bad = none) → live ≠ [] →
      e.kpos + e.stepPairs.length < e.kLen → e.tile.length = 1024 →
      ∃ t, exec (.kStep l) s = .next t ∧ (t.eng l).prod = e.prod ∧ (t.eng l).kdone = e.kdone + 1
        ∧ (t.eng l).kpos = e.kpos + e.stepPairs.length ∧ (t.eng l).tile.length = 1024
        ∧ (∀ m n, m < 32 → n < 32 → (t.eng l).tile.getD (32 * m + n) 0 = BitVec.ofNat 32
            (kStepCell e.nbv (e.amode != 0) (e.amode == 2) (e.tile.getD (32 * m + n) 0).toNat
              (live.filterMap (fun p => prodOf (colEl p.1 m) (colEl p.2.1 n)))))
        ∧ (∀ k, k ≠ l → t.eng k = s.eng k) ∧ t = { s with engines := t.engines, agenda := t.agenda })
    ∧ (e.moving s.now = true → e.st = .draining → e.pendingDrains = [] →
      ∃ t, exec (.kStep l) s = .next t ∧ t.eng l = { e with st := .done } ∧ t = { s with engines := t.engines })
    ∧ (e.kspl ≠ 0 → e.since = e.kspl → e.started = true → e.st = .running → e.held = none →
      ∃ t, exec (.splitDrain l) s = .next t ∧ (t.eng l).tile = List.replicate 1024 0 ∧ (t.eng l).since = 0 ∧ (t.eng l).kdone = e.kdone
        ∧ (t.eng l).drains = e.drains ++ [e.drainOf 0 false false (s.now + 5)] ∧ t = { s with engines := t.engines, agenda := t.agenda })
    ∧ (∀ d, e.moving s.now = true → e.heldTile = none → e.passing = none → e.st = .running ∨ e.st = .draining → e.nextDrain = some d →
      d.due ≤ s.now → e.rowAt ≤ s.now → e.acks = [] →
      let n := if d.num = 0 then e.num + 1 else d.num
      (s.drainWhy l d = 0 → ∃ t z, exec (.drainBegin l) s = .next t ∧ z ∈ (t.eng l).drains ∧ z.begun = true ∧ z.num = n ∧ z.tile = d.tile
          ∧ (t.eng l).st = e.st ∧ (s.now, Instr.epilogueRow l) ∈ t.agenda ∧ t = { s with engines := t.engines, agenda := t.agenda })
      ∧ (s.drainWhy l d ≠ 0 → (e.end_ e.aFar).fault = none → ∃ t p, exec (.drainBegin l) s = .next t ∧ (t.eng l).st = .faulted
          ∧ (t.eng l).heldTile = some { d with num := n } ∧ ((t.eng l).end_ e.aFar).fault = some p ∧ p.code = .drainTarget
          ∧ p.why = s.drainWhy l d ∧ p.ctx = (e.end_ e.aFar).party))
    ∧ (e.moving s.now = false → e.runs = true → ∀ d, e.passing = some d →
      ∃ t, exec (.epilogueRow l) s = .next t ∧ t = { s with agenda := t.agenda })
    ∧ (∀ d, (e.runs && e.standing s.now) = false → e.rowAt ≤ s.now → e.passing = some d → d.image = none →
      e.recvCore = linkNear l ∨ e.recvCore = linkFar l →
      ∃ t r due, exec (.epilogueRow l) s = .next t ∧ (due, Instr.drainRowWrite r) ∈ t.agenda ∧ s.now + 7 ≤ due
        ∧ r.link = l ∧ r.core = e.recvCore ∧ r.num = d.num ∧ r.off = (e.raddr d.prod d.row).toNat ∧ t.mem = s.mem
        ∧ r.bytes = ((tileRow d.tile d.row).take e.colsN).flatMap (fun v => leBytes (otypeBytes e.otype) v.toNat))
    ∧ (∀ d im, (e.runs && e.standing s.now) = false → e.rowAt ≤ s.now → e.passing = some d → d.image = some im →
      exec (.epilogueRow l) s = .next { s with epi := some ⟨l, 0, List.replicate 6 (List.replicate 32 0), 0⟩ })
    ∧ (∀ r : RowWrite, r.link = l → let own := some ((e.end_ e.aFar).party / 16)
      (Memory.wf s.mem = true → s.gate r.core own = .pass → (s.core r.core).refused = [] → r.acc = none → r.dw = none → s.badPart (spad r.core r.off) r.bytes.length = false →
        ∃ t, exec (.drainRowWrite r) s = .next t ∧ s.memKept t (spad r.core r.off) r.bytes.length
          ∧ (∀ j, j < r.bytes.length → memRead t.mem (spad r.core r.off + j) = r.bytes.getD j 0) ∧ t.ctxs = s.ctxs)
      ∧ (s.gate r.core own = .refuse ∨ (s.gate r.core own = .pass ∧ refusedBefore (s.core r.core).refused (s.rowSrc r) (rowTok r) = true) →
        exec (.drainRowWrite r) s = .next ((s.refuseAt r.core (s.rowSrc r) (rowTok r)).sched 96 (.drainRowWrite r))))

/-! ### The fabric -/

/-- INJECTION_SEND takes the oldest eligible entry of the injection queue, two cycles or more after its issue and one in a fabric cycle: a home
request is at its home 108 cycles later, a packet enters the router's local port, a fence's marker ends its fence. An output grants one head, which goes to the next router's channel or to its core; a head that has waited
ESCWAIT goes to the escape channel. A resent packet enters the router in its own class and order, or waits for a buffer of it (R166, R231, R232,
R234, R235, R237, R248). How the cycles of R237 fall to the parts of a way is the model's choice (log entry 5). -/
def Obligations.FabricMoves : Prop :=
  ∀ (s : State) (c : Nat),
    let x := s.core c
    (∀ k e, x.pickInj s.backPressure [] 0 x.inj = some k → x.inj[k]? = some e →
      (e.ready ≤ s.now → Table.get 0 (s.router c).busy injKey ≤ s.now → s.injRoom c e = true →
        ∃ t, exec (.injectionSend c) s = .next t ∧ (t.core c).inj = x.inj.take k ++ x.inj.drop (k + 1) ∧ t.mem = s.mem ∧ t.ctxs = s.ctxs
          ∧ (∀ r, e.body = .home r → paKind r.pa = .hbm → (s.now + 108, Instr.homeRequestArrival r) ∈ t.agenda)
          ∧ (∀ p, e.body = .pkt p → (let key := (s.router c).localKey p.cls
              ((t.router c).chan key).q = ((s.router c).chan key).q ++ [{ p with wait := 0, at_ := s.now + localDelay p }]))
          ∧ (∀ n tok, e.body = .marker n tok → (s.now, Instr.replyWrite c n tok .done) ∈ t.agenda))
      ∧ (s.now < e.ready ∨ s.now < Table.get 0 (s.router c).busy injKey ∨ s.injRoom c e = false →
        ∃ t, exec (.injectionSend c) s = .next t ∧ t = { s with agenda := t.agenda }))
    ∧ (x.pickInj s.backPressure [] 0 x.inj = none → exec (.injectionSend c) s = .next s)
    ∧ (∀ port q, Table.get 0 (s.router c).busy port ≤ s.now →
      bestReq (Table.get 5 (s.router c).last port) ((s.requests c port).filter (s.canTake c port)) = some q →
      (port ≠ 5 → (s.nextChan c port q).1 ≠ c) → (q.key / 16 = 5 → (s.router c).wait = []) →
      ∃ t, exec (.outputArbitration c port) s = .next t ∧ ((t.router c).chan q.key).q = ((s.router c).chan q.key).q.tail
        ∧ Table.get 0 (t.router c).busy port = s.afterFabric q.pkt.flits ∧ Table.get 5 (t.router c).last port = q.key / 16
        ∧ (port = 5 → (max (s.now + ejectDelay q.pkt) (if q.pkt.cls = .sync then Table.get 0 (s.router c).busy syncKey else 0),
            arrivalOf q.pkt) ∈ t.agenda)
        ∧ (port ≠ 5 → (let n := s.nextChan c port q
            ((t.router n.1).chan n.2).q = ((s.router n.1).chan n.2).q
              ++ [{ q.pkt with wait := 0, at_ := s.now + (if port = 4 then 9 else 3) }]))
        ∧ t = { s with routers := t.routers, agenda := t.agenda })
    ∧ (∀ key p ps, ((s.router c).chan key).q = p :: ps → key % 4 < 2 → s.escwait ≤ p.wait →
      (key / 16 = 5 → (s.router c).wait = []) → p.flits ≤ ((s.router c).chan (key - key % 4 + 2)).free →
      ∃ t, exec (.escapeEntry c key) s = .next t ∧ ((t.router c).chan key).q = ps
        ∧ ((t.router c).chan (key - key % 4 + 2)).q = ((s.router c).chan (key - key % 4 + 2)).q ++ [p]
        ∧ t = { s with routers := t.routers, agenda := t.agenda })
    ∧ (∀ p : Pkt, let key := (s.router p.src).localKey p.cls
      ∀ i ∈ [Instr.rstFeResend p, .writeResend p], ∃ t, exec i s = .next t
        ∧ (if (s.router p.src).takesLocal p
           then ((t.router p.src).chan key).q = ((s.router p.src).chan key).q ++ [{ p with wait := 0, at_ := s.now + localDelay p }]
           else (t.router p.src).wait = (s.router p.src).wait ++ [p])
        ∧ t = { s with routers := t.routers, agenda := t.agenda })

/-- A remote store that its target's router lets in is written there and acknowledged, by a packet of the SYNC class; a suspended team's router
refuses it and it is sent again, as it is where an earlier write of its source stands refused, a halted team's drops it with F_TEAM_BOUNDS in the sender's log. An RST.fe fills an empty word or waits. An acknowledgement ends its operation; a
write-combining entry idle for 256 cycles drains (R160, R165, R166, R174, R198, R242, R248, R253). -/
def Obligations.ArrivalsAndAcknowledgements : Prop :=
  ∀ (s : State) (p : Pkt),
    let x := s.core p.dst
    let g := s.gate p.dst (s.core p.src).team
    (∀ off bs, p.body = .store off bs →
      let cell := spad p.dst off
      (Memory.wf s.mem = true → g = .pass → x.refused = [] → s.touchesStacks p.dst off bs.length = false → s.badPart cell bs.length = false →
        ∃ t, exec (.remoteStoreArrival p) s = .next (t.ackPkt p) ∧ s.memKept t cell bs.length
          ∧ (∀ j, j < bs.length → memRead t.mem (cell + j) = bs.getD j 0) ∧ t = { s with mem := t.mem, bad := t.bad })
      ∧ (g = .pass → x.refused = [] → s.touchesStacks p.dst off bs.length = true →
        exec (.remoteStoreArrival p) s = .next (s.failPkt p .bounds 5 (apertureAddr p.dst off)))
      ∧ (g = .refuse ∨ (g = .pass ∧ refusedBefore x.refused p.src p.tok = true) →
          exec (.remoteStoreArrival p) s = .next ((s.refuseAt p.dst p.src p.tok).sched 96 (.writeResend p)))
      ∧ (g = .drop → x.refused = [] →
          exec (.remoteStoreArrival p) s = .next (s.failPkt p .teamBounds 5 (apertureAddr p.dst off))))
    -- an acknowledgement is a packet of the SYNC class, and a fault is reported at the sender
    ∧ (let q : Pkt :=
         { cls := .sync, src := p.dst, dst := p.src, flits := 1, prio := s.pktPrio p.dst, ctx := p.ctx, tok := p.tok, wait := 0, body := .ack }
       s.ackPkt p = s.enterRouter p.dst q ∧ arrivalOf q = .acknowledgement p.src p.ctx p.tok
       ∧ ∀ code kind a, (s.now + ackCycles p.src p.dst, Instr.faultLogEntry p.src p.ctx ⟨code, kind, a, 0⟩) ∈ (s.failPkt p code kind a).agenda
         ∧ (s.failPkt p code kind a).mem = s.mem ∧ (s.failPkt p code kind a).ctxs = s.ctxs)
    ∧ (∀ off v, p.body = .fe off v → g = .pass → x.refused = [] → x.rstRefused = [] → s.touchesStacks p.dst off 8 = false →
      (Memory.wf s.mem = true → s.isFull p.dst off = false → (∀ w ∈ x.rstWait, w.off ≠ off) → s.feWaiters p.dst off false = [] →
        ∃ t, exec (.rstFeArrival p) s = .next (t.ackPkt p) ∧ memLe t.mem 8 (spad p.dst off) = v.toNat ∧ s.memKept t (spad p.dst off) 8
          ∧ t.isFull p.dst off = true)
      ∧ (s.isFull p.dst off = true → x.rstWait.length < 32 →
        ∃ t, exec (.rstFeArrival p) s = .next t ∧ (t.core p.dst).rstWait = x.rstWait ++ [⟨off, v, p.src, p.ctx, p.tok, s.now⟩]
          ∧ t.mem = s.mem ∧ t.full = s.full)
      ∧ (s.isFull p.dst off = true → 32 ≤ x.rstWait.length →
        ∃ t, exec (.rstFeArrival p) s = .next t ∧ (s.now + 96, Instr.rstFeResend p) ∈ t.agenda ∧ t.mem = s.mem ∧ t.full = s.full))
    ∧ (∀ c n tok, n ≠ 16 → let y := s.core c
      ((∃ o ∈ y.unacked, o.tok = tok) → (∀ w ∈ y.wcb, w.tok ≠ tok) →
        ∃ t, exec (.acknowledgement c n tok) s = .next t ∧ (∀ o ∈ (t.core c).unacked, o.tok ≠ tok)
          ∧ (∀ o ∈ y.unacked, o.tok ≠ tok → o ∈ (t.core c).unacked) ∧ t.mem = s.mem ∧ t.ctxs = s.ctxs)
      ∧ ((∀ o ∈ y.unacked, o.tok ≠ tok) → exec (.acknowledgement c n tok) s = .next s))
    ∧ (∀ c pa, ∃ t, exec (.wcIdleTimeout c pa) s = .next t ∧ t.mem = s.mem ∧ t.ctxs = s.ctxs
        ∧ ∀ w ∈ (t.core c).wcb, w.pa = pa → w.last + 256 ≤ s.now → w.closed = true)

/-- At its home a request for a page that is not resident is parked behind those of the page; a load's line leaves at once where the home buffer
holds it; a drained entry writes the bytes its mask selects; RED replaces its word by the operation's result; both are acknowledged. A released
word goes to the oldest waiting HOLD, and a refused HOLD is sent again (R172, R177 to R179, R245). -/
def Obligations.HomeEvents : Prop :=
  ∀ (s : State) (r : HomeReq),
    let d := homeDie r.pa
    (s.resident r = false ∨ (∃ q ∈ (s.die d).resq, q.pa / 65536 = r.pa / 65536) →
      ∃ t, exec (.homeRequestArrival r) s = .next t ∧ (t.die d).resq = (s.die d).resq ++ [r] ∧ t = { s with dies := t.dies })
    ∧ (s.resident r = true → (∀ q ∈ (s.die d).resq, q.pa / 65536 ≠ r.pa / 65536) → r.core < 4096 →
      (r.kind = .load → s.loadBad r = false → r.pa % 64 = 0 → (∃ e ∈ (s.die d).lines, e.1 = r.pa / 64) →
        ∃ t, exec (.homeRequestArrival r) s = .next t
          ∧ (s.now + 110, Instr.replyWrite r.core r.ctx r.tok (.bytes (memBytes s.mem 64 r.pa))) ∈ t.agenda ∧ t.mem = s.mem)
      ∧ (∀ mask, r.kind = .store mask → Memory.wf s.mem = true → r.data.length = 64 → s.badIn r.pa 64 = false →
          s.blockedAt r ((storeWords mask.toNat).map (fun k => r.pa + 8 * k)) = none → s.stillHeld r = false →
        ∃ t, exec (.homeRequestArrival r) s = .next t ∧ s.memKept t r.pa 64
          ∧ (∀ j, j < 64 → memRead t.mem (r.pa + j) = if mask.getLsbD j then r.data.getD j 0 else memRead s.mem (r.pa + j))
          ∧ (s.now + 110, Instr.acknowledgement r.core r.ctx r.tok) ∈ t.agenda ∧ t.ctxs = s.ctxs)
      ∧ (∀ op, r.kind = .red op → Memory.wf s.mem = true → s.badIn r.pa (redBytes op) = false → s.blockedAt r [r.pa] = none →
        ∃ t, exec (.homeRequestArrival r) s = .next t ∧ s.memKept t r.pa (redBytes op)
          ∧ memLe t.mem (redBytes op) r.pa = redOp op (memLe s.mem (redBytes op) r.pa) (leNat r.data) % 2 ^ (8 * redBytes op)
          ∧ (s.now + 110, Instr.acknowledgement r.core r.ctx r.tok) ∈ t.agenda ∧ t.ctxs = s.ctxs))
    ∧ (∀ h rs, s.holds.find (r.pa / 8) = some h → h.core = 65535 → h.queue = r :: rs → r.kind = .hold → r.core < 4096 → s.badIn r.pa 8 = false →
      ∃ t, exec (.holdGrant r.pa) s = .next t ∧ t.holds.find (r.pa / 8) = some ⟨r.core, r.ctx, rs⟩
        ∧ (s.now + 110, Instr.replyWrite r.core r.ctx r.tok (.word (BitVec.ofNat 64 (memLe s.mem 8 r.pa)))) ∈ t.agenda
        ∧ t = { s with holds := t.holds, agenda := t.agenda })
    ∧ (∀ h, s.holds.find (r.pa / 8) = some h → h.core = 65535 → h.queue = [] →
      ∃ t, exec (.holdGrant r.pa) s = .next t ∧ t.holds.find (r.pa / 8) = none ∧ t = { s with holds := t.holds })
    ∧ (paKind r.pa = .hbm → exec (.holdResend r) s = .next (s.sched 110 (.homeRequestArrival r)))

/-! ### Memory channels, walks and copies -/

/-- Fine-grain bursts that wait together join the channel's reads; out of 64 reads a channel serves a request older than 256 fabric cycles, else
the oldest of the open row, else the oldest, and its data leaves; a refresh holds a channel for a while; the oldest walk of a die that is over
ends and its translation reaches the contexts parked for it (R175, R236, R258, R259). The length of a refresh, the rows of a channel and which
load fills the read cache are the model's (log entries 23, 27). -/
def Obligations.ChannelsAndWalks : Prop :=
  ∀ (s : State) (ch : Nat),
    let x := s.chan ch
    (∃ t, exec (.fineGrainBatchIssue ch) s = .next t ∧ (t.chan ch).fine = []
        ∧ (∀ e, e ∈ (t.chan ch).reads ↔ e ∈ x.reads ∨ e ∈ x.fine) ∧ t = { s with chans := t.chans, agenda := t.agenda })
    ∧ (∀ k at_ r, x.notBefore ≤ s.now → x.draining = false → x.writes = [] →
      k = pickServe s.now x.row ((x.reads.take 64).map (fun e => (e.1, hbmRow e.2.pa))) → x.reads[k]? = some (at_, r) →
      ∃ t, exec (.hbmRequestServe ch) s = .next t
        ∧ (t.chan ch).reads = (if r.kind = .load then noFill (clusterOf r.core) (onLine · r.pa) (x.reads.take k) else x.reads.take k)
            ++ x.reads.drop (k + 1)
        ∧ (t.chan ch).row = some (hbmRow r.pa) ∧ t.mem = s.mem
        ∧ (r.core < 4096 → r.kind = .load ∨ (∃ n, r.kind = .fine n) →
            (s.now + 588, Instr.replyWrite r.core r.ctx r.tok (.bytes r.data)) ∈ t.agenda))
    ∧ (∀ w ws, x.notBefore ≤ s.now → x.reads = [] → x.writes = w :: ws → 48 ≤ x.writes.length →
      ∃ t, exec (.hbmRequestServe ch) s = .next t ∧ (t.chan ch).writes.length = ws.length ∧ (t.chan ch).draining = true ∧ t.mem = s.mem)
    ∧ (s.now < x.notBefore → ∃ t, exec (.hbmRequestServe ch) s = .next t ∧ t = { s with agenda := t.agenda })
    ∧ (∃ t, exec (.hbmRefresh ch) s = .next t ∧ s.now < (t.chan ch).notBefore ∧ (t.chan ch).reads = x.reads ∧ (t.chan ch).writes = x.writes
        ∧ t = { s with chans := t.chans, fresh := t.fresh })
    ∧ (∀ die w ws, (s.die die).walks = w :: ws → w.ends ≤ s.now → w ∉ ws → ws.length < 64 →
      ∃ t, exec (.pageWalk die) s = .next t ∧ (t.die die).walks = ws ∧ t.mem = s.mem
        ∧ ∀ c n b, n < 16 → (c, n) ∈ w.waiters → coreDie c = die → (s.ctx c n).park = some (.cond (.xlat w.space w.region) b) →
            (t.ctx c n).xlat = some (w.space, w.region,
              (s.walk w.space (w.region * 65536)).map (fun e => (w.region * 65536, e.phys (w.region * 65536), e.attr))))

/-- A copy context starts its oldest waiting command and requests up to eight rows; a row is read whole and written byte for byte, one segment
of 64 bytes of the destination scratchpad a step; an index batch turns eight indices into rows and counts those out of range; a command that
ends writes its status word and counts in the chainage; the next entry of a schedule is released when its stage is reached and takes a free
place (R184, R187, R189, R192, R194, R197, R278). -/
def Obligations.CopyEngine : Prop :=
  ∀ (s : State) (core : Nat) (c : Cmd) (cs : List Cmd),
    let x := s.core core
    (x.cmds = c :: cs → (∀ k ∈ x.cmds, k.active = false) → s.teamStopped core = false → x.anyOut c.after = false → c.kind = .copy → c.total ≠ 0 →
      c.strideBad = false → c.rows = [] → c.waits = [] → c.next = 0 →
      ∃ t z, exec (.copyCommandStart core) s = .next t ∧ (t.core core).findCmd c.id = some z ∧ z.active = true ∧ z.desc = c.desc
        ∧ z.rows = (List.range (min 8 c.total)).map c.boxRow ∧ z.next = min 8 c.total ∧ z.sentAll = decide (c.total ≤ 8)
        ∧ (∃ due k, k < min 8 c.total ∧ (due, Instr.copyRowWrite core c.id k) ∈ t.agenda) ∧ t.mem = s.mem)
    ∧ (∀ id r c1 o1 c2 o2, Memory.wf s.mem = true → x.findCmd id = some c → c.parked = none → c.walk = none → c.waits = [] → core ∉ s.throttled →
      (s.cluster (clusterOf core)).beatAt ≤ s.now → c.kind = .copy → c.swz = false → fld c.desc 483 482 = 0 → fld c.desc 481 481 = 0 → 0 < c.len →
      c.rows.find? (fun y => y.k == r.k) = some r → r.fill = none → r.data = none → r.done = 0 → isPad r.src = true → isPad r.dst = true →
      s.padSpan core id r.src c.len false = .ok (c1, o1) → s.padSpan core id r.dst c.len true = .ok (c2, o2) →
      s.badIn (spad c1 o1) c.len = false → s.badPart (spad c2 o2) c.len = false →
      let n := min c.len (64 - r.dst % 64)
      ∃ t, exec (.copyRowWrite core id r.k) s = .next t ∧ s.memKept t (spad c2 o2) n
        ∧ (∀ j, j < n → memRead t.mem (spad c2 o2 + j) = memRead s.mem (spad c1 o1 + j)) ∧ t.ctxs = s.ctxs
        -- the rest of the row, as it was read, follows
        ∧ (n < c.len → (∃ z, (t.core core).findCmd id = some z ∧ z.rows.find? (fun y => y.k == r.k)
              = some { r with data := some ((memBytes s.mem c.len (spad c1 o1)).drop n), done := n })
            ∧ ∃ due, (due, Instr.copyRowWrite core id r.k) ∈ t.agenda))
    ∧ (∀ id bs u, x.findCmd id = some c → c.err = none → c.sentAll = false → c.parked = none → c.walk = none → core ∉ s.throttled →
      s.copyRead core id (fld c.desc 319 256 + 32 * c.next) 32 = .ok (bs, u) →
      let n := min 8 (fld c.desc 383 352 - 8 * c.next)
      let rows := (List.range n).map (fun i => c.indexRow (8 * c.next + i) (leNat ((bs.drop (4 * i)).take 4)))
      ∃ t z, exec (.gatherIndexBatch core id) s = .next t ∧ (t.core core).findCmd id = some z ∧ z.rows = c.rows ++ rows ∧ z.next = c.next + 1
        ∧ z.oor = c.oor + (rows.filter (fun r => r.fill.isSome)).length ∧ t.mem = s.mem ∧ t.ctxs = s.ctxs)
    ∧ (∀ id tok, x.findCmd id = some c → c.tok = some tok → c.sched = none → x.schWait = [] →
      ∃ t, exec (.copyCommandComplete core id) s = .next t ∧ (∀ y ∈ (t.core core).cmds, y.id ≠ id)
        ∧ (s.now, Instr.pendingCompletionWrite core c.ctx tok (BitVec.ofNat 64 c.status)) ∈ t.agenda
        ∧ (t.core core).copyCtr = (chainDone x.copyCtr x.copyDone c.num).1 ∧ t.mem = s.mem ∧ t.ctxs = s.ctxs)
    ∧ (∀ team sched u es st e, s.teams.find team = some u → u.lr.sch[sched]? = some es → u.scheds[sched]? = some st → es[st.released]? = some e →
      let k := coreAt u.die (u.ox + e.cx) (u.oy + e.cy)
      e.stage ≤ u.stage → (s.core k).team = some team → (s.core k).cmds.length < 16 → (s.core k).schWait = [] → s.teamStopped k = false →
      ∃ t z v, exec (.scheduleEntryRelease team sched) s = .next t ∧ (t.core k).cmds = (s.core k).cmds ++ [z] ∧ z.kind = e.kind ∧ z.desc = e.desc
        ∧ z.swz = e.swz ∧ z.fill = e.fill ∧ z.sched = some (sched, st.released) ∧ z.num = st.released + 1 ∧ z.tok = none ∧ z.active = false
        ∧ t.teams.find team = some v ∧ v.scheds[sched]? = some { st with released := st.released + 1 } ∧ t.mem = s.mem)

/-! ### The outside world and the steward -/

/-- The steward's repair of a page marks its entry resident, and no request stays queued for it; a page declared fatal ends the queued loads with
the fault. A peer's request inside its window goes to its home, and others are ignored; a PCIe completion ends its access, too short or too late
with F_MEMERR; an uncorrectable error makes its aligned word bad (R171, R245, R246, R260). -/
def Obligations.OutsideEvents : Prop :=
  ∀ (s : State),
    (∀ space va e a, Memory.wf s.mem = true → s.walk space va = some e → (s.readsOf space va).getLast? = some a →
      ∃ t, exec (.residencyRepair space va) s = .next t
        ∧ (∀ d, ∀ q ∈ (t.die d).resq, ¬ (e.pa ≤ q.pa ∧ q.pa < e.pa + e.size))
        ∧ ((∀ d ∈ s.dies.cells, ∀ q ∈ d.2.resq, ¬ (e.pa ≤ q.pa ∧ q.pa < e.pa + e.size)) →
            s.memKept t a 8 ∧ memLe t.mem 8 a = (if bit (memLe s.mem 8 a) 8 then memLe s.mem 8 a else memLe s.mem 8 a + 256)))
    ∧ (∀ space va protect e, s.walk space va = some e →
      ∃ t, exec (.residencyFatal space va protect) s = .next t
        ∧ ∀ d, ∀ q ∈ (s.die d).resq, e.pa ≤ q.pa → q.pa < e.pa + e.size → q.kind = .load → q.core < 4096 →
            (s.now + 110, Instr.replyWrite q.core q.ctx q.tok (.fault (if protect then .protect else .translate) (BitVec.ofNat 64 q.va)))
              ∈ t.agenda)
    ∧ (∀ (k : Fin 24) (r : HomeReq), let w := Table.get (0, 0) s.spanin k.val
      (r.kind ≠ .hold → r.kind ≠ .hrel → s.spanEn.getLsbD k.val = true → w.1 ≤ r.pa → r.pa < w.1 + w.2 → r.pa < 0xC0_0000_0000 →
        exec (.spanInboundRequest k r) s = .next (s.sched 0 (.homeRequestArrival { r with core := 4096 + k.val, ctx := 0, res := true })))
      ∧ (s.spanEn.getLsbD k.val = false ∨ r.pa < w.1 ∨ w.1 + w.2 ≤ r.pa ∨ 0xC0_0000_0000 ≤ r.pa →
        exec (.spanInboundRequest k r) s = .next s))
    ∧ (∀ c n tok len dst sz signed a (bs : List Byte), (∃ p ∈ s.pcie, p.2.2.1 = tok) →
      (s.ctx c n).park = some (.result tok len (.load dst sz signed a (List.replicate sz none))) →
      let u := { s with pcie := s.pcie.filter (fun p => p.2.2.1 != tok) }
      (sz ≤ bs.length → exec (.pcieCompletion c n tok bs) s = .next (u.reply c n tok (.bytes (bs.take 32))))
      ∧ (bs.length < sz → exec (.pcieCompletion c n tok bs) s = .next (u.reply c n tok (.fault .memErr (BitVec.ofNat 64 a))))
      ∧ exec (.pcieCompletionTimeout c n tok) s = .next (u.reply c n tok (.fault .memErr (BitVec.ofNat 64 a))))
    ∧ (∀ key, key < 2 ^ 54 → ∃ t, exec (.uncorrectableError key) s = .next t ∧ t = { s with bad := t.bad }
        ∧ ∀ w, w ∈ t.bad ↔ w ∈ s.bad ∨ w = key / 8 * 8)

/-- The steward's registers: SVCREQ pops the oldest service request, SVCANS answers the one last popped, and the answer reaches the trapping
context as TRAP's result; SWREQ begins the switch-out of a running team; TLBINV empties the TLBs of its page; SLOTROOT, SPANIN and ESCWAIT set
what they name, and a value out of range raises F_ILLEGAL at the steward's bundle (R247, R261, R262, R273, R355, R356). -/
def Obligations.StewardEvents : Prop :=
  ∀ (s : State) (k : Nat) (v : Word),
    (∀ r rs dst, s.svcq = r :: rs → isPlainDst dst = true →
      ∃ t, exec (.svcreq k dst) s = .next t ∧ t.svcq = rs ∧ (t.steward k).popped = some r ∧ (t.steward k).svcarg = r.arg
        ∧ (t.ctx (2304 + k) 0).read dst = BitVec.ofNat 64 (svcWord r) ∧ t = { s with svcq := rs, stewards := t.stewards, ctxs := t.ctxs })
    ∧ (∀ dst, s.svcq = [] → isPlainDst dst = true → ∃ t, exec (.svcreq k dst) s = .next t ∧ (t.ctx (2304 + k) 0).read dst = 0
        ∧ t = { s with ctxs := t.ctxs })
    ∧ (∀ r, (s.steward k).popped = some r →
      ∃ t, exec (.svcans k v) s = .next t ∧ (t.steward k).popped = none
        ∧ (s.now + answerCycles r.core, Instr.trapAnswer r.core r.ctx v) ∈ t.agenda ∧ t = { s with stewards := t.stewards, agenda := t.agenda })
    ∧ (∀ c n tok len dst, (s.ctx c n).park = some (.result tok len (.answer dst)) → isPlainDst dst = true →
      ∃ t, exec (.trapAnswer c n v) s = .next t ∧ (t.ctx c n).read dst = v ∧ (t.ctx c n).park = none
        ∧ (t.ctx c n).pc = (s.ctx c n).pc + BitVec.ofNat 64 len ∧ t.mem = s.mem)
    ∧ (∀ team, s.runningTeam (fld v.toNat 41 32) (fld v.toNat 15 0) = some team → s.switch = none →
      ∃ t w due, exec (.swreq k v) s = .next t ∧ t.switch = some w ∧ w.team = team ∧ w.step = 1
        ∧ (due, Instr.preemptStopIssue team) ∈ t.agenda ∧ due % 16 = 0 ∧ t = { s with switch := t.switch, agenda := t.agenda })
    ∧ (let all := bit v.toNat 0
       let va := fld v.toNat 51 16 * 65536
       (s.steward k).inv = none → s.oldAccess s.tok all va = false →
        ∃ t, exec (.tlbinv k v) s = .next t ∧ t.mem = s.mem
          ∧ (∀ c, ∀ e ∈ (t.core c).utlb, all = false ∧ ¬ (e.va ≤ va ∧ va < e.va + e.size))
          ∧ (∀ c, ∀ e ∈ (t.cluster c).tlb, all = false ∧ ¬ (e.va ≤ va ∧ va < e.va + e.size)))
    ∧ (let root := fld v.toNat 51 16 * 65536
       (root < 0xC0_0000_0000 → ∃ t, exec (.slotroot k v) s = .next t
          ∧ (∀ j, t.slot j = if j = fld v.toNat 63 54 then { s.slot j with root := root } else s.slot j) ∧ t.mem = s.mem)
       ∧ (0xC0_0000_0000 ≤ root → exec (.slotroot k v) s = .next (s.refuseSteward k)))
    ∧ (let l := fld v.toNat 4 0
       let base := fld v.toNat 27 8
       let size := fld v.toNat 47 28
       (l ≤ 23 → size = 0 ∨ base + size ≤ 752 → ∃ t, exec (.spanin k v) s = .next t ∧ t.mem = s.mem
          ∧ ∀ j, Table.get (0, 0) t.spanin j = if j = l then (base * 2 ^ 30, size * 2 ^ 30) else Table.get (0, 0) s.spanin j)
       ∧ (23 < l ∨ (size ≠ 0 ∧ 752 < base + size) → exec (.spanin k v) s = .next (s.refuseSteward k)))
    ∧ (let n := fld v.toNat 12 0
       (16 ≤ n → n ≤ 4096 → ∃ t, exec (.escwait k v) s = .next t ∧ t.escwait = n ∧ t.mem = s.mem)
       ∧ (n < 16 ∨ 4096 < n → exec (.escwait k v) s = .next (s.refuseSteward k)))
end

