-- ==== Sys2Proof/Laws/Ctx.lean ====
section
/-! SUPPORT. What each update of a context leaves as it was: one lemma for each field of each update. -/

namespace Sys2Proof.Machine

variable (x : Ctx)


@[simp] theorem Ctx.shift_st (v : Word) : (x.shift v).st = x.st := rfl
@[simp] theorem Ctx.shift_halted (v : Word) : (x.shift v).halted = x.halted := rfl
@[simp] theorem Ctx.shift_pc (v : Word) : (x.shift v).pc = x.pc := rfl
@[simp] theorem Ctx.shift_src (v : Word) : (x.shift v).src = x.src := rfl
@[simp] theorem Ctx.shift_readyAt (v : Word) : (x.shift v).readyAt = x.readyAt := rfl
@[simp] theorem Ctx.shift_trapDepth (v : Word) : (x.shift v).trapDepth = x.trapDepth := rfl
@[simp] theorem Ctx.shift_openers (v : Word) : (x.shift v).openers = x.openers := rfl
@[simp] theorem Ctx.shift_wins (v : Word) : (x.shift v).wins = x.wins := rfl
@[simp] theorem Ctx.shift_base (v : Word) : (x.shift v).base = x.base := rfl
@[simp] theorem Ctx.shift_recv (v : Word) : (x.shift v).recv = x.recv := rfl
@[simp] theorem Ctx.shift_recvClean (v : Word) : (x.shift v).recvClean = x.recvClean := rfl
@[simp] theorem Ctx.shift_serial (v : Word) : (x.shift v).serial = x.serial := rfl
@[simp] theorem Ctx.shift_g (v : Word) : (x.shift v).g = x.g := rfl
@[simp] theorem Ctx.shift_o (v : Word) : (x.shift v).o = x.o := rfl
@[simp] theorem Ctx.shift_i (v : Word) : (x.shift v).i = x.i := rfl
@[simp] theorem Ctx.shift_p (v : Word) : (x.shift v).p = x.p := rfl
@[simp] theorem Ctx.shift_v (v : Word) : (x.shift v).v = x.v := rfl
@[simp] theorem Ctx.shift_m (v : Word) : (x.shift v).m = x.m := rfl
@[simp] theorem Ctx.shift_flags (v : Word) : (x.shift v).flags = x.flags := rfl
@[simp] theorem Ctx.shift_flogn (v : Word) : (x.shift v).flogn = x.flogn := rfl
@[simp] theorem Ctx.shift_pend (v : Word) : (x.shift v).pend = x.pend := rfl
@[simp] theorem Ctx.shift_park (v : Word) : (x.shift v).park = x.park := rfl
@[simp] theorem Ctx.shift_weight (v : Word) : (x.shift v).weight = x.weight := rfl
@[simp] theorem Ctx.shift_nextWeights (v : Word) : (x.shift v).nextWeights = x.nextWeights := rfl
@[simp] theorem Ctx.shift_demands (v : Word) : (x.shift v).demands = x.demands := rfl
@[simp] theorem Ctx.shift_held (v : Word) : (x.shift v).held = x.held := rfl
@[simp] theorem Ctx.shift_trig (v : Word) : (x.shift v).trig = x.trig := rfl
@[simp] theorem Ctx.shift_noticed (v : Word) : (x.shift v).noticed = x.noticed := rfl
@[simp] theorem Ctx.shift_barrier (v : Word) : (x.shift v).barrier = x.barrier := rfl
@[simp] theorem Ctx.shift_lastCopy (v : Word) : (x.shift v).lastCopy = x.lastCopy := rfl
@[simp] theorem Ctx.shift_xlat (v : Word) : (x.shift v).xlat = x.xlat := rfl
@[simp] theorem Ctx.shift_prodRec (v : Word) : (x.shift v).prodRec = x.prodRec := rfl
@[simp] theorem Ctx.shift_since (v : Word) : (x.shift v).since = x.since := rfl
@[simp] theorem Ctx.shift_image (v : Word) : (x.shift v).image = x.image := rfl
@[simp] theorem Ctx.shift_undo (v : Word) : (x.shift v).undo = x.undo := rfl

@[simp] theorem Ctx.writeWin_st (k r : Nat) (v : Word) : (x.writeWin k r v).st = x.st := rfl
@[simp] theorem Ctx.writeWin_halted (k r : Nat) (v : Word) : (x.writeWin k r v).halted = x.halted := rfl
@[simp] theorem Ctx.writeWin_pc (k r : Nat) (v : Word) : (x.writeWin k r v).pc = x.pc := rfl
@[simp] theorem Ctx.writeWin_src (k r : Nat) (v : Word) : (x.writeWin k r v).src = x.src := rfl
@[simp] theorem Ctx.writeWin_readyAt (k r : Nat) (v : Word) : (x.writeWin k r v).readyAt = x.readyAt := rfl
@[simp] theorem Ctx.writeWin_trapDepth (k r : Nat) (v : Word) : (x.writeWin k r v).trapDepth = x.trapDepth := rfl
@[simp] theorem Ctx.writeWin_openers (k r : Nat) (v : Word) : (x.writeWin k r v).openers = x.openers := rfl
@[simp] theorem Ctx.writeWin_base (k r : Nat) (v : Word) : (x.writeWin k r v).base = x.base := rfl
@[simp] theorem Ctx.writeWin_recv (k r : Nat) (v : Word) : (x.writeWin k r v).recv = x.recv := rfl
@[simp] theorem Ctx.writeWin_recvClean (k r : Nat) (v : Word) : (x.writeWin k r v).recvClean = x.recvClean := rfl
@[simp] theorem Ctx.writeWin_serial (k r : Nat) (v : Word) : (x.writeWin k r v).serial = x.serial := rfl
@[simp] theorem Ctx.writeWin_g (k r : Nat) (v : Word) : (x.writeWin k r v).g = x.g := rfl
@[simp] theorem Ctx.writeWin_o (k r : Nat) (v : Word) : (x.writeWin k r v).o = x.o := rfl
@[simp] theorem Ctx.writeWin_l (k r : Nat) (v : Word) : (x.writeWin k r v).l = x.l := rfl
@[simp] theorem Ctx.writeWin_i (k r : Nat) (v : Word) : (x.writeWin k r v).i = x.i := rfl
@[simp] theorem Ctx.writeWin_p (k r : Nat) (v : Word) : (x.writeWin k r v).p = x.p := rfl
@[simp] theorem Ctx.writeWin_v (k r : Nat) (v : Word) : (x.writeWin k r v).v = x.v := rfl
@[simp] theorem Ctx.writeWin_m (k r : Nat) (v : Word) : (x.writeWin k r v).m = x.m := rfl
@[simp] theorem Ctx.writeWin_flags (k r : Nat) (v : Word) : (x.writeWin k r v).flags = x.flags := rfl
@[simp] theorem Ctx.writeWin_flogn (k r : Nat) (v : Word) : (x.writeWin k r v).flogn = x.flogn := rfl
@[simp] theorem Ctx.writeWin_pend (k r : Nat) (v : Word) : (x.writeWin k r v).pend = x.pend := rfl
@[simp] theorem Ctx.writeWin_park (k r : Nat) (v : Word) : (x.writeWin k r v).park = x.park := rfl
@[simp] theorem Ctx.writeWin_weight (k r : Nat) (v : Word) : (x.writeWin k r v).weight = x.weight := rfl
@[simp] theorem Ctx.writeWin_nextWeights (k r : Nat) (v : Word) : (x.writeWin k r v).nextWeights = x.nextWeights := rfl
@[simp] theorem Ctx.writeWin_demands (k r : Nat) (v : Word) : (x.writeWin k r v).demands = x.demands := rfl
@[simp] theorem Ctx.writeWin_held (k r : Nat) (v : Word) : (x.writeWin k r v).held = x.held := rfl
@[simp] theorem Ctx.writeWin_trig (k r : Nat) (v : Word) : (x.writeWin k r v).trig = x.trig := rfl
@[simp] theorem Ctx.writeWin_noticed (k r : Nat) (v : Word) : (x.writeWin k r v).noticed = x.noticed := rfl
@[simp] theorem Ctx.writeWin_barrier (k r : Nat) (v : Word) : (x.writeWin k r v).barrier = x.barrier := rfl
@[simp] theorem Ctx.writeWin_lastCopy (k r : Nat) (v : Word) : (x.writeWin k r v).lastCopy = x.lastCopy := rfl
@[simp] theorem Ctx.writeWin_xlat (k r : Nat) (v : Word) : (x.writeWin k r v).xlat = x.xlat := rfl
@[simp] theorem Ctx.writeWin_prodRec (k r : Nat) (v : Word) : (x.writeWin k r v).prodRec = x.prodRec := rfl
@[simp] theorem Ctx.writeWin_since (k r : Nat) (v : Word) : (x.writeWin k r v).since = x.since := rfl
@[simp] theorem Ctx.writeWin_image (k r : Nat) (v : Word) : (x.writeWin k r v).image = x.image := rfl
@[simp] theorem Ctx.writeWin_undo (k r : Nat) (v : Word) : (x.writeWin k r v).undo = x.undo := rfl

@[simp] theorem Ctx.writeW_st (r : Nat) (v : Word) : (x.writeW r v).st = x.st := by
  unfold Ctx.writeW Ctx.writeWin; split; · rfl
  split; · rfl
  split <;> rfl
@[simp] theorem Ctx.writeW_halted (r : Nat) (v : Word) : (x.writeW r v).halted = x.halted := by
  unfold Ctx.writeW Ctx.writeWin; split; · rfl
  split; · rfl
  split <;> rfl
@[simp] theorem Ctx.writeW_pc (r : Nat) (v : Word) : (x.writeW r v).pc = x.pc := by
  unfold Ctx.writeW Ctx.writeWin; split; · rfl
  split; · rfl
  split <;> rfl
@[simp] theorem Ctx.writeW_src (r : Nat) (v : Word) : (x.writeW r v).src = x.src := by
  unfold Ctx.writeW Ctx.writeWin; split; · rfl
  split; · rfl
  split <;> rfl
@[simp] theorem Ctx.writeW_readyAt (r : Nat) (v : Word) : (x.writeW r v).readyAt = x.readyAt := by
  unfold Ctx.writeW Ctx.writeWin; split; · rfl
  split; · rfl
  split <;> rfl
@[simp] theorem Ctx.writeW_trapDepth (r : Nat) (v : Word) : (x.writeW r v).trapDepth = x.trapDepth := by
  unfold Ctx.writeW Ctx.writeWin; split; · rfl
  split; · rfl
  split <;> rfl
@[simp] theorem Ctx.writeW_openers (r : Nat) (v : Word) : (x.writeW r v).openers = x.openers := by
  unfold Ctx.writeW Ctx.writeWin; split; · rfl
  split; · rfl
  split <;> rfl
@[simp] theorem Ctx.writeW_serial (r : Nat) (v : Word) : (x.writeW r v).serial = x.serial := by
  unfold Ctx.writeW Ctx.writeWin; split; · rfl
  split; · rfl
  split <;> rfl
@[simp] theorem Ctx.writeW_g (r : Nat) (v : Word) : (x.writeW r v).g = x.g := by
  unfold Ctx.writeW Ctx.writeWin; split; · rfl
  split; · rfl
  split <;> rfl
@[simp] theorem Ctx.writeW_o (r : Nat) (v : Word) : (x.writeW r v).o = x.o := by
  unfold Ctx.writeW Ctx.writeWin; split; · rfl
  split; · rfl
  split <;> rfl
@[simp] theorem Ctx.writeW_l (r : Nat) (v : Word) : (x.writeW r v).l = x.l := by
  unfold Ctx.writeW Ctx.writeWin; split; · rfl
  split; · rfl
  split <;> rfl
@[simp] theorem Ctx.writeW_i (r : Nat) (v : Word) : (x.writeW r v).i = x.i := by
  unfold Ctx.writeW Ctx.writeWin; split; · rfl
  split; · rfl
  split <;> rfl
@[simp] theorem Ctx.writeW_p (r : Nat) (v : Word) : (x.writeW r v).p = x.p := by
  unfold Ctx.writeW Ctx.writeWin; split; · rfl
  split; · rfl
  split <;> rfl
@[simp] theorem Ctx.writeW_v (r : Nat) (v : Word) : (x.writeW r v).v = x.v := by
  unfold Ctx.writeW Ctx.writeWin; split; · rfl
  split; · rfl
  split <;> rfl
@[simp] theorem Ctx.writeW_m (r : Nat) (v : Word) : (x.writeW r v).m = x.m := by
  unfold Ctx.writeW Ctx.writeWin; split; · rfl
  split; · rfl
  split <;> rfl
@[simp] theorem Ctx.writeW_flags (r : Nat) (v : Word) : (x.writeW r v).flags = x.flags := by
  unfold Ctx.writeW Ctx.writeWin; split; · rfl
  split; · rfl
  split <;> rfl
@[simp] theorem Ctx.writeW_flogn (r : Nat) (v : Word) : (x.writeW r v).flogn = x.flogn := by
  unfold Ctx.writeW Ctx.writeWin; split; · rfl
  split; · rfl
  split <;> rfl
@[simp] theorem Ctx.writeW_pend (r : Nat) (v : Word) : (x.writeW r v).pend = x.pend := by
  unfold Ctx.writeW Ctx.writeWin; split; · rfl
  split; · rfl
  split <;> rfl
@[simp] theorem Ctx.writeW_park (r : Nat) (v : Word) : (x.writeW r v).park = x.park := by
  unfold Ctx.writeW Ctx.writeWin; split; · rfl
  split; · rfl
  split <;> rfl
@[simp] theorem Ctx.writeW_weight (r : Nat) (v : Word) : (x.writeW r v).weight = x.weight := by
  unfold Ctx.writeW Ctx.writeWin; split; · rfl
  split; · rfl
  split <;> rfl
@[simp] theorem Ctx.writeW_nextWeights (r : Nat) (v : Word) : (x.writeW r v).nextWeights = x.nextWeights := by
  unfold Ctx.writeW Ctx.writeWin; split; · rfl
  split; · rfl
  split <;> rfl
@[simp] theorem Ctx.writeW_demands (r : Nat) (v : Word) : (x.writeW r v).demands = x.demands := by
  unfold Ctx.writeW Ctx.writeWin; split; · rfl
  split; · rfl
  split <;> rfl
@[simp] theorem Ctx.writeW_held (r : Nat) (v : Word) : (x.writeW r v).held = x.held := by
  unfold Ctx.writeW Ctx.writeWin; split; · rfl
  split; · rfl
  split <;> rfl
@[simp] theorem Ctx.writeW_trig (r : Nat) (v : Word) : (x.writeW r v).trig = x.trig := by
  unfold Ctx.writeW Ctx.writeWin; split; · rfl
  split; · rfl
  split <;> rfl
@[simp] theorem Ctx.writeW_noticed (r : Nat) (v : Word) : (x.writeW r v).noticed = x.noticed := by
  unfold Ctx.writeW Ctx.writeWin; split; · rfl
  split; · rfl
  split <;> rfl
@[simp] theorem Ctx.writeW_barrier (r : Nat) (v : Word) : (x.writeW r v).barrier = x.barrier := by
  unfold Ctx.writeW Ctx.writeWin; split; · rfl
  split; · rfl
  split <;> rfl
@[simp] theorem Ctx.writeW_lastCopy (r : Nat) (v : Word) : (x.writeW r v).lastCopy = x.lastCopy := by
  unfold Ctx.writeW Ctx.writeWin; split; · rfl
  split; · rfl
  split <;> rfl
@[simp] theorem Ctx.writeW_xlat (r : Nat) (v : Word) : (x.writeW r v).xlat = x.xlat := by
  unfold Ctx.writeW Ctx.writeWin; split; · rfl
  split; · rfl
  split <;> rfl
@[simp] theorem Ctx.writeW_prodRec (r : Nat) (v : Word) : (x.writeW r v).prodRec = x.prodRec := by
  unfold Ctx.writeW Ctx.writeWin; split; · rfl
  split; · rfl
  split <;> rfl
@[simp] theorem Ctx.writeW_since (r : Nat) (v : Word) : (x.writeW r v).since = x.since := by
  unfold Ctx.writeW Ctx.writeWin; split; · rfl
  split; · rfl
  split <;> rfl
@[simp] theorem Ctx.writeW_image (r : Nat) (v : Word) : (x.writeW r v).image = x.image := by
  unfold Ctx.writeW Ctx.writeWin; split; · rfl
  split; · rfl
  split <;> rfl
@[simp] theorem Ctx.writeW_undo (r : Nat) (v : Word) : (x.writeW r v).undo = x.undo := by
  unfold Ctx.writeW Ctx.writeWin; split; · rfl
  split; · rfl
  split <;> rfl

@[simp] theorem Ctx.write_st (r : Reg) (v : Word) : (x.write r v).st = x.st := by
  cases r <;> first | rfl | exact Ctx.writeW_st _ _ _
@[simp] theorem Ctx.write_halted (r : Reg) (v : Word) : (x.write r v).halted = x.halted := by
  cases r <;> first | rfl | exact Ctx.writeW_halted _ _ _
@[simp] theorem Ctx.write_pc (r : Reg) (v : Word) : (x.write r v).pc = x.pc := by
  cases r <;> first | rfl | exact Ctx.writeW_pc _ _ _
@[simp] theorem Ctx.write_src (r : Reg) (v : Word) : (x.write r v).src = x.src := by
  cases r <;> first | rfl | exact Ctx.writeW_src _ _ _
@[simp] theorem Ctx.write_readyAt (r : Reg) (v : Word) : (x.write r v).readyAt = x.readyAt := by
  cases r <;> first | rfl | exact Ctx.writeW_readyAt _ _ _
@[simp] theorem Ctx.write_trapDepth (r : Reg) (v : Word) : (x.write r v).trapDepth = x.trapDepth := by
  cases r <;> first | rfl | exact Ctx.writeW_trapDepth _ _ _
@[simp] theorem Ctx.write_openers (r : Reg) (v : Word) : (x.write r v).openers = x.openers := by
  cases r <;> first | rfl | exact Ctx.writeW_openers _ _ _
@[simp] theorem Ctx.write_serial (r : Reg) (v : Word) : (x.write r v).serial = x.serial := by
  cases r <;> first | rfl | exact Ctx.writeW_serial _ _ _
@[simp] theorem Ctx.write_l (r : Reg) (v : Word) : (x.write r v).l = x.l := by
  cases r <;> first | rfl | exact Ctx.writeW_l _ _ _
@[simp] theorem Ctx.write_p (r : Reg) (v : Word) : (x.write r v).p = x.p := by
  cases r <;> first | rfl | exact Ctx.writeW_p _ _ _
@[simp] theorem Ctx.write_v (r : Reg) (v : Word) : (x.write r v).v = x.v := by
  cases r <;> first | rfl | exact Ctx.writeW_v _ _ _
@[simp] theorem Ctx.write_m (r : Reg) (v : Word) : (x.write r v).m = x.m := by
  cases r <;> first | rfl | exact Ctx.writeW_m _ _ _
@[simp] theorem Ctx.write_flags (r : Reg) (v : Word) : (x.write r v).flags = x.flags := by
  cases r <;> first | rfl | exact Ctx.writeW_flags _ _ _
@[simp] theorem Ctx.write_flogn (r : Reg) (v : Word) : (x.write r v).flogn = x.flogn := by
  cases r <;> first | rfl | exact Ctx.writeW_flogn _ _ _
@[simp] theorem Ctx.write_pend (r : Reg) (v : Word) : (x.write r v).pend = x.pend := by
  cases r <;> first | rfl | exact Ctx.writeW_pend _ _ _
@[simp] theorem Ctx.write_park (r : Reg) (v : Word) : (x.write r v).park = x.park := by
  cases r <;> first | rfl | exact Ctx.writeW_park _ _ _
@[simp] theorem Ctx.write_weight (r : Reg) (v : Word) : (x.write r v).weight = x.weight := by
  cases r <;> first | rfl | exact Ctx.writeW_weight _ _ _
@[simp] theorem Ctx.write_nextWeights (r : Reg) (v : Word) : (x.write r v).nextWeights = x.nextWeights := by
  cases r <;> first | rfl | exact Ctx.writeW_nextWeights _ _ _
@[simp] theorem Ctx.write_demands (r : Reg) (v : Word) : (x.write r v).demands = x.demands := by
  cases r <;> first | rfl | exact Ctx.writeW_demands _ _ _
@[simp] theorem Ctx.write_held (r : Reg) (v : Word) : (x.write r v).held = x.held := by
  cases r <;> first | rfl | exact Ctx.writeW_held _ _ _
@[simp] theorem Ctx.write_trig (r : Reg) (v : Word) : (x.write r v).trig = x.trig := by
  cases r <;> first | rfl | exact Ctx.writeW_trig _ _ _
@[simp] theorem Ctx.write_noticed (r : Reg) (v : Word) : (x.write r v).noticed = x.noticed := by
  cases r <;> first | rfl | exact Ctx.writeW_noticed _ _ _
@[simp] theorem Ctx.write_barrier (r : Reg) (v : Word) : (x.write r v).barrier = x.barrier := by
  cases r <;> first | rfl | exact Ctx.writeW_barrier _ _ _
@[simp] theorem Ctx.write_lastCopy (r : Reg) (v : Word) : (x.write r v).lastCopy = x.lastCopy := by
  cases r <;> first | rfl | exact Ctx.writeW_lastCopy _ _ _
@[simp] theorem Ctx.write_xlat (r : Reg) (v : Word) : (x.write r v).xlat = x.xlat := by
  cases r <;> first | rfl | exact Ctx.writeW_xlat _ _ _
@[simp] theorem Ctx.write_prodRec (r : Reg) (v : Word) : (x.write r v).prodRec = x.prodRec := by
  cases r <;> first | rfl | exact Ctx.writeW_prodRec _ _ _
@[simp] theorem Ctx.write_since (r : Reg) (v : Word) : (x.write r v).since = x.since := by
  cases r <;> first | rfl | exact Ctx.writeW_since _ _ _
@[simp] theorem Ctx.write_image (r : Reg) (v : Word) : (x.write r v).image = x.image := by
  cases r <;> first | rfl | exact Ctx.writeW_image _ _ _
@[simp] theorem Ctx.write_undo (r : Reg) (v : Word) : (x.write r v).undo = x.undo := by
  cases r <;> first | rfl | exact Ctx.writeW_undo _ _ _

@[simp] theorem Ctx.writeP_st (k : Fin 8) (b : Bool) : (x.writeP k b).st = x.st := by
  unfold Ctx.writeP; split <;> rfl
@[simp] theorem Ctx.writeP_halted (k : Fin 8) (b : Bool) : (x.writeP k b).halted = x.halted := by
  unfold Ctx.writeP; split <;> rfl
@[simp] theorem Ctx.writeP_pc (k : Fin 8) (b : Bool) : (x.writeP k b).pc = x.pc := by
  unfold Ctx.writeP; split <;> rfl
@[simp] theorem Ctx.writeP_src (k : Fin 8) (b : Bool) : (x.writeP k b).src = x.src := by
  unfold Ctx.writeP; split <;> rfl
@[simp] theorem Ctx.writeP_readyAt (k : Fin 8) (b : Bool) : (x.writeP k b).readyAt = x.readyAt := by
  unfold Ctx.writeP; split <;> rfl
@[simp] theorem Ctx.writeP_trapDepth (k : Fin 8) (b : Bool) : (x.writeP k b).trapDepth = x.trapDepth := by
  unfold Ctx.writeP; split <;> rfl
@[simp] theorem Ctx.writeP_openers (k : Fin 8) (b : Bool) : (x.writeP k b).openers = x.openers := by
  unfold Ctx.writeP; split <;> rfl
@[simp] theorem Ctx.writeP_wins (k : Fin 8) (b : Bool) : (x.writeP k b).wins = x.wins := by
  unfold Ctx.writeP; split <;> rfl
@[simp] theorem Ctx.writeP_base (k : Fin 8) (b : Bool) : (x.writeP k b).base = x.base := by
  unfold Ctx.writeP; split <;> rfl
@[simp] theorem Ctx.writeP_recv (k : Fin 8) (b : Bool) : (x.writeP k b).recv = x.recv := by
  unfold Ctx.writeP; split <;> rfl
@[simp] theorem Ctx.writeP_recvClean (k : Fin 8) (b : Bool) : (x.writeP k b).recvClean = x.recvClean := by
  unfold Ctx.writeP; split <;> rfl
@[simp] theorem Ctx.writeP_serial (k : Fin 8) (b : Bool) : (x.writeP k b).serial = x.serial := by
  unfold Ctx.writeP; split <;> rfl
@[simp] theorem Ctx.writeP_g (k : Fin 8) (b : Bool) : (x.writeP k b).g = x.g := by
  unfold Ctx.writeP; split <;> rfl
@[simp] theorem Ctx.writeP_o (k : Fin 8) (b : Bool) : (x.writeP k b).o = x.o := by
  unfold Ctx.writeP; split <;> rfl
@[simp] theorem Ctx.writeP_l (k : Fin 8) (b : Bool) : (x.writeP k b).l = x.l := by
  unfold Ctx.writeP; split <;> rfl
@[simp] theorem Ctx.writeP_i (k : Fin 8) (b : Bool) : (x.writeP k b).i = x.i := by
  unfold Ctx.writeP; split <;> rfl
@[simp] theorem Ctx.writeP_v (k : Fin 8) (b : Bool) : (x.writeP k b).v = x.v := by
  unfold Ctx.writeP; split <;> rfl
@[simp] theorem Ctx.writeP_m (k : Fin 8) (b : Bool) : (x.writeP k b).m = x.m := by
  unfold Ctx.writeP; split <;> rfl
@[simp] theorem Ctx.writeP_flags (k : Fin 8) (b : Bool) : (x.writeP k b).flags = x.flags := by
  unfold Ctx.writeP; split <;> rfl
@[simp] theorem Ctx.writeP_flogn (k : Fin 8) (b : Bool) : (x.writeP k b).flogn = x.flogn := by
  unfold Ctx.writeP; split <;> rfl
@[simp] theorem Ctx.writeP_pend (k : Fin 8) (b : Bool) : (x.writeP k b).pend = x.pend := by
  unfold Ctx.writeP; split <;> rfl
@[simp] theorem Ctx.writeP_park (k : Fin 8) (b : Bool) : (x.writeP k b).park = x.park := by
  unfold Ctx.writeP; split <;> rfl
@[simp] theorem Ctx.writeP_weight (k : Fin 8) (b : Bool) : (x.writeP k b).weight = x.weight := by
  unfold Ctx.writeP; split <;> rfl
@[simp] theorem Ctx.writeP_nextWeights (k : Fin 8) (b : Bool) : (x.writeP k b).nextWeights = x.nextWeights := by
  unfold Ctx.writeP; split <;> rfl
@[simp] theorem Ctx.writeP_demands (k : Fin 8) (b : Bool) : (x.writeP k b).demands = x.demands := by
  unfold Ctx.writeP; split <;> rfl
@[simp] theorem Ctx.writeP_held (k : Fin 8) (b : Bool) : (x.writeP k b).held = x.held := by
  unfold Ctx.writeP; split <;> rfl
@[simp] theorem Ctx.writeP_trig (k : Fin 8) (b : Bool) : (x.writeP k b).trig = x.trig := by
  unfold Ctx.writeP; split <;> rfl
@[simp] theorem Ctx.writeP_noticed (k : Fin 8) (b : Bool) : (x.writeP k b).noticed = x.noticed := by
  unfold Ctx.writeP; split <;> rfl
@[simp] theorem Ctx.writeP_barrier (k : Fin 8) (b : Bool) : (x.writeP k b).barrier = x.barrier := by
  unfold Ctx.writeP; split <;> rfl
@[simp] theorem Ctx.writeP_lastCopy (k : Fin 8) (b : Bool) : (x.writeP k b).lastCopy = x.lastCopy := by
  unfold Ctx.writeP; split <;> rfl
@[simp] theorem Ctx.writeP_xlat (k : Fin 8) (b : Bool) : (x.writeP k b).xlat = x.xlat := by
  unfold Ctx.writeP; split <;> rfl
@[simp] theorem Ctx.writeP_prodRec (k : Fin 8) (b : Bool) : (x.writeP k b).prodRec = x.prodRec := by
  unfold Ctx.writeP; split <;> rfl
@[simp] theorem Ctx.writeP_since (k : Fin 8) (b : Bool) : (x.writeP k b).since = x.since := by
  unfold Ctx.writeP; split <;> rfl
@[simp] theorem Ctx.writeP_image (k : Fin 8) (b : Bool) : (x.writeP k b).image = x.image := by
  unfold Ctx.writeP; split <;> rfl
@[simp] theorem Ctx.writeP_undo (k : Fin 8) (b : Bool) : (x.writeP k b).undo = x.undo := by
  unfold Ctx.writeP; split <;> rfl

@[simp] theorem Ctx.writeM_st (k : Fin 8) (v : Lane) : (x.writeM k v).st = x.st := by
  unfold Ctx.writeM; split <;> rfl
@[simp] theorem Ctx.writeM_halted (k : Fin 8) (v : Lane) : (x.writeM k v).halted = x.halted := by
  unfold Ctx.writeM; split <;> rfl
@[simp] theorem Ctx.writeM_pc (k : Fin 8) (v : Lane) : (x.writeM k v).pc = x.pc := by
  unfold Ctx.writeM; split <;> rfl
@[simp] theorem Ctx.writeM_src (k : Fin 8) (v : Lane) : (x.writeM k v).src = x.src := by
  unfold Ctx.writeM; split <;> rfl
@[simp] theorem Ctx.writeM_readyAt (k : Fin 8) (v : Lane) : (x.writeM k v).readyAt = x.readyAt := by
  unfold Ctx.writeM; split <;> rfl
@[simp] theorem Ctx.writeM_trapDepth (k : Fin 8) (v : Lane) : (x.writeM k v).trapDepth = x.trapDepth := by
  unfold Ctx.writeM; split <;> rfl
@[simp] theorem Ctx.writeM_openers (k : Fin 8) (v : Lane) : (x.writeM k v).openers = x.openers := by
  unfold Ctx.writeM; split <;> rfl
@[simp] theorem Ctx.writeM_wins (k : Fin 8) (v : Lane) : (x.writeM k v).wins = x.wins := by
  unfold Ctx.writeM; split <;> rfl
@[simp] theorem Ctx.writeM_base (k : Fin 8) (v : Lane) : (x.writeM k v).base = x.base := by
  unfold Ctx.writeM; split <;> rfl
@[simp] theorem Ctx.writeM_recv (k : Fin 8) (v : Lane) : (x.writeM k v).recv = x.recv := by
  unfold Ctx.writeM; split <;> rfl
@[simp] theorem Ctx.writeM_recvClean (k : Fin 8) (v : Lane) : (x.writeM k v).recvClean = x.recvClean := by
  unfold Ctx.writeM; split <;> rfl
@[simp] theorem Ctx.writeM_serial (k : Fin 8) (v : Lane) : (x.writeM k v).serial = x.serial := by
  unfold Ctx.writeM; split <;> rfl
@[simp] theorem Ctx.writeM_g (k : Fin 8) (v : Lane) : (x.writeM k v).g = x.g := by
  unfold Ctx.writeM; split <;> rfl
@[simp] theorem Ctx.writeM_o (k : Fin 8) (v : Lane) : (x.writeM k v).o = x.o := by
  unfold Ctx.writeM; split <;> rfl
@[simp] theorem Ctx.writeM_l (k : Fin 8) (v : Lane) : (x.writeM k v).l = x.l := by
  unfold Ctx.writeM; split <;> rfl
@[simp] theorem Ctx.writeM_i (k : Fin 8) (v : Lane) : (x.writeM k v).i = x.i := by
  unfold Ctx.writeM; split <;> rfl
@[simp] theorem Ctx.writeM_p (k : Fin 8) (v : Lane) : (x.writeM k v).p = x.p := by
  unfold Ctx.writeM; split <;> rfl
@[simp] theorem Ctx.writeM_v (k : Fin 8) (v : Lane) : (x.writeM k v).v = x.v := by
  unfold Ctx.writeM; split <;> rfl
@[simp] theorem Ctx.writeM_flags (k : Fin 8) (v : Lane) : (x.writeM k v).flags = x.flags := by
  unfold Ctx.writeM; split <;> rfl
@[simp] theorem Ctx.writeM_flogn (k : Fin 8) (v : Lane) : (x.writeM k v).flogn = x.flogn := by
  unfold Ctx.writeM; split <;> rfl
@[simp] theorem Ctx.writeM_pend (k : Fin 8) (v : Lane) : (x.writeM k v).pend = x.pend := by
  unfold Ctx.writeM; split <;> rfl
@[simp] theorem Ctx.writeM_park (k : Fin 8) (v : Lane) : (x.writeM k v).park = x.park := by
  unfold Ctx.writeM; split <;> rfl
@[simp] theorem Ctx.writeM_weight (k : Fin 8) (v : Lane) : (x.writeM k v).weight = x.weight := by
  unfold Ctx.writeM; split <;> rfl
@[simp] theorem Ctx.writeM_nextWeights (k : Fin 8) (v : Lane) : (x.writeM k v).nextWeights = x.nextWeights := by
  unfold Ctx.writeM; split <;> rfl
@[simp] theorem Ctx.writeM_demands (k : Fin 8) (v : Lane) : (x.writeM k v).demands = x.demands := by
  unfold Ctx.writeM; split <;> rfl
@[simp] theorem Ctx.writeM_held (k : Fin 8) (v : Lane) : (x.writeM k v).held = x.held := by
  unfold Ctx.writeM; split <;> rfl
@[simp] theorem Ctx.writeM_trig (k : Fin 8) (v : Lane) : (x.writeM k v).trig = x.trig := by
  unfold Ctx.writeM; split <;> rfl
@[simp] theorem Ctx.writeM_noticed (k : Fin 8) (v : Lane) : (x.writeM k v).noticed = x.noticed := by
  unfold Ctx.writeM; split <;> rfl
@[simp] theorem Ctx.writeM_barrier (k : Fin 8) (v : Lane) : (x.writeM k v).barrier = x.barrier := by
  unfold Ctx.writeM; split <;> rfl
@[simp] theorem Ctx.writeM_lastCopy (k : Fin 8) (v : Lane) : (x.writeM k v).lastCopy = x.lastCopy := by
  unfold Ctx.writeM; split <;> rfl
@[simp] theorem Ctx.writeM_xlat (k : Fin 8) (v : Lane) : (x.writeM k v).xlat = x.xlat := by
  unfold Ctx.writeM; split <;> rfl
@[simp] theorem Ctx.writeM_prodRec (k : Fin 8) (v : Lane) : (x.writeM k v).prodRec = x.prodRec := by
  unfold Ctx.writeM; split <;> rfl
@[simp] theorem Ctx.writeM_since (k : Fin 8) (v : Lane) : (x.writeM k v).since = x.since := by
  unfold Ctx.writeM; split <;> rfl
@[simp] theorem Ctx.writeM_image (k : Fin 8) (v : Lane) : (x.writeM k v).image = x.image := by
  unfold Ctx.writeM; split <;> rfl
@[simp] theorem Ctx.writeM_undo (k : Fin 8) (v : Lane) : (x.writeM k v).undo = x.undo := by
  unfold Ctx.writeM; split <;> rfl

@[simp] theorem Ctx.writeV_st (k : Fin 16) (v : VWord) : (x.writeV k v).st = x.st := rfl
@[simp] theorem Ctx.writeV_halted (k : Fin 16) (v : VWord) : (x.writeV k v).halted = x.halted := rfl
@[simp] theorem Ctx.writeV_pc (k : Fin 16) (v : VWord) : (x.writeV k v).pc = x.pc := rfl
@[simp] theorem Ctx.writeV_src (k : Fin 16) (v : VWord) : (x.writeV k v).src = x.src := rfl
@[simp] theorem Ctx.writeV_readyAt (k : Fin 16) (v : VWord) : (x.writeV k v).readyAt = x.readyAt := rfl
@[simp] theorem Ctx.writeV_trapDepth (k : Fin 16) (v : VWord) : (x.writeV k v).trapDepth = x.trapDepth := rfl
@[simp] theorem Ctx.writeV_openers (k : Fin 16) (v : VWord) : (x.writeV k v).openers = x.openers := rfl
@[simp] theorem Ctx.writeV_wins (k : Fin 16) (v : VWord) : (x.writeV k v).wins = x.wins := rfl
@[simp] theorem Ctx.writeV_base (k : Fin 16) (v : VWord) : (x.writeV k v).base = x.base := rfl
@[simp] theorem Ctx.writeV_recv (k : Fin 16) (v : VWord) : (x.writeV k v).recv = x.recv := rfl
@[simp] theorem Ctx.writeV_recvClean (k : Fin 16) (v : VWord) : (x.writeV k v).recvClean = x.recvClean := rfl
@[simp] theorem Ctx.writeV_serial (k : Fin 16) (v : VWord) : (x.writeV k v).serial = x.serial := rfl
@[simp] theorem Ctx.writeV_g (k : Fin 16) (v : VWord) : (x.writeV k v).g = x.g := rfl
@[simp] theorem Ctx.writeV_o (k : Fin 16) (v : VWord) : (x.writeV k v).o = x.o := rfl
@[simp] theorem Ctx.writeV_l (k : Fin 16) (v : VWord) : (x.writeV k v).l = x.l := rfl
@[simp] theorem Ctx.writeV_i (k : Fin 16) (v : VWord) : (x.writeV k v).i = x.i := rfl
@[simp] theorem Ctx.writeV_p (k : Fin 16) (v : VWord) : (x.writeV k v).p = x.p := rfl
@[simp] theorem Ctx.writeV_m (k : Fin 16) (v : VWord) : (x.writeV k v).m = x.m := rfl
@[simp] theorem Ctx.writeV_flags (k : Fin 16) (v : VWord) : (x.writeV k v).flags = x.flags := rfl
@[simp] theorem Ctx.writeV_flogn (k : Fin 16) (v : VWord) : (x.writeV k v).flogn = x.flogn := rfl
@[simp] theorem Ctx.writeV_pend (k : Fin 16) (v : VWord) : (x.writeV k v).pend = x.pend := rfl
@[simp] theorem Ctx.writeV_park (k : Fin 16) (v : VWord) : (x.writeV k v).park = x.park := rfl
@[simp] theorem Ctx.writeV_weight (k : Fin 16) (v : VWord) : (x.writeV k v).weight = x.weight := rfl
@[simp] theorem Ctx.writeV_nextWeights (k : Fin 16) (v : VWord) : (x.writeV k v).nextWeights = x.nextWeights := rfl
@[simp] theorem Ctx.writeV_demands (k : Fin 16) (v : VWord) : (x.writeV k v).demands = x.demands := rfl
@[simp] theorem Ctx.writeV_held (k : Fin 16) (v : VWord) : (x.writeV k v).held = x.held := rfl
@[simp] theorem Ctx.writeV_trig (k : Fin 16) (v : VWord) : (x.writeV k v).trig = x.trig := rfl
@[simp] theorem Ctx.writeV_noticed (k : Fin 16) (v : VWord) : (x.writeV k v).noticed = x.noticed := rfl
@[simp] theorem Ctx.writeV_barrier (k : Fin 16) (v : VWord) : (x.writeV k v).barrier = x.barrier := rfl
@[simp] theorem Ctx.writeV_lastCopy (k : Fin 16) (v : VWord) : (x.writeV k v).lastCopy = x.lastCopy := rfl
@[simp] theorem Ctx.writeV_xlat (k : Fin 16) (v : VWord) : (x.writeV k v).xlat = x.xlat := rfl
@[simp] theorem Ctx.writeV_prodRec (k : Fin 16) (v : VWord) : (x.writeV k v).prodRec = x.prodRec := rfl
@[simp] theorem Ctx.writeV_since (k : Fin 16) (v : VWord) : (x.writeV k v).since = x.since := rfl
@[simp] theorem Ctx.writeV_image (k : Fin 16) (v : VWord) : (x.writeV k v).image = x.image := rfl
@[simp] theorem Ctx.writeV_undo (k : Fin 16) (v : VWord) : (x.writeV k v).undo = x.undo := rfl

@[simp] theorem Ctx.raise_st (f : Flags) : (x.raise f).st = x.st := rfl
@[simp] theorem Ctx.raise_halted (f : Flags) : (x.raise f).halted = x.halted := rfl
@[simp] theorem Ctx.raise_pc (f : Flags) : (x.raise f).pc = x.pc := rfl
@[simp] theorem Ctx.raise_src (f : Flags) : (x.raise f).src = x.src := rfl
@[simp] theorem Ctx.raise_readyAt (f : Flags) : (x.raise f).readyAt = x.readyAt := rfl
@[simp] theorem Ctx.raise_trapDepth (f : Flags) : (x.raise f).trapDepth = x.trapDepth := rfl
@[simp] theorem Ctx.raise_openers (f : Flags) : (x.raise f).openers = x.openers := rfl
@[simp] theorem Ctx.raise_wins (f : Flags) : (x.raise f).wins = x.wins := rfl
@[simp] theorem Ctx.raise_base (f : Flags) : (x.raise f).base = x.base := rfl
@[simp] theorem Ctx.raise_recv (f : Flags) : (x.raise f).recv = x.recv := rfl
@[simp] theorem Ctx.raise_recvClean (f : Flags) : (x.raise f).recvClean = x.recvClean := rfl
@[simp] theorem Ctx.raise_serial (f : Flags) : (x.raise f).serial = x.serial := rfl
@[simp] theorem Ctx.raise_g (f : Flags) : (x.raise f).g = x.g := rfl
@[simp] theorem Ctx.raise_o (f : Flags) : (x.raise f).o = x.o := rfl
@[simp] theorem Ctx.raise_l (f : Flags) : (x.raise f).l = x.l := rfl
@[simp] theorem Ctx.raise_i (f : Flags) : (x.raise f).i = x.i := rfl
@[simp] theorem Ctx.raise_p (f : Flags) : (x.raise f).p = x.p := rfl
@[simp] theorem Ctx.raise_v (f : Flags) : (x.raise f).v = x.v := rfl
@[simp] theorem Ctx.raise_m (f : Flags) : (x.raise f).m = x.m := rfl
@[simp] theorem Ctx.raise_flogn (f : Flags) : (x.raise f).flogn = x.flogn := rfl
@[simp] theorem Ctx.raise_pend (f : Flags) : (x.raise f).pend = x.pend := rfl
@[simp] theorem Ctx.raise_park (f : Flags) : (x.raise f).park = x.park := rfl
@[simp] theorem Ctx.raise_weight (f : Flags) : (x.raise f).weight = x.weight := rfl
@[simp] theorem Ctx.raise_nextWeights (f : Flags) : (x.raise f).nextWeights = x.nextWeights := rfl
@[simp] theorem Ctx.raise_demands (f : Flags) : (x.raise f).demands = x.demands := rfl
@[simp] theorem Ctx.raise_held (f : Flags) : (x.raise f).held = x.held := rfl
@[simp] theorem Ctx.raise_trig (f : Flags) : (x.raise f).trig = x.trig := rfl
@[simp] theorem Ctx.raise_noticed (f : Flags) : (x.raise f).noticed = x.noticed := rfl
@[simp] theorem Ctx.raise_barrier (f : Flags) : (x.raise f).barrier = x.barrier := rfl
@[simp] theorem Ctx.raise_lastCopy (f : Flags) : (x.raise f).lastCopy = x.lastCopy := rfl
@[simp] theorem Ctx.raise_xlat (f : Flags) : (x.raise f).xlat = x.xlat := rfl
@[simp] theorem Ctx.raise_prodRec (f : Flags) : (x.raise f).prodRec = x.prodRec := rfl
@[simp] theorem Ctx.raise_since (f : Flags) : (x.raise f).since = x.since := rfl
@[simp] theorem Ctx.raise_image (f : Flags) : (x.raise f).image = x.image := rfl
@[simp] theorem Ctx.raise_undo (f : Flags) : (x.raise f).undo = x.undo := rfl

@[simp] theorem Ctx.addPend_st (r : Reg) (t : Nat) (b : Bool) : (x.addPend r t b).st = x.st := by
  unfold Ctx.addPend; split <;> rfl
@[simp] theorem Ctx.addPend_halted (r : Reg) (t : Nat) (b : Bool) : (x.addPend r t b).halted = x.halted := by
  unfold Ctx.addPend; split <;> rfl
@[simp] theorem Ctx.addPend_pc (r : Reg) (t : Nat) (b : Bool) : (x.addPend r t b).pc = x.pc := by
  unfold Ctx.addPend; split <;> rfl
@[simp] theorem Ctx.addPend_src (r : Reg) (t : Nat) (b : Bool) : (x.addPend r t b).src = x.src := by
  unfold Ctx.addPend; split <;> rfl
@[simp] theorem Ctx.addPend_readyAt (r : Reg) (t : Nat) (b : Bool) : (x.addPend r t b).readyAt = x.readyAt := by
  unfold Ctx.addPend; split <;> rfl
@[simp] theorem Ctx.addPend_trapDepth (r : Reg) (t : Nat) (b : Bool) : (x.addPend r t b).trapDepth = x.trapDepth := by
  unfold Ctx.addPend; split <;> rfl
@[simp] theorem Ctx.addPend_openers (r : Reg) (t : Nat) (b : Bool) : (x.addPend r t b).openers = x.openers := by
  unfold Ctx.addPend; split <;> rfl
@[simp] theorem Ctx.addPend_wins (r : Reg) (t : Nat) (b : Bool) : (x.addPend r t b).wins = x.wins := by
  unfold Ctx.addPend; split <;> rfl
@[simp] theorem Ctx.addPend_base (r : Reg) (t : Nat) (b : Bool) : (x.addPend r t b).base = x.base := by
  unfold Ctx.addPend; split <;> rfl
@[simp] theorem Ctx.addPend_recv (r : Reg) (t : Nat) (b : Bool) : (x.addPend r t b).recv = x.recv := by
  unfold Ctx.addPend; split <;> rfl
@[simp] theorem Ctx.addPend_recvClean (r : Reg) (t : Nat) (b : Bool) : (x.addPend r t b).recvClean = x.recvClean := by
  unfold Ctx.addPend; split <;> rfl
@[simp] theorem Ctx.addPend_serial (r : Reg) (t : Nat) (b : Bool) : (x.addPend r t b).serial = x.serial := by
  unfold Ctx.addPend; split <;> rfl
@[simp] theorem Ctx.addPend_g (r : Reg) (t : Nat) (b : Bool) : (x.addPend r t b).g = x.g := by
  unfold Ctx.addPend; split <;> rfl
@[simp] theorem Ctx.addPend_o (r : Reg) (t : Nat) (b : Bool) : (x.addPend r t b).o = x.o := by
  unfold Ctx.addPend; split <;> rfl
@[simp] theorem Ctx.addPend_l (r : Reg) (t : Nat) (b : Bool) : (x.addPend r t b).l = x.l := by
  unfold Ctx.addPend; split <;> rfl
@[simp] theorem Ctx.addPend_i (r : Reg) (t : Nat) (b : Bool) : (x.addPend r t b).i = x.i := by
  unfold Ctx.addPend; split <;> rfl
@[simp] theorem Ctx.addPend_p (r : Reg) (t : Nat) (b : Bool) : (x.addPend r t b).p = x.p := by
  unfold Ctx.addPend; split <;> rfl
@[simp] theorem Ctx.addPend_v (r : Reg) (t : Nat) (b : Bool) : (x.addPend r t b).v = x.v := by
  unfold Ctx.addPend; split <;> rfl
@[simp] theorem Ctx.addPend_m (r : Reg) (t : Nat) (b : Bool) : (x.addPend r t b).m = x.m := by
  unfold Ctx.addPend; split <;> rfl
@[simp] theorem Ctx.addPend_flags (r : Reg) (t : Nat) (b : Bool) : (x.addPend r t b).flags = x.flags := by
  unfold Ctx.addPend; split <;> rfl
@[simp] theorem Ctx.addPend_flogn (r : Reg) (t : Nat) (b : Bool) : (x.addPend r t b).flogn = x.flogn := by
  unfold Ctx.addPend; split <;> rfl
@[simp] theorem Ctx.addPend_park (r : Reg) (t : Nat) (b : Bool) : (x.addPend r t b).park = x.park := by
  unfold Ctx.addPend; split <;> rfl
@[simp] theorem Ctx.addPend_weight (r : Reg) (t : Nat) (b : Bool) : (x.addPend r t b).weight = x.weight := by
  unfold Ctx.addPend; split <;> rfl
@[simp] theorem Ctx.addPend_nextWeights (r : Reg) (t : Nat) (b : Bool) : (x.addPend r t b).nextWeights = x.nextWeights := by
  unfold Ctx.addPend; split <;> rfl
@[simp] theorem Ctx.addPend_demands (r : Reg) (t : Nat) (b : Bool) : (x.addPend r t b).demands = x.demands := by
  unfold Ctx.addPend; split <;> rfl
@[simp] theorem Ctx.addPend_held (r : Reg) (t : Nat) (b : Bool) : (x.addPend r t b).held = x.held := by
  unfold Ctx.addPend; split <;> rfl
@[simp] theorem Ctx.addPend_trig (r : Reg) (t : Nat) (b : Bool) : (x.addPend r t b).trig = x.trig := by
  unfold Ctx.addPend; split <;> rfl
@[simp] theorem Ctx.addPend_noticed (r : Reg) (t : Nat) (b : Bool) : (x.addPend r t b).noticed = x.noticed := by
  unfold Ctx.addPend; split <;> rfl
@[simp] theorem Ctx.addPend_barrier (r : Reg) (t : Nat) (b : Bool) : (x.addPend r t b).barrier = x.barrier := by
  unfold Ctx.addPend; split <;> rfl
@[simp] theorem Ctx.addPend_lastCopy (r : Reg) (t : Nat) (b : Bool) : (x.addPend r t b).lastCopy = x.lastCopy := by
  unfold Ctx.addPend; split <;> rfl
@[simp] theorem Ctx.addPend_xlat (r : Reg) (t : Nat) (b : Bool) : (x.addPend r t b).xlat = x.xlat := by
  unfold Ctx.addPend; split <;> rfl
@[simp] theorem Ctx.addPend_prodRec (r : Reg) (t : Nat) (b : Bool) : (x.addPend r t b).prodRec = x.prodRec := by
  unfold Ctx.addPend; split <;> rfl
@[simp] theorem Ctx.addPend_since (r : Reg) (t : Nat) (b : Bool) : (x.addPend r t b).since = x.since := by
  unfold Ctx.addPend; split <;> rfl
@[simp] theorem Ctx.addPend_image (r : Reg) (t : Nat) (b : Bool) : (x.addPend r t b).image = x.image := by
  unfold Ctx.addPend; split <;> rfl
@[simp] theorem Ctx.addPend_undo (r : Reg) (t : Nat) (b : Bool) : (x.addPend r t b).undo = x.undo := by
  unfold Ctx.addPend; split <;> rfl

@[simp] theorem Ctx.movePend_st (f : Nat → Nat → Option PLoc) : (x.movePend f).st = x.st := rfl
@[simp] theorem Ctx.movePend_halted (f : Nat → Nat → Option PLoc) : (x.movePend f).halted = x.halted := rfl
@[simp] theorem Ctx.movePend_pc (f : Nat → Nat → Option PLoc) : (x.movePend f).pc = x.pc := rfl
@[simp] theorem Ctx.movePend_src (f : Nat → Nat → Option PLoc) : (x.movePend f).src = x.src := rfl
@[simp] theorem Ctx.movePend_readyAt (f : Nat → Nat → Option PLoc) : (x.movePend f).readyAt = x.readyAt := rfl
@[simp] theorem Ctx.movePend_trapDepth (f : Nat → Nat → Option PLoc) : (x.movePend f).trapDepth = x.trapDepth := rfl
@[simp] theorem Ctx.movePend_openers (f : Nat → Nat → Option PLoc) : (x.movePend f).openers = x.openers := rfl
@[simp] theorem Ctx.movePend_wins (f : Nat → Nat → Option PLoc) : (x.movePend f).wins = x.wins := rfl
@[simp] theorem Ctx.movePend_base (f : Nat → Nat → Option PLoc) : (x.movePend f).base = x.base := rfl
@[simp] theorem Ctx.movePend_recv (f : Nat → Nat → Option PLoc) : (x.movePend f).recv = x.recv := rfl
@[simp] theorem Ctx.movePend_recvClean (f : Nat → Nat → Option PLoc) : (x.movePend f).recvClean = x.recvClean := rfl
@[simp] theorem Ctx.movePend_serial (f : Nat → Nat → Option PLoc) : (x.movePend f).serial = x.serial := rfl
@[simp] theorem Ctx.movePend_g (f : Nat → Nat → Option PLoc) : (x.movePend f).g = x.g := rfl
@[simp] theorem Ctx.movePend_o (f : Nat → Nat → Option PLoc) : (x.movePend f).o = x.o := rfl
@[simp] theorem Ctx.movePend_l (f : Nat → Nat → Option PLoc) : (x.movePend f).l = x.l := rfl
@[simp] theorem Ctx.movePend_i (f : Nat → Nat → Option PLoc) : (x.movePend f).i = x.i := rfl
@[simp] theorem Ctx.movePend_p (f : Nat → Nat → Option PLoc) : (x.movePend f).p = x.p := rfl
@[simp] theorem Ctx.movePend_v (f : Nat → Nat → Option PLoc) : (x.movePend f).v = x.v := rfl
@[simp] theorem Ctx.movePend_m (f : Nat → Nat → Option PLoc) : (x.movePend f).m = x.m := rfl
@[simp] theorem Ctx.movePend_flags (f : Nat → Nat → Option PLoc) : (x.movePend f).flags = x.flags := rfl
@[simp] theorem Ctx.movePend_flogn (f : Nat → Nat → Option PLoc) : (x.movePend f).flogn = x.flogn := rfl
@[simp] theorem Ctx.movePend_park (f : Nat → Nat → Option PLoc) : (x.movePend f).park = x.park := rfl
@[simp] theorem Ctx.movePend_weight (f : Nat → Nat → Option PLoc) : (x.movePend f).weight = x.weight := rfl
@[simp] theorem Ctx.movePend_nextWeights (f : Nat → Nat → Option PLoc) : (x.movePend f).nextWeights = x.nextWeights := rfl
@[simp] theorem Ctx.movePend_demands (f : Nat → Nat → Option PLoc) : (x.movePend f).demands = x.demands := rfl
@[simp] theorem Ctx.movePend_held (f : Nat → Nat → Option PLoc) : (x.movePend f).held = x.held := rfl
@[simp] theorem Ctx.movePend_trig (f : Nat → Nat → Option PLoc) : (x.movePend f).trig = x.trig := rfl
@[simp] theorem Ctx.movePend_noticed (f : Nat → Nat → Option PLoc) : (x.movePend f).noticed = x.noticed := rfl
@[simp] theorem Ctx.movePend_barrier (f : Nat → Nat → Option PLoc) : (x.movePend f).barrier = x.barrier := rfl
@[simp] theorem Ctx.movePend_lastCopy (f : Nat → Nat → Option PLoc) : (x.movePend f).lastCopy = x.lastCopy := rfl
@[simp] theorem Ctx.movePend_xlat (f : Nat → Nat → Option PLoc) : (x.movePend f).xlat = x.xlat := rfl
@[simp] theorem Ctx.movePend_prodRec (f : Nat → Nat → Option PLoc) : (x.movePend f).prodRec = x.prodRec := rfl
@[simp] theorem Ctx.movePend_since (f : Nat → Nat → Option PLoc) : (x.movePend f).since = x.since := rfl
@[simp] theorem Ctx.movePend_image (f : Nat → Nat → Option PLoc) : (x.movePend f).image = x.image := rfl
@[simp] theorem Ctx.movePend_undo (f : Nat → Nat → Option PLoc) : (x.movePend f).undo = x.undo := rfl

@[simp] theorem Ctx.dropOldest_st : (x.dropOldest).st = x.st := rfl
@[simp] theorem Ctx.dropOldest_halted : (x.dropOldest).halted = x.halted := rfl
@[simp] theorem Ctx.dropOldest_pc : (x.dropOldest).pc = x.pc := rfl
@[simp] theorem Ctx.dropOldest_src : (x.dropOldest).src = x.src := rfl
@[simp] theorem Ctx.dropOldest_readyAt : (x.dropOldest).readyAt = x.readyAt := rfl
@[simp] theorem Ctx.dropOldest_trapDepth : (x.dropOldest).trapDepth = x.trapDepth := rfl
@[simp] theorem Ctx.dropOldest_openers : (x.dropOldest).openers = x.openers := rfl
@[simp] theorem Ctx.dropOldest_base : (x.dropOldest).base = x.base := rfl
@[simp] theorem Ctx.dropOldest_serial : (x.dropOldest).serial = x.serial := rfl
@[simp] theorem Ctx.dropOldest_g : (x.dropOldest).g = x.g := rfl
@[simp] theorem Ctx.dropOldest_o : (x.dropOldest).o = x.o := rfl
@[simp] theorem Ctx.dropOldest_l : (x.dropOldest).l = x.l := rfl
@[simp] theorem Ctx.dropOldest_i : (x.dropOldest).i = x.i := rfl
@[simp] theorem Ctx.dropOldest_p : (x.dropOldest).p = x.p := rfl
@[simp] theorem Ctx.dropOldest_v : (x.dropOldest).v = x.v := rfl
@[simp] theorem Ctx.dropOldest_m : (x.dropOldest).m = x.m := rfl
@[simp] theorem Ctx.dropOldest_flags : (x.dropOldest).flags = x.flags := rfl
@[simp] theorem Ctx.dropOldest_flogn : (x.dropOldest).flogn = x.flogn := rfl
@[simp] theorem Ctx.dropOldest_pend : (x.dropOldest).pend = x.pend := rfl
@[simp] theorem Ctx.dropOldest_park : (x.dropOldest).park = x.park := rfl
@[simp] theorem Ctx.dropOldest_weight : (x.dropOldest).weight = x.weight := rfl
@[simp] theorem Ctx.dropOldest_nextWeights : (x.dropOldest).nextWeights = x.nextWeights := rfl
@[simp] theorem Ctx.dropOldest_demands : (x.dropOldest).demands = x.demands := rfl
@[simp] theorem Ctx.dropOldest_held : (x.dropOldest).held = x.held := rfl
@[simp] theorem Ctx.dropOldest_trig : (x.dropOldest).trig = x.trig := rfl
@[simp] theorem Ctx.dropOldest_noticed : (x.dropOldest).noticed = x.noticed := rfl
@[simp] theorem Ctx.dropOldest_barrier : (x.dropOldest).barrier = x.barrier := rfl
@[simp] theorem Ctx.dropOldest_lastCopy : (x.dropOldest).lastCopy = x.lastCopy := rfl
@[simp] theorem Ctx.dropOldest_xlat : (x.dropOldest).xlat = x.xlat := rfl
@[simp] theorem Ctx.dropOldest_prodRec : (x.dropOldest).prodRec = x.prodRec := rfl
@[simp] theorem Ctx.dropOldest_since : (x.dropOldest).since = x.since := rfl
@[simp] theorem Ctx.dropOldest_image : (x.dropOldest).image = x.image := rfl
@[simp] theorem Ctx.dropOldest_undo : (x.dropOldest).undo = x.undo := rfl

@[simp] theorem Ctx.openWindow_st (op : Opener) : (x.openWindow op).st = x.st := by
  unfold Ctx.openWindow; simp only; split <;> rfl
@[simp] theorem Ctx.openWindow_halted (op : Opener) : (x.openWindow op).halted = x.halted := by
  unfold Ctx.openWindow; simp only; split <;> rfl
@[simp] theorem Ctx.openWindow_pc (op : Opener) : (x.openWindow op).pc = x.pc := by
  unfold Ctx.openWindow; simp only; split <;> rfl
@[simp] theorem Ctx.openWindow_src (op : Opener) : (x.openWindow op).src = x.src := by
  unfold Ctx.openWindow; simp only; split <;> rfl
@[simp] theorem Ctx.openWindow_readyAt (op : Opener) : (x.openWindow op).readyAt = x.readyAt := by
  unfold Ctx.openWindow; simp only; split <;> rfl
@[simp] theorem Ctx.openWindow_trapDepth (op : Opener) : (x.openWindow op).trapDepth = x.trapDepth := by
  unfold Ctx.openWindow; simp only; split <;> rfl
@[simp] theorem Ctx.openWindow_base (op : Opener) : (x.openWindow op).base = x.base := by
  unfold Ctx.openWindow; simp only; split <;> rfl
@[simp] theorem Ctx.openWindow_serial (op : Opener) : (x.openWindow op).serial = x.serial := by
  unfold Ctx.openWindow; simp only; split <;> rfl
@[simp] theorem Ctx.openWindow_g (op : Opener) : (x.openWindow op).g = x.g := by
  unfold Ctx.openWindow; simp only; split <;> rfl
@[simp] theorem Ctx.openWindow_o (op : Opener) : (x.openWindow op).o = x.o := by
  unfold Ctx.openWindow; simp only; split <;> rfl
@[simp] theorem Ctx.openWindow_l (op : Opener) : (x.openWindow op).l = x.l := by
  unfold Ctx.openWindow; simp only; split <;> rfl
@[simp] theorem Ctx.openWindow_i (op : Opener) : (x.openWindow op).i = x.i := by
  unfold Ctx.openWindow; simp only; split <;> rfl
@[simp] theorem Ctx.openWindow_p (op : Opener) : (x.openWindow op).p = x.p := by
  unfold Ctx.openWindow; simp only; split <;> rfl
@[simp] theorem Ctx.openWindow_v (op : Opener) : (x.openWindow op).v = x.v := by
  unfold Ctx.openWindow; simp only; split <;> rfl
@[simp] theorem Ctx.openWindow_m (op : Opener) : (x.openWindow op).m = x.m := by
  unfold Ctx.openWindow; simp only; split <;> rfl
@[simp] theorem Ctx.openWindow_flags (op : Opener) : (x.openWindow op).flags = x.flags := by
  unfold Ctx.openWindow; simp only; split <;> rfl
@[simp] theorem Ctx.openWindow_flogn (op : Opener) : (x.openWindow op).flogn = x.flogn := by
  unfold Ctx.openWindow; simp only; split <;> rfl
@[simp] theorem Ctx.openWindow_pend (op : Opener) : (x.openWindow op).pend = x.pend := by
  unfold Ctx.openWindow; simp only; split <;> rfl
@[simp] theorem Ctx.openWindow_park (op : Opener) : (x.openWindow op).park = x.park := by
  unfold Ctx.openWindow; simp only; split <;> rfl
@[simp] theorem Ctx.openWindow_weight (op : Opener) : (x.openWindow op).weight = x.weight := by
  unfold Ctx.openWindow; simp only; split <;> rfl
@[simp] theorem Ctx.openWindow_nextWeights (op : Opener) : (x.openWindow op).nextWeights = x.nextWeights := by
  unfold Ctx.openWindow; simp only; split <;> rfl
@[simp] theorem Ctx.openWindow_demands (op : Opener) : (x.openWindow op).demands = x.demands := by
  unfold Ctx.openWindow; simp only; split <;> rfl
@[simp] theorem Ctx.openWindow_held (op : Opener) : (x.openWindow op).held = x.held := by
  unfold Ctx.openWindow; simp only; split <;> rfl
@[simp] theorem Ctx.openWindow_trig (op : Opener) : (x.openWindow op).trig = x.trig := by
  unfold Ctx.openWindow; simp only; split <;> rfl
@[simp] theorem Ctx.openWindow_noticed (op : Opener) : (x.openWindow op).noticed = x.noticed := by
  unfold Ctx.openWindow; simp only; split <;> rfl
@[simp] theorem Ctx.openWindow_barrier (op : Opener) : (x.openWindow op).barrier = x.barrier := by
  unfold Ctx.openWindow; simp only; split <;> rfl
@[simp] theorem Ctx.openWindow_lastCopy (op : Opener) : (x.openWindow op).lastCopy = x.lastCopy := by
  unfold Ctx.openWindow; simp only; split <;> rfl
@[simp] theorem Ctx.openWindow_xlat (op : Opener) : (x.openWindow op).xlat = x.xlat := by
  unfold Ctx.openWindow; simp only; split <;> rfl
@[simp] theorem Ctx.openWindow_prodRec (op : Opener) : (x.openWindow op).prodRec = x.prodRec := by
  unfold Ctx.openWindow; simp only; split <;> rfl
@[simp] theorem Ctx.openWindow_since (op : Opener) : (x.openWindow op).since = x.since := by
  unfold Ctx.openWindow; simp only; split <;> rfl
@[simp] theorem Ctx.openWindow_image (op : Opener) : (x.openWindow op).image = x.image := by
  unfold Ctx.openWindow; simp only; split <;> rfl
@[simp] theorem Ctx.openWindow_undo (op : Opener) : (x.openWindow op).undo = x.undo := by
  unfold Ctx.openWindow; simp only; split <;> rfl

@[simp] theorem Ctx.closeWindow_st : (x.closeWindow).st = x.st := rfl
@[simp] theorem Ctx.closeWindow_halted : (x.closeWindow).halted = x.halted := rfl
@[simp] theorem Ctx.closeWindow_pc : (x.closeWindow).pc = x.pc := rfl
@[simp] theorem Ctx.closeWindow_src : (x.closeWindow).src = x.src := rfl
@[simp] theorem Ctx.closeWindow_readyAt : (x.closeWindow).readyAt = x.readyAt := rfl
@[simp] theorem Ctx.closeWindow_trapDepth : (x.closeWindow).trapDepth = x.trapDepth := rfl
@[simp] theorem Ctx.closeWindow_base : (x.closeWindow).base = x.base := rfl
@[simp] theorem Ctx.closeWindow_recv : (x.closeWindow).recv = x.recv := rfl
@[simp] theorem Ctx.closeWindow_recvClean : (x.closeWindow).recvClean = x.recvClean := rfl
@[simp] theorem Ctx.closeWindow_g : (x.closeWindow).g = x.g := rfl
@[simp] theorem Ctx.closeWindow_o : (x.closeWindow).o = x.o := rfl
@[simp] theorem Ctx.closeWindow_l : (x.closeWindow).l = x.l := rfl
@[simp] theorem Ctx.closeWindow_i : (x.closeWindow).i = x.i := rfl
@[simp] theorem Ctx.closeWindow_p : (x.closeWindow).p = x.p := rfl
@[simp] theorem Ctx.closeWindow_v : (x.closeWindow).v = x.v := rfl
@[simp] theorem Ctx.closeWindow_m : (x.closeWindow).m = x.m := rfl
@[simp] theorem Ctx.closeWindow_flags : (x.closeWindow).flags = x.flags := rfl
@[simp] theorem Ctx.closeWindow_flogn : (x.closeWindow).flogn = x.flogn := rfl
@[simp] theorem Ctx.closeWindow_park : (x.closeWindow).park = x.park := rfl
@[simp] theorem Ctx.closeWindow_weight : (x.closeWindow).weight = x.weight := rfl
@[simp] theorem Ctx.closeWindow_nextWeights : (x.closeWindow).nextWeights = x.nextWeights := rfl
@[simp] theorem Ctx.closeWindow_demands : (x.closeWindow).demands = x.demands := rfl
@[simp] theorem Ctx.closeWindow_held : (x.closeWindow).held = x.held := rfl
@[simp] theorem Ctx.closeWindow_trig : (x.closeWindow).trig = x.trig := rfl
@[simp] theorem Ctx.closeWindow_noticed : (x.closeWindow).noticed = x.noticed := rfl
@[simp] theorem Ctx.closeWindow_barrier : (x.closeWindow).barrier = x.barrier := rfl
@[simp] theorem Ctx.closeWindow_lastCopy : (x.closeWindow).lastCopy = x.lastCopy := rfl
@[simp] theorem Ctx.closeWindow_xlat : (x.closeWindow).xlat = x.xlat := rfl
@[simp] theorem Ctx.closeWindow_prodRec : (x.closeWindow).prodRec = x.prodRec := rfl
@[simp] theorem Ctx.closeWindow_since : (x.closeWindow).since = x.since := rfl
@[simp] theorem Ctx.closeWindow_image : (x.closeWindow).image = x.image := rfl
@[simp] theorem Ctx.closeWindow_undo : (x.closeWindow).undo = x.undo := rfl

@[simp] theorem Ctx.openWindow_openers (op : Opener) : (x.openWindow op).openers = op :: x.openers := by
  unfold Ctx.openWindow; simp only; split <;> rfl
@[simp] theorem Ctx.closeWindow_openers : x.closeWindow.openers = x.openers.tail := rfl
@[simp] theorem Ctx.closeWindow_wins : x.closeWindow.wins = x.wins.erase x.depth := rfl


end Sys2Proof.Machine
end

