-- ==== Sys2Proof/Laws/Memory.lean ====
section
/-! SUPPORT. The laws of memory: reads after writes, and that every operation keeps the canonical form. -/

namespace Sys2Proof.Machine

/-! ### The canonical form -/

theorem memWfFrom_mono {lo hi : Nat} {m : List Host.Cell} (h : memWfFrom hi m = true) (hle : lo ≤ hi) : memWfFrom lo m = true := by
  cases m with
  | nil => rfl
  | cons c cs =>
    simp only [memWfFrom, Bool.and_eq_true, decide_eq_true_eq] at h ⊢
    exact ⟨⟨le_trans hle h.1.1, h.1.2⟩, h.2⟩

/-- What a canonical list that begins with a cell says. -/
theorem memWfFrom_cons {lo : Nat} {c : Host.Cell} {cs : List Host.Cell} :
    memWfFrom lo (c :: cs) = true ↔ lo ≤ c.1 ∧ c.2 ≠ 0 ∧ memWfFrom (c.1 + 1) cs = true := by
  simp [memWfFrom, and_assoc]

/-- Below its first address a canonical list reads zero. -/
theorem memRead_below {lo : Nat} {m : List Host.Cell} (h : memWfFrom lo m = true) {a : Nat} (ha : a < lo) : memRead m a = 0 := by
  induction m generalizing lo with
  | nil => rfl
  | cons c cs ih =>
    obtain ⟨h1, _, h3⟩ := memWfFrom_cons.1 h
    rw [memRead, if_neg (by omega)]
    exact ih h3 (by omega)

theorem memWfFrom_memWrite {lo : Nat} {m : List Host.Cell} (h : memWfFrom lo m = true) {a : Nat} (ha : lo ≤ a) (b : Byte) :
    memWfFrom lo (memWrite m a b) = true := by
  induction m generalizing lo with
  | nil =>
    by_cases hb : b = 0#8 <;> simp [memWrite, memWfFrom, hb, ha]
  | cons c cs ih =>
    obtain ⟨h1, h2, h3⟩ := memWfFrom_cons.1 h
    simp only [memWrite]
    by_cases hlt : c.1 < a
    · rw [if_pos hlt]
      exact memWfFrom_cons.2 ⟨h1, h2, ih h3 (by omega)⟩
    · rw [if_neg hlt]
      by_cases heq : c.1 = a
      · rw [if_pos heq]
        by_cases hb : b = 0
        · rw [if_pos hb]
          exact memWfFrom_mono h3 (by omega)
        · rw [if_neg hb]
          exact memWfFrom_cons.2 ⟨ha, hb, by simpa [heq] using h3⟩
      · rw [if_neg heq]
        by_cases hb : b = 0
        · rw [if_pos hb]; exact h
        · rw [if_neg hb]
          exact memWfFrom_cons.2 ⟨ha, hb, memWfFrom_cons.2 ⟨by show a + 1 ≤ c.1; omega, h2, h3⟩⟩

theorem memory_wf_empty : Memory.wf [] = true := rfl
theorem memory_wf_memWrite {m : List Host.Cell} (h : Memory.wf m = true) (a : Nat) (b : Byte) : Memory.wf (memWrite m a b) = true :=
  memWfFrom_memWrite h (Nat.zero_le a) b
theorem memory_wf_memPut {m : List Host.Cell} (h : Memory.wf m = true) (a : Nat) (bs : List Byte) : Memory.wf (memPut m a bs) = true := by
  induction bs generalizing m a with
  | nil => exact h
  | cons b bs ih => exact ih (memory_wf_memWrite h a b) (a + 1)
theorem memory_wf_memPutMasked {m : List Host.Cell} (h : Memory.wf m = true) (a k : Nat) (bs : List Byte) :
    Memory.wf (memPutMasked m a k bs) = true := by
  induction bs generalizing m a k with
  | nil => exact h
  | cons b bs ih =>
    refine ih ?_ (a + 1) (k / 2)
    split
    · exact memory_wf_memWrite h a b
    · exact h

theorem memWfFrom_filter {lo : Nat} {m : List Host.Cell} (h : memWfFrom lo m = true) (p : Host.Cell → Bool) :
    memWfFrom lo (m.filter p) = true := by
  induction m generalizing lo with
  | nil => rfl
  | cons c cs ih =>
    obtain ⟨h1, h2, h3⟩ := memWfFrom_cons.1 h
    by_cases hp : p c
    · rw [List.filter_cons_of_pos hp]
      exact memWfFrom_cons.2 ⟨h1, h2, ih h3⟩
    · rw [List.filter_cons_of_neg hp]
      exact memWfFrom_mono (ih h3) (by omega)
theorem memory_wf_memClear {m : List Host.Cell} (h : Memory.wf m = true) (lo hi : Nat) : Memory.wf (memClear m lo hi) = true :=
  memWfFrom_filter h _

/-- Two canonical lists, the second from an address above every cell of the first. -/
theorem memWfFrom_append {lo mid : Nat} {m n : List Host.Cell} (h : memWfFrom lo m = true) (hm : ∀ c ∈ m, c.1 < mid)
    (hle : lo ≤ mid) (hn : memWfFrom mid n = true) : memWfFrom lo (m ++ n) = true := by
  induction m generalizing lo with
  | nil => exact memWfFrom_mono hn hle
  | cons c cs ih =>
    obtain ⟨h1, h2, h3⟩ := memWfFrom_cons.1 h
    have hc := hm c (by simp)
    exact memWfFrom_cons.2 ⟨h1, h2, ih h3 (fun d hd => hm d (by simp [hd])) (by omega)⟩

/-- The cells of a filtered canonical list start where the filter does. -/
theorem memWfFrom_filter_ge {lo hi : Nat} {m : List Host.Cell} (h : memWfFrom lo m = true) (p : Host.Cell → Bool)
    (hp : ∀ c, p c = true → hi ≤ c.1) : memWfFrom hi (m.filter p) = true := by
  induction m generalizing lo with
  | nil => rfl
  | cons c cs ih =>
    obtain ⟨h1, h2, h3⟩ := memWfFrom_cons.1 h
    by_cases hc : p c
    · rw [List.filter_cons_of_pos hc]
      exact memWfFrom_cons.2 ⟨hp c hc, h2, memWfFrom_filter h3 p⟩
    · rw [List.filter_cons_of_neg hc]
      exact ih h3

theorem memWfFrom_shift {lo src dst : Nat} {m : List Host.Cell} (h : memWfFrom lo m = true) (hs : ∀ c ∈ m, src ≤ c.1) (hlo : src ≤ lo) :
    memWfFrom (dst + (lo - src)) (m.map (fun c => (dst + (c.1 - src), c.2))) = true := by
  induction m generalizing lo with
  | nil => rfl
  | cons c cs ih =>
    obtain ⟨h1, h2, h3⟩ := memWfFrom_cons.1 h
    have hc := hs c (by simp)
    rw [List.map_cons]
    refine memWfFrom_cons.2 ⟨by show dst + (lo - src) ≤ dst + (c.1 - src); omega, h2, ?_⟩
    have := ih h3 (fun d hd => hs d (by simp [hd])) (by omega)
    exact memWfFrom_mono this (by show dst + (c.1 - src) + 1 ≤ dst + (c.1 + 1 - src); omega)

theorem memory_wf_memMove {m : List Host.Cell} (h : Memory.wf m = true) (src dst n : Nat) : Memory.wf (memMove m src dst n) = true := by
  have hmid : memWfFrom src (m.filter (fun c => src ≤ c.1 && c.1 < src + n)) = true :=
    memWfFrom_filter_ge h _ (fun c hc => by simp at hc; exact hc.1)
  have hmoved := memWfFrom_shift (dst := dst) hmid (fun c hc => by
    have := (List.mem_filter.1 hc).2; simp at this; exact this.1) (le_refl src)
  have hlast : memWfFrom (dst + n) (m.filter (fun c => dst + n ≤ c.1)) = true :=
    memWfFrom_filter_ge h _ (fun c hc => by simpa using hc)
  unfold memMove Memory.wf
  rw [List.append_assoc]
  refine memWfFrom_append (mid := dst) (memWfFrom_filter h _) (fun c hc => by simpa using (List.mem_filter.1 hc).2) (by omega) ?_
  refine memWfFrom_append (mid := dst + n) (by simpa using hmoved) ?_ (by omega) hlast
  intro c hc
  obtain ⟨d, hd, rfl⟩ := List.mem_map.1 hc
  have := (List.mem_filter.1 hd).2
  simp at this
  show dst + (d.1 - src) < dst + n
  omega

/-! ### Reads after writes -/

theorem memRead_memWrite_other (m : List Host.Cell) {a b : Nat} (h : b ≠ a) (v : Byte) : memRead (memWrite m a v) b = memRead m b := by
  have ha : a ≠ b := fun e => h e.symm
  induction m with
  | nil => by_cases hv : v = 0#8 <;> simp [memWrite, memRead, hv, ha]
  | cons c cs ih =>
    simp only [memWrite]
    split
    · simp only [memRead, ih]
    · split
      · rename_i e
        split
        · simp [memRead, e, ha]
        · simp [memRead, e, ha]
      · split
        · rfl
        · simp [memRead, ha]

theorem memRead_memWrite_self {lo : Nat} {m : List Host.Cell} (h : memWfFrom lo m = true) (a : Nat) (v : Byte) :
    memRead (memWrite m a v) a = v := by
  induction m generalizing lo with
  | nil => by_cases hv : v = 0#8 <;> simp [memWrite, memRead, hv]
  | cons c cs ih =>
    obtain ⟨h1, h2, h3⟩ := memWfFrom_cons.1 h
    simp only [memWrite]
    by_cases hlt : c.1 < a
    · rw [if_pos hlt, memRead, if_neg (by omega)]
      exact ih h3
    · rw [if_neg hlt]
      by_cases heq : c.1 = a
      · rw [if_pos heq]
        by_cases hv : v = 0
        · rw [if_pos hv, hv]
          exact memRead_below h3 (by omega)
        · rw [if_neg hv]; simp [memRead]
      · rw [if_neg heq]
        by_cases hv : v = 0
        · rw [if_pos hv, hv, memRead, if_neg heq]
          exact memRead_below h3 (by omega)
        · rw [if_neg hv]; simp [memRead]

/-- A write of bytes leaves every address outside the span alone. -/
theorem memRead_memPut_other (m : List Host.Cell) (bs : List Byte) {a b : Nat} (h : b < a ∨ a + bs.length ≤ b) :
    memRead (memPut m a bs) b = memRead m b := by
  induction bs generalizing m a with
  | nil => rfl
  | cons v vs ih =>
    simp only [List.length_cons] at h
    rw [memPut, ih (memWrite m a v) (by omega), memRead_memWrite_other m (by omega)]

/-- A write of bytes puts each at its address. -/
theorem memRead_memPut_self {m : List Host.Cell} (h : Memory.wf m = true) (bs : List Byte) (a k : Nat) (hk : k < bs.length) :
    memRead (memPut m a bs) (a + k) = bs[k] := by
  induction bs generalizing m a k with
  | nil => simp at hk
  | cons v vs ih =>
    rw [memPut]
    cases k with
    | zero =>
      rw [memRead_memPut_other _ vs (by omega)]
      exact memRead_memWrite_self h a v
    | succ k =>
      have := ih (memory_wf_memWrite h a v) (a + 1) k (by simpa using hk)
      rw [show a + (k + 1) = a + 1 + k by omega, this]
      simp

/-- A masked write leaves every address outside the span alone. -/
theorem memRead_memPutMasked_other (m : List Host.Cell) (k : Nat) (bs : List Byte) {a b : Nat} (h : b < a ∨ a + bs.length ≤ b) :
    memRead (memPutMasked m a k bs) b = memRead m b := by
  induction bs generalizing m a k with
  | nil => rfl
  | cons v vs ih =>
    simp only [List.length_cons] at h
    rw [memPutMasked, ih _ _ (by omega)]
    split
    · exact memRead_memWrite_other m (by omega) v
    · rfl

@[simp] theorem length_leBytes (n x : Nat) : (leBytes n x).length = n := by
  induction n generalizing x with
  | zero => rfl
  | succ n ih => simp [leBytes, ih]
@[simp] theorem length_memBytes (m : List Host.Cell) (n a : Nat) : (memBytes m n a).length = n := by
  induction n generalizing a with
  | zero => rfl
  | succ n ih => simp [memBytes, ih]

/-- Bytes read where bytes were written. -/
theorem memBytes_memPut {m : List Host.Cell} (h : Memory.wf m = true) (bs : List Byte) (a : Nat) :
    memBytes (memPut m a bs) bs.length a = bs := by
  induction bs generalizing m a with
  | nil => rfl
  | cons v vs ih =>
    simp only [List.length_cons, memBytes, memPut]
    rw [ih (memory_wf_memWrite h a v) (a + 1), memRead_memPut_other _ vs (by omega), memRead_memWrite_self h a v]

/-- Bytes read outside what was written. -/
theorem memBytes_memPut_other (m : List Host.Cell) (bs : List Byte) (n : Nat) {a b : Nat} (h : b + n ≤ a ∨ a + bs.length ≤ b) :
    memBytes (memPut m a bs) n b = memBytes m n b := by
  induction n generalizing b with
  | zero => rfl
  | succ n ih =>
    simp only [memBytes]
    rw [ih (by omega), memRead_memPut_other m bs (by omega)]

/-- The little-endian value of the bytes of a value. -/
theorem leNat_leBytes (n x : Nat) : leNat (leBytes n x) = x % 256 ^ n := by
  induction n generalizing x with
  | zero => simp [leBytes, leNat, Nat.mod_one]
  | succ n ih =>
    simp only [leBytes, leNat, ih, BitVec.toNat_ofNat]
    rw [show (2 : Nat) ^ 8 = 256 from rfl, Nat.pow_succ, Nat.mul_comm (256 ^ n) 256, Nat.mod_mul]

/-- A value stored and read back. -/
theorem memLe_memPut_leBytes {m : List Host.Cell} (h : Memory.wf m = true) (n a x : Nat) :
    memLe (memPut m a (leBytes n x)) n a = x % 256 ^ n := by
  have := memBytes_memPut h (leBytes n x) a
  rw [length_leBytes] at this
  rw [memLe, this, leNat_leBytes]

end Sys2Proof.Machine
end

