-- ==== Sys2Proof/Laws/State.lean ====
section
/-! SUPPORT. What each update of the state leaves as it was and what it writes: one lemma for each field of each update, so that no
later proof unfolds a record update. -/

namespace Sys2Proof.Machine

variable (s : State)


@[simp] theorem State.setCtx_now (c n : Nat) (x : Ctx) : (s.setCtx c n x).now = s.now := rfl
@[simp] theorem State.setCtx_turn (c n : Nat) (x : Ctx) : (s.setCtx c n x).turn = s.turn := rfl
@[simp] theorem State.setCtx_agenda (c n : Nat) (x : Ctx) : (s.setCtx c n x).agenda = s.agenda := rfl
@[simp] theorem State.setCtx_inputs (c n : Nat) (x : Ctx) : (s.setCtx c n x).inputs = s.inputs := rfl
@[simp] theorem State.setCtx_tok (c n : Nat) (x : Ctx) : (s.setCtx c n x).tok = s.tok := rfl
@[simp] theorem State.setCtx_fresh (c n : Nat) (x : Ctx) : (s.setCtx c n x).fresh = s.fresh := rfl
@[simp] theorem State.setCtx_curCore (c n : Nat) (x : Ctx) : (s.setCtx c n x).curCore = s.curCore := rfl
@[simp] theorem State.setCtx_curCtx (c n : Nat) (x : Ctx) : (s.setCtx c n x).curCtx = s.curCtx := rfl
@[simp] theorem State.setCtx_curLen (c n : Nat) (x : Ctx) : (s.setCtx c n x).curLen = s.curLen := rfl
@[simp] theorem State.setCtx_curBundle (c n : Nat) (x : Ctx) : (s.setCtx c n x).curBundle = s.curBundle := rfl
@[simp] theorem State.setCtx_noEffect (c n : Nat) (x : Ctx) : (s.setCtx c n x).noEffect = s.noEffect := rfl
@[simp] theorem State.setCtx_epi (c n : Nat) (x : Ctx) : (s.setCtx c n x).epi = s.epi := rfl
@[simp] theorem State.setCtx_mem (c n : Nat) (x : Ctx) : (s.setCtx c n x).mem = s.mem := rfl
@[simp] theorem State.setCtx_full (c n : Nat) (x : Ctx) : (s.setCtx c n x).full = s.full := rfl
@[simp] theorem State.setCtx_bad (c n : Nat) (x : Ctx) : (s.setCtx c n x).bad = s.bad := rfl
@[simp] theorem State.setCtx_ctxs (c n : Nat) (x : Ctx) : (s.setCtx c n x).ctxs = s.ctxs.set (16 * c + n) x := rfl
@[simp] theorem State.setCtx_cores (c n : Nat) (x : Ctx) : (s.setCtx c n x).cores = s.cores := rfl
@[simp] theorem State.setCtx_clusters (c n : Nat) (x : Ctx) : (s.setCtx c n x).clusters = s.clusters := rfl
@[simp] theorem State.setCtx_stewards (c n : Nat) (x : Ctx) : (s.setCtx c n x).stewards = s.stewards := rfl
@[simp] theorem State.setCtx_stewardStopped (c n : Nat) (x : Ctx) : (s.setCtx c n x).stewardStopped = s.stewardStopped := rfl
@[simp] theorem State.setCtx_routers (c n : Nat) (x : Ctx) : (s.setCtx c n x).routers = s.routers := rfl
@[simp] theorem State.setCtx_engines (c n : Nat) (x : Ctx) : (s.setCtx c n x).engines = s.engines := rfl
@[simp] theorem State.setCtx_dies (c n : Nat) (x : Ctx) : (s.setCtx c n x).dies = s.dies := rfl
@[simp] theorem State.setCtx_chans (c n : Nat) (x : Ctx) : (s.setCtx c n x).chans = s.chans := rfl
@[simp] theorem State.setCtx_holds (c n : Nat) (x : Ctx) : (s.setCtx c n x).holds = s.holds := rfl
@[simp] theorem State.setCtx_svcq (c n : Nat) (x : Ctx) : (s.setCtx c n x).svcq = s.svcq := rfl
@[simp] theorem State.setCtx_svcHeld (c n : Nat) (x : Ctx) : (s.setCtx c n x).svcHeld = s.svcHeld := rfl
@[simp] theorem State.setCtx_flogReports (c n : Nat) (x : Ctx) : (s.setCtx c n x).flogReports = s.flogReports := rfl
@[simp] theorem State.setCtx_teams (c n : Nat) (x : Ctx) : (s.setCtx c n x).teams = s.teams := rfl
@[simp] theorem State.setCtx_slots (c n : Nat) (x : Ctx) : (s.setCtx c n x).slots = s.slots := rfl
@[simp] theorem State.setCtx_switch (c n : Nat) (x : Ctx) : (s.setCtx c n x).switch = s.switch := rfl
@[simp] theorem State.setCtx_dbghz (c n : Nat) (x : Ctx) : (s.setCtx c n x).dbghz = s.dbghz := rfl
@[simp] theorem State.setCtx_evictwait (c n : Nat) (x : Ctx) : (s.setCtx c n x).evictwait = s.evictwait := rfl
@[simp] theorem State.setCtx_preemptwait (c n : Nat) (x : Ctx) : (s.setCtx c n x).preemptwait = s.preemptwait := rfl
@[simp] theorem State.setCtx_escwait (c n : Nat) (x : Ctx) : (s.setCtx c n x).escwait = s.escwait := rfl
@[simp] theorem State.setCtx_spanin (c n : Nat) (x : Ctx) : (s.setCtx c n x).spanin = s.spanin := rfl
@[simp] theorem State.setCtx_harvest (c n : Nat) (x : Ctx) : (s.setCtx c n x).harvest = s.harvest := rfl
@[simp] theorem State.setCtx_throttled (c n : Nat) (x : Ctx) : (s.setCtx c n x).throttled = s.throttled := rfl
@[simp] theorem State.setCtx_spanEn (c n : Nat) (x : Ctx) : (s.setCtx c n x).spanEn = s.spanEn := rfl
@[simp] theorem State.setCtx_portEn (c n : Nat) (x : Ctx) : (s.setCtx c n x).portEn = s.portEn := rfl
@[simp] theorem State.setCtx_mailbox (c n : Nat) (x : Ctx) : (s.setCtx c n x).mailbox = s.mailbox := rfl
@[simp] theorem State.setCtx_boot (c n : Nat) (x : Ctx) : (s.setCtx c n x).boot = s.boot := rfl
@[simp] theorem State.setCtx_flash (c n : Nat) (x : Ctx) : (s.setCtx c n x).flash = s.flash := rfl
@[simp] theorem State.setCtx_flashBuf (c n : Nat) (x : Ctx) : (s.setCtx c n x).flashBuf = s.flashBuf := rfl
@[simp] theorem State.setCtx_images (c n : Nat) (x : Ctx) : (s.setCtx c n x).images = s.images := rfl
@[simp] theorem State.setCtx_measures (c n : Nat) (x : Ctx) : (s.setCtx c n x).measures = s.measures := rfl
@[simp] theorem State.setCtx_training (c n : Nat) (x : Ctx) : (s.setCtx c n x).training = s.training := rfl
@[simp] theorem State.setCtx_hostRead (c n : Nat) (x : Ctx) : (s.setCtx c n x).hostRead = s.hostRead := rfl
@[simp] theorem State.setCtx_pcie (c n : Nat) (x : Ctx) : (s.setCtx c n x).pcie = s.pcie := rfl
@[simp] theorem State.setCtx_powered (c n : Nat) (x : Ctx) : (s.setCtx c n x).powered = s.powered := rfl

@[simp] theorem State.modCtx_now (c n : Nat) (f : Ctx → Ctx) : (s.modCtx c n f).now = s.now := rfl
@[simp] theorem State.modCtx_turn (c n : Nat) (f : Ctx → Ctx) : (s.modCtx c n f).turn = s.turn := rfl
@[simp] theorem State.modCtx_agenda (c n : Nat) (f : Ctx → Ctx) : (s.modCtx c n f).agenda = s.agenda := rfl
@[simp] theorem State.modCtx_inputs (c n : Nat) (f : Ctx → Ctx) : (s.modCtx c n f).inputs = s.inputs := rfl
@[simp] theorem State.modCtx_tok (c n : Nat) (f : Ctx → Ctx) : (s.modCtx c n f).tok = s.tok := rfl
@[simp] theorem State.modCtx_fresh (c n : Nat) (f : Ctx → Ctx) : (s.modCtx c n f).fresh = s.fresh := rfl
@[simp] theorem State.modCtx_curCore (c n : Nat) (f : Ctx → Ctx) : (s.modCtx c n f).curCore = s.curCore := rfl
@[simp] theorem State.modCtx_curCtx (c n : Nat) (f : Ctx → Ctx) : (s.modCtx c n f).curCtx = s.curCtx := rfl
@[simp] theorem State.modCtx_curLen (c n : Nat) (f : Ctx → Ctx) : (s.modCtx c n f).curLen = s.curLen := rfl
@[simp] theorem State.modCtx_curBundle (c n : Nat) (f : Ctx → Ctx) : (s.modCtx c n f).curBundle = s.curBundle := rfl
@[simp] theorem State.modCtx_noEffect (c n : Nat) (f : Ctx → Ctx) : (s.modCtx c n f).noEffect = s.noEffect := rfl
@[simp] theorem State.modCtx_epi (c n : Nat) (f : Ctx → Ctx) : (s.modCtx c n f).epi = s.epi := rfl
@[simp] theorem State.modCtx_mem (c n : Nat) (f : Ctx → Ctx) : (s.modCtx c n f).mem = s.mem := rfl
@[simp] theorem State.modCtx_full (c n : Nat) (f : Ctx → Ctx) : (s.modCtx c n f).full = s.full := rfl
@[simp] theorem State.modCtx_bad (c n : Nat) (f : Ctx → Ctx) : (s.modCtx c n f).bad = s.bad := rfl
@[simp] theorem State.modCtx_ctxs (c n : Nat) (f : Ctx → Ctx) : (s.modCtx c n f).ctxs = s.ctxs.set (16 * c + n) (f (s.ctx c n)) := rfl
@[simp] theorem State.modCtx_cores (c n : Nat) (f : Ctx → Ctx) : (s.modCtx c n f).cores = s.cores := rfl
@[simp] theorem State.modCtx_clusters (c n : Nat) (f : Ctx → Ctx) : (s.modCtx c n f).clusters = s.clusters := rfl
@[simp] theorem State.modCtx_stewards (c n : Nat) (f : Ctx → Ctx) : (s.modCtx c n f).stewards = s.stewards := rfl
@[simp] theorem State.modCtx_stewardStopped (c n : Nat) (f : Ctx → Ctx) : (s.modCtx c n f).stewardStopped = s.stewardStopped := rfl
@[simp] theorem State.modCtx_routers (c n : Nat) (f : Ctx → Ctx) : (s.modCtx c n f).routers = s.routers := rfl
@[simp] theorem State.modCtx_engines (c n : Nat) (f : Ctx → Ctx) : (s.modCtx c n f).engines = s.engines := rfl
@[simp] theorem State.modCtx_dies (c n : Nat) (f : Ctx → Ctx) : (s.modCtx c n f).dies = s.dies := rfl
@[simp] theorem State.modCtx_chans (c n : Nat) (f : Ctx → Ctx) : (s.modCtx c n f).chans = s.chans := rfl
@[simp] theorem State.modCtx_holds (c n : Nat) (f : Ctx → Ctx) : (s.modCtx c n f).holds = s.holds := rfl
@[simp] theorem State.modCtx_svcq (c n : Nat) (f : Ctx → Ctx) : (s.modCtx c n f).svcq = s.svcq := rfl
@[simp] theorem State.modCtx_svcHeld (c n : Nat) (f : Ctx → Ctx) : (s.modCtx c n f).svcHeld = s.svcHeld := rfl
@[simp] theorem State.modCtx_flogReports (c n : Nat) (f : Ctx → Ctx) : (s.modCtx c n f).flogReports = s.flogReports := rfl
@[simp] theorem State.modCtx_teams (c n : Nat) (f : Ctx → Ctx) : (s.modCtx c n f).teams = s.teams := rfl
@[simp] theorem State.modCtx_slots (c n : Nat) (f : Ctx → Ctx) : (s.modCtx c n f).slots = s.slots := rfl
@[simp] theorem State.modCtx_switch (c n : Nat) (f : Ctx → Ctx) : (s.modCtx c n f).switch = s.switch := rfl
@[simp] theorem State.modCtx_dbghz (c n : Nat) (f : Ctx → Ctx) : (s.modCtx c n f).dbghz = s.dbghz := rfl
@[simp] theorem State.modCtx_evictwait (c n : Nat) (f : Ctx → Ctx) : (s.modCtx c n f).evictwait = s.evictwait := rfl
@[simp] theorem State.modCtx_preemptwait (c n : Nat) (f : Ctx → Ctx) : (s.modCtx c n f).preemptwait = s.preemptwait := rfl
@[simp] theorem State.modCtx_escwait (c n : Nat) (f : Ctx → Ctx) : (s.modCtx c n f).escwait = s.escwait := rfl
@[simp] theorem State.modCtx_spanin (c n : Nat) (f : Ctx → Ctx) : (s.modCtx c n f).spanin = s.spanin := rfl
@[simp] theorem State.modCtx_harvest (c n : Nat) (f : Ctx → Ctx) : (s.modCtx c n f).harvest = s.harvest := rfl
@[simp] theorem State.modCtx_throttled (c n : Nat) (f : Ctx → Ctx) : (s.modCtx c n f).throttled = s.throttled := rfl
@[simp] theorem State.modCtx_spanEn (c n : Nat) (f : Ctx → Ctx) : (s.modCtx c n f).spanEn = s.spanEn := rfl
@[simp] theorem State.modCtx_portEn (c n : Nat) (f : Ctx → Ctx) : (s.modCtx c n f).portEn = s.portEn := rfl
@[simp] theorem State.modCtx_mailbox (c n : Nat) (f : Ctx → Ctx) : (s.modCtx c n f).mailbox = s.mailbox := rfl
@[simp] theorem State.modCtx_boot (c n : Nat) (f : Ctx → Ctx) : (s.modCtx c n f).boot = s.boot := rfl
@[simp] theorem State.modCtx_flash (c n : Nat) (f : Ctx → Ctx) : (s.modCtx c n f).flash = s.flash := rfl
@[simp] theorem State.modCtx_flashBuf (c n : Nat) (f : Ctx → Ctx) : (s.modCtx c n f).flashBuf = s.flashBuf := rfl
@[simp] theorem State.modCtx_images (c n : Nat) (f : Ctx → Ctx) : (s.modCtx c n f).images = s.images := rfl
@[simp] theorem State.modCtx_measures (c n : Nat) (f : Ctx → Ctx) : (s.modCtx c n f).measures = s.measures := rfl
@[simp] theorem State.modCtx_training (c n : Nat) (f : Ctx → Ctx) : (s.modCtx c n f).training = s.training := rfl
@[simp] theorem State.modCtx_hostRead (c n : Nat) (f : Ctx → Ctx) : (s.modCtx c n f).hostRead = s.hostRead := rfl
@[simp] theorem State.modCtx_pcie (c n : Nat) (f : Ctx → Ctx) : (s.modCtx c n f).pcie = s.pcie := rfl
@[simp] theorem State.modCtx_powered (c n : Nat) (f : Ctx → Ctx) : (s.modCtx c n f).powered = s.powered := rfl

@[simp] theorem State.modMe_now (f : Ctx → Ctx) : (s.modMe f).now = s.now := rfl
@[simp] theorem State.modMe_turn (f : Ctx → Ctx) : (s.modMe f).turn = s.turn := rfl
@[simp] theorem State.modMe_agenda (f : Ctx → Ctx) : (s.modMe f).agenda = s.agenda := rfl
@[simp] theorem State.modMe_inputs (f : Ctx → Ctx) : (s.modMe f).inputs = s.inputs := rfl
@[simp] theorem State.modMe_tok (f : Ctx → Ctx) : (s.modMe f).tok = s.tok := rfl
@[simp] theorem State.modMe_fresh (f : Ctx → Ctx) : (s.modMe f).fresh = s.fresh := rfl
@[simp] theorem State.modMe_curCore (f : Ctx → Ctx) : (s.modMe f).curCore = s.curCore := rfl
@[simp] theorem State.modMe_curCtx (f : Ctx → Ctx) : (s.modMe f).curCtx = s.curCtx := rfl
@[simp] theorem State.modMe_curLen (f : Ctx → Ctx) : (s.modMe f).curLen = s.curLen := rfl
@[simp] theorem State.modMe_curBundle (f : Ctx → Ctx) : (s.modMe f).curBundle = s.curBundle := rfl
@[simp] theorem State.modMe_noEffect (f : Ctx → Ctx) : (s.modMe f).noEffect = s.noEffect := rfl
@[simp] theorem State.modMe_epi (f : Ctx → Ctx) : (s.modMe f).epi = s.epi := rfl
@[simp] theorem State.modMe_mem (f : Ctx → Ctx) : (s.modMe f).mem = s.mem := rfl
@[simp] theorem State.modMe_full (f : Ctx → Ctx) : (s.modMe f).full = s.full := rfl
@[simp] theorem State.modMe_bad (f : Ctx → Ctx) : (s.modMe f).bad = s.bad := rfl
@[simp] theorem State.modMe_ctxs (f : Ctx → Ctx) : (s.modMe f).ctxs = s.ctxs.set (16 * s.curCore + s.curCtx) (f s.me) := rfl
@[simp] theorem State.modMe_cores (f : Ctx → Ctx) : (s.modMe f).cores = s.cores := rfl
@[simp] theorem State.modMe_clusters (f : Ctx → Ctx) : (s.modMe f).clusters = s.clusters := rfl
@[simp] theorem State.modMe_stewards (f : Ctx → Ctx) : (s.modMe f).stewards = s.stewards := rfl
@[simp] theorem State.modMe_stewardStopped (f : Ctx → Ctx) : (s.modMe f).stewardStopped = s.stewardStopped := rfl
@[simp] theorem State.modMe_routers (f : Ctx → Ctx) : (s.modMe f).routers = s.routers := rfl
@[simp] theorem State.modMe_engines (f : Ctx → Ctx) : (s.modMe f).engines = s.engines := rfl
@[simp] theorem State.modMe_dies (f : Ctx → Ctx) : (s.modMe f).dies = s.dies := rfl
@[simp] theorem State.modMe_chans (f : Ctx → Ctx) : (s.modMe f).chans = s.chans := rfl
@[simp] theorem State.modMe_holds (f : Ctx → Ctx) : (s.modMe f).holds = s.holds := rfl
@[simp] theorem State.modMe_svcq (f : Ctx → Ctx) : (s.modMe f).svcq = s.svcq := rfl
@[simp] theorem State.modMe_svcHeld (f : Ctx → Ctx) : (s.modMe f).svcHeld = s.svcHeld := rfl
@[simp] theorem State.modMe_flogReports (f : Ctx → Ctx) : (s.modMe f).flogReports = s.flogReports := rfl
@[simp] theorem State.modMe_teams (f : Ctx → Ctx) : (s.modMe f).teams = s.teams := rfl
@[simp] theorem State.modMe_slots (f : Ctx → Ctx) : (s.modMe f).slots = s.slots := rfl
@[simp] theorem State.modMe_switch (f : Ctx → Ctx) : (s.modMe f).switch = s.switch := rfl
@[simp] theorem State.modMe_dbghz (f : Ctx → Ctx) : (s.modMe f).dbghz = s.dbghz := rfl
@[simp] theorem State.modMe_evictwait (f : Ctx → Ctx) : (s.modMe f).evictwait = s.evictwait := rfl
@[simp] theorem State.modMe_preemptwait (f : Ctx → Ctx) : (s.modMe f).preemptwait = s.preemptwait := rfl
@[simp] theorem State.modMe_escwait (f : Ctx → Ctx) : (s.modMe f).escwait = s.escwait := rfl
@[simp] theorem State.modMe_spanin (f : Ctx → Ctx) : (s.modMe f).spanin = s.spanin := rfl
@[simp] theorem State.modMe_harvest (f : Ctx → Ctx) : (s.modMe f).harvest = s.harvest := rfl
@[simp] theorem State.modMe_throttled (f : Ctx → Ctx) : (s.modMe f).throttled = s.throttled := rfl
@[simp] theorem State.modMe_spanEn (f : Ctx → Ctx) : (s.modMe f).spanEn = s.spanEn := rfl
@[simp] theorem State.modMe_portEn (f : Ctx → Ctx) : (s.modMe f).portEn = s.portEn := rfl
@[simp] theorem State.modMe_mailbox (f : Ctx → Ctx) : (s.modMe f).mailbox = s.mailbox := rfl
@[simp] theorem State.modMe_boot (f : Ctx → Ctx) : (s.modMe f).boot = s.boot := rfl
@[simp] theorem State.modMe_flash (f : Ctx → Ctx) : (s.modMe f).flash = s.flash := rfl
@[simp] theorem State.modMe_flashBuf (f : Ctx → Ctx) : (s.modMe f).flashBuf = s.flashBuf := rfl
@[simp] theorem State.modMe_images (f : Ctx → Ctx) : (s.modMe f).images = s.images := rfl
@[simp] theorem State.modMe_measures (f : Ctx → Ctx) : (s.modMe f).measures = s.measures := rfl
@[simp] theorem State.modMe_training (f : Ctx → Ctx) : (s.modMe f).training = s.training := rfl
@[simp] theorem State.modMe_hostRead (f : Ctx → Ctx) : (s.modMe f).hostRead = s.hostRead := rfl
@[simp] theorem State.modMe_pcie (f : Ctx → Ctx) : (s.modMe f).pcie = s.pcie := rfl
@[simp] theorem State.modMe_powered (f : Ctx → Ctx) : (s.modMe f).powered = s.powered := rfl

@[simp] theorem State.setCore_now (c : Nat) (x : Core) : (s.setCore c x).now = s.now := rfl
@[simp] theorem State.setCore_turn (c : Nat) (x : Core) : (s.setCore c x).turn = s.turn := rfl
@[simp] theorem State.setCore_agenda (c : Nat) (x : Core) : (s.setCore c x).agenda = s.agenda := rfl
@[simp] theorem State.setCore_inputs (c : Nat) (x : Core) : (s.setCore c x).inputs = s.inputs := rfl
@[simp] theorem State.setCore_tok (c : Nat) (x : Core) : (s.setCore c x).tok = s.tok := rfl
@[simp] theorem State.setCore_fresh (c : Nat) (x : Core) : (s.setCore c x).fresh = s.fresh := rfl
@[simp] theorem State.setCore_curCore (c : Nat) (x : Core) : (s.setCore c x).curCore = s.curCore := rfl
@[simp] theorem State.setCore_curCtx (c : Nat) (x : Core) : (s.setCore c x).curCtx = s.curCtx := rfl
@[simp] theorem State.setCore_curLen (c : Nat) (x : Core) : (s.setCore c x).curLen = s.curLen := rfl
@[simp] theorem State.setCore_curBundle (c : Nat) (x : Core) : (s.setCore c x).curBundle = s.curBundle := rfl
@[simp] theorem State.setCore_noEffect (c : Nat) (x : Core) : (s.setCore c x).noEffect = s.noEffect := rfl
@[simp] theorem State.setCore_epi (c : Nat) (x : Core) : (s.setCore c x).epi = s.epi := rfl
@[simp] theorem State.setCore_mem (c : Nat) (x : Core) : (s.setCore c x).mem = s.mem := rfl
@[simp] theorem State.setCore_full (c : Nat) (x : Core) : (s.setCore c x).full = s.full := rfl
@[simp] theorem State.setCore_bad (c : Nat) (x : Core) : (s.setCore c x).bad = s.bad := rfl
@[simp] theorem State.setCore_ctxs (c : Nat) (x : Core) : (s.setCore c x).ctxs = s.ctxs := rfl
@[simp] theorem State.setCore_cores (c : Nat) (x : Core) : (s.setCore c x).cores = s.cores.set c x := rfl
@[simp] theorem State.setCore_clusters (c : Nat) (x : Core) : (s.setCore c x).clusters = s.clusters := rfl
@[simp] theorem State.setCore_stewards (c : Nat) (x : Core) : (s.setCore c x).stewards = s.stewards := rfl
@[simp] theorem State.setCore_stewardStopped (c : Nat) (x : Core) : (s.setCore c x).stewardStopped = s.stewardStopped := rfl
@[simp] theorem State.setCore_routers (c : Nat) (x : Core) : (s.setCore c x).routers = s.routers := rfl
@[simp] theorem State.setCore_engines (c : Nat) (x : Core) : (s.setCore c x).engines = s.engines := rfl
@[simp] theorem State.setCore_dies (c : Nat) (x : Core) : (s.setCore c x).dies = s.dies := rfl
@[simp] theorem State.setCore_chans (c : Nat) (x : Core) : (s.setCore c x).chans = s.chans := rfl
@[simp] theorem State.setCore_holds (c : Nat) (x : Core) : (s.setCore c x).holds = s.holds := rfl
@[simp] theorem State.setCore_svcq (c : Nat) (x : Core) : (s.setCore c x).svcq = s.svcq := rfl
@[simp] theorem State.setCore_svcHeld (c : Nat) (x : Core) : (s.setCore c x).svcHeld = s.svcHeld := rfl
@[simp] theorem State.setCore_flogReports (c : Nat) (x : Core) : (s.setCore c x).flogReports = s.flogReports := rfl
@[simp] theorem State.setCore_teams (c : Nat) (x : Core) : (s.setCore c x).teams = s.teams := rfl
@[simp] theorem State.setCore_slots (c : Nat) (x : Core) : (s.setCore c x).slots = s.slots := rfl
@[simp] theorem State.setCore_switch (c : Nat) (x : Core) : (s.setCore c x).switch = s.switch := rfl
@[simp] theorem State.setCore_dbghz (c : Nat) (x : Core) : (s.setCore c x).dbghz = s.dbghz := rfl
@[simp] theorem State.setCore_evictwait (c : Nat) (x : Core) : (s.setCore c x).evictwait = s.evictwait := rfl
@[simp] theorem State.setCore_preemptwait (c : Nat) (x : Core) : (s.setCore c x).preemptwait = s.preemptwait := rfl
@[simp] theorem State.setCore_escwait (c : Nat) (x : Core) : (s.setCore c x).escwait = s.escwait := rfl
@[simp] theorem State.setCore_spanin (c : Nat) (x : Core) : (s.setCore c x).spanin = s.spanin := rfl
@[simp] theorem State.setCore_harvest (c : Nat) (x : Core) : (s.setCore c x).harvest = s.harvest := rfl
@[simp] theorem State.setCore_throttled (c : Nat) (x : Core) : (s.setCore c x).throttled = s.throttled := rfl
@[simp] theorem State.setCore_spanEn (c : Nat) (x : Core) : (s.setCore c x).spanEn = s.spanEn := rfl
@[simp] theorem State.setCore_portEn (c : Nat) (x : Core) : (s.setCore c x).portEn = s.portEn := rfl
@[simp] theorem State.setCore_mailbox (c : Nat) (x : Core) : (s.setCore c x).mailbox = s.mailbox := rfl
@[simp] theorem State.setCore_boot (c : Nat) (x : Core) : (s.setCore c x).boot = s.boot := rfl
@[simp] theorem State.setCore_flash (c : Nat) (x : Core) : (s.setCore c x).flash = s.flash := rfl
@[simp] theorem State.setCore_flashBuf (c : Nat) (x : Core) : (s.setCore c x).flashBuf = s.flashBuf := rfl
@[simp] theorem State.setCore_images (c : Nat) (x : Core) : (s.setCore c x).images = s.images := rfl
@[simp] theorem State.setCore_measures (c : Nat) (x : Core) : (s.setCore c x).measures = s.measures := rfl
@[simp] theorem State.setCore_training (c : Nat) (x : Core) : (s.setCore c x).training = s.training := rfl
@[simp] theorem State.setCore_hostRead (c : Nat) (x : Core) : (s.setCore c x).hostRead = s.hostRead := rfl
@[simp] theorem State.setCore_pcie (c : Nat) (x : Core) : (s.setCore c x).pcie = s.pcie := rfl
@[simp] theorem State.setCore_powered (c : Nat) (x : Core) : (s.setCore c x).powered = s.powered := rfl

@[simp] theorem State.modCore_now (c : Nat) (f : Core → Core) : (s.modCore c f).now = s.now := rfl
@[simp] theorem State.modCore_turn (c : Nat) (f : Core → Core) : (s.modCore c f).turn = s.turn := rfl
@[simp] theorem State.modCore_agenda (c : Nat) (f : Core → Core) : (s.modCore c f).agenda = s.agenda := rfl
@[simp] theorem State.modCore_inputs (c : Nat) (f : Core → Core) : (s.modCore c f).inputs = s.inputs := rfl
@[simp] theorem State.modCore_tok (c : Nat) (f : Core → Core) : (s.modCore c f).tok = s.tok := rfl
@[simp] theorem State.modCore_fresh (c : Nat) (f : Core → Core) : (s.modCore c f).fresh = s.fresh := rfl
@[simp] theorem State.modCore_curCore (c : Nat) (f : Core → Core) : (s.modCore c f).curCore = s.curCore := rfl
@[simp] theorem State.modCore_curCtx (c : Nat) (f : Core → Core) : (s.modCore c f).curCtx = s.curCtx := rfl
@[simp] theorem State.modCore_curLen (c : Nat) (f : Core → Core) : (s.modCore c f).curLen = s.curLen := rfl
@[simp] theorem State.modCore_curBundle (c : Nat) (f : Core → Core) : (s.modCore c f).curBundle = s.curBundle := rfl
@[simp] theorem State.modCore_noEffect (c : Nat) (f : Core → Core) : (s.modCore c f).noEffect = s.noEffect := rfl
@[simp] theorem State.modCore_epi (c : Nat) (f : Core → Core) : (s.modCore c f).epi = s.epi := rfl
@[simp] theorem State.modCore_mem (c : Nat) (f : Core → Core) : (s.modCore c f).mem = s.mem := rfl
@[simp] theorem State.modCore_full (c : Nat) (f : Core → Core) : (s.modCore c f).full = s.full := rfl
@[simp] theorem State.modCore_bad (c : Nat) (f : Core → Core) : (s.modCore c f).bad = s.bad := rfl
@[simp] theorem State.modCore_ctxs (c : Nat) (f : Core → Core) : (s.modCore c f).ctxs = s.ctxs := rfl
@[simp] theorem State.modCore_cores (c : Nat) (f : Core → Core) : (s.modCore c f).cores = s.cores.set c (f (s.core c)) := rfl
@[simp] theorem State.modCore_clusters (c : Nat) (f : Core → Core) : (s.modCore c f).clusters = s.clusters := rfl
@[simp] theorem State.modCore_stewards (c : Nat) (f : Core → Core) : (s.modCore c f).stewards = s.stewards := rfl
@[simp] theorem State.modCore_stewardStopped (c : Nat) (f : Core → Core) : (s.modCore c f).stewardStopped = s.stewardStopped := rfl
@[simp] theorem State.modCore_routers (c : Nat) (f : Core → Core) : (s.modCore c f).routers = s.routers := rfl
@[simp] theorem State.modCore_engines (c : Nat) (f : Core → Core) : (s.modCore c f).engines = s.engines := rfl
@[simp] theorem State.modCore_dies (c : Nat) (f : Core → Core) : (s.modCore c f).dies = s.dies := rfl
@[simp] theorem State.modCore_chans (c : Nat) (f : Core → Core) : (s.modCore c f).chans = s.chans := rfl
@[simp] theorem State.modCore_holds (c : Nat) (f : Core → Core) : (s.modCore c f).holds = s.holds := rfl
@[simp] theorem State.modCore_svcq (c : Nat) (f : Core → Core) : (s.modCore c f).svcq = s.svcq := rfl
@[simp] theorem State.modCore_svcHeld (c : Nat) (f : Core → Core) : (s.modCore c f).svcHeld = s.svcHeld := rfl
@[simp] theorem State.modCore_flogReports (c : Nat) (f : Core → Core) : (s.modCore c f).flogReports = s.flogReports := rfl
@[simp] theorem State.modCore_teams (c : Nat) (f : Core → Core) : (s.modCore c f).teams = s.teams := rfl
@[simp] theorem State.modCore_slots (c : Nat) (f : Core → Core) : (s.modCore c f).slots = s.slots := rfl
@[simp] theorem State.modCore_switch (c : Nat) (f : Core → Core) : (s.modCore c f).switch = s.switch := rfl
@[simp] theorem State.modCore_dbghz (c : Nat) (f : Core → Core) : (s.modCore c f).dbghz = s.dbghz := rfl
@[simp] theorem State.modCore_evictwait (c : Nat) (f : Core → Core) : (s.modCore c f).evictwait = s.evictwait := rfl
@[simp] theorem State.modCore_preemptwait (c : Nat) (f : Core → Core) : (s.modCore c f).preemptwait = s.preemptwait := rfl
@[simp] theorem State.modCore_escwait (c : Nat) (f : Core → Core) : (s.modCore c f).escwait = s.escwait := rfl
@[simp] theorem State.modCore_spanin (c : Nat) (f : Core → Core) : (s.modCore c f).spanin = s.spanin := rfl
@[simp] theorem State.modCore_harvest (c : Nat) (f : Core → Core) : (s.modCore c f).harvest = s.harvest := rfl
@[simp] theorem State.modCore_throttled (c : Nat) (f : Core → Core) : (s.modCore c f).throttled = s.throttled := rfl
@[simp] theorem State.modCore_spanEn (c : Nat) (f : Core → Core) : (s.modCore c f).spanEn = s.spanEn := rfl
@[simp] theorem State.modCore_portEn (c : Nat) (f : Core → Core) : (s.modCore c f).portEn = s.portEn := rfl
@[simp] theorem State.modCore_mailbox (c : Nat) (f : Core → Core) : (s.modCore c f).mailbox = s.mailbox := rfl
@[simp] theorem State.modCore_boot (c : Nat) (f : Core → Core) : (s.modCore c f).boot = s.boot := rfl
@[simp] theorem State.modCore_flash (c : Nat) (f : Core → Core) : (s.modCore c f).flash = s.flash := rfl
@[simp] theorem State.modCore_flashBuf (c : Nat) (f : Core → Core) : (s.modCore c f).flashBuf = s.flashBuf := rfl
@[simp] theorem State.modCore_images (c : Nat) (f : Core → Core) : (s.modCore c f).images = s.images := rfl
@[simp] theorem State.modCore_measures (c : Nat) (f : Core → Core) : (s.modCore c f).measures = s.measures := rfl
@[simp] theorem State.modCore_training (c : Nat) (f : Core → Core) : (s.modCore c f).training = s.training := rfl
@[simp] theorem State.modCore_hostRead (c : Nat) (f : Core → Core) : (s.modCore c f).hostRead = s.hostRead := rfl
@[simp] theorem State.modCore_pcie (c : Nat) (f : Core → Core) : (s.modCore c f).pcie = s.pcie := rfl
@[simp] theorem State.modCore_powered (c : Nat) (f : Core → Core) : (s.modCore c f).powered = s.powered := rfl

@[simp] theorem State.setEng_now (l : Nat) (x : Engine) : (s.setEng l x).now = s.now := rfl
@[simp] theorem State.setEng_turn (l : Nat) (x : Engine) : (s.setEng l x).turn = s.turn := rfl
@[simp] theorem State.setEng_agenda (l : Nat) (x : Engine) : (s.setEng l x).agenda = s.agenda := rfl
@[simp] theorem State.setEng_inputs (l : Nat) (x : Engine) : (s.setEng l x).inputs = s.inputs := rfl
@[simp] theorem State.setEng_tok (l : Nat) (x : Engine) : (s.setEng l x).tok = s.tok := rfl
@[simp] theorem State.setEng_fresh (l : Nat) (x : Engine) : (s.setEng l x).fresh = s.fresh := rfl
@[simp] theorem State.setEng_curCore (l : Nat) (x : Engine) : (s.setEng l x).curCore = s.curCore := rfl
@[simp] theorem State.setEng_curCtx (l : Nat) (x : Engine) : (s.setEng l x).curCtx = s.curCtx := rfl
@[simp] theorem State.setEng_curLen (l : Nat) (x : Engine) : (s.setEng l x).curLen = s.curLen := rfl
@[simp] theorem State.setEng_curBundle (l : Nat) (x : Engine) : (s.setEng l x).curBundle = s.curBundle := rfl
@[simp] theorem State.setEng_noEffect (l : Nat) (x : Engine) : (s.setEng l x).noEffect = s.noEffect := rfl
@[simp] theorem State.setEng_epi (l : Nat) (x : Engine) : (s.setEng l x).epi = s.epi := rfl
@[simp] theorem State.setEng_mem (l : Nat) (x : Engine) : (s.setEng l x).mem = s.mem := rfl
@[simp] theorem State.setEng_full (l : Nat) (x : Engine) : (s.setEng l x).full = s.full := rfl
@[simp] theorem State.setEng_bad (l : Nat) (x : Engine) : (s.setEng l x).bad = s.bad := rfl
@[simp] theorem State.setEng_ctxs (l : Nat) (x : Engine) : (s.setEng l x).ctxs = s.ctxs := rfl
@[simp] theorem State.setEng_cores (l : Nat) (x : Engine) : (s.setEng l x).cores = s.cores := rfl
@[simp] theorem State.setEng_clusters (l : Nat) (x : Engine) : (s.setEng l x).clusters = s.clusters := rfl
@[simp] theorem State.setEng_stewards (l : Nat) (x : Engine) : (s.setEng l x).stewards = s.stewards := rfl
@[simp] theorem State.setEng_stewardStopped (l : Nat) (x : Engine) : (s.setEng l x).stewardStopped = s.stewardStopped := rfl
@[simp] theorem State.setEng_routers (l : Nat) (x : Engine) : (s.setEng l x).routers = s.routers := rfl
@[simp] theorem State.setEng_engines (l : Nat) (x : Engine) : (s.setEng l x).engines = s.engines.set l x := rfl
@[simp] theorem State.setEng_dies (l : Nat) (x : Engine) : (s.setEng l x).dies = s.dies := rfl
@[simp] theorem State.setEng_chans (l : Nat) (x : Engine) : (s.setEng l x).chans = s.chans := rfl
@[simp] theorem State.setEng_holds (l : Nat) (x : Engine) : (s.setEng l x).holds = s.holds := rfl
@[simp] theorem State.setEng_svcq (l : Nat) (x : Engine) : (s.setEng l x).svcq = s.svcq := rfl
@[simp] theorem State.setEng_svcHeld (l : Nat) (x : Engine) : (s.setEng l x).svcHeld = s.svcHeld := rfl
@[simp] theorem State.setEng_flogReports (l : Nat) (x : Engine) : (s.setEng l x).flogReports = s.flogReports := rfl
@[simp] theorem State.setEng_teams (l : Nat) (x : Engine) : (s.setEng l x).teams = s.teams := rfl
@[simp] theorem State.setEng_slots (l : Nat) (x : Engine) : (s.setEng l x).slots = s.slots := rfl
@[simp] theorem State.setEng_switch (l : Nat) (x : Engine) : (s.setEng l x).switch = s.switch := rfl
@[simp] theorem State.setEng_dbghz (l : Nat) (x : Engine) : (s.setEng l x).dbghz = s.dbghz := rfl
@[simp] theorem State.setEng_evictwait (l : Nat) (x : Engine) : (s.setEng l x).evictwait = s.evictwait := rfl
@[simp] theorem State.setEng_preemptwait (l : Nat) (x : Engine) : (s.setEng l x).preemptwait = s.preemptwait := rfl
@[simp] theorem State.setEng_escwait (l : Nat) (x : Engine) : (s.setEng l x).escwait = s.escwait := rfl
@[simp] theorem State.setEng_spanin (l : Nat) (x : Engine) : (s.setEng l x).spanin = s.spanin := rfl
@[simp] theorem State.setEng_harvest (l : Nat) (x : Engine) : (s.setEng l x).harvest = s.harvest := rfl
@[simp] theorem State.setEng_throttled (l : Nat) (x : Engine) : (s.setEng l x).throttled = s.throttled := rfl
@[simp] theorem State.setEng_spanEn (l : Nat) (x : Engine) : (s.setEng l x).spanEn = s.spanEn := rfl
@[simp] theorem State.setEng_portEn (l : Nat) (x : Engine) : (s.setEng l x).portEn = s.portEn := rfl
@[simp] theorem State.setEng_mailbox (l : Nat) (x : Engine) : (s.setEng l x).mailbox = s.mailbox := rfl
@[simp] theorem State.setEng_boot (l : Nat) (x : Engine) : (s.setEng l x).boot = s.boot := rfl
@[simp] theorem State.setEng_flash (l : Nat) (x : Engine) : (s.setEng l x).flash = s.flash := rfl
@[simp] theorem State.setEng_flashBuf (l : Nat) (x : Engine) : (s.setEng l x).flashBuf = s.flashBuf := rfl
@[simp] theorem State.setEng_images (l : Nat) (x : Engine) : (s.setEng l x).images = s.images := rfl
@[simp] theorem State.setEng_measures (l : Nat) (x : Engine) : (s.setEng l x).measures = s.measures := rfl
@[simp] theorem State.setEng_training (l : Nat) (x : Engine) : (s.setEng l x).training = s.training := rfl
@[simp] theorem State.setEng_hostRead (l : Nat) (x : Engine) : (s.setEng l x).hostRead = s.hostRead := rfl
@[simp] theorem State.setEng_pcie (l : Nat) (x : Engine) : (s.setEng l x).pcie = s.pcie := rfl
@[simp] theorem State.setEng_powered (l : Nat) (x : Engine) : (s.setEng l x).powered = s.powered := rfl

@[simp] theorem State.modEng_now (l : Nat) (f : Engine → Engine) : (s.modEng l f).now = s.now := rfl
@[simp] theorem State.modEng_turn (l : Nat) (f : Engine → Engine) : (s.modEng l f).turn = s.turn := rfl
@[simp] theorem State.modEng_agenda (l : Nat) (f : Engine → Engine) : (s.modEng l f).agenda = s.agenda := rfl
@[simp] theorem State.modEng_inputs (l : Nat) (f : Engine → Engine) : (s.modEng l f).inputs = s.inputs := rfl
@[simp] theorem State.modEng_tok (l : Nat) (f : Engine → Engine) : (s.modEng l f).tok = s.tok := rfl
@[simp] theorem State.modEng_fresh (l : Nat) (f : Engine → Engine) : (s.modEng l f).fresh = s.fresh := rfl
@[simp] theorem State.modEng_curCore (l : Nat) (f : Engine → Engine) : (s.modEng l f).curCore = s.curCore := rfl
@[simp] theorem State.modEng_curCtx (l : Nat) (f : Engine → Engine) : (s.modEng l f).curCtx = s.curCtx := rfl
@[simp] theorem State.modEng_curLen (l : Nat) (f : Engine → Engine) : (s.modEng l f).curLen = s.curLen := rfl
@[simp] theorem State.modEng_curBundle (l : Nat) (f : Engine → Engine) : (s.modEng l f).curBundle = s.curBundle := rfl
@[simp] theorem State.modEng_noEffect (l : Nat) (f : Engine → Engine) : (s.modEng l f).noEffect = s.noEffect := rfl
@[simp] theorem State.modEng_epi (l : Nat) (f : Engine → Engine) : (s.modEng l f).epi = s.epi := rfl
@[simp] theorem State.modEng_mem (l : Nat) (f : Engine → Engine) : (s.modEng l f).mem = s.mem := rfl
@[simp] theorem State.modEng_full (l : Nat) (f : Engine → Engine) : (s.modEng l f).full = s.full := rfl
@[simp] theorem State.modEng_bad (l : Nat) (f : Engine → Engine) : (s.modEng l f).bad = s.bad := rfl
@[simp] theorem State.modEng_ctxs (l : Nat) (f : Engine → Engine) : (s.modEng l f).ctxs = s.ctxs := rfl
@[simp] theorem State.modEng_cores (l : Nat) (f : Engine → Engine) : (s.modEng l f).cores = s.cores := rfl
@[simp] theorem State.modEng_clusters (l : Nat) (f : Engine → Engine) : (s.modEng l f).clusters = s.clusters := rfl
@[simp] theorem State.modEng_stewards (l : Nat) (f : Engine → Engine) : (s.modEng l f).stewards = s.stewards := rfl
@[simp] theorem State.modEng_stewardStopped (l : Nat) (f : Engine → Engine) : (s.modEng l f).stewardStopped = s.stewardStopped := rfl
@[simp] theorem State.modEng_routers (l : Nat) (f : Engine → Engine) : (s.modEng l f).routers = s.routers := rfl
@[simp] theorem State.modEng_engines (l : Nat) (f : Engine → Engine) : (s.modEng l f).engines = s.engines.set l (f (s.eng l)) := rfl
@[simp] theorem State.modEng_dies (l : Nat) (f : Engine → Engine) : (s.modEng l f).dies = s.dies := rfl
@[simp] theorem State.modEng_chans (l : Nat) (f : Engine → Engine) : (s.modEng l f).chans = s.chans := rfl
@[simp] theorem State.modEng_holds (l : Nat) (f : Engine → Engine) : (s.modEng l f).holds = s.holds := rfl
@[simp] theorem State.modEng_svcq (l : Nat) (f : Engine → Engine) : (s.modEng l f).svcq = s.svcq := rfl
@[simp] theorem State.modEng_svcHeld (l : Nat) (f : Engine → Engine) : (s.modEng l f).svcHeld = s.svcHeld := rfl
@[simp] theorem State.modEng_flogReports (l : Nat) (f : Engine → Engine) : (s.modEng l f).flogReports = s.flogReports := rfl
@[simp] theorem State.modEng_teams (l : Nat) (f : Engine → Engine) : (s.modEng l f).teams = s.teams := rfl
@[simp] theorem State.modEng_slots (l : Nat) (f : Engine → Engine) : (s.modEng l f).slots = s.slots := rfl
@[simp] theorem State.modEng_switch (l : Nat) (f : Engine → Engine) : (s.modEng l f).switch = s.switch := rfl
@[simp] theorem State.modEng_dbghz (l : Nat) (f : Engine → Engine) : (s.modEng l f).dbghz = s.dbghz := rfl
@[simp] theorem State.modEng_evictwait (l : Nat) (f : Engine → Engine) : (s.modEng l f).evictwait = s.evictwait := rfl
@[simp] theorem State.modEng_preemptwait (l : Nat) (f : Engine → Engine) : (s.modEng l f).preemptwait = s.preemptwait := rfl
@[simp] theorem State.modEng_escwait (l : Nat) (f : Engine → Engine) : (s.modEng l f).escwait = s.escwait := rfl
@[simp] theorem State.modEng_spanin (l : Nat) (f : Engine → Engine) : (s.modEng l f).spanin = s.spanin := rfl
@[simp] theorem State.modEng_harvest (l : Nat) (f : Engine → Engine) : (s.modEng l f).harvest = s.harvest := rfl
@[simp] theorem State.modEng_throttled (l : Nat) (f : Engine → Engine) : (s.modEng l f).throttled = s.throttled := rfl
@[simp] theorem State.modEng_spanEn (l : Nat) (f : Engine → Engine) : (s.modEng l f).spanEn = s.spanEn := rfl
@[simp] theorem State.modEng_portEn (l : Nat) (f : Engine → Engine) : (s.modEng l f).portEn = s.portEn := rfl
@[simp] theorem State.modEng_mailbox (l : Nat) (f : Engine → Engine) : (s.modEng l f).mailbox = s.mailbox := rfl
@[simp] theorem State.modEng_boot (l : Nat) (f : Engine → Engine) : (s.modEng l f).boot = s.boot := rfl
@[simp] theorem State.modEng_flash (l : Nat) (f : Engine → Engine) : (s.modEng l f).flash = s.flash := rfl
@[simp] theorem State.modEng_flashBuf (l : Nat) (f : Engine → Engine) : (s.modEng l f).flashBuf = s.flashBuf := rfl
@[simp] theorem State.modEng_images (l : Nat) (f : Engine → Engine) : (s.modEng l f).images = s.images := rfl
@[simp] theorem State.modEng_measures (l : Nat) (f : Engine → Engine) : (s.modEng l f).measures = s.measures := rfl
@[simp] theorem State.modEng_training (l : Nat) (f : Engine → Engine) : (s.modEng l f).training = s.training := rfl
@[simp] theorem State.modEng_hostRead (l : Nat) (f : Engine → Engine) : (s.modEng l f).hostRead = s.hostRead := rfl
@[simp] theorem State.modEng_pcie (l : Nat) (f : Engine → Engine) : (s.modEng l f).pcie = s.pcie := rfl
@[simp] theorem State.modEng_powered (l : Nat) (f : Engine → Engine) : (s.modEng l f).powered = s.powered := rfl

@[simp] theorem State.modCluster_now (k : Nat) (f : Cluster → Cluster) : (s.modCluster k f).now = s.now := rfl
@[simp] theorem State.modCluster_turn (k : Nat) (f : Cluster → Cluster) : (s.modCluster k f).turn = s.turn := rfl
@[simp] theorem State.modCluster_agenda (k : Nat) (f : Cluster → Cluster) : (s.modCluster k f).agenda = s.agenda := rfl
@[simp] theorem State.modCluster_inputs (k : Nat) (f : Cluster → Cluster) : (s.modCluster k f).inputs = s.inputs := rfl
@[simp] theorem State.modCluster_tok (k : Nat) (f : Cluster → Cluster) : (s.modCluster k f).tok = s.tok := rfl
@[simp] theorem State.modCluster_fresh (k : Nat) (f : Cluster → Cluster) : (s.modCluster k f).fresh = s.fresh := rfl
@[simp] theorem State.modCluster_curCore (k : Nat) (f : Cluster → Cluster) : (s.modCluster k f).curCore = s.curCore := rfl
@[simp] theorem State.modCluster_curCtx (k : Nat) (f : Cluster → Cluster) : (s.modCluster k f).curCtx = s.curCtx := rfl
@[simp] theorem State.modCluster_curLen (k : Nat) (f : Cluster → Cluster) : (s.modCluster k f).curLen = s.curLen := rfl
@[simp] theorem State.modCluster_curBundle (k : Nat) (f : Cluster → Cluster) : (s.modCluster k f).curBundle = s.curBundle := rfl
@[simp] theorem State.modCluster_noEffect (k : Nat) (f : Cluster → Cluster) : (s.modCluster k f).noEffect = s.noEffect := rfl
@[simp] theorem State.modCluster_epi (k : Nat) (f : Cluster → Cluster) : (s.modCluster k f).epi = s.epi := rfl
@[simp] theorem State.modCluster_mem (k : Nat) (f : Cluster → Cluster) : (s.modCluster k f).mem = s.mem := rfl
@[simp] theorem State.modCluster_full (k : Nat) (f : Cluster → Cluster) : (s.modCluster k f).full = s.full := rfl
@[simp] theorem State.modCluster_bad (k : Nat) (f : Cluster → Cluster) : (s.modCluster k f).bad = s.bad := rfl
@[simp] theorem State.modCluster_ctxs (k : Nat) (f : Cluster → Cluster) : (s.modCluster k f).ctxs = s.ctxs := rfl
@[simp] theorem State.modCluster_cores (k : Nat) (f : Cluster → Cluster) : (s.modCluster k f).cores = s.cores := rfl
@[simp] theorem State.modCluster_clusters (k : Nat) (f : Cluster → Cluster) : (s.modCluster k f).clusters = s.clusters.set k (f (s.cluster k)) := rfl
@[simp] theorem State.modCluster_stewards (k : Nat) (f : Cluster → Cluster) : (s.modCluster k f).stewards = s.stewards := rfl
@[simp] theorem State.modCluster_stewardStopped (k : Nat) (f : Cluster → Cluster) : (s.modCluster k f).stewardStopped = s.stewardStopped := rfl
@[simp] theorem State.modCluster_routers (k : Nat) (f : Cluster → Cluster) : (s.modCluster k f).routers = s.routers := rfl
@[simp] theorem State.modCluster_engines (k : Nat) (f : Cluster → Cluster) : (s.modCluster k f).engines = s.engines := rfl
@[simp] theorem State.modCluster_dies (k : Nat) (f : Cluster → Cluster) : (s.modCluster k f).dies = s.dies := rfl
@[simp] theorem State.modCluster_chans (k : Nat) (f : Cluster → Cluster) : (s.modCluster k f).chans = s.chans := rfl
@[simp] theorem State.modCluster_holds (k : Nat) (f : Cluster → Cluster) : (s.modCluster k f).holds = s.holds := rfl
@[simp] theorem State.modCluster_svcq (k : Nat) (f : Cluster → Cluster) : (s.modCluster k f).svcq = s.svcq := rfl
@[simp] theorem State.modCluster_svcHeld (k : Nat) (f : Cluster → Cluster) : (s.modCluster k f).svcHeld = s.svcHeld := rfl
@[simp] theorem State.modCluster_flogReports (k : Nat) (f : Cluster → Cluster) : (s.modCluster k f).flogReports = s.flogReports := rfl
@[simp] theorem State.modCluster_teams (k : Nat) (f : Cluster → Cluster) : (s.modCluster k f).teams = s.teams := rfl
@[simp] theorem State.modCluster_slots (k : Nat) (f : Cluster → Cluster) : (s.modCluster k f).slots = s.slots := rfl
@[simp] theorem State.modCluster_switch (k : Nat) (f : Cluster → Cluster) : (s.modCluster k f).switch = s.switch := rfl
@[simp] theorem State.modCluster_dbghz (k : Nat) (f : Cluster → Cluster) : (s.modCluster k f).dbghz = s.dbghz := rfl
@[simp] theorem State.modCluster_evictwait (k : Nat) (f : Cluster → Cluster) : (s.modCluster k f).evictwait = s.evictwait := rfl
@[simp] theorem State.modCluster_preemptwait (k : Nat) (f : Cluster → Cluster) : (s.modCluster k f).preemptwait = s.preemptwait := rfl
@[simp] theorem State.modCluster_escwait (k : Nat) (f : Cluster → Cluster) : (s.modCluster k f).escwait = s.escwait := rfl
@[simp] theorem State.modCluster_spanin (k : Nat) (f : Cluster → Cluster) : (s.modCluster k f).spanin = s.spanin := rfl
@[simp] theorem State.modCluster_harvest (k : Nat) (f : Cluster → Cluster) : (s.modCluster k f).harvest = s.harvest := rfl
@[simp] theorem State.modCluster_throttled (k : Nat) (f : Cluster → Cluster) : (s.modCluster k f).throttled = s.throttled := rfl
@[simp] theorem State.modCluster_spanEn (k : Nat) (f : Cluster → Cluster) : (s.modCluster k f).spanEn = s.spanEn := rfl
@[simp] theorem State.modCluster_portEn (k : Nat) (f : Cluster → Cluster) : (s.modCluster k f).portEn = s.portEn := rfl
@[simp] theorem State.modCluster_mailbox (k : Nat) (f : Cluster → Cluster) : (s.modCluster k f).mailbox = s.mailbox := rfl
@[simp] theorem State.modCluster_boot (k : Nat) (f : Cluster → Cluster) : (s.modCluster k f).boot = s.boot := rfl
@[simp] theorem State.modCluster_flash (k : Nat) (f : Cluster → Cluster) : (s.modCluster k f).flash = s.flash := rfl
@[simp] theorem State.modCluster_flashBuf (k : Nat) (f : Cluster → Cluster) : (s.modCluster k f).flashBuf = s.flashBuf := rfl
@[simp] theorem State.modCluster_images (k : Nat) (f : Cluster → Cluster) : (s.modCluster k f).images = s.images := rfl
@[simp] theorem State.modCluster_measures (k : Nat) (f : Cluster → Cluster) : (s.modCluster k f).measures = s.measures := rfl
@[simp] theorem State.modCluster_training (k : Nat) (f : Cluster → Cluster) : (s.modCluster k f).training = s.training := rfl
@[simp] theorem State.modCluster_hostRead (k : Nat) (f : Cluster → Cluster) : (s.modCluster k f).hostRead = s.hostRead := rfl
@[simp] theorem State.modCluster_pcie (k : Nat) (f : Cluster → Cluster) : (s.modCluster k f).pcie = s.pcie := rfl
@[simp] theorem State.modCluster_powered (k : Nat) (f : Cluster → Cluster) : (s.modCluster k f).powered = s.powered := rfl

@[simp] theorem State.modDie_now (d : Nat) (f : Die → Die) : (s.modDie d f).now = s.now := rfl
@[simp] theorem State.modDie_turn (d : Nat) (f : Die → Die) : (s.modDie d f).turn = s.turn := rfl
@[simp] theorem State.modDie_agenda (d : Nat) (f : Die → Die) : (s.modDie d f).agenda = s.agenda := rfl
@[simp] theorem State.modDie_inputs (d : Nat) (f : Die → Die) : (s.modDie d f).inputs = s.inputs := rfl
@[simp] theorem State.modDie_tok (d : Nat) (f : Die → Die) : (s.modDie d f).tok = s.tok := rfl
@[simp] theorem State.modDie_fresh (d : Nat) (f : Die → Die) : (s.modDie d f).fresh = s.fresh := rfl
@[simp] theorem State.modDie_curCore (d : Nat) (f : Die → Die) : (s.modDie d f).curCore = s.curCore := rfl
@[simp] theorem State.modDie_curCtx (d : Nat) (f : Die → Die) : (s.modDie d f).curCtx = s.curCtx := rfl
@[simp] theorem State.modDie_curLen (d : Nat) (f : Die → Die) : (s.modDie d f).curLen = s.curLen := rfl
@[simp] theorem State.modDie_curBundle (d : Nat) (f : Die → Die) : (s.modDie d f).curBundle = s.curBundle := rfl
@[simp] theorem State.modDie_noEffect (d : Nat) (f : Die → Die) : (s.modDie d f).noEffect = s.noEffect := rfl
@[simp] theorem State.modDie_epi (d : Nat) (f : Die → Die) : (s.modDie d f).epi = s.epi := rfl
@[simp] theorem State.modDie_mem (d : Nat) (f : Die → Die) : (s.modDie d f).mem = s.mem := rfl
@[simp] theorem State.modDie_full (d : Nat) (f : Die → Die) : (s.modDie d f).full = s.full := rfl
@[simp] theorem State.modDie_bad (d : Nat) (f : Die → Die) : (s.modDie d f).bad = s.bad := rfl
@[simp] theorem State.modDie_ctxs (d : Nat) (f : Die → Die) : (s.modDie d f).ctxs = s.ctxs := rfl
@[simp] theorem State.modDie_cores (d : Nat) (f : Die → Die) : (s.modDie d f).cores = s.cores := rfl
@[simp] theorem State.modDie_clusters (d : Nat) (f : Die → Die) : (s.modDie d f).clusters = s.clusters := rfl
@[simp] theorem State.modDie_stewards (d : Nat) (f : Die → Die) : (s.modDie d f).stewards = s.stewards := rfl
@[simp] theorem State.modDie_stewardStopped (d : Nat) (f : Die → Die) : (s.modDie d f).stewardStopped = s.stewardStopped := rfl
@[simp] theorem State.modDie_routers (d : Nat) (f : Die → Die) : (s.modDie d f).routers = s.routers := rfl
@[simp] theorem State.modDie_engines (d : Nat) (f : Die → Die) : (s.modDie d f).engines = s.engines := rfl
@[simp] theorem State.modDie_dies (d : Nat) (f : Die → Die) : (s.modDie d f).dies = s.dies.set d (f (s.die d)) := rfl
@[simp] theorem State.modDie_chans (d : Nat) (f : Die → Die) : (s.modDie d f).chans = s.chans := rfl
@[simp] theorem State.modDie_holds (d : Nat) (f : Die → Die) : (s.modDie d f).holds = s.holds := rfl
@[simp] theorem State.modDie_svcq (d : Nat) (f : Die → Die) : (s.modDie d f).svcq = s.svcq := rfl
@[simp] theorem State.modDie_svcHeld (d : Nat) (f : Die → Die) : (s.modDie d f).svcHeld = s.svcHeld := rfl
@[simp] theorem State.modDie_flogReports (d : Nat) (f : Die → Die) : (s.modDie d f).flogReports = s.flogReports := rfl
@[simp] theorem State.modDie_teams (d : Nat) (f : Die → Die) : (s.modDie d f).teams = s.teams := rfl
@[simp] theorem State.modDie_slots (d : Nat) (f : Die → Die) : (s.modDie d f).slots = s.slots := rfl
@[simp] theorem State.modDie_switch (d : Nat) (f : Die → Die) : (s.modDie d f).switch = s.switch := rfl
@[simp] theorem State.modDie_dbghz (d : Nat) (f : Die → Die) : (s.modDie d f).dbghz = s.dbghz := rfl
@[simp] theorem State.modDie_evictwait (d : Nat) (f : Die → Die) : (s.modDie d f).evictwait = s.evictwait := rfl
@[simp] theorem State.modDie_preemptwait (d : Nat) (f : Die → Die) : (s.modDie d f).preemptwait = s.preemptwait := rfl
@[simp] theorem State.modDie_escwait (d : Nat) (f : Die → Die) : (s.modDie d f).escwait = s.escwait := rfl
@[simp] theorem State.modDie_spanin (d : Nat) (f : Die → Die) : (s.modDie d f).spanin = s.spanin := rfl
@[simp] theorem State.modDie_harvest (d : Nat) (f : Die → Die) : (s.modDie d f).harvest = s.harvest := rfl
@[simp] theorem State.modDie_throttled (d : Nat) (f : Die → Die) : (s.modDie d f).throttled = s.throttled := rfl
@[simp] theorem State.modDie_spanEn (d : Nat) (f : Die → Die) : (s.modDie d f).spanEn = s.spanEn := rfl
@[simp] theorem State.modDie_portEn (d : Nat) (f : Die → Die) : (s.modDie d f).portEn = s.portEn := rfl
@[simp] theorem State.modDie_mailbox (d : Nat) (f : Die → Die) : (s.modDie d f).mailbox = s.mailbox := rfl
@[simp] theorem State.modDie_boot (d : Nat) (f : Die → Die) : (s.modDie d f).boot = s.boot := rfl
@[simp] theorem State.modDie_flash (d : Nat) (f : Die → Die) : (s.modDie d f).flash = s.flash := rfl
@[simp] theorem State.modDie_flashBuf (d : Nat) (f : Die → Die) : (s.modDie d f).flashBuf = s.flashBuf := rfl
@[simp] theorem State.modDie_images (d : Nat) (f : Die → Die) : (s.modDie d f).images = s.images := rfl
@[simp] theorem State.modDie_measures (d : Nat) (f : Die → Die) : (s.modDie d f).measures = s.measures := rfl
@[simp] theorem State.modDie_training (d : Nat) (f : Die → Die) : (s.modDie d f).training = s.training := rfl
@[simp] theorem State.modDie_hostRead (d : Nat) (f : Die → Die) : (s.modDie d f).hostRead = s.hostRead := rfl
@[simp] theorem State.modDie_pcie (d : Nat) (f : Die → Die) : (s.modDie d f).pcie = s.pcie := rfl
@[simp] theorem State.modDie_powered (d : Nat) (f : Die → Die) : (s.modDie d f).powered = s.powered := rfl

@[simp] theorem State.modChan_now (k : Nat) (f : HbmChan → HbmChan) : (s.modChan k f).now = s.now := rfl
@[simp] theorem State.modChan_turn (k : Nat) (f : HbmChan → HbmChan) : (s.modChan k f).turn = s.turn := rfl
@[simp] theorem State.modChan_agenda (k : Nat) (f : HbmChan → HbmChan) : (s.modChan k f).agenda = s.agenda := rfl
@[simp] theorem State.modChan_inputs (k : Nat) (f : HbmChan → HbmChan) : (s.modChan k f).inputs = s.inputs := rfl
@[simp] theorem State.modChan_tok (k : Nat) (f : HbmChan → HbmChan) : (s.modChan k f).tok = s.tok := rfl
@[simp] theorem State.modChan_fresh (k : Nat) (f : HbmChan → HbmChan) : (s.modChan k f).fresh = s.fresh := rfl
@[simp] theorem State.modChan_curCore (k : Nat) (f : HbmChan → HbmChan) : (s.modChan k f).curCore = s.curCore := rfl
@[simp] theorem State.modChan_curCtx (k : Nat) (f : HbmChan → HbmChan) : (s.modChan k f).curCtx = s.curCtx := rfl
@[simp] theorem State.modChan_curLen (k : Nat) (f : HbmChan → HbmChan) : (s.modChan k f).curLen = s.curLen := rfl
@[simp] theorem State.modChan_curBundle (k : Nat) (f : HbmChan → HbmChan) : (s.modChan k f).curBundle = s.curBundle := rfl
@[simp] theorem State.modChan_noEffect (k : Nat) (f : HbmChan → HbmChan) : (s.modChan k f).noEffect = s.noEffect := rfl
@[simp] theorem State.modChan_epi (k : Nat) (f : HbmChan → HbmChan) : (s.modChan k f).epi = s.epi := rfl
@[simp] theorem State.modChan_mem (k : Nat) (f : HbmChan → HbmChan) : (s.modChan k f).mem = s.mem := rfl
@[simp] theorem State.modChan_full (k : Nat) (f : HbmChan → HbmChan) : (s.modChan k f).full = s.full := rfl
@[simp] theorem State.modChan_bad (k : Nat) (f : HbmChan → HbmChan) : (s.modChan k f).bad = s.bad := rfl
@[simp] theorem State.modChan_ctxs (k : Nat) (f : HbmChan → HbmChan) : (s.modChan k f).ctxs = s.ctxs := rfl
@[simp] theorem State.modChan_cores (k : Nat) (f : HbmChan → HbmChan) : (s.modChan k f).cores = s.cores := rfl
@[simp] theorem State.modChan_clusters (k : Nat) (f : HbmChan → HbmChan) : (s.modChan k f).clusters = s.clusters := rfl
@[simp] theorem State.modChan_stewards (k : Nat) (f : HbmChan → HbmChan) : (s.modChan k f).stewards = s.stewards := rfl
@[simp] theorem State.modChan_stewardStopped (k : Nat) (f : HbmChan → HbmChan) : (s.modChan k f).stewardStopped = s.stewardStopped := rfl
@[simp] theorem State.modChan_routers (k : Nat) (f : HbmChan → HbmChan) : (s.modChan k f).routers = s.routers := rfl
@[simp] theorem State.modChan_engines (k : Nat) (f : HbmChan → HbmChan) : (s.modChan k f).engines = s.engines := rfl
@[simp] theorem State.modChan_dies (k : Nat) (f : HbmChan → HbmChan) : (s.modChan k f).dies = s.dies := rfl
@[simp] theorem State.modChan_chans (k : Nat) (f : HbmChan → HbmChan) : (s.modChan k f).chans = s.chans.set k (f (s.chan k)) := rfl
@[simp] theorem State.modChan_holds (k : Nat) (f : HbmChan → HbmChan) : (s.modChan k f).holds = s.holds := rfl
@[simp] theorem State.modChan_svcq (k : Nat) (f : HbmChan → HbmChan) : (s.modChan k f).svcq = s.svcq := rfl
@[simp] theorem State.modChan_svcHeld (k : Nat) (f : HbmChan → HbmChan) : (s.modChan k f).svcHeld = s.svcHeld := rfl
@[simp] theorem State.modChan_flogReports (k : Nat) (f : HbmChan → HbmChan) : (s.modChan k f).flogReports = s.flogReports := rfl
@[simp] theorem State.modChan_teams (k : Nat) (f : HbmChan → HbmChan) : (s.modChan k f).teams = s.teams := rfl
@[simp] theorem State.modChan_slots (k : Nat) (f : HbmChan → HbmChan) : (s.modChan k f).slots = s.slots := rfl
@[simp] theorem State.modChan_switch (k : Nat) (f : HbmChan → HbmChan) : (s.modChan k f).switch = s.switch := rfl
@[simp] theorem State.modChan_dbghz (k : Nat) (f : HbmChan → HbmChan) : (s.modChan k f).dbghz = s.dbghz := rfl
@[simp] theorem State.modChan_evictwait (k : Nat) (f : HbmChan → HbmChan) : (s.modChan k f).evictwait = s.evictwait := rfl
@[simp] theorem State.modChan_preemptwait (k : Nat) (f : HbmChan → HbmChan) : (s.modChan k f).preemptwait = s.preemptwait := rfl
@[simp] theorem State.modChan_escwait (k : Nat) (f : HbmChan → HbmChan) : (s.modChan k f).escwait = s.escwait := rfl
@[simp] theorem State.modChan_spanin (k : Nat) (f : HbmChan → HbmChan) : (s.modChan k f).spanin = s.spanin := rfl
@[simp] theorem State.modChan_harvest (k : Nat) (f : HbmChan → HbmChan) : (s.modChan k f).harvest = s.harvest := rfl
@[simp] theorem State.modChan_throttled (k : Nat) (f : HbmChan → HbmChan) : (s.modChan k f).throttled = s.throttled := rfl
@[simp] theorem State.modChan_spanEn (k : Nat) (f : HbmChan → HbmChan) : (s.modChan k f).spanEn = s.spanEn := rfl
@[simp] theorem State.modChan_portEn (k : Nat) (f : HbmChan → HbmChan) : (s.modChan k f).portEn = s.portEn := rfl
@[simp] theorem State.modChan_mailbox (k : Nat) (f : HbmChan → HbmChan) : (s.modChan k f).mailbox = s.mailbox := rfl
@[simp] theorem State.modChan_boot (k : Nat) (f : HbmChan → HbmChan) : (s.modChan k f).boot = s.boot := rfl
@[simp] theorem State.modChan_flash (k : Nat) (f : HbmChan → HbmChan) : (s.modChan k f).flash = s.flash := rfl
@[simp] theorem State.modChan_flashBuf (k : Nat) (f : HbmChan → HbmChan) : (s.modChan k f).flashBuf = s.flashBuf := rfl
@[simp] theorem State.modChan_images (k : Nat) (f : HbmChan → HbmChan) : (s.modChan k f).images = s.images := rfl
@[simp] theorem State.modChan_measures (k : Nat) (f : HbmChan → HbmChan) : (s.modChan k f).measures = s.measures := rfl
@[simp] theorem State.modChan_training (k : Nat) (f : HbmChan → HbmChan) : (s.modChan k f).training = s.training := rfl
@[simp] theorem State.modChan_hostRead (k : Nat) (f : HbmChan → HbmChan) : (s.modChan k f).hostRead = s.hostRead := rfl
@[simp] theorem State.modChan_pcie (k : Nat) (f : HbmChan → HbmChan) : (s.modChan k f).pcie = s.pcie := rfl
@[simp] theorem State.modChan_powered (k : Nat) (f : HbmChan → HbmChan) : (s.modChan k f).powered = s.powered := rfl

@[simp] theorem State.modRouter_now (k : Nat) (f : Router → Router) : (s.modRouter k f).now = s.now := rfl
@[simp] theorem State.modRouter_turn (k : Nat) (f : Router → Router) : (s.modRouter k f).turn = s.turn := rfl
@[simp] theorem State.modRouter_agenda (k : Nat) (f : Router → Router) : (s.modRouter k f).agenda = s.agenda := rfl
@[simp] theorem State.modRouter_inputs (k : Nat) (f : Router → Router) : (s.modRouter k f).inputs = s.inputs := rfl
@[simp] theorem State.modRouter_tok (k : Nat) (f : Router → Router) : (s.modRouter k f).tok = s.tok := rfl
@[simp] theorem State.modRouter_fresh (k : Nat) (f : Router → Router) : (s.modRouter k f).fresh = s.fresh := rfl
@[simp] theorem State.modRouter_curCore (k : Nat) (f : Router → Router) : (s.modRouter k f).curCore = s.curCore := rfl
@[simp] theorem State.modRouter_curCtx (k : Nat) (f : Router → Router) : (s.modRouter k f).curCtx = s.curCtx := rfl
@[simp] theorem State.modRouter_curLen (k : Nat) (f : Router → Router) : (s.modRouter k f).curLen = s.curLen := rfl
@[simp] theorem State.modRouter_curBundle (k : Nat) (f : Router → Router) : (s.modRouter k f).curBundle = s.curBundle := rfl
@[simp] theorem State.modRouter_noEffect (k : Nat) (f : Router → Router) : (s.modRouter k f).noEffect = s.noEffect := rfl
@[simp] theorem State.modRouter_epi (k : Nat) (f : Router → Router) : (s.modRouter k f).epi = s.epi := rfl
@[simp] theorem State.modRouter_mem (k : Nat) (f : Router → Router) : (s.modRouter k f).mem = s.mem := rfl
@[simp] theorem State.modRouter_full (k : Nat) (f : Router → Router) : (s.modRouter k f).full = s.full := rfl
@[simp] theorem State.modRouter_bad (k : Nat) (f : Router → Router) : (s.modRouter k f).bad = s.bad := rfl
@[simp] theorem State.modRouter_ctxs (k : Nat) (f : Router → Router) : (s.modRouter k f).ctxs = s.ctxs := rfl
@[simp] theorem State.modRouter_cores (k : Nat) (f : Router → Router) : (s.modRouter k f).cores = s.cores := rfl
@[simp] theorem State.modRouter_clusters (k : Nat) (f : Router → Router) : (s.modRouter k f).clusters = s.clusters := rfl
@[simp] theorem State.modRouter_stewards (k : Nat) (f : Router → Router) : (s.modRouter k f).stewards = s.stewards := rfl
@[simp] theorem State.modRouter_stewardStopped (k : Nat) (f : Router → Router) : (s.modRouter k f).stewardStopped = s.stewardStopped := rfl
@[simp] theorem State.modRouter_routers (k : Nat) (f : Router → Router) : (s.modRouter k f).routers = s.routers.set k (f (s.router k)) := rfl
@[simp] theorem State.modRouter_engines (k : Nat) (f : Router → Router) : (s.modRouter k f).engines = s.engines := rfl
@[simp] theorem State.modRouter_dies (k : Nat) (f : Router → Router) : (s.modRouter k f).dies = s.dies := rfl
@[simp] theorem State.modRouter_chans (k : Nat) (f : Router → Router) : (s.modRouter k f).chans = s.chans := rfl
@[simp] theorem State.modRouter_holds (k : Nat) (f : Router → Router) : (s.modRouter k f).holds = s.holds := rfl
@[simp] theorem State.modRouter_svcq (k : Nat) (f : Router → Router) : (s.modRouter k f).svcq = s.svcq := rfl
@[simp] theorem State.modRouter_svcHeld (k : Nat) (f : Router → Router) : (s.modRouter k f).svcHeld = s.svcHeld := rfl
@[simp] theorem State.modRouter_flogReports (k : Nat) (f : Router → Router) : (s.modRouter k f).flogReports = s.flogReports := rfl
@[simp] theorem State.modRouter_teams (k : Nat) (f : Router → Router) : (s.modRouter k f).teams = s.teams := rfl
@[simp] theorem State.modRouter_slots (k : Nat) (f : Router → Router) : (s.modRouter k f).slots = s.slots := rfl
@[simp] theorem State.modRouter_switch (k : Nat) (f : Router → Router) : (s.modRouter k f).switch = s.switch := rfl
@[simp] theorem State.modRouter_dbghz (k : Nat) (f : Router → Router) : (s.modRouter k f).dbghz = s.dbghz := rfl
@[simp] theorem State.modRouter_evictwait (k : Nat) (f : Router → Router) : (s.modRouter k f).evictwait = s.evictwait := rfl
@[simp] theorem State.modRouter_preemptwait (k : Nat) (f : Router → Router) : (s.modRouter k f).preemptwait = s.preemptwait := rfl
@[simp] theorem State.modRouter_escwait (k : Nat) (f : Router → Router) : (s.modRouter k f).escwait = s.escwait := rfl
@[simp] theorem State.modRouter_spanin (k : Nat) (f : Router → Router) : (s.modRouter k f).spanin = s.spanin := rfl
@[simp] theorem State.modRouter_harvest (k : Nat) (f : Router → Router) : (s.modRouter k f).harvest = s.harvest := rfl
@[simp] theorem State.modRouter_throttled (k : Nat) (f : Router → Router) : (s.modRouter k f).throttled = s.throttled := rfl
@[simp] theorem State.modRouter_spanEn (k : Nat) (f : Router → Router) : (s.modRouter k f).spanEn = s.spanEn := rfl
@[simp] theorem State.modRouter_portEn (k : Nat) (f : Router → Router) : (s.modRouter k f).portEn = s.portEn := rfl
@[simp] theorem State.modRouter_mailbox (k : Nat) (f : Router → Router) : (s.modRouter k f).mailbox = s.mailbox := rfl
@[simp] theorem State.modRouter_boot (k : Nat) (f : Router → Router) : (s.modRouter k f).boot = s.boot := rfl
@[simp] theorem State.modRouter_flash (k : Nat) (f : Router → Router) : (s.modRouter k f).flash = s.flash := rfl
@[simp] theorem State.modRouter_flashBuf (k : Nat) (f : Router → Router) : (s.modRouter k f).flashBuf = s.flashBuf := rfl
@[simp] theorem State.modRouter_images (k : Nat) (f : Router → Router) : (s.modRouter k f).images = s.images := rfl
@[simp] theorem State.modRouter_measures (k : Nat) (f : Router → Router) : (s.modRouter k f).measures = s.measures := rfl
@[simp] theorem State.modRouter_training (k : Nat) (f : Router → Router) : (s.modRouter k f).training = s.training := rfl
@[simp] theorem State.modRouter_hostRead (k : Nat) (f : Router → Router) : (s.modRouter k f).hostRead = s.hostRead := rfl
@[simp] theorem State.modRouter_pcie (k : Nat) (f : Router → Router) : (s.modRouter k f).pcie = s.pcie := rfl
@[simp] theorem State.modRouter_powered (k : Nat) (f : Router → Router) : (s.modRouter k f).powered = s.powered := rfl

@[simp] theorem State.modSteward_now (k : Nat) (f : Steward → Steward) : (s.modSteward k f).now = s.now := rfl
@[simp] theorem State.modSteward_turn (k : Nat) (f : Steward → Steward) : (s.modSteward k f).turn = s.turn := rfl
@[simp] theorem State.modSteward_agenda (k : Nat) (f : Steward → Steward) : (s.modSteward k f).agenda = s.agenda := rfl
@[simp] theorem State.modSteward_inputs (k : Nat) (f : Steward → Steward) : (s.modSteward k f).inputs = s.inputs := rfl
@[simp] theorem State.modSteward_tok (k : Nat) (f : Steward → Steward) : (s.modSteward k f).tok = s.tok := rfl
@[simp] theorem State.modSteward_fresh (k : Nat) (f : Steward → Steward) : (s.modSteward k f).fresh = s.fresh := rfl
@[simp] theorem State.modSteward_curCore (k : Nat) (f : Steward → Steward) : (s.modSteward k f).curCore = s.curCore := rfl
@[simp] theorem State.modSteward_curCtx (k : Nat) (f : Steward → Steward) : (s.modSteward k f).curCtx = s.curCtx := rfl
@[simp] theorem State.modSteward_curLen (k : Nat) (f : Steward → Steward) : (s.modSteward k f).curLen = s.curLen := rfl
@[simp] theorem State.modSteward_curBundle (k : Nat) (f : Steward → Steward) : (s.modSteward k f).curBundle = s.curBundle := rfl
@[simp] theorem State.modSteward_noEffect (k : Nat) (f : Steward → Steward) : (s.modSteward k f).noEffect = s.noEffect := rfl
@[simp] theorem State.modSteward_epi (k : Nat) (f : Steward → Steward) : (s.modSteward k f).epi = s.epi := rfl
@[simp] theorem State.modSteward_mem (k : Nat) (f : Steward → Steward) : (s.modSteward k f).mem = s.mem := rfl
@[simp] theorem State.modSteward_full (k : Nat) (f : Steward → Steward) : (s.modSteward k f).full = s.full := rfl
@[simp] theorem State.modSteward_bad (k : Nat) (f : Steward → Steward) : (s.modSteward k f).bad = s.bad := rfl
@[simp] theorem State.modSteward_ctxs (k : Nat) (f : Steward → Steward) : (s.modSteward k f).ctxs = s.ctxs := rfl
@[simp] theorem State.modSteward_cores (k : Nat) (f : Steward → Steward) : (s.modSteward k f).cores = s.cores := rfl
@[simp] theorem State.modSteward_clusters (k : Nat) (f : Steward → Steward) : (s.modSteward k f).clusters = s.clusters := rfl
@[simp] theorem State.modSteward_stewards (k : Nat) (f : Steward → Steward) : (s.modSteward k f).stewards = s.stewards.set k (f (s.steward k)) := rfl
@[simp] theorem State.modSteward_stewardStopped (k : Nat) (f : Steward → Steward) : (s.modSteward k f).stewardStopped = s.stewardStopped := rfl
@[simp] theorem State.modSteward_routers (k : Nat) (f : Steward → Steward) : (s.modSteward k f).routers = s.routers := rfl
@[simp] theorem State.modSteward_engines (k : Nat) (f : Steward → Steward) : (s.modSteward k f).engines = s.engines := rfl
@[simp] theorem State.modSteward_dies (k : Nat) (f : Steward → Steward) : (s.modSteward k f).dies = s.dies := rfl
@[simp] theorem State.modSteward_chans (k : Nat) (f : Steward → Steward) : (s.modSteward k f).chans = s.chans := rfl
@[simp] theorem State.modSteward_holds (k : Nat) (f : Steward → Steward) : (s.modSteward k f).holds = s.holds := rfl
@[simp] theorem State.modSteward_svcq (k : Nat) (f : Steward → Steward) : (s.modSteward k f).svcq = s.svcq := rfl
@[simp] theorem State.modSteward_svcHeld (k : Nat) (f : Steward → Steward) : (s.modSteward k f).svcHeld = s.svcHeld := rfl
@[simp] theorem State.modSteward_flogReports (k : Nat) (f : Steward → Steward) : (s.modSteward k f).flogReports = s.flogReports := rfl
@[simp] theorem State.modSteward_teams (k : Nat) (f : Steward → Steward) : (s.modSteward k f).teams = s.teams := rfl
@[simp] theorem State.modSteward_slots (k : Nat) (f : Steward → Steward) : (s.modSteward k f).slots = s.slots := rfl
@[simp] theorem State.modSteward_switch (k : Nat) (f : Steward → Steward) : (s.modSteward k f).switch = s.switch := rfl
@[simp] theorem State.modSteward_dbghz (k : Nat) (f : Steward → Steward) : (s.modSteward k f).dbghz = s.dbghz := rfl
@[simp] theorem State.modSteward_evictwait (k : Nat) (f : Steward → Steward) : (s.modSteward k f).evictwait = s.evictwait := rfl
@[simp] theorem State.modSteward_preemptwait (k : Nat) (f : Steward → Steward) : (s.modSteward k f).preemptwait = s.preemptwait := rfl
@[simp] theorem State.modSteward_escwait (k : Nat) (f : Steward → Steward) : (s.modSteward k f).escwait = s.escwait := rfl
@[simp] theorem State.modSteward_spanin (k : Nat) (f : Steward → Steward) : (s.modSteward k f).spanin = s.spanin := rfl
@[simp] theorem State.modSteward_harvest (k : Nat) (f : Steward → Steward) : (s.modSteward k f).harvest = s.harvest := rfl
@[simp] theorem State.modSteward_throttled (k : Nat) (f : Steward → Steward) : (s.modSteward k f).throttled = s.throttled := rfl
@[simp] theorem State.modSteward_spanEn (k : Nat) (f : Steward → Steward) : (s.modSteward k f).spanEn = s.spanEn := rfl
@[simp] theorem State.modSteward_portEn (k : Nat) (f : Steward → Steward) : (s.modSteward k f).portEn = s.portEn := rfl
@[simp] theorem State.modSteward_mailbox (k : Nat) (f : Steward → Steward) : (s.modSteward k f).mailbox = s.mailbox := rfl
@[simp] theorem State.modSteward_boot (k : Nat) (f : Steward → Steward) : (s.modSteward k f).boot = s.boot := rfl
@[simp] theorem State.modSteward_flash (k : Nat) (f : Steward → Steward) : (s.modSteward k f).flash = s.flash := rfl
@[simp] theorem State.modSteward_flashBuf (k : Nat) (f : Steward → Steward) : (s.modSteward k f).flashBuf = s.flashBuf := rfl
@[simp] theorem State.modSteward_images (k : Nat) (f : Steward → Steward) : (s.modSteward k f).images = s.images := rfl
@[simp] theorem State.modSteward_measures (k : Nat) (f : Steward → Steward) : (s.modSteward k f).measures = s.measures := rfl
@[simp] theorem State.modSteward_training (k : Nat) (f : Steward → Steward) : (s.modSteward k f).training = s.training := rfl
@[simp] theorem State.modSteward_hostRead (k : Nat) (f : Steward → Steward) : (s.modSteward k f).hostRead = s.hostRead := rfl
@[simp] theorem State.modSteward_pcie (k : Nat) (f : Steward → Steward) : (s.modSteward k f).pcie = s.pcie := rfl
@[simp] theorem State.modSteward_powered (k : Nat) (f : Steward → Steward) : (s.modSteward k f).powered = s.powered := rfl

@[simp] theorem State.modSlot_now (k : Nat) (f : Slot → Slot) : (s.modSlot k f).now = s.now := rfl
@[simp] theorem State.modSlot_turn (k : Nat) (f : Slot → Slot) : (s.modSlot k f).turn = s.turn := rfl
@[simp] theorem State.modSlot_agenda (k : Nat) (f : Slot → Slot) : (s.modSlot k f).agenda = s.agenda := rfl
@[simp] theorem State.modSlot_inputs (k : Nat) (f : Slot → Slot) : (s.modSlot k f).inputs = s.inputs := rfl
@[simp] theorem State.modSlot_tok (k : Nat) (f : Slot → Slot) : (s.modSlot k f).tok = s.tok := rfl
@[simp] theorem State.modSlot_fresh (k : Nat) (f : Slot → Slot) : (s.modSlot k f).fresh = s.fresh := rfl
@[simp] theorem State.modSlot_curCore (k : Nat) (f : Slot → Slot) : (s.modSlot k f).curCore = s.curCore := rfl
@[simp] theorem State.modSlot_curCtx (k : Nat) (f : Slot → Slot) : (s.modSlot k f).curCtx = s.curCtx := rfl
@[simp] theorem State.modSlot_curLen (k : Nat) (f : Slot → Slot) : (s.modSlot k f).curLen = s.curLen := rfl
@[simp] theorem State.modSlot_curBundle (k : Nat) (f : Slot → Slot) : (s.modSlot k f).curBundle = s.curBundle := rfl
@[simp] theorem State.modSlot_noEffect (k : Nat) (f : Slot → Slot) : (s.modSlot k f).noEffect = s.noEffect := rfl
@[simp] theorem State.modSlot_epi (k : Nat) (f : Slot → Slot) : (s.modSlot k f).epi = s.epi := rfl
@[simp] theorem State.modSlot_mem (k : Nat) (f : Slot → Slot) : (s.modSlot k f).mem = s.mem := rfl
@[simp] theorem State.modSlot_full (k : Nat) (f : Slot → Slot) : (s.modSlot k f).full = s.full := rfl
@[simp] theorem State.modSlot_bad (k : Nat) (f : Slot → Slot) : (s.modSlot k f).bad = s.bad := rfl
@[simp] theorem State.modSlot_ctxs (k : Nat) (f : Slot → Slot) : (s.modSlot k f).ctxs = s.ctxs := rfl
@[simp] theorem State.modSlot_cores (k : Nat) (f : Slot → Slot) : (s.modSlot k f).cores = s.cores := rfl
@[simp] theorem State.modSlot_clusters (k : Nat) (f : Slot → Slot) : (s.modSlot k f).clusters = s.clusters := rfl
@[simp] theorem State.modSlot_stewards (k : Nat) (f : Slot → Slot) : (s.modSlot k f).stewards = s.stewards := rfl
@[simp] theorem State.modSlot_stewardStopped (k : Nat) (f : Slot → Slot) : (s.modSlot k f).stewardStopped = s.stewardStopped := rfl
@[simp] theorem State.modSlot_routers (k : Nat) (f : Slot → Slot) : (s.modSlot k f).routers = s.routers := rfl
@[simp] theorem State.modSlot_engines (k : Nat) (f : Slot → Slot) : (s.modSlot k f).engines = s.engines := rfl
@[simp] theorem State.modSlot_dies (k : Nat) (f : Slot → Slot) : (s.modSlot k f).dies = s.dies := rfl
@[simp] theorem State.modSlot_chans (k : Nat) (f : Slot → Slot) : (s.modSlot k f).chans = s.chans := rfl
@[simp] theorem State.modSlot_holds (k : Nat) (f : Slot → Slot) : (s.modSlot k f).holds = s.holds := rfl
@[simp] theorem State.modSlot_svcq (k : Nat) (f : Slot → Slot) : (s.modSlot k f).svcq = s.svcq := rfl
@[simp] theorem State.modSlot_svcHeld (k : Nat) (f : Slot → Slot) : (s.modSlot k f).svcHeld = s.svcHeld := rfl
@[simp] theorem State.modSlot_flogReports (k : Nat) (f : Slot → Slot) : (s.modSlot k f).flogReports = s.flogReports := rfl
@[simp] theorem State.modSlot_teams (k : Nat) (f : Slot → Slot) : (s.modSlot k f).teams = s.teams := rfl
@[simp] theorem State.modSlot_slots (k : Nat) (f : Slot → Slot) : (s.modSlot k f).slots = s.slots.set k (f (s.slot k)) := rfl
@[simp] theorem State.modSlot_switch (k : Nat) (f : Slot → Slot) : (s.modSlot k f).switch = s.switch := rfl
@[simp] theorem State.modSlot_dbghz (k : Nat) (f : Slot → Slot) : (s.modSlot k f).dbghz = s.dbghz := rfl
@[simp] theorem State.modSlot_evictwait (k : Nat) (f : Slot → Slot) : (s.modSlot k f).evictwait = s.evictwait := rfl
@[simp] theorem State.modSlot_preemptwait (k : Nat) (f : Slot → Slot) : (s.modSlot k f).preemptwait = s.preemptwait := rfl
@[simp] theorem State.modSlot_escwait (k : Nat) (f : Slot → Slot) : (s.modSlot k f).escwait = s.escwait := rfl
@[simp] theorem State.modSlot_spanin (k : Nat) (f : Slot → Slot) : (s.modSlot k f).spanin = s.spanin := rfl
@[simp] theorem State.modSlot_harvest (k : Nat) (f : Slot → Slot) : (s.modSlot k f).harvest = s.harvest := rfl
@[simp] theorem State.modSlot_throttled (k : Nat) (f : Slot → Slot) : (s.modSlot k f).throttled = s.throttled := rfl
@[simp] theorem State.modSlot_spanEn (k : Nat) (f : Slot → Slot) : (s.modSlot k f).spanEn = s.spanEn := rfl
@[simp] theorem State.modSlot_portEn (k : Nat) (f : Slot → Slot) : (s.modSlot k f).portEn = s.portEn := rfl
@[simp] theorem State.modSlot_mailbox (k : Nat) (f : Slot → Slot) : (s.modSlot k f).mailbox = s.mailbox := rfl
@[simp] theorem State.modSlot_boot (k : Nat) (f : Slot → Slot) : (s.modSlot k f).boot = s.boot := rfl
@[simp] theorem State.modSlot_flash (k : Nat) (f : Slot → Slot) : (s.modSlot k f).flash = s.flash := rfl
@[simp] theorem State.modSlot_flashBuf (k : Nat) (f : Slot → Slot) : (s.modSlot k f).flashBuf = s.flashBuf := rfl
@[simp] theorem State.modSlot_images (k : Nat) (f : Slot → Slot) : (s.modSlot k f).images = s.images := rfl
@[simp] theorem State.modSlot_measures (k : Nat) (f : Slot → Slot) : (s.modSlot k f).measures = s.measures := rfl
@[simp] theorem State.modSlot_training (k : Nat) (f : Slot → Slot) : (s.modSlot k f).training = s.training := rfl
@[simp] theorem State.modSlot_hostRead (k : Nat) (f : Slot → Slot) : (s.modSlot k f).hostRead = s.hostRead := rfl
@[simp] theorem State.modSlot_pcie (k : Nat) (f : Slot → Slot) : (s.modSlot k f).pcie = s.pcie := rfl
@[simp] theorem State.modSlot_powered (k : Nat) (f : Slot → Slot) : (s.modSlot k f).powered = s.powered := rfl

@[simp] theorem State.modTeam_now (t : Nat) (f : Team → Team) : (s.modTeam t f).now = s.now := by
  unfold State.modTeam; split <;> rfl
@[simp] theorem State.modTeam_turn (t : Nat) (f : Team → Team) : (s.modTeam t f).turn = s.turn := by
  unfold State.modTeam; split <;> rfl
@[simp] theorem State.modTeam_agenda (t : Nat) (f : Team → Team) : (s.modTeam t f).agenda = s.agenda := by
  unfold State.modTeam; split <;> rfl
@[simp] theorem State.modTeam_inputs (t : Nat) (f : Team → Team) : (s.modTeam t f).inputs = s.inputs := by
  unfold State.modTeam; split <;> rfl
@[simp] theorem State.modTeam_tok (t : Nat) (f : Team → Team) : (s.modTeam t f).tok = s.tok := by
  unfold State.modTeam; split <;> rfl
@[simp] theorem State.modTeam_fresh (t : Nat) (f : Team → Team) : (s.modTeam t f).fresh = s.fresh := by
  unfold State.modTeam; split <;> rfl
@[simp] theorem State.modTeam_curCore (t : Nat) (f : Team → Team) : (s.modTeam t f).curCore = s.curCore := by
  unfold State.modTeam; split <;> rfl
@[simp] theorem State.modTeam_curCtx (t : Nat) (f : Team → Team) : (s.modTeam t f).curCtx = s.curCtx := by
  unfold State.modTeam; split <;> rfl
@[simp] theorem State.modTeam_curLen (t : Nat) (f : Team → Team) : (s.modTeam t f).curLen = s.curLen := by
  unfold State.modTeam; split <;> rfl
@[simp] theorem State.modTeam_curBundle (t : Nat) (f : Team → Team) : (s.modTeam t f).curBundle = s.curBundle := by
  unfold State.modTeam; split <;> rfl
@[simp] theorem State.modTeam_noEffect (t : Nat) (f : Team → Team) : (s.modTeam t f).noEffect = s.noEffect := by
  unfold State.modTeam; split <;> rfl
@[simp] theorem State.modTeam_epi (t : Nat) (f : Team → Team) : (s.modTeam t f).epi = s.epi := by
  unfold State.modTeam; split <;> rfl
@[simp] theorem State.modTeam_mem (t : Nat) (f : Team → Team) : (s.modTeam t f).mem = s.mem := by
  unfold State.modTeam; split <;> rfl
@[simp] theorem State.modTeam_full (t : Nat) (f : Team → Team) : (s.modTeam t f).full = s.full := by
  unfold State.modTeam; split <;> rfl
@[simp] theorem State.modTeam_bad (t : Nat) (f : Team → Team) : (s.modTeam t f).bad = s.bad := by
  unfold State.modTeam; split <;> rfl
@[simp] theorem State.modTeam_ctxs (t : Nat) (f : Team → Team) : (s.modTeam t f).ctxs = s.ctxs := by
  unfold State.modTeam; split <;> rfl
@[simp] theorem State.modTeam_cores (t : Nat) (f : Team → Team) : (s.modTeam t f).cores = s.cores := by
  unfold State.modTeam; split <;> rfl
@[simp] theorem State.modTeam_clusters (t : Nat) (f : Team → Team) : (s.modTeam t f).clusters = s.clusters := by
  unfold State.modTeam; split <;> rfl
@[simp] theorem State.modTeam_stewards (t : Nat) (f : Team → Team) : (s.modTeam t f).stewards = s.stewards := by
  unfold State.modTeam; split <;> rfl
@[simp] theorem State.modTeam_stewardStopped (t : Nat) (f : Team → Team) : (s.modTeam t f).stewardStopped = s.stewardStopped := by
  unfold State.modTeam; split <;> rfl
@[simp] theorem State.modTeam_routers (t : Nat) (f : Team → Team) : (s.modTeam t f).routers = s.routers := by
  unfold State.modTeam; split <;> rfl
@[simp] theorem State.modTeam_engines (t : Nat) (f : Team → Team) : (s.modTeam t f).engines = s.engines := by
  unfold State.modTeam; split <;> rfl
@[simp] theorem State.modTeam_dies (t : Nat) (f : Team → Team) : (s.modTeam t f).dies = s.dies := by
  unfold State.modTeam; split <;> rfl
@[simp] theorem State.modTeam_chans (t : Nat) (f : Team → Team) : (s.modTeam t f).chans = s.chans := by
  unfold State.modTeam; split <;> rfl
@[simp] theorem State.modTeam_holds (t : Nat) (f : Team → Team) : (s.modTeam t f).holds = s.holds := by
  unfold State.modTeam; split <;> rfl
@[simp] theorem State.modTeam_svcq (t : Nat) (f : Team → Team) : (s.modTeam t f).svcq = s.svcq := by
  unfold State.modTeam; split <;> rfl
@[simp] theorem State.modTeam_svcHeld (t : Nat) (f : Team → Team) : (s.modTeam t f).svcHeld = s.svcHeld := by
  unfold State.modTeam; split <;> rfl
@[simp] theorem State.modTeam_flogReports (t : Nat) (f : Team → Team) : (s.modTeam t f).flogReports = s.flogReports := by
  unfold State.modTeam; split <;> rfl
@[simp] theorem State.modTeam_slots (t : Nat) (f : Team → Team) : (s.modTeam t f).slots = s.slots := by
  unfold State.modTeam; split <;> rfl
@[simp] theorem State.modTeam_switch (t : Nat) (f : Team → Team) : (s.modTeam t f).switch = s.switch := by
  unfold State.modTeam; split <;> rfl
@[simp] theorem State.modTeam_dbghz (t : Nat) (f : Team → Team) : (s.modTeam t f).dbghz = s.dbghz := by
  unfold State.modTeam; split <;> rfl
@[simp] theorem State.modTeam_evictwait (t : Nat) (f : Team → Team) : (s.modTeam t f).evictwait = s.evictwait := by
  unfold State.modTeam; split <;> rfl
@[simp] theorem State.modTeam_preemptwait (t : Nat) (f : Team → Team) : (s.modTeam t f).preemptwait = s.preemptwait := by
  unfold State.modTeam; split <;> rfl
@[simp] theorem State.modTeam_escwait (t : Nat) (f : Team → Team) : (s.modTeam t f).escwait = s.escwait := by
  unfold State.modTeam; split <;> rfl
@[simp] theorem State.modTeam_spanin (t : Nat) (f : Team → Team) : (s.modTeam t f).spanin = s.spanin := by
  unfold State.modTeam; split <;> rfl
@[simp] theorem State.modTeam_harvest (t : Nat) (f : Team → Team) : (s.modTeam t f).harvest = s.harvest := by
  unfold State.modTeam; split <;> rfl
@[simp] theorem State.modTeam_throttled (t : Nat) (f : Team → Team) : (s.modTeam t f).throttled = s.throttled := by
  unfold State.modTeam; split <;> rfl
@[simp] theorem State.modTeam_spanEn (t : Nat) (f : Team → Team) : (s.modTeam t f).spanEn = s.spanEn := by
  unfold State.modTeam; split <;> rfl
@[simp] theorem State.modTeam_portEn (t : Nat) (f : Team → Team) : (s.modTeam t f).portEn = s.portEn := by
  unfold State.modTeam; split <;> rfl
@[simp] theorem State.modTeam_mailbox (t : Nat) (f : Team → Team) : (s.modTeam t f).mailbox = s.mailbox := by
  unfold State.modTeam; split <;> rfl
@[simp] theorem State.modTeam_boot (t : Nat) (f : Team → Team) : (s.modTeam t f).boot = s.boot := by
  unfold State.modTeam; split <;> rfl
@[simp] theorem State.modTeam_flash (t : Nat) (f : Team → Team) : (s.modTeam t f).flash = s.flash := by
  unfold State.modTeam; split <;> rfl
@[simp] theorem State.modTeam_flashBuf (t : Nat) (f : Team → Team) : (s.modTeam t f).flashBuf = s.flashBuf := by
  unfold State.modTeam; split <;> rfl
@[simp] theorem State.modTeam_images (t : Nat) (f : Team → Team) : (s.modTeam t f).images = s.images := by
  unfold State.modTeam; split <;> rfl
@[simp] theorem State.modTeam_measures (t : Nat) (f : Team → Team) : (s.modTeam t f).measures = s.measures := by
  unfold State.modTeam; split <;> rfl
@[simp] theorem State.modTeam_training (t : Nat) (f : Team → Team) : (s.modTeam t f).training = s.training := by
  unfold State.modTeam; split <;> rfl
@[simp] theorem State.modTeam_hostRead (t : Nat) (f : Team → Team) : (s.modTeam t f).hostRead = s.hostRead := by
  unfold State.modTeam; split <;> rfl
@[simp] theorem State.modTeam_pcie (t : Nat) (f : Team → Team) : (s.modTeam t f).pcie = s.pcie := by
  unfold State.modTeam; split <;> rfl
@[simp] theorem State.modTeam_powered (t : Nat) (f : Team → Team) : (s.modTeam t f).powered = s.powered := by
  unfold State.modTeam; split <;> rfl

@[simp] theorem State.sched_now (d : Nat) (i : Instr) : (s.sched d i).now = s.now := rfl
@[simp] theorem State.sched_turn (d : Nat) (i : Instr) : (s.sched d i).turn = s.turn := rfl
@[simp] theorem State.sched_agenda (d : Nat) (i : Instr) : (s.sched d i).agenda = insertEv (s.now + d) i s.agenda := rfl
@[simp] theorem State.sched_inputs (d : Nat) (i : Instr) : (s.sched d i).inputs = s.inputs := rfl
@[simp] theorem State.sched_tok (d : Nat) (i : Instr) : (s.sched d i).tok = s.tok := rfl
@[simp] theorem State.sched_fresh (d : Nat) (i : Instr) : (s.sched d i).fresh = s.fresh := rfl
@[simp] theorem State.sched_curCore (d : Nat) (i : Instr) : (s.sched d i).curCore = s.curCore := rfl
@[simp] theorem State.sched_curCtx (d : Nat) (i : Instr) : (s.sched d i).curCtx = s.curCtx := rfl
@[simp] theorem State.sched_curLen (d : Nat) (i : Instr) : (s.sched d i).curLen = s.curLen := rfl
@[simp] theorem State.sched_curBundle (d : Nat) (i : Instr) : (s.sched d i).curBundle = s.curBundle := rfl
@[simp] theorem State.sched_noEffect (d : Nat) (i : Instr) : (s.sched d i).noEffect = s.noEffect := rfl
@[simp] theorem State.sched_epi (d : Nat) (i : Instr) : (s.sched d i).epi = s.epi := rfl
@[simp] theorem State.sched_mem (d : Nat) (i : Instr) : (s.sched d i).mem = s.mem := rfl
@[simp] theorem State.sched_full (d : Nat) (i : Instr) : (s.sched d i).full = s.full := rfl
@[simp] theorem State.sched_bad (d : Nat) (i : Instr) : (s.sched d i).bad = s.bad := rfl
@[simp] theorem State.sched_ctxs (d : Nat) (i : Instr) : (s.sched d i).ctxs = s.ctxs := rfl
@[simp] theorem State.sched_cores (d : Nat) (i : Instr) : (s.sched d i).cores = s.cores := rfl
@[simp] theorem State.sched_clusters (d : Nat) (i : Instr) : (s.sched d i).clusters = s.clusters := rfl
@[simp] theorem State.sched_stewards (d : Nat) (i : Instr) : (s.sched d i).stewards = s.stewards := rfl
@[simp] theorem State.sched_stewardStopped (d : Nat) (i : Instr) : (s.sched d i).stewardStopped = s.stewardStopped := rfl
@[simp] theorem State.sched_routers (d : Nat) (i : Instr) : (s.sched d i).routers = s.routers := rfl
@[simp] theorem State.sched_engines (d : Nat) (i : Instr) : (s.sched d i).engines = s.engines := rfl
@[simp] theorem State.sched_dies (d : Nat) (i : Instr) : (s.sched d i).dies = s.dies := rfl
@[simp] theorem State.sched_chans (d : Nat) (i : Instr) : (s.sched d i).chans = s.chans := rfl
@[simp] theorem State.sched_holds (d : Nat) (i : Instr) : (s.sched d i).holds = s.holds := rfl
@[simp] theorem State.sched_svcq (d : Nat) (i : Instr) : (s.sched d i).svcq = s.svcq := rfl
@[simp] theorem State.sched_svcHeld (d : Nat) (i : Instr) : (s.sched d i).svcHeld = s.svcHeld := rfl
@[simp] theorem State.sched_flogReports (d : Nat) (i : Instr) : (s.sched d i).flogReports = s.flogReports := rfl
@[simp] theorem State.sched_teams (d : Nat) (i : Instr) : (s.sched d i).teams = s.teams := rfl
@[simp] theorem State.sched_slots (d : Nat) (i : Instr) : (s.sched d i).slots = s.slots := rfl
@[simp] theorem State.sched_switch (d : Nat) (i : Instr) : (s.sched d i).switch = s.switch := rfl
@[simp] theorem State.sched_dbghz (d : Nat) (i : Instr) : (s.sched d i).dbghz = s.dbghz := rfl
@[simp] theorem State.sched_evictwait (d : Nat) (i : Instr) : (s.sched d i).evictwait = s.evictwait := rfl
@[simp] theorem State.sched_preemptwait (d : Nat) (i : Instr) : (s.sched d i).preemptwait = s.preemptwait := rfl
@[simp] theorem State.sched_escwait (d : Nat) (i : Instr) : (s.sched d i).escwait = s.escwait := rfl
@[simp] theorem State.sched_spanin (d : Nat) (i : Instr) : (s.sched d i).spanin = s.spanin := rfl
@[simp] theorem State.sched_harvest (d : Nat) (i : Instr) : (s.sched d i).harvest = s.harvest := rfl
@[simp] theorem State.sched_throttled (d : Nat) (i : Instr) : (s.sched d i).throttled = s.throttled := rfl
@[simp] theorem State.sched_spanEn (d : Nat) (i : Instr) : (s.sched d i).spanEn = s.spanEn := rfl
@[simp] theorem State.sched_portEn (d : Nat) (i : Instr) : (s.sched d i).portEn = s.portEn := rfl
@[simp] theorem State.sched_mailbox (d : Nat) (i : Instr) : (s.sched d i).mailbox = s.mailbox := rfl
@[simp] theorem State.sched_boot (d : Nat) (i : Instr) : (s.sched d i).boot = s.boot := rfl
@[simp] theorem State.sched_flash (d : Nat) (i : Instr) : (s.sched d i).flash = s.flash := rfl
@[simp] theorem State.sched_flashBuf (d : Nat) (i : Instr) : (s.sched d i).flashBuf = s.flashBuf := rfl
@[simp] theorem State.sched_images (d : Nat) (i : Instr) : (s.sched d i).images = s.images := rfl
@[simp] theorem State.sched_measures (d : Nat) (i : Instr) : (s.sched d i).measures = s.measures := rfl
@[simp] theorem State.sched_training (d : Nat) (i : Instr) : (s.sched d i).training = s.training := rfl
@[simp] theorem State.sched_hostRead (d : Nat) (i : Instr) : (s.sched d i).hostRead = s.hostRead := rfl
@[simp] theorem State.sched_pcie (d : Nat) (i : Instr) : (s.sched d i).pcie = s.pcie := rfl
@[simp] theorem State.sched_powered (d : Nat) (i : Instr) : (s.sched d i).powered = s.powered := rfl

@[simp] theorem State.newTok_now : (s.newTok).now = s.now := rfl
@[simp] theorem State.newTok_turn : (s.newTok).turn = s.turn := rfl
@[simp] theorem State.newTok_agenda : (s.newTok).agenda = s.agenda := rfl
@[simp] theorem State.newTok_inputs : (s.newTok).inputs = s.inputs := rfl
@[simp] theorem State.newTok_tok : (s.newTok).tok = s.tok + 1 := rfl
@[simp] theorem State.newTok_fresh : (s.newTok).fresh = s.fresh := rfl
@[simp] theorem State.newTok_curCore : (s.newTok).curCore = s.curCore := rfl
@[simp] theorem State.newTok_curCtx : (s.newTok).curCtx = s.curCtx := rfl
@[simp] theorem State.newTok_curLen : (s.newTok).curLen = s.curLen := rfl
@[simp] theorem State.newTok_curBundle : (s.newTok).curBundle = s.curBundle := rfl
@[simp] theorem State.newTok_noEffect : (s.newTok).noEffect = s.noEffect := rfl
@[simp] theorem State.newTok_epi : (s.newTok).epi = s.epi := rfl
@[simp] theorem State.newTok_mem : (s.newTok).mem = s.mem := rfl
@[simp] theorem State.newTok_full : (s.newTok).full = s.full := rfl
@[simp] theorem State.newTok_bad : (s.newTok).bad = s.bad := rfl
@[simp] theorem State.newTok_ctxs : (s.newTok).ctxs = s.ctxs := rfl
@[simp] theorem State.newTok_cores : (s.newTok).cores = s.cores := rfl
@[simp] theorem State.newTok_clusters : (s.newTok).clusters = s.clusters := rfl
@[simp] theorem State.newTok_stewards : (s.newTok).stewards = s.stewards := rfl
@[simp] theorem State.newTok_stewardStopped : (s.newTok).stewardStopped = s.stewardStopped := rfl
@[simp] theorem State.newTok_routers : (s.newTok).routers = s.routers := rfl
@[simp] theorem State.newTok_engines : (s.newTok).engines = s.engines := rfl
@[simp] theorem State.newTok_dies : (s.newTok).dies = s.dies := rfl
@[simp] theorem State.newTok_chans : (s.newTok).chans = s.chans := rfl
@[simp] theorem State.newTok_holds : (s.newTok).holds = s.holds := rfl
@[simp] theorem State.newTok_svcq : (s.newTok).svcq = s.svcq := rfl
@[simp] theorem State.newTok_svcHeld : (s.newTok).svcHeld = s.svcHeld := rfl
@[simp] theorem State.newTok_flogReports : (s.newTok).flogReports = s.flogReports := rfl
@[simp] theorem State.newTok_teams : (s.newTok).teams = s.teams := rfl
@[simp] theorem State.newTok_slots : (s.newTok).slots = s.slots := rfl
@[simp] theorem State.newTok_switch : (s.newTok).switch = s.switch := rfl
@[simp] theorem State.newTok_dbghz : (s.newTok).dbghz = s.dbghz := rfl
@[simp] theorem State.newTok_evictwait : (s.newTok).evictwait = s.evictwait := rfl
@[simp] theorem State.newTok_preemptwait : (s.newTok).preemptwait = s.preemptwait := rfl
@[simp] theorem State.newTok_escwait : (s.newTok).escwait = s.escwait := rfl
@[simp] theorem State.newTok_spanin : (s.newTok).spanin = s.spanin := rfl
@[simp] theorem State.newTok_harvest : (s.newTok).harvest = s.harvest := rfl
@[simp] theorem State.newTok_throttled : (s.newTok).throttled = s.throttled := rfl
@[simp] theorem State.newTok_spanEn : (s.newTok).spanEn = s.spanEn := rfl
@[simp] theorem State.newTok_portEn : (s.newTok).portEn = s.portEn := rfl
@[simp] theorem State.newTok_mailbox : (s.newTok).mailbox = s.mailbox := rfl
@[simp] theorem State.newTok_boot : (s.newTok).boot = s.boot := rfl
@[simp] theorem State.newTok_flash : (s.newTok).flash = s.flash := rfl
@[simp] theorem State.newTok_flashBuf : (s.newTok).flashBuf = s.flashBuf := rfl
@[simp] theorem State.newTok_images : (s.newTok).images = s.images := rfl
@[simp] theorem State.newTok_measures : (s.newTok).measures = s.measures := rfl
@[simp] theorem State.newTok_training : (s.newTok).training = s.training := rfl
@[simp] theorem State.newTok_hostRead : (s.newTok).hostRead = s.hostRead := rfl
@[simp] theorem State.newTok_pcie : (s.newTok).pcie = s.pcie := rfl
@[simp] theorem State.newTok_powered : (s.newTok).powered = s.powered := rfl

@[simp] theorem State.spend_now (n : Nat) : (s.spend n).now = s.now := by
  unfold State.spend; split <;> rfl
@[simp] theorem State.spend_turn (n : Nat) : (s.spend n).turn = s.turn := by
  unfold State.spend; split <;> rfl
@[simp] theorem State.spend_agenda (n : Nat) : (s.spend n).agenda = s.agenda := by
  unfold State.spend; split <;> rfl
@[simp] theorem State.spend_inputs (n : Nat) : (s.spend n).inputs = s.inputs := by
  unfold State.spend; split <;> rfl
@[simp] theorem State.spend_tok (n : Nat) : (s.spend n).tok = s.tok := by
  unfold State.spend; split <;> rfl
@[simp] theorem State.spend_curCore (n : Nat) : (s.spend n).curCore = s.curCore := by
  unfold State.spend; split <;> rfl
@[simp] theorem State.spend_curCtx (n : Nat) : (s.spend n).curCtx = s.curCtx := by
  unfold State.spend; split <;> rfl
@[simp] theorem State.spend_curLen (n : Nat) : (s.spend n).curLen = s.curLen := by
  unfold State.spend; split <;> rfl
@[simp] theorem State.spend_curBundle (n : Nat) : (s.spend n).curBundle = s.curBundle := by
  unfold State.spend; split <;> rfl
@[simp] theorem State.spend_noEffect (n : Nat) : (s.spend n).noEffect = s.noEffect := by
  unfold State.spend; split <;> rfl
@[simp] theorem State.spend_epi (n : Nat) : (s.spend n).epi = s.epi := by
  unfold State.spend; split <;> rfl
@[simp] theorem State.spend_mem (n : Nat) : (s.spend n).mem = s.mem := by
  unfold State.spend; split <;> rfl
@[simp] theorem State.spend_full (n : Nat) : (s.spend n).full = s.full := by
  unfold State.spend; split <;> rfl
@[simp] theorem State.spend_bad (n : Nat) : (s.spend n).bad = s.bad := by
  unfold State.spend; split <;> rfl
@[simp] theorem State.spend_ctxs (n : Nat) : (s.spend n).ctxs = s.ctxs := by
  unfold State.spend; split <;> rfl
@[simp] theorem State.spend_cores (n : Nat) : (s.spend n).cores = s.cores := by
  unfold State.spend; split <;> rfl
@[simp] theorem State.spend_clusters (n : Nat) : (s.spend n).clusters = s.clusters := by
  unfold State.spend; split <;> rfl
@[simp] theorem State.spend_stewards (n : Nat) : (s.spend n).stewards = s.stewards := by
  unfold State.spend; split <;> rfl
@[simp] theorem State.spend_stewardStopped (n : Nat) : (s.spend n).stewardStopped = s.stewardStopped := by
  unfold State.spend; split <;> rfl
@[simp] theorem State.spend_routers (n : Nat) : (s.spend n).routers = s.routers := by
  unfold State.spend; split <;> rfl
@[simp] theorem State.spend_engines (n : Nat) : (s.spend n).engines = s.engines := by
  unfold State.spend; split <;> rfl
@[simp] theorem State.spend_dies (n : Nat) : (s.spend n).dies = s.dies := by
  unfold State.spend; split <;> rfl
@[simp] theorem State.spend_chans (n : Nat) : (s.spend n).chans = s.chans := by
  unfold State.spend; split <;> rfl
@[simp] theorem State.spend_holds (n : Nat) : (s.spend n).holds = s.holds := by
  unfold State.spend; split <;> rfl
@[simp] theorem State.spend_svcq (n : Nat) : (s.spend n).svcq = s.svcq := by
  unfold State.spend; split <;> rfl
@[simp] theorem State.spend_svcHeld (n : Nat) : (s.spend n).svcHeld = s.svcHeld := by
  unfold State.spend; split <;> rfl
@[simp] theorem State.spend_flogReports (n : Nat) : (s.spend n).flogReports = s.flogReports := by
  unfold State.spend; split <;> rfl
@[simp] theorem State.spend_teams (n : Nat) : (s.spend n).teams = s.teams := by
  unfold State.spend; split <;> rfl
@[simp] theorem State.spend_slots (n : Nat) : (s.spend n).slots = s.slots := by
  unfold State.spend; split <;> rfl
@[simp] theorem State.spend_switch (n : Nat) : (s.spend n).switch = s.switch := by
  unfold State.spend; split <;> rfl
@[simp] theorem State.spend_dbghz (n : Nat) : (s.spend n).dbghz = s.dbghz := by
  unfold State.spend; split <;> rfl
@[simp] theorem State.spend_evictwait (n : Nat) : (s.spend n).evictwait = s.evictwait := by
  unfold State.spend; split <;> rfl
@[simp] theorem State.spend_preemptwait (n : Nat) : (s.spend n).preemptwait = s.preemptwait := by
  unfold State.spend; split <;> rfl
@[simp] theorem State.spend_escwait (n : Nat) : (s.spend n).escwait = s.escwait := by
  unfold State.spend; split <;> rfl
@[simp] theorem State.spend_spanin (n : Nat) : (s.spend n).spanin = s.spanin := by
  unfold State.spend; split <;> rfl
@[simp] theorem State.spend_harvest (n : Nat) : (s.spend n).harvest = s.harvest := by
  unfold State.spend; split <;> rfl
@[simp] theorem State.spend_throttled (n : Nat) : (s.spend n).throttled = s.throttled := by
  unfold State.spend; split <;> rfl
@[simp] theorem State.spend_spanEn (n : Nat) : (s.spend n).spanEn = s.spanEn := by
  unfold State.spend; split <;> rfl
@[simp] theorem State.spend_portEn (n : Nat) : (s.spend n).portEn = s.portEn := by
  unfold State.spend; split <;> rfl
@[simp] theorem State.spend_mailbox (n : Nat) : (s.spend n).mailbox = s.mailbox := by
  unfold State.spend; split <;> rfl
@[simp] theorem State.spend_boot (n : Nat) : (s.spend n).boot = s.boot := by
  unfold State.spend; split <;> rfl
@[simp] theorem State.spend_flash (n : Nat) : (s.spend n).flash = s.flash := by
  unfold State.spend; split <;> rfl
@[simp] theorem State.spend_flashBuf (n : Nat) : (s.spend n).flashBuf = s.flashBuf := by
  unfold State.spend; split <;> rfl
@[simp] theorem State.spend_images (n : Nat) : (s.spend n).images = s.images := by
  unfold State.spend; split <;> rfl
@[simp] theorem State.spend_measures (n : Nat) : (s.spend n).measures = s.measures := by
  unfold State.spend; split <;> rfl
@[simp] theorem State.spend_training (n : Nat) : (s.spend n).training = s.training := by
  unfold State.spend; split <;> rfl
@[simp] theorem State.spend_hostRead (n : Nat) : (s.spend n).hostRead = s.hostRead := by
  unfold State.spend; split <;> rfl
@[simp] theorem State.spend_pcie (n : Nat) : (s.spend n).pcie = s.pcie := by
  unfold State.spend; split <;> rfl
@[simp] theorem State.spend_powered (n : Nat) : (s.spend n).powered = s.powered := by
  unfold State.spend; split <;> rfl

@[simp] theorem State.park_now (c n : Nat) (p : Park) : (s.park c n p).now = s.now := rfl
@[simp] theorem State.park_turn (c n : Nat) (p : Park) : (s.park c n p).turn = s.turn := rfl
@[simp] theorem State.park_agenda (c n : Nat) (p : Park) : (s.park c n p).agenda = s.agenda := rfl
@[simp] theorem State.park_inputs (c n : Nat) (p : Park) : (s.park c n p).inputs = s.inputs := rfl
@[simp] theorem State.park_tok (c n : Nat) (p : Park) : (s.park c n p).tok = s.tok := rfl
@[simp] theorem State.park_fresh (c n : Nat) (p : Park) : (s.park c n p).fresh = s.fresh := rfl
@[simp] theorem State.park_curCore (c n : Nat) (p : Park) : (s.park c n p).curCore = s.curCore := rfl
@[simp] theorem State.park_curCtx (c n : Nat) (p : Park) : (s.park c n p).curCtx = s.curCtx := rfl
@[simp] theorem State.park_curLen (c n : Nat) (p : Park) : (s.park c n p).curLen = s.curLen := rfl
@[simp] theorem State.park_curBundle (c n : Nat) (p : Park) : (s.park c n p).curBundle = s.curBundle := rfl
@[simp] theorem State.park_noEffect (c n : Nat) (p : Park) : (s.park c n p).noEffect = s.noEffect := rfl
@[simp] theorem State.park_epi (c n : Nat) (p : Park) : (s.park c n p).epi = s.epi := rfl
@[simp] theorem State.park_mem (c n : Nat) (p : Park) : (s.park c n p).mem = s.mem := rfl
@[simp] theorem State.park_full (c n : Nat) (p : Park) : (s.park c n p).full = s.full := rfl
@[simp] theorem State.park_bad (c n : Nat) (p : Park) : (s.park c n p).bad = s.bad := rfl
@[simp] theorem State.park_ctxs (c n : Nat) (p : Park) : (s.park c n p).ctxs = s.ctxs.set (16 * c + n) { s.ctx c n with park := some p } := rfl
@[simp] theorem State.park_cores (c n : Nat) (p : Park) : (s.park c n p).cores = s.cores := rfl
@[simp] theorem State.park_clusters (c n : Nat) (p : Park) : (s.park c n p).clusters = s.clusters := rfl
@[simp] theorem State.park_stewards (c n : Nat) (p : Park) : (s.park c n p).stewards = s.stewards := rfl
@[simp] theorem State.park_stewardStopped (c n : Nat) (p : Park) : (s.park c n p).stewardStopped = s.stewardStopped := rfl
@[simp] theorem State.park_routers (c n : Nat) (p : Park) : (s.park c n p).routers = s.routers := rfl
@[simp] theorem State.park_engines (c n : Nat) (p : Park) : (s.park c n p).engines = s.engines := rfl
@[simp] theorem State.park_dies (c n : Nat) (p : Park) : (s.park c n p).dies = s.dies := rfl
@[simp] theorem State.park_chans (c n : Nat) (p : Park) : (s.park c n p).chans = s.chans := rfl
@[simp] theorem State.park_holds (c n : Nat) (p : Park) : (s.park c n p).holds = s.holds := rfl
@[simp] theorem State.park_svcq (c n : Nat) (p : Park) : (s.park c n p).svcq = s.svcq := rfl
@[simp] theorem State.park_svcHeld (c n : Nat) (p : Park) : (s.park c n p).svcHeld = s.svcHeld := rfl
@[simp] theorem State.park_flogReports (c n : Nat) (p : Park) : (s.park c n p).flogReports = s.flogReports := rfl
@[simp] theorem State.park_teams (c n : Nat) (p : Park) : (s.park c n p).teams = s.teams := rfl
@[simp] theorem State.park_slots (c n : Nat) (p : Park) : (s.park c n p).slots = s.slots := rfl
@[simp] theorem State.park_switch (c n : Nat) (p : Park) : (s.park c n p).switch = s.switch := rfl
@[simp] theorem State.park_dbghz (c n : Nat) (p : Park) : (s.park c n p).dbghz = s.dbghz := rfl
@[simp] theorem State.park_evictwait (c n : Nat) (p : Park) : (s.park c n p).evictwait = s.evictwait := rfl
@[simp] theorem State.park_preemptwait (c n : Nat) (p : Park) : (s.park c n p).preemptwait = s.preemptwait := rfl
@[simp] theorem State.park_escwait (c n : Nat) (p : Park) : (s.park c n p).escwait = s.escwait := rfl
@[simp] theorem State.park_spanin (c n : Nat) (p : Park) : (s.park c n p).spanin = s.spanin := rfl
@[simp] theorem State.park_harvest (c n : Nat) (p : Park) : (s.park c n p).harvest = s.harvest := rfl
@[simp] theorem State.park_throttled (c n : Nat) (p : Park) : (s.park c n p).throttled = s.throttled := rfl
@[simp] theorem State.park_spanEn (c n : Nat) (p : Park) : (s.park c n p).spanEn = s.spanEn := rfl
@[simp] theorem State.park_portEn (c n : Nat) (p : Park) : (s.park c n p).portEn = s.portEn := rfl
@[simp] theorem State.park_mailbox (c n : Nat) (p : Park) : (s.park c n p).mailbox = s.mailbox := rfl
@[simp] theorem State.park_boot (c n : Nat) (p : Park) : (s.park c n p).boot = s.boot := rfl
@[simp] theorem State.park_flash (c n : Nat) (p : Park) : (s.park c n p).flash = s.flash := rfl
@[simp] theorem State.park_flashBuf (c n : Nat) (p : Park) : (s.park c n p).flashBuf = s.flashBuf := rfl
@[simp] theorem State.park_images (c n : Nat) (p : Park) : (s.park c n p).images = s.images := rfl
@[simp] theorem State.park_measures (c n : Nat) (p : Park) : (s.park c n p).measures = s.measures := rfl
@[simp] theorem State.park_training (c n : Nat) (p : Park) : (s.park c n p).training = s.training := rfl
@[simp] theorem State.park_hostRead (c n : Nat) (p : Park) : (s.park c n p).hostRead = s.hostRead := rfl
@[simp] theorem State.park_pcie (c n : Nat) (p : Park) : (s.park c n p).pcie = s.pcie := rfl
@[simp] theorem State.park_powered (c n : Nat) (p : Park) : (s.park c n p).powered = s.powered := rfl

@[simp] theorem State.wake_now (c n : Nat) : (s.wake c n).now = s.now := rfl
@[simp] theorem State.wake_turn (c n : Nat) : (s.wake c n).turn = s.turn := rfl
@[simp] theorem State.wake_agenda (c n : Nat) : (s.wake c n).agenda = s.agenda := rfl
@[simp] theorem State.wake_inputs (c n : Nat) : (s.wake c n).inputs = s.inputs := rfl
@[simp] theorem State.wake_tok (c n : Nat) : (s.wake c n).tok = s.tok := rfl
@[simp] theorem State.wake_fresh (c n : Nat) : (s.wake c n).fresh = s.fresh := rfl
@[simp] theorem State.wake_curCore (c n : Nat) : (s.wake c n).curCore = s.curCore := rfl
@[simp] theorem State.wake_curCtx (c n : Nat) : (s.wake c n).curCtx = s.curCtx := rfl
@[simp] theorem State.wake_curLen (c n : Nat) : (s.wake c n).curLen = s.curLen := rfl
@[simp] theorem State.wake_curBundle (c n : Nat) : (s.wake c n).curBundle = s.curBundle := rfl
@[simp] theorem State.wake_noEffect (c n : Nat) : (s.wake c n).noEffect = s.noEffect := rfl
@[simp] theorem State.wake_epi (c n : Nat) : (s.wake c n).epi = s.epi := rfl
@[simp] theorem State.wake_mem (c n : Nat) : (s.wake c n).mem = s.mem := rfl
@[simp] theorem State.wake_full (c n : Nat) : (s.wake c n).full = s.full := rfl
@[simp] theorem State.wake_bad (c n : Nat) : (s.wake c n).bad = s.bad := rfl
@[simp] theorem State.wake_ctxs (c n : Nat) : (s.wake c n).ctxs = s.ctxs.set (16 * c + n) { s.ctx c n with park := none, readyAt := s.now + 1 } := rfl
@[simp] theorem State.wake_cores (c n : Nat) : (s.wake c n).cores = s.cores := rfl
@[simp] theorem State.wake_clusters (c n : Nat) : (s.wake c n).clusters = s.clusters := rfl
@[simp] theorem State.wake_stewards (c n : Nat) : (s.wake c n).stewards = s.stewards := rfl
@[simp] theorem State.wake_stewardStopped (c n : Nat) : (s.wake c n).stewardStopped = s.stewardStopped := rfl
@[simp] theorem State.wake_routers (c n : Nat) : (s.wake c n).routers = s.routers := rfl
@[simp] theorem State.wake_engines (c n : Nat) : (s.wake c n).engines = s.engines := rfl
@[simp] theorem State.wake_dies (c n : Nat) : (s.wake c n).dies = s.dies := rfl
@[simp] theorem State.wake_chans (c n : Nat) : (s.wake c n).chans = s.chans := rfl
@[simp] theorem State.wake_holds (c n : Nat) : (s.wake c n).holds = s.holds := rfl
@[simp] theorem State.wake_svcq (c n : Nat) : (s.wake c n).svcq = s.svcq := rfl
@[simp] theorem State.wake_svcHeld (c n : Nat) : (s.wake c n).svcHeld = s.svcHeld := rfl
@[simp] theorem State.wake_flogReports (c n : Nat) : (s.wake c n).flogReports = s.flogReports := rfl
@[simp] theorem State.wake_teams (c n : Nat) : (s.wake c n).teams = s.teams := rfl
@[simp] theorem State.wake_slots (c n : Nat) : (s.wake c n).slots = s.slots := rfl
@[simp] theorem State.wake_switch (c n : Nat) : (s.wake c n).switch = s.switch := rfl
@[simp] theorem State.wake_dbghz (c n : Nat) : (s.wake c n).dbghz = s.dbghz := rfl
@[simp] theorem State.wake_evictwait (c n : Nat) : (s.wake c n).evictwait = s.evictwait := rfl
@[simp] theorem State.wake_preemptwait (c n : Nat) : (s.wake c n).preemptwait = s.preemptwait := rfl
@[simp] theorem State.wake_escwait (c n : Nat) : (s.wake c n).escwait = s.escwait := rfl
@[simp] theorem State.wake_spanin (c n : Nat) : (s.wake c n).spanin = s.spanin := rfl
@[simp] theorem State.wake_harvest (c n : Nat) : (s.wake c n).harvest = s.harvest := rfl
@[simp] theorem State.wake_throttled (c n : Nat) : (s.wake c n).throttled = s.throttled := rfl
@[simp] theorem State.wake_spanEn (c n : Nat) : (s.wake c n).spanEn = s.spanEn := rfl
@[simp] theorem State.wake_portEn (c n : Nat) : (s.wake c n).portEn = s.portEn := rfl
@[simp] theorem State.wake_mailbox (c n : Nat) : (s.wake c n).mailbox = s.mailbox := rfl
@[simp] theorem State.wake_boot (c n : Nat) : (s.wake c n).boot = s.boot := rfl
@[simp] theorem State.wake_flash (c n : Nat) : (s.wake c n).flash = s.flash := rfl
@[simp] theorem State.wake_flashBuf (c n : Nat) : (s.wake c n).flashBuf = s.flashBuf := rfl
@[simp] theorem State.wake_images (c n : Nat) : (s.wake c n).images = s.images := rfl
@[simp] theorem State.wake_measures (c n : Nat) : (s.wake c n).measures = s.measures := rfl
@[simp] theorem State.wake_training (c n : Nat) : (s.wake c n).training = s.training := rfl
@[simp] theorem State.wake_hostRead (c n : Nat) : (s.wake c n).hostRead = s.hostRead := rfl
@[simp] theorem State.wake_pcie (c n : Nat) : (s.wake c n).pcie = s.pcie := rfl
@[simp] theorem State.wake_powered (c n : Nat) : (s.wake c n).powered = s.powered := rfl

@[simp] theorem State.advance_now : (s.advance).now = s.now := rfl
@[simp] theorem State.advance_turn : (s.advance).turn = s.turn := rfl
@[simp] theorem State.advance_agenda : (s.advance).agenda = s.agenda := rfl
@[simp] theorem State.advance_inputs : (s.advance).inputs = s.inputs := rfl
@[simp] theorem State.advance_tok : (s.advance).tok = s.tok := rfl
@[simp] theorem State.advance_fresh : (s.advance).fresh = s.fresh := rfl
@[simp] theorem State.advance_curCore : (s.advance).curCore = s.curCore := rfl
@[simp] theorem State.advance_curCtx : (s.advance).curCtx = s.curCtx := rfl
@[simp] theorem State.advance_curLen : (s.advance).curLen = s.curLen := rfl
@[simp] theorem State.advance_curBundle : (s.advance).curBundle = s.curBundle := rfl
@[simp] theorem State.advance_noEffect : (s.advance).noEffect = s.noEffect := rfl
@[simp] theorem State.advance_epi : (s.advance).epi = s.epi := rfl
@[simp] theorem State.advance_mem : (s.advance).mem = s.mem := rfl
@[simp] theorem State.advance_full : (s.advance).full = s.full := rfl
@[simp] theorem State.advance_bad : (s.advance).bad = s.bad := rfl
@[simp] theorem State.advance_cores : (s.advance).cores = s.cores := rfl
@[simp] theorem State.advance_clusters : (s.advance).clusters = s.clusters := rfl
@[simp] theorem State.advance_stewards : (s.advance).stewards = s.stewards := rfl
@[simp] theorem State.advance_stewardStopped : (s.advance).stewardStopped = s.stewardStopped := rfl
@[simp] theorem State.advance_routers : (s.advance).routers = s.routers := rfl
@[simp] theorem State.advance_engines : (s.advance).engines = s.engines := rfl
@[simp] theorem State.advance_dies : (s.advance).dies = s.dies := rfl
@[simp] theorem State.advance_chans : (s.advance).chans = s.chans := rfl
@[simp] theorem State.advance_holds : (s.advance).holds = s.holds := rfl
@[simp] theorem State.advance_svcq : (s.advance).svcq = s.svcq := rfl
@[simp] theorem State.advance_svcHeld : (s.advance).svcHeld = s.svcHeld := rfl
@[simp] theorem State.advance_flogReports : (s.advance).flogReports = s.flogReports := rfl
@[simp] theorem State.advance_teams : (s.advance).teams = s.teams := rfl
@[simp] theorem State.advance_slots : (s.advance).slots = s.slots := rfl
@[simp] theorem State.advance_switch : (s.advance).switch = s.switch := rfl
@[simp] theorem State.advance_dbghz : (s.advance).dbghz = s.dbghz := rfl
@[simp] theorem State.advance_evictwait : (s.advance).evictwait = s.evictwait := rfl
@[simp] theorem State.advance_preemptwait : (s.advance).preemptwait = s.preemptwait := rfl
@[simp] theorem State.advance_escwait : (s.advance).escwait = s.escwait := rfl
@[simp] theorem State.advance_spanin : (s.advance).spanin = s.spanin := rfl
@[simp] theorem State.advance_harvest : (s.advance).harvest = s.harvest := rfl
@[simp] theorem State.advance_throttled : (s.advance).throttled = s.throttled := rfl
@[simp] theorem State.advance_spanEn : (s.advance).spanEn = s.spanEn := rfl
@[simp] theorem State.advance_portEn : (s.advance).portEn = s.portEn := rfl
@[simp] theorem State.advance_mailbox : (s.advance).mailbox = s.mailbox := rfl
@[simp] theorem State.advance_boot : (s.advance).boot = s.boot := rfl
@[simp] theorem State.advance_flash : (s.advance).flash = s.flash := rfl
@[simp] theorem State.advance_flashBuf : (s.advance).flashBuf = s.flashBuf := rfl
@[simp] theorem State.advance_images : (s.advance).images = s.images := rfl
@[simp] theorem State.advance_measures : (s.advance).measures = s.measures := rfl
@[simp] theorem State.advance_training : (s.advance).training = s.training := rfl
@[simp] theorem State.advance_hostRead : (s.advance).hostRead = s.hostRead := rfl
@[simp] theorem State.advance_pcie : (s.advance).pcie = s.pcie := rfl
@[simp] theorem State.advance_powered : (s.advance).powered = s.powered := rfl

@[simp] theorem State.jump_now (t : Word) : (s.jump t).now = s.now := rfl
@[simp] theorem State.jump_turn (t : Word) : (s.jump t).turn = s.turn := rfl
@[simp] theorem State.jump_agenda (t : Word) : (s.jump t).agenda = s.agenda := rfl
@[simp] theorem State.jump_inputs (t : Word) : (s.jump t).inputs = s.inputs := rfl
@[simp] theorem State.jump_tok (t : Word) : (s.jump t).tok = s.tok := rfl
@[simp] theorem State.jump_fresh (t : Word) : (s.jump t).fresh = s.fresh := rfl
@[simp] theorem State.jump_curCore (t : Word) : (s.jump t).curCore = s.curCore := rfl
@[simp] theorem State.jump_curCtx (t : Word) : (s.jump t).curCtx = s.curCtx := rfl
@[simp] theorem State.jump_curLen (t : Word) : (s.jump t).curLen = s.curLen := rfl
@[simp] theorem State.jump_curBundle (t : Word) : (s.jump t).curBundle = s.curBundle := rfl
@[simp] theorem State.jump_noEffect (t : Word) : (s.jump t).noEffect = s.noEffect := rfl
@[simp] theorem State.jump_epi (t : Word) : (s.jump t).epi = s.epi := rfl
@[simp] theorem State.jump_mem (t : Word) : (s.jump t).mem = s.mem := rfl
@[simp] theorem State.jump_full (t : Word) : (s.jump t).full = s.full := rfl
@[simp] theorem State.jump_bad (t : Word) : (s.jump t).bad = s.bad := rfl
@[simp] theorem State.jump_cores (t : Word) : (s.jump t).cores = s.cores := rfl
@[simp] theorem State.jump_clusters (t : Word) : (s.jump t).clusters = s.clusters := rfl
@[simp] theorem State.jump_stewards (t : Word) : (s.jump t).stewards = s.stewards := rfl
@[simp] theorem State.jump_stewardStopped (t : Word) : (s.jump t).stewardStopped = s.stewardStopped := rfl
@[simp] theorem State.jump_routers (t : Word) : (s.jump t).routers = s.routers := rfl
@[simp] theorem State.jump_engines (t : Word) : (s.jump t).engines = s.engines := rfl
@[simp] theorem State.jump_dies (t : Word) : (s.jump t).dies = s.dies := rfl
@[simp] theorem State.jump_chans (t : Word) : (s.jump t).chans = s.chans := rfl
@[simp] theorem State.jump_holds (t : Word) : (s.jump t).holds = s.holds := rfl
@[simp] theorem State.jump_svcq (t : Word) : (s.jump t).svcq = s.svcq := rfl
@[simp] theorem State.jump_svcHeld (t : Word) : (s.jump t).svcHeld = s.svcHeld := rfl
@[simp] theorem State.jump_flogReports (t : Word) : (s.jump t).flogReports = s.flogReports := rfl
@[simp] theorem State.jump_teams (t : Word) : (s.jump t).teams = s.teams := rfl
@[simp] theorem State.jump_slots (t : Word) : (s.jump t).slots = s.slots := rfl
@[simp] theorem State.jump_switch (t : Word) : (s.jump t).switch = s.switch := rfl
@[simp] theorem State.jump_dbghz (t : Word) : (s.jump t).dbghz = s.dbghz := rfl
@[simp] theorem State.jump_evictwait (t : Word) : (s.jump t).evictwait = s.evictwait := rfl
@[simp] theorem State.jump_preemptwait (t : Word) : (s.jump t).preemptwait = s.preemptwait := rfl
@[simp] theorem State.jump_escwait (t : Word) : (s.jump t).escwait = s.escwait := rfl
@[simp] theorem State.jump_spanin (t : Word) : (s.jump t).spanin = s.spanin := rfl
@[simp] theorem State.jump_harvest (t : Word) : (s.jump t).harvest = s.harvest := rfl
@[simp] theorem State.jump_throttled (t : Word) : (s.jump t).throttled = s.throttled := rfl
@[simp] theorem State.jump_spanEn (t : Word) : (s.jump t).spanEn = s.spanEn := rfl
@[simp] theorem State.jump_portEn (t : Word) : (s.jump t).portEn = s.portEn := rfl
@[simp] theorem State.jump_mailbox (t : Word) : (s.jump t).mailbox = s.mailbox := rfl
@[simp] theorem State.jump_boot (t : Word) : (s.jump t).boot = s.boot := rfl
@[simp] theorem State.jump_flash (t : Word) : (s.jump t).flash = s.flash := rfl
@[simp] theorem State.jump_flashBuf (t : Word) : (s.jump t).flashBuf = s.flashBuf := rfl
@[simp] theorem State.jump_images (t : Word) : (s.jump t).images = s.images := rfl
@[simp] theorem State.jump_measures (t : Word) : (s.jump t).measures = s.measures := rfl
@[simp] theorem State.jump_training (t : Word) : (s.jump t).training = s.training := rfl
@[simp] theorem State.jump_hostRead (t : Word) : (s.jump t).hostRead = s.hostRead := rfl
@[simp] theorem State.jump_pcie (t : Word) : (s.jump t).pcie = s.pcie := rfl
@[simp] theorem State.jump_powered (t : Word) : (s.jump t).powered = s.powered := rfl

@[simp] theorem State.store_now (a : Nat) (bs : List Byte) : (s.store a bs).now = s.now := rfl
@[simp] theorem State.store_turn (a : Nat) (bs : List Byte) : (s.store a bs).turn = s.turn := rfl
@[simp] theorem State.store_agenda (a : Nat) (bs : List Byte) : (s.store a bs).agenda = s.agenda := rfl
@[simp] theorem State.store_inputs (a : Nat) (bs : List Byte) : (s.store a bs).inputs = s.inputs := rfl
@[simp] theorem State.store_tok (a : Nat) (bs : List Byte) : (s.store a bs).tok = s.tok := rfl
@[simp] theorem State.store_fresh (a : Nat) (bs : List Byte) : (s.store a bs).fresh = s.fresh := rfl
@[simp] theorem State.store_curCore (a : Nat) (bs : List Byte) : (s.store a bs).curCore = s.curCore := rfl
@[simp] theorem State.store_curCtx (a : Nat) (bs : List Byte) : (s.store a bs).curCtx = s.curCtx := rfl
@[simp] theorem State.store_curLen (a : Nat) (bs : List Byte) : (s.store a bs).curLen = s.curLen := rfl
@[simp] theorem State.store_curBundle (a : Nat) (bs : List Byte) : (s.store a bs).curBundle = s.curBundle := rfl
@[simp] theorem State.store_noEffect (a : Nat) (bs : List Byte) : (s.store a bs).noEffect = s.noEffect := rfl
@[simp] theorem State.store_epi (a : Nat) (bs : List Byte) : (s.store a bs).epi = s.epi := rfl
@[simp] theorem State.store_mem (a : Nat) (bs : List Byte) : (s.store a bs).mem = memPut s.mem a bs := rfl
@[simp] theorem State.store_full (a : Nat) (bs : List Byte) : (s.store a bs).full = s.full := rfl
@[simp] theorem State.store_ctxs (a : Nat) (bs : List Byte) : (s.store a bs).ctxs = s.ctxs := rfl
@[simp] theorem State.store_cores (a : Nat) (bs : List Byte) : (s.store a bs).cores = s.cores := rfl
@[simp] theorem State.store_clusters (a : Nat) (bs : List Byte) : (s.store a bs).clusters = s.clusters := rfl
@[simp] theorem State.store_stewards (a : Nat) (bs : List Byte) : (s.store a bs).stewards = s.stewards := rfl
@[simp] theorem State.store_stewardStopped (a : Nat) (bs : List Byte) : (s.store a bs).stewardStopped = s.stewardStopped := rfl
@[simp] theorem State.store_routers (a : Nat) (bs : List Byte) : (s.store a bs).routers = s.routers := rfl
@[simp] theorem State.store_engines (a : Nat) (bs : List Byte) : (s.store a bs).engines = s.engines := rfl
@[simp] theorem State.store_dies (a : Nat) (bs : List Byte) : (s.store a bs).dies = s.dies := rfl
@[simp] theorem State.store_chans (a : Nat) (bs : List Byte) : (s.store a bs).chans = s.chans := rfl
@[simp] theorem State.store_holds (a : Nat) (bs : List Byte) : (s.store a bs).holds = s.holds := rfl
@[simp] theorem State.store_svcq (a : Nat) (bs : List Byte) : (s.store a bs).svcq = s.svcq := rfl
@[simp] theorem State.store_svcHeld (a : Nat) (bs : List Byte) : (s.store a bs).svcHeld = s.svcHeld := rfl
@[simp] theorem State.store_flogReports (a : Nat) (bs : List Byte) : (s.store a bs).flogReports = s.flogReports := rfl
@[simp] theorem State.store_teams (a : Nat) (bs : List Byte) : (s.store a bs).teams = s.teams := rfl
@[simp] theorem State.store_slots (a : Nat) (bs : List Byte) : (s.store a bs).slots = s.slots := rfl
@[simp] theorem State.store_switch (a : Nat) (bs : List Byte) : (s.store a bs).switch = s.switch := rfl
@[simp] theorem State.store_dbghz (a : Nat) (bs : List Byte) : (s.store a bs).dbghz = s.dbghz := rfl
@[simp] theorem State.store_evictwait (a : Nat) (bs : List Byte) : (s.store a bs).evictwait = s.evictwait := rfl
@[simp] theorem State.store_preemptwait (a : Nat) (bs : List Byte) : (s.store a bs).preemptwait = s.preemptwait := rfl
@[simp] theorem State.store_escwait (a : Nat) (bs : List Byte) : (s.store a bs).escwait = s.escwait := rfl
@[simp] theorem State.store_spanin (a : Nat) (bs : List Byte) : (s.store a bs).spanin = s.spanin := rfl
@[simp] theorem State.store_harvest (a : Nat) (bs : List Byte) : (s.store a bs).harvest = s.harvest := rfl
@[simp] theorem State.store_throttled (a : Nat) (bs : List Byte) : (s.store a bs).throttled = s.throttled := rfl
@[simp] theorem State.store_spanEn (a : Nat) (bs : List Byte) : (s.store a bs).spanEn = s.spanEn := rfl
@[simp] theorem State.store_portEn (a : Nat) (bs : List Byte) : (s.store a bs).portEn = s.portEn := rfl
@[simp] theorem State.store_mailbox (a : Nat) (bs : List Byte) : (s.store a bs).mailbox = s.mailbox := rfl
@[simp] theorem State.store_boot (a : Nat) (bs : List Byte) : (s.store a bs).boot = s.boot := rfl
@[simp] theorem State.store_flash (a : Nat) (bs : List Byte) : (s.store a bs).flash = s.flash := rfl
@[simp] theorem State.store_flashBuf (a : Nat) (bs : List Byte) : (s.store a bs).flashBuf = s.flashBuf := rfl
@[simp] theorem State.store_images (a : Nat) (bs : List Byte) : (s.store a bs).images = s.images := rfl
@[simp] theorem State.store_measures (a : Nat) (bs : List Byte) : (s.store a bs).measures = s.measures := rfl
@[simp] theorem State.store_training (a : Nat) (bs : List Byte) : (s.store a bs).training = s.training := rfl
@[simp] theorem State.store_hostRead (a : Nat) (bs : List Byte) : (s.store a bs).hostRead = s.hostRead := rfl
@[simp] theorem State.store_pcie (a : Nat) (bs : List Byte) : (s.store a bs).pcie = s.pcie := rfl
@[simp] theorem State.store_powered (a : Nat) (bs : List Byte) : (s.store a bs).powered = s.powered := rfl

@[simp] theorem State.setFull_now (c off : Nat) (b : Bool) : (s.setFull c off b).now = s.now := rfl
@[simp] theorem State.setFull_turn (c off : Nat) (b : Bool) : (s.setFull c off b).turn = s.turn := rfl
@[simp] theorem State.setFull_agenda (c off : Nat) (b : Bool) : (s.setFull c off b).agenda = s.agenda := rfl
@[simp] theorem State.setFull_inputs (c off : Nat) (b : Bool) : (s.setFull c off b).inputs = s.inputs := rfl
@[simp] theorem State.setFull_tok (c off : Nat) (b : Bool) : (s.setFull c off b).tok = s.tok := rfl
@[simp] theorem State.setFull_fresh (c off : Nat) (b : Bool) : (s.setFull c off b).fresh = s.fresh := rfl
@[simp] theorem State.setFull_curCore (c off : Nat) (b : Bool) : (s.setFull c off b).curCore = s.curCore := rfl
@[simp] theorem State.setFull_curCtx (c off : Nat) (b : Bool) : (s.setFull c off b).curCtx = s.curCtx := rfl
@[simp] theorem State.setFull_curLen (c off : Nat) (b : Bool) : (s.setFull c off b).curLen = s.curLen := rfl
@[simp] theorem State.setFull_curBundle (c off : Nat) (b : Bool) : (s.setFull c off b).curBundle = s.curBundle := rfl
@[simp] theorem State.setFull_noEffect (c off : Nat) (b : Bool) : (s.setFull c off b).noEffect = s.noEffect := rfl
@[simp] theorem State.setFull_epi (c off : Nat) (b : Bool) : (s.setFull c off b).epi = s.epi := rfl
@[simp] theorem State.setFull_mem (c off : Nat) (b : Bool) : (s.setFull c off b).mem = s.mem := rfl
@[simp] theorem State.setFull_bad (c off : Nat) (b : Bool) : (s.setFull c off b).bad = s.bad := rfl
@[simp] theorem State.setFull_ctxs (c off : Nat) (b : Bool) : (s.setFull c off b).ctxs = s.ctxs := rfl
@[simp] theorem State.setFull_cores (c off : Nat) (b : Bool) : (s.setFull c off b).cores = s.cores := rfl
@[simp] theorem State.setFull_clusters (c off : Nat) (b : Bool) : (s.setFull c off b).clusters = s.clusters := rfl
@[simp] theorem State.setFull_stewards (c off : Nat) (b : Bool) : (s.setFull c off b).stewards = s.stewards := rfl
@[simp] theorem State.setFull_stewardStopped (c off : Nat) (b : Bool) : (s.setFull c off b).stewardStopped = s.stewardStopped := rfl
@[simp] theorem State.setFull_routers (c off : Nat) (b : Bool) : (s.setFull c off b).routers = s.routers := rfl
@[simp] theorem State.setFull_engines (c off : Nat) (b : Bool) : (s.setFull c off b).engines = s.engines := rfl
@[simp] theorem State.setFull_dies (c off : Nat) (b : Bool) : (s.setFull c off b).dies = s.dies := rfl
@[simp] theorem State.setFull_chans (c off : Nat) (b : Bool) : (s.setFull c off b).chans = s.chans := rfl
@[simp] theorem State.setFull_holds (c off : Nat) (b : Bool) : (s.setFull c off b).holds = s.holds := rfl
@[simp] theorem State.setFull_svcq (c off : Nat) (b : Bool) : (s.setFull c off b).svcq = s.svcq := rfl
@[simp] theorem State.setFull_svcHeld (c off : Nat) (b : Bool) : (s.setFull c off b).svcHeld = s.svcHeld := rfl
@[simp] theorem State.setFull_flogReports (c off : Nat) (b : Bool) : (s.setFull c off b).flogReports = s.flogReports := rfl
@[simp] theorem State.setFull_teams (c off : Nat) (b : Bool) : (s.setFull c off b).teams = s.teams := rfl
@[simp] theorem State.setFull_slots (c off : Nat) (b : Bool) : (s.setFull c off b).slots = s.slots := rfl
@[simp] theorem State.setFull_switch (c off : Nat) (b : Bool) : (s.setFull c off b).switch = s.switch := rfl
@[simp] theorem State.setFull_dbghz (c off : Nat) (b : Bool) : (s.setFull c off b).dbghz = s.dbghz := rfl
@[simp] theorem State.setFull_evictwait (c off : Nat) (b : Bool) : (s.setFull c off b).evictwait = s.evictwait := rfl
@[simp] theorem State.setFull_preemptwait (c off : Nat) (b : Bool) : (s.setFull c off b).preemptwait = s.preemptwait := rfl
@[simp] theorem State.setFull_escwait (c off : Nat) (b : Bool) : (s.setFull c off b).escwait = s.escwait := rfl
@[simp] theorem State.setFull_spanin (c off : Nat) (b : Bool) : (s.setFull c off b).spanin = s.spanin := rfl
@[simp] theorem State.setFull_harvest (c off : Nat) (b : Bool) : (s.setFull c off b).harvest = s.harvest := rfl
@[simp] theorem State.setFull_throttled (c off : Nat) (b : Bool) : (s.setFull c off b).throttled = s.throttled := rfl
@[simp] theorem State.setFull_spanEn (c off : Nat) (b : Bool) : (s.setFull c off b).spanEn = s.spanEn := rfl
@[simp] theorem State.setFull_portEn (c off : Nat) (b : Bool) : (s.setFull c off b).portEn = s.portEn := rfl
@[simp] theorem State.setFull_mailbox (c off : Nat) (b : Bool) : (s.setFull c off b).mailbox = s.mailbox := rfl
@[simp] theorem State.setFull_boot (c off : Nat) (b : Bool) : (s.setFull c off b).boot = s.boot := rfl
@[simp] theorem State.setFull_flash (c off : Nat) (b : Bool) : (s.setFull c off b).flash = s.flash := rfl
@[simp] theorem State.setFull_flashBuf (c off : Nat) (b : Bool) : (s.setFull c off b).flashBuf = s.flashBuf := rfl
@[simp] theorem State.setFull_images (c off : Nat) (b : Bool) : (s.setFull c off b).images = s.images := rfl
@[simp] theorem State.setFull_measures (c off : Nat) (b : Bool) : (s.setFull c off b).measures = s.measures := rfl
@[simp] theorem State.setFull_training (c off : Nat) (b : Bool) : (s.setFull c off b).training = s.training := rfl
@[simp] theorem State.setFull_hostRead (c off : Nat) (b : Bool) : (s.setFull c off b).hostRead = s.hostRead := rfl
@[simp] theorem State.setFull_pcie (c off : Nat) (b : Bool) : (s.setFull c off b).pcie = s.pcie := rfl
@[simp] theorem State.setFull_powered (c off : Nat) (b : Bool) : (s.setFull c off b).powered = s.powered := rfl

end Sys2Proof.Machine
end

