-- ==== Sys2Proof/Laws/Table.lean ====
section
/-! SUPPORT. The laws of the sparse table: a read after a write of the same key gives the value, and a write leaves every other key
alone. -/

namespace Sys2Proof

variable {α : Type}

theorem Table.findIn_putIn_self (k : Nat) (v : α) (l : List (Nat × α)) : Table.findIn k (Table.putIn k v l) = some v := by
  induction l with
  | nil => simp [Table.putIn, Table.findIn]
  | cons c cs ih =>
    simp only [Table.putIn]
    split
    · simp [Table.findIn]
    · split
      · simp [Table.findIn]
      · simp [Table.findIn, *]

theorem Table.findIn_putIn_other {j k : Nat} (h : j ≠ k) (v : α) (l : List (Nat × α)) :
    Table.findIn j (Table.putIn k v l) = Table.findIn j l := by
  have hk : k ≠ j := fun e => h e.symm
  induction l with
  | nil => simp [Table.putIn, Table.findIn, hk]
  | cons c cs ih =>
    simp only [Table.putIn]
    split
    · rename_i e; subst e; simp [Table.findIn, hk]
    · split
      · simp [Table.findIn, hk]
      · simp [Table.findIn, ih]

@[simp] theorem Table.find_empty (k : Nat) : (Table.empty : Table α).find k = none := rfl
@[simp] theorem Table.get_empty (d : α) (k : Nat) : Table.get d Table.empty k = d := rfl
@[simp] theorem Table.find_set_self (t : Table α) (k : Nat) (v : α) : (t.set k v).find k = some v :=
  Table.findIn_putIn_self k v t.cells
theorem Table.find_set_other (t : Table α) {j k : Nat} (h : j ≠ k) (v : α) : (t.set k v).find j = t.find j :=
  Table.findIn_putIn_other h v t.cells
@[simp] theorem Table.get_set_self (d : α) (t : Table α) (k : Nat) (v : α) : Table.get d (t.set k v) k = v := by
  simp [Table.get]
theorem Table.get_set_other (d : α) (t : Table α) {j k : Nat} (h : j ≠ k) (v : α) : Table.get d (t.set k v) j = Table.get d t j := by
  simp [Table.get, Table.find_set_other t h v]
/-- Both at once: the read of a key after a write of another. -/
theorem Table.get_set (d : α) (t : Table α) (j k : Nat) (v : α) :
    Table.get d (t.set k v) j = if j = k then v else Table.get d t j := by
  by_cases h : j = k
  · subst h; simp
  · simp [h, Table.get_set_other d t h v]

theorem Table.findIn_filter_self (k : Nat) (l : List (Nat × α)) : Table.findIn k (l.filter (fun c => c.1 != k)) = none := by
  induction l with
  | nil => rfl
  | cons c cs ih =>
    by_cases h : c.1 = k
    · simpa [List.filter_cons, h] using ih
    · simpa [List.filter_cons, h, Table.findIn] using ih

theorem Table.findIn_filter_other {j k : Nat} (h : j ≠ k) (l : List (Nat × α)) :
    Table.findIn j (l.filter (fun c => c.1 != k)) = Table.findIn j l := by
  induction l with
  | nil => rfl
  | cons c cs ih =>
    by_cases hc : c.1 = k
    · have hj : c.1 ≠ j := by rw [hc]; exact fun e => h e.symm
      rw [List.filter_cons_of_neg (by simp [hc]), ih]
      simp only [Table.findIn, if_neg hj]
    · rw [List.filter_cons_of_pos (by simp [hc])]
      simp only [Table.findIn, ih]

@[simp] theorem Table.find_erase_self (t : Table α) (k : Nat) : (t.erase k).find k = none := Table.findIn_filter_self k t.cells
theorem Table.find_erase_other (t : Table α) {j k : Nat} (h : j ≠ k) : (t.erase k).find j = t.find j :=
  Table.findIn_filter_other h t.cells

theorem Table.findIn_map (f : Nat → α → α) (k : Nat) (l : List (Nat × α)) :
    Table.findIn k (l.map (fun c => (c.1, f c.1 c.2))) = (Table.findIn k l).map (f k) := by
  induction l with
  | nil => rfl
  | cons c cs ih =>
    by_cases h : c.1 = k
    · simp [Table.findIn, h]
    · simpa [Table.findIn, h] using ih
theorem Table.find_mapAll (t : Table α) (f : Nat → α → α) (k : Nat) : (t.mapAll f).find k = (t.find k).map (f k) :=
  Table.findIn_map f k t.cells

end Sys2Proof
end

