-- ==== Sys2Proof/Laws/Ops.lean ====
section
/-! SUPPORT. What the shared operations do: an S operation whose operands can be taken, the result it puts, the advance. -/

namespace Sys2Proof.Machine

/-! ### The frame of an S operation -/

/-- The effect of a body on the state with the operands taken. -/
def Eff.run (s t : State) : Eff → State
  | .trap code w2 w3 => s.fault code w2 w3
  | .wait w f => (f s).wait w
  | .deliver f code w2 w3 => (f s).fault code w2 w3
  | .ok f => f t

theorem State.queueFault_none {s : State} {srcs : List Reg} {dst : Option Reg} (hi : s.canPop srcs = true) (ho : s.canPush dst = true) :
    s.queueFault (queueDirs srcs ++ queueDirs dst.toList) = none := by
  simp only [State.canPop, State.canPush, List.all_eq_true, Bool.and_eq_true, Option.isSome_iff_ne_none] at hi ho
  unfold State.queueFault
  rw [if_neg, if_neg]
  · simp only [Bool.and_eq_true, List.any_eq_true, not_and, not_exists]
    intro hd d hm
    rcases List.mem_append.1 hm with hm | hm
    · have := (hi d hm).1.1.2
      simp [hd] at this
      simp [this]
    · have := (ho d hm).1.2
      simp [hd] at this
      simp [this]
  · simp only [List.any_eq_true, not_exists, not_and]
    intro d hm
    rcases List.mem_append.1 hm with hm | hm
    · simp [(hi d hm).1.1.1]
    · simp [(ho d hm).1.1]

/-- An operation whose operands can be taken runs its body on the values of its sources. -/
theorem State.runOp_ready {s : State} {srcs : List Reg} {dst : Option Reg} (h : s.ready srcs dst = true) (body : List Word → Eff) :
    s.runOp srcs dst body = (body (srcs.map s.srcVal)).run s (s.taken srcs dst) := by
  simp only [State.ready, Bool.and_eq_true] at h
  obtain ⟨⟨⟨hs, hd⟩, hi⟩, ho⟩ := h
  have hp : (srcs.filterMap (fun r => s.me.pendOf r)).head? = none := by
    have : srcs.filterMap (fun r => s.me.pendOf r) = [] := by
      rw [List.filterMap_eq_nil_iff]
      intro r hr
      simpa using (List.all_eq_true.1 hs) r hr
    rw [this]; rfl
  have hz : (s.dbghz && dst.elim false (fun r => (s.me.pendOf r).isSome)) = false := by
    cases hq : s.dbghz with
    | false => rfl
    | true =>
      rw [hq] at hd
      cases dst with
      | none => rfl
      | some r => simpa using hd
  have hf := State.queueFault_none hi ho
  simp only [State.canPop, State.canPush, List.all_eq_true, Bool.and_eq_true] at hi ho
  have hc : (queueDirs srcs).find? (fun d => (((s.core s.curCore).inq d).head?).elim false (·.ctl)) = none := by
    rw [List.find?_eq_none]
    intro d hm
    have := (hi d hm).1.2
    cases hh : ((s.core s.curCore).inq d).head? with
    | none => simp
    | some e => rw [hh] at this; simpa using this
  have he : ((queueDirs srcs).any (fun d => ((s.core s.curCore).inq d).isEmpty)
      || (queueDirs dst.toList).any (fun d => (s.core s.curCore).credit d == 0)) = false := by
    rw [Bool.or_eq_false_iff, List.any_eq_false, List.any_eq_false]
    constructor
    · intro d hm
      have := (hi d hm).1.2
      cases hh : (s.core s.curCore).inq d with
      | nil => rw [hh] at this; simp at this
      | cons => simp
    · intro d hm
      simpa using (ho d hm).2
  have hb : (queueDirs srcs).any (fun d => s.bad.contains (badQueue s.curCore (dirNum d))) = false := by
    rw [List.any_eq_false]
    intro d hm
    simpa using (hi d hm).2
  unfold State.runOp
  simp only [hp, hz, hf, hc, he, hb, Bool.false_eq_true, if_false]
  cases body (srcs.map s.srcVal) <;> rfl

/-- An operation that puts one value, its operands ready. -/
theorem State.runPut_ready {s : State} {srcs : List Reg} {dst : Reg} (h : s.ready srcs (some dst) = true) (f : List Word → Word) :
    s.runPut srcs dst f = s.result srcs dst (f (srcs.map s.srcVal)) := by
  unfold State.runPut
  rw [State.runOp_ready h]
  rfl

/-- An operation with no sources and no destination is always ready. -/
@[simp] theorem State.ready_nil (s : State) : s.ready [] none = true := by
  simp [State.ready, State.canPop, State.canPush, queueDirs]
@[simp] theorem State.taken_nil (s : State) : s.taken [] none = s := by simp [State.taken, queueDirs]

/-! ### Reading contexts -/

theorem State.ctx_modCtx_self (s : State) (c n : Nat) (f : Ctx → Ctx) : (s.modCtx c n f).ctx c n = f (s.ctx c n) := by
  simp [State.ctx]
theorem State.me_modMe (s : State) (f : Ctx → Ctx) : (s.modMe f).me = f s.me := by
  simp [State.me, State.ctx]
@[simp] theorem State.me_advance (s : State) : s.advance.me =
    { s.me with pc := s.me.pc + BitVec.ofNat 64 s.curLen, src := 0, prodRec := none, since := none, xlat := none, image := none } :=
  State.me_modMe s _
@[simp] theorem State.me_jump (s : State) (t : Word) : (s.jump t).me =
    { s.me with pc := t, src := s.me.pc, prodRec := none, since := none, xlat := none, image := none } :=
  State.me_modMe s _

/-- A change of the acting context leaves the others. -/
theorem State.othersKept_modMe (s : State) (f : Ctx → Ctx) : s.othersKept (s.modMe f) := by
  intro k hk
  simpa only [State.modMe_ctxs, State.meKey] using Table.get_set_other Ctx.idle s.ctxs hk (f s.me)
theorem State.othersKept_refl (s : State) : s.othersKept s := fun _ _ => rfl
theorem State.othersKept_trans {s t u : State} (h : s.othersKept t) (hk : t.meKey = s.meKey) (h' : t.othersKept u) : s.othersKept u := by
  intro k hne
  rw [h' k (by rwa [hk]), h k hne]

/-! ### What taking operands changes: queues, credits and the agenda -/

theorem State.popQ_frame (s : State) (c : Nat) (d : Dir) :
    s.popQ c d = { s with cores := (s.popQ c d).cores, agenda := (s.popQ c d).agenda } := rfl
theorem State.spendQ_frame (s : State) (c : Nat) (d : Dir) : s.spendQ c d = { s with cores := (s.spendQ c d).cores } := rfl

theorem State.foldl_popQ_frame (c : Nat) (ds : List Dir) (s : State) :
    ∃ a b, ds.foldl (fun t d => t.popQ c d) s = { s with cores := a, agenda := b } := by
  induction ds generalizing s with
  | nil => exact ⟨s.cores, s.agenda, rfl⟩
  | cons d ds ih =>
    obtain ⟨a, b, h⟩ := ih (s.popQ c d)
    exact ⟨a, b, by rw [List.foldl_cons, h]; rfl⟩
theorem State.foldl_spendQ_frame (c : Nat) (ds : List Dir) (s : State) :
    ∃ a, ds.foldl (fun t d => t.spendQ c d) s = { s with cores := a } := by
  induction ds generalizing s with
  | nil => exact ⟨s.cores, rfl⟩
  | cons d ds ih =>
    obtain ⟨a, h⟩ := ih (s.spendQ c d)
    exact ⟨a, by rw [List.foldl_cons, h]; rfl⟩
/-- Taking operands changes only the cores' queues and credits and the agenda. -/
theorem State.taken_frame (s : State) (srcs : List Reg) (dst : Option Reg) :
    ∃ a b, s.taken srcs dst = { s with cores := a, agenda := b } := by
  obtain ⟨a, b, h⟩ := State.foldl_popQ_frame s.curCore (queueDirs srcs) s
  obtain ⟨a', h'⟩ := State.foldl_spendQ_frame s.curCore (queueDirs dst.toList) { s with cores := a, agenda := b }
  exact ⟨a', b, by unfold State.taken; rw [h, h']⟩
theorem State.taken_me (s : State) (srcs : List Reg) (dst : Option Reg) : (s.taken srcs dst).me = s.me := by
  obtain ⟨a, b, h⟩ := State.taken_frame s srcs dst
  rw [h]; rfl
@[simp] theorem State.taken_now (s : State) (srcs : List Reg) (dst : Option Reg) : (s.taken srcs dst).now = s.now := by
  obtain ⟨a, b, h⟩ := State.taken_frame s srcs dst; rw [h]
@[simp] theorem State.taken_turn (s : State) (srcs : List Reg) (dst : Option Reg) : (s.taken srcs dst).turn = s.turn := by
  obtain ⟨a, b, h⟩ := State.taken_frame s srcs dst; rw [h]
@[simp] theorem State.taken_inputs (s : State) (srcs : List Reg) (dst : Option Reg) : (s.taken srcs dst).inputs = s.inputs := by
  obtain ⟨a, b, h⟩ := State.taken_frame s srcs dst; rw [h]
@[simp] theorem State.taken_tok (s : State) (srcs : List Reg) (dst : Option Reg) : (s.taken srcs dst).tok = s.tok := by
  obtain ⟨a, b, h⟩ := State.taken_frame s srcs dst; rw [h]
@[simp] theorem State.taken_fresh (s : State) (srcs : List Reg) (dst : Option Reg) : (s.taken srcs dst).fresh = s.fresh := by
  obtain ⟨a, b, h⟩ := State.taken_frame s srcs dst; rw [h]
@[simp] theorem State.taken_curCore (s : State) (srcs : List Reg) (dst : Option Reg) : (s.taken srcs dst).curCore = s.curCore := by
  obtain ⟨a, b, h⟩ := State.taken_frame s srcs dst; rw [h]
@[simp] theorem State.taken_curCtx (s : State) (srcs : List Reg) (dst : Option Reg) : (s.taken srcs dst).curCtx = s.curCtx := by
  obtain ⟨a, b, h⟩ := State.taken_frame s srcs dst; rw [h]
@[simp] theorem State.taken_curLen (s : State) (srcs : List Reg) (dst : Option Reg) : (s.taken srcs dst).curLen = s.curLen := by
  obtain ⟨a, b, h⟩ := State.taken_frame s srcs dst; rw [h]
@[simp] theorem State.taken_curBundle (s : State) (srcs : List Reg) (dst : Option Reg) : (s.taken srcs dst).curBundle = s.curBundle := by
  obtain ⟨a, b, h⟩ := State.taken_frame s srcs dst; rw [h]
@[simp] theorem State.taken_noEffect (s : State) (srcs : List Reg) (dst : Option Reg) : (s.taken srcs dst).noEffect = s.noEffect := by
  obtain ⟨a, b, h⟩ := State.taken_frame s srcs dst; rw [h]
@[simp] theorem State.taken_epi (s : State) (srcs : List Reg) (dst : Option Reg) : (s.taken srcs dst).epi = s.epi := by
  obtain ⟨a, b, h⟩ := State.taken_frame s srcs dst; rw [h]
@[simp] theorem State.taken_mem (s : State) (srcs : List Reg) (dst : Option Reg) : (s.taken srcs dst).mem = s.mem := by
  obtain ⟨a, b, h⟩ := State.taken_frame s srcs dst; rw [h]
@[simp] theorem State.taken_full (s : State) (srcs : List Reg) (dst : Option Reg) : (s.taken srcs dst).full = s.full := by
  obtain ⟨a, b, h⟩ := State.taken_frame s srcs dst; rw [h]
@[simp] theorem State.taken_bad (s : State) (srcs : List Reg) (dst : Option Reg) : (s.taken srcs dst).bad = s.bad := by
  obtain ⟨a, b, h⟩ := State.taken_frame s srcs dst; rw [h]
@[simp] theorem State.taken_ctxs (s : State) (srcs : List Reg) (dst : Option Reg) : (s.taken srcs dst).ctxs = s.ctxs := by
  obtain ⟨a, b, h⟩ := State.taken_frame s srcs dst; rw [h]
@[simp] theorem State.taken_clusters (s : State) (srcs : List Reg) (dst : Option Reg) : (s.taken srcs dst).clusters = s.clusters := by
  obtain ⟨a, b, h⟩ := State.taken_frame s srcs dst; rw [h]
@[simp] theorem State.taken_stewards (s : State) (srcs : List Reg) (dst : Option Reg) : (s.taken srcs dst).stewards = s.stewards := by
  obtain ⟨a, b, h⟩ := State.taken_frame s srcs dst; rw [h]
@[simp] theorem State.taken_stewardStopped (s : State) (srcs : List Reg) (dst : Option Reg) : (s.taken srcs dst).stewardStopped = s.stewardStopped := by
  obtain ⟨a, b, h⟩ := State.taken_frame s srcs dst; rw [h]
@[simp] theorem State.taken_routers (s : State) (srcs : List Reg) (dst : Option Reg) : (s.taken srcs dst).routers = s.routers := by
  obtain ⟨a, b, h⟩ := State.taken_frame s srcs dst; rw [h]
@[simp] theorem State.taken_engines (s : State) (srcs : List Reg) (dst : Option Reg) : (s.taken srcs dst).engines = s.engines := by
  obtain ⟨a, b, h⟩ := State.taken_frame s srcs dst; rw [h]
@[simp] theorem State.taken_dies (s : State) (srcs : List Reg) (dst : Option Reg) : (s.taken srcs dst).dies = s.dies := by
  obtain ⟨a, b, h⟩ := State.taken_frame s srcs dst; rw [h]
@[simp] theorem State.taken_chans (s : State) (srcs : List Reg) (dst : Option Reg) : (s.taken srcs dst).chans = s.chans := by
  obtain ⟨a, b, h⟩ := State.taken_frame s srcs dst; rw [h]
@[simp] theorem State.taken_holds (s : State) (srcs : List Reg) (dst : Option Reg) : (s.taken srcs dst).holds = s.holds := by
  obtain ⟨a, b, h⟩ := State.taken_frame s srcs dst; rw [h]
@[simp] theorem State.taken_svcq (s : State) (srcs : List Reg) (dst : Option Reg) : (s.taken srcs dst).svcq = s.svcq := by
  obtain ⟨a, b, h⟩ := State.taken_frame s srcs dst; rw [h]
@[simp] theorem State.taken_svcHeld (s : State) (srcs : List Reg) (dst : Option Reg) : (s.taken srcs dst).svcHeld = s.svcHeld := by
  obtain ⟨a, b, h⟩ := State.taken_frame s srcs dst; rw [h]
@[simp] theorem State.taken_flogReports (s : State) (srcs : List Reg) (dst : Option Reg) : (s.taken srcs dst).flogReports = s.flogReports := by
  obtain ⟨a, b, h⟩ := State.taken_frame s srcs dst; rw [h]
@[simp] theorem State.taken_teams (s : State) (srcs : List Reg) (dst : Option Reg) : (s.taken srcs dst).teams = s.teams := by
  obtain ⟨a, b, h⟩ := State.taken_frame s srcs dst; rw [h]
@[simp] theorem State.taken_slots (s : State) (srcs : List Reg) (dst : Option Reg) : (s.taken srcs dst).slots = s.slots := by
  obtain ⟨a, b, h⟩ := State.taken_frame s srcs dst; rw [h]
@[simp] theorem State.taken_switch (s : State) (srcs : List Reg) (dst : Option Reg) : (s.taken srcs dst).switch = s.switch := by
  obtain ⟨a, b, h⟩ := State.taken_frame s srcs dst; rw [h]
@[simp] theorem State.taken_dbghz (s : State) (srcs : List Reg) (dst : Option Reg) : (s.taken srcs dst).dbghz = s.dbghz := by
  obtain ⟨a, b, h⟩ := State.taken_frame s srcs dst; rw [h]
@[simp] theorem State.taken_evictwait (s : State) (srcs : List Reg) (dst : Option Reg) : (s.taken srcs dst).evictwait = s.evictwait := by
  obtain ⟨a, b, h⟩ := State.taken_frame s srcs dst; rw [h]
@[simp] theorem State.taken_preemptwait (s : State) (srcs : List Reg) (dst : Option Reg) : (s.taken srcs dst).preemptwait = s.preemptwait := by
  obtain ⟨a, b, h⟩ := State.taken_frame s srcs dst; rw [h]
@[simp] theorem State.taken_escwait (s : State) (srcs : List Reg) (dst : Option Reg) : (s.taken srcs dst).escwait = s.escwait := by
  obtain ⟨a, b, h⟩ := State.taken_frame s srcs dst; rw [h]
@[simp] theorem State.taken_spanin (s : State) (srcs : List Reg) (dst : Option Reg) : (s.taken srcs dst).spanin = s.spanin := by
  obtain ⟨a, b, h⟩ := State.taken_frame s srcs dst; rw [h]
@[simp] theorem State.taken_harvest (s : State) (srcs : List Reg) (dst : Option Reg) : (s.taken srcs dst).harvest = s.harvest := by
  obtain ⟨a, b, h⟩ := State.taken_frame s srcs dst; rw [h]
@[simp] theorem State.taken_spanEn (s : State) (srcs : List Reg) (dst : Option Reg) : (s.taken srcs dst).spanEn = s.spanEn := by
  obtain ⟨a, b, h⟩ := State.taken_frame s srcs dst; rw [h]
@[simp] theorem State.taken_portEn (s : State) (srcs : List Reg) (dst : Option Reg) : (s.taken srcs dst).portEn = s.portEn := by
  obtain ⟨a, b, h⟩ := State.taken_frame s srcs dst; rw [h]
@[simp] theorem State.taken_mailbox (s : State) (srcs : List Reg) (dst : Option Reg) : (s.taken srcs dst).mailbox = s.mailbox := by
  obtain ⟨a, b, h⟩ := State.taken_frame s srcs dst; rw [h]
@[simp] theorem State.taken_boot (s : State) (srcs : List Reg) (dst : Option Reg) : (s.taken srcs dst).boot = s.boot := by
  obtain ⟨a, b, h⟩ := State.taken_frame s srcs dst; rw [h]
@[simp] theorem State.taken_flash (s : State) (srcs : List Reg) (dst : Option Reg) : (s.taken srcs dst).flash = s.flash := by
  obtain ⟨a, b, h⟩ := State.taken_frame s srcs dst; rw [h]
@[simp] theorem State.taken_flashBuf (s : State) (srcs : List Reg) (dst : Option Reg) : (s.taken srcs dst).flashBuf = s.flashBuf := by
  obtain ⟨a, b, h⟩ := State.taken_frame s srcs dst; rw [h]
@[simp] theorem State.taken_images (s : State) (srcs : List Reg) (dst : Option Reg) : (s.taken srcs dst).images = s.images := by
  obtain ⟨a, b, h⟩ := State.taken_frame s srcs dst; rw [h]
@[simp] theorem State.taken_measures (s : State) (srcs : List Reg) (dst : Option Reg) : (s.taken srcs dst).measures = s.measures := by
  obtain ⟨a, b, h⟩ := State.taken_frame s srcs dst; rw [h]
@[simp] theorem State.taken_training (s : State) (srcs : List Reg) (dst : Option Reg) : (s.taken srcs dst).training = s.training := by
  obtain ⟨a, b, h⟩ := State.taken_frame s srcs dst; rw [h]
@[simp] theorem State.taken_hostRead (s : State) (srcs : List Reg) (dst : Option Reg) : (s.taken srcs dst).hostRead = s.hostRead := by
  obtain ⟨a, b, h⟩ := State.taken_frame s srcs dst; rw [h]
@[simp] theorem State.taken_pcie (s : State) (srcs : List Reg) (dst : Option Reg) : (s.taken srcs dst).pcie = s.pcie := by
  obtain ⟨a, b, h⟩ := State.taken_frame s srcs dst; rw [h]
@[simp] theorem State.taken_powered (s : State) (srcs : List Reg) (dst : Option Reg) : (s.taken srcs dst).powered = s.powered := by
  obtain ⟨a, b, h⟩ := State.taken_frame s srcs dst; rw [h]

/-! ### An operation that took effect -/

theorem State.haltTeam_noEffect (s : State) (c n : Nat) (code : FCode) (w1 w2 w3 : Word) :
    (s.haltTeam c n code w1 w2 w3).noEffect = s.noEffect := by
  unfold State.haltTeam
  split
  · rfl
  · split
    · rfl
    · simp only
      have h : ∀ (l : List Nat) (u : State),
          (l.foldl (fun (s : State) l => s.modEng l (fun e => { e with stopping := true })) u).noEffect = u.noEffect := by
        intro l
        induction l with
        | nil => intro u; rfl
        | cons a l ih => intro u; rw [List.foldl_cons, ih]; rfl
      rw [h]; simp
/-- A trap leaves the bundle without effect. -/
theorem State.trap_noEffect (s : State) (c n : Nat) (code : FCode) (w1 w2 w3 : Word) : (s.trap c n code w1 w2 w3).noEffect = true := by
  unfold State.trap
  simp only
  split
  · rw [State.haltTeam_noEffect]
  · split
    · rw [State.haltTeam_noEffect]
    · split
      · rw [State.haltTeam_noEffect]
      · split <;> simp
theorem State.fault_noEffect (s : State) (code : FCode) (w2 w3 : Word) : (s.fault code w2 w3).noEffect = true :=
  State.trap_noEffect ..
/-- So does a condition park. -/
theorem State.wait_noEffect (s : State) (w : Wait) : (s.wait w).noEffect = true := by simp [State.wait]
/-- So does a light-handler call. -/
theorem State.lightCall_noEffect (s : State) (c n : Nat) (d : Dir) (h : (s.core c).inq d ≠ []) : (s.lightCall c n d).noEffect = true := by
  unfold State.lightCall
  simp only
  split
  · contradiction
  · split
    · exact State.trap_noEffect ..
    · split
      · exact State.trap_noEffect ..
      · split
        · simp
        · split <;> simp [State.popQ]

/-- If an operation ends with an effect taken, its body gave that effect, on the state with the operands taken. -/
theorem State.runOp_effect {s : State} {srcs : List Reg} {dst : Option Reg} {body : List Word → Eff}
    (h : (s.runOp srcs dst body).noEffect = false) :
    ∃ f, body (srcs.map s.srcVal) = .ok f ∧ s.runOp srcs dst body = f (s.taken srcs dst) := by
  unfold State.runOp at h ⊢
  simp only at h ⊢
  cases hp : (srcs.filterMap (fun r => s.me.pendOf r)).head? with
  | some p =>
    rw [hp] at h
    simp only at h
    split at h
    · rw [State.fault_noEffect] at h; cases h
    · rw [State.wait_noEffect] at h; cases h
  | none =>
    rw [hp] at h
    simp only at h ⊢
    by_cases hz : (s.dbghz && dst.elim false (fun r => (s.me.pendOf r).isSome)) = true
    · rw [if_pos hz, State.fault_noEffect] at h; cases h
    rw [if_neg hz] at h ⊢
    cases hf : s.queueFault (queueDirs srcs ++ queueDirs dst.toList) with
    | some q => rw [hf] at h; simp only at h; rw [State.fault_noEffect] at h; cases h
    | none =>
      rw [hf] at h
      simp only at h ⊢
      cases hc : (queueDirs srcs).find? (fun d => (((s.core s.curCore).inq d).head?).elim false (·.ctl)) with
      | some d =>
        rw [hc] at h
        simp only at h
        have := List.find?_some hc
        rw [State.lightCall_noEffect] at h
        · cases h
        · intro hn; rw [hn] at this; simp at this
      | none =>
        rw [hc] at h
        simp only at h ⊢
        by_cases he : ((queueDirs srcs).any (fun d => ((s.core s.curCore).inq d).isEmpty)
            || (queueDirs dst.toList).any (fun d => (s.core s.curCore).credit d == 0)) = true
        · rw [if_pos he, State.wait_noEffect] at h; cases h
        rw [if_neg he] at h ⊢
        by_cases hb : (queueDirs srcs).any (fun d => s.bad.contains (badQueue s.curCore (dirNum d))) = true
        · rw [if_pos hb, State.fault_noEffect] at h; cases h
        rw [if_neg hb] at h ⊢
        cases hk : body (srcs.map s.srcVal) with
        | ok f => exact ⟨f, rfl, rfl⟩
        | trap => rw [hk] at h; simp only at h; rw [State.fault_noEffect] at h; cases h
        | wait => rw [hk] at h; simp only at h; rw [State.wait_noEffect] at h; cases h
        | deliver => rw [hk] at h; simp only at h; rw [State.fault_noEffect] at h; cases h

end Sys2Proof.Machine
end

