-- ==== Sys2Proof/Laws/PerInstr.lean ====
section
/-! SUPPORT. The family `Coding`: decoding the encoding of one instruction gives it back, instruction by instruction. -/

set_option linter.unusedSimpArgs false
set_option linter.unusedVariables false

namespace Sys2Proof

theorem Reg.ofCode_code (r : Reg) : Reg.ofCode r.code = some r := by
  cases r with
  | w k => revert k; decide
  | g k => revert k; decide
  | o k => revert k; decide
  | l k => revert k; decide
  | i k => revert k; decide
  | q d => cases d <;> rfl
  | _ => rfl
theorem Reg.code_lt (r : Reg) : r.code < 64 := by
  cases r with
  | w k => exact Nat.lt_trans k.isLt (by decide)
  | g k => revert k; decide
  | o k => revert k; decide
  | l k => revert k; decide
  | i k => revert k; decide
  | q d => cases d <;> decide
  | _ => decide
/-- A specifier its field allows decodes to its register. -/
theorem decReg_code {p : Reg → Bool} (pos : Nat) {r : Reg} (h : p r = true) : decReg false p pos r.code = .ok r := by
  simp [decReg, Reg.ofCode_code, h]

/-! ### Steps of the decoder -/

theorem decodeS_slot {st : Bool} {r : SRaw} {i : Instr} (h : decodeSlot st r = .ok i) : decodeS st r = .ok i := by simp [decodeS, h]
theorem decodeS_A {r : SRaw} {i : Instr} (hr : r.op < 0x38) (h : decodeA false r = .ok (some i)) : decodeS false r = .ok i := by
  apply decodeS_slot
  unfold decodeSlot
  rw [if_neg (by omega), if_neg (by simp)]
  split <;> first | omega | simp [h, bind, Except.bind, pure, Except.pure]
theorem decodeS_X {r : SRaw} {i : Instr} (hr : r.op < 0x38) (ha : decodeA false r = .ok none) (h : decodeX false r = .ok (some i)) :
    decodeS false r = .ok i := by
  apply decodeS_slot
  unfold decodeSlot
  rw [if_neg (by omega), if_neg (by simp)]
  split <;> first | omega | simp [ha, h, bind, Except.bind, pure, Except.pure]
theorem decodeS_M {r : SRaw} {i : Instr} (hr : r.op < 0x38) (ha : decodeA false r = .ok none) (hx : decodeX false r = .ok none)
    (h : decodeM false r = .ok (some i)) : decodeS false r = .ok i := by
  apply decodeS_slot
  unfold decodeSlot
  rw [if_neg (by omega), if_neg (by simp)]
  split <;> first | omega | simp [ha, hx, h, bind, Except.bind, pure, Except.pure]

theorem dec_bind {α β : Type} (a : α) (f : α → Dec β) : (Except.ok a >>= f : Dec β) = f a := rfl
theorem dec_pure {α : Type} (a : α) : (pure a : Dec α) = .ok a := rfl
theorem zeroS_cons {pos v : Nat} (h : v = 0) (fs : List (Nat × Nat)) : zeroS ((pos, v) :: fs) = zeroS fs := by simp [zeroS, h]
theorem zeroS_nil : zeroS [] = .ok () := rfl
theorem zeroV_cons {pos v : Nat} (h : v = 0) (fs : List (Nat × Nat)) : zeroV ((pos, v) :: fs) = zeroV fs := by simp [zeroV, h]
theorem zeroV_nil : zeroV [] = .ok () := rfl
theorem need_ok {c : Bool} (h : c = true) (a b d : Nat) : need c a b d = .ok () := by simp [need, h]
theorem Ty.ofCode_code (t : Ty) : Ty.ofCode t.code = some t := by cases t <;> rfl
theorem Ty.code_lt (t : Ty) : t.code < 13 := by cases t <;> decide

theorem ofNat_toNat {w : Nat} (v : BitVec w) {x : Nat} (h : x = v.toNat) : BitVec.ofNat w x = v := by simp [h]
theorem finOfNat_val {w : Nat} [NeZero w] (k : Fin w) {x : Nat} (h : x = k.val) : Fin.ofNat w x = k := by
  apply Fin.ext; simp [h, Fin.ofNat, Nat.mod_eq_of_lt k.isLt]

/-- An operation may have, or go without, its extension. -/
def extMay (r : ExtRule) (h : Bool) : Bool :=
  match r with
  | .needs => h
  | .never => !h
  | .opt => true

/-- Class A operands. -/
theorem decAlu_enc {x : AluOps} (hx : x.wf = true) (op f21 : Nat) (hf : f21 < 4) {l : List Nat} (hl : l.contains f21 = true) (pos : Nat)
    {h : Bool} (he : extMay x.b.extRule h = true) : decAlu false ((encAlu op f21 x).raw h) l pos = .ok x := by
  obtain ⟨w, dst, a, b⟩ := x
  simp only [AluOps.wf, Bool.and_eq_true] at hx
  obtain ⟨⟨h1, h2⟩, h3⟩ := hx
  have f1 : ∀ k, k < 4 → ∀ u < 2, fld (8 * k + 2 * f21 + u) 2 1 = f21 := by intro k hk u hu; simp [fld]; omega
  have f2 : ∀ k, k < 2 → ∀ u < 2, fld (8 * k + 2 * f21 + u) 3 3 = k := by intro k hk u hu; simp [fld]; omega
  have f3 : ∀ k, k < 4 → ∀ u < 2, fld (8 * k + 2 * f21 + u) 0 0 = u := by intro k hk u hu; simp [fld]; omega
  have hb : ∀ c : Bool, c.toNat < 2 := by decide
  have hc : ∀ c : Bool, (c.toNat == 1) = c := by decide
  cases b with
  | reg r =>
    have g : (encAlu op f21 ⟨w, dst, a, .reg r⟩).raw h = ⟨op, dst.code, a.code, r.code, 8 * 0 + 2 * f21 + w.toNat, if h then some 0 else none⟩ := rfl
    have gx : (if h then some 0 else none : Option Nat).getD 0 = 0 := by cases h <;> rfl
    have h3 : r.isSrc = true := h3
    simp only [g, decAlu, SRaw.x, gx, decReg_code _ h1, decReg_code _ h2, decReg_code _ h3, dec_bind, f1 0 (by omega) _ (hb w),
      f2 0 (by omega) _ (hb w), f3 0 (by omega) _ (hb w), if_true, need_ok hl, zeroS_cons, zeroS_nil, hc, dec_pure]
  | s6 v =>
    cases h with
    | true => simp [Src2.extRule, extMay] at he
    | false =>
      have g : (encAlu op f21 ⟨w, dst, a, .s6 v⟩).raw false = ⟨op, dst.code, a.code, v.toNat, 8 * 1 + 2 * f21 + w.toNat, none⟩ := rfl
      simp only [g, decAlu, decReg_code _ h1, decReg_code _ h2, dec_bind, f1 1 (by omega) _ (hb w),
        f2 1 (by omega) _ (hb w), f3 1 (by omega) _ (hb w), if_neg (by decide : ¬ (1 : Nat) = 0), need_ok hl, hc, dec_pure, BitVec.ofNat_toNat, BitVec.setWidth_eq]
  | i32 v =>
    cases h with
    | false => simp [Src2.extRule, extMay] at he
    | true =>
      have g : (encAlu op f21 ⟨w, dst, a, .i32 v⟩).raw true = ⟨op, dst.code, a.code, 0, 8 * 1 + 2 * f21 + w.toNat, some v.toNat⟩ := rfl
      simp only [g, decAlu, decReg_code _ h1, decReg_code _ h2, dec_bind, f1 1 (by omega) _ (hb w),
        f2 1 (by omega) _ (hb w), f3 1 (by omega) _ (hb w), if_neg (by decide : ¬ (1 : Nat) = 0), need_ok hl, zeroS_cons, zeroS_nil, hc,
        dec_pure, BitVec.ofNat_toNat, BitVec.setWidth_eq]

/-- One-source operands. -/
theorem decUn_enc {x : UnOps} (hx : x.wf = true) (op : Nat) {h : Bool} (he : extMay x.src.extRule h = true) : decUn false ((encUn op x).raw h) = .ok x := by
  obtain ⟨w, dst, b⟩ := x
  simp only [UnOps.wf, Bool.and_eq_true] at hx
  obtain ⟨h1, h3⟩ := hx
  have hc : ∀ c : Bool, (fld c.toNat 0 0 == 1) = c ∧ fld c.toNat 3 3 = 0 ∧ fld c.toNat 2 1 = 0 ∧ (fld (8 + c.toNat) 0 0 == 1) = c
    ∧ fld (8 + c.toNat) 3 3 = 1 ∧ fld (8 + c.toNat) 2 1 = 0 := by decide
  obtain ⟨c1, c2, c3, c4, c5, c6⟩ := hc w
  cases b with
  | reg r =>
    have g : (encUn op ⟨w, dst, .reg r⟩).raw h = ⟨op, dst.code, r.code, 0, w.toNat, if h then some 0 else none⟩ := rfl
    have gx : (if h then some 0 else none : Option Nat).getD 0 = 0 := by cases h <;> rfl
    have h3 : r.isSrc = true := h3
    simp only [g, decUn, SRaw.x, gx, decReg_code _ h1, decReg_code _ h3, dec_bind, c1, c2, c3, if_true, zeroS_cons, zeroS_nil, dec_pure]
  | s6 v =>
    cases h with
    | true => simp [Src2.extRule, extMay] at he
    | false =>
      have g : (encUn op ⟨w, dst, .s6 v⟩).raw false = ⟨op, dst.code, 0, v.toNat, 8 + w.toNat, none⟩ := rfl
      simp only [g, decUn, decReg_code _ h1, dec_bind, c4, c5, c6, if_neg (by decide : ¬ (1 : Nat) = 0), zeroS_cons, zeroS_nil, dec_pure,
        BitVec.ofNat_toNat, BitVec.setWidth_eq]
  | i32 v =>
    cases h with
    | false => simp [Src2.extRule, extMay] at he
    | true =>
      have g : (encUn op ⟨w, dst, .i32 v⟩).raw true = ⟨op, dst.code, 0, 0, 8 + w.toNat, some v.toNat⟩ := rfl
      simp only [g, decUn, decReg_code _ h1, dec_bind, c4, c5, c6, if_neg (by decide : ¬ (1 : Nat) = 0), zeroS_cons, zeroS_nil, dec_pure,
        BitVec.ofNat_toNat, BitVec.setWidth_eq]

end Sys2Proof

namespace Sys2Proof.Laws.Coding

/-- The fields of an encoding are as wide as the places they go to. -/
def SFits (e : SEnc) : Prop := e.op < 64 ∧ e.dst < 64 ∧ e.a < 64 ∧ e.b < 64 ∧ e.func < 16 ∧ e.x < 2 ^ 32
def VFits (e : VRaw) (x : Nat) : Prop :=
  e.op < 64 ∧ e.vd < 16 ∧ e.va < 16 ∧ e.vb < 16 ∧ e.ty < 16 ∧ e.mask < 8 ∧ e.vf < 8 ∧ x < 2 ^ 32
/-- An extension the operation takes, or none where it may go without. -/
def extOk (r : ExtRule) (disp : BitVec 32) (h : Bool) : Bool :=
  match r with
  | .needs => h
  | .never => !h
  | .opt => h || disp == 0

/-- An encodable S or V operation, or epilogue operation, decodes from its encoding to itself, and the encoding fits its fields. -/
def Statement (i : Instr) : Prop :=
  (i.wfS = true → SFits (encS i) ∧ ∀ h, extOk i.extRule i.optDisp h = true → decodeS false ((encS i).raw h) = .ok i)
  ∧ (i.wfV = true → VFits (encV i) i.vExt ∧ ∀ pos, decodeV { encV i with x := i.vExt, xpos := pos } = .ok i)
  ∧ (i.wfE = true → encodeEpi i < 2 ^ 32 ∧ decodeEpi (encodeEpi i) = some i)

end Sys2Proof.Laws.Coding

namespace Sys2Proof

theorem finOfNat_self {n : Nat} [NeZero n] (k : Fin n) : Fin.ofNat n k.val = k := by
  apply Fin.ext; simp [Fin.ofNat, Nat.mod_eq_of_lt k.isLt]
theorem boolNat (b : Bool) : (b.toNat == 1) = b := by cases b <;> rfl
theorem fld_zero (hi lo : Nat) : fld 0 hi lo = 0 := by simp [fld]
theorem Dir.code_lt (d : Dir) : d.code < 4 := by cases d <;> decide
theorem Rm.code_lt (d : Rm) : d.code < 4 := by cases d <;> decide
theorem Cond.code_lt (d : Cond) : d.code < 6 := by cases d <;> decide
theorem RedOp.code_lt (d : RedOp) : d.code < 16 := by cases d <;> decide
theorem RstKind.code_lt (d : RstKind) : d.code < 8 := by cases d <;> decide
theorem Scope.code_lt (d : Scope) : d.code < 4 := by cases d <;> decide
theorem FenceKind.code_lt (d : FenceKind) : d.code < 3 := by cases d <;> decide
theorem LkCond.code_lt (d : LkCond) : d.code < 4 := by cases d <;> decide
theorem RedKind.code_lt (d : RedKind) : d.code < 3 := by cases d <;> decide
theorem Dir.ofCode_code (d : Dir) : Dir.ofCode d.code = d := by cases d <;> rfl
theorem Rm.ofCode_code (d : Rm) : Rm.ofCode d.code = d := by cases d <;> rfl
theorem Cond.ofCode_code (d : Cond) : Cond.ofCode d.code = some d := by cases d <;> rfl
theorem RedOp.ofCode_code (d : RedOp) : RedOp.ofCode d.code = d := by cases d <;> rfl
theorem RstKind.ofCode_code (d : RstKind) : RstKind.ofCode d.code = d := by cases d <;> rfl
theorem Scope.ofCode_code (d : Scope) : Scope.ofCode d.code = d := by cases d <;> rfl
theorem LkCond.ofCode_code (d : LkCond) : LkCond.ofCode d.code = some d := by cases d <;> rfl
theorem RedKind.ofCode_code (d : RedKind) : RedKind.ofCode d.code = some d := by cases d <;> rfl

theorem decodeSlot_Sync {r : SRaw} (h : r.op = 0x38) : decodeSlot false r = decodeSync false r := by
  obtain ⟨op, dst, a, b, func, x⟩ := r
  subst h
  rfl
theorem decodeSlot_Copy {r : SRaw} (h : r.op = 0x39) : decodeSlot false r = decodeCopy false r := by
  obtain ⟨op, dst, a, b, func, x⟩ := r
  subst h
  rfl
theorem decodeSlot_Link {r : SRaw} (h : r.op = 0x3A) : decodeSlot false r = decodeLink false r := by
  obtain ⟨op, dst, a, b, func, x⟩ := r
  subst h
  rfl
theorem decodeSlot_Queue {r : SRaw} (h : r.op = 0x3B) : decodeSlot false r = decodeQueue false r := by
  obtain ⟨op, dst, a, b, func, x⟩ := r
  subst h
  rfl
theorem decodeSlot_Sys {r : SRaw} (h : r.op = 0x3C) : decodeSlot false r = decodeSys false r := by
  obtain ⟨op, dst, a, b, func, x⟩ := r
  subst h
  rfl

end Sys2Proof

namespace Sys2Proof.Laws.Coding

theorem extOk_src {r : ExtRule} {disp : BitVec 32} {h : Bool} (he : extOk r disp h = true) : extMay r h = true := by cases r <;> first | rfl | exact he

theorem encAlu_fits {x : AluOps} (_hx : x.wf = true) {op f : Nat} (ho : op < 64) (hf : f < 4) : SFits (encAlu op f x) := by
  obtain ⟨w, dst, a, b⟩ := x
  have h1 := Reg.code_lt dst
  have h2 := Reg.code_lt a
  have h3 := Bool.toNat_lt w
  cases b with
  | reg r => have := Reg.code_lt r; refine ⟨ho, h1, h2, this, ?_, ?_⟩ <;> simp only [encAlu, Src2.imm, Src2.code] <;> omega
  | s6 v => have := v.isLt; refine ⟨ho, h1, h2, this, ?_, ?_⟩ <;> simp only [encAlu, Src2.imm, Src2.code] <;> omega
  | i32 v => have := v.isLt; refine ⟨ho, h1, h2, ?_, ?_, ?_⟩ <;> simp only [encAlu, Src2.imm, Src2.code] <;> omega
theorem encUn_op (op : Nat) (x : UnOps) : (encUn op x).op = op := by
  unfold encUn; split <;> rfl
theorem encUn_fits {x : UnOps} (_hx : x.wf = true) {op : Nat} (ho : op < 64) : SFits (encUn op x) := by
  obtain ⟨w, dst, b⟩ := x
  have h1 := Reg.code_lt dst
  have h3 := Bool.toNat_lt w
  cases b with
  | reg r => have := Reg.code_lt r; refine ⟨ho, h1, this, ?_, ?_, ?_⟩ <;> simp only [encUn] <;> omega
  | s6 v => have := v.isLt; refine ⟨ho, h1, ?_, this, ?_, ?_⟩ <;> simp only [encUn] <;> omega
  | i32 v => have := v.isLt; refine ⟨ho, h1, ?_, ?_, ?_, ?_⟩ <;> simp only [encUn] <;> omega
theorem encAlu_func {op : Nat} (x : AluOps) (f : Nat) (hf : f < 4) {h : Bool} : fld ((encAlu op f x).raw h).func 2 1 = f := by
  obtain ⟨w, dst, a, b⟩ := x
  have h3 := Bool.toNat_lt w
  cases b <;> simp only [encAlu, SEnc.raw, Src2.imm, fld, Nat.reduceAdd, Nat.reduceSub, Nat.reducePow] <;> omega
theorem encAlu_func1 {op : Nat} (x : AluOps) (u : Bool) {h : Bool} : (fld ((encAlu op u.toNat x).raw h).func 1 1 == 1) = u := by
  obtain ⟨w, dst, a, b⟩ := x
  cases b <;> cases u <;> cases w <;> simp [encAlu, SEnc.raw, Src2.imm, fld]

theorem add (x : AluOps) : Statement (.add x) := by
  refine ⟨fun hw => ?_, fun hw => absurd hw Bool.false_ne_true, fun hw => absurd hw Bool.false_ne_true⟩
  have hw : x.wf = true := hw
  refine ⟨encAlu_fits hw (by decide) (by decide), fun h he => decodeS_A (by show 0x01 < 0x38; decide) ?_⟩
  replace he : extMay x.b.extRule h = true := extOk_src he
  show (decAlu false ((encAlu 0x01 0 x).raw h) [0] >>= fun y => .ok (some (.add y)) : Dec (Option Instr)) = _
  rw [decAlu_enc hw 0x01 0 (by decide) (by decide) _ he]; rfl

theorem sub (x : AluOps) : Statement (.sub x) := by
  refine ⟨fun hw => ?_, fun hw => absurd hw Bool.false_ne_true, fun hw => absurd hw Bool.false_ne_true⟩
  have hw : x.wf = true := hw
  refine ⟨encAlu_fits hw (by decide) (by decide), fun h he => decodeS_A (by show 0x02 < 0x38; decide) ?_⟩
  replace he : extMay x.b.extRule h = true := extOk_src he
  show (decAlu false ((encAlu 0x02 0 x).raw h) [0] >>= fun y => .ok (some (.sub y)) : Dec (Option Instr)) = _
  rw [decAlu_enc hw 0x02 0 (by decide) (by decide) _ he]; rfl

theorem mul (x : AluOps) : Statement (.mul x) := by
  refine ⟨fun hw => ?_, fun hw => absurd hw Bool.false_ne_true, fun hw => absurd hw Bool.false_ne_true⟩
  have hw : x.wf = true := hw
  refine ⟨encAlu_fits hw (by decide) (by decide), fun h he => decodeS_A (by show 0x03 < 0x38; decide) ?_⟩
  replace he : extMay x.b.extRule h = true := extOk_src he
  show (decAlu false ((encAlu 0x03 0 x).raw h) [0] >>= fun y => .ok (some (.mul y)) : Dec (Option Instr)) = _
  rw [decAlu_enc hw 0x03 0 (by decide) (by decide) _ he]; rfl

theorem and (x : AluOps) : Statement (.and x) := by
  refine ⟨fun hw => ?_, fun hw => absurd hw Bool.false_ne_true, fun hw => absurd hw Bool.false_ne_true⟩
  have hw : x.wf = true := hw
  refine ⟨encAlu_fits hw (by decide) (by decide), fun h he => decodeS_A (by show 0x07 < 0x38; decide) ?_⟩
  replace he : extMay x.b.extRule h = true := extOk_src he
  show (decAlu false ((encAlu 0x07 0 x).raw h) [0] >>= fun y => .ok (some (.and y)) : Dec (Option Instr)) = _
  rw [decAlu_enc hw 0x07 0 (by decide) (by decide) _ he]; rfl

theorem or (x : AluOps) : Statement (.or x) := by
  refine ⟨fun hw => ?_, fun hw => absurd hw Bool.false_ne_true, fun hw => absurd hw Bool.false_ne_true⟩
  have hw : x.wf = true := hw
  refine ⟨encAlu_fits hw (by decide) (by decide), fun h he => decodeS_A (by show 0x08 < 0x38; decide) ?_⟩
  replace he : extMay x.b.extRule h = true := extOk_src he
  show (decAlu false ((encAlu 0x08 0 x).raw h) [0] >>= fun y => .ok (some (.or y)) : Dec (Option Instr)) = _
  rw [decAlu_enc hw 0x08 0 (by decide) (by decide) _ he]; rfl

theorem xor (x : AluOps) : Statement (.xor x) := by
  refine ⟨fun hw => ?_, fun hw => absurd hw Bool.false_ne_true, fun hw => absurd hw Bool.false_ne_true⟩
  have hw : x.wf = true := hw
  refine ⟨encAlu_fits hw (by decide) (by decide), fun h he => decodeS_A (by show 0x09 < 0x38; decide) ?_⟩
  replace he : extMay x.b.extRule h = true := extOk_src he
  show (decAlu false ((encAlu 0x09 0 x).raw h) [0] >>= fun y => .ok (some (.xor y)) : Dec (Option Instr)) = _
  rw [decAlu_enc hw 0x09 0 (by decide) (by decide) _ he]; rfl

theorem shl (x : AluOps) : Statement (.shl x) := by
  refine ⟨fun hw => ?_, fun hw => absurd hw Bool.false_ne_true, fun hw => absurd hw Bool.false_ne_true⟩
  have hw : x.wf = true := hw
  refine ⟨encAlu_fits hw (by decide) (by decide), fun h he => decodeS_A (by show 0x0B < 0x38; decide) ?_⟩
  replace he : extMay x.b.extRule h = true := extOk_src he
  show (decAlu false ((encAlu 0x0B 0 x).raw h) [0] >>= fun y => .ok (some (.shl y)) : Dec (Option Instr)) = _
  rw [decAlu_enc hw 0x0B 0 (by decide) (by decide) _ he]; rfl

theorem shr (x : AluOps) : Statement (.shr x) := by
  refine ⟨fun hw => ?_, fun hw => absurd hw Bool.false_ne_true, fun hw => absurd hw Bool.false_ne_true⟩
  have hw : x.wf = true := hw
  refine ⟨encAlu_fits hw (by decide) (by decide), fun h he => decodeS_A (by show 0x0C < 0x38; decide) ?_⟩
  replace he : extMay x.b.extRule h = true := extOk_src he
  show (decAlu false ((encAlu 0x0C 0 x).raw h) [0] >>= fun y => .ok (some (.shr y)) : Dec (Option Instr)) = _
  rw [decAlu_enc hw 0x0C 0 (by decide) (by decide) _ he]; rfl

theorem sra (x : AluOps) : Statement (.sra x) := by
  refine ⟨fun hw => ?_, fun hw => absurd hw Bool.false_ne_true, fun hw => absurd hw Bool.false_ne_true⟩
  have hw : x.wf = true := hw
  refine ⟨encAlu_fits hw (by decide) (by decide), fun h he => decodeS_A (by show 0x0D < 0x38; decide) ?_⟩
  replace he : extMay x.b.extRule h = true := extOk_src he
  show (decAlu false ((encAlu 0x0D 0 x).raw h) [0] >>= fun y => .ok (some (.sra y)) : Dec (Option Instr)) = _
  rw [decAlu_enc hw 0x0D 0 (by decide) (by decide) _ he]; rfl

theorem rot (x : AluOps) : Statement (.rot x) := by
  refine ⟨fun hw => ?_, fun hw => absurd hw Bool.false_ne_true, fun hw => absurd hw Bool.false_ne_true⟩
  have hw : x.wf = true := hw
  refine ⟨encAlu_fits hw (by decide) (by decide), fun h he => decodeS_A (by show 0x0E < 0x38; decide) ?_⟩
  replace he : extMay x.b.extRule h = true := extOk_src he
  show (decAlu false ((encAlu 0x0E 0 x).raw h) [0] >>= fun y => .ok (some (.rot y)) : Dec (Option Instr)) = _
  rw [decAlu_enc hw 0x0E 0 (by decide) (by decide) _ he]; rfl

theorem mulh (k : MulhKind) (x : AluOps) : Statement (.mulh k x) := by
  refine ⟨fun hw => ?_, fun hw => absurd hw Bool.false_ne_true, fun hw => absurd hw Bool.false_ne_true⟩
  have hw : x.wf = true := hw
  refine ⟨encAlu_fits hw (by decide) (by cases k <;> decide), fun h he => decodeS_A (by show 0x04 < 0x38; decide) ?_⟩
  replace he : extMay x.b.extRule h = true := extOk_src he
  cases k with
  | ss =>
    show (decAlu false ((encAlu 0x04 0 x).raw h) [0, 1, 2] >>= fun y => .ok (some (.mulh (match fld ((encAlu 0x04 0 x).raw h).func 2 1 with
      | 0 => .ss | 1 => .uu | _ => .su) y)) : Dec (Option Instr)) = _
    rw [decAlu_enc hw 0x04 0 (by decide) (by decide) _ he, encAlu_func _ 0 (by decide)]; rfl
  | uu =>
    show (decAlu false ((encAlu 0x04 1 x).raw h) [0, 1, 2] >>= fun y => .ok (some (.mulh (match fld ((encAlu 0x04 1 x).raw h).func 2 1 with
      | 0 => .ss | 1 => .uu | _ => .su) y)) : Dec (Option Instr)) = _
    rw [decAlu_enc hw 0x04 1 (by decide) (by decide) _ he, encAlu_func _ 1 (by decide)]; rfl
  | su =>
    show (decAlu false ((encAlu 0x04 2 x).raw h) [0, 1, 2] >>= fun y => .ok (some (.mulh (match fld ((encAlu 0x04 2 x).raw h).func 2 1 with
      | 0 => .ss | 1 => .uu | _ => .su) y)) : Dec (Option Instr)) = _
    rw [decAlu_enc hw 0x04 2 (by decide) (by decide) _ he, encAlu_func _ 2 (by decide)]; rfl

theorem div (u : Bool) (x : AluOps) : Statement (.div u x) := by
  refine ⟨fun hw => ?_, fun hw => absurd hw Bool.false_ne_true, fun hw => absurd hw Bool.false_ne_true⟩
  have hw : x.wf = true := hw
  refine ⟨encAlu_fits hw (by decide) (by cases u <;> decide), fun h he => decodeS_A (by show 0x05 < 0x38; decide) ?_⟩
  replace he : extMay x.b.extRule h = true := extOk_src he
  show (decAlu false ((encAlu 0x05 u.toNat x).raw h) [0, 1] 34 >>= fun y => .ok (some (.div (fld ((encAlu 0x05 u.toNat x).raw h).func 1 1 == 1) y))
    : Dec (Option Instr)) = _
  rw [decAlu_enc hw 0x05 u.toNat (by cases u <;> decide) (by cases u <;> decide) _ he, encAlu_func1 _ u]; rfl

theorem rem (u : Bool) (x : AluOps) : Statement (.rem u x) := by
  refine ⟨fun hw => ?_, fun hw => absurd hw Bool.false_ne_true, fun hw => absurd hw Bool.false_ne_true⟩
  have hw : x.wf = true := hw
  refine ⟨encAlu_fits hw (by decide) (by cases u <;> decide), fun h he => decodeS_A (by show 0x06 < 0x38; decide) ?_⟩
  replace he : extMay x.b.extRule h = true := extOk_src he
  show (decAlu false ((encAlu 0x06 u.toNat x).raw h) [0, 1] 34 >>= fun y => .ok (some (.rem (fld ((encAlu 0x06 u.toNat x).raw h).func 1 1 == 1) y))
    : Dec (Option Instr)) = _
  rw [decAlu_enc hw 0x06 u.toNat (by cases u <;> decide) (by cases u <;> decide) _ he, encAlu_func1 _ u]; rfl

theorem min (u : Bool) (x : AluOps) : Statement (.min u x) := by
  refine ⟨fun hw => ?_, fun hw => absurd hw Bool.false_ne_true, fun hw => absurd hw Bool.false_ne_true⟩
  have hw : x.wf = true := hw
  refine ⟨encAlu_fits hw (by decide) (by cases u <;> decide), fun h he => decodeS_A (by show 0x10 < 0x38; decide) ?_⟩
  replace he : extMay x.b.extRule h = true := extOk_src he
  show (decAlu false ((encAlu 0x10 u.toNat x).raw h) [0, 1] >>= fun y => .ok (some (.min (fld ((encAlu 0x10 u.toNat x).raw h).func 1 1 == 1) y))
    : Dec (Option Instr)) = _
  rw [decAlu_enc hw 0x10 u.toNat (by cases u <;> decide) (by cases u <;> decide) _ he, encAlu_func1 _ u]; rfl

theorem max (u : Bool) (x : AluOps) : Statement (.max u x) := by
  refine ⟨fun hw => ?_, fun hw => absurd hw Bool.false_ne_true, fun hw => absurd hw Bool.false_ne_true⟩
  have hw : x.wf = true := hw
  refine ⟨encAlu_fits hw (by decide) (by cases u <;> decide), fun h he => decodeS_A (by show 0x11 < 0x38; decide) ?_⟩
  replace he : extMay x.b.extRule h = true := extOk_src he
  show (decAlu false ((encAlu 0x11 u.toNat x).raw h) [0, 1] >>= fun y => .ok (some (.max (fld ((encAlu 0x11 u.toNat x).raw h).func 1 1 == 1) y))
    : Dec (Option Instr)) = _
  rw [decAlu_enc hw 0x11 u.toNat (by cases u <;> decide) (by cases u <;> decide) _ he, encAlu_func1 _ u]; rfl

theorem clz (x : UnOps) : Statement (.clz x) := by
  refine ⟨fun hw => ?_, fun hw => absurd hw Bool.false_ne_true, fun hw => absurd hw Bool.false_ne_true⟩
  have hw : x.wf = true := hw
  refine ⟨encUn_fits hw (by decide), fun h he => decodeS_A (by show (encUn 0x12 x).op < 0x38; rw [encUn_op]; decide) ?_⟩
  replace he : extMay x.src.extRule h = true := extOk_src he
  have ho : ((encUn 0x12 x).raw h).op = 0x12 := encUn_op _ _
  show decodeA false ((encUn 0x12 x).raw h) = _
  have hd : decodeA false ((encUn 0x12 x).raw h) = (decUn false ((encUn 0x12 x).raw h) >>= fun y => .ok (some (.clz y))) := by
    unfold decodeA; rw [ho]; rfl
  rw [hd, decUn_enc hw 0x12 he]; rfl

theorem popc (x : UnOps) : Statement (.popc x) := by
  refine ⟨fun hw => ?_, fun hw => absurd hw Bool.false_ne_true, fun hw => absurd hw Bool.false_ne_true⟩
  have hw : x.wf = true := hw
  refine ⟨encUn_fits hw (by decide), fun h he => decodeS_A (by show (encUn 0x13 x).op < 0x38; rw [encUn_op]; decide) ?_⟩
  replace he : extMay x.src.extRule h = true := extOk_src he
  have ho : ((encUn 0x13 x).raw h).op = 0x13 := encUn_op _ _
  show decodeA false ((encUn 0x13 x).raw h) = _
  have hd : decodeA false ((encUn 0x13 x).raw h) = (decUn false ((encUn 0x13 x).raw h) >>= fun y => .ok (some (.popc y))) := by
    unfold decodeA; rw [ho]; rfl
  rw [hd, decUn_enc hw 0x13 he]; rfl

theorem mov (x : UnOps) : Statement (.mov x) := by
  refine ⟨fun hw => ?_, fun hw => absurd hw Bool.false_ne_true, fun hw => absurd hw Bool.false_ne_true⟩
  have hw : x.wf = true := hw
  refine ⟨encUn_fits hw (by decide), fun h he => decodeS_A (by show (encUn 0x18 x).op < 0x38; rw [encUn_op]; decide) ?_⟩
  replace he : extMay x.src.extRule h = true := extOk_src he
  have ho : ((encUn 0x18 x).raw h).op = 0x18 := encUn_op _ _
  show decodeA false ((encUn 0x18 x).raw h) = _
  have hd : decodeA false ((encUn 0x18 x).raw h) = (decUn false ((encUn 0x18 x).raw h) >>= fun y => .ok (some (.mov y))) := by
    unfold decodeA; rw [ho]; rfl
  rw [hd, decUn_enc hw 0x18 he]; rfl

theorem nop  : Statement (.nop) := by
  refine ⟨fun hw => ?_, fun hw => absurd hw Bool.false_ne_true, fun hw => absurd hw Bool.false_ne_true⟩
  refine ⟨?_, fun h he => ?_⟩
  · show SFits ⟨0x00, 0, 0, 0, 0, 0⟩
    refine ⟨?_, ?_, ?_, ?_, ?_, ?_⟩ <;> dsimp only <;> omega
  · clear he
    have gx : (if h then some 0 else none : Option Nat).getD 0 = 0 := by cases h <;> rfl
    have g : (encS (.nop)).raw h = ⟨0x00, 0, 0, 0, 0, if h then some (0) else none⟩ := rfl
    rw [g]
    refine decodeS_X (by show 0x00 < 0x38; decide) rfl ?_
    unfold decodeX
    dsimp only
    simp [decAddr, SRaw.x, gx, dec_bind, dec_pure, zeroS_cons, zeroS_nil, if_true, BitVec.ofNat_toNat, BitVec.setWidth_eq, finOfNat_self, boolNat, Dir.ofCode_code, Scope.ofCode_code, RedOp.ofCode_code, RstKind.ofCode_code, LkCond.ofCode_code, Cond.ofCode_code, Ty.ofCode_code, okOr, fld_zero, needExt, Option.isSome_some, need_ok]

theorem ltab (w32 : Bool) (dst : Reg) (a : Reg) (b : Reg) (tbl : BitVec 8) : Statement (.ltab w32 dst a b tbl) := by
  refine ⟨fun hw => ?_, fun hw => absurd hw Bool.false_ne_true, fun hw => absurd hw Bool.false_ne_true⟩
  have hw : (dst.isRw && a.isSrc && b.isSrc) = true := hw
  simp only [Bool.and_eq_true, bne_iff_ne, ne_eq, beq_iff_eq, Bool.or_eq_true, Bool.not_eq_true'] at hw
  obtain ⟨⟨h1, h2⟩, h3⟩ := hw
  have v_w32 := Bool.toNat_lt w32
  have v_dst := Reg.code_lt dst
  have v_a := Reg.code_lt a
  have v_b := Reg.code_lt b
  have v_tbl := tbl.isLt
  refine ⟨?_, fun h he => ?_⟩
  · show SFits ⟨0x0A, dst.code, a.code, b.code, w32.toNat, tbl.toNat⟩
    refine ⟨?_, ?_, ?_, ?_, ?_, ?_⟩ <;> dsimp only <;> omega
  · have he : h = true := he
    subst he
    have g : (encS (.ltab w32 dst a b tbl)).raw true = ⟨0x0A, dst.code, a.code, b.code, w32.toNat, some (tbl.toNat)⟩ := rfl
    rw [g]
    refine decodeS_X (by show 0x0A < 0x38; decide) rfl ?_
    unfold decodeX
    dsimp only
    have e0 : fld (tbl.toNat) 31 8 = 0 := by simp only [fld, Nat.reduceAdd, Nat.reduceSub, Nat.reducePow]; omega
    have e1 : fld (tbl.toNat) 7 0 = tbl.toNat := by simp only [fld, Nat.reduceAdd, Nat.reduceSub, Nat.reducePow]; omega
    have e2 : fld (w32.toNat) 3 1 = 0 := by simp only [fld, Nat.reduceAdd, Nat.reduceSub, Nat.reducePow]; omega
    have e3 : fld (w32.toNat) 0 0 = w32.toNat := by simp only [fld, Nat.reduceAdd, Nat.reduceSub, Nat.reducePow]; omega
    simp [decAddr, SRaw.x, Option.getD_some, dec_bind, dec_pure, zeroS_cons, zeroS_nil, if_true, BitVec.ofNat_toNat, BitVec.setWidth_eq, finOfNat_self, boolNat, Dir.ofCode_code, Scope.ofCode_code, RedOp.ofCode_code, RstKind.ofCode_code, LkCond.ofCode_code, Cond.ofCode_code, Ty.ofCode_code, okOr, fld_zero, needExt, Option.isSome_some, need_ok, e0, e1, e2, e3, decReg_code _ h1, decReg_code _ h2, decReg_code _ h3]

theorem fsh (w32 : Bool) (dst : Reg) (a : Reg) (b : Reg) (sh : BitVec 6) : Statement (.fsh w32 dst a b sh) := by
  refine ⟨fun hw => ?_, fun hw => absurd hw Bool.false_ne_true, fun hw => absurd hw Bool.false_ne_true⟩
  have hw : (dst.isDst && a.isSrc && b.isSrc && (!w32 || decide (sh.toNat < 32))) = true := hw
  simp only [Bool.and_eq_true, bne_iff_ne, ne_eq, beq_iff_eq, Bool.or_eq_true, Bool.not_eq_true'] at hw
  obtain ⟨⟨⟨h1, h2⟩, h3⟩, h4⟩ := hw
  have v_w32 := Bool.toNat_lt w32
  have v_dst := Reg.code_lt dst
  have v_a := Reg.code_lt a
  have v_b := Reg.code_lt b
  have v_sh := sh.isLt
  have e4 : (if w32 = true then fld sh.toNat 5 5 else 0) = 0 := by
    cases w32 with
    | false => rfl
    | true =>
      have : sh.toNat < 32 := by simpa using h4
      simp only [fld, if_true, Nat.reduceAdd, Nat.reduceSub, Nat.reducePow]; omega
  have e5 : (if (w32.toNat == 1) = true then fld sh.toNat 5 5 else 0) = 0 := by rw [boolNat]; exact e4
  refine ⟨?_, fun h he => ?_⟩
  · show SFits ⟨0x0F, dst.code, a.code, b.code, w32.toNat, sh.toNat⟩
    refine ⟨?_, ?_, ?_, ?_, ?_, ?_⟩ <;> dsimp only <;> omega
  · have he : h = true := he
    subst he
    have g : (encS (.fsh w32 dst a b sh)).raw true = ⟨0x0F, dst.code, a.code, b.code, w32.toNat, some (sh.toNat)⟩ := rfl
    rw [g]
    refine decodeS_X (by show 0x0F < 0x38; decide) rfl ?_
    unfold decodeX
    dsimp only
    have e0 : fld (sh.toNat) 31 6 = 0 := by simp only [fld, Nat.reduceAdd, Nat.reduceSub, Nat.reducePow]; omega
    have e1 : fld (sh.toNat) 5 0 = sh.toNat := by simp only [fld, Nat.reduceAdd, Nat.reduceSub, Nat.reducePow]; omega
    have e2 : fld (w32.toNat) 3 1 = 0 := by simp only [fld, Nat.reduceAdd, Nat.reduceSub, Nat.reducePow]; omega
    have e3 : fld (w32.toNat) 0 0 = w32.toNat := by simp only [fld, Nat.reduceAdd, Nat.reduceSub, Nat.reducePow]; omega
    simp [decAddr, SRaw.x, Option.getD_some, dec_bind, dec_pure, zeroS_cons, zeroS_nil, if_true, BitVec.ofNat_toNat, BitVec.setWidth_eq, finOfNat_self, boolNat, Dir.ofCode_code, Scope.ofCode_code, RedOp.ofCode_code, RstKind.ofCode_code, LkCond.ofCode_code, Cond.ofCode_code, Ty.ofCode_code, okOr, fld_zero, needExt, Option.isSome_some, need_ok, e0, e1, e2, e3, decReg_code _ h1, decReg_code _ h2, decReg_code _ h3, e4, e5]

theorem bfx (sx : Bool) (dst : Reg) (a : Reg) (pos : BitVec 6) (len : BitVec 6) : Statement (.bfx sx dst a pos len) := by
  refine ⟨fun hw => ?_, fun hw => absurd hw Bool.false_ne_true, fun hw => absurd hw Bool.false_ne_true⟩
  have hw : (dst.isDst && a.isSrc) = true := hw
  simp only [Bool.and_eq_true, bne_iff_ne, ne_eq, beq_iff_eq, Bool.or_eq_true, Bool.not_eq_true'] at hw
  obtain ⟨h1, h2⟩ := hw
  have v_sx := Bool.toNat_lt sx
  have v_dst := Reg.code_lt dst
  have v_a := Reg.code_lt a
  have v_pos := pos.isLt
  have v_len := len.isLt
  refine ⟨?_, fun h he => ?_⟩
  · show SFits ⟨0x14, dst.code, a.code, 0, 0, pos.toNat + 64 * len.toNat + 4096 * sx.toNat⟩
    refine ⟨?_, ?_, ?_, ?_, ?_, ?_⟩ <;> dsimp only <;> omega
  · have he : h = true := he
    subst he
    have g : (encS (.bfx sx dst a pos len)).raw true = ⟨0x14, dst.code, a.code, 0, 0, some (pos.toNat + 64 * len.toNat + 4096 * sx.toNat)⟩ := rfl
    rw [g]
    refine decodeS_X (by show 0x14 < 0x38; decide) rfl ?_
    unfold decodeX
    dsimp only
    have e0 : fld (pos.toNat + 64 * len.toNat + 4096 * sx.toNat) 31 13 = 0 := by simp only [fld, Nat.reduceAdd, Nat.reduceSub, Nat.reducePow]; omega
    have e1 : fld (pos.toNat + 64 * len.toNat + 4096 * sx.toNat) 12 12 = sx.toNat := by simp only [fld, Nat.reduceAdd, Nat.reduceSub, Nat.reducePow]; omega
    have e2 : fld (pos.toNat + 64 * len.toNat + 4096 * sx.toNat) 5 0 = pos.toNat := by simp only [fld, Nat.reduceAdd, Nat.reduceSub, Nat.reducePow]; omega
    have e3 : fld (pos.toNat + 64 * len.toNat + 4096 * sx.toNat) 11 6 = len.toNat := by simp only [fld, Nat.reduceAdd, Nat.reduceSub, Nat.reducePow]; omega
    simp [decAddr, SRaw.x, Option.getD_some, dec_bind, dec_pure, zeroS_cons, zeroS_nil, if_true, BitVec.ofNat_toNat, BitVec.setWidth_eq, finOfNat_self, boolNat, Dir.ofCode_code, Scope.ofCode_code, RedOp.ofCode_code, RstKind.ofCode_code, LkCond.ofCode_code, Cond.ofCode_code, Ty.ofCode_code, okOr, fld_zero, needExt, Option.isSome_some, need_ok, e0, e1, e2, e3, decReg_code _ h1, decReg_code _ h2]

theorem bfi (dst : Reg) (a : Reg) (b : Reg) (pos : BitVec 6) (len : BitVec 6) : Statement (.bfi dst a b pos len) := by
  refine ⟨fun hw => ?_, fun hw => absurd hw Bool.false_ne_true, fun hw => absurd hw Bool.false_ne_true⟩
  have hw : (dst.isDst && a.isSrc && b.isSrc) = true := hw
  simp only [Bool.and_eq_true, bne_iff_ne, ne_eq, beq_iff_eq, Bool.or_eq_true, Bool.not_eq_true'] at hw
  obtain ⟨⟨h1, h2⟩, h3⟩ := hw
  have v_dst := Reg.code_lt dst
  have v_a := Reg.code_lt a
  have v_b := Reg.code_lt b
  have v_pos := pos.isLt
  have v_len := len.isLt
  refine ⟨?_, fun h he => ?_⟩
  · show SFits ⟨0x15, dst.code, a.code, b.code, 0, pos.toNat + 64 * len.toNat⟩
    refine ⟨?_, ?_, ?_, ?_, ?_, ?_⟩ <;> dsimp only <;> omega
  · have he : h = true := he
    subst he
    have g : (encS (.bfi dst a b pos len)).raw true = ⟨0x15, dst.code, a.code, b.code, 0, some (pos.toNat + 64 * len.toNat)⟩ := rfl
    rw [g]
    refine decodeS_X (by show 0x15 < 0x38; decide) rfl ?_
    unfold decodeX
    dsimp only
    have e0 : fld (pos.toNat + 64 * len.toNat) 31 13 = 0 := by simp only [fld, Nat.reduceAdd, Nat.reduceSub, Nat.reducePow]; omega
    have e3 : fld (pos.toNat + 64 * len.toNat) 12 12 = 0 := by simp only [fld, Nat.reduceAdd, Nat.reduceSub, Nat.reducePow]; omega
    have e1 : fld (pos.toNat + 64 * len.toNat) 5 0 = pos.toNat := by simp only [fld, Nat.reduceAdd, Nat.reduceSub, Nat.reducePow]; omega
    have e2 : fld (pos.toNat + 64 * len.toNat) 11 6 = len.toNat := by simp only [fld, Nat.reduceAdd, Nat.reduceSub, Nat.reducePow]; omega
    simp [decAddr, SRaw.x, Option.getD_some, dec_bind, dec_pure, zeroS_cons, zeroS_nil, if_true, BitVec.ofNat_toNat, BitVec.setWidth_eq, finOfNat_self, boolNat, Dir.ofCode_code, Scope.ofCode_code, RedOp.ofCode_code, RstKind.ofCode_code, LkCond.ofCode_code, Cond.ofCode_code, Ty.ofCode_code, okOr, fld_zero, needExt, Option.isSome_some, need_ok, e0, e1, e2, e3, decReg_code _ h1, decReg_code _ h2, decReg_code _ h3]

theorem sel (inv : Bool) (p : Fin 8) (dst : Reg) (a : Reg) (b : Reg) : Statement (.sel inv p dst a b) := by
  refine ⟨fun hw => ?_, fun hw => absurd hw Bool.false_ne_true, fun hw => absurd hw Bool.false_ne_true⟩
  have hw : (dst.isDst && a.isSrc && b.isSrc) = true := hw
  simp only [Bool.and_eq_true, bne_iff_ne, ne_eq, beq_iff_eq, Bool.or_eq_true, Bool.not_eq_true'] at hw
  obtain ⟨⟨h1, h2⟩, h3⟩ := hw
  have v_inv := Bool.toNat_lt inv
  have v_p := p.isLt
  have v_dst := Reg.code_lt dst
  have v_a := Reg.code_lt a
  have v_b := Reg.code_lt b
  refine ⟨?_, fun h he => ?_⟩
  · show SFits ⟨0x17, dst.code, a.code, b.code, p.val + 8 * inv.toNat, 0⟩
    refine ⟨?_, ?_, ?_, ?_, ?_, ?_⟩ <;> dsimp only <;> omega
  · clear he
    have gx : (if h then some 0 else none : Option Nat).getD 0 = 0 := by cases h <;> rfl
    have g : (encS (.sel inv p dst a b)).raw h = ⟨0x17, dst.code, a.code, b.code, p.val + 8 * inv.toNat, if h then some (0) else none⟩ := rfl
    rw [g]
    refine decodeS_X (by show 0x17 < 0x38; decide) rfl ?_
    unfold decodeX
    dsimp only
    have e0 : fld (p.val + 8 * inv.toNat) 3 3 = inv.toNat := by simp only [fld, Nat.reduceAdd, Nat.reduceSub, Nat.reducePow]; omega
    have e1 : fld (p.val + 8 * inv.toNat) 2 0 = p.val := by simp only [fld, Nat.reduceAdd, Nat.reduceSub, Nat.reducePow]; omega
    simp [decAddr, SRaw.x, gx, dec_bind, dec_pure, zeroS_cons, zeroS_nil, if_true, BitVec.ofNat_toNat, BitVec.setWidth_eq, finOfNat_self, boolNat, Dir.ofCode_code, Scope.ofCode_code, RedOp.ofCode_code, RstKind.ofCode_code, LkCond.ofCode_code, Cond.ofCode_code, Ty.ofCode_code, okOr, fld_zero, needExt, Option.isSome_some, need_ok, e0, e1, decReg_code _ h1, decReg_code _ h2, decReg_code _ h3]

theorem li (dst : Reg) (imm : BitVec 32) : Statement (.li dst imm) := by
  refine ⟨fun hw => ?_, fun hw => absurd hw Bool.false_ne_true, fun hw => absurd hw Bool.false_ne_true⟩
  have hw : (dst.isDst) = true := hw
  have v_dst := Reg.code_lt dst
  have v_imm := imm.isLt
  refine ⟨?_, fun h he => ?_⟩
  · show SFits ⟨0x19, dst.code, 0, 0, 0, imm.toNat⟩
    refine ⟨?_, ?_, ?_, ?_, ?_, ?_⟩ <;> dsimp only <;> omega
  · have he : h = true := he
    subst he
    have g : (encS (.li dst imm)).raw true = ⟨0x19, dst.code, 0, 0, 0, some (imm.toNat)⟩ := rfl
    rw [g]
    refine decodeS_X (by show 0x19 < 0x38; decide) rfl ?_
    unfold decodeX
    dsimp only
    simp [decAddr, SRaw.x, Option.getD_some, dec_bind, dec_pure, zeroS_cons, zeroS_nil, if_true, BitVec.ofNat_toNat, BitVec.setWidth_eq, finOfNat_self, boolNat, Dir.ofCode_code, Scope.ofCode_code, RedOp.ofCode_code, RstKind.ofCode_code, LkCond.ofCode_code, Cond.ofCode_code, Ty.ofCode_code, okOr, fld_zero, needExt, Option.isSome_some, need_ok, decReg_code _ hw]

theorem lih (dst : Reg) (imm : BitVec 32) : Statement (.lih dst imm) := by
  refine ⟨fun hw => ?_, fun hw => absurd hw Bool.false_ne_true, fun hw => absurd hw Bool.false_ne_true⟩
  have hw : (dst.isRw) = true := hw
  have v_dst := Reg.code_lt dst
  have v_imm := imm.isLt
  refine ⟨?_, fun h he => ?_⟩
  · show SFits ⟨0x1A, dst.code, 0, 0, 0, imm.toNat⟩
    refine ⟨?_, ?_, ?_, ?_, ?_, ?_⟩ <;> dsimp only <;> omega
  · have he : h = true := he
    subst he
    have g : (encS (.lih dst imm)).raw true = ⟨0x1A, dst.code, 0, 0, 0, some (imm.toNat)⟩ := rfl
    rw [g]
    refine decodeS_X (by show 0x1A < 0x38; decide) rfl ?_
    unfold decodeX
    dsimp only
    simp [decAddr, SRaw.x, Option.getD_some, dec_bind, dec_pure, zeroS_cons, zeroS_nil, if_true, BitVec.ofNat_toNat, BitVec.setWidth_eq, finOfNat_self, boolNat, Dir.ofCode_code, Scope.ofCode_code, RedOp.ofCode_code, RstKind.ofCode_code, LkCond.ofCode_code, Cond.ofCode_code, Ty.ofCode_code, okOr, fld_zero, needExt, Option.isSome_some, need_ok, decReg_code _ hw]

theorem addpc (dst : Reg) (imm : BitVec 32) : Statement (.addpc dst imm) := by
  refine ⟨fun hw => ?_, fun hw => absurd hw Bool.false_ne_true, fun hw => absurd hw Bool.false_ne_true⟩
  have hw : (dst.isDst) = true := hw
  have v_dst := Reg.code_lt dst
  have v_imm := imm.isLt
  refine ⟨?_, fun h he => ?_⟩
  · show SFits ⟨0x1B, dst.code, 0, 0, 0, imm.toNat⟩
    refine ⟨?_, ?_, ?_, ?_, ?_, ?_⟩ <;> dsimp only <;> omega
  · have he : h = true := he
    subst he
    have g : (encS (.addpc dst imm)).raw true = ⟨0x1B, dst.code, 0, 0, 0, some (imm.toNat)⟩ := rfl
    rw [g]
    refine decodeS_X (by show 0x1B < 0x38; decide) rfl ?_
    unfold decodeX
    dsimp only
    simp [decAddr, SRaw.x, Option.getD_some, dec_bind, dec_pure, zeroS_cons, zeroS_nil, if_true, BitVec.ofNat_toNat, BitVec.setWidth_eq, finOfNat_self, boolNat, Dir.ofCode_code, Scope.ofCode_code, RedOp.ofCode_code, RstKind.ofCode_code, LkCond.ofCode_code, Cond.ofCode_code, Ty.ofCode_code, okOr, fld_zero, needExt, Option.isSome_some, need_ok, decReg_code _ hw]

theorem plog (pd : Fin 8) (pa : Fin 8) (pb : Fin 8) (pc : Fin 8) (tbl : BitVec 8) : Statement (.plog pd pa pb pc tbl) := by
  refine ⟨fun hw => ?_, fun hw => absurd hw Bool.false_ne_true, fun hw => absurd hw Bool.false_ne_true⟩
  have v_pd := pd.isLt
  have v_pa := pa.isLt
  have v_pb := pb.isLt
  have v_pc := pc.isLt
  have v_tbl := tbl.isLt
  refine ⟨?_, fun h he => ?_⟩
  · show SFits ⟨0x1C, 0, 0, 0, 0, tbl.toNat + 256 * pd.val + 2048 * pa.val + 16384 * pb.val + 131072 * pc.val⟩
    refine ⟨?_, ?_, ?_, ?_, ?_, ?_⟩ <;> dsimp only <;> omega
  · have he : h = true := he
    subst he
    have g : (encS (.plog pd pa pb pc tbl)).raw true = ⟨0x1C, 0, 0, 0, 0, some (tbl.toNat + 256 * pd.val + 2048 * pa.val + 16384 * pb.val + 131072 * pc.val)⟩ := rfl
    rw [g]
    refine decodeS_X (by show 0x1C < 0x38; decide) rfl ?_
    unfold decodeX
    dsimp only
    have e0 : fld (tbl.toNat + 256 * pd.val + 2048 * pa.val + 16384 * pb.val + 131072 * pc.val) 31 20 = 0 := by simp only [fld, Nat.reduceAdd, Nat.reduceSub, Nat.reducePow]; omega
    have e1 : fld (tbl.toNat + 256 * pd.val + 2048 * pa.val + 16384 * pb.val + 131072 * pc.val) 10 8 = pd.val := by simp only [fld, Nat.reduceAdd, Nat.reduceSub, Nat.reducePow]; omega
    have e2 : fld (tbl.toNat + 256 * pd.val + 2048 * pa.val + 16384 * pb.val + 131072 * pc.val) 13 11 = pa.val := by simp only [fld, Nat.reduceAdd, Nat.reduceSub, Nat.reducePow]; omega
    have e3 : fld (tbl.toNat + 256 * pd.val + 2048 * pa.val + 16384 * pb.val + 131072 * pc.val) 16 14 = pb.val := by simp only [fld, Nat.reduceAdd, Nat.reduceSub, Nat.reducePow]; omega
    have e4 : fld (tbl.toNat + 256 * pd.val + 2048 * pa.val + 16384 * pb.val + 131072 * pc.val) 19 17 = pc.val := by simp only [fld, Nat.reduceAdd, Nat.reduceSub, Nat.reducePow]; omega
    have e5 : fld (tbl.toNat + 256 * pd.val + 2048 * pa.val + 16384 * pb.val + 131072 * pc.val) 7 0 = tbl.toNat := by simp only [fld, Nat.reduceAdd, Nat.reduceSub, Nat.reducePow]; omega
    simp [decAddr, SRaw.x, Option.getD_some, dec_bind, dec_pure, zeroS_cons, zeroS_nil, if_true, BitVec.ofNat_toNat, BitVec.setWidth_eq, finOfNat_self, boolNat, Dir.ofCode_code, Scope.ofCode_code, RedOp.ofCode_code, RstKind.ofCode_code, LkCond.ofCode_code, Cond.ofCode_code, Ty.ofCode_code, okOr, fld_zero, needExt, Option.isSome_some, need_ok, e0, e1, e2, e3, e4, e5]

theorem jmp (a : Addr) : Statement (.jmp a) := by
  refine ⟨fun hw => ?_, fun hw => absurd hw Bool.false_ne_true, fun hw => absurd hw Bool.false_ne_true⟩
  have hw : (a.base.isSrc) = true := hw
  have v_a := Reg.code_lt a.base
  have w_a := a.disp.isLt
  refine ⟨?_, fun h he => ?_⟩
  · show SFits ⟨0x1E, 0, a.base.code, 0, 0, a.disp.toNat⟩
    refine ⟨?_, ?_, ?_, ?_, ?_, ?_⟩ <;> dsimp only <;> omega
  · have gx : (if h then some (a.disp.toNat) else none : Option Nat).getD 0 = a.disp.toNat := by
      cases h with
      | true => rfl
      | false => have he : ((false || (a.disp) == 0) : Bool) = true := he; simp only [Bool.false_or, beq_iff_eq] at he; rw [he]; rfl
    have g : (encS (.jmp a)).raw h = ⟨0x1E, 0, a.base.code, 0, 0, if h then some (a.disp.toNat) else none⟩ := rfl
    rw [g]
    refine decodeS_X (by show 0x1E < 0x38; decide) rfl ?_
    unfold decodeX
    dsimp only
    simp [decAddr, SRaw.x, gx, dec_bind, dec_pure, zeroS_cons, zeroS_nil, if_true, BitVec.ofNat_toNat, BitVec.setWidth_eq, finOfNat_self, boolNat, Dir.ofCode_code, Scope.ofCode_code, RedOp.ofCode_code, RstKind.ofCode_code, LkCond.ofCode_code, Cond.ofCode_code, Ty.ofCode_code, okOr, fld_zero, needExt, Option.isSome_some, need_ok, decReg_code _ hw]

theorem ret  : Statement (.ret) := by
  refine ⟨fun hw => ?_, fun hw => absurd hw Bool.false_ne_true, fun hw => absurd hw Bool.false_ne_true⟩
  refine ⟨?_, fun h he => ?_⟩
  · show SFits ⟨0x20, 0, 0, 0, 0, 0⟩
    refine ⟨?_, ?_, ?_, ?_, ?_, ?_⟩ <;> dsimp only <;> omega
  · clear he
    have gx : (if h then some 0 else none : Option Nat).getD 0 = 0 := by cases h <;> rfl
    have g : (encS (.ret)).raw h = ⟨0x20, 0, 0, 0, 0, if h then some (0) else none⟩ := rfl
    rw [g]
    refine decodeS_X (by show 0x20 < 0x38; decide) rfl ?_
    unfold decodeX
    dsimp only
    simp [decAddr, SRaw.x, gx, dec_bind, dec_pure, zeroS_cons, zeroS_nil, if_true, BitVec.ofNat_toNat, BitVec.setWidth_eq, finOfNat_self, boolNat, Dir.ofCode_code, Scope.ofCode_code, RedOp.ofCode_code, RstKind.ofCode_code, LkCond.ofCode_code, Cond.ofCode_code, Ty.ofCode_code, okOr, fld_zero, needExt, Option.isSome_some, need_ok]

theorem iter (off : BitVec 32) : Statement (.iter off) := by
  refine ⟨fun hw => ?_, fun hw => absurd hw Bool.false_ne_true, fun hw => absurd hw Bool.false_ne_true⟩
  have v_off := off.isLt
  refine ⟨?_, fun h he => ?_⟩
  · show SFits ⟨0x21, 0, 0, 0, 0, off.toNat⟩
    refine ⟨?_, ?_, ?_, ?_, ?_, ?_⟩ <;> dsimp only <;> omega
  · have he : h = true := he
    subst he
    have g : (encS (.iter off)).raw true = ⟨0x21, 0, 0, 0, 0, some (off.toNat)⟩ := rfl
    rw [g]
    refine decodeS_X (by show 0x21 < 0x38; decide) rfl ?_
    unfold decodeX
    dsimp only
    simp [decAddr, SRaw.x, Option.getD_some, dec_bind, dec_pure, zeroS_cons, zeroS_nil, if_true, BitVec.ofNat_toNat, BitVec.setWidth_eq, finOfNat_self, boolNat, Dir.ofCode_code, Scope.ofCode_code, RedOp.ofCode_code, RstKind.ofCode_code, LkCond.ofCode_code, Cond.ofCode_code, Ty.ofCode_code, okOr, fld_zero, needExt, Option.isSome_some, need_ok]

theorem exit  : Statement (.exit) := by
  refine ⟨fun hw => ?_, fun hw => absurd hw Bool.false_ne_true, fun hw => absurd hw Bool.false_ne_true⟩
  refine ⟨?_, fun h he => ?_⟩
  · show SFits ⟨0x22, 0, 0, 0, 0, 0⟩
    refine ⟨?_, ?_, ?_, ?_, ?_, ?_⟩ <;> dsimp only <;> omega
  · clear he
    have gx : (if h then some 0 else none : Option Nat).getD 0 = 0 := by cases h <;> rfl
    have g : (encS (.exit)).raw h = ⟨0x22, 0, 0, 0, 0, if h then some (0) else none⟩ := rfl
    rw [g]
    refine decodeS_X (by show 0x22 < 0x38; decide) rfl ?_
    unfold decodeX
    dsimp only
    simp [decAddr, SRaw.x, gx, dec_bind, dec_pure, zeroS_cons, zeroS_nil, if_true, BitVec.ofNat_toNat, BitVec.setWidth_eq, finOfNat_self, boolNat, Dir.ofCode_code, Scope.ofCode_code, RedOp.ofCode_code, RstKind.ofCode_code, LkCond.ofCode_code, Cond.ofCode_code, Ty.ofCode_code, okOr, fld_zero, needExt, Option.isSome_some, need_ok]

theorem ctxstart (n : BitVec 4) (off : BitVec 32) : Statement (.ctxstart n off) := by
  refine ⟨fun hw => ?_, fun hw => absurd hw Bool.false_ne_true, fun hw => absurd hw Bool.false_ne_true⟩
  have hw : (n.toNat != 0) = true := hw
  have v_n := n.isLt
  have v_off := off.isLt
  refine ⟨?_, fun h he => ?_⟩
  · show SFits ⟨0x23, 0, 0, 0, n.toNat, off.toNat⟩
    refine ⟨?_, ?_, ?_, ?_, ?_, ?_⟩ <;> dsimp only <;> omega
  · have he : h = true := he
    subst he
    have g : (encS (.ctxstart n off)).raw true = ⟨0x23, 0, 0, 0, n.toNat, some (off.toNat)⟩ := rfl
    rw [g]
    refine decodeS_X (by show 0x23 < 0x38; decide) rfl ?_
    unfold decodeX
    dsimp only
    simp [decAddr, SRaw.x, Option.getD_some, dec_bind, dec_pure, zeroS_cons, zeroS_nil, if_true, BitVec.ofNat_toNat, BitVec.setWidth_eq, finOfNat_self, boolNat, Dir.ofCode_code, Scope.ofCode_code, RedOp.ofCode_code, RstKind.ofCode_code, LkCond.ofCode_code, Cond.ofCode_code, Ty.ofCode_code, okOr, fld_zero, needExt, Option.isSome_some, need_ok, hw]

theorem ctxreap (n : BitVec 4) : Statement (.ctxreap n) := by
  refine ⟨fun hw => ?_, fun hw => absurd hw Bool.false_ne_true, fun hw => absurd hw Bool.false_ne_true⟩
  have hw : (n.toNat != 0) = true := hw
  have v_n := n.isLt
  refine ⟨?_, fun h he => ?_⟩
  · show SFits ⟨0x24, 0, 0, 0, n.toNat, 0⟩
    refine ⟨?_, ?_, ?_, ?_, ?_, ?_⟩ <;> dsimp only <;> omega
  · clear he
    have gx : (if h then some 0 else none : Option Nat).getD 0 = 0 := by cases h <;> rfl
    have g : (encS (.ctxreap n)).raw h = ⟨0x24, 0, 0, 0, n.toNat, if h then some (0) else none⟩ := rfl
    rw [g]
    refine decodeS_X (by show 0x24 < 0x38; decide) rfl ?_
    unfold decodeX
    dsimp only
    simp [decAddr, SRaw.x, gx, dec_bind, dec_pure, zeroS_cons, zeroS_nil, if_true, BitVec.ofNat_toNat, BitVec.setWidth_eq, finOfNat_self, boolNat, Dir.ofCode_code, Scope.ofCode_code, RedOp.ofCode_code, RstKind.ofCode_code, LkCond.ofCode_code, Cond.ofCode_code, Ty.ofCode_code, okOr, fld_zero, needExt, Option.isSome_some, need_ok, hw]

theorem ctxid (dst : Reg) : Statement (.ctxid dst) := by
  refine ⟨fun hw => ?_, fun hw => absurd hw Bool.false_ne_true, fun hw => absurd hw Bool.false_ne_true⟩
  have hw : (dst.isDst) = true := hw
  have v_dst := Reg.code_lt dst
  refine ⟨?_, fun h he => ?_⟩
  · show SFits ⟨0x25, dst.code, 0, 0, 0, 0⟩
    refine ⟨?_, ?_, ?_, ?_, ?_, ?_⟩ <;> dsimp only <;> omega
  · clear he
    have gx : (if h then some 0 else none : Option Nat).getD 0 = 0 := by cases h <;> rfl
    have g : (encS (.ctxid dst)).raw h = ⟨0x25, dst.code, 0, 0, 0, if h then some (0) else none⟩ := rfl
    rw [g]
    refine decodeS_X (by show 0x25 < 0x38; decide) rfl ?_
    unfold decodeX
    dsimp only
    simp [decAddr, SRaw.x, gx, dec_bind, dec_pure, zeroS_cons, zeroS_nil, if_true, BitVec.ofNat_toNat, BitVec.setWidth_eq, finOfNat_self, boolNat, Dir.ofCode_code, Scope.ofCode_code, RedOp.ofCode_code, RstKind.ofCode_code, LkCond.ofCode_code, Cond.ofCode_code, Ty.ofCode_code, okOr, fld_zero, needExt, Option.isSome_some, need_ok, decReg_code _ hw]

theorem levid (dst : Reg) (level : BitVec 3) : Statement (.levid dst level) := by
  refine ⟨fun hw => ?_, fun hw => absurd hw Bool.false_ne_true, fun hw => absurd hw Bool.false_ne_true⟩
  have hw : (dst.isDst) = true := hw
  have v_dst := Reg.code_lt dst
  have v_level := level.isLt
  refine ⟨?_, fun h he => ?_⟩
  · show SFits ⟨0x26, dst.code, 0, 0, level.toNat, 0⟩
    refine ⟨?_, ?_, ?_, ?_, ?_, ?_⟩ <;> dsimp only <;> omega
  · clear he
    have gx : (if h then some 0 else none : Option Nat).getD 0 = 0 := by cases h <;> rfl
    have g : (encS (.levid dst level)).raw h = ⟨0x26, dst.code, 0, 0, level.toNat, if h then some (0) else none⟩ := rfl
    rw [g]
    refine decodeS_X (by show 0x26 < 0x38; decide) rfl ?_
    unfold decodeX
    dsimp only
    have e0 : fld (level.toNat) 3 3 = 0 := by simp only [fld, Nat.reduceAdd, Nat.reduceSub, Nat.reducePow]; omega
    have e1 : fld (level.toNat) 2 0 = level.toNat := by simp only [fld, Nat.reduceAdd, Nat.reduceSub, Nat.reducePow]; omega
    simp [decAddr, SRaw.x, gx, dec_bind, dec_pure, zeroS_cons, zeroS_nil, if_true, BitVec.ofNat_toNat, BitVec.setWidth_eq, finOfNat_self, boolNat, Dir.ofCode_code, Scope.ofCode_code, RedOp.ofCode_code, RstKind.ofCode_code, LkCond.ofCode_code, Cond.ofCode_code, Ty.ofCode_code, okOr, fld_zero, needExt, Option.isSome_some, need_ok, e0, e1, decReg_code _ hw]

theorem ld (fg : Bool) (ty : BitVec 3) (dst : Reg) (a : Addr) : Statement (.ld fg ty dst a) := by
  refine ⟨fun hw => ?_, fun hw => absurd hw Bool.false_ne_true, fun hw => absurd hw Bool.false_ne_true⟩
  have hw : (dst.isDst && a.base.isSrc) = true := hw
  simp only [Bool.and_eq_true, bne_iff_ne, ne_eq, beq_iff_eq, Bool.or_eq_true, Bool.not_eq_true'] at hw
  obtain ⟨h1, h2⟩ := hw
  have v_fg := Bool.toNat_lt fg
  have v_ty := ty.isLt
  have v_dst := Reg.code_lt dst
  have v_a := Reg.code_lt a.base
  have w_a := a.disp.isLt
  refine ⟨?_, fun h he => ?_⟩
  · show SFits ⟨0x27, dst.code, a.base.code, 0, ty.toNat + 8 * fg.toNat, a.disp.toNat⟩
    refine ⟨?_, ?_, ?_, ?_, ?_, ?_⟩ <;> dsimp only <;> omega
  · have gx : (if h then some (a.disp.toNat) else none : Option Nat).getD 0 = a.disp.toNat := by
      cases h with
      | true => rfl
      | false => have he : ((false || (a.disp) == 0) : Bool) = true := he; simp only [Bool.false_or, beq_iff_eq] at he; rw [he]; rfl
    have g : (encS (.ld fg ty dst a)).raw h = ⟨0x27, dst.code, a.base.code, 0, ty.toNat + 8 * fg.toNat, if h then some (a.disp.toNat) else none⟩ := rfl
    rw [g]
    refine decodeS_M (by show 0x27 < 0x38; decide) rfl rfl ?_
    unfold decodeM
    dsimp only
    have e0 : fld (ty.toNat + 8 * fg.toNat) 3 3 = fg.toNat := by simp only [fld, Nat.reduceAdd, Nat.reduceSub, Nat.reducePow]; omega
    have e1 : fld (ty.toNat + 8 * fg.toNat) 2 0 = ty.toNat := by simp only [fld, Nat.reduceAdd, Nat.reduceSub, Nat.reducePow]; omega
    simp [decAddr, SRaw.x, gx, dec_bind, dec_pure, zeroS_cons, zeroS_nil, if_true, BitVec.ofNat_toNat, BitVec.setWidth_eq, finOfNat_self, boolNat, Dir.ofCode_code, Scope.ofCode_code, RedOp.ofCode_code, RstKind.ofCode_code, LkCond.ofCode_code, Cond.ofCode_code, Ty.ofCode_code, okOr, fld_zero, needExt, Option.isSome_some, need_ok, e0, e1, decReg_code _ h1, decReg_code _ h2]

theorem st (ty : BitVec 3) (src : Reg) (a : Addr) : Statement (.st ty src a) := by
  refine ⟨fun hw => ?_, fun hw => absurd hw Bool.false_ne_true, fun hw => absurd hw Bool.false_ne_true⟩
  have hw : (src.isSrc && a.base.isSrc) = true := hw
  simp only [Bool.and_eq_true, bne_iff_ne, ne_eq, beq_iff_eq, Bool.or_eq_true, Bool.not_eq_true'] at hw
  obtain ⟨h1, h2⟩ := hw
  have v_ty := ty.isLt
  have v_src := Reg.code_lt src
  have v_a := Reg.code_lt a.base
  have w_a := a.disp.isLt
  refine ⟨?_, fun h he => ?_⟩
  · show SFits ⟨0x28, src.code, a.base.code, 0, ty.toNat, a.disp.toNat⟩
    refine ⟨?_, ?_, ?_, ?_, ?_, ?_⟩ <;> dsimp only <;> omega
  · have gx : (if h then some (a.disp.toNat) else none : Option Nat).getD 0 = a.disp.toNat := by
      cases h with
      | true => rfl
      | false => have he : ((false || (a.disp) == 0) : Bool) = true := he; simp only [Bool.false_or, beq_iff_eq] at he; rw [he]; rfl
    have g : (encS (.st ty src a)).raw h = ⟨0x28, src.code, a.base.code, 0, ty.toNat, if h then some (a.disp.toNat) else none⟩ := rfl
    rw [g]
    refine decodeS_M (by show 0x28 < 0x38; decide) rfl rfl ?_
    unfold decodeM
    dsimp only
    have e0 : fld (ty.toNat) 3 3 = 0 := by simp only [fld, Nat.reduceAdd, Nat.reduceSub, Nat.reducePow]; omega
    have e1 : fld (ty.toNat) 2 0 = ty.toNat := by simp only [fld, Nat.reduceAdd, Nat.reduceSub, Nat.reducePow]; omega
    simp [decAddr, SRaw.x, gx, dec_bind, dec_pure, zeroS_cons, zeroS_nil, if_true, BitVec.ofNat_toNat, BitVec.setWidth_eq, finOfNat_self, boolNat, Dir.ofCode_code, Scope.ofCode_code, RedOp.ofCode_code, RstKind.ofCode_code, LkCond.ofCode_code, Cond.ofCode_code, Ty.ofCode_code, okOr, fld_zero, needExt, Option.isSome_some, need_ok, e0, e1, decReg_code _ h1, decReg_code _ h2]

theorem vld (v : Fin 16) (a : Addr) : Statement (.vld v a) := by
  refine ⟨fun hw => ?_, fun hw => absurd hw Bool.false_ne_true, fun hw => absurd hw Bool.false_ne_true⟩
  have hw : (a.base.isSrc) = true := hw
  have v_v := v.isLt
  have v_a := Reg.code_lt a.base
  have w_a := a.disp.isLt
  refine ⟨?_, fun h he => ?_⟩
  · show SFits ⟨0x29, v.val, a.base.code, 0, 0, a.disp.toNat⟩
    refine ⟨?_, ?_, ?_, ?_, ?_, ?_⟩ <;> dsimp only <;> omega
  · have gx : (if h then some (a.disp.toNat) else none : Option Nat).getD 0 = a.disp.toNat := by
      cases h with
      | true => rfl
      | false => have he : ((false || (a.disp) == 0) : Bool) = true := he; simp only [Bool.false_or, beq_iff_eq] at he; rw [he]; rfl
    have g : (encS (.vld v a)).raw h = ⟨0x29, v.val, a.base.code, 0, 0, if h then some (a.disp.toNat) else none⟩ := rfl
    rw [g]
    refine decodeS_M (by show 0x29 < 0x38; decide) rfl rfl ?_
    unfold decodeM
    dsimp only
    have e0 : fld (v.val) 5 4 = 0 := by simp only [fld, Nat.reduceAdd, Nat.reduceSub, Nat.reducePow]; omega
    have e1 : fld (v.val) 3 0 = v.val := by simp only [fld, Nat.reduceAdd, Nat.reduceSub, Nat.reducePow]; omega
    simp [decAddr, SRaw.x, gx, dec_bind, dec_pure, zeroS_cons, zeroS_nil, if_true, BitVec.ofNat_toNat, BitVec.setWidth_eq, finOfNat_self, boolNat, Dir.ofCode_code, Scope.ofCode_code, RedOp.ofCode_code, RstKind.ofCode_code, LkCond.ofCode_code, Cond.ofCode_code, Ty.ofCode_code, okOr, fld_zero, needExt, Option.isSome_some, need_ok, e0, e1, decReg_code _ hw]

theorem vst (v : Fin 16) (a : Addr) : Statement (.vst v a) := by
  refine ⟨fun hw => ?_, fun hw => absurd hw Bool.false_ne_true, fun hw => absurd hw Bool.false_ne_true⟩
  have hw : (a.base.isSrc) = true := hw
  have v_v := v.isLt
  have v_a := Reg.code_lt a.base
  have w_a := a.disp.isLt
  refine ⟨?_, fun h he => ?_⟩
  · show SFits ⟨0x2A, v.val, a.base.code, 0, 0, a.disp.toNat⟩
    refine ⟨?_, ?_, ?_, ?_, ?_, ?_⟩ <;> dsimp only <;> omega
  · have gx : (if h then some (a.disp.toNat) else none : Option Nat).getD 0 = a.disp.toNat := by
      cases h with
      | true => rfl
      | false => have he : ((false || (a.disp) == 0) : Bool) = true := he; simp only [Bool.false_or, beq_iff_eq] at he; rw [he]; rfl
    have g : (encS (.vst v a)).raw h = ⟨0x2A, v.val, a.base.code, 0, 0, if h then some (a.disp.toNat) else none⟩ := rfl
    rw [g]
    refine decodeS_M (by show 0x2A < 0x38; decide) rfl rfl ?_
    unfold decodeM
    dsimp only
    have e0 : fld (v.val) 5 4 = 0 := by simp only [fld, Nat.reduceAdd, Nat.reduceSub, Nat.reducePow]; omega
    have e1 : fld (v.val) 3 0 = v.val := by simp only [fld, Nat.reduceAdd, Nat.reduceSub, Nat.reducePow]; omega
    simp [decAddr, SRaw.x, gx, dec_bind, dec_pure, zeroS_cons, zeroS_nil, if_true, BitVec.ofNat_toNat, BitVec.setWidth_eq, finOfNat_self, boolNat, Dir.ofCode_code, Scope.ofCode_code, RedOp.ofCode_code, RstKind.ofCode_code, LkCond.ofCode_code, Cond.ofCode_code, Ty.ofCode_code, okOr, fld_zero, needExt, Option.isSome_some, need_ok, e0, e1, decReg_code _ hw]

theorem bpack (all : Bool) (v : Fin 16) (ctl : Reg) (a : Addr) : Statement (.bpack all v ctl a) := by
  refine ⟨fun hw => ?_, fun hw => absurd hw Bool.false_ne_true, fun hw => absurd hw Bool.false_ne_true⟩
  have hw : (v.val % 2 == 0 && ctl.isSrc && a.base.isSrc) = true := hw
  simp only [Bool.and_eq_true, bne_iff_ne, ne_eq, beq_iff_eq, Bool.or_eq_true, Bool.not_eq_true'] at hw
  obtain ⟨⟨h0, h1⟩, h2⟩ := hw
  have v_all := Bool.toNat_lt all
  have v_v := v.isLt
  have v_ctl := Reg.code_lt ctl
  have v_a := Reg.code_lt a.base
  have w_a := a.disp.isLt
  refine ⟨?_, fun h he => ?_⟩
  · show SFits ⟨0x2B, v.val, a.base.code, ctl.code, all.toNat, a.disp.toNat⟩
    refine ⟨?_, ?_, ?_, ?_, ?_, ?_⟩ <;> dsimp only <;> omega
  · have gx : (if h then some (a.disp.toNat) else none : Option Nat).getD 0 = a.disp.toNat := by
      cases h with
      | true => rfl
      | false => have he : ((false || (a.disp) == 0) : Bool) = true := he; simp only [Bool.false_or, beq_iff_eq] at he; rw [he]; rfl
    have g : (encS (.bpack all v ctl a)).raw h = ⟨0x2B, v.val, a.base.code, ctl.code, all.toNat, if h then some (a.disp.toNat) else none⟩ := rfl
    rw [g]
    refine decodeS_M (by show 0x2B < 0x38; decide) rfl rfl ?_
    unfold decodeM
    dsimp only
    have e0 : fld (v.val) 5 4 = 0 := by simp only [fld, Nat.reduceAdd, Nat.reduceSub, Nat.reducePow]; omega
    have e1 : fld (v.val) 3 0 = v.val := by simp only [fld, Nat.reduceAdd, Nat.reduceSub, Nat.reducePow]; omega
    have e2 : fld (v.val) 0 0 = 0 := by simp only [fld, Nat.reduceAdd, Nat.reduceSub, Nat.reducePow]; omega
    have e3 : fld (all.toNat) 3 1 = 0 := by simp only [fld, Nat.reduceAdd, Nat.reduceSub, Nat.reducePow]; omega
    have e4 : fld (all.toNat) 0 0 = all.toNat := by simp only [fld, Nat.reduceAdd, Nat.reduceSub, Nat.reducePow]; omega
    simp [decAddr, SRaw.x, gx, dec_bind, dec_pure, zeroS_cons, zeroS_nil, if_true, BitVec.ofNat_toNat, BitVec.setWidth_eq, finOfNat_self, boolNat, Dir.ofCode_code, Scope.ofCode_code, RedOp.ofCode_code, RstKind.ofCode_code, LkCond.ofCode_code, Cond.ofCode_code, Ty.ofCode_code, okOr, fld_zero, needExt, Option.isSome_some, need_ok, e0, e1, e2, e3, e4, decReg_code _ h1, decReg_code _ h2]

theorem bunpk (ty : Ty) (v : Fin 16) (ctl : Reg) (a : Addr) : Statement (.bunpk ty v ctl a) := by
  refine ⟨fun hw => ?_, fun hw => absurd hw Bool.false_ne_true, fun hw => absurd hw Bool.false_ne_true⟩
  have hw : (ctl.isSrc && a.base.isSrc) = true := hw
  simp only [Bool.and_eq_true, bne_iff_ne, ne_eq, beq_iff_eq, Bool.or_eq_true, Bool.not_eq_true'] at hw
  obtain ⟨h1, h2⟩ := hw
  have v_ty := Ty.code_lt ty
  have v_v := v.isLt
  have v_ctl := Reg.code_lt ctl
  have v_a := Reg.code_lt a.base
  have w_a := a.disp.isLt
  refine ⟨?_, fun h he => ?_⟩
  · show SFits ⟨0x2C, v.val, a.base.code, ctl.code, ty.code, a.disp.toNat⟩
    refine ⟨?_, ?_, ?_, ?_, ?_, ?_⟩ <;> dsimp only <;> omega
  · have gx : (if h then some (a.disp.toNat) else none : Option Nat).getD 0 = a.disp.toNat := by
      cases h with
      | true => rfl
      | false => have he : ((false || (a.disp) == 0) : Bool) = true := he; simp only [Bool.false_or, beq_iff_eq] at he; rw [he]; rfl
    have g : (encS (.bunpk ty v ctl a)).raw h = ⟨0x2C, v.val, a.base.code, ctl.code, ty.code, if h then some (a.disp.toNat) else none⟩ := rfl
    rw [g]
    refine decodeS_M (by show 0x2C < 0x38; decide) rfl rfl ?_
    unfold decodeM
    dsimp only
    have e0 : fld (v.val) 5 4 = 0 := by simp only [fld, Nat.reduceAdd, Nat.reduceSub, Nat.reducePow]; omega
    have e1 : fld (v.val) 3 0 = v.val := by simp only [fld, Nat.reduceAdd, Nat.reduceSub, Nat.reducePow]; omega
    simp [decAddr, SRaw.x, gx, dec_bind, dec_pure, zeroS_cons, zeroS_nil, if_true, BitVec.ofNat_toNat, BitVec.setWidth_eq, finOfNat_self, boolNat, Dir.ofCode_code, Scope.ofCode_code, RedOp.ofCode_code, RstKind.ofCode_code, LkCond.ofCode_code, Cond.ofCode_code, Ty.ofCode_code, okOr, fld_zero, needExt, Option.isSome_some, need_ok, e0, e1, decReg_code _ h1, decReg_code _ h2]

theorem ldfe (n64 : Bool) (dst : Reg) (a : Addr) : Statement (.ldfe n64 dst a) := by
  refine ⟨fun hw => ?_, fun hw => absurd hw Bool.false_ne_true, fun hw => absurd hw Bool.false_ne_true⟩
  have hw : (dst.isDst && a.base.isSrc) = true := hw
  simp only [Bool.and_eq_true, bne_iff_ne, ne_eq, beq_iff_eq, Bool.or_eq_true, Bool.not_eq_true'] at hw
  obtain ⟨h1, h2⟩ := hw
  have v_n64 := Bool.toNat_lt n64
  have v_dst := Reg.code_lt dst
  have v_a := Reg.code_lt a.base
  have w_a := a.disp.isLt
  have e0 : ((6 + n64.toNat == 6 || 6 + n64.toNat == 7) : Bool) = true := by cases n64 <;> rfl
  have e1 : (6 + n64.toNat == 7) = n64 := by cases n64 <;> rfl
  refine ⟨?_, fun h he => ?_⟩
  · show SFits ⟨0x2D, dst.code, a.base.code, 0, 6 + n64.toNat, a.disp.toNat⟩
    refine ⟨?_, ?_, ?_, ?_, ?_, ?_⟩ <;> dsimp only <;> omega
  · have gx : (if h then some (a.disp.toNat) else none : Option Nat).getD 0 = a.disp.toNat := by
      cases h with
      | true => rfl
      | false => have he : ((false || (a.disp) == 0) : Bool) = true := he; simp only [Bool.false_or, beq_iff_eq] at he; rw [he]; rfl
    have g : (encS (.ldfe n64 dst a)).raw h = ⟨0x2D, dst.code, a.base.code, 0, 6 + n64.toNat, if h then some (a.disp.toNat) else none⟩ := rfl
    rw [g]
    refine decodeS_M (by show 0x2D < 0x38; decide) rfl rfl ?_
    unfold decodeM
    dsimp only
    simp [decAddr, SRaw.x, gx, dec_bind, dec_pure, zeroS_cons, zeroS_nil, if_true, BitVec.ofNat_toNat, BitVec.setWidth_eq, finOfNat_self, boolNat, Dir.ofCode_code, Scope.ofCode_code, RedOp.ofCode_code, RstKind.ofCode_code, LkCond.ofCode_code, Cond.ofCode_code, Ty.ofCode_code, okOr, fld_zero, needExt, Option.isSome_some, need_ok, decReg_code _ h1, decReg_code _ h2, e0, e1, -Nat.reduceEqDiff, -Nat.add_eq_left]

theorem stfe (n64 : Bool) (src : Reg) (a : Addr) : Statement (.stfe n64 src a) := by
  refine ⟨fun hw => ?_, fun hw => absurd hw Bool.false_ne_true, fun hw => absurd hw Bool.false_ne_true⟩
  have hw : (src.isSrc && a.base.isSrc) = true := hw
  simp only [Bool.and_eq_true, bne_iff_ne, ne_eq, beq_iff_eq, Bool.or_eq_true, Bool.not_eq_true'] at hw
  obtain ⟨h1, h2⟩ := hw
  have v_n64 := Bool.toNat_lt n64
  have v_src := Reg.code_lt src
  have v_a := Reg.code_lt a.base
  have w_a := a.disp.isLt
  have e0 : ((6 + n64.toNat == 6 || 6 + n64.toNat == 7) : Bool) = true := by cases n64 <;> rfl
  have e1 : (6 + n64.toNat == 7) = n64 := by cases n64 <;> rfl
  refine ⟨?_, fun h he => ?_⟩
  · show SFits ⟨0x2E, src.code, a.base.code, 0, 6 + n64.toNat, a.disp.toNat⟩
    refine ⟨?_, ?_, ?_, ?_, ?_, ?_⟩ <;> dsimp only <;> omega
  · have gx : (if h then some (a.disp.toNat) else none : Option Nat).getD 0 = a.disp.toNat := by
      cases h with
      | true => rfl
      | false => have he : ((false || (a.disp) == 0) : Bool) = true := he; simp only [Bool.false_or, beq_iff_eq] at he; rw [he]; rfl
    have g : (encS (.stfe n64 src a)).raw h = ⟨0x2E, src.code, a.base.code, 0, 6 + n64.toNat, if h then some (a.disp.toNat) else none⟩ := rfl
    rw [g]
    refine decodeS_M (by show 0x2E < 0x38; decide) rfl rfl ?_
    unfold decodeM
    dsimp only
    simp [decAddr, SRaw.x, gx, dec_bind, dec_pure, zeroS_cons, zeroS_nil, if_true, BitVec.ofNat_toNat, BitVec.setWidth_eq, finOfNat_self, boolNat, Dir.ofCode_code, Scope.ofCode_code, RedOp.ofCode_code, RstKind.ofCode_code, LkCond.ofCode_code, Cond.ofCode_code, Ty.ofCode_code, okOr, fld_zero, needExt, Option.isSome_some, need_ok, decReg_code _ h1, decReg_code _ h2, e0, e1, -Nat.reduceEqDiff, -Nat.add_eq_left]

theorem hold (fg : Bool) (dst : Reg) (a : Addr) : Statement (.hold fg dst a) := by
  refine ⟨fun hw => ?_, fun hw => absurd hw Bool.false_ne_true, fun hw => absurd hw Bool.false_ne_true⟩
  have hw : (dst.isDst && a.base.isSrc) = true := hw
  simp only [Bool.and_eq_true, bne_iff_ne, ne_eq, beq_iff_eq, Bool.or_eq_true, Bool.not_eq_true'] at hw
  obtain ⟨h1, h2⟩ := hw
  have v_fg := Bool.toNat_lt fg
  have v_dst := Reg.code_lt dst
  have v_a := Reg.code_lt a.base
  have w_a := a.disp.isLt
  refine ⟨?_, fun h he => ?_⟩
  · show SFits ⟨0x31, dst.code, a.base.code, 0, fg.toNat, a.disp.toNat⟩
    refine ⟨?_, ?_, ?_, ?_, ?_, ?_⟩ <;> dsimp only <;> omega
  · have gx : (if h then some (a.disp.toNat) else none : Option Nat).getD 0 = a.disp.toNat := by
      cases h with
      | true => rfl
      | false => have he : ((false || (a.disp) == 0) : Bool) = true := he; simp only [Bool.false_or, beq_iff_eq] at he; rw [he]; rfl
    have g : (encS (.hold fg dst a)).raw h = ⟨0x31, dst.code, a.base.code, 0, fg.toNat, if h then some (a.disp.toNat) else none⟩ := rfl
    rw [g]
    refine decodeS_M (by show 0x31 < 0x38; decide) rfl rfl ?_
    unfold decodeM
    dsimp only
    have e0 : fld (fg.toNat) 3 1 = 0 := by simp only [fld, Nat.reduceAdd, Nat.reduceSub, Nat.reducePow]; omega
    have e1 : fld (fg.toNat) 0 0 = fg.toNat := by simp only [fld, Nat.reduceAdd, Nat.reduceSub, Nat.reducePow]; omega
    simp [decAddr, SRaw.x, gx, dec_bind, dec_pure, zeroS_cons, zeroS_nil, if_true, BitVec.ofNat_toNat, BitVec.setWidth_eq, finOfNat_self, boolNat, Dir.ofCode_code, Scope.ofCode_code, RedOp.ofCode_code, RstKind.ofCode_code, LkCond.ofCode_code, Cond.ofCode_code, Ty.ofCode_code, okOr, fld_zero, needExt, Option.isSome_some, need_ok, e0, e1, decReg_code _ h1, decReg_code _ h2]

theorem hrel (src : Reg) (a : Addr) : Statement (.hrel src a) := by
  refine ⟨fun hw => ?_, fun hw => absurd hw Bool.false_ne_true, fun hw => absurd hw Bool.false_ne_true⟩
  have hw : (src.isSrc && a.base.isSrc) = true := hw
  simp only [Bool.and_eq_true, bne_iff_ne, ne_eq, beq_iff_eq, Bool.or_eq_true, Bool.not_eq_true'] at hw
  obtain ⟨h1, h2⟩ := hw
  have v_src := Reg.code_lt src
  have v_a := Reg.code_lt a.base
  have w_a := a.disp.isLt
  refine ⟨?_, fun h he => ?_⟩
  · show SFits ⟨0x32, src.code, a.base.code, 0, 0, a.disp.toNat⟩
    refine ⟨?_, ?_, ?_, ?_, ?_, ?_⟩ <;> dsimp only <;> omega
  · have gx : (if h then some (a.disp.toNat) else none : Option Nat).getD 0 = a.disp.toNat := by
      cases h with
      | true => rfl
      | false => have he : ((false || (a.disp) == 0) : Bool) = true := he; simp only [Bool.false_or, beq_iff_eq] at he; rw [he]; rfl
    have g : (encS (.hrel src a)).raw h = ⟨0x32, src.code, a.base.code, 0, 0, if h then some (a.disp.toNat) else none⟩ := rfl
    rw [g]
    refine decodeS_M (by show 0x32 < 0x38; decide) rfl rfl ?_
    unfold decodeM
    dsimp only
    simp [decAddr, SRaw.x, gx, dec_bind, dec_pure, zeroS_cons, zeroS_nil, if_true, BitVec.ofNat_toNat, BitVec.setWidth_eq, finOfNat_self, boolNat, Dir.ofCode_code, Scope.ofCode_code, RedOp.ofCode_code, RstKind.ofCode_code, LkCond.ofCode_code, Cond.ofCode_code, Ty.ofCode_code, okOr, fld_zero, needExt, Option.isSome_some, need_ok, decReg_code _ h1, decReg_code _ h2]

theorem red (op : RedOp) (src : Reg) (a : Addr) : Statement (.red op src a) := by
  refine ⟨fun hw => ?_, fun hw => absurd hw Bool.false_ne_true, fun hw => absurd hw Bool.false_ne_true⟩
  have hw : (src.isSrc && a.base.isSrc) = true := hw
  simp only [Bool.and_eq_true, bne_iff_ne, ne_eq, beq_iff_eq, Bool.or_eq_true, Bool.not_eq_true'] at hw
  obtain ⟨h1, h2⟩ := hw
  have v_op := RedOp.code_lt op
  have v_src := Reg.code_lt src
  have v_a := Reg.code_lt a.base
  have w_a := a.disp.isLt
  refine ⟨?_, fun h he => ?_⟩
  · show SFits ⟨0x33, src.code, a.base.code, 0, op.code, a.disp.toNat⟩
    refine ⟨?_, ?_, ?_, ?_, ?_, ?_⟩ <;> dsimp only <;> omega
  · have gx : (if h then some (a.disp.toNat) else none : Option Nat).getD 0 = a.disp.toNat := by
      cases h with
      | true => rfl
      | false => have he : ((false || (a.disp) == 0) : Bool) = true := he; simp only [Bool.false_or, beq_iff_eq] at he; rw [he]; rfl
    have g : (encS (.red op src a)).raw h = ⟨0x33, src.code, a.base.code, 0, op.code, if h then some (a.disp.toNat) else none⟩ := rfl
    rw [g]
    refine decodeS_M (by show 0x33 < 0x38; decide) rfl rfl ?_
    unfold decodeM
    dsimp only
    simp [decAddr, SRaw.x, gx, dec_bind, dec_pure, zeroS_cons, zeroS_nil, if_true, BitVec.ofNat_toNat, BitVec.setWidth_eq, finOfNat_self, boolNat, Dir.ofCode_code, Scope.ofCode_code, RedOp.ofCode_code, RstKind.ofCode_code, LkCond.ofCode_code, Cond.ofCode_code, Ty.ofCode_code, okOr, fld_zero, needExt, Option.isSome_some, need_ok, decReg_code _ h1, decReg_code _ h2]

theorem xsum (ty : Ty) (src : Reg) (a : Addr) : Statement (.xsum ty src a) := by
  refine ⟨fun hw => ?_, fun hw => absurd hw Bool.false_ne_true, fun hw => absurd hw Bool.false_ne_true⟩
  have hw : (src.isSrc && a.base.isSrc && ty.isFloat) = true := hw
  simp only [Bool.and_eq_true, bne_iff_ne, ne_eq, beq_iff_eq, Bool.or_eq_true, Bool.not_eq_true'] at hw
  obtain ⟨⟨h1, h2⟩, h3⟩ := hw
  have v_ty := Ty.code_lt ty
  have v_src := Reg.code_lt src
  have v_a := Reg.code_lt a.base
  have w_a := a.disp.isLt
  refine ⟨?_, fun h he => ?_⟩
  · show SFits ⟨0x34, src.code, a.base.code, 0, ty.code, a.disp.toNat⟩
    refine ⟨?_, ?_, ?_, ?_, ?_, ?_⟩ <;> dsimp only <;> omega
  · have gx : (if h then some (a.disp.toNat) else none : Option Nat).getD 0 = a.disp.toNat := by
      cases h with
      | true => rfl
      | false => have he : ((false || (a.disp) == 0) : Bool) = true := he; simp only [Bool.false_or, beq_iff_eq] at he; rw [he]; rfl
    have g : (encS (.xsum ty src a)).raw h = ⟨0x34, src.code, a.base.code, 0, ty.code, if h then some (a.disp.toNat) else none⟩ := rfl
    rw [g]
    refine decodeS_M (by show 0x34 < 0x38; decide) rfl rfl ?_
    unfold decodeM
    dsimp only
    simp [decAddr, SRaw.x, gx, dec_bind, dec_pure, zeroS_cons, zeroS_nil, if_true, BitVec.ofNat_toNat, BitVec.setWidth_eq, finOfNat_self, boolNat, Dir.ofCode_code, Scope.ofCode_code, RedOp.ofCode_code, RstKind.ofCode_code, LkCond.ofCode_code, Cond.ofCode_code, Ty.ofCode_code, okOr, fld_zero, needExt, Option.isSome_some, need_ok, decReg_code _ h1, decReg_code _ h2, h3]

theorem xread (dst : Reg) (a : Addr) : Statement (.xread dst a) := by
  refine ⟨fun hw => ?_, fun hw => absurd hw Bool.false_ne_true, fun hw => absurd hw Bool.false_ne_true⟩
  have hw : (dst.isPend && a.base.isSrc) = true := hw
  simp only [Bool.and_eq_true, bne_iff_ne, ne_eq, beq_iff_eq, Bool.or_eq_true, Bool.not_eq_true'] at hw
  obtain ⟨h1, h2⟩ := hw
  have v_dst := Reg.code_lt dst
  have v_a := Reg.code_lt a.base
  have w_a := a.disp.isLt
  refine ⟨?_, fun h he => ?_⟩
  · show SFits ⟨0x35, dst.code, a.base.code, 0, 0, a.disp.toNat⟩
    refine ⟨?_, ?_, ?_, ?_, ?_, ?_⟩ <;> dsimp only <;> omega
  · have gx : (if h then some (a.disp.toNat) else none : Option Nat).getD 0 = a.disp.toNat := by
      cases h with
      | true => rfl
      | false => have he : ((false || (a.disp) == 0) : Bool) = true := he; simp only [Bool.false_or, beq_iff_eq] at he; rw [he]; rfl
    have g : (encS (.xread dst a)).raw h = ⟨0x35, dst.code, a.base.code, 0, 0, if h then some (a.disp.toNat) else none⟩ := rfl
    rw [g]
    refine decodeS_M (by show 0x35 < 0x38; decide) rfl rfl ?_
    unfold decodeM
    dsimp only
    simp [decAddr, SRaw.x, gx, dec_bind, dec_pure, zeroS_cons, zeroS_nil, if_true, BitVec.ofNat_toNat, BitVec.setWidth_eq, finOfNat_self, boolNat, Dir.ofCode_code, Scope.ofCode_code, RedOp.ofCode_code, RstKind.ofCode_code, LkCond.ofCode_code, Cond.ofCode_code, Ty.ofCode_code, okOr, fld_zero, needExt, Option.isSome_some, need_ok, decReg_code _ h1, decReg_code _ h2]

theorem dwinit (src : Reg) (a : Addr) : Statement (.dwinit src a) := by
  refine ⟨fun hw => ?_, fun hw => absurd hw Bool.false_ne_true, fun hw => absurd hw Bool.false_ne_true⟩
  have hw : (src.isSrc && a.base.isSrc) = true := hw
  simp only [Bool.and_eq_true, bne_iff_ne, ne_eq, beq_iff_eq, Bool.or_eq_true, Bool.not_eq_true'] at hw
  obtain ⟨h1, h2⟩ := hw
  have v_src := Reg.code_lt src
  have v_a := Reg.code_lt a.base
  have w_a := a.disp.isLt
  refine ⟨?_, fun h he => ?_⟩
  · show SFits ⟨0x36, src.code, a.base.code, 0, 0, a.disp.toNat⟩
    refine ⟨?_, ?_, ?_, ?_, ?_, ?_⟩ <;> dsimp only <;> omega
  · have gx : (if h then some (a.disp.toNat) else none : Option Nat).getD 0 = a.disp.toNat := by
      cases h with
      | true => rfl
      | false => have he : ((false || (a.disp) == 0) : Bool) = true := he; simp only [Bool.false_or, beq_iff_eq] at he; rw [he]; rfl
    have g : (encS (.dwinit src a)).raw h = ⟨0x36, src.code, a.base.code, 0, 0, if h then some (a.disp.toNat) else none⟩ := rfl
    rw [g]
    refine decodeS_M (by show 0x36 < 0x38; decide) rfl rfl ?_
    unfold decodeM
    dsimp only
    simp [decAddr, SRaw.x, gx, dec_bind, dec_pure, zeroS_cons, zeroS_nil, if_true, BitVec.ofNat_toNat, BitVec.setWidth_eq, finOfNat_self, boolNat, Dir.ofCode_code, Scope.ofCode_code, RedOp.ofCode_code, RstKind.ofCode_code, LkCond.ofCode_code, Cond.ofCode_code, Ty.ofCode_code, okOr, fld_zero, needExt, Option.isSome_some, need_ok, decReg_code _ h1, decReg_code _ h2]

theorem dwwait (src : Reg) (a : Addr) : Statement (.dwwait src a) := by
  refine ⟨fun hw => ?_, fun hw => absurd hw Bool.false_ne_true, fun hw => absurd hw Bool.false_ne_true⟩
  have hw : (src.isSrc && a.base.isSrc) = true := hw
  simp only [Bool.and_eq_true, bne_iff_ne, ne_eq, beq_iff_eq, Bool.or_eq_true, Bool.not_eq_true'] at hw
  obtain ⟨h1, h2⟩ := hw
  have v_src := Reg.code_lt src
  have v_a := Reg.code_lt a.base
  have w_a := a.disp.isLt
  refine ⟨?_, fun h he => ?_⟩
  · show SFits ⟨0x37, src.code, a.base.code, 0, 0, a.disp.toNat⟩
    refine ⟨?_, ?_, ?_, ?_, ?_, ?_⟩ <;> dsimp only <;> omega
  · have gx : (if h then some (a.disp.toNat) else none : Option Nat).getD 0 = a.disp.toNat := by
      cases h with
      | true => rfl
      | false => have he : ((false || (a.disp) == 0) : Bool) = true := he; simp only [Bool.false_or, beq_iff_eq] at he; rw [he]; rfl
    have g : (encS (.dwwait src a)).raw h = ⟨0x37, src.code, a.base.code, 0, 0, if h then some (a.disp.toNat) else none⟩ := rfl
    rw [g]
    refine decodeS_M (by show 0x37 < 0x38; decide) rfl rfl ?_
    unfold decodeM
    dsimp only
    simp [decAddr, SRaw.x, gx, dec_bind, dec_pure, zeroS_cons, zeroS_nil, if_true, BitVec.ofNat_toNat, BitVec.setWidth_eq, finOfNat_self, boolNat, Dir.ofCode_code, Scope.ofCode_code, RedOp.ofCode_code, RstKind.ofCode_code, LkCond.ofCode_code, Cond.ofCode_code, Ty.ofCode_code, okOr, fld_zero, needExt, Option.isSome_some, need_ok, decReg_code _ h1, decReg_code _ h2]

theorem feinit (full : Bool) (words : BitVec 9) (a : Addr) : Statement (.feinit full words a) := by
  refine ⟨fun hw => ?_, fun hw => absurd hw Bool.false_ne_true, fun hw => absurd hw Bool.false_ne_true⟩
  have hw : (a.base.isSrc) = true := hw
  have v_full := Bool.toNat_lt full
  have v_words := words.isLt
  have v_a := Reg.code_lt a.base
  have w_a := a.disp.isLt
  have f0 : fld words.toNat 5 0 = words.toNat % 64 := by simp [fld]
  have f1 : fld words.toNat 8 6 = words.toNat / 64 := by simp only [fld, Nat.reduceAdd, Nat.reduceSub, Nat.reducePow]; omega
  refine ⟨?_, fun h he => ?_⟩
  · show SFits ⟨0x2F, 0, a.base.code, fld words.toNat 5 0, fld words.toNat 8 6 + 8 * full.toNat, a.disp.toNat⟩
    rw [f0, f1]
    refine ⟨?_, ?_, ?_, ?_, ?_, ?_⟩ <;> dsimp only <;> omega
  · have gx : (if h then some (a.disp.toNat) else none : Option Nat).getD 0 = a.disp.toNat := by
      cases h with
      | true => rfl
      | false => have he : ((false || (a.disp == 0)) : Bool) = true := he; simp only [Bool.false_or, beq_iff_eq] at he; rw [he]; rfl
    have g : (encS (.feinit full words a)).raw h = ⟨0x2F, 0, a.base.code, fld words.toNat 5 0, fld words.toNat 8 6 + 8 * full.toNat,
      if h then some (a.disp.toNat) else none⟩ := rfl
    rw [g, f0, f1]
    refine decodeS_M (by show 0x2F < 0x38; decide) rfl rfl ?_
    unfold decodeM
    dsimp only
    have e0 : fld (words.toNat / 64 + 8 * full.toNat) 3 3 = full.toNat := by simp only [fld, Nat.reduceAdd, Nat.reduceSub, Nat.reducePow]; omega
    have e1 : fld (words.toNat / 64 + 8 * full.toNat) 2 0 = words.toNat / 64 := by
      simp only [fld, Nat.reduceAdd, Nat.reduceSub, Nat.reducePow]; omega
    have e2 : words.toNat / 64 * 64 + words.toNat % 64 = words.toNat := by omega
    simp [decAddr, SRaw.x, gx, dec_bind, dec_pure, zeroS_cons, zeroS_nil, BitVec.ofNat_toNat, BitVec.setWidth_eq, boolNat, e0, e1, e2,
      need_ok, decReg_code _ hw]

theorem fence (k : FenceKind) (sc : Scope) : Statement (.fence k sc) := by
  refine ⟨fun hw => ?_, fun hw => absurd hw Bool.false_ne_true, fun hw => absurd hw Bool.false_ne_true⟩
  have v_k := FenceKind.code_lt k
  have v_sc := Scope.code_lt sc
  refine ⟨?_, fun h he => ?_⟩
  · show SFits ⟨0x38, 0, 0, 0, 0, k.code + 4 * sc.code⟩
    refine ⟨?_, ?_, ?_, ?_, ?_, ?_⟩ <;> dsimp only <;> omega
  · have he : h = true := he
    subst he
    have g : (encS (.fence k sc)).raw true = ⟨0x38, 0, 0, 0, 0, some (k.code + 4 * sc.code)⟩ := rfl
    rw [g]
    apply decodeS_slot
    rw [decodeSlot_Sync rfl]
    unfold decodeSync
    dsimp only
    have e0 : fld (k.code + 4 * sc.code) 31 4 = 0 := by simp only [fld, Nat.reduceAdd, Nat.reduceSub, Nat.reducePow]; omega
    have e1 : fld (k.code + 4 * sc.code) 1 0 = k.code := by simp only [fld, Nat.reduceAdd, Nat.reduceSub, Nat.reducePow]; omega
    have e2 : fld (k.code + 4 * sc.code) 3 2 = sc.code := by simp only [fld, Nat.reduceAdd, Nat.reduceSub, Nat.reducePow]; omega
    simp [decAddr, SRaw.x, Option.getD_some, dec_bind, dec_pure, zeroS_cons, zeroS_nil, if_true, BitVec.ofNat_toNat, BitVec.setWidth_eq, finOfNat_self, boolNat, Dir.ofCode_code, Scope.ofCode_code, RedOp.ofCode_code, RstKind.ofCode_code, LkCond.ofCode_code, Cond.ofCode_code, Ty.ofCode_code, okOr, fld_zero, needExt, Option.isSome_some, need_ok, e0, e1, e2]
    cases k <;> rfl

theorem spfence  : Statement (.spfence) := by
  refine ⟨fun hw => ?_, fun hw => absurd hw Bool.false_ne_true, fun hw => absurd hw Bool.false_ne_true⟩
  refine ⟨?_, fun h he => ?_⟩
  · show SFits ⟨0x38, 0, 0, 0, 1, 0⟩
    refine ⟨?_, ?_, ?_, ?_, ?_, ?_⟩ <;> dsimp only <;> omega
  · have he : h = true := he
    subst he
    have g : (encS (.spfence)).raw true = ⟨0x38, 0, 0, 0, 1, some (0)⟩ := rfl
    rw [g]
    apply decodeS_slot
    rw [decodeSlot_Sync rfl]
    unfold decodeSync
    dsimp only
    simp [decAddr, SRaw.x, Option.getD_some, dec_bind, dec_pure, zeroS_cons, zeroS_nil, if_true, BitVec.ofNat_toNat, BitVec.setWidth_eq, finOfNat_self, boolNat, Dir.ofCode_code, Scope.ofCode_code, RedOp.ofCode_code, RstKind.ofCode_code, LkCond.ofCode_code, Cond.ofCode_code, Ty.ofCode_code, okOr, fld_zero, needExt, Option.isSome_some, need_ok]

theorem unbind (slot : BitVec 4) : Statement (.unbind slot) := by
  refine ⟨fun hw => ?_, fun hw => absurd hw Bool.false_ne_true, fun hw => absurd hw Bool.false_ne_true⟩
  have v_slot := slot.isLt
  refine ⟨?_, fun h he => ?_⟩
  · show SFits ⟨0x38, 0, 0, 0, 5, slot.toNat⟩
    refine ⟨?_, ?_, ?_, ?_, ?_, ?_⟩ <;> dsimp only <;> omega
  · have he : h = true := he
    subst he
    have g : (encS (.unbind slot)).raw true = ⟨0x38, 0, 0, 0, 5, some (slot.toNat)⟩ := rfl
    rw [g]
    apply decodeS_slot
    rw [decodeSlot_Sync rfl]
    unfold decodeSync
    dsimp only
    have e0 : fld (slot.toNat) 31 4 = 0 := by simp only [fld, Nat.reduceAdd, Nat.reduceSub, Nat.reducePow]; omega
    have e1 : fld (slot.toNat) 3 0 = slot.toNat := by simp only [fld, Nat.reduceAdd, Nat.reduceSub, Nat.reducePow]; omega
    simp [decAddr, SRaw.x, Option.getD_some, dec_bind, dec_pure, zeroS_cons, zeroS_nil, if_true, BitVec.ofNat_toNat, BitVec.setWidth_eq, finOfNat_self, boolNat, Dir.ofCode_code, Scope.ofCode_code, RedOp.ofCode_code, RstKind.ofCode_code, LkCond.ofCode_code, Cond.ofCode_code, Ty.ofCode_code, okOr, fld_zero, needExt, Option.isSome_some, need_ok, e0, e1]

theorem trig  : Statement (.trig) := by
  refine ⟨fun hw => ?_, fun hw => absurd hw Bool.false_ne_true, fun hw => absurd hw Bool.false_ne_true⟩
  refine ⟨?_, fun h he => ?_⟩
  · show SFits ⟨0x38, 0, 0, 0, 6, 0⟩
    refine ⟨?_, ?_, ?_, ?_, ?_, ?_⟩ <;> dsimp only <;> omega
  · have he : h = true := he
    subst he
    have g : (encS (.trig)).raw true = ⟨0x38, 0, 0, 0, 6, some (0)⟩ := rfl
    rw [g]
    apply decodeS_slot
    rw [decodeSlot_Sync rfl]
    unfold decodeSync
    dsimp only
    simp [decAddr, SRaw.x, Option.getD_some, dec_bind, dec_pure, zeroS_cons, zeroS_nil, if_true, BitVec.ofNat_toNat, BitVec.setWidth_eq, finOfNat_self, boolNat, Dir.ofCode_code, Scope.ofCode_code, RedOp.ofCode_code, RstKind.ofCode_code, LkCond.ofCode_code, Cond.ofCode_code, Ty.ofCode_code, okOr, fld_zero, needExt, Option.isSome_some, need_ok]

theorem chwait (k : BitVec 4) (src : Reg) : Statement (.chwait k src) := by
  refine ⟨fun hw => ?_, fun hw => absurd hw Bool.false_ne_true, fun hw => absurd hw Bool.false_ne_true⟩
  have hw : (selOk k.toNat && src.isSrc) = true := hw
  simp only [Bool.and_eq_true, bne_iff_ne, ne_eq, beq_iff_eq, Bool.or_eq_true, Bool.not_eq_true'] at hw
  obtain ⟨h0, h1⟩ := hw
  have v_k := k.isLt
  have v_src := Reg.code_lt src
  refine ⟨?_, fun h he => ?_⟩
  · show SFits ⟨0x38, 0, src.code, 0, 7, k.toNat⟩
    refine ⟨?_, ?_, ?_, ?_, ?_, ?_⟩ <;> dsimp only <;> omega
  · have he : h = true := he
    subst he
    have g : (encS (.chwait k src)).raw true = ⟨0x38, 0, src.code, 0, 7, some (k.toNat)⟩ := rfl
    rw [g]
    apply decodeS_slot
    rw [decodeSlot_Sync rfl]
    unfold decodeSync
    dsimp only
    have e0 : fld (k.toNat) 31 4 = 0 := by simp only [fld, Nat.reduceAdd, Nat.reduceSub, Nat.reducePow]; omega
    have e1 : fld (k.toNat) 3 0 = k.toNat := by simp only [fld, Nat.reduceAdd, Nat.reduceSub, Nat.reducePow]; omega
    simp [decAddr, SRaw.x, Option.getD_some, dec_bind, dec_pure, zeroS_cons, zeroS_nil, if_true, BitVec.ofNat_toNat, BitVec.setWidth_eq, finOfNat_self, boolNat, Dir.ofCode_code, Scope.ofCode_code, RedOp.ofCode_code, RstKind.ofCode_code, LkCond.ofCode_code, Cond.ofCode_code, Ty.ofCode_code, okOr, fld_zero, needExt, Option.isSome_some, need_ok, e0, e1, decReg_code _ h1, h0]

theorem chread (dst : Reg) (k : BitVec 4) : Statement (.chread dst k) := by
  refine ⟨fun hw => ?_, fun hw => absurd hw Bool.false_ne_true, fun hw => absurd hw Bool.false_ne_true⟩
  have hw : (selOk k.toNat && dst.isDst) = true := hw
  simp only [Bool.and_eq_true, bne_iff_ne, ne_eq, beq_iff_eq, Bool.or_eq_true, Bool.not_eq_true'] at hw
  obtain ⟨h0, h1⟩ := hw
  have v_dst := Reg.code_lt dst
  have v_k := k.isLt
  refine ⟨?_, fun h he => ?_⟩
  · show SFits ⟨0x38, dst.code, 0, 0, 8, k.toNat⟩
    refine ⟨?_, ?_, ?_, ?_, ?_, ?_⟩ <;> dsimp only <;> omega
  · have he : h = true := he
    subst he
    have g : (encS (.chread dst k)).raw true = ⟨0x38, dst.code, 0, 0, 8, some (k.toNat)⟩ := rfl
    rw [g]
    apply decodeS_slot
    rw [decodeSlot_Sync rfl]
    unfold decodeSync
    dsimp only
    have e0 : fld (k.toNat) 31 4 = 0 := by simp only [fld, Nat.reduceAdd, Nat.reduceSub, Nat.reducePow]; omega
    have e1 : fld (k.toNat) 3 0 = k.toNat := by simp only [fld, Nat.reduceAdd, Nat.reduceSub, Nat.reducePow]; omega
    simp [decAddr, SRaw.x, Option.getD_some, dec_bind, dec_pure, zeroS_cons, zeroS_nil, if_true, BitVec.ofNat_toNat, BitVec.setWidth_eq, finOfNat_self, boolNat, Dir.ofCode_code, Scope.ofCode_code, RedOp.ofCode_code, RstKind.ofCode_code, LkCond.ofCode_code, Cond.ofCode_code, Ty.ofCode_code, okOr, fld_zero, needExt, Option.isSome_some, need_ok, e0, e1, decReg_code _ h1, h0]

theorem copy (dst : Reg) (base : Reg) (disp : BitVec 16) (swz : Bool) : Statement (.copy dst base disp swz) := by
  refine ⟨fun hw => ?_, fun hw => absurd hw Bool.false_ne_true, fun hw => absurd hw Bool.false_ne_true⟩
  have hw : (dst.isStatus && base.isPlain) = true := hw
  simp only [Bool.and_eq_true, bne_iff_ne, ne_eq, beq_iff_eq, Bool.or_eq_true, Bool.not_eq_true'] at hw
  obtain ⟨h1, h2⟩ := hw
  have v_dst := Reg.code_lt dst
  have v_base := Reg.code_lt base
  have v_disp := disp.isLt
  have v_swz := Bool.toNat_lt swz
  refine ⟨?_, fun h he => ?_⟩
  · show SFits ⟨0x39, dst.code, base.code, 0, 0, disp.toNat + 16777216 * swz.toNat⟩
    refine ⟨?_, ?_, ?_, ?_, ?_, ?_⟩ <;> dsimp only <;> omega
  · have he : h = true := he
    subst he
    have g : (encS (.copy dst base disp swz)).raw true = ⟨0x39, dst.code, base.code, 0, 0, some (disp.toNat + 16777216 * swz.toNat)⟩ := rfl
    rw [g]
    apply decodeS_slot
    rw [decodeSlot_Copy rfl]
    unfold decodeCopy
    dsimp only
    have e0 : fld (disp.toNat + 16777216 * swz.toNat) 23 16 = 0 := by simp only [fld, Nat.reduceAdd, Nat.reduceSub, Nat.reducePow]; omega
    have e1 : fld (disp.toNat + 16777216 * swz.toNat) 31 25 = 0 := by simp only [fld, Nat.reduceAdd, Nat.reduceSub, Nat.reducePow]; omega
    have e2 : fld (disp.toNat + 16777216 * swz.toNat) 15 0 = disp.toNat := by simp only [fld, Nat.reduceAdd, Nat.reduceSub, Nat.reducePow]; omega
    have e3 : fld (disp.toNat + 16777216 * swz.toNat) 24 24 = swz.toNat := by simp only [fld, Nat.reduceAdd, Nat.reduceSub, Nat.reducePow]; omega
    simp [decAddr, SRaw.x, Option.getD_some, dec_bind, dec_pure, zeroS_cons, zeroS_nil, if_true, BitVec.ofNat_toNat, BitVec.setWidth_eq, finOfNat_self, boolNat, Dir.ofCode_code, Scope.ofCode_code, RedOp.ofCode_code, RstKind.ofCode_code, LkCond.ofCode_code, Cond.ofCode_code, Ty.ofCode_code, okOr, fld_zero, needExt, Option.isSome_some, need_ok, e0, e1, e2, e3, decReg_code _ h1, decReg_code _ h2]

theorem gather (dst : Reg) (base : Reg) (disp : BitVec 16) (swz : Bool) (fill : BitVec 8) : Statement (.gather dst base disp swz fill) := by
  refine ⟨fun hw => ?_, fun hw => absurd hw Bool.false_ne_true, fun hw => absurd hw Bool.false_ne_true⟩
  have hw : (dst.isStatus && base.isPlain) = true := hw
  simp only [Bool.and_eq_true, bne_iff_ne, ne_eq, beq_iff_eq, Bool.or_eq_true, Bool.not_eq_true'] at hw
  obtain ⟨h1, h2⟩ := hw
  have v_dst := Reg.code_lt dst
  have v_base := Reg.code_lt base
  have v_disp := disp.isLt
  have v_swz := Bool.toNat_lt swz
  have v_fill := fill.isLt
  refine ⟨?_, fun h he => ?_⟩
  · show SFits ⟨0x39, dst.code, base.code, 0, 1, disp.toNat + 65536 * fill.toNat + 16777216 * swz.toNat⟩
    refine ⟨?_, ?_, ?_, ?_, ?_, ?_⟩ <;> dsimp only <;> omega
  · have he : h = true := he
    subst he
    have g : (encS (.gather dst base disp swz fill)).raw true = ⟨0x39, dst.code, base.code, 0, 1, some (disp.toNat + 65536 * fill.toNat + 16777216 * swz.toNat)⟩ := rfl
    rw [g]
    apply decodeS_slot
    rw [decodeSlot_Copy rfl]
    unfold decodeCopy
    dsimp only
    have e0 : fld (disp.toNat + 65536 * fill.toNat + 16777216 * swz.toNat) 23 16 = fill.toNat := by simp only [fld, Nat.reduceAdd, Nat.reduceSub, Nat.reducePow]; omega
    have e1 : fld (disp.toNat + 65536 * fill.toNat + 16777216 * swz.toNat) 31 25 = 0 := by simp only [fld, Nat.reduceAdd, Nat.reduceSub, Nat.reducePow]; omega
    have e2 : fld (disp.toNat + 65536 * fill.toNat + 16777216 * swz.toNat) 15 0 = disp.toNat := by simp only [fld, Nat.reduceAdd, Nat.reduceSub, Nat.reducePow]; omega
    have e3 : fld (disp.toNat + 65536 * fill.toNat + 16777216 * swz.toNat) 24 24 = swz.toNat := by simp only [fld, Nat.reduceAdd, Nat.reduceSub, Nat.reducePow]; omega
    simp [decAddr, SRaw.x, Option.getD_some, dec_bind, dec_pure, zeroS_cons, zeroS_nil, if_true, BitVec.ofNat_toNat, BitVec.setWidth_eq, finOfNat_self, boolNat, Dir.ofCode_code, Scope.ofCode_code, RedOp.ofCode_code, RstKind.ofCode_code, LkCond.ofCode_code, Cond.ofCode_code, Ty.ofCode_code, okOr, fld_zero, needExt, Option.isSome_some, need_ok, e0, e1, e2, e3, decReg_code _ h1, decReg_code _ h2]

theorem scatter (dst : Reg) (base : Reg) (disp : BitVec 16) : Statement (.scatter dst base disp) := by
  refine ⟨fun hw => ?_, fun hw => absurd hw Bool.false_ne_true, fun hw => absurd hw Bool.false_ne_true⟩
  have hw : (dst.isStatus && base.isPlain) = true := hw
  simp only [Bool.and_eq_true, bne_iff_ne, ne_eq, beq_iff_eq, Bool.or_eq_true, Bool.not_eq_true'] at hw
  obtain ⟨h1, h2⟩ := hw
  have v_dst := Reg.code_lt dst
  have v_base := Reg.code_lt base
  have v_disp := disp.isLt
  refine ⟨?_, fun h he => ?_⟩
  · show SFits ⟨0x39, dst.code, base.code, 0, 2, disp.toNat⟩
    refine ⟨?_, ?_, ?_, ?_, ?_, ?_⟩ <;> dsimp only <;> omega
  · have he : h = true := he
    subst he
    have g : (encS (.scatter dst base disp)).raw true = ⟨0x39, dst.code, base.code, 0, 2, some (disp.toNat)⟩ := rfl
    rw [g]
    apply decodeS_slot
    rw [decodeSlot_Copy rfl]
    unfold decodeCopy
    dsimp only
    have e0 : fld (disp.toNat) 31 16 = 0 := by simp only [fld, Nat.reduceAdd, Nat.reduceSub, Nat.reducePow]; omega
    have e1 : fld (disp.toNat) 15 0 = disp.toNat := by simp only [fld, Nat.reduceAdd, Nat.reduceSub, Nat.reducePow]; omega
    simp [decAddr, SRaw.x, Option.getD_some, dec_bind, dec_pure, zeroS_cons, zeroS_nil, if_true, BitVec.ofNat_toNat, BitVec.setWidth_eq, finOfNat_self, boolNat, Dir.ofCode_code, Scope.ofCode_code, RedOp.ofCode_code, RstKind.ofCode_code, LkCond.ofCode_code, Cond.ofCode_code, Ty.ofCode_code, okOr, fld_zero, needExt, Option.isSome_some, need_ok, e0, e1, decReg_code _ h1, decReg_code _ h2]

theorem cstage (s : BitVec 16) : Statement (.cstage s) := by
  refine ⟨fun hw => ?_, fun hw => absurd hw Bool.false_ne_true, fun hw => absurd hw Bool.false_ne_true⟩
  have v_s := s.isLt
  refine ⟨?_, fun h he => ?_⟩
  · show SFits ⟨0x39, 0, 0, 0, 3, s.toNat⟩
    refine ⟨?_, ?_, ?_, ?_, ?_, ?_⟩ <;> dsimp only <;> omega
  · have he : h = true := he
    subst he
    have g : (encS (.cstage s)).raw true = ⟨0x39, 0, 0, 0, 3, some (s.toNat)⟩ := rfl
    rw [g]
    apply decodeS_slot
    rw [decodeSlot_Copy rfl]
    unfold decodeCopy
    dsimp only
    have e0 : fld (s.toNat) 31 16 = 0 := by simp only [fld, Nat.reduceAdd, Nat.reduceSub, Nat.reducePow]; omega
    have e1 : fld (s.toNat) 15 0 = s.toNat := by simp only [fld, Nat.reduceAdd, Nat.reduceSub, Nat.reducePow]; omega
    simp [decAddr, SRaw.x, Option.getD_some, dec_bind, dec_pure, zeroS_cons, zeroS_nil, if_true, BitVec.ofNat_toNat, BitVec.setWidth_eq, finOfNat_self, boolNat, Dir.ofCode_code, Scope.ofCode_code, RedOp.ofCode_code, RstKind.ofCode_code, LkCond.ofCode_code, Cond.ofCode_code, Ty.ofCode_code, okOr, fld_zero, needExt, Option.isSome_some, need_ok, e0, e1]

theorem lease (dst : Reg) (d : Dir) (pri : BitVec 2) : Statement (.lease dst d pri) := by
  refine ⟨fun hw => ?_, fun hw => absurd hw Bool.false_ne_true, fun hw => absurd hw Bool.false_ne_true⟩
  have hw : (dst.isPend) = true := hw
  have v_dst := Reg.code_lt dst
  have v_d := Dir.code_lt d
  have v_pri := pri.isLt
  refine ⟨?_, fun h he => ?_⟩
  · show SFits ⟨0x3A, dst.code, 0, 0, 0, d.code + 4 * pri.toNat⟩
    refine ⟨?_, ?_, ?_, ?_, ?_, ?_⟩ <;> dsimp only <;> omega
  · have he : h = true := he
    subst he
    have g : (encS (.lease dst d pri)).raw true = ⟨0x3A, dst.code, 0, 0, 0, some (d.code + 4 * pri.toNat)⟩ := rfl
    rw [g]
    apply decodeS_slot
    rw [decodeSlot_Link rfl]
    unfold decodeLink
    dsimp only
    have e0 : fld (d.code + 4 * pri.toNat) 31 4 = 0 := by simp only [fld, Nat.reduceAdd, Nat.reduceSub, Nat.reducePow]; omega
    have e1 : fld (d.code + 4 * pri.toNat) 3 2 = pri.toNat := by simp only [fld, Nat.reduceAdd, Nat.reduceSub, Nat.reducePow]; omega
    have e2 : fld (d.code + 4 * pri.toNat) 1 0 = d.code := by simp only [fld, Nat.reduceAdd, Nat.reduceSub, Nat.reducePow]; omega
    simp [decAddr, SRaw.x, Option.getD_some, dec_bind, dec_pure, zeroS_cons, zeroS_nil, if_true, BitVec.ofNat_toNat, BitVec.setWidth_eq, finOfNat_self, boolNat, Dir.ofCode_code, Scope.ofCode_code, RedOp.ofCode_code, RstKind.ofCode_code, LkCond.ofCode_code, Cond.ofCode_code, Ty.ofCode_code, okOr, fld_zero, needExt, Option.isSome_some, need_ok, e0, e1, e2, decReg_code _ hw]

theorem unlease (d : Dir) : Statement (.unlease d) := by
  refine ⟨fun hw => ?_, fun hw => absurd hw Bool.false_ne_true, fun hw => absurd hw Bool.false_ne_true⟩
  have v_d := Dir.code_lt d
  refine ⟨?_, fun h he => ?_⟩
  · show SFits ⟨0x3A, 0, 0, 0, 1, d.code⟩
    refine ⟨?_, ?_, ?_, ?_, ?_, ?_⟩ <;> dsimp only <;> omega
  · have he : h = true := he
    subst he
    have g : (encS (.unlease d)).raw true = ⟨0x3A, 0, 0, 0, 1, some (d.code)⟩ := rfl
    rw [g]
    apply decodeS_slot
    rw [decodeSlot_Link rfl]
    unfold decodeLink
    dsimp only
    have e0 : fld (d.code) 31 2 = 0 := by simp only [fld, Nat.reduceAdd, Nat.reduceSub, Nat.reducePow]; omega
    have e1 : fld (d.code) 1 0 = d.code := by simp only [fld, Nat.reduceAdd, Nat.reduceSub, Nat.reducePow]; omega
    simp [decAddr, SRaw.x, Option.getD_some, dec_bind, dec_pure, zeroS_cons, zeroS_nil, if_true, BitVec.ofNat_toNat, BitVec.setWidth_eq, finOfNat_self, boolNat, Dir.ofCode_code, Scope.ofCode_code, RedOp.ofCode_code, RstKind.ofCode_code, LkCond.ofCode_code, Cond.ofCode_code, Ty.ofCode_code, okOr, fld_zero, needExt, Option.isSome_some, need_ok, e0, e1]

theorem lkopen (dst : Reg) (base : Reg) (d : Dir) (roleB : Bool) (disp : BitVec 16) : Statement (.lkopen dst base d roleB disp) := by
  refine ⟨fun hw => ?_, fun hw => absurd hw Bool.false_ne_true, fun hw => absurd hw Bool.false_ne_true⟩
  have hw : (dst.isPend && base.isPlain) = true := hw
  simp only [Bool.and_eq_true, bne_iff_ne, ne_eq, beq_iff_eq, Bool.or_eq_true, Bool.not_eq_true'] at hw
  obtain ⟨h1, h2⟩ := hw
  have v_dst := Reg.code_lt dst
  have v_base := Reg.code_lt base
  have v_d := Dir.code_lt d
  have v_roleB := Bool.toNat_lt roleB
  have v_disp := disp.isLt
  refine ⟨?_, fun h he => ?_⟩
  · show SFits ⟨0x3A, dst.code, base.code, 0, 2, d.code + 4 * roleB.toNat + 65536 * disp.toNat⟩
    refine ⟨?_, ?_, ?_, ?_, ?_, ?_⟩ <;> dsimp only <;> omega
  · have he : h = true := he
    subst he
    have g : (encS (.lkopen dst base d roleB disp)).raw true = ⟨0x3A, dst.code, base.code, 0, 2, some (d.code + 4 * roleB.toNat + 65536 * disp.toNat)⟩ := rfl
    rw [g]
    apply decodeS_slot
    rw [decodeSlot_Link rfl]
    unfold decodeLink
    dsimp only
    have e0 : fld (d.code + 4 * roleB.toNat + 65536 * disp.toNat) 15 3 = 0 := by simp only [fld, Nat.reduceAdd, Nat.reduceSub, Nat.reducePow]; omega
    have e1 : fld (d.code + 4 * roleB.toNat + 65536 * disp.toNat) 1 0 = d.code := by simp only [fld, Nat.reduceAdd, Nat.reduceSub, Nat.reducePow]; omega
    have e2 : fld (d.code + 4 * roleB.toNat + 65536 * disp.toNat) 2 2 = roleB.toNat := by simp only [fld, Nat.reduceAdd, Nat.reduceSub, Nat.reducePow]; omega
    have e3 : fld (d.code + 4 * roleB.toNat + 65536 * disp.toNat) 31 16 = disp.toNat := by simp only [fld, Nat.reduceAdd, Nat.reduceSub, Nat.reducePow]; omega
    simp [decAddr, SRaw.x, Option.getD_some, dec_bind, dec_pure, zeroS_cons, zeroS_nil, if_true, BitVec.ofNat_toNat, BitVec.setWidth_eq, finOfNat_self, boolNat, Dir.ofCode_code, Scope.ofCode_code, RedOp.ofCode_code, RstKind.ofCode_code, LkCond.ofCode_code, Cond.ofCode_code, Ty.ofCode_code, okOr, fld_zero, needExt, Option.isSome_some, need_ok, e0, e1, e2, e3, decReg_code _ h1, decReg_code _ h2]

theorem lkfeed (d : Dir) (handle : BitVec 4) (base : Reg) (bdisp : BitVec 6) (stride : BitVec 12) (count : BitVec 16) : Statement (.lkfeed d handle base bdisp stride count) := by
  refine ⟨fun hw => ?_, fun hw => absurd hw Bool.false_ne_true, fun hw => absurd hw Bool.false_ne_true⟩
  have hw : (base.isPlain && count.toNat != 0) = true := hw
  simp only [Bool.and_eq_true, bne_iff_ne, ne_eq, beq_iff_eq, Bool.or_eq_true, Bool.not_eq_true'] at hw
  obtain ⟨h1, h2⟩ := hw
  have v_d := Dir.code_lt d
  have v_handle := handle.isLt
  have v_base := Reg.code_lt base
  have v_bdisp := bdisp.isLt
  have v_stride := stride.isLt
  have v_count := count.isLt
  have hc : (count.toNat != 0) = true := by simpa using h2
  refine ⟨?_, fun h he => ?_⟩
  · show SFits ⟨0x3A, d.code + 4 * handle.toNat, base.code, bdisp.toNat, 3, stride.toNat + 65536 * count.toNat⟩
    refine ⟨?_, ?_, ?_, ?_, ?_, ?_⟩ <;> dsimp only <;> omega
  · have he : h = true := he
    subst he
    have g : (encS (.lkfeed d handle base bdisp stride count)).raw true = ⟨0x3A, d.code + 4 * handle.toNat, base.code, bdisp.toNat, 3, some (stride.toNat + 65536 * count.toNat)⟩ := rfl
    rw [g]
    apply decodeS_slot
    rw [decodeSlot_Link rfl]
    unfold decodeLink
    dsimp only
    have e0 : fld (stride.toNat + 65536 * count.toNat) 15 12 = 0 := by simp only [fld, Nat.reduceAdd, Nat.reduceSub, Nat.reducePow]; omega
    have e1 : fld (stride.toNat + 65536 * count.toNat) 31 16 = count.toNat := by simp only [fld, Nat.reduceAdd, Nat.reduceSub, Nat.reducePow]; omega
    have e2 : fld (stride.toNat + 65536 * count.toNat) 11 0 = stride.toNat := by simp only [fld, Nat.reduceAdd, Nat.reduceSub, Nat.reducePow]; omega
    have e3 : fld (d.code + 4 * handle.toNat) 1 0 = d.code := by simp only [fld, Nat.reduceAdd, Nat.reduceSub, Nat.reducePow]; omega
    have e4 : fld (d.code + 4 * handle.toNat) 5 2 = handle.toNat := by simp only [fld, Nat.reduceAdd, Nat.reduceSub, Nat.reducePow]; omega
    simp [decAddr, SRaw.x, Option.getD_some, dec_bind, dec_pure, zeroS_cons, zeroS_nil, if_true, BitVec.ofNat_toNat, BitVec.setWidth_eq, finOfNat_self, boolNat, Dir.ofCode_code, Scope.ofCode_code, RedOp.ofCode_code, RstKind.ofCode_code, LkCond.ofCode_code, Cond.ofCode_code, Ty.ofCode_code, okOr, fld_zero, needExt, Option.isSome_some, need_ok, e0, e1, e2, e3, e4, decReg_code _ h1, hc]

theorem lkclose (d : Dir) : Statement (.lkclose d) := by
  refine ⟨fun hw => ?_, fun hw => absurd hw Bool.false_ne_true, fun hw => absurd hw Bool.false_ne_true⟩
  have v_d := Dir.code_lt d
  refine ⟨?_, fun h he => ?_⟩
  · show SFits ⟨0x3A, 0, 0, 0, 6, d.code⟩
    refine ⟨?_, ?_, ?_, ?_, ?_, ?_⟩ <;> dsimp only <;> omega
  · have he : h = true := he
    subst he
    have g : (encS (.lkclose d)).raw true = ⟨0x3A, 0, 0, 0, 6, some (d.code)⟩ := rfl
    rw [g]
    apply decodeS_slot
    rw [decodeSlot_Link rfl]
    unfold decodeLink
    dsimp only
    have e0 : fld (d.code) 31 2 = 0 := by simp only [fld, Nat.reduceAdd, Nat.reduceSub, Nat.reducePow]; omega
    have e1 : fld (d.code) 1 0 = d.code := by simp only [fld, Nat.reduceAdd, Nat.reduceSub, Nat.reducePow]; omega
    simp [decAddr, SRaw.x, Option.getD_some, dec_bind, dec_pure, zeroS_cons, zeroS_nil, if_true, BitVec.ofNat_toNat, BitVec.setWidth_eq, finOfNat_self, boolNat, Dir.ofCode_code, Scope.ofCode_code, RedOp.ofCode_code, RstKind.ofCode_code, LkCond.ofCode_code, Cond.ofCode_code, Ty.ofCode_code, okOr, fld_zero, needExt, Option.isSome_some, need_ok, e0, e1]

theorem lkstat (dst : Reg) (d : Dir) (word : Fin 3) : Statement (.lkstat dst d word) := by
  refine ⟨fun hw => ?_, fun hw => absurd hw Bool.false_ne_true, fun hw => absurd hw Bool.false_ne_true⟩
  have hw : (dst.isDst) = true := hw
  have v_dst := Reg.code_lt dst
  have v_d := Dir.code_lt d
  have v_word := word.isLt
  have hc : (word.val != 3) = true := by simp; omega
  refine ⟨?_, fun h he => ?_⟩
  · show SFits ⟨0x3A, dst.code, 0, 0, 7, d.code + 4 * word.val⟩
    refine ⟨?_, ?_, ?_, ?_, ?_, ?_⟩ <;> dsimp only <;> omega
  · have he : h = true := he
    subst he
    have g : (encS (.lkstat dst d word)).raw true = ⟨0x3A, dst.code, 0, 0, 7, some (d.code + 4 * word.val)⟩ := rfl
    rw [g]
    apply decodeS_slot
    rw [decodeSlot_Link rfl]
    unfold decodeLink
    dsimp only
    have e0 : fld (d.code + 4 * word.val) 31 4 = 0 := by simp only [fld, Nat.reduceAdd, Nat.reduceSub, Nat.reducePow]; omega
    have e1 : fld (d.code + 4 * word.val) 3 2 = word.val := by simp only [fld, Nat.reduceAdd, Nat.reduceSub, Nat.reducePow]; omega
    have e2 : fld (d.code + 4 * word.val) 1 0 = d.code := by simp only [fld, Nat.reduceAdd, Nat.reduceSub, Nat.reducePow]; omega
    simp [decAddr, SRaw.x, Option.getD_some, dec_bind, dec_pure, zeroS_cons, zeroS_nil, if_true, BitVec.ofNat_toNat, BitVec.setWidth_eq, finOfNat_self, boolNat, Dir.ofCode_code, Scope.ofCode_code, RedOp.ofCode_code, RstKind.ofCode_code, LkCond.ofCode_code, Cond.ofCode_code, Ty.ofCode_code, okOr, fld_zero, needExt, Option.isSome_some, need_ok, e0, e1, e2, decReg_code _ hw, hc]

theorem lkwait (d : Dir) (c : LkCond) : Statement (.lkwait d c) := by
  refine ⟨fun hw => ?_, fun hw => absurd hw Bool.false_ne_true, fun hw => absurd hw Bool.false_ne_true⟩
  have v_d := Dir.code_lt d
  have v_c := LkCond.code_lt c
  refine ⟨?_, fun h he => ?_⟩
  · show SFits ⟨0x3A, 0, 0, 0, 8, d.code + 4 * c.code⟩
    refine ⟨?_, ?_, ?_, ?_, ?_, ?_⟩ <;> dsimp only <;> omega
  · have he : h = true := he
    subst he
    have g : (encS (.lkwait d c)).raw true = ⟨0x3A, 0, 0, 0, 8, some (d.code + 4 * c.code)⟩ := rfl
    rw [g]
    apply decodeS_slot
    rw [decodeSlot_Link rfl]
    unfold decodeLink
    dsimp only
    have e0 : fld (d.code + 4 * c.code) 31 5 = 0 := by simp only [fld, Nat.reduceAdd, Nat.reduceSub, Nat.reducePow]; omega
    have e1 : fld (d.code + 4 * c.code) 4 2 = c.code := by simp only [fld, Nat.reduceAdd, Nat.reduceSub, Nat.reducePow]; omega
    have e2 : fld (d.code + 4 * c.code) 1 0 = d.code := by simp only [fld, Nat.reduceAdd, Nat.reduceSub, Nat.reducePow]; omega
    simp [decAddr, SRaw.x, Option.getD_some, dec_bind, dec_pure, zeroS_cons, zeroS_nil, if_true, BitVec.ofNat_toNat, BitVec.setWidth_eq, finOfNat_self, boolNat, Dir.ofCode_code, Scope.ofCode_code, RedOp.ofCode_code, RstKind.ofCode_code, LkCond.ofCode_code, Cond.ofCode_code, Ty.ofCode_code, okOr, fld_zero, needExt, Option.isSome_some, need_ok, e0, e1, e2]

theorem cbload (d : Dir) (slot : BitVec 3) (base : Reg) (disp : BitVec 16) : Statement (.cbload d slot base disp) := by
  refine ⟨fun hw => ?_, fun hw => absurd hw Bool.false_ne_true, fun hw => absurd hw Bool.false_ne_true⟩
  have hw : (base.isSrc) = true := hw
  have v_d := Dir.code_lt d
  have v_slot := slot.isLt
  have v_base := Reg.code_lt base
  have v_disp := disp.isLt
  refine ⟨?_, fun h he => ?_⟩
  · show SFits ⟨0x3A, 0, base.code, 0, 9, d.code + 4 * slot.toNat + 65536 * disp.toNat⟩
    refine ⟨?_, ?_, ?_, ?_, ?_, ?_⟩ <;> dsimp only <;> omega
  · have he : h = true := he
    subst he
    have g : (encS (.cbload d slot base disp)).raw true = ⟨0x3A, 0, base.code, 0, 9, some (d.code + 4 * slot.toNat + 65536 * disp.toNat)⟩ := rfl
    rw [g]
    apply decodeS_slot
    rw [decodeSlot_Link rfl]
    unfold decodeLink
    dsimp only
    have e0 : fld (d.code + 4 * slot.toNat + 65536 * disp.toNat) 15 5 = 0 := by simp only [fld, Nat.reduceAdd, Nat.reduceSub, Nat.reducePow]; omega
    have e1 : fld (d.code + 4 * slot.toNat + 65536 * disp.toNat) 4 2 = slot.toNat := by simp only [fld, Nat.reduceAdd, Nat.reduceSub, Nat.reducePow]; omega
    have e2 : fld (d.code + 4 * slot.toNat + 65536 * disp.toNat) 1 0 = d.code := by simp only [fld, Nat.reduceAdd, Nat.reduceSub, Nat.reducePow]; omega
    have e3 : fld (d.code + 4 * slot.toNat + 65536 * disp.toNat) 31 16 = disp.toNat := by simp only [fld, Nat.reduceAdd, Nat.reduceSub, Nat.reducePow]; omega
    simp [decAddr, SRaw.x, Option.getD_some, dec_bind, dec_pure, zeroS_cons, zeroS_nil, if_true, BitVec.ofNat_toNat, BitVec.setWidth_eq, finOfNat_self, boolNat, Dir.ofCode_code, Scope.ofCode_code, RedOp.ofCode_code, RstKind.ofCode_code, LkCond.ofCode_code, Cond.ofCode_code, Ty.ofCode_code, okOr, fld_zero, needExt, Option.isSome_some, need_ok, e0, e1, e2, e3, decReg_code _ hw]

theorem epload (d : Dir) (slot : Bool) (base : Reg) (disp : BitVec 16) : Statement (.epload d slot base disp) := by
  refine ⟨fun hw => ?_, fun hw => absurd hw Bool.false_ne_true, fun hw => absurd hw Bool.false_ne_true⟩
  have hw : (base.isSrc) = true := hw
  have v_d := Dir.code_lt d
  have v_slot := Bool.toNat_lt slot
  have v_base := Reg.code_lt base
  have v_disp := disp.isLt
  refine ⟨?_, fun h he => ?_⟩
  · show SFits ⟨0x3A, 0, base.code, 0, 10, d.code + 4 * slot.toNat + 65536 * disp.toNat⟩
    refine ⟨?_, ?_, ?_, ?_, ?_, ?_⟩ <;> dsimp only <;> omega
  · have he : h = true := he
    subst he
    have g : (encS (.epload d slot base disp)).raw true = ⟨0x3A, 0, base.code, 0, 10, some (d.code + 4 * slot.toNat + 65536 * disp.toNat)⟩ := rfl
    rw [g]
    apply decodeS_slot
    rw [decodeSlot_Link rfl]
    unfold decodeLink
    dsimp only
    have e0 : fld (d.code + 4 * slot.toNat + 65536 * disp.toNat) 15 3 = 0 := by simp only [fld, Nat.reduceAdd, Nat.reduceSub, Nat.reducePow]; omega
    have e1 : fld (d.code + 4 * slot.toNat + 65536 * disp.toNat) 2 2 = slot.toNat := by simp only [fld, Nat.reduceAdd, Nat.reduceSub, Nat.reducePow]; omega
    have e2 : fld (d.code + 4 * slot.toNat + 65536 * disp.toNat) 1 0 = d.code := by simp only [fld, Nat.reduceAdd, Nat.reduceSub, Nat.reducePow]; omega
    have e3 : fld (d.code + 4 * slot.toNat + 65536 * disp.toNat) 31 16 = disp.toNat := by simp only [fld, Nat.reduceAdd, Nat.reduceSub, Nat.reducePow]; omega
    simp [decAddr, SRaw.x, Option.getD_some, dec_bind, dec_pure, zeroS_cons, zeroS_nil, if_true, BitVec.ofNat_toNat, BitVec.setWidth_eq, finOfNat_self, boolNat, Dir.ofCode_code, Scope.ofCode_code, RedOp.ofCode_code, RstKind.ofCode_code, LkCond.ofCode_code, Cond.ofCode_code, Ty.ofCode_code, okOr, fld_zero, needExt, Option.isSome_some, need_ok, e0, e1, e2, e3, decReg_code _ hw]

theorem qhnd (d : Dir) (src : Reg) : Statement (.qhnd d src) := by
  refine ⟨fun hw => ?_, fun hw => absurd hw Bool.false_ne_true, fun hw => absurd hw Bool.false_ne_true⟩
  have hw : (src.isWgo) = true := hw
  have v_d := Dir.code_lt d
  have v_src := Reg.code_lt src
  refine ⟨?_, fun h he => ?_⟩
  · show SFits ⟨0x3B, 0, src.code, 0, 2, d.code⟩
    refine ⟨?_, ?_, ?_, ?_, ?_, ?_⟩ <;> dsimp only <;> omega
  · have he : h = true := he
    subst he
    have g : (encS (.qhnd d src)).raw true = ⟨0x3B, 0, src.code, 0, 2, some (d.code)⟩ := rfl
    rw [g]
    apply decodeS_slot
    rw [decodeSlot_Queue rfl]
    unfold decodeQueue
    dsimp only
    have e0 : fld (d.code) 31 2 = 0 := by simp only [fld, Nat.reduceAdd, Nat.reduceSub, Nat.reducePow]; omega
    have e1 : fld (d.code) 1 0 = d.code := by simp only [fld, Nat.reduceAdd, Nat.reduceSub, Nat.reducePow]; omega
    simp [decAddr, SRaw.x, Option.getD_some, dec_bind, dec_pure, zeroS_cons, zeroS_nil, if_true, BitVec.ofNat_toNat, BitVec.setWidth_eq, finOfNat_self, boolNat, Dir.ofCode_code, Scope.ofCode_code, RedOp.ofCode_code, RstKind.ofCode_code, LkCond.ofCode_code, Cond.ofCode_code, Ty.ofCode_code, okOr, fld_zero, needExt, Option.isSome_some, need_ok, e0, e1, decReg_code _ hw]

theorem lvread (dst : Reg) (ctl : BitVec 3) : Statement (.lvread dst ctl) := by
  refine ⟨fun hw => ?_, fun hw => absurd hw Bool.false_ne_true, fun hw => absurd hw Bool.false_ne_true⟩
  have hw : (dst.isDst) = true := hw
  have v_dst := Reg.code_lt dst
  have v_ctl := ctl.isLt
  refine ⟨?_, fun h he => ?_⟩
  · show SFits ⟨0x3B, dst.code, 0, 0, 4, ctl.toNat⟩
    refine ⟨?_, ?_, ?_, ?_, ?_, ?_⟩ <;> dsimp only <;> omega
  · have he : h = true := he
    subst he
    have g : (encS (.lvread dst ctl)).raw true = ⟨0x3B, dst.code, 0, 0, 4, some (ctl.toNat)⟩ := rfl
    rw [g]
    apply decodeS_slot
    rw [decodeSlot_Queue rfl]
    unfold decodeQueue
    dsimp only
    have e0 : fld (ctl.toNat) 31 3 = 0 := by simp only [fld, Nat.reduceAdd, Nat.reduceSub, Nat.reducePow]; omega
    have e1 : fld (ctl.toNat) 2 0 = ctl.toNat := by simp only [fld, Nat.reduceAdd, Nat.reduceSub, Nat.reducePow]; omega
    simp [decAddr, SRaw.x, Option.getD_some, dec_bind, dec_pure, zeroS_cons, zeroS_nil, if_true, BitVec.ofNat_toNat, BitVec.setWidth_eq, finOfNat_self, boolNat, Dir.ofCode_code, Scope.ofCode_code, RedOp.ofCode_code, RstKind.ofCode_code, LkCond.ofCode_code, Cond.ofCode_code, Ty.ofCode_code, okOr, fld_zero, needExt, Option.isSome_some, need_ok, e0, e1, decReg_code _ hw]

theorem trap (dst : Reg) (svc : BitVec 8) (src : Reg) : Statement (.trap dst svc src) := by
  refine ⟨fun hw => ?_, fun hw => absurd hw Bool.false_ne_true, fun hw => absurd hw Bool.false_ne_true⟩
  have hw : (dst.isDst && src.isSrc) = true := hw
  simp only [Bool.and_eq_true, bne_iff_ne, ne_eq, beq_iff_eq, Bool.or_eq_true, Bool.not_eq_true'] at hw
  obtain ⟨h1, h2⟩ := hw
  have v_dst := Reg.code_lt dst
  have v_svc := svc.isLt
  have v_src := Reg.code_lt src
  refine ⟨?_, fun h he => ?_⟩
  · show SFits ⟨0x3C, dst.code, src.code, 0, 0, svc.toNat⟩
    refine ⟨?_, ?_, ?_, ?_, ?_, ?_⟩ <;> dsimp only <;> omega
  · have he : h = true := he
    subst he
    have g : (encS (.trap dst svc src)).raw true = ⟨0x3C, dst.code, src.code, 0, 0, some (svc.toNat)⟩ := rfl
    rw [g]
    apply decodeS_slot
    rw [decodeSlot_Sys rfl]
    unfold decodeSys
    dsimp only
    have e0 : fld (svc.toNat) 31 8 = 0 := by simp only [fld, Nat.reduceAdd, Nat.reduceSub, Nat.reducePow]; omega
    have e1 : fld (svc.toNat) 7 0 = svc.toNat := by simp only [fld, Nat.reduceAdd, Nat.reduceSub, Nat.reducePow]; omega
    simp [decAddr, SRaw.x, Option.getD_some, dec_bind, dec_pure, zeroS_cons, zeroS_nil, if_true, BitVec.ofNat_toNat, BitVec.setWidth_eq, finOfNat_self, boolNat, Dir.ofCode_code, Scope.ofCode_code, RedOp.ofCode_code, RstKind.ofCode_code, LkCond.ofCode_code, Cond.ofCode_code, Ty.ofCode_code, okOr, fld_zero, needExt, Option.isSome_some, need_ok, e0, e1, decReg_code _ h1, decReg_code _ h2]

theorem eret  : Statement (.eret) := by
  refine ⟨fun hw => ?_, fun hw => absurd hw Bool.false_ne_true, fun hw => absurd hw Bool.false_ne_true⟩
  refine ⟨?_, fun h he => ?_⟩
  · show SFits ⟨0x3C, 0, 0, 0, 1, 0⟩
    refine ⟨?_, ?_, ?_, ?_, ?_, ?_⟩ <;> dsimp only <;> omega
  · have he : h = true := he
    subst he
    have g : (encS (.eret)).raw true = ⟨0x3C, 0, 0, 0, 1, some (0)⟩ := rfl
    rw [g]
    apply decodeS_slot
    rw [decodeSlot_Sys rfl]
    unfold decodeSys
    dsimp only
    simp [decAddr, SRaw.x, Option.getD_some, dec_bind, dec_pure, zeroS_cons, zeroS_nil, if_true, BitVec.ofNat_toNat, BitVec.setWidth_eq, finOfNat_self, boolNat, Dir.ofCode_code, Scope.ofCode_code, RedOp.ofCode_code, RstKind.ofCode_code, LkCond.ofCode_code, Cond.ofCode_code, Ty.ofCode_code, okOr, fld_zero, needExt, Option.isSome_some, need_ok]

theorem brk (imm : BitVec 16) : Statement (.brk imm) := by
  refine ⟨fun hw => ?_, fun hw => absurd hw Bool.false_ne_true, fun hw => absurd hw Bool.false_ne_true⟩
  have v_imm := imm.isLt
  refine ⟨?_, fun h he => ?_⟩
  · show SFits ⟨0x3C, 0, 0, 0, 2, imm.toNat⟩
    refine ⟨?_, ?_, ?_, ?_, ?_, ?_⟩ <;> dsimp only <;> omega
  · have he : h = true := he
    subst he
    have g : (encS (.brk imm)).raw true = ⟨0x3C, 0, 0, 0, 2, some (imm.toNat)⟩ := rfl
    rw [g]
    apply decodeS_slot
    rw [decodeSlot_Sys rfl]
    unfold decodeSys
    dsimp only
    have e0 : fld (imm.toNat) 31 16 = 0 := by simp only [fld, Nat.reduceAdd, Nat.reduceSub, Nat.reducePow]; omega
    have e1 : fld (imm.toNat) 15 0 = imm.toNat := by simp only [fld, Nat.reduceAdd, Nat.reduceSub, Nat.reducePow]; omega
    simp [decAddr, SRaw.x, Option.getD_some, dec_bind, dec_pure, zeroS_cons, zeroS_nil, if_true, BitVec.ofNat_toNat, BitVec.setWidth_eq, finOfNat_self, boolNat, Dir.ofCode_code, Scope.ofCode_code, RedOp.ofCode_code, RstKind.ofCode_code, LkCond.ofCode_code, Cond.ofCode_code, Ty.ofCode_code, okOr, fld_zero, needExt, Option.isSome_some, need_ok, e0, e1]

theorem sysrd (dst : Reg) (n : BitVec 12) : Statement (.sysrd dst n) := by
  refine ⟨fun hw => ?_, fun hw => absurd hw Bool.false_ne_true, fun hw => absurd hw Bool.false_ne_true⟩
  have hw : (dst.isDst && sregOk n.toNat) = true := hw
  simp only [Bool.and_eq_true, bne_iff_ne, ne_eq, beq_iff_eq, Bool.or_eq_true, Bool.not_eq_true'] at hw
  obtain ⟨h1, h2⟩ := hw
  have v_dst := Reg.code_lt dst
  have v_n := n.isLt
  refine ⟨?_, fun h he => ?_⟩
  · show SFits ⟨0x3C, dst.code, 0, 0, 3, n.toNat⟩
    refine ⟨?_, ?_, ?_, ?_, ?_, ?_⟩ <;> dsimp only <;> omega
  · have he : h = true := he
    subst he
    have g : (encS (.sysrd dst n)).raw true = ⟨0x3C, dst.code, 0, 0, 3, some (n.toNat)⟩ := rfl
    rw [g]
    apply decodeS_slot
    rw [decodeSlot_Sys rfl]
    unfold decodeSys
    dsimp only
    have e0 : fld (n.toNat) 31 12 = 0 := by simp only [fld, Nat.reduceAdd, Nat.reduceSub, Nat.reducePow]; omega
    have e1 : fld (n.toNat) 11 0 = n.toNat := by simp only [fld, Nat.reduceAdd, Nat.reduceSub, Nat.reducePow]; omega
    simp [decAddr, SRaw.x, Option.getD_some, dec_bind, dec_pure, zeroS_cons, zeroS_nil, if_true, BitVec.ofNat_toNat, BitVec.setWidth_eq, finOfNat_self, boolNat, Dir.ofCode_code, Scope.ofCode_code, RedOp.ofCode_code, RstKind.ofCode_code, LkCond.ofCode_code, Cond.ofCode_code, Ty.ofCode_code, okOr, fld_zero, needExt, Option.isSome_some, need_ok, e0, e1, decReg_code _ h1, h2]

theorem syswr (n : BitVec 12) (src : Reg) : Statement (.syswr n src) := by
  refine ⟨fun hw => ?_, fun hw => absurd hw Bool.false_ne_true, fun hw => absurd hw Bool.false_ne_true⟩
  have hw : (src.isSrc && sregOk n.toNat) = true := hw
  simp only [Bool.and_eq_true, bne_iff_ne, ne_eq, beq_iff_eq, Bool.or_eq_true, Bool.not_eq_true'] at hw
  obtain ⟨h1, h2⟩ := hw
  have v_n := n.isLt
  have v_src := Reg.code_lt src
  refine ⟨?_, fun h he => ?_⟩
  · show SFits ⟨0x3C, 0, src.code, 0, 4, n.toNat⟩
    refine ⟨?_, ?_, ?_, ?_, ?_, ?_⟩ <;> dsimp only <;> omega
  · have he : h = true := he
    subst he
    have g : (encS (.syswr n src)).raw true = ⟨0x3C, 0, src.code, 0, 4, some (n.toNat)⟩ := rfl
    rw [g]
    apply decodeS_slot
    rw [decodeSlot_Sys rfl]
    unfold decodeSys
    dsimp only
    have e0 : fld (n.toNat) 31 12 = 0 := by simp only [fld, Nat.reduceAdd, Nat.reduceSub, Nat.reducePow]; omega
    have e1 : fld (n.toNat) 11 0 = n.toNat := by simp only [fld, Nat.reduceAdd, Nat.reduceSub, Nat.reducePow]; omega
    simp [decAddr, SRaw.x, Option.getD_some, dec_bind, dec_pure, zeroS_cons, zeroS_nil, if_true, BitVec.ofNat_toNat, BitVec.setWidth_eq, finOfNat_self, boolNat, Dir.ofCode_code, Scope.ofCode_code, RedOp.ofCode_code, RstKind.ofCode_code, LkCond.ofCode_code, Cond.ofCode_code, Ty.ofCode_code, okOr, fld_zero, needExt, Option.isSome_some, need_ok, e0, e1, decReg_code _ h1, h2]

theorem decCond_enc (dst a b func : Nat) (ext : Option Nat) (c : Cond) (u : Bool) (hc : (!(u && (c == .eq || c == .ne))) = true)
    (hd : fld dst 5 3 = c.code) : decCond ⟨0x16, dst, a, b, func, ext⟩ u = .ok c := by
  simp only [decCond, hd, Cond.ofCode_code, okOr, dec_bind, dec_pure, need_ok hc]

theorem cmp (u : Bool) (c : Cond) (pd : Fin 8) (w32 : Bool) (a : Reg) (b : Src2) : Statement (.cmp u c pd w32 a b) := by
  refine ⟨fun hw => ?_, fun hw => absurd hw Bool.false_ne_true, fun hw => absurd hw Bool.false_ne_true⟩
  have hw : (a.isSrc && b.wf && !(u && (c == .eq || c == .ne))) = true := hw
  rw [Bool.and_eq_true, Bool.and_eq_true] at hw
  obtain ⟨⟨h1, h2⟩, h3⟩ := hw
  have v_u := Bool.toNat_lt u
  have v_w := Bool.toNat_lt w32
  have v_a := Reg.code_lt a
  have v_c := Cond.code_lt c
  have v_p := pd.isLt
  have d1 : fld (pd.val + 8 * c.code) 5 3 = c.code := by simp only [fld, Nat.reduceAdd, Nat.reduceSub, Nat.reducePow]; omega
  have d2 : fld (pd.val + 8 * c.code) 2 0 = pd.val := by simp only [fld, Nat.reduceAdd, Nat.reduceSub, Nat.reducePow]; omega
  cases b with
  | reg r =>
    have h2 : r.isSrc = true := h2
    have v_r := Reg.code_lt r
    have f1 : fld (0 + 2 * u.toNat + w32.toNat) 1 1 = u.toNat := by simp only [fld, Nat.reduceAdd, Nat.reduceSub, Nat.reducePow]; omega
    have f2 : fld (0 + 2 * u.toNat + w32.toNat) 3 3 = 0 := by simp only [fld, Nat.reduceAdd, Nat.reduceSub, Nat.reducePow]; omega
    have f3 : fld (0 + 2 * u.toNat + w32.toNat) 0 0 = w32.toNat := by simp only [fld, Nat.reduceAdd, Nat.reduceSub, Nat.reducePow]; omega
    have f4 : fld (0 + 2 * u.toNat + w32.toNat) 2 2 = 0 := by simp only [fld, Nat.reduceAdd, Nat.reduceSub, Nat.reducePow]; omega
    refine ⟨?_, fun h he => decodeS_A (by show 0x16 < 0x38; decide) ?_⟩
    · show SFits ⟨0x16, pd.val + 8 * c.code, a.code, r.code, 0 + 2 * u.toNat + w32.toNat, 0⟩
      refine ⟨?_, ?_, ?_, ?_, ?_, ?_⟩ <;> dsimp only <;> omega
    · have gx : (if h then some 0 else none : Option Nat).getD 0 = 0 := by cases h <;> rfl
      show (decCmp false ⟨0x16, pd.val + 8 * c.code, a.code, r.code, 0 + 2 * u.toNat + w32.toNat, if h then some 0 else none⟩ >>= fun y => .ok (some y)
        : Dec (Option Instr)) = _
      unfold decCmp
      dsimp only
      rw [f1, f2, f3, f4, d2, boolNat, boolNat, decReg_code _ h1, dec_bind, if_pos rfl, decReg_code _ h2, dec_bind, decCond_enc _ _ _ _ _ c u h3 d1]
      simp only [dec_bind, dec_pure, SRaw.x, gx, zeroS_cons, zeroS_nil, finOfNat_self]
  | s6 v =>
    have v_v := v.isLt
    have f1 : fld (8 + 2 * u.toNat + w32.toNat) 1 1 = u.toNat := by simp only [fld, Nat.reduceAdd, Nat.reduceSub, Nat.reducePow]; omega
    have f2 : fld (8 + 2 * u.toNat + w32.toNat) 3 3 = 1 := by simp only [fld, Nat.reduceAdd, Nat.reduceSub, Nat.reducePow]; omega
    have f3 : fld (8 + 2 * u.toNat + w32.toNat) 0 0 = w32.toNat := by simp only [fld, Nat.reduceAdd, Nat.reduceSub, Nat.reducePow]; omega
    have f4 : fld (8 + 2 * u.toNat + w32.toNat) 2 2 = 0 := by simp only [fld, Nat.reduceAdd, Nat.reduceSub, Nat.reducePow]; omega
    refine ⟨?_, fun h he => decodeS_A (by show 0x16 < 0x38; decide) ?_⟩
    · show SFits ⟨0x16, pd.val + 8 * c.code, a.code, v.toNat, 8 + 2 * u.toNat + w32.toNat, 0⟩
      refine ⟨?_, ?_, ?_, ?_, ?_, ?_⟩ <;> dsimp only <;> omega
    · have he : (!h) = true := he
      have he : h = false := by simpa using he
      subst he
      show (decCmp false ⟨0x16, pd.val + 8 * c.code, a.code, v.toNat, 8 + 2 * u.toNat + w32.toNat, none⟩ >>= fun y => .ok (some y)
        : Dec (Option Instr)) = _
      unfold decCmp
      dsimp only
      rw [f1, f2, f3, f4, d2, boolNat, boolNat, decReg_code _ h1, dec_bind, if_neg (by decide), decCond_enc _ _ _ _ _ c u h3 d1]
      simp only [dec_bind, dec_pure, zeroS_cons, zeroS_nil, finOfNat_self, BitVec.ofNat_toNat, BitVec.setWidth_eq]
  | i32 v =>
    have v_v := v.isLt
    have f1 : fld (8 + 2 * u.toNat + w32.toNat) 1 1 = u.toNat := by simp only [fld, Nat.reduceAdd, Nat.reduceSub, Nat.reducePow]; omega
    have f2 : fld (8 + 2 * u.toNat + w32.toNat) 3 3 = 1 := by simp only [fld, Nat.reduceAdd, Nat.reduceSub, Nat.reducePow]; omega
    have f3 : fld (8 + 2 * u.toNat + w32.toNat) 0 0 = w32.toNat := by simp only [fld, Nat.reduceAdd, Nat.reduceSub, Nat.reducePow]; omega
    have f4 : fld (8 + 2 * u.toNat + w32.toNat) 2 2 = 0 := by simp only [fld, Nat.reduceAdd, Nat.reduceSub, Nat.reducePow]; omega
    refine ⟨?_, fun h he => decodeS_A (by show 0x16 < 0x38; decide) ?_⟩
    · show SFits ⟨0x16, pd.val + 8 * c.code, a.code, 0, 8 + 2 * u.toNat + w32.toNat, v.toNat⟩
      refine ⟨?_, ?_, ?_, ?_, ?_, ?_⟩ <;> dsimp only <;> omega
    · have he : h = true := he
      subst he
      show (decCmp false ⟨0x16, pd.val + 8 * c.code, a.code, 0, 8 + 2 * u.toNat + w32.toNat, some v.toNat⟩ >>= fun y => .ok (some y)
        : Dec (Option Instr)) = _
      unfold decCmp
      dsimp only
      rw [f1, f2, f3, f4, d2, boolNat, boolNat, decReg_code _ h1, dec_bind, if_neg (by decide), decCond_enc _ _ _ _ _ c u h3 d1]
      simp only [dec_bind, dec_pure, zeroS_cons, zeroS_nil, finOfNat_self, BitVec.ofNat_toNat, BitVec.setWidth_eq]

/-- The two transfers with an offset. -/
theorem encOff_fits (op : Nat) (ho : op < 64) (o : Off) : SFits (encOff op o) := by
  cases o with
  | short v =>
    have := v.isLt
    refine ⟨ho, ?_, ?_, ?_, ?_, ?_⟩ <;> simp only [encOff, fld, Nat.reduceAdd, Nat.reduceSub, Nat.reducePow] <;> omega
  | long v => have := v.isLt; refine ⟨ho, ?_, ?_, ?_, ?_, ?_⟩ <;> simp only [encOff] <;> omega
theorem decOff_enc (op : Nat) (o : Off) {h : Bool} (he : extMay o.extRule h = true) : decOff ((encOff op o).raw h) = .ok o := by
  cases o with
  | short v =>
    have he : (!h) = true := he
    have he : h = false := by simpa using he
    subst he
    have := v.isLt
    have e : fld v.toNat 5 0 + fld v.toNat 11 6 * 64 + fld v.toNat 17 12 * 4096 = v.toNat := by
      simp only [fld, Nat.reduceAdd, Nat.reduceSub, Nat.reducePow]; omega
    simp [decOff, encOff, SEnc.raw, zeroS_cons, zeroS_nil, dec_bind, dec_pure, e]
  | long v =>
    have he : h = true := he
    subst he
    simp [decOff, encOff, SEnc.raw, zeroS_cons, zeroS_nil, dec_bind, dec_pure]
theorem encOff_op (op : Nat) (o : Off) (h : Bool) : ((encOff op o).raw h).op = op := by cases o <;> rfl
theorem br (off : Off) : Statement (.br off) := by
  refine ⟨fun hw => ⟨encOff_fits _ (by decide) _, fun h he => ?_⟩, fun hw => absurd hw Bool.false_ne_true, fun hw => absurd hw Bool.false_ne_true⟩
  have ho : ((encOff 0x1D off).raw h).op = 0x1D := encOff_op _ _ _
  show decodeS false ((encOff 0x1D off).raw h) = _
  refine decodeS_X (by rw [ho]; decide) (by unfold decodeA; rw [ho]; rfl) ?_
  have : decodeX false ((encOff 0x1D off).raw h) = (decOff ((encOff 0x1D off).raw h) >>= fun y => .ok (some (.br y))) := by
    unfold decodeX; rw [ho]; rfl
  rw [this, decOff_enc _ _ (extOk_src he), dec_bind]
theorem call (off : Off) : Statement (.call off) := by
  refine ⟨fun hw => ⟨encOff_fits _ (by decide) _, fun h he => ?_⟩, fun hw => absurd hw Bool.false_ne_true, fun hw => absurd hw Bool.false_ne_true⟩
  have ho : ((encOff 0x1F off).raw h).op = 0x1F := encOff_op _ _ _
  show decodeS false ((encOff 0x1F off).raw h) = _
  refine decodeS_X (by rw [ho]; decide) (by unfold decodeA; rw [ho]; rfl) ?_
  have : decodeX false ((encOff 0x1F off).raw h) = (decOff ((encOff 0x1F off).raw h) >>= fun y => .ok (some (.call y))) := by
    unfold decodeX; rw [ho]; rfl
  rw [this, decOff_enc _ _ (extOk_src he), dec_bind]

theorem rst (k : RstKind) (src : Reg) (dw : Reg) (a : Addr) : Statement (.rst k src dw a) := by
  refine ⟨fun hw => ?_, fun hw => absurd hw Bool.false_ne_true, fun hw => absurd hw Bool.false_ne_true⟩
  have hw : (src.isSrc && a.base.isSrc && (if k.hasDw then dw.isSrc else dw == .w 0)) = true := hw
  rw [Bool.and_eq_true, Bool.and_eq_true] at hw
  obtain ⟨⟨h1, h2⟩, h3⟩ := hw
  have v_k := RstKind.code_lt k
  have v_s := Reg.code_lt src
  have v_d := Reg.code_lt dw
  have v_a := Reg.code_lt a.base
  have w_a := a.disp.isLt
  refine ⟨?_, fun h he => ?_⟩
  · show SFits ⟨0x30, src.code, a.base.code, dw.code, k.code, a.disp.toNat⟩
    refine ⟨?_, ?_, ?_, ?_, ?_, ?_⟩ <;> dsimp only <;> omega
  · have gx : (if h then some (a.disp.toNat) else none : Option Nat).getD 0 = a.disp.toNat := by
      cases h with
      | true => rfl
      | false => have he : ((false || (a.disp == 0)) : Bool) = true := he; simp only [Bool.false_or, beq_iff_eq] at he; rw [he]; rfl
    have g : (encS (.rst k src dw a)).raw h = ⟨0x30, src.code, a.base.code, dw.code, k.code, if h then some (a.disp.toNat) else none⟩ := rfl
    rw [g]
    refine decodeS_M (by show 0x30 < 0x38; decide) rfl rfl ?_
    unfold decodeM
    dsimp only
    have e0 : fld k.code 2 0 = k.code := by simp only [fld, Nat.reduceAdd, Nat.reduceSub, Nat.reducePow]; omega
    have e1 : decide (k.code < 8) = true := by simpa using v_k
    rw [e0, RstKind.ofCode_code, e1]
    cases hk : k.hasDw with
    | true =>
      rw [hk] at h3
      have h3 : dw.isSrc = true := h3
      simp [decAddr, SRaw.x, gx, dec_bind, dec_pure, need_ok, decReg_code _ h1, decReg_code _ h2, decReg_code _ h3]
    | false =>
      rw [hk] at h3
      have h3 : dw = .w 0 := by simpa using h3
      subst h3
      have e2 : (Reg.w 0).code = 0 := rfl
      simp [decAddr, SRaw.x, gx, dec_bind, dec_pure, need_ok, zeroS_cons, zeroS_nil, e2, decReg_code _ h1, decReg_code _ h2]

/-- The object of ACQ, RLS and BIND. -/
theorem encObj_fits (o : ObjRef) : (encObj o).1 < 64 ∧ ∃ n < 16, (encObj o).2 = 64 * (match o with
    | .hw _ => 0 | .fe _ => 1 | .dw _ => 2 | .ch _ => 3) + 256 * n ∧ ((∀ k, o ≠ .ch k) → n = 0) := by
  cases o with
  | hw r => exact ⟨Reg.code_lt r, 0, by decide, rfl, fun _ => rfl⟩
  | fe r => exact ⟨Reg.code_lt r, 0, by decide, rfl, fun _ => rfl⟩
  | dw r => exact ⟨Reg.code_lt r, 0, by decide, rfl, fun _ => rfl⟩
  | ch k => exact ⟨by show 0 < 64; decide, k.toNat, k.isLt, rfl, fun h => absurd rfl (h k)⟩
theorem obj_ok (o : ObjRef) (hw : o.wf = true) (pos y : Nat) (hy : fld y 7 6 = fld (encObj o).2 7 6) (hz : fld y 11 8 = fld (encObj o).2 11 8) :
    decObj false y pos (encObj o).1 = .ok o ∧ objZero y (encObj o).1 = 0 ∧ selCheck y = .ok () ∧ zeroS (objSelZero y) = .ok () := by
  cases o with
  | hw r =>
    have h : r.isPlain = true := hw
    have a : fld y 7 6 = 0 := hy.trans (by show fld 0 7 6 = 0; decide)
    have b : fld y 11 8 = 0 := hz.trans (by show fld 0 11 8 = 0; decide)
    simp [decObj, objZero, selCheck, objSelZero, a, b, encObj, decReg_code _ h, dec_bind, dec_pure, need, zeroS]
  | fe r =>
    have h : r.isPlain = true := hw
    have a : fld y 7 6 = 1 := hy.trans (by show fld 64 7 6 = 1; decide)
    have b : fld y 11 8 = 0 := hz.trans (by show fld 64 11 8 = 0; decide)
    simp [decObj, objZero, selCheck, objSelZero, a, b, encObj, decReg_code _ h, dec_bind, dec_pure, need, zeroS]
  | dw r =>
    have h : r.isPlain = true := hw
    have a : fld y 7 6 = 2 := hy.trans (by show fld 128 7 6 = 2; decide)
    have b : fld y 11 8 = 0 := hz.trans (by show fld 128 11 8 = 0; decide)
    simp [decObj, objZero, selCheck, objSelZero, a, b, encObj, decReg_code _ h, dec_bind, dec_pure, need, zeroS]
  | ch k =>
    have h : selOk k.toNat = true := hw
    have v := k.isLt
    have a : fld y 7 6 = 3 := by rw [hy]; simp only [encObj, fld, Nat.reduceAdd, Nat.reduceSub, Nat.reducePow]; omega
    have b : fld y 11 8 = k.toNat := by rw [hz]; simp only [encObj, fld, Nat.reduceAdd, Nat.reduceSub, Nat.reducePow]; omega
    simp [decObj, objZero, selCheck, objSelZero, a, b, encObj, dec_pure, need, zeroS, h]
theorem zeroS_append (l m : List (Nat × Nat)) (h : zeroS l = .ok ()) : zeroS (l ++ m) = zeroS m := by
  induction l with
  | nil => rfl
  | cons x l ih =>
    obtain ⟨p, v⟩ := x
    by_cases hv : v = 0
    · rw [List.cons_append, zeroS_cons hv]; exact ih (by rwa [zeroS_cons hv] at h)
    · simp [zeroS, hv] at h

theorem acq (o : ObjRef) : Statement (.acq o) := by
  refine ⟨fun hw => ?_, fun hw => absurd hw Bool.false_ne_true, fun hw => absurd hw Bool.false_ne_true⟩
  have hw : o.wf = true := hw
  obtain ⟨h1, n, hn, hx, -⟩ := encObj_fits o
  have hm : (match o with
    | .hw _ => 0 | .fe _ => 1 | .dw _ => 2 | .ch _ => 3) < 4 := by cases o <;> simp
  refine ⟨?_, fun h he => ?_⟩
  · show SFits ⟨0x38, 0, (encObj o).1, 0, 2, (encObj o).2⟩
    refine ⟨?_, ?_, ?_, ?_, ?_, ?_⟩ <;> dsimp only <;> omega
  · have he : h = true := he
    subst he
    have g : (encS (.acq o)).raw true = ⟨0x38, 0, (encObj o).1, 0, 2, some (encObj o).2⟩ := rfl
    rw [g]
    apply decodeS_slot
    rw [decodeSlot_Sync rfl]
    obtain ⟨a1, a2, a3, a4⟩ := obj_ok o hw 20 (encObj o).2 rfl rfl
    have e0 : fld (encObj o).2 5 0 = 0 := by rw [hx]; simp only [fld, Nat.reduceAdd, Nat.reduceSub, Nat.reducePow]; omega
    have e1 : fld (encObj o).2 31 12 = 0 := by rw [hx]; simp only [fld, Nat.reduceAdd, Nat.reduceSub, Nat.reducePow]; omega
    unfold decodeSync
    dsimp only
    have ez : zeroS ([(14, 0), (20, objZero (encObj o).2 (encObj o).1), (26, 0), (64, fld (encObj o).2 5 0)] ++ objSelZero (encObj o).2
        ++ [(76, fld (encObj o).2 31 12)]) = .ok () := by
      rw [List.append_assoc, zeroS_append _ _ (by simp [a2, e0, zeroS]), zeroS_append _ _ a4]; simp [e1, zeroS]
    simp only [SRaw.x, Option.getD_some, a1, dec_bind, needExt, Option.isSome_some, need_ok, ez, a3, dec_pure]
theorem rls (o : ObjRef) : Statement (.rls o) := by
  refine ⟨fun hw => ?_, fun hw => absurd hw Bool.false_ne_true, fun hw => absurd hw Bool.false_ne_true⟩
  have hw : o.wf = true := hw
  obtain ⟨h1, n, hn, hx, -⟩ := encObj_fits o
  have hm : (match o with
    | .hw _ => 0 | .fe _ => 1 | .dw _ => 2 | .ch _ => 3) < 4 := by cases o <;> simp
  refine ⟨?_, fun h he => ?_⟩
  · show SFits ⟨0x38, 0, (encObj o).1, 0, 3, (encObj o).2⟩
    refine ⟨?_, ?_, ?_, ?_, ?_, ?_⟩ <;> dsimp only <;> omega
  · have he : h = true := he
    subst he
    have g : (encS (.rls o)).raw true = ⟨0x38, 0, (encObj o).1, 0, 3, some (encObj o).2⟩ := rfl
    rw [g]
    apply decodeS_slot
    rw [decodeSlot_Sync rfl]
    obtain ⟨a1, a2, a3, a4⟩ := obj_ok o hw 20 (encObj o).2 rfl rfl
    have e0 : fld (encObj o).2 5 0 = 0 := by rw [hx]; simp only [fld, Nat.reduceAdd, Nat.reduceSub, Nat.reducePow]; omega
    have e1 : fld (encObj o).2 31 12 = 0 := by rw [hx]; simp only [fld, Nat.reduceAdd, Nat.reduceSub, Nat.reducePow]; omega
    unfold decodeSync
    dsimp only
    have ez : zeroS ([(14, 0), (20, objZero (encObj o).2 (encObj o).1), (26, 0), (64, fld (encObj o).2 5 0)] ++ objSelZero (encObj o).2
        ++ [(76, fld (encObj o).2 31 12)]) = .ok () := by
      rw [List.append_assoc, zeroS_append _ _ (by simp [a2, e0, zeroS]), zeroS_append _ _ a4]; simp [e1, zeroS]
    simp only [SRaw.x, Option.getD_some, a1, dec_bind, needExt, Option.isSome_some, need_ok, ez, a3, dec_pure]
theorem bind (slot : BitVec 4) (base : Reg) (lines : BitVec 20) (o : ObjRef) : Statement (.bind slot base lines o) := by
  refine ⟨fun hw => ?_, fun hw => absurd hw Bool.false_ne_true, fun hw => absurd hw Bool.false_ne_true⟩
  have hw : (base.isPlain && o.wf && lines.toNat != 0) = true := hw
  rw [Bool.and_eq_true, Bool.and_eq_true] at hw
  obtain ⟨⟨hb, hw⟩, hl⟩ := hw
  obtain ⟨h1, n, hn, hx, -⟩ := encObj_fits o
  have hm : (match o with
    | .hw _ => 0 | .fe _ => 1 | .dw _ => 2 | .ch _ => 3) < 4 := by cases o <;> simp
  have v_s := slot.isLt
  have v_l := lines.isLt
  have v_b := Reg.code_lt base
  refine ⟨?_, fun h he => ?_⟩
  · show SFits ⟨0x38, 0, base.code, (encObj o).1, 4, slot.toNat + (encObj o).2 + 4096 * lines.toNat⟩
    refine ⟨?_, ?_, ?_, ?_, ?_, ?_⟩ <;> dsimp only <;> omega
  · have he : h = true := he
    subst he
    have g : (encS (.bind slot base lines o)).raw true
      = ⟨0x38, 0, base.code, (encObj o).1, 4, some (slot.toNat + (encObj o).2 + 4096 * lines.toNat)⟩ := rfl
    rw [g]
    apply decodeS_slot
    rw [decodeSlot_Sync rfl]
    obtain ⟨y, hy⟩ : ∃ y, y = slot.toNat + (encObj o).2 + 4096 * lines.toNat := ⟨_, rfl⟩
    rw [← hy]
    rw [hx] at hy
    obtain ⟨a1, a2, a3, a4⟩ := obj_ok o hw 26 y
      (by rw [hy, hx]; simp only [fld, Nat.reduceAdd, Nat.reduceSub, Nat.reducePow]; omega)
      (by rw [hy, hx]; simp only [fld, Nat.reduceAdd, Nat.reduceSub, Nat.reducePow]; omega)
    have e0 : fld y 5 4 = 0 := by rw [hy]; simp only [fld, Nat.reduceAdd, Nat.reduceSub, Nat.reducePow]; omega
    have e1 : fld y 31 12 = lines.toNat := by rw [hy]; simp only [fld, Nat.reduceAdd, Nat.reduceSub, Nat.reducePow]; omega
    have e2 : fld y 3 0 = slot.toNat := by rw [hy]; simp only [fld, Nat.reduceAdd, Nat.reduceSub, Nat.reducePow]; omega
    unfold decodeSync
    dsimp only
    have ez : zeroS ([(14, 0), (26, objZero y (encObj o).1), (68, fld y 5 4)] ++ objSelZero y) = .ok () := by
      rw [zeroS_append _ _ (by simp [a2, e0, zeroS]), a4]
    simp only [SRaw.x, Option.getD_some, a1, dec_bind, needExt, Option.isSome_some, Bool.not_false, need_ok, ez, a3, dec_pure,
      decReg_code _ hb, e1, e2, hl, BitVec.ofNat_toNat, BitVec.setWidth_eq]

theorem lksparse (d : Dir) (c : SparseCfg) (bound : Option Reg) : Statement (.lksparse d c bound) := by
  refine ⟨fun hw => ?_, fun hw => absurd hw Bool.false_ne_true, fun hw => absurd hw Bool.false_ne_true⟩
  have key : c.wf = true ∧ (∀ r, bound = some r → c.mode.toNat = 2 ∧ r.isWgo = true) ∧ (bound = none → c.mode.toNat ≠ 2) := by
    cases bound with
    | some r =>
      have hw : (c.wf && (c.mode.toNat == 2 && r.isWgo)) = true := hw
      simp only [Bool.and_eq_true, beq_iff_eq] at hw
      exact ⟨hw.1, fun r' h => by cases h; exact hw.2, fun h => nomatch h⟩
    | none =>
      have hw : (c.wf && (c.mode.toNat != 2)) = true := hw
      simp only [Bool.and_eq_true, bne_iff_ne, ne_eq] at hw
      exact ⟨hw.1, (by intro r' h; cases h), fun _ => hw.2⟩
  obtain ⟨hc, hb1, hb2⟩ := key
  obtain ⟨mode, t, nm, sideB⟩ := c
  simp only [SparseCfg.wf, Bool.and_eq_true, Bool.or_eq_true, bne_iff_ne, ne_eq, beq_iff_eq] at hc
  obtain ⟨⟨h1, h2⟩, h3⟩ := hc
  have v_d := Dir.code_lt d
  have v_m := mode.isLt
  have v_t := t.isLt
  have v_n := nm.isLt
  have v_b := Bool.toNat_lt sideB
  obtain ⟨x, hx⟩ : ∃ x, x = d.code + 16 * sideB.toNat + 64 * nm.toNat + 256 * t.toNat + 1024 * mode.toNat := ⟨_, rfl⟩
  have e0 : fld x 1 0 = d.code := by rw [hx]; simp only [fld, Nat.reduceAdd, Nat.reduceSub, Nat.reducePow]; omega
  have e1 : fld x 11 10 = mode.toNat := by rw [hx]; simp only [fld, Nat.reduceAdd, Nat.reduceSub, Nat.reducePow]; omega
  have e2 : fld x 9 8 = t.toNat := by rw [hx]; simp only [fld, Nat.reduceAdd, Nat.reduceSub, Nat.reducePow]; omega
  have e3 : fld x 7 6 = nm.toNat := by rw [hx]; simp only [fld, Nat.reduceAdd, Nat.reduceSub, Nat.reducePow]; omega
  have e4 : fld x 4 4 = sideB.toNat := by rw [hx]; simp only [fld, Nat.reduceAdd, Nat.reduceSub, Nat.reducePow]; omega
  have e5 : fld x 3 2 = 0 := by rw [hx]; simp only [fld, Nat.reduceAdd, Nat.reduceSub, Nat.reducePow]; omega
  have e6 : fld x 5 5 = 0 := by rw [hx]; simp only [fld, Nat.reduceAdd, Nat.reduceSub, Nat.reducePow]; omega
  have e7 : fld x 31 12 = 0 := by rw [hx]; simp only [fld, Nat.reduceAdd, Nat.reduceSub, Nat.reducePow]; omega
  cases bound with
  | some r =>
    obtain ⟨hb, hr⟩ := hb1 r rfl
    have hb : mode.toNat = 2 := hb
    have v_r := Reg.code_lt r
    refine ⟨?_, fun h he => ?_⟩
    · show SFits ⟨0x3A, 0, r.code, 0, 4, d.code + 16 * sideB.toNat + 64 * nm.toNat + 256 * t.toNat + 1024 * mode.toNat⟩
      refine ⟨?_, ?_, ?_, ?_, ?_, ?_⟩ <;> dsimp only <;> omega
    · have he : h = true := he
      subst he
      have g : (encS (.lksparse d ⟨mode, t, nm, sideB⟩ (some r))).raw true = ⟨0x3A, 0, r.code, 0, 4, some x⟩ := by rw [hx]; rfl
      rw [g]
      apply decodeS_slot
      rw [decodeSlot_Link rfl]
      have ht : t.toNat ≠ 0 := by omega
      show decSparse false ⟨0x3A, 0, r.code, 0, 4, some x⟩ = _
      unfold decSparse
      have n3 : (nm.toNat != 3) = true := by simpa using h2
      have t0 : (t.toNat != 0) = true := by simpa using ht
      simp [SRaw.x, e0, e1, e2, e3, e4, e5, e6, e7, hb, t0, n3, dec_bind, dec_pure, zeroS_cons, zeroS_nil, need_ok, decReg_code _ hr,
        Dir.ofCode_code, boolNat]
      apply BitVec.eq_of_toNat_eq; simp [hb]
  | none =>
    have hb : ¬ mode.toNat = 2 := hb2 rfl
    refine ⟨?_, fun h he => ?_⟩
    · show SFits ⟨0x3A, 0, 0, 0, 4, d.code + 16 * sideB.toNat + 64 * nm.toNat + 256 * t.toNat + 1024 * mode.toNat⟩
      refine ⟨?_, ?_, ?_, ?_, ?_, ?_⟩ <;> dsimp only <;> omega
    · have he : h = true := he
      subst he
      have g : (encS (.lksparse d ⟨mode, t, nm, sideB⟩ none)).raw true = ⟨0x3A, 0, 0, 0, 4, some x⟩ := by rw [hx]; rfl
      rw [g]
      apply decodeS_slot
      rw [decodeSlot_Link rfl]
      show decSparse false ⟨0x3A, 0, 0, 0, 4, some x⟩ = _
      unfold decSparse
      have n3 : (nm.toNat != 3) = true := by simpa using h2
      have m3 : (mode.toNat != 3) = true := by simpa using h1
      by_cases ht : t.toNat = 0
      · have hh := h3.resolve_left (by simpa using ht)
        have t0 : t = 0 := by apply BitVec.eq_of_toNat_eq; simpa using ht
        simp [SRaw.x, e0, e1, e2, e3, e4, e5, e6, e7, hb, hh, t0, dec_bind, dec_pure, zeroS_cons, zeroS_nil, need_ok, needExt,
          Dir.ofCode_code, boolNat]
        exact ⟨by apply BitVec.eq_of_toNat_eq; simp [hh], by apply BitVec.eq_of_toNat_eq; simp [hh]⟩
      · simp [SRaw.x, e0, e1, e2, e3, e4, e5, e6, e7, hb, ht, n3, m3, dec_bind, dec_pure, zeroS_cons, zeroS_nil, need_ok, needExt,
          Dir.ofCode_code, boolNat]

theorem lkdrain (d : Dir) (f : DrainForm) : Statement (.lkdrain d f) := by
  refine ⟨fun hw => ?_, fun hw => absurd hw Bool.false_ne_true, fun hw => absurd hw Bool.false_ne_true⟩
  have v_d := Dir.code_lt d
  cases f with
  | now =>
    refine ⟨?_, fun h he => ?_⟩
    · show SFits ⟨0x3A, 0, 0, 0, 5, d.code⟩
      refine ⟨?_, ?_, ?_, ?_, ?_, ?_⟩ <;> dsimp only <;> omega
    · have he : h = true := he
      subst he
      have g : (encS (.lkdrain d .now)).raw true = ⟨0x3A, 0, 0, 0, 5, some d.code⟩ := rfl
      rw [g]
      apply decodeS_slot
      rw [decodeSlot_Link rfl]
      unfold decodeLink
      dsimp only
      have e0 : fld d.code 2 2 = 0 := by simp only [fld, Nat.reduceAdd, Nat.reduceSub, Nat.reducePow]; omega
      have e1 : fld d.code 15 3 = 0 := by simp only [fld, Nat.reduceAdd, Nat.reduceSub, Nat.reducePow]; omega
      have e3 : fld d.code 31 16 = 0 := by simp only [fld, Nat.reduceAdd, Nat.reduceSub, Nat.reducePow]; omega
      have e2 : fld d.code 1 0 = d.code := by simp only [fld, Nat.reduceAdd, Nat.reduceSub, Nat.reducePow]; omega
      simp [SRaw.x, e0, e1, e2, e3, dec_bind, dec_pure, zeroS_cons, zeroS_nil, need_ok, needExt, Dir.ofCode_code]
  | redrain base disp =>
    have hw : base.isPlain = true := hw
    have v_b := Reg.code_lt base
    have v_p := disp.isLt
    refine ⟨?_, fun h he => ?_⟩
    · show SFits ⟨0x3A, 0, base.code, 0, 5, d.code + 4 + 65536 * disp.toNat⟩
      refine ⟨?_, ?_, ?_, ?_, ?_, ?_⟩ <;> dsimp only <;> omega
    · have he : h = true := he
      subst he
      have g : (encS (.lkdrain d (.redrain base disp))).raw true = ⟨0x3A, 0, base.code, 0, 5, some (d.code + 4 + 65536 * disp.toNat)⟩ := rfl
      rw [g]
      apply decodeS_slot
      rw [decodeSlot_Link rfl]
      unfold decodeLink
      dsimp only
      have e0 : fld (d.code + 4 + 65536 * disp.toNat) 2 2 = 1 := by simp only [fld, Nat.reduceAdd, Nat.reduceSub, Nat.reducePow]; omega
      have e1 : fld (d.code + 4 + 65536 * disp.toNat) 15 3 = 0 := by simp only [fld, Nat.reduceAdd, Nat.reduceSub, Nat.reducePow]; omega
      have e2 : fld (d.code + 4 + 65536 * disp.toNat) 1 0 = d.code := by simp only [fld, Nat.reduceAdd, Nat.reduceSub, Nat.reducePow]; omega
      have e3 : fld (d.code + 4 + 65536 * disp.toNat) 31 16 = disp.toNat := by simp only [fld, Nat.reduceAdd, Nat.reduceSub, Nat.reducePow]; omega
      simp [SRaw.x, e0, e1, e2, e3, dec_bind, dec_pure, zeroS_cons, zeroS_nil, Dir.ofCode_code, decReg_code _ hw]

theorem qbind (op : QBindOp) : Statement (.qbind op) := by
  refine ⟨fun hw => ?_, fun hw => absurd hw Bool.false_ne_true, fun hw => absurd hw Bool.false_ne_true⟩
  have aux : ∀ x : Nat, x < 2 ^ 32 → decQBind x = .ok op → (encS (.qbind op)) = ⟨0x3B, 0, 0, 0, 0, x⟩ →
      SFits (encS (.qbind op)) ∧ ∀ h, extOk (Instr.qbind op).extRule (Instr.qbind op).optDisp h = true →
        decodeS false ((encS (.qbind op)).raw h) = .ok (.qbind op) := by
    intro x hx hd hg
    rw [hg]
    refine ⟨⟨by show 0x3B < 64; decide, by show 0 < 64; decide, by show 0 < 64; decide, by show 0 < 64; decide, by show 0 < 16; decide, hx⟩, fun h he => ?_⟩
    have he : h = true := he
    subst he
    show decodeS false ⟨0x3B, 0, 0, 0, 0, some x⟩ = _
    apply decodeS_slot
    rw [decodeSlot_Queue rfl]
    unfold decodeQueue
    dsimp only
    simp [SRaw.x, dec_bind, dec_pure, zeroS_cons, zeroS_nil, need_ok, needExt, hd]
  cases op with
  | bind d n =>
    have v_d := Dir.code_lt d
    have v_n := n.isLt
    have e0 : fld (d.code + 16 * n.toNat) 9 8 = 0 := by simp only [fld, Nat.reduceAdd, Nat.reduceSub, Nat.reducePow]; omega
    have e1 : fld (d.code + 16 * n.toNat) 3 2 = 0 := by simp only [fld, Nat.reduceAdd, Nat.reduceSub, Nat.reducePow]; omega
    have e2 : fld (d.code + 16 * n.toNat) 31 10 = 0 := by simp only [fld, Nat.reduceAdd, Nat.reduceSub, Nat.reducePow]; omega
    have e3 : fld (d.code + 16 * n.toNat) 1 0 = d.code := by simp only [fld, Nat.reduceAdd, Nat.reduceSub, Nat.reducePow]; omega
    have e4 : fld (d.code + 16 * n.toNat) 7 4 = n.toNat := by simp only [fld, Nat.reduceAdd, Nat.reduceSub, Nat.reducePow]; omega
    exact aux (d.code + 16 * n.toNat) (by omega) (by simp [decQBind, e0, e1, e2, e3, e4, zeroS_cons, zeroS_nil, dec_bind, dec_pure, Dir.ofCode_code]) rfl
  | unbind d =>
    have v_d := Dir.code_lt d
    have e0 : fld (d.code + 256) 9 8 = 1 := by simp only [fld, Nat.reduceAdd, Nat.reduceSub, Nat.reducePow]; omega
    have e1 : fld (d.code + 256) 3 2 = 0 := by simp only [fld, Nat.reduceAdd, Nat.reduceSub, Nat.reducePow]; omega
    have e2 : fld (d.code + 256) 31 10 = 0 := by simp only [fld, Nat.reduceAdd, Nat.reduceSub, Nat.reducePow]; omega
    have e3 : fld (d.code + 256) 1 0 = d.code := by simp only [fld, Nat.reduceAdd, Nat.reduceSub, Nat.reducePow]; omega
    have e4 : fld (d.code + 256) 7 4 = 0 := by simp only [fld, Nat.reduceAdd, Nat.reduceSub, Nat.reducePow]; omega
    exact aux (d.code + 256) (by omega) (by simp [decQBind, e0, e1, e2, e3, e4, zeroS_cons, zeroS_nil, dec_bind, dec_pure, Dir.ofCode_code]) rfl
  | free n =>
    have v_n := n.isLt
    have e0 : fld (16 * n.toNat + 512) 9 8 = 2 := by simp only [fld, Nat.reduceAdd, Nat.reduceSub, Nat.reducePow]; omega
    have e1 : fld (16 * n.toNat + 512) 3 2 = 0 := by simp only [fld, Nat.reduceAdd, Nat.reduceSub, Nat.reducePow]; omega
    have e2 : fld (16 * n.toNat + 512) 31 10 = 0 := by simp only [fld, Nat.reduceAdd, Nat.reduceSub, Nat.reducePow]; omega
    have e3 : fld (16 * n.toNat + 512) 1 0 = 0 := by simp only [fld, Nat.reduceAdd, Nat.reduceSub, Nat.reducePow]; omega
    have e4 : fld (16 * n.toNat + 512) 7 4 = n.toNat := by simp only [fld, Nat.reduceAdd, Nat.reduceSub, Nat.reducePow]; omega
    exact aux (16 * n.toNat + 512) (by omega) (by simp [decQBind, e0, e1, e2, e3, e4, zeroS_cons, zeroS_nil, dec_bind, dec_pure]) rfl
  | nofree n =>
    have v_n := n.isLt
    have e0 : fld (16 * n.toNat + 768) 9 8 = 3 := by simp only [fld, Nat.reduceAdd, Nat.reduceSub, Nat.reducePow]; omega
    have e1 : fld (16 * n.toNat + 768) 3 2 = 0 := by simp only [fld, Nat.reduceAdd, Nat.reduceSub, Nat.reducePow]; omega
    have e2 : fld (16 * n.toNat + 768) 31 10 = 0 := by simp only [fld, Nat.reduceAdd, Nat.reduceSub, Nat.reducePow]; omega
    have e3 : fld (16 * n.toNat + 768) 1 0 = 0 := by simp only [fld, Nat.reduceAdd, Nat.reduceSub, Nat.reducePow]; omega
    have e4 : fld (16 * n.toNat + 768) 7 4 = n.toNat := by simp only [fld, Nat.reduceAdd, Nat.reduceSub, Nat.reducePow]; omega
    exact aux (16 * n.toNat + 768) (by omega) (by simp [decQBind, e0, e1, e2, e3, e4, zeroS_cons, zeroS_nil, dec_bind, dec_pure]) rfl

theorem qctl (d : Dir) (src : Reg) : Statement (.qctl d src) := by
  refine ⟨fun hw => ?_, fun hw => absurd hw Bool.false_ne_true, fun hw => absurd hw Bool.false_ne_true⟩
  have hw : src.isSrc = true := hw
  refine ⟨?_, fun h he => ?_⟩
  · have := Reg.code_lt src
    have := Reg.code_lt (.q d)
    show SFits ⟨0x3B, (Reg.q d).code, src.code, 0, 1, 0⟩
    refine ⟨?_, ?_, ?_, ?_, ?_, ?_⟩ <;> dsimp only <;> omega
  · have he : h = true := he
    subst he
    have g : (encS (.qctl d src)).raw true = ⟨0x3B, (Reg.q d).code, src.code, 0, 1, some 0⟩ := rfl
    rw [g]
    apply decodeS_slot
    rw [decodeSlot_Queue rfl]
    unfold decodeQueue
    dsimp only
    rw [decReg_code _ (by rfl)]
    simp [SRaw.x, dec_bind, dec_pure, zeroS_cons, zeroS_nil, need_ok, needExt, decReg_code _ hw]

theorem lvset (ctl : BitVec 3) (ps : Option LvParams) : Statement (.lvset ctl ps) := by
  refine ⟨fun hw => ?_, fun hw => absurd hw Bool.false_ne_true, fun hw => absurd hw Bool.false_ne_true⟩
  have v_c := ctl.isLt
  cases ps with
  | none =>
    refine ⟨?_, fun h he => ?_⟩
    · show SFits ⟨0x3B, 0, 0, 0, 3, ctl.toNat⟩
      refine ⟨?_, ?_, ?_, ?_, ?_, ?_⟩ <;> dsimp only <;> omega
    · have he : h = true := he
      subst he
      have g : (encS (.lvset ctl none)).raw true = ⟨0x3B, 0, 0, 0, 3, some ctl.toNat⟩ := rfl
      rw [g]
      apply decodeS_slot
      rw [decodeSlot_Queue rfl]
      unfold decodeQueue
      dsimp only
      have e0 : fld ctl.toNat 5 3 = 0 := by simp only [fld, Nat.reduceAdd, Nat.reduceSub, Nat.reducePow]; omega
      have e1 : fld ctl.toNat 31 31 = 0 := by simp only [fld, Nat.reduceAdd, Nat.reduceSub, Nat.reducePow]; omega
      have e2 : fld ctl.toNat 10 6 = 0 := by simp only [fld, Nat.reduceAdd, Nat.reduceSub, Nat.reducePow]; omega
      have e4 : fld ctl.toNat 13 11 = 0 := by simp only [fld, Nat.reduceAdd, Nat.reduceSub, Nat.reducePow]; omega
      have e5 : fld ctl.toNat 16 14 = 0 := by simp only [fld, Nat.reduceAdd, Nat.reduceSub, Nat.reducePow]; omega
      have e6 : fld ctl.toNat 20 17 = 0 := by simp only [fld, Nat.reduceAdd, Nat.reduceSub, Nat.reducePow]; omega
      have e7 : fld ctl.toNat 24 21 = 0 := by simp only [fld, Nat.reduceAdd, Nat.reduceSub, Nat.reducePow]; omega
      have e8 : fld ctl.toNat 30 25 = 0 := by simp only [fld, Nat.reduceAdd, Nat.reduceSub, Nat.reducePow]; omega
      have e3 : fld ctl.toNat 2 0 = ctl.toNat := by simp only [fld, Nat.reduceAdd, Nat.reduceSub, Nat.reducePow]; omega
      simp [SRaw.x, dec_bind, dec_pure, zeroS_cons, zeroS_nil, need_ok, needExt, e0, e1, e2, e3, e4, e5, e6, e7, e8]
  | some p =>
    obtain ⟨pq, wc, wp, gi, gp, setp⟩ := p
    have hw : decide (setp.toNat ≤ 16) = true := hw
    have v1 := pq.isLt
    have v2 := wc.isLt
    have v3 := wp.isLt
    have v4 := gi.isLt
    have v5 := gp.isLt
    have v6 := setp.isLt
    obtain ⟨x, hx⟩ : ∃ x, x = ctl.toNat + 64 * setp.toNat + 2048 * gp.toNat + 16384 * gi.toNat + 131072 * wp.toNat + 2097152 * wc.toNat
      + 33554432 * pq.toNat + 2147483648 := ⟨_, rfl⟩
    have hg : encS (.lvset ctl (some ⟨pq, wc, wp, gi, gp, setp⟩)) = ⟨0x3B, 0, 0, 0, 3, x⟩ := by rw [hx]; rfl
    refine ⟨?_, fun h he => ?_⟩
    · rw [hg]
      refine ⟨?_, ?_, ?_, ?_, ?_, ?_⟩ <;> dsimp only <;> omega
    · have he : h = true := he
      subst he
      rw [hg]
      show decodeS false ⟨0x3B, 0, 0, 0, 3, some x⟩ = _
      apply decodeS_slot
      rw [decodeSlot_Queue rfl]
      unfold decodeQueue
      dsimp only
      have e0 : fld x 5 3 = 0 := by rw [hx]; simp only [fld, Nat.reduceAdd, Nat.reduceSub, Nat.reducePow]; omega
      have e1 : fld x 31 31 = 1 := by rw [hx]; simp only [fld, Nat.reduceAdd, Nat.reduceSub, Nat.reducePow]; omega
      have e2 : fld x 2 0 = ctl.toNat := by rw [hx]; simp only [fld, Nat.reduceAdd, Nat.reduceSub, Nat.reducePow]; omega
      have e3 : fld x 10 6 = setp.toNat := by rw [hx]; simp only [fld, Nat.reduceAdd, Nat.reduceSub, Nat.reducePow]; omega
      have e4 : fld x 13 11 = gp.toNat := by rw [hx]; simp only [fld, Nat.reduceAdd, Nat.reduceSub, Nat.reducePow]; omega
      have e5 : fld x 16 14 = gi.toNat := by rw [hx]; simp only [fld, Nat.reduceAdd, Nat.reduceSub, Nat.reducePow]; omega
      have e6 : fld x 20 17 = wp.toNat := by rw [hx]; simp only [fld, Nat.reduceAdd, Nat.reduceSub, Nat.reducePow]; omega
      have e7 : fld x 24 21 = wc.toNat := by rw [hx]; simp only [fld, Nat.reduceAdd, Nat.reduceSub, Nat.reducePow]; omega
      have e8 : fld x 30 25 = pq.toNat := by rw [hx]; simp only [fld, Nat.reduceAdd, Nat.reduceSub, Nat.reducePow]; omega
      have hs : setp.toNat ≤ 16 := by simpa using hw
      simp [SRaw.x, dec_bind, dec_pure, zeroS_cons, zeroS_nil, need_ok, needExt, e0, e1, e2, e3, e4, e5, e6, e7, e8, hs]

theorem VSrc.code_lt (b : VSrc) : b.code < 16 := by
  cases b with
  | v n => exact n.isLt
  | o n => exact Nat.lt_trans n.isLt (by decide)
theorem decVOps_enc (x : VOps) {p : Ty → Bool} (hp : p x.ty = true) (op f X pos : Nat) (hf : f < 4) :
    decVOps ⟨op, x.vd.val, x.va.val, x.vb.code, x.ty.code, x.mask.val, x.vb.flag + f, X, pos⟩ p = .ok x := by
  obtain ⟨ty, vd, va, b, mask⟩ := x
  cases b with
  | v n =>
    have e : fld (0 + f) 2 2 = 0 := by simp only [fld, Nat.reduceAdd, Nat.reduceSub, Nat.reducePow]; omega
    simp [decVOps, bOk, decTy, decVb, VSrc.code, VSrc.flag, e, Ty.ofCode_code, okOr, need_ok hp, dec_bind, dec_pure, zeroV_cons, zeroV_nil, finOfNat_self] at hp ⊢
    rw [show fld f 2 2 = 0 by simpa using e]
    simp [zeroV_cons, zeroV_nil, dec_bind, dec_pure, need_ok hp, finOfNat_self]
  | o n =>
    have := n.isLt
    have e : fld (4 + f) 2 2 = 1 := by simp only [fld, Nat.reduceAdd, Nat.reduceSub, Nat.reducePow]; omega
    have e2 : fld n.val 3 3 = 0 := by simp only [fld, Nat.reduceAdd, Nat.reduceSub, Nat.reducePow]; omega
    have e3 : fld n.val 2 0 = n.val := by simp only [fld, Nat.reduceAdd, Nat.reduceSub, Nat.reducePow]; omega
    simp [decVOps, bOk, decTy, decVb, VSrc.code, VSrc.flag, e, e2, e3, Ty.ofCode_code, okOr, need_ok hp, dec_bind, dec_pure, zeroV_cons, zeroV_nil, finOfNat_self]
theorem decVb_enc (b : VSrc) (op vd va ty mask f X pos : Nat) (hf : f < 4) :
    decVb ⟨op, vd, va, b.code, ty, mask, b.flag + f, X, pos⟩ = .ok b ∧ bOk ⟨op, vd, va, b.code, ty, mask, b.flag + f, X, pos⟩ = .ok () := by
  cases b with
  | v n =>
    have e : fld (0 + f) 2 2 = 0 := by simp only [fld, Nat.reduceAdd, Nat.reduceSub, Nat.reducePow]; omega
    simp only [decVb, bOk, VSrc.code, VSrc.flag, e]
    exact ⟨by simp [finOfNat_self], by simp [zeroV]⟩
  | o n =>
    have := n.isLt
    have e : fld (4 + f) 2 2 = 1 := by simp only [fld, Nat.reduceAdd, Nat.reduceSub, Nat.reducePow]; omega
    have e2 : fld n.val 3 3 = 0 := by simp only [fld, Nat.reduceAdd, Nat.reduceSub, Nat.reducePow]; omega
    have e3 : fld n.val 2 0 = n.val := by simp only [fld, Nat.reduceAdd, Nat.reduceSub, Nat.reducePow]; omega
    simp only [decVb, bOk, VSrc.code, VSrc.flag, e, e2, e3]
    exact ⟨by simp [finOfNat_self, zeroV, dec_bind, dec_pure], by simp [zeroV]⟩
theorem decVUn_enc (x : VUnOps) {p : Ty → Bool} (hp : p x.ty = true) (op f X pos : Nat) (hf : f < 4) :
    decVUn ⟨op, x.vd.val, x.va.val, 0, x.ty.code, x.mask.val, f, X, pos⟩ p = .ok x := by
  obtain ⟨ty, vd, va, mask⟩ := x
  have e : fld f 2 2 = 0 := by simp only [fld, Nat.reduceAdd, Nat.reduceSub, Nat.reducePow]; omega
  simp only [decVUn, bOk, decTy, e, Ty.ofCode_code, okOr, need_ok hp, dec_bind, dec_pure, finOfNat_self]
  simp [zeroV, dec_bind, finOfNat_self]
theorem flag_fld (b : VSrc) (f : Nat) (hf : f < 4) : fld (b.flag + f) 1 0 = f ∧ fld (b.flag + f) 0 0 = f % 2 ∧ fld (b.flag + f) 1 1 = f / 2
    ∧ b.flag + f < 8 := by
  cases b <;> refine ⟨?_, ?_, ?_, ?_⟩ <;> simp only [VSrc.flag, fld, Nat.reduceAdd, Nat.reduceSub, Nat.reducePow] <;> omega
theorem vops_fits (x : VOps) {op f X : Nat} (ho : op < 64) (hf : f < 4) (hX : X < 2 ^ 32) : VFits (encVOps op f x) X :=
  ⟨ho, x.vd.isLt, x.va.isLt, VSrc.code_lt _, Nat.lt_trans (Ty.code_lt _) (by decide), x.mask.isLt, (flag_fld x.vb f hf).2.2.2, hX⟩
theorem vun_fits (x : VUnOps) {op f X : Nat} (ho : op < 64) (hf : f < 4) (hX : X < 2 ^ 32) : VFits (encVUn op f x) X :=
  ⟨ho, x.vd.isLt, x.va.isLt, Nat.zero_lt_succ _, Nat.lt_trans (Ty.code_lt _) (by decide), x.mask.isLt, Nat.lt_trans hf (by decide), hX⟩
theorem isFloat_of {t : Ty} (h : t.isIF = true) (hi : t.isInt = false) : t.isFloat = true := by cases t <;> first | rfl | (revert h hi; decide)

theorem decAmt_src (b : VSrc) (op vd va ty mask pos : Nat) (t : Ty) :
    decAmt ⟨op, vd, va, b.code, ty, mask, b.flag + 0, 0, pos⟩ t = .ok (.src b) := by
  obtain ⟨a1, -⟩ := decVb_enc b op vd va ty mask 0 0 pos (by decide)
  obtain ⟨-, f1, f2, -⟩ := flag_fld b 0 (by decide)
  have f1 : fld (b.flag + 0) 0 0 = 0 := f1
  have f2 : fld (b.flag + 0) 1 1 = 0 := f2
  simp only [decAmt, f1, f2, if_neg (by decide : ¬ (0 : Nat) = 1), a1, dec_bind, zeroV_cons, zeroV_nil, dec_pure]
theorem decAmt_src' (b : VSrc) (op vd va ty mask pos : Nat) (t : Ty) :
    decAmt ⟨op, vd, va, b.code, ty, mask, b.flag, 0, pos⟩ t = .ok (.src b) := decAmt_src b op vd va ty mask pos t
theorem vadd (sat : Bool) (x : VOps) : Statement (.vadd sat x) := by
  refine ⟨fun hw => absurd hw Bool.false_ne_true, fun hw => ?_, fun hw => absurd hw Bool.false_ne_true⟩
  have hw : (x.ty.isIF && (!sat || x.ty.isInt)) = true := hw
  rw [Bool.and_eq_true] at hw
  obtain ⟨h1, h2⟩ := hw
  have hs : sat.toNat < 4 := by cases sat <;> decide
  refine ⟨vops_fits x (by decide) hs (by show 0 < 2 ^ 32; decide), fun pos => ?_⟩
  show decodeV ⟨0x01, x.vd.val, x.va.val, x.vb.code, x.ty.code, x.mask.val, x.vb.flag + sat.toNat, 0, pos⟩ = _
  unfold decodeV
  dsimp only
  obtain ⟨-, f1, f2, -⟩ := flag_fld x.vb sat.toNat hs
  have e1 : sat.toNat / 2 = 0 := by cases sat <;> rfl
  have e2 : (if x.ty.isInt = true then 0 else sat.toNat % 2) = 0 := by
    cases hi : x.ty.isInt with
    | true => rfl
    | false => rw [hi] at h2; have : sat = false := by simpa using h2
               subst this; rfl
  have e3 : (sat.toNat % 2 == 1) = sat := by cases sat <;> rfl
  rw [decVOps_enc x h1 _ _ _ _ hs, dec_bind, f1, f2, e1, e3]
  simp [zeroV_cons, zeroV_nil, dec_bind, dec_pure, e2]

theorem vsub (sat : Bool) (x : VOps) : Statement (.vsub sat x) := by
  refine ⟨fun hw => absurd hw Bool.false_ne_true, fun hw => ?_, fun hw => absurd hw Bool.false_ne_true⟩
  have hw : (x.ty.isIF && (!sat || x.ty.isInt)) = true := hw
  rw [Bool.and_eq_true] at hw
  obtain ⟨h1, h2⟩ := hw
  have hs : sat.toNat < 4 := by cases sat <;> decide
  refine ⟨vops_fits x (by decide) hs (by show 0 < 2 ^ 32; decide), fun pos => ?_⟩
  show decodeV ⟨0x02, x.vd.val, x.va.val, x.vb.code, x.ty.code, x.mask.val, x.vb.flag + sat.toNat, 0, pos⟩ = _
  unfold decodeV
  dsimp only
  obtain ⟨-, f1, f2, -⟩ := flag_fld x.vb sat.toNat hs
  have e1 : sat.toNat / 2 = 0 := by cases sat <;> rfl
  have e2 : (if x.ty.isInt = true then 0 else sat.toNat % 2) = 0 := by
    cases hi : x.ty.isInt with
    | true => rfl
    | false => rw [hi] at h2; have : sat = false := by simpa using h2
               subst this; rfl
  have e3 : (sat.toNat % 2 == 1) = sat := by cases sat <;> rfl
  rw [decVOps_enc x h1 _ _ _ _ hs, dec_bind, f1, f2, e1, e3]
  simp [zeroV_cons, zeroV_nil, dec_bind, dec_pure, e2]

theorem vmul (x : VOps) : Statement (.vmul x) := by
  refine ⟨fun hw => absurd hw Bool.false_ne_true, fun hw => ?_, fun hw => absurd hw Bool.false_ne_true⟩
  have hw : x.ty.isIF = true := hw
  refine ⟨vops_fits x (by decide) (by decide) (by show 0 < 2 ^ 32; decide), fun pos => ?_⟩
  show decodeV ⟨0x03, x.vd.val, x.va.val, x.vb.code, x.ty.code, x.mask.val, x.vb.flag + 0, 0, pos⟩ = _
  unfold decodeV
  dsimp only
  rw [decVOps_enc x hw _ _ _ _ (by decide), dec_bind, (flag_fld x.vb 0 (by decide)).2.1, (flag_fld x.vb 0 (by decide)).2.2.1]
  simp [zeroV_cons, zeroV_nil, dec_bind, dec_pure]

theorem vfma (x : VOps) : Statement (.vfma x) := by
  refine ⟨fun hw => absurd hw Bool.false_ne_true, fun hw => ?_, fun hw => absurd hw Bool.false_ne_true⟩
  have hw : x.ty.isIF = true := hw
  refine ⟨vops_fits x (by decide) (by decide) (by show 0 < 2 ^ 32; decide), fun pos => ?_⟩
  show decodeV ⟨0x04, x.vd.val, x.va.val, x.vb.code, x.ty.code, x.mask.val, x.vb.flag + 0, 0, pos⟩ = _
  unfold decodeV
  dsimp only
  rw [decVOps_enc x hw _ _ _ _ (by decide), dec_bind, (flag_fld x.vb 0 (by decide)).2.1, (flag_fld x.vb 0 (by decide)).2.2.1]
  simp [zeroV_cons, zeroV_nil, dec_bind, dec_pure]

theorem vmad (x : VOps) : Statement (.vmad x) := by
  refine ⟨fun hw => absurd hw Bool.false_ne_true, fun hw => ?_, fun hw => absurd hw Bool.false_ne_true⟩
  have hw : x.ty.isIF = true := hw
  refine ⟨vops_fits x (by decide) (by decide) (by show 0 < 2 ^ 32; decide), fun pos => ?_⟩
  show decodeV ⟨0x05, x.vd.val, x.va.val, x.vb.code, x.ty.code, x.mask.val, x.vb.flag + 0, 0, pos⟩ = _
  unfold decodeV
  dsimp only
  rw [decVOps_enc x hw _ _ _ _ (by decide), dec_bind, (flag_fld x.vb 0 (by decide)).2.1, (flag_fld x.vb 0 (by decide)).2.2.1]
  simp [zeroV_cons, zeroV_nil, dec_bind, dec_pure]

theorem vmin (x : VOps) : Statement (.vmin x) := by
  refine ⟨fun hw => absurd hw Bool.false_ne_true, fun hw => ?_, fun hw => absurd hw Bool.false_ne_true⟩
  have hw : x.ty.isIF = true := hw
  refine ⟨vops_fits x (by decide) (by decide) (by show 0 < 2 ^ 32; decide), fun pos => ?_⟩
  show decodeV ⟨0x06, x.vd.val, x.va.val, x.vb.code, x.ty.code, x.mask.val, x.vb.flag + 0, 0, pos⟩ = _
  unfold decodeV
  dsimp only
  rw [decVOps_enc x hw _ _ _ _ (by decide), dec_bind, (flag_fld x.vb 0 (by decide)).2.1, (flag_fld x.vb 0 (by decide)).2.2.1]
  simp [zeroV_cons, zeroV_nil, dec_bind, dec_pure]

theorem vmax (x : VOps) : Statement (.vmax x) := by
  refine ⟨fun hw => absurd hw Bool.false_ne_true, fun hw => ?_, fun hw => absurd hw Bool.false_ne_true⟩
  have hw : x.ty.isIF = true := hw
  refine ⟨vops_fits x (by decide) (by decide) (by show 0 < 2 ^ 32; decide), fun pos => ?_⟩
  show decodeV ⟨0x07, x.vd.val, x.va.val, x.vb.code, x.ty.code, x.mask.val, x.vb.flag + 0, 0, pos⟩ = _
  unfold decodeV
  dsimp only
  rw [decVOps_enc x hw _ _ _ _ (by decide), dec_bind, (flag_fld x.vb 0 (by decide)).2.1, (flag_fld x.vb 0 (by decide)).2.2.1]
  simp [zeroV_cons, zeroV_nil, dec_bind, dec_pure]

theorem vabs (sat : Bool) (x : VUnOps) : Statement (.vabs sat x) := by
  refine ⟨fun hw => absurd hw Bool.false_ne_true, fun hw => ?_, fun hw => absurd hw Bool.false_ne_true⟩
  have hw : (x.ty.isIF && (!sat || x.ty.isInt)) = true := hw
  rw [Bool.and_eq_true] at hw
  obtain ⟨h1, h2⟩ := hw
  have hs : sat.toNat < 4 := by cases sat <;> decide
  refine ⟨vun_fits x (by decide) hs (by show 0 < 2 ^ 32; decide), fun pos => ?_⟩
  show decodeV ⟨0x08, x.vd.val, x.va.val, 0, x.ty.code, x.mask.val, sat.toNat, 0, pos⟩ = _
  unfold decodeV
  dsimp only
  have e1 : fld sat.toNat 1 1 = 0 := by cases sat <;> rfl
  have e3 : fld sat.toNat 2 2 = 0 := by cases sat <;> rfl
  have e0 : fld sat.toNat 0 0 = sat.toNat := by cases sat <;> rfl
  have e2 : (if x.ty.isInt = true then 0 else sat.toNat) = 0 := by
    cases hi : x.ty.isInt with
    | true => rfl
    | false => rw [hi] at h2; have : sat = false := by simpa using h2
               subst this; rfl
  rw [decVUn_enc x h1 _ _ _ _ hs, dec_bind, e0, e1, e3, boolNat]
  simp [zeroV_cons, zeroV_nil, dec_bind, dec_pure, e2]

theorem vneg (sat : Bool) (x : VUnOps) : Statement (.vneg sat x) := by
  refine ⟨fun hw => absurd hw Bool.false_ne_true, fun hw => ?_, fun hw => absurd hw Bool.false_ne_true⟩
  have hw : (x.ty.isIF && (!sat || x.ty.isInt)) = true := hw
  rw [Bool.and_eq_true] at hw
  obtain ⟨h1, h2⟩ := hw
  have hs : sat.toNat < 4 := by cases sat <;> decide
  refine ⟨vun_fits x (by decide) hs (by show 0 < 2 ^ 32; decide), fun pos => ?_⟩
  show decodeV ⟨0x09, x.vd.val, x.va.val, 0, x.ty.code, x.mask.val, sat.toNat, 0, pos⟩ = _
  unfold decodeV
  dsimp only
  have e1 : fld sat.toNat 1 1 = 0 := by cases sat <;> rfl
  have e3 : fld sat.toNat 2 2 = 0 := by cases sat <;> rfl
  have e0 : fld sat.toNat 0 0 = sat.toNat := by cases sat <;> rfl
  have e2 : (if x.ty.isInt = true then 0 else sat.toNat) = 0 := by
    cases hi : x.ty.isInt with
    | true => rfl
    | false => rw [hi] at h2; have : sat = false := by simpa using h2
               subst this; rfl
  rw [decVUn_enc x h1 _ _ _ _ hs, dec_bind, e0, e1, e3, boolNat]
  simp [zeroV_cons, zeroV_nil, dec_bind, dec_pure, e2]

theorem vqmul (x : VOps) : Statement (.vqmul x) := by
  refine ⟨fun hw => absurd hw Bool.false_ne_true, fun hw => ?_, fun hw => absurd hw Bool.false_ne_true⟩
  have hw : (x.ty == .i8 || x.ty == .i16 || x.ty == .i32) = true := hw
  refine ⟨vops_fits x (by decide) (by decide) (by show 0 < 2 ^ 32; decide), fun pos => ?_⟩
  show decodeV ⟨0x14, x.vd.val, x.va.val, x.vb.code, x.ty.code, x.mask.val, x.vb.flag + 0, 0, pos⟩ = _
  unfold decodeV
  dsimp only
  rw [decVOps_enc x (p := fun t => t == .i8 || t == .i16 || t == .i32) hw _ _ _ _ (by decide), dec_bind, (flag_fld x.vb 0 (by decide)).1]
  simp [zeroV_cons, zeroV_nil, dec_bind, dec_pure]

theorem vdot (su : Bool) (x : VOps) : Statement (.vdot su x) := by
  refine ⟨fun hw => absurd hw Bool.false_ne_true, fun hw => ?_, fun hw => absurd hw Bool.false_ne_true⟩
  have hw : (x.ty == .i8 || (!su && (x.ty == .n8 || x.ty == .i16 || x.ty == .f16 || x.ty == .bf16))) = true := hw
  have hs : su.toNat < 4 := by cases su <;> decide
  refine ⟨vops_fits x (by decide) hs (by show 0 < 2 ^ 32; decide), fun pos => ?_⟩
  show decodeV ⟨0x13, x.vd.val, x.va.val, x.vb.code, x.ty.code, x.mask.val, x.vb.flag + su.toNat, 0, pos⟩ = _
  unfold decodeV
  dsimp only
  obtain ⟨-, f1, f2, -⟩ := flag_fld x.vb su.toNat hs
  have e1 : su.toNat / 2 = 0 := by cases su <;> rfl
  have e3 : (su.toNat % 2 == 1) = su := by cases su <;> rfl
  rw [f1, f2, e1, e3, decVOps_enc x (p := fun t => t == .i8 || (!su && (t == .n8 || t == .i16 || t == .f16 || t == .bf16))) hw _ _ _ _ hs, dec_bind]
  simp [zeroV_cons, zeroV_nil, dec_bind, dec_pure]

theorem vpopc (x : VUnOps) : Statement (.vpopc x) := by
  refine ⟨fun hw => absurd hw Bool.false_ne_true, fun hw => ?_, fun hw => absurd hw Bool.false_ne_true⟩
  have hw : x.ty.isInt = true := hw
  refine ⟨vun_fits x (by decide) (by decide) (by show 0 < 2 ^ 32; decide), fun pos => ?_⟩
  show decodeV ⟨0x19, x.vd.val, x.va.val, 0, x.ty.code, x.mask.val, 0, 0, pos⟩ = _
  unfold decodeV
  dsimp only
  rw [decVUn_enc x hw _ _ _ _ (by decide), dec_bind]
  simp [zeroV_cons, zeroV_nil, dec_bind, dec_pure]

theorem vreduce (op : RedKind) (x : VUnOps) : Statement (.vreduce op x) := by
  refine ⟨fun hw => absurd hw Bool.false_ne_true, fun hw => ?_, fun hw => absurd hw Bool.false_ne_true⟩
  have hw : x.ty.isIF = true := hw
  have v := RedKind.code_lt op
  refine ⟨vun_fits x (by decide) (by decide) (by show op.code < 2 ^ 32; omega), fun pos => ?_⟩
  show decodeV ⟨0x15, x.vd.val, x.va.val, 0, x.ty.code, x.mask.val, 0, op.code, pos⟩ = _
  unfold decodeV
  dsimp only
  have e0 : fld op.code 31 2 = 0 := by simp only [fld, Nat.reduceAdd, Nat.reduceSub, Nat.reducePow]; omega
  have e1 : fld op.code 1 0 = op.code := by simp only [fld, Nat.reduceAdd, Nat.reduceSub, Nat.reducePow]; omega
  rw [decVUn_enc x hw _ _ _ _ (by decide), dec_bind, e0, e1, RedKind.ofCode_code]
  simp [zeroV_cons, zeroV_nil, dec_bind, dec_pure, okOr]

theorem vscan (op : RedKind) (ex : Bool) (hm : Fin 8) (x : VUnOps) : Statement (.vscan op ex hm x) := by
  refine ⟨fun hw => absurd hw Bool.false_ne_true, fun hw => ?_, fun hw => absurd hw Bool.false_ne_true⟩
  have hw : x.ty.isIF = true := hw
  have v := RedKind.code_lt op
  have v1 := Bool.toNat_lt ex
  have v2 := hm.isLt
  obtain ⟨y, hy⟩ : ∃ y, y = op.code + 4 * ex.toNat + 8 * hm.val := ⟨_, rfl⟩
  have hX : (Instr.vscan op ex hm x).vExt = y := by rw [hy]; rfl
  rw [hX]
  refine ⟨vun_fits x (by decide) (by decide) (by omega), fun pos => ?_⟩
  show decodeV ⟨0x16, x.vd.val, x.va.val, 0, x.ty.code, x.mask.val, 0, y, pos⟩ = _
  unfold decodeV
  dsimp only
  have e0 : fld y 31 6 = 0 := by rw [hy]; simp only [fld, Nat.reduceAdd, Nat.reduceSub, Nat.reducePow]; omega
  have e1 : fld y 1 0 = op.code := by rw [hy]; simp only [fld, Nat.reduceAdd, Nat.reduceSub, Nat.reducePow]; omega
  have e2 : fld y 2 2 = ex.toNat := by rw [hy]; simp only [fld, Nat.reduceAdd, Nat.reduceSub, Nat.reducePow]; omega
  have e3 : fld y 5 3 = hm.val := by rw [hy]; simp only [fld, Nat.reduceAdd, Nat.reduceSub, Nat.reducePow]; omega
  rw [decVUn_enc x hw _ _ _ _ (by decide), dec_bind, e0, e1, e2, e3, RedKind.ofCode_code, boolNat]
  simp [zeroV_cons, zeroV_nil, dec_bind, dec_pure, okOr, finOfNat_self]

theorem vnop  : Statement (.vnop) := by
  refine ⟨fun hw => absurd hw Bool.false_ne_true, fun hw => ?_, fun hw => absurd hw Bool.false_ne_true⟩
  refine ⟨?_, fun pos => ?_⟩
  · show VFits ⟨0x00, 0, 0, 0, 0, 0, 0, 0, 0⟩ (0)
    refine ⟨?_, ?_, ?_, ?_, ?_, ?_, ?_, ?_⟩ <;> (try dsimp only) <;> omega
  · show decodeV ⟨0x00, 0, 0, 0, 0, 0, 0, 0, pos⟩ = _
    unfold decodeV
    dsimp only
    simp [bOk, noTy, decTy, dec_bind, dec_pure, zeroV_cons, zeroV_nil, BitVec.ofNat_toNat, BitVec.setWidth_eq, finOfNat_self, boolNat, Rm.ofCode_code, Cond.ofCode_code, Ty.ofCode_code, okOr, fld_zero, need_ok]

theorem vltab (vd : Fin 16) (va : Fin 16) (vb : Fin 16) (mask : Fin 8) (tbl : BitVec 8) : Statement (.vltab vd va vb mask tbl) := by
  refine ⟨fun hw => absurd hw Bool.false_ne_true, fun hw => ?_, fun hw => absurd hw Bool.false_ne_true⟩
  have v_vd := vd.isLt
  have v_va := va.isLt
  have v_vb := vb.isLt
  have v_mask := mask.isLt
  have v_tbl := tbl.isLt
  refine ⟨?_, fun pos => ?_⟩
  · show VFits ⟨0x0A, vd.val, va.val, vb.val, 0, mask.val, 0, 0, 0⟩ (tbl.toNat)
    refine ⟨?_, ?_, ?_, ?_, ?_, ?_, ?_, ?_⟩ <;> (try dsimp only) <;> omega
  · show decodeV ⟨0x0A, vd.val, va.val, vb.val, 0, mask.val, 0, tbl.toNat, pos⟩ = _
    unfold decodeV
    dsimp only
    have e0 : fld (tbl.toNat) 31 8 = 0 := by simp only [fld, Nat.reduceAdd, Nat.reduceSub, Nat.reducePow]; omega
    have e1 : fld (tbl.toNat) 7 0 = tbl.toNat := by simp only [fld, Nat.reduceAdd, Nat.reduceSub, Nat.reducePow]; omega
    simp [bOk, noTy, decTy, dec_bind, dec_pure, zeroV_cons, zeroV_nil, BitVec.ofNat_toNat, BitVec.setWidth_eq, finOfNat_self, boolNat, Rm.ofCode_code, Cond.ofCode_code, Ty.ofCode_code, okOr, fld_zero, need_ok, e0, e1]

theorem vfsh (ty : Ty) (vd : Fin 16) (va : Fin 16) (vb : Fin 16) (mask : Fin 8) (sh : BitVec 6) : Statement (.vfsh ty vd va vb mask sh) := by
  refine ⟨fun hw => absurd hw Bool.false_ne_true, fun hw => ?_, fun hw => absurd hw Bool.false_ne_true⟩
  have hw : (ty.isInt && decide (sh.toNat < ty.width)) = true := hw
  simp only [Bool.and_eq_true] at hw
  obtain ⟨h1, h2⟩ := hw
  have v_ty := Ty.code_lt ty
  have v_vd := vd.isLt
  have v_va := va.isLt
  have v_vb := vb.isLt
  have v_mask := mask.isLt
  have v_sh := sh.isLt
  refine ⟨?_, fun pos => ?_⟩
  · show VFits ⟨0x0E, vd.val, va.val, vb.val, ty.code, mask.val, 0, 0, 0⟩ (sh.toNat)
    refine ⟨?_, ?_, ?_, ?_, ?_, ?_, ?_, ?_⟩ <;> (try dsimp only) <;> omega
  · show decodeV ⟨0x0E, vd.val, va.val, vb.val, ty.code, mask.val, 0, sh.toNat, pos⟩ = _
    unfold decodeV
    dsimp only
    have e0 : fld (sh.toNat) 31 6 = 0 := by simp only [fld, Nat.reduceAdd, Nat.reduceSub, Nat.reducePow]; omega
    have e1 : fld (sh.toNat) 5 0 = sh.toNat := by simp only [fld, Nat.reduceAdd, Nat.reduceSub, Nat.reducePow]; omega
    simp [bOk, noTy, decTy, dec_bind, dec_pure, zeroV_cons, zeroV_nil, BitVec.ofNat_toNat, BitVec.setWidth_eq, finOfNat_self, boolNat, Rm.ofCode_code, Cond.ofCode_code, Ty.ofCode_code, okOr, fld_zero, need_ok, e0, e1, h1, of_decide_eq_true h2]

theorem vsel (vd : Fin 16) (va : Fin 16) (vb : Fin 16) (mask : Fin 8) : Statement (.vsel vd va vb mask) := by
  refine ⟨fun hw => absurd hw Bool.false_ne_true, fun hw => ?_, fun hw => absurd hw Bool.false_ne_true⟩
  have v_vd := vd.isLt
  have v_va := va.isLt
  have v_vb := vb.isLt
  have v_mask := mask.isLt
  refine ⟨?_, fun pos => ?_⟩
  · show VFits ⟨0x10, vd.val, va.val, vb.val, 0, mask.val, 0, 0, 0⟩ (0)
    refine ⟨?_, ?_, ?_, ?_, ?_, ?_, ?_, ?_⟩ <;> (try dsimp only) <;> omega
  · show decodeV ⟨0x10, vd.val, va.val, vb.val, 0, mask.val, 0, 0, pos⟩ = _
    unfold decodeV
    dsimp only
    simp [bOk, noTy, decTy, dec_bind, dec_pure, zeroV_cons, zeroV_nil, BitVec.ofNat_toNat, BitVec.setWidth_eq, finOfNat_self, boolNat, Rm.ofCode_code, Cond.ofCode_code, Ty.ofCode_code, okOr, fld_zero, need_ok]

theorem vperm (ty : Ty) (vd : Fin 16) (va : Fin 16) (vb : Fin 16) (mask : Fin 8) : Statement (.vperm ty vd va vb mask) := by
  refine ⟨fun hw => absurd hw Bool.false_ne_true, fun hw => ?_, fun hw => absurd hw Bool.false_ne_true⟩
  have hw : (ty.isInt) = true := hw
  have v_ty := Ty.code_lt ty
  have v_vd := vd.isLt
  have v_va := va.isLt
  have v_vb := vb.isLt
  have v_mask := mask.isLt
  refine ⟨?_, fun pos => ?_⟩
  · show VFits ⟨0x17, vd.val, va.val, vb.val, ty.code, mask.val, 0, 0, 0⟩ (0)
    refine ⟨?_, ?_, ?_, ?_, ?_, ?_, ?_, ?_⟩ <;> (try dsimp only) <;> omega
  · show decodeV ⟨0x17, vd.val, va.val, vb.val, ty.code, mask.val, 0, 0, pos⟩ = _
    unfold decodeV
    dsimp only
    simp [bOk, noTy, decTy, dec_bind, dec_pure, zeroV_cons, zeroV_nil, BitVec.ofNat_toNat, BitVec.setWidth_eq, finOfNat_self, boolNat, Rm.ofCode_code, Cond.ofCode_code, Ty.ofCode_code, okOr, fld_zero, need_ok, hw]

theorem vrcp (vd : Fin 16) (va : Fin 16) (mask : Fin 8) : Statement (.vrcp vd va mask) := by
  refine ⟨fun hw => absurd hw Bool.false_ne_true, fun hw => ?_, fun hw => absurd hw Bool.false_ne_true⟩
  refine ⟨⟨by show 0x1A < 64; decide, vd.isLt, va.isLt, by show 0 < 16; decide, by show 10 < 16; decide, mask.isLt, by show 0 < 8; decide,
    by show 0 < 2 ^ 32; decide⟩, fun pos => ?_⟩
  show decodeV ⟨0x1A, vd.val, va.val, 0, 10, mask.val, 0, 0, pos⟩ = _
  unfold decodeV
  dsimp only
  have hd : decVUn ⟨0x1A, vd.val, va.val, 0, 10, mask.val, 0, 0, pos⟩ (· == .f32) = .ok ⟨.f32, vd, va, mask⟩ :=
    decVUn_enc ⟨.f32, vd, va, mask⟩ (by rfl) _ _ _ _ (by decide)
  rw [hd, dec_bind]
  simp [zeroV_cons, zeroV_nil, dec_bind, dec_pure]

theorem vrsq (vd : Fin 16) (va : Fin 16) (mask : Fin 8) : Statement (.vrsq vd va mask) := by
  refine ⟨fun hw => absurd hw Bool.false_ne_true, fun hw => ?_, fun hw => absurd hw Bool.false_ne_true⟩
  refine ⟨⟨by show 0x1B < 64; decide, vd.isLt, va.isLt, by show 0 < 16; decide, by show 10 < 16; decide, mask.isLt, by show 0 < 8; decide,
    by show 0 < 2 ^ 32; decide⟩, fun pos => ?_⟩
  show decodeV ⟨0x1B, vd.val, va.val, 0, 10, mask.val, 0, 0, pos⟩ = _
  unfold decodeV
  dsimp only
  have hd : decVUn ⟨0x1B, vd.val, va.val, 0, 10, mask.val, 0, 0, pos⟩ (· == .f32) = .ok ⟨.f32, vd, va, mask⟩ :=
    decVUn_enc ⟨.f32, vd, va, mask⟩ (by rfl) _ _ _ _ (by decide)
  rw [hd, dec_bind]
  simp [zeroV_cons, zeroV_nil, dec_bind, dec_pure]

theorem vexp2 (vd : Fin 16) (va : Fin 16) (mask : Fin 8) : Statement (.vexp2 vd va mask) := by
  refine ⟨fun hw => absurd hw Bool.false_ne_true, fun hw => ?_, fun hw => absurd hw Bool.false_ne_true⟩
  refine ⟨⟨by show 0x1C < 64; decide, vd.isLt, va.isLt, by show 0 < 16; decide, by show 10 < 16; decide, mask.isLt, by show 0 < 8; decide,
    by show 0 < 2 ^ 32; decide⟩, fun pos => ?_⟩
  show decodeV ⟨0x1C, vd.val, va.val, 0, 10, mask.val, 0, 0, pos⟩ = _
  unfold decodeV
  dsimp only
  have hd : decVUn ⟨0x1C, vd.val, va.val, 0, 10, mask.val, 0, 0, pos⟩ (· == .f32) = .ok ⟨.f32, vd, va, mask⟩ :=
    decVUn_enc ⟨.f32, vd, va, mask⟩ (by rfl) _ _ _ _ (by decide)
  rw [hd, dec_bind]
  simp [zeroV_cons, zeroV_nil, dec_bind, dec_pure]

theorem vshl (ty : Ty) (vd : Fin 16) (va : Fin 16) (amt : VAmt) (mask : Fin 8) : Statement (.vshl ty vd va amt mask) := by
  refine ⟨fun hw => absurd hw Bool.false_ne_true, fun hw => ?_, fun hw => absurd hw Bool.false_ne_true⟩
  have hw : (ty.isInt && amt.wf ty) = true := hw
  rw [Bool.and_eq_true] at hw
  obtain ⟨h1, h2⟩ := hw
  have v1 := Ty.code_lt ty
  cases amt with
  | imm s =>
    have h2 : decide (s.toNat < ty.width) = true := h2
    have v2 := s.isLt
    refine ⟨?_, fun pos => ?_⟩
    · show VFits ⟨0x0B, vd.val, va.val, 0, ty.code, mask.val, 1, 0, 0⟩ s.toNat
      exact ⟨by show 0x0B < 64; decide, vd.isLt, va.isLt, by show 0 < 16; decide, by show ty.code < 16; omega, mask.isLt, by show 1 < 8; decide, by omega⟩
    · show decodeV ⟨0x0B, vd.val, va.val, 0, ty.code, mask.val, 1, s.toNat, pos⟩ = _
      unfold decodeV
      dsimp only
      have e0 : fld s.toNat 31 6 = 0 := by simp only [fld, Nat.reduceAdd, Nat.reduceSub, Nat.reducePow]; omega
      have e1 : fld s.toNat 5 0 = s.toNat := by simp only [fld, Nat.reduceAdd, Nat.reduceSub, Nat.reducePow]; omega
      have e2 : fld 1 2 2 = 0 := by decide
      have e3 : fld 1 0 0 = 1 := by decide
      have e4 : fld 1 1 1 = 0 := by decide
      simp [bOk, decTy, decAmt, e0, e1, e2, e3, e4, of_decide_eq_true h2, h1, dec_bind, dec_pure, zeroV_cons, zeroV_nil, finOfNat_self,
        Ty.ofCode_code, okOr, need_ok]
  | src b =>
    refine ⟨?_, fun pos => ?_⟩
    · show VFits ⟨0x0B, vd.val, va.val, b.code, ty.code, mask.val, b.flag, 0, 0⟩ 0
      exact ⟨by show 0x0B < 64; decide, vd.isLt, va.isLt, VSrc.code_lt b, by show ty.code < 16; omega, mask.isLt, (flag_fld b 0 (by decide)).2.2.2,
        by show 0 < 2 ^ 32; decide⟩
    · show decodeV ⟨0x0B, vd.val, va.val, b.code, ty.code, mask.val, b.flag + 0, 0, pos⟩ = _
      unfold decodeV
      dsimp only
      obtain ⟨-, a2⟩ := decVb_enc b 0x0B vd.val va.val ty.code mask.val 0 0 pos (by decide)
      rw [a2, dec_bind]
      simp [decTy, decAmt_src', h1, dec_bind, dec_pure, Ty.ofCode_code, okOr, need_ok]

theorem vshr (ty : Ty) (vd : Fin 16) (va : Fin 16) (amt : VAmt) (mask : Fin 8) : Statement (.vshr ty vd va amt mask) := by
  refine ⟨fun hw => absurd hw Bool.false_ne_true, fun hw => ?_, fun hw => absurd hw Bool.false_ne_true⟩
  have hw : (ty.isInt && amt.wf ty) = true := hw
  rw [Bool.and_eq_true] at hw
  obtain ⟨h1, h2⟩ := hw
  have v1 := Ty.code_lt ty
  cases amt with
  | imm s =>
    have h2 : decide (s.toNat < ty.width) = true := h2
    have v2 := s.isLt
    refine ⟨?_, fun pos => ?_⟩
    · show VFits ⟨0x0C, vd.val, va.val, 0, ty.code, mask.val, 1, 0, 0⟩ s.toNat
      exact ⟨by show 0x0C < 64; decide, vd.isLt, va.isLt, by show 0 < 16; decide, by show ty.code < 16; omega, mask.isLt, by show 1 < 8; decide, by omega⟩
    · show decodeV ⟨0x0C, vd.val, va.val, 0, ty.code, mask.val, 1, s.toNat, pos⟩ = _
      unfold decodeV
      dsimp only
      have e0 : fld s.toNat 31 6 = 0 := by simp only [fld, Nat.reduceAdd, Nat.reduceSub, Nat.reducePow]; omega
      have e1 : fld s.toNat 5 0 = s.toNat := by simp only [fld, Nat.reduceAdd, Nat.reduceSub, Nat.reducePow]; omega
      have e2 : fld 1 2 2 = 0 := by decide
      have e3 : fld 1 0 0 = 1 := by decide
      have e4 : fld 1 1 1 = 0 := by decide
      simp [bOk, decTy, decAmt, e0, e1, e2, e3, e4, of_decide_eq_true h2, h1, dec_bind, dec_pure, zeroV_cons, zeroV_nil, finOfNat_self,
        Ty.ofCode_code, okOr, need_ok]
  | src b =>
    refine ⟨?_, fun pos => ?_⟩
    · show VFits ⟨0x0C, vd.val, va.val, b.code, ty.code, mask.val, b.flag, 0, 0⟩ 0
      exact ⟨by show 0x0C < 64; decide, vd.isLt, va.isLt, VSrc.code_lt b, by show ty.code < 16; omega, mask.isLt, (flag_fld b 0 (by decide)).2.2.2,
        by show 0 < 2 ^ 32; decide⟩
    · show decodeV ⟨0x0C, vd.val, va.val, b.code, ty.code, mask.val, b.flag + 0, 0, pos⟩ = _
      unfold decodeV
      dsimp only
      obtain ⟨-, a2⟩ := decVb_enc b 0x0C vd.val va.val ty.code mask.val 0 0 pos (by decide)
      rw [a2, dec_bind]
      simp [decTy, decAmt_src', h1, dec_bind, dec_pure, Ty.ofCode_code, okOr, need_ok]

theorem vsra (ty : Ty) (vd : Fin 16) (va : Fin 16) (amt : VAmt) (mask : Fin 8) : Statement (.vsra ty vd va amt mask) := by
  refine ⟨fun hw => absurd hw Bool.false_ne_true, fun hw => ?_, fun hw => absurd hw Bool.false_ne_true⟩
  have hw : (ty.isInt && amt.wf ty) = true := hw
  rw [Bool.and_eq_true] at hw
  obtain ⟨h1, h2⟩ := hw
  have v1 := Ty.code_lt ty
  cases amt with
  | imm s =>
    have h2 : decide (s.toNat < ty.width) = true := h2
    have v2 := s.isLt
    refine ⟨?_, fun pos => ?_⟩
    · show VFits ⟨0x0D, vd.val, va.val, 0, ty.code, mask.val, 1, 0, 0⟩ s.toNat
      exact ⟨by show 0x0D < 64; decide, vd.isLt, va.isLt, by show 0 < 16; decide, by show ty.code < 16; omega, mask.isLt, by show 1 < 8; decide, by omega⟩
    · show decodeV ⟨0x0D, vd.val, va.val, 0, ty.code, mask.val, 1, s.toNat, pos⟩ = _
      unfold decodeV
      dsimp only
      have e0 : fld s.toNat 31 6 = 0 := by simp only [fld, Nat.reduceAdd, Nat.reduceSub, Nat.reducePow]; omega
      have e1 : fld s.toNat 5 0 = s.toNat := by simp only [fld, Nat.reduceAdd, Nat.reduceSub, Nat.reducePow]; omega
      have e2 : fld 1 2 2 = 0 := by decide
      have e3 : fld 1 0 0 = 1 := by decide
      have e4 : fld 1 1 1 = 0 := by decide
      simp [bOk, decTy, decAmt, e0, e1, e2, e3, e4, of_decide_eq_true h2, h1, dec_bind, dec_pure, zeroV_cons, zeroV_nil, finOfNat_self,
        Ty.ofCode_code, okOr, need_ok]
  | src b =>
    refine ⟨?_, fun pos => ?_⟩
    · show VFits ⟨0x0D, vd.val, va.val, b.code, ty.code, mask.val, b.flag, 0, 0⟩ 0
      exact ⟨by show 0x0D < 64; decide, vd.isLt, va.isLt, VSrc.code_lt b, by show ty.code < 16; omega, mask.isLt, (flag_fld b 0 (by decide)).2.2.2,
        by show 0 < 2 ^ 32; decide⟩
    · show decodeV ⟨0x0D, vd.val, va.val, b.code, ty.code, mask.val, b.flag + 0, 0, pos⟩ = _
      unfold decodeV
      dsimp only
      obtain ⟨-, a2⟩ := decVb_enc b 0x0D vd.val va.val ty.code mask.val 0 0 pos (by decide)
      rw [a2, dec_bind]
      simp [decTy, decAmt_src', h1, dec_bind, dec_pure, Ty.ofCode_code, okOr, need_ok]

theorem vcmp (c : Cond) (ty : Ty) (md : Fin 8) (va : Fin 16) (b : VSrc) (mask : Fin 8) : Statement (.vcmp c ty md va b mask) := by
  refine ⟨fun hw => absurd hw Bool.false_ne_true, fun hw => ?_, fun hw => absurd hw Bool.false_ne_true⟩
  have hw : ty.isIF = true := hw
  have v1 := Ty.code_lt ty
  have v2 := Cond.code_lt c
  have v3 := md.isLt
  refine ⟨?_, fun pos => ?_⟩
  · show VFits ⟨0x0F, md.val, va.val, b.code, ty.code, mask.val, b.flag, 0, 0⟩ c.code
    exact ⟨by show 0x0F < 64; decide, by show md.val < 16; omega, va.isLt, VSrc.code_lt b, by show ty.code < 16; omega, mask.isLt,
      (flag_fld b 0 (by decide)).2.2.2, by omega⟩
  · show decodeV ⟨0x0F, md.val, va.val, b.code, ty.code, mask.val, b.flag + 0, c.code, pos⟩ = _
    unfold decodeV
    dsimp only
    obtain ⟨a1, a2⟩ := decVb_enc b 0x0F md.val va.val ty.code mask.val 0 c.code pos (by decide)
    obtain ⟨f1, -, -, -⟩ := flag_fld b 0 (by decide)
    have e0 : fld md.val 3 3 = 0 := by simp only [fld, Nat.reduceAdd, Nat.reduceSub, Nat.reducePow]; omega
    have e1 : fld md.val 2 0 = md.val := by simp only [fld, Nat.reduceAdd, Nat.reduceSub, Nat.reducePow]; omega
    have e2 : fld c.code 31 3 = 0 := by simp only [fld, Nat.reduceAdd, Nat.reduceSub, Nat.reducePow]; omega
    have e3 : fld c.code 2 0 = c.code := by simp only [fld, Nat.reduceAdd, Nat.reduceSub, Nat.reducePow]; omega
    rw [a2, f1, e0, e1, e2, e3, a1]
    simp [decTy, hw, dec_bind, dec_pure, zeroV_cons, zeroV_nil, finOfNat_self, Ty.ofCode_code, Cond.ofCode_code, okOr, need_ok]

theorem vmask (md : Fin 8) (ma : Fin 8) (mb : Sum (Fin 8) (Fin 8)) (mask : Fin 8) (tbl : BitVec 4) : Statement (.vmask md ma mb mask tbl) := by
  refine ⟨fun hw => absurd hw Bool.false_ne_true, fun hw => ?_, fun hw => absurd hw Bool.false_ne_true⟩
  have v0 := md.isLt
  have v1 := ma.isLt
  have v3 := tbl.isLt
  have v4 := mask.isLt
  have e0 : fld md.val 3 3 = 0 := by simp only [fld, Nat.reduceAdd, Nat.reduceSub, Nat.reducePow]; omega
  have e1 : fld md.val 2 0 = md.val := by simp only [fld, Nat.reduceAdd, Nat.reduceSub, Nat.reducePow]; omega
  have e2 : fld ma.val 3 3 = 0 := by simp only [fld, Nat.reduceAdd, Nat.reduceSub, Nat.reducePow]; omega
  have e3 : fld ma.val 2 0 = ma.val := by simp only [fld, Nat.reduceAdd, Nat.reduceSub, Nat.reducePow]; omega
  have e6 : fld tbl.toNat 31 4 = 0 := by simp only [fld, Nat.reduceAdd, Nat.reduceSub, Nat.reducePow]; omega
  have e7 : fld tbl.toNat 3 0 = tbl.toNat := by simp only [fld, Nat.reduceAdd, Nat.reduceSub, Nat.reducePow]; omega
  cases mb with
  | inl k =>
    have v2 := k.isLt
    have e4 : fld k.val 3 3 = 0 := by simp only [fld, Nat.reduceAdd, Nat.reduceSub, Nat.reducePow]; omega
    have e5 : fld k.val 2 0 = k.val := by simp only [fld, Nat.reduceAdd, Nat.reduceSub, Nat.reducePow]; omega
    refine ⟨?_, fun pos => ?_⟩
    · show VFits ⟨0x11, md.val, ma.val, k.val, 0, mask.val, 0, 0, 0⟩ tbl.toNat
      refine ⟨?_, ?_, ?_, ?_, ?_, ?_, ?_, ?_⟩ <;> (try dsimp only) <;> omega
    · show decodeV ⟨0x11, md.val, ma.val, k.val, 0, mask.val, 0, tbl.toNat, pos⟩ = _
      unfold decodeV
      dsimp only
      simp [noTy, e0, e1, e2, e3, e4, e5, e6, e7, fld_zero, dec_bind, dec_pure, zeroV_cons, zeroV_nil, finOfNat_self, need_ok]
  | inr k =>
    have v2 := k.isLt
    have e4 : fld k.val 3 3 = 0 := by simp only [fld, Nat.reduceAdd, Nat.reduceSub, Nat.reducePow]; omega
    have e5 : fld k.val 2 0 = k.val := by simp only [fld, Nat.reduceAdd, Nat.reduceSub, Nat.reducePow]; omega
    have e8 : fld 4 2 2 = 1 := by decide
    have e9 : fld 4 1 0 = 0 := by decide
    refine ⟨?_, fun pos => ?_⟩
    · show VFits ⟨0x11, md.val, ma.val, k.val, 0, mask.val, 4, 0, 0⟩ tbl.toNat
      refine ⟨?_, ?_, ?_, ?_, ?_, ?_, ?_, ?_⟩ <;> (try dsimp only) <;> omega
    · show decodeV ⟨0x11, md.val, ma.val, k.val, 0, mask.val, 4, tbl.toNat, pos⟩ = _
      unfold decodeV
      dsimp only
      simp [noTy, e0, e1, e2, e3, e4, e5, e6, e7, e8, e9, dec_bind, dec_pure, zeroV_cons, zeroV_nil, finOfNat_self, need_ok]

theorem vcvt (td : Ty) (vd : Fin 16) (va : Fin 16) (mask : Fin 8) (ts : Ty) (rm : Rm) (sat : Bool) (part : BitVec 3) : Statement (.vcvt td vd va mask ts rm sat part) := by
  refine ⟨fun hw => absurd hw Bool.false_ne_true, fun hw => ?_, fun hw => absurd hw Bool.false_ne_true⟩
  have hw : decide (part.toNat < cvtParts td ts) = true := hw
  have v0 := Ty.code_lt td
  have v1 := Ty.code_lt ts
  have v2 := Rm.code_lt rm
  have v3 := Bool.toNat_lt sat
  have v4 := part.isLt
  obtain ⟨y, hy⟩ : ∃ y, y = ts.code + 16 * rm.code + 64 * sat.toNat + 128 * part.toNat := ⟨_, rfl⟩
  have hX : (Instr.vcvt td vd va mask ts rm sat part).vExt = y := by rw [hy]; rfl
  rw [hX]
  refine ⟨?_, fun pos => ?_⟩
  · show VFits ⟨0x12, vd.val, va.val, 0, td.code, mask.val, 0, 0, 0⟩ y
    refine ⟨?_, ?_, ?_, ?_, ?_, ?_, ?_, ?_⟩ <;> (try dsimp only) <;> omega
  · show decodeV ⟨0x12, vd.val, va.val, 0, td.code, mask.val, 0, y, pos⟩ = _
    unfold decodeV
    dsimp only
    have e0 : fld y 3 0 = ts.code := by rw [hy]; simp only [fld, Nat.reduceAdd, Nat.reduceSub, Nat.reducePow]; omega
    have e1 : fld y 5 4 = rm.code := by rw [hy]; simp only [fld, Nat.reduceAdd, Nat.reduceSub, Nat.reducePow]; omega
    have e2 : fld y 6 6 = sat.toNat := by rw [hy]; simp only [fld, Nat.reduceAdd, Nat.reduceSub, Nat.reducePow]; omega
    have e3 : fld y 9 7 = part.toNat := by rw [hy]; simp only [fld, Nat.reduceAdd, Nat.reduceSub, Nat.reducePow]; omega
    have e4 : fld y 31 10 = 0 := by rw [hy]; simp only [fld, Nat.reduceAdd, Nat.reduceSub, Nat.reducePow]; omega
    simp [bOk, decTy, e0, e1, e2, e3, e4, fld_zero, of_decide_eq_true hw, dec_bind, dec_pure, zeroV_cons, zeroV_nil, finOfNat_self,
      Ty.ofCode_code, Rm.ofCode_code, boolNat, okOr, need_ok]

theorem vbcast (ty : Ty) (vd : Fin 16) (src : BcSrc) (mask : Fin 8) : Statement (.vbcast ty vd src mask) := by
  refine ⟨fun hw => absurd hw Bool.false_ne_true, fun hw => ?_, fun hw => absurd hw Bool.false_ne_true⟩
  have v0 := Ty.code_lt ty
  cases src with
  | lane va k =>
    have hw : decide (k.toNat < ty.lanes) = true := hw
    have v1 := k.isLt
    refine ⟨?_, fun pos => ?_⟩
    · show VFits ⟨0x18, vd.val, va.val, 0, ty.code, mask.val, 0, 0, 0⟩ k.toNat
      refine ⟨?_, ?_, ?_, ?_, ?_, ?_, ?_, ?_⟩ <;> (try dsimp only) <;> omega
    · show decodeV ⟨0x18, vd.val, va.val, 0, ty.code, mask.val, 0, k.toNat, pos⟩ = _
      unfold decodeV
      dsimp only
      have e0 : fld k.toNat 31 5 = 0 := by simp only [fld, Nat.reduceAdd, Nat.reduceSub, Nat.reducePow]; omega
      have e1 : fld k.toNat 4 0 = k.toNat := by simp only [fld, Nat.reduceAdd, Nat.reduceSub, Nat.reducePow]; omega
      simp [bOk, decTy, e0, e1, fld_zero, of_decide_eq_true hw, dec_bind, dec_pure, zeroV_cons, zeroV_nil, finOfNat_self, Ty.ofCode_code, okOr, need_ok]
  | o n =>
    have v1 := n.isLt
    have e8 : fld 4 2 2 = 1 := by decide
    have e9 : fld 4 1 0 = 0 := by decide
    refine ⟨?_, fun pos => ?_⟩
    · show VFits ⟨0x18, vd.val, 0, n.val, ty.code, mask.val, 4, 0, 0⟩ 0
      refine ⟨?_, ?_, ?_, ?_, ?_, ?_, ?_, ?_⟩ <;> (try dsimp only) <;> omega
    · show decodeV ⟨0x18, vd.val, 0, n.val, ty.code, mask.val, 4, 0, pos⟩ = _
      unfold decodeV
      dsimp only
      have e0 : fld n.val 3 3 = 0 := by simp only [fld, Nat.reduceAdd, Nat.reduceSub, Nat.reducePow]; omega
      have e1 : fld n.val 2 0 = n.val := by simp only [fld, Nat.reduceAdd, Nat.reduceSub, Nat.reducePow]; omega
      simp [bOk, decVb, decTy, e0, e1, e8, e9, fld_zero, dec_bind, dec_pure, zeroV_cons, zeroV_nil, finOfNat_self, Ty.ofCode_code, okOr, need_ok]
/-! ### Epilogue operations -/

theorem ESrc.code_lt (s : ESrc) : s.code < 8 := by
  cases s with
  | e n => exact Nat.lt_trans n.isLt (by decide)
  | acc => decide
  | z => decide
theorem ESrc.ofCode_code (s : ESrc) : ESrc.ofCode s.code = s := by
  cases s with
  | e n => revert n; decide
  | acc => rfl
  | z => rfl
theorem ECond.code_lt (k : ECond) : k.code < 4 := by cases k <;> decide
theorem ECond.ofCode_code (k : ECond) : ECond.ofCode k.code = k := by cases k <;> rfl
theorem ESel.code_lt (k : ESel) : k.code < 8 := by
  cases k with
  | c n => exact Nat.lt_trans n.isLt (by decide)
  | _ => decide
theorem ESel.ofCode_code (k : ESel) : ESel.ofCode k.code = some k := by
  cases k with
  | c n => revert n; decide
  | _ => rfl
/-- The fields of a word whose fields fit. -/
theorem ofWord_word {op d a b c imm : Nat} (h1 : op < 64) (h2 : d < 8) (h3 : a < 8) (h4 : b < 8) (h5 : c < 8) (h6 : imm < 2 ^ 14) :
    ERaw.word ⟨op, d, a, b, c, imm⟩ < 2 ^ 32 ∧ ERaw.ofWord (ERaw.word ⟨op, d, a, b, c, imm⟩) = ⟨op, d, a, b, c, imm⟩ := by
  simp only [ERaw.word, ERaw.ofWord, fld, ERaw.mk.injEq, Nat.reduceAdd, Nat.reduceSub, Nat.reducePow] at *
  omega
/-- What the format bit and the other bits of imm read as. -/
theorem fmt_fld (f : Bool) {y : Nat} (hy : y < 2 ^ 13) :
    f.toNat * 2 ^ 13 + y < 2 ^ 14 ∧ (fld (f.toNat * 2 ^ 13 + y) 13 13 == 1) = f ∧ fld (f.toNat * 2 ^ 13 + y) 12 0 = y := by
  have h := Bool.toNat_lt f
  simp only [fld, Nat.reduceAdd, Nat.reduceSub, Nat.reducePow] at *
  refine ⟨by omega, ?_, by omega⟩
  cases f
  · have : y / 8192 % 2 = 0 := by omega
    simp [this]
  · have : (y / 8192 + 1) % 2 = 1 := by omega
    simp [this]
theorem fmt_fld0 (f : Bool) : f.toNat * 2 ^ 13 < 2 ^ 14 ∧ (fld (f.toNat * 2 ^ 13) 13 13 == 1) = f ∧ fld (f.toNat * 2 ^ 13) 12 0 = 0 :=
  by cases f <;> decide

theorem eend : Statement .eend :=
  ⟨fun hw => absurd hw Bool.false_ne_true, fun hw => absurd hw Bool.false_ne_true, fun _ => ⟨by decide, by decide⟩⟩

theorem emov (d : Fin 6) (a : ESrc) : Statement (.emov d a) := by
  refine ⟨fun hw => absurd hw Bool.false_ne_true, fun hw => absurd hw Bool.false_ne_true, fun _ => ?_⟩
  have hd : d.val < 8 := Nat.lt_trans d.isLt (by decide)
  obtain ⟨w1, w2⟩ := ofWord_word (op := 0x01) (b := 0) (c := 0) (imm := 0) (by decide) hd (ESrc.code_lt a) (by decide) (by decide) (by decide)
  refine ⟨w1, ?_⟩
  show decodeEpi (ERaw.word ⟨0x01, d.val, a.code, 0, 0, 0⟩) = _
  simp only [decodeEpi, w2]
  simp [ESrc.ofCode_code, d.isLt]

theorem eadd (f : Bool) (d : Fin 6) (a b : ESrc) : Statement (.eadd f d a b) := by
  refine ⟨fun hw => absurd hw Bool.false_ne_true, fun hw => absurd hw Bool.false_ne_true, fun _ => ?_⟩
  have hd : d.val < 8 := Nat.lt_trans d.isLt (by decide)
  obtain ⟨f1, f2, f3⟩ := fmt_fld0 f
  obtain ⟨w1, w2⟩ := ofWord_word (op := 0x02) (c := 0) (by decide) hd (ESrc.code_lt a) (ESrc.code_lt b) (by decide) f1
  refine ⟨w1, ?_⟩
  show decodeEpi (ERaw.word ⟨0x02, d.val, a.code, b.code, 0, f.toNat * 2 ^ 13⟩) = _
  simp only [decodeEpi, w2, f2, f3]
  simp [ESrc.ofCode_code, d.isLt]

theorem esub (f : Bool) (d : Fin 6) (a b : ESrc) : Statement (.esub f d a b) := by
  refine ⟨fun hw => absurd hw Bool.false_ne_true, fun hw => absurd hw Bool.false_ne_true, fun _ => ?_⟩
  have hd : d.val < 8 := Nat.lt_trans d.isLt (by decide)
  obtain ⟨f1, f2, f3⟩ := fmt_fld0 f
  obtain ⟨w1, w2⟩ := ofWord_word (op := 0x03) (c := 0) (by decide) hd (ESrc.code_lt a) (ESrc.code_lt b) (by decide) f1
  refine ⟨w1, ?_⟩
  show decodeEpi (ERaw.word ⟨0x03, d.val, a.code, b.code, 0, f.toNat * 2 ^ 13⟩) = _
  simp only [decodeEpi, w2, f2, f3]
  simp [ESrc.ofCode_code, d.isLt]

theorem emul (f : Bool) (d : Fin 6) (a b : ESrc) : Statement (.emul f d a b) := by
  refine ⟨fun hw => absurd hw Bool.false_ne_true, fun hw => absurd hw Bool.false_ne_true, fun _ => ?_⟩
  have hd : d.val < 8 := Nat.lt_trans d.isLt (by decide)
  obtain ⟨f1, f2, f3⟩ := fmt_fld0 f
  obtain ⟨w1, w2⟩ := ofWord_word (op := 0x04) (c := 0) (by decide) hd (ESrc.code_lt a) (ESrc.code_lt b) (by decide) f1
  refine ⟨w1, ?_⟩
  show decodeEpi (ERaw.word ⟨0x04, d.val, a.code, b.code, 0, f.toNat * 2 ^ 13⟩) = _
  simp only [decodeEpi, w2, f2, f3]
  simp [ESrc.ofCode_code, d.isLt]

theorem emin (f : Bool) (d : Fin 6) (a b : ESrc) : Statement (.emin f d a b) := by
  refine ⟨fun hw => absurd hw Bool.false_ne_true, fun hw => absurd hw Bool.false_ne_true, fun _ => ?_⟩
  have hd : d.val < 8 := Nat.lt_trans d.isLt (by decide)
  obtain ⟨f1, f2, f3⟩ := fmt_fld0 f
  obtain ⟨w1, w2⟩ := ofWord_word (op := 0x06) (c := 0) (by decide) hd (ESrc.code_lt a) (ESrc.code_lt b) (by decide) f1
  refine ⟨w1, ?_⟩
  show decodeEpi (ERaw.word ⟨0x06, d.val, a.code, b.code, 0, f.toNat * 2 ^ 13⟩) = _
  simp only [decodeEpi, w2, f2, f3]
  simp [ESrc.ofCode_code, d.isLt]

theorem emax (f : Bool) (d : Fin 6) (a b : ESrc) : Statement (.emax f d a b) := by
  refine ⟨fun hw => absurd hw Bool.false_ne_true, fun hw => absurd hw Bool.false_ne_true, fun _ => ?_⟩
  have hd : d.val < 8 := Nat.lt_trans d.isLt (by decide)
  obtain ⟨f1, f2, f3⟩ := fmt_fld0 f
  obtain ⟨w1, w2⟩ := ofWord_word (op := 0x07) (c := 0) (by decide) hd (ESrc.code_lt a) (ESrc.code_lt b) (by decide) f1
  refine ⟨w1, ?_⟩
  show decodeEpi (ERaw.word ⟨0x07, d.val, a.code, b.code, 0, f.toNat * 2 ^ 13⟩) = _
  simp only [decodeEpi, w2, f2, f3]
  simp [ESrc.ofCode_code, d.isLt]

theorem efma (f : Bool) (d : Fin 6) (a b c : ESrc) : Statement (.efma f d a b c) := by
  refine ⟨fun hw => absurd hw Bool.false_ne_true, fun hw => absurd hw Bool.false_ne_true, fun _ => ?_⟩
  have hd : d.val < 8 := Nat.lt_trans d.isLt (by decide)
  obtain ⟨f1, f2, f3⟩ := fmt_fld0 f
  obtain ⟨w1, w2⟩ := ofWord_word (op := 0x05) (by decide) hd (ESrc.code_lt a) (ESrc.code_lt b) (ESrc.code_lt c) f1
  refine ⟨w1, ?_⟩
  show decodeEpi (ERaw.word ⟨0x05, d.val, a.code, b.code, c.code, f.toNat * 2 ^ 13⟩) = _
  simp only [decodeEpi, w2, f2, f3]
  simp [ESrc.ofCode_code, d.isLt]

theorem ezpc (f : Bool) (d : Fin 6) (a b c : ESrc) : Statement (.ezpc f d a b c) := by
  refine ⟨fun hw => absurd hw Bool.false_ne_true, fun hw => absurd hw Bool.false_ne_true, fun _ => ?_⟩
  have hd : d.val < 8 := Nat.lt_trans d.isLt (by decide)
  obtain ⟨f1, f2, f3⟩ := fmt_fld0 f
  obtain ⟨w1, w2⟩ := ofWord_word (op := 0x0B) (by decide) hd (ESrc.code_lt a) (ESrc.code_lt b) (ESrc.code_lt c) f1
  refine ⟨w1, ?_⟩
  show decodeEpi (ERaw.word ⟨0x0B, d.val, a.code, b.code, c.code, f.toNat * 2 ^ 13⟩) = _
  simp only [decodeEpi, w2, f2, f3]
  simp [ESrc.ofCode_code, d.isLt]

theorem erelu (f : Bool) (d : Fin 6) (a : ESrc) : Statement (.erelu f d a) := by
  refine ⟨fun hw => absurd hw Bool.false_ne_true, fun hw => absurd hw Bool.false_ne_true, fun _ => ?_⟩
  have hd : d.val < 8 := Nat.lt_trans d.isLt (by decide)
  obtain ⟨f1, f2, f3⟩ := fmt_fld0 f
  obtain ⟨w1, w2⟩ := ofWord_word (op := 0x0C) (b := 0) (c := 0) (by decide) hd (ESrc.code_lt a) (by decide) (by decide) f1
  refine ⟨w1, ?_⟩
  show decodeEpi (ERaw.word ⟨0x0C, d.val, a.code, 0, 0, f.toNat * 2 ^ 13⟩) = _
  simp only [decodeEpi, w2, f2, f3]
  simp [ESrc.ofCode_code, d.isLt]

theorem eqmul (d : Fin 6) (a b : ESrc) : Statement (.eqmul d a b) := by
  refine ⟨fun hw => absurd hw Bool.false_ne_true, fun hw => absurd hw Bool.false_ne_true, fun _ => ?_⟩
  have hd : d.val < 8 := Nat.lt_trans d.isLt (by decide)
  obtain ⟨w1, w2⟩ := ofWord_word (op := 0x09) (c := 0) (imm := 0) (by decide) hd (ESrc.code_lt a) (ESrc.code_lt b) (by decide) (by decide)
  refine ⟨w1, ?_⟩
  show decodeEpi (ERaw.word ⟨0x09, d.val, a.code, b.code, 0, 0⟩) = _
  simp only [decodeEpi, w2]
  simp [ESrc.ofCode_code, d.isLt]

theorem ewr (a : ESrc) : Statement (.ewr a) := by
  refine ⟨fun hw => absurd hw Bool.false_ne_true, fun hw => absurd hw Bool.false_ne_true, fun _ => ?_⟩
  obtain ⟨w1, w2⟩ := ofWord_word (op := 0x0F) (d := 0) (b := 0) (c := 0) (imm := 0) (by decide) (by decide) (ESrc.code_lt a) (by decide) (by decide)
    (by decide)
  refine ⟨w1, ?_⟩
  show decodeEpi (ERaw.word ⟨0x0F, 0, a.code, 0, 0, 0⟩) = _
  simp only [decodeEpi, w2]
  simp [ESrc.ofCode_code]

theorem eshrImm (d : Fin 6) (a : ESrc) (sh : BitVec 5) : Statement (.eshrImm d a sh) := by
  refine ⟨fun hw => absurd hw Bool.false_ne_true, fun hw => absurd hw Bool.false_ne_true, fun _ => ?_⟩
  have hd : d.val < 8 := Nat.lt_trans d.isLt (by decide)
  have hs := sh.isLt
  obtain ⟨w1, w2⟩ := ofWord_word (op := 0x08) (b := 0) (c := 0) (imm := sh.toNat) (by decide) hd (ESrc.code_lt a) (by decide) (by decide) (by omega)
  refine ⟨w1, ?_⟩
  show decodeEpi (ERaw.word ⟨0x08, d.val, a.code, 0, 0, sh.toNat⟩) = _
  have e0 : fld sh.toNat 13 6 = 0 := by simp only [fld, Nat.reduceAdd, Nat.reduceSub, Nat.reducePow]; omega
  have e1 : fld sh.toNat 5 5 = 0 := by simp only [fld, Nat.reduceAdd, Nat.reduceSub, Nat.reducePow]; omega
  have e2 : fld sh.toNat 4 0 = sh.toNat := by simp only [fld, Nat.reduceAdd, Nat.reduceSub, Nat.reducePow]; omega
  simp only [decodeEpi, w2, e0, e1, e2]
  simp [ESrc.ofCode_code, d.isLt]

theorem eshrReg (d : Fin 6) (a b : ESrc) : Statement (.eshrReg d a b) := by
  refine ⟨fun hw => absurd hw Bool.false_ne_true, fun hw => absurd hw Bool.false_ne_true, fun _ => ?_⟩
  have hd : d.val < 8 := Nat.lt_trans d.isLt (by decide)
  obtain ⟨w1, w2⟩ := ofWord_word (op := 0x08) (c := 0) (imm := 32) (by decide) hd (ESrc.code_lt a) (ESrc.code_lt b) (by decide) (by decide)
  refine ⟨w1, ?_⟩
  show decodeEpi (ERaw.word ⟨0x08, d.val, a.code, b.code, 0, 32⟩) = _
  simp only [decodeEpi, w2]
  simp [fld, ESrc.ofCode_code, d.isLt]

theorem ecvt (f : Bool) (d : Fin 6) (a : ESrc) (ty : Ty) (rm : Rm) (sat : Bool) : Statement (.ecvt f d a ty rm sat) := by
  refine ⟨fun hw => absurd hw Bool.false_ne_true, fun hw => absurd hw Bool.false_ne_true, fun hw => ?_⟩
  have hw : ecvtTy ty = true := hw
  have hd : d.val < 8 := Nat.lt_trans d.isLt (by decide)
  have v1 := Ty.code_lt ty
  have v2 := Rm.code_lt rm
  have v3 := Bool.toNat_lt sat
  obtain ⟨y, hy⟩ : ∃ y, y = 64 * sat.toNat + 16 * rm.code + ty.code := ⟨_, rfl⟩
  have hlt : y < 2 ^ 13 := by omega
  obtain ⟨f1, f2, f3⟩ := fmt_fld f hlt
  obtain ⟨w1, w2⟩ := ofWord_word (op := 0x0A) (b := 0) (c := 0) (by decide) hd (ESrc.code_lt a) (by decide) (by decide) f1
  have he : encodeEpi (.ecvt f d a ty rm sat) = ERaw.word ⟨0x0A, d.val, a.code, 0, 0, f.toNat * 2 ^ 13 + y⟩ := by
    rw [hy]; simp only [encodeEpi, Nat.add_assoc]
  have v0 := Bool.toNat_lt f
  have e0 : fld (f.toNat * 2 ^ 13 + y) 3 0 = ty.code := by
    rw [hy]; simp only [fld, Nat.reduceAdd, Nat.reduceSub, Nat.reducePow]; omega
  have e1 : fld (f.toNat * 2 ^ 13 + y) 5 4 = rm.code := by
    rw [hy]; simp only [fld, Nat.reduceAdd, Nat.reduceSub, Nat.reducePow]; omega
  have e2 : fld (f.toNat * 2 ^ 13 + y) 6 6 = sat.toNat := by
    rw [hy]; simp only [fld, Nat.reduceAdd, Nat.reduceSub, Nat.reducePow]; omega
  have e3 : fld (f.toNat * 2 ^ 13 + y) 12 7 = 0 := by
    rw [hy]; simp only [fld, Nat.reduceAdd, Nat.reduceSub, Nat.reducePow]; omega
  rw [he]
  refine ⟨w1, ?_⟩
  simp only [decodeEpi, w2, f2, e0, e1, e2, e3]
  simp [ESrc.ofCode_code, Ty.ofCode_code, Rm.ofCode_code, boolNat, hw, d.isLt]

theorem esel (f : Bool) (d : Fin 6) (a b c : ESrc) (k : ECond) : Statement (.esel f d a b c k) := by
  refine ⟨fun hw => absurd hw Bool.false_ne_true, fun hw => absurd hw Bool.false_ne_true, fun _ => ?_⟩
  have hd : d.val < 8 := Nat.lt_trans d.isLt (by decide)
  have v1 := ECond.code_lt k
  obtain ⟨f1, f2, f3⟩ := fmt_fld f (y := k.code) (by omega)
  obtain ⟨w1, w2⟩ := ofWord_word (op := 0x0D) (by decide) hd (ESrc.code_lt a) (ESrc.code_lt b) (ESrc.code_lt c) f1
  refine ⟨w1, ?_⟩
  show decodeEpi (ERaw.word ⟨0x0D, d.val, a.code, b.code, c.code, f.toNat * 2 ^ 13 + k.code⟩) = _
  have v0 := Bool.toNat_lt f
  have e0 : fld (f.toNat * 2 ^ 13 + k.code) 1 0 = k.code := by simp only [fld, Nat.reduceAdd, Nat.reduceSub, Nat.reducePow]; omega
  have e1 : fld (f.toNat * 2 ^ 13 + k.code) 12 2 = 0 := by simp only [fld, Nat.reduceAdd, Nat.reduceSub, Nat.reducePow]; omega
  simp only [decodeEpi, w2, f2, e0, e1]
  simp [ESrc.ofCode_code, ECond.ofCode_code, d.isLt]

theorem eldc (f : Bool) (d : Fin 6) (sl : ESel) : Statement (.eldc f d sl) := by
  refine ⟨fun hw => absurd hw Bool.false_ne_true, fun hw => absurd hw Bool.false_ne_true, fun hw => ?_⟩
  have hw : (!f || sl == .kv) = true := hw
  have hd : d.val < 8 := Nat.lt_trans d.isLt (by decide)
  have v1 := ESel.code_lt sl
  obtain ⟨f1, f2, f3⟩ := fmt_fld f (y := sl.code) (by omega)
  obtain ⟨w1, w2⟩ := ofWord_word (op := 0x0E) (a := 0) (b := 0) (c := 0) (by decide) hd (by decide) (by decide) (by decide) f1
  refine ⟨w1, ?_⟩
  show decodeEpi (ERaw.word ⟨0x0E, d.val, 0, 0, 0, f.toNat * 2 ^ 13 + sl.code⟩) = _
  have v0 := Bool.toNat_lt f
  have e0 : fld (f.toNat * 2 ^ 13 + sl.code) 2 0 = sl.code := by simp only [fld, Nat.reduceAdd, Nat.reduceSub, Nat.reducePow]; omega
  have e1 : fld (f.toNat * 2 ^ 13 + sl.code) 12 3 = 0 := by simp only [fld, Nat.reduceAdd, Nat.reduceSub, Nat.reducePow]; omega
  have hn : (f && sl != .kv) = false := by cases f <;> simp_all
  simp only [decodeEpi, w2, f2, e0, e1]
  simp [ESel.ofCode_code, d.isLt, hn]
/-! ### Events, which have no encoding -/

theorem event {i : Instr} (hs : i.wfS = false) (hv : i.wfV = false) (he : i.wfE = false) : Statement i := by
  refine ⟨fun h => ?_, fun h => ?_, fun h => ?_⟩ <;> simp_all

theorem deviceReset : Statement .deviceReset := event rfl rfl rfl
theorem bootStage (stage : Nat) : Statement (.bootStage stage) := event rfl rfl rfl
theorem hbmTrainingAttempt (stack : Fin 12) (ok : Bool) : Statement (.hbmTrainingAttempt stack ok) := event rfl rfl rfl
theorem spanLinkTraining (link : Fin 24) (lanes : Nat) (peer : BitVec 8) : Statement (.spanLinkTraining link lanes peer) := event rfl rfl rfl
theorem portTraining (port : Fin 9) (width rate : Nat) : Statement (.portTraining port width rate) := event rfl rfl rfl
theorem upload (tag : BitVec 16) (codeBase place : Nat) : Statement (.upload tag codeBase place) := event rfl rfl rfl
theorem release (tag : BitVec 16) : Statement (.release tag) := event rfl rfl rfl
theorem attest (tag : BitVec 16) : Statement (.attest tag) := event rfl rfl rfl
theorem flashwr (tag : BitVec 16) : Statement (.flashwr tag) := event rfl rfl rfl
theorem reset (tag : BitVec 16) : Statement (.reset tag) := event rfl rfl rfl
theorem mailboxCommandComplete : Statement .mailboxCommandComplete := event rfl rfl rfl
theorem registerWrite (r : HostReg) (v : Word) : Statement (.registerWrite r v) := event rfl rfl rfl
theorem kick (k : Nat) (v : Word) : Statement (.kick k v) := event rfl rfl rfl
theorem hostStagingWrite (off : Nat) (bytes : List Byte) : Statement (.hostStagingWrite off bytes) := event rfl rfl rfl
theorem hostStagingRead (off n : Nat) : Statement (.hostStagingRead off n) := event rfl rfl rfl
theorem replayBegin (slot : Nat) : Statement (.replayBegin slot) := event rfl rfl rfl
theorem placement : Statement .placement := event rfl rfl rfl
theorem teamLaunch (team : Nat) : Statement (.teamLaunch team) := event rfl rfl rfl
theorem teamComplete (team : Nat) : Statement (.teamComplete team) := event rfl rfl rfl
theorem preemptTrigger : Statement .preemptTrigger := event rfl rfl rfl
theorem preemptStopIssue (team : Nat) : Statement (.preemptStopIssue team) := event rfl rfl rfl
theorem preemptHoldGrace (team : Nat) : Statement (.preemptHoldGrace team) := event rfl rfl rfl
theorem holdGraceExpiry (team : Nat) : Statement (.holdGraceExpiry team) := event rfl rfl rfl
theorem preemptDrain (team : Nat) : Statement (.preemptDrain team) := event rfl rfl rfl
theorem preemptEngineStop (team : Nat) : Statement (.preemptEngineStop team) := event rfl rfl rfl
theorem preemptSave (team : Nat) : Statement (.preemptSave team) := event rfl rfl rfl
theorem resume (team : Nat) : Statement (.resume team) := event rfl rfl rfl
theorem teamTeardown (team : Nat) : Statement (.teamTeardown team) := event rfl rfl rfl
theorem trapEntry (core ctx : Nat) (code : FCode) (w2 w3 : Word) : Statement (.trapEntry core ctx code w2 w3) := event rfl rfl rfl
theorem lightHandlerCall (core ctx : Nat) (d : Dir) : Statement (.lightHandlerCall core ctx d) := event rfl rfl rfl
theorem softError (core ctx : Nat) : Statement (.softError core ctx) := event rfl rfl rfl
theorem faultLogEntry (core ctx : Nat) (e : LogEnt) : Statement (.faultLogEntry core ctx e) := event rfl rfl rfl
theorem replyWrite (core ctx tok : Nat) (r : Reply) : Statement (.replyWrite core ctx tok r) := event rfl rfl rfl
theorem pendingCompletionWrite (core ctx tok : Nat) (v : Word) : Statement (.pendingCompletionWrite core ctx tok v) := event rfl rfl rfl
theorem eagerSpill (core : Nat) : Statement (.eagerSpill core) := event rfl rfl rfl
theorem windowSpill (core ctx : Nat) : Statement (.windowSpill core ctx) := event rfl rfl rfl
theorem windowRefill (core ctx : Nat) : Statement (.windowRefill core ctx) := event rfl rfl rfl
theorem weightTakesEffect (core ctx : Nat) : Statement (.weightTakesEffect core ctx) := event rfl rfl rfl
theorem throttleStepBegin (core : Nat) : Statement (.throttleStepBegin core) := event rfl rfl rfl
theorem throttleStepEnd (core : Nat) : Statement (.throttleStepEnd core) := event rfl rfl rfl
theorem queueEntryArrive (core : Nat) (d : Dir) : Statement (.queueEntryArrive core d) := event rfl rfl rfl
theorem creditReturn (core : Nat) (d : Dir) : Statement (.creditReturn core d) := event rfl rfl rfl
theorem levellingSample (core ctl : Nat) : Statement (.levellingSample core ctl) := event rfl rfl rfl
theorem levellingDemandArrive (m : LevMsg) : Statement (.levellingDemandArrive m) := event rfl rfl rfl
theorem engineLevelSample (link : Nat) : Statement (.engineLevelSample link) := event rfl rfl rfl
theorem leaseGrant (die : Nat) : Statement (.leaseGrant die) := event rfl rfl rfl
theorem engineWake (link : Nat) : Statement (.engineWake link) := event rfl rfl rfl
theorem eviction (die : Nat) : Statement (.eviction die) := event rfl rfl rfl
theorem heldOpenTakesEffect (link : Nat) (far : Bool) : Statement (.heldOpenTakesEffect link far) := event rfl rfl rfl
theorem prePass (link : Nat) : Statement (.prePass link) := event rfl rfl rfl
theorem loaderFetch (link : Nat) (far : Bool) : Statement (.loaderFetch link far) := event rfl rfl rfl
theorem kStep (link : Nat) : Statement (.kStep link) := event rfl rfl rfl
theorem splitDrain (link : Nat) : Statement (.splitDrain link) := event rfl rfl rfl
theorem drainBegin (link : Nat) : Statement (.drainBegin link) := event rfl rfl rfl
theorem epilogueRow (link : Nat) : Statement (.epilogueRow link) := event rfl rfl rfl
theorem drainRowWrite (r : RowWrite) : Statement (.drainRowWrite r) := event rfl rfl rfl
theorem engineRestore (link : Nat) : Statement (.engineRestore link) := event rfl rfl rfl
theorem injectionSend (core : Nat) : Statement (.injectionSend core) := event rfl rfl rfl
theorem outputArbitration (core port : Nat) : Statement (.outputArbitration core port) := event rfl rfl rfl
theorem escapeEntry (core chan : Nat) : Statement (.escapeEntry core chan) := event rfl rfl rfl
theorem homeRequestArrival (r : HomeReq) : Statement (.homeRequestArrival r) := event rfl rfl rfl
theorem holdGrant (pa : Nat) : Statement (.holdGrant pa) := event rfl rfl rfl
theorem holdResend (r : HomeReq) : Statement (.holdResend r) := event rfl rfl rfl
theorem remoteStoreArrival (p : Pkt) : Statement (.remoteStoreArrival p) := event rfl rfl rfl
theorem rstFeArrival (p : Pkt) : Statement (.rstFeArrival p) := event rfl rfl rfl
theorem rstFeResend (p : Pkt) : Statement (.rstFeResend p) := event rfl rfl rfl
theorem writeResend (p : Pkt) : Statement (.writeResend p) := event rfl rfl rfl
theorem acknowledgement (core ctx tok : Nat) : Statement (.acknowledgement core ctx tok) := event rfl rfl rfl
theorem wcIdleTimeout (core pa : Nat) : Statement (.wcIdleTimeout core pa) := event rfl rfl rfl
theorem fineGrainBatchIssue (ch : Nat) : Statement (.fineGrainBatchIssue ch) := event rfl rfl rfl
theorem hbmRequestServe (ch : Nat) : Statement (.hbmRequestServe ch) := event rfl rfl rfl
theorem hbmRefresh (ch : Nat) : Statement (.hbmRefresh ch) := event rfl rfl rfl
theorem copyCommandStart (core : Nat) : Statement (.copyCommandStart core) := event rfl rfl rfl
theorem gatherIndexBatch (core id : Nat) : Statement (.gatherIndexBatch core id) := event rfl rfl rfl
theorem copyRowWrite (core id k : Nat) : Statement (.copyRowWrite core id k) := event rfl rfl rfl
theorem copyCommandComplete (core id : Nat) : Statement (.copyCommandComplete core id) := event rfl rfl rfl
theorem scheduleEntryRelease (team sched : Nat) : Statement (.scheduleEntryRelease team sched) := event rfl rfl rfl
theorem triggerNotice (core ctx : Nat) : Statement (.triggerNotice core ctx) := event rfl rfl rfl
theorem iterationClaim (core : Nat) : Statement (.iterationClaim core) := event rfl rfl rfl
theorem claimReply (core : Nat) (chunk : Option (Nat × Nat)) : Statement (.claimReply core chunk) := event rfl rfl rfl
theorem pageWalk (die : Nat) : Statement (.pageWalk die) := event rfl rfl rfl
theorem residencyRepair (space va : Nat) : Statement (.residencyRepair space va) := event rfl rfl rfl
theorem residencyFatal (space va : Nat) (protect : Bool) : Statement (.residencyFatal space va protect) := event rfl rfl rfl
theorem spanInboundRequest (link : Fin 24) (r : HomeReq) : Statement (.spanInboundRequest link r) := event rfl rfl rfl
theorem pcieCompletion (core ctx tok : Nat) (bytes : List Byte) : Statement (.pcieCompletion core ctx tok bytes) := event rfl rfl rfl
theorem pcieCompletionTimeout (core ctx tok : Nat) : Statement (.pcieCompletionTimeout core ctx tok) := event rfl rfl rfl
theorem trapAnswer (core ctx : Nat) (v : Word) : Statement (.trapAnswer core ctx v) := event rfl rfl rfl
theorem swreq (k : Nat) (v : Word) : Statement (.swreq k v) := event rfl rfl rfl
theorem svcreq (k : Nat) (dst : Reg) : Statement (.svcreq k dst) := event rfl rfl rfl
theorem svcans (k : Nat) (v : Word) : Statement (.svcans k v) := event rfl rfl rfl
theorem tlbinv (k : Nat) (v : Word) : Statement (.tlbinv k v) := event rfl rfl rfl
theorem slotroot (k : Nat) (v : Word) : Statement (.slotroot k v) := event rfl rfl rfl
theorem spanin (k : Nat) (v : Word) : Statement (.spanin k v) := event rfl rfl rfl
theorem escwait (k : Nat) (v : Word) : Statement (.escwait k v) := event rfl rfl rfl
theorem powerLoss : Statement .powerLoss := event rfl rfl rfl
theorem uncorrectableError (key : Nat) : Statement (.uncorrectableError key) := event rfl rfl rfl
theorem sramSelfTest (ok : Bool) : Statement (.sramSelfTest ok) := event rfl rfl rfl
theorem dieBridgeTraining (ok : Bool) : Statement (.dieBridgeTraining ok) := event rfl rfl rfl
end Sys2Proof.Laws.Coding
end

