-- ==== Sys2Proof/Laws/Windows.lean ====
section
/-! SUPPORT. Reads of registers after writes, and of windows after a window opens or closes (R69, R71). -/

namespace Sys2Proof.Machine

/-- Windowed registers depend only on the windows. -/
theorem Ctx.readW_congr {x y : Ctx} (h1 : y.openers = x.openers) (h2 : y.wins = x.wins) (h3 : y.base = x.base) (h4 : y.recv = x.recv)
    (r : Nat) : y.readW r = x.readW r := by
  unfold Ctx.readW Ctx.readBelow Ctx.win Ctx.depth
  rw [h1, h2, h3, h4]
/-- The other registers depend only on their own files. -/
theorem Ctx.read_congr {x y : Ctx} (hg : y.g = x.g) (ho : y.o = x.o) (hl : y.l = x.l) (hi : y.i = x.i) {q : Reg} (hq : ∀ k, q ≠ .w k)
    (hp : q ≠ .pc) : y.read q = x.read q := by
  cases q with
  | w k => exact absurd rfl (hq k)
  | pc => exact absurd rfl hp
  | g k => simp only [Ctx.read, hg]
  | o k => simp only [Ctx.read, ho]
  | l k => simp only [Ctx.read, hl]
  | i k => simp only [Ctx.read, hi]
  | _ => rfl

/-- A register reads what was last written to it, and no other register of the window, or of the one below, changes. -/
theorem Ctx.readW_writeW (x : Ctx) (a b : Nat) (v : Word) (ha : a < 24) (hb : b < 24) : (x.writeW a v).readW b = if b = a then v else x.readW b := by
  have hd : 1 ≤ x.depth := by simp [Ctx.depth]
  unfold Ctx.writeW
  by_cases h8 : 8 ≤ a
  · rw [if_pos h8]
    unfold Ctx.readW Ctx.writeWin Ctx.win
    by_cases hb8 : 8 ≤ b
    · rw [if_pos hb8, if_pos hb8]
      show Table.get 0 (Table.get _ (x.wins.set x.depth _) x.depth).regs b = _
      rw [Table.get_set_self, Table.get_set]
    · rw [if_neg hb8, if_neg hb8, if_neg (by omega)]
      unfold Ctx.readBelow
      show (if x.depth = 1 then _ else _) = _
      split
      · rfl
      · show (match (x.wins.set x.depth _).find (x.depth - 1) with | some w => _ | none => _) = _
        rw [Table.find_set_other _ (by omega)] <;> rfl
  · rw [if_neg h8]
    by_cases h1 : x.depth = 1
    · rw [if_pos h1]
      unfold Ctx.readW
      by_cases hb8 : 8 ≤ b
      · rw [if_pos hb8, if_pos hb8, if_neg (by omega)]; rfl
      · rw [if_neg hb8, if_neg hb8]
        unfold Ctx.readBelow
        show (if x.depth = 1 then Table.get 0 (x.base.set a v) b else _) = _
        rw [if_pos h1, if_pos h1, Table.get_set]
    · rw [if_neg h1]
      cases hf : x.wins.find (x.depth - 1) with
      | some w =>
        simp only
        unfold Ctx.readW Ctx.writeWin
        by_cases hb8 : 8 ≤ b
        · rw [if_pos hb8, if_pos hb8, if_neg (by omega)]
          unfold Ctx.win
          show Table.get 0 (Table.get _ (x.wins.set (x.depth - 1) _) x.depth).regs b = _
          rw [Table.get_set_other _ _ (by omega)]
        · rw [if_neg hb8, if_neg hb8]
          unfold Ctx.readBelow
          show (if x.depth = 1 then _ else match (x.wins.set (x.depth - 1) _).find (x.depth - 1) with | some w => _ | none => _) = _
          rw [if_neg h1, if_neg h1, Table.find_set_self, hf]
          simp only
          rw [Table.get_set]
          have : x.win (x.depth - 1) = w := by simp [Ctx.win, Table.get, hf]
          rw [this]
          by_cases hab : b = a
          · simp [hab]
          · rw [if_neg (by omega), if_neg hab]
      | none =>
        simp only
        unfold Ctx.readW
        by_cases hb8 : 8 ≤ b
        · rw [if_pos hb8, if_pos hb8, if_neg (by omega)]; rfl
        · rw [if_neg hb8, if_neg hb8]
          unfold Ctx.readBelow
          show (if x.depth = 1 then _ else match x.wins.find (x.depth - 1) with | some w => _ | none => Table.get 0 (x.recv.set a v) b) = _
          rw [if_neg h1, if_neg h1, hf]
          simp only
          rw [Table.get_set]

/-- A register reads what was last written to it, and a write changes no other register but l0 to l3, which Put shifts. -/
theorem Ctx.read_write (x : Ctx) (dst r : Reg) (v : Word) (h : ∀ k, r ≠ .l k) :
    (x.write dst v).read r = if r = dst ∧ isPlainDst dst = true then v else x.read r := by
  cases dst with
  | w k =>
    cases r with
    | w j =>
      show (x.writeW k.val v).readW j.val = _
      rw [Ctx.readW_writeW _ _ _ _ k.isLt j.isLt]
      simp only [Reg.w.injEq, isPlainDst, and_true, Fin.ext_iff]; rfl
    | l k => exact absurd rfl (h k)
    | _ => simp [Ctx.read, Ctx.write]
  | g k =>
    cases r with
    | g j =>
      show Table.get 0 (x.g.set k.val v) j.val = _
      rw [Table.get_set]; simp only [Reg.g.injEq, isPlainDst, and_true, Fin.ext_iff]; rfl
    | _ => simp only [reduceCtorEq, false_and, if_false]; rfl
  | o k =>
    cases r with
    | o j =>
      show Table.get 0 (x.o.set k.val v) j.val = _
      rw [Table.get_set]; simp only [Reg.o.injEq, isPlainDst, and_true, Fin.ext_iff]; rfl
    | _ => simp only [reduceCtorEq, false_and, if_false]; rfl
  | i k =>
    cases r with
    | i j =>
      show Table.get 0 (x.i.set k.val v) j.val = _
      rw [Table.get_set]; simp only [Reg.i.injEq, isPlainDst, and_true, Fin.ext_iff]; rfl
    | _ => simp only [reduceCtorEq, false_and, if_false]; rfl
  | _ => simp only [isPlainDst, Bool.false_eq_true, and_false, if_false]; rfl

/-- Four registers in a row, written from a list. -/
theorem Ctx.readW_writes4 (x : Ctx) (base : Nat) (saved : List Word) (hb : base + 4 ≤ 24) {r : Nat} (hr : r < 24) :
    ((List.range 4).foldl (fun y k => y.writeW (base + k) (saved.getD k 0)) x).readW r
      = if base ≤ r ∧ r < base + 4 then saved.getD (r - base) 0 else x.readW r := by
  simp only [List.range, List.range.loop, List.foldl]
  rw [Ctx.readW_writeW _ _ _ _ (by omega) hr, Ctx.readW_writeW _ _ _ _ (by omega) hr, Ctx.readW_writeW _ _ _ _ (by omega) hr,
    Ctx.readW_writeW _ _ _ _ (by omega) hr]
  by_cases h : base ≤ r ∧ r < base + 4
  · rw [if_pos h]
    obtain ⟨h1, h2⟩ := h
    have : r = base ∨ r = base + 1 ∨ r = base + 2 ∨ r = base + 3 := by omega
    rcases this with rfl | rfl | rfl | rfl <;> simp
  · rw [if_neg h, if_neg (by omega), if_neg (by omega), if_neg (by omega), if_neg (by omega)]

/-- A new window: its kept and passed registers read zero, and its received ones are the passed ones of the window below (R71). -/
theorem Ctx.openWindow_readW (x : Ctx) (op : Opener) (h : x.room = .free ∨ x.room = .reuse) :
    (∀ r, 8 ≤ r → (x.openWindow op).readW r = 0) ∧ (∀ r, r < 8 → (x.openWindow op).readW r = x.readW (r + 16)) := by
  have hd : (x.openWindow op).depth = x.depth + 1 := by simp [Ctx.depth]
  have hwin : ∃ y : Ctx, (x.openWindow op).wins = (y.wins.set x.depth (x.win x.depth)).set (x.depth + 1) ⟨.empty, false⟩ := by
    by_cases hs : x.slotsUsed < 4
    · refine ⟨x, ?_⟩
      unfold Ctx.openWindow; simp only; rw [if_pos hs]; rfl
    · refine ⟨x.dropOldest, ?_⟩
      have ho : x.oldest ≠ x.depth := by
        intro e
        unfold Ctx.room at h
        rw [if_neg hs] at h
        split at h
        · rcases h with h | h <;> cases h
        · rw [if_pos (.inl e)] at h
          rcases h with h | h <;> cases h
      unfold Ctx.openWindow; simp only; rw [if_neg hs]
      have : x.dropOldest.win x.dropOldest.depth = x.win x.depth := by
        show Table.get _ (x.wins.erase x.oldest) x.depth = Table.get _ x.wins x.depth
        unfold Table.get; rw [Table.find_erase_other _ (Ne.symm ho)]
      rw [this]; rfl
  obtain ⟨y, hy⟩ := hwin
  constructor
  · intro r hr
    unfold Ctx.readW; rw [if_pos hr]; unfold Ctx.win; rw [hd, hy, Table.get_set_self]; rfl
  · intro r hr
    unfold Ctx.readW; rw [if_neg (by omega), if_pos (by omega)]
    unfold Ctx.readBelow
    have h1 : (x.openWindow op).depth ≠ 1 := by rw [hd]; simp [Ctx.depth]
    rw [if_neg h1, hd, hy, Nat.add_sub_cancel, Table.find_set_other _ (by omega), Table.find_set_self]

theorem Ctx.closeWindow_depth {x : Ctx} (h : x.depth ≠ 1) : x.closeWindow.depth = x.depth - 1 := by
  show x.openers.tail.length + 1 = x.openers.length + 1 - 1
  have : x.openers.length ≠ 0 := fun e => h (by unfold Ctx.depth; omega)
  rw [List.length_tail]; omega
/-- The window below, once the current one is gone: its passed registers are the ones the closed window received. -/
theorem Ctx.closeWindow_readW {x : Ctx} (h : x.depth ≠ 1) (hr : x.resident (x.depth - 1) = true) :
    (∀ r, r < 8 → x.closeWindow.readW (r + 16) = x.readW r)
      ∧ (∀ r, 8 ≤ r → x.closeWindow.readW r = Table.get 0 (x.win (x.depth - 1)).regs r) := by
  have hd := Ctx.closeWindow_depth h
  have hpos : 1 < x.depth := by
    have : x.depth = x.openers.length + 1 := rfl
    omega
  have hs : ∃ w, x.wins.find (x.depth - 1) = some w := by
    unfold Ctx.resident at hr
    simp only [Bool.or_eq_true, beq_iff_eq] at hr
    rcases hr with hr | hr
    · omega
    · exact Option.isSome_iff_exists.1 hr
  obtain ⟨w, hw⟩ := hs
  have h2 : ∀ r, 8 ≤ r → x.closeWindow.readW r = Table.get 0 (x.win (x.depth - 1)).regs r := by
    intro r hr
    unfold Ctx.readW; rw [if_pos hr]; unfold Ctx.win; rw [hd, Ctx.closeWindow_wins]
    unfold Table.get; rw [Table.find_erase_other _ (by omega)]
  refine ⟨?_, h2⟩
  intro r hr8
  rw [h2 _ (by omega)]
  unfold Ctx.readW; rw [if_neg (by omega)]
  unfold Ctx.readBelow
  rw [if_neg h, hw]
  simp [Ctx.win, Table.get, hw]

end Sys2Proof.Machine
end

