-- ==== Sys2Proof/Tests/Slice0.lean ====
section
/-! SUPPORT. Tests: words written out from the encodings of the spec, the checks of well-formedness, the spec's worked examples, and a
witness for the hypotheses of each statement. -/

open Sys2Proof Sys2Proof.Machine

namespace Sys2Proof.Tests

-- One theorem is checked after another: each closed evaluation then runs on the file's own thread.
set_option Elab.async false

/-! ### Words of the spec's encodings (R83 to R95, R139, R140, and the entry of each operation) -/

/-- The S operation, and the V operation, of a bundle at a fetch block's start on a compute core. -/
def sOf (w : Nat) : Option Instr := (decodeBundle false 0 w).toOption.map (·.s)
def vOf (w : Nat) : Option Instr := (decodeBundle false 0 w).toOption.map (·.v)

theorem test_decode_class_a_registers :
    sOf 0x89920100 = some (.add ⟨false, .w 8, .g 1, .reg (.o 2)⟩)
    ∧ sOf 0x189920200 = some (.sub ⟨true, .w 8, .g 1, .reg (.o 2)⟩)
    ∧ sOf 0x899FC300 = some (.mul ⟨false, .nil, .g 1, .reg (.o 2)⟩)
    ∧ sOf 0x289920400 = some (.mulh .uu ⟨false, .w 8, .g 1, .reg (.o 2)⟩)
    ∧ sOf 0x589920400 = some (.mulh .su ⟨true, .w 8, .g 1, .reg (.o 2)⟩)
    ∧ sOf 0x289920500 = some (.div true ⟨false, .w 8, .g 1, .reg (.o 2)⟩)
    ∧ sOf 0x189920600 = some (.rem false ⟨true, .w 8, .g 1, .reg (.o 2)⟩)
    ∧ sOf 0xB28D0700 = some (.and ⟨false, .z, .l 0, .reg (.i 0)⟩)
    ∧ sOf 0xAF5C4800 = some (.or ⟨false, .q .e, .pc, .reg (.l 3)⟩)
    ∧ sOf 0xCF05C900 = some (.xor ⟨false, .w 23, .q .n, .reg (.q .w)⟩) := by decide +kernel

theorem test_decode_class_a_immediates :
    sOf 0x811920B00 = some (.shl ⟨false, .w 8, .g 1, .s6 4⟩)
    ∧ sOf 0x9FD920C00 = some (.shr ⟨true, .w 8, .g 1, .s6 0x3F⟩)
    ∧ sOf 0x800000010000000801920D01 = some (.sra ⟨false, .w 8, .g 1, .i32 0x80000001⟩)
    ∧ sOf 0x70000000901920E01 = some (.rot ⟨true, .w 8, .g 1, .i32 7⟩)
    ∧ sOf 0x289921000 = some (.min true ⟨false, .w 8, .g 1, .reg (.o 2)⟩)
    ∧ sOf 0x805921100 = some (.max false ⟨false, .w 8, .g 1, .s6 1⟩)
    ∧ sOf 0x101921200 = some (.clz ⟨true, .w 8, .reg (.g 1)⟩)
    ∧ sOf 0x814021300 = some (.popc ⟨false, .w 8, .s6 5⟩)
    ∧ sOf 0xFFFFFFFF0000000800021801 = some (.mov ⟨false, .w 8, .i32 0xFFFFFFFF⟩)
    ∧ sOf 0x4045600 = some (.cmp false .lt 1 false (.w 0) (.reg (.w 1)))
    ∧ sOf 0x804805600 = some (.cmp false .eq 1 false (.w 8) (.s6 1))
    ∧ sOf 0x3248BD600 = some (.cmp true .ge 7 true (.w 8) (.reg (.w 9))) := by decide +kernel

theorem test_decode_long_extended_and_fixed :
    sOf 0x10000000000069901 = some (.li (.g 2) 1)
    ∧ sOf 0xDEADBEEF0000000000069A01 = some (.lih (.g 2) 0xDEADBEEF)
    ∧ sOf 0xFFFFFFF40000000000005B01 = some (.addpc (.w 1) 0xFFFFFFF4)
    ∧ sOf 0x960000000128920A01 = some (.ltab true (.w 8) (.w 9) (.w 10) 0x96)
    ∧ sOf 0x3F0000000028920F01 = some (.fsh false (.w 8) (.w 9) (.w 10) 63)
    ∧ sOf 0x11FC0000000000921401 = some (.bfx true (.w 8) (.w 9) 60 7)
    ∧ sOf 0x1430000000028921501 = some (.bfi (.w 8) (.w 9) (.w 10) 3 5)
    ∧ sOf 0x8B800000000000001C01 = some (.plog 3 1 2 0 0x80)
    ∧ sOf 0xB28921700 = some (.sel true 3 (.w 8) (.w 9) (.w 10))
    ∧ sOf 0x22500 = some (.ctxid (.w 8))
    ∧ sOf 0x500022600 = some (.levid (.w 8) 5)
    ∧ sOf 0x0 = some (.nop) := by decide +kernel

theorem test_decode_control_flow :
    sOf 0x11D00 = some (.br (.short 4))
    ∧ sOf 0xFFFFDD00 = some (.br (.short 0x3FFFF))
    ∧ sOf 0x1000000000000000001D01 = some (.br (.long 0x00100000))
    ∧ sOf 0x80005F00 = some (.call (.short 0x20001))
    ∧ sOf 0x100000000000801E01 = some (.jmp ⟨.w 8, 0x10⟩)
    ∧ sOf 0x801E00 = some (.jmp ⟨.w 8, 0⟩)
    ∧ sOf 0x2000 = some (.ret)
    ∧ sOf 0x2200 = some (.exit)
    ∧ sOf 0xFFFFFFFE0000000000002101 = some (.iter 0xFFFFFFFE)
    ∧ sOf 0xC0000000500002301 = some (.ctxstart 5 12)
    ∧ sOf 0xF00002400 = some (.ctxreap 15)
    ∧ sOf 0x100003C01 = some (.eret)
    ∧ sOf 0xBEEF0000000200003C01 = some (.brk 0xBEEF) := by decide +kernel

theorem test_decode_memory :
    sOf 0x601B22701 = some (.ld false 6 (.w 8) ⟨.g 3, 0⟩)
    ∧ sOf 0x80000000901B22701 = some (.ld true 1 (.w 8) ⟨.g 3, 8⟩)
    ∧ sOf 0x80000000601C06801 = some (.st 6 (.w 1) ⟨.g 4, 8⟩)
    ∧ sOf 0x1B3E900 = some (.vld 15 ⟨.g 3, 0⟩)
    ∧ sOf 0xFFFFFFE00000000001B1EA01 = some (.vst 7 ⟨.g 3, 0xFFFFFFE0⟩)
    ∧ sOf 0x125B12B00 = some (.bpack true 4 (.w 9) ⟨.g 3, 0⟩)
    ∧ sOf 0xC25B12C00 = some (.bunpk .e5m2 4 (.w 9) ⟨.g 3, 0⟩)
    ∧ sOf 0x701B22D00 = some (.ldfe true (.w 8) ⟨.g 3, 0⟩)
    ∧ sOf 0x601B22E00 = some (.stfe false (.w 8) ⟨.g 3, 0⟩)
    ∧ sOf 0xC85B02F00 = some (.feinit true 289 ⟨.g 3, 0⟩)
    ∧ sOf 0x125B23000 = some (.rst .dw (.w 8) (.w 9) ⟨.g 3, 0⟩)
    ∧ sOf 0x401B23000 = some (.rst .accF16 (.w 8) (.w 0) ⟨.g 3, 0⟩)
    ∧ sOf 0x101B23100 = some (.hold true (.w 8) ⟨.g 3, 0⟩)
    ∧ sOf 0x1B23200 = some (.hrel (.w 8) ⟨.g 3, 0⟩)
    ∧ sOf 0x10222B301 = some (.red .addI64 (.w 10) ⟨.o 2, 0⟩)
    ∧ sOf 0xF0222B301 = some (.red .fmaxF32 (.w 10) ⟨.o 2, 0⟩)
    ∧ sOf 0xA0222B400 = some (.xsum .f32 (.w 10) ⟨.o 2, 0⟩)
    ∧ sOf 0x222B500 = some (.xread (.w 10) ⟨.o 2, 0⟩)
    ∧ sOf 0x222B600 = some (.dwinit (.w 10) ⟨.o 2, 0⟩)
    ∧ sOf 0x222B700 = some (.dwwait (.w 10) ⟨.o 2, 0⟩) := by decide +kernel

theorem test_decode_sync_and_copy :
    sOf 0xE0000000000003801 = some (.fence .x .sys)
    ∧ sOf 0x50000000000003801 = some (.fence .a .die)
    ∧ sOf 0x100003801 = some (.spfence)
    ∧ sOf 0x400000000200803801 = some (.acq (.fe (.w 8)))
    ∧ sOf 0x9C00000000300003801 = some (.rls (.ch 9))
    ∧ sOf 0x123450850000000424803801 = some (.bind 5 (.w 8) 0x12345 (.dw (.w 9)))
    ∧ sOf 0xF0000000500003801 = some (.unbind 15)
    ∧ sOf 0x600003801 = some (.trig)
    ∧ sOf 0xB0000000700803801 = some (.chwait 11 (.w 8))
    ∧ sOf 0x40000000800023801 = some (.chread (.w 8) 4)
    ∧ sOf 0x100FFC00000000001B27901 = some (.copy (.w 9) (.g 3) 0xFFC0 true)
    ∧ sOf 0x1EE00400000000101B27901 = some (.gather (.w 9) (.g 3) 0x40 true 0xEE)
    ∧ sOf 0x400000000201BD3901 = some (.scatter .z (.g 3) 0x40)
    ∧ sOf 0x70000000300003901 = some (.cstage 7) := by decide +kernel

theorem test_decode_link :
    sOf 0x40000000000023A01 = some (.lease (.w 8) .e 1)
    ∧ sOf 0x20000000100003A01 = some (.unlease .w)
    ∧ sOf 0x201B27A01 = some (.lkopen (.w 9) (.g 3) .e false 0)
    ∧ sOf 0xFFC000070000000201B27A01 = some (.lkopen (.w 9) (.g 3) .n true 0xFFC0)
    ∧ sOf 0x1000010000000305B03A01 = some (.lkfeed .e 0 (.g 3) 1 1 16)
    ∧ sOf 0xFFFF0FFF00000003FDBDFA01 = some (.lkfeed .n 13 (.g 3) 63 0xFFF 0xFFFF)
    ∧ sOf 0x9520000000400A03A01 = some (.lksparse .w ⟨2, 1, 1, true⟩ (some (.w 10)))
    ∧ sOf 0x10000000500003A01 = some (.lkdrain .s .now)
    ∧ sOf 0x8000050000000501B03A01 = some (.lkdrain .s (.redrain (.g 3) 0x80))
    ∧ sOf 0x30000000600003A01 = some (.lkclose .n)
    ∧ sOf 0x60000000700033A01 = some (.lkstat (.w 12) .w 1)
    ∧ sOf 0x800003A01 = some (.lkwait .e .done)
    ∧ sOf 0x90000000800003A01 = some (.lkwait .s .prod)
    ∧ sOf 0x2000160000000901B03A01 = some (.cbload .w 5 (.g 3) 0x20)
    ∧ sOf 0x28000070000000A01B03A01 = some (.epload .n true (.g 3) 0x280) := by decide +kernel

theorem test_decode_queue_and_system :
    sOf 0x100000000000003B01 = some (.qbind (.bind .e 1))
    ∧ sOf 0x1030000000000003B01 = some (.qbind (.unbind .n))
    ∧ sOf 0x2F00000000000003B01 = some (.qbind (.free 15))
    ∧ sOf 0x3700000000000003B01 = some (.qbind (.nofree 7))
    ∧ sOf 0x1008CBB01 = some (.qctl .s (.w 8))
    ∧ sOf 0x20000000200803B01 = some (.qhnd .w (.w 8))
    ∧ sOf 0x8776CA010000000300003B01 = some (.lvset 1 (some ⟨3, 11, 11, 3, 1, 8⟩))
    ∧ sOf 0x60000000300003B01 = some (.lvset 6 none)
    ∧ sOf 0x60000000400023B01 = some (.lvread (.w 8) 6)
    ∧ sOf 0x5A0000000000923C01 = some (.trap (.w 8) 0x5A (.w 9))
    ∧ sOf 0x10000000300023C01 = some (.sysrd (.w 8) 1)
    ∧ sOf 0x20000000400503C01 = some (.syswr 2 (.w 5)) := by decide +kernel

theorem test_decode_lanes :
    vOf 0x0 = some (.vnop)
    ∧ vOf 0x300C841000000000 = some (.vadd true ⟨.i8, 1, 2, .v 3, 4⟩)
    ∧ vOf 0x8684802000000000 = some (.vsub false ⟨.f32, 0, 2, .o 1, 1⟩)
    ∧ vOf 0x8280883000000000 = some (.vmul ⟨.f32, 2, 2, .o 0, 0⟩)
    ∧ vOf 0x237BC4000000000 = some (.vfma ⟨.f16, 15, 14, .v 13, 0⟩)
    ∧ vOf 0x277BC5000000000 = some (.vmad ⟨.bf16, 15, 14, .v 13, 0⟩)
    ∧ vOf 0x1CC846000000000 = some (.vmin ⟨.n64, 1, 2, .v 3, 0⟩)
    ∧ vOf 0x18C847000000000 = some (.vmax ⟨.i64, 1, 2, .v 3, 0⟩)
    ∧ vOf 0x2080848000000000 = some (.vabs true ⟨.i16, 1, 2, 0⟩)
    ∧ vOf 0x1E80849000000000 = some (.vneg false ⟨.f32, 1, 2, 7⟩)
    ∧ vOf 0x200C853000000000 = some (.vdot true ⟨.i8, 1, 2, .v 3, 0⟩)
    ∧ vOf 0x10C854000000000 = some (.vqmul ⟨.i32, 1, 2, .v 3, 0⟩)
    ∧ vOf 0x140859000000000 = some (.vpopc ⟨.n32, 1, 2, 0⟩)
    ∧ vOf 0x28085A000000000 = some (.vrcp 1 2 0)
    ∧ vOf 0xE8085B000000000 = some (.vrsq 1 2 3)
    ∧ vOf 0x28085C000000000 = some (.vexp2 1 2 0) := by decide +kernel

theorem test_decode_lane_bits :
    vOf 0x9600150CA000000041 = some (.vltab 3 4 5 0 0x96)
    ∧ vOf 0xF208084B000000041 = some (.vshl .i16 1 2 (.imm 15) 0)
    ∧ vOf 0x10C84C000000000 = some (.vshr .i32 1 2 (.src (.v 3)) 0)
    ∧ vOf 0x951884D000000000 = some (.vsra .i32 1 2 (.src (.o 6)) 5)
    ∧ vOf 0x3F01CC84E000000041 = some (.vfsh .n64 1 2 3 0 63)
    ∧ vOf 0x2028404F000000041 = some (.vcmp .lt .f32 1 0 (.v 1) 0)
    ∧ vOf 0x180C850000000000 = some (.vsel 1 2 3 6)
    ∧ vOf 0xA800C851000000041 = some (.vmask 1 2 (.inr 3) 0 0xA)
    ∧ vOf 0xCA02C08D2000000041 = some (.vcvt .e4m3 3 2 0 .f32 .rne true 1)
    ∧ vOf 0x20280855000000041 = some (.vreduce .max ⟨.f32, 1, 2, 0⟩)
    ∧ vOf 0x3D0100856000000041 = some (.vscan .min true 7 ⟨.i32, 1, 2, 0⟩)
    ∧ vOf 0x4C857000000000 = some (.vperm .n8 1 2 3 0)
    ∧ vOf 0x1F0300858000000041 = some (.vbcast .e5m2 1 (.lane 2 31) 0)
    ∧ vOf 0x8298058000000000 = some (.vbcast .f32 1 (.o 6) 0) := by decide +kernel

theorem test_decode_epilogue :
    decodeEpi 0x0 = some (.eend)
    ∧ decodeEpi 0xD41 = some (.emov 5 .acc)
    ∧ decodeEpi 0x80007202 = some (.eadd true 0 (.e 1) .z)
    ∧ decodeEpi 0x3443 = some (.esub false 1 (.e 2) (.e 3))
    ∧ decodeEpi 0x3444 = some (.emul false 1 (.e 2) (.e 3))
    ∧ decodeEpi 0x80023445 = some (.efma true 1 (.e 2) (.e 3) (.e 4))
    ∧ decodeEpi 0x3446 = some (.emin false 1 (.e 2) (.e 3))
    ∧ decodeEpi 0x80003447 = some (.emax true 1 (.e 2) (.e 3))
    ∧ decodeEpi 0x440448 = some (.eshrImm 1 (.e 2) 17)
    ∧ decodeEpi 0x803448 = some (.eshrReg 1 (.e 2) (.e 3))
    ∧ decodeEpi 0x3449 = some (.eqmul 1 (.e 2) (.e 3))
    ∧ decodeEpi 0x81A00C4A = some (.ecvt true 1 .acc .f16 .rup true)
    ∧ decodeEpi 0x2344B = some (.ezpc false 1 (.e 2) (.e 3) (.e 4))
    ∧ decodeEpi 0x8000044C = some (.erelu true 1 (.e 2))
    ∧ decodeEpi 0xE344D = some (.esel false 1 (.e 2) (.e 3) (.e 4) .eq)
    ∧ decodeEpi 0x14004E = some (.eldc false 1 .csum)
    ∧ decodeEpi 0x8018004E = some (.eldc true 1 .kv)
    ∧ decodeEpi 0x60F = some (.ewr (.e 3)) := by decide +kernel

/-- The detail words of refused bundles: the lowest bit of the offending field (R99), of BFI's reserved fields <12> and <31:13> (R285),
LKDRAIN's <16> (R324), VABS's vfunc<2> (R361), and CTXSTART and CTXREAP of context 0 (R74). -/
def refusedAt (w : Nat) : Option DecErr :=
  match decodeBundle false 0 w with
  | .error e => some e
  | .ok _ => none
theorem test_decode_refusals :
    refusedAt (0x1430000000028921501 + 2 ^ 76) = some (.illegal 0x09 1 76)
    ∧ refusedAt (0x1430000000028921501 + 2 ^ 77) = some (.illegal 0x09 1 77)
    ∧ refusedAt (0x10000000500003A01 + 2 ^ 80) = some (.illegal 0x09 1 80)
    ∧ refusedAt (0x2080848000000000 + 2 ^ 63) = some (.illegal 0x09 2 63)
    ∧ refusedAt 0xC0000000000002301 = some (.illegal 0x0C 1 32) ∧ refusedAt 0x2400 = some (.illegal 0x0C 1 32) := by decide +kernel

/-! ### Well-formedness refuses (R42, R68, R73, R80, R81, R86 to R90, R97, and the entries) -/

/-- One ill-formed term for each check of the S operations. -/
theorem test_wf_refuses_s :
    [Instr.add ⟨false, .l 0, .w 0, .s6 0⟩, .add ⟨false, .w 0, .nil, .s6 0⟩, .add ⟨false, .w 0, .w 0, .reg .nil⟩,
      .mov ⟨false, .pc, .s6 0⟩, .ltab false .z (.w 0) (.w 0) 0, .fsh true (.w 0) (.w 0) (.w 0) 32, .bfi (.w 0) (.w 0) .nil 0 0,
      .cmp true .eq 1 false (.w 0) (.s6 0), .ctxstart 0 12, .ctxreap 0, .sel false 0 .pc (.w 0) (.w 0), .lih (.q .e) 0, .jmp ⟨.nil, 0⟩, .levid (.l 1) 0,
      .ld false 0 .pc ⟨.w 0, 0⟩, .bpack false 3 (.w 0) ⟨.w 0, 0⟩, .rst .fe (.w 0) (.w 1) ⟨.w 0, 0⟩, .xsum .i32 (.w 0) ⟨.w 0, 0⟩,
      .xread (.o 0) ⟨.w 0, 0⟩, .acq (.hw .z), .rls (.ch 1), .bind 0 (.w 0) 0 (.ch 0), .chwait 3 (.w 0), .copy (.o 0) (.w 0) 0 false,
      .scatter .z .pc 0, .lease (.o 0) .e 0, .lkopen (.w 0) .z .e false 0, .lkfeed .e 0 (.w 0) 0 0 0,
      .lksparse .e ⟨3, 1, 0, false⟩ none, .lksparse .e ⟨0, 0, 1, false⟩ none, .lksparse .e ⟨2, 1, 0, false⟩ (some (.l 0)),
      .lksparse .e ⟨0, 1, 0, false⟩ (some (.w 0)), .lkdrain .e (.redrain .z 0), .cbload .e 0 .nil 0, .qhnd .e (.l 0),
      .lvset 0 (some ⟨0, 0, 0, 0, 0, 17⟩), .trap .pc 0 (.w 0), .sysrd (.w 0) 0x06, .syswr 0x29 (.w 0)].all (fun i => !i.wfS) = true := by
  decide

/-- The same for the V operations and the epilogue operations; an event is none of them. -/
theorem test_wf_refuses_v_e :
    [Instr.vadd true ⟨.f32, 0, 0, .v 0, 0⟩, .vmul ⟨.e4m3, 0, 0, .v 0, 0⟩, .vshl .i8 0 0 (.imm 8) 0, .vshl .f16 0 0 (.src (.v 0)) 0,
      .vfsh .i16 0 0 0 0 16, .vcmp .eq .e5m2 0 0 (.v 0) 0, .vcvt .f32 0 0 0 .i8 .rne false 4, .vdot true ⟨.n8, 0, 0, .v 0, 0⟩,
      .vqmul ⟨.i64, 0, 0, .v 0, 0⟩, .vreduce .add ⟨.e4m3, 0, 0, 0⟩, .vperm .f32 0 0 0 0, .vbcast .i32 0 (.lane 0 8) 0,
      .vpopc ⟨.f32, 0, 0, 0⟩, .add ⟨false, .w 0, .w 0, .s6 0⟩].all (fun i => !i.wfV) = true
    ∧ [Instr.ecvt false 0 .z .i16 .rne false, .eldc true 0 .rsum, .vnop].all (fun i => !i.wfE) = true
    ∧ (Instr.powerLoss.wfS || Instr.powerLoss.wfV || Instr.powerLoss.wfE) = false := by decide

/-- One ill-formed bundle for each check of the whole bundle: PNEG with p0, a missing extension, an extension that is not taken, a
V extension missing, a destination of both slots, a queue register twice, a privileged access. -/
theorem test_wf_refuses_bundles :
    [Bundle.mk .b64 0 true .nop .vnop, ⟨.b64, 0, false, .li (.w 0) 1, .vnop⟩, ⟨.b96s, 0, false, .br (.short 1), .vnop⟩,
      ⟨.b64, 0, false, .jmp ⟨.w 0, 4⟩, .vnop⟩, ⟨.b96s, 0, false, .nop, .vcmp .ne .i8 1 0 (.v 0) 0⟩,
      ⟨.b64, 0, false, .vld 3 ⟨.w 0, 0⟩, .vsel 3 1 2 0⟩, ⟨.b64, 0, false, .add ⟨false, .w 0, .q .e, .reg (.q .e)⟩, .vnop⟩,
      ⟨.b96s, 0, false, .syswr 0x10 (.w 0), .vnop⟩, ⟨.b64, 0, false, .vnop, .vnop⟩].all (fun b => !b.wf) = true := by decide


/-! ### The spec's worked examples -/

/-- A state whose acting context, context 0 of core 0, holds what `f` gives it. -/
def meS (f : Ctx → Ctx) : State := State.reset.modMe f
/-- The same with registers written. -/
def regS (l : List (Reg × Word)) : State := meS (fun x => l.foldl (fun x e => x.write e.1 e.2) x)
/-- The same with vectors written. -/
def vecS (l : List (Fin 16 × Nat)) : State := meS (fun x => l.foldl (fun x e => x.writeV e.1 (BitVec.ofNat 256 e.2)) x)
/-- An instruction answers a next state of which `p` holds. -/
def gives (i : Instr) (s : State) (p : State → Bool) : Bool :=
  match exec i s with
  | .next t => p t
  | _ => false
/-- A class A operation on w1 and w2 leaves `r` in w8, and in l0. -/
def aluGives (f : AluOps → Instr) (w32 : Bool) (a b r : Word) : Bool :=
  gives (f ⟨w32, .w 8, .w 1, .reg (.w 2)⟩) (regS [(.w 1, a), (.w 2, b)]) (fun t =>
    t.me.read (.w 8) == r && t.me.read (.l 0) == r && t.me.pc == 8)

/-- The table of R333. -/
theorem test_mul_max_min :
    (aluGives (.mulh .ss) false 0xFFFFFFFFFFFFFFFF 2 0xFFFFFFFFFFFFFFFF && aluGives (.mulh .uu) false 0xFFFFFFFFFFFFFFFF 2 1
      && aluGives (.mulh .su) false 0xFFFFFFFFFFFFFFFF 2 0xFFFFFFFFFFFFFFFF && aluGives .mul true 0x80000000 2 0
      && aluGives (.min true) false 5 0xFFFFFFFFFFFFFFFF 5) = true := by decide +kernel

/-- The table of R349. -/
theorem test_shifts :
    (aluGives .shr false 0xFFFFFFFF00000010 4 0x0FFFFFFFF0000001 && aluGives .sra false 0xFFFFFFFF00000010 4 0xFFFFFFFFF0000001
      && aluGives .shr true 0x80000000 0 0xFFFFFFFF80000000 && aluGives .shr true 0x80000010 4 0x08000001
      && aluGives .sra true 0x80000010 4 0xFFFFFFFFF8000001 && aluGives .shl false 1 65 2) = true := by decide +kernel

/-- A division of R342: the remainder, and the cycle of its write. -/
def remGives (u : Bool) (a b r : Word) (cycles : Nat) : Bool :=
  gives (.rem u ⟨false, .w 8, .w 1, .reg (.w 2)⟩) { regS [(.w 1, a), (.w 2, b)] with agenda := [] } (fun t =>
    t.agenda == [(cycles, .replyWrite 0 0 1 (.word r))] && t.me.pc == 0)
theorem test_rem :
    (remGives false 7 (-2) 1 6 && remGives false (-7) 2 (-1) 6 && remGives true 7 (-2) 7 4 && remGives false 9 0 9 68) = true := by
  decide +kernel

/-- The example of R285. -/
theorem test_bfx_past_bit_63 :
    gives (.bfx true (.w 8) (.w 9) 60 7) (regS [(.w 9, 0xF000000000000000)]) (fun t => t.me.read (.w 8) == 15) = true := by decide +kernel

/-- Sums wrap, and a 32-bit result is sign-extended (R280); w8 is source and destination. -/
theorem test_add_wraps :
    (aluGives .add false 0xFFFFFFFFFFFFFFFF 1 0 && aluGives .add true 0x7FFFFFFF 1 0xFFFFFFFF80000000
      && gives (.sub ⟨false, .w 8, .w 8, .reg (.w 8)⟩) (regS [(.w 8, 5)]) (fun t => t.me.read (.w 8) == 0)) = true := by decide +kernel

/-- A truth table's index is 4 x + 2 y + z (R274, R330, R336). -/
theorem test_tables :
    (gives (.ltab false (.w 8) (.w 1) (.w 2) 0xF0) (regS [(.w 8, 1), (.w 1, 0x0F), (.w 2, 2)]) (fun t => t.me.read (.w 8) == 0x0F)
      && gives (.plog 1 0 2 3 0x80) State.reset (fun t => !t.me.readP 1) && gives (.plog 1 0 2 3 0x10) State.reset (fun t => t.me.readP 1))
      = true := by decide +kernel

/-- p0 takes no write (R296); a comparison is of the low halves with .w. -/
theorem test_cmp :
    (gives (.cmp false .lt 1 true (.w 1) (.reg (.w 2))) (regS [(.w 1, 0x80000000), (.w 2, 1)]) (fun t => t.me.readP 1)
      && gives (.cmp false .lt 1 false (.w 1) (.reg (.w 2))) (regS [(.w 1, 0x80000000), (.w 2, 1)]) (fun t => !t.me.readP 1)
      && gives (.cmp true .gt 0 false (.w 1) (.reg (.w 2))) State.reset (fun t => t.me.readP 0)) = true := by decide +kernel

/-- A CALL and its RET: the callee's w0 is the caller's w16, its w8 the return address (R71, R291). -/
theorem test_call :
    gives (.call (.short 4)) { regS [(.w 16, 7), (.w 8, 9)] with curLen := 8 } (fun t =>
      t.me.pc == 16 && t.me.read (.w 0) == 7 && t.me.read (.w 8) == 8 && t.me.depth == 2
        && gives .ret t (fun u => u.me.pc == 8 && u.me.read (.w 8) == 9 && u.me.read (.w 16) == 7 && u.me.depth == 1)) = true := by decide +kernel

/-- BRK on a steward core with a handler: w0 is the code of F_BREAK, 0x17, w1 its address and w3 its immediate (R239, R289, R383). -/
def stewardS : State := ({ State.reset with curCore := 2304 }.modMe (fun x => { x with st := .running, pc := 64 })).modSteward 0
  (fun k => { k with stvec := 4096 })
theorem test_brk :
    gives (.brk 5) stewardS (fun t => t.me.pc == 4096 && t.me.read (.w 1) == 64 && t.me.read (.w 3) == 5 && t.me.trapDepth == 1
      && t.me.read (.w 0) == BitVec.ofNat 64 (fcNum .brk) && t.noEffect) = true := by decide +kernel

/-- A store and a load of two bytes at the last place a core without window stacks has; a signed load extends (R316, R351). -/
theorem test_store_then_load :
    gives (.st 2 (.w 1) ⟨.w 2, 0⟩) (regS [(.w 1, 0x1234F00D), (.w 2, 0x1FFFE)]) (fun t =>
      t.mem == [(2 ^ 52 + 0x1FFFE, 0x0D), (2 ^ 52 + 0x1FFFF, 0xF0)]
        && gives (.ld false 2 (.w 8) ⟨.w 2, 0⟩) t (fun u => u.me.read (.w 8) == 0xFFFFFFFFFFFFF00D)
        && gives (.ld false 3 (.w 8) ⟨.w 2, 0⟩) t (fun u => u.me.read (.w 8) == 0xF00D)) = true := by decide +kernel

/-- LDFE takes a full word and empties it; STFE of it then fills it (R317, R352). -/
theorem test_full_empty :
    gives (.ldfe true (.w 8) ⟨.z, 8⟩) { State.reset with full := [2 ^ 52 + 8], mem := [(2 ^ 52 + 8, 7)] } (fun t =>
      t.full == [] && t.me.read (.w 8) == 7 && gives (.stfe true (.w 8) ⟨.z, 8⟩) t (fun u => u.full == [2 ^ 52 + 8])) = true := by decide +kernel

/-- The example of R290: a block in E4M3B, three elements present. -/
theorem test_bunpk :
    gives (.bunpk .f32 2 (.o 1) ⟨.g 3, 0x400⟩)
      { State.reset with mem := memPut [] (2 ^ 52 + 0x400) [3, 0x80, 7, 0, 0, 0, 0, 0, 0x38, 0x34, 0x7F, 0x40] }
      (fun t => t.me.readV 2 == BitVec.ofNat 256 0x7FC000003FC0000040000000 && t.me.flags == Flags.zero) = true := by decide +kernel

/-- The example of R365: VDOT gives 38 and VDOT.su 294. -/
theorem test_vdot :
    (gives (.vdot false ⟨.i8, 1, 2, .v 3, 0⟩) (vecS [(1, 10), (2, 0x04030201), (3, 0x040302FF)]) (fun t => t.me.readV 1 == 38)
      && gives (.vdot true ⟨.i8, 1, 2, .v 3, 0⟩) (vecS [(1, 10), (2, 0x04030201), (3, 0x040302FF)]) (fun t => t.me.readV 1 == 294)) = true := by
  decide +kernel

/-- The examples of R366, R373 and R375, in lane 0. -/
def lane0 (i : Instr) (a r : Nat) : Bool := gives i (vecS [(2, a)]) (fun t => (t.me.readV 1).toNat % 2 ^ 32 == r)
theorem test_lane_functions :
    (lane0 (.vexp2 1 2 0) 0x40400000 0x41000000 && lane0 (.vexp2 1 2 0) 0xBF800000 0x3F000000 && lane0 (.vexp2 1 2 0) 0x3F000000 0x3FB504F3
      && lane0 (.vrcp 1 2 0) 0x3F800000 0x3F800000 && lane0 (.vrcp 1 2 0) 0xC0800000 0xBE800000 && lane0 (.vrcp 1 2 0) 1 0x7F800000
      && lane0 (.vrsq 1 2 0) 0x3F800000 0x3F800000 && lane0 (.vrsq 1 2 0) 0x40800000 0x3F000000 && lane0 (.vrsq 1 2 0) 0x3E800000 0x40000000)
      = true := by decide +kernel

/-- The example of R364: bytes 8 to 15 of v3 are 7E 7E BC 00 38 38 38 38, with OF and NX. -/
theorem test_vcvt :
    gives (.vcvt .e4m3 3 2 0 .f32 .rne true 1)
      (vecS [(2, 0x3F8000003F8000003F8000003F80000000000000BFC0000043E8800043E00000)])
      (fun t => t.me.readV 3 == BitVec.ofNat 256 (0x3838383800BC7E7E * 2 ^ 64) && t.me.flags == ⟨false, false, true, false, true⟩) = true := by
  decide +kernel

/-- The edges of R55: type, mode, saturating, input, result, flags NV DZ OF UF NX. -/
theorem test_conversions :
    [(Ty.f32, Ty.e4m3, Rm.rne, true, 0x43E00000, 0x7E, Flags.zero), (.f32, .e4m3, .rne, false, 0x43E80000, 0x7E, ⟨false, false, false, false, true⟩),
      (.f32, .e4m3, .rne, false, 0x43E88000, 0x7F, ⟨true, false, true, false, true⟩), (.f32, .e4m3, .rne, true, 0x43E88000, 0x7E, ⟨false, false, true, false, true⟩),
      (.f32, .f16, .rne, false, 0x477FF000, 0x7C00, ⟨false, false, true, false, true⟩), (.f32, .f16, .rtz, false, 0x477FF000, 0x7BFF, ⟨false, false, false, false, true⟩),
      (.f32, .f16, .rtz, false, 0x47800000, 0x7BFF, ⟨false, false, true, false, true⟩), (.f32, .i8, .rne, true, 0x43960000, 127, ⟨false, false, false, false, true⟩),
      (.f32, .i8, .rne, false, 0x43960000, 127, ⟨true, false, false, false, false⟩), (.f32, .f16, .rne, false, 0x33C00000, 2, ⟨false, false, false, true, true⟩),
      (.f32, .bf16, .rne, true, 0xFF800000, 0xFF7F, Flags.zero), (.f32, .i8, .rne, true, 0x7FC00001, 0, ⟨true, false, false, false, false⟩),
      (.f32, .n8, .rne, true, 0x7F800000, 255, Flags.zero), (.f32, .i32, .rne, false, 0xBFC00000, 0xFFFFFFFE, ⟨false, false, false, false, true⟩),
      (.f32, .i32, .rtz, false, 0xBFC00000, 0xFFFFFFFF, ⟨false, false, false, false, true⟩), (.e5m2, .f32, .rne, false, 0x7B, 0x47600000, Flags.zero),
      (.bf16, .f32, .rne, false, 1, 0x10000, Flags.zero), (.e4m3, .f16, .rne, false, 0xFF, 0x7E00, Flags.zero)].all
      (fun c => convertTy c.1 c.2.1 c.2.2.1 c.2.2.2.1 c.2.2.2.2.1 == (c.2.2.2.2.2.1, c.2.2.2.2.2.2)) = true := by decide +kernel

/-- An addition at the top of a lane wraps, and saturates with .sat; the mask guards bytes (R360, R361). -/
theorem test_vadd :
    (gives (.vadd false ⟨.i8, 1, 2, .v 3, 0⟩) (vecS [(2, 0x7F), (3, 1)]) (fun t => t.me.readV 1 == 0x80)
      && gives (.vadd true ⟨.i8, 1, 2, .v 3, 0⟩) (vecS [(2, 0x7F), (3, 1)]) (fun t => t.me.readV 1 == 0x7F)
      && gives (.vadd false ⟨.i16, 1, 2, .v 3, 1⟩) ((vecS [(1, 0xAAAA), (2, 0x0101), (3, 0x0101)]).modMe (fun x => x.writeM 1 2))
        (fun t => t.me.readV 1 == 0x02AA)) = true := by decide +kernel

/-- The trace of C1 in "A worked three-stage pipeline" (R155): occupancies 12, 14, 16, 16, 10, 0, 0 give these wc, wp. -/
def levTrace (occs : List Nat) : List (Nat × Nat) :=
  let l : Lev := { fifo := false, dir := .w, prodFar := true, prodCtx := 1, cons := 1, en := true, setp := 8, gp := 1, gi := 3, wp0 := 12,
                   wc0 := 12, period := 64, integ := 0, ez := 0, fz := 0, occ := 0, wc := 12, wp := 12, n := 0, nextAt := 0 }
  (occs.foldl (fun (acc : Lev × List (Nat × Nat)) o =>
    let s : State := State.reset.modCore 1 (fun k => { k with
      qin := k.qin.set 2 (List.replicate o ⟨0, false⟩), lev := Table.empty.set 0 { acc.1 with nextAt := 0 } })
    match exec (.levellingSample 1 0) s with
    | .next t => (match (t.core 1).lev.find 0 with
      | some z => (z, acc.2 ++ [(z.wc, z.wp)])
      | none => acc)
    | _ => acc) (l, [])).2
theorem test_levelling :
    levTrace [12, 14, 16, 16, 10, 0, 0] = [(16, 4), (16, 1), (16, 1), (16, 1), (16, 8), (1, 16), (1, 16)] := by decide +kernel

/-! ### Small states -/

/-- A launch record of a team of one core, with window stacks of 1 KiB; a team of it, on core 0, in graph slot 0. -/
def lr1 : LRec := ⟨0, 0, 4, 0, 8, 4, 1, 0, [3, 2, 1, 1], [⟨1, 1, 0⟩], [], [], [], [], []⟩
def team1 : Team :=
  { slot := 0, node := 0, die := 0, ox := 0, oy := 0, variant := 0, lr := lr1, codeBase := 2 ^ 32, st := .running, placedAt := 0, readyAt := 0,
    stage := 0, scheds := [], next := 0, halt := none, stages := [], trigs := [], saved := [], savedCtx := [], savedCore := [], late := [] }
/-- Core 0 is in that team, which is number 1. -/
def teamS : State := { State.reset with
  teams := Table.empty.set 1 team1
  cores := Table.empty.set 0 { Core.idle with team := some 1 }
  ctxs := Table.empty.set 0 { Ctx.idle with st := .running } }

/-- ITER on the chunk [3, 5) of extents 3 and 2 gives 3 = (0, 1), and branches when claims are exhausted (the example of R314). -/
theorem test_iter :
    (gives (.iter 4) (teamS.modCore 0 (fun k => { k with fetch := ⟨some (3, 5), none, false, false⟩ })) (fun t =>
        t.me.read (.i 0) == 0 && t.me.read (.i 1) == 1 && t.me.read (.l 0) == 3 && t.me.pc == 8)
      && gives (.iter 4) (teamS.modCore 0 (fun k => { k with fetch := ⟨none, none, false, true⟩ })) (fun t => t.me.pc == 16)) = true := by
  decide +kernel

/-- The claims of R226's example: the sizes of 29 chunks of 1,000 iterations on four cores, F = 2, Cmin = 8. -/
def claimSizes : Nat → State → List Nat
  | 0, _ => []
  | n + 1, s => match exec (.iterationClaim 0) s with
    | .next t => ((t.teams.find 1).elim 0 (·.next) - (s.teams.find 1).elim 0 (·.next)) :: claimSizes n t
    | _ => []
theorem test_claims :
    claimSizes 30 (teamS.modTeam 1 (fun u => { u with lr := { lr1 with ext := [10, 100, 1, 1], vars := [⟨2, 2, 0⟩], ff := 2, cmin := 8 } }))
      = [125, 110, 96, 84, 74, 64, 56, 49, 43, 38, 33, 29, 25, 22, 19, 17, 15, 13, 11, 10, 9, 8, 8, 8, 8, 8, 8, 8, 2, 0] := by decide +kernel

/-! ### Witnesses: concrete states and operands that meet the hypotheses of the statements, clause by clause -/

def isNext (r : Res) : Bool :=
  match r with
  | .next _ => true
  | _ => false
theorem next_of_isNext {r : Res} (h : isNext r = true) : ∃ t, r = .next t := by
  cases r <;> simp_all [isNext]

theorem witness_EncodingsRoundTrip :
    (Bundle.mk .b96s 7 true (.add ⟨true, .w 23, .q .w, .i32 0xFFFFFFFF⟩) .vnop).wf = true ∧ 20 + Shape.bytes .b96s ≤ 32
    ∧ (Bundle.mk .b128 0 false (.lksparse .n ⟨2, 2, 2, true⟩ (some (.w 1))) (.vltab 15 14 13 7 0xFF)).wf = true ∧ 16 + Shape.bytes .b128 ≤ 32
    ∧ (Instr.esel true 5 (.e 5) (.e 0) .acc .lt).wfE = true := by decide +kernel

/-- A state whose next step fetches the bundle `w`, or runs the epilogue word `w`. -/
def fetchS (w : Nat) : State := State.reset.withFetchWord 64 w
def pageE : TlbE := ⟨0, Config.globalBase, 65536, 0, attrR + attrX + attrRES⟩
def fetchOk (s : State) : Bool :=
  s.powered && s.epi.isNone && s.dueInput.isNone && s.dueEvent.isNone && s.nextCore == some 0 && s.slotUse 0 == .issue 0
    && (s.ctx 0 0).pc.toNat % 4 == 0 && s.fetchXlate 0 0 (s.ctx 0 0).pc.toNat == .hit pageE
    && hasAttr pageE.attr attrX && hasAttr pageE.attr attrRES
def fetched (s : State) : Except DecErr Bundle := decodeBundle false 0 (memLe s.mem 16 (pageE.phys (s.ctx 0 0).pc.toNat))

/-- A word refused by decode, one that a false predicate skips, one that runs alone, and one whose V operation runs. -/
theorem witness_StepRunsTheDecoded_slots :
    fetchOk (fetchS 3) = true ∧ fetched (fetchS 3) = .error (.illegal 1 0 0)
    ∧ fetchOk (fetchS 4) = true ∧ fetched (fetchS 4) = .ok ⟨.b64, 1, false, .nop, .vnop⟩ ∧ ((fetchS 4).ctx 0 0).readP 1 = false
    ∧ fetchOk (fetchS 0) = true ∧ fetched (fetchS 0) = .ok ⟨.b64, 0, false, .nop, .vnop⟩ ∧ ((fetchS 0).ctx 0 0).readP 0 ≠ false
    ∧ fetchOk (fetchS (0x14 * 2 ^ 32)) = true := by decide +kernel

theorem witness_StepRunsTheDecoded_events :
    (let s := State.reset.withFetchWord 32 0
     s.powered = true ∧ (s.epi.map (·.word)) = some 0 ∧ ((s.eng 0).passing.bind (·.image)).isSome = true ∧ decodeEpi 0 = some .eend)
    ∧ (let s := { State.reset with inputs := [(0, Instr.kick 0 0)] }
       s.powered = true ∧ s.epi = none ∧ 0 ≤ s.now ∧ isInput (.kick 0 0) = true)
    ∧ (let s := { State.reset with agenda := [(0, Instr.bootStage 2)] }
       s.powered = true ∧ s.epi = none ∧ 0 ≤ s.now ∧ s.dueInput = none ∧ isThrottle (.bootStage 2) = false ∧ s.bankLevel (.bootStage 2) = 0)
    ∧ isThrottle (.throttleStepEnd 0) = true
    ∧ (let i := Instr.loaderFetch 0 false
       let s := { State.reset with agenda := [(0, i)] }
       s.dueInput = none ∧ isThrottle i = false ∧ s.dueEvent = none ∧ s.nextCore = none ∧ s.bankLevel i ≠ 0)
    ∧ (let s := { State.reset with agenda := [] }
       s.powered = true ∧ s.epi = none ∧ s.dueInput = none ∧ s.dueEvent = none ∧ s.nextCore = none ∧ s.dueBank = none
       ∧ (s.ctx s.curCore s.curCtx).park = none)
    ∧ ((meS (fun x => { x with park := some (.result 9 8 .none) })).ctx 0 0).park = some (.result 9 8 .none) := by decide +kernel

theorem witness_StepKeepsInv : State.reset.Inv ∧ ∃ t, step State.reset = .next t :=
  ⟨by unfold State.Inv Ctx.nested; decide, next_of_isNext (by decide +kernel)⟩

/-- Core 0's queue toward W holds an entry and is bound to context 0; its queue toward E has a credit. -/
def queueS : State := { teamS with cores := Table.empty.set 0 { Core.idle with
  team := some 1
  qin := Table.empty.set 2 [⟨7, false⟩]
  credits := Table.empty.set 0 1
  qbind := [(0, 0, some 0), (0, 2, some 0)] } }

/-- Every form of operand: registers, l0, z, an immediate, a queue popped and a queue pushed, with DBGHZ on. -/
theorem witness_AluResults :
    State.reset.ready (.l 0 :: srcs2 (.s6 0x3F)) (some .nil) = true ∧ queueS.ready (.q .w :: srcs2 (.reg .z)) (some (.q .e)) = true
    ∧ ({ queueS with dbghz := true }).ready (.w 0 :: srcs2 (.reg (.q .w))) (some (.q .e)) = true
    ∧ State.reset.ready (srcs2 (.i32 0)) (some (.w 23)) = true := by decide +kernel

theorem witness_DivideAndBitResults :
    queueS.ready (.q .w :: srcs2 (.s6 0)) (some (.q .e)) = true ∧ queueS.ready (srcs2 (.reg (.q .w))) (some (.q .e)) = true
    ∧ queueS.ready [.q .w, .pc] (some (.q .e)) = true ∧ queueS.ready [.q .w] (some (.q .e)) = true
    ∧ State.reset.ready [.w 8, .w 8, .z] (some (.w 8)) = true := by decide +kernel

theorem witness_PredicateAndImmediateResults :
    queueS.ready (.q .w :: srcs2 (.s6 0)) none = true ∧ queueS.ready [.q .w, .z] (some (.q .e)) = true ∧ queueS.ready [] (some (.q .e)) = true
    ∧ State.reset.ready [.g 7] (some (.g 7)) = true := by decide +kernel

theorem witness_PutEffect :
    putShape (.add ⟨false, .w 8, .w 8, .s6 1⟩) = some ([.w 8], .w 8)
    ∧ gives (.add ⟨false, .w 8, .w 8, .s6 1⟩) State.reset (fun t => !t.noEffect) = true
    ∧ putShape (.mov ⟨false, .q .e, .reg (.q .w)⟩) = some ([.q .w], .q .e)
    ∧ gives (.mov ⟨false, .q .e, .reg (.q .w)⟩) queueS (fun t => !t.noEffect) = true ∧ State.reset.noEffect = false
    ∧ isPlainDst (.w 8) = true ∧ queueDirs [Reg.w 8, .w 8] = [] := by decide +kernel

/-- ITER with an index to deal, with the claims exhausted, and with a claim to wait for. -/
theorem witness_TransfersAndIterations :
    State.reset.ready [.z] none = true
    ∧ (let s := teamS.modCore 0 (fun k => { k with fetch := ⟨some (5, 6), none, false, false⟩ })
       (s.core 0).fetch.front.cur = some (5, 6) ∧ s.teamOf 0 = some (1, team1) ∧ team1.lr.ext = [3, 2, 1, 1] ∧ s.iterBehind = false)
    ∧ (let s := { (teamS.modCore 0 (fun k => { k with fetch := ⟨some (5, 6), none, false, false⟩ })).setCtx 0 1 { Ctx.idle with
         st := .running, park := some (.cond .iter none), since := some 3 } with now := 4 }
       s.iterBehind = true ∧ (s.core 0).fetch.front.exhausted = false)
    ∧ (let s := teamS.modCore 0 (fun k => { k with fetch := ⟨some (6, 6), none, false, true⟩ })
       (s.core 0).fetch.front.cur = none ∧ (s.core 0).fetch.front.exhausted = true)
    ∧ (let s := teamS
       (s.core 0).fetch.front.cur = none ∧ (s.core 0).fetch.front.exhausted = false) := by decide +kernel

/-- Core 0's context 0 at depth 4 with its windows resident: a CALL needs a spill; at the greatest depth of a core without window stacks. -/
def deepX (n : Nat) (op : Opener) : Ctx := { Ctx.idle with st := .running, openers := List.replicate n op }
theorem witness_WindowsOpenAndClose :
    (State.reset.me.depth + 1 ≤ 4 + State.reset.wss 0 / 128 ∧ State.reset.me.room = .free ∧ State.reset.me.pend = [])
    ∧ (let s := meS (fun _ => deepX 3 .call)
       4 + s.wss 0 / 128 < s.me.depth + 1)
    ∧ (let s := meS (fun _ => { deepX 1 .call with wins := Table.empty.set 1 ⟨.empty, false⟩ })
       s.ready [.w 8] none = true ∧ s.me.depth ≠ 1 ∧ s.me.openers.head? ≠ some .trap ∧ s.me.resident (s.me.depth - 1) = true)
    ∧ (State.reset.ready [.w 8] none = true ∧ State.reset.me.depth = 1)
    ∧ (meS (fun _ => deepX 1 .trap)).me.openers.head? = some .trap := by decide +kernel

theorem witness_ContextOps :
    State.reset.ready [] (some (.w 8)) = true ∧ State.reset.curCore < Config.cores ∧ State.reset.curCtx < 16
    ∧ teamS.ready [] (some .nil) = true ∧ teamS.teamOf teamS.curCore = some (1, team1) ∧ team1.lr.lev.length ≤ (0 : BitVec 3).toNat
    ∧ (let u := { team1 with lr := { lr1 with lev := [(1, 1)] } }
       (teamS.modTeam 1 (fun _ => u)).teamOf 0 = some (1, u) ∧ ¬ u.lr.lev.length ≤ (0 : BitVec 3).toNat)
    ∧ State.reset.me.flogn = 0 ∧ State.reset.me.held = [] ∧ State.reset.me.pend = []
    ∧ State.reset.curCtx = 0 ∧ (15 : BitVec 4) ≠ 0 ∧ (State.reset.ctx 0 15).st = .idle ∧ (State.reset.core 0).ctxOut 15 = false
    ∧ (State.reset.ctx 0 15).st ≠ .running ∧ ({ State.reset with curCtx := 1 }).curCtx ≠ 0
    ∧ (State.reset.ctx 0 15).demands.cells = []
    ∧ ((State.reset.modCtx 0 15 (fun x => { x with demands := Table.empty.set 0 5 })).ctx 0 15).demands.cells ≠ [] := by decide +kernel

/-- On a steward core with a handler, at trap depths 0 and 1; with w16 pending. -/
theorem witness_TrapEntry :
    (∀ n, n < 2 → let s := stewardS.modMe (fun x => { x with trapDepth := n, openers := List.replicate n .trap, pend := [⟨9, x.locW 16, false, none⟩] })
      (s.ctx 2304 0).trapDepth < 2 ∧ (s.ctx 2304 0).depth + 1 ≤ 4 + s.wss 2304 / 128 ∧ s.handler 2304 = some 4096
      ∧ (s.ctx 2304 0).room = .free) ∧ FCode.illegal ≠ .soft ∧ FCode.illegal ≠ .holdGrace := by decide +kernel

theorem witness_ExceptionReturnAndFatal :
    (let s := meS (fun _ => { deepX 1 .trap with trapDepth := 1, wins := Table.empty.set 1 ⟨.empty, false⟩ })
     s.ready [.w 1, .w 11] none = true ∧ s.me.trapDepth ≠ 0 ∧ s.me.trapDepth ≤ s.me.openers.count .trap ∧ s.me.resident (s.me.depth - 1) = true)
    ∧ (State.reset.ready [.w 1, .w 11] none = true ∧ State.reset.me.trapDepth = 0)
    ∧ (let s := teamS.modMe (fun _ => { deepX 2 .trap with trapDepth := 2 })
       2 ≤ s.me.trapDepth ∧ isSteward s.curCore = false ∧ s.teamOf s.curCore = some (1, team1) ∧ team1.hasCore s.curCore = true
       ∧ s.curCtx < 16 ∧ (s.ctxs.find s.meKey).isSome = true ∧ team1.halt = none)
    ∧ (let s := teamS.modMe (fun _ => deepX 11 .call)
       4 + s.wss s.curCore / 128 < s.me.depth + 1) := by decide +kernel

/-- Loads and stores at the last aligned places below the window stacks of a team's core, and against them; a misaligned one. -/
theorem witness_LocalMemory :
    (let s := teamS.modMe (fun x => x.write (.g 0) 0x1BFF8)
     s.ea ⟨.g 0, 0⟩ = 0x1BFF8 ∧ s.ready [.g 0] (some (.w 8)) = true ∧ s.localFits 0x1BFF8 8 8 = true ∧ s.badIn (s.cellOf 0x1BFF8) 8 = false
     ∧ Memory.wf s.mem = true ∧ s.ready [.w 1, .g 0] none = true ∧ s.badPart (s.cellOf 0x1BFF8) 8 = false ∧ s.feedHazard s.curCore 0x1BFF8 8 = false)
    ∧ (let s := teamS.modMe (fun x => x.write (.g 0) 0x1BFE0)
       s.ea ⟨.g 0, 0⟩ = 0x1BFE0 ∧ s.ready [.g 0] none = true ∧ s.localFits 0x1BFE0 32 32 = true ∧ s.badIn (s.cellOf 0x1BFE0) 32 = false
       ∧ s.badPart (s.cellOf 0x1BFE0) 32 = false ∧ s.feedHazard s.curCore 0x1BFE0 32 = false)
    ∧ (let s := teamS.modMe (fun x => x.write (.g 0) 0x1C000)
       s.ready [.g 0] (some (.w 8)) = true ∧ s.ea ⟨.g 0, 0⟩ % 8 = 0 ∧ isSteward s.curCore = false ∧ s.ea ⟨.g 0, 0⟩ < Config.spadSize
       ∧ s.touchesStacks s.curCore (s.ea ⟨.g 0, 0⟩) 8 = true)
    ∧ (let s := teamS.modMe (fun x => x.write (.g 0) 1)
       s.ready [.g 0] (some (.w 8)) = true ∧ s.ready [.w 1, .g 0] none = true ∧ s.ea ⟨.g 0, 0⟩ % 8 ≠ 0) := by decide +kernel

theorem witness_SyncWords :
    (let s := { State.reset with full := [2 ^ 52] }
     Memory.wf s.mem = true ∧ s.ready [.z] (some (.w 8)) = true ∧ s.localFits 0 8 8 = true ∧ s.full.contains (s.cellOf 0) = true
     ∧ s.feBehind 0 true = false ∧ s.badIn (s.cellOf 0) 8 = false ∧ s.ready [.w 1, .z] none = true)
    ∧ (let s := State.reset
       s.ready [.z] (some (.w 8)) = true ∧ s.localFits 0 8 8 = true ∧ s.full.contains (s.cellOf 0) = false ∧ s.feBehind 0 false = false
       ∧ s.ready [.w 1, .z] none = true ∧ s.ready [.z] none = true ∧ s.localFits 0 (8 * ((511 : BitVec 9).toNat + 1)) 8 = true
       ∧ s.localFits 0 16 16 = true ∧ s.dbghz = false
       ∧ decide (((memLe s.mem 4 (s.cellOf 0 + 8) + 2 ^ 32 - 0 % 2 ^ 32) % 2 ^ 32) < 2 ^ 31) = true)
    ∧ (let s := regS [(.w 1, 1)]
       s.srcVal (.w 1) = 1 ∧ decide (((memLe s.mem 4 (s.cellOf 0 + 8) + 2 ^ 32 - 1 % 2 ^ 32) % 2 ^ 32) < 2 ^ 31) = false) := by decide +kernel

/-- The team's core holds a translation of the page at the first global address, with `attr`, to `pa`; g0 is that address, and `f` changes
the core. -/
def gE (pa attr : Nat) : TlbE := ⟨0, 2 ^ 32, 65536, pa, attr⟩
def globS (pa attr : Nat) (f : Core → Core) : State :=
  (teamS.modCore 0 (fun k => f { k with utlb := [gE pa attr] })).modMe (fun x => x.write (.g 0) (BitVec.ofNat 64 (2 ^ 32)))
def wc0 (tok : Nat) (closed : Bool) : WC := ⟨0, 2 ^ 32, 0, BitVec.allOnes 64, List.replicate 64 0, [0], tok, 0, closed, [], true, 65536⟩
def gA : Addr := ⟨.g 0, 0⟩
def loadFits (s : State) (pa : Nat) (attr want : Nat) : Bool :=
  s.ea gA == 2 ^ 32 && (gE pa attr).phys (s.ea gA) == pa && isGlobal (s.ea gA) && s.xlate s.curCore s.curCtx (s.ea gA) == .hit (gE pa attr)
    && hasAttr attr want && (gE pa attr).phys (s.ea gA) % 64 == s.ea gA % 64 && s.ready [.g 0] (some (.w 8)) && s.ready [.w 1, .g 0] none
    && s.ready [.g 0] none
theorem pageFits_of_loadFits {s : State} {pa attr want : Nat} (h : loadFits s pa attr want = true) : s.pageFits (s.ea gA) want (gE pa attr) := by
  simp only [loadFits, Bool.and_eq_true, beq_iff_eq] at h
  obtain ⟨⟨⟨⟨⟨⟨⟨⟨_, _⟩, h1⟩, h2⟩, h3⟩, h4⟩, _⟩, _⟩, _⟩ := h
  exact ⟨h1, h2, h3, h4⟩

/-- Served by the write-combining buffer, by the read cache, by the home; a burst for a page with FG; a peer's memory. -/
theorem witness_GlobalLoads :
    (let s := globS 0 3 (fun k => { k with wcb := [wc0 7 false] })
     loadFits s 0 3 attrR = true ∧ paKind 0 = .hbm ∧ hasAttr 3 attrFG = false ∧ ((s.core 0).forward 0 8).all Option.isSome = true)
    ∧ (let s := (globS 0 3 id).modCluster 0 (fun k => { k with lines := [⟨0, 2 ^ 32, 0, List.replicate 64 0⟩] })
       loadFits s 0 3 attrR = true ∧ ((s.core 0).forward 0 8).all Option.isSome = false ∧ (s.core 0).lineToks 0 = []
       ∧ s.cacheFind 0 (alignDown 64 0) = some ⟨0, 2 ^ 32, 0, List.replicate 64 0⟩)
    ∧ (let s := globS 0 3 id
       loadFits s 0 3 attrR = true ∧ ((s.core 0).forward 0 32).all Option.isSome = false ∧ (s.core 0).injFree = true
       ∧ s.cacheFind 0 (alignDown 64 0) = none)
    ∧ (let s := (globS 0 3 (fun k => { k with unacked := [⟨7, [0], .wc 0 (2 ^ 32)⟩] })).modCluster 0 (fun k => { k with
         lines := [⟨0, 2 ^ 32, 0, List.replicate 64 0⟩] })
       loadFits s 0 3 attrR = true ∧ ((s.core 0).forward 0 8).all Option.isSome = false ∧ (s.core 0).lineToks 0 ≠ [] ∧ (s.core 0).injFree = true)
    ∧ (let s := globS 0 19 id
       loadFits s 0 19 attrR = true ∧ hasAttr 19 attrFG = true ∧ (∀ w ∈ (s.core 0).wcb, w.pa ≠ alignDown 64 0) ∧ (s.core 0).lineToks 0 = []
       ∧ (s.core 0).injFree = true)
    ∧ (loadFits (globS (2 ^ 48) 3 id) (2 ^ 48) 3 attrR = true ∧ paKind (2 ^ 48) = .peer 0 0) := by decide +kernel

theorem witness_GlobalStores :
    (let s := globS 0 2 id
     loadFits s 0 2 attrW = true ∧ (∀ w ∈ (s.core 0).wcb, w.pa ≠ alignDown 64 0 ∧ w.tok < s.tok) ∧ s.wcbUsed 0 < 8)
    ∧ (let s := globS 0 2 (fun k => { k with wcb := [wc0 7 false] })
       loadFits s 0 2 attrW = true ∧ ∃ w ∈ (s.core 0).wcb, w.pa = alignDown 64 0 ∧ w.closed = false ∧ w.data.length = 64
         ∧ ∀ u ∈ (s.core 0).wcb, u.pa = w.pa → u = w) := by decide +kernel

/-- A team on cores 0 and 1; g0 holds an aperture address. -/
def pairS (a : Word) : State :=
  ((teamS.modTeam 1 (fun u => { u with lr := { lr1 with vars := [⟨2, 1, 0⟩] } })).modCore 1 (fun k => { k with team := some 1 })).modMe
    (fun x => x.write (.g 0) a)
/-- Core 1 of the team, core 2, which is in no team, and an x of 24. -/
theorem witness_RemoteStores :
    (let s := pairS 0x40020000
     s.ready [.w 1, .g 0] none = true ∧ s.ready ([.w 1, .g 0] ++ [.w 2]) none = true ∧ isSteward s.curCore = false ∧ s.ea gA % 64 = 0
     ∧ apertureOf (s.ea gA) = some (1, 0) ∧ (s.core 0).injFree = true ∧ (s.teamOf 0).elim false (fun t => s.reaches t.2 1) = true)
    ∧ (let s := pairS 0x40040000
       apertureOf (s.ea gA) = some (2, 0) ∧ (s.teamOf 0).elim true (fun t => s.reaches t.2 2) = false)
    ∧ (let s := pairS 0x40300000
       isAperture (s.ea gA) = true ∧ apertureOf (s.ea gA) = none) := by decide +kernel

theorem witness_Atomics :
    (let s := globS 0 3 id
     loadFits s 0 3 (attrR + attrW) = true ∧ s.ea gA % 64 = 0 ∧ paKind 0 = .hbm ∧ (∀ w ∈ (s.core 0).wcb, w.pa ≠ alignDown 64 0)
     ∧ (s.core 0).lineToks 0 = [] ∧ (s.core 0).injFree = true ∧ (∀ h ∈ s.me.held, h.va ≠ 2 ^ 32) ∧ s.me.held.length < 2 ∧ s.me.pend.length < 8)
    ∧ (let s := (globS 0 3 id).modMe (fun x => { x with held := [⟨2 ^ 32, 0⟩] })
       s.ready [.g 0] (some (.w 8)) = true ∧ s.ready [.w 1, .g 0] none = true ∧ isGlobal (s.ea gA) = true ∧ (∃ h ∈ s.me.held, h.va = s.ea gA)
       ∧ (s.core 0).injFree = true ∧ s.me.held.find? (fun h => h.va == s.ea gA) = some ⟨2 ^ 32, 0⟩ ∧ loadFits s 0 3 (attrR + attrW) = true)
    -- the page has moved since the grant
    ∧ (let s := (globS 65536 3 id).modMe (fun x => { x with held := [⟨2 ^ 32, 0⟩] })
       loadFits s 65536 3 (attrR + attrW) = true ∧ paKind 65536 = .hbm ∧ s.me.held.find? (fun h => h.va == s.ea gA) = some ⟨2 ^ 32, 0⟩
       ∧ (gE 65536 3).phys (s.ea gA) ≠ 0)
    ∧ (loadFits (globS (2 ^ 48) 3 id) (2 ^ 48) 3 (attrR + attrW) = true ∧ paKind (2 ^ 48) = .peer 0 0) := by decide +kernel

/-- An 8-bit, a 4-bit and an integer block to write; an 8-bit block to read, from its first element and past its last. -/
theorem witness_Blocks :
    (let s := regS [(.w 1, 0x7F7F10), (.w 2, 0xFF03), (.w 3, 0xFFFF08), (.w 4, 47)]
     Memory.wf s.mem = true ∧ s.ready [.z, .w 1] none = true ∧ s.localFits 0 64 64 = true ∧ s.badPart (s.cellOf 0) 64 = false
     ∧ s.feedHazard s.curCore 0 64 = false
     ∧ (∀ r ∈ [Reg.w 1, .w 2, .w 3], let c := (s.srcVal r).toNat
        c < 2 ^ 24 ∧ (blockIs4 (c % 256)).isSome = true ∧ (blockIsInt (c % 256) = true → c / 256 % 256 = 127)
        ∧ (c % 256 = 16 → c / 65536 = 127) ∧ (blockIs4 (c % 256) = some false → c / 65536 = 0)))
    ∧ (let s := { regS [(.w 4, 47)] with mem := memPut [] (2 ^ 52) [3, 0x80, 7, 0, 0, 0, 0, 0, 0x38, 0x34, 0x7F, 0x40] }
       s.badIn (s.cellOf 0) 64 = false ∧ (s.srcVal (.w 4)).toNat < 2 ^ 11 ∧ (s.srcVal (.w 4)).toNat / 128 % 2 = 0
       ∧ (blockIs4 (memLe s.mem 1 (s.cellOf 0))).isSome = true ∧ ¬ 8 ≤ memLe s.mem 1 (s.cellOf 0)
       ∧ (unpackBlock .f32 (memLe s.mem 64 (s.cellOf 0)) 47).isSome = true ∧ (unpackBlock .i8 (memLe s.mem 64 (s.cellOf 0)) 0).isSome = true) := by
  decide +kernel

theorem witness_Fences :
    State.reset.me.flogn = 0 ∧ Scope.dev ≠ .core ∧ (State.reset.core 0).injFree = true ∧ (meS (fun x => { x with flogn := 255 })).me.flogn ≠ 0 := by
  decide +kernel

theorem witness_AcquireRelease :
    (let s := regS [(.w 1, 2 ^ 32), (.w 2, 1)]
     s.ready (ObjRef.regs (.hw (.w 1))) none = true ∧ s.ident (.hw (.w 1)) (2 ^ 32) = .ok (.hw (2 ^ 32)) ∧ s.me.flogn = 0
     ∧ s.ready (ObjRef.regs (.ch 15)) none = true ∧ s.ident (.ch 15) 0 = .ok (.ch 15)
     ∧ s.ready (.w 1 :: ObjRef.regs (.fe .z)) none = true ∧ (0xFFFFF : BitVec 20) ≠ 0 ∧ s.ident (.fe .z) 0 = .ok (.fe 0 0)
     ∧ (s.srcVal (.w 1)).toNat % 64 = 0 ∧ Config.globalBase ≤ (s.srcVal (.w 1)).toNat
     ∧ (s.srcVal (.w 1)).toNat + 64 * (0xFFFFF : BitVec 20).toNat ≤ Config.vaTop
     ∧ (s.srcVal (.w 2)).toNat % 64 ≠ 0 ∧ (s.srcVal (.w 2)).toNat % 8 ≠ 0 ∧ s.ready [.w 2] none = true) := by decide +kernel

/-- A counter reached, one to wait for, and a number not assigned; a LINK counter; the steward. -/
theorem witness_ReleasesAndChainage :
    (let s := teamS.modCore 0 (fun k => { k with copyNum := 2, copyCtr := 1 })
     s.teamOf 0 = some (1, team1) ∧ s.me.trig = false ∧ s.ready [.w 1] (some (.w 8)) = true ∧ isSteward s.curCore = false ∧ s.ready [] (some (.w 8)) = true
     ∧ s.ready [.w 1] none = true ∧ s.assigned 0 (0 : BitVec 4).toNat = some 2 ∧ (0 : BitVec 4).toNat < 8 ∧ s.counter 0 0 = 1
     ∧ 8 ≤ (8 : BitVec 4).toNat ∧ 0 ≤ s.counter 0 8 ∧ (s.eng (linkId 0 (dirOf 0))).st ≠ .suspended
     ∧ ((s.eng (linkId 0 (dirOf 0))).end_ (!isNear (dirOf 0))).fault = none)
    ∧ (meS (fun x => { x with trig := true })).me.trig = true ∧ isSteward stewardS.curCore = true ∧ stewardS.ready [.w 1] (some (.w 8)) = true := by
  decide +kernel

/-- A descriptor of zeros is a COPY of no rows; a bad one; a full copy context. -/
theorem witness_CopyCommands :
    (let s := State.reset
     s.ready [.z] (some (.w 8)) = true ∧ s.localFits 0 64 64 = true ∧ s.badIn (s.cellOf 0) 64 = false ∧ cmdBad .copy false (memLe s.mem 64 (s.cellOf 0)) = none
     ∧ (s.core 0).cmds.length < 16 ∧ s.me.pend.length < 8)
    ∧ (let s := { State.reset with mem := [(2 ^ 52 + 63, 0xFF)] }
       s.badIn (s.cellOf 0) 64 = false ∧ (cmdBad .copy false (memLe s.mem 64 (s.cellOf 0))).isSome = true)
    ∧ cmdBad .gather false (16 * 2 ^ 128) = none ∧ cmdBad .scatter false (65536 * 2 ^ 128) = none
    ∧ (let c : Cmd := ⟨0, .copy, 0, false, 0, 0, none, 0, none, false, 0, [], false, none, 0, [], [], none, none, 0⟩
       16 ≤ ((State.reset.modCore 0 (fun k => { k with cmds := List.replicate 16 c })).core 0).cmds.length) := by decide +kernel

/-- Core 0's link toward E, link 0, within the team, its engine `e`; the end of core 0's context 0, which is party 16. -/
def linkS (e : Engine) : State := (pairS 0).modEng 0 (fun _ => e)
def descA : Nat := 8 + 2 ^ 8 + 96 * 2 ^ 16 + 2 ^ 64 + 2 ^ 72 + 10 * 2 ^ 84
def descB : Nat := 8 + 2 ^ 8 + 96 * 2 ^ 16
def endA : EEnd := { EEnd.closed with isOpen := true, party := 16, desc := descA }
def endB : EEnd := { EEnd.closed with isOpen := true, party := 17, roleB := true, desc := descB }
/-- The checks of R322 let the acting context pass, and it is the end's party. -/
def clearE (s : State) : Bool :=
  !s.linkHarvested s.curCore .e && !s.linkOutside s.curCore .e && (s.endOf .e).fault.isNone && !(s.endOf .e).resume
def partyE (s : State) : Bool := clearE s && (s.endOf .e).isOpen && (s.endOf .e).party == s.meId && (s.endOf .e).heldOpen.isNone

/-- A request queued, no lease, a lease with an end open, an idle lease; a harvested link. -/
theorem witness_LeaseAndUnlease :
    (let s := linkS Engine.dormant
     s.ready [] (some (.w 8)) = true ∧ s.me.pend.length < 8 ∧ clearE s = true ∧ (s.core 0).team = some 1 ∧ s.queuedReq 0 = none
     ∧ (s.engOf .e).lease = none)
    ∧ (let s := (linkS Engine.dormant).modDie 0 (fun d => { d with fifos := Table.empty.set 3 [⟨0, 0, 0, 5, 1, 3, 0, false⟩] })
       clearE s = true ∧ s.queuedReq 0 = some ⟨0, 0, 0, 5, 1, 3, 0, false⟩)
    ∧ (let s := (linkS Engine.dormant).modDie 0 (fun d => { d with fifos := Table.empty.set 3 [⟨0, 0, 0, 5, 1, 3, 0, true⟩] })
       clearE s = true ∧ s.queuedReq 0 = some ⟨0, 0, 0, 5, 1, 3, 0, true⟩ ∧ (s.engOf .e).st = .dormant)
    ∧ (∀ o, let s := linkS { Engine.dormant with st := .idle, token := true, lease := some ⟨1, 3, 0, 0, 5, 0, 0⟩, near := if o then endA else .closed }
       clearE s = true ∧ s.queuedReq 0 = none ∧ (s.engOf .e).lease = some ⟨1, 3, 0, 0, 5, 0, 0⟩ ∧ (s.engOf .e).unl = false
       ∧ (s.engOf .e).near.opened = o ∧ (s.engOf .e).far.opened = false ∧ (s.engOf .e).st ≠ .suspended ∧ (s.engOf .e).st ≠ .waking
       ∧ (s.engOf .e).token = true)
    ∧ ({ State.reset with harvest := [23] }).linkHarvested 0 .w = true := by decide +kernel

/-- An end to open, with a descriptor of role A; an end that is open; a second link held; no descriptor; a done and an open-pending engine. -/
theorem witness_OpenAndClose :
    (let s := { linkS { Engine.dormant with st := .idle } with mem := memPut [] (2 ^ 52) (leBytes 64 descA) }
     clearE s = true ∧ s.ready [.z] (some (.w 8)) = true ∧ s.localFits 0 64 64 = true ∧ s.badIn (s.cellOf 0) 64 = false
     ∧ s.descBad (memLe s.mem 64 (s.cellOf 0)) false = none ∧ (s.endOf .e).opened = false ∧ s.heldLinks = [] ∧ s.me.pend.length < 8
     ∧ ((s.engOf .e).end_ true).isOpen = false)
    ∧ (let s := { linkS { Engine.dormant with st := .openPending, near := endA } with mem := memPut [] (2 ^ 52) (leBytes 64 descB) }
       clearE s = true ∧ s.descBad (memLe s.mem 64 (s.cellOf 0)) true = none ∧ (s.endOf .e).opened = true)
    ∧ (let s := (linkS Engine.dormant).modEng 1 (fun e => { e with near := endA })
       clearE s = true ∧ (s.endOf .e).opened = false ∧ ∃ h ∈ s.heldLinks, 0 ≤ h)
    ∧ ((linkS Engine.dormant).descBad 0 false).isSome = true
    ∧ (let s := linkS { Engine.dormant with st := .done, near := endA, far := endB }
       partyE s = true ∧ (s.engOf .e).st = .done ∧ (s.endOf .e).tok = none ∧ ((s.engOf .e).end_ true).isOpen = true)
    ∧ (let s := linkS { Engine.dormant with st := .openPending, near := endA }
       partyE s = true ∧ (s.engOf .e).st = .openPending ∧ ((s.engOf .e).end_ true).isOpen = false ∧ (s.engOf .e).unl = false
       ∧ (s.endOf .e).tok = none)
    ∧ (let s := linkS Engine.dormant
       clearE s = true ∧ (s.endOf .e).holder s.meId = false ∧ (s.endOf .e).last ≠ some s.meId) := by decide +kernel

def feed0 : Feed := ⟨0, 0, 64, 1, 0, 1, .empty, 0⟩
def drain0 : Drain := ⟨0, List.replicate 1024 0, 0, List.replicate 32 0, List.replicate 32 0, 1, false, false, true, none, 0, false, 0, 0⟩
/-- A feed that ends where the window stacks begin, an end with four feeds; a sparse configuration; a running and an open-pending A end and a B
end; a tile held. -/
theorem witness_FeedsAndDrains :
    (let s := (linkS { Engine.dormant with st := .openPending, near := endA }).modMe (fun x => x.write (.g 0) (0x1C000 - 64))
     partyE s = true ∧ s.ready [.g 0] none = true ∧ (1 : BitVec 16) ≠ 0
     ∧ (s.srcVal (.g 0) + BitVec.ofNat 64 (64 * (0 : BitVec 6).toNat)).toNat + 64 ≤ Config.spadSize
     ∧ s.touchesStacks s.curCore (0x1C000 - 64) 64 = false ∧ (s.engOf .e).formed = false ∧ (s.endOf .e).feeds.length < 4 ∧ (s.engOf .e).lastB = none
     ∧ s.ready (Option.toList none) none = true ∧ (s.engOf .e).st ≠ .suspended ∧ (s.endOf .e).roleB = false
     ∧ (s.engOf .e).sideActive s.now true = false ∧ (∀ k ∈ (s.engOf .e).cfgB, k.at_ ≠ s.now)
     ∧ (∀ k ∈ (s.engOf .e).spLater, k.1 = true → k.2.at_ ≠ s.now) ∧ dK (s.endOf .e).desc % nmM 1 = 0
     ∧ fld (s.endOf .e).desc 111 96 = 0 ∧ (s.engOf .e).st ≠ .running)
    ∧ (let s := linkS { Engine.dormant with st := .openPending, near := { endA with feeds := List.replicate 4 feed0 } }
       partyE s = true ∧ 4 ≤ (s.endOf .e).feeds.length)
    ∧ (let s := linkS { Engine.dormant with st := .running, near := endA, far := endB, formed := true }
       partyE s = true ∧ (s.endOf .e).roleB = false ∧ (s.engOf .e).st = .running
       ∧ (s.endOf .e).fed + (96 : BitVec 16).toNat * dBlock (s.endOf .e).desc ≤ (s.engOf .e).kLen * ((s.engOf .e).pm1 + 1))
    ∧ (let s := linkS { Engine.dormant with st := .running, near := { endA with roleB := true, desc := descB }, far := { endB with roleB := false, desc := descA }, formed := true }
       partyE s = true ∧ (s.endOf .e).roleB = true ∧ (s.engOf .e).kspl = 0 ∧ dec32 0x3F800000 ≠ .nan ∧ numIsNeg (dec32 0x3F800000) = false)
    ∧ (let s := linkS { Engine.dormant with st := .faulted, near := endA, far := endB, formed := true, heldTile := some drain0 }
       partyE s = true ∧ s.ready [.z] none = true ∧ s.localFits 0 64 64 = true ∧ s.badIn (s.cellOf 0) 64 = false ∧ (s.engOf .e).heldTile = some drain0
       ∧ (s.engOf .e).st ≠ .suspended ∧ (s.engOf .e).held = none
       ∧ (∀ r ∈ rsvRecv, fld (memLe s.mem 64 (s.cellOf 0)) r.1 r.2 = 0))
    ∧ (let s := linkS { Engine.dormant with st := .suspended, near := endA }
       partyE s = true ∧ (s.endOf .e).roleB = false ∧ (s.engOf .e).st = .suspended ∧ (s.engOf .e).sideActive s.now true = false) := by decide +kernel

theorem witness_EngineReadsAndLoads :
    (let s := { linkS { Engine.dormant with st := .idle } with mem := memPut [] (2 ^ 52) (leBytes 4 (encodeEpi (.ewr .acc))) }
     clearE s = true ∧ s.ready [] (some (.w 8)) = true ∧ s.me.prodRec = none ∧ (s.engOf .e).lkHolds .idle ((s.engOf .e).prods % 2 ^ 16) = true
     ∧ (s.engOf .e).lkHolds .done ((s.engOf .e).prods % 2 ^ 16) = false ∧ (s.endOf .e).opened = false ∧ s.ready [.z] none = true
     ∧ s.localFits 0 32 32 = true ∧ s.badIn (s.cellOf 0) 32 = false ∧ (s.engOf .e).st ≠ .dormant ∧ (s.engOf .e).st ≠ .suspended
     ∧ s.localFits 0 640 64 = true ∧ s.badIn (s.cellOf 0) 640 = false ∧ imageOk (memLe s.mem 640 (s.cellOf 0)) = true ∧ s.me.image = none
     ∧ (s.engOf .e).st ≠ .waking)
    -- the image an earlier issue of the instruction read, and an engine at which it parks
    ∧ (let s := (linkS { Engine.dormant with st := .idle }).modMe (fun x => { x with image := some (encodeEpi (.ewr .acc)) })
       clearE s = true ∧ (s.endOf .e).opened = false ∧ s.me.image = some (encodeEpi (.ewr .acc)) ∧ imageOk (encodeEpi (.ewr .acc)) = true
       ∧ (s.engOf .e).st = .idle)
    ∧ (let s := linkS { Engine.dormant with st := .suspended, near := endA }
       clearE s = true ∧ (s.endOf .e).holder s.meId = true ∧ s.me.image = none ∧ (s.engOf .e).st = .suspended)
    ∧ (let s := linkS { Engine.dormant with st := .openPending, near := endA }
       clearE s = true ∧ (s.engOf .e).lkHolds .done ((s.engOf .e).prods % 2 ^ 16) = false ∧ (s.endOf .e).opened = true ∧ (s.endOf .e).holder s.meId = true)
    ∧ (let s := linkS { Engine.dormant with st := .waking }
       clearE s = true ∧ (s.engOf .e).st = .waking ∧ (s.engOf .e).epLater = [])
    ∧ (clearE (linkS Engine.dormant) = true ∧ ((linkS Engine.dormant).engOf .e).st = .dormant)
    ∧ (let s := linkS Engine.dormant
       s.badIn (s.cellOf 0) 640 = false ∧ imageOk (memLe s.mem 640 (s.cellOf 0)) = false) := by decide +kernel

def lev0 : Lev :=
  { fifo := false, dir := .w, prodFar := true, prodCtx := 1, cons := 1, en := true, setp := 8, gp := 1, gi := 3, wp0 := 12, wc0 := 12, period := 64,
    integ := 0, ez := 0, fz := 0, occ := 0, wc := 12, wp := 12, n := 0, nextAt := 0 }
theorem witness_QueuesAndLevelling :
    (let s := (pairS 0).modCore 0 (fun k => { k with essential := [15], lev := Table.empty.set 7 lev0, qbind := [(0, 2, some 0)] })
     s.curCtx = 0 ∧ s.linkHarvested 0 .e = false ∧ s.linkOutside 0 .e = false
     ∧ (∀ e ∈ (s.core 0).lev.cells, e.2.en = true → e.2.fifo = false → e.2.dir ≠ .e) ∧ (14 : BitVec 4).toNat ∉ (s.core 0).essential
     ∧ (15 : BitVec 4).toNat ∈ (s.core 0).essential ∧ s.ready [.w 1] none = true ∧ (s.core 0).owner s.now .w = some s.curCtx
     ∧ (s.srcVal (.w 1)).toNat % 4 = 0 ∧ (s.core 0).levOf (7 : BitVec 3).toNat = some lev0 ∧ (16 : BitVec 5).toNat ≤ 16
     ∧ (16 * ((0 : BitVec 6).toNat + 1) < 64 → (1 : BitVec 3) ≠ 0 ∧ (1 : BitVec 3) ≠ 0) ∧ ¬ 16 * ((3 : BitVec 6).toNat + 1) < 64
     ∧ s.ready [] (some (.w 8)) = true ∧ (s.core 0).levOf (0 : BitVec 3).toNat = none)
    ∧ queueS.ready [.q .w] (some (.q .e)) = true ∧ (regS [(.w 1, 3)]).srcVal (.w 1) = 3 ∧ ({ State.reset with curCtx := 15 }).curCtx ≠ 0 := by
  decide +kernel

theorem witness_SystemRegisters :
    teamS.ready [] (some (.w 8)) = true ∧ teamS.ready [.w 1] none = true ∧ isSteward teamS.curCore = false ∧ teamS.teamOf 0 = some (1, team1)
    ∧ stewardS.ready [] (some (.w 8)) = true ∧ stewardS.ready [.w 1] none = true ∧ isSteward stewardS.curCore = true
    ∧ sregOk 0x006 = false ∧ sregOk 0xFFF = false ∧ (sregOk 0x028 = true ∧ sregPriv 0x028 false = true) ∧ (sregOk 0x010 = true ∧ sregPriv 0x010 true = true) := by
  decide +kernel

theorem witness_VectorOperations :
    fmtOf .i8 = none ∧ fmtOf .n64 = none ∧ fmtOf .f32 = some fp32 ∧ (fmtOf .e5m2).isSome = true
    ∧ (let n := min (256 / Ty.f32.width) (256 / Ty.e4m3.width)
       (if 256 / Ty.e4m3.width < 256 / Ty.f32.width then (3 : BitVec 3).toNat * n else 0) + n ≤ 256 / Ty.f32.width
       ∧ (if 256 / Ty.i64.width < 256 / Ty.i8.width then (7 : BitVec 3).toNat * min 32 4 else 0) + min 32 4 ≤ 256 / Ty.i8.width)
    ∧ Ty.i8.width ≤ 16 ∧ Ty.bf16.width ≤ 16 := by decide +kernel

def epiS : State := State.reset.withFetchWord 32 0
theorem witness_EpilogueOperations :
    (let r : EpiRow := ⟨0, 0, List.replicate 6 (List.replicate 32 0), 0⟩
     epiS.epi = some r ∧ r.e.length = 6 ∧ (∀ l ∈ r.e, l.length = 32) ∧ ((epiS.eng r.link).passing).isSome = true
     ∧ ((epiS.eng 0).recvCore = linkNear 0 ∨ (epiS.eng 0).recvCore = linkFar 0)
     ∧ (∀ x ∈ (epiS.eng 0).drains, ∀ y ∈ (epiS.eng 0).drains, x.num = y.num → x = y)
     ∧ ¬ 0 + 1 < (epiS.eng 0).rows)
    ∧ (let s := epiS.modEng 0 (fun e => { e with near := { e.near with desc := 2 * 2 ^ 64 + 2 ^ 72 } })
       (s.eng 0).passing.isSome = true ∧ 0 + 1 < (s.eng 0).rows) := by decide +kernel

/-- Where an image verifies, and meets its minimum, boot runs it; whether a signature verifies, and the versions, are free values. -/
def flashS (reached k : Nat) (d : List Byte) : State := { State.reset with
  boot := { Boot.start with reached := reached }, flash := Table.empty.set (2 * k) ⟨true, d⟩, images := Table.empty.set (k - 1) [] }
theorem get_blank (k j : Nat) (x : FlashCopy) (d : List Byte) (h : Table.get FlashCopy.blank (Table.empty.set k x) j = ⟨true, d⟩) : j = k := by
  by_contra hne
  rw [Table.get_set, if_neg hne] at h
  exact absurd h (by simp [Table.get, Table.find, Table.empty, Table.findIn, FlashCopy.blank])
theorem witness_BootRunsTheNewestCopy (k : Nat) (d : List Byte) (least : Nat) (h : Config.verifies k d = true)
    (hm : k = 3 → ∀ j, j < 4 → Config.mapTokens d j ≤ 288) (hl : least ≤ Config.imageVersion d) (reached : Nat) :
    (flashS reached k d).boot.recovery = false ∧ (flashS reached k d).boot.reached = reached ∧ (flashS reached k d).bootImage k least d := by
  refine ⟨rfl, rfl, ⟨0, by decide, by simp [flashS], h, hm⟩, hl, ?_⟩
  rintro x ⟨c, hc, hx, -⟩ -
  have := get_blank _ _ _ _ hx
  have hc0 : c = 0 := by omega
  subst hc0
  simp only [flashS, Table.get_set] at hx
  simp at hx
  rw [hx]
theorem witness_BootRunsTheNewestCopy_others :
    State.reset.boot.recovery = false ∧ State.reset.boot.reached = 1 ∧ (∀ k d, ¬ State.reset.goodCopy k d)
    ∧ (flashS 2 3 []).images.find 2 = some [] ∧ (flashS 3 4 []).images.find 3 = some []
    ∧ (let s := { State.reset with boot := { Boot.start with reached := 4 }, training := { Training.none with
         hbmOk := BitVec.allOnes 12, sram := some true, bridge := some true } }
       s.boot.recovery = false ∧ s.boot.reached = 4 ∧ s.training.hbmOk = BitVec.allOnes 12 ∧ s.training.sram = some true
       ∧ s.training.bridge = some true) := by
  refine ⟨rfl, rfl, ?_, by decide, by decide, by decide⟩
  rintro k d ⟨c, -, h, -⟩
  exact absurd h (by simp [Table.get, Table.find, State.reset, Table.empty, Table.findIn, FlashCopy.blank])

def readyS : State := { State.reset with boot := { Boot.start with reached := 5, ready := true } }
theorem witness_ResetPowerAndTraining :
    (let s := { State.reset with boot := { Boot.start with reached := 4 }, spanEn := 1 }
     s.boot.reached = 4 ∧ s.boot.recovery = false ∧ s.boot.ready = false ∧ s.training.hbmOk.getLsbD 11 = false ∧ 4 ≤ s.boot.reached
     ∧ s.spanEn.getLsbD (0 : Fin 24) = true) := by decide +kernel

/-- A mailbox that is busy, a command to end, and commands before and after ready; slots free, in use and out of range. -/
def mailS (args : List Nat) : State := { readyS with
  mailbox := { Mailbox.idle with args := ⟨(List.range args.length).map (fun k => (k, BitVec.ofNat 64 (args.getD k 0)))⟩ } }
theorem witness_MailboxCommands :
    (∀ b, let s := { readyS with mailbox := { Mailbox.idle with busy := true, running := some ⟨1, 0, [], [], b⟩ } }
     s.mailbox.busy = true ∧ s.mailbox.running = some ⟨1, 0, [], [], b⟩ ∧ s.mailbox.waiting = [] ∧ s.mailbox.resetAfter = false)
    ∧ (let m := { Mailbox.idle with busy := true, running := some ⟨1, 0, [], [], true⟩, waiting := [(2, [])] }
       m.resetAfter = false ∧ m.waiting.head? = some (2, []))
    ∧ ({ Mailbox.idle with resetAfter := true }).resetAfter = true ∧ readyS.mailbox.running = none
    ∧ (∀ v ∈ [1, 2, 3, 4, 5], (BitVec.ofNat 64 (0xABCD_0000 + v)).toNat % 256 = v) ∧ 5 < (0xFF : Word).toNat % 256
    ∧ State.reset.mailbox.busy = false ∧ State.reset.boot.reached < 2
    ∧ ((mailS [1023]).mailbox.busy = false ∧ (mailS [1023]).boot.ready = true ∧ (mailS [1023]).stewardStopped = false ∧ (mailS [1023]).arg 0 < 1024
       ∧ ((mailS [1023]).slot 1023).kicks = [] ∧ ((mailS [1023]).slot 1023).replay = none)
    ∧ 1024 ≤ (mailS [1024]).arg 0 ∧ ¬ ((mailS []).boot.reached < 2 ∨ (mailS []).boot.failed = 2) ∧ (mailS [1]).arg 0 % 2 = 1 := by decide +kernel

/-- The least graph: one node, whose launch record has one iteration on one core. -/
def graph0 : Nat :=
  0x01424753 + 2 ^ 32 + 2 ^ 48 + 64 * 2 ^ 128 + 320 * 2 ^ 352 + 2 ^ (8 * 64) * 128
    + 2 ^ (8 * 128) * (2 ^ 32 + 2 ^ 132 + 2 ^ 160 + 2 ^ 256 + 2 ^ 288 + 2 ^ 320 + 2 ^ 352 + (2 ^ 128 - 1) * 2 ^ 960)
def uploadS (args : List Nat) : State := { mailS args with mem := memPut [] 0x00BC_0000_0000 (leBytes 320 graph0) }
theorem witness_UploadsAndFlashWrites :
    (let s := uploadS [0, 320, 1023]
     let g : Img := ⟨s.mem, 0x00BC_0000_0000 + s.arg 0, s.arg 1⟩
     s.mailbox.busy = false ∧ s.boot.ready = true ∧ s.stewardStopped = false ∧ s.arg 0 % 4096 = 0 ∧ s.arg 0 + s.arg 1 ≤ 2 ^ 34 ∧ s.arg 2 < 1024
     ∧ (s.slot 1023).kicks = [] ∧ (s.slot 1023).replay = none ∧ uploadBad g (s.arg 1) = none ∧ choiceOk g (2 ^ 32) 0 = true)
    ∧ (uploadS [0, 0, 0]).arg 1 = 0 ∧ uploadBad ⟨(uploadS []).mem, 0x00BC_0000_0000, 0⟩ 0 = some ⟨0, 0, 0, 0⟩
    ∧ State.reset.boot.ready = false ∧ ¬ (uploadS [4095, 0, 0]).arg 0 % 4096 = 0
    ∧ ((uploadS [0, 320, 0]).modSlot 0 (fun x => { x with kicks := [(0, 0)] })).slot 0 ≠ Machine.Slot.idle
    ∧ (let s := mailS [2, 1, 0, 3840, 3841]
       s.mailbox.busy = false ∧ 2 ≤ s.boot.reached ∧ s.boot.failed ≠ 2 ∧ 2 ≤ s.arg 0 ∧ s.arg 0 ≤ 4 ∧ s.arg 1 ≤ 1 ∧ 1 ≤ s.arg 3 ∧ s.arg 3 ≤ 3840
       ∧ s.arg 2 + s.arg 3 ≤ s.arg 4 ∧ s.arg 2 = 0)
    ∧ (let s := { mailS [2, 1, 1, 1, 2] with flashBuf := some ⟨2, 1, 2, [7]⟩ }
       0 < s.arg 2 ∧ s.flashBuf = some ⟨2, 1, 2, [7]⟩ ∧ [(7 : Byte)].length = s.arg 2 ∧ s.arg 2 + s.arg 3 = s.arg 4)
    ∧ (let s := mailS [2, 1, 1, 1, 2]
       0 < s.arg 2 ∧ s.flashBuf = none)
    ∧ State.reset.boot.reached < 2 ∧ State.reset.boot.recovery = false
    ∧ (let s := { mailS [3] with boot := { Boot.start with recovery := true, failed := 2 } }
       s.mailbox.busy = false ∧ s.boot.recovery = true ∧ s.boot.failed = 2 ∧ s.arg 0 ≠ 2) := by decide +kernel

/-- A ready graph slot with one node, and the graph of it. -/
def gr0 : Graph := ⟨[lr1], [], [.word 0 5], 2 ^ 32⟩
def slotS (f : Machine.Slot → Machine.Slot) : State := readyS.modSlot 0 (fun x => f { x with graph := some gr0 })
theorem witness_HostRegistersAndWindows :
    ((slotS id).boot.ready = true ∧ (0xFFFF_0000 : Word).toNat % 2 ^ 16 = 0 ∧ ((slotS id).slot 0).graph ≠ none ∧ ((slotS id).slot 0).kicks.length < 64
     ∧ ((slotS id).slot 0).replay = none)
    ∧ State.reset.boot.ready = false ∧ ((slotS id).slot 1023).graph = none
    ∧ 64 ≤ ((slotS (fun x => { x with kicks := List.replicate 64 (0, 0) })).slot 0).kicks.length
    ∧ 2 ^ 34 - 2 + [(1 : Byte), 2].length ≤ 2 ^ 34 ∧ Memory.wf readyS.mem = true ∧ readyS.boot.ready = true := by decide +kernel

/-- A kick without a table, with one outside the staging region, with one whose index is bad. -/
theorem witness_ReplaysBegin :
    (let s := slotS (fun x => { x with kicks := [(0, 0)] })
     (s.slot 0).replay = none ∧ (s.slot 0).graph = some gr0 ∧ (s.slot 0).kicks = [(0, 0)] ∧ gr0.nodes ≠ [] ∧ (∀ r ∈ gr0.nodes, extOk r.ext = true))
    ∧ (let s := slotS (fun x => { x with kicks := [(0, 64)] })
       (s.slot 0).kicks = [(0, 64)] ∧ 64 ≠ 0 ∧ 64 < 0x00BC_0000_0000)
    ∧ (let s := { slotS (fun x => { x with kicks := [(0, 0x00BC_0000_0000)] }) with mem := memPut [] 0x00BC_0000_0000 [1, 0, 0, 0, 0, 0, 0, 0, 1] }
       (s.patchTable 0x00BC_0000_0000).isSome = true ∧ (s.patchTable 0x00BC_0000_0000).elim 0 (patchErr gr0) ≠ 0) := by decide +kernel

/-- A node ready since cycle 0, with the records `rs`. -/
def placeS (r : LRec) : State := slotS (fun x => { x with graph := some { gr0 with nodes := [r] }, replay := some ⟨0, 0, [.ready 0], [r]⟩ })
theorem witness_TeamsPlacedAndLaunched :
    (let s := placeS lr1
     s.cands = [⟨4, 0, 0, 0, 0, none⟩] ∧ (s.slot 0).replay = some ⟨0, 0, [.ready 0], [lr1]⟩ ∧ (s.slot 0).graph = some { gr0 with nodes := [lr1] }
     ∧ ([lr1] : List LRec)[0]? = some lr1 ∧ s.placeOf lr1 = some (0, 0, 0, 0) ∧ lr1.rm = [])
    ∧ (let s := placeS { lr1 with vars := [⟨25, 1, 0⟩] }
       s.cands.length = 1 ∧ ∀ k ∈ s.cands, s.tryPlace k = none)
    ∧ (let s := teamS.modTeam 1 (fun u => { u with st := .placed })
       s.teams.find 1 = some { team1 with st := .placed } ∧ team1.lr.vars[team1.variant]? = some ⟨1, 1, 0⟩) := by decide +kernel

theorem witness_TeamsEnd :
    (let s := (teamS.modCore 0 (fun k => { k with ended := true })).modCtx 0 0 (fun x => { x with st := .exited, flogn := 1 })
     s.teams.find 1 = some team1 ∧ s.teamDone 1 team1 = true ∧ (s.ctx 0 0).flogn ≠ 0)
    ∧ (teamS.teams.find 1 = some team1 ∧ teamS.teamDone 1 team1 = false)
    ∧ (let s := placeS lr1
       (s.slot 0).replay ≠ none ∧ (s.slot 0).graph ≠ none)
    ∧ ({ team1 with st := .halted }).st = .halted
    ∧ (let s := { teamS with teams := teamS.teams.set 2 { team1 with node := 1, st := .placed } }
       s.teams.find 1 = some team1 ∧ s.teams.find 2 = some { team1 with node := 1, st := .placed } ∧ team1.slot = 0) := by decide +kernel

/-- A candidate that waits past PREEMPTWAIT and does not fit, above the running team; the switch at steps 1 and 2; a word held. -/
def swS (step : Nat) (f : State → State) : State := { f teamS with switch := some ⟨1, step, 0, 0, none⟩ }
theorem witness_PreemptionBegins :
    (let r : LRec := { lr1 with pri := 6, vars := [⟨25, 1, 0⟩] }
     let s := { teamS with slots := (placeS r).slots, now := 2000001 }
     s.switch = none ∧ s.teams.find 1 = some team1 ∧ (∀ c ∈ s.cands, s.tryPlace c = none) ∧ s.cands.head? = some ⟨6, 0, 0, 0, 0, none⟩
     ∧ 0 + s.preemptwait < s.now ∧ team1.st = .running ∧ team1.lr.pri + 2 ≤ 6 ∧ (∀ j ∈ s.teams.cells, j.2.st = .running → j.1 = 1))
    ∧ (swS 1 id).switch ≠ none ∧ (swS 1 id).switch = some ⟨1, 1, 0, 0, none⟩ ∧ (swS 2 id).switch = some ⟨1, 2, 0, 0, none⟩
    ∧ (∀ c ∈ team1.cores, ∀ n, n < 16 → ((swS 2 id).ctx c n).held = [])
    ∧ (let s := swS 2 (fun s => s.modCtx 0 15 (fun x => { x with held := [⟨2 ^ 32, 0⟩] }))
       0 ∈ team1.cores ∧ (s.ctx 0 15).held ≠ [] ∧ s.now < 0 + 1000000 ∧ 0 < 4096
       ∧ ∀ c ∈ team1.cores, isSteward c = false ∧ s.teamOf c = some (1, team1)) := by decide +kernel

theorem witness_SwitchAndResume :
    (swS 2 id).teams.find 1 = some team1 ∧ (∀ c ∈ team1.cores, ∀ n, n < 16 → ((swS 2 id).ctx c n).held = [])
    ∧ (swS 3 id).switch = some ⟨1, 3, 0, 0, none⟩ ∧ (∀ c ∈ team1.cores, (swS 3 id).coreQuiet c = true)
    ∧ (let s := swS 3 (fun s => s.modCore 0 (fun k => { k with wcb := [wc0 7 true] }))
       0 ∈ team1.cores ∧ s.coreQuiet 0 = false)
    ∧ (let s := swS 4 (fun s => s.modEng 0 (fun _ => { Engine.dormant with st := .running, lease := some ⟨1, 0, 0, 0, 1, 0, 0⟩, drains := [drain0] }))
       s.switch = some ⟨1, 4, 0, 0, none⟩ ∧ s.teamEngines 1 = [0] ∧ ∀ l ∈ s.teamEngines 1, ∀ d ∈ (s.eng l).drains, d.begun = false)
    ∧ (swS 5 id).switch = some ⟨1, 5, 0, 0, none⟩
    ∧ (let u := { team1 with st := .suspended, savedCore := [(0, Core.idle)], savedCtx := [(0, deepX 1 .call)] }
       u.st = .suspended ∧ u.savedCore ≠ [] ∧ 0 ∈ u.savedCore.map (·.1) ∧ u.savedCtx.find? (fun e => e.1 == 16 * 0 + 0) = some (16 * 0 + 0, deepX 1 .call))
    ∧ team1.st ≠ .suspended := by decide +kernel

theorem witness_RepliesAndCompletions :
    (let x := (meS (fun x => { x with park := some (.result 9 8 (.put (.g 0))) })).ctx 0 0
     x.park = some (.result 9 8 (.put (.g 0))) ∧ isPlainDst (.g 0) = true)
    ∧ (let x := (meS (fun x => { x with park := some (.result 9 12 (.load (.w 8) 8 true 0 (List.replicate 8 none))) })).ctx 0 0
       x.park = some (.result 9 12 (.load (.w 8) 8 true 0 (List.replicate 8 none))) ∧ 8 ∈ [1, 2, 4, 8] ∧ (List.replicate 8 (0 : Byte)).length = 8)
    ∧ ((meS (fun x => { x with park := some (.result 9 8 .none) })).ctx 0 0).park = some (.result 9 8 .none)
    ∧ (State.reset.ctx 0 0).undo = none
    ∧ ((meS (fun x => { x with undo := some ⟨0, [], Table.empty, Table.empty, Flags.zero⟩ })).ctx 0 0).undo
      = some ⟨0, [], Table.empty, Table.empty, Flags.zero⟩
    ∧ (let x := (meS (fun x => { x with pend := [⟨9, x.locW 0, false, none⟩] })).ctx 0 0
       x.pend.find? (fun e => e.tok == 9) = some ⟨9, x.locW 0, false, none⟩ ∧ x.depth = 1 ∧ x.loc (.w 0) = some (x.locW 0)) := by decide +kernel

/-- Four resident windows, the oldest dirty, on a core with window stacks; a window to refill; a trap entry that waits. -/
def fullX (p : Option Park) : Ctx :=
  { deepX 3 .call with wins := ⟨(List.range 4).map (fun k => (k + 1, ⟨.empty, false⟩))⟩, park := p }
theorem witness_WindowTraffic :
    (let s := teamS.setCtx 0 0 (fullX (some (.cond .spill none)))
     (List.range 16).findSome? (fun j => (s.dirtyWindow 0 j).map (fun k => (j, k))) = some (0, 1) ∧ 16 * s.wss 0 ≤ 0x20000 ∧ Memory.wf s.mem = true
     ∧ (s.ctx 0 0).park = some (.cond .spill none) ∧ (s.ctx 0 0).live = true ∧ (s.ctx 0 0).room = .spill)
    ∧ (let s := State.reset
       ∀ j, j < 16 → s.dirtyWindow 0 j = none)
    ∧ (let s := ({ teamS with teams := teamS.teams.set 1 { team1 with lr := { lr1 with trapv := 64 } } }).setCtx 0 0 (fullX (some (.trapEntry .illegal 0 0 0)))
       (s.ctx 0 0).park = some (.trapEntry .illegal 0 0 0) ∧ (s.ctx 0 0).live = true ∧ (s.ctx 0 0).room = .spill ∧ (s.handler 0).isSome = true)
    ∧ (let x : Ctx := { deepX 1 .call with park := some (.cond (.refill 1) none) }
       x.park = some (.cond (.refill 1) none) ∧ x.live = true ∧ 1 + 1 = x.oldest ∧ x.slotsUsed < 4 ∧ x.resident 1 = false
       ∧ (x.depth = 1 ∨ (x.wins.find (x.depth - 1)).isSome = true ∨ x.oldest = x.depth) ∧ 1 ≤ 1) := by decide +kernel

/-- A leaf of 1 GiB pages at table 0 maps the first global addresses: the fault log of a team's context is at hand. -/
theorem witness_BarrelEvents :
    (teamS.ctx 0 0).st = .running ∧ (teamS.ctx 0 0).halted = false ∧ (teamS.ctx 0 0).park = none ∧ isSteward 0 = false ∧ teamS.teamOf 0 = some (1, team1)
    ∧ team1.halt = none
    ∧ (let s := { teamS with
         teams := teamS.teams.set 1 { team1 with lr := { lr1 with ctxa := 2 ^ 32 } }, slots := Table.empty.set 0 { Machine.Slot.idle with root := 0x10000 }
         mem := memPut (memPut [] 0x10000 (leBytes 8 (0x20000 + 1))) (0x20000 + 8 * 4) (leBytes 8 (2 + 8 * 35)) }
       Memory.wf s.mem = true ∧ (s.ctx 0 0).flogn < 16 ∧ (15 : Nat) < 16 ∧ (s.walk (s.spaceOf 0) (s.logBase 0 0 + 16 * (s.ctx 0 0).flogn)).isSome = true)
    ∧ 16 ≤ ((teamS.modCtx 0 0 (fun x => { x with flogn := 255 })).ctx 0 0).flogn
    ∧ (let s := (queueS.modCore 0 (fun k => { k with handlers := Table.empty.set 2 64 }))
       (s.core 0).inq .w = [⟨7, false⟩] ∧ (s.core 0).handler .w = 64 ∧ (64 : Word) ≠ 0 ∧ (s.ctx 0 0).depth + 1 ≤ 4 + s.wss 0 / 128
       ∧ (s.ctx 0 0).pendOf (.w 16) = none ∧ (s.ctx 0 0).pendOf (.w 17) = none ∧ (s.ctx 0 0).room = .free)
    ∧ (let x : Ctx := { Ctx.idle with nextWeights := [(0, 3), (0, 9), (16, 4)] }
       x.nextWeights.filter (fun e => decide (e.1 ≤ 0)) = [(0, 3)] ++ [(0, 9)])
    ∧ (∀ e ∈ ({ Ctx.idle with nextWeights := [(16, 4)] }).nextWeights, 0 < e.1)
    ∧ State.reset.now % 16 = 0 ∧ ({ State.reset with now := 15 }).now % 16 ≠ 0 := by decide +kernel

theorem witness_QueuesLevelsAndClaims :
    (∀ z ∈ teamS.teams.cells, ∀ e ∈ z.2.savedCore, e.1 ≠ 0)
    ∧ (let s := teamS.modCore 0 (fun k => { k with transit := Table.empty.set 0 [⟨1, false⟩], credits := Table.empty.set 0 15 })
       Table.get [] (s.core 0).transit (dirNum .e) = [⟨1, false⟩] ∧ (s.core 0).credit .e ≠ 0)
    ∧ (LevMsg.mk 0 1 1 0 (some 16)).val = some 16
    ∧ (let s := teamS.modCore 0 (fun k => { k with lev := Table.empty.set 0 lev0 })
       (s.core 0).lev.find 0 = some lev0 ∧ lev0.en = true ∧ lev0.nextAt = s.now ∧ lev0.fifo = false
       ∧ (∀ e ∈ s.agenda, s.now < e.1 ∨ e.2 ≠ .queueEntryArrive 0 .w) ∧ (s.core 0).lev.find 7 = none)
    ∧ (let e := { Engine.dormant with st := .running, formed := true, near := endA, far := endB }
       e.formed = true ∧ e.st = .running ∧ (0 - e.t0) % 64 = 0 ∧ (1 - e.t0) % 64 ≠ 0)
    ∧ teamS.teamOf 0 = some (1, team1) ∧ (teamS.core 0).team ≠ none ∧ (Fetcher.mk none none true false).out = true
    ∧ chunkLeft (none : Option (Nat × Nat)) = 0 ∧ chunkLeft (some (0, 1)) ≠ 0 := by decide +kernel

/-- A token free and a request; an engine that wakes; an engine to evict. -/
theorem witness_LeaseEvents :
    (let s := State.reset.modDie 0 (fun d => { d with free := 1, fifos := Table.empty.set 3 [⟨0, 0, 0, 5, 1, 3, 0, false⟩] })
     (s.die 0).granted ≠ some s.now ∧ 0 < (s.die 0).free ∧ Table.get [] (s.die 0).fifos 3 = [⟨0, 0, 0, 5, 1, 3, 0, false⟩]
     ∧ (∀ q, q < 4 → 3 < q → Table.get [] (s.die 0).fifos q = []) ∧ (s.eng 0).st = .dormant ∧ (s.eng 0).lease = none)
    ∧ (State.reset.die 0).free = 0 ∧ ((State.reset.modDie 0 (fun d => { d with granted := some 0 })).die 0).granted = some State.reset.now
    ∧ (let s := { (linkS { Engine.dormant with st := .waking, token := true, lease := some ⟨1, 3, 0, 0, 5, 0, 0⟩ }).modMe (fun x => { x with
         pend := [⟨5, .g 0, false, none⟩] }) with now := 1500 }
       (s.eng 0).lease = some ⟨1, 3, 0, 0, 5, 0, 0⟩ ∧ (s.eng 0).token = true ∧ (s.eng 0).st = .waking ∧ (s.eng 0).formed = false ∧ 0 + 1500 = s.now
       ∧ (s.ctx 0 0).pend.find? (fun q => q.tok == 5) = some ⟨5, .g 0, false, none⟩)
    ∧ (let s := { (linkS { Engine.dormant with st := .openPending, token := true, lease := some ⟨1, 0, 0, 0, 5, 0, 0⟩, near := endA }).modDie 0 (fun d => { d with
         fifos := Table.empty.set 3 [⟨1, 0, 0, 6, 1, 3, 0, false⟩] }) with now := 100001 }
       Table.get [] (s.die 0).fifos 3 = [⟨1, 0, 0, 6, 1, 3, 0, false⟩] ∧ s.evictwait < s.now - 0 ∧ (s.die 0).free = 0 ∧ s.switch = none ∧ 0 / 1152 = 0
       ∧ (s.eng 0).token = true ∧ (s.eng 0).lease = some ⟨1, 0, 0, 0, 5, 0, 0⟩ ∧ (s.eng 0).st ≠ .waking ∧ (s.eng 0).near.fault = none
       ∧ (s.eng 0).far.fault = none ∧ (∀ k ∈ s.engines.cells, k.1 = 0)) := by decide +kernel

/-- A product of K = 4 on link 0: columns of ones. -/
def d4 (roleB : Bool) : Nat := 8 + 2 ^ 8 + 4 * 2 ^ 16 + if roleB then 0 else 2 ^ 64 + 2 ^ 72 + 10 * 2 ^ 84
def col0 (k : Nat) : Col := ⟨k, List.replicate 32 (some (.fin false 1 0)), none, feed0, 0, k, 0⟩
def runE : Engine := { Engine.dormant with
  st := .running, formed := true, near := { endA with desc := d4 false }, far := { endB with desc := d4 true }, tile0 := List.replicate 1024 0
  tile1 := List.replicate 1024 0 }
theorem witness_LoadersAndRestores :
    (let h : HeldOpen := ⟨16, false, descA, 0, 7, [], [], []⟩
     let e := { Engine.dormant with st := .idle, near := { EEnd.closed with heldOpen := some h } }
     e.near.heldOpen = some h ∧ e.near.isOpen = false ∧ e.far.isOpen = false ∧ e.st = .idle)
    ∧ (let s := { linkS { runE with st := .suspended, saved := .running, token := true, lease := some ⟨1, 0, 0, 0, 5, 0, 0⟩, far := { runE.far with party := 16 } } with now := 1500 }
       (s.eng 0).st = .suspended ∧ (s.eng 0).token = true ∧ (s.eng 0).lease = some ⟨1, 0, 0, 0, 5, 0, 0⟩ ∧ 0 + 1500 ≤ s.now ∧ s.partiesRun 0 = true
       ∧ (s.eng 0).broken = false ∧ (s.eng 0).saved = .running)
    ∧ ({ Engine.dormant with st := .suspended }).token = false
    -- the dense path, and the pre-pass of a product with a term in force
    ∧ (∀ sp ∈ [none, some (false, ⟨1, 0, 0, 0, 0, 0, none⟩)],
       let s := linkS { runE with
         near := { runE.near with feeds := [feed0], fetch := some ⟨0, some ⟨feed0, 0, 0, []⟩, true⟩ }, sp := Table.empty.set 0 sp }
       let e := s.eng 0
       e.moving s.now = true ∧ e.near.feeds = [feed0] ∧ e.near.fetch = some ⟨s.now, some ⟨feed0, feed0.pos, e.near.fetched, []⟩, true⟩
       ∧ feed0.pos = 0 ∧ e.inPrePass (e.near.fetched / e.kLen) = sp.isSome
       ∧ ∀ c ∈ (s.readBlock (endCore 0 false) e.near.cache (dOfmt e.near.desc) (e.amode != 0) feed0 feed0.pos e.near.fetched).2, c.bad = none)
    ∧ Engine.dormant.moving 0 = false ∧ runE.near.fetch = none
    ∧ (let e := { runE with
         near := { runE.near with pre := [col0 0, col0 1, col0 2, col0 3] }, far := { runE.far with pre := [col0 0, col0 1, col0 2, col0 3] },
         sp := Table.empty.set 0 (some (false, ⟨1, 0, 0, 0, 0, 0, none⟩)) }
       e.moving 0 = true ∧ e.prePassReady e.prod = true) := by decide +kernel

theorem witness_StepsAndDrains :
    (let s := { linkS { runE with started := true, passed := (List.range 3).map (fun k => (col0 k, col0 k, true)) } with now := 12 }
     let e := s.eng 0
     e.moving s.now = true ∧ e.st = .running ∧ e.started = true ∧ e.stepNow s.now = true ∧ e.copies = [] ∧ badTile 0 ∉ s.bad
     ∧ e.plan = none ∧ (∀ p ∈ e.passed, p.1.bad = none ∧ p.2.1.bad = none) ∧ e.stepPairs.filter (·.2.2) ≠ []
     ∧ e.kpos + e.stepPairs.length < e.kLen ∧ e.tile.length = 1024)
    ∧ (let e := { runE with st := .draining }
       e.moving 0 = true ∧ e.st = .draining ∧ e.pendingDrains = [])
    ∧ (let e := { runE with near := { runE.near with desc := d4 false + 2 * 2 ^ 96 }, since := 2, started := true }
       e.kspl ≠ 0 ∧ e.since = e.kspl ∧ e.started = true ∧ e.st = .running ∧ e.held = none)
    ∧ (let s := linkS { runE with st := .draining, drains := [drain0], recv := 16 * 2 ^ 32 }
       let e := s.eng 0
       e.moving s.now = true ∧ e.heldTile = none ∧ e.passing = none ∧ e.st = .draining ∧ e.nextDrain = some drain0 ∧ drain0.due ≤ s.now
       ∧ e.rowAt ≤ s.now ∧ e.acks = []
       ∧ s.drainWhy 0 drain0 = 0)
    ∧ (let s := linkS { runE with st := .draining, drains := [drain0], recv := 1 }
       s.drainWhy 0 drain0 ≠ 0 ∧ ((s.eng 0).end_ (s.eng 0).aFar).fault = none)
    ∧ (let e := { runE with st := .draining, drains := [{ drain0 with begun := true }] }
       (e.runs && e.standing 0) = false ∧ e.rowAt ≤ 0 ∧ e.passing = some { drain0 with begun := true } ∧ drain0.image = none
       ∧ e.recvCore = linkNear 0)
    ∧ (let e := { runE with st := .draining, drains := [{ drain0 with begun := true }], held := some (0, false) }
       e.moving 0 = false ∧ e.runs = true ∧ e.passing = some { drain0 with begun := true })
    ∧ ((epiS.eng 0).passing.bind (·.image)).isSome = true ∧ ((epiS.eng 0).runs && (epiS.eng 0).standing epiS.now) = false
    ∧ (epiS.eng 0).rowAt ≤ epiS.now
    ∧ (let s := linkS runE
       let r : RowWrite := ⟨0, 1, 0x1BFFC, [1, 2, 3, 4], none, none, true, 1⟩
       Memory.wf s.mem = true ∧ s.gate r.core (some (((s.eng 0).end_ (s.eng 0).aFar).party / 16)) = .pass ∧ r.acc = none ∧ r.dw = none
       ∧ (s.core r.core).refused = [] ∧ s.badPart (spad r.core r.off) r.bytes.length = false
       ∧ (let u := s.modCore 1 (fun k => { k with refused := [s.rowSrc r + 4096 * 7] })
          refusedBefore (u.core 1).refused (u.rowSrc r) (rowTok r) = true))
    ∧ (let s := (linkS runE).modTeam 1 (fun u => { u with st := .suspended })
       s.gate 1 (some (((s.eng 0).end_ (s.eng 0).aFar).party / 16)) = .refuse) := by decide +kernel

/-- A request of core 0 for the first line of HBM. -/
def req0 (k : HomeKind) (data : List Byte) : HomeReq :=
  { kind := k, core := 0, ctx := 0, pa := 0, va := 2 ^ 32, space := 0, res := true, tok := 7, data := data, tries := 0 }
/-- A packet from core 0 to core 1 of its team, and one that waits at a router's input. -/
def pkt0 (b : PktBody) : Pkt := ⟨.data, 0, 1, 1, 0, 0, 7, 0, b, 0⟩
def chS (key : Nat) (p : Pkt) : State := (pairS 0).modRouter 0 (fun r => { r with chans := r.chans.set key ⟨[p], 0⟩ })
theorem witness_FabricMoves :
    (let i : Inj := ⟨.pkt (pkt0 (.store 0 [1])), [], 0⟩
     let s := (pairS 0).modCore 0 (fun k => { k with inj := [i] })
     (s.core 0).pickInj s.backPressure [] 0 (s.core 0).inj = some 0 ∧ (s.core 0).inj[0]? = some i ∧ i.ready ≤ s.now
     ∧ Table.get 0 (s.router 0).busy injKey ≤ s.now ∧ s.injRoom 0 i = true)
    ∧ (let i : Inj := ⟨.marker 0 7, [], 2⟩
       let s := (pairS 0).modCore 0 (fun k => { k with inj := [i] })
       (s.core 0).pickInj s.backPressure [] 0 (s.core 0).inj = some 0 ∧ s.now < i.ready)
    ∧ paKind (req0 .load []).pa = .hbm
    ∧ ((pairS 0).core 0).pickInj (pairS 0).backPressure [] 0 ((pairS 0).core 0).inj = none
    ∧ (let s := chS (chanKey 5 2 0) (pkt0 (.store 0 [1]))
       Table.get 0 (s.router 0).busy 0 ≤ s.now ∧ (s.router 0).wait = []
       ∧ (bestReq (Table.get 5 (s.router 0).last 0) ((s.requests 0 0).filter (s.canTake 0 0))).isSome = true
       ∧ ∀ q ∈ s.requests 0 0, (s.nextChan 0 0 q).1 ≠ 0)
    ∧ (let s := chS (chanKey 5 2 0) { pkt0 (.store 0 [1]) with wait := 64 }
       ((s.router 0).chan (chanKey 5 2 0)).q = [{ pkt0 (.store 0 [1]) with wait := 64 }] ∧ chanKey 5 2 0 % 4 < 2 ∧ s.escwait ≤ 64
       ∧ 1 ≤ ((s.router 0).chan (chanKey 5 2 0 - chanKey 5 2 0 % 4 + 2)).free) := by decide +kernel

/-- A store just below the window stacks of core 1, and one against them; a suspended and a halted target; an empty and a full word. -/
theorem witness_ArrivalsAndAcknowledgements :
    (let s := pairS 0
     Memory.wf s.mem = true ∧ s.gate 1 (s.core 0).team = .pass ∧ (s.core 1).refused = [] ∧ s.touchesStacks 1 0x1BFF8 8 = false
     ∧ s.badPart (spad 1 0x1BFF8) 8 = false ∧ s.touchesStacks 1 0x1BFF9 8 = true ∧ (s.core 1).rstRefused = [] ∧ s.isFull 1 0x1BFF8 = false
     ∧ (∀ w ∈ (s.core 1).rstWait, w.off ≠ 0x1BFF8) ∧ s.feWaiters 1 0x1BFF8 false = [])
    ∧ (pairS 0 |>.modTeam 1 (fun u => { u with st := .suspended })).gate 1 (some 1) = .refuse
    ∧ (pairS 0 |>.modTeam 1 (fun u => { u with st := .halted })).gate 1 (some 1) = .drop
    ∧ (let s := { pairS 0 with full := [spad 1 0] }
       s.isFull 1 0 = true ∧ (s.core 1).rstWait.length < 32 ∧ 32 ≤ ((s.modCore 1 (fun k => { k with
         rstWait := List.replicate 32 ⟨0, 0, 0, 0, 0, 0⟩ })).core 1).rstWait.length)
    ∧ (let y : Core := { Core.idle with unacked := [⟨7, [0], .remote 1⟩] }
       (∃ o ∈ y.unacked, o.tok = 7) ∧ (∀ w ∈ y.wcb, w.tok ≠ 7) ∧ (∀ o ∈ y.unacked, o.tok ≠ 8)) := by decide +kernel

theorem witness_HomeEvents :
    (req0 .load []).core < 4096 ∧ ({ req0 .load [] with res := false }).res = false
    ∧ (let s := State.reset.modDie 0 (fun d => { d with lines := [(0, false)] })
       homeDie 0 = 0 ∧ (∀ q ∈ (s.die 0).resq, q.pa / 65536 ≠ 0) ∧ s.loadBad (req0 .load []) = false ∧ (∃ e ∈ (s.die 0).lines, e.1 = 0))
    ∧ (let r := req0 (.store 0xFF) (List.replicate 64 1)
       Memory.wf State.reset.mem = true ∧ r.data.length = 64 ∧ State.reset.badIn r.pa 64 = false
       ∧ State.reset.blockedAt r ((storeWords 0xFF).map (fun k => r.pa + 8 * k)) = none ∧ State.reset.stillHeld r = false)
    ∧ (let r := req0 (.red .faddF32) (leBytes 4 1)
       State.reset.badIn r.pa (redBytes .faddF32) = false ∧ State.reset.blockedAt r [r.pa] = none)
    ∧ (let s := { State.reset with holds := Table.empty.set 0 ⟨65535, 0, [req0 .hold []]⟩ }
       s.holds.find (0 / 8) = some ⟨65535, 0, [req0 .hold []]⟩ ∧ s.badIn 0 8 = false)
    ∧ ({ State.reset with holds := Table.empty.set 0 ⟨65535, 0, []⟩ }).holds.find (0 / 8) = some ⟨65535, 0, []⟩ ∧ paKind 0 = .hbm := by
  decide +kernel

/-- A channel with a read, with 48 writes, and during a refresh; a walk a context waits for. -/
theorem witness_ChannelsAndWalks :
    (let x : HbmChan := { HbmChan.idle with reads := [(0, req0 .load [])] }
     x.notBefore ≤ 0 ∧ x.draining = false ∧ x.writes = [] ∧ pickServe 0 x.row ((x.reads.take 64).map (fun e => (e.1, hbmRow e.2.pa))) = 0
     ∧ x.reads[0]? = some (0, req0 .load []) ∧ (req0 .load []).core < 4096)
    ∧ (let x : HbmChan := { HbmChan.idle with writes := List.replicate 48 (0, 0) }
       x.notBefore ≤ 0 ∧ x.reads = [] ∧ 48 ≤ x.writes.length)
    ∧ 0 < ({ HbmChan.idle with notBefore := 1 }).notBefore
    ∧ (let s := (teamS.modDie 0 (fun d => { d with walks := [⟨0, 65536, [(0, 0)], 0⟩] })).modMe (fun x => { x with park := some (.cond (.xlat 0 65536) none) })
       (s.die 0).walks = [⟨0, 65536, [(0, 0)], 0⟩] ∧ (0, 0) ∈ [((0 : Nat), (0 : Nat))] ∧ coreDie 0 = 0
       ∧ (s.ctx 0 0).park = some (.cond (.xlat 0 65536) none)) := by decide +kernel

/-- A COPY of one row of 16 bytes within the scratchpad, from 0 to 64; a GATHER of one index. -/
def copyD : Nat := 64 * 2 ^ 64 + 16 * 2 ^ 128 + 2 ^ 160 + 2 ^ 192 + 2 ^ 224
def cmd0 (k : CmdKind) (d : Nat) (rows : List Row) : Cmd := ⟨9, k, d, false, 0, 0, some 9, 1, none, false, 0, rows, false, none, 0, [], [], none, none, 0⟩
def gatherD : Nat := 64 * 2 ^ 64 + 16 * 2 ^ 128 + 1 * 2 ^ 192 + 16 * 2 ^ 224 + 128 * 2 ^ 256 + 16 * 2 ^ 320 + 2 ^ 352
def spanIs {α : Type} [BEq α] (r : CopyRes α) (v : α) : Bool :=
  match r with
  | .ok x => x == v
  | _ => false
theorem witness_CopyEngine :
    (let s := teamS.modCore 0 (fun k => { k with cmds := [cmd0 .copy copyD []] })
     (s.core 0).cmds = [cmd0 .copy copyD []] ∧ (∀ k ∈ (s.core 0).cmds, k.active = false) ∧ s.teamStopped 0 = false
     ∧ (s.core 0).anyOut (cmd0 .copy copyD []).after = false ∧ (cmd0 .copy copyD []).total = 1 ∧ (cmd0 .copy copyD []).strideBad = false
     ∧ (cmd0 .copy copyD []).waits = [] ∧ (s.core 0).schWait = []
     ∧ (s.core 0).findCmd 9 = some (cmd0 .copy copyD []) ∧ (cmd0 .copy copyD []).tok = some 9 ∧ (cmd0 .copy copyD []).sched = none)
    -- a row within one segment of 64 bytes, and one across two
    ∧ (∀ d ∈ [64, 56], let r := (cmd0 .copy (copyD - 64 * 2 ^ 64 + d * 2 ^ 64) []).boxRow 0
       let c := cmd0 .copy (copyD - 64 * 2 ^ 64 + d * 2 ^ 64) [r]
       let s := teamS.modCore 0 (fun k => { k with cmds := [c] })
       Memory.wf s.mem = true ∧ (s.core 0).findCmd 9 = some c ∧ c.parked = none ∧ c.walk = none ∧ 0 ∉ s.throttled ∧ (s.cluster (clusterOf 0)).beatAt ≤ s.now
       ∧ fld c.desc 483 482 = 0 ∧ fld c.desc 481 481 = 0 ∧ 0 < c.len ∧ r.data = none ∧ r.done = 0
       ∧ c.rows.find? (fun y => y.k == r.k) = some r ∧ r.fill = none ∧ isPad r.src = true ∧ isPad r.dst = true
       ∧ spanIs (s.padSpan 0 9 r.src c.len false) (0, 0) = true ∧ spanIs (s.padSpan 0 9 r.dst c.len true) (0, d) = true
       ∧ s.badIn (spad 0 0) c.len = false ∧ s.badPart (spad 0 d) c.len = false)
    ∧ (let c := cmd0 .gather gatherD []
       let s := teamS.modCore 0 (fun k => { k with cmds := [c] })
       (s.core 0).findCmd 9 = some c ∧ c.err = none ∧ c.sentAll = false ∧ c.parked = none ∧ c.walk = none ∧ 0 ∉ s.throttled
       ∧ spanIs (s.copyRead 0 9 (fld c.desc 319 256 + 32 * c.next) 32) (List.replicate 32 0, s) = true)
    ∧ (let e : SEntry := ⟨0, 0, 0, .copy, false, 0, copyD⟩
       let u := { team1 with lr := { lr1 with sch := [[e]] }, scheds := [⟨0, 0, []⟩] }
       let s := teamS.modTeam 1 (fun _ => u)
       s.teams.find 1 = some u ∧ u.lr.sch[0]? = some [e] ∧ u.scheds[0]? = some ⟨0, 0, []⟩ ∧ ([e] : List SEntry)[0]? = some e ∧ e.stage ≤ u.stage
       ∧ (s.core (coreAt u.die (u.ox + e.cx) (u.oy + e.cy))).team = some 1
       ∧ (s.core (coreAt u.die (u.ox + e.cx) (u.oy + e.cy))).cmds.length < 16
       ∧ (s.core (coreAt u.die (u.ox + e.cx) (u.oy + e.cy))).schWait = []
       ∧ s.teamStopped (coreAt u.die (u.ox + e.cx) (u.oy + e.cy)) = false) := by decide +kernel

/-- A page of 1 GiB mapped by a table, and requests queued for it. -/
def mapS : State := { teamS with
  slots := Table.empty.set 0 { Machine.Slot.idle with root := 0x10000 }
  mem := memPut (memPut [] 0x10000 (leBytes 8 (0x20000 + 1))) (0x20000 + 8 * 4) (leBytes 8 (2 + 8 * 3)) }
theorem witness_OutsideEvents :
    (Memory.wf mapS.mem = true ∧ (mapS.walk 0 (2 ^ 32)).isSome = true ∧ (mapS.readsOf 0 (2 ^ 32)).getLast? = some (0x20000 + 32))
    ∧ (let s := mapS.modDie 0 (fun d => { d with resq := [req0 .load []] })
       (s.walk 0 (2 ^ 32)).elim false (fun e => decide (e.pa ≤ 0 ∧ 0 < e.pa + e.size)) = true ∧ req0 .load [] ∈ (s.die 0).resq)
    ∧ (let s := { State.reset with spanEn := 1, spanin := Table.empty.set 0 (2 ^ 30, 2 ^ 30) }
       s.spanEn.getLsbD (0 : Fin 24).val = true ∧ (Table.get (0, 0) s.spanin 0).1 ≤ 2 ^ 30 ∧ 2 ^ 30 < 2 ^ 30 + (Table.get (0, 0) s.spanin 0).2)
    ∧ State.reset.spanEn.getLsbD (23 : Fin 24).val = false
    ∧ (let s := { meS (fun x => { x with park := some (.result 9 8 (.load (.w 8) 8 false 64 (List.replicate 8 none))) }) with pcie := [(0, 0, 9, 0)] }
       (∃ p ∈ s.pcie, p.2.2.1 = 9) ∧ (s.ctx 0 0).park = some (.result 9 8 (.load (.w 8) 8 false 64 (List.replicate 8 none)))
       ∧ 8 ≤ (List.replicate 8 (0 : Byte)).length ∧ ([] : List Byte).length < 8)
    ∧ 2 ^ 54 - 1 < 2 ^ 54 := by decide +kernel

theorem witness_StewardEvents :
    (let r : SvcReq := ⟨7, 0, 0, 1, 0, 0, 5⟩
     ({ State.reset with svcq := [r] }).svcq = [r] ∧ State.reset.svcq = [] ∧ isPlainDst (.o 7) = true
     ∧ ((State.reset.modSteward 0 (fun k => { k with popped := some r })).steward 0).popped = some r)
    ∧ ((meS (fun x => { x with park := some (.result 7 8 (.answer (.w 8))) })).ctx 0 0).park = some (.result 7 8 (.answer (.w 8)))
    ∧ (teamS.runningTeam (fld (0 : Word).toNat 41 32) (fld (0 : Word).toNat 15 0) = some 1 ∧ teamS.switch = none)
    ∧ ((State.reset.steward 0).inv = none ∧ State.reset.oldAccess State.reset.tok true 0 = false)
    ∧ fld (0xBFFF_FFFF_0000 : Word).toNat 51 16 * 65536 ≥ 0xC0_0000_0000 ∧ fld (0xBF_FFFF_0000 : Word).toNat 51 16 * 65536 < 0xC0_0000_0000
    ∧ (let v : Word := 23 + 752 * 2 ^ 28
       fld v.toNat 4 0 ≤ 23 ∧ fld v.toNat 27 8 + fld v.toNat 47 28 ≤ 752) ∧ 23 < fld (24 : Word).toNat 4 0
    ∧ (16 ≤ fld (16 : Word).toNat 12 0 ∧ fld (4096 : Word).toNat 12 0 ≤ 4096) ∧ fld (15 : Word).toNat 12 0 < 16 ∧ 4096 < fld (4097 : Word).toNat 12 0 := by
  decide +kernel

end Sys2Proof.Tests
end

section
/-! PROOFS. The V slot's rule (R10, R58, R360): what a V operation writes is read lane by lane, and only the written lanes raise flags; then
the lists the operations compute (parts, groups, the pairwise tree, the running scan) as functions of the lane. -/

namespace Sys2Proof.Machine

/-! ### Flags -/

theorem flagsOr_assoc (a b c : Flags) : flagsOr (flagsOr a b) c = flagsOr a (flagsOr b c) := by
  simp [flagsOr, Bool.or_assoc]
theorem flagsOr_comm (a b : Flags) : flagsOr a b = flagsOr b a := by
  simp [flagsOr, Bool.or_comm]
theorem flagsOr_left_comm (a b c : Flags) : flagsOr a (flagsOr b c) = flagsOr b (flagsOr a c) := by
  rw [← flagsOr_assoc, flagsOr_comm a b, flagsOr_assoc]
@[simp] theorem flagsOr_zero (a : Flags) : flagsOr a Flags.zero = a := by
  simp [flagsOr, Flags.zero]
@[simp] theorem zero_flagsOr (a : Flags) : flagsOr Flags.zero a = a := by
  rw [flagsOr_comm, flagsOr_zero]

theorem foldl_flagsOr (l : List Flags) (a : Flags) : l.foldl flagsOr a = flagsOr a (flagsAll l) := by
  have : Std.Associative flagsOr := ⟨flagsOr_assoc⟩
  rw [flagsAll, ← List.foldl_assoc (op := flagsOr), flagsOr_zero]
@[simp] theorem flagsAll_nil : flagsAll [] = Flags.zero := rfl
@[simp] theorem flagsAll_cons (a : Flags) (l : List Flags) : flagsAll (a :: l) = flagsOr a (flagsAll l) := by
  rw [← foldl_flagsOr, flagsAll, List.foldl_cons, zero_flagsOr]
@[simp] theorem flagsAll_append (l k : List Flags) : flagsAll (l ++ k) = flagsOr (flagsAll l) (flagsAll k) := by
  rw [← foldl_flagsOr, flagsAll, List.foldl_append, ← flagsAll]

/-! ### Lanes and bytes of a vector (R10, R360) -/

/-- A lane width: whole bytes, and whole lanes in a vector. -/
def IsLaneWidth (w : Nat) : Prop := 0 < w ∧ 8 ∣ w ∧ w ∣ 256
theorem isLaneWidth_32 : IsLaneWidth 32 := ⟨by decide, by decide, by decide⟩
theorem isLaneWidth_width (t : Ty) : IsLaneWidth t.width := by
  unfold IsLaneWidth
  cases t <;> decide

/-- Lanes are read in order. -/
theorem lanesOf_eq (w : Nat) (v : VWord) : lanesOf w v = (List.range (256 / w)).map (fun j => (vLane w v j).toNat) := by
  simp [lanesOf, vLane, Nat.shiftRight_eq_div_pow]
theorem State.me_vLanes (s : State) (w : Nat) (n : Fin 16) : s.me.vLanes w n = (List.range (256 / w)).map (s.vOf w n) :=
  lanesOf_eq w _
theorem State.me_vbLanes (s : State) (w : Nat) (b : VSrc) : s.me.vbLanes w b = (List.range (256 / w)).map (s.vB w b) := by
  cases b with
  | v n => exact s.me_vLanes w n
  | o n => exact List.eq_replicate_iff.2 ⟨by simp, by simp [State.vB, Ctx.read]⟩ |>.symm

/-- Bit `i` of packed lanes is bit `i mod w` of lane `i / w`. -/
theorem testBit_packLanes {w : Nat} (hw : 0 < w) (l : List Nat) (i : Nat) :
    (packLanes w l).testBit i = (l.getD (i / w) 0).testBit (i % w) := by
  induction l generalizing i with
  | nil => simp [packLanes]
  | cons x xs ih =>
    rw [packLanes, Nat.add_comm, Nat.testBit_two_pow_mul_add _ (Nat.mod_lt _ (Nat.two_pow_pos w))]
    by_cases hi : i < w
    · simp [hi, Nat.div_eq_of_lt hi, Nat.mod_eq_of_lt hi, Nat.testBit_mod_two_pow]
    · have hle : w ≤ i := Nat.le_of_not_lt hi
      have hdiv : i / w = (i - w) / w + 1 := Nat.div_eq_sub_div hw hle
      rw [if_neg hi, ih, hdiv, List.getD_cons_succ, Nat.mod_eq_sub_mod hle]

theorem getLsbD_vecOf {w : Nat} (hw : 0 < w) (l : List Nat) {i : Nat} (hi : i < 256) :
    (vecOf w l).getLsbD i = (l.getD (i / w) 0).testBit (i % w) := by
  rw [vecOf, BitVec.getLsbD_ofNat, testBit_packLanes hw, decide_eq_true hi, Bool.true_and]

/-- Byte `j` of packed lanes is byte `j mod (w/8)` of lane `j / (w/8)`. -/
theorem vByte_vecOf {w : Nat} (hw : IsLaneWidth w) (l : List Nat) {j : Nat} (hj : j < 32) :
    vByte (vecOf w l) j = BitVec.ofNat 8 (l.getD (j / (w / 8)) 0 / 256 ^ (j % (w / 8))) := by
  obtain ⟨hpos, ⟨b, rfl⟩, -⟩ := hw
  ext k hk
  have hbyte : (8 * j + k) / 8 = j := by omega
  have hlane : (8 * j + k) / (8 * b) = j / b := by rw [← Nat.div_div_eq_div_mul, hbyte]
  have hbit : (8 * j + k) % (8 * b) = k + 8 * (j % b) := by rw [Nat.mod_mul, hbyte]; omega
  have h256 : 256 ^ (j % b) = 2 ^ (8 * (j % b)) := by rw [Nat.pow_mul]
  simp only [← BitVec.getLsbD_eq_getElem, vByte, BitVec.getLsbD_extractLsb', BitVec.getLsbD_ofNat, hk, decide_true, Bool.true_and,
    Nat.mul_div_cancel_left b (by decide : 0 < 8)]
  rw [getLsbD_vecOf hpos l (by omega), hlane, hbit, h256, Nat.testBit_div_two_pow]

theorem bit_toNat {n : Nat} (x : BitVec n) (i : Nat) : bit x.toNat i = x.getLsbD i := by
  rw [bit, BitVec.getLsbD, Nat.testBit_eq_decide_div_mod_eq, Bool.beq_eq_decide_eq]

/-- The byte mask repeats each mask bit over its byte. -/
theorem getLsbD_byteMask (m : Lane) {i : Nat} (hi : i < 256) : (byteMask m).getLsbD i = m.getLsbD (i / 8) := by
  have hlane : i / 8 < 32 := by omega
  have hones : (255 : Nat).testBit (i % 8) = true := by
    rw [show (255 : Nat) = 2 ^ 8 - 1 from rfl, Nat.testBit_two_pow_sub_one]
    exact decide_eq_true (Nat.mod_lt _ (by decide))
  rw [show byteMask m = vecOf 8 ((List.range 32).map (fun j => if bit m.toNat j then 255 else 0)) from rfl,
    getLsbD_vecOf (by decide) _ hi, List.getD_eq_getElem _ _ (by simpa using hlane), List.getElem_map, List.getElem_range, bit_toNat]
  cases m.getLsbD (i / 8) <;> simp [hones]

/-- Merged bytes are the new ones where the mask selects, the old ones elsewhere. -/
theorem vByte_mergeBytes (m : Lane) (old new : VWord) {j : Nat} (hj : j < 32) :
    vByte (mergeBytes m old new) j = if m.getLsbD j then vByte new j else vByte old j := by
  ext k hk
  have hi : 8 * j + k < 256 := by omega
  have hbyte : (8 * j + k) / 8 = j := by omega
  have hm : (byteMask m).getLsbD (8 * j + k) = m.getLsbD j := by rw [getLsbD_byteMask m hi, hbyte]
  cases hs : m.getLsbD j <;>
    simp [vByte, mergeBytes, ← BitVec.getLsbD_eq_getElem, BitVec.getLsbD_extractLsb', hk, hi, hm, hs]

/-! ### The rule of the V slot (R360) -/

theorem Ctx.readV_writeV (x : Ctx) (k n : Fin 16) (v : VWord) : (x.writeV n v).readV k = if k = n then v else x.readV k := by
  simp [Ctx.readV, Ctx.writeV, Table.get_set, Fin.ext_iff]

/-- Writing a vector and raising flags changes nothing else of the context, and of the state. -/
theorem State.vecOnly_vRun {s : State} {g : Ctx → Ctx} {vd : Fin 16} {v : VWord} {f : Flags}
    (hg : g s.me = (s.me.writeV vd v).raise f) : s.vecOnly (s.vRun g) vd := by
  have hme : (s.vRun g).me = (s.me.writeV vd v).raise f := (s.me_modMe g).trans hg
  refine ⟨fun r => ?_, fun k => ?_, fun k => ?_, fun k hk => ?_, ?_, s.othersKept_modMe g, rfl⟩
  · rw [hme]; cases r <;> rfl
  · rw [hme]; rfl
  · rw [hme]; rfl
  · rw [hme]; exact (Ctx.readV_writeV s.me k vd v).trans (if_neg hk)
  · rw [hme]; exact ⟨rfl, rfl, rfl, rfl, rfl, rfl⟩

/-- The entries of a list over the lanes, with their numbers. -/
theorem zip_map_range {α : Type} (n : Nat) (f : Nat → α) : ((List.range n).map f).zip (List.range n) =
    (List.range n).map (fun j => (f j, j)) := by
  simpa using List.zip_map' (f := f) (g := id) (l := List.range n)

theorem laneFlags_map_range (w : Nat) (m : Lane) (n : Nat) (f : Nat → Flags) :
    laneFlags w m ((List.range n).map f) = flagsAll ((List.range n).map (fun j => if laneOn w m j then f j else Flags.zero)) := by
  rw [laneFlags, List.length_map, List.length_range, zip_map_range, List.map_map]
  rfl

/-- An operation that puts the lanes `f` writes them under the mask, with the flags of the written lanes, and changes nothing else. -/
theorem State.vDone_vRun {s : State} {g : Ctx → Ctx} {w : Nat} (hw : IsLaneWidth w) {vd : Fin 16} {mask : Fin 8} {r : List (Nat × Flags)}
    {f : Nat → Nat × Flags} (hg : g s.me = s.me.vPut w vd mask r) (hr : r = (List.range (256 / w)).map f) :
    s.vDone (s.vRun g) vd mask w f := by
  subst hr
  have hme : (s.vRun g).me = s.me.vPut w vd mask ((List.range (256 / w)).map f) := (s.me_modMe g).trans hg
  refine ⟨s.vecOnly_vRun hg, fun j hj => ?_, ?_⟩
  · have hlane : j / (w / 8) < 256 / w := by
      obtain ⟨hpos, ⟨b, rfl⟩, ⟨c, hc⟩⟩ := hw
      have hbc : b * c = 32 := by rw [Nat.mul_assoc] at hc; omega
      rw [hc, Nat.mul_div_cancel_left c hpos, Nat.mul_div_cancel_left b (by decide)]
      exact Nat.div_lt_of_lt_mul (by omega)
    have hread : (s.vRun g).me.readV vd = mergeBytes (s.me.readM mask) (s.me.readV vd)
        (vecOf w (((List.range (256 / w)).map f).map (·.1))) := by
      rw [hme]; exact (Ctx.readV_writeV s.me vd vd _).trans (if_pos rfl)
    rw [hread, vByte_mergeBytes _ _ _ hj, vByte_vecOf hw _ hj, List.map_map, List.getD_eq_getElem _ _ (by simpa using hlane),
      List.getElem_map, List.getElem_range]
    rfl
  · rw [hme, Ctx.vPut]
    simp only [Ctx.raise, Ctx.writeV_flags, List.map_map, laneFlags_map_range]
    rfl

/-! ### Integer lanes -/

theorem sgn_eq_toInt {w : Nat} (hw : 0 < w) (x : Nat) : sgn w x = (BitVec.ofNat w x).toInt := by
  have h2 : 2 ^ w = 2 * 2 ^ (w - 1) := by rw [← Nat.pow_succ', Nat.succ_eq_add_one, Nat.sub_add_cancel hw]
  rw [sgn, BitVec.toInt_eq_toNat_cond, BitVec.toNat_ofNat]
  by_cases h : x % 2 ^ w < 2 ^ (w - 1)
  · rw [if_pos h, if_pos (by omega)]
  · rw [if_neg h, if_neg (by omega)]
theorem unsgn_eq_toNat (w : Nat) (x : Int) : unsgn w x = (BitVec.ofInt w x).toNat := by
  rw [unsgn, BitVec.toNat_ofInt]
theorem laneInt_eq_intLane (t : Ty) (x : Nat) : laneInt t x = intLane t x := by
  simp only [laneInt, intLane, sgn_eq_toInt (isLaneWidth_width t).1]

theorem foldl_add_eq_add_sum (l : List Int) (a : Int) : l.foldl (· + ·) a = a + l.sum := by
  rw [List.sum_eq_foldl, ← List.foldl_assoc (op := fun x y : Int => x + y), Int.add_zero]

/-! ### Groups of lanes (R365) -/

/-- The groups of `k` of lists of `k` entries laid end to end are those lists. -/
theorem groups_flatMap {α : Type} {k : Nat} (hk : 0 < k) (l : List α) {g : α → List Nat} (hg : ∀ x, (g x).length = k) :
    groups k (l.flatMap g) = l.map g := by
  induction l with
  | nil => simp [groups]
  | cons x l ih =>
    have hlen : (g x ++ l.flatMap g).length / k = (l.flatMap g).length / k + 1 := by
      rw [List.length_append, hg, Nat.add_div_left _ hk]
    have htail (j : Nat) : (g x ++ l.flatMap g).drop (k * (j + 1)) = (l.flatMap g).drop (k * j) := by
      rw [Nat.mul_succ, Nat.add_comm, ← List.drop_drop, List.drop_left' (hg x)]
    rw [List.flatMap_cons, groups, hlen, List.range_succ_eq_map, List.map_cons, List.map_map, List.map_cons, ← ih, Nat.mul_zero,
      List.drop_zero, List.take_left' (hg x), groups]
    congr 2
    funext j
    exact congrArg _ (htail j)

/-- Lanes `0` to `k * m - 1`, in groups of `k`. -/
theorem map_range_mul (k m : Nat) (f : Nat → Nat) :
    (List.range (k * m)).map f = (List.range m).flatMap (fun j => (List.range k).map (fun q => f (k * j + q))) := by
  induction m with
  | zero => rfl
  | succ m ih =>
    rw [Nat.mul_succ, List.range_add, List.map_append, ih, List.range_succ, List.flatMap_append, List.map_map, List.flatMap_singleton]
    rfl

theorem groups_map_range {k : Nat} (hk : 0 < k) (m : Nat) (f : Nat → Nat) :
    groups k ((List.range (k * m)).map f) = (List.range m).map (fun j => (List.range k).map (fun q => f (k * j + q))) := by
  rw [map_range_mul, groups_flatMap hk _ (fun j => by rw [List.length_map, List.length_range])]

/-! ### The pairwise tree (R58, R374) -/

section Tree
variable (t : Ty) (op : RedKind)

/-- The value and the flags of pair `i` of one level. -/
def pairOf (a : Nat → Nat) (i : Nat) : Nat × Flags := combine t op (a (2 * i)) (a (2 * i + 1))
/-- The flags of the `n` pairs of a level from pair `i` on. -/
def pairFlags (a : Nat → Nat) (i n : Nat) : Flags := flagsAll ((List.range n).map (fun j => (pairOf t op a (i + j)).2))

theorem pairFlags_add (a : Nat → Nat) (i n m : Nat) :
    pairFlags t op a i (n + m) = flagsOr (pairFlags t op a i n) (pairFlags t op a (i + n) m) := by
  simp only [pairFlags, List.range_add, List.map_append, flagsAll_append, List.map_map, Function.comp_def, Nat.add_assoc]

/-- One level combines neighbours: element `j` from elements `2 j` and `2 j + 1`. -/
theorem reduceLevel_map_range (n : Nat) (a : Nat → Nat) :
    reduceLevel t op ((List.range (2 * n)).map a) = ((List.range n).map (fun i => (pairOf t op a i).1), pairFlags t op a 0 n) := by
  induction n generalizing a with
  | zero => rfl
  | succ n ih =>
    have hlist : (List.range (2 * (n + 1))).map a = a 0 :: a 1 :: (List.range (2 * n)).map (fun i => a (i + 2)) := by
      rw [Nat.mul_succ, List.range_succ_eq_map, List.range_succ_eq_map]
      simp [Function.comp_def]
    have hpair (i : Nat) : pairOf t op (fun i => a (i + 2)) i = pairOf t op a (i + 1) := rfl
    rw [hlist, reduceLevel, ih]
    simp only [List.range_succ_eq_map, List.map_cons, List.map_map, Function.comp_def, pairFlags, flagsAll_cons, Nat.zero_add, hpair]
    rfl

/-- A tree of `k + 1` levels is the first level with a tree of `k` levels above it. -/
theorem treeOf_succ (a : Nat → Nat) (k i : Nat) :
    treeOf t op a (k + 1) i = ((treeOf t op (fun j => (pairOf t op a j).1) k i).1,
      flagsOr (pairFlags t op a (2 ^ k * i) (2 ^ k)) (treeOf t op (fun j => (pairOf t op a j).1) k i).2) := by
  induction k generalizing i with
  | zero => simp [treeOf, pairFlags, pairOf]
  | succ k ih =>
    have hl : 2 ^ (k + 1) * i = 2 ^ k * (2 * i) := by rw [Nat.pow_succ, Nat.mul_assoc]
    have hr : 2 ^ k * (2 * i) + 2 ^ k = 2 ^ k * (2 * i + 1) := rfl
    have hn : 2 ^ (k + 1) = 2 ^ k + 2 ^ k := by rw [Nat.pow_succ, Nat.mul_two]
    rw [treeOf, ih, ih, treeOf, hl, hn, pairFlags_add, hr]
    simp only [flagsOr_assoc, flagsOr_left_comm, flagsOr_comm]

/-- Level after level, `2 ^ k` lanes give the tree of `k` levels. -/
theorem reduceTree_map_range {k n : Nat} (hk : k ≤ n) (a : Nat → Nat) (f : Flags) :
    reduceTree t op n ((List.range (2 ^ k)).map a) f = ((treeOf t op a k 0).1, flagsOr f (treeOf t op a k 0).2) := by
  induction n generalizing k a f with
  | zero =>
    obtain rfl : k = 0 := Nat.le_zero.1 hk
    simp [reduceTree, treeOf]
  | succ n ih =>
    cases k with
    | zero => simp [reduceTree, treeOf]
    | succ k =>
      have hlevel := reduceLevel_map_range t op (2 ^ k) a
      rw [← Nat.pow_succ'] at hlevel
      have hlong : ∀ x, (List.range (2 ^ (k + 1))).map a ≠ [x] := fun x h => by
        have hone : 2 ^ (k + 1) = 1 := by simpa using congrArg List.length h
        omega
      rw [reduceTree, hlevel, ih (Nat.le_of_succ_le_succ hk), treeOf_succ, Nat.mul_zero, flagsOr_assoc]
      exact hlong
end Tree

/-- The lanes of a vector are as many as the leaves of its tree. -/
theorem lanes_eq_two_pow (t : Ty) : 256 / t.width = 2 ^ Nat.log2 (256 / t.width) ∧ Nat.log2 (256 / t.width) ≤ 6 := by
  cases t <;> decide

/-! ### The running scan (R376) -/

theorem scanFrom_map_range (t : Ty) (op : RedKind) (ex : Bool) (head : Nat → Bool) (a : Nat → Nat) (n j run : Nat)
    (hrun : (if head j then scanIdentity t op else run) = scanRun t op head a j) :
    scanFrom t op ex head j run ((List.range n).map (fun i => a (j + i))) = (List.range n).map (fun i =>
      let r := combine t op (scanRun t op head a (j + i)) (a (j + i))
      (if ex then scanRun t op head a (j + i) else r.1, r.2)) := by
  induction n generalizing j run with
  | zero => rfl
  | succ n ih =>
    have hnext := ih (j + 1) (combine t op (scanRun t op head a j) (a j)).1 rfl
    simp only [List.range_succ_eq_map, List.map_cons, List.map_map, Function.comp_def, scanFrom, hrun, Nat.add_zero]
    simp only [Nat.add_right_comm j 1] at hnext ⊢
    exact congrArg _ hnext

/-! ### The lanes each operation puts -/

theorem getD_map_range {n i : Nat} (f : Nat → Nat) (h : i < n) : ((List.range n).map f).getD i 0 = f i := by
  rw [List.getD_eq_getElem _ _ (by simpa using h), List.getElem_map, List.getElem_range]

/-- The lanes of a part, taken from the `ls` source lanes from `p` on where those are more, and put among the `ld` old lanes
from `lo` on (R364). -/
theorem partLanes_map_range (f : Nat → Nat × Flags) (a old : Nat → Nat) {ls ld p n : Nat} (lo : Nat)
    (h : (if ld < ls then p else 0) + n ≤ ls) :
    (((List.range ld).map old).zip (List.range ld)).map (fun q => if lo ≤ q.2 ∧ q.2 < lo + n then
      f (((List.range ls).map a).getD (if ld < ls then p + (q.2 - lo) else q.2 - lo) 0) else (q.1, Flags.zero))
    = (List.range ld).map (fun j => if lo ≤ j ∧ j < lo + n then f (a ((if ld < ls then p else 0) + (j - lo))) else (old j, Flags.zero)) := by
  rw [zip_map_range, List.map_map]
  refine List.map_congr_left fun j _ => ?_
  have hsrc : (if ld < ls then p + (j - lo) else j - lo) = (if ld < ls then p else 0) + (j - lo) := by split <;> omega
  by_cases hj : lo ≤ j ∧ j < lo + n
  · simp only [Function.comp_apply, if_pos hj, hsrc]
    rw [getD_map_range a (by omega)]
  · simp only [Function.comp_apply, if_neg hj]

/-- The lane functions of 32-bit lanes: VRCP, VRSQ and VEXP2 (R366, R373, R375). -/
theorem State.vDone_map (s : State) (vd va : Fin 16) (mask : Fin 8) (f : Nat → Nat × Flags) :
    s.vDone (s.vRun (fun c => c.vPut 32 vd mask ((c.vLanes 32 va).map f))) vd mask 32 (fun j => f (s.vOf 32 va j)) :=
  s.vDone_vRun isLaneWidth_32 rfl (by rw [s.me_vLanes, List.map_map]; rfl)

/-- VCVT (R364). -/
theorem State.vDone_vcvt (s : State) (td ts : Ty) (vd va : Fin 16) (mask : Fin 8) (rm : Rm) (sat : Bool) (part : BitVec 3) :
    let n := min (256 / ts.width) (256 / td.width)
    let lo := if 256 / ts.width < 256 / td.width then part.toNat * n else 0
    let from_ := if 256 / td.width < 256 / ts.width then part.toNat * n else 0
    from_ + n ≤ 256 / ts.width → ∃ t, exec (.vcvt td vd va mask ts rm sat part) s = .next t ∧ s.vDone t vd mask td.width (fun j =>
      if lo ≤ j ∧ j < lo + n then convertTy ts td rm sat (s.vOf ts.width va (from_ + (j - lo))) else (s.vOf td.width vd j, Flags.zero)) := by
  intro n lo from_ hpart
  exact ⟨_, rfl, s.vDone_vRun (isLaneWidth_width td) rfl (by
    rw [s.me_vLanes, s.me_vLanes]
    exact partLanes_map_range (convertTy ts td rm sat) _ _ _ hpart)⟩

/-- The two lane widths VDOT takes: four or two elements to a 32-bit lane. -/
theorem dot_width {t : Ty} (h : t.width ≤ 16) : 0 < 32 / t.width ∧ 256 / t.width = 32 / t.width * 8 := by
  revert h; cases t <;> decide

/-- VDOT (R365). -/
theorem State.vDone_vdot (s : State) (su : Bool) (x : VOps) (hx : x.ty.width ≤ 16) :
    let w := x.ty.width
    let k := 32 / w
    let a (j q : Nat) : Nat := s.vOf w x.va (k * j + q)
    let b (j q : Nat) : Nat := s.vB 32 x.vb j / 2 ^ (w * q) % 2 ^ w
    ∃ t, exec (.vdot su x) s = .next t ∧ s.vDone t x.vd x.mask 32 (fun j =>
      let d := s.vOf 32 x.vd j
      match fmtOf x.ty with
      | none => ((BitVec.ofInt 32 ((BitVec.ofNat 32 d).toInt + ((List.range k).map (fun q =>
          intLane x.ty (a j q) * intLane (if su then .n8 else x.ty) (b j q))).sum)).toNat, Flags.zero)
      | some f =>
        let as' := (List.range k).map (fun q => f.decode (a j q))
        let bs' := (List.range k).map (fun q => f.decode (b j q))
        fp32.result (dec32 d :: (as' ++ bs')) (numSum .rne (dec32 d :: List.zipWith numMul as' bs'))) := by
  intro w k a b
  obtain ⟨hk, hlanes⟩ := dot_width hx
  have ha : groups k (s.me.vLanes w x.va) = (List.range 8).map (fun j => (List.range k).map (a j)) := by
    rw [s.me_vLanes, hlanes, groups_map_range hk]
  have hb : groups k ((s.me.vbLanes 32 x.vb).flatMap (fun g => (List.range k).map (fun q => g / 2 ^ (w * q) % 2 ^ w)))
      = (List.range 8).map (fun j => (List.range k).map (b j)) := by
    rw [s.me_vbLanes, groups_flatMap hk _ (fun g => by rw [List.length_map, List.length_range]), List.map_map]
    rfl
  refine ⟨_, rfl, s.vDone_vRun isLaneWidth_32 rfl ?_⟩
  rw [ha, hb, s.me_vLanes, List.zip_map', List.zipWith_map, List.zipWith_self]
  refine List.map_congr_left fun j _ => ?_
  cases hf : fmtOf x.ty with
  | none =>
    simp only [List.zipWith_map, List.zipWith_self, laneInt_eq_intLane, foldl_add_eq_add_sum, unsgn_eq_toNat,
      sgn_eq_toInt isLaneWidth_32.1]
  | some f => simp only [List.map_map]; rfl

/-- One lane in front of lanes that are all alike. -/
theorem cons_replicate_eq_map_range {α : Type} {n : Nat} (hn : 0 < n) (r z : α) :
    r :: List.replicate (n - 1) z = (List.range n).map (fun j => if j = 0 then r else z) := by
  obtain ⟨m, rfl⟩ := Nat.exists_eq_add_one_of_ne_zero hn.ne'
  rw [List.range_succ_eq_map]
  simp [Function.comp_def]

/-- VREDUCE (R374). -/
theorem State.vDone_vreduce (s : State) (op : RedKind) (y : VUnOps) :
    ∃ t, exec (.vreduce op y) s = .next t ∧ s.vDone t y.vd y.mask y.ty.width (fun j =>
      if j = 0 then treeOf y.ty op (s.vOf y.ty.width y.va) (Nat.log2 (256 / y.ty.width)) 0 else (0, Flags.zero)) := by
  obtain ⟨hpow, hlevels⟩ := lanes_eq_two_pow y.ty
  have htree : reduceTree y.ty op 6 (s.me.vLanes y.ty.width y.va) Flags.zero
      = treeOf y.ty op (s.vOf y.ty.width y.va) (Nat.log2 (256 / y.ty.width)) 0 := by
    rw [s.me_vLanes]
    conv_lhs => rw [hpow]
    rw [reduceTree_map_range _ _ hlevels, zero_flagsOr]
  refine ⟨_, rfl, s.vDone_vRun (isLaneWidth_width y.ty) rfl ?_⟩
  rw [htree]
  exact cons_replicate_eq_map_range ((Nat.two_pow_pos _).trans_eq hpow.symm) _ _

/-- VSCAN (R376). -/
theorem State.vDone_vscan (s : State) (op : RedKind) (ex : Bool) (hm : Fin 8) (y : VUnOps) :
    let w := y.ty.width
    let a (j : Nat) : Nat := s.vOf w y.va j
    let head (j : Nat) : Bool := hm ≠ 0 && (s.me.readM hm).getLsbD (w / 8 * j)
    ∃ t, exec (.vscan op ex hm y) s = .next t ∧ s.vDone t y.vd y.mask w (fun j =>
      let r := combine y.ty op (scanRun y.ty op head a j) (a j)
      (if ex then scanRun y.ty op head a j else r.1, r.2)) := by
  intro w a head
  have hm0 : (hm.val != 0) = decide (hm ≠ 0) := by
    rw [Bool.eq_iff_iff, bne_iff_ne, decide_eq_true_iff, Ne, Ne, Fin.ext_iff]
    rfl
  have hhead : (fun j => hm.val != 0 && bit (s.me.readM hm).toNat (w / 8 * j)) = head := by
    funext j
    rw [bit_toNat, hm0]
  refine ⟨_, rfl, s.vDone_vRun (isLaneWidth_width y.ty) rfl ?_⟩
  have hscan := scanFrom_map_range y.ty op ex head a (256 / w) 0 (scanIdentity y.ty op) (ite_self _)
  simp only [Nat.zero_add] at hscan
  rw [hhead, s.me_vLanes]
  exact hscan

/-- Settles O35: VCVT, VDOT, VREDUCE, VSCAN and the lane functions put the lanes the statement names, under the mask and with the flags of
the written lanes. -/
theorem vectorReductions : Obligations.VectorReductions := by
  intro s td ts vd va mask hm rm sat su ex part x y op
  exact ⟨s.vDone_vcvt td ts vd va mask rm sat part, s.vDone_vdot su x, s.vDone_vreduce op y, s.vDone_vscan op ex hm y,
    ⟨_, rfl, s.vDone_map vd va mask vrcpLane⟩, ⟨_, rfl, s.vDone_map vd va mask vrsqLane⟩, ⟨_, rfl, s.vDone_map vd va mask vexp2Lane⟩⟩

end Sys2Proof.Machine
end

section
/-! PROOFS. Where the statement about steps fails: the end of a cycle runs the bundle a parked context holds again, whatever its S slot
holds, and the statement puts no bound on that bundle. -/

namespace Sys2Proof.Machine

/-- In cycle 1, context 0 of core 0 is parked on a condition that holds, with a bundle whose S slot is the operation DEVICE_RESET. No
encoding gives such a bundle (`Bundle.wf`), but a state may hold it. -/
def State.parkedOnReset : State :=
  let b : Bundle := ⟨.b64, 0, false, .deviceReset, .vnop⟩
  { State.reset with
    now := 1
    agenda := []
    ctxs := Table.empty.set 0 { Ctx.idle with st := .running, park := some (.cond .noPend (some b)) } }

/-- The cycle has nothing left, so the next step ends it. -/
theorem State.parkedOnReset_nothingDue :
    let s := State.parkedOnReset
    s.powered = true ∧ s.epi = none ∧ s.dueInput = none ∧ s.dueEvent = none ∧ s.nextCore = none ∧ s.dueBank = none := by
  decide +kernel

/-- Running the bundle again takes the cycle count back to 0 before it is counted on, so the cycle after cycle 1 is cycle 1 again. -/
theorem State.parkedOnReset_tick_now : State.parkedOnReset.tick.now = State.parkedOnReset.now := by
  decide +kernel

/-- Refutes O3: with nothing left in a cycle the next one begins, but its number is one more only if no bundle that goes on at the
cycle's end resets the count. `State.parkedOnReset` holds such a bundle. -/
theorem not_stepRunsTheDecoded : ¬ Obligations.StepRunsTheDecoded := by
  unfold Obligations.StepRunsTheDecoded
  rintro ⟨_, _, _, endOfCycle, _⟩
  obtain ⟨hpowered, hepi, hinput, hevent, hcore, hbank⟩ := State.parkedOnReset_nothingDue
  obtain ⟨_, hnow, _⟩ := endOfCycle State.parkedOnReset hpowered hepi hinput hevent hcore hbank
  rw [State.parkedOnReset_tick_now] at hnow
  exact absurd hnow (Nat.succ_ne_self _).symm

end Sys2Proof.Machine
end

section
/-! PROOFS. The return from an exception (R240, R306): the window below gets w16 to w19 and their pending state back, the predicates
return, every other register, vector and flag stays. Then BRK and the exception that halts the team (R241, R253, R289). -/

namespace Sys2Proof.Machine

/-! ### Leaving a trap -/

/-- What a write of a windowed register leaves alone, a run of such writes leaves alone. -/
theorem Ctx.foldl_writeW_keeps {α : Type} {field : Ctx → α} (keeps : ∀ x r v, field (Ctx.writeW x r v) = field x) (reg : Nat → Nat)
    (val : Nat → Word) (rs : List Nat) (x : Ctx) : field (rs.foldl (fun y r => y.writeW (reg r) (val r)) x) = field x := by
  induction rs generalizing x with
  | nil => rfl
  | cons r rs ih => rw [List.foldl_cons, ih, keeps]

/-- The pending marks of w12 to w15 move to the window below (R240). -/
def Ctx.moveSaved (x : Ctx) : Ctx :=
  x.movePend (fun k r => if k = x.depth ∧ 12 ≤ r ∧ r < 16 then some (.win (x.depth - 1) (r + 4)) else none)

/-- The return of predicates, trap depth and pc comes after the writes of w16 to w19 and touches no other field. -/
theorem Ctx.leaveTrap_writes {α : Type} {field : Ctx → α}
    (returns : ∀ (y : Ctx) p d a b, field { y with p := p, trapDepth := d, src := a, pc := b } = field y) (x : Ctx) :
    field x.leaveTrap = field ((List.range 4).foldl
      (fun y r => y.writeW (16 + r) (((List.range 4).map (fun r => x.readW (12 + r))).getD r 0)) x.moveSaved.closeWindow) := by
  rw [Ctx.leaveTrap, returns, Ctx.moveSaved]
/-- What neither of the two touches is as the closed window left it. -/
theorem Ctx.leaveTrap_keeps {α : Type} {field : Ctx → α} (writes : ∀ x r v, field (Ctx.writeW x r v) = field x)
    (returns : ∀ (y : Ctx) p d a b, field { y with p := p, trapDepth := d, src := a, pc := b } = field y) (x : Ctx) :
    field x.leaveTrap = field x.moveSaved.closeWindow := by
  rw [x.leaveTrap_writes returns, Ctx.foldl_writeW_keeps writes]

section LeaveTrap

variable (x : Ctx)

@[simp] theorem Ctx.leaveTrap_pc : x.leaveTrap.pc = x.readW 1 := rfl
@[simp] theorem Ctx.leaveTrap_openers : x.leaveTrap.openers = x.openers.tail :=
  x.leaveTrap_keeps Ctx.writeW_openers (fun _ _ _ _ _ => rfl)
@[simp] theorem Ctx.leaveTrap_pend : x.leaveTrap.pend = x.moveSaved.closeWindow.pend :=
  x.leaveTrap_keeps Ctx.writeW_pend (fun _ _ _ _ _ => rfl)
@[simp] theorem Ctx.leaveTrap_g : x.leaveTrap.g = x.g := x.leaveTrap_keeps Ctx.writeW_g (fun _ _ _ _ _ => rfl)
@[simp] theorem Ctx.leaveTrap_o : x.leaveTrap.o = x.o := x.leaveTrap_keeps Ctx.writeW_o (fun _ _ _ _ _ => rfl)
@[simp] theorem Ctx.leaveTrap_l : x.leaveTrap.l = x.l := x.leaveTrap_keeps Ctx.writeW_l (fun _ _ _ _ _ => rfl)
@[simp] theorem Ctx.leaveTrap_i : x.leaveTrap.i = x.i := x.leaveTrap_keeps Ctx.writeW_i (fun _ _ _ _ _ => rfl)
@[simp] theorem Ctx.leaveTrap_v : x.leaveTrap.v = x.v := x.leaveTrap_keeps Ctx.writeW_v (fun _ _ _ _ _ => rfl)
@[simp] theorem Ctx.leaveTrap_m : x.leaveTrap.m = x.m := x.leaveTrap_keeps Ctx.writeW_m (fun _ _ _ _ _ => rfl)
@[simp] theorem Ctx.leaveTrap_flags : x.leaveTrap.flags = x.flags := x.leaveTrap_keeps Ctx.writeW_flags (fun _ _ _ _ _ => rfl)
@[simp] theorem Ctx.leaveTrap_trapDepth : x.leaveTrap.trapDepth = x.trapDepth - 1 := by
  rw [Ctx.leaveTrap]
  exact congrArg (· - 1) (Ctx.foldl_writeW_keeps Ctx.writeW_trapDepth ..)

end LeaveTrap

/-- A well-nested context inside a trap has a window below the current one. -/
theorem Ctx.nested.depth_ne_one {x : Ctx} (hnested : x.nested) (htrap : x.trapDepth ≠ 0) : x.depth ≠ 1 := by
  have hcount : x.openers.count .trap ≤ x.openers.length := List.count_le_length
  unfold Ctx.nested at hnested
  unfold Ctx.depth
  omega

theorem Ctx.leaveTrap_depth {x : Ctx} (hd : x.depth ≠ 1) : x.leaveTrap.depth = x.depth - 1 := by
  have hclose : x.leaveTrap.depth = x.closeWindow.depth := by simp [Ctx.depth]
  rw [hclose, Ctx.closeWindow_depth hd]

/-- With the trap's window closed, the passed registers of the window below are the ones that window received. -/
theorem Ctx.moveSaved_closeWindow_readW {x : Ctx} (hd : x.depth ≠ 1) (hres : x.resident (x.depth - 1) = true) {r : Nat} (hlo : 16 ≤ r)
    (hhi : r < 24) : x.moveSaved.closeWindow.readW r = x.readW (r - 16) := by
  have hreceived := (Ctx.closeWindow_readW (x := x.moveSaved) hd hres).1 (r - 16) (by omega)
  rw [Nat.sub_add_cancel hlo] at hreceived
  exact hreceived.trans (Ctx.readW_congr rfl rfl rfl rfl _)

/-- The passed registers of the window below: the first four are the saved ones, the rest are what the trap's window received. -/
theorem Ctx.leaveTrap_readW {x : Ctx} (hd : x.depth ≠ 1) (hres : x.resident (x.depth - 1) = true) {r : Nat} (hlo : 16 ≤ r) (hhi : r < 24) :
    x.leaveTrap.readW r = if r < 20 then x.readW (r - 4) else x.readW (r - 16) := by
  rw [x.leaveTrap_writes (field := (·.readW r)) (fun _ _ _ _ _ => rfl), Ctx.readW_writes4 _ _ _ (by decide) hhi]
  by_cases h20 : r < 20
  · have hsaved : 12 + (r - 16) = r - 4 := by omega
    rw [if_pos ⟨hlo, h20⟩, if_pos h20, List.getD_eq_getElem _ _ (by rw [List.length_map, List.length_range]; omega), List.getElem_map,
      List.getElem_range, hsaved]
  · rw [if_neg (fun h => h20 h.2), if_neg h20]
    exact Ctx.moveSaved_closeWindow_readW hd hres hlo hhi

/-- A pending mark of a window moves to the place the map gives, or stays. -/
theorem Ctx.mem_movePend {x : Ctx} {p : Pend} (hp : p ∈ x.pend) {k r : Nat} (hloc : p.loc = .win k r) {f : Nat → Nat → Option PLoc}
    {q : PLoc} (hf : (f k r).getD p.loc = q) : { p with loc := q } ∈ (x.movePend f).pend :=
  List.mem_map.2 ⟨p, hp, by simp only [hloc, ← hf]⟩

theorem Ctx.mem_leaveTrap_pend {x : Ctx} {p : Pend} (hp : p ∈ x.pend) {r : Nat} (hlo : 12 ≤ r) (hhi : r < 16)
    (hloc : p.loc = .win x.depth r) : { p with loc := .win (x.depth - 1) (r + 4) } ∈ x.leaveTrap.pend := by
  have hbelow : x.depth - 1 ≠ x.depth := Nat.ne_of_lt (Nat.sub_lt (Nat.succ_pos _) Nat.one_pos)
  have hmoved : { p with loc := .win (x.depth - 1) (r + 4) } ∈ x.moveSaved.pend :=
    Ctx.mem_movePend hp hloc (by rw [if_pos ⟨rfl, hlo, hhi⟩, Option.getD_some])
  rw [Ctx.leaveTrap_pend]
  exact Ctx.mem_movePend hmoved rfl (by rw [if_neg (show x.depth - 1 ≠ x.moveSaved.depth from hbelow), Option.getD_none])

/-- The predicates are the low bits of w11; p0 reads true. -/
theorem Ctx.leaveTrap_readP (x : Ctx) (k : Fin 8) : x.leaveTrap.readP k = if k = 0 then true else (x.readW 11).getLsbD k.val := by
  have hp : x.leaveTrap.p = ⟨(List.range 7).map (fun j => (j + 1, (x.readW 11).getLsbD (j + 1)))⟩ := by
    simp only [← bit_toNat]; rfl
  rw [Ctx.readP, hp]
  fin_cases k <;> rfl

/-- No register but those of the windows and the pc changes. -/
theorem Ctx.leaveTrap_read (x : Ctx) {q : Reg} (hq : ∀ k, q ≠ .w k) (hpc : q ≠ .pc) : x.leaveTrap.read q = x.read q :=
  Ctx.read_congr x.leaveTrap_g x.leaveTrap_o x.leaveTrap_l x.leaveTrap_i hq hpc
theorem Ctx.leaveTrap_vecsKept (x : Ctx) : x.vecsKept x.leaveTrap := by
  simp [Ctx.vecsKept, Ctx.readV, Ctx.readM]

/-! ### ERET (R240, R306) -/

/-- Nothing is kept of a bundle that waited. -/
def Ctx.forgetWait (x : Ctx) : Ctx := { x with prodRec := none, since := none, image := none, xlat := none }

/-- `y` is the context `x` returned from its exception (R240). -/
structure Ctx.Returned (x y : Ctx) : Prop where
  pc : y.pc = x.readW 1
  depth : y.depth = x.depth - 1
  trapDepth : y.trapDepth = x.trapDepth - 1
  saved : ∀ r, r < 4 → y.readW (16 + r) = x.readW (12 + r)
  received : ∀ r, 20 ≤ r → r < 24 → y.readW r = x.readW (r - 16)
  marks : ∀ p ∈ x.pend, ∀ r, 12 ≤ r → r < 16 → p.loc = .win x.depth r → { p with loc := .win (x.depth - 1) (r + 4) } ∈ y.pend
  preds : ∀ k : Fin 8, y.readP k = if k = 0 then true else (x.readW 11).getLsbD k.val
  regs : ∀ q, (∀ k, q ≠ .w k) → q ≠ .pc → y.read q = x.read q
  vecs : x.vecsKept y

theorem Ctx.returned_leaveTrap {x : Ctx} (hd : x.depth ≠ 1) (hres : x.resident (x.depth - 1) = true) : x.Returned x.leaveTrap where
  pc := x.leaveTrap_pc
  depth := Ctx.leaveTrap_depth hd
  trapDepth := x.leaveTrap_trapDepth
  saved r hr := by
    rw [Ctx.leaveTrap_readW hd hres (by omega) (by omega), if_pos (by omega), show 16 + r - 4 = 12 + r by omega]
  received r hlo hhi := by rw [Ctx.leaveTrap_readW hd hres (by omega) hhi, if_neg (by omega)]
  marks _ hp _ hlo hhi hloc := Ctx.mem_leaveTrap_pend hp hlo hhi hloc
  preds := x.leaveTrap_readP
  regs _ hq hpc := x.leaveTrap_read hq hpc
  vecs := x.leaveTrap_vecsKept

/-- What a waiting bundle kept is no part of a return. -/
theorem Ctx.Returned.forgetWait {x y : Ctx} (h : x.Returned y) : x.Returned y.forgetWait where
  pc := h.pc
  depth := h.depth
  trapDepth := h.trapDepth
  saved := h.saved
  received := h.received
  marks := h.marks
  preds := h.preds
  regs q hq hpc := (show y.forgetWait.read q = y.read q by cases q <;> rfl).trans (h.regs q hq hpc)
  vecs := h.vecs

theorem State.exec_eret_returns {s : State} (hready : s.ready [.w 1, .w 11] none = true) (htrap : s.me.trapDepth ≠ 0)
    (hres : s.me.resident (s.me.depth - 1) = true) : exec .eret s = .next (s.modMe (fun x => x.leaveTrap.forgetWait)) := by
  show execEret s = _
  have htaken : s.taken [.w 1, .w 11] none = s := rfl
  rw [execEret, State.runOp_ready hready, htaken]
  simp only [if_neg htrap, hres, Bool.not_true, Bool.false_eq_true, if_false]
  rfl

/-- Outside a trap ERET is refused. -/
theorem State.exec_eret_refused {s : State} (hready : s.ready [.w 1, .w 11] none = true) (htrap : s.me.trapDepth = 0) :
    exec .eret s = .next (s.fault .illegal 0 0x10C) := by
  show execEret s = _
  rw [execEret, State.runOp_ready hready]
  simp only [if_pos htrap]
  rfl

theorem eretReturns : Sys2Proof.Claims.EretReturns := by
  intro s hready
  refine ⟨fun htrap hnested hres => ?_, State.exec_eret_refused hready⟩
  have hreturned := (Ctx.returned_leaveTrap (hnested.depth_ne_one htrap) hres).forgetWait
  rw [← s.me_modMe (fun x => x.leaveTrap.forgetWait)] at hreturned
  exact ⟨_, State.exec_eret_returns hready htrap hres, hreturned.pc, hreturned.depth, hreturned.trapDepth, hreturned.saved,
    hreturned.received, hreturned.marks, hreturned.preds, hreturned.regs, hreturned.vecs, s.othersKept_modMe _, rfl⟩

/-! ### BRK and the exception that halts (R241, R253, R289) -/

theorem State.exec_brk (s : State) (imm : BitVec 16) :
    exec (.brk imm) s = .next (s.trap s.curCore s.curCtx .brk s.me.pc 0 (imm.setWidth 64)) := by
  show execBrk imm s = _
  rw [execBrk, State.runOp_ready s.ready_nil, ← BitVec.ofNat_toNat]
  rfl

theorem State.teams_find_of_teamOf {s : State} {c t : Nat} {u : Team} (h : s.teamOf c = some (t, u)) : s.teams.find t = some u := by
  unfold State.teamOf at h
  split at h
  · obtain ⟨v, hv, hvu⟩ := Option.map_eq_some_iff.1 h
    cases hvu
    exact hv
  · cases h

/-- A change of engines changes nothing else. -/
theorem State.foldl_modEng_frame (f : Engine → Engine) (ls : List Nat) (s : State) :
    ∃ e, ls.foldl (fun s l => s.modEng l f) s = { s with engines := e } := by
  induction ls generalizing s with
  | nil => exact ⟨s.engines, rfl⟩
  | cons l ls ih =>
    obtain ⟨e, he⟩ := ih (s.modEng l f)
    exact ⟨e, by rw [List.foldl_cons, he]; rfl⟩

/-- A halted team: the report stands unless an earlier one does. -/
def Team.halted (u : Team) (h : Halt) : Team := { u with st := .halted, halt := some (u.halt.getD h) }
/-- A context of core `k / 16` once the team `u` is halted. -/
def Team.haltCtx (u : Team) (k : Nat) (x : Ctx) : Ctx := if u.hasCore (k / 16) then { x with halted := true } else x

/-- A fatal fault on a core of a team changes its team, engines, and the halted marks of its contexts. -/
theorem State.haltTeam_of_teamOf {s : State} {c t : Nat} {u : Team} (hcore : isSteward c = false) (hteam : s.teamOf c = some (t, u))
    (n : Nat) (code : FCode) (w1 w2 w3 : Word) : ∃ e, s.haltTeam c n code w1 w2 w3 =
      { s with teams := s.teams.set t (u.halted ⟨c, n, code, w1, w2, w3⟩), engines := e, ctxs := s.ctxs.mapAll u.haltCtx } := by
  have hfind := State.teams_find_of_teamOf hteam
  have hmod : s.modTeam t (fun u => { u with st := .halted, halt := some (u.halt.getD ⟨c, n, code, w1, w2, w3⟩) }) =
      { s with teams := s.teams.set t (u.halted ⟨c, n, code, w1, w2, w3⟩) } := by
    unfold State.modTeam
    rw [hfind]
    rfl
  unfold State.haltTeam
  simp only [hcore, hteam, hmod, Bool.false_eq_true, if_false]
  obtain ⟨e, he⟩ := State.foldl_modEng_frame (fun e => { e with stopping := true })
    (State.teamEngines { s with teams := s.teams.set t (u.halted ⟨c, n, code, w1, w2, w3⟩) } t)
    { s with teams := s.teams.set t (u.halted ⟨c, n, code, w1, w2, w3⟩) }
  exact ⟨e, by rw [he]; rfl⟩

/-- What a fatal exception of a context is reported as: its own code, or F_WINDOW where only the window stack is short (R241). -/
def Ctx.fatalCode (x : Ctx) (code : FCode) : FCode := if code = .soft ∨ code = .holdGrace ∨ 2 ≤ x.trapDepth then code else .window

/-- The exception at trap depth 2, past the window stack, or of a code that is always fatal halts. -/
theorem State.trap_halts {s : State} {c n : Nat} {code : FCode}
    (hfatal : 2 ≤ (s.ctx c n).trapDepth ∨ 4 + s.wss c / 128 < (s.ctx c n).depth + 1 ∨ code = .soft ∨ code = .holdGrace) (w1 w2 w3 : Word) :
    ∃ v2 v3, s.trap c n code w1 w2 w3 = { s with noEffect := true }.haltTeam c n ((s.ctx c n).fatalCode code) w1 v2 v3 := by
  by_cases hcode : code = .soft ∨ code = .holdGrace ∨ 2 ≤ (s.ctx c n).trapDepth
  · exact ⟨w2, w3, by rw [Ctx.fatalCode, if_pos hcode]; exact if_pos hcode⟩
  · have hstack : State.maxDepth { s with noEffect := true } c < (s.ctx c n).depth + 1 := by
      rcases hfatal with h | h | h | h
      · exact absurd (.inr (.inr h)) hcode
      · exact h
      · exact absurd (.inl h) hcode
      · exact absurd (.inr (.inl h)) hcode
    exact ⟨_, _, by rw [Ctx.fatalCode, if_neg hcode]; exact (if_neg hcode).trans (if_pos hstack)⟩

/-- A listed context of a core of a halted team gets the halted mark and stands where it stood. -/
theorem Team.get_haltCtx {u : Team} {ctxs : Table Ctx} {c n : Nat} (hcore : u.hasCore c = true) (hn : n < 16)
    (hlisted : (ctxs.find (16 * c + n)).isSome = true) : Table.get Ctx.idle (ctxs.mapAll u.haltCtx) (16 * c + n) =
      { Table.get Ctx.idle ctxs (16 * c + n) with halted := true } := by
  obtain ⟨x, hx⟩ := Option.isSome_iff_exists.1 hlisted
  have hkey : (16 * c + n) / 16 = c := by omega
  unfold Table.get
  rw [Table.find_mapAll, hx]
  simp [Team.haltCtx, hkey, hcore]

theorem breakAndFatal : Sys2Proof.Claims.BreakAndFatal := by
  intro s imm code w2 w3
  refine ⟨s.exec_brk imm, rfl, fun hfatal hcore t u hteam hin hctx hlisted => ?_⟩
  obtain ⟨v2, v3, htrap⟩ := State.trap_halts (s := s) (c := s.curCore) (n := s.curCtx) hfatal s.me.pc w2 w3
  obtain ⟨e, hhalt⟩ := State.haltTeam_of_teamOf (s := { s with noEffect := true }) hcore hteam s.curCtx (s.me.fatalCode code) s.me.pc v2 v3
  have hfault : s.fault code w2 w3 = _ := htrap.trans hhalt
  have hme : (s.fault code w2 w3).me = { s.me with halted := true } := by
    rw [hfault]
    exact Team.get_haltCtx hin hctx hlisted
  have hteams : (s.fault code w2 w3).teams.find t =
      some (u.halted ⟨s.curCore, s.curCtx, s.me.fatalCode code, s.me.pc, v2, v3⟩) := by
    rw [hfault]
    exact Table.find_set_self ..
  refine ⟨by rw [hme], by rw [hme], by rw [hme]; rfl, by rw [hfault], _, hteams, rfl, fun hnone => ?_⟩
  exact ⟨_, by rw [Team.halted, hnone], rfl, rfl, rfl, rfl⟩

/-- Settles O14: ERET moves the saved registers, their pending marks and the predicates back while the trap's window closes; BRK is an
exception of its own code; a fatal exception marks the team halted and leaves the context where it stood. -/
theorem exceptionReturnAndFatal : Obligations.ExceptionReturnAndFatal :=
  ⟨eretReturns, breakAndFatal⟩

end Sys2Proof.Machine
end

section
/-! PROOFS. Decoding the encoding of a bundle (R80, R81, R83, R84): the fields of a bundle's bits are the ones its encoder laid there, so
that each slot decodes as the family `Coding` says of its operation. -/

namespace Sys2Proof

open Laws.Coding (Statement SFits VFits extOk)

/-- The family `Coding`, for every instruction. -/
theorem codingStatement (i : Instr) : Statement i := by
  cases i with
  | nop => exact Laws.Coding.nop | add => exact Laws.Coding.add .. | sub => exact Laws.Coding.sub .. | mul => exact Laws.Coding.mul ..
  | mulh => exact Laws.Coding.mulh .. | div => exact Laws.Coding.div .. | rem => exact Laws.Coding.rem ..
  | and => exact Laws.Coding.and .. | or => exact Laws.Coding.or .. | xor => exact Laws.Coding.xor .. | ltab => exact Laws.Coding.ltab ..
  | shl => exact Laws.Coding.shl .. | shr => exact Laws.Coding.shr .. | sra => exact Laws.Coding.sra .. | rot => exact Laws.Coding.rot ..
  | fsh => exact Laws.Coding.fsh .. | min => exact Laws.Coding.min .. | max => exact Laws.Coding.max .. | clz => exact Laws.Coding.clz ..
  | popc => exact Laws.Coding.popc .. | bfx => exact Laws.Coding.bfx .. | bfi => exact Laws.Coding.bfi ..
  | cmp => exact Laws.Coding.cmp .. | sel => exact Laws.Coding.sel .. | mov => exact Laws.Coding.mov .. | li => exact Laws.Coding.li ..
  | lih => exact Laws.Coding.lih .. | addpc => exact Laws.Coding.addpc .. | plog => exact Laws.Coding.plog ..
  | br => exact Laws.Coding.br .. | jmp => exact Laws.Coding.jmp .. | call => exact Laws.Coding.call .. | ret => exact Laws.Coding.ret
  | iter => exact Laws.Coding.iter .. | exit => exact Laws.Coding.exit | ctxstart => exact Laws.Coding.ctxstart ..
  | ctxreap => exact Laws.Coding.ctxreap .. | ctxid => exact Laws.Coding.ctxid .. | levid => exact Laws.Coding.levid ..
  | ld => exact Laws.Coding.ld .. | st => exact Laws.Coding.st .. | vld => exact Laws.Coding.vld .. | vst => exact Laws.Coding.vst ..
  | bpack => exact Laws.Coding.bpack .. | bunpk => exact Laws.Coding.bunpk .. | ldfe => exact Laws.Coding.ldfe ..
  | stfe => exact Laws.Coding.stfe .. | feinit => exact Laws.Coding.feinit .. | rst => exact Laws.Coding.rst ..
  | hold => exact Laws.Coding.hold .. | hrel => exact Laws.Coding.hrel .. | red => exact Laws.Coding.red ..
  | xsum => exact Laws.Coding.xsum .. | xread => exact Laws.Coding.xread .. | dwinit => exact Laws.Coding.dwinit ..
  | dwwait => exact Laws.Coding.dwwait .. | fence => exact Laws.Coding.fence .. | spfence => exact Laws.Coding.spfence
  | acq => exact Laws.Coding.acq .. | rls => exact Laws.Coding.rls .. | bind => exact Laws.Coding.bind ..
  | unbind => exact Laws.Coding.unbind .. | trig => exact Laws.Coding.trig | chwait => exact Laws.Coding.chwait ..
  | chread => exact Laws.Coding.chread .. | copy => exact Laws.Coding.copy .. | gather => exact Laws.Coding.gather ..
  | scatter => exact Laws.Coding.scatter .. | cstage => exact Laws.Coding.cstage .. | lease => exact Laws.Coding.lease ..
  | unlease => exact Laws.Coding.unlease .. | lkopen => exact Laws.Coding.lkopen .. | lkfeed => exact Laws.Coding.lkfeed ..
  | lksparse => exact Laws.Coding.lksparse .. | lkdrain => exact Laws.Coding.lkdrain .. | lkclose => exact Laws.Coding.lkclose ..
  | lkstat => exact Laws.Coding.lkstat .. | lkwait => exact Laws.Coding.lkwait .. | cbload => exact Laws.Coding.cbload ..
  | epload => exact Laws.Coding.epload .. | qbind => exact Laws.Coding.qbind .. | qctl => exact Laws.Coding.qctl ..
  | qhnd => exact Laws.Coding.qhnd .. | lvset => exact Laws.Coding.lvset .. | lvread => exact Laws.Coding.lvread ..
  | trap => exact Laws.Coding.trap .. | eret => exact Laws.Coding.eret | brk => exact Laws.Coding.brk ..
  | sysrd => exact Laws.Coding.sysrd .. | syswr => exact Laws.Coding.syswr .. | vnop => exact Laws.Coding.vnop
  | vadd => exact Laws.Coding.vadd .. | vsub => exact Laws.Coding.vsub .. | vmul => exact Laws.Coding.vmul ..
  | vfma => exact Laws.Coding.vfma .. | vmad => exact Laws.Coding.vmad .. | vmin => exact Laws.Coding.vmin ..
  | vmax => exact Laws.Coding.vmax .. | vabs => exact Laws.Coding.vabs .. | vneg => exact Laws.Coding.vneg ..
  | vltab => exact Laws.Coding.vltab .. | vshl => exact Laws.Coding.vshl .. | vshr => exact Laws.Coding.vshr ..
  | vsra => exact Laws.Coding.vsra .. | vfsh => exact Laws.Coding.vfsh .. | vcmp => exact Laws.Coding.vcmp ..
  | vsel => exact Laws.Coding.vsel .. | vmask => exact Laws.Coding.vmask .. | vcvt => exact Laws.Coding.vcvt ..
  | vdot => exact Laws.Coding.vdot .. | vqmul => exact Laws.Coding.vqmul .. | vreduce => exact Laws.Coding.vreduce ..
  | vscan => exact Laws.Coding.vscan .. | vperm => exact Laws.Coding.vperm .. | vbcast => exact Laws.Coding.vbcast ..
  | vpopc => exact Laws.Coding.vpopc .. | vrcp => exact Laws.Coding.vrcp .. | vrsq => exact Laws.Coding.vrsq ..
  | vexp2 => exact Laws.Coding.vexp2 .. | eend => exact Laws.Coding.eend | emov => exact Laws.Coding.emov ..
  | eadd => exact Laws.Coding.eadd .. | esub => exact Laws.Coding.esub .. | emul => exact Laws.Coding.emul ..
  | efma => exact Laws.Coding.efma .. | emin => exact Laws.Coding.emin .. | emax => exact Laws.Coding.emax ..
  | eshrImm => exact Laws.Coding.eshrImm .. | eshrReg => exact Laws.Coding.eshrReg .. | eqmul => exact Laws.Coding.eqmul ..
  | ecvt => exact Laws.Coding.ecvt .. | ezpc => exact Laws.Coding.ezpc .. | erelu => exact Laws.Coding.erelu ..
  | esel => exact Laws.Coding.esel .. | eldc => exact Laws.Coding.eldc .. | ewr => exact Laws.Coding.ewr ..
  | _ => exact Laws.Coding.event rfl rfl rfl

/-! ### The fields of a word -/

/-- What stands above a field does not reach it. -/
theorem fld_add_mul {n hi : Nat} (h : hi < n) (x y lo : Nat) : fld (x + 2 ^ n * y) hi lo = fld x hi lo := by
  unfold fld
  by_cases hlo : lo ≤ hi
  · have hsplit : 2 ^ n * y = 2 ^ lo * (2 ^ (hi + 1 - lo) * (2 ^ (n - hi - 1) * y)) := by
      rw [← Nat.mul_assoc, ← Nat.mul_assoc, ← Nat.pow_add, ← Nat.pow_add]
      congr 2
      omega
    rw [hsplit, Nat.add_mul_div_left _ _ (Nat.two_pow_pos lo), Nat.add_mul_mod_self_left]
  · rw [show hi + 1 - lo = 0 by omega, Nat.pow_zero, Nat.mod_one, Nat.mod_one]

/-- A short operation splits into the fields it is made of (R83). -/
theorem SRaw.ofShort_short {r : SRaw} (h : r.op < 64 ∧ r.dst < 64 ∧ r.a < 64 ∧ r.b < 64 ∧ r.func < 16) (ext : Option Nat) :
    SRaw.ofShort r.short ext = { r with ext := ext } := by
  simp only [SRaw.ofShort, SRaw.short, fld, SRaw.mk.injEq, and_true]
  omega
theorem SRaw.short_lt {r : SRaw} (h : r.op < 64 ∧ r.dst < 64 ∧ r.a < 64 ∧ r.b < 64 ∧ r.func < 16) : r.short < 2 ^ 28 := by
  unfold SRaw.short
  omega
/-- So does a short operation of the V slot (R84). -/
theorem VRaw.ofShort_short {r : VRaw} {y : Nat} (h : VFits r y) (x pos : Nat) : VRaw.ofShort r.short x pos = { r with x := x, xpos := pos } := by
  obtain ⟨hop, hvd, hva, hvb, hty, hmask, hvf, -⟩ := h
  simp only [VRaw.ofShort, VRaw.short, fld, VRaw.mk.injEq, and_true]
  omega
theorem VRaw.short_lt {r : VRaw} {y : Nat} (h : VFits r y) : r.short < 2 ^ 28 := by
  obtain ⟨hop, hvd, hva, hvb, hty, hmask, hvf, -⟩ := h
  unfold VRaw.short
  omega

/-! ### The bits of a bundle -/

/-- The first byte of a bundle (R80, R81). -/
def Bundle.head (b : Bundle) : Nat := b.shape.header + 4 * b.pred.val + 32 * b.pneg.toNat
/-- The short operation of its S slot. -/
def Bundle.short (b : Bundle) : Nat := ((encS b.s).raw false).short
/-- What stands from bit 64 up in a bundle's word that something follows: the extensions, and what follows. -/
def Bundle.top (b : Bundle) (rest : Nat) : Nat :=
  match b.shape with
  | .b64 => rest
  | .b96s => (encS b.s).x + 2 ^ 32 * rest
  | .b96v => b.v.vExt + 2 ^ 32 * rest
  | .b128 => (encS b.s).x + 2 ^ 32 * (b.v.vExt + 2 ^ 32 * rest)
/-- A bundle's word, field by field. -/
def Bundle.word (b : Bundle) (rest : Nat) : Nat :=
  b.head + 2 ^ 8 * (b.short + 2 ^ 28 * ((encV b.v).short + 2 ^ 28 * b.top rest))

theorem encode_add_rest (b : Bundle) (rest : Nat) : encode b + 2 ^ (8 * b.shape.bytes) * rest = b.word rest := by
  obtain ⟨shape, pred, pneg, s, v⟩ := b
  cases shape <;> simp only [encode, Bundle.word, Bundle.head, Bundle.short, Bundle.top, Shape.bytes] <;> omega

/-- The header's fields hold the shape and the predicate. -/
theorem head_fields (sh : Shape) (p : Fin 8) (n : Bool) :
    let h := sh.header + 4 * p.val + 32 * n.toNat
    h < 2 ^ 8 ∧ decShape h = .ok sh ∧ fld h 4 2 = p.val ∧ (fld h 5 5 == 1) = n := by
  cases sh <;> revert p n <;> decide

theorem decShape_congr {x y : Nat} (hlen : fld x 1 0 = fld y 1 0) (hform : fld x 7 6 = fld y 7 6) : decShape x = decShape y := by
  unfold decShape
  rw [hlen, hform]

theorem Bundle.head_lt (b : Bundle) : b.head < 2 ^ 8 := (head_fields b.shape b.pred b.pneg).1

/-- The S slot's short operation, and the two extension fields. -/
theorem word_fields {b : Bundle} (rest : Nat) (hs : b.short < 2 ^ 28) (hv : (encV b.v).short < 2 ^ 28) :
    fld (b.word rest) 35 8 = b.short ∧ fld (b.word rest) 63 36 = (encV b.v).short
      ∧ fld (b.word rest) 95 64 = b.top rest % 2 ^ 32 ∧ fld (b.word rest) 127 96 = b.top rest / 2 ^ 32 % 2 ^ 32 := by
  have hh := b.head_lt
  simp only [fld, Bundle.word]
  omega

section Slots

variable {b : Bundle} (rest : Nat)

theorem decShape_word : decShape (b.word rest) = .ok b.shape :=
  (decShape_congr (fld_add_mul (by decide) ..) (fld_add_mul (by decide) ..)).trans (head_fields b.shape b.pred b.pneg).2.1
theorem fld_word_pred : fld (b.word rest) 4 2 = b.pred.val :=
  (fld_add_mul (by decide) ..).trans (head_fields b.shape b.pred b.pneg).2.2.1
theorem fld_word_pneg : (fld (b.word rest) 5 5 == 1) = b.pneg :=
  (congrArg (· == 1) (fld_add_mul (by decide) ..)).trans (head_fields b.shape b.pred b.pneg).2.2.2

/-- Each slot's raw fields are the encoder's; a V operation without its extension has none to speak of. -/
theorem bundleS_word (hs : SFits (encS b.s)) (hv : VFits (encV b.v) b.v.vExt) :
    bundleS b.shape (b.word rest) = (encS b.s).raw b.shape.hasS := by
  obtain ⟨hop, hdst, ha, hb, hfunc, hx⟩ := hs
  obtain ⟨hshort, -, hlow, -⟩ := word_fields (b := b) rest (SRaw.short_lt ⟨hop, hdst, ha, hb, hfunc⟩) (VRaw.short_lt hv)
  rw [bundleS, hshort, hlow, Bundle.short, SRaw.ofShort_short ⟨hop, hdst, ha, hb, hfunc⟩]
  simp only [SEnc.raw, SRaw.mk.injEq, true_and, Bundle.top]
  cases b.shape with
  | b64 | b96v => rfl
  | b96s | b128 => exact congrArg some (by simp only; omega)
theorem bundleV_word (hs : SFits (encS b.s)) (hv : VFits (encV b.v) b.v.vExt) (hext : b.shape.hasV = true ∨ b.v.vExt = 0) :
    ∃ pos, bundleV b.shape (b.word rest) = { encV b.v with x := b.v.vExt, xpos := pos } := by
  obtain ⟨-, -, -, -, -, -, -, hy⟩ := id hv
  obtain ⟨hop, hdst, ha, hb, hfunc, hx⟩ := hs
  obtain ⟨-, hvs, hlow, hhigh⟩ := word_fields (b := b) rest (SRaw.short_lt ⟨hop, hdst, ha, hb, hfunc⟩) (VRaw.short_lt hv)
  simp only [bundleV, hvs, hlow, hhigh, VRaw.ofShort_short hv, Bundle.top]
  cases hsh : b.shape with
  | b64 | b96s =>
    rw [hsh] at hext
    exact ⟨96, by simp only [hext.resolve_left Bool.false_ne_true]⟩
  | b96v => exact ⟨64, by simp only [VRaw.mk.injEq, true_and, and_true]; omega⟩
  | b128 => exact ⟨96, by simp only [VRaw.mk.injEq, true_and, and_true]; omega⟩

end Slots

/-- The extension a shape gives is one the operation takes. -/
theorem extOk_of_wf {i : Instr} {sh : Shape}
    (h : (match i.extRule with
        | .needs => sh.hasS
        | .never => !sh.hasS
        | .opt => sh.hasS || i.optDisp == 0) = true) : extOk i.extRule i.optDisp sh.hasS = true := by
  unfold extOk
  cases hr : i.extRule <;> rw [hr] at h <;> exact h

/-- No system register of a well-formed bundle is the steward's alone (R97). -/
theorem privCheck_of_wf {i : Instr}
    (h : (match i with
        | .sysrd _ n => !sregPriv n.toNat false
        | .syswr n _ => !sregPriv n.toNat true
        | _ => true) = true) : privCheck false i = .ok () := by
  unfold privCheck
  split
  · simpa using h
  · simpa using h
  · rfl

theorem decodeBundle_word {b : Bundle} (hwf : b.wf = true) {off : Nat} (hoff : off + b.shape.bytes ≤ 32) (rest : Nat) :
    decodeBundle false off (b.word rest) = .ok b := by
  simp only [Bundle.wf, Bool.and_eq_true] at hwf
  obtain ⟨⟨⟨⟨⟨⟨hS, hV⟩, hpred⟩, hextS⟩, hextV⟩, hclash⟩, hpriv⟩ := hwf
  obtain ⟨hsfits, hsdec⟩ := (codingStatement b.s).1 hS
  obtain ⟨hvfits, hvdec⟩ := (codingStatement b.v).2.1 hV
  obtain ⟨pos, hv⟩ := bundleV_word rest hsfits hvfits (by simpa using hextV)
  have hclash : bundleClash b.s b.v = none := Option.isNone_iff_eq_none.1 hclash
  have hzero : ∀ p : Fin 8, (p.val == 0) = (p == 0) := by decide
  rw [decodeBundle, decShape_word, dec_bind, fld_word_pneg, fld_word_pred, hzero]
  dsimp only
  rw [need_ok hpred, dec_bind, if_neg (by omega), bundleS_word rest hsfits hvfits, hsdec _ (extOk_of_wf hextS), dec_bind, hv, hvdec,
    dec_bind, hclash]
  dsimp only
  rw [privCheck_of_wf hpriv, finOfNat_self]
  rfl

/-- Settles O2: the encoder lays a bundle's fields side by side, so that the decoder reads each back, and each slot decodes as `Coding` says. -/
theorem encodingsRoundTrip : Obligations.EncodingsRoundTrip := by
  refine ⟨fun b off rest hwf hoff => ?_, fun i hwf => ?_⟩
  · rw [encode_add_rest]
    exact decodeBundle_word hwf hoff rest
  · obtain ⟨hlt, hdec⟩ := (codingStatement i).2.2 hwf
    exact ⟨hdec, hlt⟩

end Sys2Proof
end

section
/-! PROOFS. Integer operations of the S slot (R280 to R353): each operation on numbers is the one on bit vectors of its width, and an
operation whose operands can be taken puts its result. -/

namespace Sys2Proof.Machine

/-! ### Operations on numbers and on bit vectors -/

/-- An operation on numbers is the operation `f` on bit vectors, at every width. -/
def Agrees (op : Nat → Nat → Nat → Nat) (f : (w : Nat) → BitVec w → BitVec w → BitVec w) : Prop :=
  ∀ w, 0 < w → ∀ a b : BitVec w, op w a.toNat b.toNat = (f w a b).toNat

theorem sx64_eq_signExtend {w : Nat} (hw : 0 < w) (x : Nat) : sx64 w x = (BitVec.ofNat w x).signExtend 64 := by
  rw [sx64, sgn_eq_toInt hw, BitVec.signExtend]
theorem sgn_toNat {w : Nat} (hw : 0 < w) (a : BitVec w) : sgn w a.toNat = a.toInt := by
  rw [sgn_eq_toInt hw, BitVec.ofNat_toNat, BitVec.setWidth_eq]

theorem aluWord_eq_aluRes {op : Nat → Nat → Nat → Nat} {f : (w : Nat) → BitVec w → BitVec w → BitVec w} (h : Agrees op f) (w32 : Bool)
    (a b : Word) : aluWord w32 op a b = aluRes w32 f a b := by
  cases w32 with
  | false => simp [aluWord, aluRes, h 64 (by decide) a b]
  | true =>
    have h32 := h 32 (by decide) (a.setWidth 32) (b.setWidth 32)
    simp only [BitVec.toNat_setWidth] at h32
    simp [aluWord, aluRes, h32, sx64_eq_signExtend]

theorem agrees_add : Agrees opAdd (fun _ a b => a + b) := fun _ _ a b => (BitVec.toNat_add a b).symm
theorem agrees_sub : Agrees opSub (fun _ a b => a - b) := fun w _ a b => by
  rw [BitVec.toNat_sub, opSub]
  congr 1
  omega
theorem agrees_mul : Agrees opMul (fun _ a b => a * b) := fun _ _ a b => (BitVec.toNat_mul a b).symm
theorem agrees_and : Agrees opAnd (fun _ a b => a &&& b) := fun _ _ a b => (BitVec.toNat_and a b).symm
theorem agrees_or : Agrees opOr (fun _ a b => a ||| b) := fun _ _ a b => (BitVec.toNat_or a b).symm
theorem agrees_xor : Agrees opXor (fun _ a b => a ^^^ b) := fun _ _ a b => (BitVec.toNat_xor a b).symm

/-- The bits from `w` up of the bits below `2 w`. -/
theorem emod_mul_ediv {p q : Int} (hp : 0 < p) (hq : 0 < q) (z : Int) : z % (p * q) / p = z / p % q := by
  have hlow : 0 ≤ z % (p * q) := Int.emod_nonneg _ (Int.mul_pos hp hq).ne'
  have hhigh : z % (p * q) / p < q := Int.ediv_lt_of_lt_mul hp (by rw [Int.mul_comm q]; exact Int.emod_lt_of_pos _ (Int.mul_pos hp hq))
  conv_rhs => rw [← Int.emod_add_mul_ediv z (p * q), Int.mul_assoc, Int.add_mul_ediv_left _ _ hp.ne', Int.add_mul_emod_self_left]
  rw [Int.emod_eq_of_lt (Int.ediv_nonneg hlow hp.le) hhigh]

/-- The upper half of the double-width product of two integers (R333). -/
theorem unsgn_high {w : Nat} (x y : Int) : unsgn w (x * y / (2 ^ w : Nat)) =
    (((BitVec.ofInt (w + w) x * BitVec.ofInt (w + w) y) >>> w).setWidth w).toNat := by
  have hpos : (0 : Int) < (2 ^ w : Nat) := by exact_mod_cast Nat.two_pow_pos w
  have hpow : ((2 ^ (w + w) : Nat) : Int) = (2 ^ w : Nat) * (2 ^ w : Nat) := by rw [Nat.pow_add, Nat.cast_mul]
  have hz : 0 ≤ x * y % ((2 ^ (w + w) : Nat) : Int) := Int.emod_nonneg _ (by rw [hpow]; exact (Int.mul_pos hpos hpos).ne')
  rw [← BitVec.ofInt_mul, BitVec.toNat_setWidth, BitVec.toNat_ushiftRight, BitVec.toNat_ofInt, Nat.shiftRight_eq_div_pow, unsgn,
    ← emod_mul_ediv hpos hpos, ← hpow]
  apply Int.natCast_inj.1
  rw [Int.toNat_of_nonneg (Int.ediv_nonneg hz hpos.le), Int.natCast_emod, Int.natCast_ediv, Int.toNat_of_nonneg hz, Int.emod_eq_of_lt
    (Int.ediv_nonneg hz hpos.le)]
  exact Int.ediv_lt_of_lt_mul hpos (by rw [← hpow]; exact Int.emod_lt_of_pos _ (by rw [hpow]; exact Int.mul_pos hpos hpos))

theorem ofInt_toNat_eq_setWidth {w v : Nat} (a : BitVec w) : BitVec.ofInt v a.toNat = a.setWidth v := by
  rw [BitVec.ofInt_natCast, BitVec.ofNat_toNat]
theorem agrees_mulh_ss : Agrees (opMulh .ss) (fun w a b => ((a.signExtend (w + w) * b.signExtend (w + w)) >>> w).setWidth w) :=
  fun w hw a b => by simp only [opMulh, sgn_toNat hw, unsgn_high, BitVec.signExtend]
theorem agrees_mulh_uu : Agrees (opMulh .uu) (fun w a b => ((a.setWidth (w + w) * b.setWidth (w + w)) >>> w).setWidth w) :=
  fun w _ a b => by simp only [opMulh, unsgn_high, ofInt_toNat_eq_setWidth]
theorem agrees_mulh_su : Agrees (opMulh .su) (fun w a b => ((a.signExtend (w + w) * b.setWidth (w + w)) >>> w).setWidth w) :=
  fun w hw a b => by simp only [opMulh, sgn_toNat hw, unsgn_high, ofInt_toNat_eq_setWidth, BitVec.signExtend]

theorem agrees_min (u : Bool) : Agrees (opMin u) (fun _ a b => if (if u then a.ule b else a.sle b) then a else b) := fun w hw a b => by
  cases u <;> simp only [opMin, sgn_toNat hw, Nat.min_def, Bool.false_eq_true, if_false, if_true, BitVec.sle_iff_toInt_le,
    BitVec.ule_iff_toNat_le] <;> split <;> rfl
theorem agrees_max (u : Bool) : Agrees (opMax u) (fun _ a b => if (if u then a.ule b else a.sle b) then b else a) := fun w hw a b => by
  cases u <;> simp only [opMax, sgn_toNat hw, Nat.max_def, Bool.false_eq_true, if_false, if_true, BitVec.sle_iff_toInt_le,
    BitVec.ule_iff_toNat_le] <;> split <;> rfl

theorem agrees_shl : Agrees opShl (fun w a b => a <<< (b.toNat % w)) := fun w _ a b => by
  rw [BitVec.toNat_shiftLeft, Nat.shiftLeft_eq, opShl]
theorem agrees_shr : Agrees opShr (fun w a b => a >>> (b.toNat % w)) := fun w _ a b => by
  rw [BitVec.toNat_ushiftRight, Nat.shiftRight_eq_div_pow, opShr]
theorem agrees_sra : Agrees opSra (fun w a b => a.sshiftRight (b.toNat % w)) := fun w hw a b => by
  show _ = (a.sshiftRight (b.toNat % w)).toNat
  rw [opSra, sgn_toNat hw, unsgn_eq_toNat, ← BitVec.ofInt_toInt (x := a.sshiftRight _), BitVec.toInt_sshiftRight, Int.shiftRight_eq_div_pow]
/-- A rotation moves the bits that leave at the top to the bottom (R345). -/
theorem agrees_rot : Agrees opRot (fun w a b => a.rotateLeft (b.toNat % w)) := fun w hw a b => by
  have hk : b.toNat % w < w := Nat.mod_lt _ hw
  rw [BitVec.toNat_rotateLeft, Nat.mod_mod, opRot]
  generalize b.toNat % w = k at hk
  have hpow : 2 ^ w = 2 ^ (w - k) * 2 ^ k := by rw [← Nat.pow_add]; congr 1; omega
  have hlow : a.toNat / 2 ^ (w - k) < 2 ^ k := Nat.div_lt_of_lt_mul (hpow ▸ a.isLt)
  have hhigh : a.toNat * 2 ^ k % 2 ^ w = (a.toNat % 2 ^ (w - k)) <<< k := by rw [hpow, Nat.mul_mod_mul_right, Nat.shiftLeft_eq]
  rw [Nat.shiftRight_eq_div_pow, Nat.shiftLeft_eq, hhigh, ← Nat.shiftLeft_add_eq_or_of_lt hlow]
  by_cases hz : k = 0
  · subst hz
    simp [Nat.mod_eq_of_lt a.isLt, Nat.div_eq_of_lt a.isLt]
  · simp only [if_neg hz]

/-! ### Operations that put a result -/

/-- The second operand, as the body of an operation gets it. -/
theorem State.val2_srcs (s : State) (a : Reg) (b : Src2) : val2 b (((a :: srcs2 b).map s.srcVal).getD 1 0) = s.opnd b := by
  cases b <;> rfl
theorem State.val2_srcs_one (s : State) (b : Src2) : val2 b (((srcs2 b).map s.srcVal).getD 0 0) = s.opnd b := by
  cases b <;> rfl

theorem State.alu_ready {s : State} {x : AluOps} (h : s.ready (x.a :: srcs2 x.b) (some x.dst) = true) {op : Nat → Nat → Nat → Nat}
    {f : (w : Nat) → BitVec w → BitVec w → BitVec w} (hop : Agrees op f) :
    s.alu x op = s.result (x.a :: srcs2 x.b) x.dst (aluRes x.w32 f (s.srcVal x.a) (s.opnd x.b)) := by
  rw [State.alu, State.runPut_ready h, State.val2_srcs, aluWord_eq_aluRes hop]
  rfl
theorem State.alu1_ready {s : State} {y : UnOps} (h : s.ready (srcs2 y.src) (some y.dst) = true) (op : Nat → Nat → Nat) :
    s.alu1 y op = s.result (srcs2 y.src) y.dst (aluWord y.w32 (fun w a _ => op w a) (s.opnd y.src) 0) := by
  rw [State.alu1, State.runPut_ready h, State.val2_srcs_one]

theorem addLogicResults : Sys2Proof.Claims.AddLogicResults := by
  intro s x h
  have go {op f} (hop : Agrees op f) := congrArg (Host.Outcome.next (φ := Fault) (ρ := Refusal)) (State.alu_ready h hop)
  exact ⟨go agrees_add, go agrees_sub, go agrees_and, go agrees_or, go agrees_xor⟩

theorem minMaxMulResults : Sys2Proof.Claims.MinMaxMulResults := by
  intro s x y u
  refine ⟨fun h => ?_, fun h => ?_⟩
  · have go {op f} (hop : Agrees op f) := congrArg (Host.Outcome.next (φ := Fault) (ρ := Refusal)) (State.alu_ready h hop)
    exact ⟨go agrees_mul, go agrees_mulh_ss, go agrees_mulh_uu, go agrees_mulh_su, go (agrees_min u), go (agrees_max u)⟩
  · have hmov : Agrees (fun _ a _ => a) (fun _ a _ => a) := fun _ _ _ _ => rfl
    exact congrArg Host.Outcome.next ((State.alu1_ready h _).trans (by rw [aluWord_eq_aluRes hmov]))

theorem shiftResults : Sys2Proof.Claims.ShiftResults := by
  intro s x h
  have go {op f} (hop : Agrees op f) := congrArg (Host.Outcome.next (φ := Fault) (ρ := Refusal)) (State.alu_ready h hop)
  exact ⟨go agrees_shl, go agrees_shr, go agrees_sra, go agrees_rot⟩

/-- Settles O6: each operation on numbers agrees with its operation on bit vectors, and the frame puts its result. -/
theorem aluResults : Obligations.AluResults :=
  ⟨addLogicResults, minMaxMulResults, shiftResults⟩

/-! ### Division (R302, R342) -/

theorem bitLen_eq_log2 {w x : Nat} (h : x < 2 ^ w) : bitLen w x = if x = 0 then 0 else Nat.log2 x + 1 := by
  induction w generalizing x with
  | zero => simp [bitLen, show x = 0 by omega]
  | succ w ih =>
    have hhalf : x / 2 < 2 ^ w := by rw [Nat.pow_succ] at h; omega
    rw [bitLen, ih hhalf]
    by_cases h0 : x = 0
    · rw [if_pos h0, if_pos h0]
    · rw [if_neg h0, if_neg h0, Nat.log2_def x]
      by_cases h1 : x / 2 = 0
      · rw [if_pos h1, if_neg (by omega)]
      · rw [if_neg h1, if_pos (by omega), Nat.add_comm]

theorem natAbs_toInt_le {w : Nat} (a : BitVec w) : a.toInt.natAbs < 2 ^ w := by
  have := a.isLt
  rw [BitVec.toInt_eq_toNat_cond]
  split <;> omega
theorem divBits_eq_quotBits (u : Bool) {w : Nat} (hw : 0 < w) (a b : BitVec w) : divBits u w a.toNat b.toNat = quotBits u w a b := by
  have hzero : b.toNat = 0 ↔ b = 0 := ⟨fun h => BitVec.eq_of_toNat_eq h, fun h => by rw [h]; rfl⟩
  have hsucc : 2 ^ w < 2 ^ (w + 1) := Nat.pow_lt_pow_right (by decide) w.lt_succ_self
  simp only [divBits, quotBits, hzero, sgn_toNat hw]
  split
  · rfl
  · refine bitLen_eq_log2 (lt_of_le_of_lt (b := 2 ^ w) ?_ hsucc)
    split
    · exact ((a.toNat.div_le_self b.toNat).trans_lt a.isLt).le
    · exact ((Nat.div_le_self ..).trans_lt (natAbs_toInt_le a)).le

/-- The most negative dividend over −1: the quotient wraps to the dividend (R302). -/
theorem toInt_of_toNat_extremes {w : Nat} (hw : 0 < w) {a b : BitVec w} (ha : a.toNat = 2 ^ (w - 1)) (hb : b.toNat = 2 ^ w - 1) :
    a.toInt = -(2 ^ (w - 1) : Nat) ∧ b.toInt = -1 := by
  have hpow : 2 ^ w = 2 * 2 ^ (w - 1) := by rw [← Nat.pow_succ', Nat.succ_eq_add_one, Nat.sub_add_cancel hw]
  have hpos : 0 < 2 ^ (w - 1) := Nat.two_pow_pos _
  rw [BitVec.toInt_eq_toNat_cond, BitVec.toInt_eq_toNat_cond, ha, hb]
  omega

theorem ofInt_tdiv {w : Nat} (a b : BitVec w) : BitVec.ofInt w (a.toInt.tdiv b.toInt) = a.sdiv b :=
  BitVec.eq_of_toInt_eq (by rw [BitVec.toInt_ofInt, BitVec.toInt_sdiv])
theorem ofInt_tmod {w : Nat} (a b : BitVec w) : BitVec.ofInt w (a.toInt.tmod b.toInt) = a.srem b := by
  rw [← BitVec.toInt_srem, BitVec.ofInt_toInt]

theorem agrees_div (u : Bool) : Agrees (opDiv u) (divSpec u) := fun w hw a b => by
  have hzero : b.toNat = 0 ↔ b = 0 := ⟨fun h => BitVec.eq_of_toNat_eq h, fun h => by rw [h]; rfl⟩
  unfold opDiv divSpec
  by_cases hb : b = 0
  · rw [if_pos (hzero.2 hb), if_pos hb, BitVec.toNat_allOnes]
  · rw [if_neg (fun h => hb (hzero.1 h)), if_neg hb]
    cases u with
    | true => exact (BitVec.toNat_udiv ..).symm
    | false =>
      rw [if_neg Bool.false_ne_true, if_neg Bool.false_ne_true, sgn_toNat hw, sgn_toNat hw, unsgn_eq_toNat, ofInt_tdiv]
      by_cases hx : a.toNat = 2 ^ (w - 1) ∧ b.toNat = 2 ^ w - 1
      · obtain ⟨ha, hb⟩ := toInt_of_toNat_extremes hw hx.1 hx.2
        rw [if_pos hx, ← ofInt_tdiv, ha, hb, Int.tdiv_neg, Int.tdiv_one, Int.neg_neg, BitVec.ofInt_natCast, BitVec.toNat_ofNat, ← hx.1,
          Nat.mod_eq_of_lt a.isLt]
      · rw [if_neg hx]
theorem agrees_rem (u : Bool) : Agrees (opRem u) (remSpec u) := fun w hw a b => by
  have hzero : b.toNat = 0 ↔ b = 0 := ⟨fun h => BitVec.eq_of_toNat_eq h, fun h => by rw [h]; rfl⟩
  unfold opRem remSpec
  by_cases hb : b = 0
  · rw [if_pos (hzero.2 hb), if_pos hb]
  · rw [if_neg (fun h => hb (hzero.1 h)), if_neg hb]
    cases u with
    | true => exact (BitVec.toNat_umod ..).symm
    | false =>
      rw [if_neg Bool.false_ne_true, if_neg Bool.false_ne_true, sgn_toNat hw, sgn_toNat hw, unsgn_eq_toNat, ofInt_tmod]
      by_cases hx : a.toNat = 2 ^ (w - 1) ∧ b.toNat = 2 ^ w - 1
      · obtain ⟨ha, hb⟩ := toInt_of_toNat_extremes hw hx.1 hx.2
        rw [if_pos hx, ← ofInt_tmod, hb, Int.tmod_neg, Int.tmod_one]
        simp
      · rw [if_neg hx]

theorem State.divOp_ready {s : State} {x : AluOps} (h : s.ready (x.a :: srcs2 x.b) (some x.dst) = true) (u : Bool)
    {op : Nat → Nat → Nat → Nat} {f : (w : Nat) → BitVec w → BitVec w → BitVec w} (hop : Agrees op f) :
    s.divOp x u op = ((s.taken (x.a :: srcs2 x.b) (some x.dst)).sched
      (4 + if x.w32 then quotBits u 32 ((s.srcVal x.a).setWidth 32) ((s.opnd x.b).setWidth 32) else quotBits u 64 (s.srcVal x.a) (s.opnd x.b))
      (.replyWrite s.curCore s.curCtx s.tok (.word (aluRes x.w32 f (s.srcVal x.a) (s.opnd x.b))))).parkResult (.put x.dst) := by
  have h32 (a b : Word) : divBits u 32 (a.toNat % 2 ^ 32) (b.toNat % 2 ^ 32) = quotBits u 32 (a.setWidth 32) (b.setWidth 32) := by
    rw [← divBits_eq_quotBits u (by decide), BitVec.toNat_setWidth, BitVec.toNat_setWidth]
  rw [State.divOp, State.runOp_ready h]
  simp only [Eff.run, State.val2_srcs, State.taken_curCore, State.taken_curCtx, State.taken_tok, aluWord_eq_aluRes hop, h32,
    divBits_eq_quotBits u (show 0 < 64 by decide)]
  rfl

theorem divRemResults : Sys2Proof.Claims.DivRemResults := by
  intro s x u h
  exact ⟨congrArg Host.Outcome.next (State.divOp_ready h u (agrees_div u)), congrArg Host.Outcome.next (State.divOp_ready h u (agrees_rem u))⟩

/-! ### Bit operations -/

theorem testBit_ofBits (f : Nat → Bool) (n i : Nat) : (ofBits f n).testBit i = (decide (i < n) && f i) := by
  have hlt : ∀ n, ofBits f n < 2 ^ n := by
    intro n
    induction n with
    | zero => exact Nat.one_pos
    | succ n ih => rw [ofBits, Nat.pow_succ]; split <;> omega
  induction n with
  | zero => simp [ofBits]
  | succ n ih =>
    have hsplit : ofBits f (n + 1) = 2 ^ n * (if f n then 1 else 0) + ofBits f n := by rw [ofBits]; split <;> omega
    rw [hsplit, Nat.testBit_two_pow_mul_add _ (hlt n), ih]
    by_cases hi : i < n
    · simp [hi, Nat.lt_succ_of_lt hi]
    · rw [if_neg hi]
      by_cases he : i = n
      · subst he; cases f i <;> simp
      · have hne : i - n ≠ 0 := by omega
        have hbig : ¬ i < n + 1 := by omega
        cases f n <;> simp [hbig, Nat.testBit_lt_two_pow (Nat.one_lt_two_pow hne)]

theorem popCount_eq_countP (w x : Nat) : popCount w x = (List.range w).countP x.testBit := by
  induction w generalizing x with
  | zero => rfl
  | succ w ih =>
    have hhead : (if x.testBit 0 then 1 else 0) = x % 2 := by rw [Nat.testBit_zero]; split <;> simp_all
    rw [popCount, ih, List.range_succ_eq_map, List.countP_cons, List.countP_map, hhead, Nat.add_comm]
    congr 2
    funext i
    exact (Nat.testBit_succ x i).symm

/-- A count of at most 32 is not changed by the sign extension of a 32-bit result (R280). -/
theorem aluWord_count {w32 : Bool} {op : Nat → Nat → Nat} (v : Word) {n : Nat} (hn : n ≤ if w32 then 32 else 64)
    (hop : op (if w32 then 32 else 64) (v.toNat % 2 ^ (if w32 then 32 else 64)) = n) :
    aluWord w32 (fun w a _ => op w a) v 0 = BitVec.ofNat 64 n := by
  cases w32 with
  | false =>
    rw [aluWord, if_neg Bool.false_ne_true, ← hop]
    exact congrArg (fun a => BitVec.ofNat 64 (op 64 a)) (Nat.mod_eq_of_lt v.isLt).symm
  | true =>
    have hop : op 32 (v.toNat % 2 ^ 32) = n := hop
    have hn : n ≤ 32 := hn
    rw [aluWord, if_pos rfl, hop, sx64, sgn, Nat.mod_eq_of_lt (by omega), if_pos (by omega), BitVec.ofInt_natCast]

/-- The leading zeros of the low `w` bits (R295). -/
theorem opClz_spec {w x : Nat} (hx : x < 2 ^ w) :
    opClz w x ≤ w ∧ (∀ i, w - opClz w x ≤ i → x.testBit i = false) ∧ (opClz w x < w → x.testBit (w - 1 - opClz w x) = true) := by
  have hlen : bitLen w x ≤ w ∧ x < 2 ^ bitLen w x ∧ (0 < bitLen w x → x.testBit (bitLen w x - 1) = true) := by
    rw [bitLen_eq_log2 hx]
    by_cases h0 : x = 0
    · simp [h0]
    · rw [if_neg h0]
      exact ⟨(Nat.log2_lt h0).2 hx, Nat.lt_log2_self, fun _ => Nat.testBit_log2 h0⟩
  obtain ⟨hle, hlt, htop⟩ := hlen
  unfold opClz
  refine ⟨Nat.sub_le .., fun i hi => Nat.testBit_lt_two_pow (hlt.trans_le (Nat.pow_le_pow_right (by decide) (by omega))), fun h => ?_⟩
  rw [show w - 1 - (w - bitLen w x) = bitLen w x - 1 by omega]
  exact htop (by omega)

theorem clz_popc_results {s : State} {y : UnOps} (h : s.ready (srcs2 y.src) (some y.dst) = true) (w : Nat) (hw : w = if y.w32 then 32 else 64) :
    ∃ n k : Nat,
      (n ≤ w ∧ (∀ i, w - n ≤ i → i < w → (s.opnd y.src).getLsbD i = false) ∧ (n < w → (s.opnd y.src).getLsbD (w - 1 - n) = true))
      ∧ k = (List.range w).countP (fun i => (s.opnd y.src).getLsbD i)
      ∧ exec (.clz y) s = .next (s.result (srcs2 y.src) y.dst (BitVec.ofNat 64 n))
      ∧ exec (.popc y) s = .next (s.result (srcs2 y.src) y.dst (BitVec.ofNat 64 k)) := by
  generalize hv : s.opnd y.src = v
  have hbit (i : Nat) (hi : i < w) : (v.toNat % 2 ^ w).testBit i = v.getLsbD i := by rw [Nat.testBit_mod_two_pow, decide_eq_true hi]; rfl
  obtain ⟨hle, hzero, htop⟩ := opClz_spec (w := w) (x := v.toNat % 2 ^ w) (Nat.mod_lt _ (Nat.two_pow_pos w))
  have hcount : opPopc w (v.toNat % 2 ^ w) = (List.range w).countP (fun i => v.getLsbD i) := by
    rw [opPopc, popCount_eq_countP]
    exact List.countP_congr (fun i hi => by rw [hbit i (List.mem_range.1 hi)])
  have hk : (List.range w).countP (fun i => v.getLsbD i) ≤ w := List.countP_le_length.trans (by rw [List.length_range])
  refine ⟨_, _, ⟨hle, fun i hlo hi => (hbit i hi) ▸ hzero i hlo, fun hn => ?_⟩, rfl, ?_, ?_⟩
  · exact (hbit _ (by omega)).symm.trans (htop hn)
  · subst hw
    exact congrArg Host.Outcome.next ((State.alu1_ready h _).trans (by rw [hv, aluWord_count v hle rfl]))
  · subst hw
    exact congrArg Host.Outcome.next ((State.alu1_ready h _).trans (by rw [hv, aluWord_count v hk hcount]))

theorem agrees_fsh (sh : Nat) :
    Agrees (fun w x y => (x * 2 ^ w + y) / 2 ^ sh % 2 ^ w) (fun w x y => ((x ++ y : BitVec (w + w)) >>> sh).setWidth w) := fun w _ a b => by
  rw [BitVec.toNat_setWidth, BitVec.toNat_ushiftRight, BitVec.toNat_append, ← Nat.shiftLeft_add_eq_or_of_lt b.isLt, Nat.shiftLeft_eq,
    Nat.shiftRight_eq_div_pow]

theorem bfi_bits {p hi : Nat} (hp : p ≤ hi) (x y j : Nat) :
    (x % 2 ^ p + y % 2 ^ (hi - p) * 2 ^ p + x / 2 ^ hi * 2 ^ hi).testBit j = if p ≤ j ∧ j < hi then y.testBit (j - p) else x.testBit j := by
  have hpow : 2 ^ hi = 2 ^ p * 2 ^ (hi - p) := by rw [← Nat.pow_add]; congr 1; omega
  have hsum : x % 2 ^ p + y % 2 ^ (hi - p) * 2 ^ p + x / 2 ^ hi * 2 ^ hi
      = 2 ^ p * (2 ^ (hi - p) * (x / 2 ^ hi) + y % 2 ^ (hi - p)) + x % 2 ^ p := by
    rw [Nat.mul_add, ← Nat.mul_assoc, ← hpow, Nat.mul_comm (x / _), Nat.mul_comm (y % _)]; omega
  rw [hsum, Nat.testBit_two_pow_mul_add _ (Nat.mod_lt _ (Nat.two_pow_pos p)),
    Nat.testBit_two_pow_mul_add _ (Nat.mod_lt _ (Nat.two_pow_pos (hi - p)))]
  by_cases hj : j < p
  · rw [if_pos hj, if_neg (by omega), Nat.testBit_mod_two_pow, decide_eq_true hj, Bool.true_and]
  · rw [if_neg hj]
    by_cases hjh : j < hi
    · rw [if_pos (by omega), if_pos ⟨by omega, hjh⟩, Nat.testBit_mod_two_pow, decide_eq_true (by omega), Bool.true_and]
    · rw [if_neg (by omega), if_neg (by omega), Nat.testBit_div_two_pow]
      congr 1
      omega

/-- A three-input table, bit by bit (R330, R367). -/
theorem testBit_tableBits (n tbl x y z i : Nat) : (tableBits n tbl x y z).testBit i =
    (decide (i < n) && bit tbl (4 * (bit y i).toNat + 2 * (bit z i).toNat + (bit x i).toNat)) :=
  testBit_ofBits ..

theorem sx64_ofNat (r : Nat) : sx64 32 r = ((BitVec.ofNat 64 r).setWidth 32).signExtend 64 := by
  rw [sx64_eq_signExtend (by decide)]
  congr 1
  apply BitVec.eq_of_toNat_eq
  simp

theorem bitResults : Sys2Proof.Claims.BitResults := by
  intro s
  refine ⟨fun y h w hw => clz_popc_results h w hw, fun w32 dst a b sh h => ?_, fun sx dst a pos len h => ?_, fun dst a b pos len h => ?_,
    fun w32 dst a b tbl h => ?_⟩
  · refine congrArg Host.Outcome.next ((State.runPut_ready h _).trans ?_)
    rw [aluWord_eq_aluRes (agrees_fsh sh.toNat)]
    rfl
  · refine congrArg Host.Outcome.next ((State.runPut_ready h _).trans ?_)
    congr 1
    have hfield : BitVec.ofNat (len.toNat + 1) ((s.srcVal a).toNat / 2 ^ pos.toNat % 2 ^ (len.toNat + 1)) =
        (s.srcVal a >>> pos.toNat).setWidth (len.toNat + 1) := by
      apply BitVec.eq_of_toNat_eq
      simp [Nat.shiftRight_eq_div_pow]
    cases sx with
    | true => simpa using (sx64_eq_signExtend (Nat.succ_pos _) _).trans (congrArg _ hfield)
    | false =>
      apply BitVec.eq_of_toNat_eq
      simp [Nat.shiftRight_eq_div_pow]
  · refine ⟨_, fun j hj => ?_, congrArg Host.Outcome.next (State.runPut_ready h _)⟩
    have hmin : Nat.min (pos.toNat + len.toNat + 1) 64 = min (pos.toNat + len.toNat + 1) 64 := rfl
    rw [BitVec.getLsbD_ofNat, decide_eq_true hj, Bool.true_and, hmin, bfi_bits (by omega)]
    by_cases hin : pos.toNat ≤ j ∧ j < pos.toNat + len.toNat + 1
    · rw [if_pos hin, if_pos ⟨hin.1, by omega⟩]; rfl
    · rw [if_neg hin, if_neg (by omega)]; rfl
  · refine ⟨BitVec.ofNat 64 (tableBits 64 tbl.toNat (s.srcVal dst).toNat (s.srcVal a).toNat (s.srcVal b).toNat), fun j hj => ?_, ?_⟩
    · rw [BitVec.getLsbD_ofNat, testBit_tableBits, decide_eq_true hj]
      simp only [bit_toNat, Bool.true_and]
    · rw [← sx64_ofNat]
      exact congrArg Host.Outcome.next (State.runPut_ready h _)

/-- Settles O7: quotients and remainders, and the bits of each bit operation's result. -/
theorem divideAndBitResults : Obligations.DivideAndBitResults :=
  ⟨divRemResults, bitResults⟩

end Sys2Proof.Machine
end

section
/-! PROOFS. Predicates and immediates (R283, R296, R320, R321, R334, R336, R348), and what putting a result changes (R70). -/

namespace Sys2Proof.Machine

/-! ### Predicates -/

/-- A condition on the integers two words stand for is the condition on the words (R296). -/
theorem condInt_eq_cmpSpec (u : Bool) (c : Cond) {w : Nat} (hw : 0 < w) (a b : BitVec w) :
    (if u then condInt c a.toNat b.toNat else condInt c (sgn w a.toNat) (sgn w b.toNat)) = cmpSpec u c w a b := by
  have hnat : ∀ x y : BitVec w, x = y ↔ (x.toNat : Int) = y.toNat := fun x y => by rw [Int.natCast_inj]; exact BitVec.toNat_inj.symm
  have hint : ∀ x y : BitVec w, x = y ↔ x.toInt = y.toInt := fun x y => BitVec.toInt_inj.symm
  rw [sgn_toNat hw, sgn_toNat hw, Bool.eq_iff_iff]
  cases u with
  | true =>
    cases c <;> simp [condInt, cmpSpec, hnat, BitVec.ult_iff_toNat_lt, BitVec.ule_iff_toNat_le]
  | false =>
    cases c <;> simp [condInt, cmpSpec, hint, BitVec.slt_iff_toInt_lt, BitVec.sle_iff_toInt_le]

theorem Ctx.readP_writeP (x : Ctx) (pd k : Fin 8) (b : Bool) : (x.writeP pd b).readP k = if k = pd ∧ pd ≠ 0 then b else x.readP k := by
  have hzero (p : Fin 8) : p.val = 0 ↔ p = 0 := by rw [Fin.ext_iff]; rfl
  unfold Ctx.writeP
  by_cases hpd : pd = 0
  · simp [hpd]
  · rw [if_neg (fun h => hpd ((hzero pd).1 h))]
    by_cases hk : k = pd
    · subst hk
      simp [Ctx.readP, (hzero k), hpd]
    · have hne : k.val ≠ pd.val := fun h => hk (Fin.ext h)
      simp [Ctx.readP, Table.get_set_other _ _ hne, hk]
theorem Ctx.read_writeP (x : Ctx) (pd : Fin 8) (b : Bool) (q : Reg) : (x.writeP pd b).read q = x.read q := by
  unfold Ctx.writeP
  split <;> cases q <;> rfl

/-- The advance moves the pc and forgets what the bundle kept; every register but the pc, and every predicate, reads as before. -/
theorem State.advance_read (s : State) {q : Reg} (hq : q ≠ .pc) : s.advance.me.read q = s.me.read q := by
  rw [State.me_advance]
  cases q <;> first | exact absurd rfl hq | rfl
theorem State.advance_readP (s : State) (k : Fin 8) : s.advance.me.readP k = s.me.readP k := by
  rw [State.me_advance]
  rfl

/-- An operation that writes a predicate and goes on. -/
theorem State.writeP_advance (s : State) (pd : Fin 8) (r : Bool) :
    let t := (s.modMe (fun x => x.writeP pd r)).advance
    (∀ k, t.me.readP k = if k = pd ∧ pd ≠ 0 then r else s.me.readP k) ∧ (∀ q, q ≠ .pc → t.me.read q = s.me.read q) := by
  refine ⟨fun k => ?_, fun q hq => ?_⟩
  · rw [State.advance_readP, State.me_modMe, Ctx.readP_writeP]
  · rw [State.advance_read _ hq, State.me_modMe, Ctx.read_writeP]

theorem predicateResults : Sys2Proof.Claims.PredicateResults := by
  intro s
  refine ⟨fun u c pd w32 a b h => ?_, fun inv p dst a b h => ?_, fun pd pa pb pc tbl => ?_, rfl⟩
  · have hmod (v : Word) : v.toNat % 2 ^ 32 = (v.setWidth 32).toNat := (BitVec.toNat_setWidth ..).symm
    have hr : (if w32 then cmpSpec u c 32 ((s.srcVal a).setWidth 32) ((s.opnd b).setWidth 32) else cmpSpec u c 64 (s.srcVal a) (s.opnd b)) =
        (let w := if w32 then 32 else 64
         let x : Nat := (s.srcVal a).toNat % 2 ^ w
         let y : Nat := (s.opnd b).toNat % 2 ^ w
         if u then condInt c x y else condInt c (sgn w x) (sgn w y)) := by
      cases w32 with
      | true => simp only [if_true, hmod, condInt_eq_cmpSpec u c (show 0 < 32 by decide)]
      | false =>
        simp only [Bool.false_eq_true, if_false, Nat.mod_eq_of_lt (s.srcVal a).isLt, Nat.mod_eq_of_lt (s.opnd b).isLt,
          condInt_eq_cmpSpec u c (show 0 < 64 by decide)]
    have hput := State.writeP_advance (s.taken (a :: srcs2 b) none) pd
      (if w32 then cmpSpec u c 32 ((s.srcVal a).setWidth 32) ((s.opnd b).setWidth 32) else cmpSpec u c 64 (s.srcVal a) (s.opnd b))
    rw [State.taken_me] at hput
    refine ⟨_, congrArg Host.Outcome.next ?_, rfl, hput⟩
    rw [hr, State.runOp_ready h, ← s.val2_srcs a b]
    rfl
  · exact congrArg Host.Outcome.next (State.runPut_ready h _)
  · refine ⟨_, congrArg Host.Outcome.next ?_, rfl, State.writeP_advance ..⟩
    rw [bit_toNat]

/-! ### Immediates -/

theorem ofNat_high_low (imm : BitVec 32) (v : Word) : BitVec.ofNat 64 (imm.toNat * 2 ^ 32 + v.toNat % 2 ^ 32) = imm ++ v.setWidth 32 := by
  apply BitVec.eq_of_toNat_eq
  rw [BitVec.toNat_append, BitVec.toNat_setWidth, ← Nat.shiftLeft_add_eq_or_of_lt (Nat.mod_lt _ (by decide)), Nat.shiftLeft_eq,
    BitVec.toNat_ofNat, Nat.mod_eq_of_lt (by omega)]

theorem immediateResults : Sys2Proof.Claims.ImmediateResults := by
  intro s dst imm
  refine ⟨rfl, fun h => ⟨congrArg Host.Outcome.next (State.runPut_ready h _), congrArg Host.Outcome.next (State.runPut_ready h _)⟩, fun h => ?_⟩
  refine congrArg Host.Outcome.next ((State.runPut_ready h _).trans ?_)
  rw [ofNat_high_low]
  rfl

/-- Settles O8: comparisons are those of the words compared, the table of PLOG is read at the three predicates, and immediates form their
word. -/
theorem predicateAndImmediateResults : Obligations.PredicateAndImmediateResults :=
  ⟨predicateResults, immediateResults⟩

end Sys2Proof.Machine
end

section
/-! PROOFS. Putting a result: the frame of O9 fails for LKSTAT at an end whose feed fault was delivered, since the engine resumes. -/

namespace Sys2Proof.Machine

/-- Core 0 after reset, its east link's engine faulted, context 0 the party of the near end, a feed fault delivered to it: its next link
instruction resumes the engine (R122). -/
def resumingState : State :=
  State.reset.setEng 0 { Engine.dormant with st := .faulted, near := { EEnd.closed with isOpen := true, resume := true } }

/-- The state after LKSTAT. -/
def State.lkstatTo (s : State) (dst : Reg) (d : Dir) (w : Fin 3) : State :=
  s.runOp [] (some dst) (fun _ => s.linkChecks d .any (fun _ l far =>
    .ok (fun t => (t.put dst (BitVec.ofNat 64 (t.statusWord l far w.val))).advance)))

theorem exec_lkstat (s : State) (dst : Reg) (d : Dir) (w : Fin 3) : exec (.lkstat dst d w) s = .next (s.lkstatTo dst d w) := by rfl

theorem resumingState_resume : (resumingState.eng 0).near.resume = true := by rfl
theorem lkstatTo_resumingState_noEffect : (resumingState.lkstatTo (.w 0) .e 0).noEffect = false := by decide
theorem lkstatTo_resumingState_resume : ((resumingState.lkstatTo (.w 0) .e 0).eng 0).near.resume = false := by decide

/-- Refutes O9: the frame holds for no LKSTAT whose context's engine waits to resume after a delivered feed fault, since the instruction
resumes it (R122): the engine changes. -/
theorem not_putEffect : ¬ Obligations.PutEffect := by
  rintro ⟨-, hframe⟩
  obtain ⟨-, -, -, -, -, hunits, -⟩ := hframe (.lkstat (.w 0) .e 0) [] (.w 0) rfl resumingState _ rfl (exec_lkstat ..)
    lkstatTo_resumingState_noEffect
  have heng := congrArg (fun s : State => s.engines) hunits
  have hresume : ((resumingState.lkstatTo (.w 0) .e 0).eng 0).near.resume = (resumingState.eng 0).near.resume :=
    congrArg (fun t => (Table.get Engine.dormant t 0).near.resume) heng
  rw [lkstatTo_resumingState_resume, resumingState_resume] at hresume
  exact Bool.false_ne_true hresume

end Sys2Proof.Machine
end

section
/-! PROOFS. Transfers of control, iterations, and windows that open and close (O10, O11). -/

namespace Sys2Proof.Machine

/-! ### What a transfer of control leaves as it was -/

theorem Ctx.readP_congr {x y : Ctx} (hp : y.p = x.p) (k : Fin 8) : y.readP k = x.readP k := by
  unfold Ctx.readP
  rw [hp]
theorem Ctx.vecsKept_congr {x y : Ctx} (hv : y.v = x.v) (hm : y.m = x.m) (hf : y.flags = x.flags) : x.vecsKept y := by
  refine ⟨fun k => ?_, fun k => ?_, hf⟩
  · unfold Ctx.readV
    rw [hv]
  · unfold Ctx.readM
    rw [hm]

/-- A context that goes to an address. -/
def Ctx.goTo (x : Ctx) (t : Word) : Ctx := { x.forgetWait with pc := t, src := x.pc }
theorem State.me_jump_goTo (s : State) (t : Word) : (s.jump t).me = s.me.goTo t := s.me_modMe _
theorem Ctx.goTo_read (x : Ctx) (t : Word) {r : Reg} (hr : r ≠ .pc) : (x.goTo t).read r = x.read r := by
  cases r with
  | pc => exact absurd rfl hr
  | _ => rfl
/-- Only the pc and where control came from change. -/
theorem State.jump_read (s : State) (t : Word) {r : Reg} (hr : r ≠ .pc) : (s.jump t).me.read r = s.me.read r := by
  rw [State.me_jump_goTo, Ctx.goTo_read _ _ hr]
theorem State.othersKept_jump (s : State) (t : Word) : s.othersKept (s.jump t) := s.othersKept_modMe _
theorem State.othersKept_advance (s : State) : s.othersKept s.advance := s.othersKept_modMe _

theorem exec_br (s : State) (off : Off) : exec (.br off) s = .next (s.jump (s.me.pc + offBytes off)) := by
  show execBr off s = _
  rw [execBr, State.runOp_ready s.ready_nil, State.taken_nil]
  rfl

theorem exec_jmp {s : State} {a : Addr} (h : s.ready [a.base] none = true) :
    exec (.jmp a) s = .next ((s.taken [a.base] none).jump (s.srcVal a.base + a.disp.signExtend 64)) := by
  show execJmp a s = _
  rw [execJmp, State.runOp_ready h]
  show Host.Outcome.next ((s.taken [a.base] none).jump (BitVec.ofNat 64 (s.srcVal a.base + a.disp.signExtend 64).toNat)) = _
  rw [BitVec.ofNat_toNat, BitVec.setWidth_eq]

theorem branchesGo : Sys2Proof.Claims.BranchesGo := by
  intro s o p a
  refine ⟨exec_br s (.short o), exec_br s (.long p), exec_jmp, fun t => ⟨?_, ?_, ?_, ?_, ?_, ?_, s.othersKept_jump t, rfl⟩⟩
  · rw [State.me_jump]
  · rw [State.me_jump]
  · exact fun r hr => s.jump_read t (by simpa using hr)
  · rw [State.me_jump]
    exact Ctx.readP_congr rfl
  · rw [State.me_jump]
    exact Ctx.vecsKept_congr rfl rfl rfl
  · rw [State.me_jump]
    exact ⟨rfl, rfl, rfl, rfl, rfl, rfl⟩

theorem State.advance_pc (s : State) : s.advance.me.pc = s.me.pc + BitVec.ofNat 64 s.curLen := by
  rw [State.me_advance]
/-- A context that parks stands at its bundle; only its park changes. -/
theorem State.me_wait (s : State) (w : Wait) : (s.wait w).me = { s.me with park := some (.cond w s.curBundle) } :=
  State.me_modMe _ _
theorem State.me_park (s : State) (p : Park) : (s.park s.curCore s.curCtx p).me = { s.me with park := some p } :=
  State.me_modMe _ _

/-! ### ITER -/

/-- The claim for the next chunk sets `out` and schedules, and changes nothing else. -/
theorem State.fetchAhead_frame (s : State) (c : Nat) :
    s.fetchAhead c = { s with cores := (s.fetchAhead c).cores, agenda := (s.fetchAhead c).agenda } := by
  unfold State.fetchAhead
  dsimp only
  split <;> rfl
theorem State.fetchAhead_me (s : State) (c : Nat) : (s.fetchAhead c).me = s.me := by
  rw [s.fetchAhead_frame c]
  rfl
theorem State.fetchAhead_curLen (s : State) (c : Nat) : (s.fetchAhead c).curLen = s.curLen := by
  rw [s.fetchAhead_frame c]
theorem State.fetchAhead_curBundle (s : State) (c : Nat) : (s.fetchAhead c).curBundle = s.curBundle := by
  rw [s.fetchAhead_frame c]
theorem State.fetchAhead_mem (s : State) (c : Nat) : (s.fetchAhead c).mem = s.mem := by
  rw [s.fetchAhead_frame c]
theorem State.fetchAhead_cur (s : State) (c : Nat) : ((s.fetchAhead c).core c).fetch.cur = (s.core c).fetch.cur := by
  unfold State.fetchAhead
  dsimp only
  split
  · show (Table.get Core.idle (s.cores.set c _) c).fetch.cur = _
    rw [Table.get_set_self]
  · rfl

theorem State.core_modCore_self (s : State) (c : Nat) (f : Core → Core) : (s.modCore c f).core c = f (s.core c) :=
  Table.get_set_self ..
/-- The team of a core depends on the core's mark and on the teams. -/
theorem State.teamOf_congr {s t : State} {c : Nat} (hcore : (t.core c).team = (s.core c).team) (hteams : t.teams = s.teams) :
    t.teamOf c = s.teamOf c := by
  unfold State.teamOf
  rw [hcore, hteams]

/-- The fetcher deals index `lo` of the chunk that ends at `hi`. -/
def State.deal (s : State) (lo hi : Nat) : State :=
  s.modCore s.curCore (fun x => { x with fetch := { (s.core s.curCore).fetch.front with cur := some (lo + 1, hi) } })
/-- A context that is dealt index `lo` of the extents `ext` (R227). -/
def Ctx.takeIndex (x : Ctx) (ext : List Nat) (lo : Nat) : Ctx :=
  { x.shift (BitVec.ofNat 64 lo) with i := (unpackIndex ext 0 lo).foldl (fun t e => t.set e.1 e.2) x.i }

section
variable {s : State} {off : BitVec 32} {lo hi : Nat}

theorem exec_iter_deals {t : Nat} {u : Team}
    (hturn : (s.core s.curCore).fetch.front.exhausted = true ∨ s.iterBehind = false)
    (hcur : (s.core s.curCore).fetch.front.cur = some (lo, hi)) (hlt : lo < hi) (hteam : s.teamOf s.curCore = some (t, u)) :
    exec (.iter off) s = .next (((s.deal lo hi).modMe (fun x => x.takeIndex u.lr.ext lo)).fetchAhead s.curCore).advance := by
  have hgo : (!(s.core s.curCore).fetch.front.exhausted && s.iterBehind) = false := by
    rcases hturn with h | h <;> simp [h]
  have hteam' : (s.deal lo hi).teamOf s.curCore = some (t, u) := by
    rw [← hteam]
    exact State.teamOf_congr (by rw [State.deal, State.core_modCore_self]) rfl
  show execIter off s = _
  rw [execIter, State.runOp_ready s.ready_nil, State.taken_nil]
  simp only [hgo, hcur, if_pos hlt, Bool.false_eq_true, if_false, Eff.run]
  have hext : (match (s.deal lo hi).teamOf s.curCore with
      | some (_, t) => t.lr.ext
      | none => []) = u.lr.ext := by rw [hteam']
  exact congrArg (fun ext => Host.Outcome.next (((s.deal lo hi).modMe (fun x => x.takeIndex ext lo)).fetchAhead s.curCore).advance) hext

/-- With the claims exhausted and the chunk dealt out, ITER branches to its exit. -/
theorem exec_iter_exits (hend : ∀ lo hi, (s.core s.curCore).fetch.front.cur = some (lo, hi) → hi ≤ lo)
    (hout : (s.core s.curCore).fetch.front.exhausted = true) :
    exec (.iter off) s = .next (s.jump (s.me.pc + off.signExtend 64 * 4)) := by
  show execIter off s = _
  rw [execIter, State.runOp_ready s.ready_nil, State.taken_nil]
  simp only [hout, Bool.not_true, Bool.false_and, Bool.false_eq_true, if_false, if_true]
  cases hcur : (s.core s.curCore).fetch.front.cur with
  | none => rfl
  | some c =>
    simp only [if_neg (Nat.not_lt.2 (hend c.1 c.2 hcur))]
    rfl

/-- Else it waits for a claim. -/
theorem exec_iter_waits (hnot : (∀ lo hi, (s.core s.curCore).fetch.front.cur = some (lo, hi) → hi ≤ lo) ∨ s.iterBehind = true)
    (hout : (s.core s.curCore).fetch.front.exhausted = false) : exec (.iter off) s = .next (s.iterWait.run s s) := by
  show execIter off s = _
  rw [execIter, State.runOp_ready s.ready_nil, State.taken_nil]
  simp only [hout, Bool.not_false, Bool.true_and, Bool.false_eq_true, if_false]
  by_cases hbehind : s.iterBehind = true
  · rw [if_pos hbehind]
  · rw [if_neg hbehind]
    have hend := hnot.resolve_right hbehind
    cases hcur : (s.core s.curCore).fetch.front.cur with
    | none => rfl
    | some c => simp only [if_neg (Nat.not_lt.2 (hend c.1 c.2 hcur))]

end

/-- The four index registers of a dealt index. -/
theorem Ctx.takeIndex_i (x : Ctx) (e0 e1 e2 e3 lo : Nat) :
    (x.takeIndex [e0, e1, e2, e3] lo).read (.i 0) = BitVec.ofNat 64 (lo % e0)
      ∧ (x.takeIndex [e0, e1, e2, e3] lo).read (.i 1) = BitVec.ofNat 64 (lo / e0 % e1)
      ∧ (x.takeIndex [e0, e1, e2, e3] lo).read (.i 2) = BitVec.ofNat 64 (lo / e0 / e1 % e2)
      ∧ (x.takeIndex [e0, e1, e2, e3] lo).read (.i 3) = BitVec.ofNat 64 (lo / e0 / e1 / e2 % e3) := by
  simp [Ctx.read, Ctx.takeIndex, unpackIndex, Table.get_set]

/-- No other register changes but l0 to l3. -/
theorem Ctx.takeIndex_read (x : Ctx) (ext : List Nat) (lo : Nat) {r : Reg} (hi : ∀ k, r ≠ .i k) (hl : ∀ k, r ≠ .l k) :
    (x.takeIndex ext lo).read r = x.read r := by
  cases r with
  | i k => exact absurd rfl (hi k)
  | l k => exact absurd rfl (hl k)
  | _ => rfl

theorem iterDeals : Sys2Proof.Claims.IterDeals := by
  intro s off
  refine ⟨fun lo hi t u e0 e1 e2 e3 hturn hcur hlt hteam hext => ⟨_, exec_iter_deals hturn hcur hlt hteam, ?_⟩, exec_iter_exits,
    fun hnot hout => ⟨_, exec_iter_waits hnot hout, ?_⟩⟩
  · have hme : (((s.deal lo hi).modMe (fun x => x.takeIndex u.lr.ext lo)).fetchAhead s.curCore).me = s.me.takeIndex u.lr.ext lo := by
      rw [State.fetchAhead_me, State.me_modMe]
      rfl
    obtain ⟨hi0, hi1, hi2, hi3⟩ := s.me.takeIndex_i e0 e1 e2 e3 lo
    rw [← hext] at hi0 hi1 hi2 hi3
    have hread (r : Reg) (hr : r ≠ .pc) := (State.advance_read _ hr).trans (congrArg (Ctx.read · r) hme)
    refine ⟨?_, ?_, (hread _ (by decide)).trans hi0, (hread _ (by decide)).trans hi1, (hread _ (by decide)).trans hi2,
      (hread _ (by decide)).trans hi3, ?_, ?_, ?_, ?_⟩
    · rw [hread _ (by decide)]
      simp [Ctx.read, Ctx.takeIndex, Ctx.shift]
    · rw [hread _ (by decide)]
      simp [Ctx.read, Ctx.takeIndex, Ctx.shift, Table.get_set]
    · rw [State.advance_pc, hme, State.fetchAhead_curLen]
      rfl
    · show ((State.fetchAhead _ s.curCore).core s.curCore).fetch.cur = _
      rw [State.fetchAhead_cur]
      show ((s.deal lo hi).core s.curCore).fetch.cur = _
      rw [State.deal, State.core_modCore_self]
    · intro r hr
      simp only [List.cons_append, List.nil_append, lastResults, List.mem_cons, List.not_mem_nil, not_or, not_false_iff, and_true] at hr
      obtain ⟨hpc, hr0, hr1, hr2, hr3, hl0, hl1, hl2, hl3⟩ := hr
      refine (hread r hpc).trans (s.me.takeIndex_read _ lo ?_ ?_)
      · rintro k rfl
        fin_cases k <;> contradiction
      · rintro k rfl
        fin_cases k <;> contradiction
    · show (State.fetchAhead _ s.curCore).mem = _
      rw [State.fetchAhead_mem]
      rfl
  · show ((State.fetchAhead _ _).wait .iter).me.park = _ ∧ ((State.fetchAhead _ _).wait .iter).me.pc = _
    rw [State.me_wait, State.fetchAhead_curBundle, State.fetchAhead_me, State.me_modMe]
    exact ⟨rfl, rfl⟩

/-- Settles O10: each transfer is one jump, and ITER deals, branches or waits by the fetcher's front. -/
theorem transfersAndIterations : Obligations.TransfersAndIterations := ⟨branchesGo, iterDeals⟩

end Sys2Proof.Machine
end

section
/-! PROOFS. CALL, RET and the pair (O11), over the window laws. -/

namespace Sys2Proof.Machine

theorem State.modMe_meKey (s : State) (f : Ctx → Ctx) : (s.modMe f).meKey = s.meKey := rfl
theorem State.jump_meKey (s : State) (t : Word) : (s.jump t).meKey = s.meKey := rfl
theorem Ctx.goTo_pc (x : Ctx) (t : Word) : (x.goTo t).pc = t := rfl
theorem Ctx.goTo_pend (x : Ctx) (t : Word) : (x.goTo t).pend = x.pend := rfl
theorem Ctx.goTo_depth (x : Ctx) (t : Word) : (x.goTo t).depth = x.depth := rfl
theorem Ctx.closeWindow_goTo_readW (x : Ctx) (t : Word) (r : Nat) : (x.goTo t).closeWindow.readW r = x.closeWindow.readW r := rfl
theorem Ctx.goTo_readW (x : Ctx) (t : Word) (r : Nat) : (x.goTo t).readW r = x.readW r := rfl

section
variable {s : State} {off : Off}

/-- The context in the window CALL opens, `n` bytes past its bundle's address as the return address. -/
def Ctx.callee (x : Ctx) (n : Nat) : Ctx := (x.openWindow .call).writeW 8 (x.pc + BitVec.ofNat 64 n)

theorem exec_call (hdepth : s.me.depth + 1 ≤ 4 + s.wss s.curCore / 128) (hroom : s.me.room = .free ∨ s.me.room = .reuse) :
    exec (.call off) s = .next ((s.modMe (fun x => x.callee s.curLen)).jump (s.me.pc + offBytes off)) := by
  have hle : ¬ s.maxDepth s.curCore < s.me.depth + 1 := Nat.not_lt.2 hdepth
  show execCall off s = _
  rw [execCall, State.runOp_ready s.ready_nil, State.taken_nil]
  simp only [if_neg hle]
  rcases hroom with h | h <;> rw [h] <;> rfl

theorem exec_call_past (hdepth : 4 + s.wss s.curCore / 128 < s.me.depth + 1) :
    exec (.call off) s = .next (s.fault .window 0 (BitVec.ofNat 64 (s.me.depth + 1))) := by
  show execCall off s = _
  rw [execCall, State.runOp_ready s.ready_nil]
  exact congrArg (fun e => Host.Outcome.next (Eff.run s _ e)) (if_pos hdepth)

theorem Ctx.callee_readW {x : Ctx} (h : x.room = .free ∨ x.room = .reuse) (n : Nat) {r : Nat} (hr : r < 24) :
    (x.callee n).readW r = if r = 8 then x.pc + BitVec.ofNat 64 n else if r < 8 then x.readW (r + 16) else 0 := by
  obtain ⟨hzero, hpassed⟩ := x.openWindow_readW .call h
  rw [Ctx.callee, Ctx.readW_writeW _ _ _ _ (by decide) hr]
  split
  · rfl
  · split
    · exact hpassed r ‹_›
    · exact hzero r (by omega)
/-- CALL changes windowed registers only. -/
theorem Ctx.callee_read (x : Ctx) (n : Nat) {q : Reg} (hw : ∀ k, q ≠ .w k) (hpc : q ≠ .pc) : (x.callee n).read q = x.read q :=
  Ctx.read_congr (by simp [Ctx.callee]) (by simp [Ctx.callee]) (by simp [Ctx.callee]) (by simp [Ctx.callee]) hw hpc
theorem Ctx.callee_depth (x : Ctx) (n : Nat) : (x.callee n).depth = x.depth + 1 := by
  simp [Ctx.callee, Ctx.depth]

theorem callOpensWindow : Sys2Proof.Claims.CallOpensWindow := by
  intro s off
  refine ⟨fun hdepth hroom => ⟨_, exec_call hdepth hroom, ?_⟩, exec_call_past⟩
  have hreadW (r : Nat) (hr : r < 24) := s.me.callee_readW hroom s.curLen hr
  have hpreds : s.me.predsKept (s.me.callee s.curLen) := Ctx.readP_congr (by simp [Ctx.callee])
  have hvecs : s.me.vecsKept (s.me.callee s.curLen) :=
    Ctx.vecsKept_congr (by simp [Ctx.callee]) (by simp [Ctx.callee]) (by simp [Ctx.callee])
  have hregs (q : Reg) (hw : ∀ k, q ≠ .w k) (hpc : q ≠ .pc) := s.me.callee_read s.curLen hw hpc
  have hothers : s.othersKept ((s.modMe (fun x => x.callee s.curLen)).jump (s.me.pc + offBytes off)) :=
    State.othersKept_trans (s.othersKept_modMe _) (s.modMe_meKey _) (State.othersKept_jump _ _)
  have hd := s.me.callee_depth s.curLen
  rw [State.me_jump_goTo, State.me_modMe]
  generalize s.me.callee s.curLen = y at hreadW hpreds hvecs hregs hd ⊢
  refine ⟨rfl, hd, hreadW 8 (by decide), fun r hlo hhi => ?_, fun r hr => ?_, fun q hw hpc => ?_, hpreds, hvecs, hothers, rfl⟩
  · rw [Ctx.goTo_readW, hreadW r hhi, if_neg (by omega), if_neg (by omega)]
  · rw [Ctx.goTo_readW, hreadW r (by omega), if_neg (by omega), if_pos hr]
  · rw [Ctx.goTo_read _ _ hpc, hregs q hw hpc]

/-! ### RET -/

theorem exec_ret (hready : s.ready [.w 8] none = true) (hd : s.me.depth ≠ 1) (htrap : s.me.openers.head? ≠ some .trap)
    (hres : s.me.resident (s.me.depth - 1) = true) : exec .ret s = .next ((s.jump (s.me.readW 8)).modMe Ctx.closeWindow) := by
  show execRet s = _
  have htaken : s.taken [.w 8] none = s := rfl
  rw [execRet, State.runOp_ready hready, htaken]
  simp only [hd, htrap, or_self, hres, Bool.not_true, Bool.false_eq_true, if_false]
  rfl

theorem exec_ret_refused (hready : s.ready [.w 8] none = true) (h : s.me.depth = 1 ∨ s.me.openers.head? = some .trap) :
    exec .ret s = .next (s.fault .illegal 0 0x10C) := by
  show execRet s = _
  rw [execRet, State.runOp_ready hready]
  simp only [if_pos h]
  rfl

/-- Closing a window changes windowed registers only. -/
theorem Ctx.closeWindow_read (x : Ctx) {q : Reg} (hw : ∀ k, q ≠ .w k) (hpc : q ≠ .pc) : x.closeWindow.read q = x.read q :=
  Ctx.read_congr (x := x) (y := x.closeWindow) rfl rfl rfl rfl hw hpc

theorem retClosesWindow : Sys2Proof.Claims.RetClosesWindow := by
  intro s hready
  refine ⟨fun hd htrap hres => ⟨_, exec_ret hready hd htrap hres, ?_⟩, exec_ret_refused hready⟩
  rw [State.me_modMe, State.me_jump_goTo]
  obtain ⟨hpassed, hkept⟩ := Ctx.closeWindow_readW (x := s.me.goTo (s.me.readW 8)) hd hres
  exact ⟨rfl, Ctx.closeWindow_depth hd, hpassed, fun r hlo _ => hkept r hlo, fun q hw hpc => (Ctx.closeWindow_read _ hw hpc).trans (s.me.goTo_read _ hpc),
    Ctx.readP_congr rfl, Ctx.vecsKept_congr rfl rfl rfl,
    State.othersKept_trans (s.othersKept_jump _) (s.jump_meKey _) (State.othersKept_modMe _ _), rfl⟩

end

/-! ### The pair -/

/-- A free window slot is one of the four. -/
theorem Ctx.slotsUsed_of_free {x : Ctx} (h : x.room = .free) : x.slotsUsed < 4 := by
  by_contra hs
  rw [Ctx.room, if_neg hs] at h
  split at h
  · cases h
  · split at h
    · cases h
    · split at h <;> cases h
theorem Ctx.openWindow_wins_of_free {x : Ctx} (h : x.room = .free) (op : Opener) :
    (x.openWindow op).wins = (x.wins.set x.depth (x.win x.depth)).set (x.depth + 1) ⟨.empty, false⟩ := by
  unfold Ctx.openWindow
  simp only [if_pos (Ctx.slotsUsed_of_free h)]
  rfl
theorem Ctx.openWindow_recv_of_free {x : Ctx} (h : x.room = .free) (op : Opener) : (x.openWindow op).recv = x.recv := by
  unfold Ctx.openWindow
  simp only [if_pos (Ctx.slotsUsed_of_free h)]
theorem Ctx.callee_eq (x : Ctx) (n : Nat) :
    x.callee n = (x.openWindow .call).writeWin (x.openWindow .call).depth 8 (x.pc + BitVec.ofNat 64 n) := by
  rw [Ctx.callee, Ctx.writeW, if_pos (by decide)]
theorem Ctx.callee_base (x : Ctx) (n : Nat) : (x.callee n).base = x.base := by
  rw [Ctx.callee_eq, Ctx.writeWin_base, Ctx.openWindow_base]

section
variable {x : Ctx} (h : x.room = .free) (n : Nat)
include h

theorem Ctx.callee_recv : (x.callee n).recv = x.recv := by
  rw [Ctx.callee_eq, Ctx.writeWin_recv, Ctx.openWindow_recv_of_free h]
/-- The windows CALL leaves below the callee's. -/
theorem Ctx.callee_wins_find {k : Nat} (hk : k ≤ x.depth) :
    (x.callee n).wins.find k = if k = x.depth then some (x.win x.depth) else x.wins.find k := by
  have hdepth : (x.openWindow .call).depth = x.depth + 1 := by simp [Ctx.depth]
  rw [Ctx.callee_eq, hdepth]
  show (((x.openWindow .call).wins).set (x.depth + 1) _).find k = _
  rw [Table.find_set_other _ (by omega), Ctx.openWindow_wins_of_free h, Table.find_set_other _ (by omega)]
  split
  · next hk => rw [hk, Table.find_set_self]
  · next hk => exact Table.find_set_other _ hk _
theorem Ctx.callee_win : (x.callee n).win x.depth = x.win x.depth := by
  rw [Ctx.win, Table.get, Ctx.callee_wins_find h n le_rfl, if_pos rfl]
  rfl
theorem Ctx.callee_resident : (x.callee n).resident ((x.callee n).depth - 1) = true := by
  rw [x.callee_depth, Nat.add_sub_cancel, Ctx.resident, Ctx.callee_wins_find h n le_rfl, if_pos rfl]
  exact Bool.or_true _

/-- Every windowed register of the caller reads as before the CALL. -/
theorem Ctx.closeWindow_callee_readW {r : Nat} (hr : r < 24) : (x.callee n).closeWindow.readW r = x.readW r := by
  have hd := x.callee_depth n
  have hpos : 1 ≤ x.depth := Nat.succ_le_succ (Nat.zero_le _)
  have hne : (x.callee n).depth ≠ 1 := by omega
  obtain ⟨hpassed, hkept⟩ := Ctx.closeWindow_readW hne (Ctx.callee_resident h n)
  by_cases h16 : 16 ≤ r
  · rw [show r = r - 16 + 16 by omega, hpassed _ (by omega), Ctx.callee_readW (.inl h) n (by omega), if_neg (by omega), if_pos (by omega)]
  · by_cases h8 : 8 ≤ r
    · rw [hkept r h8, hd, Nat.add_sub_cancel, Ctx.callee_win h, Ctx.readW, if_pos h8]
    · have hdepth : (x.callee n).closeWindow.depth = x.depth := by rw [Ctx.closeWindow_depth hne, hd, Nat.add_sub_cancel]
      have hfind : (x.callee n).closeWindow.wins.find (x.depth - 1) = x.wins.find (x.depth - 1) := by
        rw [Ctx.closeWindow_wins, Table.find_erase_other _ (by omega), Ctx.callee_wins_find h n (Nat.sub_le _ _), if_neg (by omega)]
      simp only [Ctx.readW, if_neg h8, Ctx.readBelow, hdepth, hfind, Ctx.closeWindow_base, Ctx.closeWindow_recv, Ctx.callee_base,
        Ctx.callee_recv h]

end

theorem Ctx.pendOf_of_pend_nil {x : Ctx} (h : x.pend = []) (r : Reg) : x.pendOf r = none := by
  unfold Ctx.pendOf
  rw [h]
  split <;> rfl

theorem callThenRet : Sys2Proof.Claims.CallThenRet := by
  intro s off hdepth hroom hpend
  have hme : ((s.modMe (fun x => x.callee s.curLen)).jump (s.me.pc + offBytes off)).me
      = (s.me.callee s.curLen).goTo (s.me.pc + offBytes off) := by
    rw [State.me_jump_goTo, State.me_modMe]
  have hpend' : (s.me.callee s.curLen).pend = [] := by simp [Ctx.callee, hpend]
  have hd := s.me.callee_depth s.curLen
  have hpos : 1 ≤ s.me.depth := Nat.succ_le_succ (Nat.zero_le _)
  have hready : State.ready ((s.modMe (fun x => x.callee s.curLen)).jump (s.me.pc + offBytes off)) [.w 8] none = true := by
    have hnone : ((s.me.callee s.curLen).goTo (s.me.pc + offBytes off)).pendOf (.w 8) = none := by
      rw [Ctx.pendOf_of_pend_nil]
      rwa [Ctx.goTo_pend]
    simp [State.ready, State.canPop, State.canPush, queueDirs, hme, hnone]
  refine ⟨_, _, exec_call hdepth (.inl hroom), exec_ret hready ?_ ?_ ?_, ?_⟩
  · rw [hme]
    show (s.me.callee s.curLen).depth ≠ 1
    omega
  · rw [hme]
    simp [Ctx.goTo, Ctx.forgetWait, Ctx.callee]
  · rw [hme]
    exact Ctx.callee_resident hroom _
  · rw [State.me_modMe, State.me_jump_goTo, hme]
    refine ⟨?_, ?_, fun r hr => ?_, ?_⟩
    · rw [Ctx.closeWindow_pc, Ctx.goTo_pc, Ctx.goTo_readW, Ctx.callee_readW (.inl hroom) _ (by decide), if_pos rfl]
    · rw [Ctx.closeWindow_depth] <;> rw [Ctx.goTo_depth, Ctx.goTo_depth] <;> omega
    · cases r with
      | w k =>
        show Ctx.readW _ k.val = s.me.readW k.val
        rw [Ctx.closeWindow_goTo_readW, Ctx.closeWindow_goTo_readW, Ctx.closeWindow_callee_readW hroom _ k.isLt]
      | pc => exact absurd rfl hr
      | _ => rw [Ctx.closeWindow_read _ (by simp) (by simp), Ctx.goTo_read _ _ (by simp), Ctx.goTo_read _ _ (by simp),
          Ctx.callee_read _ _ (by simp) (by simp)]
    · exact State.othersKept_trans (State.othersKept_trans (s.othersKept_modMe _) (s.modMe_meKey _) (State.othersKept_jump _ _))
        ((State.jump_meKey _ _).trans (s.modMe_meKey _))
        (State.othersKept_trans (State.othersKept_jump _ _) (State.jump_meKey _ _) (State.othersKept_modMe _ _))

/-- Settles O11, by what the windows read after one is opened and after one is closed. -/
theorem windowsOpenAndClose : Obligations.WindowsOpenAndClose := ⟨callOpensWindow, retClosesWindow, callThenRet⟩

end Sys2Proof.Machine
end

section
/-! PROOFS. The frame of what leaves a core (R174, R199, R234): a send changes cores, read caches, channels' fills, the
agenda, the free choices and the PCIe accesses, and nothing else. -/

namespace Sys2Proof.Machine

/-! ### The senders' frame -/

/-- What a state is besides the units a send changes. -/
def State.unsent (s : State) : State := { s with cores := .empty, clusters := .empty, chans := .empty, agenda := [], fresh := 0, pcie := [] }

/-- A state that agrees with another besides those units is it, with those units its own. -/
theorem State.eq_of_unsent {s t : State} (h : t.unsent = s.unsent) :
    t = { s with cores := t.cores, clusters := t.clusters, chans := t.chans, agenda := t.agenda, fresh := t.fresh, pcie := t.pcie } :=
  congrArg (fun x : State => { x with
    cores := t.cores, clusters := t.clusters, chans := t.chans, agenda := t.agenda, fresh := t.fresh, pcie := t.pcie }) h

section
variable (s : State)

theorem State.sched_unsent (d : Nat) (i : Instr) : (s.sched d i).unsent = s.unsent := rfl
theorem State.schedOnce_unsent (d : Nat) (i : Instr) : (s.schedOnce d i).unsent = s.unsent := by
  unfold State.schedOnce
  split <;> rfl
theorem State.schedSoon_unsent (d : Nat) (i : Instr) : (s.schedSoon d i).unsent = s.unsent := by
  unfold State.schedSoon
  split <;> rfl
theorem State.setCore_unsent (c : Nat) (x : Core) : (s.setCore c x).unsent = s.unsent := rfl
theorem State.modCore_unsent (c : Nat) (f : Core → Core) : (s.modCore c f).unsent = s.unsent := rfl
theorem State.spend_unsent (n : Nat) : (s.spend n).unsent = s.unsent := by
  unfold State.spend
  split <;> rfl
theorem State.cacheDrop_unsent (c pa : Nat) : (s.cacheDrop c pa).unsent = s.unsent := rfl
theorem State.foldl_unsent {α : Type} (f : State → α → State) (hf : ∀ s a, (f s a).unsent = s.unsent) (l : List α) :
    (l.foldl f s).unsent = s.unsent := by
  induction l generalizing s with
  | nil => rfl
  | cons a l ih => rw [List.foldl_cons, ih, hf]

theorem State.endOutside_unsent (r : HomeReq) (d : Nat) (bad : Option FCode) : (s.endOutside r d bad).unsent = s.unsent := by
  unfold State.endOutside
  dsimp only
  split
  · rfl
  · rfl
  · rfl
  · cases bad with
    | none => rfl
    | some f => exact State.foldl_unsent _ _ (fun _ _ => State.sched_unsent ..) _
theorem State.sendHome_unsent (r : HomeReq) (d : Nat) : (s.sendHome r d).unsent = s.unsent := by
  unfold State.sendHome
  split
  · rfl
  · split <;> exact s.endOutside_unsent ..
  · split <;> rfl
  · rfl
theorem State.sendWc_unsent (c : Nat) (w : WC) : (s.sendWc c w).unsent = s.unsent := by
  unfold State.sendWc
  rw [State.sendHome_unsent]
  rfl
theorem State.drainReady_unsent (c n : Nat) : (s.drainReady c n).unsent = s.unsent := by
  induction n generalizing s with
  | zero => rfl
  | succ n ih =>
    unfold State.drainReady
    dsimp only
    split
    · rw [ih, State.sendWc_unsent, State.spend_unsent]
    · rfl
theorem State.pump_unsent (c : Nat) : (s.pump c).unsent = s.unsent := by
  unfold State.pump
  dsimp only
  split
  · rw [State.schedSoon_unsent, State.drainReady_unsent]
  · exact s.drainReady_unsent c 8
theorem State.closeWc_unsent (c : Nat) (f : WC → Bool) : (s.closeWc c f).unsent = s.unsent := State.pump_unsent _ c
theorem State.inject_unsent (c : Nat) (b : InjBody) (after : List Nat) : (s.inject c b after).unsent = s.unsent := State.pump_unsent _ c
theorem State.newOut_unsent (c n tok : Nat) (k : OutKind) : (s.newOut c n tok k).unsent = s.unsent := rfl

end

/-- The acting context is no unit a send changes. -/
theorem State.me_of_unsent {s t : State} (h : t.unsent = s.unsent) : t.me = s.me := by
  have hcore : t.curCore = s.curCore := (congrArg State.curCore h :)
  have hctx : t.curCtx = s.curCtx := (congrArg State.curCtx h :)
  have hctxs : t.ctxs = s.ctxs := (congrArg State.ctxs h :)
  unfold State.me State.ctx
  rw [hcore, hctx, hctxs]
theorem State.ctx_of_unsent {s t : State} (h : t.unsent = s.unsent) (c n : Nat) : t.ctx c n = s.ctx c n :=
  (congrArg (fun x : State => x.ctx c n) h :)
theorem State.othersKept_of_unsent {s t : State} (h : t.unsent = s.unsent) : s.othersKept t := by
  have hctxs : t.ctxs = s.ctxs := (congrArg State.ctxs h :)
  intro k _
  rw [hctxs]

end Sys2Proof.Machine
end

section
/-! PROOFS. Contexts: their identity, their end, their start and their return to idle (O12). -/

namespace Sys2Proof.Machine

/-! ### The agenda -/

theorem mem_insertEv_self (n : Nat) (i : Instr) (l : List (Nat × Instr)) : (n, i) ∈ insertEv n i l := by
  induction l with
  | nil => exact List.mem_singleton.2 rfl
  | cons e es ih =>
    rw [insertEv]
    split
    · exact List.mem_cons_self
    · exact List.mem_cons_of_mem _ ih
theorem mem_insertEv_of_mem {n : Nat} {i : Instr} {l : List (Nat × Instr)} {e : Nat × Instr} (h : e ∈ l) : e ∈ insertEv n i l := by
  induction l with
  | nil => cases h
  | cons a es ih =>
    rw [insertEv]
    split
    · exact List.mem_cons_of_mem _ h
    · rcases List.mem_cons.1 h with rfl | h
      · exact List.mem_cons_self
      · exact List.mem_cons_of_mem _ (ih h)
theorem State.mem_sched (s : State) (d : Nat) (i : Instr) : (s.now + d, i) ∈ (s.sched d i).agenda := mem_insertEv_self ..

/-! ### CTXID and LEVID -/

section
variable {s : State} {dst : Reg}

theorem exec_ctxid (h : s.ready [] (some dst) = true) (hcore : s.curCore < Config.cores) :
    exec (.ctxid dst) s = .next (s.result [] dst
      (BitVec.ofNat 64 (coreDie s.curCore * 2 ^ 14 + coreY s.curCore * 2 ^ 9 + coreX s.curCore * 2 ^ 4 + s.curCtx))) := by
  have hnot : isSteward s.curCore = false := decide_eq_false (Nat.not_le.2 hcore)
  show execCtxid dst s = _
  rw [execCtxid, State.runPut_ready h, ctxidWord, hnot]
  rfl

theorem exec_levid {level : BitVec 3} {t : Nat} {u : Team} (h : s.ready [] (some dst) = true) (hteam : s.teamOf s.curCore = some (t, u)) :
    if u.lr.lev.length ≤ level.toNat then exec (.levid dst level) s = .next (s.fault .illegal 0 0x10C)
    else exec (.levid dst level) s = .next (s.result [] dst (BitVec.ofNat 64 (u.levWord s.curCore s.curCtx level.toNat))) := by
  have hexec : exec (.levid dst level) s = execLevid dst level s := rfl
  rw [hexec, execLevid, State.runOp_ready h]
  simp only [hteam]
  split
  · rfl
  · simp only [Eff.run, State.taken_curCore, State.taken_curCtx]
    rfl

/-! ### EXIT -/

/-- A context that has ended: its windows are gone. -/
def Ctx.ended (x : Ctx) : Ctx := { x with st := .exited, wins := .empty, base := .empty, recv := .empty, openers := [], trapDepth := 0 }

theorem Ctx.ended_read (x : Ctx) {r : Reg} (hr : ∀ k, r ≠ .w k) : x.ended.read r = x.read r := by
  cases r with
  | w k => exact absurd rfl (hr k)
  | _ => rfl
theorem Ctx.ended_readW (x : Ctx) (k : Nat) : x.ended.readW k = 0 := by
  rw [Ctx.readW]
  split <;> rfl

theorem exec_exit (hlog : s.me.flogn = 0) (hheld : s.me.held = []) (hpend : s.me.pend = []) :
    exec .exit s = .next ((s.closeWc s.curCore (fun _ => true)).modMe Ctx.ended) := by
  show execExit s = _
  rw [execExit, State.runOp_ready s.ready_nil, State.taken_nil]
  simp only [State.asyncFirst, hlog, hheld, hpend, ne_eq, not_true_eq_false, if_false, List.findSome?_nil]
  rfl

end

/-! ### CTXSTART and CTXREAP -/

/-- The context CTXSTART makes of context `k` (R301): what it keeps of the idle one are its demands, its trigger and its last copy. -/
def State.started (s : State) (k : Nat) (off : BitVec 32) : Ctx :=
  let old := s.ctx s.curCore k
  { Ctx.start (s.me.pc + offBytes (.long off)) (ownSlot k (s.now + 8)) with
    demands := old.demands, trig := s.me.trig || old.trig, noticed := s.me.trig || old.noticed, lastCopy := old.lastCopy, src := s.me.pc }
/-- The state with context `k` started, before its demands are taken. -/
def State.withStarted (s : State) (k : Nat) (off : BitVec 32) : State := s.setCtx s.curCore k (s.started k off)
/-- The state in which demands made before the start are to be taken (R64, R154). -/
def State.withDemands (s : State) (k : Nat) (off : BitVec 32) : State :=
  if (s.ctx s.curCore k).demands.cells.isEmpty then s.withStarted k off else (s.withStarted k off).reweigh s.curCore k

section
variable {s : State} {n : BitVec 4} {off : BitVec 32}

theorem exec_ctxstart (hme : s.curCtx = 0) (hn : n ≠ 0) (hidle : (s.ctx s.curCore n.toNat).st = .idle)
    (hout : (s.core s.curCore).ctxOut n.toNat = false) :
    exec (.ctxstart n off) s = .next (s.withDemands n.toNat off).advance := by
  have hk : n.toNat ≠ 0 := fun h => hn (BitVec.eq_of_toNat_eq h)
  show execCtxstart n off s = _
  rw [execCtxstart, State.runOp_ready s.ready_nil, State.taken_nil]
  simp only [hme, hk, hidle, hout, ne_eq, not_true_eq_false, or_self, Bool.false_eq_true, if_false]
  rfl
theorem exec_ctxreap (hme : s.curCtx = 0) (hn : n ≠ 0) (hst : (s.ctx s.curCore n.toNat).st ≠ .running) :
    exec (.ctxreap n) s = .next (s.modCtx s.curCore n.toNat (fun x => { x with st := .idle })).advance := by
  have hk : n.toNat ≠ 0 := fun h => hn (BitVec.eq_of_toNat_eq h)
  show execCtxreap n s = _
  rw [execCtxreap, State.runOp_ready s.ready_nil, State.taken_nil]
  simp only [hme, hk, hst, ne_eq, not_true_eq_false, or_self, if_false]
  rfl
/-- Only context 0 starts and reaps contexts, and never itself. -/
theorem exec_ctx_refused (h : s.curCtx ≠ 0 ∨ n = 0) : exec (.ctxstart n off) s = .next (s.fault .illegal 0 0x10C)
    ∧ exec (.ctxreap n) s = .next (s.fault .illegal 0 0x10C) := by
  have hk : s.curCtx ≠ 0 ∨ n.toNat = 0 := h.imp_right (congrArg BitVec.toNat)
  refine ⟨?_, ?_⟩
  · show execCtxstart n off s = _
    rw [execCtxstart, State.runOp_ready s.ready_nil]
    simp only [if_pos (show s.curCtx ≠ 0 ∨ n.toNat = 0 ∨ (s.ctx s.curCore n.toNat).st ≠ .idle from or_assoc.1 (.inl hk))]
    rfl
  · show execCtxreap n s = _
    rw [execCtxreap, State.runOp_ready s.ready_nil]
    simp only [if_pos hk]
    rfl

end

/-! ### Reading one context after another is written -/

theorem State.ctx_setCtx (s : State) (c m k : Nat) (x : Ctx) : (s.setCtx c k x).ctx c m = if m = k then x else s.ctx c m := by
  unfold State.ctx State.setCtx
  rw [Table.get_set]
  by_cases h : m = k
  · rw [if_pos h, if_pos (by rw [h])]
  · rw [if_neg h, if_neg (by omega)]
theorem State.ctx_modCtx (s : State) (c m k : Nat) (f : Ctx → Ctx) :
    (s.modCtx c k f).ctx c m = if m = k then f (s.ctx c m) else s.ctx c m := by
  rw [State.modCtx, State.ctx_setCtx]
  split
  · next h => rw [h]
  · rfl
theorem State.advance_ctx (s : State) {m : Nat} (hm : m ≠ s.curCtx) : s.advance.ctx s.curCore m = s.ctx s.curCore m := by
  rw [State.advance, State.modMe, State.ctx_modCtx, if_neg hm]

/-- Taking a context's demands writes the weight of later rotations, in the rotation that begins next (R64). -/
theorem State.reweigh_ctx (s : State) (c m n : Nat) : (s.reweigh c n).ctx c m = if m = n then
    (s.ctx c m).writeWeight ((s.now / 16 + 1) * 16) (weightOf ((s.core c).free.contains n) (s.ctx c n).demands) else s.ctx c m :=
  s.ctx_modCtx c m n (fun x => x.writeWeight ((s.now / 16 + 1) * 16) (weightOf ((s.core c).free.contains n) (s.ctx c n).demands))
theorem State.reweigh_ctx_self (s : State) (c n : Nat) : ∃ ws, (s.reweigh c n).ctx c n = { s.ctx c n with nextWeights := ws } :=
  ⟨_, (s.reweigh_ctx c n n).trans (if_pos rfl)⟩
theorem State.reweigh_ctx_other (s : State) (c : Nat) {m n : Nat} (hm : m ≠ n) : (s.reweigh c n).ctx c m = s.ctx c m :=
  (s.reweigh_ctx c m n).trans (if_neg hm)
theorem State.mem_reweigh (s : State) (c n : Nat) : ((s.now / 16 + 1) * 16, .weightTakesEffect c n) ∈ (s.reweigh c n).agenda := by
  have hdue : s.now + ((s.now / 16 + 1) * 16 - s.now) = (s.now / 16 + 1) * 16 := by omega
  rw [← hdue]
  exact mem_insertEv_self ..

/-- The slot a context is started in (R11). -/
theorem ownSlot_spec {k : Nat} (hk : k < 16) (t : Nat) : ownSlot k t % 16 = k ∧ t ≤ ownSlot k t ∧ ownSlot k t < t + 16 := by
  unfold ownSlot
  omega

/-- The registers of a started context (R69). -/
theorem State.started_reads (s : State) (k : Nat) (off : BitVec 32) :
    (∀ r, r ≠ .pc → (s.started k off).read r = 0) ∧ (∀ j, (s.started k off).readV j = 0) ∧ (∀ j, (s.started k off).readP j = (j == 0))
      ∧ (∀ j, (s.started k off).readM j = if j = 0 then BitVec.allOnes 32 else 0) := by
  refine ⟨fun r hr => ?_, fun _ => rfl, fun j => ?_, fun j => ?_⟩
  · cases r with
    | pc => exact absurd rfl hr
    | w j =>
      show Ctx.readW _ _ = 0
      rw [Ctx.readW]
      split <;> rfl
    | _ => rfl
  · by_cases h : j = 0
    · rw [h]
      rfl
    · rw [beq_false_of_ne h]
      exact if_neg (fun e => h (Fin.ext e))
  · by_cases h : j = 0
    · rw [h]
      rfl
    · rw [if_neg h]
      exact if_neg (fun e => h (Fin.ext e))

section
variable (s : State) (k : Nat) (off : BitVec 32)

theorem State.withDemands_frame : s.withDemands k off = { s with ctxs := (s.withDemands k off).ctxs, agenda := (s.withDemands k off).agenda } := by
  unfold State.withDemands
  split <;> rfl
/-- Taking demands writes weights of later rotations, and nothing else of the started context. -/
theorem State.withDemands_self : ∃ ws, (s.withDemands k off).ctx s.curCore k = { s.started k off with nextWeights := ws } := by
  unfold State.withDemands
  split
  · exact ⟨_, (s.ctx_setCtx ..).trans (if_pos rfl)⟩
  · have h : (s.withStarted k off).ctx s.curCore k = s.started k off := (s.ctx_setCtx ..).trans (if_pos rfl)
    obtain ⟨ws, hws⟩ := (s.withStarted k off).reweigh_ctx_self s.curCore k
    exact ⟨ws, by rw [hws, h]⟩
theorem State.withDemands_other {m : Nat} (hm : m ≠ k) : (s.withDemands k off).ctx s.curCore m = s.ctx s.curCore m := by
  unfold State.withDemands
  split
  · exact (s.ctx_setCtx ..).trans (if_neg hm)
  · exact (State.reweigh_ctx_other _ _ hm).trans ((s.ctx_setCtx ..).trans (if_neg hm))
theorem State.withDemands_agenda : ((s.ctx s.curCore k).demands.cells = [] → (s.withDemands k off).agenda = s.agenda)
    ∧ ((s.ctx s.curCore k).demands.cells ≠ [] →
      ((s.now / 16 + 1) * 16, .weightTakesEffect s.curCore k) ∈ (s.withDemands k off).agenda) := by
  unfold State.withDemands
  refine ⟨fun h => ?_, fun h => ?_⟩
  · rw [h]
    rfl
  · rw [if_neg (by simpa using h)]
    exact (s.withStarted k off).mem_reweigh s.curCore k

end

/-- Settles O12: each of the five is its equation, and the contexts of a core are told apart by their keys. -/
theorem contextOps : Obligations.ContextOps := by
  intro s dst level n off
  refine ⟨fun h hcore _ => exec_ctxid h hcore, fun t u h hteam => exec_levid h hteam, fun hlog hheld hpend =>
    ⟨_, exec_exit hlog hheld hpend, ?_⟩, fun hme hn hidle hout => ⟨_, exec_ctxstart hme hn hidle hout, ?_⟩,
    fun hme hn hst => ⟨_, exec_ctxreap hme hn hst, ?_⟩, exec_ctx_refused⟩
  · have hunsent := s.closeWc_unsent s.curCore (fun _ => true)
    have hkey : (s.closeWc s.curCore (fun _ => true)).meKey = s.meKey := (congrArg State.meKey hunsent :)
    have hmem : (s.closeWc s.curCore (fun _ => true)).mem = s.mem := (congrArg State.mem hunsent :)
    rw [State.me_modMe, State.me_of_unsent hunsent]
    exact ⟨rfl, rfl, hmem, State.othersKept_trans (State.othersKept_of_unsent hunsent) hkey (State.othersKept_modMe _ _),
      fun r hr => s.me.ended_read hr, fun k => s.me.ended_readW k⟩
  · have hk : n.toNat ≠ s.curCtx := fun h => hn (BitVec.eq_of_toNat_eq (h.trans hme))
    have hframe := s.withDemands_frame n.toNat off
    have hcore : (s.withDemands n.toNat off).curCore = s.curCore := by rw [hframe]
    have hctx : (s.withDemands n.toNat off).curCtx = s.curCtx := by rw [hframe]
    have hmekept : (s.withDemands n.toNat off).me = s.me := by
      rw [State.me, hcore, hctx]
      exact s.withDemands_other n.toNat off hk.symm
    have hlen : (s.withDemands n.toNat off).curLen = s.curLen := by rw [hframe]
    have hother (m : Nat) (hm : m ≠ s.curCtx) : (s.withDemands n.toNat off).advance.ctx s.curCore m
        = (s.withDemands n.toNat off).ctx s.curCore m := by
      have := (s.withDemands n.toNat off).advance_ctx (m := m) (by rwa [hctx])
      rwa [hcore] at this
    obtain ⟨ws, hself⟩ := s.withDemands_self n.toNat off
    obtain ⟨hreads, hv, hp, hm⟩ := s.started_reads n.toNat off
    obtain ⟨hslot, hge, hlt⟩ := ownSlot_spec n.isLt (s.now + 8)
    rw [hother _ hk, hself]
    refine ⟨?_, ⟨rfl, rfl, rfl, rfl, rfl, rfl, rfl, fun r hr => ?_, hv, hp, hm, hslot, hge, ?_⟩, ⟨rfl, s.withDemands_agenda n.toNat off⟩,
      fun m hne hme' => ?_, fun r hr => ?_, ?_⟩
    · rw [State.advance_pc, hmekept, hlen]
    · rw [← hreads r hr]
      cases r <;> rfl
    · show ownSlot _ _ < _
      omega
    · rw [hother m hme', s.withDemands_other _ _ hne]
    · rw [State.advance_read _ (by simpa using hr), hmekept]
    · rw [hframe]
      rfl
  · have hk : n.toNat ≠ s.curCtx := fun h => hn (BitVec.eq_of_toNat_eq (h.trans hme))
    have hself : (s.modCtx s.curCore n.toNat (fun x => { x with st := .idle })).advance.ctx s.curCore n.toNat
        = { s.ctx s.curCore n.toNat with st := .idle } :=
      ((s.modCtx s.curCore n.toNat _).advance_ctx hk).trans (s.ctx_modCtx_self ..)
    have hmekept : (s.modCtx s.curCore n.toNat (fun x => { x with st := .idle })).me = s.me :=
      (s.ctx_modCtx ..).trans (if_neg hk.symm)
    rw [hself]
    refine ⟨rfl, ?_, fun r hr => ?_, rfl⟩
    · rw [State.advance_pc, hmekept]
      rfl
    · rw [State.advance_read _ (by simpa using hr), hmekept]

end Sys2Proof.Machine
end

section
/-! PROOFS. Taking an exception (R239; O13). -/

namespace Sys2Proof.Machine

section
variable (x : Ctx) (h : Word) (code : FCode) (w1 w2 w3 : Word)

/-- The context in its trap window, before the window's registers are written: the trap is counted, and the marks of w16 to w19 move. -/
def Ctx.trapWindow : Ctx :=
  let y := { x.openWindow .trap with trapDepth := (x.openWindow .trap).trapDepth + 1 }
  y.movePend (fun k r => if k = x.depth ∧ 16 ≤ r ∧ r < 20 then some (.win (x.depth + 1) (r - 4)) else none)
/-- The registers the entry writes, in its order. -/
def Ctx.trapWrites : List (Nat × Word) :=
  (List.range 4).map (fun r => (12 + r, x.readW (16 + r)))
    ++ [(11, x.predWord), (0, BitVec.ofNat 64 (fcNum code)), (1, w1), (2, w2), (3, w3)]

theorem Ctx.enterTrap_eq : x.enterTrap h code w1 w2 w3 =
    { ((x.trapWrites code w1 w2 w3).foldl (fun y e => y.writeW e.1 e.2) x.trapWindow).forgetWait with
      pc := h, src := w1, park := none } := by
  simp only [Ctx.enterTrap, Ctx.trapWindow, Ctx.forgetWait, Ctx.trapWrites, List.range, List.range.loop, List.map_cons, List.map_nil, List.cons_append, List.nil_append,
    List.foldl_cons, List.foldl_nil, List.getD_cons_zero, List.getD_cons_succ]

/-- What no write of a windowed register touches is as the new window left it. -/
theorem Ctx.trapWrites_keep {α : Type} {field : Ctx → α} (keeps : ∀ x r v, field (Ctx.writeW x r v) = field x) (l : List (Nat × Word)) (y : Ctx) :
    field (l.foldl (fun y e => y.writeW e.1 e.2) y) = field y := by
  induction l generalizing y with
  | nil => rfl
  | cons e l ih => rw [List.foldl_cons, ih, keeps]

theorem Ctx.trapWrites_readW (y : Ctx) {r : Nat} (hr : r < 24) :
    ((x.trapWrites code w1 w2 w3).foldl (fun y e => y.writeW e.1 e.2) y).readW r =
      if r = 3 then w3 else if r = 2 then w2 else if r = 1 then w1 else if r = 0 then BitVec.ofNat 64 (fcNum code)
      else if r = 11 then x.predWord else if 12 ≤ r ∧ r < 16 then x.readW (r + 4) else y.readW r := by
  have hsplit : r = 12 ∨ r = 13 ∨ r = 14 ∨ r = 15 ∨ ¬(12 ≤ r ∧ r < 16) := by omega
  simp only [Ctx.trapWrites, List.range, List.range.loop, List.map_cons, List.map_nil, List.cons_append, List.nil_append, List.foldl_cons,
    List.foldl_nil]
  repeat rw [Ctx.readW_writeW _ _ _ _ (by decide) hr]
  rcases hsplit with rfl | rfl | rfl | rfl | hout
  iterate 4 rfl
  simp only [if_neg hout, if_neg (show r ≠ 15 by omega), if_neg (show r ≠ 14 by omega), if_neg (show r ≠ 13 by omega),
    if_neg (show r ≠ 12 by omega), Nat.add_zero]

theorem Ctx.trapWindow_openers : x.trapWindow.openers = .trap :: x.openers := Ctx.openWindow_openers x .trap
theorem Ctx.trapWindow_trapDepth : x.trapWindow.trapDepth = x.trapDepth + 1 := congrArg (· + 1) (Ctx.openWindow_trapDepth x .trap)
/-- The marks of w16 to w19 stand at w12 to w15 of the trap window. -/
theorem Ctx.mem_trapWindow_pend {p : Pend} (hp : p ∈ x.pend) {r : Nat} (hlo : 16 ≤ r) (hhi : r < 20) (hloc : p.loc = .win x.depth r) :
    { p with loc := .win (x.depth + 1) (r - 4) } ∈ x.trapWindow.pend :=
  Ctx.mem_movePend (x := { x.openWindow .trap with trapDepth := (x.openWindow .trap).trapDepth + 1 })
    (by rwa [← Ctx.openWindow_pend x .trap] at hp) hloc (by rw [if_pos ⟨rfl, hlo, hhi⟩, Option.getD_some])

/-- `y` is the context `x` at the handler `h` of its exception (R239). -/
structure Ctx.Entered (y : Ctx) : Prop where
  pc : y.pc = h
  src : y.src = w1
  park : y.park = none
  weight : y.weight = x.weight
  openers : y.openers = .trap :: x.openers
  trapDepth : y.trapDepth = x.trapDepth + 1
  readW : ∀ r, r < 16 → (r < 4 ∨ 11 ≤ r) → y.readW r = if r = 3 then w3 else if r = 2 then w2 else if r = 1 then w1
    else if r = 0 then BitVec.ofNat 64 (fcNum code) else if r = 11 then x.predWord else x.readW (r + 4)
  marks : ∀ p ∈ x.pend, ∀ r, 16 ≤ r → r < 20 → p.loc = .win x.depth r → { p with loc := .win (x.depth + 1) (r - 4) } ∈ y.pend
  regs : ∀ q, (∀ k, q ≠ .w k) → q ≠ .pc → y.read q = x.read q
  preds : x.predsKept y
  vecs : x.vecsKept y

theorem Ctx.entered_enterTrap : x.Entered h code w1 w2 w3 (x.enterTrap h code w1 w2 w3) := by
  rw [Ctx.enterTrap_eq]
  have hreadW (r : Nat) (hr : r < 24) := x.trapWrites_readW code w1 w2 w3 x.trapWindow hr
  have keeps {α : Type} {field : Ctx → α} (hf : ∀ x r v, field (Ctx.writeW x r v) = field x) :=
    Ctx.trapWrites_keep hf (x.trapWrites code w1 w2 w3) x.trapWindow
  have hweight := (keeps Ctx.writeW_weight).trans (Ctx.openWindow_weight x .trap)
  have hopeners := (keeps Ctx.writeW_openers).trans x.trapWindow_openers
  have htrap := (keeps Ctx.writeW_trapDepth).trans x.trapWindow_trapDepth
  have hpend := keeps Ctx.writeW_pend
  have hg := (keeps Ctx.writeW_g).trans (Ctx.openWindow_g x .trap)
  have ho := (keeps Ctx.writeW_o).trans (Ctx.openWindow_o x .trap)
  have hl := (keeps Ctx.writeW_l).trans (Ctx.openWindow_l x .trap)
  have hi := (keeps Ctx.writeW_i).trans (Ctx.openWindow_i x .trap)
  have hp := (keeps Ctx.writeW_p).trans (Ctx.openWindow_p x .trap)
  have hv := (keeps Ctx.writeW_v).trans (Ctx.openWindow_v x .trap)
  have hm := (keeps Ctx.writeW_m).trans (Ctx.openWindow_m x .trap)
  have hflags := (keeps Ctx.writeW_flags).trans (Ctx.openWindow_flags x .trap)
  generalize (x.trapWrites code w1 w2 w3).foldl (fun y e => y.writeW e.1 e.2) x.trapWindow = y at *
  refine ⟨rfl, rfl, rfl, hweight, hopeners, htrap, fun r hr hset => ?_, fun p hp r hlo hhi hloc => ?_,
    fun q hw hpc => ?_, fun k => Ctx.readP_congr hp k, Ctx.vecsKept_congr hv hm hflags⟩
  · refine (hreadW r (by omega)).trans ?_
    repeat' split
    all_goals first | rfl | omega
  · exact hpend ▸ x.mem_trapWindow_pend hp hlo hhi hloc
  · cases q with
    | w k => exact absurd rfl (hw k)
    | pc => exact absurd rfl hpc
    | _ => exact Ctx.read_congr (x := x) (y := y) hg ho hl hi hw hpc

end

/-- Bit `k` of the word the predicates are saved in (R239). -/
theorem Ctx.predWord_getLsbD (x : Ctx) {k : Nat} (hk : k < 64) :
    x.predWord.getLsbD k = (decide (1 ≤ k ∧ k < 8) && Table.get false x.p k) := by
  rw [Ctx.predWord, BitVec.getLsbD_ofNat, testBit_ofBits]
  by_cases h0 : k = 0
  · simp [h0]
  · by_cases h8 : k < 8
    · simp [h0, h8, hk, Nat.one_le_iff_ne_zero]
    · simp [h8]

theorem State.trap_enters {s : State} {c n : Nat} {code : FCode} {w1 w2 w3 h : Word} (hsoft : code ≠ .soft) (hgrace : code ≠ .holdGrace)
    (htrap : (s.ctx c n).trapDepth < 2) (hdepth : (s.ctx c n).depth + 1 ≤ 4 + s.wss c / 128) (hh : s.handler c = some h)
    (hroom : (s.ctx c n).room = .free ∨ (s.ctx c n).room = .reuse) :
    s.trap c n code w1 w2 w3 = State.setCtx { s with noEffect := true } c n
      { (s.ctx c n).enterTrap h code w1 w2 w3 with readyAt := s.now + 1 } := by
  have hle : ¬ State.maxDepth { s with noEffect := true } c < (s.ctx c n).depth + 1 := Nat.not_lt.2 hdepth
  have hh' : State.handler { s with noEffect := true } c = some h := hh
  rw [State.trap]
  simp only [hsoft, hgrace, Nat.not_le.2 htrap, or_self, if_false, hle, hh']
  rcases hroom with hr | hr <;> rw [hr]

/-- Settles O13: the entry writes its frame in a new window and forgets what the bundle waited for. -/
theorem trapEntry : Obligations.TrapEntry := by
  intro s c n code w1 w2 w3 h hsoft hgrace htrap hdepth hh hroom
  have hentered := (s.ctx c n).entered_enterTrap h code w1 w2 w3
  rw [State.trap_enters hsoft hgrace htrap hdepth hh hroom]
  have hself := State.ctx_setCtx { s with noEffect := true } c n n
    { (s.ctx c n).enterTrap h code w1 w2 w3 with readyAt := s.now + 1 }
  rw [if_pos rfl] at hself
  rw [hself]
  generalize (s.ctx c n).enterTrap h code w1 w2 w3 = y at *
  refine ⟨hentered.pc, hentered.src, congrArg (·.length + 1) hentered.openers, hentered.trapDepth, hentered.openers,
    hentered.readW 0 (by decide) (by decide), hentered.readW 1 (by decide) (by decide), hentered.readW 2 (by decide) (by decide),
    hentered.readW 3 (by decide) (by decide), fun k hk => ?_, fun r hr => ?_, hentered.marks, hentered.weight, rfl,
    fun q hw hpc => ?_, hentered.preds, hentered.vecs, hentered.park, fun k hk => ?_, rfl⟩
  · exact (congrArg (BitVec.getLsbD · k) (hentered.readW 11 (by decide) (by decide))).trans ((s.ctx c n).predWord_getLsbD hk)
  · refine (hentered.readW (12 + r) (by omega) (by omega)).trans ?_
    simp [show 12 + r ≠ 3 by omega, show 12 + r ≠ 2 by omega, show 12 + r ≠ 1 by omega, show 12 + r ≠ 11 by omega,
      show 12 + r + 4 = 16 + r by omega]
  · refine Eq.trans ?_ (hentered.regs q hw hpc)
    cases q <;> rfl
  · exact Table.get_set_other _ _ hk _

end Sys2Proof.Machine
end

section
/-! PROOFS. Accesses of the scratchpad (O15): what a span that fits is, the bytes of a load and of a store, and the frame of an operation
that only goes on. -/

namespace Sys2Proof.Machine

/-! ### An operation that only goes on -/

/-- A state that agrees with `s` on the acting context and the others only goes on. -/
theorem State.onlyPc_advance {s t : State} (hme : t.me = s.me) (hothers : s.othersKept t) (hkey : t.meKey = s.meKey)
    (hlen : t.curLen = s.curLen) : s.onlyPc t.advance := by
  refine ⟨fun r hr => ?_, fun k => ?_, ?_, ?_, State.othersKept_trans hothers hkey t.othersKept_advance, ?_⟩
  · rw [State.advance_read _ (by simpa using hr), hme]
  · rw [State.advance_readP, hme]
  · rw [State.me_advance, hme]
    exact Ctx.vecsKept_congr rfl rfl rfl
  · rw [State.me_advance, hme]
    exact ⟨rfl, rfl, rfl, rfl, rfl, rfl⟩
  · rw [State.advance_pc, hme, hlen]
/-- The same where contexts, the acting place and the bundle's length are all as they were. -/
theorem State.onlyPc_advance_of_ctxs {s t : State} (hctxs : t.ctxs = s.ctxs) (hcore : t.curCore = s.curCore) (hctx : t.curCtx = s.curCtx)
    (hlen : t.curLen = s.curLen) : s.onlyPc t.advance := by
  have hme : t.me = s.me := by
    unfold State.me State.ctx
    rw [hctxs, hcore, hctx]
  have hkey : t.meKey = s.meKey := by
    unfold State.meKey
    rw [hcore, hctx]
  exact State.onlyPc_advance hme (fun k _ => by rw [hctxs]) hkey hlen

/-! ### Spans of the scratchpad -/

/-- What it is to fit (R160, R279). -/
theorem State.localFits_iff {s : State} {a n al : Nat} : s.localFits a n al = true ↔
    isSteward s.curCore = false ∧ a % al = 0 ∧ a + n ≤ Config.spadSize ∧ s.touchesStacks s.curCore a n = false := by
  simp [State.localFits, and_assoc]
theorem State.localSpan_of_fits {s : State} {a n al : Nat} (h : s.localFits a n al = true) : s.localSpan a n al = none := by
  obtain ⟨hst, hal, hle, htouch⟩ := State.localFits_iff.1 h
  simp [State.localSpan, hal, hst, Nat.not_lt.2 hle, htouch]
theorem State.lt_of_localFits {s : State} {a n al : Nat} (h : s.localFits a n al = true) (hn : 0 < n) : a < Config.spadSize := by
  obtain ⟨-, -, hle, -⟩ := State.localFits_iff.1 h
  omega
/-- A scratchpad address is no other range's. -/
theorem not_isAperture_of_lt {a : Nat} (h : a < Config.spadSize) : isAperture a = false := by
  have : a < 0x20000 := h
  simp [isAperture]
  omega
theorem not_isGlobal_of_lt {a : Nat} (h : a < Config.spadSize) : isGlobal a = false := by
  have : a < 0x20000 := h
  have hbelow : ¬ Config.globalBase ≤ a := Nat.not_le.2 (this.trans (by decide))
  simp [isGlobal, hbelow]

/-! ### Bytes -/

theorem getElem_memBytes (m : List Host.Cell) (n a k : Nat) (hk : k < (memBytes m n a).length) : (memBytes m n a)[k] = memRead m (a + k) := by
  induction n generalizing a k with
  | zero => simp [memBytes] at hk
  | succ n ih =>
    cases k with
    | zero => rfl
    | succ k =>
      show (memBytes m n (a + 1))[k]'_ = _
      rw [ih, Nat.add_right_comm, Nat.add_assoc]
theorem getElem_leBytes (n x k : Nat) (hk : k < (leBytes n x).length) : (leBytes n x)[k] = BitVec.ofNat 8 (x / 256 ^ k) := by
  induction n generalizing x k with
  | zero => simp [leBytes] at hk
  | succ n ih =>
    cases k with
    | zero => simp [leBytes]
    | succ k =>
      show (leBytes n (x / 256))[k]'_ = _
      rw [ih, Nat.div_div_eq_div_mul, ← Nat.pow_succ']
theorem testBit_leNat (bs : List Byte) (j : Nat) : (leNat bs).testBit j = (bs.getD (j / 8) 0).getLsbD (j % 8) := by
  induction bs generalizing j with
  | nil => simp [leNat]
  | cons b bs ih =>
    rw [leNat, Nat.add_comm, show 256 = 2 ^ 8 by decide, Nat.testBit_two_pow_mul_add _ b.isLt]
    split
    · next h => rw [Nat.div_eq_of_lt h, Nat.mod_eq_of_lt h, BitVec.testBit_toNat, List.getD_cons_zero]
    · next h => rw [ih, show j / 8 = (j - 8) / 8 + 1 by omega, List.getD_cons_succ, show j % 8 = (j - 8) % 8 by omega]
/-- Bit `j` of a little-endian value in memory. -/
theorem testBit_memLe (m : List Host.Cell) (n a j : Nat) :
    (memLe m n a).testBit j = (decide (j < 8 * n) && (memRead m (a + j / 8)).getLsbD (j % 8)) := by
  rw [memLe, testBit_leNat]
  by_cases h : j < 8 * n
  · have hk : j / 8 < (memBytes m n a).length := by
      rw [length_memBytes]
      omega
    rw [List.getD_eq_getElem _ _ hk, getElem_memBytes, decide_eq_true h, Bool.true_and]
  · have hk : (memBytes m n a).length ≤ j / 8 := by
      rw [length_memBytes]
      omega
    rw [List.getD_eq_default _ _ hk, decide_eq_false h]
    simp
/-- The bytes of a value, once written, are what memory holds (R159). -/
theorem memHolds_memPut_leBytes {m : List Host.Cell} (h : Memory.wf m = true) (cell n v : Nat) :
    memHolds (memPut m cell (leBytes n v)) cell n v := by
  intro k hk
  have hlen : k < (leBytes n v).length := by rwa [length_leBytes]
  rw [memRead_memPut_self h _ _ _ hlen, getElem_leBytes]

/-- A loaded value: its bytes, then its sign or zeros (R316). -/
theorem getLsbD_loadWord (ty : BitVec 3) (m : List Host.Cell) (a : Nat) {j : Nat} (hj : j < 64) :
    (loadWord (memBytesOf ty) (memSigned ty) (memLe m (memBytesOf ty) a)).getLsbD j =
      if j < 8 * 2 ^ (ty.toNat / 2) then (memRead m (a + j / 8)).getLsbD (j % 8)
      else ty.toNat % 2 == 0 && (memRead m (a + 2 ^ (ty.toNat / 2) - 1)).getLsbD 7 := by
  have hpos : 0 < 2 ^ (ty.toNat / 2) := Nat.two_pow_pos _
  rw [memBytesOf, memSigned, loadWord]
  generalize hn : 2 ^ (ty.toNat / 2) = n at hpos ⊢
  by_cases hs : (ty.toNat % 2 == 0) = true
  · rw [if_pos hs, hs, sx64_eq_signExtend (by omega), BitVec.getLsbD_signExtend, decide_eq_true hj, Bool.true_and, Bool.true_and]
    split
    · next h => rw [BitVec.getLsbD_ofNat, testBit_memLe, decide_eq_true h, Bool.true_and, Bool.true_and]
    · rw [BitVec.msb_eq_getLsbD_last, BitVec.getLsbD_ofNat, testBit_memLe, decide_eq_true (by omega), Bool.true_and, Bool.true_and,
        show a + (8 * n - 1) / 8 = a + n - 1 by omega, show (8 * n - 1) % 8 = 7 by omega]
  · rw [if_neg hs, BitVec.getLsbD_ofNat, testBit_memLe, decide_eq_true hj, Bool.true_and]
    split
    · next h => rw [decide_eq_true h, Bool.true_and]
    · next h => rw [decide_eq_false h, Bool.false_and, Bool.eq_false_iff.2 hs, Bool.false_and]
/-- Byte `j` of a loaded vector (R368). -/
theorem vByte_memLe (m : List Host.Cell) (a : Nat) {j : Nat} (hj : j < 32) : vByte (BitVec.ofNat 256 (memLe m 32 a)) j = memRead m (a + j) := by
  apply BitVec.eq_of_getLsbD_eq
  intro i hi
  rw [vByte, BitVec.getLsbD_extractLsb', decide_eq_true hi, Bool.true_and, BitVec.getLsbD_ofNat, testBit_memLe,
    decide_eq_true (by omega), Bool.true_and, Bool.true_and, show (8 * j + i) / 8 = j by omega,
    show (8 * j + i) % 8 = i by omega]

/-! ### Loads -/

section
variable {s : State} {a : Addr}

/-- An address that fits is the scratchpad's. -/
theorem State.local_of_fits {va n al : Nat} (h : s.localFits va n al = true) (hn : 0 < n) :
    va < Config.spadSize ∧ (!isSteward s.curCore) = true := by
  obtain ⟨hst, -, -, -⟩ := State.localFits_iff.1 h
  exact ⟨State.lt_of_localFits h hn, by rw [hst]; rfl⟩

theorem exec_ld_local {fg : Bool} {ty : BitVec 3} {dst : Reg} (hready : s.ready [a.base] (some dst) = true)
    (hfits : s.localFits (s.ea a) (2 ^ (ty.toNat / 2)) (2 ^ (ty.toNat / 2)) = true)
    (hbad : s.badIn (s.cellOf (s.ea a)) (2 ^ (ty.toNat / 2)) = false) :
    exec (.ld fg ty dst a) s = .next (s.result [a.base] dst
      (loadWord (memBytesOf ty) (memSigned ty) (memLe s.mem (memBytesOf ty) (s.cellOf (s.ea a))))) := by
  obtain ⟨hst, hal, -, htouch⟩ := State.localFits_iff.1 hfits
  have hlocal := State.local_of_fits hfits (Nat.two_pow_pos _)
  show execLd fg ty dst a s = _
  rw [execLd, State.runOp_ready hready]
  unfold State.ea State.cellOf at hbad
  unfold State.ea at hal htouch hlocal
  simp only [List.map_cons, List.map_nil, List.getD_cons_zero, memBytesOf, hal, ne_eq, not_true_eq_false, if_false, if_pos hlocal, htouch,
    Bool.false_eq_true, hbad, Eff.run, State.localNat, State.taken_curCore, State.taken_mem]
  rfl
theorem exec_ld_align {fg : Bool} {ty : BitVec 3} {dst : Reg} (hready : s.ready [a.base] (some dst) = true)
    (hal : s.ea a % 2 ^ (ty.toNat / 2) ≠ 0) : exec (.ld fg ty dst a) s = .next (s.fault .align (BitVec.ofNat 64 (s.ea a)) 0) := by
  show execLd fg ty dst a s = _
  rw [execLd, State.runOp_ready hready]
  exact congrArg (fun e => Host.Outcome.next (Eff.run s _ e)) (if_pos hal)
theorem exec_ld_stacks {fg : Bool} {ty : BitVec 3} {dst : Reg} (hready : s.ready [a.base] (some dst) = true)
    (hal : s.ea a % 2 ^ (ty.toNat / 2) = 0) (hst : isSteward s.curCore = false) (hlt : s.ea a < Config.spadSize)
    (htouch : s.touchesStacks s.curCore (s.ea a) (2 ^ (ty.toNat / 2)) = true) :
    exec (.ld fg ty dst a) s = .next (s.fault .bounds (BitVec.ofNat 64 (s.ea a)) 0) := by
  have hlocal : s.ea a < Config.spadSize ∧ (!isSteward s.curCore) = true := ⟨hlt, by rw [hst]; rfl⟩
  show execLd fg ty dst a s = _
  rw [execLd, State.runOp_ready hready]
  unfold State.ea at hal htouch hlocal
  simp only [List.map_cons, List.map_nil, List.getD_cons_zero, memBytesOf, hal, ne_eq, not_true_eq_false, if_false, if_pos hlocal,
    if_pos htouch]
  rfl
theorem exec_vld_local {v : Fin 16} (hready : s.ready [a.base] none = true) (hfits : s.localFits (s.ea a) 32 32 = true)
    (hbad : s.badIn (s.cellOf (s.ea a)) 32 = false) : exec (.vld v a) s = .next ((s.taken [a.base] none).modMe (fun x =>
      x.writeV v (BitVec.ofNat 256 (memLe s.mem 32 (s.cellOf (s.ea a)))))).advance := by
  obtain ⟨hst, hal, -, htouch⟩ := State.localFits_iff.1 hfits
  have hlocal := State.local_of_fits hfits (by decide)
  show execVld v a s = _
  rw [execVld, State.runOp_ready hready]
  unfold State.ea State.cellOf at hbad
  unfold State.ea at hal htouch hlocal
  simp only [List.map_cons, List.map_nil, List.getD_cons_zero, hal, ne_eq, not_true_eq_false, if_false, if_pos hlocal, htouch,
    Bool.false_eq_true, hbad, Eff.run, State.localNat, State.taken_curCore, State.taken_mem]
  rfl

end

theorem localLoads : Sys2Proof.Claims.LocalLoads := by
  intro s fg ty dst v a
  exact ⟨fun hready hfits hbad => ⟨_, fun j hj => getLsbD_loadWord ty s.mem _ hj, exec_ld_local hready hfits hbad⟩,
    fun hready hfits hbad => ⟨_, fun j hj => vByte_memLe s.mem _ hj, exec_vld_local hready hfits hbad⟩, exec_ld_align, exec_ld_stacks⟩

/-! ### Stores -/

/-- A store of bytes that fit, and the step past the bundle. -/
theorem State.storeAt_local {s : State} {va n v : Nat} (hn : 0 < n) (hfits : s.localFits va n n = true)
    (hbad : s.badPart (s.cellOf va) n = false) (hhaz : s.feedHazard s.curCore va n = false) :
    s.storeAt va (leBytes n v) = .ok (fun t => (t.store (s.cellOf va) (leBytes n v)).advance) := by
  obtain ⟨hst, hal, -, htouch⟩ := State.localFits_iff.1 hfits
  have hlocal := State.local_of_fits hfits hn
  unfold State.cellOf at hbad
  simp only [State.storeAt, State.localStore, length_leBytes, hal, ne_eq, not_true_eq_false, if_false, if_pos hlocal, htouch,
    Bool.false_eq_true, hbad, hhaz]
  rfl
/-- A span that is not aligned (R351). -/
theorem State.storeAt_align {s : State} {va n v : Nat} (hal : va % n ≠ 0) : s.storeAt va (leBytes n v) = eFault .align va 0 := by
  rw [State.storeAt, length_leBytes, if_pos hal]

/-- What a store of `n` bytes at a cell leaves: the bytes, the rest of memory, and the frame. -/
theorem State.stored {s : State} (srcs : List Reg) (hwf : Memory.wf s.mem = true) (cell n v : Nat) :
    let t := ((s.taken srcs none).store cell (leBytes n v)).advance
    memHolds t.mem cell n v ∧ s.memKept t cell n ∧ s.onlyPc t
      ∧ t = { s with ctxs := t.ctxs, mem := t.mem, bad := t.bad, cores := t.cores, agenda := t.agenda } := by
  have hmem : ((s.taken srcs none).store cell (leBytes n v)).advance.mem = memPut s.mem cell (leBytes n v) := by
    show memPut (s.taken srcs none).mem cell (leBytes n v) = _
    rw [State.taken_mem]
  refine ⟨?_, fun b hb => ?_, State.onlyPc_advance_of_ctxs ?_ ?_ ?_ ?_, ?_⟩
  · rw [hmem]
    exact memHolds_memPut_leBytes hwf cell n v
  · rw [hmem]
    exact memRead_memPut_other _ _ (by rwa [length_leBytes])
  · exact State.taken_ctxs ..
  · exact State.taken_curCore ..
  · exact State.taken_curCtx ..
  · exact State.taken_curLen ..
  · obtain ⟨x, y, hframe⟩ := s.taken_frame srcs none
    rw [hframe]
    rfl

theorem localStores : Sys2Proof.Claims.LocalStores := by
  intro s ty src v a va n cell same hwf
  refine ⟨fun hready hfits hbad hhaz => ?_, fun hready hfits hbad hhaz => ?_, fun hready hal => ?_⟩
  · refine ⟨_, ?_, State.stored [src, a.base] hwf cell n (s.srcVal src).toNat⟩
    show execSt ty src a s = _
    rw [execSt, State.runOp_ready hready]
    exact congrArg (fun e => Host.Outcome.next (Eff.run s _ e)) (State.storeAt_local (Nat.two_pow_pos _) hfits hbad hhaz)
  · refine ⟨_, ?_, State.stored [a.base] hwf cell 32 (s.me.readV v).toNat⟩
    show execVst v a s = _
    rw [execVst, State.runOp_ready hready]
    exact congrArg (fun e => Host.Outcome.next (Eff.run s _ e)) (State.storeAt_local (by decide) hfits hbad hhaz)
  · show execSt ty src a s = _
    rw [execSt, State.runOp_ready hready]
    exact congrArg (fun e => Host.Outcome.next (Eff.run s _ e)) (State.storeAt_align hal)

/-- Settles O15: a span that fits passes the checks, and its bytes are those of the value. -/
theorem localMemory : Obligations.LocalMemory := ⟨localLoads, localStores⟩

end Sys2Proof.Machine
end

section
/-! PROOFS. Full/empty words and datum words (O16). -/

namespace Sys2Proof.Machine

/-! ### Frames -/

theorem State.modTeam_frame (s : State) (t : Nat) (f : Team → Team) : s.modTeam t f = { s with teams := (s.modTeam t f).teams } := by
  unfold State.modTeam
  split <;> rfl
theorem State.modSide_frame (s : State) (c k : Nat) (f : Core → Core) :
    s.modSide c k f = { s with cores := (s.modSide c k f).cores, teams := (s.modSide c k f).teams } := by
  unfold State.modSide
  split
  · split
    · rw [State.modTeam_frame]
    · rfl
  · rfl
theorem State.pushQ_frame (s : State) (c : Nat) (d : Dir) (e : QEnt) :
    s.pushQ c d e = { s with cores := (s.pushQ c d e).cores, agenda := (s.pushQ c d e).agenda, teams := (s.pushQ c d e).teams } := by
  unfold State.pushQ
  dsimp only
  rw [State.modSide_frame]
  rfl
/-- Putting a result changes the context, and a queue's other end (R70, R148). -/
theorem State.put_frame (s : State) (dst : Reg) (v : Word) : s.put dst v = { s with
    ctxs := (s.put dst v).ctxs, cores := (s.put dst v).cores, agenda := (s.put dst v).agenda, teams := (s.put dst v).teams } := by
  unfold State.put State.putCtx
  dsimp only
  split
  · rw [State.pushQ_frame]
    rfl
  · rfl
@[simp] theorem State.put_curCore (s : State) (dst : Reg) (v : Word) : (s.put dst v).curCore = s.curCore := by
  rw [State.put_frame]
@[simp] theorem State.put_mem (s : State) (dst : Reg) (v : Word) : (s.put dst v).mem = s.mem := by
  rw [State.put_frame]
@[simp] theorem State.put_full (s : State) (dst : Reg) (v : Word) : (s.put dst v).full = s.full := by
  rw [State.put_frame]
theorem State.cacheDropRange_unsent (s : State) (c base len : Nat) : (s.cacheDropRange c base len).unsent = s.unsent := rfl
theorem State.acquire_unsent (s : State) (c : Nat) (o : Obj) : (s.acquire c o).unsent = s.unsent :=
  State.foldl_unsent s _ (fun _ _ => State.cacheDropRange_unsent ..) _
theorem State.acquire_mem (s : State) (c : Nat) (o : Obj) : (s.acquire c o).mem = s.mem := (congrArg State.mem (s.acquire_unsent c o) :)
theorem State.acquire_full (s : State) (c : Nat) (o : Obj) : (s.acquire c o).full = s.full := (congrArg State.full (s.acquire_unsent c o) :)

/-- An operation that goes on once something is sent only goes on. -/
theorem State.onlyPc_advance_of_unsent {s t : State} (h : t.unsent = s.unsent) : s.onlyPc t.advance :=
  State.onlyPc_advance_of_ctxs (congrArg State.ctxs h :) (congrArg State.curCore h :) (congrArg State.curCtx h :) (congrArg State.curLen h :)
theorem State.taken_unsent (s : State) (srcs : List Reg) (dst : Option Reg) : (s.taken srcs dst).unsent = s.unsent := by
  obtain ⟨x, y, h⟩ := s.taken_frame srcs dst
  rw [h]
  rfl

/-! ### Lists of words -/

theorem mem_insertNat {a w : Nat} {l : List Nat} : w ∈ insertNat a l ↔ w ∈ l ∨ w = a := by
  induction l with
  | nil => simp [insertNat]
  | cons x xs ih =>
    rw [insertNat]
    split
    · simp only [List.mem_cons]
      tauto
    · split
      · next h =>
        subst h
        simp only [List.mem_cons]
        tauto
      · simp only [List.mem_cons, ih]
        tauto
theorem mem_removeNat {a w : Nat} {l : List Nat} : w ∈ removeNat a l ↔ w ∈ l ∧ w ≠ a := by
  simp [removeNat]
/-- The bits of a range of words (R308). -/
theorem mem_setFullRange {full : List Nat} {b : Bool} {n cell w : Nat} :
    w ∈ setFullRange full b n cell ↔ if ∃ k, k < n ∧ w = cell + 8 * k then b = true else w ∈ full := by
  induction n generalizing full cell with
  | zero => simp [setFullRange]
  | succ n ih =>
    have hsplit : (∃ k, k < n + 1 ∧ w = cell + 8 * k) ↔ w = cell ∨ ∃ k, k < n ∧ w = cell + 8 + 8 * k := by
      constructor
      · rintro ⟨k, hk, hw⟩
        cases k with
        | zero => exact .inl hw
        | succ k => exact .inr ⟨k, by omega, by omega⟩
      · rintro (hw | ⟨k, hk, hw⟩)
        · exact ⟨0, by omega, hw⟩
        · exact ⟨k + 1, by omega, by omega⟩
    rw [setFullRange, ih]
    by_cases hlater : ∃ k, k < n ∧ w = cell + 8 + 8 * k
    · rw [if_pos hlater, if_pos (hsplit.2 (.inr hlater))]
    · rw [if_neg hlater]
      by_cases hw : w = cell
      · rw [if_pos (hsplit.2 (.inl hw)), hw]
        cases b <;> simp [mem_insertNat, mem_removeNat]
      · rw [if_neg (fun h => (hsplit.1 h).elim hw hlater)]
        cases b <;> simp [mem_insertNat, mem_removeNat, hw]

/-! ### LDFE, STFE and FEINIT -/

section
variable {s : State} {a : Addr} {dst src : Reg} {n64 : Bool}

/-- The checks of LDFE and STFE pass for a word that fits. -/
theorem State.fe_checks {va : Nat} (h : s.localFits va 8 8 = true) : ¬(isAperture va = true ∨ isGlobal va = true) := by
  have hlt := State.lt_of_localFits h (by decide)
  rw [not_isAperture_of_lt hlt, not_isGlobal_of_lt hlt]
  simp

theorem exec_ldfe (hready : s.ready [a.base] (some dst) = true) (hfits : s.localFits (s.ea a) 8 8 = true)
    (hfull : s.full.contains (s.cellOf (s.ea a)) = true) (hturn : s.feBehind (s.ea a) true = false)
    (hbad : s.badIn (s.cellOf (s.ea a)) 8 = false) : exec (.ldfe n64 dst a) s =
      .next ((({ s.taken [a.base] (some dst) with full := removeNat (s.cellOf (s.ea a)) s.full }).put dst
        (BitVec.ofNat 64 (memLe s.mem 8 (s.cellOf (s.ea a))))).acquire s.curCore (.fe s.curCore (s.ea a))).advance := by
  show execLdfe n64 dst a s = _
  rw [execLdfe, State.runOp_ready hready]
  have hchecks := State.fe_checks hfits
  have hspan := State.localSpan_of_fits hfits
  have hgo : (!s.isFull s.curCore (s.ea a) || s.feBehind (s.ea a) true) = false := by
    rw [hturn, Bool.or_false, Bool.not_eq_false']
    exact hfull
  unfold State.ea at hchecks hspan hgo hbad
  unfold State.cellOf at hbad
  obtain ⟨x, y, hframe⟩ := s.taken_frame [a.base] (some dst)
  simp only [List.map_cons, List.map_nil, List.getD_cons_zero, if_neg hchecks, hspan, hgo, hbad, Bool.false_eq_true, if_false, Eff.run,
    hframe, State.setFull]
  rfl

theorem exec_ldfe_waits (hready : s.ready [a.base] (some dst) = true) (hfits : s.localFits (s.ea a) 8 8 = true)
    (hempty : s.full.contains (s.cellOf (s.ea a)) = false) :
    exec (.ldfe n64 dst a) s = .next ((s.feWait (s.ea a) true).run s s) := by
  have hchecks := State.fe_checks hfits
  have hspan := State.localSpan_of_fits hfits
  have hgo : (!s.isFull s.curCore (s.ea a) || s.feBehind (s.ea a) true) = true := by
    rw [show s.isFull s.curCore (s.ea a) = false from hempty]
    rfl
  show execLdfe n64 dst a s = _
  rw [execLdfe, State.runOp_ready hready]
  unfold State.ea at hchecks hspan hgo
  simp only [List.map_cons, List.map_nil, List.getD_cons_zero, if_neg hchecks, hspan, hgo, if_true]
  rfl

theorem exec_stfe (hready : s.ready [src, a.base] none = true) (hfits : s.localFits (s.ea a) 8 8 = true)
    (hempty : s.full.contains (s.cellOf (s.ea a)) = false) (hturn : s.feBehind (s.ea a) false = false) : exec (.stfe n64 src a) s =
      .next (((s.taken [src, a.base] none).store (s.cellOf (s.ea a)) (leBytes 8 (s.srcVal src).toNat)).setFull s.curCore (s.ea a) true).advance := by
  have hchecks := State.fe_checks hfits
  have hspan := State.localSpan_of_fits hfits
  have hgo : (s.isFull s.curCore (s.ea a) || s.feBehind (s.ea a) false) = false := by
    rw [hturn, Bool.or_false]
    exact hempty
  show execStfe n64 src a s = _
  rw [execStfe, State.runOp_ready hready]
  unfold State.ea at hchecks hspan hgo
  simp only [List.map_cons, List.map_nil, List.getD_cons_zero, List.getD_cons_succ, if_neg hchecks, hspan, hgo, Bool.false_eq_true, if_false,
    Eff.run, State.taken_curCore]
  rfl
theorem exec_stfe_waits (hready : s.ready [src, a.base] none = true) (hfits : s.localFits (s.ea a) 8 8 = true)
    (hfull : s.full.contains (s.cellOf (s.ea a)) = true) :
    exec (.stfe n64 src a) s = .next ((s.feWait (s.ea a) false).run s s) := by
  have hchecks := State.fe_checks hfits
  have hspan := State.localSpan_of_fits hfits
  have hgo : (s.isFull s.curCore (s.ea a) || s.feBehind (s.ea a) false) = true := by
    rw [show s.isFull s.curCore (s.ea a) = true from hfull]
    rfl
  show execStfe n64 src a s = _
  rw [execStfe, State.runOp_ready hready]
  unfold State.ea at hchecks hspan hgo
  simp only [List.map_cons, List.map_nil, List.getD_cons_zero, List.getD_cons_succ, if_neg hchecks, hspan, hgo, if_true]
  rfl
/-- A wait for a word's state keeps the cycle it began in. -/
theorem State.feWait_parks (s : State) (va : Nat) (full : Bool) : ((s.feWait va full).run s s).me.park
      = some (.cond (.fe va full (s.me.since.getD s.now)) s.curBundle) ∧ ((s.feWait va full).run s s).me.pc = s.me.pc := by
  show (State.wait (s.modMe _) _).me.park = _ ∧ (State.wait (s.modMe _) _).me.pc = _
  rw [State.me_wait, State.me_modMe]
  exact ⟨rfl, rfl⟩

theorem exec_feinit {full : Bool} {words : BitVec 9} (hready : s.ready [a.base] none = true)
    (hfits : s.localFits (s.ea a) (8 * (words.toNat + 1)) 8 = true) : exec (.feinit full words a) s =
      .next (State.advance { s.taken [a.base] none with full := setFullRange s.full full (words.toNat + 1) (s.cellOf (s.ea a)) }) := by
  have hspan := State.localSpan_of_fits hfits
  show execFeinit full words a s = _
  rw [execFeinit, State.runOp_ready hready]
  unfold State.ea at hspan
  obtain ⟨x, y, hframe⟩ := s.taken_frame [a.base] none
  simp only [List.map_cons, List.map_nil, List.getD_cons_zero, hspan, Eff.run, hframe]
  rfl

/-! ### Datum words -/

theorem exec_dwinit (hready : s.ready [src, a.base] none = true) (hfits : s.localFits (s.ea a) 16 16 = true) (hdbg : s.dbghz = false) :
    exec (.dwinit src a) s = .next ((s.taken [src, a.base] none).store (s.cellOf (s.ea a)) (leBytes 8 (s.srcVal src).toNat)).advance := by
  have hspan := State.localSpan_of_fits hfits
  show execDwinit src a s = _
  rw [execDwinit, State.runOp_ready hready]
  unfold State.ea at hspan
  simp only [List.map_cons, List.map_nil, List.getD_cons_zero, List.getD_cons_succ, hspan, hdbg, Bool.false_eq_true, false_and, if_false,
    Eff.run, State.taken_curCore]
  rfl

/-- The generation has reached `g`: it is less than half the circle ahead (R169). -/
theorem State.dwReached_eq (s : State) (c off g : Nat) : s.dwReached c off g
    = decide ((memLe s.mem 4 (spad c off + 8) + 2 ^ 32 - g % 2 ^ 32) % 2 ^ 32 < 2 ^ 31) := by
  unfold State.dwReached State.dwGen
  rw [sgn, Nat.mod_mod]
  generalize (memLe s.mem 4 (spad c off + 8) + 2 ^ 32 - g % 2 ^ 32) = m
  have hlt : m % 2 ^ 32 < 2 ^ 32 := Nat.mod_lt _ (by decide)
  congr 1
  apply propext
  split <;> omega

theorem exec_dwwait (hready : s.ready [src, a.base] none = true) (hfits : s.localFits (s.ea a) 16 16 = true)
    (hreached : s.dwReached s.curCore (s.ea a) ((s.srcVal src).toNat % 2 ^ 32) = true) :
    exec (.dwwait src a) s = .next ((s.taken [src, a.base] none).acquire s.curCore (.dw s.curCore (s.ea a))).advance := by
  have hspan := State.localSpan_of_fits hfits
  show execDwwait src a s = _
  rw [execDwwait, State.runOp_ready hready]
  unfold State.ea at hspan hreached
  obtain ⟨x, y, hframe⟩ := s.taken_frame [src, a.base] none
  simp only [List.map_cons, List.map_nil, List.getD_cons_zero, List.getD_cons_succ, hspan, if_pos hreached, Eff.run, hframe]
  rfl
theorem exec_dwwait_waits (hready : s.ready [src, a.base] none = true) (hfits : s.localFits (s.ea a) 16 16 = true)
    (hreached : s.dwReached s.curCore (s.ea a) ((s.srcVal src).toNat % 2 ^ 32) = false) :
    exec (.dwwait src a) s = .next (s.wait (.dw (s.ea a) ((s.srcVal src).toNat % 2 ^ 32))) := by
  have hspan := State.localSpan_of_fits hfits
  show execDwwait src a s = _
  rw [execDwwait, State.runOp_ready hready]
  unfold State.ea at hspan hreached
  simp only [List.map_cons, List.map_nil, List.getD_cons_zero, List.getD_cons_succ, hspan, hreached, Bool.false_eq_true, if_false]
  rfl

end

/-- Settles O16: a word that fits passes the checks, and each outcome is its own equation. -/
theorem syncWords : Obligations.SyncWords := by
  intro s n64 full words dst src a va cell hwf
  refine ⟨fun hready hfits hfull hturn hbad => ⟨_, exec_ldfe hready hfits hfull hturn hbad, rfl, ?_, fun w => ?_⟩,
    fun hready hfits hempty => ⟨_, exec_ldfe_waits hready hfits hempty, (s.feWait_parks va true).1, (s.feWait_parks va true).2, rfl, rfl⟩,
    fun hready hfits hempty hturn => ⟨_, exec_stfe hready hfits hempty hturn, ?_, ?_, fun w => ?_, ?_⟩,
    fun hready hfits hfull => ⟨_, exec_stfe_waits hready hfits hfull, (s.feWait_parks va false).1, (s.feWait_parks va false).2, rfl, rfl⟩,
    fun hready hfits => ⟨_, exec_feinit hready hfits, ?_, ?_, fun w => ?_⟩,
    fun hready hfits hdbg => ⟨_, exec_dwinit hready hfits hdbg, ?_⟩,
    fun hready hfits => ⟨fun hreached => ?_, fun hreached => ?_⟩⟩
  · exact (State.acquire_mem ..).trans ((State.put_mem ..).trans (s.taken_mem ..))
  · exact (iff_of_eq (congrArg (w ∈ ·) ((State.acquire_full ..).trans (State.put_full ..)))).trans mem_removeNat
  · exact (State.stored [src, a.base] hwf cell 8 (s.srcVal src).toNat).1
  · exact (State.stored [src, a.base] hwf cell 8 (s.srcVal src).toNat).2.1
  · show w ∈ insertNat cell (s.taken [src, a.base] none).full ↔ _
    rw [State.taken_full]
    exact mem_insertNat
  · apply State.onlyPc_advance_of_ctxs <;> simp [State.setFull]
  · exact s.taken_mem ..
  · exact State.onlyPc_advance_of_ctxs (s.taken_ctxs [a.base] none) (s.taken_curCore [a.base] none)
      (s.taken_curCtx [a.base] none) (s.taken_curLen [a.base] none)
  · refine mem_setFullRange.trans ?_
    simp only [Nat.lt_succ_iff]
    rfl
  · obtain ⟨hholds, hkept, hpc, -⟩ := State.stored [src, a.base] hwf cell 8 (s.srcVal src).toNat
    exact ⟨hholds, hkept, hpc⟩
  · have hunsent := ((s.taken [src, a.base] none).acquire_unsent s.curCore (.dw s.curCore va)).trans (s.taken_unsent [src, a.base] none)
    refine ⟨_, exec_dwwait hready hfits ?_, State.onlyPc_advance_of_unsent hunsent, (congrArg State.mem hunsent :), rfl⟩
    rw [State.dwReached_eq, Nat.mod_mod]
    exact hreached
  · refine ⟨_, exec_dwwait_waits hready hfits ?_, rfl, ?_, ?_⟩
    · rw [State.dwReached_eq, Nat.mod_mod]
      exact hreached
    · rw [State.me_wait]
    · rw [State.me_wait]

end Sys2Proof.Machine
end

section
/-! PROOFS. What leaves a core, seen from its core record: the injection queue, the unacknowledged operations and the write-combining
buffer (R174, R198, R234). -/

namespace Sys2Proof.Machine

/-! ### The part of a core that sends -/

/-- A core besides its queues and its TLB. -/
def Core.unread (x : Core) : Core := { x with qin := .empty, transit := .empty, credits := .empty, utlb := [] }

theorem State.core_modCore (s : State) (c k : Nat) (f : Core → Core) : (s.modCore c f).core k = if k = c then f (s.core k) else s.core k := by
  unfold State.core State.modCore State.setCore
  rw [Table.get_set]
  split
  · next h => rw [h]; rfl
  · rfl
/-- A change of queues or of the TLB is none of the sending part. -/
theorem State.modCore_unread (s : State) (c k : Nat) {f : Core → Core} (hf : ∀ x, (f x).unread = x.unread) :
    ((s.modCore c f).core k).unread = (s.core k).unread := by
  rw [State.core_modCore]
  split
  · exact hf _
  · rfl
theorem State.popQ_unread (s : State) (c k : Nat) (d : Dir) : ((s.popQ c d).core k).unread = (s.core k).unread :=
  s.modCore_unread c k (f := fun x => { x with qin := x.qin.set (dirNum d) (x.inq d).tail }) (fun _ => rfl)
theorem State.spendQ_unread (s : State) (c k : Nat) (d : Dir) : ((s.spendQ c d).core k).unread = (s.core k).unread :=
  s.modCore_unread c k (fun _ => rfl)
theorem State.taken_unread (s : State) (srcs : List Reg) (dst : Option Reg) (k : Nat) :
    ((s.taken srcs dst).core k).unread = (s.core k).unread := by
  have hpop (ds : List Dir) (s : State) (c : Nat) : ((ds.foldl (fun t d => t.popQ c d) s).core k).unread = (s.core k).unread := by
    induction ds generalizing s with
    | nil => rfl
    | cons d ds ih => rw [List.foldl_cons, ih, State.popQ_unread]
  have hspend (ds : List Dir) (s : State) (c : Nat) : ((ds.foldl (fun t d => t.spendQ c d) s).core k).unread = (s.core k).unread := by
    induction ds generalizing s with
    | nil => rfl
    | cons d ds ih => rw [List.foldl_cons, ih, State.spendQ_unread]
  rw [State.taken, hspend, hpop]
theorem State.useTlb_unread (s : State) (c k : Nat) (e : TlbE) : ((s.useTlb c e).core k).unread = (s.core k).unread := by
  unfold State.useTlb
  split
  · rfl
  · exact s.modCore_unread c k (f := fun x => { x with utlb := lruPut 32 e x.utlb }) (fun _ => rfl)
theorem State.useTlb_unsent (s : State) (c : Nat) (e : TlbE) : (s.useTlb c e).unsent = s.unsent := by
  unfold State.useTlb
  split <;> rfl

/-! ### What a pump leaves of a core -/

/-- `y` is the core `x` once entries of its write-combining buffer have been sent: entries that are not closed stay, in turn, and what is
sent is not yet acknowledged. -/
structure Core.Drained (x y : Core) : Prop where
  frame : y = { x with wcb := y.wcb, unacked := y.unacked }
  wcb : ∃ p : WC → Bool, y.wcb = x.wcb.filter p ∧ ∀ w, (∀ v ∈ x.wcb, v.closed = true → v.tok ≠ w.tok) → p w = true
  unacked : ∃ us, y.unacked = x.unacked ++ us ∧ ∀ u ∈ us, ∃ pa va, u.kind = .wc pa va

theorem Core.Drained.refl (x : Core) : x.Drained x where
  frame := rfl
  wcb := ⟨fun _ => true, (List.filter_true _).symm, fun _ _ => rfl⟩
  unacked := ⟨[], (List.append_nil _).symm, fun _ h => absurd h List.not_mem_nil⟩
theorem Core.Drained.trans {x y z : Core} (h : x.Drained y) (h' : y.Drained z) : x.Drained z := by
  obtain ⟨p, hp, hkeep⟩ := h.wcb
  obtain ⟨q, hq, hkeep'⟩ := h'.wcb
  obtain ⟨us, hus, hkind⟩ := h.unacked
  obtain ⟨vs, hvs, hkind'⟩ := h'.unacked
  refine ⟨by rw [h'.frame, h.frame], ⟨fun w => p w && q w, ?_, fun w hw => ?_⟩, ⟨us ++ vs, ?_, fun u hu => ?_⟩⟩
  · rw [hq, hp, List.filter_filter]
    simp only [Bool.and_comm]
  · show (p w && q w) = true
    rw [hkeep w hw, hkeep' w (fun v hv hclosed => hw v (List.mem_of_mem_filter (hp ▸ hv)) hclosed)]
    rfl
  · rw [hvs, hus, List.append_assoc]
  · exact (List.mem_append.1 hu).elim (hkind u) (hkind' u)

section
variable (s : State)

theorem State.foldl_core {α : Type} (f : State → α → State) (k : Nat) (hf : ∀ s a, (f s a).core k = s.core k) (l : List α) :
    (l.foldl f s).core k = s.core k := by
  induction l generalizing s with
  | nil => rfl
  | cons a l ih => rw [List.foldl_cons, ih, hf]
theorem State.endOutside_core (r : HomeReq) (d : Nat) (bad : Option FCode) (k : Nat) : (s.endOutside r d bad).core k = s.core k := by
  unfold State.endOutside
  dsimp only
  split
  · rfl
  · rfl
  · rfl
  · cases bad with
    | none => rfl
    | some f =>
      show State.core (List.foldl _ _ _) k = _
      rw [State.foldl_core]
      · rfl
      · exact fun _ _ => rfl
theorem State.sendHome_core (r : HomeReq) (d k : Nat) : (s.sendHome r d).core k = s.core k := by
  unfold State.sendHome
  split
  · rfl
  · split <;> exact s.endOutside_core ..
  · split <;> rfl
  · rfl
/-- A core that has sent an entry of its write-combining buffer. -/
def Core.sentWc (x : Core) (w : WC) : Core :=
  { x with wcb := x.wcb.filter (fun e => e.tok != w.tok), unacked := x.unacked ++ [⟨w.tok, w.owners, .wc w.pa w.va⟩] }
theorem State.schedSoon_core (d : Nat) (i : Instr) (k : Nat) : (s.schedSoon d i).core k = s.core k := by
  unfold State.schedSoon
  split <;> rfl
/-- A closed entry that is sent leaves the buffer, and is not yet acknowledged. -/
theorem State.sendWc_drained {c : Nat} {w : WC} (hw : w ∈ (s.core c).wcb) (hclosed : w.closed = true) (k : Nat) :
    (s.core k).Drained ((s.sendWc c w).core k) := by
  have hcore : (s.sendWc c w).core k = if k = c then (s.core k).sentWc w else s.core k := by
    unfold State.sendWc
    rw [State.sendHome_core]
    exact s.core_modCore c k (fun x => x.sentWc w)
  rw [hcore]
  split
  · next h =>
    subst h
    refine ⟨rfl, ⟨_, rfl, fun v hv => ?_⟩, ⟨_, rfl, fun u hu => ?_⟩⟩
    · simpa using (hv w hw hclosed).symm
    · rw [List.mem_singleton.1 hu]
      exact ⟨_, _, rfl⟩
  · exact Core.Drained.refl _
theorem State.spend_core (n k : Nat) : (s.spend n).core k = s.core k := by
  unfold State.spend
  split <;> rfl
theorem State.drainReady_drained (c n k : Nat) : (s.core k).Drained ((s.drainReady c n).core k) := by
  induction n generalizing s with
  | zero => exact Core.Drained.refl _
  | succ n ih =>
    unfold State.drainReady
    dsimp only
    split
    · next w hw =>
      obtain ⟨hmem, hready⟩ := List.mem_filter.1 (List.mem_of_getElem? hw)
      rw [Bool.and_eq_true] at hready
      have hsent := State.sendWc_drained (s.spend (s.core c).readyWc.length) (c := c) (by rwa [State.spend_core]) hready.1 k
      rw [State.spend_core] at hsent
      exact hsent.trans (ih _)
    · exact Core.Drained.refl _
theorem State.pump_drained (c k : Nat) : (s.core k).Drained ((s.pump c).core k) := by
  have h := s.drainReady_drained c 8 k
  unfold State.pump
  dsimp only
  split
  · rwa [State.schedSoon_core]
  · exact h

end

end Sys2Proof.Machine
end

section
/-! PROOFS. Loads of global memory (O17). -/

namespace Sys2Proof.Machine

/-! ### Parking for a reply, and injecting -/

/-- An operation that sends and parks for a reply. -/
theorem State.parksFor_of_unsent {s u t : State} {r : Result} (hu : u.unsent = s.unsent) (ht : t.unsent = (u.parkResult r).unsent) :
    s.parksFor t r := by
  have hlen : u.curLen = s.curLen := (congrArg State.curLen hu :)
  have htok : u.tok = s.tok := (congrArg State.tok hu :)
  have hme : t.me = { s.me with park := some (.result s.tok s.curLen r) } := by
    rw [State.me_of_unsent ht, ← State.me_of_unsent hu, ← hlen, ← htok]
    exact u.me_park _
  rw [State.parksFor, hme]
  refine ⟨rfl, rfl, fun q _ => ?_, fun k => rfl, Ctx.vecsKept_congr rfl rfl rfl, ?_⟩
  · cases q <;> rfl
  · rw [← htok]
    exact (congrArg State.tok ht :)

/-- The entry an injection queues, and where. -/
theorem State.inject_inj (s : State) (c : Nat) (b : InjBody) (after : List Nat) :
    ((s.inject c b after).core c).inj = (s.core c).inj ++ [{ body := b, after := after, ready := s.now + injDelay }] := by
  unfold State.inject
  rw [(State.pump_drained _ c c).frame]
  show ((s.modCore c _).core c).inj = _
  rw [State.core_modCore_self]
/-- What is not yet acknowledged stays so. -/
theorem State.mem_inject_unacked (s : State) {c : Nat} {b : InjBody} {after : List Nat} {o : Out} (h : o ∈ (s.core c).unacked) :
    o ∈ ((s.inject c b after).core c).unacked := by
  obtain ⟨us, hus, -⟩ := (State.pump_drained (s.modCore c (fun x => { x with inj := x.inj ++ [⟨b, after, s.now + injDelay⟩] })) c c).unacked
  unfold State.inject
  rw [hus, State.core_modCore_self]
  exact List.mem_append_left _ h
/-- Sending an injection entry, seen from the state the operation began in. -/
theorem State.injects_inject {s u : State} {b : InjBody} {after : List Nat} (hinj : (u.core s.curCore).inj = (s.core s.curCore).inj)
    (hnow : u.now = s.now) : s.injects (u.inject s.curCore b after) b after := by
  rw [State.injects, State.inject_inj, hinj, hnow]

/-! ### Pages -/

theorem State.withPage_of_fits {s : State} {va want : Nat} {e : TlbE} (h : s.pageFits va want e) (k : TlbE → Nat → Eff) :
    s.withPage va want k = k e (e.phys va) := by
  obtain ⟨-, hhit, hattr, -⟩ := h
  simp only [State.withPage, hhit, hattr, if_true]
theorem not_local_of_isGlobal {va : Nat} (h : isGlobal va = true) : ¬ va < Config.spadSize := by
  rw [isGlobal, Bool.and_eq_true, decide_eq_true_eq] at h
  have hbase : Config.spadSize ≤ Config.globalBase := by decide
  omega

/-! ### The load, once its operands are taken -/

section
variable {s : State} {va n : Nat} {fg fgAllowed : Bool} {r : List (Option Byte) → Result} {e : TlbE}

/-- A burst is asked for: the page or the form is fine-grained, and the line is in local HBM (R175). -/
def fineLoad (e : TlbE) (va : Nat) (fg fgAllowed : Bool) : Prop :=
  paKind (e.phys va) = .hbm ∧ fgAllowed = true ∧ (fg = true ∨ hasAttr e.attr attrFG = true)

variable (hpage : s.pageFits va attrR e)
include hpage

theorem State.globalLoad_fine (hfine : fineLoad e va fg fgAllowed) (hfree : s.lineFree (e.phys va)) (hn : n ≤ 8) :
    s.globalLoad va n fg fgAllowed r = .ok (fun t => (((t.drainLine (e.phys va)).useTlb t.curCore e).parkResult (r [])).inject t.curCore
      (.home (t.mkReq (.fine 8) e va t.tok [])) []) := by
  obtain ⟨hwcb, hline, hinj⟩ := hfree
  have hdrain : (s.core s.curCore).drainToks (e.phys va) = [] := by
    rw [Core.drainToks, hline, List.append_nil, List.map_eq_nil_iff, List.filter_eq_nil_iff]
    simpa using hwcb
  unfold fineLoad at hfine
  rw [State.globalLoad, State.withPage_of_fits hpage]
  simp only [if_pos hfine, State.withInj, hinj, if_true, if_pos hn, hdrain]

variable (hplain : ¬ fineLoad e va fg fgAllowed)
include hplain

theorem State.globalLoad_forwarded (hfwd : ((s.core s.curCore).forward (e.phys va) n).all Option.isSome = true) :
    s.globalLoad va n fg fgAllowed r = .ok (fun t => ((t.useTlb t.curCore e).sched Config.readCacheHit
      (.replyWrite t.curCore t.curCtx t.tok (.bytes []))).parkResult (r ((s.core s.curCore).forward (e.phys va) n))) := by
  unfold fineLoad at hplain
  rw [State.globalLoad, State.withPage_of_fits hpage]
  simp only [if_neg hplain, hfwd, if_true]

variable (hfwd : ((s.core s.curCore).forward (e.phys va) n).all Option.isSome = false)
include hfwd

theorem State.globalLoad_cached (hhbm : paKind (e.phys va) = .hbm) (hline : (s.core s.curCore).lineToks (e.phys va) = []) {l : RLine}
    (hl : s.cacheFind s.curCore (alignDown 64 (e.phys va)) = some l) :
    s.globalLoad va n fg fgAllowed r = .ok (fun t => (((t.useTlb t.curCore e).cacheFill t.curCore l).sched Config.readCacheHit
      (.replyWrite t.curCore t.curCtx t.tok (.bytes l.data))).parkResult (r ((s.core s.curCore).forward (e.phys va) n))) := by
  unfold fineLoad at hplain
  rw [State.globalLoad, State.withPage_of_fits hpage]
  simp only [if_neg hplain, hfwd, Bool.false_eq_true, if_false]
  simp only [hhbm, hline, List.isEmpty_nil, and_self, if_true, hl]

theorem State.globalLoad_home (hinj : (s.core s.curCore).injFree = true) (hmiss : paKind (e.phys va) ≠ .hbm
      ∨ (s.core s.curCore).lineToks (e.phys va) ≠ [] ∨ s.cacheFind s.curCore (alignDown 64 (e.phys va)) = none) :
    s.globalLoad va n fg fgAllowed r = .ok (fun t => ((t.useTlb t.curCore e).parkResult
        (r ((s.core s.curCore).forward (e.phys va) n))).inject t.curCore
      (.home (t.mkReq (if paKind (e.phys va) = .hbm then .load else .fine n) e va t.tok [])) ((s.core s.curCore).lineToks (e.phys va))) := by
  have hnone : (if paKind (e.phys va) = .hbm ∧ ((s.core s.curCore).lineToks (e.phys va)).isEmpty = true
      then s.cacheFind s.curCore (alignDown 64 (e.phys va)) else none) = none := by
    split
    · next h =>
      rcases hmiss with hk | hk | hk
      · exact absurd h.1 hk
      · exact absurd (List.isEmpty_iff.1 h.2) hk
      · exact hk
    · rfl
  unfold fineLoad at hplain
  rw [State.globalLoad, State.withPage_of_fits hpage]
  simp only [if_neg hplain, hfwd, Bool.false_eq_true, if_false, hnone, State.withInj, hinj, if_true]

end

section
variable {s : State} {fg : Bool} {ty : BitVec 3} {dst : Reg} {v : Fin 16} {a : Addr}

theorem exec_ld_global (hready : s.ready [a.base] (some dst) = true) (hal : s.ea a % 2 ^ (ty.toNat / 2) = 0) (hg : isGlobal (s.ea a) = true) :
    exec (.ld fg ty dst a) s = .next ((s.globalLoad (s.ea a) (2 ^ (ty.toNat / 2)) fg true
      (.load dst (2 ^ (ty.toNat / 2)) (ty.toNat % 2 == 0) (s.ea a))).run s (s.taken [a.base] (some dst))) := by
  have hlocal : ¬(s.ea a < Config.spadSize ∧ (!isSteward s.curCore) = true) := fun h => not_local_of_isGlobal hg h.1
  show execLd fg ty dst a s = _
  rw [execLd, State.runOp_ready hready]
  unfold State.ea at hal hg hlocal
  simp only [List.map_cons, List.map_nil, List.getD_cons_zero, memBytesOf, hal, ne_eq, not_true_eq_false, if_false, if_neg hlocal, if_pos hg]
  rfl
theorem exec_vld_global (hready : s.ready [a.base] none = true) (hal : s.ea a % 32 = 0) (hg : isGlobal (s.ea a) = true) :
    exec (.vld v a) s = .next ((s.globalLoad (s.ea a) 32 false false (.vload v (s.ea a))).run s (s.taken [a.base] none)) := by
  have hlocal : ¬(s.ea a < Config.spadSize ∧ (!isSteward s.curCore) = true) := fun h => not_local_of_isGlobal hg h.1
  show execVld v a s = _
  rw [execVld, State.runOp_ready hready]
  unfold State.ea at hal hg hlocal
  simp only [List.map_cons, List.map_nil, List.getD_cons_zero, hal, ne_eq, not_true_eq_false, if_false, if_neg hlocal, if_pos hg]
  rfl

end

theorem State.cacheFill_unsent (s : State) (c : Nat) (l : RLine) : (s.cacheFill c l).unsent = s.unsent := rfl

/-! ### What a load leaves -/

section
variable {s t : State} (htaken : t.unsent = s.unsent) (e : TlbE) (r : Result)
include htaken

/-- The reply of a hit comes 40 cycles later (R76). -/
theorem State.hit_outcome (u : State) (hu : u.unsent = t.unsent) (bs : List Byte) :
    let t' := (u.sched Config.readCacheHit (.replyWrite t.curCore t.curCtx t.tok (.bytes bs))).parkResult r
    s.parksFor t' r ∧ (s.now + 40, Instr.replyWrite s.curCore s.curCtx s.tok (.bytes bs)) ∈ t'.agenda := by
  have hus : u.unsent = s.unsent := hu.trans htaken
  have hnow : u.now = s.now := (congrArg State.now hus :)
  have hcore : t.curCore = s.curCore := (congrArg State.curCore htaken :)
  have hctx : t.curCtx = s.curCtx := (congrArg State.curCtx htaken :)
  have htok : t.tok = s.tok := (congrArg State.tok htaken :)
  refine ⟨State.parksFor_of_unsent (u := u.sched Config.readCacheHit _) hus rfl, ?_⟩
  rw [hcore, hctx, htok, ← hnow]
  exact State.mem_sched u 40 _

/-- A request to the home waits in the injection queue. -/
theorem State.request_outcome (u : State) (hu : u.unsent = t.unsent) (hinj : (u.core s.curCore).inj = (s.core s.curCore).inj) (b : InjBody)
    (after : List Nat) : let t' := (u.parkResult r).inject s.curCore b after
    s.parksFor t' r ∧ s.injects t' b after := by
  have hus : u.unsent = s.unsent := hu.trans htaken
  exact ⟨State.parksFor_of_unsent hus (State.inject_unsent ..), State.injects_inject hinj (congrArg State.now hus :)⟩

end

/-- The address space of a core depends on its team. -/
theorem State.spaceOf_congr {s t : State} {c : Nat} (h : t.teamOf c = s.teamOf c) : t.spaceOf c = s.spaceOf c := by
  unfold State.spaceOf
  rw [h]
/-- What has been taken or sent is no part of a request. -/
theorem State.mkReq_congr {s t : State} (h : t.unsent = s.unsent) (hcore : (t.core s.curCore).unread = (s.core s.curCore).unread)
    (k : HomeKind) (e : TlbE) (va tok : Nat) (data : List Byte) : t.mkReq k e va tok data = s.mkReq k e va tok data := by
  have hcur : t.curCore = s.curCore := (congrArg State.curCore h :)
  have hctx : t.curCtx = s.curCtx := (congrArg State.curCtx h :)
  have hspace : t.spaceOf s.curCore = s.spaceOf s.curCore :=
    State.spaceOf_congr (State.teamOf_congr (congrArg Core.team hcore :) (congrArg State.teams h :))
  unfold State.mkReq
  rw [hcur, hctx, hspace]
theorem State.drainLine_of_free {s : State} {pa : Nat} (h : ∀ w ∈ (s.core s.curCore).wcb, w.pa ≠ alignDown 64 pa) : s.drainLine pa = s := by
  have hnone : (s.core s.curCore).wcb.any (fun w => w.pa == alignDown 64 pa) = false := by
    simpa [List.any_eq_false] using h
  rw [State.drainLine, hnone]
  rfl

section
variable {s t : State} {va n : Nat} {fg fgAllowed : Bool} {r : List (Option Byte) → Result} {e : TlbE}
variable (htaken : t.unsent = s.unsent) (hunread : ∀ k, (t.core k).unread = (s.core k).unread) (hpage : s.pageFits va attrR e)
include htaken hpage

theorem State.forwarded_outcome (hplain : ¬ fineLoad e va fg fgAllowed)
    (hfwd : ((s.core s.curCore).forward (e.phys va) n).all Option.isSome = true) :
    s.parksFor ((s.globalLoad va n fg fgAllowed r).run s t) (r ((s.core s.curCore).forward (e.phys va) n))
      ∧ (s.now + 40, Instr.replyWrite s.curCore s.curCtx s.tok (.bytes [])) ∈ ((s.globalLoad va n fg fgAllowed r).run s t).agenda := by
  rw [State.globalLoad_forwarded hpage hplain hfwd]
  exact State.hit_outcome htaken _ _ (State.useTlb_unsent t t.curCore e) _
theorem State.cached_outcome (hplain : ¬ fineLoad e va fg fgAllowed)
    (hfwd : ((s.core s.curCore).forward (e.phys va) n).all Option.isSome = false) (hhbm : paKind (e.phys va) = .hbm)
    (hline : (s.core s.curCore).lineToks (e.phys va) = []) {l : RLine}
    (hl : s.cacheFind s.curCore (alignDown 64 (e.phys va)) = some l) :
    s.parksFor ((s.globalLoad va n fg fgAllowed r).run s t) (r ((s.core s.curCore).forward (e.phys va) n))
      ∧ (s.now + 40, Instr.replyWrite s.curCore s.curCtx s.tok (.bytes l.data)) ∈ ((s.globalLoad va n fg fgAllowed r).run s t).agenda := by
  rw [State.globalLoad_cached hpage hplain hfwd hhbm hline hl]
  exact State.hit_outcome htaken _ _ ((State.cacheFill_unsent _ t.curCore l).trans (t.useTlb_unsent t.curCore e)) _

include hunread

theorem State.home_outcome (hplain : ¬ fineLoad e va fg fgAllowed)
    (hfwd : ((s.core s.curCore).forward (e.phys va) n).all Option.isSome = false)
    (hinj : (s.core s.curCore).injFree = true) (hmiss : paKind (e.phys va) ≠ .hbm
      ∨ (s.core s.curCore).lineToks (e.phys va) ≠ [] ∨ s.cacheFind s.curCore (alignDown 64 (e.phys va)) = none) :
    s.parksFor ((s.globalLoad va n fg fgAllowed r).run s t) (r ((s.core s.curCore).forward (e.phys va) n))
      ∧ s.injects ((s.globalLoad va n fg fgAllowed r).run s t)
        (.home (s.mkReq (if paKind (e.phys va) = .hbm then .load else .fine n) e va s.tok [])) ((s.core s.curCore).lineToks (e.phys va)) := by
  have hcore : t.curCore = s.curCore := (congrArg State.curCore htaken :)
  have htok : t.tok = s.tok := (congrArg State.tok htaken :)
  have hq : ((t.useTlb s.curCore e).core s.curCore).inj = (s.core s.curCore).inj :=
    (congrArg Core.inj ((t.useTlb_unread s.curCore s.curCore e).trans (hunread s.curCore)) :)
  rw [State.globalLoad_home hpage hplain hfwd hinj hmiss, Eff.run, State.mkReq_congr htaken (hunread _), hcore, htok]
  exact State.request_outcome htaken _ _ (t.useTlb_unsent s.curCore e) hq _ _

theorem State.fine_outcome (hfine : fineLoad e va fg fgAllowed) (hfree : s.lineFree (e.phys va)) (hn : n ≤ 8) :
    s.parksFor ((s.globalLoad va n fg fgAllowed r).run s t) (r [])
      ∧ s.injects ((s.globalLoad va n fg fgAllowed r).run s t) (.home (s.mkReq (.fine 8) e va s.tok [])) [] := by
  have hcore : t.curCore = s.curCore := (congrArg State.curCore htaken :)
  have htok : t.tok = s.tok := (congrArg State.tok htaken :)
  have hwcb : (t.core t.curCore).wcb = (s.core s.curCore).wcb := by
    rw [hcore]
    exact (congrArg Core.wcb (hunread s.curCore) :)
  have hq : ((t.useTlb s.curCore e).core s.curCore).inj = (s.core s.curCore).inj :=
    (congrArg Core.inj ((t.useTlb_unread s.curCore s.curCore e).trans (hunread s.curCore)) :)
  rw [State.globalLoad_fine hpage hfine hfree hn, Eff.run, State.drainLine_of_free (by rw [hwcb]; exact hfree.1),
    State.mkReq_congr htaken (hunread _), hcore, htok]
  exact State.request_outcome htaken _ _ (t.useTlb_unsent s.curCore e) hq _ _

end

/-- Settles O17: which of the four ways a load takes follows from the page and the core, and each way parks it. -/
theorem globalLoads : Obligations.GlobalLoads := by
  intro s fg ty dst v a e va pa x n fine hitAt hpage
  have hglobal : isGlobal va = true := hpage.1
  have hfineIff : fine = true ↔ fineLoad e va fg true := by
    simp only [fine, decide_eq_true_eq, fineLoad, true_and]
    rfl
  have hplain (h : fine = false) : ¬ fineLoad e va fg true := fun hf => by
    rw [hfineIff.2 hf] at h
    cases h
  have hnoburst : ¬ fineLoad e va false false := fun h => by
    cases h.2.1
  have hsmall : n ≤ 8 := by
    have hty : ty.toNat / 2 ≤ 3 := by
      have := ty.isLt
      omega
    exact Nat.pow_le_pow_right (by decide) hty
  refine ⟨fun hready hal => ⟨fun hf hfwd => ?_, fun hf hfwd l hhbm hline hl => ?_, fun hf hfwd hinj hmiss => ?_, fun hf hfree => ?_⟩,
    fun hready hal hfwd hinj hmiss => ?_⟩
  · exact ⟨_, exec_ld_global hready hal hglobal, State.forwarded_outcome (s.taken_unsent ..) hpage (hplain hf) hfwd⟩
  · exact ⟨_, exec_ld_global hready hal hglobal, State.cached_outcome (s.taken_unsent ..) hpage (hplain hf) hfwd hhbm hline hl⟩
  · exact ⟨_, exec_ld_global hready hal hglobal,
      State.home_outcome (s.taken_unsent ..) (s.taken_unread [a.base] (some dst)) hpage (hplain hf) hfwd hinj hmiss⟩
  · exact ⟨_, exec_ld_global hready hal hglobal,
      State.fine_outcome (s.taken_unsent ..) (s.taken_unread [a.base] (some dst)) hpage (hfineIff.1 hf) hfree hsmall⟩
  · exact ⟨_, exec_vld_global hready hal hglobal,
      State.home_outcome (s.taken_unsent ..) (s.taken_unread [a.base] none) hpage hnoburst hfwd hinj hmiss⟩

end Sys2Proof.Machine
end

section
/-! PROOFS. Stores to global memory (O18): the write-combining buffer. -/

namespace Sys2Proof.Machine

/-! ### The bytes a store puts into an entry -/

theorem bit_eq_testBit (x k : Nat) : bit x k = x.testBit k := by
  rw [bit, Nat.testBit_eq_decide_div_mod_eq]
  rfl
theorem bit_lineMask {off n k : Nat} (hk : k < n) (hfit : off + n ≤ 64) : bit (lineMask off n).toNat (off + k) = true := by
  rw [bit_eq_testBit, lineMask, BitVec.toNat_ofNat, Nat.testBit_mod_two_pow, Nat.testBit_mul_two_pow, Nat.add_sub_cancel_left,
    Nat.testBit_two_pow_sub_one]
  simp only [Bool.and_eq_true, decide_eq_true_eq]
  omega
theorem getElem_putBytes {l bs : List Byte} {off k : Nat} (hk : k < bs.length) (hfit : off + bs.length ≤ l.length) :
    (putBytes l off bs)[off + k]? = bs[k]? := by
  have htake : (l.take off).length = off := List.length_take_of_le (by omega)
  rw [putBytes, List.append_assoc, List.getElem?_append_right (by omega), htake, Nat.add_sub_cancel_left, List.getElem?_append_left hk]

/-! ### Forwarding -/

/-- The only entry of a line, open, with the bytes of a span. -/
structure Core.Supplies (x : Core) (w : WC) (pa : Nat) (bs : List Byte) : Prop where
  mem : w ∈ x.wcb
  line : w.pa = alignDown 64 pa
  alone : ∀ u ∈ x.wcb, u.pa = w.pa → u = w
  isOpen : w.closed = false
  has : ∀ k < bs.length, bit w.mask.toNat ((pa + k) % 64) = true ∧ w.data[(pa + k) % 64]? = bs[k]?

theorem Core.Supplies.forward {x : Core} {w : WC} {pa : Nat} {bs : List Byte} (h : x.Supplies w pa bs) :
    x.forward pa bs.length = bs.map some := by
  refine List.ext_getElem (by simp [Core.forward]) fun k hk _ => ?_
  have hk : k < bs.length := by simpa [Core.forward] using hk
  obtain ⟨hbit, hdata⟩ := h.has k hk
  have hnot : x.behindAtomic w = false := by rw [Core.behindAtomic, h.isOpen]; rfl
  have hw : w ∈ x.wcb.filter (fun w => w.pa == alignDown 64 pa && bit w.mask.toNat ((pa + k) % 64) && !x.behindAtomic w) :=
    List.mem_filter.2 ⟨h.mem, by simp [h.line, hbit, hnot]⟩
  obtain ⟨u, hu⟩ := Option.ne_none_iff_exists'.1 (mt List.getLast?_eq_none_iff.1 (List.ne_nil_of_mem hw))
  obtain ⟨humem, huline⟩ := List.mem_filter.1 (List.mem_of_getLast? hu)
  have hline : u.pa = w.pa := by
    rw [h.line]
    simp only [Bool.and_eq_true, beq_iff_eq] at huline
    exact huline.1.1
  simp only [Core.forward, List.getElem_map, List.getElem_range, hu, h.alone u humem hline, hdata, List.getElem?_eq_getElem hk]
/-- What is sent from the buffer is closed, so an open entry still supplies its bytes. -/
theorem Core.Supplies.drained {x y : Core} {w : WC} {pa : Nat} {bs : List Byte} (h : x.Supplies w pa bs) (hxy : x.Drained y)
    (htok : ∀ v ∈ x.wcb, v.closed = true → v.tok ≠ w.tok) : y.Supplies w pa bs := by
  obtain ⟨p, hp, hkeep⟩ := hxy.wcb
  exact { h with
    mem := by rw [hp]; exact List.mem_filter.2 ⟨h.mem, hkeep w htok⟩
    alone := fun u hu => h.alone u (List.mem_of_mem_filter (hp ▸ hu)) }

/-! ### The units a store touches -/

/-- The part of a store that touches the TLB, the read cache and the buffer's timers. -/
def State.touchWc (s : State) (e : TlbE) (pa : Nat) : State :=
  (((s.useTlb s.curCore e).cacheDrop s.curCore pa).pump s.curCore).sched Config.wcIdle (.wcIdleTimeout s.curCore (alignDown 64 pa))

theorem State.touchWc_unsent (s : State) (e : TlbE) (pa : Nat) : (s.touchWc e pa).unsent = s.unsent := by
  rw [State.touchWc, State.sched_unsent, State.pump_unsent, State.cacheDrop_unsent, State.useTlb_unsent]
theorem State.touchWc_forward {s : State} {w : WC} {pa : Nat} {bs : List Byte} (e : TlbE) (h : (s.core s.curCore).Supplies w pa bs)
    (htok : ∀ v ∈ (s.core s.curCore).wcb, v.closed = true → v.tok ≠ w.tok) :
    ((s.touchWc e pa).core s.curCore).forward pa bs.length = bs.map some := by
  have hwcb : (((s.useTlb s.curCore e).cacheDrop s.curCore pa).core s.curCore).wcb = (s.core s.curCore).wcb :=
    (congrArg Core.wcb (s.useTlb_unread s.curCore s.curCore e) :)
  refine Core.Supplies.forward (w := w) ?_
  refine Core.Supplies.drained (x := ((s.useTlb s.curCore e).cacheDrop s.curCore pa).core s.curCore) ?_
    (State.pump_drained _ s.curCore s.curCore) (by rwa [hwcb])
  exact { h with
    mem := by rw [hwcb]; exact h.mem
    alone := by rw [hwcb]; exact h.alone }
theorem State.mem_touchWc (s : State) (e : TlbE) (pa : Nat) :
    (s.now + 256, Instr.wcIdleTimeout s.curCore (alignDown 64 pa)) ∈ (s.touchWc e pa).agenda := by
  have hnow : (((s.useTlb s.curCore e).cacheDrop s.curCore pa).pump s.curCore).now = s.now :=
    (congrArg State.now (((State.pump_unsent _ s.curCore).trans (State.cacheDrop_unsent _ s.curCore pa)).trans (s.useTlb_unsent s.curCore e)) :)
  rw [← hnow]
  exact State.mem_sched _ 256 _

/-! ### The store, once its operands are taken -/

/-- The entry a store to a line the buffer does not hold takes; `s` is the state it was issued in, `t` that with the operands taken. -/
def State.newWc (s t : State) (e : TlbE) (va : Nat) (bs : List Byte) : WC :=
  { pa := alignDown 64 (e.phys va), va := alignDown 64 va, space := t.spaceOf t.curCore, mask := lineMask (e.phys va % 64) bs.length,
    data := putBytes (List.replicate 64 0) (e.phys va % 64) bs, owners := [t.curCtx], tok := t.tok, last := t.now, closed := false,
    after := t.me.barrier ++ ((s.core s.curCore).wcb.filter (fun w => w.pa == alignDown 64 (e.phys va))).map (·.tok),
    res := hasAttr e.attr attrRES, size := e.size }
/-- An entry with a store merged into it. -/
def State.mergedWc (s : State) (w : WC) (pa : Nat) (bs : List Byte) : WC :=
  { w with
    mask := w.mask ||| lineMask (pa % 64) bs.length
    data := putBytes w.data (pa % 64) bs
    owners := if w.owners.contains s.curCtx then w.owners else w.owners ++ [s.curCtx]
    last := s.now
    after := w.after ++ s.me.barrier
    closed := w.mask ||| lineMask (pa % 64) bs.length == BitVec.allOnes 64 }

section
variable {s t : State} {e : TlbE} {va : Nat} {bs : List Byte}

theorem State.wcStore_takes (hnone : ∀ w ∈ (s.core s.curCore).wcb, w.pa ≠ alignDown 64 (e.phys va)) (hroom : s.wcbUsed s.curCore < 8) :
    s.wcStore e va bs = .ok (fun t => ((t.newTok.modCore t.curCore (fun x => { x with wcb := x.wcb ++ [s.newWc t e va bs] })).touchWc
      e (e.phys va)).advance) := by
  have hfind : (s.core s.curCore).wcb.find? (fun w => w.pa == alignDown 64 (e.phys va) && !w.closed) = none := by
    rw [List.find?_eq_none]
    intro w hw
    simp [hnone w hw]
  simp only [State.wcStore, hfind, if_pos hroom]
  rfl
theorem State.wcStore_merges {w : WC} (hw : w ∈ (s.core s.curCore).wcb) (hline : w.pa = alignDown 64 (e.phys va)) (hopen : w.closed = false)
    (halone : ∀ u ∈ (s.core s.curCore).wcb, u.pa = w.pa → u = w) :
    s.wcStore e va bs = .ok (fun t => ((t.modCore t.curCore (fun x =>
      { x with wcb := x.wcb.map (fun v => if v.tok = w.tok then s.mergedWc w (e.phys va) bs else v) })).touchWc e (e.phys va)).advance) := by
  have hfind : (s.core s.curCore).wcb.find? (fun w => w.pa == alignDown 64 (e.phys va) && !w.closed) = some w := by
    obtain ⟨u, hu⟩ := Option.isSome_iff_exists.1 (List.find?_isSome.2
      ⟨w, hw, by simp [hline, hopen]⟩ : ((s.core s.curCore).wcb.find? (fun w => w.pa == alignDown 64 (e.phys va) && !w.closed)).isSome)
    have huline := List.find?_some hu
    simp only [Bool.and_eq_true, beq_iff_eq] at huline
    rw [hu, halone u (List.mem_of_find?_eq_some hu) (huline.1.trans hline.symm)]
  simp only [State.wcStore, hfind]
  rfl

/-- An aligned span lies within its line. -/
theorem add_le_line {n : Nat} (hn : n ∣ 64) (hal : va % n = 0) : va % 64 + n ≤ 64 := by
  obtain ⟨m, hm⟩ := hn
  obtain ⟨q, hq⟩ := Nat.dvd_of_mod_eq_zero hal
  have hpos : 0 < n := Nat.pos_of_ne_zero (by rintro rfl; omega)
  have hmod : va % 64 = n * (q % m) := by rw [hq, hm, Nat.mul_mod_mul_left]
  have hlt : q % m < m := Nat.mod_lt _ (Nat.pos_of_ne_zero (by rintro rfl; omega))
  calc va % 64 + n = n * (q % m + 1) := by rw [hmod, Nat.mul_succ]
    _ ≤ n * m := Nat.mul_le_mul_left n hlt
    _ = 64 := hm.symm

/-- The span of a store in its line: byte `k` of it is byte `pa % 64 + k` of the line. -/
theorem mod_line_add {pa n k : Nat} (hfit : pa % 64 + n ≤ 64) (hk : k < n) : (pa + k) % 64 = pa % 64 + k := by omega

/-- An open entry supplies what was merged into it. -/
theorem Core.Supplies.merged {x y : Core} {w : WC}
    (hy : y.wcb = x.wcb.map (fun v => if v.tok = w.tok then s.mergedWc w (e.phys va) bs else v)) (hw : w ∈ x.wcb)
    (hline : w.pa = alignDown 64 (e.phys va)) (hlen : w.data.length = 64) (halone : ∀ u ∈ x.wcb, u.pa = w.pa → u = w)
    (hopen : (s.mergedWc w (e.phys va) bs).closed = false) (hfit : e.phys va % 64 + bs.length ≤ 64) :
    y.Supplies (s.mergedWc w (e.phys va) bs) (e.phys va) bs where
  mem := by
    rw [hy]
    exact List.mem_map.2 ⟨w, hw, if_pos rfl⟩
  line := hline
  alone := by
    intro v hv hpa
    rw [hy] at hv
    obtain ⟨o, ho, rfl⟩ := List.mem_map.1 hv
    split at hpa
    · exact if_pos ‹_›
    · next hne => exact absurd (congrArg WC.tok (halone o ho hpa)) hne
  isOpen := hopen
  has := by
    intro k hk
    rw [mod_line_add hfit hk]
    refine ⟨?_, getElem_putBytes hk (by rwa [hlen])⟩
    have hbit := bit_lineMask hk hfit
    rw [bit_eq_testBit] at hbit ⊢
    show (w.mask ||| lineMask (e.phys va % 64) bs.length).toNat.testBit _ = true
    rw [BitVec.toNat_or, Nat.testBit_or, hbit, Bool.or_true]

variable (htaken : t.unsent = s.unsent) (hunread : ∀ k, (t.core k).unread = (s.core k).unread)
variable (hfit : e.phys va % 64 + bs.length ≤ 64)
include htaken hunread hfit

theorem State.wcStore_takes_outcome (hnone : ∀ w ∈ (s.core s.curCore).wcb, w.pa ≠ alignDown 64 (e.phys va) ∧ w.tok < s.tok)
    (hroom : s.wcbUsed s.curCore < 8) :
    let t' := (s.wcStore e va bs).run s t
    s.onlyPc t' ∧ t'.mem = s.mem ∧ (t'.core s.curCore).forward (e.phys va) bs.length = bs.map some
      ∧ (s.now + 256, Instr.wcIdleTimeout s.curCore (alignDown 64 (e.phys va))) ∈ t'.agenda := by
  have hcore : t.curCore = s.curCore := (congrArg State.curCore htaken :)
  have hnow : t.now = s.now := (congrArg State.now htaken :)
  have htok : t.tok = s.tok := (congrArg State.tok htaken :)
  rw [State.wcStore_takes (fun w hw => (hnone w hw).1) hroom]
  have hold : (t.core s.curCore).wcb = (s.core s.curCore).wcb := (congrArg Core.wcb (hunread s.curCore) :)
  dsimp only [Eff.run]
  generalize hu : t.newTok.modCore t.curCore (fun x => { x with wcb := x.wcb ++ [s.newWc t e va bs] }) = u
  have hunsent : u.unsent = t.newTok.unsent := hu ▸ State.modCore_unsent ..
  have hucore : u.curCore = s.curCore := (congrArg State.curCore hunsent :).trans hcore
  have hwcb : (u.core s.curCore).wcb = (s.core s.curCore).wcb ++ [s.newWc t e va bs] := by
    rw [← hu, hcore, State.core_modCore_self]
    show (t.core s.curCore).wcb ++ _ = _
    rw [hold]
  have hall : (u.touchWc e (e.phys va)).unsent = t.newTok.unsent := (u.touchWc_unsent e _).trans hunsent
  have hforward : ((u.touchWc e (e.phys va)).core s.curCore).forward (e.phys va) bs.length = bs.map some := by
    rw [← hucore]
    refine State.touchWc_forward (w := s.newWc t e va bs) e ?_ ?_
    · rw [hucore]
      refine ⟨by simp [hwcb], rfl, fun v hv hpa => ?_, rfl, fun k hk => ?_⟩
      · rw [hwcb, List.mem_append, List.mem_singleton] at hv
        exact hv.resolve_left fun hv => (hnone v hv).1 hpa
      · rw [mod_line_add hfit hk]
        exact ⟨bit_lineMask hk hfit, getElem_putBytes hk (by simpa using hfit)⟩
    · rw [hucore, hwcb]
      intro v hv hclosed
      rcases List.mem_append.1 hv with hv | hv
      · show v.tok ≠ t.tok
        rw [htok]
        exact (hnone v hv).2.ne
      · rw [List.mem_singleton.1 hv] at hclosed
        cases hclosed
  have htimer : (s.now + 256, Instr.wcIdleTimeout s.curCore (alignDown 64 (e.phys va))) ∈ (u.touchWc e (e.phys va)).agenda := by
    have hunow : u.now = s.now := (congrArg State.now hunsent :).trans hnow
    rw [← hucore, ← hunow]
    exact u.mem_touchWc e _
  generalize u.touchWc e (e.phys va) = q at *
  have hmem : q.mem = t.mem := (congrArg State.mem hall :)
  have hctxs : q.ctxs = t.ctxs := (congrArg State.ctxs hall :)
  have hqcore : q.curCore = t.curCore := (congrArg State.curCore hall :)
  have hqctx : q.curCtx = t.curCtx := (congrArg State.curCtx hall :)
  have hqlen : q.curLen = t.curLen := (congrArg State.curLen hall :)
  exact ⟨State.onlyPc_advance_of_ctxs (hctxs.trans (congrArg State.ctxs htaken :)) (hqcore.trans hcore)
    (hqctx.trans (congrArg State.curCtx htaken :)) (hqlen.trans (congrArg State.curLen htaken :)),
    hmem.trans (congrArg State.mem htaken :), hforward, htimer⟩

theorem State.wcStore_merges_outcome {w : WC} (hw : w ∈ (s.core s.curCore).wcb) (hline : w.pa = alignDown 64 (e.phys va))
    (hopen : w.closed = false) (hlen : w.data.length = 64) (halone : ∀ u ∈ (s.core s.curCore).wcb, u.pa = w.pa → u = w) :
    let t' := (s.wcStore e va bs).run s t
    s.onlyPc t' ∧ t'.mem = s.mem ∧ (w.mask ||| lineMask (e.phys va % 64) bs.length ≠ BitVec.allOnes 64 →
      (t'.core s.curCore).forward (e.phys va) bs.length = bs.map some) := by
  have hcore : t.curCore = s.curCore := (congrArg State.curCore htaken :)
  rw [State.wcStore_merges hw hline hopen halone]
  dsimp only [Eff.run]
  generalize hu : t.modCore t.curCore (fun x =>
      { x with wcb := x.wcb.map (fun v => if v.tok = w.tok then s.mergedWc w (e.phys va) bs else v) }) = u
  have hunsent : u.unsent = s.unsent := hu ▸ (State.modCore_unsent ..).trans htaken
  have hucore : u.curCore = s.curCore := (congrArg State.curCore hunsent :)
  have hwcb : (u.core s.curCore).wcb
      = (s.core s.curCore).wcb.map (fun v => if v.tok = w.tok then s.mergedWc w (e.phys va) bs else v) := by
    rw [← hu, hcore, State.core_modCore_self]
    have hold : (t.core s.curCore).wcb = (s.core s.curCore).wcb := (congrArg Core.wcb (hunread s.curCore) :)
    show (t.core s.curCore).wcb.map _ = _
    rw [hold]
  have hall : (u.touchWc e (e.phys va)).unsent = s.unsent := (u.touchWc_unsent e _).trans hunsent
  refine ⟨State.onlyPc_advance_of_unsent hall, (congrArg State.mem hall :), fun hpartial => ?_⟩
  have hforward : ((u.touchWc e (e.phys va)).core s.curCore).forward (e.phys va) bs.length = bs.map some := by
    have hmergedOpen : (s.mergedWc w (e.phys va) bs).closed = false := by simpa [State.mergedWc] using hpartial
    rw [← hucore]
    refine State.touchWc_forward (w := s.mergedWc w (e.phys va) bs) e ?_ ?_
    · rw [hucore]
      exact Core.Supplies.merged hwcb hw hline hlen halone hmergedOpen hfit
    · rw [hucore, hwcb]
      intro v hv hclosed
      obtain ⟨o, ho, rfl⟩ := List.mem_map.1 hv
      split at hclosed
      · rw [hmergedOpen] at hclosed
        cases hclosed
      · rwa [if_neg ‹_›]
  generalize u.touchWc e (e.phys va) = q at *
  exact hforward

end

/-! ### The instructions -/

theorem storeAt_global {s : State} {va n v : Nat} {e : TlbE} (hal : va % n = 0) (hpage : s.pageFits va attrW e) :
    s.storeAt va (leBytes n v) = s.wcStore e va (leBytes n v) := by
  have hglobal := hpage.1
  have hlocal : ¬(va < Config.spadSize ∧ (!isSteward s.curCore) = true) := fun h => not_local_of_isGlobal hglobal h.1
  have haperture : ¬(isAperture va = true ∧ (!isSteward s.curCore) = true) := fun h => by
    have hlow : va < 0x60000000 := by
      have := h.1
      rw [isAperture, Bool.and_eq_true, decide_eq_true_eq, decide_eq_true_eq] at this
      exact this.2
    have hhigh : Config.globalBase ≤ va := by
      rw [isGlobal, Bool.and_eq_true, decide_eq_true_eq] at hglobal
      exact hglobal.1
    have : 0x60000000 ≤ Config.globalBase := by decide
    omega
  simp only [State.storeAt, length_leBytes, hal, ne_eq, not_true_eq_false, if_false, if_neg hlocal, if_neg haperture, if_pos hglobal,
    State.withPage_of_fits hpage]

/-- Settles O18: the buffer then holds one open entry of the line, with the bytes. -/
theorem globalStores : Obligations.GlobalStores := by
  intro s ty src v a e va pa x done hpage
  have hst (hready : s.ready [src, a.base] none = true) (hal : va % 2 ^ (ty.toNat / 2) = 0) : exec (.st ty src a) s
      = .next ((s.wcStore e va (leBytes (2 ^ (ty.toNat / 2)) (s.srcVal src).toNat)).run s (s.taken [src, a.base] none)) := by
    show execSt ty src a s = _
    rw [execSt, State.runOp_ready hready]
    exact congrArg (fun e => Host.Outcome.next (Eff.run s _ e)) (storeAt_global hal hpage)
  have hvst (hready : s.ready [a.base] none = true) (hal : va % 32 = 0) : exec (.vst v a) s
      = .next ((s.wcStore e va (leBytes 32 (s.me.readV v).toNat)).run s (s.taken [a.base] none)) := by
    show execVst v a s = _
    rw [execVst, State.runOp_ready hready]
    exact congrArg (fun e => Host.Outcome.next (Eff.run s _ e)) (storeAt_global hal hpage)
  have hline {n b : Nat} (hn : n ∣ 64) (hal : va % n = 0) : pa % 64 + (leBytes n b).length ≤ 64 := by
    rw [length_leBytes, hpage.2.2.2]
    exact add_le_line hn hal
  have hdvd : 2 ^ (ty.toNat / 2) ∣ 64 := Nat.pow_dvd_pow 2 (show ty.toNat / 2 ≤ 6 by have := ty.isLt; omega)
  refine ⟨fun hready hal => ⟨fun hnone hroom => ?_, fun w hw hpa hopen hlen halone => ?_⟩,
    fun hready hal => ⟨fun hnone hroom => ?_, fun w hw hpa hopen hlen halone => ?_⟩⟩
  · exact ⟨_, hst hready hal, State.wcStore_takes_outcome (s.taken_unsent ..) (s.taken_unread [src, a.base] none) (hline hdvd hal) hnone hroom⟩
  · exact ⟨_, hst hready hal, State.wcStore_merges_outcome (s.taken_unsent ..) (s.taken_unread [src, a.base] none) (hline hdvd hal)
      hw hpa hopen hlen halone⟩
  · exact ⟨_, hvst hready hal, State.wcStore_takes_outcome (s.taken_unsent ..) (s.taken_unread [a.base] none) (hline (by decide) hal) hnone hroom⟩
  · exact ⟨_, hvst hready hal, State.wcStore_merges_outcome (s.taken_unsent ..) (s.taken_unread [a.base] none) (hline (by decide) hal)
      hw hpa hopen hlen halone⟩

end Sys2Proof.Machine
end

section
/-! PROOFS. Remote stores (O19). -/

namespace Sys2Proof.Machine

/-! ### Releases -/

/-- The numbers a release of an object waits for. -/
def Core.releaseToks (x : Core) (now n : Nat) (o : Obj) : List Nat :=
  (x.wcb.filter (fun w => overlaps (x.boundTo now o) w.va 64)).map (·.tok) ++ x.unacked.filterMap (fun u => match u.kind with
    | .wc _ va => if overlaps (x.boundTo now o) va 64 then some u.tok else none
    | .atomic _ va => if u.ctxs.contains n && overlaps (x.boundTo now o) va 8 then some u.tok else none
    | .remote _ | .xread .. => none)

theorem State.releaseBound_toks (s : State) (c n : Nat) (o : Obj) : (s.releaseBound c n o).2 = (s.core c).releaseToks s.now n o := rfl
theorem Core.releaseToks_congr {x y : Core} (h : y.unread = x.unread) (now n : Nat) (o : Obj) :
    y.releaseToks now n o = x.releaseToks now n o := (congrArg (fun z : Core => z.releaseToks now n o) h :)
theorem Core.remoteToks_congr {x y : Core} (h : y.unread = x.unread) (n : Nat) : y.remoteToks n = x.remoteToks n :=
  (congrArg (fun z : Core => z.remoteToks n) h :)
theorem State.releaseBound_unsent (s : State) (c n : Nat) (o : Obj) : (s.releaseBound c n o).1.unsent = s.unsent := s.closeWc_unsent c _
/-- Entries that begin to drain change nothing else of the core's sending part. -/
theorem State.closeWc_core (s : State) (c : Nat) (f : WC → Bool) :
    ((s.closeWc c f).core c).inj = (s.core c).inj ∧ ((s.closeWc c f).core c).team = (s.core c).team
      ∧ ∀ n, ((s.closeWc c f).core c).remoteToks n = (s.core c).remoteToks n := by
  have hpump := (s.modCore c (fun x => { x with wcb := x.wcb.map (fun w => if f w then { w with closed := true } else w) })).pump_drained c c
  rw [State.core_modCore_self] at hpump
  obtain ⟨us, hus, hkind⟩ := hpump.unacked
  have hframe := hpump.frame
  refine ⟨(congrArg Core.inj hframe :), (congrArg Core.team hframe :), fun n => ?_⟩
  unfold Core.remoteToks State.closeWc
  have hnone : us.filterMap (fun u => match u.kind with
      | .remote _ => if u.ctxs.contains n then some u.tok else none
      | _ => none) = [] := by
    refine List.filterMap_eq_nil_iff.2 fun u hu => ?_
    obtain ⟨pa, va, hwc⟩ := hkind u hu
    rw [hwc]
  rw [hus, List.filterMap_append]
  exact (congrArg _ hnone).trans (List.append_nil _)

/-! ### Sending a remote store -/

/-- An unacknowledged operation and its packet or request. -/
theorem State.send_units {s u : State} (hinj : (u.core s.curCore).inj = (s.core s.curCore).inj) (hnow : u.now = s.now) (htok : u.tok = s.tok)
    (k : OutKind) (b : InjBody) (after : List Nat) :
    let t := (u.newTok.newOut s.curCore s.curCtx s.tok k).inject s.curCore b after
    s.injects t b after ∧ s.sends t k ∧ t.unsent = u.newTok.unsent := by
  have hq : ((u.newTok.newOut s.curCore s.curCtx s.tok k).core s.curCore).inj = (s.core s.curCore).inj := by
    unfold State.newOut
    rw [State.core_modCore_self]
    exact hinj
  have hmark : (⟨s.tok, [s.curCtx], k⟩ : Out) ∈ ((u.newTok.newOut s.curCore s.curCtx s.tok k).core s.curCore).unacked := by
    unfold State.newOut
    rw [State.core_modCore_self]
    exact List.mem_append_right _ (List.mem_singleton.2 rfl)
  have hall := (State.inject_unsent (u.newTok.newOut s.curCore s.curCtx s.tok k) s.curCore b after).trans (State.newOut_unsent ..)
  exact ⟨State.injects_inject hq hnow, ⟨State.mem_inject_unacked _ hmark, (congrArg State.tok hall :).trans (congrArg (· + 1) htok)⟩, hall⟩
/-- The same, and the context goes on. -/
theorem State.send_outcome {s u : State} (hu : u.unsent = s.unsent) (hinj : (u.core s.curCore).inj = (s.core s.curCore).inj)
    (k : OutKind) (b : InjBody) (after : List Nat) :
    let t := ((u.newTok.newOut s.curCore s.curCtx s.tok k).inject s.curCore b after).advance
    s.injects t b after ∧ s.sends t k ∧ s.onlyPc t ∧ t.mem = s.mem := by
  obtain ⟨hinjects, hsends, hall⟩ := State.send_units hinj (congrArg State.now hu :) (congrArg State.tok hu :) k b after
  generalize (u.newTok.newOut s.curCore s.curCtx s.tok k).inject s.curCore b after = q at *
  have hmem : q.mem = u.mem := (congrArg State.mem hall :)
  have hctxs : q.ctxs = u.ctxs := (congrArg State.ctxs hall :)
  have hcore : q.curCore = u.curCore := (congrArg State.curCore hall :)
  have hctx : q.curCtx = u.curCtx := (congrArg State.curCtx hall :)
  have hlen : q.curLen = u.curLen := (congrArg State.curLen hall :)
  exact ⟨hinjects, hsends,
    State.onlyPc_advance_of_ctxs (hctxs.trans (congrArg State.ctxs hu :)) (hcore.trans (congrArg State.curCore hu :))
      (hctx.trans (congrArg State.curCtx hu :)) (hlen.trans (congrArg State.curLen hu :)), hmem.trans (congrArg State.mem hu :)⟩

/-- What sending a remote store leaves: a packet, its mark, and the frame. -/
def State.sentTo (s t : State) (cls : PktClass) (c : Nat) (b : PktBody) (rel : List Nat) : Prop :=
  s.injects t (.pkt (s.pktTo cls c b)) (s.me.barrier ++ rel) ∧ s.sends t (.remote c) ∧ s.onlyPc t ∧ t.mem = s.mem

theorem State.sentTo_remote {s u : State} (hu : u.unsent = s.unsent) (hinj : (u.core s.curCore).inj = (s.core s.curCore).inj)
    (hteam : (u.core s.curCore).team = (s.core s.curCore).team) (cls : PktClass) (c : Nat) (b : PktBody) (rel : List Nat) :
    s.sentTo (u.remote cls c b rel) cls c b rel := by
  have hcore : u.curCore = s.curCore := (congrArg State.curCore hu :)
  have hctx : u.curCtx = s.curCtx := (congrArg State.curCtx hu :)
  have htok : u.tok = s.tok := (congrArg State.tok hu :)
  have hprio : u.pktPrio s.curCore = s.pktPrio s.curCore := by
    unfold State.pktPrio
    rw [State.teamOf_congr hteam (congrArg State.teams hu :)]
  unfold State.remote
  rw [hcore, hctx, htok, hprio, State.me_of_unsent hu]
  exact State.send_outcome hu hinj (.remote c) (.pkt (s.pktTo cls c b)) (s.me.barrier ++ rel)

section
variable {s : State} {va c off : Nat} {srcs : List Reg}

/-- A plain store, once its operands are taken. -/
theorem State.sentTo_plain (b : PktBody) : s.sentTo ((s.taken srcs none).remote .data c b []) .data c b [] := by
  have hunread := s.taken_unread srcs none s.curCore
  exact State.sentTo_remote (s.taken_unsent srcs none) (congrArg Core.inj hunread :) (congrArg Core.team hunread :) _ _ _ _
/-- A releasing store, once its operands are taken (R203). -/
theorem State.sentTo_release (b : PktBody) (o : Obj) :
    let t := s.taken srcs none
    let r := t.releaseBound t.curCore t.curCtx o
    s.sentTo (r.1.remote .sync c b (r.2 ++ (r.1.core t.curCore).remoteToks t.curCtx)) .sync c b
      ((s.releaseBound s.curCore s.curCtx o).2 ++ (s.core s.curCore).remoteToks s.curCtx) := by
  intro t r
  have hunread := s.taken_unread srcs none s.curCore
  have htaken : t.unsent = s.unsent := s.taken_unsent srcs none
  have hcore : t.curCore = s.curCore := (congrArg State.curCore htaken :)
  have hctx : t.curCtx = s.curCtx := (congrArg State.curCtx htaken :)
  have hnow : t.now = s.now := (congrArg State.now htaken :)
  have hr : r = t.releaseBound s.curCore s.curCtx o := by
    show t.releaseBound t.curCore t.curCtx o = _
    rw [hcore, hctx]
  obtain ⟨hinj, hteam, hremote⟩ :=
    t.closeWc_core s.curCore (fun w => overlaps ((t.core s.curCore).boundTo t.now o) w.va 64)
  have hrel : r.2 ++ (r.1.core t.curCore).remoteToks t.curCtx
      = (s.releaseBound s.curCore s.curCtx o).2 ++ (s.core s.curCore).remoteToks s.curCtx := by
    rw [hr, hcore, hctx, State.releaseBound_toks, State.releaseBound_toks, hnow, Core.releaseToks_congr hunread]
    exact congrArg _ ((hremote s.curCtx).trans (Core.remoteToks_congr hunread _))
  rw [hrel, hr]
  exact State.sentTo_remote ((t.releaseBound_unsent ..).trans htaken) (hinj.trans (congrArg Core.inj hunread :))
    (hteam.trans (congrArg Core.team hunread :)) _ _ _ _

/-! ### Aperture addresses -/

/-- The address names a core the team reaches, and there is room to inject. -/
def State.opensTo (s : State) (va c off : Nat) : Prop :=
  apertureOf va = some (c, off) ∧ (s.core s.curCore).injFree = true
    ∧ ∃ t u, s.teamOf s.curCore = some (t, u) ∧ s.reaches u c = true

theorem State.aperture_open (h : s.opensTo va c off) (f : Nat → Nat → State → State) :
    s.aperture va (fun c off => s.withInj (.ok (f c off))) = .ok (f c off) := by
  obtain ⟨hap, hinj, t, u, hteam, hreach⟩ := h
  simp only [State.aperture, hap, hteam, hreach, State.withInj, hinj, if_true]
theorem State.aperture_foreign {t : Nat} {u : Team} (hap : apertureOf va = some (c, off)) (hteam : s.teamOf s.curCore = some (t, u))
    (hreach : s.reaches u c = false) (k : Nat → Nat → Eff) : s.aperture va k = eFault .teamBounds va 0 := by
  simp only [State.aperture, hap, hteam, hreach, Bool.false_eq_true, if_false]
theorem State.aperture_none (hap : apertureOf va = none) (k : Nat → Nat → Eff) : s.aperture va k = eFault .bounds va 0 := by
  simp only [State.aperture, hap]
theorem isAperture_of_apertureOf (h : apertureOf va = some (c, off)) : isAperture va = true := by
  unfold apertureOf at h
  split at h
  · next hall =>
    simp only [Bool.and_eq_true] at hall
    exact hall.1.1
  · cases h
theorem State.storeAt_aperture {n v : Nat} (hst : isSteward s.curCore = false) (hal : va % n = 0) (hap : isAperture va = true) :
    s.storeAt va (leBytes n v) = s.aperture va (fun c off => s.withInj (.ok (fun t => t.remote .data c (.store off (leBytes n v)) []))) := by
  have hlocal : ¬ va < Config.spadSize := fun h => by
    rw [not_isAperture_of_lt h] at hap
    cases hap
  simp only [State.storeAt, length_leBytes, hal, ne_eq, not_true_eq_false, if_false, hlocal, false_and, hap, hst, Bool.not_false, and_self,
    if_true]

end

/-! ### The instructions -/

section
variable {s : State} {ty : BitVec 3} {src dw : Reg} {v : Fin 16} {a : Addr} {k : RstKind}

theorem exec_st_aperture (hready : s.ready [src, a.base] none = true) (hst : isSteward s.curCore = false)
    (hal : s.ea a % 2 ^ (ty.toNat / 2) = 0) (hap : isAperture (s.ea a) = true) : exec (.st ty src a) s
      = .next ((s.aperture (s.ea a) (fun c off => s.withInj (.ok (fun t =>
          t.remote .data c (.store off (leBytes (2 ^ (ty.toNat / 2)) (s.srcVal src).toNat)) [])))).run s (s.taken [src, a.base] none)) := by
  show execSt ty src a s = _
  rw [execSt, State.runOp_ready hready]
  exact congrArg (fun e => Host.Outcome.next (Eff.run s _ e)) (State.storeAt_aperture hst hal hap)
theorem exec_vst_aperture (hready : s.ready [a.base] none = true) (hst : isSteward s.curCore = false)
    (hal : s.ea a % 32 = 0) (hap : isAperture (s.ea a) = true) : exec (.vst v a) s
      = .next ((s.aperture (s.ea a) (fun c off => s.withInj (.ok (fun t =>
          t.remote .data c (.store off (leBytes 32 (s.me.readV v).toNat)) [])))).run s (s.taken [a.base] none)) := by
  show execVst v a s = _
  rw [execVst, State.runOp_ready hready]
  exact congrArg (fun e => Host.Outcome.next (Eff.run s _ e)) (State.storeAt_aperture hst hal hap)

/-- What an RST of a form does to the state with its operands taken; `q` is the value of the datum-word operand. -/
def rstSend (k : RstKind) (v : Word) (q c off : Nat) (s : State) : State :=
  match k with
  | .accF32 | .accI32 | .accF16 => s.remote .data c (.acc (rstAcc k) off (leBytes (rstBytes k) v.toNat) none) []
  | .fe =>
    let r := s.releaseBound s.curCore s.curCtx (.fe c off)
    r.1.remote .sync c (.fe off v) (r.2 ++ (r.1.core s.curCore).remoteToks s.curCtx)
  | .dw =>
    let r := s.releaseBound s.curCore s.curCtx (.dw c q)
    r.1.remote .sync c (.dw off v q) (r.2 ++ (r.1.core s.curCore).remoteToks s.curCtx)
  | .accDwF32 | .accDwI32 | .accDwF16 =>
    let r := s.releaseBound s.curCore s.curCtx (.dw c q)
    r.1.remote .sync c (.acc (rstAcc k) off (leBytes (rstBytes k) v.toNat) (some q)) (r.2 ++ (r.1.core s.curCore).remoteToks s.curCtx)

/-- The value of the datum-word operand an RST has read: none where its form has none. -/
def rstDwVal (k : RstKind) (s : State) (dw : Reg) : Nat := if k.hasDw then (s.srcVal dw).toNat else 0

theorem exec_rst_aperture {c off : Nat} (hready : s.ready ([src, a.base] ++ (if k.hasDw then [dw] else [])) none = true)
    (hal : s.ea a % rstBytes k = 0) (hopen : s.opensTo (s.ea a) c off) : exec (.rst k src dw a) s
      = .next ((Eff.ok (rstSend k (s.srcVal src) (rstDwVal k s dw) c off)).run s
          (s.taken ([src, a.base] ++ (if k.hasDw then [dw] else [])) none)) := by
  have hbody : (if s.ea a % rstBytes k ≠ 0 then eFault .align (s.ea a) 0
      else s.aperture (s.ea a) (fun c off => s.withInj (.ok (rstSend k (s.srcVal src) (rstDwVal k s dw) c off))))
      = .ok (rstSend k (s.srcVal src) (rstDwVal k s dw) c off) := by
    rw [if_neg (by rw [hal]; exact fun h => h rfl)]
    exact State.aperture_open hopen (rstSend k (s.srcVal src) (rstDwVal k s dw))
  show execRst k src dw a s = _
  rw [execRst, State.runOp_ready hready]
  cases k <;> exact congrArg (fun e => Host.Outcome.next (Eff.run s _ e)) hbody

end

/-- Settles O19: the address decides between a packet and a fault; the form, which packet and what it waits for. -/
theorem remoteStores : Obligations.RemoteStores := by
  intro s ty k src dw v a va x n sent open_
  refine ⟨fun hready hst hal => ⟨fun c off hopen => ?_, fun c off t u hap hteam hreach => ?_, fun hap hnone => ?_⟩,
    fun hready hst hal c off hopen => ?_, fun hready hal c off hopen => ?_⟩
  · refine ⟨_, exec_st_aperture hready hst hal (isAperture_of_apertureOf hopen.1), ?_⟩
    rw [State.aperture_open hopen (fun c off t => t.remote .data c (.store off _) [])]
    exact State.sentTo_plain _
  · rw [exec_st_aperture hready hst hal (isAperture_of_apertureOf hap), State.aperture_foreign hap hteam hreach]
    rfl
  · rw [exec_st_aperture hready hst hal hap, State.aperture_none hnone]
    rfl
  · refine ⟨_, exec_vst_aperture hready hst hal (isAperture_of_apertureOf hopen.1), ?_⟩
    rw [State.aperture_open hopen (fun c off t => t.remote .data c (.store off _) [])]
    exact State.sentTo_plain _
  · refine ⟨_, exec_rst_aperture hready hal hopen, ?_⟩
    cases k
    case accF32 | accI32 | accF16 => exact State.sentTo_plain _
    case fe => exact State.sentTo_release _ _
    case dw | accDwF32 | accDwI32 | accDwF16 => exact State.sentTo_release _ _

end Sys2Proof.Machine
end

section
/-! PROOFS. Atomics (O20). -/

namespace Sys2Proof.Machine

/-! ### What an atomic waits for -/

theorem Core.wcToks_congr {x y : Core} (h : y.unread = x.unread) (pa : Nat) : y.wcToks pa = x.wcToks pa :=
  (congrArg (fun z : Core => z.wcToks pa) h :)
theorem Core.drainToks_congr {x y : Core} (h : y.unread = x.unread) (pa : Nat) : y.drainToks pa = x.drainToks pa :=
  (congrArg (fun z : Core => z.drainToks pa) h :)

section
variable {s : State} {pa : Nat} (hfree : s.lineFree pa)
include hfree

theorem State.drainToks_of_free : (s.core s.curCore).drainToks pa = [] := by
  obtain ⟨hwcb, hline, -⟩ := hfree
  rw [Core.drainToks, hline, List.append_nil, List.map_eq_nil_iff, List.filter_eq_nil_iff]
  simpa using hwcb
theorem State.wcToks_of_free : (s.core s.curCore).wcToks pa = [] := by
  obtain ⟨hwcb, hline, -⟩ := hfree
  rw [Core.lineToks, List.filterMap_eq_nil_iff] at hline
  rw [Core.wcToks, List.append_eq_nil_iff, List.map_eq_nil_iff, List.filter_eq_nil_iff, List.filterMap_eq_nil_iff]
  refine ⟨by simpa using hwcb, fun o ho => ?_⟩
  have hother := hline o ho
  cases hk : o.kind with
  | wc p va =>
    rw [hk] at hother
    have hne : p ≠ alignDown 64 pa := by
      rintro rfl
      rw [alignDown] at hother
      simp at hother
      omega
    simp [hne]
  | atomic p va => rfl
  | remote c => rfl
  | xread p va => rfl

end

/-! ### Frames -/

theorem State.modMe_unsent {s u : State} (h : u.unsent = s.unsent) (f : Ctx → Ctx) : (u.modMe f).unsent = (s.modMe f).unsent := by
  rw [State.eq_of_unsent h]
  rfl
/-- What no instruction that goes on changes is as it was. -/
structure Ctx.Kept (x y : Ctx) : Prop where
  regs : x.regsKept y []
  preds : x.predsKept y
  vecs : x.vecsKept y
  frame : x.frameKept y

/-- A context of which only what no register shows has changed goes on. -/
theorem State.onlyPc_advance_of_kept {s t : State} (hkept : s.me.Kept t.me) (hothers : s.othersKept t)
    (hkey : t.meKey = s.meKey) (hlen : t.curLen = s.curLen) : s.onlyPc t.advance := by
  obtain ⟨hregs, hpreds, hvecs, hframe⟩ := hkept
  refine ⟨fun r hr => ?_, fun k => ?_, ?_, ?_, State.othersKept_trans hothers hkey t.othersKept_advance, ?_⟩
  · rw [State.advance_read _ (by simpa using hr)]
    exact hregs r List.not_mem_nil
  · rw [State.advance_readP]
    exact hpreds k
  · rw [State.me_advance]
    exact hvecs
  · rw [State.me_advance]
    exact hframe
  · have hpc : t.me.pc = s.me.pc := hregs .pc List.not_mem_nil
    rw [State.advance_pc, hlen, hpc]
theorem Ctx.pend_kept (x : Ctx) (p : List Pend) : x.Kept { x with pend := p } where
  regs r _ := by cases r <;> rfl
  preds _ := rfl
  vecs := Ctx.vecsKept_congr rfl rfl rfl
  frame := ⟨rfl, rfl, rfl, rfl, rfl, rfl⟩
/-- A change of the acting context, once what is sent is left aside. -/
theorem State.onlyPc_advance_of_modMe {s t : State} {f : Ctx → Ctx} (hkept : s.me.Kept (f s.me)) (h : t.unsent = (s.modMe f).unsent) :
    s.onlyPc t.advance := by
  have hme : t.me = f s.me := (State.me_of_unsent h).trans (s.me_modMe f)
  have hctxs : t.ctxs = (s.modMe f).ctxs := (congrArg State.ctxs h :)
  have hcore : t.curCore = s.curCore := (congrArg State.curCore h :)
  have hctx : t.curCtx = s.curCtx := (congrArg State.curCtx h :)
  refine State.onlyPc_advance_of_kept (by rwa [hme]) (fun k hk => ?_) ?_ (congrArg State.curLen h :)
  · rw [hctxs]
    exact s.othersKept_modMe f k hk
  · unfold State.meKey
    rw [hcore, hctx]
theorem Ctx.addPend_eq (x : Ctx) (r : Reg) (tok : Nat) (b : Bool) : x.addPend r tok b = { x with pend := (x.addPend r tok b).pend } := by
  unfold Ctx.addPend
  split <;> rfl
theorem State.letGo_frame (s : State) (pa d : Nat) : s.letGo pa d = { s with holds := (s.letGo pa d).holds, agenda := (s.letGo pa d).agenda } := by
  unfold State.letGo
  split <;> rfl

theorem State.inject_mem (s : State) (c : Nat) (b : InjBody) (after : List Nat) : (s.inject c b after).mem = s.mem :=
  (congrArg State.mem (s.inject_unsent c b after) :)

/-! ### The requests -/

theorem homeOnly_hbm {pa va : Nat} (h : paKind pa = .hbm) (peer : Bool) (k : Eff) : homeOnly pa va peer k = k := by
  rw [homeOnly, h]
theorem homeOnly_reached {pa va : Nat} (h : paKind pa = .hbm ∨ ∃ l o, paKind pa = .peer l o) (k : Eff) : homeOnly pa va true k = k := by
  rcases h with h | ⟨l, o, h⟩ <;> rw [homeOnly, h]
  rfl
theorem atomicCheck_global {va al : Nat} (hal : va % al = 0) (hg : isGlobal va = true) (k : Eff) : atomicCheck va al k = k := by
  rw [atomicCheck, if_neg (by rw [hal]; exact fun h => h rfl), hg]
  rfl

section
variable {s t : State} {va pa : Nat} {e : TlbE}

theorem State.cacheDrop_core (s : State) (c pa k : Nat) : (s.cacheDrop c pa).core k = s.core k := rfl
/-- A state once its operands are taken, and it has the same to send. -/
structure State.TakenFrom (s t : State) : Prop where
  rest : t.unsent = s.unsent
  core : ∀ k, (t.core k).unread = (s.core k).unread

theorem State.takenFrom_taken (s : State) (srcs : List Reg) (dst : Option Reg) : s.TakenFrom (s.taken srcs dst) :=
  ⟨s.taken_unsent srcs dst, s.taken_unread srcs dst⟩

/-- The line drained, the translation used and the line dropped from the read cache. -/
def State.readied (t : State) (e : TlbE) (pa : Nat) : State := ((t.drainLine pa).useTlb t.curCore e).cacheDrop t.curCore pa

variable (h : s.TakenFrom t)
include h

theorem State.request_taken (k : HomeKind) (tok : Nat) (data : List Byte) : t.mkReq k e va tok data = s.mkReq k e va tok data :=
  State.mkReq_congr h.rest (h.core s.curCore) k e va tok data

variable (hfree : s.lineFree pa)
include hfree

theorem State.drainLine_taken : t.drainLine pa = t := by
  have hwcb : (t.core s.curCore).wcb = (s.core s.curCore).wcb := (congrArg Core.wcb (h.core s.curCore) :)
  have hcore : t.curCore = s.curCore := (congrArg State.curCore h.rest :)
  exact State.drainLine_of_free (by rw [hcore, hwcb]; exact hfree.1)
theorem State.readied_taken : (t.readied e pa).unsent = s.unsent ∧ ((t.readied e pa).core s.curCore).inj = (s.core s.curCore).inj := by
  rw [State.readied, State.drainLine_taken h hfree]
  have hunread := (t.useTlb_unread t.curCore s.curCore e).trans (h.core s.curCore)
  rw [State.cacheDrop_core]
  exact ⟨(State.cacheDrop_unsent _ t.curCore pa).trans ((t.useTlb_unsent t.curCore e).trans h.rest), (congrArg Core.inj hunread :)⟩
end

/-- The address of an operation whose base is its first operand, or its second. -/
theorem ea_of_fst (s : State) (a : Addr) (rs : List Reg) : effAddr (((a.base :: rs).map s.srcVal).getD 0 0) a.disp = s.ea a := rfl
theorem ea_of_snd (s : State) (a : Addr) (r : Reg) (rs : List Reg) : effAddr (((r :: a.base :: rs).map s.srcVal).getD 1 0) a.disp = s.ea a := rfl

/-! ### HOLD -/

section
variable {s : State} {fg : Bool} {dst : Reg} {a : Addr} {e : TlbE}

theorem State.held_any {s : State} {va : Nat} : s.me.held.any (fun h => h.va == va) = true ↔ ∃ h ∈ s.me.held, h.va = va := by
  simp

/-- The request of a HOLD: the page's default or the form makes it fine-grained (R175). -/
def State.holdReq (s : State) (fg : Bool) (e : TlbE) (va tok : Nat) : HomeReq :=
  { s.mkReq .hold e va tok [] with fg := fg || hasAttr e.attr attrFG }

theorem exec_hold (hready : s.ready [a.base] (some dst) = true) (hal : s.ea a % 8 = 0) (hpage : s.pageFits (s.ea a) (attrR + attrW) e)
    (hhbm : paKind (e.phys (s.ea a)) = .hbm) (hinj : (s.core s.curCore).injFree = true) (hnone : ∀ h ∈ s.me.held, h.va ≠ s.ea a)
    (hroom : s.me.held.length < 2) : exec (.hold fg dst a) s
      = .next ((Eff.ok fun t => ((t.readied e (e.phys (s.ea a))).parkResult (.hold dst (s.ea a) (e.phys (s.ea a)))).inject t.curCore
          (.home (t.holdReq fg e (s.ea a) t.tok)) (t.me.barrier ++ (t.core t.curCore).drainToks (e.phys (s.ea a)))).run s
          (s.taken [a.base] (some dst))) := by
  have hnot : ¬ (s.me.held.any (fun h => h.va == s.ea a) = true ∨ 2 ≤ s.me.held.length) := by
    rw [State.held_any]
    rintro (⟨h, hh, hva⟩ | hlen)
    · exact hnone h hh hva
    · omega
  show execHold fg dst a s = _
  rw [execHold, State.runOp_ready hready]
  simp only [ea_of_fst, atomicCheck_global hal hpage.1, if_neg hnot, State.withPage_of_fits hpage, homeOnly_hbm hhbm, State.withInj, hinj,
    if_true]
  rfl
theorem exec_hold_refused (hready : s.ready [a.base] (some dst) = true) (hal : s.ea a % 8 = 0) (hg : isGlobal (s.ea a) = true)
    (hheld : ∃ h ∈ s.me.held, h.va = s.ea a) : exec (.hold fg dst a) s = .next (s.fault .illegal 0 0x10C) := by
  show execHold fg dst a s = _
  rw [execHold, State.runOp_ready hready]
  have hyes := State.held_any.2 hheld
  simp only [ea_of_fst, atomicCheck_global hal hg, hyes, true_or, if_true]
  rfl

end

/-! ### RED, XSUM and XREAD -/

section
variable {s t : State} {va al : Nat} {bs : List Byte} {k : HomeKind} {e : TlbE}

theorem State.reduce_ok (hal : va % al = 0) (hpage : s.pageFits va (attrR + attrW) e) (hfree : s.lineFree (e.phys va))
    (hreach : paKind (e.phys va) = .hbm ∨ ∃ l o, paKind (e.phys va) = .peer l o) : s.reduce k va al bs
      = .ok fun t =>
        let u := t.readied e (e.phys va)
        ((u.newTok.newOut u.curCore u.curCtx t.tok (.atomic (e.phys va) va)).inject u.curCore (.home (t.mkReq k e va t.tok bs)) (t.me.barrier ++ (t.core t.curCore).wcToks (e.phys va))).advance := by
  rw [State.reduce, atomicCheck_global hal hpage.1, State.withPage_of_fits hpage, homeOnly_reached hreach, State.withInj, if_pos hfree.2.2]
  rfl

theorem State.reduce_outcome (h : s.TakenFrom t) (hal : va % al = 0) (hpage : s.pageFits va (attrR + attrW) e)
    (hfree : s.lineFree (e.phys va)) (hreach : paKind (e.phys va) = .hbm ∨ ∃ l o, paKind (e.phys va) = .peer l o) :
    let t' := (s.reduce k va al bs).run s t
    s.onlyPc t' ∧ t'.mem = s.mem ∧ s.sends t' (.atomic (e.phys va) va) ∧ s.injects t' (.home (s.mkReq k e va s.tok bs)) s.me.barrier := by
  have hcore : t.curCore = s.curCore := (congrArg State.curCore h.rest :)
  have htok : t.tok = s.tok := (congrArg State.tok h.rest :)
  obtain ⟨hunsent, hinj⟩ := State.readied_taken (e := e) h hfree
  have hucore : (t.readied e (e.phys va)).curCore = s.curCore := (congrArg State.curCore hunsent :)
  have huctx : (t.readied e (e.phys va)).curCtx = s.curCtx := (congrArg State.curCtx hunsent :)
  rw [State.reduce_ok hal hpage hfree hreach]
  dsimp only [Eff.run]
  rw [State.request_taken h, hucore, huctx, hcore, htok, State.me_of_unsent h.rest, Core.wcToks_congr (h.core _), State.wcToks_of_free hfree,
    List.append_nil]
  obtain ⟨hinjects, hsends, hpc, hmem⟩ := State.send_outcome hunsent hinj (.atomic (e.phys va) va) (.home (s.mkReq k e va s.tok bs)) s.me.barrier
  exact ⟨hpc, hmem, hsends, hinjects⟩

end

section
variable {s : State} {dst : Reg} {a : Addr} {e : TlbE}

theorem exec_xread (hready : s.ready [a.base] (some dst) = true) (hal : s.ea a % 64 = 0) (hpage : s.pageFits (s.ea a) attrR e)
    (hfree : s.lineFree (e.phys (s.ea a))) (hreach : paKind (e.phys (s.ea a)) = .hbm ∨ ∃ l o, paKind (e.phys (s.ea a)) = .peer l o)
    (hroom : s.me.pend.length < 8) : exec (.xread dst a) s
      = .next ((Eff.ok fun t =>
          let u := ((t.drainLine (e.phys (s.ea a))).useTlb t.curCore e).modMe (fun x => x.addPend dst t.tok false)
          ((u.newTok.newOut u.curCore u.curCtx t.tok (.xread (e.phys (s.ea a)) (s.ea a))).inject u.curCore
            (.home (t.mkReq .xread e (s.ea a) t.tok [])) ((t.core t.curCore).drainToks (e.phys (s.ea a)))).advance).run s
          (s.taken [a.base] (some dst))) := by
  show execXread dst a s = _
  rw [execXread, State.runOp_ready hready]
  simp only [ea_of_fst, atomicCheck_global hal hpage.1, State.withPage_of_fits hpage, homeOnly_reached hreach, State.withPend, hroom,
    State.withInj, hfree.2.2, if_true]
  rfl

theorem State.xread_outcome (hready : s.ready [a.base] (some dst) = true) (hal : s.ea a % 64 = 0) (hpage : s.pageFits (s.ea a) attrR e)
    (hfree : s.lineFree (e.phys (s.ea a))) (hreach : paKind (e.phys (s.ea a)) = .hbm ∨ ∃ l o, paKind (e.phys (s.ea a)) = .peer l o)
    (hroom : s.me.pend.length < 8) : ∃ t, exec (.xread dst a) s = .next t ∧ s.onlyPc t ∧ t.mem = s.mem ∧ t.tok = s.tok + 1
      ∧ (∀ p, s.me.loc dst = some p → t.me.pend = s.me.pend ++ [⟨s.tok, p, false, none⟩])
      ∧ s.sends t (.xread (e.phys (s.ea a)) (s.ea a)) ∧ s.injects t (.home (s.mkReq .xread e (s.ea a) s.tok [])) [] := by
  refine ⟨_, exec_xread hready hal hpage hfree hreach hroom, ?_⟩
  have h := s.takenFrom_taken [a.base] (some dst)
  generalize s.taken [a.base] (some dst) = t at h
  have hcore : t.curCore = s.curCore := (congrArg State.curCore h.rest :)
  have htok : t.tok = s.tok := (congrArg State.tok h.rest :)
  dsimp only [Eff.run]
  rw [State.request_taken h, State.drainLine_taken h hfree, hcore, htok, Core.drainToks_congr (h.core _),
    State.drainToks_of_free hfree]
  have htlb : (t.useTlb s.curCore e).unsent = s.unsent := (t.useTlb_unsent s.curCore e).trans h.rest
  have hpend := State.modMe_unsent htlb (fun x => x.addPend dst s.tok false)
  have hinj : (((t.useTlb s.curCore e).modMe (fun x => x.addPend dst s.tok false)).core s.curCore).inj = (s.core s.curCore).inj :=
    (congrArg Core.inj ((t.useTlb_unread s.curCore s.curCore e).trans (h.core s.curCore)) :)
  obtain ⟨hinjects, hsends, hall⟩ := State.send_units hinj (congrArg State.now htlb :) (congrArg State.tok htlb :)
    (.xread (e.phys (s.ea a)) (s.ea a)) (.home (s.mkReq .xread e (s.ea a) s.tok [])) []
  generalize (t.useTlb s.curCore e).modMe (fun x => x.addPend dst s.tok false) = u at *
  have hucore : u.curCore = s.curCore := (congrArg State.curCore hpend :)
  have huctx : u.curCtx = s.curCtx := (congrArg State.curCtx hpend :)
  rw [hucore, huctx]
  generalize (u.newTok.newOut s.curCore s.curCtx s.tok (.xread (e.phys (s.ea a)) (s.ea a))).inject s.curCore
    (.home (s.mkReq .xread e (s.ea a) s.tok [])) [] = q at *
  have hme : q.me = s.me.addPend dst s.tok false :=
    (State.me_of_unsent hall).trans ((State.me_of_unsent hpend : u.me = _).trans (s.me_modMe _))
  have hctxs : q.ctxs = (s.modMe (fun x => x.addPend dst s.tok false)).ctxs :=
    (congrArg State.ctxs hall :).trans (congrArg State.ctxs hpend :)
  have hpc : s.onlyPc q.advance := by
    have hothers := s.othersKept_modMe (fun x => x.addPend dst s.tok false)
    have hqcore : q.curCore = s.curCore := (congrArg State.curCore hall :).trans hucore
    have hqctx : q.curCtx = s.curCtx := (congrArg State.curCtx hall :).trans huctx
    refine State.onlyPc_advance_of_kept ?_ (fun k hk => ?_) ?_ ((congrArg State.curLen hall :).trans (congrArg State.curLen hpend :))
    · rw [hme, Ctx.addPend_eq]
      exact s.me.pend_kept _
    · rw [hctxs]
      exact hothers k hk
    · unfold State.meKey
      rw [hqcore, hqctx]
  refine ⟨hpc,
    (congrArg State.mem hall :).trans (congrArg State.mem hpend :), hsends.2, fun p hp => ?_, hsends, hinjects⟩
  rw [State.me_advance, hme, Ctx.addPend, hp]

end

/-! ### HREL -/

section
variable {s t : State} {src : Reg} {a : Addr} {e : TlbE} {va pa : Nat} {h : Held}

theorem State.drainLine_core (s : State) (pa k : Nat) (hk : k = s.curCore) : ((s.drainLine pa).core k).inj = (s.core k).inj := by
  subst hk
  unfold State.drainLine
  split
  · exact (s.closeWc_core s.curCore _).1
  · rfl
theorem State.drainLine_unsent (s : State) (pa : Nat) : (s.drainLine pa).unsent = s.unsent := by
  unfold State.drainLine
  split
  · exact s.closeWc_unsent s.curCore _
  · rfl

/-- The context has let its word go, and the line is drained and dropped; `r` is the state once the release has begun. -/
def State.letsGo (t r : State) (e : TlbE) (va pa : Nat) : State :=
  (((r.drainLine pa).useTlb t.curCore e).modMe (fun x => { x with held := x.held.filter (fun k => k.va != va) })).cacheDrop t.curCore pa
/-- The same, once a home whose page has moved lets the word go. -/
def State.movedAway (u : State) (pa : Nat) (h : Held) : State := if pa = h.pa then u else u.letGo h.pa Config.homeWay
/-- What HREL's request waits for (R203, R313). -/
def State.hrelWaits (t : State) (va pa : Nat) : List Nat :=
  let r := t.releaseBound t.curCore t.curCtx (.hw va)
  r.2 ++ (r.1.core t.curCore).remoteToks t.curCtx ++ t.me.barrier ++ (t.core t.curCore).wcToks pa
/-- HREL of a held word, with its operands taken. -/
def State.hrelSend (t : State) (e : TlbE) (va pa : Nat) (h : Held) (v : Word) : State :=
  let u := t.letsGo (t.releaseBound t.curCore t.curCtx (.hw va)).1 e va pa
  let w := u.movedAway pa h
  ((w.newTok.newOut w.curCore w.curCtx (u.hrelReq e va pa h v).tok (.atomic pa va)).inject w.curCore (.home (u.hrelReq e va pa h v))
    (t.hrelWaits va pa)).advance

theorem exec_hrel (hready : s.ready [src, a.base] none = true) (hal : s.ea a % 8 = 0) (hpage : s.pageFits (s.ea a) (attrR + attrW) e)
    (hhbm : paKind (e.phys (s.ea a)) = .hbm) (hinj : (s.core s.curCore).injFree = true)
    (hheld : s.me.held.find? (fun h => h.va == s.ea a) = some h) : exec (.hrel src a) s
      = .next ((Eff.ok fun t => t.hrelSend e (s.ea a) (e.phys (s.ea a)) h (s.srcVal src)).run s (s.taken [src, a.base] none)) := by
  show execHrel src a s = _
  rw [execHrel, State.runOp_ready hready]
  simp only [ea_of_snd, hal, ne_eq, not_true_eq_false, if_false, hheld, State.withPage_of_fits hpage, homeOnly_hbm hhbm, State.withInj, hinj,
    if_true]
  rfl
theorem exec_hrel_refused (hready : s.ready [src, a.base] none = true) (hal : s.ea a % 8 = 0) (hnone : ∀ h ∈ s.me.held, h.va ≠ s.ea a) :
    exec (.hrel src a) s = .next (s.fault .illegal 0 0x10C) := by
  have hfind : s.me.held.find? (fun h => h.va == s.ea a) = none := by
    rw [List.find?_eq_none]
    intro h hh
    simpa using hnone h hh
  show execHrel src a s = _
  rw [execHrel, State.runOp_ready hready]
  simp only [ea_of_snd, hal, ne_eq, not_true_eq_false, if_false, hfind]
  rfl

/-- The request of HREL at the place of the grant, and at another. -/
theorem State.hrelReq_stays (u : State) (v : Word) (heq : e.phys va = h.pa) :
    let q := u.hrelReq e va (e.phys va) h v
    q.kind = .hrel ∧ q.pa = h.pa ∧ q.data = leBytes 8 v.toNat := by
  rw [State.hrelReq, if_pos heq]
  exact ⟨rfl, heq, rfl⟩
theorem State.hrelReq_moves (u : State) (v : Word) (hne : e.phys va ≠ h.pa) :
    let q := u.hrelReq e va (e.phys va) h v
    q.kind = .store (lineMask (e.phys va % 64) 8) ∧ q.pa = alignDown 64 (e.phys va)
      ∧ (q.data.drop (e.phys va % 64)).take 8 = leBytes 8 v.toNat := by
  rw [State.hrelReq, if_neg hne]
  refine ⟨rfl, rfl, ?_⟩
  have hoff : e.phys va % 64 ≤ 64 := (Nat.mod_lt _ (by decide)).le
  show ((putBytes (List.replicate 64 0) (e.phys va % 64) (leBytes 8 v.toNat)).drop _).take 8 = _
  have htake : ((List.replicate 64 (0 : Byte)).take (e.phys va % 64)).length = e.phys va % 64 := by simpa using hoff
  rw [putBytes, List.append_assoc, List.drop_left' htake, List.take_left' (length_leBytes 8 _)]
theorem State.hrelReq_tok (u : State) (v : Word) : (u.hrelReq e va pa h v).tok = u.tok := by
  unfold State.hrelReq
  dsimp only
  split <;> rfl

theorem State.movedAway_frame (u : State) (pa : Nat) (h : Held) :
    u.movedAway pa h = { u with holds := (u.movedAway pa h).holds, agenda := (u.movedAway pa h).agenda } := by
  unfold State.movedAway
  split
  · rfl
  · exact u.letGo_frame h.pa Config.homeWay

theorem State.letsGo_left {r : State} (hrest : r.unsent = s.unsent) (hrcore : r.curCore = s.curCore)
    (hinj : (r.core s.curCore).inj = (s.core s.curCore).inj) :
    (t.letsGo r e va pa).unsent = (s.modMe (fun x => { x with held := x.held.filter (fun k => k.va != va) })).unsent
      ∧ ((t.letsGo r e va pa).core s.curCore).inj = (s.core s.curCore).inj := by
  have hdrain : ((r.drainLine pa).useTlb t.curCore e).unsent = s.unsent :=
    ((r.drainLine pa).useTlb_unsent t.curCore e).trans ((r.drainLine_unsent pa).trans hrest)
  have htlb : (((r.drainLine pa).useTlb t.curCore e).core s.curCore).inj = ((r.drainLine pa).core s.curCore).inj :=
    (congrArg Core.inj ((r.drainLine pa).useTlb_unread t.curCore s.curCore e) :)
  have hline := htlb.trans ((r.drainLine_core pa s.curCore hrcore.symm).trans hinj)
  unfold State.letsGo
  generalize (r.drainLine pa).useTlb t.curCore e = u at *
  rw [State.cacheDrop_unsent, State.cacheDrop_core]
  exact ⟨State.modMe_unsent hdrain _, hline⟩

theorem State.hrel_outcome (h' : s.TakenFrom t) (v : Word) :
    let t' := t.hrelSend e va pa h v
    t'.me.held = s.me.held.filter (fun k => k.va != va) ∧ s.sends t' (.atomic pa va)
      ∧ (∃ u, s.injects t' (.home (State.hrelReq u e va pa h v)) (t.hrelWaits va pa)) ∧ s.me.regsKept t'.me [.pc] ∧ t'.mem = s.mem := by
  have hcore : t.curCore = s.curCore := (congrArg State.curCore h'.rest :)
  have hinj : ((t.releaseBound t.curCore t.curCtx (.hw va)).1.core s.curCore).inj = (s.core s.curCore).inj := by
    rw [hcore]
    exact (t.closeWc_core s.curCore _).1.trans (congrArg Core.inj (h'.core s.curCore) :)
  have hrest := (t.releaseBound_unsent t.curCore t.curCtx (.hw va)).trans h'.rest
  unfold State.hrelSend
  dsimp only
  generalize t.hrelWaits va pa = rel
  generalize (t.releaseBound t.curCore t.curCtx (.hw va)).1 = r at *
  have hrcore : r.curCore = s.curCore := (congrArg State.curCore hrest :)
  obtain ⟨hu, huinj⟩ := State.letsGo_left (t := t) (e := e) (va := va) (pa := pa) hrest hrcore hinj
  generalize t.letsGo r e va pa = u at *
  have hw := u.movedAway_frame pa h
  generalize u.movedAway pa h = w at *
  have hutok : u.tok = s.tok := (congrArg State.tok hu :)
  have hwcore : w.curCore = s.curCore := (congrArg State.curCore hw).trans (congrArg State.curCore hu :)
  have hwctx : w.curCtx = s.curCtx := (congrArg State.curCtx hw).trans (congrArg State.curCtx hu :)
  have hwinj : (w.core s.curCore).inj = (s.core s.curCore).inj := by
    rw [hw]
    exact huinj
  have hwme : w.me = u.me := by
    rw [hw]
    rfl
  rw [State.hrelReq_tok, hutok, hwcore, hwctx]
  obtain ⟨hinjects, hsends, hall⟩ := State.send_units hwinj ((congrArg State.now hw).trans (congrArg State.now hu :))
    ((congrArg State.tok hw).trans hutok) (.atomic pa va) (.home (u.hrelReq e va pa h v)) rel
  generalize (w.newTok.newOut s.curCore s.curCtx s.tok (.atomic pa va)).inject s.curCore (.home (u.hrelReq e va pa h v)) rel = q at *
  have hme : q.me = { s.me with held := s.me.held.filter (fun k => k.va != va) } :=
    (State.me_of_unsent hall).trans (hwme.trans ((State.me_of_unsent hu).trans (s.me_modMe _)))
  have hmem : q.mem = w.mem := (congrArg State.mem hall :)
  refine ⟨by rw [State.me_advance, hme], hsends, ⟨u, hinjects⟩, fun x hx => ?_,
    hmem.trans ((congrArg State.mem hw).trans (congrArg State.mem hu :))⟩
  rw [State.advance_read _ (by simpa using hx), hme]
  cases x <;> rfl
theorem State.hrelWaits_taken (h' : s.TakenFrom t) :
    (∀ n ∈ (s.releaseBound s.curCore s.curCtx (.hw va)).2, n ∈ t.hrelWaits va pa) ∧ (∀ n ∈ (s.core s.curCore).wcToks pa, n ∈ t.hrelWaits va pa) := by
  have hcore : t.curCore = s.curCore := (congrArg State.curCore h'.rest :)
  have hctx : t.curCtx = s.curCtx := (congrArg State.curCtx h'.rest :)
  have hnow : t.now = s.now := (congrArg State.now h'.rest :)
  have hrel : (t.releaseBound s.curCore s.curCtx (.hw va)).2 = (s.releaseBound s.curCore s.curCtx (.hw va)).2 := by
    rw [State.releaseBound_toks, State.releaseBound_toks, hnow, Core.releaseToks_congr (h'.core _)]
  unfold State.hrelWaits
  dsimp only
  rw [hcore, hctx, hrel, Core.wcToks_congr (h'.core _)]
  exact ⟨fun n hn => by simp [hn], fun n hn => by simp [hn]⟩

end

/-- Settles O20: each atomic's checks pass, and what it sends and leaves follows. -/
theorem atomics : Obligations.Atomics := by
  intro s fg op ty dst src a e va pa
  refine ⟨fun hready hal hpage hhbm hfree hnone hroom => ?_, exec_hold_refused, fun hready hal hpage hhbm hinj h hheld => ?_, exec_hrel_refused,
    fun hready hpage hfree hreach => ⟨fun hal => ?_, fun hal => ?_⟩, State.xread_outcome⟩
  · refine ⟨_, exec_hold hready hal hpage hhbm hfree.2.2 hnone hroom, ?_⟩
    have h := s.takenFrom_taken [a.base] (some dst)
    generalize s.taken [a.base] (some dst) = t at h
    have hcore : t.curCore = s.curCore := (congrArg State.curCore h.rest :)
    have htok : t.tok = s.tok := (congrArg State.tok h.rest :)
    obtain ⟨hunsent, hinj⟩ := State.readied_taken (e := e) h hfree
    dsimp only [Eff.run, State.holdReq]
    rw [State.request_taken h, hcore, htok, State.me_of_unsent h.rest, Core.drainToks_congr (h.core _), State.drainToks_of_free hfree,
      List.append_nil]
    obtain ⟨hparks, hinjects⟩ := State.request_outcome hunsent (.hold dst va pa) _ rfl hinj
      (.home { s.mkReq .hold e va s.tok [] with fg := fg || hasAttr e.attr attrFG }) s.me.barrier
    exact ⟨hparks, hinjects, (State.inject_mem ..).trans (congrArg State.mem hunsent :)⟩
  · refine ⟨_, exec_hrel hready hal hpage hhbm hinj hheld, ?_⟩
    have h' := s.takenFrom_taken [src, a.base] none
    generalize s.taken [src, a.base] none = t at h'
    obtain ⟨hlets, hsends, ⟨u, hinjects⟩, hregs, hmem⟩ := State.hrel_outcome (e := e) (va := va) (pa := pa) (h := h) h' (s.srcVal src)
    obtain ⟨hrel, hwc⟩ := State.hrelWaits_taken (va := va) (pa := pa) h'
    exact ⟨hlets, hsends, ⟨_, _, hinjects, State.hrelReq_stays u _, State.hrelReq_moves u _, hrel, hwc⟩, hregs, hmem⟩
  · obtain ⟨hpc, hmem, hsends, hinjects⟩ := State.reduce_outcome (k := .red op) (bs := leBytes (redBytes op) (s.srcVal src).toNat)
      (s.takenFrom_taken [src, a.base] none) hal hpage hfree hreach
    refine ⟨_, ?_, hpc, hmem, hsends, hinjects⟩
    show execRed op src a s = _
    rw [execRed, State.runOp_ready hready]
    rfl
  · obtain ⟨hpc, hmem, hsends, hinjects⟩ := State.reduce_outcome (k := .xsum ty) (bs := leBytes (ty.width / 8) (s.srcVal src).toNat)
      (s.takenFrom_taken [src, a.base] none) hal hpage hfree hreach
    refine ⟨_, ?_, hpc, hmem, hsends, hinjects⟩
    show execXsum ty src a s = _
    rw [execXsum, State.runOp_ready hready]
    rfl

end Sys2Proof.Machine
end

section
/-! PROOFS. Blocks (O21). -/

namespace Sys2Proof.Machine

/-! ### Lanes -/

theorem vLane_vecOf {w : Nat} (hw : 0 < w) (l : List Nat) {j : Nat} (hj : w * j + w ≤ 256) :
    vLane w (vecOf w l) j = BitVec.ofNat w (l.getD j 0) := by
  refine BitVec.eq_of_getLsbD_eq fun k hk => ?_
  have hdiv : (w * j + k) / w = j := by rw [Nat.mul_add_div hw, Nat.div_eq_of_lt hk, Nat.add_zero]
  have hmod : (w * j + k) % w = k := by rw [Nat.mul_add_mod, Nat.mod_eq_of_lt hk]
  rw [vLane, BitVec.getLsbD_extractLsb', getLsbD_vecOf hw l (by omega), hdiv, hmod, BitVec.getLsbD_ofNat]
theorem laneWord_eq (w : Nat) (ls : List (Nat × Flags)) : laneWord w ls = packLanes w (ls.map (·.1)) := by
  induction ls with
  | nil => rfl
  | cons x xs ih => rw [laneWord, ih]; rfl
theorem getD_of_mapM {α β : Type} {f : α → Option β} {l : List α} {ls : List β} (h : l.mapM f = some ls) (d : α) (d' : β) {j : Nat}
    (hj : j < l.length) : f (l.getD j d) = some (ls.getD j d') := by
  induction l generalizing ls j with
  | nil => exact absurd hj (Nat.not_lt_zero j)
  | cons a l ih =>
    rw [List.mapM_cons] at h
    obtain ⟨b, hb, h⟩ := Option.bind_eq_some_iff.1 h
    obtain ⟨bs, hbs, h⟩ := Option.bind_eq_some_iff.1 h
    obtain rfl := Option.some.inj h
    cases j with
    | zero => exact hb
    | succ j => exact ih hbs (Nat.lt_of_succ_lt_succ hj)

/-! ### The bits of a block -/

/-- A number in four parts, lowest first: 16 bits, `n` bits, 384 bits, and the rest. -/
def blockOf (n head pres elems top : Nat) : Nat := head + 2 ^ 16 * (pres + 2 ^ n * (elems + 2 ^ 384 * top))

section
variable {n head pres elems top : Nat} (hhead : head < 2 ^ 16) (hpres : pres < 2 ^ n)
include hhead

theorem blockOf_pres : blockOf n head pres elems top / 2 ^ 16 = pres + 2 ^ n * (elems + 2 ^ 384 * top) := by
  rw [blockOf, Nat.add_mul_div_left _ _ (Nat.two_pow_pos 16), Nat.div_eq_of_lt hhead, Nat.zero_add]

include hpres

theorem blockOf_elems : blockOf n head pres elems top / 2 ^ (16 + n) = elems + 2 ^ 384 * top := by
  rw [Nat.pow_add, ← Nat.div_div_eq_div_mul, blockOf_pres hhead, Nat.add_mul_div_left _ _ (Nat.two_pow_pos n), Nat.div_eq_of_lt hpres, Nat.zero_add]
theorem testBit_blockOf {i : Nat} (hi : i < n) : (blockOf n head pres elems top).testBit (16 + i) = pres.testBit i := by
  rw [Nat.add_comm 16 i, ← Nat.testBit_div_two_pow, blockOf_pres hhead, Nat.add_comm, Nat.testBit_two_pow_mul_add _ hpres, if_pos hi]
theorem blockOf_elem {w i e : Nat} (helems : elems = e % 2 ^ 384) (hi : w * i + w ≤ 384) :
    blockOf n head pres elems top / 2 ^ (16 + n + w * i) % 2 ^ w = e / 2 ^ (w * i) % 2 ^ w := by
  rw [Nat.pow_add, ← Nat.div_div_eq_div_mul, blockOf_elems hhead hpres, helems]
  refine Nat.eq_of_testBit_eq fun k => ?_
  rw [Nat.testBit_mod_two_pow, Nat.testBit_mod_two_pow, Nat.testBit_div_two_pow, Nat.testBit_div_two_pow, Nat.add_comm (e % _),
    Nat.testBit_two_pow_mul_add _ (Nat.mod_lt _ (Nat.two_pow_pos 384)), Nat.testBit_mod_two_pow]
  by_cases hk : k < w
  · have h384 : k + w * i < 384 := by omega
    simp [h384]
  · simp [hk]
theorem blockOf_lt (hn : n ≤ 96) (helems : elems < 2 ^ 384) (htop : top < 2 ^ 8) : blockOf n head pres elems top < 2 ^ 512 := by
  have h1 : elems + 2 ^ 384 * top < 2 ^ 392 := by
    have h384 : (2 : Nat) ^ 392 = 2 ^ 384 * 2 ^ 8 := by rw [← Nat.pow_add]
    rw [h384]
    calc elems + 2 ^ 384 * top < 2 ^ 384 * (top + 1) := by rw [Nat.mul_succ, Nat.add_comm]; exact Nat.add_lt_add_left helems _
      _ ≤ 2 ^ 384 * 2 ^ 8 := Nat.mul_le_mul_left _ htop
  have hlog : blockOf n head pres elems top / 2 ^ (16 + n) < 2 ^ 392 := by rwa [blockOf_elems hhead hpres]
  have hall := (Nat.div_lt_iff_lt_mul (Nat.two_pow_pos _)).1 hlog
  rw [← Nat.pow_add] at hall
  exact hall.trans_le (Nat.pow_le_pow_right (by decide) (by omega))

end

/-- The presence bits of a block (R287). -/
def blockPresBits (all : Bool) (w n e : Nat) : Nat := ofBits (fun i => all || e / 2 ^ (w * i) % 2 ^ w != 0) n

theorem ofBits_lt (f : Nat → Bool) (n : Nat) : ofBits f n < 2 ^ n := by
  induction n with
  | zero => exact Nat.one_pos
  | succ n ih =>
    rw [ofBits, Nat.pow_succ]
    split <;> omega
/-- The block BPACK builds, in its parts. -/
theorem packBlock_ok {all : Bool} {c e : Nat} {is4 : Bool} (hc : c < 2 ^ 24) (h4 : blockIs4 (c % 256) = some is4)
    (hint : blockIsInt (c % 256) = true → c / 256 % 256 = 127) (h16 : c % 256 = 16 → c / 65536 = 127) (h8 : is4 = false → c / 65536 = 0) :
    packBlock all c e = .ok (blockOf (if is4 then 96 else 48) (c % 256 + c / 256 % 256 * 256)
      (blockPresBits all (if is4 then 4 else 8) (if is4 then 96 else 48) e) (e % 2 ^ 384) (c / 65536)) := by
  have hf : fld c 7 0 = c % 256 := by simp [fld]
  have hs0 : fld c 15 8 = c / 256 % 256 := rfl
  have hs1 : fld c 23 16 = c / 65536 := Nat.mod_eq_of_lt (by omega : c / 2 ^ 16 < 2 ^ 8)
  have hrest : fld c 63 24 = 0 := by rw [fld, Nat.div_eq_of_lt hc, Nat.zero_mod]
  have hscale : ¬ (blockIsInt (c % 256) = true ∧ c / 256 % 256 ≠ 127) := fun h => h.2 (hint h.1)
  have htop : ¬ ((c % 256 = 16 ∧ c / 65536 ≠ 127) ∨ (!is4) = true ∧ c / 65536 ≠ 0) := by
    rintro (h | h)
    · exact h.2 (h16 h.1)
    · exact h.2 (h8 (by simpa using h.1))
  unfold packBlock
  simp only [hf, hs0, hs1, hrest, ne_eq, not_true_eq_false, if_false, h4]
  rw [if_neg hscale, if_neg htop]
  refine congrArg Except.ok ?_
  cases is4 with
  | false =>
    have hz : c / 65536 = 0 := h8 rfl
    simp only [Bool.false_eq_true, if_false, blockOf, blockPresBits, hz]
    generalize ofBits _ 48 = p
    omega
  | true =>
    simp only [if_true, blockOf, blockPresBits]
    generalize ofBits _ 96 = p
    omega

/-! ### BPACK -/

section
variable {s : State} {all : Bool} {v : Fin 16} {ctl : Reg} {a : Addr}

theorem exec_bpack {blk : Nat} (hready : s.ready [a.base, ctl] none = true) (hfits : s.localFits (s.ea a) 64 64 = true)
    (hblk : packBlock all (s.srcVal ctl).toNat ((s.me.readV v).toNat + 2 ^ 256 * (s.me.readV (v + 1)).toNat) = .ok blk)
    (hbad : s.badPart (s.cellOf (s.ea a)) 64 = false) (hhaz : s.feedHazard s.curCore (s.ea a) 64 = false) : exec (.bpack all v ctl a) s
      = .next ((s.taken [a.base, ctl] none).store (s.cellOf (s.ea a)) (leBytes 64 blk)).advance := by
  have hval : ([a.base, ctl].map s.srcVal).getD 1 0 = s.srcVal ctl := rfl
  unfold State.cellOf at hbad
  show execBpack all v ctl a s = _
  rw [execBpack, State.runOp_ready hready]
  simp only [ea_of_fst, hval, State.localSpan_of_fits hfits, hblk, State.localStore, length_leBytes, hbad, Bool.false_eq_true, if_false, hhaz]
  rfl

end

/-- What stands in memory once a block of its parts is written. -/
theorem blockOf_in_memory {m : List Host.Cell} {n head pres elems top cell : Nat} (hwf : Memory.wf m = true) (hn : n ≤ 96)
    (hhead : head < 2 ^ 16) (hpres : pres < 2 ^ n) (helems : elems < 2 ^ 384) (htop : top < 2 ^ 8) :
    memLe (memPut m cell (leBytes 64 (blockOf n head pres elems top))) 64 cell = blockOf n head pres elems top := by
  have hsize : (256 : Nat) ^ 64 = 2 ^ 512 := by rw [show (256 : Nat) = 2 ^ 8 from rfl, ← Nat.pow_mul]
  rw [memLe_memPut_leBytes hwf, hsize, Nat.mod_eq_of_lt (blockOf_lt hhead hpres hn helems htop)]
theorem ofNat_eq_of_mod {x y : Nat} (h : x % 256 = y % 256) : BitVec.ofNat 8 x = BitVec.ofNat 8 y := by
  apply BitVec.eq_of_toNat_eq
  simpa using h

theorem State.stored_mem (s : State) (srcs : List Reg) (cell : Nat) (bs : List Byte) :
    ((s.taken srcs none).store cell bs).advance.mem = memPut s.mem cell bs := by
  show memPut (s.taken srcs none).mem cell bs = _
  rw [State.taken_mem]
theorem bpackBlocks (s : State) (all : Bool) (v : Fin 16) (ctl : Reg) (a : Addr) (hwf : Memory.wf s.mem = true)
    (hready : s.ready [a.base, ctl] none = true) (hfits : s.localFits (s.ea a) 64 64 = true) (is4 : Bool) :
    let va := s.ea a
    let cell := s.cellOf va
    let c := (s.srcVal ctl).toNat
    let el := (s.me.readV v).toNat + 2 ^ 256 * (s.me.readV (v + 1)).toNat
    c < 2 ^ 24 → blockIs4 (c % 256) = some is4 → (blockIsInt (c % 256) = true → c / 256 % 256 = 127) →
      (c % 256 = 16 → c / 65536 = 127) → (is4 = false → c / 65536 = 0) → s.badPart cell 64 = false →
      s.feedHazard s.curCore va 64 = false →
      ∃ t, exec (.bpack all v ctl a) s = .next t ∧ s.memKept t cell 64 ∧ s.onlyPc t
        ∧ memRead t.mem cell = BitVec.ofNat 8 c ∧ memRead t.mem (cell + 1) = BitVec.ofNat 8 (c / 256)
        ∧ (let blk := memLe t.mem 64 cell
           (is4 = false → ∀ i, i < 48 → blk / 2 ^ (64 + 8 * i) % 256 = el / 2 ^ (8 * i) % 256
              ∧ blk.testBit (16 + i) = (all || decide (el / 2 ^ (8 * i) % 256 ≠ 0)))
           ∧ (is4 = true → memRead t.mem (cell + 62) = BitVec.ofNat 8 (c / 65536) ∧ ∀ i, i < 96 → blk / 2 ^ (112 + 4 * i) % 16 = el / 2 ^ (4 * i) % 16
              ∧ blk.testBit (16 + i) = (all || decide (el / 2 ^ (4 * i) % 16 ≠ 0)))) := by
  intro va cell c el hc h4 hint h16 h8 hbad hhaz
  have hpack := packBlock_ok (all := all) (e := el) hc h4 hint h16 h8
  generalize hn : (if is4 then 96 else 48) = n at hpack
  generalize hw : (if is4 then 4 else 8) = w at hpack
  have hn96 : n ≤ 96 := by
    rw [← hn]
    split <;> decide
  have hhead : c % 256 + c / 256 % 256 * 256 < 2 ^ 16 := by omega
  have hpres : blockPresBits all w n el < 2 ^ n := ofBits_lt _ n
  have helems : el % 2 ^ 384 < 2 ^ 384 := Nat.mod_lt _ (Nat.two_pow_pos 384)
  have htop : c / 65536 < 2 ^ 8 := by omega
  have hlow : blockOf n (c % 256 + c / 256 % 256 * 256) (blockPresBits all w n el) (el % 2 ^ 384) (c / 65536) % 65536 = c % 65536 := by
    rw [blockOf]
    omega
  have htopByte : blockOf n (c % 256 + c / 256 % 256 * 256) (blockPresBits all w n el) (el % 2 ^ 384) (c / 65536) / 2 ^ (16 + n) / 2 ^ 384
      = c / 65536 := by
    rw [blockOf_elems hhead hpres, Nat.add_mul_div_left _ _ (Nat.two_pow_pos 384), Nat.div_eq_of_lt helems, Nat.zero_add]
  have helem (i : Nat) (hi : w * i + w ≤ 384) := blockOf_elem (top := c / 65536) (e := el) hhead hpres rfl hi
  have hbit (i : Nat) (hi : i < n) : (blockOf n (c % 256 + c / 256 % 256 * 256) (blockPresBits all w n el) (el % 2 ^ 384) (c / 65536)).testBit
      (16 + i) = (all || decide (el / 2 ^ (w * i) % 2 ^ w ≠ 0)) := by
    rw [testBit_blockOf hhead hpres hi, blockPresBits, testBit_ofBits]
    by_cases h : el / 2 ^ (w * i) % 2 ^ w = 0 <;> simp [hi, h]
  have hblk := blockOf_in_memory (cell := cell) hwf hn96 hhead hpres helems htop
  generalize blockOf n (c % 256 + c / 256 % 256 * 256) (blockPresBits all w n el) (el % 2 ^ 384) (c / 65536) = blk at *
  obtain ⟨hholds, hkept, hpc, -⟩ := State.stored [a.base, ctl] hwf cell 64 blk
  have hmem := s.stored_mem [a.base, ctl] cell (leBytes 64 blk)
  refine ⟨_, exec_bpack hready hfits hpack hbad hhaz, hkept, hpc, ?_, ?_, ?_⟩
  · rw [show cell = cell + 0 from rfl, hholds 0 (by decide), Nat.pow_zero, Nat.div_one]
    exact ofNat_eq_of_mod (by omega)
  · rw [hholds 1 (by decide), Nat.pow_one]
    exact ofNat_eq_of_mod (by omega)
  · generalize ((s.taken [a.base, ctl] none).store cell (leBytes 64 blk)).advance.mem = m at *
    rw [← hmem] at hblk
    rw [hblk]
    refine ⟨fun h i hi => ?_, fun h => ⟨?_, fun i hi => ?_⟩⟩
    · subst h
      obtain rfl : 48 = n := hn
      obtain rfl : 8 = w := hw
      exact ⟨helem i (by omega), hbit i hi⟩
    · subst h
      obtain rfl : 96 = n := hn
      have hplace : (256 : Nat) ^ 62 = 2 ^ (16 + 96) * 2 ^ 384 := by rw [show (256 : Nat) = 2 ^ 8 from rfl, ← Nat.pow_mul, ← Nat.pow_add]
      rw [hholds 62 (by decide), hplace, ← Nat.div_div_eq_div_mul, htopByte]
    · subst h
      obtain rfl : 96 = n := hn
      obtain rfl : 4 = w := hw
      exact ⟨helem i (by omega), hbit i hi⟩

/-! ### BUNPK -/

section
variable {s : State} {ty : Ty} {v : Fin 16} {ctl : Reg} {a : Addr}

theorem exec_bunpk {ls : List (Nat × Flags)} (hready : s.ready [a.base, ctl] none = true) (hfits : s.localFits (s.ea a) 64 64 = true)
    (hbad : s.badIn (s.cellOf (s.ea a)) 64 = false) (hc : (s.srcVal ctl).toNat < 2 ^ 11) (h7 : (s.srcVal ctl).toNat / 128 % 2 = 0)
    (hfmt : (blockIs4 (memLe s.mem 1 (s.cellOf (s.ea a)))).isSome = true)
    (hint : 8 ≤ memLe s.mem 1 (s.cellOf (s.ea a)) → memLe s.mem 1 (s.cellOf (s.ea a)) < 16 → ty.isInt = true)
    (hlow : memLe s.mem 64 (s.cellOf (s.ea a)) % 256 = memLe s.mem 1 (s.cellOf (s.ea a)))
    (hls : unpackBlock ty (memLe s.mem 64 (s.cellOf (s.ea a))) (s.srcVal ctl).toNat = some ls) : exec (.bunpk ty v ctl a) s
      = .next ((s.taken [a.base, ctl] none).modMe (fun x =>
          (x.writeV v (BitVec.ofNat 256 (laneWord ty.width ls))).raise (flagsAll (ls.map (·.2))))).advance := by
  have hval : ([a.base, ctl].map s.srcVal).getD 1 0 = s.srcVal ctl := rfl
  have hf7 : fld (s.srcVal ctl).toNat 7 7 = 0 := h7
  have hf11 : fld (s.srcVal ctl).toNat 63 11 = 0 := by rw [fld, Nat.div_eq_of_lt hc, Nat.zero_mod]
  have hblk : memLe s.mem 64 (spad s.curCore (s.ea a)) = memLe s.mem 64 (s.cellOf (s.ea a)) := rfl
  generalize memLe s.mem 1 (s.cellOf (s.ea a)) = fmt at *
  have hfmt7 : fld (memLe s.mem 64 (s.cellOf (s.ea a))) 7 0 = fmt := by
    rw [← hlow, fld]
    simp
  have hsmall : fmt < 128 := by
    unfold blockIs4 at hfmt
    split at hfmt
    · omega
    · split at hfmt
      · omega
      · cases hfmt
  have hfmt6 : fld (memLe s.mem 64 (s.cellOf (s.ea a))) 6 0 = fmt := by
    rw [fld, Nat.pow_zero, Nat.div_one]
    omega
  have hnone : (blockIs4 fmt).isNone = false := by
    rw [← Option.not_isSome, hfmt]
    rfl
  have htype : ¬ (8 ≤ fmt ∧ fmt < 16 ∧ (!ty.isInt) = true) := by
    rintro ⟨h8, h16, hne⟩
    rw [hint h8 h16] at hne
    cases hne
  unfold State.cellOf at hbad
  show execBunpk ty v ctl a s = _
  rw [execBunpk, State.runOp_ready hready]
  simp only [ea_of_fst, hval, State.localSpan_of_fits hfits, hbad, Bool.false_eq_true, if_false, hf7, hf11, ne_eq, not_true_eq_false,
    State.localNat, hblk, hfmt7, hfmt6, hnone, if_neg htype, hls]
  rfl

end

theorem memLe_mod_256 (m : List Host.Cell) (n a : Nat) : memLe m (n + 1) a % 256 = memLe m 1 a := by
  have hbyte (n : Nat) : memLe m (n + 1) a % 256 = (memRead m a).toNat := by
    refine Nat.eq_of_testBit_eq fun j => ?_
    rw [show (256 : Nat) = 2 ^ 8 from rfl, Nat.testBit_mod_two_pow, testBit_memLe]
    by_cases hj : j < 8
    · rw [decide_eq_true hj, Bool.true_and, Nat.div_eq_of_lt hj, Nat.mod_eq_of_lt hj]
      simp [show j < 8 * (n + 1) by omega, BitVec.testBit_toNat]
    · rw [decide_eq_false hj, Bool.false_and, BitVec.testBit_toNat, BitVec.getLsbD_of_ge _ _ (by omega)]
  have hone : memLe m 1 a < 256 := by
    refine Nat.lt_pow_two_of_testBit (n := 8) _ fun j hj => ?_
    rw [testBit_memLe, decide_eq_false (by omega), Bool.false_and]
  rw [hbyte n, ← hbyte 0, Nat.mod_eq_of_lt hone]

/-- Elements past the block are zero (R290). -/
theorem unpackBlock_past {t : Ty} {blk c j : Nat} {ls : List (Nat × Flags)} (h : unpackBlock t blk c = some ls) (hj : j < 256 / t.width)
    (hpast : (if blockIs4 (blk % 128) = some true then 96 else 48) ≤ c % 128 + j) : ls.getD j (0, Flags.zero) = (0, Flags.zero) := by
  have hfmt : fld blk 6 0 = blk % 128 := by simp [fld]
  have hbase : fld c 6 0 = c % 128 := by simp [fld]
  have hcount : (if (blockIs4 (blk % 128)).getD false = true then 96 else 48) = (if blockIs4 (blk % 128) = some true then 96 else 48) := by
    cases blockIs4 (blk % 128) with
    | none => rfl
    | some b => cases b <;> rfl
  have hrange : (List.range (256 / t.width)).getD j 0 = j := by
    rw [List.getD_eq_getElem _ _ (by simpa using hj), List.getElem_range]
  have hget := getD_of_mapM h 0 (0, Flags.zero) (j := j) (by simpa using hj)
  rw [hrange] at hget
  simp only [hfmt, hbase, hcount, if_pos hpast] at hget
  exact (Option.some.inj hget).symm

/-- Settles O21: a block is the sum of its fields, and each lane read is the conversion of an element. -/
theorem blocks : Obligations.Blocks := by
  intro s all ty v ctl a va cell c el hwf hready hfits
  refine ⟨fun is4 => bpackBlocks s all v ctl a hwf hready hfits is4, fun ls hbad hc h7 hfmt hint hls => ?_⟩
  have hlow : memLe s.mem 64 cell % 256 = memLe s.mem 1 cell := memLe_mod_256 s.mem 63 cell
  have hlane (j : Nat) (hj : j < 256 / ty.width) :
      vLane ty.width (BitVec.ofNat 256 (laneWord ty.width ls)) j = BitVec.ofNat ty.width (ls.getD j (0, Flags.zero)).1 := by
    have hw : 0 < ty.width := Nat.pos_of_ne_zero fun h => by rw [h, Nat.div_zero] at hj; exact absurd hj (Nat.not_lt_zero j)
    have hfit : ty.width * j + ty.width ≤ 256 := by
      rw [← Nat.mul_succ]
      exact (Nat.mul_le_mul_left _ hj).trans (Nat.mul_div_le 256 ty.width)
    rw [laneWord_eq]
    refine (vLane_vecOf hw _ hfit).trans ?_
    rw [List.getD_eq_getElem?_getD, List.getD_eq_getElem?_getD, List.getElem?_map]
    cases ls[j]? <;> rfl
  refine ⟨_, _, exec_bunpk hready hfits hbad hc h7 hfmt hint hlow hls, rfl, hlane, fun j hj hpast => ?_⟩
  have hsmall : memLe s.mem 64 cell % 128 = memLe s.mem 1 cell := by
    have : memLe s.mem 1 cell < 128 := by
      unfold blockIs4 at hfmt
      split at hfmt
      · omega
      · split at hfmt
        · omega
        · cases hfmt
    omega
  rw [hlane j hj, unpackBlock_past hls hj (by rw [hsmall]; exact hpast)]
  exact BitVec.ofNat_eq_ofNat

end Sys2Proof.Machine
end

section
/-! PROOFS. Fences, and objects acquired, released and bound (O22, O23). -/

namespace Sys2Proof.Machine

/-- An operation without operands begins at once. -/
theorem State.runOp_nil (s : State) (body : List Word → Eff) : s.runOp [] none body = (body []).run s s := by
  rw [State.runOp_ready s.ready_nil, State.taken_nil]
  rfl

/-! ### Fences -/

section
variable {s : State} {k : FenceKind} {sc : Scope}

theorem State.asyncFirst_empty (h : s.me.flogn = 0) (e : Eff) : s.asyncFirst e = e := if_neg (fun hne => hne h)
theorem State.asyncFirst_logged (h : s.me.flogn ≠ 0) (e : Eff) : s.asyncFirst e = eFault .async (s.logBase s.curCore s.curCtx) s.me.flogn := if_pos h

/-- The numbers a FENCE.R waits for (R207). -/
def State.fenceRToks (s : State) : List Nat :=
  (s.core s.curCore).wcb.map (·.tok) ++ ((s.core s.curCore).unacked.filterMap (fun u => match u.kind with
    | .wc _ _ => some u.tok
    | _ => none)) ++ (s.core s.curCore).atomicToks s.curCtx
/-- The numbers a FENCE.X waits for. -/
def State.fenceXToks (s : State) (sc : Scope) : List Nat :=
  (s.core s.curCore).unacked.filterMap (fun u => match u.kind with
    | .remote d => if u.ctxs.contains s.curCtx && inScope s.curCore d sc then some u.tok else none
    | _ => none)

theorem exec_fence_core (hlog : s.me.flogn = 0) : exec (.fence .r .core) s = .next s.advance ∧ exec (.fence .a .core) s = .next s.advance := by
  constructor
  · show execFence .r .core s = _
    unfold execFence
    dsimp only
    rw [State.runOp_nil, State.asyncFirst_empty hlog]
    rfl
  · show execFence .a .core s = _
    unfold execFence
    dsimp only
    rw [State.runOp_nil, State.asyncFirst_empty hlog]
    rfl
theorem exec_fence_a (hlog : s.me.flogn = 0) (hsc : sc ≠ .core) : exec (.fence .a sc) s = .next (s.cacheDropAll s.curCore).advance := by
  show execFence .a sc s = _
  unfold execFence
  dsimp only
  rw [State.runOp_nil, State.asyncFirst_empty hlog]
  cases sc with
  | core => exact absurd rfl hsc
  | die | dev | sys => rfl
theorem exec_fence_r (hlog : s.me.flogn = 0) (hsc : sc ≠ .core) (hinj : (s.core s.curCore).injFree = true) : exec (.fence .r sc) s
    = .next (((s.closeWc s.curCore (fun _ => true)).parkResult .none).inject (s.closeWc s.curCore (fun _ => true)).curCore
        (.marker s.curCtx s.tok) s.fenceRToks) := by
  show execFence .r sc s = _
  unfold execFence
  dsimp only
  rw [State.runOp_nil, State.asyncFirst_empty hlog]
  cases sc with
  | core => exact absurd rfl hsc
  | die | dev | sys =>
    simp only [State.withInj, hinj, if_true]
    rfl
theorem exec_fence_x (hlog : s.me.flogn = 0) (hinj : (s.core s.curCore).injFree = true) : exec (.fence .x sc) s
    = .next ((s.parkResult .none).inject s.curCore (.marker s.curCtx s.tok) (s.fenceXToks sc)) := by
  show execFence .x sc s = _
  unfold execFence
  dsimp only
  rw [State.runOp_nil, State.asyncFirst_empty hlog]
  simp only [State.withInj, hinj, if_true]
  rfl
theorem exec_fence_logged (hlog : s.me.flogn ≠ 0) :
    exec (.fence k sc) s = .next (s.fault .async (BitVec.ofNat 64 (s.logBase s.curCore s.curCtx)) (BitVec.ofNat 64 s.me.flogn)) := by
  show execFence k sc s = _
  unfold execFence
  dsimp only
  rw [State.runOp_nil, State.asyncFirst_logged hlog]
  rfl

theorem mem_fenceXToks {n : Nat} : n ∈ s.fenceXToks sc ↔ ∃ u ∈ (s.core s.curCore).unacked, u.tok = n ∧ s.curCtx ∈ u.ctxs
    ∧ ∃ d, u.kind = .remote d ∧ inScope s.curCore d sc = true := by
  unfold State.fenceXToks
  rw [List.mem_filterMap]
  refine exists_congr fun u => and_congr_right fun _ => ?_
  cases hk : u.kind <;> simp [and_comm]

end

/-- Settles O22: each fence is one marker, one drop, or nothing. -/
theorem fences : Obligations.Fences := by
  intro s k sc x wcs
  refine ⟨fun hlog => ⟨fun hsc => ?_, fun hsc => ⟨?_, fun hinj => ?_⟩, fun hinj => ?_⟩, exec_fence_logged, ?_⟩
  · rw [hsc]
    exact exec_fence_core hlog
  · refine ⟨_, exec_fence_a hlog hsc, ?_, State.onlyPc_advance_of_unsent (s := s) rfl, rfl⟩
    show (Table.get Cluster.idle (s.clusters.set _ _) _).lines = []
    rw [Table.get_set_self]
  · have hclose := s.closeWc_unsent s.curCore (fun _ => true)
    have hcore : (s.closeWc s.curCore (fun _ => true)).curCore = s.curCore := (congrArg State.curCore hclose :)
    refine ⟨_, exec_fence_r hlog hsc hinj, ?_⟩
    rw [hcore]
    obtain ⟨hparks, hinjects⟩ := State.request_outcome (s := s) rfl .none _ hclose (s.closeWc_core s.curCore _).1 (.marker s.curCtx s.tok)
      s.fenceRToks
    exact ⟨hparks, (State.inject_mem ..).trans (congrArg State.mem hclose :), hinjects⟩
  · refine ⟨_, exec_fence_x hlog hinj, ?_⟩
    obtain ⟨hparks, hinjects⟩ := State.request_outcome (s := s) rfl .none s rfl rfl (.marker s.curCtx s.tok) (s.fenceXToks sc)
    exact ⟨hparks, State.inject_mem .., s.fenceXToks sc, hinjects, fun n => mem_fenceXToks⟩
  · refine ⟨(s.sched 1 (.replyWrite s.curCore s.curCtx s.tok .done)).parkResult .generation, ?_, ?_, rfl, State.mem_sched s 1 _⟩
    · show execSpfence s = _
      rw [execSpfence, State.runOp_nil]
      rfl
    · exact State.parksFor_of_unsent (u := s.sched 1 (.replyWrite s.curCore s.curCtx s.tok .done)) rfl rfl

/-! ### Acquires -/

section
variable {s : State} {c : Nat} {l : RLine}

/-- A line overlaps a range of the core's space. -/
def RLine.overlapsRange (l : RLine) (space base len : Nat) : Prop := l.space = space ∧ base < l.va + 64 ∧ l.va < base + len

theorem State.mem_cacheDropRange {base len : Nat} (h : l ∈ ((s.cacheDropRange c base len).cluster (clusterOf c)).lines) :
    l ∈ (s.cluster (clusterOf c)).lines ∧ ¬ l.overlapsRange (s.spaceOf c) base len := by
  have hlines : ((s.cacheDropRange c base len).cluster (clusterOf c)).lines = (s.cluster (clusterOf c)).lines.filter
      (fun l => !(l.space == s.spaceOf c && l.va + 64 > base && l.va < base + len)) := by
    show (Table.get Cluster.idle (s.clusters.set _ _) _).lines = _
    rw [Table.get_set_self]
  rw [hlines, List.mem_filter] at h
  refine ⟨h.1, fun hov => ?_⟩
  obtain ⟨hspace, hlo, hhi⟩ := hov
  simp [hspace, hlo, hhi] at h
theorem State.mem_foldl_cacheDropRange (bs : List Binding) (h : l ∈ ((bs.foldl (fun s b => s.cacheDropRange c b.base (64 * b.lines)) s).cluster
      (clusterOf c)).lines) :
    l ∈ (s.cluster (clusterOf c)).lines ∧ ∀ b ∈ bs, ¬ l.overlapsRange (s.spaceOf c) b.base (64 * b.lines) := by
  induction bs generalizing s with
  | nil => exact ⟨h, fun b hb => absurd hb List.not_mem_nil⟩
  | cons b bs ih =>
    obtain ⟨hmem, hrest⟩ := ih h
    obtain ⟨hmem, hb⟩ := State.mem_cacheDropRange hmem
    refine ⟨hmem, fun b' hb' => ?_⟩
    rcases List.mem_cons.1 hb' with rfl | hb'
    · exact hb
    · exact hrest b' hb'

end

theorem Core.boundTo_congr {x y : Core} (h : y.unread = x.unread) (now : Nat) (o : Obj) : y.boundTo now o = x.boundTo now o :=
  (congrArg (fun z : Core => z.boundTo now o) h :)
theorem Core.tokOut_congr {x y : Core} (h : y.unread = x.unread) (n : Nat) : y.tokOut n = x.tokOut n := (congrArg (fun z : Core => z.tokOut n) h :)

/-! ### Slots -/

theorem timedGet_append {α : Type} (now k : Nat) (l : List (Nat × Nat × Option α)) (due : Nat) (v : Option α) :
    timedGet now k (l ++ [(due, k, v)]) = if due ≤ now then v else timedGet now k l := by
  simp [timedGet, List.foldl_append]
/-- Only the entries of a key count for it. -/
theorem timedGet_filter {α : Type} (now k : Nat) (l : List (Nat × Nat × Option α)) :
    timedGet now k (l.filter (fun e => e.2.1 == k)) = timedGet now k l := by
  unfold timedGet
  generalize (none : Option α) = acc
  induction l generalizing acc with
  | nil => rfl
  | cons e l ih =>
    rw [List.filter_cons]
    split
    · exact ih _
    · next hne =>
      have hne : ¬ e.2.1 = k := by simpa using hne
      rw [List.foldl_cons, if_neg (fun h => hne h.2)]
      exact ih _
theorem timedGet_timedPut_self {α : Type} (now delay k : Nat) (v : Option α) (l : List (Nat × Nat × Option α)) :
    timedGet (now + delay) k (timedPut now delay k v l) = v := by
  rw [timedPut, timedGet_append, if_pos (Nat.le_refl _)]
theorem timedGet_timedPut_other {α : Type} (now delay at_ : Nat) {j k : Nat} (h : j ≠ k) (v : Option α) (l : List (Nat × Nat × Option α)) :
    timedGet at_ j (timedPut now delay k v l) = timedGet at_ j l := by
  have hk : (k == j) = false := by simpa using h.symm
  have hfilter : (timedPut now delay k v l).filter (fun e => e.2.1 == j) = l.filter (fun e => e.2.1 == j) := by
    unfold timedPut
    simp only [List.filter_append, List.filter_filter, List.filter_cons, List.filter_nil, hk, Bool.false_eq_true, if_false, List.append_nil]
    have hnone : l.filter (fun e => (e.2.1 == j) && ((e.2.1 == k) && now < e.1)) = [] := by
      rw [List.filter_eq_nil_iff]
      rintro e - he
      simp only [Bool.and_eq_true, beq_iff_eq] at he
      exact h (he.1.symm.trans he.2.1)
    have hsame : l.filter (fun e => (e.2.1 == j) && (e.2.1 != k)) = l.filter (fun e => e.2.1 == j) := by
      refine List.filter_congr fun e _ => ?_
      by_cases he : e.2.1 = j
      · simp [he, h]
      · simp [he]
    rw [hnone, hsame, List.append_nil]
  rw [← timedGet_filter, hfilter, timedGet_filter]

/-! ### Objects -/

section
variable {s : State} {o : ObjRef} {i : Obj}

/-- The value that names an object: none for a chainage counter. -/
def State.objVal (s : State) (o : ObjRef) : Nat := (((ObjRef.regs o).map s.srcVal).getD 0 0).toNat

theorem exec_acq (hready : s.ready (ObjRef.regs o) none = true) (hi : s.ident o (s.objVal o) = .ok i) :
    exec (.acq o) s = .next ((Eff.ok fun t => (t.acquire t.curCore i).advance).run s (s.taken (ObjRef.regs o) none)) := by
  unfold State.objVal at hi
  show execAcq o s = _
  rw [execAcq, State.runOp_ready hready]
  simp only [hi]
theorem exec_acq_align {r : Reg} (hal : s.objVal o % 8 ≠ 0) (ho : o = .hw r ∨ o = .fe r) (hready : s.ready [r] none = true) :
    exec (.acq o) s = .next (s.fault .align (BitVec.ofNat 64 (s.objVal o)) 0) := by
  have hregs : ObjRef.regs o = [r] := by rcases ho with rfl | rfl <;> rfl
  have hident : s.ident o (s.objVal o) = .error .align := by
    rcases ho with rfl | rfl <;> simp only [State.ident, if_pos hal]
  rw [← hregs] at hready
  show execAcq o s = _
  rw [execAcq, State.runOp_ready hready]
  unfold State.objVal at hident
  simp only [hident]
  rfl

/-- RLS, with its operands taken: later writes wait for what it drains. -/
def State.releasing (t : State) (i : Obj) : State :=
  (t.releaseBound t.curCore t.curCtx i).1.modMe (fun x => { x with
    barrier := x.barrier.filter (t.core t.curCore).tokOut ++ (t.releaseBound t.curCore t.curCtx i).2 })

theorem exec_rls (hready : s.ready (ObjRef.regs o) none = true) (hi : s.ident o (s.objVal o) = .ok i) (hlog : s.me.flogn = 0) :
    exec (.rls o) s = .next ((Eff.ok fun t => (t.releasing i).advance).run s (s.taken (ObjRef.regs o) none)) := by
  unfold State.objVal at hi
  show execRls o s = _
  rw [execRls, State.runOp_ready hready]
  simp only [hi, State.asyncFirst_empty hlog]
  rfl

theorem Ctx.barrier_kept (x : Ctx) (b : List Nat) : x.Kept { x with barrier := b } where
  regs r _ := by cases r <;> rfl
  preds _ := rfl
  vecs := Ctx.vecsKept_congr rfl rfl rfl
  frame := ⟨rfl, rfl, rfl, rfl, rfl, rfl⟩

theorem State.releasing_outcome {t : State} (h : s.TakenFrom t) :
    let t' := (t.releasing i).advance
    s.onlyPc t' ∧ t'.mem = s.mem ∧ (∀ n ∈ (s.releaseBound s.curCore s.curCtx i).2, n ∈ t'.me.barrier)
      ∧ (∀ n ∈ s.me.barrier, (s.core s.curCore).tokOut n = true → n ∈ t'.me.barrier) := by
  have hcore : t.curCore = s.curCore := (congrArg State.curCore h.rest :)
  have hctx : t.curCtx = s.curCtx := (congrArg State.curCtx h.rest :)
  have hnow : t.now = s.now := (congrArg State.now h.rest :)
  have hrel : (t.releaseBound s.curCore s.curCtx i).2 = (s.releaseBound s.curCore s.curCtx i).2 := by
    rw [State.releaseBound_toks, State.releaseBound_toks, hnow, Core.releaseToks_congr (h.core _)]
  have hunsent := (t.releaseBound_unsent s.curCore s.curCtx i).trans h.rest
  have htok (n : Nat) := Core.tokOut_congr (h.core s.curCore) n
  unfold State.releasing
  rw [hcore, hctx, hrel]
  generalize (t.releaseBound s.curCore s.curCtx i).1 = r at *
  generalize (s.releaseBound s.curCore s.curCtx i).2 = toks at *
  have hmod := State.modMe_unsent hunsent (fun x => { x with barrier := x.barrier.filter (t.core s.curCore).tokOut ++ toks })
  generalize r.modMe (fun x => { x with barrier := x.barrier.filter (t.core s.curCore).tokOut ++ toks }) = q at *
  have hme : q.me = { s.me with barrier := s.me.barrier.filter (t.core s.curCore).tokOut ++ toks } :=
    (State.me_of_unsent hmod).trans (s.me_modMe _)
  refine ⟨State.onlyPc_advance_of_modMe (s.me.barrier_kept _) hmod, (congrArg State.mem hmod :), fun n hn => ?_, fun n hn hout => ?_⟩
  · rw [State.me_advance, hme]
    exact List.mem_append_right _ hn
  · rw [State.me_advance, hme]
    exact List.mem_append_left _ (List.mem_filter.2 ⟨hn, (htok n).trans hout⟩)

/-! ### Bindings -/

theorem exec_bind {slot : BitVec 4} {base : Reg} {lines : BitVec 20} (hready : s.ready (base :: ObjRef.regs o) none = true)
    (hlines : lines ≠ 0) (hal : (s.srcVal base).toNat % 64 = 0) (hlo : Config.globalBase ≤ (s.srcVal base).toNat)
    (hhi : (s.srcVal base).toNat + 64 * lines.toNat ≤ Config.vaTop)
    (hi : s.ident o ((((base :: ObjRef.regs o).map s.srcVal).getD 1 0)).toNat = .ok i) : exec (.bind slot base lines o) s
      = .next ((Eff.ok fun t => (t.modCore t.curCore (fun x => { x with
          slots := timedPut t.now 8 slot.toNat (some ⟨(s.srcVal base).toNat, lines.toNat, i⟩) x.slots })).advance).run s
          (s.taken (base :: ObjRef.regs o) none)) := by
  have hval : ((base :: ObjRef.regs o).map s.srcVal).getD 0 0 = s.srcVal base := rfl
  have hlines : ¬ lines.toNat = 0 := fun h => hlines (BitVec.eq_of_toNat_eq h)
  have hrange : ¬ ((s.srcVal base).toNat < Config.globalBase ∨ Config.vaTop < (s.srcVal base).toNat + 64 * lines.toNat) := by omega
  show execBind slot base lines o s = _
  rw [execBind, State.runOp_ready hready]
  simp only [hval, if_neg hlines, hal, ne_eq, not_true_eq_false, if_false, if_neg hrange, hi]
theorem exec_bind_align {slot : BitVec 4} {base : Reg} {lines : BitVec 20} (hready : s.ready (base :: ObjRef.regs o) none = true)
    (hlines : lines ≠ 0) (hal : (s.srcVal base).toNat % 64 ≠ 0) :
    exec (.bind slot base lines o) s = .next (s.fault .align (BitVec.ofNat 64 (s.srcVal base).toNat) 0) := by
  have hval : ((base :: ObjRef.regs o).map s.srcVal).getD 0 0 = s.srcVal base := rfl
  have hlines : ¬ lines.toNat = 0 := fun h => hlines (BitVec.eq_of_toNat_eq h)
  show execBind slot base lines o s = _
  rw [execBind, State.runOp_ready hready]
  simp only [hval, if_neg hlines, if_pos hal]
  rfl

/-- A slot put: it governs 8 cycles later, and the others as before. -/
theorem State.slot_put {t : State} (h : s.TakenFrom t) (k : Nat) (b : Option Binding) :
    let t' := (t.modCore t.curCore (fun x => { x with slots := timedPut t.now 8 k b x.slots })).advance
    s.onlyPc t' ∧ t'.mem = s.mem ∧ (t'.core s.curCore).slot (s.now + 8) k = b
      ∧ ∀ j, j ≠ k → (t'.core s.curCore).slot s.now j = (s.core s.curCore).slot s.now j := by
  have hcore : t.curCore = s.curCore := (congrArg State.curCore h.rest :)
  have hnow : t.now = s.now := (congrArg State.now h.rest :)
  have hslots : (t.core s.curCore).slots = (s.core s.curCore).slots := (congrArg Core.slots (h.core s.curCore) :)
  have hput : ((t.modCore t.curCore (fun x => { x with slots := timedPut t.now 8 k b x.slots })).advance.core s.curCore).slots
      = timedPut s.now 8 k b (s.core s.curCore).slots := by
    have hadvance (u : State) : u.advance.core s.curCore = u.core s.curCore := rfl
    rw [hadvance, hcore, State.core_modCore_self, hnow, ← hslots]
  have hunsent := (t.modCore_unsent t.curCore (fun x => { x with slots := timedPut t.now 8 k b x.slots })).trans h.rest
  refine ⟨State.onlyPc_advance_of_unsent hunsent, (congrArg State.mem hunsent :), ?_, fun j hj => ?_⟩
  · rw [Core.slot, hput, timedGet_timedPut_self]
  · rw [Core.slot, hput, timedGet_timedPut_other _ _ _ hj]
    rfl

end

/-- Settles O23: the object found, each operation is one change of the read cache, the barrier or a slot. -/
theorem acquireRelease : Obligations.AcquireRelease := by
  intro s o i v
  refine ⟨fun hready hi => ⟨?_, fun b hb l hl => ?_, fun hlog => ?_⟩, fun slot base lines => ?_,
    fun slot => ?_, fun r hal ho hready => exec_acq_align hal ho hready⟩
  · have hcore : (s.taken (ObjRef.regs o) none).curCore = s.curCore := (congrArg State.curCore (s.taken_unsent (ObjRef.regs o) none) :)
    rw [exec_acq hready hi]
    dsimp only [Eff.run]
    rw [hcore]
  · have h := s.takenFrom_taken (ObjRef.regs o) none
    generalize s.taken (ObjRef.regs o) none = t at h hl
    have hnow : t.now = s.now := (congrArg State.now h.rest :)
    have hspace : t.spaceOf s.curCore = s.spaceOf s.curCore :=
      State.spaceOf_congr (State.teamOf_congr (congrArg Core.team (h.core s.curCore) :) (congrArg State.teams h.rest :))
    unfold State.acquire at hl
    rw [hnow, Core.boundTo_congr (h.core s.curCore)] at hl
    rw [← hspace]
    exact (State.mem_foldl_cacheDropRange _ hl).2 b hb
  · exact ⟨_, exec_rls hready hi hlog, State.releasing_outcome (s.takenFrom_taken (ObjRef.regs o) none)⟩
  · intro b v' hready hlines
    refine ⟨fun hal hlo hhi hi => ?_, exec_bind_align hready hlines⟩
    exact ⟨_, exec_bind hready hlines hal hlo hhi hi, State.slot_put (s.takenFrom_taken (base :: ObjRef.regs o) none) slot.toNat _⟩
  · obtain ⟨hpc, hmem, hslot, -⟩ := State.slot_put ⟨rfl, fun _ => rfl⟩ (s := s) (t := s) slot.toNat none
    refine ⟨_, ?_, hpc, hmem, hslot⟩
    show execUnbind slot s = _
    rw [execUnbind, State.runOp_nil]
    rfl

end Sys2Proof.Machine
end

section
/-! PROOFS. Releases of every earlier write, and chainage counters (O24). -/

namespace Sys2Proof.Machine

/-! ### What a send leaves, field by field -/

section
variable {s t : State} (h : t.unsent = s.unsent)
include h

theorem State.now_of_unsent : t.now = s.now := (congrArg State.now h :)
theorem State.tok_of_unsent : t.tok = s.tok := (congrArg State.tok h :)
theorem State.curCore_of_unsent : t.curCore = s.curCore := (congrArg State.curCore h :)
theorem State.curCtx_of_unsent : t.curCtx = s.curCtx := (congrArg State.curCtx h :)
theorem State.curLen_of_unsent : t.curLen = s.curLen := (congrArg State.curLen h :)
theorem State.mem_of_unsent : t.mem = s.mem := (congrArg State.mem h :)
theorem State.ctxs_of_unsent : t.ctxs = s.ctxs := (congrArg State.ctxs h :)
theorem State.teams_of_unsent : t.teams = s.teams := (congrArg State.teams h :)
theorem State.engines_of_unsent : t.engines = s.engines := (congrArg State.engines h :)
theorem State.dies_of_unsent : t.dies = s.dies := (congrArg State.dies h :)
theorem State.svcHeld_of_unsent : t.svcHeld = s.svcHeld := (congrArg State.svcHeld h :)

end

/-! ### A release of every earlier write -/

theorem State.releaseAll_unsent (s : State) (c n : Nat) : (s.releaseAll c n).1.unsent = s.unsent := s.closeWc_unsent c _
/-- What a release of every earlier write waits for, from the core. -/
def Core.allToks (x : Core) (n : Nat) : List Nat :=
  x.wcb.map (·.tok) ++ (x.unacked.filterMap (fun u => match u.kind with
    | .wc _ _ => some u.tok
    | _ => none)) ++ x.remoteToks n ++ x.atomicToks n
theorem State.releaseAll_snd (s : State) (c n : Nat) : (s.releaseAll c n).2 = ((s.core c).allToks n, (s.ctx c n).lastCopy) := rfl
theorem Core.allToks_congr {x y : Core} (h : y.unread = x.unread) (n : Nat) : y.allToks n = x.allToks n :=
  (congrArg (fun z : Core => z.allToks n) h :)

section
variable {s t : State} (h : s.TakenFrom t)
include h

/-- A release once the operands are taken. -/
theorem State.releaseAll_taken : (t.releaseAll s.curCore s.curCtx).2 = (s.releaseAll s.curCore s.curCtx).2 := by
  have hctx : t.ctx s.curCore s.curCtx = s.ctx s.curCore s.curCtx := State.ctx_of_unsent h.rest _ _
  rw [State.releaseAll_snd, State.releaseAll_snd, hctx, Core.allToks_congr (h.core s.curCore)]
theorem State.releaseAll_rest : (t.releaseAll s.curCore s.curCtx).1.unsent = s.unsent := (t.releaseAll_unsent s.curCore s.curCtx).trans h.rest
/-- It leaves the core's team. -/
theorem State.releaseAll_teamOf : (t.releaseAll s.curCore s.curCtx).1.teamOf s.curCore = s.teamOf s.curCore :=
  State.teamOf_congr ((t.closeWc_core s.curCore _).2.1.trans (congrArg Core.team (h.core s.curCore) :))
    (State.teams_of_unsent (State.releaseAll_rest h))

end

theorem State.takenFrom_refl (s : State) : s.TakenFrom s := ⟨rfl, fun _ => rfl⟩

/-! ### Teams -/

theorem State.modMe_teamOf (s : State) (f : Ctx → Ctx) (c : Nat) : (s.modMe f).teamOf c = s.teamOf c := rfl
/-- A core's team stands among the teams. -/
theorem State.find_of_teamOf {s : State} {c k : Nat} {u : Team} (h : s.teamOf c = some (k, u)) : s.teams.find k = some u := by
  unfold State.teamOf at h
  split at h
  · obtain ⟨v, hv, hpair⟩ := Option.map_eq_some_iff.1 h
    obtain ⟨rfl, rfl⟩ := Prod.mk.inj hpair
    exact hv
  · cases h
theorem State.modTeam_of_find {s : State} {k : Nat} {u : Team} (h : s.teams.find k = some u) (f : Team → Team) :
    s.modTeam k f = { s with teams := s.teams.set k (f u) } := by
  rw [State.modTeam, h]

/-! ### TRIG, CSTAGE and TRAP -/

section
variable {s : State} {k : Nat} {u : Team}

theorem exec_trig_again (ht : s.me.trig = true) : exec .trig s = .next s.advance := by
  show execTrig s = _
  rw [execTrig, State.runOp_nil]
  simp only [Eff.run, ht, if_true]
/-- The context is marked, once its release has begun. -/
def State.triggered (s : State) : State := (s.releaseAll s.curCore s.curCtx).1.modMe (fun x => { x with trig := true })
theorem exec_trig (ht : s.me.trig = false) (hteam : s.triggered.teamOf s.triggered.curCore = some (k, u)) : exec .trig s
    = .next (s.triggered.modTeam k (fun u => { u with trigs := u.trigs ++ [(s.triggered.curCore, s.triggered.curCtx,
        (s.releaseAll s.curCore s.curCtx).2.1, (s.releaseAll s.curCore s.curCtx).2.2)] })).advance := by
  unfold State.triggered at hteam
  show execTrig s = _
  rw [execTrig, State.runOp_nil]
  simp only [Eff.run, ht, Bool.false_eq_true, if_false, hteam]
  rfl
theorem exec_cstage {st : BitVec 16} (hteam : (s.releaseAll s.curCore s.curCtx).1.teamOf s.curCore = some (k, u)) : exec (.cstage st) s
    = .next ((s.releaseAll s.curCore s.curCtx).1.modTeam k (fun u => { u with stages := u.stages ++ [(s.curCore, s.curCtx, st.toNat,
        (s.releaseAll s.curCore s.curCtx).2.1, (s.releaseAll s.curCore s.curCtx).2.2)] })).advance := by
  show execCstage st s = _
  rw [execCstage, State.runOp_nil]
  simp only [Eff.run, hteam]

theorem State.trig_outcome (ht : s.me.trig = false) (hteam : s.teamOf s.curCore = some (k, u)) : ∃ t, exec .trig s = .next t ∧ t.me.trig = true
    ∧ t.mem = s.mem ∧ s.me.regsKept t.me [.pc] ∧ ∃ v, t.teams.find k = some v
      ∧ v.trigs = u.trigs ++ [(s.curCore, s.curCtx, (s.releaseAll s.curCore s.curCtx).2.1, (s.releaseAll s.curCore s.curCtx).2.2)] := by
  have hrest := State.releaseAll_rest s.takenFrom_refl
  have hmod : s.triggered.unsent = (s.modMe (fun x => { x with trig := true })).unsent := State.modMe_unsent hrest _
  have hcore : s.triggered.curCore = s.curCore := (State.curCore_of_unsent hmod :)
  have hctx : s.triggered.curCtx = s.curCtx := (State.curCtx_of_unsent hmod :)
  have htteam : s.triggered.teamOf s.curCore = s.teamOf s.curCore := by
    rw [← State.releaseAll_teamOf s.takenFrom_refl]
    exact State.modMe_teamOf ..
  refine ⟨_, exec_trig ht (by rw [hcore, htteam]; exact hteam), ?_⟩
  have hme : s.triggered.me = { s.me with trig := true } := ((State.me_of_unsent hmod :)).trans (s.me_modMe _)
  have hmem : s.triggered.mem = s.mem := (State.mem_of_unsent hmod :)
  have hfind := State.find_of_teamOf (htteam.trans hteam)
  rw [hcore, hctx]
  generalize s.releaseAll s.curCore s.curCtx = r at *
  generalize s.triggered = q at *
  rw [State.modTeam_of_find hfind]
  refine ⟨?_, hmem, fun x hx => ?_, ?_⟩
  · rw [State.me_advance]
    show q.me.trig = true
    rw [hme]
  · rw [State.advance_read _ (by simpa using hx)]
    show q.me.read x = _
    rw [hme]
    cases x <;> rfl
  · refine ⟨_, Table.find_set_self _ _ _, rfl⟩
theorem State.cstage_outcome {st : BitVec 16} (hteam : s.teamOf s.curCore = some (k, u)) : ∃ t, exec (.cstage st) s = .next t ∧ s.onlyPc t
    ∧ t.mem = s.mem ∧ ∃ v, t.teams.find k = some v
      ∧ v.stages = u.stages ++ [(s.curCore, s.curCtx, st.toNat, (s.releaseAll s.curCore s.curCtx).2.1, (s.releaseAll s.curCore s.curCtx).2.2)] := by
  have hrest := State.releaseAll_rest s.takenFrom_refl
  have hrteam := (State.releaseAll_teamOf s.takenFrom_refl).trans hteam
  refine ⟨_, exec_cstage hrteam, ?_⟩
  have hfind := State.find_of_teamOf hrteam
  generalize s.releaseAll s.curCore s.curCtx = r at *
  rw [State.modTeam_of_find hfind]
  exact ⟨State.onlyPc_advance_of_ctxs (State.ctxs_of_unsent hrest :) (State.curCore_of_unsent hrest :) (State.curCtx_of_unsent hrest :)
    (State.curLen_of_unsent hrest :), (State.mem_of_unsent hrest :), _, Table.find_set_self _ _ _, rfl⟩

variable {dst src : Reg} {svc : BitVec 8}

theorem exec_trap_steward (hready : s.ready [src] (some dst) = true) (hst : isSteward s.curCore = true) :
    exec (.trap dst svc src) s = .next (s.fault .illegal 0 0x10C) := by
  show execTrap dst svc src s = _
  rw [execTrap, State.runOp_ready hready]
  simp only [hst, if_true]
  rfl
/-- TRAP, with its operand taken: the request is held for the release. -/
def State.asksSteward (t : State) (dst : Reg) (svc : BitVec 8) (u : Team) (v : Word) : State :=
  let r := t.releaseAll t.curCore t.curCtx
  { r.1.parkResult (.answer dst) with
    svcHeld := r.1.svcHeld ++ [(⟨r.1.tok, r.1.curCore, r.1.curCtx, svc.toNat, u.node, u.slot, v⟩, r.2.1, r.2.2)] }
theorem exec_trap (hready : s.ready [src] (some dst) = true) (hst : isSteward s.curCore = false) (hteam : s.teamOf s.curCore = some (k, u)) :
    exec (.trap dst svc src) s = .next ((s.taken [src] (some dst)).asksSteward dst svc u (s.srcVal src)) := by
  have h := s.takenFrom_taken [src] (some dst)
  have hcore : (s.taken [src] (some dst)).curCore = s.curCore := State.curCore_of_unsent h.rest
  have hctx : (s.taken [src] (some dst)).curCtx = s.curCtx := State.curCtx_of_unsent h.rest
  have hrcore : ((s.taken [src] (some dst)).releaseAll s.curCore s.curCtx).1.curCore = s.curCore :=
    State.curCore_of_unsent (State.releaseAll_rest h)
  have hrteam := (State.releaseAll_teamOf h).trans hteam
  show execTrap dst svc src s = _
  rw [execTrap, State.runOp_ready hready]
  simp only [hst, Bool.false_eq_true, if_false, Eff.run, State.asksSteward]
  rw [hcore, hctx, hrcore, hrteam]
  rfl
theorem State.trap_outcome (hready : s.ready [src] (some dst) = true) (hst : isSteward s.curCore = false) (hteam : s.teamOf s.curCore = some (k, u)) :
    ∃ t, exec (.trap dst svc src) s = .next t ∧ s.parksFor t (.answer dst) ∧ t.mem = s.mem
      ∧ t.svcHeld = s.svcHeld ++ [(⟨s.tok, s.curCore, s.curCtx, svc.toNat, u.node, u.slot, s.srcVal src⟩, (s.releaseAll s.curCore s.curCtx).2.1,
          (s.releaseAll s.curCore s.curCtx).2.2)] := by
  have h := s.takenFrom_taken [src] (some dst)
  refine ⟨_, exec_trap hready hst hteam, ?_⟩
  generalize s.taken [src] (some dst) = t at h
  have hcore : t.curCore = s.curCore := State.curCore_of_unsent h.rest
  have hctx : t.curCtx = s.curCtx := State.curCtx_of_unsent h.rest
  have hrest := State.releaseAll_rest h
  have hsnd := State.releaseAll_taken h
  unfold State.asksSteward
  rw [hcore, hctx]
  dsimp only
  rw [hsnd]
  generalize (t.releaseAll s.curCore s.curCtx).1 = r at *
  have htok : r.tok = s.tok := State.tok_of_unsent hrest
  have hrcore : r.curCore = s.curCore := State.curCore_of_unsent hrest
  have hrctx : r.curCtx = s.curCtx := State.curCtx_of_unsent hrest
  have hheld : r.svcHeld = s.svcHeld := State.svcHeld_of_unsent hrest
  have hparks : s.parksFor (r.parkResult (.answer dst)) (.answer dst) := State.parksFor_of_unsent hrest rfl
  refine ⟨hparks, (State.mem_of_unsent hrest :), ?_⟩
  rw [htok, hrcore, hrctx, hheld]

end

/-! ### Chainage counters -/

section
variable {s : State} {src : Reg} {sel : BitVec 4}

/-- Going on past a counter that is reached, or parking before it. -/
def State.counterGo (s : State) (sel n : Nat) : Eff :=
  if n ≤ s.counter s.curCore sel then .ok (fun t => (t.acquire s.curCore (.ch sel)).advance) else .wait (.counter sel n) id

theorem exec_chwait_low (hready : s.ready [src] none = true) (hlow : sel.toNat < 8) {m : Nat} (hm : s.assigned s.curCore sel.toNat = some m) :
    exec (.chwait sel src) s = .next ((if m < (s.srcVal src).toNat then eRefuse else s.counterGo sel.toNat (s.srcVal src).toNat).run s
      (s.taken [src] none)) := by
  show execChwait sel src s = _
  rw [execChwait, State.runOp_ready hready]
  simp only [if_pos hlow, hm]
  rfl
theorem exec_chwait_high (hready : s.ready [src] none = true) (hhigh : 8 ≤ sel.toNat)
    (hst : (s.eng (linkId s.curCore (dirOf (sel.toNat - 8)))).st ≠ .suspended)
    (hfault : ((s.eng (linkId s.curCore (dirOf (sel.toNat - 8)))).end_ (!isNear (dirOf (sel.toNat - 8)))).fault = none)
    (hreached : (s.srcVal src).toNat ≤ s.counter s.curCore sel.toNat) :
    exec (.chwait sel src) s = .next ((s.counterGo sel.toNat (s.srcVal src).toNat).run s (s.taken [src] none)) := by
  have hdormant : ¬ ((s.eng (linkId s.curCore (dirOf (sel.toNat - 8)))).st = .dormant ∧ 0 < (s.srcVal src).toNat) := by
    rintro ⟨hd, hpos⟩
    have hzero : s.counter s.curCore sel.toNat = 0 := by
      simp only [State.counter, if_neg (by omega : ¬ sel.toNat = 0), if_neg (by omega : ¬ sel.toNat < 8), hd, if_true]
    omega
  have hval : ([src].map s.srcVal).getD 0 0 = s.srcVal src := rfl
  show execChwait sel src s = _
  rw [execChwait, State.runOp_ready hready]
  simp only [if_neg (by omega : ¬ sel.toNat < 8), hfault, Option.filter_none, hval, if_neg hdormant, if_neg hst]
  rfl

end

/-- Settles O24: the release begun, each operation adds one record; a counter is reached, awaited or refused. -/
theorem releasesAndChainage : Obligations.ReleasesAndChainage := by
  intro s st dst src svc sel rel n
  refine ⟨exec_trig_again, fun k u hteam => ⟨fun ht => State.trig_outcome ht hteam, State.cstage_outcome hteam,
    fun hready hst => State.trap_outcome hready hst hteam⟩, exec_trap_steward, fun hready => ?_,
    fun hready m hm hlow => ⟨fun hreached hle => ?_, fun hbefore hle => ?_, fun hgt => ?_⟩, fun hready hhigh hreached hst hfault => ?_⟩
  · show execChread dst sel s = _
    rw [execChread, State.runPut_ready hready]
  · rw [exec_chwait_low hready hlow hm, if_neg (Nat.not_lt.2 hle), State.counterGo, if_pos hreached]
    rfl
  · refine ⟨_, exec_chwait_low hready hlow hm, ?_⟩
    rw [if_neg (Nat.not_lt.2 hle), State.counterGo, if_neg (Nat.not_le.2 hbefore)]
    dsimp only [Eff.run, id]
    rw [State.me_wait]
    exact ⟨rfl, rfl⟩
  · rw [exec_chwait_low hready hlow hm, if_pos hgt]
    rfl
  · rw [exec_chwait_high hready hhigh hst hfault hreached, State.counterGo, if_pos hreached]
    rfl

end Sys2Proof.Machine
end

section
/-! PROOFS. Copy commands (O25). -/

namespace Sys2Proof.Machine

section
variable {s t : State} {kind : CmdKind} {dst base : Reg} {disp : BitVec 16} {swz : Bool} {fill : Byte} {d : Nat}

theorem effAddr16_of_fst (s : State) (base : Reg) (disp : BitVec 16) (rs : List Reg) :
    effAddr16 (((base :: rs).map s.srcVal).getD 0 0) disp = effAddr16 (s.srcVal base) disp := rfl

/-- The command an instruction queues; `t` is the state with its operand taken. -/
def State.newCmd (t : State) (kind : CmdKind) (dst : Reg) (swz : Bool) (fill : Byte) (d : Nat) : Cmd :=
  { id := t.tok, kind := kind, desc := d, swz := swz, fill := fill, ctx := t.curCtx
    tok := if dst = .z then none else some t.tok, num := (t.core t.curCore).copyNum + 1, sched := none, active := false, next := 0
    rows := [], sentAll := false, err := none, oor := 0, after := t.me.barrier, parked := none }
/-- The register is pending under the command, which is the context's last (R194). -/
def State.awaitsCopy (t : State) (dst : Reg) : State :=
  t.modMe (fun m => { m.addPend dst t.tok false with lastCopy := (t.core t.curCore).copyNum + 1 })
/-- The command is queued. -/
def State.queued (t : State) (kind : CmdKind) (dst : Reg) (swz : Bool) (fill : Byte) (d : Nat) : State :=
  (((t.awaitsCopy dst).newTok.modCore t.curCore (fun x => { x with
    cmds := x.cmds ++ [t.newCmd kind dst swz fill d], copyNum := x.copyNum + 1 })).schedOnce 1 (.copyCommandStart t.curCore)).advance

variable (hready : s.ready [base] (some dst) = true) (hfits : s.localFits (effAddr16 (s.srcVal base) disp) 64 64 = true)
  (hbad : s.badIn (s.cellOf (effAddr16 (s.srcVal base) disp)) 64 = false)
  (hd : memLe s.mem 64 (s.cellOf (effAddr16 (s.srcVal base) disp)) = d)
include hready hfits hbad hd

theorem State.copyOp_ok (hok : cmdBad kind swz d = none) (hroom : (s.core s.curCore).cmds.length < 16)
    (hpend : dst ≠ .z → s.me.pend.length < 8) :
    s.copyOp kind dst base disp swz fill = .next ((s.taken [base] (some dst)).queued kind dst swz fill d) := by
  have hroom : ¬ 16 ≤ (s.core s.curCore).cmds.length := Nat.not_le.2 hroom
  have hmem : s.localNat (effAddr16 (s.srcVal base) disp) 64 = d := hd
  unfold State.cellOf at hbad
  rw [State.copyOp, State.runOp_ready hready]
  simp only [effAddr16_of_fst, State.localSpan_of_fits hfits, hbad, Bool.false_eq_true, if_false, hmem, hok, if_neg hroom, State.withPend]
  by_cases hz : dst = .z
  · rw [if_pos hz]
    rfl
  · rw [if_neg hz, if_pos (hpend hz)]
    rfl
theorem State.copyOp_bad {b : Nat} (hb : cmdBad kind swz d = some b) : s.copyOp kind dst base disp swz fill
    = .next (s.fault .format (BitVec.ofNat 64 (effAddr16 (s.srcVal base) disp)) (BitVec.ofNat 64 b)) := by
  have hmem : s.localNat (effAddr16 (s.srcVal base) disp) 64 = d := hd
  unfold State.cellOf at hbad
  rw [State.copyOp, State.runOp_ready hready]
  simp only [effAddr16_of_fst, State.localSpan_of_fits hfits, hbad, Bool.false_eq_true, if_false, hmem, hb]
  rfl
theorem State.copyOp_full (hok : cmdBad kind swz d = none) (hfull : 16 ≤ (s.core s.curCore).cmds.length) :
    s.copyOp kind dst base disp swz fill = .next (s.wait .copyQ) := by
  have hmem : s.localNat (effAddr16 (s.srcVal base) disp) 64 = d := hd
  unfold State.cellOf at hbad
  rw [State.copyOp, State.runOp_ready hready]
  simp only [effAddr16_of_fst, State.localSpan_of_fits hfits, hbad, Bool.false_eq_true, if_false, hmem, hok, if_pos hfull]
  rfl

end

theorem State.schedOnce_core (s : State) (n : Nat) (i : Instr) (k : Nat) : (s.schedOnce n i).core k = s.core k := by
  unfold State.schedOnce
  split <;> rfl
theorem Ctx.lastCopy_kept (x : Ctx) (p : List Pend) (n : Nat) : x.Kept { x with pend := p, lastCopy := n } where
  regs r _ := by cases r <;> rfl
  preds _ := rfl
  vecs := Ctx.vecsKept_congr rfl rfl rfl
  frame := ⟨rfl, rfl, rfl, rfl, rfl, rfl⟩
theorem State.modMe_core (s : State) (f : Ctx → Ctx) (k : Nat) : (s.modMe f).core k = s.core k := rfl
theorem State.advance_core (s : State) (k : Nat) : s.advance.core k = s.core k := rfl
theorem State.newTok_core (s : State) (k : Nat) : s.newTok.core k = s.core k := rfl

/-- What stands once a command is queued. -/
theorem State.queued_outcome {s t : State} (h : s.TakenFrom t) (kind : CmdKind) (dst : Reg) (swz : Bool) (fill : Byte) (d : Nat) :
    let x := s.core s.curCore
    let t' := t.queued kind dst swz fill d
    s.onlyPc t' ∧ t'.mem = s.mem ∧ (t'.core s.curCore).cmds = x.cmds ++ [t.newCmd kind dst swz fill d]
      ∧ (t'.core s.curCore).copyNum = x.copyNum + 1
      ∧ t'.me = { s.advance.me with pend := (s.me.addPend dst s.tok false).pend, lastCopy := x.copyNum + 1 } ∧ t'.tok = s.tok + 1 := by
  have hcore : t.curCore = s.curCore := State.curCore_of_unsent h.rest
  have htok : t.tok = s.tok := State.tok_of_unsent h.rest
  have hnum : (t.core s.curCore).copyNum = (s.core s.curCore).copyNum := (congrArg Core.copyNum (h.core s.curCore) :)
  have hcmds : (t.core s.curCore).cmds = (s.core s.curCore).cmds := (congrArg Core.cmds (h.core s.curCore) :)
  unfold State.queued State.awaitsCopy
  rw [hcore, htok, hnum]
  generalize t.newCmd kind dst swz fill d = c
  generalize hf : (fun m : Ctx => { m.addPend dst s.tok false with lastCopy := (s.core s.curCore).copyNum + 1 }) = f
  generalize hg : (fun x : Core => { x with cmds := x.cmds ++ [c], copyNum := x.copyNum + 1 }) = g
  have hfme : f s.me = { s.me with pend := (s.me.addPend dst s.tok false).pend, lastCopy := (s.core s.curCore).copyNum + 1 } := by
    rw [← hf]
    dsimp only
    rw [Ctx.addPend_eq]
  have hmod := State.modMe_unsent h.rest f
  have hq := (State.schedOnce_unsent ((t.modMe f).newTok.modCore s.curCore g) 1 (.copyCommandStart s.curCore))
  have hqcore : ((((t.modMe f).newTok.modCore s.curCore g).schedOnce 1 (.copyCommandStart s.curCore)).core s.curCore)
      = g (t.core s.curCore) := by
    rw [State.schedOnce_core, State.core_modCore_self, State.newTok_core, State.modMe_core]
  dsimp only
  rw [State.advance_core, hqcore]
  generalize ((t.modMe f).newTok.modCore s.curCore g).schedOnce 1 (.copyCommandStart s.curCore) = q at *
  have hqctxs : q.ctxs = (s.modMe f).ctxs := (State.ctxs_of_unsent hq :).trans (State.ctxs_of_unsent hmod :)
  have hqcur : q.curCore = s.curCore := (State.curCore_of_unsent hq :).trans hcore
  have hqctx : q.curCtx = s.curCtx := (State.curCtx_of_unsent hq :).trans (State.curCtx_of_unsent h.rest :)
  have hqlen : q.curLen = s.curLen := (State.curLen_of_unsent hq :).trans (State.curLen_of_unsent h.rest :)
  have hqme : q.me = f s.me := by
    rw [← s.me_modMe f]
    unfold State.me State.ctx
    rw [hqctxs, hqcur, hqctx]
    rfl
  refine ⟨State.onlyPc_advance_of_kept ?_ (fun k hk => ?_) ?_ hqlen, (State.mem_of_unsent hq :).trans (State.mem_of_unsent h.rest :), ?_, ?_, ?_,
    (State.tok_of_unsent hq :).trans (congrArg (· + 1) htok)⟩
  · rw [hqme, hfme]
    exact s.me.lastCopy_kept _ _
  · rw [hqctxs]
    exact s.othersKept_modMe f k hk
  · unfold State.meKey
    rw [hqcur, hqctx]
  · rw [← hg, ← hcmds]
  · rw [← hg, ← hnum]
  · rw [State.me_advance, hqme, hfme, hqlen, State.me_advance]

/-- Settles O25: one description of the three instructions covers them. -/
theorem copyCommands : Obligations.CopyCommands := by
  intro s dst base disp swz fill a d x go hready hfits hbad
  have hgo (i : Instr) (kind : CmdKind) (swz : Bool) (fill : Byte) (hi : exec i s = s.copyOp kind dst base disp swz fill) : go i kind swz fill := by
    refine ⟨fun hok hroom hpend => ?_, fun b hb => ?_, fun hok hfull => ?_⟩
    · rw [hi, State.copyOp_ok hready hfits hbad rfl hok hroom hpend]
      have h := s.takenFrom_taken [base] (some dst)
      generalize s.taken [base] (some dst) = t at h
      obtain ⟨hpc, hmem, hcmds, hnum, hme, htok⟩ := State.queued_outcome h kind dst swz fill d
      have hctx : t.curCtx = s.curCtx := State.curCtx_of_unsent h.rest
      have hcore : t.curCore = s.curCore := State.curCore_of_unsent h.rest
      have httok : t.tok = s.tok := State.tok_of_unsent h.rest
      have htnum : (t.core t.curCore).copyNum = x.copyNum := by
        rw [hcore]
        exact (congrArg Core.copyNum (h.core s.curCore) :)
      have htme : t.me = s.me := State.me_of_unsent h.rest
      refine ⟨_, _, rfl, hpc, hmem, hcmds, hnum, by rw [hme], rfl, rfl, rfl, rfl, hctx, congrArg (· + 1) htnum, rfl, by rw [← htme]; rfl,
        by rw [← httok]; rfl, htok, fun p hp => ?_, fun hz => ?_⟩
      · rw [hme, Ctx.addPend, hp]
      · rw [hme, hz]
        rfl
    · rw [hi, State.copyOp_bad hready hfits hbad rfl hb]
    · refine ⟨_, hi.trans (State.copyOp_full hready hfits hbad rfl hok hfull), ?_⟩
      rw [State.me_wait]
      exact ⟨rfl, rfl⟩
  exact ⟨hgo _ _ _ _ rfl, hgo _ _ _ _ rfl, hgo _ _ _ _ rfl⟩

end Sys2Proof.Machine
end

section
/-! PROOFS. The checks of a link, leases, opens and closes (O26, O27). -/

namespace Sys2Proof.Machine

/-! ### The checks of R322 -/

section
variable {s : State} {d : Dir} {who : LinkWho}

/-- On a clear link only the party's right is left to check. -/
theorem State.linkChecks_clear (h : s.linkClear d) (k : State → Nat → Bool → Eff) :
    s.linkChecks d who k = if (s.endOf d).allows s.meId who = true then k s (s.linkOf d) (!isNear d) else eRefuse := by
  obtain ⟨hharv, hout, hfault, hres⟩ := h
  unfold State.endOf State.engOf State.linkOf at *
  simp only [State.linkChecks, hharv, hout, Bool.false_eq_true, Bool.false_and, or_self, if_false, hres, hfault]
  cases ((s.eng (linkId s.curCore d)).end_ (!isNear d)).allows s.meId who <;> rfl
theorem State.linkChecks_any (h : s.linkClear d) (k : State → Nat → Bool → Eff) :
    s.linkChecks d .any k = k s (s.linkOf d) (!isNear d) := by
  rw [State.linkChecks_clear h]
  rfl
theorem State.holder_of_isParty (h : s.isParty d) : (s.endOf d).holder s.meId = true := by
  obtain ⟨hopen, hparty, -⟩ := h
  simp [EEnd.holder, hopen, hparty]
theorem State.linkChecks_party (h : s.linkClear d) (hp : s.isParty d) (k : State → Nat → Bool → Eff) :
    s.linkChecks d .party k = k s (s.linkOf d) (!isNear d) := by
  rw [State.linkChecks_clear h, if_pos (by exact State.holder_of_isParty hp)]
theorem State.linkChecks_lastParty (h : s.linkClear d) (hp : s.isParty d) (k : State → Nat → Bool → Eff) :
    s.linkChecks d .lastParty k = k s (s.linkOf d) (!isNear d) := by
  rw [State.linkChecks_clear h, if_pos (by rw [EEnd.allows, State.holder_of_isParty hp]; rfl)]
theorem State.linkChecks_harvested (h : s.linkHarvested s.curCore d = true) (k : State → Nat → Bool → Eff) :
    s.linkChecks d who k = eFault .teamBounds 0 0 := by
  rw [State.linkChecks, if_pos (Or.inl h)]

end

/-! ### Engines -/

section
variable (s : State) (l : Nat)

@[simp] theorem State.eng_setEng (e : Engine) : (s.setEng l e).eng l = e := Table.get_set_self _ _ _ _
@[simp] theorem State.eng_modEng (f : Engine → Engine) : (s.modEng l f).eng l = f (s.eng l) := s.eng_setEng l _
@[simp] theorem Engine.end_modEnd_self (e : Engine) (far : Bool) (f : EEnd → EEnd) : (e.modEnd far f).end_ far = f (e.end_ far) := by
  cases far <;> rfl
@[simp] theorem Engine.end_modEnd_other (e : Engine) (far : Bool) (f : EEnd → EEnd) : (e.modEnd far f).end_ (!far) = e.end_ (!far) := by
  cases far <;> rfl
/-- A change of an end is one of nothing else. -/
theorem Engine.modEnd_frame (e : Engine) (far : Bool) (f : EEnd → EEnd) :
    e.modEnd far f = { e with near := (e.modEnd far f).near, far := (e.modEnd far f).far } := by
  cases far <;> rfl
theorem Engine.modEnd_st (e : Engine) (far : Bool) (f : EEnd → EEnd) : (e.modEnd far f).st = e.st := by
  cases far <;> rfl
theorem Engine.numDone_frame (e : Engine) (n : Nat) : e.numDone n = { e with ctr := (e.numDone n).ctr, done := (e.numDone n).done } := rfl

end

/-! ### What is the same besides engines, dies and what a send changes -/

/-- A state besides its engines, its dies, its number and what a send changes. -/
def State.rest (s : State) : State := { s.unsent with engines := .empty, dies := .empty, tok := 0 }

section
variable {s t : State} (h : t.rest = s.rest)
include h

theorem State.curCore_of_rest : t.curCore = s.curCore := (congrArg State.curCore h :)
theorem State.curCtx_of_rest : t.curCtx = s.curCtx := (congrArg State.curCtx h :)
theorem State.curLen_of_rest : t.curLen = s.curLen := (congrArg State.curLen h :)
theorem State.mem_of_rest : t.mem = s.mem := (congrArg State.mem h :)
theorem State.ctxs_of_rest : t.ctxs = s.ctxs := (congrArg State.ctxs h :)
theorem State.now_of_rest : t.now = s.now := (congrArg State.now h :)
theorem State.me_of_rest : t.me = s.me := by
  unfold State.me State.ctx
  rw [State.ctxs_of_rest h, State.curCore_of_rest h, State.curCtx_of_rest h]
theorem State.onlyPc_advance_of_rest : s.onlyPc t.advance :=
  State.onlyPc_advance_of_ctxs (State.ctxs_of_rest h) (State.curCore_of_rest h) (State.curCtx_of_rest h) (State.curLen_of_rest h)
end

section
variable (s : State)

theorem State.rest_of_unsent {t : State} (h : t.unsent = s.unsent) : t.rest = s.rest :=
  (congrArg (fun u : State => ({ u with engines := .empty, dies := .empty, tok := 0 } : State)) h :)
theorem State.setEng_rest (l : Nat) (e : Engine) : (s.setEng l e).rest = s.rest := rfl
theorem State.modEng_rest (l : Nat) (f : Engine → Engine) : (s.modEng l f).rest = s.rest := rfl
theorem State.modDie_rest (d : Nat) (f : Die → Die) : (s.modDie d f).rest = s.rest := rfl
theorem State.newTok_rest : s.newTok.rest = s.rest := rfl
theorem State.sched_rest (n : Nat) (i : Instr) : (s.sched n i).rest = s.rest := rfl
theorem State.schedOnce_rest (n : Nat) (i : Instr) : (s.schedOnce n i).rest = s.rest := s.rest_of_unsent (s.schedOnce_unsent n i)
theorem State.offerLease_unsent (d : Nat) : (s.offerLease d).unsent = s.unsent := by
  unfold State.offerLease
  split
  · exact s.schedOnce_unsent _ _
  · rfl
theorem State.modMe_rest {s t : State} (h : t.rest = s.rest) (f : Ctx → Ctx) : (t.modMe f).rest = (s.modMe f).rest := by
  have hme := State.me_of_rest h
  have hcore := State.curCore_of_rest h
  have hctx := State.curCtx_of_rest h
  have hctxs := State.ctxs_of_rest h
  have hset : (t.modMe f).ctxs = (s.modMe f).ctxs := by
    rw [State.modMe_ctxs, State.modMe_ctxs, hme, hcore, hctx, hctxs]
  calc (t.modMe f).rest = { t.rest with ctxs := (t.modMe f).ctxs } := rfl
    _ = { s.rest with ctxs := (s.modMe f).ctxs } := by rw [h, hset]
/-- A change of the acting context, engines, dies and what a send changes left aside. -/
theorem State.onlyPc_advance_of_rest_modMe {s t : State} {f : Ctx → Ctx} (hkept : s.me.Kept (f s.me)) (h : t.rest = (s.modMe f).rest) :
    s.onlyPc t.advance := by
  have hctxs : t.ctxs = (s.modMe f).ctxs := State.ctxs_of_rest h
  have hcore : t.curCore = s.curCore := (State.curCore_of_rest h :)
  have hctx : t.curCtx = s.curCtx := (State.curCtx_of_rest h :)
  have hme : t.me = f s.me := (State.me_of_rest h).trans (s.me_modMe f)
  refine State.onlyPc_advance_of_kept (by rwa [hme]) (fun k hk => ?_) ?_ (State.curLen_of_rest h :)
  · rw [hctxs]
    exact s.othersKept_modMe f k hk
  · unfold State.meKey
    rw [hcore, hctx]

end

end Sys2Proof.Machine
end

section
/-! PROOFS. LEASE and UNLEASE (O26). -/

namespace Sys2Proof.Machine

/-! ### LEASE -/

/-- What a LEASE answers: 0 where the request is queued. -/
def State.leaseAnswer (s : State) (c : Nat) (d : Dir) : Nat :=
  if s.linkHarvested c d then 1 else if s.linkOutside c d then 2
  else if (s.eng (linkId c d)).lease.isSome ∨ s.leaseQueued (linkId c d) then 3 else 0

theorem State.aimed_congr {s t : State} (h : t.teams = s.teams) (u : Team) (c : Nat) : (t.core c).team = (s.core c).team →
    t.aimed u c = s.aimed u c := by
  intro hteam
  unfold State.aimed
  rw [h, State.teamOf_congr hteam h]
theorem State.linkOutside_congr {s t : State} (hteams : t.teams = s.teams) (hcores : ∀ k, (t.core k).team = (s.core k).team) (c : Nat) (d : Dir) :
    t.linkOutside c d = s.linkOutside c d := by
  unfold State.linkOutside State.reaches
  rw [State.teamOf_congr (hcores c) hteams]
  simp only [State.aimed_congr hteams _ _ (hcores _)]
theorem State.leaseAnswer_taken {s t : State} (h : s.TakenFrom t) (c : Nat) (d : Dir) : t.leaseAnswer c d = s.leaseAnswer c d := by
  have hteams := State.teams_of_unsent h.rest
  have hout := State.linkOutside_congr hteams (fun k => (congrArg Core.team (h.core k) :)) c d
  have hharv : t.harvest = s.harvest := (congrArg State.harvest h.rest :)
  have hengines := State.engines_of_unsent h.rest
  have hdies := State.dies_of_unsent h.rest
  unfold State.leaseAnswer State.linkHarvested State.leaseQueued State.eng State.die
  rw [hout, hharv, hengines, hdies]

section
variable {s t : State} {dst : Reg} {d : Dir} {pri : BitVec 2}

/-- The register of a LEASE is pending. -/
def State.awaitsLease (t : State) (dst : Reg) : State := (t.modMe (fun x => x.addPend dst t.tok false)).newTok
/-- The request a LEASE queues. -/
def State.leaseReq (t u : State) (d : Dir) (pri : BitVec 2) : LeaseReq :=
  { link := linkId t.curCore d, core := t.curCore, ctx := u.curCtx, tok := t.tok, team := (u.core t.curCore).team.getD 0, pri := pri.toNat
    at_ := u.now, restore := false }
/-- The request at its die, and the die's tokens offered. -/
def State.queueLease (u : State) (die : Nat) (q : LeaseReq) (pri : BitVec 2) : State :=
  let u := u.modDie die (fun x => { x with fifos := x.fifos.set pri.toNat (Table.get [] x.fifos pri.toNat ++ [q]) })
  (if pri = 3 then u.sched (u.evictwait + 1) (.eviction die) else u).offerLease die
/-- LEASE, with its destination taken. -/
def State.leases (t : State) (dst : Reg) (d : Dir) (pri : BitVec 2) : State :=
  (if t.leaseAnswer t.curCore d ≠ 0 then (t.awaitsLease dst).sched 8 (.pendingCompletionWrite t.curCore (t.awaitsLease dst).curCtx t.tok
      (leaseWord (t.leaseAnswer t.curCore d) pri.toNat 0 (linkId t.curCore d)))
   else (t.awaitsLease dst).queueLease (linkId t.curCore d / 1152) (t.leaseReq (t.awaitsLease dst) d pri) pri).advance

theorem exec_lease (hready : s.ready [] (some dst) = true) (hroom : s.me.pend.length < 8) :
    exec (.lease dst d pri) s = .next ((Eff.ok fun t => t.leases dst d pri).run s (s.taken [] (some dst))) := by
  show execLease dst d pri s = _
  rw [execLease, State.runOp_ready hready]
  simp only [State.withPend, if_pos hroom]
  rfl

theorem State.queueLease_left (u : State) (die : Nat) (q : LeaseReq) (pri : BitVec 2) :
    (u.queueLease die q pri).rest = u.rest ∧ (u.queueLease die q pri).tok = u.tok
      ∧ Table.get [] ((u.queueLease die q pri).die die).fifos pri.toNat = Table.get [] (u.die die).fifos pri.toNat ++ [q] := by
  have hdie : (u.modDie die (fun x => { x with fifos := x.fifos.set pri.toNat (Table.get [] x.fifos pri.toNat ++ [q]) })).die die
      = { u.die die with fifos := (u.die die).fifos.set pri.toNat (Table.get [] (u.die die).fifos pri.toNat ++ [q]) } :=
    Table.get_set_self _ _ _ _
  have hfifo := congrArg (fun x : Die => Table.get [] x.fifos pri.toNat) hdie
  rw [Table.get_set_self] at hfifo
  unfold State.queueLease
  dsimp only
  generalize hv : u.modDie die (fun x => { x with fifos := x.fifos.set pri.toNat (Table.get [] x.fifos pri.toNat ++ [q]) }) = v at *
  have hvrest : v.rest = u.rest := hv ▸ u.modDie_rest die _
  have hvtok : v.tok = u.tok := hv ▸ rfl
  have hw : (if pri = 3 then v.sched (v.evictwait + 1) (.eviction die) else v).unsent = v.unsent := by
    split <;> rfl
  have hall := (State.offerLease_unsent _ die).trans hw
  have hdies : ((if pri = 3 then v.sched (v.evictwait + 1) (.eviction die) else v).offerLease die).die die = v.die die := by
    unfold State.die
    rw [State.dies_of_unsent hall]
  exact ⟨(State.rest_of_unsent _ hall).trans hvrest, (State.tok_of_unsent hall).trans hvtok, by rw [hdies]; exact hfifo⟩

theorem State.leases_outcome (h : s.TakenFrom t) :
    let t' := t.leases dst d pri
    let l := s.linkOf d
    s.onlyPc t' ∧ t'.mem = s.mem ∧ t'.tok = s.tok + 1 ∧ (∀ p, s.me.loc dst = some p → t'.me.pend = s.me.pend ++ [⟨s.tok, p, false, none⟩])
      ∧ (s.leaseAnswer s.curCore d ≠ 0 →
          (s.now + 8, Instr.pendingCompletionWrite s.curCore s.curCtx s.tok (leaseWord (s.leaseAnswer s.curCore d) pri.toNat 0 l)) ∈ t'.agenda)
      ∧ (s.leaseAnswer s.curCore d = 0 → ∃ q, Table.get [] (t'.die (l / 1152)).fifos pri.toNat = Table.get [] (s.die (l / 1152)).fifos pri.toNat ++ [q]
          ∧ q.link = l ∧ q.core = s.curCore ∧ q.ctx = s.curCtx ∧ q.tok = s.tok ∧ q.pri = pri.toNat ∧ q.at_ = s.now) := by
  have hcore : t.curCore = s.curCore := State.curCore_of_unsent h.rest
  have hctx : (t.awaitsLease dst).curCtx = s.curCtx := (State.curCtx_of_unsent h.rest :)
  have hnow : (t.awaitsLease dst).now = s.now := (State.now_of_unsent h.rest :)
  have htok : t.tok = s.tok := State.tok_of_unsent h.rest
  have hatok : (t.awaitsLease dst).tok = s.tok + 1 := congrArg (· + 1) htok
  have hadie : (t.awaitsLease dst).die (s.linkOf d / 1152) = s.die (s.linkOf d / 1152) := by
    unfold State.die
    rw [← State.dies_of_unsent h.rest]
    rfl
  have harest : (t.awaitsLease dst).rest = (s.modMe (fun x => x.addPend dst s.tok false)).rest := by
    unfold State.awaitsLease
    rw [htok]
    exact (State.newTok_rest _).trans (State.modMe_rest (State.rest_of_unsent _ h.rest) _)
  have hlink : linkId s.curCore d = s.linkOf d := rfl
  unfold State.leases
  rw [State.leaseAnswer_taken h, hcore, hctx, htok, hlink]
  generalize hq : t.leaseReq (t.awaitsLease dst) d pri = q
  have hqfields : q.link = s.linkOf d ∧ q.core = s.curCore ∧ q.ctx = s.curCtx ∧ q.tok = s.tok ∧ q.pri = pri.toNat ∧ q.at_ = s.now := by
    subst hq
    exact ⟨congrArg (linkId · d) hcore, hcore, hctx, htok, rfl, hnow⟩
  generalize t.awaitsLease dst = a at *
  have hkept : s.me.Kept (s.me.addPend dst s.tok false) := by
    rw [Ctx.addPend_eq]
    exact s.me.pend_kept _
  have hpend {r : State} (hr : r.rest = a.rest) (p : PLoc) (hp : s.me.loc dst = some p) :
      r.advance.me.pend = s.me.pend ++ [⟨s.tok, p, false, none⟩] := by
    rw [State.me_advance, State.me_of_rest (hr.trans harest), State.me_modMe, Ctx.addPend, hp]
  by_cases hz : s.leaseAnswer s.curCore d = 0
  · obtain ⟨hrest, hqtok, hfifo⟩ := a.queueLease_left (s.linkOf d / 1152) q pri
    rw [if_neg (fun hne => hne hz)]
    refine ⟨State.onlyPc_advance_of_rest_modMe hkept (hrest.trans harest), (State.mem_of_rest (hrest.trans harest) :), hqtok.trans hatok,
      hpend hrest, fun hne => absurd hz hne, fun _ => ⟨q, ?_, hqfields⟩⟩
    rw [← hadie]
    exact hfifo
  · rw [if_pos hz]
    refine ⟨State.onlyPc_advance_of_rest_modMe hkept ((State.sched_rest _ _ _).trans harest), (State.mem_of_rest harest :), hatok,
      hpend (State.sched_rest _ _ _), fun _ => ?_, fun h0 => absurd h0 hz⟩
    rw [← hnow]
    exact State.mem_sched a 8 _

end

/-! ### UNLEASE -/

section
variable {s : State} {d : Dir} {k : Nat}

theorem exec_unlease (hclear : s.linkClear d) (hteam : (s.core s.curCore).team = some k) :
    exec (.unlease d) s = .next (s.unlease (s.linkOf d) k).advance := by
  show execUnlease d s = _
  rw [execUnlease, State.runOp_nil, State.linkChecks_any hclear]
  simp only [Eff.run, hteam]

variable {l team : Nat}

theorem State.unlease_queued {r : LeaseReq} (hr : s.queuedReq l = some r) (hteam : r.team = team) (hrestore : r.restore = false) :
    s.unlease l team = (s.unqueue l).complete r.core r.ctx r.tok (leaseWord 4 r.pri (s.now - r.at_) l) := by
  simp only [State.unlease, hr, hteam, hrestore, Bool.not_false, and_self, if_true]
theorem State.unlease_saved {r : LeaseReq} (hr : s.queuedReq l = some r) (hteam : r.team = team) (hrestore : r.restore = true)
    (hst : (s.eng l).st = .dormant) :
    s.unlease l team = (s.unqueue l).modTeam team (fun u => { u with saved := u.saved.filter (fun v => v.1 != l) }) := by
  simp only [State.unlease, hr, hteam, hrestore, Bool.not_true, Bool.false_eq_true, and_false, if_false, hst, and_self, if_true]
theorem State.unlease_foreign (hr : s.queuedReq l = none) (hz : ∀ z, (s.eng l).lease = some z → z.team ≠ team) : s.unlease l team = s := by
  have hnot : (s.eng l).lease.elim false (·.team == team) = false := by
    cases hl : (s.eng l).lease with
    | none => rfl
    | some z => simpa using hz z hl
  simp only [State.unlease, hr, hnot, Bool.not_false, true_or, if_true]
theorem State.unlease_recorded {z : Lease} (hr : s.queuedReq l = none) (hz : (s.eng l).lease = some z) (hteam : z.team = team)
    (hunl : (s.eng l).unl = false) (hopen : (s.eng l).near.opened = true ∨ (s.eng l).far.opened = true ∨ (s.eng l).st = .suspended) :
    s.unlease l team = s.modEng l (fun e => { e with unl := true }) := by
  simp only [State.unlease, hr, hz, Option.elim_some, hteam, beq_self_eq_true, Bool.not_true, Bool.false_eq_true, hunl, or_self, if_false,
    if_pos hopen]
theorem State.unlease_gives {z : Lease} (hr : s.queuedReq l = none) (hz : (s.eng l).lease = some z) (hteam : z.team = team)
    (hunl : (s.eng l).unl = false) (hnear : (s.eng l).near.opened = false) (hfar : (s.eng l).far.opened = false)
    (hst : (s.eng l).st ≠ .suspended) : s.unlease l team = s.giveUp l := by
  simp only [State.unlease, hr, hz, Option.elim_some, hteam, beq_self_eq_true, Bool.not_true, Bool.false_eq_true, hunl, or_self, if_false,
    hnear, hfar, hst]

/-- A lease given up: the engine sleeps and its token is free. -/
theorem State.giveUp_left (hst : (s.eng l).st ≠ .waking) (htoken : (s.eng l).token = true) :
    (s.giveUp l).rest = s.rest ∧ (s.giveUp l).eng l = (s.eng l).sleep ∧ ((s.giveUp l).die (l / 1152)).free = (s.die (l / 1152)).free + 1 := by
  have hcancel : s.cancelLease l = s := by
    unfold State.cancelLease
    split
    · rw [if_neg hst]
    · rfl
  have hgive : s.giveUp l = ((s.modEng l Engine.sleep).modDie (l / 1152) (fun d => { d with free := d.free + 1 })).offerLease (l / 1152) := by
    rw [State.giveUp, hcancel, State.returnToken, htoken]
    rfl
  have hdie : (((s.modEng l Engine.sleep).modDie (l / 1152) (fun d => { d with free := d.free + 1 })).die (l / 1152)).free
      = (s.die (l / 1152)).free + 1 := congrArg Die.free (Table.get_set_self _ _ _ _)
  have heng : ((s.modEng l Engine.sleep).modDie (l / 1152) (fun d => { d with free := d.free + 1 })).eng l = (s.eng l).sleep := s.eng_modEng l _
  have hrest : ((s.modEng l Engine.sleep).modDie (l / 1152) (fun d => { d with free := d.free + 1 })).rest = s.rest := rfl
  rw [hgive]
  generalize (s.modEng l Engine.sleep).modDie (l / 1152) (fun d => { d with free := d.free + 1 }) = v at *
  have hall := v.offerLease_unsent (l / 1152)
  refine ⟨(State.rest_of_unsent _ hall).trans hrest, ?_, ?_⟩
  · unfold State.eng at heng ⊢
    rw [State.engines_of_unsent hall, heng]
  · unfold State.die at hdie ⊢
    rw [State.dies_of_unsent hall, hdie]

end

/-- Settles O26: a LEASE is one request or one answer, and each case of R359 one change. -/
theorem leaseAndUnlease : Obligations.LeaseAndUnlease := by
  intro s dst d pri l e die
  refine ⟨fun hready hroom => ⟨_, exec_lease hready hroom, State.leases_outcome (s.takenFrom_taken [] (some dst))⟩,
    fun k hclear hteam => ⟨fun r hr hrteam hrestore => ?_, fun r hr hrteam hrestore hst => ?_, fun hr hz => ?_,
      fun z hr hz hzteam hunl => ⟨fun hopen => ?_, fun hnear hfar hsusp hwake htoken => ?_⟩⟩, fun hharv => ?_⟩
  · rw [exec_unlease hclear hteam, State.unlease_queued hr hrteam hrestore]
  · rw [exec_unlease hclear hteam, State.unlease_saved hr hrteam hrestore hst]
  · rw [exec_unlease hclear hteam, State.unlease_foreign hr hz]
  · refine ⟨_, exec_unlease hclear hteam, ?_⟩
    rw [State.unlease_recorded hr hz hzteam hunl hopen]
    exact ⟨s.eng_modEng l (fun e => { e with unl := true }), State.onlyPc_advance_of_rest (s.modEng_rest l _), rfl⟩
  · refine ⟨_, exec_unlease hclear hteam, ?_⟩
    rw [State.unlease_gives hr hz hzteam hunl hnear hfar hsusp]
    obtain ⟨hrest, heng, hdie⟩ := State.giveUp_left (s := s) (l := l) hwake htoken
    generalize s.giveUp l = u at *
    have hadvance : u.advance.eng l = (s.eng l).sleep := heng
    refine ⟨by rw [hadvance]; rfl, by rw [hadvance]; rfl, hdie, State.onlyPc_advance_of_rest hrest, (State.mem_of_rest hrest :)⟩
  · show execUnlease d s = _
    rw [execUnlease, State.runOp_nil, State.linkChecks_harvested hharv]
    rfl

end Sys2Proof.Machine
end

section
/-! PROOFS. LKOPEN and LKCLOSE (O27). -/

namespace Sys2Proof.Machine

/-! ### LKOPEN -/

section
variable {s : State} {dst base : Reg} {d : Dir} {roleB : Bool} {disp : BitVec 16}

/-- An end as an LKOPEN leaves it. -/
def EEnd.openedBy (x : EEnd) (party : Nat) (roleB : Bool) (desc addr tok : Nat) : EEnd :=
  { x with isOpen := true, party := party, last := some party, roleB := roleB, desc := desc, addr := addr, tok := some tok, feeds := [], fed := 0 }
/-- The open of a free end, with the operands taken. -/
def State.opens (t : State) (dst : Reg) (l : Nat) (far roleB : Bool) (desc addr : Nat) : State :=
  let u := (t.modMe (fun c => c.addPend dst t.tok true)).newTok
  ((u.modEnd l far (fun x => x.openedBy u.meId roleB desc addr t.tok)).openEffect l far).advance

variable (hready : s.ready [base] (some dst) = true) (hclear : s.linkClear d)
  (hfits : s.localFits (effAddr16 (s.srcVal base) disp) 64 64 = true)
  (hbad : s.badIn (s.cellOf (effAddr16 (s.srcVal base) disp)) 64 = false)
include hready hclear hfits hbad

theorem exec_lkopen_bad {b : Nat} (hb : s.descBad (memLe s.mem 64 (s.cellOf (effAddr16 (s.srcVal base) disp))) roleB = some b) :
    exec (.lkopen dst base d roleB disp) s
      = .next (s.fault .format (BitVec.ofNat 64 (effAddr16 (s.srcVal base) disp)) (BitVec.ofNat 64 b)) := by
  have hmem : s.localNat (effAddr16 (s.srcVal base) disp) 64 = memLe s.mem 64 (s.cellOf (effAddr16 (s.srcVal base) disp)) := rfl
  unfold State.cellOf at hbad
  show execLkopen dst base d roleB disp s = _
  rw [execLkopen, State.runOp_ready hready, State.linkChecks_any hclear]
  simp only [effAddr16_of_fst, State.localSpan_of_fits hfits, hbad, Bool.false_eq_true, if_false, hmem, hb]
  rfl

variable (hok : s.descBad (memLe s.mem 64 (s.cellOf (effAddr16 (s.srcVal base) disp))) roleB = none)
include hok

theorem exec_lkopen_opened (hopen : (s.endOf d).opened = true) : exec (.lkopen dst base d roleB disp) s = .next (s.fault .illegal 0 0x10C) := by
  have hmem : s.localNat (effAddr16 (s.srcVal base) disp) 64 = memLe s.mem 64 (s.cellOf (effAddr16 (s.srcVal base) disp)) := rfl
  unfold State.cellOf at hbad
  unfold State.endOf State.engOf at hopen
  show execLkopen dst base d roleB disp s = _
  rw [execLkopen, State.runOp_ready hready, State.linkChecks_any hclear]
  simp only [effAddr16_of_fst, State.localSpan_of_fits hfits, hbad, Bool.false_eq_true, if_false, hmem, hok, hopen, if_true]
  rfl
theorem exec_lkopen_order (hopen : (s.endOf d).opened = false) (hheld : 2 ≤ s.heldLinks.length ∨ ∃ h ∈ s.heldLinks, s.linkOf d ≤ h) :
    exec (.lkopen dst base d roleB disp) s = .next (s.fault .rzvOrder (BitVec.ofNat 64 (effAddr16 (s.srcVal base) disp))
      (BitVec.ofNat 64 (detailWord (s.linkOf d) (!isNear d) (s.engOf d).prod (s.engOf d).kdone 0))) := by
  have hmem : s.localNat (effAddr16 (s.srcVal base) disp) 64 = memLe s.mem 64 (s.cellOf (effAddr16 (s.srcVal base) disp)) := rfl
  have hrefused : 2 ≤ s.heldLinks.length ∨ s.heldLinks.any (fun h => decide (s.linkOf d ≤ h)) = true := by simpa using hheld
  unfold State.cellOf at hbad
  unfold State.endOf State.engOf at hopen
  show execLkopen dst base d roleB disp s = _
  rw [execLkopen, State.runOp_ready hready, State.linkChecks_any hclear]
  simp only [effAddr16_of_fst, State.localSpan_of_fits hfits, hbad, Bool.false_eq_true, if_false, hmem, hok, hopen, if_pos hrefused]
  rfl
theorem exec_lkopen (hopen : (s.endOf d).opened = false) (hlen : s.heldLinks.length < 2) (horder : ∀ h ∈ s.heldLinks, h < s.linkOf d)
    (hroom : s.me.pend.length < 8) (hother : ∀ t, s.TakenFrom t → ((t.eng (s.linkOf d)).end_ (!(!isNear d))).isOpen = false) :
    exec (.lkopen dst base d roleB disp) s = .next ((s.taken [base] (some dst)).opens dst (s.linkOf d) (!isNear d) roleB
      (memLe s.mem 64 (s.cellOf (effAddr16 (s.srcVal base) disp))) (effAddr16 (s.srcVal base) disp)) := by
  have hmem : s.localNat (effAddr16 (s.srcVal base) disp) 64 = memLe s.mem 64 (s.cellOf (effAddr16 (s.srcVal base) disp)) := rfl
  have hnot : ¬ (2 ≤ s.heldLinks.length ∨ s.heldLinks.any (fun h => decide (s.linkOf d ≤ h)) = true) := by
    simp only [List.any_eq_true, decide_eq_true_eq, not_or, not_exists, not_and, Nat.not_le]
    exact ⟨hlen, horder⟩
  have hy := hother _ (s.takenFrom_taken [base] (some dst))
  unfold State.cellOf at hbad
  unfold State.endOf State.engOf at hopen
  show execLkopen dst base d roleB disp s = _
  rw [execLkopen, State.runOp_ready hready, State.linkChecks_any hclear]
  simp only [effAddr16_of_fst, State.localSpan_of_fits hfits, hbad, Bool.false_eq_true, if_false, hmem, hok, hopen, if_neg hnot, State.withPend,
    if_pos hroom, Eff.run, hy, Bool.false_and]
  rfl

end

/-- An open whose other end is free changes only its end and, from idle, the engine's state (R107). -/
theorem State.openEffect_alone {s : State} {l : Nat} {far : Bool} (h : ((s.eng l).end_ (!far)).isOpen = false) :
    s.openEffect l far = if (s.eng l).st = .idle then s.modEng l (fun e => { e with st := .openPending }) else s := by
  simp only [State.openEffect, h, Bool.not_false, if_true]

theorem State.opens_outcome {s t : State} (h : s.TakenFrom t) {dst : Reg} {d : Dir} {roleB : Bool} {desc addr : Nat}
    (hother : ((s.engOf d).end_ (!(!isNear d))).isOpen = false) :
    let l := s.linkOf d
    let t' := t.opens dst l (!isNear d) roleB desc addr
    s.onlyPc t' ∧ t'.mem = s.mem
      ∧ (let x := (t'.eng l).end_ (!isNear d)
         x.isOpen = true ∧ x.party = s.meId ∧ x.roleB = roleB ∧ x.desc = desc ∧ x.addr = addr ∧ x.tok = some s.tok ∧ x.feeds = [])
      ∧ (t'.eng l).st = (if (s.engOf d).st = .idle then .openPending else (s.engOf d).st)
      ∧ (∀ p, s.me.loc dst = some p → t'.me.pend = s.me.pend ++ [⟨s.tok, p, true, none⟩]) := by
  intro l
  have htok : t.tok = s.tok := State.tok_of_unsent h.rest
  have heng : t.eng l = s.eng l := by
    unfold State.eng
    rw [State.engines_of_unsent h.rest]
  have hid : t.meId = s.meId := by
    have hteam : (t.core s.curCore).team = (s.core s.curCore).team := (congrArg Core.team (h.core s.curCore) :)
    unfold State.meId
    rw [State.curCore_of_unsent h.rest, State.curCtx_of_unsent h.rest, hteam]
  unfold State.opens
  rw [htok]
  have hrest : (t.modMe (fun c => c.addPend dst s.tok true)).newTok.rest = (s.modMe (fun c => c.addPend dst s.tok true)).rest :=
    (State.newTok_rest _).trans (State.modMe_rest (State.rest_of_unsent _ h.rest) _)
  have hueng : (t.modMe (fun c => c.addPend dst s.tok true)).newTok.eng l = s.eng l := heng
  have huid : (t.modMe (fun c => c.addPend dst s.tok true)).newTok.meId = s.meId := hid
  generalize (t.modMe (fun c => c.addPend dst s.tok true)).newTok = u at *
  dsimp only
  rw [huid]
  have hveng : (u.modEnd l (!isNear d) (fun x => x.openedBy s.meId roleB desc addr s.tok)).eng l
      = (s.eng l).modEnd (!isNear d) (fun x => x.openedBy s.meId roleB desc addr s.tok) := by
    rw [State.modEnd, State.eng_modEng, hueng]
  have hvrest : (u.modEnd l (!isNear d) (fun x => x.openedBy s.meId roleB desc addr s.tok)).rest = u.rest := u.modEng_rest l _
  generalize u.modEnd l (!isNear d) (fun x => x.openedBy s.meId roleB desc addr s.tok) = v at *
  have hvst : (v.eng l).st = (s.eng l).st := by rw [hveng, Engine.modEnd_st]
  have hend : (v.eng l).end_ (!isNear d) = ((s.eng l).end_ (!isNear d)).openedBy s.meId roleB desc addr s.tok := by
    rw [hveng, Engine.end_modEnd_self]
  rw [State.openEffect_alone (by rw [hveng, Engine.end_modEnd_other]; exact hother)]
  generalize hw : (if (v.eng l).st = .idle then v.modEng l (fun e => { e with st := .openPending }) else v) = w
  have hwrest : w.rest = v.rest := by
    rw [← hw]
    split <;> rfl
  have hwend : (w.eng l).end_ (!isNear d) = (v.eng l).end_ (!isNear d) := by
    rw [← hw]
    split
    · rw [State.eng_modEng]
      rfl
    · rfl
  have hwst : (w.eng l).st = if (s.eng l).st = .idle then .openPending else (s.eng l).st := by
    rw [← hw, hvst]
    split
    · rw [State.eng_modEng]
    · exact hvst
  have hall := (hwrest.trans hvrest).trans hrest
  have hkept : s.me.Kept (s.me.addPend dst s.tok true) := by
    rw [Ctx.addPend_eq]
    exact s.me.pend_kept _
  refine ⟨State.onlyPc_advance_of_rest_modMe hkept hall, (State.mem_of_rest hall :), ?_, hwst, fun p hp => ?_⟩
  · have hadvance : (w.advance.eng l).end_ (!isNear d) = ((s.eng l).end_ (!isNear d)).openedBy s.meId roleB desc addr s.tok := hwend.trans hend
    rw [hadvance]
    exact ⟨rfl, rfl, rfl, rfl, rfl, rfl, rfl⟩
  · rw [State.me_advance, State.me_of_rest hall, State.me_modMe, Ctx.addPend, hp]

/-! ### LKCLOSE -/

/-- An open-pending engine that loses its only open. -/
def State.closesPending (s : State) (l : Nat) (far : Bool) : State := (s.setEng l ((s.eng l).dropFeeds far)).closeEnd l far

section
variable {s : State} {d : Dir}

theorem exec_lkclose_done (hclear : s.linkClear d) (hp : s.isParty d) (hst : (s.engOf d).st = .done) :
    exec (.lkclose d) s = .next (s.closeEnd (s.linkOf d) (!isNear d)).advance := by
  obtain ⟨hopen, -, hheld⟩ := id hp
  unfold State.endOf State.engOf at *
  show execLkclose d s = _
  rw [execLkclose, State.runOp_nil, State.linkChecks_lastParty hclear hp]
  simp only [Eff.run, hheld, hopen, Bool.not_true, Bool.false_eq_true, if_false, hst]
theorem exec_lkclose_pending (hclear : s.linkClear d) (hp : s.isParty d) (hst : (s.engOf d).st = .openPending) :
    exec (.lkclose d) s = .next (s.closesPending (s.linkOf d) (!isNear d)).advance := by
  obtain ⟨hopen, -, hheld⟩ := id hp
  unfold State.endOf State.engOf at *
  show execLkclose d s = _
  rw [execLkclose, State.runOp_nil, State.linkChecks_lastParty hclear hp]
  simp only [Eff.run, hheld, hopen, Bool.not_true, Bool.false_eq_true, if_false, hst]
  rfl
theorem exec_lkclose_refused (hclear : s.linkClear d) (hholder : (s.endOf d).holder s.meId = false) (hlast : (s.endOf d).last ≠ some s.meId) :
    exec (.lkclose d) s = .next (s.fault .illegal 0 0x10C) := by
  have hno : ¬ (s.endOf d).allows s.meId .lastParty = true := by
    simp [EEnd.allows, hholder, hlast]
  show execLkclose d s = _
  rw [execLkclose, State.runOp_nil, State.linkChecks_clear hclear, if_neg hno]
  rfl

end

section
variable {s : State} {l : Nat} {far : Bool}

theorem Engine.open_iff (e : Engine) (far : Bool) :
    (e.near.isOpen = true ∨ e.far.isOpen = true) ↔ ((e.end_ far).isOpen = true ∨ (e.end_ (!far)).isOpen = true) := by
  cases far
  · rfl
  · exact or_comm
theorem State.settle_open (h : (s.eng l).near.isOpen = true ∨ (s.eng l).far.isOpen = true) : s.settle l = s := if_pos h
theorem State.settle_idle (h : ¬ ((s.eng l).near.isOpen = true ∨ (s.eng l).far.isOpen = true)) (hst : (s.eng l).st = .idle)
    (hunl : (s.eng l).unl = false) : s.settle l = (s.setEng l (s.eng l).clearRun).offerHeld l := by
  have hclear : (s.eng l).clearRun.st = .idle := hst
  have hclearUnl : (s.eng l).clearRun.unl = false := hunl
  have hrecord : (s.setEng l (s.eng l).clearRun).recordStands l = false := by
    unfold State.recordStands
    rw [State.eng_setEng, hclear]
    rfl
  simp only [State.settle, if_neg h, hclear, hrecord, Bool.false_eq_true, if_false, hclearUnl, and_false]
theorem State.offerHeld_unsent (s : State) (l : Nat) : (s.offerHeld l).unsent = s.unsent := by
  have hoffer (b : Bool) (u : State) (i : Instr) : (if b = true then u.schedOnce 0 i else u).unsent = u.unsent := by
    split
    · exact u.schedOnce_unsent _ _
    · rfl
  exact (hoffer _ _ _).trans (hoffer _ _ _)

/-- An end closed, before its register is written and the engine settles. -/
def State.shutEnd (s : State) (l : Nat) (far : Bool) : State :=
  (s.modEnd l far (fun x => { x with isOpen := false, resume := false })).modEng l (fun e =>
    { e with st := if e.st = .openPending then .idle else e.st })
theorem State.closeEnd_eq (s : State) (l : Nat) (far : Bool) : s.closeEnd l far = ((s.shutEnd l far).writeOpen l far).settle l := rfl

/-- The engine once an end is shut. -/
theorem State.shutEnd_eng (s : State) (l : Nat) (far : Bool) :
    ((s.shutEnd l far).eng l).end_ far = { (s.eng l).end_ far with isOpen := false, resume := false }
      ∧ ((s.shutEnd l far).eng l).end_ (!far) = (s.eng l).end_ (!far)
      ∧ ((s.shutEnd l far).eng l).st = (if (s.eng l).st = .openPending then .idle else (s.eng l).st)
      ∧ ((s.shutEnd l far).eng l).unl = (s.eng l).unl := by
  have heng : (s.shutEnd l far).eng l = { (s.eng l).modEnd far (fun x => { x with isOpen := false, resume := false }) with
      st := if (s.eng l).st = .openPending then .idle else (s.eng l).st } := by
    unfold State.shutEnd State.modEnd
    rw [State.eng_modEng, State.eng_modEng, Engine.modEnd_st]
  rw [heng]
  cases far <;> exact ⟨rfl, rfl, rfl, rfl⟩
theorem State.shutEnd_rest (s : State) (l : Nat) (far : Bool) : (s.shutEnd l far).rest = s.rest := rfl
theorem State.writeOpen_none (h : ((s.eng l).end_ far).tok = none) : s.writeOpen l far = s := by
  rw [State.writeOpen, h]

/-- A completion changes contexts or teams alone. -/
theorem State.complete_frame (s : State) (c n tok : Nat) (v : Word) :
    s.complete c n tok v = { s with ctxs := (s.complete c n tok v).ctxs, teams := (s.complete c n tok v).teams } := by
  unfold State.complete
  dsimp only
  split <;> rfl
/-- Writing an open's register leaves memory, and of its engine all but the register's number. -/
theorem State.writeOpen_left (s : State) (l : Nat) (far : Bool) : (s.writeOpen l far).mem = s.mem
    ∧ ((s.writeOpen l far).eng l).end_ far = { (s.eng l).end_ far with tok := none }
    ∧ ((s.writeOpen l far).eng l).end_ (!far) = (s.eng l).end_ (!far)
    ∧ ((s.writeOpen l far).eng l).st = (s.eng l).st ∧ ((s.writeOpen l far).eng l).unl = (s.eng l).unl := by
  unfold State.writeOpen
  dsimp only
  split
  · next h => exact ⟨rfl, by rw [← h], rfl, rfl, rfl⟩
  · next n _ =>
    generalize hu : s.complete (endCore l far) (((s.eng l).end_ far).party % 16) n (BitVec.ofNat 64 (s.statusWord l far 0)) = u
    have hframe := s.complete_frame (endCore l far) (((s.eng l).end_ far).party % 16) n (BitVec.ofNat 64 (s.statusWord l far 0))
    rw [hu] at hframe
    have heng : u.eng l = s.eng l := by
      rw [hframe]
      rfl
    have hmem : u.mem = s.mem := by
      rw [hframe]
    rw [State.modEnd, State.eng_modEng, heng]
    refine ⟨hmem, ?_⟩
    cases far <;> exact ⟨rfl, rfl, rfl, rfl⟩

/-- Feeds dropped: an engine's ends stand as they stood but for them. -/
theorem Engine.dropFeeds_left (e : Engine) (far : Bool) : (e.dropFeeds far).end_ far = { e.end_ far with feeds := [] }
    ∧ (e.dropFeeds far).end_ (!far) = e.end_ (!far) ∧ (e.dropFeeds far).st = e.st ∧ (e.dropFeeds far).unl = e.unl := by
  have hfold (fs : List Feed) (e : Engine) : ∃ a b, fs.foldl (fun e f => e.numDone f.num) e = { e with ctr := a, done := b } := by
    induction fs generalizing e with
    | nil => exact ⟨e.ctr, e.done, rfl⟩
    | cons f fs ih =>
      obtain ⟨a, b, h⟩ := ih (e.numDone f.num)
      exact ⟨a, b, by rw [List.foldl_cons, h]; rfl⟩
  obtain ⟨a, b, h⟩ := hfold (e.end_ far).feeds e
  unfold Engine.dropFeeds
  rw [h]
  cases far <;> exact ⟨rfl, rfl, rfl, rfl⟩

end

/-- What closing an end leaves while the other stands open. -/
theorem State.closeEnd_one {s : State} {l : Nat} {far : Bool} (htok : ((s.eng l).end_ far).tok = none)
    (hother : ((s.eng l).end_ (!far)).isOpen = true) : s.closeEnd l far = s.shutEnd l far := by
  obtain ⟨hend, hend', -, -⟩ := s.shutEnd_eng l far
  rw [State.closeEnd_eq, State.writeOpen_none (by rw [hend]; exact htok), State.settle_open]
  rw [Engine.open_iff _ far, hend']
  exact Or.inr hother

theorem State.closesPending_left {s : State} {l : Nat} {far : Bool} (hst : (s.eng l).st = .openPending) (hunl : (s.eng l).unl = false)
    (hother : ((s.eng l).end_ (!far)).isOpen = false) :
    (s.closesPending l far).mem = s.mem ∧ (((s.closesPending l far).eng l).end_ far).isOpen = false ∧ ((s.closesPending l far).eng l).st = .idle
      ∧ (((s.eng l).end_ far).tok = none → (s.closesPending l far).rest = s.rest) := by
  obtain ⟨hend, hend', hdst, hdunl⟩ := (s.eng l).dropFeeds_left far
  unfold State.closesPending
  have hueng : (s.setEng l ((s.eng l).dropFeeds far)).eng l = (s.eng l).dropFeeds far := s.eng_setEng l _
  have humem : (s.setEng l ((s.eng l).dropFeeds far)).mem = s.mem := rfl
  have hurest : (s.setEng l ((s.eng l).dropFeeds far)).rest = s.rest := rfl
  generalize s.setEng l ((s.eng l).dropFeeds far) = u at *
  obtain ⟨hvend, hvend', hvst, hvunl⟩ := u.shutEnd_eng l far
  have hvmem : (u.shutEnd l far).mem = u.mem := rfl
  have hvrest := u.shutEnd_rest l far
  rw [State.closeEnd_eq]
  generalize u.shutEnd l far = v at *
  obtain ⟨hwmem, hwend, hwend', hwst, hwunl⟩ := v.writeOpen_left l far
  have hwrest : (v.eng l |>.end_ far).tok = none → v.writeOpen l far = v := State.writeOpen_none
  generalize v.writeOpen l far = w at *
  rw [hueng] at hvend hvend' hvst hvunl
  have hclosed : (w.eng l |>.end_ far).isOpen = false := by rw [hwend, hvend]
  have hidle : (w.eng l).st = .idle := by rw [hwst, hvst, hdst, hst, if_pos rfl]
  have hnot : ¬ ((w.eng l).near.isOpen = true ∨ (w.eng l).far.isOpen = true) := by
    rw [Engine.open_iff _ far, hclosed, hwend', hvend', hend', hother]
    simp
  rw [State.settle_idle hnot hidle (by rw [hwunl, hvunl, hdunl, hunl])]
  have hall := State.offerHeld_unsent (w.setEng l (w.eng l).clearRun) l
  have heng : ((w.setEng l (w.eng l).clearRun).offerHeld l).eng l = (w.eng l).clearRun := by
    have hengines : ((w.setEng l (w.eng l).clearRun).offerHeld l).engines = (w.setEng l (w.eng l).clearRun).engines :=
      State.engines_of_unsent hall
    exact (congrArg (fun z => Table.get Engine.dormant z l) hengines).trans (w.eng_setEng l _)
  refine ⟨(State.mem_of_unsent hall).trans (hwmem.trans (hvmem.trans humem)), ?_, ?_, fun htok => ?_⟩
  · rw [heng]
    cases far <;> exact hclosed
  · rw [heng]
    exact hidle
  · have hv : (v.eng l |>.end_ far).tok = none := by
      rw [hvend, hend]
      exact htok
    rw [State.rest_of_unsent _ hall, State.setEng_rest, hwrest hv, hvrest, hurest]

/-- Settles O27: an open's checks pass or fail in turn; a close ends the rendezvous of its end. -/
theorem openAndClose : Obligations.OpenAndClose := by
  intro s dst base d roleB disp a l far desc e hclear
  refine ⟨fun hready hfits hbad => ⟨fun hok hopen hlen horder hroom hother => ?_, exec_lkopen_opened hready hclear hfits hbad,
      exec_lkopen_order hready hclear hfits hbad, fun b => exec_lkopen_bad hready hclear hfits hbad⟩,
    fun hp hst htok hother => ?_, fun hp hst hother hunl => ?_, exec_lkclose_refused hclear⟩
  · have hothers (t : State) (h : s.TakenFrom t) : ((t.eng (s.linkOf d)).end_ (!(!isNear d))).isOpen = false := by
      unfold State.eng
      rw [State.engines_of_unsent h.rest]
      exact hother
    exact ⟨_, exec_lkopen hready hclear hfits hbad hok hopen hlen horder hroom hothers,
      State.opens_outcome (s.takenFrom_taken [base] (some dst)) hother⟩
  · have hdone : (s.eng l).st = .done := hst
    refine ⟨_, exec_lkclose_done hclear hp hst, ?_⟩
    rw [State.closeEnd_one htok hother]
    obtain ⟨hend, hend', hshut, -⟩ := s.shutEnd_eng l far
    have hadvance : (s.shutEnd l far).advance.eng l = (s.shutEnd l far).eng l := rfl
    refine ⟨State.onlyPc_advance_of_rest (s.shutEnd_rest l far), rfl, ?_, ?_, ?_⟩
    · rw [hadvance, hend]
    · rw [hadvance, hend']
      exact hother
    · rw [hadvance, hshut, if_neg (by rw [hdone]; decide)]
      exact hdone
  · refine ⟨_, exec_lkclose_pending hclear hp hst, ?_⟩
    obtain ⟨hmem, hclosed, hidle, hrest⟩ := State.closesPending_left (s := s) (l := l) (far := far) hst hunl hother
    exact ⟨hmem, hclosed, hidle, fun htok => State.onlyPc_advance_of_rest (hrest htok)⟩

end Sys2Proof.Machine
end

section
/-! PROOFS. What moving an engine on leaves: its loaders, its K-steps and its drains are offered, and nothing else changes (R115, R121,
R125). -/

namespace Sys2Proof.Machine

/-! ### The parts that stand -/

/-- An end besides what its loader moves. -/
def EEnd.still (x : EEnd) : EEnd := { x with fifo := [], pre := [], fetch := none }
/-- An engine besides what its loaders and its lockstep move. -/
def Engine.still (e : Engine) : Engine :=
  { e with
    st := .dormant, passed := [], near := e.near.still, far := e.far.still, held := none, stalls := 0, plans := .empty, expect := 0, rowAt := 0
    sp := .empty, counts := .empty }
/-- Drains that come `w` cycles later. -/
def Engine.late (e : Engine) (w : Nat) : Engine := { e with drains := e.drains.map (fun d => { d with due := d.due + w }) }

theorem Engine.late_zero (e : Engine) : e.late 0 = e := by
  unfold Engine.late
  have h : (fun d : Drain => { d with due := d.due + 0 }) = id := rfl
  rw [h, List.map_id]
theorem Engine.late_late (e : Engine) (v w : Nat) : (e.late v).late w = e.late (v + w) := by
  unfold Engine.late
  simp only [List.map_map]
  congr 2
  funext d
  simp only [Function.comp, Nat.add_assoc]

/-- A state besides its engines and what a send changes. -/
def State.engless (s : State) : State := { s.unsent with engines := .empty }

/-- `t` is `s` once the engine of a link has been moved on, what is due of its drains `w` cycles later. -/
structure State.Driven (l w : Nat) (s t : State) : Prop where
  engless : t.engless = s.engless
  others : ∀ k, k ≠ l → t.eng k = s.eng k
  still : (t.eng l).still = ((s.eng l).late w).still

theorem State.Driven.refl (l : Nat) (s : State) : State.Driven l 0 s s where
  engless := rfl
  others _ _ := rfl
  still := by rw [Engine.late_zero]
theorem Engine.still_late {e f : Engine} (h : e.still = f.still) (w : Nat) : (e.late w).still = (f.late w).still :=
  (congrArg (fun e : Engine => e.late w) h :)
theorem State.Driven.trans {l v w : Nat} {s t u : State} (h : State.Driven l v s t) (h' : State.Driven l w t u) : State.Driven l (v + w) s u where
  engless := h'.engless.trans h.engless
  others k hk := (h'.others k hk).trans (h.others k hk)
  still := by rw [h'.still, Engine.still_late h.still, Engine.late_late]

/-- An event scheduled moves no engine. -/
theorem State.Driven.of_unsent {l : Nat} {s t : State} (h : t.unsent = s.unsent) : State.Driven l 0 s t where
  engless := (congrArg (fun u : State => ({ u with engines := .empty } : State)) h :)
  others k _ := by
    unfold State.eng
    rw [State.engines_of_unsent h]
  still := by
    unfold State.eng
    rw [State.engines_of_unsent h, Engine.late_zero]
/-- A change of what the engine moves. -/
theorem State.Driven.of_setEng {l w : Nat} {s : State} {e : Engine} (h : e.still = ((s.eng l).late w).still) : State.Driven l w s (s.setEng l e) where
  engless := rfl
  others k hk := Table.get_set_other _ _ hk _
  still := by rw [State.eng_setEng, h]

/-! ### The parts of driving -/

theorem Engine.still_setFifo (e : Engine) (far : Bool) (cs : List Col) : (e.modEnd far (fun x => { x with fifo := cs })).still = e.still := by
  cases far <;> rfl
theorem Engine.still_setFetch (e : Engine) (far : Bool) (r : Option Fetch) : (e.modEnd far (fun x => { x with fetch := r })).still = e.still := by
  cases far <;> rfl
theorem Engine.still_beginPre (e : Engine) (now q : Nat) : (e.beginPre now q).still = e.still := by
  unfold Engine.beginPre
  split <;> rfl
theorem Engine.still_absorb (n : Nat) (e : Engine) : (absorb n e).still = e.still := by
  induction n generalizing e with
  | zero => rfl
  | succ n ih =>
    unfold absorb
    split
    · rfl
    · split
      · rw [ih, Engine.still_setFifo, Engine.still_setFifo]
        rfl
      · rfl
theorem Engine.modEnd_held (e : Engine) (far : Bool) (f : EEnd → EEnd) : (e.modEnd far f).held = e.held := by
  cases far <;> rfl
theorem Engine.held_absorb (n : Nat) (e : Engine) : (absorb n e).held = e.held := by
  induction n generalizing e with
  | zero => rfl
  | succ n ih =>
    unfold absorb
    split
    · rfl
    · split
      · rw [ih, Engine.modEnd_held, Engine.modEnd_held]
      · rfl

section
variable (s : State) (l : Nat)

theorem State.driveLoader_driven (far : Bool) (base : Nat) : State.Driven l 0 s (s.driveLoader l far base) := by
  unfold State.driveLoader
  dsimp only
  split
  · exact .refl l s
  · split
    · exact .refl l s
    · next k fresh _ =>
      refine (State.Driven.of_setEng (w := 0) ?_).trans (.of_unsent (State.sched_unsent _ _ _))
      rw [Engine.late_zero, Engine.still_setFetch]
      split
      · exact Engine.still_beginPre _ _ _
      · rfl
theorem State.ite_unsent {s u : State} {c : Prop} [Decidable c] (h : u.unsent = s.unsent) : (if c then u else s).unsent = s.unsent := by
  split
  · exact h
  · rfl
theorem State.offerEng_driven (base : Nat) : State.Driven l 0 s (s.offerEng l base) := by
  have hloaders := (s.driveLoader_driven l false base).trans (State.driveLoader_driven _ l true base)
  unfold State.offerEng
  dsimp only
  generalize (s.driveLoader l false base).driveLoader l true base = t at *
  refine hloaders.trans (w := 0) (.of_unsent ?_)
  split
  · simp only [apply_ite State.unsent, State.schedSoon_unsent, State.schedOnce_unsent, ite_self]
  · simp only [apply_ite State.unsent, State.schedSoon_unsent, State.schedOnce_unsent, ite_self]

/-- An engine that goes on is later by the cycles it stood. -/
theorem Engine.still_delay (e : Engine) (n m : Nat) : (e.delay n m).still = (e.late n).still := rfl
/-- A loader's read that an engine resumes is scheduled again. -/
theorem State.reread_unsent (far : Bool) (f : Option Fetch) :
    (match f with | some f => s.sched (f.ends - s.now) (.loaderFetch l far) | none => s).unsent = s.unsent := by
  cases f <;> rfl
theorem State.goOnEng_driven (h t : Nat) : State.Driven l (t - h) s (s.goOnEng l h t) := by
  unfold State.goOnEng
  dsimp only
  generalize he : ({ (s.eng l).delay (t - h) (t - Nat.max h ((s.eng l).press.elim 0 (·.2))) with
      held := none, stalls := if (s.eng l).sched_ = true then (s.eng l).stalls + (t - h) else (s.eng l).stalls } : Engine) = e
  have hset : State.Driven l (t - h) s (s.setEng l e) := .of_setEng (by rw [← he]; rfl)
  generalize s.setEng l e = u at *
  exact hset.trans (w := 0) (.of_unsent ((State.reread_unsent _ l true _).trans (State.reread_unsent u l false _)))
theorem State.standing_driven (base : Nat) : ∃ w, ((s.eng l).held = none → w = 0) ∧ State.Driven l w s (s.standing l base) := by
  unfold State.standing
  dsimp only
  split
  · refine ⟨0, fun _ => rfl, State.Driven.of_setEng ?_⟩
    rw [Engine.late_zero]
    rfl
  · split
    · next h hheld =>
      split
      · exact ⟨_, fun hn => absurd (hheld.symm.trans hn) (by simp), s.goOnEng_driven l _ _⟩
      · refine ⟨0, fun _ => rfl, State.Driven.of_setEng ?_⟩
        rw [Engine.late_zero]
        rfl
    · exact ⟨0, fun _ => rfl, .refl l s⟩
/-- Moving an engine on: its drains are later by the cycles it stood, if it stood. -/
theorem State.driveEng_driven (base : Nat) : ∃ w, ((s.eng l).held = none → w = 0) ∧ State.Driven l w s (s.driveEng l base) := by
  unfold State.driveEng
  dsimp only
  generalize he : (if (s.eng l).st = .ready ∧ (!(s.eng l).stopping) = true ∧ 0 < (s.eng l).near.fed ∧ 0 < (s.eng l).far.fed
    then { s.eng l with st := .running } else s.eng l) = e
  have hstill : e.still = (s.eng l).still ∧ e.held = (s.eng l).held := by
    rw [← he]
    split <;> exact ⟨rfl, rfl⟩
  generalize hf : (if e.runs = true then absorb (64 * e.depth + 96) e else e) = f
  have hfstill : f.still = e.still ∧ f.held = e.held := by
    rw [← hf]
    split
    · exact ⟨Engine.still_absorb _ e, Engine.held_absorb _ e⟩
    · exact ⟨rfl, rfl⟩
  have hset : State.Driven l 0 s (s.setEng l f) := .of_setEng (by rw [Engine.late_zero, hfstill.1, hstill.1])
  obtain ⟨w, hw, hstand⟩ := (s.setEng l f).standing_driven l base
  rw [State.eng_setEng] at hw
  generalize (s.setEng l f).standing l base = t at *
  have hall := hset.trans hstand
  rw [Nat.zero_add] at hall
  refine ⟨w, fun hn => hw (hfstill.2.trans (hstill.2.trans hn)), ?_⟩
  split
  · exact hall
  · exact hall.trans (t.offerEng_driven l _)

end

end Sys2Proof.Machine
end

section
/-! PROOFS. LKFEED, LKSPARSE and LKDRAIN (O28). -/

namespace Sys2Proof.Machine

/-! ### What a driven engine still shows -/

section
variable {l w : Nat} {s t : State} (h : State.Driven l w s t)
include h

theorem State.Driven.rest : t.rest = s.rest :=
  (congrArg (fun u : State => ({ u with dies := .empty, tok := 0 } : State)) h.engless :)
theorem State.Driven.feeds (far : Bool) : ((t.eng l).end_ far).feeds = ((s.eng l).end_ far).feeds := by
  cases far
  · exact (congrArg (fun e : Engine => e.near.feeds) h.still :)
  · exact (congrArg (fun e : Engine => e.far.feeds) h.still :)
theorem State.Driven.num : (t.eng l).num = (s.eng l).num := (congrArg (fun e : Engine => e.num) h.still :)
theorem State.Driven.recv : (t.eng l).recv = (s.eng l).recv := (congrArg (fun e : Engine => e.recv) h.still :)
theorem State.Driven.heldTile : (t.eng l).heldTile = (s.eng l).heldTile := (congrArg (fun e : Engine => e.heldTile) h.still :)
theorem State.Driven.drains : (t.eng l).drains = (s.eng l).drains.map (fun d => { d with due := d.due + w }) :=
  (congrArg (fun e : Engine => e.drains) h.still :)

end

theorem State.TakenFrom.eng {s t : State} (h : s.TakenFrom t) (l : Nat) : t.eng l = s.eng l := by
  unfold State.eng
  rw [State.engines_of_unsent h.rest]
theorem State.TakenFrom.rest' {s t : State} (h : s.TakenFrom t) : t.rest = s.rest := State.rest_of_unsent _ h.rest

/-! ### LKFEED -/

section
variable {s : State} {d : Dir} {handle : BitVec 4} {base : Reg} {bdisp : BitVec 6} {stride : BitVec 12} {count : BitVec 16}

/-- The base of a feed, and its span. -/
def State.feedBase (s : State) (base : Reg) (bdisp : BitVec 6) : Nat := (s.srcVal base + BitVec.ofNat 64 (64 * bdisp.toNat)).toNat
def feedSpan (desc count stride : Nat) : Nat := if dIsBlock desc then (count - 1) * 64 + 31 * stride + 64 else (count - 1) * stride + 64
/-- The feed an LKFEED queues; `t` is the state with its operand taken, `x` the end. -/
def State.newFeed (t : State) (x : EEnd) (handle b stride count : Nat) : Feed :=
  { handle := handle, base := b, stride := stride, count := count, pos := 0, num := 0, books := x.books, gen := (t.core t.curCore).gen }
/-- A feed queued behind those of its end, after the writes it waits for. -/
def State.feeds (t : State) (l : Nat) (far : Bool) (f : Feed) : State :=
  ((t.modEng l (fun e => { e with acks := e.acks ++ t.me.barrier.map (fun n => (t.curCore, n)) })).queueFeed l far f).advance

variable (hclear : s.linkClear d) (hp : s.isParty d) (hready : s.ready [base] none = true) (hcount : count ≠ 0)
  (hal : s.feedBase base bdisp % 64 = 0)
  (hfit : s.feedBase base bdisp + feedSpan (s.endOf d).desc count.toNat (64 * stride.toNat) ≤ Config.spadSize)
  (hstacks : s.touchesStacks s.curCore (s.feedBase base bdisp) (feedSpan (s.endOf d).desc count.toNat (64 * stride.toNat)) = false)
  (hformed : (s.engOf d).formed = true →
    (s.endOf d).fed + count.toNat * dBlock (s.endOf d).desc ≤ (s.engOf d).kLen * ((s.engOf d).pm1 + 1))
include hclear hp hready hcount hal hfit hstacks hformed

/-- The checks of R325 passed, the end's queue decides. -/
theorem exec_lkfeed_checked : exec (.lkfeed d handle base bdisp stride count) s
    = .next ((if 4 ≤ (s.endOf d).feeds.length then Eff.wait (.feedQ d) id
        else .ok fun t => t.feeds (s.linkOf d) (!isNear d) (t.newFeed (s.endOf d) handle.toNat (s.feedBase base bdisp) (64 * stride.toNat)
          count.toNat)).run s (s.taken [base] none)) := by
  obtain ⟨hopen, -, hheld⟩ := id hp
  have hne : ¬ count.toNat = 0 := fun h => hcount (BitVec.eq_of_toNat_eq h)
  have hopened : (s.endOf d).opened = true := by rw [EEnd.opened, hopen]; rfl
  have hend : (s.eng (s.linkOf d)).end_ (!isNear d) = s.endOf d := rfl
  have hval : ([base].map s.srcVal).getD 0 0 = s.srcVal base := rfl
  have hb : (s.srcVal base + BitVec.ofNat 64 (64 * bdisp.toNat)).toNat = s.feedBase base bdisp := rfl
  have hspan : (if dIsBlock (s.endOf d).desc = true then (count.toNat - 1) * 64 + 31 * (64 * stride.toNat) + 64
      else (count.toNat - 1) * (64 * stride.toNat) + 64) = feedSpan (s.endOf d).desc count.toNat (64 * stride.toNat) := rfl
  have hbounds : ¬ (Config.spadSize < s.feedBase base bdisp + feedSpan (s.endOf d).desc count.toNat (64 * stride.toNat)
      ∨ s.touchesStacks s.curCore (s.feedBase base bdisp) (feedSpan (s.endOf d).desc count.toNat (64 * stride.toNat)) = true) := by
    rintro (hlt | hst)
    · exact Nat.not_lt.2 hfit hlt
    · rw [hstacks] at hst
      cases hst
  have hlast : ¬ ((s.eng (s.linkOf d)).formed = true ∧ (s.endOf d).heldOpen.isNone = true
      ∧ (s.eng (s.linkOf d)).kLen * ((s.eng (s.linkOf d)).pm1 + 1) < (s.endOf d).fed + count.toNat * dBlock (s.endOf d).desc) := by
    rintro ⟨hf, -, hlt⟩
    exact Nat.not_lt.2 (hformed hf) hlt
  show execLkfeed d handle base bdisp stride count s = _
  rw [execLkfeed, State.runOp_ready hready, State.linkChecks_party hclear hp]
  simp only [hend, hval, hb, hheld, Option.elim_none, hspan, hopened, Bool.not_true, Bool.false_eq_true, hne, or_self, if_false, hal, ne_eq,
    not_true_eq_false, if_neg hbounds]
  rw [hheld] at hlast
  rw [if_neg hlast]
  rfl

end

/-- A change of an end is what it makes of the end. -/
theorem Engine.modEnd_congr {e : Engine} {far : Bool} {f g : EEnd → EEnd} (h : f (e.end_ far) = g (e.end_ far)) : e.modEnd far f = e.modEnd far g := by
  cases far
  · exact congrArg (fun x => { e with near := x }) h
  · exact congrArg (fun x => { e with far := x }) h
/-- A feed queued at an end, no B feed being numbered in this cycle. -/
def Engine.queued (e : Engine) (far : Bool) (f : Feed) (b : Option (Nat × Nat)) : Engine :=
  { e.modEnd far (fun x => { x with feeds := x.feeds ++ [{ f with num := e.num + 1 }], fed := x.fed + f.count * dBlock x.desc }) with
    num := e.num + 1, lastB := b }
theorem State.queueFeed_plain {s : State} {l : Nat} {far : Bool} {f : Feed} (hheld : ((s.eng l).end_ far).heldOpen = none)
    (hlast : (s.eng l).lastB = none) : ∃ b, s.queueFeed l far f = (s.setEng l ((s.eng l).queued far f b)).driveEng l 1 := by
  refine ⟨if ((s.eng l).end_ far).roleB then some (s.now, (s.eng l).num + 1) else none, ?_⟩
  have hswap : (!((s.eng l).end_ far).roleB && none == some (s.now, (s.eng l).num)) = false := by
    rw [Bool.and_eq_false_iff]
    exact .inr rfl
  unfold State.queueFeed Engine.queued
  dsimp only
  rw [hheld, hlast, Option.elim_none, hswap]
  simp only [Bool.false_eq_true, if_false]
  rw [Engine.modEnd_congr (g := fun x => { x with
    feeds := x.feeds ++ [{ f with num := (s.eng l).num + 1 }], fed := x.fed + f.count * dBlock x.desc }) (by rw [hheld])]
  have hnum : ∀ g, ((s.eng l).modEnd far g).num = (s.eng l).num := fun g => by cases far <;> rfl
  rw [hnum]

/-- What a queued feed leaves. -/
theorem State.feeds_outcome {s t : State} (h : s.TakenFrom t) {l : Nat} {far : Bool} (f : Feed) (hheld : ((s.eng l).end_ far).heldOpen = none)
    (hlast : (s.eng l).lastB = none) : s.onlyPc (t.feeds l far f) ∧ (t.feeds l far f).mem = s.mem
      ∧ (((t.feeds l far f).eng l).end_ far).feeds = ((s.eng l).end_ far).feeds ++ [{ f with num := (s.eng l).num + 1 }]
      ∧ ((t.feeds l far f).eng l).num = (s.eng l).num + 1 := by
  unfold State.feeds
  generalize he : ({ t.eng l with acks := (t.eng l).acks ++ t.me.barrier.map (fun n => (t.curCore, n)) } : Engine) = e
  have hset : t.modEng l (fun e => { e with acks := e.acks ++ t.me.barrier.map (fun n => (t.curCore, n)) }) = t.setEng l e := by
    rw [← he]
    rfl
  have hrest : (t.setEng l e).rest = s.rest := h.rest'
  have heng : (t.setEng l e).eng l = e := t.eng_setEng l e
  rw [hset]
  generalize t.setEng l e = u at *
  rw [h.eng] at he
  have hend : e.end_ far = (s.eng l).end_ far := by
    rw [← he]
    rfl
  have hnum : e.num = (s.eng l).num := by rw [← he]
  obtain ⟨b, hq⟩ := State.queueFeed_plain (s := u) (l := l) (far := far) (f := f) (by rw [heng, hend]; exact hheld)
    (by rw [heng, ← he]; exact hlast)
  rw [hq, heng]
  obtain ⟨w, -, hd⟩ := (u.setEng l (e.queued far f b)).driveEng_driven l 1
  have hfeeds := hd.feeds far
  have hnum' := hd.num
  rw [State.eng_setEng] at hfeeds hnum'
  have hall := hd.rest.trans hrest
  refine ⟨State.onlyPc_advance_of_rest hall, (State.mem_of_rest hall :), ?_, ?_⟩
  · refine hfeeds.trans ?_
    rw [← hend, ← hnum]
    cases far <;> rfl
  · exact hnum'.trans (by rw [← hnum]; rfl)

/-! ### LKSPARSE -/

section
variable {s : State} {d : Dir} {c : SparseCfg} {bound : Option Reg}

/-- The configuration an LKSPARSE queues; `t` is the state with its operand taken. -/
def State.newCfg (t : State) (c : SparseCfg) (bn : BitVec 32) : SpCfg :=
  { t := c.t.toNat, nm := c.nm.toNat, mode := c.mode.toNat, bound := bn, at_ := t.now, pc := t.me.pc
    undo := if c.sideB then some (t.me.v, t.me.m, t.me.flags) else none }
def Engine.configured (e : Engine) (sideB : Bool) (k : SpCfg) : Engine :=
  if e.st = .suspended then { e with spLater := e.spLater ++ [(sideB, k)] }
  else if sideB then { e with cfgB := e.cfgB ++ [k] } else { e with cfgA := e.cfgA ++ [k] }

theorem Engine.configured_lists (e : Engine) (sideB : Bool) (k : SpCfg) :
    if e.st = .suspended then (e.configured sideB k).spLater = e.spLater ++ [(sideB, k)]
    else if sideB then (e.configured sideB k).cfgB = e.cfgB ++ [k] else (e.configured sideB k).cfgA = e.cfgA ++ [k] := by
  unfold Engine.configured
  split
  · rfl
  · split <;> rfl

/-- No configuration of the B side was given in this cycle. -/
structure Engine.NoB (e : Engine) (now : Nat) : Prop where
  queued : ∀ k ∈ e.cfgB, k.at_ ≠ now
  later : ∀ k ∈ e.spLater, k.1 = true → k.2.at_ ≠ now

theorem Engine.NoB.dropB {e : Engine} {now : Nat} (h : e.NoB now) : e.dropB now = e := by
  have hlast : e.cfgB.getLast?.any (fun c => c.at_ == now) = false := by
    cases hk : e.cfgB.getLast? with
    | none => rfl
    | some k => simpa using h.queued k (List.mem_of_getLast? hk)
  have hfilter : e.spLater.filter (fun c => !(c.1 && c.2.at_ == now)) = e.spLater := by
    rw [List.filter_eq_self]
    intro k hk
    have hlater := h.later k hk
    cases hb : k.1
    · rfl
    · simpa using hlater hb
  unfold Engine.dropB
  rw [hlast, hfilter]
  rfl
theorem Engine.NoB.lastB_ {e : Engine} {now : Nat} (h : e.NoB now) : e.lastB_ now = none := by
  unfold Engine.lastB_
  rw [Option.filter_eq_none_iff]
  intro k hk
  have hmem := List.mem_of_getLast? hk
  rcases List.mem_append.1 hmem with hq | hl
  · simpa using h.queued k hq
  · obtain ⟨p, hp, rfl⟩ := List.mem_map.1 hl
    obtain ⟨hp, hb⟩ := List.mem_filter.1 hp
    simpa using h.later p hp hb
theorem State.refuseB_none {s : State} {l : Nat} {far : Bool} (h : (s.eng l).NoB s.now) : s.refuseB l far = s := by
  unfold State.refuseB
  dsimp only
  rw [h.lastB_]
  rfl

/-- What an LKSPARSE with a nonzero T needs (R327). -/
structure State.CfgFits (s : State) (d : Dir) (c : SparseCfg) (bn : BitVec 32) : Prop where
  inactive : (s.engOf d).sideActive s.now (!c.sideB) = false
  noB : (s.engOf d).NoB s.now
  groups : dK (s.endOf d).desc % nmM c.nm.toNat = 0
  bound : c.mode = 2 → dec32 bn.toNat ≠ .nan ∧ (numIsNeg (dec32 bn.toNat) = true → numIsZero (dec32 bn.toNat) = true)
  whole : (s.endOf d).roleB = false → fld (s.endOf d).desc 111 96 = 0
  wholeB : (s.endOf d).roleB = true → (s.engOf d).formed = true → (s.engOf d).kspl = 0

variable (hclear : s.linkClear d) (hp : s.isParty d) (hready : s.ready bound.toList none = true) (hside : c.sideB = (s.endOf d).roleB)
  (hfits : c.t ≠ 0 → s.CfgFits d c (BitVec.ofNat 32 ((bound.toList.map s.srcVal).getD 0 0).toNat))
include hclear hp hready hside hfits

theorem exec_lksparse_configures : exec (.lksparse d c bound) s = .next ((Eff.ok fun t =>
      (((if !c.sideB && c.t != 0 then t.refuseB (s.linkOf d) (!isNear d) else t).modEng (s.linkOf d) (fun e => e.configured c.sideB
        (t.newCfg c (BitVec.ofNat 32 ((bound.toList.map s.srcVal).getD 0 0).toNat)))).advance)).run s (s.taken bound.toList none)) := by
  obtain ⟨hopen, -, hheld⟩ := id hp
  have hopened : (s.endOf d).opened = true := by rw [EEnd.opened, hopen]; rfl
  have hend : (s.eng (s.linkOf d)).end_ (!isNear d) = s.endOf d := rfl
  show execLksparse d c bound s = _
  rw [execLksparse, State.runOp_ready hready, State.linkChecks_party hclear hp]
  simp only [hend, hheld, Option.elim_none, Option.isNone_none, Option.isSome_none, Bool.and_true, hopened, Bool.not_true, Bool.false_eq_true, false_or,
    if_neg (not_not.2 hside), true_and, if_false]
  have hactive : ¬ (c.t ≠ 0 ∧ (if c.sideB = true then s.eng (s.linkOf d) else (s.eng (s.linkOf d)).dropB s.now).sideActive s.now (!c.sideB) = true) := by
    rintro ⟨ht, hact⟩
    have hno : ((s.engOf d).sideActive s.now (!c.sideB)) = true := by
      rw [show (s.eng (s.linkOf d)).dropB s.now = s.engOf d from (hfits ht).noB.dropB] at hact
      exact (ite_self (s.engOf d) ▸ hact :)
    rw [(hfits ht).inactive] at hno
    cases hno
  rw [if_neg hactive, if_neg, if_neg]
  · rfl
  · rintro ⟨ht, hk | hA | hB⟩
    · exact hk (hfits ht).groups
    · rw [Bool.and_eq_true, Bool.not_eq_true', bne_iff_ne] at hA
      exact hA.2 ((hfits ht).whole hA.1)
    · rw [Bool.and_eq_true, Bool.and_eq_true, bne_iff_ne] at hB
      exact hB.2 ((hfits ht).wholeB hB.1.1 hB.1.2)
  · rintro ⟨ht, hmode, hnan | hneg⟩
    · exact ((hfits ht).bound hmode).1 hnan
    · rw [Bool.and_eq_true, Bool.not_eq_true'] at hneg
      exact absurd (((hfits ht).bound hmode).2 hneg.1) (by rw [hneg.2]; decide)

end

theorem State.configures_outcome {s t : State} (h : s.TakenFrom t) {l : Nat} {far : Bool} {c : SparseCfg} {bn : BitVec 32}
    (hnoB : c.t ≠ 0 → (s.eng l).NoB s.now) {t' : State}
    (ht' : t' = ((if !c.sideB && c.t != 0 then t.refuseB l far else t).modEng l (fun e => e.configured c.sideB (t.newCfg c bn))).advance) :
    s.onlyPc t' ∧ t'.mem = s.mem ∧ t'.eng l = (s.eng l).configured c.sideB (t.newCfg c bn) ∧ (t.newCfg c bn).at_ = s.now := by
  have hkept : (if !c.sideB && c.t != 0 then t.refuseB l far else t) = t := by
    split
    · next hB =>
      rw [Bool.and_eq_true, bne_iff_ne] at hB
      exact State.refuseB_none (by rw [h.eng, State.now_of_unsent h.rest]; exact hnoB hB.2)
    · rfl
  rw [hkept] at ht'
  subst ht'
  refine ⟨State.onlyPc_advance_of_rest h.rest', (State.mem_of_unsent h.rest :), ?_, State.now_of_unsent h.rest⟩
  have hadvance : (t.modEng l (fun e => e.configured c.sideB (t.newCfg c bn))).advance.eng l
    = (t.modEng l (fun e => e.configured c.sideB (t.newCfg c bn))).eng l := rfl
  rw [hadvance, State.eng_modEng, h.eng]

/-! ### LKDRAIN -/

section
variable {s : State} {d : Dir} (hclear : s.linkClear d) (hp : s.isParty d)
include hclear hp

theorem exec_lkdrain_roleB (hB : (s.endOf d).roleB = true) : exec (.lkdrain d .now) s = .next (s.fault .illegal 0 0x10C) := by
  have hend : (s.eng (s.linkOf d)).end_ (!isNear d) = s.endOf d := rfl
  show execLkdrain d .now s = _
  rw [execLkdrain, State.runOp_nil, State.linkChecks_party hclear hp]
  simp only [hend, hB, or_true, if_true]
  rfl

variable (hA : (s.endOf d).roleB = false)
include hA

theorem exec_lkdrain_suspended (hst : (s.engOf d).st = .suspended) : exec (.lkdrain d .now) s = .next (s.wait (.restored d)) := by
  obtain ⟨hopen, -, -⟩ := id hp
  have hend : (s.engOf d).end_ (!isNear d) = s.endOf d := rfl
  have heng : s.eng (s.linkOf d) = s.engOf d := rfl
  show execLkdrain d .now s = _
  rw [execLkdrain, State.runOp_nil, State.linkChecks_party hclear hp]
  simp only [hend, heng, hopen, hA, hst, Bool.not_true, Bool.false_eq_true, or_self, if_false, if_true]
  rfl
theorem exec_lkdrain_idle (hrun : (s.engOf d).st ≠ .running) (hst : (s.engOf d).st ≠ .suspended) :
    exec (.lkdrain d .now) s = .next (s.fault .illegal 0 0x10C) := by
  obtain ⟨hopen, -, -⟩ := id hp
  have hend : (s.engOf d).end_ (!isNear d) = s.endOf d := rfl
  have heng : s.eng (s.linkOf d) = s.engOf d := rfl
  show execLkdrain d .now s = _
  rw [execLkdrain, State.runOp_nil, State.linkChecks_party hclear hp]
  simp only [hend, heng, hopen, hA, hst, hrun, Bool.not_true, Bool.false_eq_true, or_self, if_false, if_true, ne_eq, not_false_eq_true]
  rfl

/-- The writes an engine's member waits for. -/
def State.ackEng (s : State) (l : Nat) : State :=
  s.modEng l (fun e => { e with acks := e.acks ++ s.me.barrier.map (fun t => (s.curCore, t)) })

theorem exec_lkdrain_now (hrun : (s.engOf d).st = .running) : exec (.lkdrain d .now) s
    = .next (((((s.ackEng (s.linkOf d)).modEng (s.linkOf d) (fun e => { e with num := e.num + 1, copies := e.copies ++ [e.num + 1] })).schedOnce 1
        (.kStep (s.linkOf d)))).advance) := by
  obtain ⟨hopen, -, -⟩ := id hp
  have hend : (s.engOf d).end_ (!isNear d) = s.endOf d := rfl
  have heng : s.eng (s.linkOf d) = s.engOf d := rfl
  show execLkdrain d .now s = _
  rw [execLkdrain, State.runOp_nil, State.linkChecks_party hclear hp]
  simp only [hend, heng, hopen, hA, hrun, Bool.not_true, Bool.false_eq_true, or_self, if_false, ne_eq, not_true_eq_false, reduceCtorEq]
  rfl

/-- The tile held after a drain fault drains again, to the receiver of the new descriptor. -/
def Engine.redrained (e : Engine) (recv now : Nat) : Engine :=
  { e with recv := recv, drains := e.heldTile.toList.map (fun h => { h with due := now }) ++ e.drains, heldTile := none, st := e.back }
def State.redrains (t : State) (l desc : Nat) : State :=
  (((t.ackEng l).modEng l (fun e => e.redrained (fld desc 255 128) t.now)).driveEng l 1).advance

theorem exec_lkdrain_redrain {base : Reg} {disp : BitVec 16} {h : Drain} (hready : s.ready [base] none = true) (hst : (s.engOf d).st ≠ .suspended)
    (hfits : s.localFits (effAddr16 (s.srcVal base) disp) 64 64 = true) (hbad : s.badIn (s.cellOf (effAddr16 (s.srcVal base) disp)) 64 = false)
    (hheld : (s.engOf d).heldTile = some h)
    (hrsv : ∀ r ∈ rsvRecv, fld (memLe s.mem 64 (s.cellOf (effAddr16 (s.srcVal base) disp))) r.1 r.2 = 0) :
    exec (.lkdrain d (.redrain base disp)) s = .next ((Eff.ok fun t =>
      t.redrains (s.linkOf d) (memLe s.mem 64 (s.cellOf (effAddr16 (s.srcVal base) disp)))).run s (s.taken [base] none)) := by
  obtain ⟨hopen, -, -⟩ := id hp
  have hend : (s.engOf d).end_ (!isNear d) = s.endOf d := rfl
  have heng : s.eng (s.linkOf d) = s.engOf d := rfl
  have hmem : s.localNat (effAddr16 (s.srcVal base) disp) 64 = memLe s.mem 64 (s.cellOf (effAddr16 (s.srcVal base) disp)) := rfl
  have hfilter : rsvRecv.filter (fun r => fld (memLe s.mem 64 (s.cellOf (effAddr16 (s.srcVal base) disp))) r.1 r.2 != 0) = [] := by
    rw [List.filter_eq_nil_iff]
    intro r hr
    simpa using hrsv r hr
  have hcell : s.badIn (spad s.curCore (effAddr16 (s.srcVal base) disp)) 64 = false := hbad
  show execLkdrain d (.redrain base disp) s = _
  rw [execLkdrain, State.runOp_ready hready, State.linkChecks_party hclear hp]
  simp only [hend, heng, hopen, hA, hst, Bool.not_true, Bool.false_eq_true, or_self, if_false, effAddr16_of_fst, State.localSpan_of_fits hfits, hheld,
    Option.isNone_some, hcell, hmem, hfilter, List.head?_nil]
  rfl
end

/-! ### What LKDRAIN leaves -/

section
variable {s : State} {l : Nat}

theorem State.redrains_outcome {t : State} (h : s.TakenFrom t) {desc : Nat} {v : Drain} (hheld : (s.eng l).heldTile = some v) :
    ∃ w, s.onlyPc (t.redrains l desc) ∧ (t.redrains l desc).mem = s.mem ∧ ((t.redrains l desc).eng l).recv = fld desc 255 128
      ∧ ((t.redrains l desc).eng l).heldTile = none ∧ ((s.eng l).held = none → w = 0)
      ∧ ((t.redrains l desc).eng l).drains = ({ v with due := s.now } :: (s.eng l).drains).map (fun v => { v with due := v.due + w }) := by
  unfold State.redrains
  have hrest : ((t.ackEng l).modEng l (fun e => e.redrained (fld desc 255 128) t.now)).rest = s.rest := h.rest'
  have hback : ((t.ackEng l).eng l).drains = (s.eng l).drains ∧ ((t.ackEng l).eng l).heldTile = some v
      ∧ ((t.ackEng l).eng l).held = (s.eng l).held := by
    rw [State.ackEng, State.eng_modEng, h.eng]
    exact ⟨rfl, hheld, rfl⟩
  obtain ⟨hdrains, htile, hstand⟩ := hback
  have heng : ((t.ackEng l).modEng l (fun e => e.redrained (fld desc 255 128) t.now)).eng l
      = ((t.ackEng l).eng l).redrained (fld desc 255 128) t.now := State.eng_modEng _ _ _
  generalize (t.ackEng l).modEng l (fun e => e.redrained (fld desc 255 128) t.now) = u at *
  obtain ⟨w, hw, hd⟩ := u.driveEng_driven l 1
  have hall := hd.rest.trans hrest
  rw [heng] at hw
  refine ⟨w, State.onlyPc_advance_of_rest hall, (State.mem_of_rest hall :), ?_, ?_, fun hn => hw (hstand.trans hn), ?_⟩
  · exact hd.recv.trans (by rw [heng]; rfl)
  · exact hd.heldTile.trans (by rw [heng]; rfl)
  · refine hd.drains.trans ?_
    rw [heng, Engine.redrained, hdrains, htile, State.now_of_unsent h.rest]
    rfl

theorem State.copies_outcome (s : State) (l : Nat) :
    let t := (((s.ackEng l).modEng l (fun e => { e with num := e.num + 1, copies := e.copies ++ [e.num + 1] })).schedOnce 1 (.kStep l)).advance
    s.onlyPc t ∧ t.mem = s.mem ∧ (t.eng l).copies = (s.eng l).copies ++ [(s.eng l).num + 1] ∧ (t.eng l).num = (s.eng l).num + 1 := by
  intro t
  have hsched := State.schedOnce_unsent ((s.ackEng l).modEng l (fun e => { e with num := e.num + 1, copies := e.copies ++ [e.num + 1] })) 1
    (.kStep l)
  have heng : t.eng l = { (s.ackEng l).eng l with
      num := ((s.ackEng l).eng l).num + 1, copies := ((s.ackEng l).eng l).copies ++ [((s.ackEng l).eng l).num + 1] } := by
    have hengines := State.engines_of_unsent hsched
    exact (congrArg (fun z => Table.get Engine.dormant z l) hengines).trans (State.eng_modEng _ _ _)
  have hack : (s.ackEng l).eng l = { s.eng l with acks := (s.eng l).acks ++ s.me.barrier.map (fun t => (s.curCore, t)) } := s.eng_modEng l _
  rw [hack] at heng
  refine ⟨State.onlyPc_advance_of_rest (s := s) (State.rest_of_unsent _ hsched :), (State.mem_of_unsent hsched :), ?_, ?_⟩
  · rw [heng]
  · rw [heng]

end

/-- Settles O28: behind the checks of the party, each instruction queues its entry at the engine, and driving the engine leaves what was
queued. -/
theorem feedsAndDrains : Obligations.FeedsAndDrains := by
  intro s d handle base bdisp stride count c disp l far e x b n hclear hp
  obtain ⟨hopen, -, hheld⟩ := id hp
  refine ⟨fun hready hcount hal hfit hstacks hformed => ?_, fun bound hready hside => ?_, fun hA hrun => ?_,
    fun hA hrun hst => exec_lkdrain_idle hclear hp hA hrun hst, fun hA hst => ⟨_, exec_lkdrain_suspended hclear hp hA hst, ?_⟩,
    exec_lkdrain_roleB hclear hp, fun v hready hA hst hfits hbad htile hrsv => ?_⟩
  · have hexec := exec_lkfeed_checked (handle := handle) hclear hp hready hcount hal hfit hstacks hformed
    refine ⟨fun hroom hlast => ?_, fun hfull => ?_⟩
    · rw [if_neg (Nat.not_le.2 hroom)] at hexec
      obtain ⟨honly, hmem, hfeeds, hnum⟩ := State.feeds_outcome (l := l) (far := far) (s.takenFrom_taken [base] none)
        ((s.taken [base] none).newFeed x handle.toNat b (64 * stride.toNat) count.toNat) hheld hlast
      exact ⟨_, _, hexec, honly, hmem, hfeeds, hnum, rfl, rfl, rfl, rfl, rfl, rfl⟩
    · rw [if_pos hfull] at hexec
      exact ⟨_, hexec, (congrArg Ctx.pc (s.me_wait _) :), (congrArg Ctx.park (s.me_wait _) :)⟩
  · intro bn hfits
    have hbn : bn = BitVec.ofNat 32 ((bound.toList.map s.srcVal).getD 0 0).toNat := by
      cases bound <;> rfl
    have hfits' (ht : c.t ≠ 0) : s.CfgFits d c (BitVec.ofNat 32 ((bound.toList.map s.srcVal).getD 0 0).toNat) := by
      obtain ⟨hinactive, hqueued, hlater, hgroups, hbound, hwhole, hwholeB⟩ := hfits ht
      exact ⟨hinactive, ⟨hqueued, hlater⟩, hgroups, hbn ▸ hbound, hwhole, hwholeB⟩
    obtain ⟨honly, hmem, heng, hat⟩ := State.configures_outcome (l := l) (far := far) (c := c) (bn := bn)
      (s.takenFrom_taken bound.toList none) (fun ht => (hfits' ht).noB) rfl
    refine ⟨_, (s.taken bound.toList none).newCfg c bn, hbn ▸ exec_lksparse_configures hclear hp hready hside hfits', honly, hmem, rfl, rfl, rfl, rfl,
      hat, ?_⟩
    rw [heng]
    exact Engine.configured_lists _ _ _
  · refine ⟨_, exec_lkdrain_now hclear hp hA hrun, ?_⟩
    exact s.copies_outcome l
  · rw [State.me_wait]
    exact ⟨rfl, rfl, rfl⟩
  · obtain ⟨w, houtcome⟩ := State.redrains_outcome (l := l) (s.takenFrom_taken [base] none)
      (desc := memLe s.mem 64 (s.cellOf (effAddr16 (s.srcVal base) disp))) htile
    exact ⟨_, w, exec_lkdrain_redrain hclear hp hA hready hst hfits hbad htile hrsv, houtcome⟩

end Sys2Proof.Machine
end

section
/-! PROOFS. LKSTAT, LKWAIT, CBLOAD and EPLOAD (O29). -/

namespace Sys2Proof.Machine

/-! ### LKSTAT and LKWAIT -/

theorem State.statusWord_of_unsent {s t : State} (h : t.unsent = s.unsent) (l : Nat) (far : Bool) (w : Nat) :
    t.statusWord l far w = s.statusWord l far w := by
  unfold State.statusWord State.leaseQueued State.eng State.die
  rw [State.engines_of_unsent h, State.dies_of_unsent h]

section
variable {s : State} {d : Dir} {c : LkCond} (hclear : s.linkClear d)
include hclear

theorem exec_lkstat_reads {dst : Reg} {w : Fin 3} (hready : s.ready [] (some dst) = true) : exec (.lkstat dst d w) s
    = .next (s.result [] dst (BitVec.ofNat 64 (s.statusWord (s.linkOf d) (!isNear d) w.val))) := by
  show execLkstat dst d w s = _
  rw [execLkstat, State.runOp_ready hready, State.linkChecks_any hclear]
  rw [State.result, ← State.statusWord_of_unsent (s.taken_unsent [] (some dst))]
  rfl

variable (hfresh : s.me.prodRec = none)
include hfresh

theorem exec_lkwait_holds (h : (s.engOf d).lkHolds c ((s.engOf d).prods % 2 ^ 16) = true) : exec (.lkwait d c) s = .next s.advance := by
  have heng : s.eng (s.linkOf d) = s.engOf d := rfl
  show execLkwait d c s = _
  rw [execLkwait, State.runOp_nil, State.linkChecks_any hclear]
  simp only [heng, hfresh, Option.getD_none, h, if_true]
  rfl
theorem exec_lkwait_parks (h : (s.engOf d).lkHolds c ((s.engOf d).prods % 2 ^ 16) = false) (hopen : (s.endOf d).opened = true) :
    exec (.lkwait d c) s = .next ((s.modMe (fun m => { m with prodRec := some ((s.engOf d).prods % 2 ^ 16, true) })).wait
      (.lk d c ((s.engOf d).prods % 2 ^ 16))) := by
  have heng : s.eng (s.linkOf d) = s.engOf d := rfl
  have hend : (s.engOf d).end_ (!isNear d) = s.endOf d := rfl
  show execLkwait d c s = _
  rw [execLkwait, State.runOp_nil, State.linkChecks_any hclear]
  simp only [heng, hend, hfresh, Option.getD_none, h, Option.isSome_none, Bool.false_and, Bool.false_eq_true, if_false, hopen, Bool.not_true, false_and]
  rfl
theorem exec_lkwait_refused (h : (s.engOf d).lkHolds c ((s.engOf d).prods % 2 ^ 16) = false) (hopen : (s.endOf d).opened = false) (hc : c ≠ .idle) :
    exec (.lkwait d c) s = .next (s.fault .illegal 0 0x10C) := by
  have heng : s.eng (s.linkOf d) = s.engOf d := rfl
  have hend : (s.engOf d).end_ (!isNear d) = s.endOf d := rfl
  show execLkwait d c s = _
  rw [execLkwait, State.runOp_nil, State.linkChecks_any hclear]
  simp only [heng, hend, hfresh, Option.getD_none, h, Option.isSome_none, Bool.false_and, Bool.false_eq_true, if_false, hopen, Bool.not_false, true_and,
    ne_eq, hc, not_false_eq_true, if_true]
  rfl

end

/-! ### EngineLoad -/

section
variable {s : State} {d : Dir} {w : Nat} {apply : State → Nat → Bool → State} (hclear : s.linkClear d)
  (hmay : (s.endOf d).opened = false ∨ (s.endOf d).holder s.meId = true)
include hclear hmay

theorem State.engineLoad_clear : s.engineLoad d w apply = (match (s.engOf d).st with
    | .dormant => eRefuse
    | .suspended => .wait (.restored d) (fun s => s.modMe (fun x => { x with image := some w }))
    | _ => .ok (fun t => (apply t (s.linkOf d) (!isNear d)).advance)) := by
  have hallows : (s.endOf d).allows s.meId .partyOrClosed = true := by
    rw [EEnd.allows, Bool.or_eq_true, Bool.not_eq_true']
    exact hmay
  rw [State.engineLoad, State.linkChecks_clear hclear, if_pos hallows]
  rfl
theorem State.engineLoad_dormant (h : (s.engOf d).st = .dormant) : s.engineLoad d w apply = eRefuse := by
  rw [State.engineLoad_clear hclear hmay, h]
theorem State.engineLoad_suspended (h : (s.engOf d).st = .suspended) :
    s.engineLoad d w apply = .wait (.restored d) (fun s => s.modMe (fun x => { x with image := some w })) := by
  rw [State.engineLoad_clear hclear hmay, h]
theorem State.engineLoad_runs (hd : (s.engOf d).st ≠ .dormant) (hs : (s.engOf d).st ≠ .suspended) :
    s.engineLoad d w apply = .ok (fun t => (apply t (s.linkOf d) (!isNear d)).advance) := by
  rw [State.engineLoad_clear hclear hmay]
  split
  · next h => exact absurd h hd
  · next h => exact absurd h hs
  · rfl

end

/-- The bytes a load works on: those it kept where it parked, else those at its address. -/
def State.loadedFrom (s : State) (a n al w : Nat) : Prop :=
  s.me.image = some w ∨ (s.me.image = none ∧ s.localFits a n al = true ∧ s.badIn (s.cellOf a) n = false ∧ w = memLe s.mem n (s.cellOf a))
theorem State.withImage_loaded {s : State} {a n al w : Nat} (h : s.loadedFrom a n al w) (k : Nat → Eff) : s.withImage a n al k = k w := by
  unfold State.withImage
  obtain himage | ⟨himage, hfits, hbad, rfl⟩ := h
  · rw [himage]
  · have hcell : s.badIn (spad s.curCore a) n = false := hbad
    rw [himage]
    simp only [State.withLocal, State.localSpan_of_fits hfits, hcell, Bool.false_eq_true, if_false]
    rfl

/-- The codebook of an image. -/
def bookOf (w : Nat) : List (BitVec 16) := (List.range 16).map (fun k => BitVec.ofNat 16 (w / 2 ^ (16 * k)))
/-- An engine whose slot is loaded, from 8 cycles on unless it wakes. -/
def Engine.loaded (e : Engine) (now slot w : Nat) : Engine :=
  if e.st = .waking then { e with ep := e.ep.set slot (leBytes 640 w) } else { e with epLater := e.epLater ++ [(now + 8, slot, leBytes 640 w)] }

section
variable {s : State} {d : Dir} {base : Reg} {disp : BitVec 16} {slot : BitVec 3} {eslot : Bool} {w : Nat} (hready : s.ready [base] none = true)
include hready

theorem exec_cbload (hw : s.loadedFrom (effAddr16 (s.srcVal base) disp) 32 32 w) : exec (.cbload d slot base disp) s
    = .next ((s.engineLoad d w (fun s l far => s.modEnd l far (fun x => { x with books := x.books.set slot.toNat (bookOf w) }))).run s
        (s.taken [base] none)) := by
  show execCbload d slot base disp s = _
  rw [execCbload, State.runOp_ready hready]
  simp only [effAddr16_of_fst, State.withImage_loaded hw]
  rfl

variable (hw : s.loadedFrom (effAddr16 (s.srcVal base) disp) 640 64 w)
include hw

theorem exec_epload (hok : imageOk w = true) : exec (.epload d eslot base disp) s
    = .next ((s.engineLoad d w (fun s l _ => s.modEng l (fun e => e.loaded s.now eslot.toNat w))).run s (s.taken [base] none)) := by
  show execEpload d eslot base disp s = _
  rw [execEpload, State.runOp_ready hready]
  simp only [effAddr16_of_fst, State.withImage_loaded hw, hok, Bool.not_true, Bool.false_eq_true, if_false]
  rfl
theorem exec_epload_bad (hok : imageOk w = false) : exec (.epload d eslot base disp) s = .next (s.fault .illegal 0 0x10C) := by
  show execEpload d eslot base disp s = _
  rw [execEpload, State.runOp_ready hready]
  simp only [effAddr16_of_fst, State.withImage_loaded hw, hok, Bool.not_false, if_true]
  rfl

end

/-! ### What the loads leave -/

/-- The bytes of a value read are those of memory. -/
theorem leBytes_memLe (m : List Host.Cell) (n a : Nat) : leBytes n (memLe m n a) = memBytes m n a := by
  refine List.ext_getElem (by simp) fun k hk hk' => ?_
  rw [getElem_leBytes, getElem_memBytes]
  refine BitVec.eq_of_getLsbD_eq fun j hj => ?_
  have hn : k < n := by simpa using hk
  rw [BitVec.getLsbD_ofNat, show 256 ^ k = 2 ^ (8 * k) by rw [Nat.pow_mul], Nat.testBit_div_two_pow, testBit_memLe]
  rw [show (j + 8 * k) / 8 = k by omega, show (j + 8 * k) % 8 = j by omega]
  simp [hj, show j + 8 * k < 8 * n by omega]

theorem length_bookOf (w : Nat) : (bookOf w).length = 16 := by simp [bookOf]
/-- An entry of a codebook is the value of its two bytes. -/
theorem getD_bookOf (m : List Host.Cell) (a : Nat) {k : Nat} (hk : k < 16) :
    (bookOf (memLe m 32 a)).getD k 0 = BitVec.ofNat 16 (memLe m 2 (a + 2 * k)) := by
  have hlen : k < (bookOf (memLe m 32 a)).length := by rwa [length_bookOf]
  rw [List.getD_eq_getElem _ _ hlen]
  refine BitVec.eq_of_getLsbD_eq fun j hj => ?_
  simp only [bookOf, List.getElem_map, List.getElem_range, BitVec.getLsbD_ofNat, Nat.testBit_div_two_pow, testBit_memLe, hj, decide_true, Bool.true_and]
  rw [show (j + 16 * k) / 8 = 2 * k + j / 8 by omega, show (j + 16 * k) % 8 = j % 8 by omega, ← Nat.add_assoc]
  simp [show j + 16 * k < 8 * 32 by omega]

section
variable {s t : State} (h : s.TakenFrom t)
include h

theorem State.booked_outcome (l : Nat) (far : Bool) (slot : Nat) (book : List (BitVec 16)) :
    let u := (t.modEnd l far (fun x => { x with books := x.books.set slot book })).advance
    s.onlyPc u ∧ u.mem = s.mem ∧ Table.get [] ((u.eng l).end_ far).books slot = book := by
  intro u
  have heng : u.eng l = (t.eng l).modEnd far (fun x => { x with books := x.books.set slot book }) :=
    (t.eng_modEng l (fun e => e.modEnd far (fun x => { x with books := x.books.set slot book })) :)
  refine ⟨State.onlyPc_advance_of_rest h.rest', (State.mem_of_unsent h.rest :), ?_⟩
  rw [heng, Engine.end_modEnd_self]
  exact Table.get_set_self _ _ _ _
theorem State.loaded_outcome (l slot w : Nat) :
    let u := (t.modEng l (fun e => e.loaded t.now slot w)).advance
    s.onlyPc u ∧ u.mem = s.mem ∧ u.eng l = (s.eng l).loaded s.now slot w := by
  intro u
  have heng : u.eng l = (t.eng l).loaded t.now slot w := (t.eng_modEng l (fun e => e.loaded t.now slot w) :)
  rw [h.eng, State.now_of_unsent h.rest] at heng
  exact ⟨State.onlyPc_advance_of_rest h.rest', (State.mem_of_unsent h.rest :), heng⟩

end

/-- A slot loaded is used from 8 cycles on. -/
theorem Engine.imageAt_loaded {e : Engine} (h : e.st ≠ .waking) (now slot w : Nat) :
    (e.loaded now slot w).imageAt (now + 8) slot = some (leBytes 640 w) := by
  rw [Engine.loaded, if_neg h, Engine.imageAt]
  simp [List.filter_append]
/-- A slot loaded while the engine wakes stands at once. -/
theorem Engine.imageAt_loaded_waking {e : Engine} (h : e.st = .waking) (hnone : e.epLater = []) (now slot w : Nat) :
    (e.loaded now slot w).imageAt now slot = some (leBytes 640 w) := by
  rw [Engine.loaded, if_pos h, Engine.imageAt]
  simp only [hnone, List.filter_nil, List.getLast?_nil]
  exact Table.find_set_self _ _ _

/-- A load parks with its bytes at a suspended engine. -/
theorem State.keeps_outcome (s : State) (d : Dir) (w : Nat) :
    let t := (s.modMe (fun x => { x with image := some w })).wait (.restored d)
    t.mem = s.mem ∧ t.me.pc = s.me.pc ∧ t.me.park = some (.cond (.restored d) s.curBundle) ∧ t.me.image = some w := by
  intro t
  have hme : t.me = { s.me with image := some w, park := some (.cond (.restored d) s.curBundle) } := by
    rw [State.me_wait, State.me_modMe]
    rfl
  rw [hme]
  exact ⟨rfl, rfl, rfl, rfl⟩

/-! ### The obligation -/

section
variable {s : State} {d : Dir} {base : Reg} {disp : BitVec 16} {w : Nat} (hclear : s.linkClear d)
  (hmay : (s.endOf d).opened = false ∨ (s.endOf d).holder s.meId = true) (hready : s.ready [base] none = true)
include hclear hmay hready

/-- A codebook loaded. -/
theorem State.cbload_outcome {slot : BitVec 3} (hw : s.loadedFrom (effAddr16 (s.srcVal base) disp) 32 32 w) (hd : (s.engOf d).st ≠ .dormant)
    (hs : (s.engOf d).st ≠ .suspended) : ∃ t, exec (.cbload d slot base disp) s = .next t ∧ s.onlyPc t ∧ t.mem = s.mem
      ∧ Table.get [] ((t.eng (s.linkOf d)).end_ (!isNear d)).books slot.toNat = bookOf w := by
  have hexec := exec_cbload (d := d) (slot := slot) hready hw
  rw [State.engineLoad_runs hclear hmay hd hs] at hexec
  exact ⟨_, hexec, State.booked_outcome (s.takenFrom_taken [base] none) _ _ _ _⟩
/-- An epilogue image loaded. -/
theorem State.epload_outcome {slot : Bool} (hw : s.loadedFrom (effAddr16 (s.srcVal base) disp) 640 64 w) (hok : imageOk w = true)
    (hd : (s.engOf d).st ≠ .dormant) (hs : (s.engOf d).st ≠ .suspended) : ∃ t, exec (.epload d slot base disp) s = .next t ∧ s.onlyPc t
      ∧ t.mem = s.mem ∧ t.eng (s.linkOf d) = (s.engOf d).loaded s.now slot.toNat w := by
  have hexec := exec_epload (d := d) (eslot := slot) hready hw hok
  rw [State.engineLoad_runs hclear hmay hd hs] at hexec
  exact ⟨_, hexec, State.loaded_outcome (s.takenFrom_taken [base] none) _ _ _⟩

end

/-- Settles O29: the two loads share what they read and what the engine's state makes of it. -/
theorem engineReadsAndLoads : Obligations.EngineReadsAndLoads := by
  intro s dst base d w c slot eslot disp l far e x a cell hclear
  refine ⟨exec_lkstat_reads hclear, fun hfresh => ⟨exec_lkwait_holds hclear hfresh,
      fun h hopen => ⟨_, exec_lkwait_parks hclear hfresh h hopen, ?_⟩, exec_lkwait_refused hclear hfresh⟩,
    fun hready hmay v himage hd hs => ⟨State.cbload_outcome hclear hmay hready (.inl himage) hd hs, fun hok hwake => ?_⟩,
    fun hready hmay himage => ⟨fun hfits hbad hst => ?_, fun hfits hbad hok hst => ?_, fun hfits hbad => ⟨fun hd hs => ?_, fun hd => ?_⟩,
      fun hfits hbad hok => ⟨fun hd hs hwake => ?_, fun hwake hlater => ?_, fun hd => ?_⟩, fun hfits hbad hok => ?_⟩⟩
  · rw [State.me_wait, State.me_modMe]
    exact ⟨rfl, rfl, rfl⟩
  · obtain ⟨t, hexec, honly, hmem, heng⟩ := State.epload_outcome (slot := eslot) hclear hmay hready (.inl himage) hok hd hs
    exact ⟨t, hexec, honly, hmem, by rw [heng]; exact Engine.imageAt_loaded hwake _ _ _⟩
  · have hexec := exec_cbload (d := d) (slot := slot) hready (.inr ⟨himage, hfits, hbad, rfl⟩)
    rw [State.engineLoad_suspended hclear hmay hst] at hexec
    exact ⟨_, hexec, s.keeps_outcome d _⟩
  · have hexec := exec_epload (d := d) (eslot := eslot) hready (.inr ⟨himage, hfits, hbad, rfl⟩) hok
    rw [State.engineLoad_suspended hclear hmay hst] at hexec
    exact ⟨_, hexec, s.keeps_outcome d _⟩
  · obtain ⟨t, hexec, honly, hmem, hbook⟩ := State.cbload_outcome (slot := slot) hclear hmay hready (.inr ⟨himage, hfits, hbad, rfl⟩) hd hs
    exact ⟨t, hexec, honly, hmem, _, hbook, length_bookOf _, fun k hk => getD_bookOf s.mem cell hk⟩
  · have hexec := exec_cbload (d := d) (slot := slot) hready (.inr ⟨himage, hfits, hbad, rfl⟩)
    rw [State.engineLoad_dormant hclear hmay hd] at hexec
    exact hexec
  · obtain ⟨t, hexec, honly, hmem, heng⟩ := State.epload_outcome (slot := eslot) hclear hmay hready (.inr ⟨himage, hfits, hbad, rfl⟩) hok hd hs
    exact ⟨t, hexec, honly, hmem, by rw [heng, ← leBytes_memLe]; exact Engine.imageAt_loaded hwake _ _ _⟩
  · have hwake' : (s.engOf d).st = .waking := hwake
    obtain ⟨t, hexec, honly, hmem, heng⟩ := State.epload_outcome (slot := eslot) hclear hmay hready (.inr ⟨himage, hfits, hbad, rfl⟩) hok
      (by rw [hwake']; decide) (by rw [hwake']; decide)
    exact ⟨t, hexec, honly, hmem, by rw [heng, ← leBytes_memLe]; exact Engine.imageAt_loaded_waking hwake hlater _ _ _⟩
  · have hexec := exec_epload (d := d) (eslot := eslot) hready (.inr ⟨himage, hfits, hbad, rfl⟩) hok
    rw [State.engineLoad_dormant hclear hmay hd] at hexec
    exact hexec
  · exact exec_epload_bad hready (.inr ⟨himage, hfits, hbad, rfl⟩) hok

end Sys2Proof.Machine
end

section
/-! PROOFS. QBIND, QCTL, QHND, LVSET and LVREAD, and the queues' pushes and pops (O30). -/

namespace Sys2Proof.Machine

/-! ### Timed changes that do not govern yet -/

/-- A change due later leaves what governs now. -/
theorem timedGet_timedPut_now {α : Type} (now j k : Nat) {delay : Nat} (hd : 0 < delay) (v : Option α) (l : List (Nat × Nat × Option α)) :
    timedGet now j (timedPut now delay k v l) = timedGet now j l := by
  by_cases hj : j = k
  · subst hj
    have hlate : ∀ (l : List (Nat × Nat × Option α)) (acc : Option α), (l.filter (fun e => e.2.1 == j && decide (now < e.1))).foldl
        (fun acc e => if e.1 ≤ now ∧ e.2.1 = j then e.2.2 else acc) acc = acc := by
      intro l
      induction l with
      | nil => exact fun _ => rfl
      | cons e l ih =>
        intro acc
        rw [List.filter_cons]
        split
        · next he =>
          simp only [Bool.and_eq_true, decide_eq_true_eq] at he
          rw [List.foldl_cons, if_neg (fun h => Nat.not_lt.2 h.1 he.2), ih]
        · exact ih acc
    rw [timedPut, timedGet_append, if_neg (by omega)]
    conv_lhs => unfold timedGet
    rw [List.foldl_append, hlate, List.foldl_append, List.foldl_cons, List.foldl_nil, if_pos ⟨Nat.zero_le _, rfl⟩]
    rfl
  · exact timedGet_timedPut_other _ _ _ hj _ _

/-! ### QBIND -/

section
variable {s : State} (hzero : s.curCtx = 0)
include hzero

theorem exec_qbind_free (n : BitVec 4) : exec (.qbind (.free n)) s
    = .next ((s.modCore s.curCore (fun x => { x with free := insertNat n.toNat x.free })).reweigh s.curCore n.toNat).advance := by
  show execQbind (.free n) s = _
  rw [execQbind, State.runOp_nil]
  simp only [hzero, ne_eq, not_true_eq_false, if_false]
  rfl
theorem exec_qbind_nofree {n : BitVec 4} (h : n.toNat ∉ (s.core s.curCore).essential) : exec (.qbind (.nofree n)) s
    = .next ((s.modCore s.curCore (fun x => { x with free := removeNat n.toNat x.free })).reweigh s.curCore n.toNat).advance := by
  have hessential : (s.core s.curCore).essential.contains n.toNat = false := by simpa using h
  show execQbind (.nofree n) s = _
  rw [execQbind, State.runOp_nil]
  simp only [hzero, ne_eq, not_true_eq_false, if_false, hessential, Bool.false_eq_true]
  rfl
theorem exec_qbind_essential {n : BitVec 4} (h : n.toNat ∈ (s.core s.curCore).essential) : exec (.qbind (.nofree n)) s
    = .next (s.fault .coupling 0 (BitVec.ofNat 64 n.toNat)) := by
  have hessential : (s.core s.curCore).essential.contains n.toNat = true := by simpa using h
  show execQbind (.nofree n) s = _
  rw [execQbind, State.runOp_nil]
  simp only [hzero, ne_eq, not_true_eq_false, if_false, hessential, if_true]
  rfl

variable {d : Dir} (hsources : ∀ e ∈ (s.core s.curCore).lev.cells, e.2.en = true → e.2.fifo = false → e.2.dir ≠ d)
include hsources

omit hzero in
/-- No enabled controller samples the direction's queue. -/
theorem State.no_sources :
    (((s.core s.curCore).lev.cells.filter (fun l => l.2.en && !l.2.fifo && l.2.dir == d)).map (·.2) : List Lev) = [] := by
  rw [List.map_eq_nil_iff, List.filter_eq_nil_iff]
  intro e he
  simp only [Bool.and_eq_true, Bool.not_eq_true', beq_iff_eq, not_and, and_imp]
  exact hsources e he
theorem exec_qbind_bind {n : BitVec 4} (hharv : s.linkHarvested s.curCore d = false) (hout : s.linkOutside s.curCore d = false) :
    exec (.qbind (.bind d n)) s
      = .next (s.modCore s.curCore (fun x => { x with qbind := timedPut s.now 8 (dirNum d) (some n.toNat) x.qbind })).advance := by
  show execQbind (.bind d n) s = _
  rw [execQbind, State.runOp_nil]
  simp only [hzero, ne_eq, not_true_eq_false, if_false, hharv, hout, Bool.false_eq_true, or_self, State.no_sources hsources, List.any_nil]
  rfl
theorem exec_qbind_unbind : exec (.qbind (.unbind d)) s
    = .next (s.modCore s.curCore (fun x => { x with qbind := timedPut s.now 8 (dirNum d) none x.qbind })).advance := by
  show execQbind (.unbind d) s = _
  rw [execQbind, State.runOp_nil]
  simp only [hzero, ne_eq, not_true_eq_false, if_false, State.no_sources hsources, List.isEmpty_nil, Bool.not_true, Bool.false_eq_true]
  rfl

end

theorem exec_qbind_refused {s : State} (h : s.curCtx ≠ 0) (op : QBindOp) : exec (.qbind op) s = .next (s.fault .illegal 0 0x10C) := by
  show execQbind op s = _
  rw [execQbind, State.runOp_nil]
  simp only [ne_eq, h, not_false_eq_true, if_true]
  rfl

/-- A binding written governs from 8 cycles on. -/
theorem State.binds_outcome (s : State) (d : Dir) (v : Option Nat) :
    let t := (s.modCore s.curCore (fun x => { x with qbind := timedPut s.now 8 (dirNum d) v x.qbind })).advance
    s.onlyPc t ∧ t.mem = s.mem ∧ (t.core s.curCore).owner (s.now + 8) d = v
      ∧ ∀ d', (t.core s.curCore).owner s.now d' = (s.core s.curCore).owner s.now d' := by
  intro t
  have hcore : t.core s.curCore = { s.core s.curCore with qbind := timedPut s.now 8 (dirNum d) v (s.core s.curCore).qbind } :=
    s.core_modCore_self s.curCore (fun x => { x with qbind := timedPut s.now 8 (dirNum d) v x.qbind })
  rw [hcore]
  exact ⟨State.onlyPc_advance_of_unsent rfl, rfl, timedGet_timedPut_self .., fun d' => timedGet_timedPut_now _ _ _ (by decide) _ _⟩

/-- A context's mark written, with the weight it gives. -/
theorem State.marks_outcome (s : State) (n : Nat) (f : List Nat → List Nat) :
    let t := ((s.modCore s.curCore (fun x => { x with free := f x.free })).reweigh s.curCore n).advance
    t.mem = s.mem ∧ (t.core s.curCore).free = f (s.core s.curCore).free
      ∧ ((s.now / 16 + 1) * 16, weightOf ((f (s.core s.curCore).free).contains n) (s.ctx s.curCore n).demands) ∈ (t.ctx s.curCore n).nextWeights
      ∧ ((s.now / 16 + 1) * 16, .weightTakesEffect s.curCore n) ∈ t.agenda := by
  intro t
  have hcore : (s.modCore s.curCore (fun x => { x with free := f x.free })).core s.curCore
      = { s.core s.curCore with free := f (s.core s.curCore).free } := s.core_modCore_self s.curCore (fun x => { x with free := f x.free })
  have hctx : (s.modCore s.curCore (fun x => { x with free := f x.free })).ctx s.curCore n = s.ctx s.curCore n := rfl
  have hnext : (t.ctx s.curCore n).nextWeights
      = (((s.modCore s.curCore (fun x => { x with free := f x.free })).reweigh s.curCore n).ctx s.curCore n).nextWeights := by
    refine (congrArg Ctx.nextWeights (State.ctx_modCtx _ s.curCore n _ _)).trans ?_
    split <;> rfl
  refine ⟨rfl, congrArg Core.free hcore, ?_, State.mem_reweigh ..⟩
  rw [hnext, State.reweigh_ctx, if_pos rfl, hcore, hctx]
  exact List.mem_append_right _ (List.mem_singleton_self _)

/-! ### The queues, QCTL and QHND -/

section
variable {s : State} {d : Dir} {src : Reg}

theorem exec_qctl (hready : s.ready [src] (some (.q d)) = true) : exec (.qctl d src) s
    = .next ((s.taken [src] (some (.q d))).pushQ s.curCore d ⟨s.srcVal src, true⟩).advance := by
  show execQctl d src s = _
  rw [execQctl, State.runOp_ready hready]
  show Host.Outcome.next (((s.taken [src] (some (.q d))).pushQ (s.taken [src] (some (.q d))).curCore d ⟨s.srcVal src, true⟩).advance) = _
  rw [State.curCore_of_unsent (s.taken_unsent [src] (some (.q d)))]

variable (hready : s.ready [src] none = true) (howner : (s.core s.curCore).owner s.now d = some s.curCtx)
include hready howner

theorem exec_qhnd (hal : (s.srcVal src).toNat % 4 = 0) : exec (.qhnd d src) s = .next ((Eff.ok fun t =>
    (t.modCore t.curCore (fun x => { x with handlers := x.handlers.set (dirNum d) (s.srcVal src) })).advance).run s (s.taken [src] none)) := by
  have hval : ([src].map s.srcVal).getD 0 0 = s.srcVal src := rfl
  show execQhnd d src s = _
  rw [execQhnd, State.runOp_ready hready]
  simp only [howner, ne_eq, not_true_eq_false, if_false, hval, hal]
theorem exec_qhnd_align (hal : (s.srcVal src).toNat % 4 ≠ 0) : exec (.qhnd d src) s = .next (s.fault .align (s.srcVal src) 0) := by
  have hval : ([src].map s.srcVal).getD 0 0 = s.srcVal src := rfl
  have hword : BitVec.ofNat 64 (s.srcVal src).toNat = s.srcVal src := by simp
  show execQhnd d src s = _
  rw [execQhnd, State.runOp_ready hready]
  simp only [howner, ne_eq, not_true_eq_false, if_false, hval, hal, not_false_eq_true, if_true, eFault, hword]
  rfl

end

/-! ### LVSET and LVREAD -/

section
variable {s : State} {ctl : BitVec 3}

/-- A controller with its parameters, sampled first at a rotation start. -/
def State.enables (s : State) (k : Nat) (l : Lev) : State :=
  (((s.setLev s.curCore k l).makeDemands s.curCore k l true).sched (l.nextAt - s.now) (.levellingSample s.curCore k)).advance
def State.disables (s : State) (k : Nat) (l : Lev) : State := ((s.setLev s.curCore k l).makeDemands s.curCore k l false).advance

theorem exec_lvset_on {l : Lev} {p : LvParams} (hlev : (s.core s.curCore).levOf ctl.toNat = some l) (hset : p.setp.toNat ≤ 16)
    (hgain : 16 * (p.pq.toNat + 1) < 64 → p.gp ≠ 0 ∧ p.gi ≠ 0) : exec (.lvset ctl (some p)) s
      = .next (s.enables ctl.toNat (levEnable l p (rotationFrom (s.now + 16 * (p.pq.toNat + 1))))) := by
  have hok : ¬ (16 * (p.pq.toNat + 1) < 64 ∧ (p.gp = 0 ∨ p.gi = 0)) := by
    rintro ⟨hq, hp | hi⟩
    · exact (hgain hq).1 hp
    · exact (hgain hq).2 hi
  show execLvset ctl (some p) s = _
  rw [execLvset, State.runOp_nil]
  simp only [Option.elim_some, hlev, if_neg hok, show ¬ 16 < p.setp.toNat by omega, decide_false, Bool.false_eq_true, if_false]
  rfl
theorem exec_lvset_off {l : Lev} (hlev : (s.core s.curCore).levOf ctl.toNat = some l) : exec (.lvset ctl none) s
    = .next (s.disables ctl.toNat { l with en := false, integ := 0, ez := 0, fz := 0, n := 0 }) := by
  show execLvset ctl none s = _
  rw [execLvset, State.runOp_nil]
  simp only [Option.elim_none, hlev, Bool.false_eq_true, if_false]
  rfl
theorem exec_lvset_undeclared (hlev : (s.core s.curCore).levOf ctl.toNat = none) : exec (.lvset ctl none) s
    = .next (s.fault .coupling 0 (BitVec.ofNat 64 ctl.toNat)) := by
  show execLvset ctl none s = _
  rw [execLvset, State.runOp_nil]
  simp only [Option.elim_none, hlev, Bool.false_eq_true, if_false]
  rfl
theorem exec_lvread {dst : Reg} {l : Lev} (hready : s.ready [] (some dst) = true) (hlev : (s.core s.curCore).levOf ctl.toNat = some l) :
    exec (.lvread dst ctl) s = .next (s.result [] dst (BitVec.ofNat 64 (levWord l))) := by
  show execLvread dst ctl s = _
  rw [execLvread, State.runOp_ready hready]
  simp only [hlev]
  rfl
theorem exec_lvread_undeclared {dst : Reg} (hready : s.ready [] (some dst) = true) (hlev : (s.core s.curCore).levOf ctl.toNat = none) :
    exec (.lvread dst ctl) s = .next (s.fault .coupling 0 (BitVec.ofNat 64 ctl.toNat)) := by
  show execLvread dst ctl s = _
  rw [execLvread, State.runOp_ready hready]
  simp only [hlev]
  rfl

/-- A state besides what demands change: contexts, a message to the neighbour, and a loader. -/
def State.undemanded (s : State) : State := { s with ctxs := .empty, agenda := [], engines := .empty }
theorem State.demand_undemanded (s : State) (c n key : Nat) (v : Option Nat) : (s.demand c n key v).undemanded = s.undemanded := rfl
theorem State.makeDemands_undemanded (s : State) (c k : Nat) (l : Lev) (on : Bool) : (s.makeDemands c k l on).undemanded = s.undemanded := by
  have hcons := s.demand_undemanded c l.cons (levKey c k false) (if on then some l.wc else none)
  unfold State.makeDemands
  dsimp only
  generalize s.demand c l.cons (levKey c k false) (if on then some l.wc else none) = u at *
  split
  · exact hcons
  · split
    · exact hcons
    · exact (State.demand_undemanded ..).trans hcons

theorem State.levOf_makeDemands (s : State) (k : Nat) (l : Lev) (on : Bool) :
    (((s.setLev s.curCore k l).makeDemands s.curCore k l on).core s.curCore).levOf k = some l := by
  have hcore : (s.setLev s.curCore k l).core s.curCore = { s.core s.curCore with lev := (s.core s.curCore).lev.set k l } :=
    s.core_modCore_self s.curCore (fun x => { x with lev := x.lev.set k l })
  have hcores := State.makeDemands_undemanded (s.setLev s.curCore k l) s.curCore k l on
  generalize (s.setLev s.curCore k l).makeDemands s.curCore k l on = u at *
  have hu : u.core s.curCore = (s.setLev s.curCore k l).core s.curCore := (congrArg (fun u : State => u.core s.curCore) hcores :)
  rw [hu, hcore]
  exact Table.find_set_self _ _ _
theorem State.mem_makeDemands (s : State) (k : Nat) (l : Lev) (on : Bool) :
    ((s.setLev s.curCore k l).makeDemands s.curCore k l on).mem = s.mem := by
  have hmem := congrArg State.mem (State.makeDemands_undemanded (s.setLev s.curCore k l) s.curCore k l on)
  exact hmem

theorem State.enables_outcome {k : Nat} {l : Lev} (h : s.now ≤ l.nextAt) : (s.enables k l).mem = s.mem
    ∧ ((s.enables k l).core s.curCore).levOf k = some l ∧ (l.nextAt, .levellingSample s.curCore k) ∈ (s.enables k l).agenda := by
  refine ⟨(s.mem_makeDemands k l true :), s.levOf_makeDemands k l true, ?_⟩
  have hdue : s.now + (l.nextAt - s.now) = l.nextAt := by omega
  have hnow : ((s.setLev s.curCore k l).makeDemands s.curCore k l true).now = s.now := by
    have hnow := congrArg State.now (State.makeDemands_undemanded (s.setLev s.curCore k l) s.curCore k l true)
    exact hnow
  have hmem := State.mem_sched ((s.setLev s.curCore k l).makeDemands s.curCore k l true) (l.nextAt - s.now) (.levellingSample s.curCore k)
  rw [hnow, hdue] at hmem
  exact hmem

/-- The first rotation start from a cycle on. -/
theorem rotationFrom_spec (t : Nat) : rotationFrom t % 16 = 0 ∧ t ≤ rotationFrom t ∧ rotationFrom t < t + 16 := by
  unfold rotationFrom
  omega

end

/-! ### The obligation -/

/-- What QHND leaves. -/
theorem State.handles_outcome {s t : State} (h : t.unsent = s.unsent) (d : Dir) (v : Word) :
    let u := (t.modCore t.curCore (fun x => { x with handlers := x.handlers.set (dirNum d) v })).advance
    s.onlyPc u ∧ u.mem = s.mem ∧ (u.core s.curCore).handler d = v := by
  intro u
  have hcore : u.core t.curCore = { t.core t.curCore with handlers := (t.core t.curCore).handlers.set (dirNum d) v } :=
    t.core_modCore_self t.curCore (fun x => { x with handlers := x.handlers.set (dirNum d) v })
  rw [State.curCore_of_unsent h] at hcore
  refine ⟨State.onlyPc_advance_of_unsent h, (State.mem_of_unsent h :), ?_⟩
  rw [hcore]
  exact Table.get_set_self _ _ _ _
/-- What pushes, pops and spent credits do to the queues of a core (R148). -/
theorem State.queue_moves (s : State) (d : Dir) (v : QEnt) (k : Nat) :
    (s.spendQ k d).core k = { s.core k with credits := (s.core k).credits.set (dirNum d) ((s.core k).credit d - 1) }
      ∧ (s.now + 8, Instr.queueEntryArrive (neighbour k d) (dirOpp d)) ∈ (s.pushQ k d v).agenda
      ∧ ((s.popQ k d).core k).inq d = ((s.core k).inq d).tail
      ∧ (s.now + 8, Instr.creditReturn (neighbour k d) (dirOpp d)) ∈ (s.popQ k d).agenda := by
  refine ⟨s.core_modCore_self k (fun x => { x with credits := x.credits.set (dirNum d) (x.credit d - 1) }), ?_, ?_, State.mem_sched ..⟩
  · unfold State.pushQ
    have hside := s.modSide_frame k (neighbour k d)
      (fun x => { x with transit := x.transit.set (dirNum (dirOpp d)) (Table.get [] x.transit (dirNum (dirOpp d)) ++ [v]) })
    dsimp only
    generalize s.modSide k (neighbour k d)
      (fun x => { x with transit := x.transit.set (dirNum (dirOpp d)) (Table.get [] x.transit (dirNum (dirOpp d)) ++ [v]) }) = u at *
    have hnow : u.now = s.now := by
      rw [hside]
    rw [← hnow]
    exact State.mem_sched ..
  · have hcore : (s.popQ k d).core k = { s.core k with qin := (s.core k).qin.set (dirNum d) ((s.core k).inq d).tail } :=
      s.core_modCore_self k (fun x => { x with qin := x.qin.set (dirNum d) (x.inq d).tail })
    rw [hcore]
    exact Table.get_set_self _ _ _ _

/-- Settles O30, instruction by instruction. -/
theorem queuesAndLevelling : Obligations.QueuesAndLevelling := by
  intro s d n src dst ctl op k x
  refine ⟨fun hzero => ⟨fun hharv hout hsources => ⟨?_, ?_⟩, ?_, fun hn => ?_, exec_qbind_essential hzero⟩, fun h => exec_qbind_refused h op, exec_qctl,
    fun v => s.queue_moves d v k, fun hready howner => ⟨fun hal => ?_, exec_qhnd_align hready howner⟩, fun l p hlev hset hgain => ?_,
    fun l hlev => ?_, fun l hready hlev => exec_lvread hready hlev, fun hlev => ⟨exec_lvset_undeclared hlev, fun hready => exec_lvread_undeclared hready hlev⟩⟩
  · exact ⟨_, exec_qbind_bind hzero hsources hharv hout, s.binds_outcome d _⟩
  · obtain ⟨honly, hmem, howner, -⟩ := s.binds_outcome d none
    exact ⟨_, exec_qbind_unbind hzero hsources, honly, hmem, howner⟩
  · obtain ⟨hmem, hfree, hweight, hagenda⟩ := s.marks_outcome n.toNat (insertNat n.toNat)
    have hmark : n.toNat ∈ insertNat n.toNat (s.core s.curCore).free := mem_insertNat.2 (.inr rfl)
    have hsixteen (q : Table Nat) : weightOf ((insertNat n.toNat (s.core s.curCore).free).contains n.toNat) q = 16 := by
      rw [weightOf, List.contains_iff_mem.2 hmark]
      rfl
    rw [hsixteen] at hweight
    exact ⟨_, exec_qbind_free hzero n, hmem, hfree ▸ hmark, hweight, hagenda⟩
  · obtain ⟨hmem, hfree, -, -⟩ := s.marks_outcome n.toNat (removeNat n.toNat)
    exact ⟨_, exec_qbind_nofree hzero hn, hmem, hfree ▸ fun h => (mem_removeNat.1 h).2 rfl⟩
  · exact ⟨_, exec_qhnd hready howner hal, State.handles_outcome (s.taken_unsent [src] none) d _⟩
  · obtain ⟨hstart, hfrom, hto⟩ := rotationFrom_spec (s.now + 16 * (p.pq.toNat + 1))
    obtain ⟨hmem, hl, hagenda⟩ := State.enables_outcome (s := s) (k := ctl.toNat)
      (l := levEnable l p (rotationFrom (s.now + 16 * (p.pq.toNat + 1)))) (Nat.le_trans (Nat.le_add_right _ _) hfrom)
    exact ⟨_, _, exec_lvset_on hlev hset hgain, hmem, hl, rfl, rfl, rfl, rfl, rfl, rfl, rfl, rfl, rfl, hstart, hfrom, hto, hagenda⟩
  · exact ⟨_, _, exec_lvset_off hlev, (s.mem_makeDemands _ _ _ :), (s.levOf_makeDemands _ _ _ :), rfl⟩

end Sys2Proof.Machine
end

section
/-! PROOFS. SYSRD and SYSWR (O31). -/

namespace Sys2Proof.Machine

/-! ### SYSRD -/

/-- No register shows what taking operands changes. -/
theorem State.TakenFrom.teamOf {s t : State} (h : s.TakenFrom t) (c : Nat) : t.teamOf c = s.teamOf c :=
  State.teamOf_congr (congrArg Core.team (h.core c) :) (State.teams_of_unsent h.rest)
theorem State.TakenFrom.sysValue {s t : State} (h : s.TakenFrom t) (n : Nat) : t.sysValue n = s.sysValue n := by
  have hframe := State.eq_of_unsent h.rest
  have hteam := h.teamOf s.curCore
  have hme := State.me_of_unsent h.rest
  have hcore := State.curCore_of_unsent h.rest
  have hctx := State.curCtx_of_unsent h.rest
  have hnow := State.now_of_unsent h.rest
  have hsteward (k : Nat) : t.steward k = s.steward k := (congrArg (fun u : State => u.steward k) h.rest :)
  have hdbghz : t.dbghz = s.dbghz := (congrArg State.dbghz h.rest :)
  have hevict : t.evictwait = s.evictwait := (congrArg State.evictwait h.rest :)
  have hpreempt : t.preemptwait = s.preemptwait := (congrArg State.preemptwait h.rest :)
  have hesc : t.escwait = s.escwait := (congrArg State.escwait h.rest :)
  unfold State.sysValue State.logBase
  simp only [hcore, hctx, hteam, hme, hnow, hsteward, hdbghz, hevict, hpreempt, hesc]

section
variable {s : State} {dst : Reg} {sreg : BitVec 12} (hready : s.ready [] (some dst) = true)
include hready

theorem exec_sysrd_no_register (h : sregOk sreg.toNat = false) : exec (.sysrd dst sreg) s = .next (s.fault .illegal 0 0x400109) := by
  show execSysrd dst sreg s = _
  rw [execSysrd]
  rw [State.runOp_ready hready]
  simp only [h, Bool.not_false, if_true]
  rfl

variable (hok : sregOk sreg.toNat = true)
include hok

theorem exec_sysrd_priv (hst : isSteward s.curCore = false) (hpriv : sregPriv sreg.toNat false = true) :
    exec (.sysrd dst sreg) s = .next (s.fault .priv 0 0) := by
  show execSysrd dst sreg s = _
  rw [execSysrd]
  rw [State.runOp_ready hready]
  simp only [hok, hst, hpriv, Bool.not_true, Bool.not_false, Bool.and_self, Bool.false_eq_true, if_false, if_true]
  rfl
/-- A register a context may read is put. -/
theorem exec_sysrd (hmay : isSteward s.curCore = true ∨ sregPriv sreg.toNat false = false) (hreq : sreg.toNat ≠ 0x022) :
    exec (.sysrd dst sreg) s = .next (s.result [] dst (s.sysValue sreg.toNat)) := by
  have hallowed : (!isSteward s.curCore && sregPriv sreg.toNat false) = false := by
    rw [Bool.and_eq_false_iff, Bool.not_eq_false']
    exact hmay
  show execSysrd dst sreg s = _
  rw [execSysrd]
  rw [State.runOp_ready hready]
  simp only [hok, hallowed, Bool.not_true, Bool.false_eq_true, if_false, hreq]
  rw [State.result, ← (s.takenFrom_taken [] (some dst)).sysValue]
  rfl

end

/-! ### SYSWR -/

section
variable {s : State} {src : Reg} {sreg : BitVec 12} (hready : s.ready [src] none = true)
include hready

theorem exec_syswr_priv (hok : sregOk sreg.toNat = true) (hst : isSteward s.curCore = false) (hpriv : sregPriv sreg.toNat true = true) :
    exec (.syswr sreg src) s = .next (s.fault .priv 0 0) := by
  show execSyswr sreg src s = _
  rw [execSyswr]
  dsimp only
  rw [State.runOp_ready hready]
  simp only [hok, hst, hpriv, Bool.not_true, Bool.not_false, Bool.and_self, Bool.false_eq_true, if_false, if_true]
  rfl
theorem exec_syswr_flags (hn : sreg.toNat = 0x001) : exec (.syswr sreg src) s
    = .next (((s.taken [src] none).modMe (fun x => { x with flags := flagsOf (s.srcVal src).toNat })).advance) := by
  show execSyswr sreg src s = _
  rw [execSyswr]
  dsimp only
  rw [State.runOp_ready hready]
  simp only [hn, show sregOk 1 = true from rfl, show sregPriv 1 true = false from rfl, Bool.and_false, Bool.not_true, Bool.false_eq_true, if_false]
  rfl
theorem exec_syswr_flogn (hn : sreg.toNat = 0x002) (hst : isSteward s.curCore = false) : exec (.syswr sreg src) s
    = .next (((s.taken [src] none).modMe (fun x => { x with flogn := (s.srcVal src).toNat % 256 })).advance) := by
  show execSyswr sreg src s = _
  rw [execSyswr]
  dsimp only
  rw [State.runOp_ready hready]
  simp only [hn, hst, show sregOk 2 = true from rfl, show sregPriv 2 true = false from rfl, Bool.and_false, Bool.not_true, Bool.false_eq_true, if_false]
  rfl

variable (hst : isSteward s.curCore = true)
include hst

theorem exec_syswr_stvec (hn : sreg.toNat = 0x028) : exec (.syswr sreg src) s = .next (((s.taken [src] none).modSteward (s.curCore - Config.cores)
    (fun x => { x with stvec := BitVec.ofNat 64 (fld (s.srcVal src).toNat 51 2 * 4) })).advance) := by
  show execSyswr sreg src s = _
  rw [execSyswr]
  dsimp only
  rw [State.runOp_ready hready]
  simp only [hn, hst, show sregOk 0x28 = true from rfl, Bool.false_and, Bool.not_true, Bool.false_eq_true, if_false]
  rfl
theorem exec_syswr_stroot (hn : sreg.toNat = 0x026) : exec (.syswr sreg src) s = .next (((s.taken [src] none).modSteward (s.curCore - Config.cores)
    (fun x => { x with stroot := BitVec.ofNat 64 (fld (s.srcVal src).toNat 51 16 * 65536) })).advance) := by
  show execSyswr sreg src s = _
  rw [execSyswr]
  dsimp only
  rw [State.runOp_ready hready]
  simp only [hn, hst, show sregOk 0x26 = true from rfl, Bool.false_and, Bool.not_true, Bool.false_eq_true, if_false]
  rfl
/-- The registers of device scope, with what applies a write of each. -/
def devRegister (k : Nat) (v : Word) (n : Nat) (i : Instr) : Prop :=
  (n = 0x010 ∧ i = Instr.registerWrite (.dbghz k) v) ∨ (n = 0x011 ∧ i = Instr.registerWrite (.evictwait k) v)
    ∨ (n = 0x012 ∧ i = Instr.registerWrite (.preemptwait k) v) ∨ (n = 0x020 ∧ i = Instr.tlbinv k v)
theorem exec_syswr_device {i : Instr} (hi : devRegister (s.curCore - Config.cores) (s.srcVal src) sreg.toNat i) : exec (.syswr sreg src) s
    = .next (((s.taken [src] none).sched Config.deviceWrite i).parkResult .none) := by
  show execSyswr sreg src s = _
  rw [execSyswr]
  dsimp only
  rw [State.runOp_ready hready]
  obtain ⟨hn, rfl⟩ | ⟨hn, rfl⟩ | ⟨hn, rfl⟩ | ⟨hn, rfl⟩ := hi
  · simp only [hn, hst, show sregOk 0x10 = true from rfl, Bool.false_and, Bool.not_true, Bool.false_eq_true, if_false]
    rfl
  · simp only [hn, hst, show sregOk 0x11 = true from rfl, Bool.false_and, Bool.not_true, Bool.false_eq_true, if_false]
    rfl
  · simp only [hn, hst, show sregOk 0x12 = true from rfl, Bool.false_and, Bool.not_true, Bool.false_eq_true, if_false]
    rfl
  · simp only [hn, hst, show sregOk 0x20 = true from rfl, Bool.false_and, Bool.not_true, Bool.false_eq_true, if_false]
    rfl

end

/-! ### What a write leaves -/

section
variable {s t : State} (h : t.unsent = s.unsent)
include h

theorem State.writesFlags_outcome (f : Flags) :
    let u := (t.modMe (fun x => { x with flags := f })).advance
    u.me.flags = f ∧ u.mem = s.mem ∧ s.me.regsKept u.me [.pc] ∧ s.me.predsKept u.me ∧ s.othersKept u
      ∧ u.me.pc = s.me.pc + BitVec.ofNat 64 s.curLen := by
  intro u
  have hme : u.me = { s.me with
      flags := f, pc := s.me.pc + BitVec.ofNat 64 s.curLen, src := 0, prodRec := none, since := none, xlat := none, image := none } := by
    rw [State.me_advance, State.me_modMe, State.me_of_unsent h, ← State.curLen_of_unsent h]
    rfl
  have hothers : s.othersKept u := by
    refine State.othersKept_trans ?_ ?_ (State.othersKept_advance _)
    · exact State.othersKept_trans (State.othersKept_of_unsent h) (by rw [State.meKey, State.curCore_of_unsent h, State.curCtx_of_unsent h]; rfl)
        (t.othersKept_modMe _)
    · rw [State.modMe_meKey, State.meKey, State.curCore_of_unsent h, State.curCtx_of_unsent h]
      rfl
  rw [hme]
  refine ⟨rfl, (State.mem_of_unsent h :), fun r hr => ?_, fun _ => rfl, hothers, rfl⟩
  cases r with
  | pc => exact absurd (List.mem_singleton_self _) hr
  | _ => rfl
theorem State.writesFlogn_outcome (n : Nat) :
    let u := (t.modMe (fun x => { x with flogn := n })).advance
    u.me.flogn = n ∧ u.mem = s.mem ∧ s.me.regsKept u.me [.pc] ∧ s.me.predsKept u.me ∧ s.me.vecsKept u.me := by
  intro u
  have hme : u.me = { s.me with
      flogn := n, pc := s.me.pc + BitVec.ofNat 64 s.curLen, src := 0, prodRec := none, since := none, xlat := none, image := none } := by
    rw [State.me_advance, State.me_modMe, State.me_of_unsent h, ← State.curLen_of_unsent h]
    rfl
  rw [hme]
  refine ⟨rfl, (State.mem_of_unsent h :), fun r hr => ?_, fun _ => rfl, Ctx.vecsKept_congr rfl rfl rfl⟩
  cases r with
  | pc => exact absurd (List.mem_singleton_self _) hr
  | _ => rfl
/-- A register of the steward's own written. -/
theorem State.modSteward_outcome (k : Nat) (f : Steward → Steward) :
    let u := (t.modSteward k f).advance
    u.steward k = f (s.steward k) ∧ s.onlyPc u := by
  intro u
  have hsteward : t.steward k = s.steward k := (congrArg (fun u : State => u.steward k) h :)
  have hu : u.steward k = f (t.steward k) := Table.get_set_self _ _ _ _
  rw [hu, hsteward]
  exact ⟨rfl, State.onlyPc_advance_of_ctxs (State.ctxs_of_unsent h :) (State.curCore_of_unsent h :) (State.curCtx_of_unsent h :)
    (State.curLen_of_unsent h :)⟩
/-- A write of device scope parks until the dies have applied it. -/
theorem State.devWrite_outcome (i : Instr) :
    let u := (t.sched Config.deviceWrite i).parkResult .none
    s.parksFor u .none ∧ (s.now + 24, i) ∈ u.agenda := by
  intro u
  refine ⟨State.parksFor_of_unsent (u := t.sched Config.deviceWrite i) h rfl, ?_⟩
  rw [← State.now_of_unsent h]
  exact State.mem_sched t 24 i

end

theorem fld_51_2 (n : Nat) : fld n 51 2 = n / 4 % 2 ^ 50 := rfl
theorem fld_51_16 (n : Nat) : fld n 51 16 = n / 65536 % 2 ^ 36 := rfl

/-- Settles O31: a read puts the register's value; a write changes the context, the steward's own registers, or is applied by the dies later. -/
theorem systemRegisters : Obligations.SystemRegisters := by
  intro s dst src sreg n st k v
  refine ⟨fun hready => ?_, fun hready => ⟨fun hn => ?_, fun hn hst => ?_, fun hst => ⟨fun hn => ?_, fun hn => ?_, fun i hi => ?_⟩, exec_syswr_priv hready⟩⟩
  · have hrd (m : Nat) (hok : sregOk m = true) (hmay : st = true ∨ sregPriv m false = false) (hreq : m ≠ 0x022) {w : Word} (hw : s.sysValue m = w)
        (hn : n = m) : exec (.sysrd dst sreg) s = .next (s.result [] dst w) := by
      subst hw hn
      exact exec_sysrd hready hok hmay hreq
    have hopen (m : Nat) (h : sregOk m = true ∧ sregPriv m false = false ∧ m ≠ 0x022) {w : Word} (hw : s.sysValue m = w) :
        n = m → exec (.sysrd dst sreg) s = .next (s.result [] dst w) := hrd m h.1 (.inr h.2.1) h.2.2 hw
    have hsteward (hst : st = true) (m : Nat) (h : sregOk m = true ∧ m ≠ 0x022) {w : Word} (hw : s.sysValue m = w) :
        n = m → exec (.sysrd dst sreg) s = .next (s.result [] dst w) := hrd m h.1 (.inl hst) h.2 hw
    refine ⟨hopen 1 (by decide) rfl, hopen 2 (by decide) rfl, hopen 3 (by decide) rfl, hopen 4 (by decide) rfl,
      fun hst => ⟨hopen 5 (by decide) ?_, fun t u hteam => hopen 0 (by decide) ?_⟩,
      fun hst => ⟨hsteward hst 0x11 (by decide) rfl, hsteward hst 0x12 (by decide) rfl, hsteward hst 0x13 (by decide) rfl,
        hsteward hst 0x10 (by decide) rfl, hsteward hst 0x23 (by decide) rfl, hsteward hst 0x26 (by decide) rfl, hsteward hst 0x28 (by decide) rfl⟩,
      exec_sysrd_no_register hready, exec_sysrd_priv hready⟩
    · have hcompute : isSteward s.curCore = false := hst
      simp only [State.sysValue, hcompute, Bool.false_eq_true, if_false]
    · simp only [State.sysValue, hteam]
  · exact ⟨_, exec_syswr_flags hready hn, State.writesFlags_outcome (s.taken_unsent [src] none) _⟩
  · exact ⟨_, exec_syswr_flogn hready hn hst, State.writesFlogn_outcome (s.taken_unsent [src] none) _⟩
  · obtain ⟨hk, honly⟩ := State.modSteward_outcome (s.taken_unsent [src] none) k
      (fun x => { x with stvec := BitVec.ofNat 64 (fld (s.srcVal src).toNat 51 2 * 4) })
    exact ⟨_, exec_syswr_stvec hready hst hn, by rw [hk, fld_51_2], honly⟩
  · obtain ⟨hk, honly⟩ := State.modSteward_outcome (s.taken_unsent [src] none) k
      (fun x => { x with stroot := BitVec.ofNat 64 (fld (s.srcVal src).toNat 51 16 * 65536) })
    exact ⟨_, exec_syswr_stroot hready hst hn, by rw [hk, fld_51_16], honly⟩
  · exact ⟨_, exec_syswr_device hready hst hi, State.devWrite_outcome (s.taken_unsent [src] none) i⟩

end Sys2Proof.Machine
end

section
/-! PROOFS. Lane arithmetic of the V slot, on integers and on floats (O32, O33): what an operation puts is a function of its lanes. -/

namespace Sys2Proof.Machine

/-! ### Lanes that raise no flag -/

theorem flagsAll_zero {α : Type} (l : List α) : flagsAll (l.map (fun _ => Flags.zero)) = Flags.zero := by
  induction l with
  | nil => rfl
  | cons a l ih => rw [List.map_cons, flagsAll_cons, ih, flagsOr_zero]
/-- Lanes without flags are written plainly. -/
theorem State.vPlain_of_vDone {s t : State} {vd : Fin 16} {mask : Fin 8} {w : Nat} {r : Nat → Nat × Flags}
    (h : s.vDone t vd mask w r) (hr : ∀ j, (r j).2 = Flags.zero) : s.vPlain t vd mask w (fun j => (r j).1) := by
  obtain ⟨honly, hwrote, hflags⟩ := h
  have hzero : (fun j => if laneOn w (s.me.readM mask) j then (r j).2 else Flags.zero) = fun _ => Flags.zero := by
    funext j
    rw [hr, ite_self]
  rw [hzero, flagsAll_zero, flagsOr_zero] at hflags
  exact ⟨honly, hwrote, hflags⟩
/-- Lanes put without flags. -/
theorem Ctx.vPutPlain_eq (x : Ctx) (w : Nat) (vd : Fin 16) (mask : Fin 8) (r : List Nat) :
    x.vPutPlain w vd mask r = x.vPut w vd mask (r.map (fun v => (v, Flags.zero))) := by
  have hzip : (((r.map (fun v => (v, Flags.zero))).map (·.2)).zip (List.range ((r.map (fun v => (v, Flags.zero))).map (·.2)).length)).map
      (fun p => if laneOn w (x.readM mask) p.2 then p.1 else Flags.zero) = (List.range r.length).map (fun _ => Flags.zero) := by
    refine List.ext_getElem (by simp) fun k hk hk' => ?_
    simp
  rw [Ctx.vPut, laneFlags, hzip, flagsAll_zero, Ctx.raise, flagsOr_zero, List.map_map]
  exact congrArg (fun l => x.writeV vd (mergeBytes (x.readM mask) (x.readV vd) (vecOf w l))) (List.map_id' r).symm
/-- An operation that puts the lanes `f` plainly writes them under the mask, and changes nothing else. -/
theorem State.vPlain_vRun {s : State} {g : Ctx → Ctx} {w : Nat} (hw : IsLaneWidth w) {vd : Fin 16} {mask : Fin 8} {r : List Nat}
    {f : Nat → Nat} (hg : g s.me = s.me.vPutPlain w vd mask r) (hr : r = (List.range (256 / w)).map f) : s.vPlain (s.vRun g) vd mask w f := by
  rw [Ctx.vPutPlain_eq, hr, List.map_map] at hg
  exact State.vPlain_of_vDone (s.vDone_vRun hw hg (f := fun j => (f j, Flags.zero)) rfl) (fun _ => rfl)

/-! ### Three-operand arithmetic -/

theorem map3_map_range {α : Type} (f : Nat → Nat → Nat → α) (a b d : Nat → Nat) (n : Nat) :
    map3 f ((List.range n).map a) ((List.range n).map b) ((List.range n).map d) = (List.range n).map (fun j => f (a j) (b j) (d j)) := by
  have hlist (l : List Nat) : map3 f (l.map a) (l.map b) (l.map d) = l.map (fun j => f (a j) (b j) (d j)) := by
    induction l with
    | nil => rfl
    | cons j l ih => rw [List.map_cons, List.map_cons, List.map_cons, map3, ih, List.map_cons]
  exact hlist _

/-- Integer results wrap, or clamp to the type's range. -/
theorem intResult_eq (t : Ty) (sat : Bool) (r : Int) : intResult t sat r = intWrap t sat r := by
  have hclamp : clampTy t r = max (tyMin t) (min (tyMax t) r) := by
    have hrange : tyMin t ≤ tyMax t := by cases t <;> decide
    unfold clampTy
    split
    · omega
    · split <;> omega
  have hmin : tyMin t = if t.signed then -2 ^ (t.width - 1) else 0 := by cases t <;> rfl
  have hmax : tyMax t = if t.signed then 2 ^ (t.width - 1) - 1 else 2 ^ t.width - 1 := by cases t <;> rfl
  rw [intResult, unsgn_eq_toNat, hclamp, hmin, hmax]
  rfl

section
variable (s : State) (o : VOps) (sat : Bool) (fi : Int → Int → Int → Int) (ff : Fmt → Nat → Nat → Nat → Nat × Flags)

theorem State.vArith_int (h : fmtOf o.ty = none) : s.vPlain (s.vRun (fun c => c.vArith o sat fi ff)) o.vd o.mask o.ty.width (fun j =>
    intWrap o.ty sat (fi (intLane o.ty (s.vOf o.ty.width o.va j)) (intLane o.ty (s.vB o.ty.width o.vb j)) (intLane o.ty (s.vOf o.ty.width o.vd j)))) := by
  refine State.vPlain_of_vDone (s.vDone_vRun (isLaneWidth_width o.ty) rfl (f := fun j => (intWrap o.ty sat (fi (intLane o.ty (s.vOf o.ty.width o.va j))
    (intLane o.ty (s.vB o.ty.width o.vb j)) (intLane o.ty (s.vOf o.ty.width o.vd j))), Flags.zero)) ?_) (fun _ => rfl)
  rw [s.me_vLanes, s.me_vbLanes, s.me_vLanes, map3_map_range]
  simp only [h, intResult_eq, laneInt_eq_intLane]
theorem State.vArith_float {f : Fmt} (h : fmtOf o.ty = some f) : s.vDone (s.vRun (fun c => c.vArith o sat fi ff)) o.vd o.mask o.ty.width (fun j =>
    ff f (s.vOf o.ty.width o.va j) (s.vB o.ty.width o.vb j) (s.vOf o.ty.width o.vd j)) := by
  refine s.vDone_vRun (isLaneWidth_width o.ty) rfl ?_
  rw [s.me_vLanes, s.me_vbLanes, s.me_vLanes, map3_map_range]
  simp only [h]

end

/-! ### Signs -/

section
variable (s : State) (o : VUnOps) (sat : Bool) (fi : Int → Int) (neg : Bool → Bool)

theorem State.vSign_int (h : fmtOf o.ty = none) : s.vPlain (s.vRun (fun c => c.vSign o sat fi neg)) o.vd o.mask o.ty.width (fun j =>
    intWrap o.ty sat (fi (intLane o.ty (s.vOf o.ty.width o.va j)))) := by
  refine s.vPlain_vRun (isLaneWidth_width o.ty) rfl ?_
  rw [s.me_vLanes, List.map_map]
  refine List.map_congr_left fun j _ => ?_
  simp only [Function.comp_apply, h, intResult_eq, laneInt_eq_intLane]
/-- The sign bit of a format is the top bit of its lane. -/
theorem signBit_of_fmtOf {t : Ty} {f : Fmt} (h : fmtOf t = some f) (b : Bool) : f.signBit b = if b then 2 ^ (t.width - 1) else 0 := by
  cases t <;> cases h <;> rfl
theorem State.vSign_float {f : Fmt} (h : fmtOf o.ty = some f) : s.vPlain (s.vRun (fun c => c.vSign o sat fi neg)) o.vd o.mask o.ty.width (fun j =>
    let a := s.vOf o.ty.width o.va j
    if f.decode a = .nan then f.nan else (if neg (a.testBit (o.ty.width - 1)) then 2 ^ (o.ty.width - 1) else 0) + a % 2 ^ (o.ty.width - 1)) := by
  refine s.vPlain_vRun (isLaneWidth_width o.ty) rfl ?_
  rw [s.me_vLanes, List.map_map]
  refine List.map_congr_left fun j _ => ?_
  simp only [Function.comp_apply, h, signBit_of_fmtOf h, bit_eq_testBit]

end

/-- Settles O32: every integer lane operation is one function of its lanes. -/
theorem vectorIntegers : Obligations.VectorIntegers := by
  intro s x y sat
  refine ⟨fun h => ⟨⟨_, rfl, s.vArith_int x sat _ _ h⟩, ⟨_, rfl, s.vArith_int x sat _ _ h⟩, ⟨_, rfl, s.vArith_int x false _ _ h⟩,
      ⟨_, rfl, s.vArith_int x false _ _ h⟩, ⟨_, rfl, s.vArith_int x false _ _ h⟩, ⟨_, rfl, s.vArith_int x false _ _ h⟩,
      ⟨_, rfl, s.vArith_int x false _ _ h⟩⟩, fun h => ⟨⟨_, rfl, ?_⟩, ⟨_, rfl, s.vSign_int y sat _ _ h⟩⟩, rfl⟩
  have habs : (fun a : Int => if a < 0 then -a else a) = fun a => |a| := by
    funext a
    split
    · next ha => exact (abs_of_neg ha).symm
    · next ha => exact (abs_of_nonneg (Int.not_lt.1 ha)).symm
  rw [← habs]
  exact s.vSign_int y sat _ _ h

/-- Settles O33: every float lane operation is one function of its lanes, and its flags are those of the lanes with a written byte. -/
theorem vectorFloats : Obligations.VectorFloats := by
  intro s x y f
  refine ⟨fun h => ⟨⟨_, rfl, s.vArith_float x false _ _ h⟩, ⟨_, rfl, s.vArith_float x false _ _ h⟩, ⟨_, rfl, s.vArith_float x false _ _ h⟩,
      ⟨_, rfl, s.vArith_float x false _ _ h⟩, ⟨_, rfl, s.vArith_float x false _ _ h⟩,
      ⟨_, rfl, State.vPlain_of_vDone (s.vArith_float x false _ _ h) (fun _ => rfl)⟩,
      ⟨_, rfl, State.vPlain_of_vDone (s.vArith_float x false _ _ h) (fun _ => rfl)⟩⟩,
    fun h => ⟨⟨_, rfl, s.vSign_float y false _ _ h⟩, ⟨_, rfl, s.vSign_float y false _ _ h⟩⟩⟩

end Sys2Proof.Machine
end

section
/-! PROOFS. Lane bits and masks of the V slot (O34). -/

namespace Sys2Proof.Machine

/-! ### Lane operations of one and two vectors -/

section
variable (s : State) (ty : Ty) (vd va vb : Fin 16) (mask : Fin 8)

theorem zipWith_map_range {α : Type} (f : Nat → Nat → α) (a b : Nat → Nat) (n : Nat) :
    List.zipWith f ((List.range n).map a) ((List.range n).map b) = (List.range n).map (fun j => f (a j) (b j)) := by
  rw [List.zipWith_map, List.zipWith_self]

/-- The amount of a lane shift (R378). -/
def State.amount (s : State) (w : Nat) (amt : VAmt) (j : Nat) : Nat :=
  match amt with
  | .imm i => i.toNat
  | .src b => s.vB w b j % w
theorem State.vShift_plain (amt : VAmt) {f : Nat → Nat → Nat} {g : Nat → Nat} (hg : ∀ j, f (s.vOf ty.width va j) (s.amount ty.width amt j) = g j) :
    s.vPlain (s.vRun (fun c => c.vShift ty vd va amt mask f)) vd mask ty.width g := by
  cases amt with
  | imm k =>
    have hamts : List.replicate (256 / ty.width) k.toNat = (List.range (256 / ty.width)).map (s.amount ty.width (.imm k)) :=
      (List.eq_replicate_iff.2 ⟨by simp, by simp [State.amount]⟩).symm
    refine s.vPlain_vRun (isLaneWidth_width ty) rfl ?_
    dsimp only
    rw [hamts, s.me_vLanes, zipWith_map_range]
    exact List.map_congr_left fun j _ => hg j
  | src b =>
    have hamts : (s.me.vbLanes ty.width b).map (· % ty.width) = (List.range (256 / ty.width)).map (s.amount ty.width (.src b)) := by
      rw [s.me_vbLanes, List.map_map]
      rfl
    refine s.vPlain_vRun (isLaneWidth_width ty) rfl ?_
    dsimp only
    rw [hamts, s.me_vLanes, zipWith_map_range]
    exact List.map_congr_left fun j _ => hg j
theorem State.vOf_lt (w : Nat) (n : Fin 16) (j : Nat) : s.vOf w n j < 2 ^ w := BitVec.isLt _
theorem State.vB_lt (w : Nat) (b : VSrc) (j : Nat) : s.vB w b j < 2 ^ w := by
  cases b with
  | v n => exact s.vOf_lt w n j
  | o n => exact Nat.mod_lt _ (Nat.two_pow_pos w)

theorem State.vfsh_plain (sh : BitVec 6) : ∃ t, exec (.vfsh ty vd va vb mask sh) s = .next t ∧ s.vPlain t vd mask ty.width (fun j =>
    (s.vOf ty.width va j * 2 ^ ty.width + s.vOf ty.width vb j) / 2 ^ sh.toNat % 2 ^ ty.width) :=
  ⟨_, rfl, s.vPlain_vRun (isLaneWidth_width ty) rfl (by rw [s.me_vLanes, s.me_vLanes, zipWith_map_range])⟩
theorem State.vperm_plain : ∃ t, exec (.vperm ty vd va vb mask) s = .next t ∧ s.vPlain t vd mask ty.width (fun j =>
    s.vOf ty.width va (s.vOf ty.width vb j % (256 / ty.width))) := by
  refine ⟨_, rfl, s.vPlain_vRun (isLaneWidth_width ty) rfl ?_⟩
  obtain ⟨hw, -, hdvd⟩ := isLaneWidth_width ty
  have hlanes : 0 < 256 / ty.width := Nat.div_pos (Nat.le_of_dvd (by decide) hdvd) hw
  rw [s.me_vLanes, s.me_vLanes, List.map_map]
  refine List.map_congr_left fun j _ => ?_
  exact getD_map_range (s.vOf ty.width va) (Nat.mod_lt _ hlanes)
theorem State.vbcast_plain (src : BcSrc) : ∃ t, exec (.vbcast ty vd src mask) s = .next t ∧ s.vPlain t vd mask ty.width (fun _ => match src with
    | .lane n q => if q.toNat < 256 / ty.width then s.vOf ty.width n q.toNat else 0
    | .o n => (s.me.read (.o n)).toNat % 2 ^ ty.width) := by
  refine ⟨_, rfl, s.vPlain_vRun (isLaneWidth_width ty) rfl ?_⟩
  have hreplicate (v : Nat) : List.replicate ty.lanes v = (List.range (256 / ty.width)).map (fun _ => v) :=
    (List.eq_replicate_iff.2 ⟨by simp [Ty.lanes], by simp⟩).symm
  rw [hreplicate]
  refine List.map_congr_left fun _ _ => ?_
  cases src with
  | o n => rfl
  | lane n q =>
    show (s.me.vLanes ty.width n).getD q.toNat 0 = _
    rw [s.me_vLanes]
    by_cases hq : q.toNat < 256 / ty.width
    · exact (getD_map_range _ hq).trans (if_pos hq).symm
    · rw [List.getD_eq_default _ _ (by simpa using hq)]
      exact (if_neg hq).symm
theorem State.vpopc_plain : ∃ t, exec (.vpopc ⟨ty, vd, va, mask⟩) s = .next t ∧ s.vPlain t vd mask ty.width (fun j =>
    (List.range ty.width).countP (fun i => (s.vOf ty.width va j).testBit i)) := by
  refine ⟨_, rfl, s.vPlain_vRun (isLaneWidth_width ty) rfl ?_⟩
  rw [s.me_vLanes, List.map_map]
  exact List.map_congr_left fun j _ => popCount_eq_countP ty.width _

end

/-! ### The fixed-point multiply -/

/-- A lane is the most negative value where it holds the sign bit alone. -/
theorem toInt_eq_min_iff {w x : Nat} (hw : 0 < w) (hx : x < 2 ^ w) : (BitVec.ofNat w x).toInt = -2 ^ (w - 1) ↔ x = 2 ^ (w - 1) := by
  have h2 : 2 ^ w = 2 * 2 ^ (w - 1) := by rw [← Nat.pow_succ', Nat.succ_eq_add_one, Nat.sub_add_cancel hw]
  have hcast : (2 : Int) ^ (w - 1) = ((2 ^ (w - 1) : Nat) : Int) := by norm_cast
  rw [BitVec.toInt_eq_toNat_cond, BitVec.toNat_ofNat, Nat.mod_eq_of_lt hx, hcast]
  generalize 2 ^ (w - 1) = m at *
  have hpos : 0 < 2 ^ w := Nat.two_pow_pos w
  rw [h2] at hx hpos ⊢
  split
  · omega
  · push_cast
    omega
theorem qmul_eq {w a b : Nat} (hw : 0 < w) (ha : a < 2 ^ w) (hb : b < 2 ^ w) : qmul w a b =
    if (BitVec.ofNat w a).toInt = -2 ^ (w - 1) ∧ (BitVec.ofNat w b).toInt = -2 ^ (w - 1) then 2 ^ (w - 1) - 1
    else (BitVec.ofInt w ((2 * (BitVec.ofNat w a).toInt * (BitVec.ofNat w b).toInt + 2 ^ (w - 1)) / 2 ^ w)).toNat := by
  simp only [qmul, sgn_eq_toInt hw, unsgn_eq_toNat, toInt_eq_min_iff hw ha, toInt_eq_min_iff hw hb]
  norm_cast
theorem State.vqmul_plain (s : State) (x : VOps) : ∃ t, exec (.vqmul x) s = .next t ∧ s.vPlain t x.vd x.mask x.ty.width (fun j =>
    let a := (BitVec.ofNat x.ty.width (s.vOf x.ty.width x.va j)).toInt
    let b := (BitVec.ofNat x.ty.width (s.vB x.ty.width x.vb j)).toInt
    if a = -2 ^ (x.ty.width - 1) ∧ b = -2 ^ (x.ty.width - 1) then 2 ^ (x.ty.width - 1) - 1
    else (BitVec.ofInt x.ty.width ((2 * a * b + 2 ^ (x.ty.width - 1)) / 2 ^ x.ty.width)).toNat) := by
  refine ⟨_, rfl, s.vPlain_vRun (isLaneWidth_width x.ty) rfl ?_⟩
  rw [s.me_vLanes, s.me_vbLanes, zipWith_map_range]
  exact List.map_congr_left fun j _ => qmul_eq (isLaneWidth_width x.ty).1 (s.vOf_lt _ _ j) (s.vB_lt _ _ j)

/-! ### Bit tables and selections of whole vectors -/

section
variable (s : State) (vd va vb : Fin 16) (mask : Fin 8)

theorem getLsbD_mergeBytes (m : Lane) (old new : VWord) {i : Nat} (hi : i < 256) :
    (mergeBytes m old new).getLsbD i = if m.getLsbD (i / 8) then new.getLsbD i else old.getLsbD i := by
  rw [mergeBytes, BitVec.getLsbD_or, BitVec.getLsbD_and, BitVec.getLsbD_and, BitVec.getLsbD_not, getLsbD_byteMask m hi]
  cases m.getLsbD (i / 8) <;> simp [hi]
/-- Writing a vector writes it, and changes nothing else. -/
theorem State.writeV_outcome {g : Ctx → Ctx} {v : VWord} (hg : g s.me = s.me.writeV vd v) :
    s.vecOnly (s.vRun g) vd ∧ (s.vRun g).me.flags = s.me.flags ∧ (s.vRun g).me.readV vd = v := by
  have hme : (s.vRun g).me = s.me.writeV vd v := (s.me_modMe g).trans hg
  have hraise : g s.me = (s.me.writeV vd v).raise Flags.zero := by
    rw [hg, Ctx.raise, flagsOr_zero]
  refine ⟨s.vecOnly_vRun hraise, ?_, ?_⟩
  · rw [hme]
    rfl
  · rw [hme, Ctx.readV_writeV, if_pos rfl]
theorem State.vltab_outcome (tbl : BitVec 8) : ∃ t, exec (.vltab vd va vb mask tbl) s = .next t ∧ s.vecOnly t vd ∧ t.me.flags = s.me.flags
    ∧ ∀ i, i < 256 → (t.me.readV vd).getLsbD i = if (s.me.readM mask).getLsbD (i / 8)
      then tbl.getLsbD (4 * ((s.me.readV va).getLsbD i).toNat + 2 * ((s.me.readV vb).getLsbD i).toNat + ((s.me.readV vd).getLsbD i).toNat)
      else (s.me.readV vd).getLsbD i := by
  obtain ⟨honly, hflags, hread⟩ := s.writeV_outcome vd (g := fun c => c.vPutPlain 256 vd mask
    [tableBits 256 tbl.toNat (c.readV vd).toNat (c.readV va).toNat (c.readV vb).toNat]) rfl
  refine ⟨_, rfl, honly, hflags, fun i hi => ?_⟩
  have hdiv : i / 256 = 0 := Nat.div_eq_of_lt hi
  rw [hread, getLsbD_mergeBytes _ _ _ hi, getLsbD_vecOf (by decide) _ hi, hdiv, Nat.mod_eq_of_lt hi, List.getD_cons_zero, testBit_tableBits,
    decide_eq_true hi, Bool.true_and]
  simp only [bit_toNat]
theorem State.vsel_outcome : ∃ t, exec (.vsel vd va vb mask) s = .next t ∧ s.vecOnly t vd ∧ t.me.flags = s.me.flags
    ∧ ∀ j, j < 32 → vByte (t.me.readV vd) j = if (s.me.readM mask).getLsbD j then vByte (s.me.readV va) j else vByte (s.me.readV vb) j := by
  obtain ⟨honly, hflags, hread⟩ := s.writeV_outcome vd (g := fun c => c.writeV vd (mergeBytes (c.readM mask) (c.readV vb) (c.readV va))) rfl
  refine ⟨_, rfl, honly, hflags, fun j hj => ?_⟩
  rw [hread, vByte_mergeBytes _ _ _ hj]

end

theorem vectorBits : Sys2Proof.Claims.VectorBits := by
  intro s ty vd va vb mask tbl sh amt src x
  have hsra (a k : Nat) : unsgn ty.width (sgn ty.width a / (2 ^ k : Nat)) = (BitVec.ofInt ty.width ((BitVec.ofNat ty.width a).toInt / 2 ^ k)).toNat := by
    rw [unsgn_eq_toNat, sgn_eq_toInt (isLaneWidth_width ty).1]
    norm_cast
  exact ⟨⟨_, rfl, s.vShift_plain ty vd va mask amt (fun _ => rfl)⟩, ⟨_, rfl, s.vShift_plain ty vd va mask amt (fun _ => rfl)⟩,
    ⟨_, rfl, s.vShift_plain ty vd va mask amt (fun j => hsra _ _)⟩, s.vfsh_plain ty vd va vb mask sh,
    s.vperm_plain ty vd va vb mask, s.vbcast_plain ty vd mask src, s.vpopc_plain ty vd va mask, s.vltab_outcome vd va vb mask tbl,
    s.vsel_outcome vd va vb mask, s.vqmul_plain x⟩

/-! ### Masks -/

theorem Ctx.readM_writeM (x : Ctx) (k n : Fin 8) (v : Lane) : (x.writeM n v).readM k = if k = n ∧ n ≠ 0 then v else x.readM k := by
  have hzero : (n.val = 0) = (n = 0) := by rw [Fin.ext_iff]; rfl
  unfold Ctx.writeM
  by_cases hn : n = 0
  · rw [if_pos (hzero.mpr hn), if_neg (fun h => h.2 hn)]
  · rw [if_neg (fun h => hn (hzero.mp h))]
    by_cases hk : k = n
    · subst hk
      rw [if_pos ⟨rfl, hn⟩, Ctx.readM, if_neg (fun h => hn (hzero.mp h))]
      exact Table.get_set_self _ _ _ _
    · rw [if_neg (fun h => hk h.1)]
      have hget := Table.get_set_other (d := (0 : Lane)) x.m (fun h : k.val = n.val => hk (Fin.ext h)) v
      rw [Ctx.readM, Ctx.readM, hget]
/-- A lane written under a mask register's guard. -/
theorem State.mPut_done (s : State) {g : Ctx → Ctx} {md mask : Fin 8} {r : Lane} (hg : g s.me = s.me.mPut md mask r) {f : Nat → Bool}
    (hf : ∀ j, j < 32 → r.getLsbD j = f j) : s.mDone (s.vRun g) md mask f := by
  have hme : (s.vRun g).me = s.me.mPut md mask r := (s.me_modMe g).trans hg
  have hctx (x : Ctx) (k : Fin 8) (v : Lane) : ∃ m, x.writeM k v = { x with m := m } := by
    unfold Ctx.writeM
    split
    · exact ⟨x.m, rfl⟩
    · exact ⟨_, rfl⟩
  obtain ⟨m, hm⟩ := hctx s.me md ((r &&& s.me.readM mask) ||| (s.me.readM md &&& ~~~s.me.readM mask))
  have hput : (s.vRun g).me = { s.me with m := m } := hme.trans hm
  refine ⟨fun k j hj => ?_, fun q => ?_, fun k => ?_, fun k => ?_, ?_, ?_, s.othersKept_modMe g, rfl⟩
  · rw [hme, Ctx.mPut, Ctx.readM_writeM]
    by_cases hk : k = md ∧ md ≠ 0
    · obtain ⟨rfl, hmd⟩ := hk
      rw [if_pos ⟨rfl, hmd⟩, BitVec.getLsbD_or, BitVec.getLsbD_and, BitVec.getLsbD_and, BitVec.getLsbD_not, hf j hj]
      cases (s.me.readM mask).getLsbD j <;> simp [hj, hmd]
    · rw [if_neg hk, if_neg (fun h => hk ⟨h.1, h.2.1⟩)]
  · rw [hput]
    cases q <;> rfl
  · rw [hput]
    rfl
  · rw [hput]
    rfl
  · rw [hput]
  · rw [hput]
    exact ⟨rfl, rfl, rfl, rfl, rfl, rfl⟩

/-- A lane's answer in every bit of its bytes. -/
theorem testBit_ones {b : Nat} (c : Bool) {i : Nat} (hi : i < b) : (if c then 2 ^ b - 1 else 0 : Nat).testBit i = c := by
  cases c
  · simp
  · simp [Nat.testBit_two_pow_sub_one, hi]
theorem State.vcmp_done (s : State) (c : Cond) (ty : Ty) (md mask : Fin 8) (va : Fin 16) (vb : VSrc) :
    ∃ t, exec (.vcmp c ty md va vb mask) s = .next t ∧ s.mDone t md mask (fun j =>
      let a := s.vOf ty.width va (j / (ty.width / 8))
      let b := s.vB ty.width vb (j / (ty.width / 8))
      match fmtOf ty with
      | none => condInt c (intLane ty a) (intLane ty b)
      | some f => if f.decode a = .nan ∨ f.decode b = .nan then c == .ne else condInt c (numCmp (f.decode a) (f.decode b)) 0) := by
  refine ⟨_, rfl, s.mPut_done rfl fun j hj => ?_⟩
  obtain ⟨hw, ⟨b, hb⟩, hdvd⟩ := isLaneWidth_width ty
  have hbytes : ty.width / 8 = b := by rw [hb, Nat.mul_div_cancel_left b (by decide)]
  have hpos : 0 < b := by omega
  have hlane : j / b < 256 / ty.width := by
    rw [hb, ← Nat.div_div_eq_div_mul, Nat.div_lt_iff_lt_mul hpos]
    obtain ⟨c, hc⟩ := hdvd
    have hbc : b * c = 32 := by rw [hb, Nat.mul_assoc] at hc; omega
    rw [show 256 / 8 = b * c by rw [hbc], Nat.mul_div_cancel_left c hpos, Nat.mul_comm, hbc]
    exact hj
  rw [BitVec.getLsbD_ofNat, decide_eq_true hj, Bool.true_and, testBit_packLanes (by rw [hbytes]; exact hpos), s.me_vLanes, s.me_vbLanes,
    zipWith_map_range, hbytes, getD_map_range _ hlane, testBit_ones _ (Nat.mod_lt _ hpos)]
  cases hf : fmtOf ty with
  | none => simp only [laneInt_eq_intLane]
  | some f => rfl
theorem State.vmask_done (s : State) (md ma mask : Fin 8) (mb : Sum (Fin 8) (Fin 8)) (tbl : BitVec 4) :
    ∃ t, exec (.vmask md ma mb mask tbl) s = .next t ∧ s.mDone t md mask (fun j =>
      let b : Bool := match mb with
        | .inl k => (s.me.readM k).getLsbD j
        | .inr n => (s.me.read (.o n)).getLsbD j
      tbl.getLsbD (2 * ((s.me.readM ma).getLsbD j).toNat + b.toNat)) := by
  refine ⟨_, rfl, s.mPut_done rfl fun j hj => ?_⟩
  rw [BitVec.getLsbD_ofNat, decide_eq_true hj, Bool.true_and, testBit_ofBits, decide_eq_true hj, Bool.true_and, bit_toNat, bit_toNat]
  cases mb with
  | inl k => simp only [bit_toNat]
  | inr n =>
    simp only [bit_toNat]
    rfl

/-- Settles O34: each operation puts a function of its lanes, or bits of a mask. -/
theorem vectorBitsAndMasks : Obligations.VectorBitsAndMasks :=
  ⟨vectorBits, fun s c ty md ma mask va vb mb tbl => ⟨s.vcmp_done c ty md mask va vb, s.vmask_done md ma mask mb tbl⟩⟩

end Sys2Proof.Machine
end

section
/-! PROOFS. The lane operations of epilogue programs (O36, first part). -/

namespace Sys2Proof.Machine

/-! ### Rows and registers -/

theorem length_setAt {α : Type} (l : List α) (k : Nat) (a : α) : (setAt l k a).length = l.length := by
  induction l generalizing k with
  | nil => rfl
  | cons x xs ih =>
    cases k with
    | zero => rfl
    | succ k => rw [setAt, List.length_cons, ih, List.length_cons]
theorem getD_setAt {α : Type} (l : List α) {k : Nat} (hk : k < l.length) (j : Nat) (a d : α) :
    (setAt l k a).getD j d = if j = k then a else l.getD j d := by
  induction l generalizing j k with
  | nil => simp at hk
  | cons x xs ih =>
    cases k with
    | zero => cases j <;> simp [setAt]
    | succ k =>
      cases j with
      | zero => simp [setAt]
      | succ j =>
        rw [setAt, List.getD_cons_succ, List.getD_cons_succ, ih (by simpa using hk)]
        simp

section
variable {s : State} {r : EpiRow} (h : s.epiFits r) (d : Fin 6) (a b c : ESrc)
include h

/-- A source holds 32 lanes. -/
theorem State.epiSrc_eq : s.epiSrc a = (List.range 32).map (s.epiL a) := by
  obtain ⟨hepi, hsix, hlanes⟩ := h
  have hlength : (s.epiSrc a).length = 32 := by
    have hrow (t : List Lane) (m : Nat) : (tileRow t m).length = 32 := by simp [tileRow]
    cases a with
    | e n =>
      have hn : n.val < r.e.length := by rw [hsix]; exact n.isLt
      have hreg : s.epiSrc (.e n) = r.e[n.val] := by
        rw [State.epiSrc, hepi]
        exact List.getD_eq_getElem _ _ hn
      rw [hreg]
      exact hlanes _ (List.getElem_mem hn)
    | acc =>
      rw [State.epiSrc]
      cases s.epiDrain with
      | none => rfl
      | some d => exact hrow _ _
    | z => rfl
  refine List.ext_getElem (by simpa using hlength) fun n hn _ => ?_
  rw [List.getElem_map, List.getElem_range, State.epiL, List.getD_eq_getElem _ _ hn]

/-- A register written lane by lane. -/
theorem State.epiPut_done {g : Nat → BitVec 32} {lanes : List Lane} (hl : lanes = (List.range 32).map g) : s.epiDone (s.epiPut d lanes) r d g := by
  obtain ⟨hepi, hsix, hlanes⟩ := h
  have hd : d.val < r.e.length := by rw [hsix]; exact d.isLt
  refine ⟨rfl, setAt r.e d.val lanes, ?_, (length_setAt ..).trans hsix, fun k hk => ?_, ?_, fun n hn => ?_⟩
  · show s.epi.map _ = _
    rw [hepi]
    rfl
  · rw [getD_setAt _ hd, if_neg hk]
  · rw [getD_setAt _ hd, if_pos rfl, hl]
    simp
  · rw [getD_setAt _ hd, if_pos rfl, hl, List.getD_eq_getElem _ _ (by simpa using hn), List.getElem_map, List.getElem_range]

/-- Operations of one, two and three sources. -/
theorem State.epi1_done {f : Nat → Nat} (g : BitVec 32 → BitVec 32) (hg : ∀ x : BitVec 32, BitVec.ofNat 32 (f x.toNat) = g x) :
    s.epiDone (s.epi1 d a f) r d (fun n => g (s.epiL a n)) := by
  refine State.epiPut_done h d ?_
  rw [State.epiSrc_eq h, List.map_map]
  exact List.map_congr_left fun n _ => hg _
theorem State.epi2_done {f : Nat → Nat → Nat} (g : BitVec 32 → BitVec 32 → BitVec 32)
    (hg : ∀ x y : BitVec 32, BitVec.ofNat 32 (f x.toNat y.toNat) = g x y) :
    s.epiDone (s.epi2 d a b f) r d (fun n => g (s.epiL a n) (s.epiL b n)) := by
  refine State.epiPut_done h d ?_
  rw [State.epiSrc_eq h a, State.epiSrc_eq h b, List.zipWith_map, List.zipWith_self]
  exact List.map_congr_left fun n _ => hg _ _
theorem State.epi3_done {f : Nat → Nat → Nat → Nat} (g : BitVec 32 → BitVec 32 → BitVec 32 → BitVec 32)
    (hg : ∀ x y z : BitVec 32, BitVec.ofNat 32 (f x.toNat y.toNat z.toNat) = g x y z) :
    s.epiDone (s.epi3 d a b c f) r d (fun n => g (s.epiL a n) (s.epiL b n) (s.epiL c n)) := by
  refine State.epiPut_done h d ?_
  rw [State.epiSrc_eq h a, State.epiSrc_eq h b, State.epiSrc_eq h c, List.zip_map', List.zipWith_map, List.zipWith_self]
  exact List.map_congr_left fun n _ => hg _ _ _
omit h in
/-- The column sums hold 32 lanes. -/
theorem State.epiCsum_eq : s.epiCsum = (List.range 32).map (fun n => s.epiCsum.getD n 0) := by
  have hlength : s.epiCsum.length = 32 := by
    unfold State.epiCsum
    cases s.epiDrain with
    | none => rfl
    | some d => simp
  refine List.ext_getElem (by simpa using hlength) fun n hn _ => ?_
  rw [List.getElem_map, List.getElem_range, List.getD_eq_getElem _ _ hn]
theorem State.ezpc_done (f : Bool) : ∃ t, exec (.ezpc f d a b c) s = .next t ∧ s.epiDone t r d (fun n => BitVec.ofNat 32 (zpcLane f s.epiK s.epiRsum.toNat
    (s.epiCsum.getD n 0).toNat (s.epiL a n).toNat (s.epiL b n).toNat (s.epiL c n).toNat)) := by
  refine ⟨_, rfl, State.epiPut_done h d ?_⟩
  conv_lhs => rw [State.epiCsum_eq]
  rw [State.epiSrc_eq h a, State.epiSrc_eq h b, State.epiSrc_eq h c, List.zip_map', List.zip_map', List.zipWith_map, List.zipWith_self]

end

/-! ### Lane functions -/

section
variable (x y : BitVec 32)

theorem ofNat_toNat_32 : BitVec.ofNat 32 x.toNat = x := by
  rw [BitVec.ofNat_toNat, BitVec.setWidth_eq]
theorem ofNat_unsgn (z : Int) : BitVec.ofNat 32 (unsgn 32 z) = BitVec.ofInt 32 z := by
  rw [unsgn_eq_toNat, ofNat_toNat_32]
theorem ofNat_ite (c : Prop) [Decidable c] (m n : Nat) : BitVec.ofNat 32 (if c then m else n) = if c then BitVec.ofNat 32 m else BitVec.ofNat 32 n :=
  apply_ite _ c m n
theorem ofNat_eshr (h : Nat) : BitVec.ofNat 32 (eshr x.toNat h) = if h = 0 then x else BitVec.ofInt 32 ((x.toInt + 2 ^ (h - 1)) / 2 ^ h) := by
  rw [eshr, ofNat_ite, ofNat_toNat_32, ofNat_unsgn, sgn_toNat (by decide)]
  norm_cast
theorem ofNat_qmul : BitVec.ofNat 32 (qmul 32 x.toNat y.toNat) = if x = 0x80000000 ∧ y = 0x80000000 then 0x7FFFFFFF
    else BitVec.ofInt 32 ((2 * x.toInt * y.toInt + 2 ^ 31) / 2 ^ 32) := by
  have hmin (z : BitVec 32) : z.toNat = 2 ^ (32 - 1) ↔ z = 0x80000000 := by
    rw [← BitVec.toNat_inj]
    rfl
  rw [qmul, ofNat_ite, ofNat_unsgn, sgn_toNat (by decide), sgn_toNat (by decide)]
  have hhalf : ((2 ^ (32 - 1) : Nat) : Int) = 2 ^ 31 := by decide
  have hfull : ((2 ^ 32 : Nat) : Int) = 2 ^ 32 := by decide
  simp only [hmin]
  have hmax : BitVec.ofNat 32 (2 ^ (32 - 1) - 1) = 0x7FFFFFFF := by decide
  rw [hhalf, hfull, hmax]
theorem ofNat_le (m n : Nat) : BitVec.ofNat 32 (if sgn 32 x.toNat ≤ sgn 32 y.toNat then m else n)
    = if x.sle y then BitVec.ofNat 32 m else BitVec.ofNat 32 n := by
  rw [ofNat_ite, sgn_toNat (by decide), sgn_toNat (by decide), BitVec.sle_eq_decide]
  simp only [decide_eq_true_eq]
theorem ofNat_neg : BitVec.ofNat 32 (if sgn 32 x.toNat < 0 then 0 else x.toNat) = if x.slt 0 then 0 else x := by
  rw [ofNat_ite, sgn_toNat (by decide), BitVec.slt_eq_decide, ofNat_toNat_32]
  simp
theorem ofNat_erelu : BitVec.ofNat 32 (match dec32 x.toNat with
      | .nan => fp32.nan
      | v => if numIsNeg v ∨ numIsZero v then 0 else x.toNat) = (match dec32 x.toNat with
        | .nan => BitVec.ofNat 32 fp32.nan
        | v => if numIsNeg v = true ∨ numIsZero v = true then 0 else x) := by
  cases dec32 x.toNat with
  | nan => rfl
  | inf n => exact (ofNat_ite _ _ _).trans (by rw [ofNat_toNat_32]; rfl)
  | fin n m e => exact (ofNat_ite _ _ _).trans (by rw [ofNat_toNat_32]; rfl)

end

theorem epilogueLanes : Sys2Proof.Claims.EpilogueLanes := by
  intro s r d a b c sh f ty rm sat k h go x y z fl asr
  refine ⟨⟨_, rfl, State.epi1_done h d a id ofNat_toNat_32⟩,
    ⟨_, rfl, State.epi2_done h d a b (fun x y => x + y) fun x y => ?_⟩, ⟨_, rfl, State.epi2_done h d a b (fun x y => x - y) fun x y => ?_⟩,
    ⟨_, rfl, State.epi2_done h d a b (fun x y => x * y) fun x y => ?_⟩,
    ⟨_, rfl, State.epi3_done h d a b c (fun x y z => x * y + z) fun x y z => ?_⟩,
    ⟨_, rfl, State.epi2_done h d a b (fun x y => if x.sle y then x else y) fun x y => ?_⟩,
    ⟨_, rfl, State.epi2_done h d a b (fun x y => if x.sle y then y else x) fun x y => ?_⟩,
    ⟨_, rfl, State.epi2_done h d a b (fun x y => BitVec.ofNat 32 (fp32.add (fl x) (fl y)).1) fun _ _ => rfl⟩,
    ⟨_, rfl, State.epi2_done h d a b (fun x y => BitVec.ofNat 32 (fp32.add (fl x) (numNeg (fl y))).1) fun _ _ => rfl⟩,
    ⟨_, rfl, State.epi2_done h d a b (fun x y => BitVec.ofNat 32 (fp32.mul (fl x) (fl y)).1) fun _ _ => rfl⟩,
    ⟨_, rfl, State.epi3_done h d a b c (fun x y z => BitVec.ofNat 32 (fp32.fma (fl x) (fl y) (fl z)).1) fun _ _ _ => rfl⟩,
    ⟨_, rfl, State.epi2_done h d a b (fun x y => BitVec.ofNat 32 (fp32.pickMin x.toNat y.toNat)) fun _ _ => rfl⟩,
    ⟨_, rfl, State.epi2_done h d a b (fun x y => BitVec.ofNat 32 (fp32.pickMax x.toNat y.toNat)) fun _ _ => rfl⟩,
    ⟨_, rfl, State.epi1_done h d a (fun x => asr x sh.toNat) fun x => ofNat_eshr x sh.toNat⟩,
    ⟨_, rfl, State.epi2_done h d a b (fun x y => asr x (y.toNat % 32)) fun x y => ofNat_eshr x (y.toNat % 32)⟩,
    ⟨_, rfl, State.epi2_done h d a b (fun x y => if x = 0x80000000 ∧ y = 0x80000000 then 0x7FFFFFFF
      else BitVec.ofInt 32 ((2 * x.toInt * y.toInt + 2 ^ 31) / 2 ^ 32)) ofNat_qmul⟩,
    ⟨_, rfl, State.epi1_done h d a (fun x => BitVec.ofNat 32 (convertTy (if f then .f32 else .i32) ty rm sat x.toNat).1) fun _ => rfl⟩,
    State.ezpc_done h d a b c f,
    ⟨_, rfl, State.epi1_done h d a (fun x => if x.slt 0 then 0 else x) fun x => ofNat_neg x⟩,
    ⟨_, rfl, State.epi1_done h d a (fun x => match fl x with
        | .nan => BitVec.ofNat 32 fp32.nan
        | v => if numIsNeg v = true ∨ numIsZero v = true then 0 else x) fun x => ofNat_erelu x⟩,
    ⟨_, rfl, State.epi3_done h d a b c (fun x y z => if eselCond f k z.toNat then x else y) fun x y z => ?_⟩,
    fun q => ⟨_, rfl, State.epiPut_done h d rfl⟩, ⟨_, rfl, State.epiPut_done h d ?_⟩, ⟨_, rfl, State.epiPut_done h d (State.epiCsum_eq)⟩,
    ⟨_, rfl, State.epiPut_done h d ?_⟩⟩
  · exact BitVec.eq_of_toNat_eq (by simp)
  · refine BitVec.eq_of_toNat_eq ?_
    have hy := y.isLt
    simp only [Bool.false_eq_true, if_false, BitVec.toNat_ofNat, BitVec.toNat_sub, Nat.mod_mod]
    congr 1
    omega
  · exact BitVec.eq_of_toNat_eq (by simp)
  · exact BitVec.eq_of_toNat_eq (by simp)
  · exact (ofNat_le x y _ _).trans (by rw [ofNat_toNat_32, ofNat_toNat_32])
  · exact (ofNat_le x y _ _).trans (by rw [ofNat_toNat_32, ofNat_toNat_32])
  · rw [ofNat_ite, ofNat_toNat_32, ofNat_toNat_32]
  · exact (List.eq_replicate_iff.2 ⟨by simp, by simp⟩).symm
  · exact (List.eq_replicate_iff.2 ⟨by simp, by simp⟩).symm

end Sys2Proof.Machine
end

section
/-! PROOFS. Moving an engine on takes no event from the agenda; the rows of epilogue programs (O36, second part). -/

namespace Sys2Proof.Machine

/-! ### The agenda grows -/

/-- What is scheduled in `s` is scheduled in `t`. -/
def State.Adds (s t : State) : Prop := ∀ e ∈ s.agenda, e ∈ t.agenda

theorem State.Adds.refl (s : State) : s.Adds s := fun _ h => h
theorem State.Adds.trans {s t u : State} (h : s.Adds t) (h' : t.Adds u) : s.Adds u := fun e he => h' e (h e he)
theorem State.Adds.of_eq {s t : State} (h : t.agenda = s.agenda) : s.Adds t := fun _ he => h ▸ he

section
variable (s : State) (l : Nat)

theorem State.sched_adds (n : Nat) (i : Instr) : s.Adds (s.sched n i) := fun _ he => mem_insertEv_of_mem he
theorem State.schedOnce_adds (n : Nat) (i : Instr) : s.Adds (s.schedOnce n i) := by
  unfold State.schedOnce
  split
  · exact .refl s
  · exact s.sched_adds n i
theorem State.schedSoon_adds (n : Nat) (i : Instr) : s.Adds (s.schedSoon n i) := by
  unfold State.schedSoon
  split
  · exact .refl s
  · exact s.sched_adds n i
theorem State.Adds.step {s t u : State} {c : Prop} [Decidable c] (h : s.Adds t) (h' : t.Adds u) : s.Adds (if c then u else t) := by
  split
  · exact h.trans h'
  · exact h
theorem State.driveLoader_adds (far : Bool) (base : Nat) : s.Adds (s.driveLoader l far base) := by
  unfold State.driveLoader
  dsimp only
  split
  · exact .refl s
  · split
    · exact .refl s
    · exact (State.Adds.of_eq rfl).trans (State.sched_adds _ _ _)
theorem State.offerEng_adds (base : Nat) : s.Adds (s.offerEng l base) := by
  unfold State.offerEng
  dsimp only
  have hloaders := (s.driveLoader_adds l false base).trans (State.driveLoader_adds _ l true base)
  generalize (s.driveLoader l false base).driveLoader l true base = t at *
  have hpre : s.Adds (if (s.eng l).runs = true ∧ ((s.eng l).prePassReady (s.eng l).prod = true ∨ (s.eng l).prePassReady ((s.eng l).prod + 1) = true)
      then t.schedOnce 0 (.prePass l) else t) := .step hloaders (t.schedOnce_adds _ _)
  split
  · exact .step (.step (.step hpre (State.schedSoon_adds _ _ _)) (State.schedSoon_adds _ _ _)) (State.schedSoon_adds _ _ _)
  · exact .step (.step hpre (State.schedSoon_adds _ _ _)) (State.schedSoon_adds _ _ _)
theorem State.reread_adds (far : Bool) (f : Option Fetch) :
    s.Adds (match f with | some f => s.sched (f.ends - s.now) (.loaderFetch l far) | none => s) := by
  cases f with
  | none => exact .refl s
  | some f => exact s.sched_adds _ _
theorem State.goOnEng_adds (h t : Nat) : s.Adds (s.goOnEng l h t) := by
  unfold State.goOnEng
  dsimp only
  generalize ({ (s.eng l).delay (t - h) (t - Nat.max h ((s.eng l).press.elim 0 (·.2))) with
      held := none, stalls := if (s.eng l).sched_ = true then (s.eng l).stalls + (t - h) else (s.eng l).stalls } : Engine) = e
  have hset : s.Adds (s.setEng l e) := .of_eq rfl
  generalize s.setEng l e = u at *
  exact hset.trans ((u.reread_adds l false _).trans (State.reread_adds _ l true _))
theorem State.standing_adds (base : Nat) : s.Adds (s.standing l base) := by
  unfold State.standing
  dsimp only
  split
  · exact .of_eq rfl
  · split
    · split
      · exact s.goOnEng_adds l _ _
      · exact .of_eq rfl
    · exact .refl s
theorem State.driveEng_adds (base : Nat) : s.Adds (s.driveEng l base) := by
  unfold State.driveEng
  dsimp only
  generalize (if (s.eng l).st = .ready ∧ (!(s.eng l).stopping) = true ∧ 0 < (s.eng l).near.fed ∧ 0 < (s.eng l).far.fed
    then { s.eng l with st := .running } else s.eng l) = e
  generalize (if e.runs = true then absorb (64 * e.depth + 96) e else e) = f
  have hstand : s.Adds ((s.setEng l f).standing l base) := (State.Adds.of_eq rfl).trans ((s.setEng l f).standing_adds l base)
  generalize (s.setEng l f).standing l base = t at *
  split
  · exact hstand
  · exact hstand.trans (t.offerEng_adds l _)

end

/-! ### EWR -/

/-- The write of the row in progress (R117, R144). -/
def Engine.rowWrite (e : Engine) (l : Nat) (d : Drain) (lanes : List Lane) : RowWrite :=
  { link := l, core := e.recvCore, off := (e.raddr d.prod d.row).toNat
    bytes := (lanes.take e.colsN).flatMap (fun v => leBytes (otypeBytes e.otype) v.toNat)
    acc := e.accType, dw := if fld e.recv 49 49 = 1 then some (fld e.recv 80 64) else none
    last := d.row + 1 == e.rows, num := d.num }

/-- The cycle in which the drain path takes a row ready in cycle `ready`, of a path whose last byte passes at `path` (R118). -/
def handCycle (path ready : Nat) (near : Prop) [Decidable near] : Nat := Nat.max ready (if near then path / 64 else (path + 63) / 64)
/-- The drain path once it has taken the row. -/
def pathAfter (path ready n : Nat) (near : Prop) [Decidable near] : Nat :=
  Nat.max path (handCycle path ready near * 64) + (if near then n else 96 * flitsOf n)
/-- The row on its way: at a receiver at hand its write, else a packet from core `a`. -/
def State.sendsRow (s : State) (a : Nat) (r : RowWrite) (path n : Nat) : State :=
  if r.core = linkNear r.link ∨ r.core = linkFar r.link then s.sched ((path - 1) / 64 + 8 - s.now) (.drainRowWrite r)
  else s.sched ((path - 1) / 64 - s.now) (.writeResend
    { cls := .data, src := a, dst := r.core, flits := flitsOf n, prio := s.pktPrio a, ctx := 0, tok := 0, wait := 0, body := .row r })

theorem State.handRow_eq {s : State} {l : Nat} {d : Drain} (hd : (s.eng l).passing = some d) (w : Nat) (lanes : List Lane) :
    let e := s.eng l
    let hand := handCycle e.path (s.now + w) (e.recvCore = linkNear l ∨ e.recvCore = linkFar l)
    let path := pathAfter e.path (s.now + w) (e.colsN * otypeBytes e.otype) (e.recvCore = linkNear l ∨ e.recvCore = linkFar l)
    let held := d.image.isSome ∧ s.now + w < hand
    let u := (s.modEng l (fun e => { e with path := path, press := if held then some (s.now + w, hand) else e.press })).sendsRow (endCore l e.aFar)
      (e.rowWrite l d lanes) path (e.colsN * otypeBytes e.otype)
    s.handRow l w lanes = (if held then (u.driveEng l 1).sched (hand - u.now) (.kStep l) else u, hand - (s.now + w)) := by
  unfold State.handRow
  simp only [hd]
  rfl

theorem State.sendsRow_unsent (s : State) (a : Nat) (r : RowWrite) (path n : Nat) : (s.sendsRow a r path n).unsent = s.unsent := by
  unfold State.sendsRow
  split <;> rfl
/-- The write of a row comes after the cycle in which its last byte passes. -/
theorem State.sendsRow_near {s : State} {a path n : Nat} {r : RowWrite} (hnear : r.core = linkNear r.link ∨ r.core = linkFar r.link)
    (hpath : s.now * 64 ≤ path) : ∃ due, (due, Instr.drainRowWrite r) ∈ (s.sendsRow a r path n).agenda ∧ s.now < due := by
  rw [State.sendsRow, if_pos hnear]
  refine ⟨s.now + ((path - 1) / 64 + 8 - s.now), State.mem_sched .., ?_⟩
  omega
theorem le_pathAfter {path ready now n : Nat} {near : Prop} [Decidable near] (h : now ≤ ready) : now * 64 ≤ pathAfter path ready n near := by
  have hhand : ready ≤ handCycle path ready near := Nat.le_max_left _ _
  have hmax : handCycle path ready near * 64 ≤ Nat.max path (handCycle path ready near * 64) := Nat.le_max_right _ _
  unfold pathAfter
  omega

/-- What handing a row to the drain path leaves: memory and contexts, and at a receiver at hand the write that comes later. -/
theorem State.handRow_outcome {s : State} {l : Nat} {d : Drain} (hd : (s.eng l).passing = some d) (w : Nat) (lanes : List Lane) :
    (s.handRow l w lanes).1.rest = s.rest
      ∧ ((s.eng l).recvCore = linkNear l ∨ (s.eng l).recvCore = linkFar l →
        ∃ due, (due, Instr.drainRowWrite ((s.eng l).rowWrite l d lanes)) ∈ (s.handRow l w lanes).1.agenda ∧ s.now < due) := by
  rw [State.handRow_eq hd]
  dsimp only
  generalize hf : (fun e : Engine => ({ e with
      path := pathAfter (s.eng l).path (s.now + w) ((s.eng l).colsN * otypeBytes (s.eng l).otype)
        ((s.eng l).recvCore = linkNear l ∨ (s.eng l).recvCore = linkFar l)
      press := if d.image.isSome = true ∧ s.now + w < handCycle (s.eng l).path (s.now + w)
          ((s.eng l).recvCore = linkNear l ∨ (s.eng l).recvCore = linkFar l)
        then some (s.now + w, handCycle (s.eng l).path (s.now + w) ((s.eng l).recvCore = linkNear l ∨ (s.eng l).recvCore = linkFar l))
        else e.press } : Engine)) = f
  have hrest : (s.modEng l f).rest = s.rest := rfl
  have hnow : (s.modEng l f).now = s.now := rfl
  generalize s.modEng l f = u at *
  have hsent := u.sendsRow_unsent (endCore l (s.eng l).aFar) ((s.eng l).rowWrite l d lanes)
    (pathAfter (s.eng l).path (s.now + w) ((s.eng l).colsN * otypeBytes (s.eng l).otype)
      ((s.eng l).recvCore = linkNear l ∨ (s.eng l).recvCore = linkFar l)) ((s.eng l).colsN * otypeBytes (s.eng l).otype)
  have hnear (h : (s.eng l).recvCore = linkNear l ∨ (s.eng l).recvCore = linkFar l) := State.sendsRow_near (s := u) (a := endCore l (s.eng l).aFar)
    (r := (s.eng l).rowWrite l d lanes) (n := (s.eng l).colsN * otypeBytes (s.eng l).otype) h
    (hnow ▸ le_pathAfter (path := (s.eng l).path) (n := (s.eng l).colsN * otypeBytes (s.eng l).otype)
      (near := (s.eng l).recvCore = linkNear l ∨ (s.eng l).recvCore = linkFar l) (Nat.le_add_right s.now w))
  rw [hnow] at hnear
  generalize u.sendsRow _ _ _ _ = v at *
  have hvrest : v.rest = s.rest := (State.rest_of_unsent _ hsent).trans hrest
  split
  · obtain ⟨n, -, hdriven⟩ := v.driveEng_driven l 1
    refine ⟨hdriven.rest.trans hvrest, fun h => ?_⟩
    obtain ⟨due, hmem, hlt⟩ := hnear h
    exact ⟨due, State.sched_adds _ _ _ _ (v.driveEng_adds l 1 _ hmem), hlt⟩
  · exact ⟨hvrest, hnear⟩

/-! ### EEND -/

/-- The row of a drain passed: the drain that passes its rows is the same, one row on. -/
theorem find_passed {p : Drain → Bool} {ds : List Drain} {d d' : Drain} (hfind : ds.find? p = some d) (honly : ∀ x ∈ ds, x.num = d.num → x = d)
    (hp : p d' = true) : (ds.map (fun x => if x.num = d.num then d' else x)).find? p = some d' := by
  induction ds with
  | nil => cases hfind
  | cons x xs ih =>
    by_cases hx : x.num = d.num
    · rw [List.map_cons, if_pos hx, List.find?_cons, hp]
    · have hno : p x = false := by
        cases hpx : p x
        · rfl
        · rw [List.find?_cons, hpx] at hfind
          exact absurd (congrArg Drain.num (Option.some.inj hfind)) hx
      rw [List.find?_cons, hno] at hfind
      rw [List.map_cons, if_neg hx, List.find?_cons, hno]
      exact ih hfind (fun y hy => honly y (List.mem_cons_of_mem _ hy))
theorem Engine.passing_modPassing {e : Engine} {d : Drain} (hd : e.passing = some d) (hrow : d.row + 1 < e.rows)
    (honly : ∀ x ∈ e.drains, x.num = d.num → x = d) (n : Nat) :
    ({ e.modPassing (fun d => { d with row := d.row + 1 }) with rowAt := n } : Engine).passing = some { d with row := d.row + 1 } := by
  have hbegun : d.begun = true := by
    have hfound := List.find?_some hd
    rw [Bool.and_eq_true] at hfound
    exact hfound.1
  have hmap : e.drains.map (fun x => if x.num = d.num then { x with row := x.row + 1 } else x)
      = e.drains.map (fun x => if x.num = d.num then { d with row := d.row + 1 } else x) := by
    refine List.map_congr_left fun x hx => ?_
    split
    · next h => rw [honly x hx h]
    · rfl
  unfold Engine.modPassing
  simp only [hd]
  show List.find? _ (e.drains.map (fun x => if x.num = d.num then { x with row := x.row + 1 } else x)) = _
  rw [hmap]
  refine find_passed hd honly ?_
  rw [Bool.and_eq_true, decide_eq_true_eq]
  exact ⟨hbegun, hrow⟩

theorem State.finishRow_rest (s : State) (l gap : Nat) : (s.finishRow l gap).rest = s.rest := by
  unfold State.finishRow
  dsimp only
  generalize hf : (fun e : Engine => ({ e.modPassing (fun d => { d with row := d.row + 1 }) with rowAt := s.now + gap } : Engine)) = f
  have hrest : (s.modEng l f).rest = s.rest := rfl
  generalize s.modEng l f = u at *
  split
  · exact hrest
  · obtain ⟨n, -, hdriven⟩ := u.driveEng_driven l 1
    exact hdriven.rest.trans hrest
/-- A row with one behind it is followed by it. -/
theorem State.finishRow_next {s : State} {l gap : Nat} {d : Drain} (hd : (s.eng l).passing = some d) (hrow : d.row + 1 < (s.eng l).rows)
    (honly : ∀ x ∈ (s.eng l).drains, x.num = d.num → x = d) :
    ((s.finishRow l gap).eng l).passing = some { d with row := d.row + 1 } ∧ (s.now + gap, .epilogueRow l) ∈ (s.finishRow l gap).agenda := by
  have hpassing := Engine.passing_modPassing hd hrow honly (s.now + gap)
  unfold State.finishRow
  dsimp only
  generalize hf : (fun e : Engine => ({ e.modPassing (fun d => { d with row := d.row + 1 }) with rowAt := s.now + gap } : Engine)) = f
  have heng : (s.modEng l f).eng l = f (s.eng l) := s.eng_modEng l f
  have hnow : (s.modEng l f).now = s.now := rfl
  generalize s.modEng l f = u at *
  rw [← hf] at heng
  have hu : (u.eng l).passing = some { d with row := d.row + 1 } := by
    rw [heng]
    exact hpassing
  rw [hu, Option.isSome_some, if_pos rfl, ← hnow]
  exact ⟨hu, State.mem_sched ..⟩

theorem epilogueRows : Sys2Proof.Claims.EpilogueRows := by
  intro s r a d hfits hd e
  obtain ⟨hepi, -, -⟩ := hfits
  refine ⟨?_, ?_⟩
  · obtain ⟨hrest, hwrite⟩ := State.handRow_outcome hd r.word (s.epiSrc a)
    have hexec : exec (.ewr a) s = .next { (s.handRow r.link r.word (s.epiSrc a)).1 with
        epi := some { r with word := r.word + 1, stall := (s.handRow r.link r.word (s.epiSrc a)).2 } } := by
      show execEwr a s = _
      rw [execEwr, hepi]
    refine ⟨_, hexec, (State.mem_of_rest hrest :), (State.ctxs_of_rest hrest :), ⟨_, rfl⟩, fun hnear => ?_⟩
    obtain ⟨due, hmem, hlt⟩ := hwrite hnear
    exact ⟨due, _, hmem, hlt, rfl, rfl, rfl, rfl, rfl, rfl, rfl⟩
  · have hexec : exec .eend s = .next (({ s with epi := none } : State).finishRow r.link (r.word + r.stall)) := by
      show execEend s = _
      rw [execEend, hepi]
    have hrest := ({ s with epi := none } : State).finishRow_rest r.link (r.word + r.stall)
    refine ⟨_, hexec, (State.mem_of_rest hrest :), (State.ctxs_of_rest hrest :), (congrArg State.epi hrest :), fun hrow honly => ?_⟩
    exact State.finishRow_next (s := { s with epi := none }) hd hrow honly

/-- Settles O36: the lane operations put functions of their lanes, and a row goes to the drain path. -/
theorem epilogueOperations : Obligations.EpilogueOperations := ⟨epilogueLanes, epilogueRows⟩

end Sys2Proof.Machine
end

section
/-! PROOFS. Boot stages (O37): the copy a stage runs is the newest of those that pass. -/

namespace Sys2Proof.Machine

/-! ### The newest copy -/

theorem newest_eq_none {l : List (List Byte)} : newest l = none ↔ l = [] := by
  cases l <;> simp [newest]
/-- The copy chosen is one of the list, and none of it has a higher version. -/
theorem newest_spec {l : List (List Byte)} {x : List Byte} (h : newest l = some x) :
    x ∈ l ∧ ∀ y ∈ l, Config.imageVersion y ≤ Config.imageVersion x := by
  have hfold (l : List (List Byte)) (b : List Byte) :
      let r := l.foldl (fun b x => if Config.imageVersion b < Config.imageVersion x then x else b) b
      (r = b ∨ r ∈ l) ∧ Config.imageVersion b ≤ Config.imageVersion r ∧ ∀ y ∈ l, Config.imageVersion y ≤ Config.imageVersion r := by
    induction l generalizing b with
    | nil => exact ⟨.inl rfl, Nat.le_refl _, by simp⟩
    | cons a l ih =>
      obtain ⟨hin, hle, hall⟩ := ih (if Config.imageVersion b < Config.imageVersion a then a else b)
      rw [List.foldl_cons]
      by_cases hlt : Config.imageVersion b < Config.imageVersion a
      · rw [if_pos hlt] at hin hle hall ⊢
        exact ⟨.inr (hin.elim (fun h => by rw [h]; exact List.mem_cons_self) (List.mem_cons_of_mem _)), by omega,
          List.forall_mem_cons.2 ⟨hle, hall⟩⟩
      · rw [if_neg hlt] at hin hle hall ⊢
        exact ⟨hin.imp id (List.mem_cons_of_mem _), hle, List.forall_mem_cons.2 ⟨by omega, hall⟩⟩
  cases l with
  | nil => cases h
  | cons d ds =>
    obtain ⟨hin, hle, hall⟩ := hfold ds d
    obtain rfl := Option.some.inj h
    exact ⟨hin.elim (fun h => by rw [h]; exact List.mem_cons_self) (List.mem_cons_of_mem _), List.forall_mem_cons.2 ⟨hle, hall⟩⟩

section
variable {s : State} {kind : Nat}

/-- The copies that verify are those that pass. -/
theorem State.mem_verified {d : List Byte} : d ∈ s.verified kind ↔ s.goodCopy kind d := by
  have hcopy (c : Nat) : (if (s.copyOf kind c).valid then some (s.copyOf kind c).data else none) = some d ↔ s.copyOf kind c = ⟨true, d⟩ := by
    cases s.copyOf kind c with
    | mk valid data => cases valid <;> simp
  have hmap : mapOk d = true ↔ ∀ k, k < 4 → Config.mapTokens d k ≤ 288 := by
    simp [mapOk]
  have hkind : (kind != 3 || mapOk d) = true ↔ (kind = 3 → ∀ k, k < 4 → Config.mapTokens d k ≤ 288) := by
    rw [Bool.or_eq_true, bne_iff_ne, hmap]
    tauto
  unfold State.verified State.goodCopy
  rw [List.mem_filter, List.mem_filterMap, Bool.and_eq_true, hkind]
  simp only [hcopy]
  constructor
  · rintro ⟨⟨c, hc, hd⟩, hv, hk⟩
    exact ⟨c, by simp at hc; omega, hd, hv, hk⟩
  · rintro ⟨c, hc, hd, hv, hk⟩
    have hmem : c ∈ [0, 1] := by
      simp only [List.mem_cons, List.not_mem_nil, or_false]
      omega
    exact ⟨⟨c, hmem, hd⟩, hv, hk⟩
theorem State.verified_eq_nil (h : ∀ d, ¬ s.goodCopy kind d) : s.verified kind = [] :=
  List.eq_nil_iff_forall_not_mem.2 fun d hd => h d (State.mem_verified.1 hd)

variable {least : Nat} (hleast : kind = 2 ∧ least = 0 ∨ kind ≠ 2 ∧ s.minimum kind = least)
include hleast

theorem State.mem_chosen {d : List Byte} : d ∈ (s.verified kind).filter (fun d => kind == 2 || s.minimum kind ≤ Config.imageVersion d)
    ↔ s.goodCopy kind d ∧ least ≤ Config.imageVersion d := by
  rw [List.mem_filter, State.mem_verified]
  obtain ⟨rfl, rfl⟩ | ⟨hk, rfl⟩ := hleast
  · simp
  · simp [hk]
/-- Boot's image stands where there is one. -/
theorem State.chosen_of_bootImage {d : List Byte} (h : s.bootImage kind least d) :
    ∃ x, s.chosen kind = some x ∧ s.goodCopy kind x ∧ Config.imageVersion x = Config.imageVersion d := by
  obtain ⟨hgood, hle, hmax⟩ := h
  have hd := (State.mem_chosen hleast).2 ⟨hgood, hle⟩
  cases hx : s.chosen kind with
  | none =>
    rw [newest_eq_none.1 hx] at hd
    cases hd
  | some x =>
    obtain ⟨hin, hall⟩ := newest_spec hx
    obtain ⟨hxgood, hxle⟩ := (State.mem_chosen hleast).1 hin
    exact ⟨x, rfl, hxgood, Nat.le_antisymm (hmax x hxgood hxle) (hall d hd)⟩
/-- No copy is chosen where every one that verifies is below its minimum. -/
theorem State.chosen_eq_none (h : ∀ x, s.goodCopy kind x → Config.imageVersion x < least) : s.chosen kind = none :=
  newest_eq_none.2 (List.eq_nil_iff_forall_not_mem.2 fun d hd => by
    obtain ⟨hgood, hle⟩ := (State.mem_chosen hleast).1 hd
    exact Nat.not_le.2 (h d hgood) hle)

end

/-! ### Stages -/

section
variable {s : State} (hrec : s.boot.recovery = false)
include hrec

theorem exec_bootStage_two (h : s.boot.reached = 1) : exec (.bootStage 2) s = .next (match s.chosen 2 with
    | none => s.recover 2 1
    | some d => (s.runStage 2 d).sched 1 (.bootStage 3)) := by
  show execBootStage 2 s = _
  unfold execBootStage
  exact congrArg Host.Outcome.next (if_neg (by simp [hrec, h]))
theorem exec_bootStage_three (h : s.boot.reached = 2) : exec (.bootStage 3) s = .next (match s.chosen 3 with
    | none => s.recover 3 (if (s.verified 3).isEmpty then 1 else 2)
    | some d =>
      if Config.imageVersion (s.image 2) < Config.imageMinimum d 2 then s.recover 2 2
      else ((s.runStage 3 d).applyMap d).sched 1 (.bootStage 4)) := by
  show execBootStage 3 s = _
  unfold execBootStage
  exact congrArg Host.Outcome.next (if_neg (by simp [hrec, h]))
theorem exec_bootStage_four (h : s.boot.reached = 3) : exec (.bootStage 4) s = .next (match s.chosen 4 with
    | none => s.recover 4 (if (s.verified 4).isEmpty then 1 else 2)
    | some d => s.runStage 4 d) := by
  show execBootStage 4 s = _
  unfold execBootStage
  exact congrArg Host.Outcome.next (if_neg (by simp [hrec, h]))
theorem exec_bootStage_five (h : s.boot.reached = 4) : exec (.bootStage 5) s = .next (if s.trained then s.startSteward else s) := by
  show execBootStage 5 s = _
  rw [execBootStage, if_neg (by simp [hrec, h])]

end

section
variable {s : State} {kind : Nat}

/-- Where no copy verifies the cause is 1, where all are below their minimum it is 2. -/
theorem State.cause_one {stage : Nat} (h : ∀ d, ¬ s.goodCopy kind d) : (if (s.verified kind).isEmpty then 1 else stage) = 1 := by
  rw [State.verified_eq_nil h]
  rfl
theorem State.cause_two {d : List Byte} {cause : Nat} (h : s.goodCopy kind d) : (if (s.verified kind).isEmpty then cause else 2) = 2 := by
  have hne : (s.verified kind).isEmpty = false := by
    rw [List.isEmpty_eq_false_iff]
    exact List.ne_nil_of_mem (State.mem_verified.2 h)
  rw [hne]
  rfl

end

/-- The map's values stand: the bad cores, what is enabled, the tokens (R28). -/
theorem State.applyMap_outcome (s : State) (d : List Byte) :
    (s.applyMap d).spanEn = Config.mapSpans d ∧ (s.applyMap d).portEn = Config.mapPorts d
      ∧ (∀ c, c ∈ (s.applyMap d).harvest ↔ c ∈ Config.mapHarvest d ∧ c < 2304)
      ∧ (∀ k, k < 4 → ((s.applyMap d).die k).tokens = Config.mapTokens d k) := by
  have hcores : Config.cores = 2304 := rfl
  refine ⟨rfl, rfl, fun c => ?_, fun k hk => ?_⟩
  · show c ∈ (Config.mapHarvest d).filter _ ↔ _
    simp [hcores]
  · have hcases : k = 0 ∨ k = 1 ∨ k = 2 ∨ k = 3 := by omega
    obtain rfl | rfl | rfl | rfl := hcases <;> rfl

/-! ### The steward starts -/

/-- Steward core `k` starts at its entry, with its root. -/
def State.startsCore (s : State) (img : List Byte) (k : Nat) : State :=
  (s.setCtx (Config.cores + k) 0 (Ctx.start (Config.stewardEntry img k) s.now)).modSteward k (fun x => { x with
    stroot := BitVec.ofNat 64 (fld (Config.stewardRoot img k).toNat 51 16 * 65536) })
theorem State.startsCore_ctx (s : State) (img : List Byte) (k j : Nat) :
    (s.startsCore img k).ctx (2304 + j) 0 = if j = k then Ctx.start (Config.stewardEntry img k) s.now else s.ctx (2304 + j) 0 := by
  have hkey : (16 * (2304 + j) + 0 = 16 * (2304 + k) + 0) = (j = k) := by
    rw [eq_iff_iff]
    omega
  have hget := Table.get_set Ctx.idle s.ctxs (16 * (2304 + j) + 0) (16 * (2304 + k) + 0) (Ctx.start (Config.stewardEntry img k) s.now)
  simp only [hkey] at hget
  exact hget
theorem State.startsCores_outcome (s : State) (img : List Byte) (ks : List Nat) :
    let t := ks.foldl (fun s k => s.startsCore img k) s
    t = { s with ctxs := t.ctxs, stewards := t.stewards } ∧ ∀ k ∈ ks, (t.ctx (2304 + k) 0).st = .running := by
  have hstays (ks : List Nat) (s : State) (j : Nat) (h : (s.ctx (2304 + j) 0).st = .running) :
      ((ks.foldl (fun s k => s.startsCore img k) s).ctx (2304 + j) 0).st = .running := by
    induction ks generalizing s with
    | nil => exact h
    | cons k ks ih =>
      refine ih _ ?_
      rw [State.startsCore_ctx]
      split
      · rfl
      · exact h
  induction ks generalizing s with
  | nil => exact ⟨rfl, by simp⟩
  | cons k ks ih =>
    obtain ⟨hframe, hall⟩ := ih (s.startsCore img k)
    refine ⟨?_, List.forall_mem_cons.2 ⟨hstays ks _ k ?_, hall⟩⟩
    · rw [List.foldl_cons]
      conv_lhs => rw [hframe]
      rfl
    · rw [State.startsCore_ctx, if_pos rfl]
      rfl

theorem State.startSteward_outcome (s : State) : s.startSteward.boot = { s.boot with reached := 5, ready := true }
    ∧ (∀ k, k < 16 → (s.startSteward.ctx (2304 + k) 0).st = .running) ∧ s.startSteward.mem = s.mem ∧ s.startSteward.teams = s.teams
    ∧ s.startSteward.slots = s.slots := by
  obtain ⟨hframe, hrun⟩ := s.startsCores_outcome (s.image 4) (List.range 16)
  have hstart : s.startSteward = { (List.range 16).foldl (fun t k => t.startsCore (s.image 4) k) s with
      boot := { ((List.range 16).foldl (fun t k => t.startsCore (s.image 4) k) s).boot with reached := 5, ready := true } } := rfl
  rw [hstart]
  generalize (List.range 16).foldl (fun t k => t.startsCore (s.image 4) k) s = t at *
  rw [hframe]
  exact ⟨rfl, fun k hk => hrun k (List.mem_range.2 hk), rfl, rfl, rfl⟩

/-- Settles O37, stage by stage. -/
theorem bootRunsTheNewestCopy : Obligations.BootRunsTheNewestCopy := by
  intro s d2 d3 hrec
  refine ⟨fun h => ⟨fun d hd => ?_, fun hnone => ?_⟩, fun h h2 => ?_, fun h h3 => ?_, fun h hhbm hsram hbridge => ?_⟩
  · obtain ⟨x, hx, hgood, hversion⟩ := State.chosen_of_bootImage (.inl ⟨rfl, rfl⟩) hd
    refine ⟨_, x, exec_bootStage_two hrec h, hgood, hversion, ?_⟩
    rw [hx]
    exact ⟨Table.find_set_self _ _ _, Table.get_set_self _ _ _ _, rfl, State.mem_sched ..⟩
  · have hx : s.chosen 2 = none := State.chosen_eq_none (.inl ⟨rfl, rfl⟩) fun x hx => absurd hx (hnone x)
    refine ⟨_, exec_bootStage_two hrec h, ?_⟩
    rw [hx]
    rfl
  · have himage : s.image 2 = d2 := by rw [State.image, Table.get, h2]; rfl
    have hleast : s.minimum 3 = Config.imageMinimum d2 3 := by
      rw [State.minimum, if_pos rfl, h2, himage]
      rfl
    refine ⟨fun d hd => ?_, fun hnone => ?_, fun d hd hlow => ?_⟩
    · obtain ⟨x, hx, hgood, hversion⟩ := State.chosen_of_bootImage (.inr ⟨by decide, hleast⟩) hd
      refine ⟨x, hgood, hversion, fun hmin => ⟨_, exec_bootStage_three hrec h, ?_⟩, fun hmin => ⟨_, exec_bootStage_three hrec h, ?_⟩⟩
      · rw [hx, himage]
        dsimp only
        rw [if_neg (Nat.not_lt.2 hmin)]
        obtain ⟨hspan, hport, hharvest, htokens⟩ := (s.runStage 3 x).applyMap_outcome x
        exact ⟨Table.find_set_self _ _ _, Table.get_set_self _ _ _ _, rfl, hspan, hport, hharvest, htokens⟩
      · rw [hx, himage]
        dsimp only
        rw [if_pos hmin]
        rfl
    · have hx : s.chosen 3 = none := State.chosen_eq_none (.inr ⟨by decide, hleast⟩) fun x hx => absurd hx (hnone x)
      refine ⟨_, exec_bootStage_three hrec h, ?_⟩
      rw [hx, State.cause_one hnone]
      rfl
    · have hx : s.chosen 3 = none := State.chosen_eq_none (.inr ⟨by decide, hleast⟩) hlow
      refine ⟨_, exec_bootStage_three hrec h, ?_⟩
      rw [hx, State.cause_two hd]
      rfl
  · have hleast : s.minimum 4 = Config.imageMinimum d3 4 := by
      rw [State.minimum, if_neg (by decide), h3, State.image, Table.get, h3]
      rfl
    refine ⟨fun d hd => ?_, fun hnone => ?_, fun d hd hlow => ?_⟩
    · obtain ⟨x, hx, hgood, hversion⟩ := State.chosen_of_bootImage (.inr ⟨by decide, hleast⟩) hd
      refine ⟨_, x, exec_bootStage_four hrec h, hgood, hversion, ?_⟩
      rw [hx]
      exact ⟨Table.find_set_self _ _ _, Table.get_set_self _ _ _ _, rfl⟩
    · have hx : s.chosen 4 = none := State.chosen_eq_none (.inr ⟨by decide, hleast⟩) fun x hx => absurd hx (hnone x)
      refine ⟨_, exec_bootStage_four hrec h, ?_⟩
      rw [hx, State.cause_one hnone]
      rfl
    · have hx : s.chosen 4 = none := State.chosen_eq_none (.inr ⟨by decide, hleast⟩) hlow
      refine ⟨_, exec_bootStage_four hrec h, ?_⟩
      rw [hx, State.cause_two hd]
      rfl
  · have htrained : s.trained = true := by
      rw [State.trained, hhbm, hsram, hbridge]
      rfl
    have hexec := exec_bootStage_five hrec h
    rw [if_pos htrained] at hexec
    exact ⟨_, hexec, s.startSteward_outcome⟩

end Sys2Proof.Machine
end

section
/-! PROOFS. Reset, power loss and training (O38). -/

namespace Sys2Proof.Machine

/-! ### Bring-up goes on -/

section
variable (s : State)

/-- Going on schedules the last stage, and no more. -/
theorem State.bringUpGoesOn_frame : s.bringUpGoesOn = { s with agenda := s.bringUpGoesOn.agenda } := by
  unfold State.bringUpGoesOn State.schedOnce
  split
  · split <;> rfl
  · rfl

variable {s} (hstage : s.boot.reached = 4) (hrec : s.boot.recovery = false) (hready : s.boot.ready = false)
include hstage hrec hready

theorem State.bringUp_runs : s.bringUp = true := by
  rw [State.bringUp, hstage, hrec, hready]
  rfl

/-- A stack's attempt counted. -/
def State.tries (s : State) (k : Nat) : State :=
  { s with training := { s.training with hbmTries := s.training.hbmTries.set k (Table.get 0 s.training.hbmTries k + 1) } }
theorem exec_hbmTrainingAttempt {k : Fin 12} (h : s.training.hbmOk.getLsbD k = false) (ok : Bool) :
    exec (.hbmTrainingAttempt k ok) s = .next (
      if ok then ({ s.tries k.val with training := { (s.tries k.val).training with
        hbmOk := (s.tries k.val).training.hbmOk ||| BitVec.ofNat 12 (2 ^ k.val) } }).bringUpGoesOn
      else if 3 ≤ Table.get 0 s.training.hbmTries k.val + 1 then (s.tries k.val).recover 5 3 else s.tries k.val) := by
  have hbit : bit s.training.hbmOk.toNat k.val = false := by
    rw [bit_toNat]
    exact h
  show execHbmTrainingAttempt k ok s = _
  rw [execHbmTrainingAttempt]
  dsimp only
  rw [if_neg (by rw [State.bringUp_runs hstage hrec hready, hbit]; simp)]
  rfl
theorem exec_sramSelfTest (ok : Bool) : exec (.sramSelfTest ok) s = .next (
    if ok then ({ s with training := { s.training with sram := some ok } }).bringUpGoesOn
    else ({ s with training := { s.training with sram := some ok } }).recover 5 4) := by
  show execSramSelfTest ok s = _
  rw [execSramSelfTest, if_neg (by rw [State.bringUp_runs hstage hrec hready]; simp)]
theorem exec_dieBridgeTraining (ok : Bool) : exec (.dieBridgeTraining ok) s = .next (
    if ok then ({ s with training := { s.training with bridge := some ok } }).bringUpGoesOn
    else ({ s with training := { s.training with bridge := some ok } }).recover 5 5) := by
  show execDieBridgeTraining ok s = _
  rw [execDieBridgeTraining, if_neg (by rw [State.bringUp_runs hstage hrec hready]; simp)]

end

/-- The bits of the stacks that have trained, one more among them. -/
theorem getLsbD_or_pow (v : BitVec 12) (k j : Nat) (hj : j < 12) : (v ||| BitVec.ofNat 12 (2 ^ k)).getLsbD j = (v.getLsbD j || j == k) := by
  rw [BitVec.getLsbD_or, BitVec.getLsbD_ofNat, decide_eq_true hj, Bool.true_and, Nat.testBit_two_pow]
  congr 1
  rw [Bool.eq_iff_iff, decide_eq_true_eq, beq_iff_eq, eq_comm]

/-! ### Links and ports -/

theorem spanOutcome_eq (lanes : Nat) (peer : BitVec 8) : spanOutcome lanes peer.toNat =
    if 4 ≤ lanes ∧ (peer.getLsbD 2 = true ∨ peer.getLsbD 3 = true) then (if 8 ≤ lanes then 8 else 4, if peer.getLsbD 3 then 3 else 2) else (0, 0) := by
  unfold spanOutcome
  rw [bit_toNat, bit_toNat]
  by_cases h4 : 4 ≤ lanes
  · by_cases h8 : 8 ≤ lanes <;> cases peer.getLsbD 2 <;> cases peer.getLsbD 3 <;> simp [h4, h8]
  · simp [h4, show ¬ 8 ≤ lanes by omega]
theorem portOutcome_eq (port width rate : Nat) : portOutcome port width rate =
    if 1 ≤ rate ∧ rate ≤ 6 ∧ (width = 16 ∨ width = 8 ∨ (port ≠ 0 ∧ (width = 4 ∨ width = 2 ∨ width = 1))) then (width, rate) else (0, 0) := by
  unfold portOutcome
  refine if_congr ?_ rfl rfl
  by_cases hp : port = 0
  · simp [hp]
    tauto
  · simp [hp]
    tauto

section
variable {s : State} (hstage : 4 ≤ s.boot.reached) (hrec : s.boot.recovery = false)
include hstage hrec

theorem exec_spanLinkTraining (k : Fin 24) (lanes : Nat) (peer : BitVec 8) : exec (.spanLinkTraining k lanes peer) s
    = .next { s with training := { s.training with
        span := s.training.span.set k.val (if s.spanEn.getLsbD k.val then spanOutcome lanes peer.toNat else (0, 0)) } } := by
  show execSpanLinkTraining k lanes peer s = _
  rw [execSpanLinkTraining, if_neg (by rw [hrec]; simpa using hstage), bit_toNat]
theorem exec_portTraining (k : Fin 9) (width rate : Nat) : exec (.portTraining k width rate) s
    = .next { s with training := { s.training with
        port := s.training.port.set k.val
          (if k.val = 0 ∨ s.portEn.getLsbD (k.val - 1) = true then portOutcome k.val width rate else (0, 0)) } } := by
  show execPortTraining k width rate s = _
  rw [execPortTraining, if_neg (by rw [hrec]; simpa using fun _ => hstage), bit_toNat]

end

/-- Settles O38: each event of bring-up, of a link and of a port changes its outcome alone. -/
theorem resetPowerAndTraining : Obligations.ResetPowerAndTraining := by
  refine ⟨fun s => ⟨rfl, rfl⟩, fun s hstage hrec hready => ⟨fun k hk => ⟨?_, ?_⟩, fun ok => ?_, fun ok => ?_⟩, fun s hstage hrec =>
    ⟨fun k lanes peer => ?_, fun k width rate => ?_⟩⟩
  · refine ⟨_, exec_hbmTrainingAttempt hstage hrec hready hk true, ?_⟩
    rw [if_pos rfl, State.bringUpGoesOn_frame]
    exact ⟨rfl, getLsbD_or_pow _ _⟩
  · refine ⟨_, exec_hbmTrainingAttempt hstage hrec hready hk false, ?_⟩
    rw [if_neg (by decide)]
    by_cases h : 2 ≤ Table.get 0 s.training.hbmTries k.val
    · rw [if_pos (show 3 ≤ _ + 1 by omega), if_pos h]
      exact ⟨rfl, rfl, Table.get_set_self _ _ _ _, rfl⟩
    · rw [if_neg (show ¬ 3 ≤ _ + 1 by omega), if_neg h]
      exact ⟨rfl, rfl, Table.get_set_self _ _ _ _, rfl⟩
  · refine ⟨_, exec_sramSelfTest hstage hrec hready ok, ?_⟩
    cases ok
    · exact ⟨rfl, rfl, rfl⟩
    · rw [if_pos rfl, State.bringUpGoesOn_frame]
      exact ⟨rfl, rfl, rfl⟩
  · refine ⟨_, exec_dieBridgeTraining hstage hrec hready ok, ?_⟩
    cases ok
    · exact ⟨rfl, rfl, rfl⟩
    · rw [if_pos rfl, State.bringUpGoesOn_frame]
      exact ⟨rfl, rfl, rfl⟩
  · refine ⟨_, exec_spanLinkTraining hstage hrec k lanes peer, rfl, fun j hj => Table.get_set_other _ _ hj _, ?_⟩
    refine (Table.get_set_self _ _ _ _).trans ?_
    rw [spanOutcome_eq, ← ite_and]
  · refine ⟨_, exec_portTraining hstage hrec k width rate, rfl, fun j hj => Table.get_set_other _ _ hj _, ?_⟩
    refine (Table.get_set_self _ _ _ _).trans ?_
    rw [portOutcome_eq, ← ite_and]

end Sys2Proof.Machine
end

section
/-! PROOFS. The host mailbox: its commands, UPLOAD and FLASHWR (O39, O40). -/

namespace Sys2Proof.Machine

/-! ### Commands begin and end -/

theorem State.spend_frame (s : State) (n : Nat) : s.spend n = { s with fresh := (s.spend n).fresh } := by
  unfold State.spend
  split <;> rfl

section
variable (s : State) (tag : BitVec 16) (f : State → State × MailRun)

/-- The mailbox is busy. -/
def State.mailBusy (s : State) : State := { s with mailbox := { s.mailbox with busy := true } }
/-- What begins acts, with what it posts standing by until a later cycle. -/
theorem State.begins_outcome :
    (s.begins tag f).mailbox = { (f s.mailBusy).1.mailbox with running := some { (f s.mailBusy).2 with tag := tag } }
      ∧ (∃ due, (f s.mailBusy).1.now < due ∧ (due, .mailboxCommandComplete) ∈ (s.begins tag f).agenda)
      ∧ s.begins tag f = { (f s.mailBusy).1 with
        mailbox := (s.begins tag f).mailbox, agenda := (s.begins tag f).agenda, fresh := (s.begins tag f).fresh } := by
  have hbegins : s.begins tag f = ({ (f s.mailBusy).1.spend 4096 with
      mailbox := { (f s.mailBusy).1.mailbox with running := some { (f s.mailBusy).2 with tag := tag } } } : State).sched
        (1 + (f s.mailBusy).1.pick 4096) .mailboxCommandComplete := rfl
  rw [hbegins, State.spend_frame]
  exact ⟨rfl, ⟨_, Nat.lt_add_of_pos_right (by omega), State.mem_sched ..⟩, rfl⟩

theorem State.command_busy (h : s.mailbox.busy = true) : s.command tag f = { s with mailbox := { s.mailbox with ovr := true } } := by
  rw [State.command, if_pos h]

variable (hfree : s.mailbox.busy = false)
include hfree

/-- The mailbox takes the command. -/
def State.mailTaken (s : State) : State := { s with mailbox := { s.mailbox with busy := true, ovr := false } }
theorem State.command_outcome {u : State} {r : MailRun} (hf : f s.mailTaken = (u, r)) :
    (s.command tag f).mailbox = { u.mailbox with running := some { r with tag := tag } }
      ∧ (∃ due, u.now < due ∧ (due, .mailboxCommandComplete) ∈ (s.command tag f).agenda)
      ∧ s.command tag f = { u with
        mailbox := (s.command tag f).mailbox, agenda := (s.command tag f).agenda, fresh := (s.command tag f).fresh } := by
  have hcommand : s.command tag f = ({ s with mailbox := { s.mailbox with ovr := false } } : State).begins tag f := by
    rw [State.command, hfree]
    rfl
  have houtcome := ({ s with mailbox := { s.mailbox with ovr := false } } : State).begins_outcome tag f
  have htaken : ({ s with mailbox := { s.mailbox with ovr := false } } : State).mailBusy = s.mailTaken := rfl
  rw [htaken, hf, ← hcommand] at houtcome
  exact houtcome
/-- A command that leaves the mailbox and the time is accepted with what it posts. -/
theorem State.command_accepted {u : State} {r : MailRun} (hf : f s.mailTaken = (u, r)) (hmail : u.mailbox = s.mailTaken.mailbox) (hnow : u.now = s.now) :
    s.acceptedRun (s.command tag f) { r with tag := tag } := by
  obtain ⟨hbox, hdue, -⟩ := s.command_outcome tag f hfree hf
  rw [hmail] at hbox
  rw [hnow] at hdue
  exact ⟨hbox, hdue⟩
/-- A command that does nothing is accepted, and nothing else changes. -/
theorem State.command_only {r : MailRun} (hf : f s.mailTaken = (s.mailTaken, r)) :
    s.acceptedRun (s.command tag f) { r with tag := tag }
      ∧ s.command tag f = { s with
        mailbox := (s.command tag f).mailbox, agenda := (s.command tag f).agenda, fresh := (s.command tag f).fresh } :=
  ⟨s.command_accepted tag f hfree hf rfl rfl, (s.command_outcome tag f hfree hf).2.2⟩

/-- A command that ends with a result alone. -/
theorem State.command_ends {result : Nat} (hf : f s.mailTaken = (s.mailTaken, mailEnd result)) : s.acceptedOnly (s.command tag f) tag result [] [] :=
  s.command_only tag f hfree hf

end

/-! ### A command's end -/

theorem attestRun_eq (s : State) (tag : BitVec 16) (nonce : List Byte) :
    (attestRun nonce s).1 = s ∧ { (attestRun nonce s).2 with tag := tag } = s.reportRun tag nonce := by
  unfold attestRun State.reportRun
  split <;> exact ⟨rfl, rfl⟩
/-- Bytes written one after another from a place of a table on. -/
theorem get_foldl_set {α : Type} (d : α) (l : List α) (base : Nat) (t : Table α) (k : Nat) :
    Table.get d (((List.range l.length).zip l).foldl (fun t e => t.set (base + e.1) e.2) t) k
      = if base ≤ k ∧ k < base + l.length then l.getD (k - base) d else Table.get d t k := by
  induction l using List.reverseRecOn with
  | nil => simp
  | append_singleton l a ih =>
    rw [List.length_append, List.length_singleton, List.range_succ, List.zip_append (by simp), List.foldl_append]
    simp only [List.zip_cons_cons, List.zip_nil_right, List.foldl_cons, List.foldl_nil]
    rw [Table.get_set, ih]
    by_cases hk : k = base + l.length
    · subst hk
      rw [if_pos rfl, if_pos (by omega)]
      simp
    · rw [if_neg hk]
      by_cases hin : base ≤ k ∧ k < base + l.length
      · rw [if_pos hin, if_pos (by omega), List.getD_append _ _ _ _ (by omega)]
      · rw [if_neg hin, if_neg (by omega)]

/-- The mailbox with the results of what ran. -/
def Mailbox.posted (m : Mailbox) (r : MailRun) : Mailbox :=
  { m with
    busy := false, running := none, tag := r.tag, result := r.result, msix := m.msix + 1
    res := ⟨(List.range 4).map (fun k => (k, r.res.getD k 0))⟩
    data := ((List.range r.data.length).zip r.data).foldl (fun t e => t.set e.1 e.2) m.data
    waiting := m.waiting.tail, resetAfter := false }
theorem Mailbox.posted_res (m : Mailbox) (r : MailRun) {k : Nat} (hk : k < 4) : Table.get 0 (m.posted r).res k = r.res.getD k 0 := by
  have hcases : k = 0 ∨ k = 1 ∨ k = 2 ∨ k = 3 := by omega
  obtain rfl | rfl | rfl | rfl := hcases <;> rfl
theorem Mailbox.posted_data (m : Mailbox) (r : MailRun) (k : Nat) : Table.get 0 (m.posted r).data k = r.data.getD k (Table.get 0 m.data k) := by
  have hget := get_foldl_set (0 : Byte) r.data 0 m.data k
  simp only [Nat.zero_add, Nat.zero_le, true_and, Nat.sub_zero] at hget
  refine hget.trans ?_
  by_cases hk : k < r.data.length
  · rw [if_pos hk, List.getD_eq_getElem _ _ hk, List.getD_eq_getElem _ _ hk]
  · rw [if_neg hk, List.getD_eq_default _ _ (Nat.not_lt.1 hk)]
theorem exec_mailboxCommandComplete {s : State} {r : MailRun} (h : s.mailbox.running = some r) : exec .mailboxCommandComplete s
    = .next (if s.mailbox.resetAfter then ({ s with mailbox := s.mailbox.posted r } : State).sched 0 .deviceReset
      else match s.mailbox.waiting with
        | w :: _ => ({ s with mailbox := s.mailbox.posted r } : State).begins w.1 (attestRun w.2)
        | [] => { s with mailbox := s.mailbox.posted r }) := by
  show execMailboxCommandComplete s = _
  rw [execMailboxCommandComplete, h]
  unfold Mailbox.posted
  dsimp only
  cases s.mailbox.waiting <;> rfl

/-! ### The commands of a CMD write -/

theorem exec_cmd (s : State) (v : Word) : exec (.registerWrite .cmd v) s = s.cmdWrite (v.toNat % 256) (v.extractLsb' 16 16) := by
  have htag : BitVec.ofNat 16 (fld v.toNat 31 16) = v.extractLsb' 16 16 := by
    refine BitVec.eq_of_toNat_eq ?_
    simp [fld, Nat.shiftRight_eq_div_pow]
  have hop : fld v.toNat 7 0 = v.toNat % 256 := by simp [fld]
  show execRegisterWrite .cmd v s = _
  rw [execRegisterWrite, if_pos rfl, htag, hop]
/-- A code that names no command ends with result 1. -/
theorem State.cmdWrite_unknown {s : State} {op : Nat} (h : op = 0 ∨ 5 < op) (tag : BitVec 16) :
    s.cmdWrite op tag = .next (s.command tag (fun s => (s, mailEnd 1))) := by
  unfold State.cmdWrite
  split
  · omega
  · omega
  · omega
  · omega
  · omega
  · rfl

section
variable {s : State} (tag : BitVec 16)

theorem exec_attest_waits {r : MailRun} (hr : s.mailbox.running = some r) (hreport : r.report = true) : exec (.attest tag) s
    = .next { s with mailbox := { s.mailbox with waiting := s.mailbox.waiting ++ [(tag, (List.range 32).map (Table.get 0 s.mailbox.data))] } } := by
  show execAttest tag s = _
  rw [execAttest, hr, Option.elim_some, if_pos hreport]
  rfl
theorem exec_attest (h : s.mailbox.running.elim false (·.report) = false) : exec (.attest tag) s
    = .next (s.command tag (attestRun ((List.range 32).map (Table.get 0 s.mailbox.data)))) := by
  show execAttest tag s = _
  rw [execAttest, if_neg (by rw [h]; decide)]
  rfl

variable (hfree : s.mailbox.busy = false)
include hfree

/-- RELEASE of a slot (R35). -/
def releaseRun (s : State) : State × MailRun :=
  if !s.served then (s, mailEnd 6)
  else if 1024 ≤ s.arg 0 then (s, mailEnd 2)
  else if !(s.slot (s.arg 0)).kicks.isEmpty ∨ (s.slot (s.arg 0)).replay.isSome then (s, mailEnd 5)
  else (s.modSlot (s.arg 0) (fun x => { x with graph := none }), mailEnd 0)
theorem State.release_outcome : ∃ t, exec (.release tag) s = .next t ∧
    (if s.boot.ready = true ∧ s.stewardStopped = false then
      (if 1024 ≤ s.arg 0 then s.acceptedOnly t tag 2 [] []
       else if (s.slot (s.arg 0)).kicks ≠ [] ∨ (s.slot (s.arg 0)).replay ≠ none then s.acceptedOnly t tag 5 [] []
       else s.accepted t tag 0 [] [] ∧ t.slot (s.arg 0) = { s.slot (s.arg 0) with graph := none } ∧ ∀ k, k ≠ s.arg 0 → t.slot k = s.slot k)
     else s.acceptedOnly t tag 6 [] []) := by
  refine ⟨s.command tag releaseRun, rfl, ?_⟩
  have hserved : s.mailTaken.served = (s.boot.ready && !s.stewardStopped) := rfl
  have harg : s.mailTaken.arg 0 = s.arg 0 := rfl
  have hslot : s.mailTaken.slot (s.arg 0) = s.slot (s.arg 0) := rfl
  by_cases hserves : s.boot.ready = true ∧ s.stewardStopped = false
  · have hyes : s.mailTaken.served = true := by rw [hserved, hserves.1, hserves.2]; rfl
    rw [if_pos hserves]
    by_cases hbig : 1024 ≤ s.arg 0
    · rw [if_pos hbig]
      exact s.command_ends tag releaseRun hfree (by rw [releaseRun, hyes, harg, if_neg (by decide), if_pos hbig])
    · rw [if_neg hbig]
      by_cases huse : (s.slot (s.arg 0)).kicks ≠ [] ∨ (s.slot (s.arg 0)).replay ≠ none
      · rw [if_pos huse]
        refine s.command_ends tag releaseRun hfree ?_
        rw [releaseRun, hyes, harg, hslot, if_neg (by decide), if_neg hbig, if_pos (by simpa [Option.isSome_iff_ne_none] using huse)]
      · rw [if_neg huse]
        have hrun : releaseRun s.mailTaken = (s.mailTaken.modSlot (s.arg 0) (fun x => { x with graph := none }), mailEnd 0) := by
          rw [releaseRun, hyes, harg, hslot, if_neg (by decide), if_neg hbig, if_neg (by simpa [Option.isSome_iff_ne_none] using huse)]
        obtain ⟨-, -, hframe⟩ := s.command_outcome tag releaseRun hfree hrun
        refine ⟨s.command_accepted tag releaseRun hfree hrun rfl rfl, ?_, fun k hk => ?_⟩
        · rw [hframe]
          exact Table.get_set_self _ _ _ _
        · rw [hframe]
          exact Table.get_set_other _ _ hk _
  · have hno : s.mailTaken.served = false := by
      rw [hserved]
      cases hr : s.boot.ready
      · rfl
      · cases hst : s.stewardStopped
        · exact absurd ⟨hr, hst⟩ hserves
        · rfl
    rw [if_neg hserves]
    exact s.command_ends tag releaseRun hfree (by rw [releaseRun, hno, if_pos (by decide)])

/-- RESET (R35). -/
def resetRun (s : State) : State × MailRun :=
  if s.arg 0 % 2 = 1 then ({ s with mailbox := { s.mailbox with resetAfter := true } }, mailEnd 0) else (s, mailEnd 2)
theorem State.reset_outcome : ∃ t, exec (.reset tag) s = .next t ∧ t.mailbox.resetAfter = (s.mailbox.resetAfter || s.arg 0 % 2 == 1)
    ∧ (∃ r, t.mailbox.running = some r ∧ r.tag = tag ∧ r.result = (if s.arg 0 % 2 = 1 then 0 else 2))
    ∧ t.mailbox.busy = true ∧ t = { s with mailbox := t.mailbox, agenda := t.agenda, fresh := t.fresh } := by
  refine ⟨s.command tag resetRun, rfl, ?_⟩
  have harg : s.mailTaken.arg 0 = s.arg 0 := rfl
  by_cases hodd : s.arg 0 % 2 = 1
  · obtain ⟨hbox, -, hframe⟩ := s.command_outcome tag resetRun hfree (if_pos (by rw [harg]; exact hodd))
    rw [hbox]
    refine ⟨?_, ⟨_, rfl, rfl, (if_pos hodd).symm⟩, rfl, hframe.trans (by rw [hbox]; rfl)⟩
    simp [hodd]
  · obtain ⟨hbox, -, hframe⟩ := s.command_outcome tag resetRun hfree (if_neg (by rw [harg]; exact hodd))
    have hbeq : (s.arg 0 % 2 == 1) = false := by simpa using hodd
    rw [hbox, hbeq, Bool.or_false]
    exact ⟨rfl, ⟨_, rfl, rfl, (if_neg hodd).symm⟩, rfl, hframe.trans (by rw [hbox]; rfl)⟩

end

/-- What a command's end leaves. -/
theorem State.complete_outcome {s : State} {r : MailRun} (hr : s.mailbox.running = some r) : ∃ t, exec .mailboxCommandComplete s = .next t
    ∧ t.mailbox.tag = r.tag ∧ t.mailbox.result = r.result
    ∧ t.mailbox.msix = s.mailbox.msix + 1 ∧ (∀ k, k < 4 → Table.get 0 t.mailbox.res k = r.res.getD k 0)
    ∧ (∀ k, Table.get 0 t.mailbox.data k = r.data.getD k (Table.get 0 s.mailbox.data k))
    ∧ (s.mailbox.resetAfter = true → (s.now, Instr.deviceReset) ∈ t.agenda)
    ∧ t.mailbox.waiting = s.mailbox.waiting.tail
    ∧ (if s.mailbox.resetAfter = true ∨ s.mailbox.waiting = [] then t.mailbox.busy = false ∧ t.mailbox.running = none
       else t.mailbox.busy = true ∧ (∀ w, s.mailbox.waiting.head? = some w → t.mailbox.running = some (s.reportRun w.1 w.2))
         ∧ ∃ due, s.now < due ∧ (due, Instr.mailboxCommandComplete) ∈ t.agenda)
    ∧ t = { s with mailbox := t.mailbox, agenda := t.agenda, fresh := t.fresh } := by
  refine ⟨_, exec_mailboxCommandComplete hr, ?_⟩
  have hres := fun (k : Nat) (hk : k < 4) => s.mailbox.posted_res r hk
  have hdata := s.mailbox.posted_data r
  cases hreset : s.mailbox.resetAfter
  · rw [if_neg (by decide)]
    cases hw : s.mailbox.waiting with
    | nil =>
      dsimp only
      rw [if_pos (.inr rfl)]
      exact ⟨rfl, rfl, rfl, hres, hdata, fun h => Bool.noConfusion h, congrArg List.tail hw, ⟨rfl, rfl⟩, rfl⟩
    | cons w ws =>
      obtain ⟨hbox, ⟨due, hlt, hmem⟩, hframe⟩ := ({ s with mailbox := s.mailbox.posted r } : State).begins_outcome w.1 (attestRun w.2)
      obtain ⟨hsame, hrun⟩ := attestRun_eq ({ s with mailbox := s.mailbox.posted r } : State).mailBusy w.1 w.2
      rw [hsame] at hbox hlt hframe
      rw [hrun] at hbox
      dsimp only
      rw [if_neg (by simp), hbox]
      refine ⟨rfl, rfl, rfl, hres, hdata, fun h => Bool.noConfusion h, congrArg List.tail hw, ⟨rfl, fun v hv => ?_, due, hlt, hmem⟩, hframe.trans (by rw [hbox]; rfl)⟩
      obtain rfl := Option.some.inj hv
      rfl
  · rw [if_pos rfl, if_pos (.inl rfl)]
    exact ⟨rfl, rfl, rfl, hres, hdata, fun _ => State.mem_sched _ 0 _, rfl, ⟨rfl, rfl⟩, rfl⟩

/-- Settles O39: a command acts on what the mailbox took, and its end posts what it left. -/
theorem mailboxCommands : Obligations.MailboxCommands := by
  intro s tag slot nonce
  refine ⟨fun hbusy => ⟨?_, fun a b => ?_, fun r hr => ?_⟩, fun v => ?_, fun r hr => State.complete_outcome hr, fun hfree =>
    ⟨State.release_outcome tag hfree, fun hnone => ?_, State.reset_outcome tag hfree⟩⟩
  · intro i hi
    simp only [List.mem_cons, List.not_mem_nil, or_false] at hi
    obtain rfl | rfl | rfl := hi
    · exact congrArg Host.Outcome.next (State.command_busy s tag _ hbusy)
    · exact congrArg Host.Outcome.next (State.command_busy s tag _ hbusy)
    · exact congrArg Host.Outcome.next (State.command_busy s tag _ hbusy)
  · show execUpload tag a b s = _
    rw [execUpload]
    dsimp only
    rw [if_neg (by rw [hbusy]; simp), State.command_busy _ _ _ hbusy]
  · cases hreport : r.report
    · rw [exec_attest tag (by rw [hr]; exact hreport), State.command_busy _ _ _ hbusy]
      rfl
    · exact exec_attest_waits tag hr hreport
  · have hcmd := exec_cmd s v
    refine ⟨fun h => ?_, fun h => ?_, fun h => ?_, fun h => ?_, fun h => ?_, fun h => ?_⟩
    · exact hcmd.trans (by rw [h]; rfl)
    · exact hcmd.trans (by rw [h]; rfl)
    · exact hcmd.trans (by rw [h]; rfl)
    · exact hcmd.trans (by rw [h]; rfl)
    · exact hcmd.trans (by rw [h]; rfl)
    · refine ⟨_, hcmd.trans (State.cmdWrite_unknown h _), ?_⟩
      cases hbusy : s.mailbox.busy
      · exact s.command_ends _ (fun s => (s, mailEnd 1)) hbusy rfl
      · exact State.command_busy s _ _ hbusy
  · obtain ⟨hsame, hrun⟩ := attestRun_eq s.mailTaken tag nonce
    have hpair : attestRun nonce s.mailTaken = (s.mailTaken, (attestRun nonce s.mailTaken).2) := Prod.ext hsame rfl
    obtain ⟨haccepted, hframe⟩ := s.command_only tag _ hfree hpair
    rw [hrun] at haccepted
    exact ⟨_, exec_attest tag (by rw [hnone]; rfl), haccepted, hframe⟩

/-! ### UPLOAD -/

/-- What the home buffer changes: its lines, and what it writes back. -/
def State.homeless (s : State) : State := { s.unsent with dies := .empty }
theorem State.homeless_of_unsent {s t : State} (h : t.unsent = s.unsent) : t.homeless = s.homeless :=
  (congrArg (fun u : State => ({ u with dies := .empty } : State)) h :)
theorem State.touchLine_homeless (s : State) (pa : Nat) (dirty : Bool) : (s.touchLine pa dirty).1.homeless = s.homeless := by
  unfold State.touchLine
  dsimp only
  split
  · rfl
  · dsimp only
    split
    · exact (State.homeless_of_unsent (State.schedSoon_unsent _ _ _)).trans rfl
    · rfl
theorem State.foldl_homeless {α : Type} {f : State → α → State} (hf : ∀ s a, (f s a).homeless = s.homeless) (l : List α) (s : State) :
    (l.foldl f s).homeless = s.homeless := by
  induction l generalizing s with
  | nil => rfl
  | cons a l ih => exact (ih _).trans (hf s a)
theorem State.touchSpan_homeless (s : State) (pa n : Nat) : (s.touchSpan pa n).homeless = s.homeless :=
  State.foldl_homeless (fun s _ => s.touchLine_homeless _ _) _ s
theorem State.touchContent_homeless (s : State) (g : Img) (slot : Nat) : (s.touchContent g slot).homeless = s.homeless := by
  refine State.foldl_homeless (fun s _ => State.foldl_homeless (fun s _ => ?_) _ s) _ s
  split
  · exact s.touchSpan_homeless _ _
  · rfl

/-- UPLOAD takes a graph where its checks pass (R214). -/
def State.uploads (s : State) (g : Img) (slot codeBase place : Nat) : State :=
  (({ s with
    mem := buildSpace s.mem g codeBase place
    cores := s.cores.mapAll (fun _ (c : Core) => { c with utlb := c.utlb.filter (fun e => e.space != slot) })
    clusters := s.clusters.mapAll (fun _ (c : Cluster) => { c with tlb := c.tlb.filter (fun e => e.space != slot) }) } : State).modSlot slot
      (fun x => { x with graph := some (graphOf g codeBase), root := place })).touchContent g slot
def uploadRun (g : Img) (size slot codeBase place : Nat) (sound free : Bool) (s : State) : State × MailRun :=
  if !s.served then (s, mailEnd 6)
  else if !sound then (s, mailEnd 2)
  else if !free then (s, mailEnd 5)
  else match uploadBad g size with
    | some b => (s, { mailEnd 3 with res := b.res })
    | none => (s.uploads g slot codeBase place, mailEnd 0)

section
variable {s : State} (tag : BitVec 16) (codeBase place : Nat)

/-- The image an UPLOAD names; its offset, size and slot in range; its slot free. -/
def State.uploadImg (s : State) : Img := ⟨s.mem, Config.stagingBase + s.arg 0, s.arg 1⟩
def State.uploadSound (s : State) : Bool :=
  s.arg 0 % 4096 == 0 && s.arg 0 + s.arg 1 ≤ Config.stagingTop - Config.stagingBase && s.arg 2 < 1024
def State.uploadFree (s : State) : Bool := (s.slot (s.arg 2)).kicks.isEmpty && (s.slot (s.arg 2)).replay.isNone
theorem exec_upload (h : s.served = true → s.uploadSound = true → s.uploadFree = true → uploadBad s.uploadImg (s.arg 1) = none →
    choiceOk s.uploadImg codeBase place = true) : exec (.upload tag codeBase place) s
      = .next (s.command tag (uploadRun s.uploadImg (s.arg 1) (s.arg 2) codeBase place s.uploadSound s.uploadFree)) := by
  have hnot : ¬ ((s.served && s.uploadSound && s.uploadFree && (uploadBad s.uploadImg (s.arg 1)).isNone) = true ∧ (!s.mailbox.busy) = true
      ∧ (!choiceOk s.uploadImg codeBase place) = true) := by
    rintro ⟨hgood, -, hchoice⟩
    simp only [Bool.and_eq_true, Option.isNone_iff_eq_none] at hgood
    obtain ⟨⟨⟨hserved, hsound⟩, hfree⟩, hbad⟩ := hgood
    rw [h hserved hsound hfree hbad] at hchoice
    cases hchoice
  show execUpload tag codeBase place s = _
  unfold execUpload
  exact congrArg Host.Outcome.next (if_neg hnot)

/-- The conditions of the statement are the model's. -/
theorem State.served_iff : s.served = true ↔ s.boot.ready = true ∧ s.stewardStopped = false := by
  rw [State.served, Bool.and_eq_true, Bool.not_eq_true']
theorem State.uploadSound_iff : s.uploadSound = true ↔ s.arg 0 % 4096 = 0 ∧ s.arg 0 + s.arg 1 ≤ 2 ^ 34 ∧ s.arg 2 < 1024 := by
  have hsize : Config.stagingTop - Config.stagingBase = 2 ^ 34 := by decide
  rw [State.uploadSound, hsize]
  simp [and_assoc]
theorem State.uploadFree_iff : s.uploadFree = true ↔ (s.slot (s.arg 2)).kicks = [] ∧ (s.slot (s.arg 2)).replay = none := by
  rw [State.uploadFree]
  simp

variable (hfree : s.mailbox.busy = false)
include hfree

/-- A refused UPLOAD posts its result, and nothing else changes. -/
theorem State.upload_ends {result : Nat} {res : List Word}
    (h : uploadRun s.uploadImg (s.arg 1) (s.arg 2) codeBase place s.uploadSound s.uploadFree s.mailTaken = (s.mailTaken, { mailEnd result with res := res }))
    (hno : s.served = true → s.uploadSound = true → s.uploadFree = true → uploadBad s.uploadImg (s.arg 1) ≠ none) :
    ∃ t, exec (.upload tag codeBase place) s = .next t ∧ s.acceptedOnly t tag result res [] :=
  ⟨_, exec_upload tag codeBase place (fun h1 h2 h3 h4 => absurd h4 (hno h1 h2 h3)), s.command_only tag _ hfree h⟩
theorem State.upload_accepts (hserved : s.served = true) (hsound : s.uploadSound = true) (hslot : s.uploadFree = true)
    (hbad : uploadBad s.uploadImg (s.arg 1) = none) (hchoice : choiceOk s.uploadImg codeBase place = true) :
    ∃ t, exec (.upload tag codeBase place) s = .next t ∧ s.accepted t tag 0 [] []
      ∧ (t.slot (s.arg 2)).graph = some (graphOf s.uploadImg codeBase) ∧ (t.slot (s.arg 2)).root = place
      ∧ (∀ k, k ≠ s.arg 2 → t.slot k = s.slot k) ∧ t.mem = buildSpace s.mem s.uploadImg codeBase place := by
  have htaken : s.mailTaken.served = true := hserved
  have hrun : uploadRun s.uploadImg (s.arg 1) (s.arg 2) codeBase place s.uploadSound s.uploadFree s.mailTaken
      = (s.mailTaken.uploads s.uploadImg (s.arg 2) codeBase place, mailEnd 0) := by
    rw [uploadRun, htaken, hsound, hslot, hbad]
    rfl
  have htouch : (s.mailTaken.uploads s.uploadImg (s.arg 2) codeBase place).homeless = _ := State.touchContent_homeless _ _ _
  have hslots : (s.mailTaken.uploads s.uploadImg (s.arg 2) codeBase place).slots
      = s.slots.set (s.arg 2) { s.slot (s.arg 2) with graph := some (graphOf s.uploadImg codeBase), root := place } := (congrArg State.slots htouch :)
  have hmem : (s.mailTaken.uploads s.uploadImg (s.arg 2) codeBase place).mem = buildSpace s.mem s.uploadImg codeBase place :=
    (congrArg State.mem htouch :)
  have hmail : (s.mailTaken.uploads s.uploadImg (s.arg 2) codeBase place).mailbox = s.mailTaken.mailbox := (congrArg State.mailbox htouch :)
  have hnow : (s.mailTaken.uploads s.uploadImg (s.arg 2) codeBase place).now = s.now := (congrArg State.now htouch :)
  have haccepted := s.command_accepted tag _ hfree hrun hmail hnow
  obtain ⟨-, -, hframe⟩ := s.command_outcome tag _ hfree hrun
  refine ⟨_, exec_upload tag codeBase place (fun _ _ _ _ => hchoice), haccepted, ?_⟩
  generalize s.command tag (uploadRun s.uploadImg (s.arg 1) (s.arg 2) codeBase place s.uploadSound s.uploadFree) = t at *
  have htslots : t.slots = s.slots.set (s.arg 2) { s.slot (s.arg 2) with graph := some (graphOf s.uploadImg codeBase), root := place } := by
    rw [hframe]
    exact hslots
  have htslot : t.slot (s.arg 2) = { s.slot (s.arg 2) with graph := some (graphOf s.uploadImg codeBase), root := place } := by
    rw [State.slot, htslots]
    exact Table.get_set_self _ _ _ _
  rw [htslot]
  refine ⟨rfl, rfl, fun k hk => ?_, ?_⟩
  · rw [State.slot, htslots]
    exact Table.get_set_other _ _ hk _
  · rw [hframe]
    exact hmem

/-- What an UPLOAD ends with, in the order of its checks. -/
theorem State.upload_outcome :
    let slot := s.arg 2
    let g : Img := ⟨s.mem, 0x00BC_0000_0000 + s.arg 0, s.arg 1⟩
    let sound := s.arg 0 % 4096 = 0 ∧ s.arg 0 + s.arg 1 ≤ 2 ^ 34 ∧ slot < 1024
    let free := (s.slot slot).kicks = [] ∧ (s.slot slot).replay = none
    let serves := s.boot.ready = true ∧ s.stewardStopped = false
    (¬ serves → ∃ t, exec (.upload tag codeBase place) s = .next t ∧ s.acceptedOnly t tag 6 [] [])
    ∧ (serves → ¬ sound → ∃ t, exec (.upload tag codeBase place) s = .next t ∧ s.acceptedOnly t tag 2 [] [])
    ∧ (serves → sound → ¬ free → ∃ t, exec (.upload tag codeBase place) s = .next t ∧ s.acceptedOnly t tag 5 [] [])
    ∧ (serves → sound → free → ∀ b, uploadBad g (s.arg 1) = some b → ∃ t, exec (.upload tag codeBase place) s = .next t
        ∧ s.acceptedOnly t tag 3 [BitVec.ofNat 64 (b.sect * 2 ^ 32 + b.entry), BitVec.ofNat 64 (b.node * 2 ^ 48 + b.sched * 2 ^ 40)] [])
    ∧ (serves → sound → free → uploadBad g (s.arg 1) = none → choiceOk g codeBase place = true →
        ∃ t, exec (.upload tag codeBase place) s = .next t ∧ s.accepted t tag 0 [] []
          ∧ (t.slot slot).graph = some (graphOf g codeBase) ∧ (t.slot slot).root = place ∧ (∀ k, k ≠ slot → t.slot k = s.slot k)
          ∧ t.mem = buildSpace s.mem g codeBase place) := by
  intro slot g sound free serves
  have hserved : s.mailTaken.served = s.served := rfl
  refine ⟨fun h => ?_, fun h hs => ?_, fun h hs hf => ?_, fun h hs hf b hb => ?_, fun h hs hf hb hc => ?_⟩
  · have hno : s.served = false := by
      rw [← Bool.not_eq_true, State.served_iff]
      exact h
    refine State.upload_ends tag codeBase place hfree ?_ (fun h1 => absurd h1 (by rw [hno]; decide))
    rw [uploadRun, hserved, hno]
    rfl
  · have hyes := State.served_iff.2 h
    have hno : s.uploadSound = false := by
      rw [← Bool.not_eq_true, State.uploadSound_iff]
      exact hs
    refine State.upload_ends tag codeBase place hfree ?_ (fun _ h2 => absurd h2 (by rw [hno]; decide))
    rw [uploadRun, hserved, hyes, hno]
    rfl
  · have hyes := State.served_iff.2 h
    have hsound := State.uploadSound_iff.2 hs
    have hno : s.uploadFree = false := by
      rw [← Bool.not_eq_true, State.uploadFree_iff]
      exact hf
    refine State.upload_ends tag codeBase place hfree ?_ (fun _ _ h3 => absurd h3 (by rw [hno]; decide))
    rw [uploadRun, hserved, hyes, hsound, hno]
    rfl
  · have hbad : uploadBad s.uploadImg (s.arg 1) = some b := hb
    refine State.upload_ends tag codeBase place hfree ?_ (fun _ _ _ => by rw [hbad]; exact Option.some_ne_none b)
    rw [uploadRun, hserved, State.served_iff.2 h, State.uploadSound_iff.2 hs, State.uploadFree_iff.2 hf, hbad]
    rfl
  · exact State.upload_accepts tag codeBase place hfree (State.served_iff.2 h) (State.uploadSound_iff.2 hs) (State.uploadFree_iff.2 hf) hb hc

end

end Sys2Proof.Machine
end

section
/-! PROOFS. FLASHWR (O40); the registers and windows of the host (O41). -/

namespace Sys2Proof.Machine

/-! ### FLASHWR -/

section
variable (s : State)

/-- The arguments of a FLASHWR are in range. -/
def State.flashFits : Prop := 2 ≤ s.arg 0 ∧ s.arg 0 ≤ 4 ∧ s.arg 1 ≤ 1 ∧ 1 ≤ s.arg 3 ∧ s.arg 3 ≤ 3840 ∧ s.arg 2 + s.arg 3 ≤ s.arg 4
/-- The chunk goes on with the image whose bytes so far are `l`. -/
def State.flashGoesOn (l : List Byte) : Prop :=
  (s.arg 2 = 0 ∧ l = []) ∨ (0 < s.arg 2 ∧ s.flashBuf = some ⟨s.arg 0, s.arg 1, s.arg 4, l⟩ ∧ l.length = s.arg 2)
/-- The flash with a copy replaced, and the image under way. -/
def State.flashed (buf : Option FlashBuf) (c : FlashCopy) : State :=
  { s with flashBuf := buf, flash := s.flash.set (flashKey (s.arg 0) (s.arg 1)) c }

variable {s}

/-- A FLASHWR that fits passes the first check. -/
theorem State.flashFits.pass (h : s.flashFits) :
    ¬ ((!(2 ≤ s.arg 0 && s.arg 0 ≤ 4) || 1 < s.arg 1 || s.arg 3 = 0 || 3840 < s.arg 3 || s.arg 4 < s.arg 2 + s.arg 3) = true) := by
  obtain ⟨h1, h2, h3, h4, h5, h6⟩ := h
  simp only [Bool.or_eq_true, Bool.not_eq_true', Bool.and_eq_false_iff, decide_eq_true_eq, decide_eq_false_iff_not]
  omega

/-- What a chunk in order does. -/
theorem State.flashChunk_takes (h : s.flashFits) {l : List Byte} (hl : s.flashGoesOn l) :
    s.flashChunk = if (l ++ s.mailData (s.arg 3)).length < s.arg 4 then
        (s.flashed (some ⟨s.arg 0, s.arg 1, s.arg 4, l ++ s.mailData (s.arg 3)⟩) ⟨false, []⟩,
          { mailEnd 0 with res := [BitVec.ofNat 64 (l ++ s.mailData (s.arg 3)).length] })
      else if s.passes (s.arg 0) (l ++ s.mailData (s.arg 3)) then
        (s.flashed none ⟨true, l ++ s.mailData (s.arg 3)⟩, { mailEnd 0 with res := [BitVec.ofNat 64 (l ++ s.mailData (s.arg 3)).length] })
      else (s.flashed none ⟨false, l ++ s.mailData (s.arg 3)⟩, { mailEnd 4 with res := [BitVec.ofNat 64 (l ++ s.mailData (s.arg 3)).length] }) := by
  unfold State.flashChunk
  dsimp only
  rw [if_neg h.pass]
  obtain ⟨hzero, rfl⟩ | ⟨hpos, hbuf, hlen⟩ := hl
  · rw [if_pos hzero]
    rfl
  · rw [if_neg (by omega), hbuf]
    dsimp only
    rw [if_pos ⟨rfl, rfl, rfl, hlen⟩]
    rfl
/-- A chunk out of order ends the image. -/
theorem State.flashChunk_stops (h : s.flashFits) (hpos : 0 < s.arg 2)
    (hno : ∀ b, s.flashBuf = some b → ¬ (b.kind = s.arg 0 ∧ b.copy = s.arg 1 ∧ b.total = s.arg 4 ∧ b.data.length = s.arg 2)) :
    s.flashChunk = ({ s with flashBuf := none }, mailEnd 2) := by
  unfold State.flashChunk
  dsimp only
  rw [if_neg h.pass, if_neg (by omega)]
  cases hbuf : s.flashBuf with
  | none => rfl
  | some b =>
    dsimp only
    rw [if_neg (hno b hbuf)]

/-- The copies of an image have places of their own. -/
theorem flashKey_inj {j kind c copy : Nat} (hc : c ≤ 1) (hcopy : copy ≤ 1) (h : flashKey j c = flashKey kind copy) : j = kind ∧ c = copy := by
  unfold flashKey at h
  omega
theorem State.copyOf_flashed (buf : Option FlashBuf) (c : FlashCopy) : (s.flashed buf c).copyOf (s.arg 0) (s.arg 1) = c :=
  Table.get_set_self _ _ _ _
theorem State.copyOf_flashed_other (buf : Option FlashBuf) (c : FlashCopy) (hcopy : s.arg 1 ≤ 1) {j k : Nat} (hk : k ≤ 1)
    (hjk : j ≠ s.arg 0 ∨ k ≠ s.arg 1) : (s.flashed buf c).copyOf j k = s.copyOf j k := by
  refine Table.get_set_other _ _ (fun h => ?_) _
  obtain ⟨hj, hk⟩ := flashKey_inj hk hcopy h
  exact hjk.elim (fun h => h hj) (fun h => h hk)

variable (tag : BitVec 16) (hfree : s.mailbox.busy = false)
include hfree

/-- Who serves the FLASHWR: nobody before stage 2, and in recovery of stage 2 the loader, which takes kind 2 alone. -/
def flashRun (s : State) : State × MailRun :=
  if s.boot.reached < 2 ∧ !s.boot.recovery then (s, mailEnd 6)
  else if s.boot.recovery ∧ s.boot.failed = 2 ∧ s.arg 0 ≠ 2 then (s, mailEnd 6)
  else s.flashChunk
theorem State.flash_early (hreached : s.boot.reached < 2) (hrecovery : s.boot.recovery = false) :
    ∃ t, exec (.flashwr tag) s = .next t ∧ s.acceptedOnly t tag 6 [] [] :=
  ⟨s.command tag flashRun, rfl, s.command_ends tag flashRun hfree (if_pos ⟨hreached, by rw [State.mailTaken, hrecovery]; rfl⟩)⟩
theorem State.flash_loader (hrecovery : s.boot.recovery = true) (hfailed : s.boot.failed = 2) (hkind : s.arg 0 ≠ 2) :
    ∃ t, exec (.flashwr tag) s = .next t ∧ s.acceptedOnly t tag 6 [] [] := by
  refine ⟨s.command tag flashRun, rfl, s.command_ends tag flashRun hfree ?_⟩
  have hserved : ¬ (s.mailTaken.boot.reached < 2 ∧ (!s.mailTaken.boot.recovery) = true) := by
    rintro ⟨-, hno⟩
    rw [show s.mailTaken.boot.recovery = true from hrecovery] at hno
    cases hno
  rw [flashRun, if_neg hserved, if_pos ⟨hrecovery, hfailed, hkind⟩]

variable (hreached : 2 ≤ s.boot.reached) (hfailed : s.boot.failed ≠ 2)
include hreached hfailed

omit hfree in
theorem flashRun_served : flashRun s.mailTaken = s.mailTaken.flashChunk := by
  have hserved : ¬ (s.mailTaken.boot.reached < 2 ∧ (!s.mailTaken.boot.recovery) = true) := fun h => absurd h.1 (Nat.not_lt.2 hreached)
  have hother : ¬ (s.mailTaken.boot.recovery = true ∧ s.mailTaken.boot.failed = 2 ∧ s.mailTaken.arg 0 ≠ 2) := fun h => hfailed h.2.1
  rw [flashRun, if_neg hserved, if_neg hother]

/-- A FLASHWR that is served and replaces a copy. -/
theorem State.flash_accepts {buf : Option FlashBuf} {c : FlashCopy} {r : MailRun} (hcopy : s.arg 1 ≤ 1)
    (hrun : s.mailTaken.flashChunk = (s.mailTaken.flashed buf c, r)) :
    s.acceptedRun (s.command tag flashRun) { r with tag := tag }
      ∧ (s.command tag flashRun).flashBuf = buf ∧ (s.command tag flashRun).copyOf (s.arg 0) (s.arg 1) = c
      ∧ (∀ j k, (j ≠ s.arg 0 ∨ k ≠ s.arg 1) → k ≤ 1 → (s.command tag flashRun).copyOf j k = s.copyOf j k)
      ∧ s.command tag flashRun = { s with
        mailbox := (s.command tag flashRun).mailbox, agenda := (s.command tag flashRun).agenda, fresh := (s.command tag flashRun).fresh,
        flash := (s.command tag flashRun).flash, flashBuf := (s.command tag flashRun).flashBuf } := by
  have hf := (flashRun_served hreached hfailed).trans hrun
  have haccepted := s.command_accepted tag flashRun hfree hf rfl rfl
  obtain ⟨-, -, hframe⟩ := s.command_outcome tag flashRun hfree hf
  generalize s.command tag flashRun = t at *
  have hflash : t.flash = (s.mailTaken.flashed buf c).flash := by rw [hframe]
  have hbuf : t.flashBuf = buf := by rw [hframe]; rfl
  have hcopies : ∀ j k, t.copyOf j k = (s.mailTaken.flashed buf c).copyOf j k := fun j k => by rw [State.copyOf, State.copyOf, hflash]
  refine ⟨haccepted, hbuf, (hcopies _ _).trans (State.copyOf_flashed buf c), fun j k hjk hk =>
    (hcopies j k).trans ((State.copyOf_flashed_other buf c hcopy hk hjk).trans rfl), ?_⟩
  rw [hflash, hbuf]
  exact hframe

/-- A chunk in order is taken; the last one verifies the image. -/
theorem State.flash_takes (h : s.flashFits) {l : List Byte} (hl : s.flashGoesOn l) : ∃ t, exec (.flashwr tag) s = .next t
    ∧ (s.arg 2 + s.arg 3 < s.arg 4 → s.accepted t tag 0 [BitVec.ofNat 64 (s.arg 2 + s.arg 3)] []
      ∧ t.flashBuf = some ⟨s.arg 0, s.arg 1, s.arg 4, l ++ s.mailData (s.arg 3)⟩)
    ∧ (s.arg 2 + s.arg 3 = s.arg 4 → t.flashBuf = none
      ∧ (s.passes (s.arg 0) (l ++ s.mailData (s.arg 3)) = true → s.accepted t tag 0 [BitVec.ofNat 64 (s.arg 4)] []
        ∧ t.copyOf (s.arg 0) (s.arg 1) = ⟨true, l ++ s.mailData (s.arg 3)⟩)
      ∧ (s.passes (s.arg 0) (l ++ s.mailData (s.arg 3)) = false → s.accepted t tag 4 [BitVec.ofNat 64 (s.arg 4)] []
        ∧ (t.copyOf (s.arg 0) (s.arg 1)).valid = false))
    ∧ (∀ j k, (j ≠ s.arg 0 ∨ k ≠ s.arg 1) → k ≤ 1 → t.copyOf j k = s.copyOf j k)
    ∧ t = { s with mailbox := t.mailbox, agenda := t.agenda, fresh := t.fresh, flash := t.flash, flashBuf := t.flashBuf } := by
  refine ⟨s.command tag flashRun, rfl, ?_⟩
  have hcopy : s.arg 1 ≤ 1 := h.2.2.1
  have htakes : s.mailTaken.flashChunk = _ := State.flashChunk_takes (s := s.mailTaken) h hl
  have hargs : ∀ k, s.mailTaken.arg k = s.arg k := fun _ => rfl
  have hdata : s.mailTaken.mailData (s.arg 3) = s.mailData (s.arg 3) := rfl
  have hpasses : ∀ k d, s.mailTaken.passes k d = s.passes k d := fun _ _ => rfl
  have hlength : (l ++ s.mailData (s.arg 3)).length = s.arg 2 + s.arg 3 := by
    obtain ⟨hzero, rfl⟩ | ⟨-, -, hlen⟩ := hl
    · simp [State.mailData, hzero]
    · simp [State.mailData, hlen]
  simp only [hargs, hdata, hpasses, hlength] at htakes
  generalize l ++ s.mailData (s.arg 3) = d at *
  by_cases hlt : s.arg 2 + s.arg 3 < s.arg 4
  · rw [if_pos hlt] at htakes
    obtain ⟨haccepted, hbuf, -, hothers, hframe⟩ := State.flash_accepts tag hfree hreached hfailed hcopy htakes
    exact ⟨fun _ => ⟨haccepted, hbuf⟩, fun heq => absurd heq (by omega), hothers, hframe⟩
  · rw [if_neg hlt] at htakes
    have hall : s.arg 2 + s.arg 3 = s.arg 4 := by
      obtain ⟨-, -, -, -, -, hle⟩ := h
      omega
    rw [hall] at htakes
    cases hpass : s.passes (s.arg 0) d
    · rw [hpass, if_neg (by decide)] at htakes
      obtain ⟨haccepted, hbuf, hset, hothers, hframe⟩ := State.flash_accepts tag hfree hreached hfailed hcopy htakes
      exact ⟨fun h => absurd h hlt, fun _ => ⟨hbuf, fun h => Bool.noConfusion h, fun _ => ⟨haccepted, by rw [hset]⟩⟩, hothers, hframe⟩
    · rw [hpass, if_pos rfl] at htakes
      obtain ⟨haccepted, hbuf, hset, hothers, hframe⟩ := State.flash_accepts tag hfree hreached hfailed hcopy htakes
      exact ⟨fun h => absurd h hlt, fun _ => ⟨hbuf, fun _ => ⟨haccepted, hset⟩, fun h => Bool.noConfusion h⟩, hothers, hframe⟩
theorem State.flash_stops (h : s.flashFits) (hpos : 0 < s.arg 2)
    (hno : ∀ b, s.flashBuf = some b → ¬ (b.kind = s.arg 0 ∧ b.copy = s.arg 1 ∧ b.total = s.arg 4 ∧ b.data.length = s.arg 2)) :
    ∃ t, exec (.flashwr tag) s = .next t ∧ s.accepted t tag 2 [] [] ∧ t.flashBuf = none ∧ t.flash = s.flash := by
  have hf := (flashRun_served hreached hfailed).trans (State.flashChunk_stops (s := s.mailTaken) h hpos hno)
  obtain ⟨-, -, hframe⟩ := s.command_outcome tag flashRun hfree hf
  exact ⟨s.command tag flashRun, rfl, s.command_accepted tag flashRun hfree hf rfl rfl, by rw [hframe], by rw [hframe]; rfl⟩

end

/-- Settles O40: UPLOAD in the order of its checks, FLASHWR by the place of its chunk. -/
theorem uploadsAndFlashWrites : Obligations.UploadsAndFlashWrites := by
  intro s tag hfree
  refine ⟨fun codeBase place => State.upload_outcome tag codeBase place hfree, ?_, State.flash_early tag hfree, State.flash_loader tag hfree⟩
  intro kind copy off n total chunk hreached hfailed h1 h2 h3 h4 h5 h6
  have hfits : s.flashFits := ⟨h1, h2, h3, h4, h5, h6⟩
  exact ⟨fun l hl => State.flash_takes tag hfree hreached hfailed hfits hl, State.flash_stops tag hfree hreached hfailed hfits⟩

/-! ### Register writes -/

section
variable (s : State)

/-- The end of a steward's device-scope write changes that steward's context alone (R354). -/
theorem State.wakeSteward_frame (k : Nat) : s.wakeSteward k = { s with ctxs := (s.wakeSteward k).ctxs } := by
  unfold State.wakeSteward
  split
  next tok len hpark =>
    unfold State.reply
    dsimp only
    rw [hpark]
    dsimp only
    rw [if_pos rfl]
    rfl
  next => rfl

theorem exec_registerWrite_data (k : Fin 480) (v : Word) : exec (.registerWrite (.data k) v) s = .next { s with mailbox := { s.mailbox with
    data := ((List.range 8).zip (leBytes 8 v.toNat)).foldl (fun t e => t.set (8 * k.val + e.1) e.2) s.mailbox.data } } := rfl
/-- The eight data bytes of a register. -/
theorem Mailbox.get_data (m : Mailbox) (k j : Nat) (v : Word) :
    Table.get 0 (((List.range 8).zip (leBytes 8 v.toNat)).foldl (fun t e => t.set (8 * k + e.1) e.2) m.data) j
      = if 8 * k ≤ j ∧ j < 8 * k + 8 then v.extractLsb' (8 * (j - 8 * k)) 8 else Table.get 0 m.data j := by
  have hlength : (leBytes 8 v.toNat).length = 8 := length_leBytes 8 v.toNat
  have hget := get_foldl_set (0 : Byte) (leBytes 8 v.toNat) (8 * k) m.data j
  rw [hlength] at hget
  rw [hget]
  by_cases hin : 8 * k ≤ j ∧ j < 8 * k + 8
  · have hj : j - 8 * k < (leBytes 8 v.toNat).length := by omega
    rw [if_pos hin, if_pos hin, List.getD_eq_getElem _ _ hj, getElem_leBytes]
    refine BitVec.eq_of_toNat_eq ?_
    have hpow : 256 ^ (j - 8 * k) = 2 ^ (8 * (j - 8 * k)) := by rw [Nat.pow_mul]
    simp [Nat.shiftRight_eq_div_pow, hpow]
  · rw [if_neg hin, if_neg hin]

/-- DBGHZ, EVICTWAIT and PREEMPTWAIT as every die applies them (R355). -/
theorem exec_registerWrite_device (k : Nat) (v : Word) :
    (∃ t, exec (.registerWrite (.dbghz k) v) s = .next t ∧ t.dbghz = v.getLsbD 0)
      ∧ (∃ t, exec (.registerWrite (.evictwait k) v) s = .next t ∧ t.evictwait = v.toNat % 2 ^ 32)
      ∧ (∃ t, exec (.registerWrite (.preemptwait k) v) s = .next t ∧ t.preemptwait = v.toNat % 2 ^ 32) := by
  refine ⟨⟨({ s with dbghz := bit v.toNat 0 } : State).wakeSteward k, rfl, ?_⟩, ⟨((List.range 4).foldl (fun (s : State) d => s.schedSoon 0 (.eviction d))
    { s with evictwait := fld v.toNat 31 0 }).wakeSteward k, rfl, ?_⟩,
    ⟨(({ s with preemptwait := fld v.toNat 31 0 } : State).schedOnce 0 .placement).wakeSteward k, rfl, ?_⟩⟩
  · rw [State.wakeSteward_frame]
    exact bit_eq_testBit _ _
  · rw [State.wakeSteward_frame]
    have hsched := State.foldl_homeless (f := fun (s : State) d => s.schedSoon 0 (.eviction d))
      (fun t d => State.homeless_of_unsent (t.schedSoon_unsent 0 (.eviction d))) (List.range 4) { s with evictwait := fld v.toNat 31 0 }
    refine (congrArg State.evictwait hsched).trans ?_
    show fld v.toNat 31 0 = _
    simp [fld]
  · rw [State.wakeSteward_frame]
    have hsched := State.schedOnce_unsent { s with preemptwait := fld v.toNat 31 0 } 0 .placement
    refine (congrArg State.preemptwait hsched).trans ?_
    show fld v.toNat 31 0 = _
    simp [fld]

end

/-! ### Kicks -/

section
variable {s : State} {k : Nat} (v : Word)

/-- What a kick takes its slot for: the write's low 16 bits name it. -/
theorem fld_slot (v : Word) : fld v.toNat 15 0 = v.toNat % 2 ^ 16 := by simp [fld]
theorem fld_patches (v : Word) : fld v.toNat 63 16 = v.toNat / 2 ^ 16 := by
  have hv := v.isLt
  rw [fld]
  omega
theorem State.schedOnce_frame (s : State) (n : Nat) (i : Instr) : s.schedOnce n i = { s with agenda := (s.schedOnce n i).agenda } := by
  unfold State.schedOnce
  split <;> rfl
theorem State.mem_schedOnce (s : State) (n : Nat) (i : Instr) : ∃ due, (due, i) ∈ (s.schedOnce n i).agenda := by
  unfold State.schedOnce
  split
  next hdue =>
    obtain ⟨⟨due, j⟩, hmem, hj⟩ := List.any_eq_true.1 hdue
    obtain rfl : j = i := by simpa using hj
    exact ⟨due, hmem⟩
  next => exact ⟨_, State.mem_sched _ _ _⟩

/-- The slot with the kick queued. -/
def State.kicked (s : State) (k : Nat) (v : Word) : State :=
  s.modSlot k (fun x => { x with kicks := x.kicks ++ [(s.now, v.toNat / 2 ^ 16 * 64)] })
/-- A kick that is lost counts in its slot, and before ready in the device's count. -/
def Boot.countLost (b : Boot) : Boot := { b with lostk := min (b.lostk + 1) (2 ^ 32 - 1) }
def State.counted (s : State) (k : Nat) : State := if s.boot.ready ∨ 2048 ≤ k then s else { s with boot := s.boot.countLost }
def State.lost (s : State) (k : Nat) : State := s.modSlot k (fun x => { x with lost := min (x.lost + 1) (2 ^ 16 - 1) })
theorem exec_kick (hk : k < 1024) : exec (.kick k v) s
    = .next (if (!(s.counted k).boot.ready) = true ∨ v.toNat % 2 ^ 16 ≠ k ∨ (s.slot k).graph.isNone = true ∨ 64 ≤ (s.slot k).kicks.length then
        (s.counted k).lost k
      else if (s.slot k).replay.isNone then ((s.counted k).kicked k v).schedOnce 0 (.replayBegin k) else (s.counted k).kicked k v) := by
  show execKick k v s = _
  unfold execKick
  dsimp only
  rw [if_neg (by omega), fld_slot, fld_patches]
  rfl
theorem State.counted_ready (h : s.boot.ready = true) : s.counted k = s := if_pos (.inl h)
theorem State.counted_early (hk : k < 1024) (h : s.boot.ready = false) : s.counted k = { s with boot := s.boot.countLost } :=
  if_neg (by rw [h]; rintro (hno | hbig); exacts [Bool.noConfusion hno, by omega])
theorem exec_kick_queued (hk : k < 1024) (hready : s.boot.ready = true) (hv : v.toNat % 2 ^ 16 = k) (hgraph : (s.slot k).graph ≠ none)
    (hroom : (s.slot k).kicks.length < 64) : exec (.kick k v) s
      = .next (if (s.slot k).replay.isNone then (s.kicked k v).schedOnce 0 (.replayBegin k) else s.kicked k v) := by
  rw [exec_kick v hk, State.counted_ready hready, if_neg ?_]
  rw [hready, Option.isNone_iff_eq_none]
  rintro (h | h | h | h)
  · cases h
  · exact h hv
  · exact hgraph h
  · omega
theorem State.kick_queued (hk : k < 1024) (hready : s.boot.ready = true) (hv : v.toNat % 2 ^ 16 = k) (hgraph : (s.slot k).graph ≠ none)
    (hroom : (s.slot k).kicks.length < 64) : ∃ t, exec (.kick k v) s = .next t
      ∧ t.slot k = { s.slot k with kicks := (s.slot k).kicks ++ [(s.now, v.toNat / 2 ^ 16 * 64)] }
      ∧ (∀ j, j ≠ k → t.slot j = s.slot j) ∧ t = { s with slots := t.slots, agenda := t.agenda }
      ∧ ((s.slot k).replay = none → ∃ due, (due, Instr.replayBegin k) ∈ t.agenda) := by
  have hself : (s.kicked k v).slot k = { s.slot k with kicks := (s.slot k).kicks ++ [(s.now, v.toNat / 2 ^ 16 * 64)] } := Table.get_set_self _ _ _ _
  have hother : ∀ j, j ≠ k → (s.kicked k v).slot j = s.slot j := fun j hj => Table.get_set_other _ _ hj _
  refine ⟨_, exec_kick_queued v hk hready hv hgraph hroom, ?_⟩
  cases hreplay : (s.slot k).replay with
  | none =>
    rw [if_pos (by rfl)]
    have hmem := (s.kicked k v).mem_schedOnce 0 (.replayBegin k)
    have hframe := (s.kicked k v).schedOnce_frame 0 (.replayBegin k)
    generalize (s.kicked k v).schedOnce 0 (.replayBegin k) = t at *
    have hslots : ∀ j, t.slot j = (s.kicked k v).slot j := fun j => by rw [hframe]; rfl
    exact ⟨(hslots k).trans hself, fun j hj => (hslots j).trans (hother j hj), by rw [hframe]; rfl, fun _ => hmem⟩
  | some r =>
    rw [if_neg (by simp)]
    exact ⟨hself, hother, rfl, fun h => by cases h⟩

theorem exec_kick_lost (hk : k < 1024) (h : s.boot.ready = false ∨ v.toNat % 2 ^ 16 ≠ k ∨ (s.slot k).graph = none ∨ 64 ≤ (s.slot k).kicks.length) :
    exec (.kick k v) s = .next ((s.counted k).lost k) := by
  have hready : (s.counted k).boot.ready = s.boot.ready := by
    unfold State.counted
    split <;> rfl
  rw [exec_kick v hk, if_pos ?_]
  rw [hready, Option.isNone_iff_eq_none, Bool.not_eq_true']
  exact h
theorem State.kick_lost (hk : k < 1024) (h : s.boot.ready = false ∨ v.toNat % 2 ^ 16 ≠ k ∨ (s.slot k).graph = none ∨ 64 ≤ (s.slot k).kicks.length) :
    ∃ t, exec (.kick k v) s = .next t ∧ t.slot k = { s.slot k with lost := min ((s.slot k).lost + 1) (2 ^ 16 - 1) }
      ∧ (∀ j, j ≠ k → t.slot j = s.slot j) ∧ t.boot = (if s.boot.ready then s.boot else { s.boot with lostk := min (s.boot.lostk + 1) (2 ^ 32 - 1) })
      ∧ t = { s with slots := t.slots, boot := t.boot } := by
  refine ⟨_, exec_kick_lost v hk h, ?_⟩
  cases hready : s.boot.ready
  · rw [State.counted_early hk hready, if_neg (by decide)]
    exact ⟨Table.get_set_self _ _ _ _, fun j hj => Table.get_set_other _ _ hj _, rfl, rfl⟩
  · rw [State.counted_ready hready, if_pos rfl]
    exact ⟨Table.get_set_self _ _ _ _, fun j hj => Table.get_set_other _ _ hj _, rfl, rfl⟩
theorem exec_kick_outside (hk : 1024 ≤ k) : exec (.kick k v) s = .next (if s.boot.ready = true ∨ 2048 ≤ k then s
    else { s with boot := { s.boot with lostk := min (s.boot.lostk + 1) (2 ^ 32 - 1) } }) := by
  show execKick k v s = _
  unfold execKick
  exact congrArg Host.Outcome.next (if_pos hk)

end

/-! ### The staging window -/

section
variable (s : State) {off : Nat}

/-- The window holds what lies within it. -/
theorem staging_room : Config.stagingTop - Config.stagingBase = 2 ^ 34 := by decide
theorem State.staging_write {bytes : List Byte} (hfits : off + bytes.length ≤ 2 ^ 34) :
    (Memory.wf s.mem = true → s.boot.ready = true → ∃ t, exec (.hostStagingWrite off bytes) s = .next t
        ∧ s.memKept t (0x00BC_0000_0000 + off) bytes.length
        ∧ ∀ j, j < bytes.length → memRead t.mem (0x00BC_0000_0000 + off + j) = bytes.getD j 0)
      ∧ (s.boot.ready = false → exec (.hostStagingWrite off bytes) s = .next s) := by
  have htake : bytes.take (Config.stagingTop - Config.stagingBase - off) = bytes := by
    rw [staging_room]
    exact List.take_of_length_le (by omega)
  have hexec : exec (.hostStagingWrite off bytes) s
      = .next (if s.boot.ready then (s.store (Config.stagingBase + off) bytes).touchSpan (Config.stagingBase + off) bytes.length else s) := by
    show execHostStagingWrite off bytes s = _
    rw [execHostStagingWrite, htake]
  rw [hexec]
  refine ⟨fun hwf hready => ⟨_, rfl, ?_⟩, fun hready => by rw [hready]; rfl⟩
  rw [if_pos hready]
  have htouch := (s.store (Config.stagingBase + off) bytes).touchSpan_homeless (Config.stagingBase + off) bytes.length
  have hmem : ((s.store (Config.stagingBase + off) bytes).touchSpan (Config.stagingBase + off) bytes.length).mem
      = memPut s.mem (Config.stagingBase + off) bytes := (congrArg State.mem htouch :)
  refine ⟨fun b hb => ?_, fun j hj => ?_⟩
  · rw [hmem]
    exact memRead_memPut_other s.mem bytes hb
  · rw [hmem, List.getD_eq_getElem _ _ hj]
    exact memRead_memPut_self hwf bytes _ j hj
theorem State.staging_read {n : Nat} (hfits : off + n ≤ 2 ^ 34) : ∃ t, exec (.hostStagingRead off n) s = .next t
    ∧ t = { s with hostRead := t.hostRead } ∧ t.hostRead.length = n
    ∧ ∀ j, j < n → t.hostRead.getD j 0 = if s.boot.ready then memRead s.mem (0x00BC_0000_0000 + off + j) else 0xFF := by
  have hmin : Nat.min n (Config.stagingTop - Config.stagingBase - off) = n := by
    rw [staging_room]
    exact Nat.min_eq_left (by omega)
  have hexec : exec (.hostStagingRead off n) s = .next { s with
      hostRead := if s.boot.ready then memBytes s.mem n (Config.stagingBase + off) else List.replicate n 255 } := by
    show execHostStagingRead off n s = _
    rw [execHostStagingRead, hmin]
  refine ⟨_, hexec, rfl, ?_⟩
  cases hready : s.boot.ready
  · exact ⟨List.length_replicate, fun j hj => by simp [hj]⟩
  · refine ⟨length_memBytes _ _ _, fun j hj => ?_⟩
    have hlength : (memBytes s.mem n (Config.stagingBase + off)).length = n := length_memBytes _ _ _
    have hin : j < (memBytes s.mem n (Config.stagingBase + off)).length := by omega
    exact (List.getD_eq_getElem _ _ hin).trans (getElem_memBytes _ _ _ j hin)

end

/-- Settles O41, register by register and window by window. -/
theorem hostRegistersAndWindows : Obligations.HostRegistersAndWindows := by
  intro s
  refine ⟨fun k v => ⟨_, rfl, fun j => Table.get_set 0 s.mailbox.args j k.val v⟩, fun k v => ⟨_, exec_registerWrite_data s k v, fun j =>
      s.mailbox.get_data k.val j v⟩, exec_registerWrite_device s, fun k v hk => ⟨fun h1 h2 h3 h4 => State.kick_queued v hk h1 h2 h3 h4, State.kick_lost v hk⟩,
    fun k v hk => exec_kick_outside v hk, fun off bytes h => s.staging_write h, fun off n h => s.staging_read h⟩

end Sys2Proof.Machine
end

section
/-! PROOFS. Replays begin (O42). -/

namespace Sys2Proof.Machine

/-! ### Slots -/

section
variable (s : State) (k : Nat) (f : Slot → Slot)

@[simp] theorem State.slot_modSlot_self : (s.modSlot k f).slot k = f (s.slot k) := Table.get_set_self _ _ _ _
theorem State.slot_modSlot_other {j : Nat} (h : j ≠ k) : (s.modSlot k f).slot j = s.slot j := Table.get_set_other _ _ h _
@[simp] theorem State.schedOnce_slot (n : Nat) (i : Instr) (j : Nat) : (s.schedOnce n i).slot j = s.slot j := by
  rw [s.schedOnce_frame n i]
  rfl
theorem State.slotsOnly {s u t : State} (hu : u = { s with slots := u.slots }) (ht : t = { u with agenda := t.agenda }) :
    t = { s with slots := t.slots, agenda := t.agenda } := by
  rw [ht, hu]

end

/-! ### How a kick ends -/

section
variable {s : State} {k : Nat} {g : Graph} {at_ pa : Nat} {ks : List (Nat × Nat)}

/-- The slot's oldest kick is taken. -/
def State.kickTaken (s : State) (k : Nat) (ks : List (Nat × Nat)) : State := s.modSlot k (fun x => { x with kicks := ks })
/-- A replay that fails counts as ended, and the next kick begins a cycle later. -/
def State.replayFails (s : State) (k : Nat) (ks : List (Nat × Nat)) (e : Nat) : State :=
  if ks.isEmpty then (s.kickTaken k ks).modSlot k (fun x => { x with err := e, done := (x.done + 1) % 2 ^ 32 })
  else ((s.kickTaken k ks).modSlot k (fun x => { x with err := e, done := (x.done + 1) % 2 ^ 32 })).schedOnce 1 (.replayBegin k)
theorem State.replayFails_outcome (s : State) (k : Nat) (ks : List (Nat × Nat)) (e : Nat) :
    (s.replayFails k ks e).slot k = { s.slot k with kicks := ks, err := e, done := ((s.slot k).done + 1) % 2 ^ 32 }
      ∧ (∀ j, j ≠ k → (s.replayFails k ks e).slot j = s.slot j)
      ∧ s.replayFails k ks e = { s with slots := (s.replayFails k ks e).slots, agenda := (s.replayFails k ks e).agenda } := by
  have hslot : ∀ u : State, u = (s.kickTaken k ks).modSlot k (fun x => { x with err := e, done := (x.done + 1) % 2 ^ 32 }) →
      u.slot k = { s.slot k with kicks := ks, err := e, done := ((s.slot k).done + 1) % 2 ^ 32 } ∧ ∀ j, j ≠ k → u.slot j = s.slot j := by
    rintro u rfl
    refine ⟨?_, fun j hj => ?_⟩
    · rw [State.slot_modSlot_self, State.kickTaken, State.slot_modSlot_self]
    · rw [State.slot_modSlot_other _ _ _ hj, State.kickTaken, State.slot_modSlot_other _ _ _ hj]
  unfold State.replayFails
  split
  next => exact ⟨(hslot _ rfl).1, (hslot _ rfl).2, rfl⟩
  next =>
    refine ⟨(State.schedOnce_slot _ _ _ _).trans (hslot _ rfl).1, fun j hj => (State.schedOnce_slot _ _ _ _).trans ((hslot _ rfl).2 j hj), ?_⟩
    rw [State.schedOnce_frame]
    rfl

/-- The replay of a kick whose patches pass. -/
def State.replayStarts (s : State) (k : Nat) (g : Graph) (at_ : Nat) (ks ps : List (Nat × Nat)) : State :=
  (((s.kickTaken k ks).patchMem g k ps).modSlot k (fun x => { x with
    replay := some ⟨at_, 0, g.nodes.map (fun _ => .waiting), patchAll g ps g.nodes⟩ })).advanceReplay k

variable (hreplay : (s.slot k).replay = none) (hgraph : (s.slot k).graph = some g) (hkicks : (s.slot k).kicks = (at_, pa) :: ks)
include hreplay hgraph hkicks

theorem exec_replayBegin_none (hps : s.patchTable pa = none) : exec (.replayBegin k) s = .next (s.replayFails k ks 5) := by
  have hps' : (s.kickTaken k ks).patchTable pa = none := hps
  unfold State.kickTaken at hps'
  show execReplayBegin k s = _
  unfold execReplayBegin
  dsimp only
  rw [hreplay, hgraph, hkicks]
  dsimp only
  rw [hps']
  rfl
theorem exec_replayBegin {ps : List (Nat × Nat)} (hps : s.patchTable pa = some ps) : exec (.replayBegin k) s
    = .next (if patchErr g ps ≠ 0 then s.replayFails k ks (patchErr g ps)
      else if (patchAll g ps g.nodes).any (fun r => !extOk r.ext) then s.replayFails k ks 2
      else s.replayStarts k g at_ ks ps) := by
  have hps' : (s.kickTaken k ks).patchTable pa = some ps := hps
  unfold State.kickTaken at hps'
  show execReplayBegin k s = _
  unfold execReplayBegin
  dsimp only
  rw [hreplay, hgraph, hkicks]
  dsimp only
  rw [hps']
  rfl

end

/-! ### A replay starts -/

/-- How a node that waits stands once its producers are asked. -/
def Graph.nodeStarts (g : Graph) (now : Nat) (nodes : List NodeSt) (j : Nat) : NodeSt :=
  match nodes.getD j .dropped with
  | .waiting => if g.isReady nodes j then .ready now else .waiting
  | x => x
/-- Of nodes that all wait, those without producers are ready. -/
theorem Graph.isReady_waiting (g : Graph) (l : List LRec) (j : Nat) :
    g.isReady (l.map (fun _ => .waiting)) j = true ↔ ¬ ∃ e ∈ g.edges, e.dst = j := by
  have hmet : ∀ e, edgeMet (l.map (fun _ => .waiting)) e = false := fun e => by
    have hwaits : (l.map (fun _ => NodeSt.waiting)).getD e.src .waiting = .waiting := by
      by_cases h : e.src < l.length
      · simp [h]
      · simp [h]
    rw [edgeMet, hwaits]
  simp only [Graph.isReady, List.all_eq_true, List.mem_filter, beq_iff_eq, hmet, Bool.false_eq_true, not_exists, not_and, and_imp]
theorem Graph.nodeStarts_waiting (g : Graph) (now : Nat) {l : List LRec} {j : Nat} (hj : j < l.length) [Decidable (∃ e ∈ g.edges, e.dst = j)] :
    g.nodeStarts now (l.map (fun _ => .waiting)) j = if ∃ e ∈ g.edges, e.dst = j then .waiting else .ready now := by
  have hwaits : (l.map (fun _ => NodeSt.waiting)).getD j .dropped = .waiting := by simp [hj]
  have hready := g.isReady_waiting l j
  rw [Graph.nodeStarts, hwaits]
  dsimp only
  by_cases h : ∃ e ∈ g.edges, e.dst = j
  · rw [if_pos h, if_neg (fun hr => hready.1 hr h)]
  · rw [if_neg h, if_pos (hready.2 h)]

section
variable {s : State} {k : Nat} {g : Graph} {rp : Replay} (hreplay : (s.slot k).replay = some rp) (hgraph : (s.slot k).graph = some g)
include hreplay hgraph

/-- A replay of which a node has not ended goes on. -/
theorem State.advanceReplay_goesOn
    (hopen : ∃ j, j < rp.nodes.length ∧ g.nodeStarts s.now rp.nodes j ≠ .completed ∧ g.nodeStarts s.now rp.nodes j ≠ .dropped) :
    s.advanceReplay k = (s.modSlot k (fun x => { x with
      replay := some { rp with nodes := (List.range rp.nodes.length).map (g.nodeStarts s.now rp.nodes) } })).schedOnce 0 .placement := by
  obtain ⟨j, hj, hcompleted, hdropped⟩ := hopen
  have hnodes : ¬ ((List.range rp.nodes.length).map (g.nodeStarts s.now rp.nodes)).all (fun n => n == .completed || n == .dropped) = true := by
    intro hall
    have hn := List.all_eq_true.1 hall _ (List.mem_map_of_mem (List.mem_range.2 hj))
    rw [Bool.or_eq_true, beq_iff_eq, beq_iff_eq] at hn
    exact hn.elim hcompleted hdropped
  unfold State.advanceReplay
  rw [hreplay, hgraph]
  exact if_neg hnodes

end

/-- A replay without patches starts every node as the graph has it. -/
theorem State.replayStarts_outcome (s : State) (k : Nat) {g : Graph} (at_ : Nat) (ks : List (Nat × Nat)) (hgraph : (s.slot k).graph = some g)
    (hnodes : g.nodes ≠ []) : ∃ rp, ((s.replayStarts k g at_ ks []).slot k).kicks = ks ∧ ((s.replayStarts k g at_ ks []).slot k).replay = some rp
      ∧ rp.kickedAt = at_ ∧ rp.err = 0 ∧ rp.recs = g.nodes
      ∧ rp.nodes = (List.range g.nodes.length).map (g.nodeStarts s.now (g.nodes.map (fun _ => .waiting)))
      ∧ (∀ j, j ≠ k → (s.replayStarts k g at_ ks []).slot j = s.slot j)
      ∧ s.replayStarts k g at_ ks [] = { s with
        slots := (s.replayStarts k g at_ ks []).slots, agenda := (s.replayStarts k g at_ ks []).agenda } := by
  have hlength : 0 < g.nodes.length := List.length_pos_iff.2 hnodes
  have hslot : ((s.kickTaken k ks).modSlot k (fun x => { x with replay := some ⟨at_, 0, g.nodes.map (fun _ => .waiting), g.nodes⟩ })).slot k
      = { s.slot k with kicks := ks, replay := some ⟨at_, 0, g.nodes.map (fun _ => .waiting), g.nodes⟩ } := by
    rw [State.slot_modSlot_self, State.kickTaken, State.slot_modSlot_self]
  have hopen : g.nodeStarts s.now (g.nodes.map (fun _ => .waiting)) 0 ≠ .completed ∧ g.nodeStarts s.now (g.nodes.map (fun _ => .waiting)) 0 ≠ .dropped := by
    classical
    rw [g.nodeStarts_waiting s.now hlength]
    split <;> exact ⟨by simp, by simp⟩
  have hstarts := State.advanceReplay_goesOn (s := (s.kickTaken k ks).modSlot k (fun x => { x with
      replay := some ⟨at_, 0, g.nodes.map (fun _ => .waiting), g.nodes⟩ })) (k := k) (by rw [hslot]) (by rw [hslot]; exact hgraph)
    ⟨0, by simpa using hlength, hopen⟩
  have heq : s.replayStarts k g at_ ks [] = _ := hstarts
  rw [heq]
  refine ⟨⟨at_, 0, (List.range g.nodes.length).map (g.nodeStarts s.now (g.nodes.map (fun _ => .waiting))), g.nodes⟩, ?_, ?_, rfl, rfl, rfl, rfl,
    fun j hj => ?_, ?_⟩
  · rw [State.schedOnce_slot, State.slot_modSlot_self, hslot]
  · rw [State.schedOnce_slot, State.slot_modSlot_self]
    simp only [List.length_map]
    rfl
  · rw [State.schedOnce_slot, State.slot_modSlot_other _ _ _ hj, State.slot_modSlot_other _ _ _ hj, State.kickTaken, State.slot_modSlot_other _ _ _ hj]
  · exact State.slotsOnly rfl (State.schedOnce_frame _ 0 .placement)

/-- Settles O42: what the oldest kick becomes, by its patch table. -/
theorem replaysBegin : Obligations.ReplaysBegin := by
  intro s k g at_ pa ks hreplay hgraph hkicks
  refine ⟨fun hpa hnodes hext => ?_, fun hpa hout => ?_, fun ps hps herr => ?_⟩
  · have hps : s.patchTable pa = some [] := if_pos hpa
    have hall : ¬ (patchAll g [] g.nodes).any (fun r => !extOk r.ext) = true := by
      simp only [patchAll, List.any_eq_true, Bool.not_eq_true', not_exists, not_and, Bool.not_eq_false]
      exact hext
    have hexec := exec_replayBegin hreplay hgraph hkicks hps
    rw [if_neg (fun h => h rfl), if_neg hall] at hexec
    obtain ⟨rp, h1, h2, h3, h4, h5, hnodesEq, hothers, hframe⟩ := s.replayStarts_outcome k at_ ks hgraph hnodes
    refine ⟨_, rp, hexec, h1, h2, h3, h4, h5, ?_, fun j hj => ?_, hothers, ?_⟩
    · rw [hnodesEq, List.length_map, List.length_range]
    · rw [hnodesEq, ← g.nodeStarts_waiting s.now hj]
      simp [hj]
    · rw [hframe]
      exact ⟨rfl, rfl, rfl, rfl⟩
  · have hps : s.patchTable pa = none := by
      rw [State.patchTable, if_neg hpa]
      exact if_pos hout
    exact ⟨_, exec_replayBegin_none hreplay hgraph hkicks hps, s.replayFails_outcome k ks 5⟩
  · have hexec := exec_replayBegin hreplay hgraph hkicks hps
    rw [if_pos herr] at hexec
    exact ⟨_, hexec, s.replayFails_outcome k ks _⟩

end Sys2Proof.Machine
end

section
/-! PROOFS. Teams are placed and launched (O43). -/

namespace Sys2Proof.Machine

/-! ### A team is set up -/

/-- A team `u` stands at its number, and of the cores set up so far each is the team's, with idle contexts, and zero where the resource map
writes none. -/
structure State.SetUp (tok : Nat) (u : Team) (time : Nat) (done : List Nat) (s : State) : Prop where
  now : s.now = time
  team : s.teams.find tok = some u
  core : ∀ c ∈ done, (s.core c).team = some tok
  idle : ∀ c ∈ done, ∀ e ∈ s.ctxs.cells, e.1 / 16 ≠ c
  zero : u.lr.rm = [] → ∀ c ∈ done, ∀ e ∈ s.mem, ¬ (spad c 0 ≤ e.1 ∧ e.1 < spad c 0 + Config.spadSize)

/-- A write adds its own entry alone. -/
theorem Table.mem_putIn {α : Type} {k : Nat} {v : α} {l : List (Nat × α)} {e : Nat × α} (h : e ∈ Table.putIn k v l) : e = (k, v) ∨ e ∈ l := by
  induction l with
  | nil => exact .inl (List.mem_singleton.1 h)
  | cons c cs ih =>
    unfold Table.putIn at h
    split at h
    · exact (List.mem_cons.1 h).imp_right (List.mem_cons_of_mem c)
    · split at h
      · exact List.mem_cons.1 h
      · obtain rfl | htail := List.mem_cons.1 h
        · exact .inr List.mem_cons_self
        · exact (ih htail).imp_right (List.mem_cons_of_mem c)
theorem Table.findIn_of_absent {α : Type} {k : Nat} {l : List (Nat × α)} (h : ∀ e ∈ l, e.1 ≠ k) : Table.findIn k l = none := by
  induction l with
  | nil => rfl
  | cons c cs ih =>
    rw [Table.findIn, if_neg (h c List.mem_cons_self)]
    exact ih (fun e he => h e (List.mem_cons_of_mem c he))
theorem memRead_of_absent {m : List Host.Cell} {a : Nat} (h : ∀ e ∈ m, e.1 ≠ a) : memRead m a = 0 := by
  induction m with
  | nil => rfl
  | cons c cs ih =>
    rw [memRead, if_neg (h c List.mem_cons_self)]
    exact ih (fun e he => h e (List.mem_cons_of_mem c he))

/-- A team without a context area has no saved core to change. -/
theorem Team.savedCore_map {u : Team} (h : u.savedCore = []) (g : Nat × Core → Nat × Core) : { u with savedCore := u.savedCore.map g } = u := by
  have hnil : u.savedCore.map g = u.savedCore := by rw [h]; rfl
  rw [hnil]

namespace State.SetUp
variable {tok : Nat} {u : Team} {time : Nat} {done : List Nat} {s t : State}

/-- What a set-up speaks of. -/
theorem congr (h : s.SetUp tok u time done) (hnow : t.now = s.now) (hteams : t.teams = s.teams) (hcores : t.cores = s.cores) (hctxs : t.ctxs = s.ctxs) (hmem : t.mem = s.mem) :
    t.SetUp tok u time done := by
  refine ⟨hnow.trans h.now, by rw [hteams]; exact h.team, fun c hc => ?_, by rw [hctxs]; exact h.idle, by rw [hmem]; exact h.zero⟩
  rw [State.core, hcores]
  exact h.core c hc
/-- A change of a core that leaves it its team. -/
theorem modCore (h : s.SetUp tok u time done) (c : Nat) {f : Core → Core} (hf : ∀ x, (f x).team = x.team) : (s.modCore c f).SetUp tok u time done := by
  refine ⟨h.now, h.team, fun k hk => ?_, h.idle, h.zero⟩
  rw [State.core_modCore]
  split
  · rw [hf]
    exact h.core k hk
  · exact h.core k hk
/-- A change of a core as a context area holds it; a team that is set up has none. -/
theorem modTeam (h : s.SetUp tok u time done) (hsaved : u.savedCore = []) (k : Nat) (g : Nat × Core → Nat × Core) :
    (s.modTeam k (fun v => { v with savedCore := v.savedCore.map g })).SetUp tok u time done := by
  unfold State.modTeam
  split
  next v hv =>
    refine ⟨h.now, ?_, h.core, h.idle, h.zero⟩
    by_cases hk : k = tok
    · subst hk
      obtain rfl : u = v := Option.some.inj (h.team.symm.trans hv)
      show (s.teams.set k _).find k = _
      rw [Table.find_set_self]
      exact congrArg some (Team.savedCore_map hsaved g)
    · exact (Table.find_set_other _ (Ne.symm hk) _).trans h.team
  next => exact h
theorem modSide (h : s.SetUp tok u time done) (hsaved : u.savedCore = []) (c k : Nat) {f : Core → Core} (hf : ∀ x, (f x).team = x.team) :
    (s.modSide c k f).SetUp tok u time done := by
  unfold State.modSide
  split
  · split
    · exact h.modTeam hsaved _ _
    · exact h.modCore k hf
  · exact h.modCore k hf
theorem mapSides (h : s.SetUp tok u time done) (hsaved : u.savedCore = []) (k : Nat) {f : Team → Core → Core} (hf : ∀ v x, (f v x).team = x.team) :
    (s.mapSides k f).SetUp tok u time done := by
  have hlive : ∀ r : State, r.SetUp tok u time done → ({ r with teams := r.teams.mapAll (fun _ (u : Team) =>
      { u with savedCore := u.savedCore.map (fun x => if x.1 = k then (k, f u x.2) else x) }) } : State).SetUp tok u time done := by
    intro r hr
    refine ⟨hr.now, ?_, hr.core, hr.idle, hr.zero⟩
    show (r.teams.mapAll _).find tok = _
    rw [Table.find_mapAll, hr.team, Option.map_some]
    exact congrArg some (Team.savedCore_map hsaved _)
  refine hlive _ ?_
  split
  · split
    · exact h
    · exact h.modCore k (hf _)
  · exact h
/-- A change of a context of a core not yet set up, where those set up lie below it. -/
theorem modCtx (h : s.SetUp tok u time done) {c : Nat} (hc : ∀ k ∈ done, k < c) (n : Nat) (f : Ctx → Ctx) : (s.modCtx c n f).SetUp tok u time done := by
  refine ⟨h.now, h.team, h.core, fun k hk e he => ?_, h.zero⟩
  obtain rfl | hold := Table.mem_putIn he
  · have hlt := hc k hk
    show (16 * c + n) / 16 ≠ k
    omega
  · exact h.idle k hk e hold
theorem sched (h : s.SetUp tok u time done) (n : Nat) (i : Instr) : (s.sched n i).SetUp tok u time done := h.congr rfl rfl rfl rfl rfl
theorem reweigh (h : s.SetUp tok u time done) {c : Nat} (hc : ∀ k ∈ done, k < c) (n : Nat) : (s.reweigh c n).SetUp tok u time done :=
  (h.modCtx hc n _).sched _ _
theorem demand (h : s.SetUp tok u time done) {c : Nat} (hc : ∀ k ∈ done, k < c) (n key : Nat) (v : Option Nat) : (s.demand c n key v).SetUp tok u time done :=
  (h.modCtx hc n _).reweigh hc n
theorem foldl {α : Type} (h : s.SetUp tok u time done) {l : List α} {f : State → α → State}
    (hf : ∀ r : State, ∀ a ∈ l, r.SetUp tok u time done → (f r a).SetUp tok u time done) : (l.foldl f s).SetUp tok u time done :=
  List.foldlRecOn l f h (fun r hr a ha => hf r a ha hr)

variable (hsaved : u.savedCore = [])
include hsaved

/-- What is on its way to a core not yet set up reaches it. -/
theorem settleCore (h : s.SetUp tok u time done) {c : Nat} (hc : ∀ k ∈ done, k < c) : (s.settleCore c).SetUp tok u time done := by
  have hstart : ({ s with agenda := s.agenda.filter (fun e => !isQueueEvent c e.2) } : State).SetUp tok u time done := h.congr rfl rfl rfl rfl rfl
  refine hstart.foldl (fun r e he hr => ?_)
  have hevent := List.mem_filter.1 he
  split
  next k d _ =>
    refine hr.modSide hsaved _ _ (fun x => ?_)
    split <;> rfl
  next k d _ => exact hr.modSide hsaved _ _ (fun _ => rfl)
  next m hm =>
    rw [hm] at hevent
    have hcore : m.core = c := by simpa [isQueueEvent] using hevent.2
    have hbelow : ∀ k ∈ done, k < m.core := fun k hk => by
      rw [hcore]
      exact hc k hk
    exact hr.demand hbelow m.ctx _ _
  next => exact hr

/-- Step 1 at the next core. -/
theorem setupCore (h : s.SetUp tok u time done) {c : Nat} (hc : ∀ k ∈ done, k < c) : (s.setupCore tok c).SetUp tok u time (done ++ [c]) := by
  have hsettled := h.settleCore hsaved hc
  refine ⟨hsettled.now, hsettled.team, fun k hk => ?_, fun k hk e he => ?_, fun hrm k hk e he => ?_⟩
  · obtain hold | hnew := List.mem_append.1 hk
    · have hne : k ≠ c := Nat.ne_of_lt (hc k hold)
      refine (congrArg Core.team (Table.get_set_other _ _ hne _)).trans ?_
      exact hsettled.core k hold
    · obtain rfl := List.mem_singleton.1 hnew
      exact congrArg Core.team (Table.get_set_self _ _ _ _)
  · obtain ⟨hmem, hother⟩ := List.mem_filter.1 he
    obtain hold | hnew := List.mem_append.1 hk
    · exact hsettled.idle k hold e hmem
    · obtain rfl := List.mem_singleton.1 hnew
      simpa using hother
  · obtain ⟨hmem, hout⟩ := List.mem_filter.1 he
    obtain hold | hnew := List.mem_append.1 hk
    · exact hsettled.zero hrm k hold e hmem
    · obtain rfl := List.mem_singleton.1 hnew
      simp only [Bool.or_eq_true, decide_eq_true_eq] at hout
      omega
/-- Step 1 at cores in rising order. -/
theorem setupCores (h : s.SetUp tok u time done) (l : List Nat) (hup : (done ++ l).Pairwise (· < ·)) :
    (l.foldl (fun (s : State) c => s.setupCore tok c) s).SetUp tok u time (done ++ l) := by
  induction l generalizing s done with
  | nil => simpa using h
  | cons c cs ih =>
    have hsplit : done ++ c :: cs = (done ++ [c]) ++ cs := by simp
    rw [hsplit] at hup ⊢
    have hbelow : ∀ k ∈ done, k < c := fun k hk =>
      (List.pairwise_append.1 (List.pairwise_append.1 hup).1).2.2 k hk c (List.mem_singleton_self c)
    exact ih (h.setupCore hsaved hbelow) hup

omit hsaved in
/-- Steps 2 and 3: directions and the resource map. -/
theorem setupDirs (h : s.SetUp tok u time done) (c : Nat) : (s.setupDirs c).SetUp tok u time done := by
  refine h.foldl (fun r d _ hr => hr.modCore c (fun x => ?_))
  split <;> rfl
theorem linkNeighbours (h : s.SetUp tok u time done) (v : Team) (c : Nat) : (s.linkNeighbours v c).SetUp tok u time done := by
  refine h.foldl (fun r d _ hr => ?_)
  split
  · exact hr
  · have hdrop : (r.dropLink (neighbour c d) (dirOpp d)).SetUp tok u time done := hr.congr rfl rfl rfl rfl rfl
    refine hdrop.mapSides hsaved _ (fun v x => ?_)
    split
    · split <;> rfl
    · rfl
omit hsaved in
theorem applyRm (h : s.SetUp tok u time done) (v : Team) {e : RmEntry} (he : e ∈ u.lr.rm) : (s.applyRm v e).SetUp tok u time done := by
  unfold State.applyRm
  dsimp only
  split
  · exact h.congr rfl rfl rfl rfl rfl
  · exact ⟨h.now, h.team, h.core, h.idle, fun hnil => absurd (hnil ▸ he) List.not_mem_nil⟩
  · refine h.modCore _ (fun x => ?_)
    split <;> rfl
  · exact h.modCore _ (fun _ => rfl)
  · exact h.modCore _ (fun _ => rfl)
  · exact h.modCore _ (fun _ => rfl)

end State.SetUp

/-- The five steps leave the team with its cores. -/
theorem State.setupTeam_setUp (s : State) (tok : Nat) {u : Team} (hsaved : u.savedCore = []) (hup : u.cores.Pairwise (· < ·)) :
    (s.setupTeam tok u).SetUp tok u s.now u.cores := by
  have hstart : ({ s with teams := s.teams.set tok u } : State).SetUp tok u s.now [] :=
    ⟨rfl, Table.find_set_self _ _ _, fun _ hc => absurd hc List.not_mem_nil, fun _ hc => absurd hc List.not_mem_nil,
      fun _ _ hc => absurd hc List.not_mem_nil⟩
  have hcores := hstart.setupCores hsaved u.cores hup
  have hdirs := hcores.foldl (l := u.cores) (f := fun (s : State) c => (s.setupDirs c).linkNeighbours u c)
    (fun r c _ hr => (hr.setupDirs c).linkNeighbours hsaved u c)
  have hmap := hdirs.foldl (l := u.lr.rm) (f := fun (s : State) e => s.applyRm u e) (fun r e he hr => hr.applyRm u he)
  have hdrop := hmap.foldl (l := u.cores) (f := fun (s : State) c => s.cacheDropAll c) (fun r c _ hr => hr.congr rfl rfl rfl rfl rfl)
  exact hdrop.foldl (l := List.range u.scheds.length) (f := fun (s : State) k => s.schedOnce 0 (.scheduleEntryRelease tok k)) (fun r k _ hr => by
    rw [State.schedOnce_frame]
    exact hr.congr rfl rfl rfl rfl rfl)

/-! ### The region of a placement -/

/-- Cores of a rectangle within a die rise in the order of R219. -/
theorem Team.cores_rise (u : Team) (hx : u.ox + u.width ≤ 24) : u.cores.Pairwise (· < ·) := by
  refine List.pairwise_flatMap.2 ⟨fun cy _ => ?_, List.pairwise_lt_range.imp (fun {a b} hab c hc k hk => ?_)⟩
  · rw [List.pairwise_map]
    refine List.pairwise_lt_range.imp (fun {a b} hab => ?_)
    unfold coreAt
    omega
  · obtain ⟨i, hi, rfl⟩ := List.mem_map.1 hc
    obtain ⟨j, hj, rfl⟩ := List.mem_map.1 hk
    have hi := List.mem_range.1 hi
    unfold coreAt
    omega
/-- What Place(node) finds: a variant of the record, at an origin from which its region lies within the die, on free cores (R223). -/
theorem State.placeOf_spec {s : State} {r : LRec} {v d x y : Nat} (h : s.placeOf r = some (v, d, x, y)) :
    v < r.vars.length ∧ x + (r.vars.getD v ⟨1, 1, 0⟩).w ≤ 24
      ∧ ∀ j, j < (r.vars.getD v ⟨1, 1, 0⟩).h → ∀ i, i < (r.vars.getD v ⟨1, 1, 0⟩).w → s.coreFree (coreAt d (x + i) (y + j)) = true := by
  obtain ⟨v', hv', h⟩ := List.exists_of_findSome?_eq_some h
  obtain ⟨d', -, h⟩ := List.exists_of_findSome?_eq_some h
  obtain ⟨y', -, h⟩ := List.exists_of_findSome?_eq_some h
  obtain ⟨x', hx', h⟩ := List.exists_of_findSome?_eq_some h
  split at h
  next hfree =>
    obtain ⟨rfl, rfl, rfl, rfl⟩ : v' = v ∧ d' = d ∧ x' = x ∧ y' = y := by simpa using h
    have hx := List.mem_range.1 hx'
    refine ⟨List.mem_range.1 hv', by omega, fun j hj i hi => ?_⟩
    exact List.all_eq_true.1 (List.all_eq_true.1 hfree j (List.mem_range.2 hj)) i (List.mem_range.2 hi)
  next => cases h

/-- The team a placement makes. -/
def State.newTeam (s : State) (k : Cand) (g : Graph) (r : LRec) (v d x y : Nat) : Team :=
  { slot := k.slot, node := k.node, die := d, ox := x, oy := y, variant := v, lr := r, codeBase := g.codeBase
    st := .placed, placedAt := s.now, readyAt := k.since, stage := 0, scheds := r.sch.map (fun _ => ⟨0, 0, []⟩), next := 0
    halt := none, stages := [], trigs := [], saved := [], savedCtx := [], savedCore := [], late := [] }
theorem State.newTeam_size (s : State) (k : Cand) (g : Graph) {r : LRec} {v : Nat} (d x y : Nat) (hv : v < r.vars.length) :
    (s.newTeam k g r v d x y).width = (r.vars.getD v ⟨1, 1, 0⟩).w ∧ (s.newTeam k g r v d x y).height = (r.vars.getD v ⟨1, 1, 0⟩).h := by
  have hget : r.vars[v]? = some (r.vars.getD v ⟨1, 1, 0⟩) := by
    rw [List.getD_eq_getElem _ _ hv, List.getElem?_eq_getElem hv]
  refine ⟨?_, ?_⟩
  · show ((r.vars[v]?).map (·.w)).getD 1 = _
    rw [hget]
    rfl
  · show ((r.vars[v]?).map (·.h)).getD 1 = _
    rw [hget]
    rfl
/-- Its cores rise, and are free. -/
theorem State.newTeam_cores {s : State} (k : Cand) (g : Graph) {r : LRec} {v d x y : Nat} (h : s.placeOf r = some (v, d, x, y)) :
    (s.newTeam k g r v d x y).cores.Pairwise (· < ·) ∧ ∀ c ∈ (s.newTeam k g r v d x y).cores, s.coreFree c = true := by
  obtain ⟨hv, hx, hfree⟩ := State.placeOf_spec h
  obtain ⟨hwidth, hheight⟩ := s.newTeam_size k g d x y hv
  refine ⟨Team.cores_rise _ (by rw [hwidth]; exact hx), fun c hc => ?_⟩
  obtain ⟨cy, hcy, hc⟩ := List.mem_flatMap.1 hc
  obtain ⟨cx, hcx, rfl⟩ := List.mem_map.1 hc
  rw [hheight, List.mem_range] at hcy
  rw [hwidth, List.mem_range] at hcx
  exact hfree cy hcy cx hcx

/-! ### PLACEMENT -/

section
variable {s : State} {k : Cand} {ks : List Cand} {rp : Replay} {g : Graph} {r : LRec} {v d x y : Nat}

/-- The state with the node's team set up and to launch. -/
def State.placed (s : State) (k : Cand) (g : Graph) (r : LRec) (v d x y : Nat) : State :=
  ((s.newTok.setupTeam s.tok (s.newTeam k g r v d x y)).setNode k.slot k.node (.placed s.tok)).sched Config.launchCycles (.teamLaunch s.tok)
theorem exec_placement_node (hcands : s.cands = k :: ks) (hteam : k.team = none) (hreplay : (s.slot k.slot).replay = some rp)
    (hgraph : (s.slot k.slot).graph = some g) (hrec : rp.recs[k.node]? = some r) (hplace : s.placeOf r = some (v, d, x, y)) :
    exec .placement s = .next ((s.placed k g r v d x y).schedOnce 1 .placement) := by
  have htry : s.tryPlace k = some (s.placed k g r v d x y) := by
    unfold State.tryPlace
    rw [hteam, hreplay, hgraph]
    dsimp only
    rw [hrec]
    dsimp only
    rw [hplace]
    rfl
  show execPlacement s = _
  unfold execPlacement
  rw [hcands, List.findSome?_cons_of_isSome (by rw [htry]; rfl), htry]
theorem State.placed_outcome (hplace : s.placeOf r = some (v, d, x, y)) : ∃ t u, t = (s.placed k g r v d x y).schedOnce 1 .placement
    ∧ t.teams.find s.tok = some u ∧ u.slot = k.slot ∧ u.node = k.node ∧ u.die = d ∧ u.ox = x ∧ u.oy = y ∧ u.variant = v ∧ u.lr = r
    ∧ u.codeBase = g.codeBase ∧ u.st = .placed
    ∧ (∀ c ∈ u.cores, s.coreFree c = true ∧ (t.core c).team = some s.tok ∧ ∀ n, n < 16 → t.ctx c n = Ctx.idle)
    ∧ (r.rm = [] → ∀ c ∈ u.cores, ∀ b, b < 0x20000 → memRead t.mem (spad c b) = 0)
    ∧ (s.now + 1024, Instr.teamLaunch s.tok) ∈ t.agenda := by
  obtain ⟨hup, hfree⟩ := State.newTeam_cores k g hplace
  have hsetup := s.newTok.setupTeam_setUp s.tok (u := s.newTeam k g r v d x y) rfl hup
  have hset : ((s.placed k g r v d x y).schedOnce 1 .placement).SetUp s.tok (s.newTeam k g r v d x y) s.now (s.newTeam k g r v d x y).cores := by
    rw [State.schedOnce_frame]
    exact hsetup.congr rfl rfl rfl rfl rfl
  refine ⟨_, s.newTeam k g r v d x y, rfl, hset.team, rfl, rfl, rfl, rfl, rfl, rfl, rfl, rfl, rfl, fun c hc =>
    ⟨hfree c hc, hset.core c hc, fun n hn => ?_⟩, fun hrm c hc b hb => ?_, ?_⟩
  · have habsent : Table.findIn (16 * c + n) ((s.placed k g r v d x y).schedOnce 1 .placement).ctxs.cells = none :=
      Table.findIn_of_absent (fun e he hkey => hset.idle c hc e he (by omega))
    rw [State.ctx, Table.get, Table.find, habsent]
    rfl
  · refine memRead_of_absent (fun e he hkey => hset.zero hrm c hc e he ?_)
    rw [hkey]
    unfold spad Config.spadSize
    omega
  · have hnow : ((s.newTok.setupTeam s.tok (s.newTeam k g r v d x y)).setNode k.slot k.node (.placed s.tok)).now = s.now := hsetup.now
    have hmem := State.mem_sched ((s.newTok.setupTeam s.tok (s.newTeam k g r v d x y)).setNode k.slot k.node (.placed s.tok))
      Config.launchCycles (.teamLaunch s.tok)
    rw [hnow] at hmem
    exact State.schedOnce_adds _ 1 .placement _ hmem

/-- Where no candidate fits, only the watch for PREEMPTWAIT may be set. -/
theorem State.schedSoon_frame (s : State) (n : Nat) (i : Instr) : s.schedSoon n i = { s with agenda := (s.schedSoon n i).agenda } := by
  unfold State.schedSoon
  split <;> rfl
theorem exec_placement_none (h : ∀ k ∈ s.cands, s.tryPlace k = none) :
    ∃ t, exec .placement s = .next t ∧ t = { s with agenda := t.agenda } := by
  have hnone : s.cands.findSome? s.tryPlace = none := List.findSome?_eq_none_iff.2 h
  have hexec : exec .placement s = .next s.armPreempt := by
    show execPlacement s = _
    unfold execPlacement
    rw [hnone]
  refine ⟨_, hexec, ?_⟩
  unfold State.armPreempt
  split
  · rfl
  · exact State.schedSoon_frame _ _ _

end

/-! ### TEAM_LAUNCH -/

/-- What the steps of a launch leave: teams, memory, slots, and where every context stands. -/
structure State.Launches (s t : State) : Prop where
  now : t.now = s.now
  teams : t.teams = s.teams
  mem : t.mem = s.mem
  slots : t.slots = s.slots
  ctx : ∀ c n, (t.ctx c n).st = (s.ctx c n).st ∧ (t.ctx c n).pc = (s.ctx c n).pc ∧ (t.ctx c n).readyAt = (s.ctx c n).readyAt

/-- A context after a change of one, by their keys. -/
theorem State.ctx_modCtx_key (s : State) (c n j m : Nat) (f : Ctx → Ctx) :
    (s.modCtx c n f).ctx j m = if 16 * j + m = 16 * c + n then f (s.ctx c n) else s.ctx j m := Table.get_set _ _ _ _ _

namespace State.Launches
variable {r s t : State}

theorem refl (s : State) : s.Launches s := ⟨rfl, rfl, rfl, rfl, fun _ _ => ⟨rfl, rfl, rfl⟩⟩
theorem trans (h : r.Launches s) (h' : s.Launches t) : r.Launches t :=
  ⟨h'.now.trans h.now, h'.teams.trans h.teams, h'.mem.trans h.mem, h'.slots.trans h.slots, fun c n =>
    ⟨(h'.ctx c n).1.trans (h.ctx c n).1, (h'.ctx c n).2.1.trans (h.ctx c n).2.1, (h'.ctx c n).2.2.trans (h.ctx c n).2.2⟩⟩
theorem foldl {α : Type} (l : List α) {f : State → α → State} (hf : ∀ (s : State) a, s.Launches (f s a)) (s : State) : s.Launches (l.foldl f s) :=
  List.foldlRecOn l f (refl s) (fun r hr a _ => hr.trans (hf r a))
theorem firstDemand (s : State) (c n key w : Nat) : s.Launches (s.firstDemand c n key w) := by
  refine ⟨rfl, rfl, rfl, rfl, fun j m => ?_⟩
  unfold State.firstDemand
  rw [State.ctx_modCtx_key]
  split
  next heq =>
    have hctx : s.ctx j m = s.ctx c n := by rw [State.ctx, heq]; rfl
    rw [hctx]
    exact ⟨rfl, rfl, rfl⟩
  next => exact ⟨rfl, rfl, rfl⟩
theorem startLev (s : State) (c k r0 : Nat) (l : Lev) : s.Launches (s.startLev c k r0 l) := by
  unfold State.startLev
  split
  · exact refl s
  · have hlev : s.Launches ((s.setLev c k { l with nextAt := r0 + l.period }).sched (r0 + l.period - s.now) (.levellingSample c k)) :=
      ⟨rfl, rfl, rfl, rfl, fun _ _ => ⟨rfl, rfl, rfl⟩⟩
    have hcons := hlev.trans (firstDemand _ c l.cons (levKey c k false) l.wc)
    dsimp only
    split
    · exact hcons.trans ⟨rfl, rfl, rfl, rfl, fun _ _ => ⟨rfl, rfl, rfl⟩⟩
    · exact hcons.trans (firstDemand _ _ _ _ _)
theorem fetchAhead (s : State) (c : Nat) : s.Launches (s.fetchAhead c) := by
  rw [s.fetchAhead_frame c]
  exact ⟨rfl, rfl, rfl, rfl, fun _ _ => ⟨rfl, rfl, rfl⟩⟩
theorem schedOnce (s : State) (n : Nat) (i : Instr) : s.Launches (s.schedOnce n i) := by
  rw [s.schedOnce_frame n i]
  exact ⟨rfl, rfl, rfl, rfl, fun _ _ => ⟨rfl, rfl, rfl⟩⟩

end State.Launches

section
variable {s : State}

/-- Contexts 0 of the cores start. -/
def State.startAll (s : State) (pc : Word) (l : List Nat) : State := l.foldl (fun (s : State) c => s.setCtx c 0 (Ctx.start pc (ownSlot 0 s.now))) s
theorem State.startAll_spec (s : State) (pc : Word) (l : List Nat) :
    (s.startAll pc l).now = s.now ∧ (s.startAll pc l).teams = s.teams ∧ (s.startAll pc l).mem = s.mem ∧ (s.startAll pc l).slots = s.slots
      ∧ ∀ c ∈ l, (s.startAll pc l).ctx c 0 = Ctx.start pc (ownSlot 0 s.now) := by
  unfold State.startAll
  induction l using List.reverseRecOn with
  | nil => exact ⟨rfl, rfl, rfl, rfl, fun c hc => absurd hc List.not_mem_nil⟩
  | append_singleton l a ih =>
    obtain ⟨hnow, hteams, hmem, hslots, hctx⟩ := ih
    rw [List.foldl_append]
    refine ⟨hnow, hteams, hmem, hslots, fun c hc => ?_⟩
    rw [List.foldl_cons, List.foldl_nil, State.setCtx, State.ctx, Table.get_set]
    split
    next => rw [hnow]
    next hne =>
      obtain hold | hnew := List.mem_append.1 hc
      · exact hctx c hold
      · exact absurd (by rw [List.mem_singleton.1 hnew]) hne

variable {team : Nat} {u : Team}

/-- The address a team starts at. -/
def Team.entry (u : Team) : Nat := u.codeBase + ((u.lr.vars[u.variant]?).map (·.entry)).getD 0
/-- Controllers begin, and fetchers ask ahead. -/
def State.launchRest (s : State) (u : Team) : State :=
  (u.cores.foldl (fun (s : State) c => s.fetchAhead c)
    (u.cores.foldl (fun (s : State) c => (s.core c).lev.cells.foldl (fun (s : State) l => s.startLev c l.1 (rotationFrom s.now) l.2) s) s)).schedOnce 0 .placement
theorem State.launchRest_launches (s : State) (u : Team) : s.Launches (s.launchRest u) := by
  have hlevs : s.Launches (u.cores.foldl (fun (s : State) c =>
      (s.core c).lev.cells.foldl (fun (s : State) l => s.startLev c l.1 (rotationFrom s.now) l.2) s) s) :=
    State.Launches.foldl _ (fun r c => State.Launches.foldl _ (fun q (l : Nat × Lev) => State.Launches.startLev q c l.1 (rotationFrom q.now) l.2) r) s
  exact (hlevs.trans (State.Launches.foldl _ (fun r c => State.Launches.fetchAhead r c) _)).trans (State.Launches.schedOnce _ _ _)
theorem exec_teamLaunch (hteam : s.teams.find team = some u) (hst : u.st = .placed) : exec (.teamLaunch team) s
    = .next (((s.modTeam team (fun u => { u with st := .running })).startAll (BitVec.ofNat 64 u.entry) u.cores).launchRest u) := by
  show execTeamLaunch team s = _
  unfold execTeamLaunch
  rw [hteam]
  exact congrArg Host.Outcome.next (if_neg (fun h => h hst))
theorem State.launch_outcome {v : Variant} (hteam : s.teams.find team = some u) (hst : u.st = .placed) (hv : u.lr.vars[u.variant]? = some v) :
    ∃ t, exec (.teamLaunch team) s = .next t ∧ t.teams.find team = some { u with st := .running }
      ∧ (∀ c ∈ u.cores, (t.ctx c 0).st = .running ∧ (t.ctx c 0).pc = BitVec.ofNat 64 (u.codeBase + v.entry)
          ∧ (t.ctx c 0).readyAt = ownSlot 0 s.now)
      ∧ t.mem = s.mem ∧ t.slots = s.slots := by
  have hentry : u.entry = u.codeBase + v.entry := by
    rw [Team.entry, hv]
    rfl
  have hmod : s.modTeam team (fun u => { u with st := .running }) = { s with teams := s.teams.set team { u with st := .running } } := by
    rw [State.modTeam, hteam]
  have hexec := exec_teamLaunch hteam hst
  rw [hmod, hentry] at hexec
  obtain ⟨hnow, hteams, hmem, hslots, hctx⟩ := ({ s with teams := s.teams.set team { u with st := .running } } : State).startAll_spec
    (BitVec.ofNat 64 (u.codeBase + v.entry)) u.cores
  have hrest := State.launchRest_launches (({ s with teams := s.teams.set team { u with st := .running } } : State).startAll
    (BitVec.ofNat 64 (u.codeBase + v.entry)) u.cores) u
  refine ⟨_, hexec, ?_, fun c hc => ?_, hrest.mem.trans hmem, hrest.slots.trans hslots⟩
  · rw [hrest.teams, hteams]
    exact Table.find_set_self _ _ _
  · obtain ⟨h1, h2, h3⟩ := hrest.ctx c 0
    rw [h1, h2, h3, hctx c hc]
    exact ⟨rfl, rfl, rfl⟩

end

/-- Settles O43: the first candidate takes its cores, and its team starts on them. -/
theorem teamsPlacedAndLaunched : Obligations.TeamsPlacedAndLaunched := by
  refine ⟨fun s k ks rp g r v d x y hcands hteam hreplay hgraph hrec hplace => ?_, fun s h => exec_placement_none h, fun s team u v hteam hst hv =>
    State.launch_outcome hteam hst hv⟩
  obtain ⟨t, u, rfl, h⟩ := State.placed_outcome (k := k) (g := g) hplace
  exact ⟨_, u, exec_placement_node hcands hteam hreplay hgraph hrec hplace, h⟩

end Sys2Proof.Machine
end

section
/-! PROOFS. Teams end (O44). -/

namespace Sys2Proof.Machine

/-! ### What winding up a team leaves -/

/-- Where a team comes from, and how it stands. -/
def Team.stand (u : Team) : Nat × Nat × TeamSt := (u.slot, u.node, u.st)
/-- Memory, slots, reports and service requests are as they were, and a team that is still listed stands as it stood. -/
structure State.Winds (s t : State) : Prop where
  mem : t.mem = s.mem
  slots : t.slots = s.slots
  reports : t.flogReports = s.flogReports
  svcq : t.svcq = s.svcq
  teams : ∀ k, t.teams.find k = none ∨ (t.teams.find k).map Team.stand = (s.teams.find k).map Team.stand

/-- What is on its way over a link arrives. -/
def State.arrivesNow (s : State) (e : Nat × Instr) : State :=
  match e.2 with
  | .queueEntryArrive k d => s.entryArrives k d
  | .creditReturn k d => s.creditReturns k d
  | .levellingDemandArrive m => s.demandArrives m
  | _ => s
theorem State.settleCore_eq (s : State) (c : Nat) : s.settleCore c = (s.agenda.filter (fun e => isQueueEvent c e.2)).foldl State.arrivesNow
    { s with agenda := s.agenda.filter (fun e => !isQueueEvent c e.2) } := rfl

namespace State.Winds
variable {r s t : State}

theorem refl (s : State) : s.Winds s := ⟨rfl, rfl, rfl, rfl, fun _ => .inr rfl⟩
theorem trans (h : r.Winds s) (h' : s.Winds t) : r.Winds t := by
  refine ⟨h'.mem.trans h.mem, h'.slots.trans h.slots, h'.reports.trans h.reports, h'.svcq.trans h.svcq, fun k => ?_⟩
  obtain hnone | hsame := h'.teams k
  · exact .inl hnone
  · obtain hnone | hsame' := h.teams k
    · rw [hnone, Option.map_none, Option.map_eq_none_iff] at hsame
      exact .inl hsame
    · exact .inr (hsame.trans hsame')
/-- A team once gone stays gone. -/
theorem gone (h : s.Winds t) {k : Nat} (hk : s.teams.find k = none) : t.teams.find k = none := by
  obtain hnone | hsame := h.teams k
  · exact hnone
  · rw [hk, Option.map_none, Option.map_eq_none_iff] at hsame
    exact hsame
theorem of_eq (hmem : t.mem = s.mem) (hslots : t.slots = s.slots) (hreports : t.flogReports = s.flogReports) (hsvcq : t.svcq = s.svcq)
    (hteams : t.teams = s.teams) : s.Winds t := ⟨hmem, hslots, hreports, hsvcq, fun k => .inr (by rw [hteams])⟩
theorem of_rest (h : t.rest = s.rest) : s.Winds t :=
  of_eq ((congrArg State.mem h :)) ((congrArg State.slots h :)) ((congrArg State.flogReports h :)) ((congrArg State.svcq h :)) ((congrArg State.teams h :))
theorem of_unsent (h : t.unsent = s.unsent) : s.Winds t := of_rest (State.rest_of_unsent s h)
theorem mapTeams (s : State) {f : Nat → Team → Team} (hf : ∀ k u, (f k u).stand = u.stand) : s.Winds { s with teams := s.teams.mapAll f } := by
  refine ⟨rfl, rfl, rfl, rfl, fun k => .inr ?_⟩
  rw [Table.find_mapAll, Option.map_map]
  cases s.teams.find k with
  | none => rfl
  | some u => exact congrArg some (hf k u)
theorem foldl {α : Type} (l : List α) {f : State → α → State} (hf : ∀ (s : State) a, s.Winds (f s a)) (s : State) : s.Winds (l.foldl f s) :=
  List.foldlRecOn l f (refl s) (fun r hr a _ => hr.trans (hf r a))
theorem ite {c : Prop} [Decidable c] {u : State} (h : s.Winds t) (h' : s.Winds u) : s.Winds (if c then t else u) := by
  split
  · exact h
  · exact h'

theorem modTeam (s : State) (k : Nat) {f : Team → Team} (hf : ∀ u, (f u).stand = u.stand) : s.Winds (s.modTeam k f) := by
  unfold State.modTeam
  split
  next u hu =>
    refine ⟨rfl, rfl, rfl, rfl, fun j => .inr ?_⟩
    by_cases hj : j = k
    · subst hj
      rw [hu]
      exact (congrArg (Option.map Team.stand) (Table.find_set_self _ _ _)).trans (congrArg some (hf u))
    · exact congrArg (Option.map Team.stand) (Table.find_set_other _ hj _)
  next => exact refl s
theorem modSide (s : State) (c k : Nat) (f : Core → Core) : s.Winds (s.modSide c k f) := by
  unfold State.modSide
  split
  · split
    · exact modTeam s _ (fun _ => rfl)
    · exact of_unsent rfl
  · exact of_unsent rfl
theorem mapSides (s : State) (k : Nat) (f : Team → Core → Core) : s.Winds (s.mapSides k f) := by
  have hsaved : ∀ r : State, r.Winds { r with teams := r.teams.mapAll (fun _ (u : Team) =>
      { u with savedCore := u.savedCore.map (fun x => if x.1 = k then (k, f u x.2) else x) }) } :=
    fun r => mapTeams r (fun _ _ => rfl)
  refine trans ?_ (hsaved _)
  split
  · exact ite (refl s) (of_unsent rfl)
  · exact refl s
theorem sched (s : State) (n : Nat) (i : Instr) : s.Winds (s.sched n i) := of_unsent rfl
theorem schedSoon (s : State) (n : Nat) (i : Instr) : s.Winds (s.schedSoon n i) := of_unsent (s.schedSoon_unsent n i)
theorem modRouter (s : State) (c : Nat) (f : Router → Router) : s.Winds (s.modRouter c f) := of_eq rfl rfl rfl rfl rfl
theorem schedOnce (s : State) (n : Nat) (i : Instr) : s.Winds (s.schedOnce n i) := of_unsent (s.schedOnce_unsent n i)
theorem demand (s : State) (c n key : Nat) (v : Option Nat) : s.Winds (s.demand c n key v) := by
  unfold State.demand State.reweigh
  exact of_eq rfl rfl rfl rfl rfl
theorem complete (s : State) (c n tok : Nat) (v : Word) : s.Winds (s.complete c n tok v) := by
  unfold State.complete
  dsimp only
  split
  · exact of_eq rfl rfl rfl rfl rfl
  · refine mapTeams s (fun k u => ?_)
    split <;> rfl

/-! #### Engines -/

theorem setEng (s : State) (l : Nat) (e : Engine) : s.Winds (s.setEng l e) := of_rest rfl
theorem modEng (s : State) (l : Nat) (f : Engine → Engine) : s.Winds (s.modEng l f) := of_rest rfl
theorem modEnd (s : State) (l : Nat) (far : Bool) (f : EEnd → EEnd) : s.Winds (s.modEnd l far f) := of_rest rfl
theorem modDie (s : State) (d : Nat) (f : Die → Die) : s.Winds (s.modDie d f) := of_rest rfl
theorem post (s : State) (l : Nat) (far : Bool) (code : FCode) (why : Nat) : s.Winds (s.post l far code why) := of_rest rfl
theorem offerLease (s : State) (d : Nat) : s.Winds (s.offerLease d) := of_unsent (s.offerLease_unsent d)
theorem returnToken (s : State) (l : Nat) : s.Winds (s.returnToken l) := by
  unfold State.returnToken
  exact ite (trans (trans (modEng s l _) (modDie _ _ _)) (offerLease _ _)) (modEng s l _)
theorem giveUp (s : State) (l : Nat) : s.Winds (s.giveUp l) := by
  refine trans ?_ (returnToken _ l)
  unfold State.cancelLease
  split
  · exact ite (complete _ _ _ _ _) (refl s)
  · exact refl s
theorem settle (s : State) (l : Nat) : s.Winds (s.settle l) := by
  unfold State.settle
  dsimp only
  have hend : ∀ (r : State) (c d : Prop) [Decidable c] [Decidable d],
      r.Winds (if d then (if c then r else r.offerHeld l).giveUp l else (if c then r else r.offerHeld l)) := by
    intro r c d _ _
    have hheld : r.Winds (if c then r else r.offerHeld l) := ite (refl r) (of_unsent (State.offerHeld_unsent r l))
    exact ite (hheld.trans (giveUp _ l)) hheld
  exact ite (refl s) (trans (setEng s l _) (hend _ _ _))
theorem writeOpen (s : State) (l : Nat) (far : Bool) : s.Winds (s.writeOpen l far) := by
  unfold State.writeOpen
  dsimp only
  split
  · exact refl s
  · exact (complete _ _ _ _ _).trans (modEnd _ _ _ _)
theorem closeEnd (s : State) (l : Nat) (far : Bool) : s.Winds (s.closeEnd l far) := by
  unfold State.closeEnd
  exact (((modEnd s l far _).trans (modEng _ l _)).trans (writeOpen _ l far)).trans (settle _ l)
theorem breakRzv (s : State) (l : Nat) (far : Bool) : s.Winds (s.breakRzv l far) := by
  unfold State.breakRzv
  exact (ite ((setEng s l _).trans (post _ _ _ _ _)) (setEng s l _)).trans (modEng _ l _)
theorem dropEnd (s : State) (team l : Nat) (far : Bool) : s.Winds (s.dropEnd team l far) := by
  unfold State.dropEnd
  dsimp only
  refine trans ?_ (modEnd _ l far _)
  refine trans (s := if ((s.eng l).end_ far).heldOpen.elim false (fun h => h.ctx / 16 == team) then
      s.setEng l ((((s.eng l).end_ far).heldOpen.elim (s.eng l) (fun h => h.feeds.foldl (fun (e : Engine) (f : Feed) => e.numDone f.num) (s.eng l))).modEnd far
        (fun x => { x with heldOpen := none }))
    else s) (ite (setEng _ _ _) (refl _)) ?_
  generalize (if ((s.eng l).end_ far).heldOpen.elim false (fun h => h.ctx / 16 == team) then
      s.setEng l ((((s.eng l).end_ far).heldOpen.elim (s.eng l) (fun h => h.feeds.foldl (fun (e : Engine) (f : Feed) => e.numDone f.num) (s.eng l))).modEnd far
        (fun x => { x with heldOpen := none }))
    else s) = r
  refine ite (trans (modEnd r l far (fun x => { x with tok := none })) ?_) (refl r)
  split
  · exact (setEng _ l _).trans (closeEnd _ l far)
  · exact (setEng _ l _).trans (closeEnd _ l far)
  · exact (setEng _ l _).trans (closeEnd _ l far)
  · exact (breakRzv _ l far).trans (closeEnd _ l far)
  · exact (breakRzv _ l far).trans (closeEnd _ l far)
  · exact (breakRzv _ l far).trans (closeEnd _ l far)
  · exact (breakRzv _ l far).trans (closeEnd _ l far)
  · exact (ite ((setEng _ l _).trans (post _ _ _ _ _)) (setEng _ l _)).trans (closeEnd _ l far)
  · exact closeEnd _ l far
  · exact closeEnd _ l far
/-- A team's lease requests go. -/
theorem unqueue (s : State) (team : Nat) : s.Winds { s with dies := s.dies.mapAll (fun _ (d : Die) =>
    { d with fifos := d.fifos.mapAll (fun _ q => q.filter (fun (r : LeaseReq) => r.team != team)) }) } := of_rest rfl
theorem dropEngines (s : State) (team : Nat) : s.Winds (s.dropEngines team) := by
  have hends := foldl (s.engines.cells.map (·.1)) (f := fun (s : State) l => (s.dropEnd team l false).dropEnd team l true)
    (fun r l => (dropEnd r team l false).trans (dropEnd _ team l true)) s
  have hgone := hends.trans (unqueue _ team)
  have hleases := hgone.trans (foldl (s.engines.cells.map (·.1)) (f := fun (s : State) l =>
      let e := s.eng l
      if e.lease.elim false (fun z => z.team == team) then
        (if e.st = EState.suspended ∧ e.savedBy ≠ some team then s.modEng l (fun e => { e with lease := none }) else s.returnToken l)
      else if e.st = EState.suspended ∧ e.savedBy = some team then s.returnToken l
      else s)
    (fun r l => ite (ite (modEng r l _) (returnToken r l)) (ite (returnToken r l) (refl r))) _)
  exact hleases.trans (foldl (List.range 4) (f := fun (s : State) d => s.offerLease d) (fun r d => offerLease r d) _)

/-! #### Cores -/

theorem settleCore (s : State) (c : Nat) : s.Winds (s.settleCore c) := by
  rw [State.settleCore_eq]
  refine trans (of_unsent rfl : s.Winds { s with agenda := s.agenda.filter (fun e => !isQueueEvent c e.2) }) (foldl _ (fun r e => ?_) _)
  unfold State.arrivesNow
  split
  · exact modSide _ _ _ _
  · exact modSide _ _ _ _
  · exact demand _ _ _ _ _
  · exact refl r
theorem dropEvents (s : State) (c : Nat) : s.Winds (s.dropEvents c) := (settleCore s c).trans (of_unsent rfl)
theorem dropLink (s : State) (k : Nat) (d : Dir) : s.Winds (s.dropLink k d) := of_unsent rfl
theorem unlinkNeighbours (s : State) (u : Team) (c : Nat) : s.Winds (s.unlinkNeighbours u c) := by
  refine foldl allDirs (fun r d => ?_) s
  exact ite (refl r) (trans (dropLink r (neighbour c d) (dirOpp d)) (mapSides _ _ _))
theorem enterChan (s : State) (c key delay : Nat) (p : Pkt) : s.Winds (s.enterChan c key delay p) := by
  unfold State.enterChan
  dsimp only
  have hqueued := modRouter s c (fun r => { r with
    chans := r.chans.set key { r.chan key with q := (r.chan key).q ++ [{ p with wait := 0, at_ := s.now + delay }] } })
  split
  · exact hqueued.trans (schedSoon _ _ _)
  · exact hqueued
theorem sendPkt (s : State) (cls : PktClass) (src dst ctx tok n : Nat) (b : PktBody) : s.Winds (s.sendPkt cls src dst ctx tok n b) := by
  unfold State.sendPkt State.enterRouter
  exact ite (enterChan _ _ _ _ _) (of_eq rfl rfl rfl rfl rfl)
theorem ackTo (s : State) (c src ctx tok : Nat) : s.Winds (s.ackTo c src ctx tok) := sendPkt s .sync c src ctx tok 0 .ack
theorem dropWaiting (s : State) (u : Team) (c : Nat) : s.Winds (s.dropWaiting u c) := by
  refine foldl _ (fun r p => ?_) s
  exact trans (sched r (ackCycles p.src c) (.faultLogEntry p.src p.ctx ⟨.teamBounds, 6, apertureAddr c p.off, 0⟩)) (ackTo _ c p.src p.ctx p.tok)
/-- A core is idle. -/
theorem idleCore (s : State) (c : Nat) : s.Winds (({ s with cores := s.cores.set c Core.idle } : State).clearCtxs c) := of_eq rfl rfl rfl rfl rfl
/-- A team is gone. -/
theorem eraseTeam (s : State) (team : Nat) : s.Winds { s with teams := s.teams.erase team } := by
  refine ⟨rfl, rfl, rfl, rfl, fun k => ?_⟩
  by_cases hk : k = team
  · subst hk
    exact .inl (Table.find_erase_self _ _)
  · exact .inr (congrArg (Option.map Team.stand) (Table.find_erase_other _ hk))
/-- A team's cores are free, and it is gone. -/
theorem freeCores (s : State) (team : Nat) (u : Team) : s.Winds (s.freeCores team u) := by
  have hlinks := foldl u.cores (f := fun (s : State) c => s.unlinkNeighbours u c) (fun r c => unlinkNeighbours r u c) s
  have hcores := hlinks.trans (foldl u.cores (f := fun (s : State) c =>
      let s := s.dropWaiting u c
      if (s.core c).team = some team then ((({ s with cores := s.cores.set c Core.idle }).clearCtxs c).dropEvents c) else s)
    (fun r c => (dropWaiting r u c).trans (ite ((idleCore _ c).trans (dropEvents _ c)) (refl _))) _)
  exact hcores.trans (eraseTeam _ team)

end State.Winds

theorem State.freeCores_gone (s : State) (team : Nat) (u : Team) : (s.freeCores team u).teams.find team = none := Table.find_erase_self _ _

/-! ### The next nodes of a replay -/

/-- Nodes of a replay that are not to launch any more. -/
def NodeSt.launched (n : NodeSt) : Prop := n ≠ .waiting ∧ ∀ q, n ≠ .ready q

section
variable {s : State} {k : Nat}

theorem Graph.nodeStarts_launched (g : Graph) (now : Nat) {nodes : List NodeSt} {j : Nat} (h : nodes.getD j .dropped ≠ .waiting) :
    g.nodeStarts now nodes j = nodes.getD j .dropped := by
  unfold Graph.nodeStarts
  split
  next hw => exact absurd hw h
  next => rfl
theorem Graph.map_nodeStarts (g : Graph) (now : Nat) (nodes : List NodeSt) {j : Nat} (hj : j < nodes.length) (d : NodeSt) :
    ((List.range nodes.length).map (g.nodeStarts now nodes)).getD j d = g.nodeStarts now nodes j := by
  simp [hj]
/-- An event that enters the agenda is the one scheduled. -/
theorem mem_of_mem_insertEv {n : Nat} {i : Instr} {l : List (Nat × Instr)} {e : Nat × Instr} (h : e ∈ insertEv n i l) : e = (n, i) ∨ e ∈ l := by
  induction l with
  | nil => exact .inl (List.mem_singleton.1 h)
  | cons c cs ih =>
    unfold insertEv at h
    split at h
    · exact List.mem_cons.1 h
    · obtain rfl | htail := List.mem_cons.1 h
      · exact .inr List.mem_cons_self
      · exact (ih htail).imp_right (List.mem_cons_of_mem c)
theorem State.mem_of_mem_schedOnce {n : Nat} {i : Instr} {e : Nat × Instr} (h : e ∈ (s.schedOnce n i).agenda) : e.2 = i ∨ e ∈ s.agenda := by
  unfold State.schedOnce at h
  split at h
  · exact .inr h
  · exact (mem_of_mem_insertEv h).imp_left (fun he => congrArg Prod.snd he)

/-- A replay whose nodes have ended ends, and else goes on: nodes whose producers have ended are ready. -/
def State.replayEnds (s : State) (k : Nat) (rp : Replay) : State :=
  s.modSlot k (fun x => { x with replay := none, done := (x.done + 1) % 2 ^ 32, err := if rp.err = 0 then x.err else rp.err })
def State.replayGoesOn (s : State) (k : Nat) (g : Graph) (rp : Replay) : State :=
  s.modSlot k (fun x => { x with replay := some { rp with nodes := (List.range rp.nodes.length).map (g.nodeStarts s.now rp.nodes) } })
theorem State.advanceReplay_eq {rp : Replay} {g : Graph} (hreplay : (s.slot k).replay = some rp) (hgraph : (s.slot k).graph = some g) :
    s.advanceReplay k = if ((List.range rp.nodes.length).map (g.nodeStarts s.now rp.nodes)).all (fun n => n == .completed || n == .dropped) then
        (if ((s.replayEnds k rp).slot k).kicks.isEmpty then s.replayEnds k rp else (s.replayEnds k rp).schedOnce 0 (.replayBegin k)).schedOnce 0 .placement
      else (s.replayGoesOn k g rp).schedOnce 0 .placement := by
  unfold State.advanceReplay
  rw [hreplay, hgraph]
  rfl
theorem State.advanceReplay_still (h : (s.slot k).replay = none ∨ (s.slot k).graph = none) : s.advanceReplay k = s := by
  unfold State.advanceReplay
  obtain h | h := h
  · rw [h]
  · rw [h]
    split
    next => rename_i heq; cases heq
    next => rfl
/-- An advance ends the replay or lets it go on, and else schedules its next kick or a placement. -/
theorem State.advanceReplay_spec (s : State) (k : Nat) : (∃ t, s.advanceReplay k = { t with agenda := (s.advanceReplay k).agenda }
      ∧ (t = s ∧ ((s.slot k).replay = none ∨ (s.slot k).graph = none)
        ∨ ∃ rp g, (s.slot k).replay = some rp ∧ (s.slot k).graph = some g ∧ (t = s.replayEnds k rp ∨ t = s.replayGoesOn k g rp)))
    ∧ ∀ e ∈ (s.advanceReplay k).agenda, e ∈ s.agenda ∨ e.2 = .replayBegin k ∨ e.2 = .placement := by
  cases hreplay : (s.slot k).replay with
  | none =>
    rw [State.advanceReplay_still (.inl hreplay)]
    exact ⟨⟨s, rfl, .inl ⟨rfl, .inl rfl⟩⟩, fun e he => .inl he⟩
  | some rp =>
    cases hgraph : (s.slot k).graph with
    | none =>
      rw [State.advanceReplay_still (.inr hgraph)]
      exact ⟨⟨s, rfl, .inl ⟨rfl, .inr rfl⟩⟩, fun e he => .inl he⟩
    | some g =>
      rw [State.advanceReplay_eq hreplay hgraph]
      split
      · split
        · refine ⟨⟨s.replayEnds k rp, State.schedOnce_frame _ _ _, .inr ⟨rp, g, rfl, rfl, .inl rfl⟩⟩, fun e he => ?_⟩
          exact (State.mem_of_mem_schedOnce he).symm.imp_right .inr
        · refine ⟨⟨s.replayEnds k rp, ?_, .inr ⟨rp, g, rfl, rfl, .inl rfl⟩⟩, fun e he => ?_⟩
          · have hnext := (s.replayEnds k rp).schedOnce_frame 0 (.replayBegin k)
            have hplace := ((s.replayEnds k rp).schedOnce 0 (.replayBegin k)).schedOnce_frame 0 .placement
            generalize (s.replayEnds k rp).schedOnce 0 (.replayBegin k) = t at *
            rw [hplace, hnext]
          · obtain hplace | he := State.mem_of_mem_schedOnce he
            · exact .inr (.inr hplace)
            · exact (State.mem_of_mem_schedOnce he).symm.imp_right .inl
      · refine ⟨⟨s.replayGoesOn k g rp, State.schedOnce_frame _ _ _, .inr ⟨rp, g, rfl, rfl, .inr rfl⟩⟩, fun e he => ?_⟩
        exact (State.mem_of_mem_schedOnce he).symm.imp_right .inr

theorem State.advanceReplay_frame (s : State) (k : Nat) :
    s.advanceReplay k = { s with slots := (s.advanceReplay k).slots, agenda := (s.advanceReplay k).agenda } := by
  obtain ⟨⟨t, hframe, ht⟩, -⟩ := s.advanceReplay_spec k
  obtain ⟨rfl, -⟩ | ⟨rp, g, -, -, rfl | rfl⟩ := ht
  · rw [hframe]
  · rw [hframe]
    rfl
  · rw [hframe]
    rfl
/-- A node of a replay that has been launched stays as it is over an advance. -/
theorem State.advanceReplay_node {rp : Replay} {j : Nat} (hreplay : ((s.advanceReplay k).slot k).replay = some rp) (hj : j < rp.nodes.length)
    {n : NodeSt} (hn : n ≠ .waiting) (hnode : ∀ r, (s.slot k).replay = some r → j < r.nodes.length → ∀ d, r.nodes.getD j d = n) (d : NodeSt) :
    rp.nodes.getD j d = n := by
  obtain ⟨⟨t, hframe, ht⟩, -⟩ := s.advanceReplay_spec k
  have hslot : (s.advanceReplay k).slot k = t.slot k := by
    rw [hframe]
    rfl
  rw [hslot] at hreplay
  obtain ⟨rfl, -⟩ | ⟨r, g, hr, -, rfl | rfl⟩ := ht
  · exact hnode rp hreplay hj d
  · rw [State.replayEnds, State.slot_modSlot_self] at hreplay
    cases hreplay
  · rw [State.replayGoesOn, State.slot_modSlot_self] at hreplay
    obtain rfl := Option.some.inj hreplay
    have hlen : j < r.nodes.length := by simpa using hj
    refine (g.map_nodeStarts s.now r.nodes hlen d).trans ?_
    rw [g.nodeStarts_launched s.now (by rw [hnode r hr hlen]; exact hn), hnode r hr hlen]
/-- A failed replay that launches no node any more ends with its error, or goes on with none. -/
theorem State.advanceReplay_failed {rp : Replay} (hreplay : (s.slot k).replay = some rp) (hgraph : (s.slot k).graph ≠ none) (herr : rp.err = 3)
    (hnodes : ∀ n ∈ rp.nodes, n.launched) :
    (((s.advanceReplay k).slot k).replay = none ∧ ((s.advanceReplay k).slot k).err = 3)
      ∨ ∃ rq, ((s.advanceReplay k).slot k).replay = some rq ∧ rq.err = 3 ∧ ∀ n ∈ rq.nodes, n.launched := by
  obtain ⟨⟨t, hframe, ht⟩, -⟩ := s.advanceReplay_spec k
  have hslot : (s.advanceReplay k).slot k = t.slot k := by
    rw [hframe]
    rfl
  rw [hslot]
  obtain ⟨-, hnone⟩ | ⟨r, g, hr, -, rfl | rfl⟩ := ht
  · rw [hreplay] at hnone
    exact hnone.elim (fun h => by cases h) (fun h => absurd h hgraph)
  · obtain rfl := Option.some.inj (hreplay.symm.trans hr)
    refine .inl ?_
    rw [State.replayEnds, State.slot_modSlot_self, herr]
    exact ⟨rfl, rfl⟩
  · obtain rfl := Option.some.inj (hreplay.symm.trans hr)
    refine .inr ?_
    rw [State.replayGoesOn, State.slot_modSlot_self]
    refine ⟨_, rfl, herr, fun n hn => ?_⟩
    obtain ⟨j, hj, rfl⟩ := List.mem_map.1 hn
    have hj := List.mem_range.1 hj
    have hmem : rp.nodes.getD j .dropped ∈ rp.nodes := by
      rw [List.getD_eq_getElem _ _ hj]
      exact List.getElem_mem hj
    rw [g.nodeStarts_launched s.now (hnodes _ hmem).1]
    exact hnodes _ hmem

end

/-! ### TEAM_COMPLETE -/

section
variable {s : State} {team : Nat} {u : Team}

/-- The nonempty fault logs of a team. -/
def State.teamLogs (s : State) (u : Team) : List (Nat × Nat × Nat × Nat × Nat) :=
  u.cores.flatMap (fun c => (List.range 16).filterMap (fun n =>
    if (s.ctx c n).flogn ≠ 0 then some (u.slot, u.node, c, n, s.logBase c n) else none))
theorem State.mem_teamLogs (s : State) (u : Team) (e : Nat × Nat × Nat × Nat × Nat) : e ∈ s.teamLogs u ↔
    ∃ c ∈ u.cores, ∃ n, n < 16 ∧ (s.ctx c n).flogn ≠ 0 ∧ e = (u.slot, u.node, c, n, s.logBase c n) := by
  simp only [State.teamLogs, List.mem_flatMap, List.mem_filterMap, List.mem_range, Option.ite_none_right_eq_some, Option.some.injEq,
    @eq_comm _ e]
/-- The logs are reported, and the replay fails where there are any. -/
def State.reportLogs (s : State) (u : Team) : State :=
  let t := { s with flogReports := s.flogReports ++ s.teamLogs u }
  if (s.teamLogs u).isEmpty then t else t.modReplay u.slot (fun r => { r with err := if r.err = 3 then 3 else 4 })
theorem State.reportLogs_frame (s : State) (u : Team) :
    s.reportLogs u = { s with flogReports := s.flogReports ++ s.teamLogs u, slots := (s.reportLogs u).slots } := by
  unfold State.reportLogs
  dsimp only
  split <;> rfl
theorem exec_teamComplete (hteam : s.teams.find team = some u) (hdone : s.teamDone team u = true) : exec (.teamComplete team) s
    = .next ((((((s.reportLogs u).dropEngines team).freeCores team u).setNode u.slot u.node .completed).advanceReplay u.slot).schedOnce 0 .placement) := by
  show execTeamComplete team s = _
  unfold execTeamComplete
  rw [hteam]
  exact congrArg Host.Outcome.next (if_neg (by rw [hdone]; decide))
theorem exec_teamComplete_not (hteam : s.teams.find team = some u) (hdone : s.teamDone team u = false) : exec (.teamComplete team) s = .next s := by
  show execTeamComplete team s = _
  unfold execTeamComplete
  rw [hteam]
  exact congrArg Host.Outcome.next (if_pos (by rw [hdone]; decide))
theorem State.setNode_node {rp : Replay} {slot j : Nat} {n : NodeSt} (h : ((s.setNode slot j n).slot slot).replay = some rp)
    (hj : j < rp.nodes.length) (d : NodeSt) : rp.nodes.getD j d = n := by
  rw [State.setNode, State.modReplay, State.slot_modSlot_self] at h
  obtain ⟨r, -, rfl⟩ := Option.map_eq_some_iff.1 h
  have hlen : j < r.nodes.length := by
    rw [← length_setAt r.nodes j n]
    exact hj
  exact (getD_setAt r.nodes hlen j n d).trans (if_pos rfl)
theorem State.complete_outcome_team (hteam : s.teams.find team = some u) (hdone : s.teamDone team u = true) :
    ∃ t, exec (.teamComplete team) s = .next t ∧ t.teams.find team = none ∧ t.mem = s.mem
      ∧ (∀ e, e ∈ t.flogReports ↔ e ∈ s.flogReports ∨
          ∃ c ∈ u.cores, ∃ n, n < 16 ∧ (s.ctx c n).flogn ≠ 0 ∧ e = (u.slot, u.node, c, n, s.logBase c n))
      ∧ (∀ rp, (t.slot u.slot).replay = some rp → u.node < rp.nodes.length → rp.nodes.getD u.node .waiting = .completed) := by
  have hwind := ((State.Winds.dropEngines (s.reportLogs u) team).trans (State.Winds.freeCores _ team u))
  have hgone := ((s.reportLogs u).dropEngines team).freeCores_gone team u
  have hlogs := s.reportLogs_frame u
  refine ⟨_, exec_teamComplete hteam hdone, ?_⟩
  generalize ((s.reportLogs u).dropEngines team).freeCores team u = v at *
  have hmem : v.mem = s.mem := hwind.mem.trans (by rw [hlogs])
  have hreports : v.flogReports = s.flogReports ++ s.teamLogs u := hwind.reports.trans (by rw [hlogs])
  have hadvance := (v.setNode u.slot u.node .completed).advanceReplay_frame u.slot
  have hplace := ((v.setNode u.slot u.node .completed).advanceReplay u.slot).schedOnce_frame 0 .placement
  refine ⟨?_, ?_, fun e => ?_, fun rp hrp hnode => ?_⟩
  · rw [hplace, hadvance]
    exact hgone
  · rw [hplace, hadvance]
    exact hmem
  · rw [hplace, hadvance, ← s.mem_teamLogs u e]
    show e ∈ v.flogReports ↔ _
    rw [hreports, List.mem_append]
  · rw [State.schedOnce_slot] at hrp
    exact State.advanceReplay_node hrp hnode (by simp) (fun r hr hlen d => State.setNode_node hr hlen d) _

end

/-! ### TEAM_TEARDOWN -/

/-- Words whose holder has gone are granted again. -/
theorem State.Winds.regrant (s : State) (l : List (Nat × HoldQ)) :
    s.Winds (l.foldl (fun (s : State) h => if h.2.core = noHolder then s.schedOnce 0 (.holdGrant (8 * h.1)) else s) s) :=
  State.Winds.foldl l (f := fun (s : State) h => if h.2.core = noHolder then s.schedOnce 0 (.holdGrant (8 * h.1)) else s)
    (fun r _ => State.Winds.ite (State.Winds.schedOnce r _ _) (State.Winds.refl r)) s
theorem State.Winds.dropHolds (s : State) (c : Nat) : s.Winds (s.dropHolds c) := by
  unfold State.dropHolds
  refine State.Winds.trans ?_ (State.Winds.regrant _ _)
  exact State.Winds.of_eq rfl rfl rfl rfl rfl
theorem State.Winds.dropSavedHolds (s : State) (u : Team) : s.Winds (s.dropSavedHolds u) := by
  unfold State.dropSavedHolds
  refine State.Winds.trans ?_ (State.Winds.regrant _ _)
  exact State.Winds.of_eq rfl rfl rfl rfl rfl

section
variable (s : State) (team : Nat) (u : Team)

/-- A service request of a team's node. -/
def Team.owns (u : Team) (r : SvcReq) : Bool := r.slot == u.slot && r.node == u.node
/-- Its service requests go. -/
def State.disowned : State :=
  { s with
    svcq := s.svcq.filter (fun r => !u.owns r)
    svcHeld := s.svcHeld.filter (fun r => !u.owns r.1)
    stewards := s.stewards.mapAll (fun _ (k : Steward) => { k with popped := if k.popped.elim false u.owns then none else k.popped }) }
/-- What a team holds is released, its engines and cores are free, and it is gone. -/
def State.tornDown : State :=
  ((((u.cores.filter (fun c => (s.core c).team == some team)).foldl (fun (s : State) c => s.dropHolds c) (s.disowned u)).dropSavedHolds u).dropEngines
    team).freeCores team u
/-- Teams of the slot that are placed and have not started; they go. -/
def State.early (slot : Nat) : List (Nat × Team) := s.teams.cells.filter (fun t => t.2.slot == slot && t.2.st == .placed)
def State.dropTeams (l : List (Nat × Team)) : State := l.foldl (fun (s : State) t => (s.dropEngines t.1).freeCores t.1 t.2) s
/-- The replay fails with err 3, and no node of it launches any more. -/
def Replay.failed (early : List (Nat × Team)) (node : Nat) (r : Replay) : Replay :=
  { r with
    err := 3
    nodes := (setAt r.nodes node NodeSt.completed).map (fun n => match n with
      | .waiting | .ready _ => .dropped
      | .placed t => if early.any (fun e => e.1 == t) then .dropped else n
      | x => x) }
theorem Replay.failed_launched (early : List (Nat × Team)) (node : Nat) (r : Replay) : ∀ n ∈ (r.failed early node).nodes, n.launched := by
  intro n hn
  obtain ⟨m, -, rfl⟩ := List.mem_map.1 hn
  cases m with
  | waiting => exact ⟨by simp, by simp⟩
  | ready q => exact ⟨by simp, by simp⟩
  | placed t =>
    dsimp only
    split <;> exact ⟨by simp, by simp⟩
  | triggered t => exact ⟨by simp, by simp⟩
  | completed => exact ⟨by simp, by simp⟩
  | dropped => exact ⟨by simp, by simp⟩

theorem State.Winds.tornDown : (s.disowned u).Winds (s.tornDown team u) :=
  (((State.Winds.foldl _ (fun r c => State.Winds.dropHolds r c) (s.disowned u)).trans (State.Winds.dropSavedHolds _ u)).trans
    (State.Winds.dropEngines _ team)).trans (State.Winds.freeCores _ team u)
theorem State.Winds.dropTeams (l : List (Nat × Team)) : s.Winds (s.dropTeams l) :=
  State.Winds.foldl l (fun r t => (State.Winds.dropEngines r t.1).trans (State.Winds.freeCores _ t.1 t.2)) s
/-- Every team of the list is gone. -/
theorem State.dropTeams_gone (l : List (Nat × Team)) {e : Nat × Team} (he : e ∈ l) : (s.dropTeams l).teams.find e.1 = none := by
  induction l generalizing s with
  | nil => exact absurd he List.not_mem_nil
  | cons a l ih =>
    obtain rfl | htail := List.mem_cons.1 he
    · exact (State.Winds.dropTeams ((s.dropEngines e.1).freeCores e.1 e.2) l).gone (State.freeCores_gone _ e.1 e.2)
    · exact ih _ htail
theorem Table.mem_of_findIn {α : Type} {k : Nat} {v : α} {l : List (Nat × α)} (h : Table.findIn k l = some v) : (k, v) ∈ l := by
  induction l with
  | nil => cases h
  | cons c cs ih =>
    unfold Table.findIn at h
    split at h
    next hk =>
      obtain rfl := Option.some.inj h
      obtain rfl := hk
      exact List.mem_cons_self
    next => exact List.mem_cons_of_mem c (ih h)

end

section
variable {s : State} {team : Nat} {u : Team}

/-- The replay of a team torn down fails. -/
def State.failsReplay (s : State) (early : List (Nat × Team)) (team : Nat) (u : Team) : State :=
  let s := s.modReplay u.slot (Replay.failed early u.node)
  { s with agenda := s.agenda.filter (fun e => e.2 != Instr.resume team) }
theorem exec_teamTeardown (hteam : s.teams.find team = some u) (hst : u.st = .halted ∨ u.st = .suspended) : exec (.teamTeardown team) s
    = .next (((((s.tornDown team u).dropTeams ((s.tornDown team u).early u.slot)).failsReplay ((s.tornDown team u).early u.slot) team u).advanceReplay
      u.slot).schedOnce 0 .placement) := by
  have hnot : ¬ (u.st ≠ .halted ∧ u.st ≠ .suspended) := fun h => hst.elim h.1 h.2
  show execTeamTeardown team s = _
  unfold execTeamTeardown
  rw [hteam]
  exact congrArg Host.Outcome.next (if_neg hnot)
/-- Where placed teams of the slot stood, none is listed. -/
theorem State.early_gone {v : State} (hwind : s.Winds v) {k : Nat} {w : Team} (hk : s.teams.find k = some w) (hslot : w.slot = u.slot)
    (hst : w.st = .placed) : (v.dropTeams (v.early u.slot)).teams.find k = none := by
  cases hv : v.teams.find k with
  | none => exact (State.Winds.dropTeams v _).gone hv
  | some w' =>
    have hsame := hwind.teams k
    rw [hv, hk] at hsame
    obtain hno | hsame := hsame
    · cases hno
    · have hstand : w'.stand = w.stand := by simpa using hsame
      have hslot' : w'.slot = u.slot := (congrArg Prod.fst hstand).trans hslot
      have hst' : w'.st = .placed := (congrArg (fun x => x.2.2) hstand).trans hst
      refine State.dropTeams_gone v _ (e := (k, w')) (List.mem_filter.2 ⟨Table.mem_of_findIn hv, ?_⟩)
      simp [hslot', hst']
theorem State.teardown_outcome (hteam : s.teams.find team = some u) (hst : u.st = .halted ∨ u.st = .suspended) :
    ∃ t, exec (.teamTeardown team) s = .next t ∧ t.teams.find team = none ∧ t.mem = s.mem
      ∧ (∀ r ∈ t.svcq, ¬ (r.slot = u.slot ∧ r.node = u.node))
      ∧ (∀ rp, (s.slot u.slot).replay = some rp → (s.slot u.slot).graph ≠ none →
          ((t.slot u.slot).replay = none ∧ (t.slot u.slot).err = 3)
          ∨ ∃ rq, (t.slot u.slot).replay = some rq ∧ rq.err = 3 ∧ ∀ n ∈ rq.nodes, n ≠ .waiting ∧ ∀ q, n ≠ .ready q)
      ∧ (∀ k v, s.teams.find k = some v → v.slot = u.slot → v.st = .placed → t.teams.find k = none)
      ∧ (Instr.resume team) ∉ t.agenda.map (·.2) := by
  have hwind := State.Winds.tornDown s team u
  have hgone : (s.tornDown team u).teams.find team = none := State.freeCores_gone _ team u
  refine ⟨_, exec_teamTeardown hteam hst, ?_⟩
  generalize s.tornDown team u = v at *
  have hearly : ∀ k w, s.teams.find k = some w → w.slot = u.slot → w.st = .placed → (v.dropTeams (v.early u.slot)).teams.find k = none :=
    fun k w => State.early_gone (s := s.disowned u) hwind
  generalize v.early u.slot = early at *
  have hall := hwind.trans (State.Winds.dropTeams v early)
  have hnone := (State.Winds.dropTeams v early).gone hgone
  generalize v.dropTeams early = w at *
  have hadvance := (w.failsReplay early team u).advanceReplay_frame u.slot
  have hplace := ((w.failsReplay early team u).advanceReplay u.slot).schedOnce_frame 0 .placement
  refine ⟨?_, ?_, fun r hr => ?_, fun rp hrp hgraph => ?_, fun k x hk hslot hx => ?_, fun hresume => ?_⟩
  · rw [hplace, hadvance]
    exact hnone
  · rw [hplace, hadvance]
    exact hall.mem
  · rw [hplace, hadvance] at hr
    have hsvcq : r ∈ (s.disowned u).svcq := hall.svcq ▸ hr
    obtain ⟨-, hown⟩ := List.mem_filter.1 hsvcq
    rintro ⟨hslot, hnode⟩
    rw [Team.owns, hslot, hnode] at hown
    simp at hown
  · have hsame : w.slot u.slot = s.slot u.slot := by
      rw [State.slot, hall.slots]
      rfl
    have hslot : (w.failsReplay early team u).slot u.slot
        = { s.slot u.slot with replay := some (rp.failed early u.node) } := by
      have hmod := State.slot_modSlot_self w u.slot (fun x => { x with replay := x.replay.map (Replay.failed early u.node) })
      rw [hsame, hrp] at hmod
      exact hmod
    rw [State.schedOnce_slot]
    exact State.advanceReplay_failed (by rw [hslot]) (by rw [hslot]; exact hgraph) rfl (rp.failed_launched early u.node)
  · rw [hplace, hadvance]
    exact hearly k x hk hslot hx
  · obtain ⟨e, he, hinstr⟩ := List.mem_map.1 hresume
    obtain hno | he := State.mem_of_mem_schedOnce he
    · rw [hinstr] at hno
      cases hno
    · obtain he | hno | hno := ((w.failsReplay early team u).advanceReplay_spec u.slot).2 e he
      · obtain ⟨-, hne⟩ := List.mem_filter.1 he
        rw [hinstr] at hne
        simp at hne
      · rw [hinstr] at hno
        cases hno
      · rw [hinstr] at hno
        cases hno

end

/-- Settles O44: what winding up a team leaves. -/
theorem teamsEnd : Obligations.TeamsEnd :=
  fun _ _ _ hteam => ⟨State.complete_outcome_team hteam, exec_teamComplete_not hteam, State.teardown_outcome hteam⟩

end Sys2Proof.Machine
end

section
/-! PROOFS. Pre-emption begins (O45); what a switch-out saves can be written by the reply that ends it (O46). -/

namespace Sys2Proof.Machine

/-! ### The victim -/

/-- A team is pre-empted rather than another, or as soon (R225). -/
def Team.yields (u v : Team) : Prop := u.lr.pri < v.lr.pri ∨ (u.lr.pri = v.lr.pri ∧ v.placedAt ≤ u.placedAt)
theorem Team.yields_refl (u : Team) : u.yields u := .inr ⟨rfl, Nat.le_refl _⟩
theorem Team.yields_trans {u v w : Team} (h : u.yields v) (h' : v.yields w) : u.yields w := by
  unfold Team.yields at *
  omega
/-- The one of two that yields; between equals the second. -/
def yielding (b k : Nat × Team) : Nat × Team :=
  if k.2.lr.pri < b.2.lr.pri ∨ (k.2.lr.pri = b.2.lr.pri ∧ b.2.placedAt ≤ k.2.placedAt) then k else b
theorem yielding_spec (b k : Nat × Team) :
    (yielding b k = b ∨ yielding b k = k) ∧ (yielding b k).2.yields b.2 ∧ (yielding b k).2.yields k.2 := by
  unfold yielding
  split
  next h => exact ⟨.inr rfl, h, Team.yields_refl _⟩
  next h =>
    refine ⟨.inl rfl, Team.yields_refl _, ?_⟩
    unfold Team.yields
    omega
theorem foldl_yielding (ts : List (Nat × Team)) (t : Nat × Team) :
    ts.foldl yielding t ∈ t :: ts ∧ ∀ k ∈ t :: ts, (ts.foldl yielding t).2.yields k.2 := by
  induction ts generalizing t with
  | nil => exact ⟨List.mem_cons_self, fun k hk => by rw [List.mem_singleton.1 hk]; exact Team.yields_refl _⟩
  | cons a ts ih =>
    obtain ⟨hmem, hall⟩ := ih (yielding t a)
    obtain ⟨hone, ht, ha⟩ := yielding_spec t a
    have hfirst := hall _ List.mem_cons_self
    refine ⟨?_, fun k hk => ?_⟩
    · obtain hnew | htail := List.mem_cons.1 hmem
      · rw [List.foldl_cons, hnew]
        obtain h | h := hone
        · rw [h]
          exact List.mem_cons_self
        · rw [h]
          exact List.mem_cons_of_mem _ List.mem_cons_self
      · exact List.mem_cons_of_mem _ (List.mem_cons_of_mem _ htail)
    · obtain rfl | hk := List.mem_cons.1 hk
      · exact Team.yields_trans hfirst ht
      · obtain rfl | hk := List.mem_cons.1 hk
        · exact Team.yields_trans hfirst ha
        · exact hall k (List.mem_cons_of_mem _ hk)

/-- The victim is the team to which every other running one comes after. -/
theorem State.victim_of_first {s : State} {team pri : Nat} {u : Team} (hteam : s.teams.find team = some u) (hst : u.st = .running)
    (hpri : u.lr.pri + 2 ≤ pri)
    (hfirst : ∀ j ∈ s.teams.cells, j.2.st = .running → j.1 = team ∨ u.lr.pri < j.2.lr.pri ∨ (u.lr.pri = j.2.lr.pri ∧ j.2.placedAt < u.placedAt)) :
    s.victim pri = some team := by
  have hmem : (team, u) ∈ s.teams.cells.filter (fun t => t.2.st == .running && t.2.lr.pri + 2 ≤ pri) :=
    List.mem_filter.2 ⟨Table.mem_of_findIn hteam, by simp [hst, hpri]⟩
  unfold State.victim
  split
  next hnil =>
    rw [hnil] at hmem
    exact absurd hmem List.not_mem_nil
  next t ts hcons =>
    rw [hcons] at hmem
    obtain ⟨hin, hall⟩ := foldl_yielding ts t
    have hyields := hall _ hmem
    have hfold : ts.foldl yielding t ∈ s.teams.cells.filter (fun t => t.2.st == .running && t.2.lr.pri + 2 ≤ pri) := by
      rw [hcons]
      exact hin
    obtain ⟨hcell, hruns⟩ := List.mem_filter.1 hfold
    obtain ⟨hruns, -⟩ := Bool.and_eq_true_iff.1 hruns
    refine congrArg some ?_
    obtain h | h := hfirst _ hcell (by simpa using hruns)
    · exact h
    · have hu : (ts.foldl yielding t).2.yields u := hyields
      exfalso
      unfold Team.yields at hu
      omega

section
variable {s : State} {team : Nat} {u : Team}

/-! ### PREEMPT_TRIGGER -/

/-- A switch-out begins at the next rotation boundary. -/
theorem State.beginSwitch_outcome (s : State) (team : Nat) (w : Option (Nat × Nat)) : ∃ due, (s.beginSwitch team w).switch = some ⟨team, 1, s.now, 0, w⟩
    ∧ s.now ≤ due ∧ due < s.now + 16 ∧ due % 16 = 0 ∧ (due, Instr.preemptStopIssue team) ∈ (s.beginSwitch team w).agenda
    ∧ s.beginSwitch team w = { s with switch := (s.beginSwitch team w).switch, agenda := (s.beginSwitch team w).agenda } :=
  ⟨s.now + (16 - s.now % 16) % 16, rfl, by omega, by omega, by omega, State.mem_sched _ _ _, rfl⟩
theorem exec_preemptTrigger_busy (h : s.switch ≠ none) : exec .preemptTrigger s = .next s := by
  show execPreemptTrigger s = _
  unfold execPreemptTrigger
  exact congrArg Host.Outcome.next (if_pos (Option.isSome_iff_ne_none.2 h))
theorem exec_preemptTrigger {k : Cand} {v : Nat} (hswitch : s.switch = none) (hnofit : ∀ c ∈ s.cands, s.tryPlace c = none)
    (hhead : s.cands.head? = some k) (hwait : k.since + s.preemptwait < s.now) (hvictim : s.victim k.pri = some v) :
    exec .preemptTrigger s = .next (s.beginSwitch v none) := by
  have hnone : s.cands.findSome? s.tryPlace = none := List.findSome?_eq_none_iff.2 hnofit
  have hsome : s.cands.findSome? (fun k => if k.since + s.preemptwait < s.now then s.victim k.pri else none) = some v := by
    obtain ⟨ks, hcands⟩ := List.head?_eq_some_iff.1 hhead
    rw [hcands, List.findSome?_cons, if_pos hwait, hvictim]
  show execPreemptTrigger s = _
  unfold execPreemptTrigger
  rw [hswitch, hnone, hsome]
  rfl

/-! ### Parks abandoned -/

theorem Ctx.abandon_abandon (x : Ctx) : x.abandon.abandon = x.abandon := by
  cases hpark : x.park with
  | none => simp [Ctx.abandon, hpark]
  | some p => cases p <;> simp [Ctx.abandon, hpark]
theorem Ctx.abandon_pc (x : Ctx) : x.abandon.pc = x.pc := by
  unfold Ctx.abandon
  split <;> rfl

/-- The contexts of a team. -/
def Team.ctxList (u : Team) : List (Nat × Nat) := u.cores.flatMap (fun c => (List.range 16).map (fun n => (c, n)))
theorem Team.mem_ctxList {c n : Nat} (hc : c ∈ u.cores) (hn : n < 16) : (c, n) ∈ u.ctxList :=
  List.mem_flatMap.2 ⟨c, hc, List.mem_map.2 ⟨n, List.mem_range.2 hn, rfl⟩⟩
def State.abandonAt (s : State) (e : Nat × Nat) : State := if (s.ctxs.find (16 * e.1 + e.2)).isSome then s.modCtx e.1 e.2 Ctx.abandon else s
theorem State.abandonAll_eq (s : State) (u : Team) : s.abandonAll u = u.ctxList.foldl State.abandonAt s := by
  unfold State.abandonAll Team.ctxList
  rw [List.foldl_flatMap]
  simp only [List.foldl_map]
  rfl
theorem State.abandonAt_frame (s : State) (e : Nat × Nat) : s.abandonAt e = { s with ctxs := (s.abandonAt e).ctxs } := by
  unfold State.abandonAt
  split <;> rfl
theorem State.abandonAll_frame (s : State) (u : Team) : s.abandonAll u = { s with ctxs := (s.abandonAll u).ctxs } := by
  rw [State.abandonAll_eq]
  refine List.foldlRecOn (motive := fun t : State => t = { s with ctxs := t.ctxs }) u.ctxList State.abandonAt rfl (fun t ht e _ => ?_)
  rw [t.abandonAt_frame e, ht]
/-- A context as one abandonment leaves it: an unlisted one is idle, and has no park. -/
theorem State.abandonAt_get (s : State) (e : Nat × Nat) (j : Nat) : Table.get Ctx.idle (s.abandonAt e).ctxs j
    = if j = 16 * e.1 + e.2 then (Table.get Ctx.idle s.ctxs j).abandon else Table.get Ctx.idle s.ctxs j := by
  unfold State.abandonAt
  split
  next =>
    refine (Table.get_set _ _ _ _ _).trans ?_
    by_cases hj : j = 16 * e.1 + e.2
    · rw [if_pos hj, if_pos hj, hj]
      rfl
    · rw [if_neg hj, if_neg hj]
  next hnone =>
    split
    next hj =>
      subst hj
      rw [Table.get, Option.not_isSome_iff_eq_none.1 hnone]
      rfl
    next => rfl
theorem State.abandonAll_get (s : State) (l : List (Nat × Nat)) (j : Nat) : Table.get Ctx.idle (l.foldl State.abandonAt s).ctxs j
    = if ∃ e ∈ l, j = 16 * e.1 + e.2 then (Table.get Ctx.idle s.ctxs j).abandon else Table.get Ctx.idle s.ctxs j := by
  induction l generalizing s with
  | nil => simp
  | cons a l ih =>
    rw [List.foldl_cons, ih, State.abandonAt_get]
    simp only [List.exists_mem_cons_iff]
    by_cases ha : j = 16 * a.1 + a.2
    · rw [if_pos ha, if_pos (Or.inl ha : j = 16 * a.1 + a.2 ∨ ∃ e ∈ l, j = 16 * e.1 + e.2), Ctx.abandon_abandon]
      split <;> rfl
    · simp only [ha, false_or, if_false]
/-- The contexts of a team stand without condition parks. -/
theorem State.abandonAll_ctx (s : State) {c n : Nat} (hc : c ∈ u.cores) (hn : n < 16) : (s.abandonAll u).ctx c n = (s.ctx c n).abandon := by
  rw [State.abandonAll_eq]
  refine (s.abandonAll_get u.ctxList (16 * c + n)).trans ?_
  rw [if_pos ⟨(c, n), Team.mem_ctxList hc hn, rfl⟩]
  rfl

/-! ### PREEMPT_STOP_ISSUE -/

theorem State.inStep_of_switchAt {n : Nat} {w : Switch} (h : s.switchAt team n w) (m : Nat) : s.inStep team m = (n == m) := by
  obtain ⟨hswitch, hteam, hstep⟩ := h
  simp [State.inStep, hswitch, hteam, hstep]
/-- Issue of the team stops. -/
def State.stopIssue (s : State) (team : Nat) (u : Team) : State :=
  ((((s.modTeam team (fun u => { u with st := .stopping })).abandonAll u).setStep 2).sched 0 (.preemptHoldGrace team)).sched 1000000
    (.holdGraceExpiry team)
theorem exec_preemptStopIssue {w : Switch} (hteam : s.teams.find team = some u) (hst : u.st = .running) (hw : s.switchAt team 1 w) :
    exec (.preemptStopIssue team) s = .next (s.stopIssue team u) := by
  have hin := State.inStep_of_switchAt hw 1
  show execPreemptStopIssue team s = _
  unfold execPreemptStopIssue
  rw [hteam]
  dsimp only
  rw [hin, if_neg (by decide), if_neg (fun h => h hst)]
  rfl
theorem State.stopIssue_outcome {w : Switch} (hteam : s.teams.find team = some u) (hw : s.switchAt team 1 w) :
    (s.stopIssue team u).teams.find team = some { u with st := .stopping } ∧ s.switchGoes (s.stopIssue team u) w 2
      ∧ (∀ c ∈ u.cores, ∀ n, n < 16 → (s.stopIssue team u).ctx c n = (s.ctx c n).abandon)
      ∧ (s.now, Instr.preemptHoldGrace team) ∈ (s.stopIssue team u).agenda ∧ (s.now + 1000000, Instr.holdGraceExpiry team) ∈ (s.stopIssue team u).agenda
      ∧ s.stopIssue team u = { s with
        teams := (s.stopIssue team u).teams, switch := (s.stopIssue team u).switch, ctxs := (s.stopIssue team u).ctxs
        agenda := (s.stopIssue team u).agenda } := by
  have hmod : s.modTeam team (fun u => { u with st := .stopping }) = { s with teams := s.teams.set team { u with st := .stopping } } := by
    rw [State.modTeam, hteam]
  have hframe := (s.modTeam team (fun u => { u with st := .stopping })).abandonAll_frame u
  have hctx := fun (c : Nat) (hc : c ∈ u.cores) (n : Nat) (hn : n < 16) => (s.modTeam team (fun u => { u with st := .stopping })).abandonAll_ctx hc hn
  unfold State.stopIssue
  generalize (s.modTeam team (fun u => { u with st := .stopping })).abandonAll u = t at *
  rw [hmod] at hframe hctx
  have hnow : t.now = s.now := by rw [hframe]
  have hteams : t.teams = s.teams.set team { u with st := .stopping } := by rw [hframe]
  have hswitch : t.switch = some w := by
    rw [hframe]
    exact hw.1
  refine ⟨?_, ?_, hctx, ?_, ?_, ?_⟩
  · show t.teams.find team = _
    rw [hteams]
    exact Table.find_set_self _ _ _
  · show t.switch.map (fun w => { w with step := 2, since := t.now }) = _
    rw [hswitch, hnow]
    rfl
  · refine State.sched_adds _ _ _ _ ?_
    have hmem := State.mem_sched (t.setStep 2) 0 (.preemptHoldGrace team)
    rw [← hnow]
    exact hmem
  · rw [← hnow]
    exact State.mem_sched ((t.setStep 2).sched 0 (.preemptHoldGrace team)) 1000000 (.holdGraceExpiry team)
  · rw [hframe]
    rfl

/-! ### The hold grace -/

theorem State.mem_holders {c n : Nat} : (c, n) ∈ s.holders u ↔ c ∈ u.cores ∧ n < 16 ∧ (s.ctx c n).held ≠ [] := by
  simp only [State.holders, List.mem_flatMap, List.mem_filterMap, List.mem_range, Option.ite_none_left_eq_some, Option.some.injEq, Prod.mk.injEq,
    List.isEmpty_iff]
  constructor
  · rintro ⟨c', hc, n', hn, hheld, rfl, rfl⟩
    exact ⟨hc, hn, hheld⟩
  · rintro ⟨hc, hn, hheld⟩
    exact ⟨c, hc, n, hn, hheld, rfl, rfl⟩
theorem State.holders_nil (h : ∀ c ∈ u.cores, ∀ n, n < 16 → (s.ctx c n).held = []) : s.holders u = [] := by
  refine List.eq_nil_iff_forall_not_mem.2 (fun e he => ?_)
  obtain ⟨hc, hn, hheld⟩ := State.mem_holders.1 he
  exact hheld (h _ hc _ hn)

variable {w : Switch} (hteam : s.teams.find team = some u) (hw : s.switchAt team 2 w)
include hteam hw

theorem exec_preemptHoldGrace : exec (.preemptHoldGrace team) s = .next (if (s.holders u).isEmpty then s.sched 0 (.preemptDrain team)
    else if 4096 ≤ w.bundles then s.sched 0 (.holdGraceExpiry team) else s) := by
  have hin := State.inStep_of_switchAt hw 2
  show execPreemptHoldGrace team s = _
  unfold execPreemptHoldGrace
  rw [hteam, hw.1]
  dsimp only
  rw [hin, if_neg (by decide)]
  simp
theorem exec_holdGraceExpiry_early (h : w.bundles < 4096) (hnow : s.now < w.since + 1000000) : exec (.holdGraceExpiry team) s = .next s := by
  have hearly : w.team ≠ team ∨ w.step ≠ 2 ∨ (!(decide (4096 ≤ w.bundles) || decide (w.since + 1000000 ≤ s.now))) = true := by
    refine .inr (.inr ?_)
    simp
    omega
  show execHoldGraceExpiry team s = _
  unfold execHoldGraceExpiry
  rw [hteam, hw.1]
  exact congrArg Host.Outcome.next (if_pos hearly)
theorem exec_holdGraceExpiry {c n : Nat} {l : List (Nat × Nat)} (h : 4096 ≤ w.bundles ∨ w.since + 1000000 ≤ s.now) (hholders : s.holders u = (c, n) :: l) :
    ∃ w2, exec (.holdGraceExpiry team) s = .next ((s.haltTeam c n .holdGrace (s.ctx c n).pc w2 (BitVec.ofNat 64 w.bundles)).endSwitch) := by
  obtain ⟨hswitch, hwteam, hstep⟩ := hw
  have hlate : ¬ (w.team ≠ team ∨ w.step ≠ 2 ∨ (!(decide (4096 ≤ w.bundles) || decide (w.since + 1000000 ≤ s.now))) = true) := by
    rintro (hno | hno | hno)
    · exact hno hwteam
    · exact hno hstep
    · simp at hno
      omega
  refine ⟨BitVec.ofNat 64 (((s.ctx c n).held.map (·.va)).foldl Nat.min (((s.ctx c n).held.head?.map (·.va)).getD 0)), ?_⟩
  show execHoldGraceExpiry team s = _
  unfold execHoldGraceExpiry
  rw [hteam, hswitch]
  dsimp only
  rw [if_neg hlate, hholders]

end

/-! ### What the end of a switch-out keeps -/

/-- How every team stands, and why it was halted. -/
def Team.fate (u : Team) : TeamSt × Option Halt := (u.st, u.halt)
def State.Fated (s t : State) : Prop := ∀ k, (t.teams.find k).map Team.fate = (s.teams.find k).map Team.fate

/-- The steward core that asked for the switch-out goes on. -/
def State.answerWaiter (s : State) : State :=
  match s.switch with
  | some w => (match w.waiter with
      | some (k, tok) => s.reply (stewardCore k) 0 tok .done
      | none => s)
  | none => s
theorem State.endSwitch_eq (s : State) : s.endSwitch = ({ s.answerWaiter with switch := none } : State).schedOnce 0 .placement := rfl

namespace State.Fated
variable {r s t : State}

theorem of_eq (h : t.teams = s.teams) : s.Fated t := fun k => by rw [h]
theorem trans (h : r.Fated s) (h' : s.Fated t) : r.Fated t := fun k => (h' k).trans (h k)
theorem mapTeams (s : State) {f : Nat → Team → Team} (hf : ∀ k u, (f k u).fate = u.fate) : s.Fated { s with teams := s.teams.mapAll f } := by
  intro k
  rw [Table.find_mapAll, Option.map_map]
  cases s.teams.find k with
  | none => rfl
  | some u => exact congrArg some (hf k u)
theorem modTeam (s : State) (k : Nat) {f : Team → Team} (hf : ∀ u, (f u).fate = u.fate) : s.Fated (s.modTeam k f) := by
  intro j
  unfold State.modTeam
  split
  next u hu =>
    by_cases hj : j = k
    · subst hj
      rw [hu]
      exact (congrArg (Option.map Team.fate) (Table.find_set_self _ _ _)).trans (congrArg some (hf u))
    · exact congrArg (Option.map Team.fate) (Table.find_set_other _ hj _)
  next => rfl
theorem modSide (s : State) (c k : Nat) (f : Core → Core) : s.Fated (s.modSide c k f) := by
  unfold State.modSide
  split
  · split
    · exact modTeam s _ (fun _ => rfl)
    · exact of_eq rfl
  · exact of_eq rfl
theorem putCtx (s : State) (c n : Nat) (dst : Reg) (v : Word) : s.Fated (s.putCtx c n dst v) := by
  unfold State.putCtx
  dsimp only
  split
  next d =>
    have hmod : s.Fated (s.modCtx c n (fun x => (x.write (.q d) v).shift v)) := of_eq rfl
    exact hmod.trans ((modSide _ c (neighbour c d) _).trans (of_eq rfl))
  next => exact of_eq rfl
theorem complete (s : State) (c n tok : Nat) (v : Word) : s.Fated (s.complete c n tok v) := by
  unfold State.complete
  dsimp only
  split
  · exact of_eq rfl
  · refine mapTeams s (fun k u => ?_)
    split <;> rfl
theorem writeResult (s : State) (c n : Nat) (res : Result) (r : Reply) : s.Fated (s.writeResult c n res r) := by
  cases res with
  | put dst => exact putCtx s c n dst _
  | load dst k signed a fwd => exact putCtx s c n dst _
  | vload v a fwd => exact of_eq rfl
  | hold dst a pa =>
    have hput := putCtx s c n dst (replyVal r)
    have hheld : (s.putCtx c n dst (replyVal r)).Fated ((s.putCtx c n dst (replyVal r)).modCtx c n (fun x => { x with held := x.held ++ [⟨a, pa⟩] })) := of_eq rfl
    exact (hput.trans hheld).trans (of_eq ((congrArg State.teams (State.acquire_unsent _ c (.hw a)) :)))
  | answer dst => exact (putCtx s c n dst (replyVal r)).trans (of_eq rfl)
  | none => exact of_eq rfl
  | generation => exact of_eq rfl
theorem reply_done (s : State) (c n tok : Nat) : s.Fated (s.reply c n tok .done) := by
  unfold State.reply
  dsimp only
  split
  · split
    · exact (writeResult s c n _ .done).trans (of_eq rfl)
    · exact complete s c n tok _
  · exact complete s c n tok _
theorem answerWaiter (s : State) : s.Fated s.answerWaiter := by
  unfold State.answerWaiter
  split
  · split
    · exact reply_done s _ 0 _
    · exact of_eq rfl
  · exact of_eq rfl
theorem endSwitch (s : State) : s.Fated s.endSwitch := by
  rw [State.endSwitch_eq, State.schedOnce_frame]
  exact (answerWaiter s).trans (of_eq rfl)

end State.Fated

theorem State.endSwitch_switch (s : State) : s.endSwitch.switch = none := by
  rw [State.endSwitch_eq, State.schedOnce_frame]

/-- A team that is halted has the report, unless it has one already. -/
theorem State.haltTeam_halts {s : State} {team c n : Nat} {u : Team} (hcore : isSteward c = false) (hteamOf : s.teamOf c = some (team, u))
    (hteam : s.teams.find team = some u) (code : FCode) (w1 w2 w3 : Word) :
    (s.haltTeam c n code w1 w2 w3).teams.find team = some { u with st := .halted, halt := some (u.halt.getD ⟨c, n, code, w1, w2, w3⟩) } := by
  have hmod : s.modTeam team (fun u => { u with st := .halted, halt := some (u.halt.getD ⟨c, n, code, w1, w2, w3⟩) })
      = { s with teams := s.teams.set team { u with st := .halted, halt := some (u.halt.getD ⟨c, n, code, w1, w2, w3⟩) } } := by
    rw [State.modTeam, hteam]
  unfold State.haltTeam
  rw [hcore, if_neg (by decide), hteamOf]
  dsimp only
  rw [hmod]
  have hengines : ∀ (l : List Nat) (t : State), (l.foldl (fun s l => s.modEng l (fun e => { e with stopping := true })) t).teams = t.teams := by
    intro l t
    exact List.foldlRecOn (motive := fun r : State => r.teams = t.teams) l _ rfl (fun r hr _ _ => hr)
  rw [hengines]
  exact Table.find_set_self _ _ _

section
variable {s : State} {team : Nat} {u : Team} {w : Switch}

/-- Past the grace, F_HOLDGRACE halts the team. -/
theorem State.graceExpires (hteam : s.teams.find team = some u) (hw : s.switchAt team 2 w) {c n : Nat} (hc : c ∈ u.cores) (hn : n < 16)
    (hheld : (s.ctx c n).held ≠ []) (hlate : 4096 ≤ w.bundles ∨ w.since + 1000000 ≤ s.now)
    (hcores : ∀ c ∈ u.cores, isSteward c = false ∧ s.teamOf c = some (team, u)) :
    ∃ t h, exec (.holdGraceExpiry team) s = .next t ∧ t.switch = none
      ∧ (∃ v, t.teams.find team = some v ∧ v.st = .halted ∧ (u.halt = none → v.halt = some h))
      ∧ h.code = .holdGrace ∧ h.w3 = BitVec.ofNat 64 w.bundles ∧ (s.ctx h.core h.ctx).held ≠ [] ∧ h.pc = (s.ctx h.core h.ctx).pc := by
  obtain ⟨⟨c', n'⟩, l, hl⟩ : ∃ e l, s.holders u = e :: l := List.exists_cons_of_ne_nil (List.ne_nil_of_mem (State.mem_holders.2 ⟨hc, hn, hheld⟩))
  obtain ⟨hc', -, hheld'⟩ := State.mem_holders.1 (hl ▸ List.mem_cons_self : (c', n') ∈ s.holders u)
  obtain ⟨w2, hexec⟩ := exec_holdGraceExpiry hteam hw hlate hl
  obtain ⟨hsteward, hteamOf⟩ := hcores c' hc'
  have hhalt := State.haltTeam_halts (n := n') hsteward hteamOf hteam .holdGrace (s.ctx c' n').pc w2 (BitVec.ofNat 64 w.bundles)
  have hfate := State.Fated.endSwitch (s.haltTeam c' n' .holdGrace (s.ctx c' n').pc w2 (BitVec.ofNat 64 w.bundles)) team
  rw [hhalt] at hfate
  obtain ⟨v, hv, hvfate⟩ := Option.map_eq_some_iff.1 hfate
  refine ⟨_, ⟨c', n', .holdGrace, (s.ctx c' n').pc, w2, BitVec.ofNat 64 w.bundles⟩, hexec, State.endSwitch_switch _,
    ⟨v, hv, congrArg Prod.fst hvfate, fun hnone => (congrArg Prod.snd hvfate).trans ?_⟩, rfl, rfl, hheld', rfl⟩
  show some (u.halt.getD _) = _
  rw [hnone]
  rfl

end

/-- Settles O45: the victim, the stop of issue, and the grace for held words. -/
theorem preemptionBegins : Obligations.PreemptionBegins := by
  intro s team u hteam
  refine ⟨fun k hswitch hnofit hhead hwait hst hpri hfirst => ?_, exec_preemptTrigger_busy, fun w hw hst => ?_, fun w hw => ⟨fun hnone => ?_,
    fun c n hc hn hheld => ⟨fun hfew => ?_, fun hfew hnow => exec_holdGraceExpiry_early hteam hw hfew hnow, fun hlate hcores =>
      State.graceExpires hteam hw hc hn hheld hlate hcores⟩⟩⟩
  · obtain ⟨due, houtcome⟩ := s.beginSwitch_outcome team none
    exact ⟨_, due, exec_preemptTrigger hswitch hnofit hhead hwait (State.victim_of_first hteam hst hpri hfirst), houtcome⟩
  · obtain ⟨hfind, hgoes, hctx, hgrace, hexpiry, hframe⟩ := State.stopIssue_outcome hteam hw
    refine ⟨_, exec_preemptStopIssue hteam hst hw, hfind, hgoes, fun c hc n hn => ?_, hgrace, hexpiry, hframe⟩
    rw [hctx c hc n hn]
    refine ⟨?_, Ctx.abandon_pc _⟩
    cases hpark : (s.ctx c n).park with
    | none => simp [Ctx.abandon, hpark]
    | some p => cases p <;> simp [Ctx.abandon, hpark]
  · have hexec := exec_preemptHoldGrace hteam hw
    rw [State.holders_nil hnone] at hexec
    exact ⟨_, hexec, State.mem_sched s 0 _, rfl⟩
  · have hexec := exec_preemptHoldGrace hteam hw
    have hsome : ¬ (s.holders u).isEmpty = true := fun h => by
      have hmem := State.mem_holders.2 ⟨hc, hn, hheld⟩
      rw [List.isEmpty_iff.1 h] at hmem
      exact absurd hmem List.not_mem_nil
    rw [if_neg hsome, if_neg (by omega)] at hexec
    exact hexec

/-! ### A reply at the end of a switch-out -/

/-- Moves between scratchpads and the context area change memory alone. -/
theorem State.putVirt_frame (s : State) (space f va : Nat) (bs : List Byte) : s.putVirt space f va bs = { s with mem := (s.putVirt space f va bs).mem } := by
  induction f generalizing s va bs with
  | zero => rfl
  | succ f ih =>
    unfold State.putVirt
    split
    · rfl
    · dsimp only
      rw [ih]
      split
      · split <;> rfl
      · rfl
theorem State.moveVirt_frame (s : State) (space cell : Nat) (out : Bool) (f va n : Nat) :
    s.moveVirt space cell out f va n = { s with mem := (s.moveVirt space cell out f va n).mem } := by
  induction f generalizing s cell va n with
  | zero => rfl
  | succ f ih =>
    unfold State.moveVirt
    split
    · rfl
    · dsimp only
      rw [ih]
      split
      · split <;> rfl
      · rfl
/-- What a save writes: memory, and the choice of the bytes whose layout is not given. -/
def State.Writes (s t : State) : Prop := ∃ m f, t = { s with mem := m, fresh := f }
theorem State.Writes.trans {r s t : State} (h : r.Writes s) (h' : s.Writes t) : r.Writes t := by
  obtain ⟨m, f, rfl⟩ := h
  obtain ⟨m', f', rfl⟩ := h'
  exact ⟨m', f', rfl⟩
theorem State.Writes.putVirt (s : State) (space f va : Nat) (bs : List Byte) : s.Writes (s.putVirt space f va bs) := ⟨_, s.fresh, s.putVirt_frame space f va bs⟩
theorem State.Writes.moveVirt (s : State) (space cell : Nat) (out : Bool) (f va n : Nat) : s.Writes (s.moveVirt space cell out f va n) :=
  ⟨_, s.fresh, s.moveVirt_frame space cell out f va n⟩
theorem State.Writes.foldl {α : Type} (l : List α) {f : State → α → State} (hf : ∀ (s : State) a, s.Writes (f s a)) (s : State) : s.Writes (l.foldl f s) :=
  List.foldlRecOn l f (⟨s.mem, s.fresh, rfl⟩ : s.Writes s) (fun r hr a _ => hr.trans (hf r a))
theorem State.Writes.saveBlock (s : State) (team : Nat) (u : Team) (c : Nat) : s.Writes (s.saveBlock team u c) := by
  unfold State.saveBlock
  dsimp only
  have hmoved := State.Writes.moveVirt s u.slot (spad c 0) true 4 (u.block c) 0x20000
  generalize s.moveVirt u.slot (spad c 0) true 4 (u.block c) 0x20000 = r at *
  have hfe := hmoved.trans (State.Writes.putVirt r u.slot 2 (u.block c + 0x20000) (r.feImage c))
  generalize r.putVirt u.slot 2 (u.block c + 0x20000) (r.feImage c) = r at *
  have hcore := hfe.trans (State.Writes.putVirt r u.slot 2 (u.block c + 0x20800) (freeBytes s.fresh (r.core c).nums 0x8000 0x1000 ++ List.replicate 0x800 0))
  generalize r.putVirt u.slot 2 (u.block c + 0x20800) (freeBytes s.fresh (r.core c).nums 0x8000 0x1000 ++ List.replicate 0x800 0) = r at *
  refine State.Writes.trans (State.Writes.trans (State.Writes.trans (hcore.trans (State.Writes.foldl _ (fun r n => State.Writes.putVirt r _ _ _ _) r))
    (State.Writes.foldl _ (fun r d => State.Writes.putVirt r _ _ _ _) _)) (State.Writes.putVirt _ u.slot 3 (u.block c + 0x37000) _)) ⟨_, _, rfl⟩

/-- What a save keeps of a team, and the cores it frees. -/
def State.keepsTeam (s : State) (team : Nat) (u : Team) : State :=
  s.modTeam team (fun v => { v with
    savedCtx := u.cores.flatMap (fun c => (List.range 16).map (fun n => (16 * c + n, (s.ctx c n).lastWeight)))
    savedCore := u.cores.map (fun c => (c, s.core c)) })
def State.leavesCores (s : State) (team : Nat) (u : Team) : State :=
  u.cores.foldl (fun (s : State) c => ({ s with cores := s.cores.set c { Core.idle with team := some team } }.clearCtxs c).dropEvents c) s
/-- A save of a team without engines, to whose cores nothing is on its way. -/
theorem exec_preemptSave {s : State} {team : Nat} {u : Team} {w : Switch} (hteam : s.teams.find team = some u) (hw : s.switchAt team 5 w)
    (hsettled : u.cores.foldl (fun (r : State) c => r.settleCore c) s = s) (hengines : s.teamEngines team = []) :
    ∃ t, s.Writes t ∧ exec (.preemptSave team) s = .next ((t.keepsTeam team u).leavesCores team u).endSwitch := by
  have hin := State.inStep_of_switchAt hw 5
  refine ⟨_, State.Writes.trans (State.Writes.putVirt s u.slot 2 u.header (freeBytes s.fresh u.nums 0x18000 0x1000))
    (State.Writes.foldl u.cores (f := fun (s : State) c => s.saveBlock team u c) (fun r c => State.Writes.saveBlock r team u c) _), ?_⟩
  show execPreemptSave team s = _
  unfold execPreemptSave
  rw [hteam]
  dsimp only
  rw [hin, if_neg (by decide), hsettled, hengines]
  dsimp only [List.foldl_nil]
  rw [hteam]
  rfl

/-- A team of one core, core 1, at the end of its switch-out. -/
def savedTeam : Team :=
  { slot := 0, node := 0, die := 0, ox := 1, oy := 0, variant := 0,
    lr := { ctxa := 0, trapv := 0, pri := 0, nbv := 0, wss := 0, ff := 0, cmin := 0, hint := 0, ext := [], vars := [], lev := [], peers := [], sch := [],
            rm := [], essential := [] }
    codeBase := 0, st := .suspended, placedAt := 0, readyAt := 0, stage := 0, scheds := [], next := 0, halt := none, stages := [], trigs := [],
    saved := [], savedCtx := [], savedCore := [], late := [] }
/-- Steward core 0 asked for the switch-out and waits for its end, with a result whose destination is its east queue; its core is marked as the
team's, and its east neighbour is core 1. -/
def pushingState : State :=
  { State.reset with
    agenda := []
    teams := ⟨[(0, savedTeam)]⟩
    cores := ⟨[(1, { Core.idle with team := some 0 }), (2304, { Core.idle with team := some 0 })]⟩
    ctxs := ⟨[(36864, { Ctx.idle with st := .running, park := some (.result 7 8 (.put (.q .e))) })]⟩
    switch := some ⟨0, 5, 0, 0, some (0, 7)⟩ }

/-- How many queues toward each saved core have an entry in transit. -/
def Team.inTransit (u : Team) : List (Nat × Nat) := u.savedCore.map (fun e => (e.1, e.2.transit.cells.length))
theorem pushingState_saved (m : List Host.Cell) (f : Nat) :
    ((((({ pushingState with mem := m, fresh := f } : State).keepsTeam 0 savedTeam).leavesCores 0 savedTeam).answerWaiter).teams.find 0).map Team.inTransit
      = some [(1, 1)] := by rfl

/-- Refutes O46: the core a save puts in the context area is not the one that stood there where the steward core that asked for the switch-out
waits with a queue destination toward it: the reply at its end pushes an entry toward the saved core (R148, R248). -/
theorem not_switchAndResume : ¬ Obligations.SwitchAndResume := by
  intro h
  obtain ⟨-, -, -, hsave, -, -⟩ := h pushingState 0 savedTeam rfl
  have hw : pushingState.switchAt 0 5 ⟨0, 5, 0, 0, some (0, 7)⟩ := ⟨rfl, rfl, rfl⟩
  obtain ⟨t, v, hexec, -, hv, hcores, -⟩ := hsave _ hw
  obtain ⟨-, -, -, hsaved, -⟩ := hcores 1 (by decide)
  obtain ⟨r, ⟨m, f, rfl⟩, hexec'⟩ := exec_preemptSave (s := pushingState) (u := savedTeam) rfl hw rfl rfl
  obtain rfl := Host.Outcome.next.inj (hexec.symm.trans hexec')
  have hteams : (((({ pushingState with mem := m, fresh := f } : State).keepsTeam 0 savedTeam).leavesCores 0 savedTeam).endSwitch).teams
      = (((({ pushingState with mem := m, fresh := f } : State).keepsTeam 0 savedTeam).leavesCores 0 savedTeam).answerWaiter).teams := by
    rw [State.endSwitch_eq, State.schedOnce_frame]
  rw [hteams] at hv
  have htransit := pushingState_saved m f
  rw [hv] at htransit
  have hone : v.inTransit = [(1, 1)] := Option.some.inj htransit
  have hmem : (1, 0) ∈ v.inTransit := List.mem_map.2 ⟨_, hsaved, rfl⟩
  rw [hone] at hmem
  simp at hmem

end Sys2Proof.Machine
end

section
/-! PROOFS. Replies and completions (O47). -/

namespace Sys2Proof.Machine

/-! ### A context goes on with its result -/

/-- A context past its park. -/
def Ctx.resumes (x : Ctx) (now len : Nat) : Ctx :=
  { x with
    park := none, undo := none, readyAt := now + 1, pc := x.pc + BitVec.ofNat 64 len, src := 0, prodRec := none, since := none, image := none
    xlat := none }
theorem Ctx.resumes_read (x : Ctx) (now len : Nat) {r : Reg} (hr : r ≠ .pc) : (x.resumes now len).read r = x.read r := by
  cases r with
  | pc => exact absurd rfl hr
  | _ => rfl
/-- A shift enters the last results, and no other register. -/
theorem Ctx.shift_read (x : Ctx) (v : Word) {r : Reg} (hr : ∀ k, r ≠ .l k) : (x.shift v).read r = x.read r := by
  cases r with
  | l k => exact absurd rfl (hr k)
  | _ => rfl
theorem Ctx.shift_last (x : Ctx) (v : Word) :
    (x.shift v).read (.l 0) = v ∧ ∀ k : Fin 4, k.val ≠ 0 → (x.shift v).read (.l k) = x.read (.l (k - 1)) := by
  refine ⟨Table.get_set_self _ _ _ _, fun k hk => ?_⟩
  have hcases : k = 0 ∨ k = 1 ∨ k = 2 ∨ k = 3 := by omega
  obtain rfl | rfl | rfl | rfl := hcases
  · exact absurd rfl hk
  · simp [Ctx.read, Ctx.shift, Table.get_set]
  · simp [Ctx.read, Ctx.shift, Table.get_set]
  · simp [Ctx.read, Ctx.shift, Table.get_set]

section
variable (x : Ctx) {dst : Reg} (v : Word) (now len : Nat) (hdst : isPlainDst dst = true)
include hdst

theorem Ctx.plain_not_last (k : Fin 4) : dst ≠ .l k := fun h => by rw [h] at hdst; cases hdst
theorem Ctx.plain_not_pc : dst ≠ .pc := fun h => by rw [h] at hdst; cases hdst
/-- A result that ends a park. -/
theorem Ctx.result_read : (((x.write dst v).shift v).resumes now len).read dst = v
    ∧ (((x.write dst v).shift v).resumes now len).read (.l 0) = v
    ∧ (∀ k : Fin 4, k.val ≠ 0 → (((x.write dst v).shift v).resumes now len).read (.l k) = x.read (.l (k - 1)))
    ∧ x.regsKept (((x.write dst v).shift v).resumes now len) (dst :: .pc :: lastResults) := by
  obtain ⟨hzero, hlast⟩ := (x.write dst v).shift_last v
  refine ⟨?_, ?_, fun k hk => ?_, fun r hr => ?_⟩
  · rw [Ctx.resumes_read _ _ _ (Ctx.plain_not_pc hdst), Ctx.shift_read _ _ (Ctx.plain_not_last hdst),
      Ctx.read_write _ _ _ _ (Ctx.plain_not_last hdst), if_pos ⟨rfl, hdst⟩]
  · rw [Ctx.resumes_read _ _ _ (by simp), hzero]
  · rw [Ctx.resumes_read _ _ _ (by simp), hlast k hk]
    show Table.get 0 (x.write dst v).l _ = _
    rw [Ctx.write_l]
    rfl
  · simp only [List.mem_cons, not_or] at hr
    obtain ⟨hne, hpc, hl⟩ := hr
    have hnotlast : ∀ k, r ≠ .l k := by
      rintro k rfl
      have hcases : k = 0 ∨ k = 1 ∨ k = 2 ∨ k = 3 := by omega
      obtain rfl | rfl | rfl | rfl := hcases <;> exact hl (by decide)
    rw [Ctx.resumes_read _ _ _ hpc, Ctx.shift_read _ _ hnotlast, Ctx.read_write _ _ _ _ hnotlast, if_neg (fun h => hne h.1)]

end

/-! ### Replies -/

section
variable {s : State} {c n tok len : Nat}

/-- A context of a state replaced, and the others as they were. -/
theorem State.others_modCtx (f : Ctx → Ctx) : ∀ k, k ≠ 16 * c + n → Table.get Ctx.idle (s.modCtx c n f).ctxs k = Table.get Ctx.idle s.ctxs k :=
  fun _ hk => Table.get_set_other _ _ hk _
theorem State.modCtx_modCtx (f g : Ctx → Ctx) (j : Nat) :
    Table.get Ctx.idle ((s.modCtx c n f).modCtx c n g).ctxs j = if j = 16 * c + n then g (f (s.ctx c n)) else Table.get Ctx.idle s.ctxs j := by
  refine (Table.get_set _ _ _ _ _).trans ?_
  rw [State.ctx_modCtx_self]
  split
  next => rfl
  next hj => exact Table.get_set_other _ _ hj _

/-- A reply that names the park of a context ends it with the result it carries. -/
theorem exec_replyWrite_ends {res : Result} {r : Reply} (hpark : (s.ctx c n).park = some (.result tok len res)) (hr : ∀ code a, r ≠ .fault code a) :
    exec (.replyWrite c n tok r) s = .next ((s.writeResult c n res r).modCtx c n (fun x => x.resumes s.now len)) := by
  show execReplyWrite c n tok r s = _
  unfold execReplyWrite State.reply
  dsimp only
  rw [hpark]
  dsimp only
  rw [if_pos rfl]
  cases r with
  | fault code a => exact absurd rfl (hr code a)
  | _ => rfl
theorem exec_replyWrite_fault {code : FCode} {a : Word} (hpark : (s.ctx c n).park = some (.result tok len .none)) :
    exec (.replyWrite c n tok (.fault code a)) s
      = .next (((s.undoBundle c n).modCtx c n (fun y => { y with park := none })).trap c n code (s.ctx c n).pc a 0) := by
  show execReplyWrite c n tok (.fault code a) s = _
  unfold execReplyWrite State.reply
  dsimp only
  rw [hpark]
  dsimp only
  rw [if_pos rfl]
  rfl

/-- A value put in a plain destination. -/
theorem State.putCtx_plain {dst : Reg} (hdst : isPlainDst dst = true) (v : Word) :
    s.putCtx c n dst v = s.modCtx c n (fun x => (x.write dst v).shift v) := by
  cases dst with
  | q d => cases hdst
  | _ => rfl
/-- The state once a park has ended with a value. -/
def State.putEnds (s : State) (c n len : Nat) (dst : Reg) (v : Word) : State :=
  (s.putCtx c n dst v).modCtx c n (fun x => x.resumes s.now len)
theorem State.putEnds_outcome {dst : Reg} (hdst : isPlainDst dst = true) (v : Word) :
    (s.putEnds c n len dst v).ctx c n = (((s.ctx c n).write dst v).shift v).resumes s.now len
      ∧ (∀ k, k ≠ 16 * c + n → Table.get Ctx.idle (s.putEnds c n len dst v).ctxs k = Table.get Ctx.idle s.ctxs k)
      ∧ s.putEnds c n len dst v = { s with ctxs := (s.putEnds c n len dst v).ctxs } := by
  unfold State.putEnds
  rw [State.putCtx_plain hdst]
  refine ⟨?_, fun k hk => ?_, rfl⟩
  · refine (State.modCtx_modCtx _ _ _).trans ?_
    rw [if_pos rfl]
  · rw [State.modCtx_modCtx, if_neg hk]

theorem State.replyPut_outcome {dst : Reg} {v : Word} (hpark : (s.ctx c n).park = some (.result tok len (.put dst))) (hdst : isPlainDst dst = true) :
    ∃ t, exec (.replyWrite c n tok (.word v)) s = .next t
      ∧ (t.ctx c n).read dst = v ∧ (t.ctx c n).read (.l 0) = v
      ∧ (∀ k : Fin 4, k.val ≠ 0 → (t.ctx c n).read (.l k) = (s.ctx c n).read (.l (k - 1)))
      ∧ (t.ctx c n).pc = (s.ctx c n).pc + BitVec.ofNat 64 len ∧ (t.ctx c n).park = none ∧ (t.ctx c n).readyAt = s.now + 1
      ∧ (s.ctx c n).regsKept (t.ctx c n) (dst :: .pc :: lastResults) ∧ (s.ctx c n).predsKept (t.ctx c n) ∧ (s.ctx c n).vecsKept (t.ctx c n)
      ∧ (∀ k, k ≠ 16 * c + n → Table.get Ctx.idle t.ctxs k = Table.get Ctx.idle s.ctxs k) ∧ t = { s with ctxs := t.ctxs } := by
  obtain ⟨hctx, hothers, hframe⟩ := State.putEnds_outcome (s := s) (c := c) (n := n) (len := len) hdst v
  obtain ⟨hread, hzero, hlast, hkept⟩ := (s.ctx c n).result_read v s.now len hdst
  refine ⟨s.putEnds c n len dst v, exec_replyWrite_ends hpark (by simp), ?_⟩
  rw [hctx]
  refine ⟨hread, hzero, hlast, ?_, rfl, rfl, hkept, fun k => ?_, Ctx.vecsKept_congr ?_ ?_ ?_, hothers, hframe⟩
  · show ((s.ctx c n).write dst v).pc + _ = _
    rw [Ctx.write_pc]
  · exact Ctx.readP_congr (Ctx.write_p _ dst v) k
  · exact Ctx.write_v _ dst v
  · exact Ctx.write_m _ dst v
  · exact Ctx.write_flags _ dst v

/-- A reply with every byte of a load, none of them forwarded. -/
theorem mergeReply_none {k : Nat} (a : Nat) {bs : List Byte} (hlen : bs.length = k) (hk : k ≠ 64) : mergeReply (List.replicate k none) k a bs = bs := by
  refine List.ext_getElem (by simp [mergeReply, hlen]) (fun j hj hj' => ?_)
  have hnone : (List.replicate k (none : Option Byte)).getD j none = none := by
    by_cases h : j < k
    · simp [h]
    · simp [h]
  simp only [mergeReply, List.getElem_map, List.getElem_range]
  rw [hnone, Option.getD_none, if_neg (by omega)]
  exact List.getD_eq_getElem _ _ hj'
theorem loadWord_eq {k : Nat} (hk : 0 < k) (signed : Bool) (v : Nat) :
    loadWord k signed v = if signed then (BitVec.ofNat (8 * k) v).signExtend 64 else BitVec.ofNat 64 v := by
  rw [loadWord, sx64_eq_signExtend (by omega)]
theorem State.replyLoad_outcome {dst : Reg} {k a : Nat} {signed : Bool} {bs : List Byte}
    (hpark : (s.ctx c n).park = some (.result tok len (.load dst k signed a (List.replicate k none)))) (hdst : isPlainDst dst = true)
    (hk : k ∈ [1, 2, 4, 8]) (hlen : bs.length = k) :
    ∃ t, exec (.replyWrite c n tok (.bytes bs)) s = .next t
      ∧ (t.ctx c n).read dst = (if signed then (BitVec.ofNat (8 * k) (leNat bs)).signExtend 64 else BitVec.ofNat 64 (leNat bs))
      ∧ (t.ctx c n).pc = (s.ctx c n).pc + BitVec.ofNat 64 len ∧ (t.ctx c n).park = none ∧ t = { s with ctxs := t.ctxs } := by
  have hsize : 0 < k ∧ k ≠ 64 := by
    simp only [List.mem_cons, List.not_mem_nil, or_false] at hk
    omega
  have hword : loadWord k signed (leNat (mergeReply (List.replicate k none) k a bs))
      = if signed then (BitVec.ofNat (8 * k) (leNat bs)).signExtend 64 else BitVec.ofNat 64 (leNat bs) := by
    rw [mergeReply_none a hlen hsize.2, loadWord_eq hsize.1]
  have hexec := exec_replyWrite_ends (r := .bytes bs) hpark (by simp)
  obtain ⟨hctx, -, hframe⟩ := State.putEnds_outcome (s := s) (c := c) (n := n) (len := len) hdst
    (loadWord k signed (leNat (mergeReply (List.replicate k none) k a bs)))
  obtain ⟨hread, -⟩ := (s.ctx c n).result_read (loadWord k signed (leNat (mergeReply (List.replicate k none) k a bs))) s.now len hdst
  refine ⟨s.putEnds c n len dst (loadWord k signed (leNat (mergeReply (List.replicate k none) k a bs))), hexec, ?_⟩
  rw [hctx, hread]
  refine ⟨hword, ?_, rfl, hframe⟩
  show ((s.ctx c n).write dst _).pc + _ = _
  rw [Ctx.write_pc]

/-! ### Bundles undone -/

theorem State.undoBundle_none (h : (s.ctx c n).undo = none) : s.undoBundle c n = s := by
  rw [State.undoBundle, h]
theorem State.undoBundle_some {u : Undo} (h : (s.ctx c n).undo = some u) (hpops : u.pops = []) :
    s.undoBundle c n = s.modCtx c n (fun y => { y with v := u.v, m := u.m, flags := u.flags, undo := none }) := by
  rw [State.undoBundle, h]
  dsimp only
  rw [hpops]
  rfl

end

/-! ### Completions -/

section
variable {x : Ctx}

theorem Ctx.writeLoc_succ (x : Ctx) (k r : Nat) (v : Word) : x.writeLoc (.win (k + 1) r) v = if x.resident (k + 1) then x.writeWin (k + 1) r v
    else if k + 1 + 1 = x.oldest then { x with recv := x.recv.set (r - 16) v, recvClean := false } else x := rfl
/-- Registers that are no window's read as they did after a completion of a windowed one. -/
theorem Ctx.writeLoc_win_read (k a : Nat) (v : Word) {q : Reg} (hq : ∀ r, q ≠ .w r) : (x.writeLoc (.win k a) v).read q = x.read q := by
  have hfields : (x.writeLoc (.win k a) v).g = x.g ∧ (x.writeLoc (.win k a) v).o = x.o ∧ (x.writeLoc (.win k a) v).l = x.l
      ∧ (x.writeLoc (.win k a) v).i = x.i ∧ (x.writeLoc (.win k a) v).pc = x.pc := by
    cases k with
    | zero => exact ⟨rfl, rfl, rfl, rfl, rfl⟩
    | succ k =>
      rw [Ctx.writeLoc_succ]
      split
      · exact ⟨rfl, rfl, rfl, rfl, rfl⟩
      · split <;> exact ⟨rfl, rfl, rfl, rfl, rfl⟩
  obtain ⟨hg, ho, hl, hi, hpc⟩ := hfields
  cases q with
  | w r => exact absurd rfl (hq r)
  | g j => rw [Ctx.read, Ctx.read, hg]
  | o j => rw [Ctx.read, Ctx.read, ho]
  | l j => rw [Ctx.read, Ctx.read, hl]
  | i j => rw [Ctx.read, Ctx.read, hi]
  | pc => exact hpc
  | _ => rfl
/-- A completion of a register of the current window writes it as an instruction would. -/
theorem Ctx.writeLoc_locW (hlatest : x.windowsLatest) (r : Nat) (v : Word) : x.writeLoc (x.locW r) v = x.writeW r v := by
  unfold Ctx.locW Ctx.writeW
  by_cases hr : 8 ≤ r
  · rw [if_pos hr, if_pos hr]
    have hdepth : x.depth = x.openers.length + 1 := rfl
    rw [hdepth, Ctx.writeLoc_succ, if_pos (by simp [Ctx.resident, Ctx.depth])]
  · rw [if_neg hr, if_neg hr]
    by_cases hd : x.depth = 1
    · rw [if_pos hd, hd]
      simp [Ctx.writeLoc]
    · rw [if_neg hd]
      obtain ⟨k, hk⟩ : ∃ k, x.depth - 1 = k + 1 := ⟨x.depth - 2, by unfold Ctx.depth at *; omega⟩
      have hne : (k + 1 == x.depth) = false := by simp; omega
      rw [hk]
      cases hfind : x.wins.find (k + 1) with
      | some w =>
        rw [Ctx.writeLoc_succ, if_pos (by simp [Ctx.resident, hfind])]
      | none =>
        have holdest : k + 1 + 1 = x.oldest := by
          obtain h | h | h := hlatest
          · exact absurd h hd
          · rw [hk, hfind] at h
            cases h
          · omega
        rw [Ctx.writeLoc_succ, if_neg (by simp [Ctx.resident, hfind, hne]), if_pos holdest]
        simp

variable {s : State} {c n tok : Nat} {p : Pend}

/-- A completion names the oldest pending register of its number. -/
theorem exec_pendingCompletionWrite (v : Word) (hp : (s.ctx c n).pend.find? (fun e => e.tok == tok) = some p) :
    exec (.pendingCompletionWrite c n tok v) s
      = .next (s.setCtx c n { (s.ctx c n).writeLoc p.loc v with pend := (s.ctx c n).pend.filter (fun e => e.tok != tok) }) := by
  show execPendingCompletionWrite c n tok v s = _
  unfold execPendingCompletionWrite State.complete
  dsimp only
  rw [hp]
theorem Ctx.read_pend (x : Ctx) (l : List Pend) (q : Reg) : ({ x with pend := l } : Ctx).read q = x.read q := by
  cases q <;> rfl
/-- The register that a place stands for takes a completion, and no other does. -/
theorem Ctx.writeLoc_read (hlatest : x.windowsLatest) {r : Reg} {p : PLoc} (hr : x.loc r = some p) (v : Word) :
    (x.writeLoc p v).read r = v ∧ ∀ q, q ≠ r → (x.writeLoc p v).read q = x.read q := by
  cases r with
  | w k =>
    obtain rfl := Option.some.inj hr
    rw [Ctx.writeLoc_locW hlatest]
    refine ⟨?_, fun q hq => ?_⟩
    · refine (x.readW_writeW k.val k.val v k.isLt k.isLt).trans (if_pos rfl)
    · cases q with
      | w j =>
        refine (x.readW_writeW k.val j.val v k.isLt j.isLt).trans (if_neg (fun h => hq ?_))
        rw [Fin.ext h]
      | _ =>
        rw [← Ctx.writeLoc_locW hlatest]
        unfold Ctx.locW
        split
        · exact Ctx.writeLoc_win_read _ _ v (by simp)
        · exact Ctx.writeLoc_win_read _ _ v (by simp)
  | g j =>
    obtain rfl := Option.some.inj hr
    refine ⟨Table.get_set_self _ _ _ _, fun q hq => ?_⟩
    cases q with
    | g i => exact Table.get_set_other _ _ (fun h => hq (by rw [Fin.ext h])) _
    | _ => rfl
  | _ => cases hr

theorem State.completion_outcome (v : Word) (hp : (s.ctx c n).pend.find? (fun e => e.tok == tok) = some p) (hlatest : (s.ctx c n).windowsLatest) :
    ∃ t, exec (.pendingCompletionWrite c n tok v) s = .next t ∧ (∀ q ∈ (t.ctx c n).pend, q.tok ≠ tok)
      ∧ (∀ r, (s.ctx c n).loc r = some p.loc → (t.ctx c n).read r = v ∧ ∀ q, q ≠ r → (t.ctx c n).read q = (s.ctx c n).read q)
      ∧ (∀ a b, p.loc = .gone a b → ∀ q, (t.ctx c n).read q = (s.ctx c n).read q)
      ∧ (∀ k, k ≠ 16 * c + n → Table.get Ctx.idle t.ctxs k = Table.get Ctx.idle s.ctxs k) ∧ t = { s with ctxs := t.ctxs } := by
  refine ⟨_, exec_pendingCompletionWrite v hp, ?_⟩
  have hctx : (s.setCtx c n { (s.ctx c n).writeLoc p.loc v with pend := (s.ctx c n).pend.filter (fun e => e.tok != tok) }).ctx c n
      = { (s.ctx c n).writeLoc p.loc v with pend := (s.ctx c n).pend.filter (fun e => e.tok != tok) } := Table.get_set_self _ _ _ _
  rw [hctx]
  refine ⟨fun q hq => ?_, fun r hr => ?_, fun a b hgone q => ?_, fun k hk => Table.get_set_other _ _ hk _, rfl⟩
  · simpa using (List.mem_filter.1 hq).2
  · obtain ⟨hsame, hother⟩ := Ctx.writeLoc_read hlatest hr v
    exact ⟨(Ctx.read_pend _ _ _).trans hsame, fun q hq => (Ctx.read_pend _ _ _).trans (hother q hq)⟩
  · rw [Ctx.read_pend, hgone]
    rfl

end

/-- Settles O47: how a reply ends a park, and a completion a pending register. -/
theorem repliesAndCompletions : Obligations.RepliesAndCompletions := by
  intro s c n tok x
  exact ⟨fun len dst v => State.replyPut_outcome, fun len dst k signed a bs => State.replyLoad_outcome, fun len code a => exec_replyWrite_fault,
    State.undoBundle_none, fun u => State.undoBundle_some, fun p v => State.completion_outcome v⟩

end Sys2Proof.Machine
end

section
/-! PROOFS. Window traffic (O48). -/

namespace Sys2Proof.Machine

/-! ### Windows as bytes -/

/-- Lists of eight, one after another. -/
theorem getD_flatMap_range {α : Type} (d : α) {f : Nat → List α} (hf : ∀ r, (f r).length = 8) (n : Nat) :
    ((List.range n).flatMap f).length = 8 * n ∧ ∀ r, r < n → ∀ j, j < 8 → ((List.range n).flatMap f).getD (8 * r + j) d = (f r).getD j d := by
  induction n with
  | zero => exact ⟨rfl, fun r hr => absurd hr (Nat.not_lt_zero r)⟩
  | succ n ih =>
    obtain ⟨hlen, hget⟩ := ih
    rw [List.range_succ, List.flatMap_append, List.flatMap_cons, List.flatMap_nil, List.append_nil]
    refine ⟨by rw [List.length_append, hlen, hf]; omega, fun r hr j hj => ?_⟩
    by_cases hr' : r < n
    · rw [List.getD_append _ _ _ _ (by rw [hlen]; omega), hget r hr' j hj]
    · obtain rfl : r = n := by omega
      rw [List.getD_append_right _ _ _ _ (by rw [hlen]; omega), hlen, Nat.add_sub_cancel_left]
theorem length_winBytes (t : Table Word) (lo : Nat) : (winBytes t lo).length = 64 :=
  (getD_flatMap_range (0 : Byte) (f := fun r => leBytes 8 (Table.get 0 t (lo + r)).toNat) (fun _ => length_leBytes 8 _) 8).1
/-- Eight registers of a window, once written, stand at their place (R72). -/
theorem memLe_memPut_winBytes {m : List Host.Cell} (h : Memory.wf m = true) (a : Nat) (t : Table Word) (lo : Nat) {r : Nat} (hr : r < 8) :
    memLe (memPut m a (winBytes t lo)) 8 (a + 8 * r) = (Table.get 0 t (lo + r)).toNat := by
  have hget := (getD_flatMap_range (0 : Byte) (f := fun r => leBytes 8 (Table.get 0 t (lo + r)).toNat) (fun _ => length_leBytes 8 _) 8).2 r hr
  have hlen := length_winBytes t lo
  have hbytes : memBytes (memPut m a (winBytes t lo)) 8 (a + 8 * r) = leBytes 8 (Table.get 0 t (lo + r)).toNat := by
    refine List.ext_getElem (by simp) (fun j hj hj' => ?_)
    have hj8 : j < 8 := by simpa using hj
    have hin : 8 * r + j < (winBytes t lo).length := by omega
    rw [getElem_memBytes, Nat.add_assoc, memRead_memPut_self h (winBytes t lo) a (8 * r + j) hin]
    refine (List.getD_eq_getElem _ 0 hin).symm.trans ((hget j hj8).trans ?_)
    exact List.getD_eq_getElem _ _ hj'
  rw [memLe, hbytes, leNat_leBytes, Nat.mod_eq_of_lt]
  exact (Table.get 0 t (lo + r)).isLt
theorem memLe_memPut_other (m : List Host.Cell) (bs : List Byte) (n : Nat) {a b : Nat} (h : b + n ≤ a ∨ a + bs.length ≤ b) :
    memLe (memPut m a bs) n b = memLe m n b := by
  rw [memLe, memBytes_memPut_other m bs n h, memLe]

/-! ### A spill -/

section
variable (s : State) (c n k : Nat)

/-- The window the spill wrote is clean; nothing of it changes else. -/
def Ctx.spilled (x : Ctx) (k : Nat) : Ctx :=
  { x with wins := x.wins.set k ⟨(x.win k).regs, true⟩, recvClean := if k == x.oldest then true else x.recvClean }
theorem State.spillWindow_ctx : (s.spillWindow c n k).ctx c n = (s.ctx c n).spilled k := Table.get_set_self _ _ _ _
theorem State.spillWindow_frame : s.spillWindow c n k = { s with mem := (s.spillWindow c n k).mem, ctxs := (s.spillWindow c n k).ctxs } := rfl
theorem Ctx.spilled_clean (x : Ctx) : ((x.spilled k).win k).clean = true := by
  unfold Ctx.spilled Ctx.win
  dsimp only
  rw [Table.get_set_self]
/-- A window written as it stands reads as it did. -/
theorem Ctx.spilled_read {x : Ctx} (hk : x.resident k = true) (q : Reg) : (x.spilled k).read q = x.read q := by
  cases q with
  | w r =>
    show (x.spilled k).readW r.val = x.readW r.val
    have hdepth : (x.spilled k).depth = x.depth := rfl
    unfold Ctx.readW
    rw [hdepth]
    split
    · unfold Ctx.spilled Ctx.win
      dsimp only
      rw [Table.get_set]
      by_cases hd : x.depth = k
      · rw [if_pos hd, hd]
      · rw [if_neg hd]
    · unfold Ctx.readBelow
      rw [hdepth]
      split
      · rfl
      · by_cases hd : x.depth - 1 = k
        · have hpos : 1 ≤ x.depth := Nat.le_add_left 1 x.openers.length
          have hsome : (x.wins.find k).isSome = true := by
            unfold Ctx.resident at hk
            rw [Bool.or_eq_true] at hk
            obtain h | h := hk
            · have heq : k = x.depth := by simpa using h
              omega
            · exact h
          obtain ⟨w, hw⟩ := Option.isSome_iff_exists.1 hsome
          have hwin : x.win k = w := by rw [Ctx.win, Table.get, hw]; rfl
          unfold Ctx.spilled
          dsimp only
          rw [hd, Table.find_set_self, hw, hwin]
        · unfold Ctx.spilled
          dsimp only
          rw [Table.find_set_other _ hd]
  | _ => rfl

variable {s c n k}
/-- The bytes of a spill: kept registers below, passed ones above (R72). -/
theorem State.spillWindow_mem (hk : 1 ≤ k) (hn : n < 16) (hwss : 16 * s.wss c ≤ 0x20000) (hfits : 128 * k ≤ s.wss c)
    (hwf : Memory.wf s.mem = true) {r : Nat} (hr : r < 16) :
    memLe (s.spillWindow c n k).mem 8 (spad c (s.stackAt c n k + 8 * r)) = (Table.get 0 ((s.ctx c n).win k).regs (8 + r)).toNat := by
  have haddr : spad c (s.stackAt c n k + 8 * r) = spad c (s.stackAt c n k) + 8 * r := by
    unfold spad
    omega
  have hkept := memory_wf_memPut hwf (spad c (s.stackAt c n k)) (winBytes ((s.ctx c n).win k).regs 8)
  have hlen := length_winBytes ((s.ctx c n).win k).regs 16
  have htwo : memLe (memPut (memPut s.mem (spad c (s.stackAt c n k)) (winBytes ((s.ctx c n).win k).regs 8)) (spad c (s.stackAt c n k) + 64)
      (winBytes ((s.ctx c n).win k).regs 16)) 8 (spad c (s.stackAt c n k) + 8 * r) = (Table.get 0 ((s.ctx c n).win k).regs (8 + r)).toNat := by
    by_cases h8 : r < 8
    · rw [memLe_memPut_other _ _ _ (.inl (by omega)), memLe_memPut_winBytes hwf _ _ _ h8]
    · have hplace : spad c (s.stackAt c n k) + 8 * r = spad c (s.stackAt c n k) + 64 + 8 * (r - 8) := by omega
      have hreg : 8 + r = 16 + (r - 8) := by omega
      rw [hplace, hreg, memLe_memPut_winBytes hkept _ _ _ (by omega)]
  have hspill : (s.spillWindow c n k).mem = if (k == (s.ctx c n).oldest && !(s.ctx c n).recvClean && k != 1) = true then
      memPut (memPut (memPut s.mem (spad c (s.stackAt c n k)) (winBytes ((s.ctx c n).win k).regs 8)) (spad c (s.stackAt c n k) + 64)
        (winBytes ((s.ctx c n).win k).regs 16)) (spad c (s.stackAt c n (k - 1)) + 64) (winBytes (s.ctx c n).recv 0)
      else memPut (memPut s.mem (spad c (s.stackAt c n k)) (winBytes ((s.ctx c n).win k).regs 8)) (spad c (s.stackAt c n k) + 64)
        (winBytes ((s.ctx c n).win k).regs 16) := rfl
  rw [haddr, hspill]
  generalize memPut (memPut s.mem (spad c (s.stackAt c n k)) (winBytes ((s.ctx c n).win k).regs 8)) (spad c (s.stackAt c n k) + 64)
    (winBytes ((s.ctx c n).win k).regs 16) = m at *
  by_cases hback : (k == (s.ctx c n).oldest && !(s.ctx c n).recvClean && k != 1) = true
  · have hne : k ≠ 1 := by simpa using (Bool.and_eq_true_iff.1 hback).2
    have hroom : n * s.wss c + 128 * k ≤ 0x20000 := by
      have hnext : (n + 1) * s.wss c ≤ 16 * s.wss c := Nat.mul_le_mul_right _ hn
      rw [Nat.add_mul] at hnext
      omega
    rw [if_pos hback, memLe_memPut_other _ _ _ (.inl ?_), htwo]
    unfold spad State.stackAt Config.spadSize
    omega
  · rw [if_neg hback]
    exact htwo

end

/-! ### EAGER_SPILL and WINDOW_SPILL -/

section
variable {s : State} {c n k : Nat}

/-- A window an eager spill takes is resident, and has a place in the stack. -/
theorem State.dirtyWindow_spec (h : s.dirtyWindow c n = some k) : (s.ctx c n).resident k = true ∧ 128 * k ≤ s.wss c := by
  unfold State.dirtyWindow at h
  dsimp only at h
  split at h
  · have hk := List.find?_some h
    simp only [Bool.and_eq_true, decide_eq_true_eq] at hk
    obtain ⟨⟨⟨hres, -⟩, -⟩, hfits⟩ := hk
    exact ⟨hres, hfits⟩
  · cases h
theorem exec_eagerSpill_none (h : ∀ j, j < 16 → s.dirtyWindow c j = none) : exec (.eagerSpill c) s = .next s := by
  have hnone : (List.range 16).findSome? (fun n => (s.dirtyWindow c n).map (fun k => (n, k))) = none :=
    List.findSome?_eq_none_iff.2 (fun j hj => by rw [h j (List.mem_range.1 hj)]; rfl)
  show execEagerSpill c s = _
  unfold execEagerSpill
  rw [hnone]
theorem exec_eagerSpill {m : Nat} (h : (List.range 16).findSome? (fun j => (s.dirtyWindow c j).map (fun k => (j, k))) = some (m, k)) :
    exec (.eagerSpill c) s = .next (s.spillWindow c m k) ∧ m < 16 ∧ s.dirtyWindow c m = some k := by
  obtain ⟨j, hj, hmap⟩ := List.exists_of_findSome?_eq_some h
  obtain ⟨k', hk', hpair⟩ := Option.map_eq_some_iff.1 hmap
  obtain ⟨rfl, rfl⟩ := Prod.mk.inj hpair
  refine ⟨?_, List.mem_range.1 hj, hk'⟩
  show execEagerSpill c s = _
  unfold execEagerSpill
  rw [h]

/-- The oldest window is resident. -/
theorem Ctx.resident_oldest (x : Ctx) : x.resident x.oldest = true := by
  unfold Ctx.oldest Ctx.resident
  cases hcells : x.wins.cells with
  | nil => simp
  | cons e es => simp [Table.find, Table.findIn, hcells]
/-- A spill of the oldest window leaves it the oldest. -/
theorem Ctx.spilled_oldest (x : Ctx) : (x.spilled x.oldest).oldest = x.oldest := by
  unfold Ctx.spilled
  cases hcells : x.wins.cells with
  | nil =>
    have hold : x.oldest = x.depth := by rw [Ctx.oldest, hcells]
    show (match Table.putIn x.oldest _ x.wins.cells with
      | c :: _ => c.1
      | [] => _) = _
    rw [hcells]
    rfl
  | cons e es =>
    have hold : x.oldest = e.1 := by rw [Ctx.oldest, hcells]
    show (match Table.putIn x.oldest _ x.wins.cells with
      | c :: _ => c.1
      | [] => _) = _
    rw [hcells, Table.putIn, if_pos hold.symm]
/-- A spill of a listed window takes no other slot. -/
theorem Ctx.spilled_slotsUsed {x : Ctx} (h : x.oldest ≠ x.depth) : (x.spilled x.oldest).slotsUsed = x.slotsUsed := by
  obtain ⟨e, es, hcells⟩ : ∃ e es, x.wins.cells = e :: es := by
    cases hcells : x.wins.cells with
    | nil => exact absurd (by rw [Ctx.oldest, hcells]) h
    | cons e es => exact ⟨e, es, rfl⟩
  have hold : x.oldest = e.1 := by rw [Ctx.oldest, hcells]
  have hlength : (x.spilled x.oldest).wins.cells.length = x.wins.cells.length := by
    show (Table.putIn x.oldest _ x.wins.cells).length = _
    rw [hcells, Table.putIn, if_pos hold.symm]
    rfl
  have hfind : (x.spilled x.oldest).wins.find x.depth = x.wins.find x.depth := Table.find_set_other _ (Ne.symm h) _
  show (x.spilled x.oldest).wins.cells.length + (if ((x.spilled x.oldest).wins.find x.depth).isSome then 0 else 1) + x.goneSlots = _
  rw [hlength, hfind]
  rfl
/-- What a context that needs a spill is. -/
theorem Ctx.room_spill {x : Ctx} (h : x.room = .spill) : ¬ x.slotsUsed < 4 ∧ x.goneSlots = 0
    ∧ ¬ (x.oldest = x.depth ∨ x.winPending x.oldest = true ∨ x.winPending (x.oldest - 1) = true) := by
  unfold Ctx.room at h
  split at h
  · cases h
  · split at h
    · cases h
    · split at h
      · cases h
      · refine ⟨‹_›, ?_, ‹_›⟩
        next hgone _ => exact Classical.not_not.1 hgone
/-- Once its oldest window is clean, a context that needed a spill can reuse it. -/
theorem Ctx.spilled_room {x : Ctx} (h : x.room = .spill) : (x.spilled x.oldest).room = .reuse := by
  obtain ⟨hslots, hgone, hfree⟩ := Ctx.room_spill h
  have holdest := x.spilled_oldest
  have hused := Ctx.spilled_slotsUsed (fun h => hfree (.inl h))
  have hgone' : (x.spilled x.oldest).goneSlots = 0 := hgone
  have hpending : ∀ k, (x.spilled x.oldest).winPending k = x.winPending k := fun _ => rfl
  have hdepth : (x.spilled x.oldest).depth = x.depth := rfl
  have hclean : (((x.spilled x.oldest).win x.oldest).clean && (x.spilled x.oldest).recvClean) = true := by
    rw [Ctx.spilled_clean]
    simp [Ctx.spilled]
  unfold Ctx.room
  rw [hused, if_neg hslots, if_neg (fun h => h hgone'), holdest, hpending, hpending, hdepth, if_neg hfree, if_pos hclean]

theorem State.wantsSpill_of {p : Park} (hpark : (s.ctx c n).park = some p) (hlive : (s.ctx c n).live = true) (hroom : (s.ctx c n).room = .spill)
    (hp : (∃ b, p = .cond .spill b) ∨ ∃ code w1 w2 w3, p = .trapEntry code w1 w2 w3) : s.wantsSpill c n = true := by
  unfold State.wantsSpill
  dsimp only
  rw [hlive, hroom, hpark]
  obtain ⟨b, rfl⟩ | ⟨code, w1, w2, w3, rfl⟩ := hp <;> rfl
/-- A CALL that waited for a spill re-executes. -/
theorem exec_windowSpill_cond {b : Option Bundle} (hpark : (s.ctx c n).park = some (.cond .spill b)) (hlive : (s.ctx c n).live = true)
    (hroom : (s.ctx c n).room = .spill) : exec (.windowSpill c n) s = .next (s.spillWindow c n (s.ctx c n).oldest) := by
  have hpark' : ((s.spillWindow c n (s.ctx c n).oldest).ctx c n).park = some (.cond .spill b) := by
    rw [State.spillWindow_ctx]
    exact hpark
  show execWindowSpill c n s = _
  unfold execWindowSpill
  rw [if_pos (State.wantsSpill_of hpark hlive hroom (.inl ⟨b, rfl⟩))]
  dsimp only
  rw [hpark']
/-- A trap entry that waited for a spill completes. -/
theorem exec_windowSpill_trap {code : FCode} {w1 w2 w3 h : Word} (hpark : (s.ctx c n).park = some (.trapEntry code w1 w2 w3))
    (hlive : (s.ctx c n).live = true) (hroom : (s.ctx c n).room = .spill) (hhandler : s.handler c = some h) :
    exec (.windowSpill c n) s = .next ((s.spillWindow c n (s.ctx c n).oldest).setCtx c n
      { ((s.ctx c n).spilled (s.ctx c n).oldest).enterTrap h code w1 w2 w3 with readyAt := s.now + 1 }) := by
  have hctx := s.spillWindow_ctx c n (s.ctx c n).oldest
  have hpark' : ((s.spillWindow c n (s.ctx c n).oldest).ctx c n).park = some (.trapEntry code w1 w2 w3) := by
    rw [hctx]
    exact hpark
  have hhandler' : (s.spillWindow c n (s.ctx c n).oldest).handler c = some h := hhandler
  have hentry : ¬ (((s.spillWindow c n (s.ctx c n).oldest).ctx c n).room = .spill ∨ ((s.spillWindow c n (s.ctx c n).oldest).ctx c n).room = .blocked) := by
    rw [hctx, Ctx.spilled_room hroom]
    decide
  show execWindowSpill c n s = _
  unfold execWindowSpill
  rw [if_pos (State.wantsSpill_of hpark hlive hroom (.inr ⟨code, w1, w2, w3, rfl⟩))]
  dsimp only
  rw [hpark']
  dsimp only
  unfold State.finishEntry
  dsimp only
  rw [if_neg hentry, hpark']
  dsimp only
  rw [hhandler', hctx]
  rfl

end

/-! ### WINDOW_REFILL -/

/-- A window whose kept registers come from a list and whose passed ones from another. -/
theorem findIn_map_range {α : Type} (f : Nat → α) (lo n k : Nat) (l : List (Nat × α)) :
    Table.findIn k ((List.range n).map (fun r => (lo + r, f r)) ++ l) = if lo ≤ k ∧ k < lo + n then some (f (k - lo)) else Table.findIn k l := by
  induction n generalizing l with
  | zero => simp
  | succ n ih =>
    rw [List.range_succ, List.map_append, List.append_assoc, ih]
    by_cases hk : lo ≤ k ∧ k < lo + n
    · rw [if_pos hk, if_pos (by omega)]
    · rw [if_neg hk]
      simp only [List.map_cons, List.map_nil, List.cons_append, List.nil_append, Table.findIn]
      by_cases heq : lo + n = k
      · subst heq
        rw [if_pos rfl, if_pos (by omega), Nat.add_sub_cancel_left]
      · rw [if_neg heq, if_neg (by omega)]

section
variable {s : State} {c n k : Nat}

/-- The window a refill brings back. -/
def State.refilled (s : State) (c n k : Nat) : Table Word :=
  ⟨winLoad s.mem (spad c (s.stackAt c n k)) 8 ++ (List.range 8).map (fun r => (r + 16, Table.get 0 (s.ctx c n).recv r))⟩
theorem State.refilled_kept {r : Nat} (hr : r < 8) :
    Table.get 0 (s.refilled c n k) (8 + r) = BitVec.ofNat 64 (memLe s.mem 8 (spad c (s.stackAt c n k) + 8 * r)) := by
  unfold State.refilled Table.get Table.find winLoad
  rw [findIn_map_range, if_pos (by omega), Nat.add_sub_cancel_left]
  rfl
theorem State.refilled_passed {r : Nat} (hr : r < 8) : Table.get 0 (s.refilled c n k) (16 + r) = Table.get 0 (s.ctx c n).recv r := by
  have hpassed := findIn_map_range (fun r => Table.get 0 (s.ctx c n).recv r) 16 8 (16 + r) []
  rw [List.append_nil, if_pos (by omega), Nat.add_sub_cancel_left] at hpassed
  unfold State.refilled
  rw [Table.get, Table.find]
  unfold winLoad
  rw [findIn_map_range, if_neg (by omega)]
  simp only [Nat.add_comm _ 16]
  rw [hpassed]
  rfl
theorem State.refillWindow_ctx : ∃ recv, (s.refillWindow c n k).ctx c n
    = { s.ctx c n with wins := (s.ctx c n).wins.set k ⟨s.refilled c n k, (s.ctx c n).recvClean⟩, recv := recv, recvClean := true } :=
  ⟨_, Table.get_set_self _ _ _ _⟩
theorem exec_windowRefill {b : Option Bundle} (hpark : (s.ctx c n).park = some (.cond (.refill k) b)) (hlive : (s.ctx c n).live = true)
    (hold : k + 1 = (s.ctx c n).oldest) (hslots : (s.ctx c n).slotsUsed < 4) : exec (.windowRefill c n) s = .next (s.refillWindow c n k) := by
  have hwants : s.wantsRefill c n = some k := by
    unfold State.wantsRefill
    dsimp only
    rw [hpark]
    exact if_pos ⟨hlive, hold, hslots⟩
  show execWindowRefill c n s = _
  unfold execWindowRefill
  rw [hwants]
/-- A context whose window below came back reads as it did. -/
theorem Ctx.refilled_read {x : Ctx} {w : Win} {recv : Table Word} (hold : k + 1 = x.oldest) (hres : x.resident k = false) (hlatest : x.windowsLatest)
    (hpassed : ∀ r, r < 8 → Table.get 0 w.regs (16 + r) = Table.get 0 x.recv r) (q : Reg) :
    ({ x with wins := x.wins.set k w, recv := recv, recvClean := true } : Ctx).read q = x.read q := by
  obtain ⟨hdepth, hfind⟩ : x.depth ≠ k ∧ (x.wins.find k).isSome = false := by
    unfold Ctx.resident at hres
    rw [Bool.or_eq_false_iff] at hres
    exact ⟨fun h => by simp [h] at hres, hres.2⟩
  cases q with
  | w r =>
    show (if 8 ≤ r.val then Table.get 0 (Table.get _ (x.wins.set k w) x.depth).regs r.val else _) = x.readW r.val
    unfold Ctx.readW
    split
    · rw [Table.get_set_other _ _ hdepth]
      rfl
    · next hr =>
      show (if x.depth = 1 then Table.get 0 x.base r.val else match (x.wins.set k w).find (x.depth - 1) with
        | some w => Table.get 0 w.regs (r.val + 16)
        | none => Table.get 0 recv r.val) = x.readBelow r.val
      unfold Ctx.readBelow
      by_cases hd : x.depth = 1
      · rw [if_pos hd, if_pos hd]
      · rw [if_neg hd, if_neg hd]
        by_cases hk : x.depth - 1 = k
        · have hnone : x.wins.find k = none := by simpa using hfind
          rw [hk, Table.find_set_self, hnone, Nat.add_comm]
          exact hpassed r.val (by omega)
        · rw [Table.find_set_other _ hk]
          obtain h | h | h := hlatest
          · exact absurd h hd
          · obtain ⟨w', hw'⟩ := Option.isSome_iff_exists.1 h
            rw [hw']
          · omega
  | _ => rfl

end

/-- Settles O48: a spill and a refill leave every register as it reads. -/
theorem windowTraffic : Obligations.WindowTraffic := by
  intro s c n x
  refine ⟨fun k m hfind hk hwss hwf => ?_, exec_eagerSpill_none, fun b hpark hlive hroom => ?_, fun code w1 w2 w3 h hpark hlive hroom hhandler => ?_,
    fun k b hpark hlive hold hslots hres hlatest hk => ?_⟩
  · obtain ⟨hexec, hm, hdirty⟩ := exec_eagerSpill hfind
    obtain ⟨hresident, hfits⟩ := State.dirtyWindow_spec hdirty
    have hctx := s.spillWindow_ctx c m k
    refine ⟨_, hexec, ?_, fun r hr => State.spillWindow_mem hk hm hwss hfits hwf hr, fun q => ?_, ?_, s.spillWindow_frame c m k⟩
    · rw [hctx, Ctx.spilled_clean]
    · rw [hctx, Ctx.spilled_read _ hresident]
    · rw [hctx]
      rfl
  · have hctx := s.spillWindow_ctx c n x.oldest
    refine ⟨_, exec_windowSpill_cond hpark hlive hroom, ?_, fun q => ?_, ?_, s.spillWindow_frame c n x.oldest⟩
    · rw [hctx, Ctx.spilled_clean]
    · rw [hctx, Ctx.spilled_read _ x.resident_oldest]
    · rw [hctx]
      rfl
  · have hentered := Ctx.entered_enterTrap (x.spilled x.oldest) h code w1 w2 w3
    have hexec := exec_windowSpill_trap hpark hlive hroom hhandler
    generalize s.spillWindow c n (s.ctx c n).oldest = t at hexec
    change (x.spilled x.oldest).Entered h code w1 w2 w3 ((x.spilled x.oldest).enterTrap h code w1 w2 w3) at hentered
    change _ = Host.Outcome.next (t.setCtx c n { (x.spilled x.oldest).enterTrap h code w1 w2 w3 with readyAt := s.now + 1 }) at hexec
    generalize (x.spilled x.oldest).enterTrap h code w1 w2 w3 = y at hentered hexec
    have hctx : (t.setCtx c n { y with readyAt := s.now + 1 }).ctx c n = { y with readyAt := s.now + 1 } := Table.get_set_self _ _ _ _
    refine ⟨_, hexec, ?_⟩
    rw [hctx]
    refine ⟨hentered.pc, congrArg (fun l => l.length + 1) hentered.openers, hentered.park, ?_, ?_, ?_, ?_⟩
    · exact hentered.readW 0 (by decide) (.inl (by decide))
    · exact hentered.readW 1 (by decide) (.inl (by decide))
    · exact hentered.readW 2 (by decide) (.inl (by decide))
    · exact hentered.readW 3 (by decide) (.inl (by decide))
  · obtain ⟨recv, hctx⟩ := s.refillWindow_ctx (c := c) (n := n) (k := k)
    have hwin : ((s.refillWindow c n k).ctx c n).win k = ⟨s.refilled c n k, x.recvClean⟩ := by
      rw [hctx]
      exact Table.get_set_self _ _ _ _
    refine ⟨_, exec_windowRefill hpark hlive hold hslots, ?_, ?_, fun r hr => ?_, fun r hr => ?_, fun q => ?_, rfl⟩
    · rw [hctx]
      simp [Ctx.resident]
    · rw [hctx]
    · rw [hwin, State.refilled_kept hr]
    · rw [hwin, State.refilled_passed hr]
    · rw [hctx]
      exact Ctx.refilled_read hold hres hlatest (fun r hr => State.refilled_passed hr) q

end Sys2Proof.Machine
end

section
/-! PROOFS. Moving an engine on touches no unit but the engine and the agenda; the barrel core's own events (O49). -/

namespace Sys2Proof.Machine

/-! ### What moving an engine on leaves -/

/-- A state besides its engines and its agenda. -/
def State.unmoved (s : State) : State := { s with engines := .empty, agenda := [] }

/-- A state that agrees with another besides those is it, with those its own. -/
theorem State.eq_of_unmoved {s t : State} (h : t.unmoved = s.unmoved) : t = { s with engines := t.engines, agenda := t.agenda } :=
  congrArg (fun x : State => { x with engines := t.engines, agenda := t.agenda }) h

section
variable (s : State) (l : Nat)

theorem State.sched_unmoved (n : Nat) (i : Instr) : (s.sched n i).unmoved = s.unmoved := rfl
theorem State.schedOnce_unmoved (n : Nat) (i : Instr) : (s.schedOnce n i).unmoved = s.unmoved := by
  unfold State.schedOnce
  split <;> rfl
theorem State.schedSoon_unmoved (n : Nat) (i : Instr) : (s.schedSoon n i).unmoved = s.unmoved := by
  unfold State.schedSoon
  split <;> rfl
theorem State.driveLoader_unmoved (far : Bool) (base : Nat) : (s.driveLoader l far base).unmoved = s.unmoved := by
  unfold State.driveLoader
  dsimp only
  split
  · rfl
  · split <;> rfl
theorem State.offerEng_unmoved (base : Nat) : (s.offerEng l base).unmoved = s.unmoved := by
  have hloaders := (State.driveLoader_unmoved (s.driveLoader l false base) l true base).trans (s.driveLoader_unmoved l false base)
  unfold State.offerEng
  dsimp only
  generalize (s.driveLoader l false base).driveLoader l true base = t at *
  rw [← hloaders]
  split
  · simp only [apply_ite State.unmoved, State.schedSoon_unmoved, State.schedOnce_unmoved, ite_self]
  · simp only [apply_ite State.unmoved, State.schedSoon_unmoved, State.schedOnce_unmoved, ite_self]
theorem State.reread_unmoved (far : Bool) (f : Option Fetch) :
    (match f with | some f => s.sched (f.ends - s.now) (.loaderFetch l far) | none => s).unmoved = s.unmoved := by
  cases f <;> rfl
theorem State.goOnEng_unmoved (h t : Nat) : (s.goOnEng l h t).unmoved = s.unmoved := by
  unfold State.goOnEng
  dsimp only
  generalize ({ (s.eng l).delay (t - h) (t - Nat.max h ((s.eng l).press.elim 0 (·.2))) with
      held := none, stalls := if (s.eng l).sched_ = true then (s.eng l).stalls + (t - h) else (s.eng l).stalls } : Engine) = e
  have hset : (s.setEng l e).unmoved = s.unmoved := rfl
  generalize s.setEng l e = u at *
  exact (State.reread_unmoved _ l true _).trans ((u.reread_unmoved l false _).trans hset)
theorem State.standing_unmoved (base : Nat) : (s.standing l base).unmoved = s.unmoved := by
  unfold State.standing
  dsimp only
  split
  · rfl
  · split
    · split
      · exact s.goOnEng_unmoved l _ _
      · rfl
    · rfl
theorem State.driveEng_unmoved (base : Nat) : (s.driveEng l base).unmoved = s.unmoved := by
  unfold State.driveEng
  dsimp only
  generalize (if (s.eng l).st = .ready ∧ (!(s.eng l).stopping) = true ∧ 0 < (s.eng l).near.fed ∧ 0 < (s.eng l).far.fed
    then { s.eng l with st := .running } else s.eng l) = e
  generalize (if e.runs = true then absorb (64 * e.depth + 96) e else e) = f
  have hstand : ((s.setEng l f).standing l base).unmoved = s.unmoved := (s.setEng l f).standing_unmoved l base
  generalize (s.setEng l f).standing l base = t at *
  split
  · exact hstand
  · exact (t.offerEng_unmoved l _).trans hstand
/-- The other engines stand. -/
theorem State.driveEng_other {l k : Nat} (base : Nat) (h : k ≠ l) : (s.driveEng l base).eng k = s.eng k := by
  obtain ⟨w, -, hdriven⟩ := s.driveEng_driven l base
  exact hdriven.others k h

/-! ### The engines of a throttled core -/

theorem Engine.absorb_runs (n : Nat) (e : Engine) : (absorb n e).runs = e.runs := by
  induction n generalizing e with
  | zero => rfl
  | succ n ih =>
    unfold absorb
    split
    · rfl
    · split
      · rw [ih]
        unfold Engine.modEnd
        split <;> split <;> rfl
      · rfl

end

/-! ### The links of a core -/

section
variable {c : Nat} (hc : c < Config.cores)
include hc

theorem coreDie_of_lt : coreDie c = c / 576 := by
  unfold coreDie isSteward
  rw [if_neg (by simpa using hc)]
theorem neighbour_lt (d : Dir) : neighbour c d < Config.cores := by
  have hc' : c < 2304 := hc
  show neighbour c d < 2304
  cases d
  all_goals
    unfold neighbour coreAt coreX coreY
    rw [coreDie_of_lt hc]
    dsimp only
    omega
theorem linkOwner_lt (d : Dir) : linkOwner c d < Config.cores := by
  cases d
  · exact hc
  · exact hc
  · exact neighbour_lt hc .w
  · exact neighbour_lt hc .n
theorem linkNear_linkId (d : Dir) : linkNear (linkId c d) = linkOwner c d := by
  have ho := linkOwner_lt hc d
  have ho' : linkOwner c d < 2304 := ho
  unfold linkNear linkId coreX coreY
  dsimp only
  rw [coreDie_of_lt ho]
  generalize linkOwner c d = o at *
  cases d
  all_goals
    dsimp only
    omega
omit hc in
theorem linkId_mod (c : Nat) (d : Dir) : linkId c d % 2 = match d with | .e | .w => 0 | .s | .n => 1 := by
  unfold linkId
  dsimp only
  cases d
  all_goals
    dsimp only
    omega
theorem neighbour_west_east : neighbour (neighbour c .w) .e = c := by
  have hc' : c < 2304 := hc
  have hn : neighbour c .w = 576 * (c / 576) + 24 * (c % 576 / 24) + (c % 24 + 23) % 24 := by
    rw [← coreDie_of_lt hc]
    rfl
  have hlt := neighbour_lt hc .w
  rw [hn] at hlt ⊢
  unfold neighbour coreAt coreX coreY
  rw [coreDie_of_lt hlt]
  dsimp only
  omega
theorem neighbour_north_south : neighbour (neighbour c .n) .s = c := by
  have hc' : c < 2304 := hc
  have hn : neighbour c .n = 576 * (c / 576) + 24 * ((c % 576 / 24 + 23) % 24) + c % 24 := by
    rw [← coreDie_of_lt hc]
    rfl
  have hlt := neighbour_lt hc .n
  rw [hn] at hlt ⊢
  unfold neighbour coreAt coreX coreY
  rw [coreDie_of_lt hlt]
  dsimp only
  omega
/-- A core is at an end of the link of each of its directions. -/
theorem linkEnds (d : Dir) : linkNear (linkId c d) = c ∨ linkFar (linkId c d) = c := by
  have hmod := linkId_mod c d
  unfold linkFar
  rw [linkNear_linkId hc]
  cases d
  case e => exact .inl rfl
  case s => exact .inl rfl
  case w =>
    refine .inr ?_
    dsimp only at hmod
    rw [hmod]
    exact neighbour_west_east hc
  case n =>
    refine .inr ?_
    dsimp only at hmod
    rw [hmod]
    exact neighbour_north_south hc

end

/-! ### Throttle steps -/

theorem foldl_min_le (l : List Nat) (d : Nat) : l.foldl Nat.min d ≤ d :=
  List.foldlRecOn (motive := fun a => a ≤ d) l _ (Nat.le_refl d) (fun _ ha b _ => Nat.le_trans (Nat.min_le_left _ b) ha)
/-- An engine at a throttled core must stand from this cycle. -/
theorem State.standFrom_throttled {s : State} {l : Nat} (hruns : (s.eng l).runs = true)
    (hthrottled : linkNear l ∈ s.throttled ∨ linkFar l ∈ s.throttled) (base : Nat) : ∃ d, s.standFrom l base = some d ∧ d.1 ≤ s.now := by
  have hcond : (s.throttled.contains (linkNear l) || s.throttled.contains (linkFar l)) = true := by simpa using hthrottled
  unfold State.standFrom
  dsimp only
  rw [if_neg (by simp [hruns]), if_pos hcond]
  exact ⟨_, rfl, foldl_min_le _ _⟩
/-- An engine that runs at a throttled core is made to stand. -/
theorem State.driveEng_stands {s : State} {l : Nat} (hruns : (s.eng l).runs = true)
    (hthrottled : linkNear l ∈ s.throttled ∨ linkFar l ∈ s.throttled) : ((s.driveEng l 0).eng l).moving s.now = false := by
  unfold State.driveEng
  dsimp only
  generalize he : (if (s.eng l).st = .ready ∧ (!(s.eng l).stopping) = true ∧ 0 < (s.eng l).near.fed ∧ 0 < (s.eng l).far.fed
    then { s.eng l with st := .running } else s.eng l) = e
  have heruns : e.runs = true := by
    rw [← he]
    split
    · simp_all [Engine.runs]
    · exact hruns
  generalize hf : (if e.runs = true then absorb (64 * e.depth + 96) e else e) = f
  have hfruns : ((s.setEng l f).eng l).runs = true := by
    rw [State.eng_setEng, ← hf, if_pos heruns, Engine.absorb_runs, heruns]
  obtain ⟨d, hd, hdnow⟩ := State.standFrom_throttled (s := s.setEng l f) hfruns hthrottled 0
  have hstand : (s.setEng l f).standing l 0
      = (s.setEng l f).modEng l (fun e => { e with held := some (e.held.elim d.1 (fun h => Nat.min h.1 d.1), d.2) }) := by
    unfold State.standing
    rw [hd]
  rw [hstand]
  have hheld : (((s.setEng l f).modEng l (fun e => { e with held := some (e.held.elim d.1 (fun h => Nat.min h.1 d.1), d.2) })).eng l).standing s.now
      = true := by
    rw [State.eng_modEng]
    unfold Engine.standing
    refine decide_eq_true (Nat.le_trans ?_ hdnow)
    cases ((s.setEng l f).eng l).held with
    | none => exact Nat.le_refl _
    | some h => exact Nat.min_le_right _ _
  have hnow : ((s.setEng l f).modEng l (fun e => { e with held := some (e.held.elim d.1 (fun h => Nat.min h.1 d.1), d.2) })).now + 0 = s.now := rfl
  generalize (s.setEng l f).modEng l (fun e => { e with held := some (e.held.elim d.1 (fun h => Nat.min h.1 d.1), d.2) }) = t at *
  rw [hnow, if_pos hheld]
  unfold Engine.moving
  rw [hheld]
  exact Bool.and_false _
theorem State.driveLinks_unmoved (s : State) (c : Nat) : (s.driveLinks c).unmoved = s.unmoved := by
  unfold State.driveLinks
  refine List.foldlRecOn (motive := fun t : State => t.unmoved = s.unmoved) allDirs _ rfl (fun t ht d _ => ?_)
  split
  · exact (t.driveEng_unmoved _ 0).trans ht
  · exact ht
/-- One step over the links of a throttled core: that link's engine stands, and an engine that stood stands on. -/
theorem State.driveLink_stands {s : State} {c : Nat} (hc : c < Config.cores) (hthrottled : c ∈ s.throttled) (d : Dir) {l : Nat}
    (h : l = linkId c d ∨ (s.eng l).moving s.now = false) :
    ((if (s.eng (linkId c d)).runs then s.driveEng (linkId c d) 0 else s).eng l).moving s.now = false := by
  by_cases hl : l = linkId c d
  · subst hl
    split
    · next hruns =>
      refine State.driveEng_stands hruns ?_
      obtain hn | hn := linkEnds hc d <;> rw [hn] <;> simp [hthrottled]
    · next hruns =>
      unfold Engine.moving
      rw [Bool.eq_false_iff.2 hruns]
      rfl
  · have hmove := h.resolve_left hl
    split
    · rw [State.driveEng_other _ _ hl]
      exact hmove
    · exact hmove
/-- Every engine of a throttled core's links stands. -/
theorem State.driveLinks_stands {s : State} {c : Nat} (hc : c < Config.cores) (hthrottled : c ∈ s.throttled) (d : Dir) :
    ((s.driveLinks c).eng (linkId c d)).moving s.now = false := by
  have hkeep (ds : List Dir) : ∀ t : State, t.unmoved = s.unmoved → (d ∈ ds ∨ (t.eng (linkId c d)).moving s.now = false) →
      ((ds.foldl (fun (s : State) d => if (s.eng (linkId c d)).runs then s.driveEng (linkId c d) 0 else s) t).eng (linkId c d)).moving s.now
        = false := by
    induction ds with
    | nil => exact fun t _ h => h.resolve_left (List.not_mem_nil)
    | cons a as ih =>
      intro t ht h
      have hnow : t.now = s.now := (congrArg State.now ht :)
      have hsame : t.throttled = s.throttled := (congrArg State.throttled ht :)
      have hin : c ∈ t.throttled := hsame ▸ hthrottled
      refine ih _ ?_ ?_
      · dsimp only
        split
        · exact (t.driveEng_unmoved _ 0).trans ht
        · exact ht
      · have hstep := State.driveLink_stands (s := t) hc hin a (l := linkId c d)
        rw [hnow] at hstep
        obtain hmem | hmove := h
        · obtain rfl | hmem := List.mem_cons.1 hmem
          · exact .inr (hstep (.inl rfl))
          · exact .inl hmem
        · exact .inr (hstep (.inr hmove))
  exact hkeep allDirs s rfl (.inl (by cases d <;> decide))

section
variable {s : State} {c : Nat}

theorem exec_throttleStepBegin (hnow : s.now % 16 = 0) :
    exec (.throttleStepBegin c) s = .next ({ s with throttled := insertNat c s.throttled }.driveLinks c) :=
  congrArg Host.Outcome.next (if_pos hnow)
theorem exec_throttleStepBegin_early (hnow : s.now % 16 ≠ 0) :
    exec (.throttleStepBegin c) s = .next (s.schedOnce (16 - s.now % 16) (.throttleStepBegin c)) :=
  congrArg Host.Outcome.next (if_neg hnow)
theorem exec_throttleStepEnd (hnow : s.now % 16 = 0) :
    exec (.throttleStepEnd c) s = .next ({ s with throttled := removeNat c s.throttled }.driveLinks c) :=
  congrArg Host.Outcome.next (if_pos hnow)
theorem State.throttles_frame {t : State} {l : List Nat} (h : t.unmoved = State.unmoved { s with throttled := l }) :
    t = { s with throttled := t.throttled, engines := t.engines, agenda := t.agenda } :=
  congrArg (fun x : State => { x with throttled := t.throttled, engines := t.engines, agenda := t.agenda }) h
theorem State.not_runnable_throttled (h : c ∈ s.throttled) (j : Nat) : s.runnable c j = false := by
  unfold State.runnable
  have hcontains : s.throttled.contains c = true := by simpa using h
  rw [hcontains]
  exact Bool.and_false _

end

/-! ### Fatal faults -/

/-- Every engine of a halted team stops. -/
theorem State.haltTeam_stops {s : State} {c k n : Nat} {u : Team} (hcore : isSteward c = false) (hteam : s.teamOf c = some (k, u)) (code : FCode)
    (w1 w2 w3 : Word) : ∀ l ∈ s.teamEngines k, ((s.haltTeam c n code w1 w2 w3).eng l).stopping = true := by
  intro l hl
  have hkeep (ls : List Nat) : ∀ t : State, (l ∈ ls ∨ (t.eng l).stopping = true) →
      ((ls.foldl (fun s l => s.modEng l (fun e => { e with stopping := true })) t).eng l).stopping = true := by
    induction ls with
    | nil => exact fun t h => h.resolve_left List.not_mem_nil
    | cons a as ih =>
      refine fun t h => ih _ ?_
      by_cases ha : l = a
      · subst ha
        refine .inr ?_
        rw [State.eng_modEng]
      · rw [show (t.modEng a (fun e => { e with stopping := true })).eng l = t.eng l from Table.get_set_other _ _ ha _]
        exact h.imp_left (fun h => (List.mem_cons.1 h).resolve_left ha)
  have hengines (f : Team → Team) : (s.modTeam k f).teamEngines k = s.teamEngines k := by
    unfold State.teamEngines
    rw [State.modTeam_frame]
  unfold State.haltTeam
  rw [hcore, if_neg (by decide), hteam]
  exact hkeep _ _ (.inl ((hengines _).symm ▸ hl))

theorem exec_softError {s : State} {c n : Nat} (hlive : (s.ctx c n).live = true) :
    exec (.softError c n) s = .next (State.haltTeam { s with noEffect := true } c n .soft (s.ctx c n).pc 0 0) := by
  show Host.Outcome.next (if (s.ctx c n).live then s.trap c n .soft (s.ctx c n).pc 0 0 else s) = _
  rw [if_pos hlive]
  unfold State.trap
  dsimp only
  rw [if_pos (.inl rfl)]
theorem Ctx.live_iff {x : Ctx} : x.live = true ↔ x.st = .running ∧ x.halted = false := by
  simp [Ctx.live]

theorem exec_trapEntry_taken {s : State} {c n : Nat} {code : FCode} {w2 w3 : Word} (hentry : ∀ a b d e, (s.ctx c n).park ≠ some (.trapEntry a b d e))
    (hlight : ∀ d v, (s.ctx c n).park ≠ some (.lightCall d v)) :
    exec (.trapEntry c n code w2 w3) s = .next (if (s.ctx c n).live then s.trap c n code (s.ctx c n).pc w2 w3 else s) := by
  show execTrapEntry c n code w2 w3 s = _
  unfold execTrapEntry
  split
  · next h => exact absurd h (hentry _ _ _ _)
  · next h => exact absurd h (hlight _ _)
  · rfl

/-! ### The fault log -/

theorem memPut_append (m : List Host.Cell) (a : Nat) (bs cs : List Byte) : memPut m a (bs ++ cs) = memPut (memPut m a bs) (a + bs.length) cs := by
  induction bs generalizing m a with
  | nil => rfl
  | cons b bs ih =>
    rw [List.cons_append, memPut, ih, memPut, List.length_cons, Nat.add_right_comm, Nat.add_assoc]
/-- An entry, once written, stands at its place (R242). -/
theorem memPut_logBytes {m : List Host.Cell} (h : Memory.wf m = true) (a : Nat) (e : LogEnt) (hkind : e.kind < 16) :
    memLe (memPut m a (logBytes e)) 8 (a + 8) = e.addr.toNat ∧ memRead (memPut m a (logBytes e)) (a + 7) = BitVec.ofNat 8 (fcNum e.code)
      ∧ memRead (memPut m a (logBytes e)) (a + 6) = BitVec.ofNat 8 (e.kind * 16) := by
  have hcode : fcNum e.code < 256 := by cases e.code <;> decide
  rw [logBytes]
  generalize hv : e.info % 2 ^ 48 + e.kind * 2 ^ 52 + fcNum e.code * 2 ^ 56 = v
  have hbyte (k : Nat) (hk : k < 8) : memRead (memPut m a (leBytes 8 v ++ leBytes 8 e.addr.toNat)) (a + k) = BitVec.ofNat 8 (v / 256 ^ k) := by
    rw [memPut_append, memRead_memPut_other _ _ (by rw [length_leBytes]; omega)]
    exact memHolds_memPut_leBytes h a 8 v k hk
  refine ⟨?_, (hbyte 7 (by decide)).trans (congrArg _ ?_), (hbyte 6 (by decide)).trans (BitVec.eq_of_toNat_eq ?_)⟩
  · rw [memPut_append, length_leBytes, memLe_memPut_leBytes (memory_wf_memPut h _ _)]
    exact Nat.mod_eq_of_lt e.addr.isLt
  · omega
  · rw [BitVec.toNat_ofNat, BitVec.toNat_ofNat]
    omega

section
variable {s : State} {c n : Nat}

theorem exec_faultLogEntry_room {e : LogEnt} {p : TlbE} (hcore : isSteward c = false) (hroom : (s.ctx c n).flogn < 16)
    (hwalk : s.walk (s.spaceOf c) (s.logBase c n + 16 * (s.ctx c n).flogn) = some p) :
    exec (.faultLogEntry c n e) s
      = .next (State.modCtx { s with mem := memPut s.mem (p.phys (s.logBase c n + 16 * (s.ctx c n).flogn)) (logBytes e) } c n
          (fun x => { x with flogn := if x.flogn < 255 then x.flogn + 1 else 255 })) := by
  show Host.Outcome.next (s.logFault c n e) = _
  unfold State.logFault
  rw [hcore, if_neg (by decide)]
  dsimp only
  rw [if_pos hroom, hwalk]
theorem exec_faultLogEntry_full {e : LogEnt} (hcore : isSteward c = false) (hfull : 16 ≤ (s.ctx c n).flogn) :
    exec (.faultLogEntry c n e) s = .next (s.modCtx c n (fun x => { x with flogn := if x.flogn < 255 then x.flogn + 1 else 255 })) := by
  show Host.Outcome.next (s.logFault c n e) = _
  unfold State.logFault
  rw [hcore, if_neg (by decide)]
  dsimp only
  rw [if_neg (by omega)]

end

/-! ### Light-handler calls -/

theorem Ctx.enterLight_spec (x : Ctx) (h : Word) (d : Dir) (v : Word) :
    (x.enterLight h d v).pc = h ∧ (x.enterLight h d v).openers = .light :: x.openers ∧ (x.enterLight h d v).readW 0 = v
      ∧ (x.enterLight h d v).readW 1 = BitVec.ofNat 64 (dirNum d) ∧ (x.enterLight h d v).readW 8 = x.pc
      ∧ (x.enterLight h d v).trapDepth = x.trapDepth := by
  have hread (r : Nat) (hr : r < 24) : ((((x.openWindow .light).writeW 0 v).writeW 1 (BitVec.ofNat 64 (dirNum d))).writeW 8 x.pc).readW r
      = if r = 8 then x.pc else if r = 1 then BitVec.ofNat 64 (dirNum d) else if r = 0 then v else (x.openWindow .light).readW r := by
    rw [Ctx.readW_writeW _ _ _ _ (by decide) hr, Ctx.readW_writeW _ _ _ _ (by decide) hr, Ctx.readW_writeW _ _ _ _ (by decide) hr]
  have hopeners : ((((x.openWindow .light).writeW 0 v).writeW 1 (BitVec.ofNat 64 (dirNum d))).writeW 8 x.pc).openers = .light :: x.openers := by
    simp
  have htrap : ((((x.openWindow .light).writeW 0 v).writeW 1 (BitVec.ofNat 64 (dirNum d))).writeW 8 x.pc).trapDepth = x.trapDepth := by
    simp
  unfold Ctx.enterLight
  dsimp only
  generalize (((x.openWindow .light).writeW 0 v).writeW 1 (BitVec.ofNat 64 (dirNum d))).writeW 8 x.pc = y at *
  exact ⟨rfl, hopeners, hread 0 (by decide), hread 1 (by decide), hread 8 (by decide), htrap⟩
theorem exec_lightHandlerCall {s : State} {c n : Nat} {d : Dir} {e : QEnt} {es : List QEnt} (hq : (s.core c).inq d = e :: es)
    (hh : (s.core c).handler d ≠ 0) (hdepth : (s.ctx c n).depth + 1 ≤ 4 + s.wss c / 128) (h16 : (s.ctx c n).pendOf (.w 16) = none)
    (h17 : (s.ctx c n).pendOf (.w 17) = none) (hroom : (s.ctx c n).room = .free ∨ (s.ctx c n).room = .reuse) :
    exec (.lightHandlerCall c n d) s = .next ((State.popQ { s with noEffect := true } c d).setCtx c n
      { (s.ctx c n).enterLight ((s.core c).handler d) d e.v with readyAt := s.now + 1 }) := by
  have hmax : ¬ State.maxDepth { s with noEffect := true } c < (s.ctx c n).depth + 1 := Nat.not_lt.2 hdepth
  show Host.Outcome.next (s.lightCall c n d) = _
  unfold State.lightCall
  dsimp only
  rw [hq]
  dsimp only
  rw [if_neg hh, if_neg hmax, h16, h17, if_neg (by decide)]
  obtain h | h := hroom
  · rw [h]
    rfl
  · rw [h]
    rfl

/-- Settles O49: the barrel core's own events. -/
theorem barrelEvents : Obligations.BarrelEvents := by
  intro s c n x
  refine ⟨fun code w2 w3 hentry hlight => ?_, fun hst hhalted k u hcore hteam => ?_, fun e p hwf hcore hroom hkind hwalk => ?_,
    fun e hcore hfull => ?_, fun d e es h hq hh hh0 hdepth h16 h17 hroom => ?_, ?_, fun hnow => ⟨?_, ?_⟩, fun hnow => ?_⟩
  · have htrap := exec_trapEntry_taken (code := code) (w2 := w2) (w3 := w3) hentry hlight
    by_cases hlive : x.live = true
    · rw [if_pos (Ctx.live_iff.1 hlive)]
      exact htrap.trans (congrArg Host.Outcome.next (if_pos hlive))
    · rw [if_neg (fun h => hlive (Ctx.live_iff.2 h))]
      exact htrap.trans (congrArg Host.Outcome.next (if_neg hlive))
  · have hexec := exec_softError (Ctx.live_iff.2 ⟨hst, hhalted⟩)
    have hfind := State.teams_find_of_teamOf hteam
    have hteam' : State.teamOf { s with noEffect := true } c = some (k, u) := hteam
    obtain ⟨e, heq⟩ := State.haltTeam_of_teamOf hcore hteam' n .soft x.pc 0 0
    refine ⟨_, _, hexec, State.haltTeam_halts (s := { s with noEffect := true }) hcore hteam' hfind .soft x.pc 0 0, rfl, ?_, fun hnone => ?_,
      State.haltTeam_stops (s := { s with noEffect := true }) hcore hteam' .soft x.pc 0 0⟩
    · exact (congrArg State.mem heq :)
    · show some (u.halt.getD _) = _
      rw [hnone]
      rfl
  · have hexec := exec_faultLogEntry_room (e := e) hcore hroom hwalk
    have hbytes := memPut_logBytes hwf (p.phys (s.logBase c n + 16 * (s.ctx c n).flogn)) e hkind
    have hkept (b : Nat) (hb : b < p.phys (s.logBase c n + 16 * (s.ctx c n).flogn) ∨ p.phys (s.logBase c n + 16 * (s.ctx c n).flogn) + 16 ≤ b) :=
      memRead_memPut_other s.mem (logBytes e) hb
    generalize memPut s.mem (p.phys (s.logBase c n + 16 * (s.ctx c n).flogn)) (logBytes e) = m at *
    have hself := State.ctx_modCtx_self { s with mem := m } c n (fun x => { x with flogn := if x.flogn < 255 then x.flogn + 1 else 255 })
    refine ⟨_, hexec, ⟨fun b hb => hkept b hb, hbytes⟩, ?_, rfl⟩
    rw [hself]
    exact if_pos (Nat.lt_trans hroom (by decide))
  · rw [exec_faultLogEntry_full hcore hfull]
    have hcount : (if (s.ctx c n).flogn < 255 then (s.ctx c n).flogn + 1 else 255) = min 255 ((s.ctx c n).flogn + 1) := by
      split <;> omega
    show Host.Outcome.next (s.setCtx c n { s.ctx c n with flogn := if (s.ctx c n).flogn < 255 then (s.ctx c n).flogn + 1 else 255 }) = _
    rw [hcount]
    rfl
  · obtain ⟨hpc, hopeners, hr0, hr1, hr8, htrap⟩ := x.enterLight_spec ((s.core c).handler d) d e.v
    have hexec := exec_lightHandlerCall hq (hh ▸ hh0) hdepth h16 h17 hroom
    obtain ⟨-, -, hqueue, -⟩ := State.queue_moves { s with noEffect := true } d e c
    have hmem : (State.popQ { s with noEffect := true } c d).mem = s.mem := rfl
    change _ = Host.Outcome.next ((State.popQ { s with noEffect := true } c d).setCtx c n
      { x.enterLight ((s.core c).handler d) d e.v with readyAt := s.now + 1 }) at hexec
    generalize x.enterLight ((s.core c).handler d) d e.v = y at *
    generalize State.popQ { s with noEffect := true } c d = t at *
    have hself : (t.setCtx c n { y with readyAt := s.now + 1 }).ctx c n = { y with readyAt := s.now + 1 } := Table.get_set_self _ _ _ _
    refine ⟨_, hexec, ?_, ?_, ?_, ?_, ?_, hqueue.trans (congrArg List.tail hq), ?_, hmem⟩
    all_goals rw [hself]
    · exact hpc.trans hh
    · exact congrArg (fun l => l.length + 1) hopeners
    · exact hr0
    · exact hr1
    · exact hr8
    · exact htrap
  · have hself := s.ctx_modCtx_self c n (fun x => x.takeWeight s.now)
    refine ⟨_, rfl, ?_, fun e es hes => ?_, fun hlate => ?_, rfl⟩
    · rw [hself]
      rfl
    · rw [hself]
      show (((x.nextWeights.filter (fun e => decide (e.1 ≤ s.now))).getLast?).map (·.2)).getD x.weight = _
      rw [hes, List.getLast?_concat]
      rfl
    · rw [hself]
      show (((x.nextWeights.filter (fun e => decide (e.1 ≤ s.now))).getLast?).map (·.2)).getD x.weight = _
      rw [List.filter_eq_nil_iff.2 (fun e he => by simpa using hlate e he)]
      rfl
  · have hframe := State.driveLinks_unmoved { s with throttled := insertNat c s.throttled } c
    have hin : c ∈ insertNat c s.throttled := mem_insertNat.2 (.inr rfl)
    have hstands (hc : c < Config.cores) (d : Dir) := State.driveLinks_stands (s := { s with throttled := insertNat c s.throttled }) hc hin d
    have hthrottled : (State.driveLinks { s with throttled := insertNat c s.throttled } c).throttled = insertNat c s.throttled :=
      (congrArg State.throttled hframe :)
    refine ⟨_, exec_throttleStepBegin hnow, fun k => ?_, fun j => State.not_runnable_throttled ?_ j, fun hc d _ => hstands hc d, ?_⟩
    · rw [hthrottled, mem_insertNat, or_comm]
    · rw [hthrottled]
      exact hin
    · exact State.throttles_frame hframe
  · have hframe := State.driveLinks_unmoved { s with throttled := removeNat c s.throttled } c
    have hthrottled : (State.driveLinks { s with throttled := removeNat c s.throttled } c).throttled = removeNat c s.throttled :=
      (congrArg State.throttled hframe :)
    refine ⟨_, exec_throttleStepEnd hnow, fun k => ?_, State.throttles_frame hframe⟩
    rw [hthrottled, mem_removeNat, and_comm]
  · obtain ⟨due, hdue⟩ := s.mem_schedOnce (16 - s.now % 16) (.throttleStepBegin c)
    exact ⟨_, due, exec_throttleStepBegin_early hnow, s.schedOnce_frame _ _, hdue⟩

end Sys2Proof.Machine
end

section
/-! PROOFS. Queue arrivals and credits, levelling samples and iteration claims (O50). -/

namespace Sys2Proof.Machine

/-! ### Queue events -/

section
variable {s : State} {c : Nat}

/-- Where no team has saved a core, its side is the core itself. -/
theorem State.modSide_unsaved (h : ∀ z ∈ s.teams.cells, ∀ e ∈ z.2.savedCore, e.1 ≠ c) (k : Nat) (f : Core → Core) :
    s.modSide k c f = s.modCore c f := by
  have hunsaved {u : Team} {t : Nat} (hu : (t, u) ∈ s.teams.cells) : ¬ u.savedCore.any (fun x => x.1 == c) = true := by
    rw [List.any_eq_true]
    rintro ⟨e, he, hc⟩
    exact h _ hu e he (by simpa using hc)
  have haimed {t : Team} {z : Nat × Team} (hz : s.aimed t c = some z) : z ∈ s.teams.cells := by
    unfold State.aimed at hz
    split at hz
    · next hteam =>
      split at hz
      · obtain rfl := Option.some.inj hz
        exact Table.mem_of_findIn (State.teams_find_of_teamOf hteam)
      · exact List.mem_of_find?_eq_some hz
    · exact List.mem_of_find?_eq_some hz
  unfold State.modSide
  split
  · next t u hz =>
    obtain ⟨v, -, hv⟩ := Option.bind_eq_some_iff.1 hz
    exact if_neg (hunsaved (haimed hv))
  · rfl
theorem State.modCore_frame (f : Core → Core) : (∀ k, k ≠ c → (s.modCore c f).core k = s.core k) ∧ s.modCore c f = { s with cores := (s.modCore c f).cores } :=
  ⟨fun _ hk => Table.get_set_other _ _ hk _, rfl⟩
theorem dirNum_inj {d d' : Dir} (h : dirNum d = dirNum d') : d = d' := by
  revert h
  cases d <;> cases d' <;> decide

/-- The core with the oldest entry in transit last in its inbound queue. -/
def Core.received (x : Core) (d : Dir) (e : QEnt) (es : List QEnt) : Core :=
  { x with transit := x.transit.set (dirNum d) es, qin := x.qin.set (dirNum d) (x.inq d ++ [e]) }
theorem exec_queueEntryArrive (hunsaved : ∀ z ∈ s.teams.cells, ∀ e ∈ z.2.savedCore, e.1 ≠ c) {d : Dir} {e : QEnt} {es : List QEnt}
    (h : Table.get [] (s.core c).transit (dirNum d) = e :: es) :
    exec (.queueEntryArrive c d) s = .next (s.modCore c (fun x => x.received d e es)) := by
  show Host.Outcome.next (s.entryArrives c d) = _
  unfold State.entryArrives
  rw [State.modSide_unsaved hunsaved]
  unfold State.modCore
  dsimp only
  rw [h]
  rfl
theorem exec_creditReturn (hunsaved : ∀ z ∈ s.teams.cells, ∀ e ∈ z.2.savedCore, e.1 ≠ c) (d : Dir) :
    exec (.creditReturn c d) s = .next (s.modCore c (fun x => { x with credits := x.credits.set (dirNum d) (min 16 (x.credit d + 1)) })) :=
  congrArg Host.Outcome.next (State.modSide_unsaved hunsaved _ _)

/-! ### Demands -/

theorem foldl_max_le (l : List Nat) (a : Nat) : a ≤ l.foldl Nat.max a ∧ ∀ b ∈ l, b ≤ l.foldl Nat.max a := by
  induction l generalizing a with
  | nil => exact ⟨Nat.le_refl a, fun _ h => absurd h List.not_mem_nil⟩
  | cons x xs ih =>
    obtain ⟨hstart, hall⟩ := ih (Nat.max a x)
    refine ⟨Nat.le_trans (Nat.le_max_left a x) hstart, fun b hb => ?_⟩
    obtain rfl | hb := List.mem_cons.1 hb
    · exact Nat.le_trans (Nat.le_max_right a b) hstart
    · exact hall b hb
/-- A context's weight is its greatest demand, and 16 if it is free. -/
theorem weightOf_spec (free : Bool) (demands : Table Nat) : (free = true → weightOf free demands = 16)
    ∧ (free = false → ∀ e ∈ demands.cells, e.2 ≤ weightOf free demands) := by
  unfold weightOf
  refine ⟨fun h => if_pos (by rw [h]; rfl), fun h e he => ?_⟩
  have hne : demands.cells.isEmpty = false := by
    rw [List.isEmpty_eq_false_iff]
    exact List.ne_nil_of_mem he
  rw [h, hne, if_neg (by decide)]
  exact (foldl_max_le _ 1).2 _ (List.mem_map_of_mem he)
/-- A demand set on a context writes its weight for the next rotation. -/
theorem State.demand_ctx (s : State) (c n key : Nat) (v : Option Nat) (w : Nat) (hv : v = some w) :
    (s.demand c n key v).ctx c n = ({ s.ctx c n with demands := (s.ctx c n).demands.set key w }).writeWeight ((s.now / 16 + 1) * 16)
        (weightOf ((s.core c).free.contains n) ((s.ctx c n).demands.set key w))
      ∧ ((s.now / 16 + 1) * 16, Instr.weightTakesEffect c n) ∈ (s.demand c n key v).agenda
      ∧ s.demand c n key v = { s with ctxs := (s.demand c n key v).ctxs, agenda := (s.demand c n key v).agenda } := by
  subst hv
  have hself := s.ctx_modCtx_self c n (fun x => { x with demands := x.demands.set key w })
  have hwrite := (s.modCtx c n (fun x => { x with demands := x.demands.set key w })).ctx_modCtx_self c n
    (fun x => x.writeWeight ((s.now / 16 + 1) * 16) (weightOf ((s.core c).free.contains n) ((s.ctx c n).demands.set key w)))
  have hdue : s.now + ((s.now / 16 + 1) * 16 - s.now) = (s.now / 16 + 1) * 16 := by omega
  have heq : s.demand c n key (some w) = (((s.modCtx c n (fun x => { x with demands := x.demands.set key w })).modCtx c n
      (fun x => x.writeWeight ((s.now / 16 + 1) * 16) (weightOf ((s.core c).free.contains n) ((s.ctx c n).demands.set key w)))).sched
        ((s.now / 16 + 1) * 16 - s.now) (.weightTakesEffect c n)) := by
    show State.reweigh (s.modCtx c n (fun x => { x with demands := x.demands.set key w })) c n = _
    unfold State.reweigh
    dsimp only
    rw [hself]
    rfl
  rw [heq]
  refine ⟨hwrite.trans (by rw [hself]), ?_, rfl⟩
  have hmem := State.mem_sched ((s.modCtx c n (fun x => { x with demands := x.demands.set key w })).modCtx c n
      (fun x => x.writeWeight ((s.now / 16 + 1) * 16) (weightOf ((s.core c).free.contains n) ((s.ctx c n).demands.set key w))))
        ((s.now / 16 + 1) * 16 - s.now) (.weightTakesEffect c n)
  change (s.now + ((s.now / 16 + 1) * 16 - s.now), _) ∈ _ at hmem
  rw [hdue] at hmem
  exact hmem

end

theorem queueEvents : Claims.QueueEvents := by
  intro s c d x
  refine ⟨fun hunsaved => ⟨fun e es h => ?_, ?_⟩, fun m w hw => ?_, fun n => ?_⟩
  · have hself := s.core_modCore_self c (fun x => x.received d e es)
    obtain ⟨hothers, hframe⟩ := State.modCore_frame (s := s) (c := c) (fun x => x.received d e es)
    refine ⟨_, exec_queueEntryArrive hunsaved h, ?_, ?_, fun j hj => ?_, ?_, hothers, hframe⟩
    all_goals rw [hself]
    · exact Table.get_set_self _ _ _ _
    · exact Table.get_set_self _ _ _ _
    · exact Table.get_set_other _ _ (fun h => hj (dirNum_inj h)) _
    · rfl
  · have hself := s.core_modCore_self c (fun x => { x with credits := x.credits.set (dirNum d) (min 16 (x.credit d + 1)) })
    obtain ⟨hothers, hframe⟩ := State.modCore_frame (s := s) (c := c)
      (fun x => { x with credits := x.credits.set (dirNum d) (min 16 (x.credit d + 1)) })
    refine ⟨_, exec_creditReturn hunsaved d, ?_, fun j hj => ?_, ?_, hothers, hframe⟩
    all_goals rw [hself]
    · exact Table.get_set_self _ _ _ _
    · exact Table.get_set_other _ _ (fun h => hj (dirNum_inj h)) _
  · obtain ⟨hctx, hagenda, hframe⟩ := s.demand_ctx m.core m.ctx (levKey m.srcCore m.ctl true) m.val w hw
    obtain ⟨hfree, hbusy⟩ := weightOf_spec ((s.core m.core).free.contains m.ctx)
      ((s.ctx m.core m.ctx).demands.set (levKey m.srcCore m.ctl true) w)
    have hexec : exec (.levellingDemandArrive m) s = .next (s.demand m.core m.ctx (levKey m.srcCore m.ctl true) m.val) := rfl
    generalize s.demand m.core m.ctx (levKey m.srcCore m.ctl true) m.val = t at *
    refine ⟨t, hexec, ?_⟩
    rw [hctx]
    refine ⟨Table.get_set_self _ _ _ _, ⟨_, List.mem_append_right _ (List.mem_singleton_self _), fun h => hfree ?_, fun h e he => hbusy ?_ e he⟩,
      rfl, hagenda, hframe⟩
    · simpa using h
    · simpa using h
  · have hself := s.ctx_modCtx_self c n (fun x => { x with noticed := true })
    have hframe := (s.modCtx c n (fun x => { x with noticed := true })).schedOnce_frame 0 .placement
    refine ⟨_, rfl, ?_, State.mem_schedOnce _ 0 .placement, ?_⟩
    · rw [hframe]
      exact hself
    · rw [hframe]
      rfl

/-! ### Samples -/

theorem clampInt_eq (lo hi x : Int) (h : lo ≤ hi) : clampInt lo hi x = max lo (min hi x) := by
  unfold clampInt
  split
  · omega
  · split <;> omega
/-- A clamp to 1 to 16 as a number. -/
theorem clampInt_toNat (x : Int) : ((clampInt 1 16 x).toNat : Int) = max 1 (min 16 x) := by
  rw [clampInt_eq _ _ _ (by decide)]
  omega

/-- A queue's sample counts the entries that can be popped this cycle (R155). -/
theorem State.levEntries_queue {s : State} {c : Nat} {l : Lev} (hfifo : l.fifo = false)
    (hagenda : ∀ e ∈ s.agenda, s.now < e.1 ∨ e.2 ≠ .queueEntryArrive c l.dir) : s.levEntries c l = ((s.core c).inq l.dir).length := by
  have hnone : s.agenda.filter (fun e => e.1 ≤ s.now && e.2 == .queueEntryArrive c l.dir) = [] := by
    refine List.filter_eq_nil_iff.2 (fun e he hdue => ?_)
    obtain ⟨hle, heq⟩ := Bool.and_eq_true_iff.1 hdue
    obtain h | h := hagenda e he
    · exact absurd (of_decide_eq_true hle) (Nat.not_le.2 h)
    · exact h (eq_of_beq heq)
  unfold State.levEntries
  rw [hfifo, if_neg (by decide), hnone]
  rfl

/-- A controller's counters and its integral after a sample. -/
def Lev.streak (n : Nat) (at_ : Prop) [Decidable at_] : Nat := if at_ then min (n + 1) 2 else 0
/-- What a sample of a queue leaves in its controller (R155). -/
structure Lev.Sampled (l : Lev) (raw : Nat) (z : Lev) : Prop where
  occ : z.occ = raw
  ez : z.ez = Lev.streak l.ez (raw = 0)
  fz : z.fz = Lev.streak l.fz (raw = 16)
  integ : z.integ = if Lev.streak l.ez (raw = 0) = 2 ∨ Lev.streak l.fz (raw = 16) = 2 then 0 else max (-64) (min 63 (l.integ + ((raw : Int) - (l.setp : Int))))
  wc : (z.wc : Int) = if Lev.streak l.fz (raw = 16) = 2 then 16
    else max 1 (min 16 ((l.wc0 : Int) + (Int.shiftRight (4 * ((raw : Int) - (l.setp : Int))) l.gp + Int.shiftRight z.integ l.gi)))
  wp : (z.wp : Int) = if Lev.streak l.ez (raw = 0) = 2 then 16
    else max 1 (min 16 ((l.wp0 : Int) - (Int.shiftRight (4 * ((raw : Int) - (l.setp : Int))) l.gp + Int.shiftRight z.integ l.gi)))
  rest : z.n = (l.n + 1) % 2 ^ 21 ∧ z.setp = l.setp ∧ z.period = l.period ∧ z.en = l.en
theorem levSample_sampled {l : Lev} (hfifo : l.fifo = false) (raw : Nat) : l.Sampled raw (levSample l raw) := by
  have hshift (a : Int) (b : Nat) : a / ((2 ^ b : Nat) : Int) = Int.shiftRight a b := (Int.shiftRight_eq_div_pow a b).symm
  have hunfold : levSample l raw = { l with
      integ := (levSample l raw).integ, ez := Lev.streak l.ez (raw = 0), fz := Lev.streak l.fz (raw = 16), occ := raw
      wp := (levSample l raw).wp, wc := (levSample l raw).wc, n := (l.n + 1) % 2 ^ 21 } := by
    unfold levSample
    rw [hfifo]
    rfl
  have hez : (levSample l raw).ez = Lev.streak l.ez (raw = 0) := congrArg Lev.ez hunfold
  have hfz : (levSample l raw).fz = Lev.streak l.fz (raw = 16) := congrArg Lev.fz hunfold
  have hinteg : (levSample l raw).integ = if Lev.streak l.ez (raw = 0) = 2 ∨ Lev.streak l.fz (raw = 16) = 2 then 0
      else max (-64) (min 63 (l.integ + ((raw : Int) - (l.setp : Int)))) := by
    rw [← clampInt_eq _ _ _ (by decide)]
    unfold levSample
    rw [hfifo]
    rfl
  refine ⟨congrArg Lev.occ hunfold, hez, hfz, hinteg, ?_, ?_, congrArg Lev.n hunfold, rfl, rfl, rfl⟩
  · have hwc : (levSample l raw).wc = if Lev.streak l.fz (raw = 16) = 2 then 16
        else (clampInt 1 16 ((l.wc0 : Int) + (4 * ((raw : Int) - (l.setp : Int)) / ((2 ^ l.gp : Nat) : Int) + (levSample l raw).integ / ((2 ^ l.gi : Nat) : Int)))).toNat := by
      unfold levSample
      rw [hfifo]
      rfl
    rw [hwc, hshift, hshift]
    split
    · rfl
    · exact clampInt_toNat _
  · have hwp : (levSample l raw).wp = if Lev.streak l.ez (raw = 0) = 2 then 16
        else (clampInt 1 16 ((l.wp0 : Int) - (4 * ((raw : Int) - (l.setp : Int)) / ((2 ^ l.gp : Nat) : Int) + (levSample l raw).integ / ((2 ^ l.gi : Nat) : Int)))).toNat := by
      unfold levSample
      rw [hfifo]
      rfl
    rw [hwp, hshift, hshift]
    split
    · rfl
    · exact clampInt_toNat _

section
variable {s : State} {c k : Nat} {l : Lev}

/-- A sample: the controller as R155 leaves it makes its demands, and samples a period later. -/
theorem exec_levellingSample (hlev : (s.core c).lev.find k = some l) (hen : l.en = true) (hnow : l.nextAt = s.now) :
    exec (.levellingSample c k) s
      = .next (((s.setLev c k { levSample l (s.levEntries c l) with nextAt := s.now + l.period }).makeDemands c k
          { levSample l (s.levEntries c l) with nextAt := s.now + l.period } true).sched l.period (.levellingSample c k)) := by
  have hlevOf : (s.core c).levOf k = some l := hlev
  show execLevellingSample c k s = _
  unfold execLevellingSample
  rw [hlevOf]
  dsimp only
  rw [if_pos ⟨hen, hnow⟩]
  rfl
theorem exec_levellingSample_none (hlev : (s.core c).lev.find k = none) : exec (.levellingSample c k) s = .next s := by
  have hlevOf : (s.core c).levOf k = none := hlev
  show execLevellingSample c k s = _
  unfold execLevellingSample
  rw [hlevOf]
theorem State.makeDemands_spec (s : State) (c k : Nat) (l : Lev) (on : Bool) :
    (((s.setLev c k l).makeDemands c k l on).core c).lev.find k = some l ∧ ((s.setLev c k l).makeDemands c k l on).mem = s.mem
      ∧ ((s.setLev c k l).makeDemands c k l on).now = s.now := by
  have hcore := s.core_modCore_self c (fun x => { x with lev := x.lev.set k l })
  have hkept := State.makeDemands_undemanded (s.setLev c k l) c k l on
  generalize (s.setLev c k l).makeDemands c k l on = u at *
  have hu : u.core c = (s.setLev c k l).core c := (congrArg (fun u : State => u.core c) hkept :)
  refine ⟨?_, (congrArg State.mem hkept :), (congrArg State.now hkept :)⟩
  rw [hu, State.setLev, hcore]
  exact Table.find_set_self _ _ _

end

/-! ### The engine's own controller -/

/-- A loader's weight after a sample: a quarter of the gap less for the fuller FIFO (R157). -/
def sampledWeight (fuller : Bool) (gap : Int) : Nat := if fuller then (clampInt 1 16 (16 - gap / 4)).toNat else 16

section
variable {s : State} {link : Nat}

theorem exec_engineLevelSample_off (hformed : (s.eng link).formed = true)
    (hoff : (s.now - (s.eng link).t0) % 64 ≠ 0 ∨ ((s.eng link).st ≠ .ready ∧ (s.eng link).st ≠ .running ∧ (s.eng link).st ≠ .draining)) :
    exec (.engineLevelSample link) s = .next (s.schedSoon (64 - (s.now - (s.eng link).t0) % 64) (.engineLevelSample link)) := by
  show execEngineLevelSample link s = _
  unfold execEngineLevelSample
  dsimp only
  rw [if_neg (by simp [hformed]), if_pos]
  obtain h | ⟨h1, h2, h3⟩ := hoff
  · exact .inl h
  · exact .inr (by simp [h1, h2, h3])

/-- The engine once its controller has sampled. -/
def Engine.levelled (e : Engine) : Engine :=
  let a := e.entries e.near
  let b := e.entries e.far
  let gap : Int := if a ≤ b then b - a else a - b
  { e with
    near := { e.near with autoWeight := sampledWeight (b < a) gap }
    far := { e.far with autoWeight := sampledWeight (a < b) gap } }
theorem exec_engineLevelSample_on (hformed : (s.eng link).formed = true) (hnow : (s.now - (s.eng link).t0) % 64 = 0)
    (hon : (s.eng link).st = .ready ∨ (s.eng link).st = .running ∨ (s.eng link).st = .draining) :
    exec (.engineLevelSample link) s = .next ((s.setEng link (s.eng link).levelled).schedSoon 64 (.engineLevelSample link)) := by
  show execEngineLevelSample link s = _
  unfold execEngineLevelSample
  dsimp only
  rw [if_neg (by simp [hformed]), if_neg]
  · rfl
  · rw [not_or]
    refine ⟨by simp [hnow], ?_⟩
    obtain h | h | h := hon <;> simp [h]
/-- The fuller side's loader is slowed by a quarter of the gap. -/
theorem Engine.levelled_weights (e : Engine) : let a : Int := e.entries e.near
    let b : Int := e.entries e.far
    (a < b → (e.levelled.far.autoWeight : Int) = max 1 (min 16 (16 - Int.shiftRight (b - a) 2)) ∧ e.levelled.near.autoWeight = 16)
      ∧ (b < a → (e.levelled.near.autoWeight : Int) = max 1 (min 16 (16 - Int.shiftRight (a - b) 2)) ∧ e.levelled.far.autoWeight = 16)
      ∧ (a = b → e.levelled.near.autoWeight = 16 ∧ e.levelled.far.autoWeight = 16) := by
  have hshift (x : Int) : Int.shiftRight x 2 = x / 4 := Int.shiftRight_eq_div_pow x 2
  have hweight (x : Int) : ((sampledWeight true x : Nat) : Int) = max 1 (min 16 (16 - x / 4)) := clampInt_toNat _
  unfold Engine.levelled
  dsimp only
  generalize e.entries e.near = a
  generalize e.entries e.far = b
  refine ⟨fun h => ?_, fun h => ?_, fun h => ?_⟩
  · have hlt : a < b := by omega
    rw [if_pos hlt.le, decide_eq_true hlt, decide_eq_false (by omega), hweight, hshift]
    exact ⟨rfl, rfl⟩
  · have hlt : b < a := by omega
    rw [if_neg (by omega), decide_eq_true hlt, decide_eq_false (by omega), hweight, hshift]
    exact ⟨rfl, rfl⟩
  · rw [decide_eq_false (by omega), decide_eq_false (by omega)]
    exact ⟨rfl, rfl⟩

end

theorem State.mem_schedSoon (s : State) (n : Nat) (i : Instr) : ∃ due, due ≤ s.now + n ∧ (due, i) ∈ (s.schedSoon n i).agenda := by
  unfold State.schedSoon
  split
  · next hany =>
    obtain ⟨⟨due, j⟩, hmem, hdue⟩ := List.any_eq_true.1 hany
    obtain ⟨hi, hle⟩ := Bool.and_eq_true_iff.1 hdue
    obtain rfl : j = i := eq_of_beq hi
    exact ⟨due, of_decide_eq_true hle, hmem⟩
  · exact ⟨s.now + n, Nat.le_refl _, s.mem_sched n i⟩

theorem levellingSamples : Claims.LevellingSamples := by
  intro s c k l
  refine ⟨fun hlev hen hnow hfifo hagenda => ?_, exec_levellingSample_none, ?_⟩
  · have hexec := exec_levellingSample hlev hen hnow
    rw [State.levEntries_queue hfifo hagenda] at hexec
    obtain ⟨hocc, hez, hfz, hinteg, hwc, hwp, hn, hsetp, hperiod, hzen⟩ := levSample_sampled hfifo ((s.core c).inq l.dir).length
    generalize levSample l ((s.core c).inq l.dir).length = z at *
    obtain ⟨hfind, hmem, hclock⟩ := s.makeDemands_spec c k { z with nextAt := s.now + l.period } true
    generalize (s.setLev c k { z with nextAt := s.now + l.period }).makeDemands c k { z with nextAt := s.now + l.period } true = t at *
    have hdue := State.mem_sched t l.period (.levellingSample c k)
    rw [hclock] at hdue
    have hkept : (t.sched l.period (.levellingSample c k)).core c = t.core c := rfl
    refine ⟨_, { z with nextAt := s.now + l.period }, hexec, hkept ▸ hfind, hocc, hez, hfz, hinteg, ?_, ?_, hn, rfl, hsetp, hperiod, hzen.trans hen, hdue,
      hmem⟩
    · rw [hinteg] at hwc
      exact hwc
    · rw [hinteg] at hwp
      exact hwp
  · intro link e hformed
    refine ⟨fun hoff => ⟨_, exec_engineLevelSample_off hformed hoff, s.schedSoon_frame _ _⟩, fun hnow hon => ?_⟩
    have hframe := (s.setEng link e.levelled).schedSoon_frame 64 (.engineLevelSample link)
    have heng : ((s.setEng link e.levelled).schedSoon 64 (.engineLevelSample link)).eng link = e.levelled := by
      rw [hframe]
      exact s.eng_setEng link _
    refine ⟨_, exec_engineLevelSample_on hformed hnow hon, ?_⟩
    rw [heng]
    obtain ⟨hfar, hnear, hequal⟩ := e.levelled_weights
    refine ⟨hfar, hnear, hequal, (s.setEng link e.levelled).mem_schedSoon 64 (.engineLevelSample link), ?_⟩
    rw [hframe]
    rfl

/-! ### Claims -/

section
variable {s : State} {c : Nat}

theorem exec_iterationClaim {k : Nat} {u : Team} (hteam : s.teamOf c = some (k, u)) :
    exec (.iterationClaim c) s = .next (State.sched { s with teams := s.teams.set k { u with next := u.claim.elim u.next (·.2) } } Config.homeWay
      (.claimReply c u.claim)) := by
  show execIterationClaim c s = _
  unfold execIterationClaim
  rw [hteam]
  dsimp only
  rw [State.modTeam_of_find (State.teams_find_of_teamOf hteam)]

/-- The fetcher once its claim is answered. -/
def Fetcher.replied (f : Fetcher) (chunk : Option (Nat × Nat)) : Fetcher :=
  match chunk with
  | none => { f with out := false, exhausted := true }
  | some c => if chunkLeft f.cur = 0 then { f with out := false, cur := some c } else { f with out := false, ahead := some c }
theorem exec_claimReply {chunk : Option (Nat × Nat)} (hout : (s.core c).fetch.out = true) :
    exec (.claimReply c chunk) s = .next ((s.modCore c (fun x => { x with fetch := x.fetch.replied chunk })).fetchAhead c) := by
  show execClaimReply c chunk s = _
  unfold execClaimReply
  rw [if_pos hout]
  cases chunk <;> rfl

theorem Team.claim_spec (u : Team) : let r := u.lr.ext.foldl (· * ·) 1 - u.next
    let fp := u.lr.ff * u.cores.length
    (r = 0 → u.claim = none) ∧ (r ≠ 0 → u.claim = some (u.next, u.next + min r (max u.lr.cmin ((r + fp - 1) / fp)))) :=
  ⟨fun h => if_pos h, fun h => if_neg h⟩
theorem State.fetchAhead_still {t : State} (h : (t.core c).fetch.exhausted = true ∨ (t.core c).fetch.ahead ≠ none ∨ 16 ≤ chunkLeft (t.core c).fetch.cur) :
    t.fetchAhead c = t := by
  unfold State.fetchAhead
  refine if_neg (fun hsend => ?_)
  obtain ⟨-, -, hmore, hahead, hleft⟩ := hsend
  obtain h | h | h := h
  · simp [h] at hmore
  · exact h hahead
  · omega
theorem State.fetchAhead_sends {t : State} (hteam : (t.core c).team ≠ none) (hout : (t.core c).fetch.out = false)
    (hmore : (t.core c).fetch.exhausted = false) (hahead : (t.core c).fetch.ahead = none) (hleft : chunkLeft (t.core c).fetch.cur < 16) :
    ((t.fetchAhead c).core c).fetch = { (t.core c).fetch with out := true } ∧ (t.now + Config.homeWay, Instr.iterationClaim c) ∈ (t.fetchAhead c).agenda := by
  have heq : t.fetchAhead c = (t.modCore c (fun x => { x with fetch := { (t.core c).fetch with out := true } })).sched Config.homeWay (.iterationClaim c) :=
    if_pos ⟨Option.isSome_iff_ne_none.2 hteam, by simp [hout], by simp [hmore], hahead, hleft⟩
  rw [heq]
  exact ⟨congrArg Core.fetch (t.core_modCore_self c (fun x => { x with fetch := { (t.core c).fetch with out := true } })), State.mem_sched _ _ _⟩

end

theorem iterationClaims : Claims.IterationClaims := by
  intro s c
  refine ⟨fun k u hteam => ?_, ?_⟩
  · have hfind := State.teams_find_of_teamOf hteam
    obtain ⟨hnone, hsome⟩ := u.claim_spec
    refine ⟨_, exec_iterationClaim hteam, rfl, fun hr => ?_, fun hr => ?_⟩
    · rw [hnone hr]
      exact ⟨Table.find_set_self _ _ _, State.mem_sched _ _ _⟩
    · rw [hsome hr]
      exact ⟨Table.find_set_self _ _ _, State.mem_sched _ _ _⟩
  · intro f hout hteam
    have hself (chunk : Option (Nat × Nat)) := s.core_modCore_self c (fun x => { x with fetch := x.fetch.replied chunk })
    have hstill (chunk : Option (Nat × Nat)) (h : (f.replied chunk).exhausted = true ∨ (f.replied chunk).ahead ≠ none ∨ 16 ≤ chunkLeft (f.replied chunk).cur) :
        exec (.claimReply c chunk) s = .next (s.modCore c (fun x => { x with fetch := x.fetch.replied chunk })) := by
      rw [exec_claimReply hout, State.fetchAhead_still (by rw [hself]; exact h)]
    refine ⟨?_, fun lo hi hcur hahead hmore hleft => ?_, fun lo hi hcur => ?_, fun lo hi hcur hahead hmore hleft => ?_⟩
    · refine ⟨_, hstill none (.inl rfl), ?_, ?_, rfl⟩
      · rw [hself]
        rfl
      · rw [hself]
    · have hrep : f.replied (some (lo, hi)) = { f with out := false, cur := some (lo, hi) } := if_pos hcur
      refine ⟨_, hstill (some (lo, hi)) (.inr (.inr ?_)), ?_, rfl⟩
      · rw [hrep]
        show 16 ≤ hi - lo
        omega
      · rw [hself]
        exact hrep
    · have hrep : f.replied (some (lo, hi)) = { f with out := false, ahead := some (lo, hi) } := if_neg hcur
      refine ⟨_, hstill (some (lo, hi)) (.inr (.inl ?_)), ?_, rfl⟩
      · rw [hrep]
        exact Option.some_ne_none _
      · rw [hself]
        exact hrep
    · have hrep : f.replied (some (lo, hi)) = { f with out := false, cur := some (lo, hi) } := if_pos hcur
      obtain ⟨hfetch, hclaim⟩ := State.fetchAhead_sends (c := c) (t := s.modCore c (fun x => { x with fetch := x.fetch.replied (some (lo, hi)) }))
        (by rw [hself]; exact hteam) (by rw [hself, hrep]) (by rw [hself, hrep]; exact hmore) (by rw [hself, hrep]; exact hahead)
        (by rw [hself, hrep]; show hi - lo < 16; omega)
      rw [hself, hrep] at hfetch
      exact ⟨_, exec_claimReply hout, hfetch, hclaim⟩

/-- Settles O50: queues, levelling and iterations. -/
theorem queuesLevelsAndClaims : Obligations.QueuesLevelsAndClaims := ⟨queueEvents, levellingSamples, iterationClaims⟩

end Sys2Proof.Machine
end

section
/-! PROOFS. Lease grants, engine wakes and evictions (O51). -/

namespace Sys2Proof.Machine

/-! ### Grants -/

theorem State.offerLease_frame (s : State) (d : Nat) : s.offerLease d = { s with agenda := (s.offerLease d).agenda } := by
  unfold State.offerLease
  split
  · exact s.schedOnce_frame _ _
  · rfl
theorem State.offerLease_adds (s : State) (d : Nat) : s.Adds (s.offerLease d) := by
  unfold State.offerLease
  split
  · exact s.schedOnce_adds _ _
  · exact .refl s

/-- The lease of a request that is granted. -/
def leaseOf (r : LeaseReq) (now : Nat) : Lease :=
  { team := r.team, pri := r.pri, core := r.core, ctx := r.ctx, tok := r.tok, grantAt := now, waited := now - r.at_ }
/-- A dormant engine that has been granted. -/
def Engine.granted (e : Engine) (z : Lease) : Engine := { e with lease := some z, token := true, st := .waking, ep := .empty, epLater := [] }
/-- A die that grants a request. -/
def Die.grants (d : Die) (r : LeaseReq) (now : Nat) : Die :=
  { d with free := d.free - 1, granted := some now, fifos := d.fifos.set r.pri (Table.get [] d.fifos r.pri).tail }

section
variable {s : State} {die : Nat}

/-- The head of the highest queue that is not empty. -/
theorem leaseHead {d : Die} {p : Nat} {r : LeaseReq} {rs : List LeaseReq} (hp : p < 4) (hq : Table.get [] d.fifos p = r :: rs)
    (habove : ∀ q, p < q → q < 4 → Table.get [] d.fifos q = []) :
    ([3, 2, 1, 0].filterMap (fun p => (Table.get [] d.fifos p).head?)).head? = some r := by
  obtain rfl | rfl | rfl | rfl : p = 3 ∨ p = 2 ∨ p = 1 ∨ p = 0 := by omega
  · simp [hq]
  · simp [hq, habove 3]
  · simp [hq, habove 3, habove 2]
  · simp [hq, habove 3, habove 2, habove 1]

theorem exec_leaseGrant {r : LeaseReq} (hgranted : (s.die die).granted ≠ some s.now) (hfree : 0 < (s.die die).free)
    (hhead : ([3, 2, 1, 0].filterMap (fun p => (Table.get [] (s.die die).fifos p).head?)).head? = some r) (hrestore : r.restore = false)
    (hst : (s.eng r.link).st = .dormant) (hlease : (s.eng r.link).lease = none) :
    exec (.leaseGrant die) s = .next (((((s.modDie die (fun d => d.grants r s.now)).setEng r.link ((s.eng r.link).granted (leaseOf r s.now))).sched
      Config.wakeCycles (.engineWake r.link))).offerLease die) := by
  show execLeaseGrant die s = _
  unfold execLeaseGrant
  dsimp only
  rw [if_neg hgranted, if_neg (by omega), hhead]
  dsimp only
  rw [hrestore, if_neg (by decide)]
  unfold State.modEng
  have heng : (s.modDie die (fun d => { d with
    free := d.free - 1, granted := some s.now, fifos := d.fifos.set r.pri (Table.get [] d.fifos r.pri).tail })).eng r.link = s.eng r.link := rfl
  rw [heng]
  dsimp only
  rw [hlease, if_pos hst]
  rfl

theorem exec_leaseGrant_busy (hgranted : (s.die die).granted = some s.now) : exec (.leaseGrant die) s = .next (s.offerLease die) :=
  congrArg Host.Outcome.next (if_pos hgranted)
theorem exec_leaseGrant_empty (hfree : (s.die die).free = 0) : exec (.leaseGrant die) s = .next s := by
  have hoffer : s.offerLease die = s := if_neg (fun h => absurd h.1 (by omega))
  show execLeaseGrant die s = _
  unfold execLeaseGrant
  dsimp only
  by_cases hgranted : (s.die die).granted = some s.now
  · rw [if_pos hgranted, hoffer]
  · rw [if_neg hgranted, if_pos hfree]

/-! ### Waking -/

/-- An engine awake: open-pending where an end stands open, else idle. -/
def Engine.awake (e : Engine) : Engine := { e with st := if e.near.isOpen ∨ e.far.isOpen then .openPending else .idle }
theorem State.complete_of_find {c n tok : Nat} {p : Pend} (h : (s.ctx c n).pend.find? (fun q => q.tok == tok) = some p) (v : Word) :
    s.complete c n tok v = s.setCtx c n { (s.ctx c n).writeLoc p.loc v with pend := (s.ctx c n).pend.filter (fun q => q.tok != tok) } := by
  unfold State.complete
  dsimp only
  rw [h]
theorem exec_engineWake {l : Nat} {z : Lease} {p : Pend} (hlease : (s.eng l).lease = some z) (htoken : (s.eng l).token = true)
    (hst : (s.eng l).st = .waking) (hformed : (s.eng l).formed = false) (hnow : z.grantAt + 1500 = s.now)
    (hpend : (s.ctx z.core z.ctx).pend.find? (fun q => q.tok == z.tok) = some p) :
    exec (.engineWake l) s = .next ((s.setCtx z.core z.ctx { (s.ctx z.core z.ctx).writeLoc p.loc (leaseWord 0 z.pri z.waited l) with
      pend := (s.ctx z.core z.ctx).pend.filter (fun q => q.tok != z.tok) }).modEng l Engine.awake) := by
  have hdue : ¬ (z.grantAt + Config.wakeCycles ≠ s.now ∨ (!(s.eng l).token) = true) := by
    rw [htoken]
    rintro (h | h)
    · exact h hnow
    · cases h
  show execEngineWake l s = _
  unfold execEngineWake
  rw [hlease]
  dsimp only
  rw [if_neg hdue, hst, if_neg (by decide), if_neg (fun h => h rfl), hformed, if_neg (by decide), State.complete_of_find hpend]
  rfl

/-! ### Eviction -/

theorem State.post_eng (s : State) (l : Nat) (far : Bool) (code : FCode) (why : Nat) :
    ∃ p, (s.post l far code why).eng l = (s.eng l).modEnd far (fun x => x.post p) ∧ p.code = code ∧ p.why = why
      ∧ p.ctx = ((s.eng l).end_ far).party := by
  unfold State.post State.modEnd
  dsimp only
  rw [State.eng_modEng]
  exact ⟨⟨code, _, _, _, _, why⟩, Engine.modEnd_congr rfl, rfl, rfl, rfl⟩
/-- An open end is told that the lease is revoked. -/
def State.tells (s : State) (l : Nat) (far : Bool) : State := if ((s.eng l).end_ far).isOpen then s.post l far .leaseRevoked 0 else s
/-- The end of an engine is told, if it is open, that the lease is revoked. -/
structure State.Told (l : Nat) (far : Bool) (s t : State) : Prop where
  frame : t = { s with engines := t.engines }
  others : ∀ k, k ≠ l → t.eng k = s.eng k
  ends : ∃ f, t.eng l = (s.eng l).modEnd far (fun x => { x with fault := f })
    ∧ (((s.eng l).end_ far).isOpen = true → ∃ p, f = some p ∧ p.code = .leaseRevoked) ∧ (((s.eng l).end_ far).isOpen = false → f = none)
theorem State.told {l : Nat} {far : Bool} (hfault : ((s.eng l).end_ far).fault = none) :
    State.Told l far s (s.tells l far) := by
  unfold State.tells
  by_cases hopen : ((s.eng l).end_ far).isOpen = true
  · rw [if_pos hopen]
    have hpost (p : Post) : ((s.eng l).end_ far).post p = { (s.eng l).end_ far with fault := some p } := by
      unfold EEnd.post
      rw [hfault]
    obtain ⟨p, heng, hcode, -⟩ := s.post_eng l far .leaseRevoked 0
    rw [Engine.modEnd_congr (g := fun x => { x with fault := some p }) (hpost p)] at heng
    exact ⟨rfl, fun k hk => Table.get_set_other _ _ hk _, _, heng, fun _ => ⟨p, rfl, hcode⟩, fun h => absurd hopen (by rw [h]; decide)⟩
  · rw [if_neg hopen]
    refine ⟨rfl, fun _ _ => rfl, none, ?_, fun h => absurd h hopen, fun _ => rfl⟩
    have hsame : { (s.eng l).end_ far with fault := none } = (s.eng l).end_ far := by rw [← hfault]
    have hid : (s.eng l).modEnd far (fun x => { x with fault := none }) = (s.eng l).modEnd far id := Engine.modEnd_congr hsame
    rw [hid]
    cases far <;> rfl

theorem Engine.dropFeeds_frame (e : Engine) (far : Bool) :
    ∃ a b, e.dropFeeds far = ({ e with ctr := a, done := b } : Engine).modEnd far (fun x => { x with feeds := [] }) := by
  have hfold (fs : List Feed) (e : Engine) : ∃ a b, fs.foldl (fun e f => e.numDone f.num) e = { e with ctr := a, done := b } := by
    induction fs generalizing e with
    | nil => exact ⟨e.ctr, e.done, rfl⟩
    | cons f fs ih =>
      obtain ⟨a, b, h⟩ := ih (e.numDone f.num)
      exact ⟨a, b, by rw [List.foldl_cons, h]; rfl⟩
  obtain ⟨a, b, h⟩ := hfold (e.end_ far).feeds e
  exact ⟨a, b, congrArg (fun e : Engine => e.modEnd far (fun x => { x with feeds := [] })) h⟩

/-- The engine without what its ends had queued. -/
def Engine.emptied (e : Engine) : Engine :=
  let e := (e.dropFeeds false).dropFeeds true
  { e with near := { e.near with feeds := [], fed := 0 }, far := { e.far with feeds := [], fed := 0 } }
theorem Engine.emptied_left (e : Engine) : e.emptied.lease = e.lease ∧ e.emptied.token = e.token ∧ e.emptied.st = e.st
    ∧ ∀ far, (e.emptied.end_ far).fault = (e.end_ far).fault := by
  obtain ⟨a, b, hnear⟩ := e.dropFeeds_frame false
  obtain ⟨a', b', hfar⟩ := (e.dropFeeds false).dropFeeds_frame true
  unfold Engine.emptied
  dsimp only
  rw [hfar, hnear]
  exact ⟨rfl, rfl, rfl, fun far => by cases far <;> rfl⟩

/-- An engine evicted, its ends told. -/
structure Engine.Evicted (e f : Engine) : Prop where
  st : f.st = .dormant
  lease : f.lease = none
  token : f.token = false
  told : ∀ far, (e.end_ far).isOpen = true → ∃ p, (f.end_ far).fault = some p ∧ p.code = .leaseRevoked
  quiet : ∀ far, (e.end_ far).isOpen = false → (f.end_ far).fault = none

/-- Both ends told. -/
theorem State.tells_both {l : Nat} (hnear : (s.eng l).near.fault = none) (hfar : (s.eng l).far.fault = none) :
    ((s.tells l false).eng l).far.isOpen = (s.eng l).far.isOpen
      ∧ ((s.tells l false).tells l true) = { s with engines := ((s.tells l false).tells l true).engines }
      ∧ (∀ k, k ≠ l → ((s.tells l false).tells l true).eng k = s.eng k)
      ∧ ∃ f g, ((s.tells l false).tells l true).eng l
          = { s.eng l with near := { (s.eng l).near with fault := f }, far := { (s.eng l).far with fault := g } }
        ∧ (((s.eng l).near.isOpen = true → ∃ p, f = some p ∧ p.code = .leaseRevoked) ∧ ((s.eng l).near.isOpen = false → f = none))
        ∧ (((s.eng l).far.isOpen = true → ∃ p, g = some p ∧ p.code = .leaseRevoked) ∧ ((s.eng l).far.isOpen = false → g = none)) := by
  obtain ⟨hframe, hothers, f, heng, hopen⟩ := State.told (s := s) (l := l) (far := false) hnear
  generalize s.tells l false = t at *
  have hfar' : ((t.eng l).end_ true).fault = none := by
    rw [heng]
    exact hfar
  obtain ⟨hframe', hothers', g, heng', hopen'⟩ := State.told (s := t) (l := l) (far := true) hfar'
  generalize t.tells l true = u at *
  rw [heng] at heng' hopen'
  refine ⟨by rw [heng]; rfl, ?_, fun k hk => (hothers' k hk).trans (hothers k hk), f, g, heng', hopen, hopen'⟩
  rw [hframe', hframe]
theorem State.evict_eq {l : Nat} {z : Lease} (htoken : (s.eng l).token = true) (hlease : (s.eng l).lease = some z)
    (hst : (s.eng l).st ≠ .waking) (hnear : (s.eng l).near.fault = none) (hfar : (s.eng l).far.fault = none) :
    ∃ (t : State) (e : Engine), s.evict l = ((t.setEng l e).modDie (l / 1152) (fun d => { d with free := d.free + 1 })).offerLease (l / 1152)
      ∧ (s.eng l).Evicted e ∧ t = { s with engines := t.engines } ∧ ∀ k, k ≠ l → t.eng k = s.eng k := by
  obtain ⟨hsame, hframe, hothers, f, g, heng, ⟨hopen, hshut⟩, hopen', hshut'⟩ := State.tells_both hnear hfar
  have hevict : s.evict l = ((((s.tells l false).tells l true).setEng l (((s.tells l false).tells l true).eng l).emptied).cancelLease l).returnToken l := by
    unfold State.evict
    dsimp only
    rw [← hsame]
    rfl
  generalize (s.tells l false).tells l true = t at *
  obtain ⟨hl, ht, hs, hfault⟩ := (t.eng l).emptied_left
  generalize (t.eng l).emptied = e at *
  have hcancel : (t.setEng l e).cancelLease l = t.setEng l e := by
    unfold State.cancelLease
    rw [State.eng_setEng, hl, heng]
    dsimp only
    rw [hlease, hs, heng]
    exact if_neg hst
  have hreturn : (t.setEng l e).returnToken l
      = (((t.setEng l e).modEng l Engine.sleep).modDie (l / 1152) (fun d => { d with free := d.free + 1 })).offerLease (l / 1152) := by
    unfold State.returnToken
    dsimp only
    rw [State.eng_setEng, if_pos]
    rw [ht, heng]
    exact htoken
  rw [hevict, hcancel, hreturn]
  have hends (far : Bool) : ((s.eng l).end_ far).isOpen = ((t.eng l).end_ far).isOpen ∧ (e.sleep.end_ far).fault = ((t.eng l).end_ far).fault := by
    rw [heng]
    cases far
    · exact ⟨rfl, (hfault false).trans (by rw [heng])⟩
    · exact ⟨rfl, (hfault true).trans (by rw [heng])⟩
  refine ⟨t.setEng l e, e.sleep, ?_, ⟨rfl, rfl, rfl, fun far h => ?_, fun far h => ?_⟩, ?_, fun k hk => ?_⟩
  · unfold State.modEng
    rw [State.eng_setEng]
  · rw [(hends far).2, heng]
    cases far
    · exact hopen h
    · exact hopen' h
  · rw [(hends far).2, heng]
    cases far
    · exact hshut h
    · exact hshut' h
  · rw [hframe]
    rfl
  · exact (Table.get_set_other _ _ hk _).trans (hothers k hk)

end

/-! ### The lease to evict -/

/-- `a` goes before `b` (R103): the lower priority, the later grant among equals. -/
def evictsBefore (a b : Nat × Lease) : Prop := a.2.pri < b.2.pri ∨ (a.2.pri = b.2.pri ∧ b.2.grantAt < a.2.grantAt)
/-- The better of two candidates. -/
def evictsFirst (b k : Nat × Lease) : Nat × Lease := if k.2.pri < b.2.pri ∨ (k.2.pri = b.2.pri ∧ b.2.grantAt < k.2.grantAt) then k else b
theorem evictsFirst_spec (b k : Nat × Lease) : (evictsFirst b k = b ∨ evictsFirst b k = k)
    ∧ ∀ v, evictsBefore b v ∨ evictsBefore k v → evictsBefore (evictsFirst b k) v := by
  unfold evictsFirst evictsBefore
  split
  · exact ⟨.inr rfl, fun v h => by omega⟩
  · exact ⟨.inl rfl, fun v h => by omega⟩
/-- The candidate the fold keeps: none goes before it. -/
theorem foldl_evictsFirst (cs : List (Nat × Lease)) (c : Nat × Lease) :
    cs.foldl evictsFirst c ∈ c :: cs ∧ ∀ k ∈ c :: cs, ¬ evictsBefore k (cs.foldl evictsFirst c) := by
  induction cs generalizing c with
  | nil =>
    refine ⟨List.mem_cons_self, fun k hk => ?_⟩
    obtain rfl := List.mem_singleton.1 hk
    show ¬ evictsBefore k k
    unfold evictsBefore
    omega
  | cons a as ih =>
    obtain ⟨hmem, hall⟩ := ih (evictsFirst c a)
    obtain ⟨hpick, hbefore⟩ := evictsFirst_spec c a
    rw [List.foldl_cons]
    generalize as.foldl evictsFirst (evictsFirst c a) = v at *
    refine ⟨?_, fun k hk hkv => ?_⟩
    · obtain rfl | hmem := List.mem_cons.1 hmem
      · obtain h | h := hpick <;> simp [h]
      · exact List.mem_cons_of_mem _ (List.mem_cons_of_mem _ hmem)
    · rw [List.mem_cons, List.mem_cons] at hk
      obtain rfl | rfl | hk := hk
      · exact hall _ List.mem_cons_self (hbefore v (.inl hkv))
      · exact hall _ List.mem_cons_self (hbefore v (.inr hkv))
      · exact hall k (List.mem_cons_of_mem _ hk) hkv

section
variable {s : State} {die : Nat}

/-- The leases of a die that may be evicted. -/
def State.evictable (s : State) (die : Nat) : List (Nat × Lease) :=
  s.engines.cells.filterMap (fun e => if e.1 / 1152 = die ∧ e.2.token ∧ !s.isSaving e.1 then e.2.lease.map (fun z => (e.1, z)) else none)
theorem State.mem_evictable (hswitch : s.switch = none) {l : Nat} {z : Lease} :
    (l, z) ∈ s.evictable die ↔ l / 1152 = die ∧ ∃ e, (l, e) ∈ s.engines.cells ∧ e.token = true ∧ e.lease = some z := by
  have hsaving (l : Nat) : s.isSaving l = false := by
    unfold State.isSaving
    rw [hswitch]
    rfl
  unfold State.evictable
  rw [List.mem_filterMap]
  constructor
  · rintro ⟨⟨k, e⟩, hmem, h⟩
    split at h
    · next hcond =>
      obtain ⟨hdie, htoken, -⟩ := hcond
      obtain ⟨y, hy, heq⟩ := Option.map_eq_some_iff.1 h
      cases heq
      exact ⟨hdie, e, hmem, htoken, hy⟩
    · cases h
  · rintro ⟨hdie, e, hmem, htoken, hlease⟩
    refine ⟨(l, e), hmem, ?_⟩
    rw [if_pos ⟨hdie, htoken, by rw [hsaving]; rfl⟩, hlease]
    rfl
/-- The eviction takes the first of R103's order, and the next request of its queue is looked at when it has waited. -/
theorem exec_eviction {r : LeaseReq} {rs : List LeaseReq} {c : Nat × Lease} {cs : List (Nat × Lease)}
    (hq : Table.get [] (s.die die).fifos 3 = r :: rs) (hlate : s.evictwait < s.now - r.at_) (hfree : (s.die die).free = 0)
    (hcands : s.evictable die = c :: cs) :
    ∃ u : State, exec (.eviction die) s = .next u ∧ u = { s.evict (cs.foldl evictsFirst c).1 with agenda := u.agenda } := by
  show ∃ u, execEviction die s = .next u ∧ _
  unfold execEviction
  dsimp only
  rw [hq]
  dsimp only [List.head?]
  rw [if_neg (by omega), if_neg (by omega)]
  have hcands' : s.engines.cells.filterMap
    (fun e => if e.1 / 1152 = die ∧ e.2.token ∧ !s.isSaving e.1 then e.2.lease.map (fun z => (e.1, z)) else none) = c :: cs := hcands
  rw [hcands']
  dsimp only
  have hfold : cs.foldl (fun b k => if k.2.pri < b.2.pri ∨ (k.2.pri = b.2.pri ∧ b.2.grantAt < k.2.grantAt) then k else b) c = cs.foldl evictsFirst c := rfl
  rw [hfold]
  generalize s.evict (cs.foldl evictsFirst c).1 = t
  split
  · exact ⟨_, rfl, t.schedOnce_frame _ _⟩
  · exact ⟨_, rfl, rfl⟩

end

/-- Settles O51: grants, wakes and evictions. -/
theorem leaseEvents : Obligations.LeaseEvents := by
  intro s
  refine ⟨fun die p r rs hgranted hfree hp hq hpri habove hrestore hst hlease => ?_, fun die => exec_leaseGrant_empty,
    fun die hgranted => ⟨_, exec_leaseGrant_busy hgranted, s.offerLease_frame die⟩, ?_, ?_⟩
  · have hexec := exec_leaseGrant hgranted hfree (leaseHead hp hq habove) hrestore hst hlease
    generalize ht : ((s.modDie die (fun d => d.grants r s.now)).setEng r.link ((s.eng r.link).granted (leaseOf r s.now))).sched
      Config.wakeCycles (.engineWake r.link) = t at hexec
    have hframe := t.offerLease_frame die
    have hadds := t.offerLease_adds die (s.now + 1500, Instr.engineWake r.link)
    have heng : t.eng r.link = (s.eng r.link).granted (leaseOf r s.now) := by
      rw [← ht]
      exact State.eng_setEng _ _ _
    have hothers (l : Nat) (hl : l ≠ r.link) : t.eng l = s.eng l := by
      rw [← ht]
      exact Table.get_set_other _ _ hl _
    have hd : t.die die = (s.die die).grants r s.now := by
      rw [← ht]
      exact Table.get_set_self _ _ _ _
    have hwake : (s.now + 1500, Instr.engineWake r.link) ∈ t.agenda := by
      rw [← ht]
      exact State.mem_sched _ _ _
    have hrest : t = { s with engines := t.engines, dies := t.dies, agenda := t.agenda } := by
      rw [← ht]
      rfl
    refine ⟨_, leaseOf r s.now, hexec, ?_⟩
    have heng' : (t.offerLease die).eng r.link = t.eng r.link := by rw [hframe]; rfl
    have hd' : (t.offerLease die).die die = t.die die := by rw [hframe]; rfl
    rw [heng', heng, hd', hd]
    refine ⟨rfl, rfl, rfl, rfl, rfl, rfl, rfl, rfl, rfl, rfl, rfl, ?_, fun l hl => ?_, hadds hwake, ?_⟩
    · show Table.get [] ((s.die die).fifos.set r.pri (Table.get [] (s.die die).fifos r.pri).tail) p = rs
      rw [hpri, hq]
      exact Table.get_set_self _ _ _ _
    · rw [hframe]
      exact hothers l hl
    · rw [hframe, hrest]
  · intro l z p e hlease htoken hst hformed hnow hpend
    have hexec := exec_engineWake hlease htoken hst hformed hnow hpend
    generalize hy : { (s.ctx z.core z.ctx).writeLoc p.loc (leaseWord 0 z.pri z.waited l) with
      pend := (s.ctx z.core z.ctx).pend.filter (fun q => q.tok != z.tok) } = y at *
    have heng := State.eng_modEng (s.setCtx z.core z.ctx y) l Engine.awake
    have hctx : ((s.setCtx z.core z.ctx y).modEng l Engine.awake).ctx z.core z.ctx = y := Table.get_set_self _ _ _ _
    exact ⟨_, hexec, congrArg Engine.st heng, hctx, rfl⟩
  · intro die r rs v z e hq hlate hfree hswitch hdie htoken hlease hst hnear hfar hfirst
    have hcell : (v, e) ∈ s.engines.cells := by
      cases hfind : s.engines.find v with
      | some e' =>
        have he : e = e' := congrArg (Option.getD · Engine.dormant) hfind
        exact he ▸ Table.mem_of_findIn hfind
      | none =>
        have he : e = Engine.dormant := congrArg (Option.getD · Engine.dormant) hfind
        rw [he] at htoken
        cases htoken
    have hmem : (v, z) ∈ s.evictable die := (State.mem_evictable hswitch).2 ⟨hdie, e, hcell, htoken, hlease⟩
    obtain ⟨c, cs, hcands⟩ := List.exists_cons_of_ne_nil (List.ne_nil_of_mem hmem)
    obtain ⟨hin, hbest⟩ := foldl_evictsFirst cs c
    obtain ⟨u, hexec, hu⟩ := exec_eviction hq hlate hfree hcands
    rw [← hcands] at hin hbest
    generalize cs.foldl evictsFirst c = w at *
    have hw : w.1 = v := by
      obtain ⟨hwdie, e', he', htoken', hlease'⟩ := (State.mem_evictable hswitch).1 (show (w.1, w.2) ∈ _ from hin)
      exact (hfirst (w.1, e') he' hwdie htoken' w.2 hlease').resolve_right (hbest (v, z) hmem)
    rw [hw] at hu
    obtain ⟨t, f, hevict, hevicted, hframe, hothers⟩ := State.evict_eq htoken hlease hst hnear hfar
    have hoffer := ((t.setEng v f).modDie (v / 1152) (fun d => { d with free := d.free + 1 })).offerLease_frame (v / 1152)
    rw [← hevict] at hoffer
    rw [hoffer] at hu
    have heng : u.eng v = f := by
      rw [hu]
      exact State.eng_setEng _ _ _
    have hdies : t.die die = s.die die := by rw [hframe]; rfl
    have hfree' : (u.die die).free = 1 := by
      rw [hu]
      show (Table.get Die.idle (t.dies.set (v / 1152) { t.die (v / 1152) with free := (t.die (v / 1152)).free + 1 }) die).free = 1
      rw [hdie, Table.get_set_self, hdies, hfree]
    refine ⟨u, hexec, ?_⟩
    rw [heng]
    refine ⟨hevicted.st, hevicted.lease, hevicted.token, hfree', fun l hl => ?_, hevicted.told, hevicted.quiet, ?_⟩
    · rw [hu]
      exact (Table.get_set_other _ _ hl _).trans (hothers l hl)
    · rw [hu, hframe]
      rfl

end Sys2Proof.Machine
end

section
/-! PROOFS. What moving an engine on leaves of its streams and its plans; held opens, restores, loader fetches and pre-passes (O52). -/

namespace Sys2Proof.Machine

/-! ### Engines moved on -/

/-- An engine goes on: it runs if it was ready, and no FIFO fills. -/
structure Engine.Onward (e f : Engine) : Prop where
  st : f.st = e.st ∨ (e.st = .ready ∧ f.st = .running)
  fifo : ∀ far, (e.end_ far).fifo = [] → (f.end_ far).fifo = []
/-- An engine goes on in the cycle: what it has read stands, and what is planned. -/
structure Engine.Moves (e f : Engine) : Prop extends Engine.Onward e f where
  pre : ∀ far, (f.end_ far).pre = (e.end_ far).pre
  stream : ∀ far, f.stream far = e.stream far
  aFar : f.aFar = e.aFar
  plans : f.plans = e.plans
  sp : ∀ q, (e.sp.find q).isSome = true → f.sp.find q = e.sp.find q
  counts : ∀ q, (e.sp.find q).isSome = true → f.counts.find q = e.counts.find q

namespace Engine.Onward
theorem refl (e : Engine) : e.Onward e := ⟨.inl rfl, fun _ h => h⟩
theorem trans {e f g : Engine} (h : e.Onward f) (h' : f.Onward g) : e.Onward g where
  st := by
    obtain h1 | ⟨h1, h2⟩ := h.st <;> obtain h3 | ⟨h3, h4⟩ := h'.st
    · exact .inl (h3.trans h1)
    · exact .inr ⟨h1.symm.trans h3, h4⟩
    · exact .inr ⟨h1, h3.trans h2⟩
    · exact .inr ⟨h1, h4⟩
  fifo far hf := h'.fifo far (h.fifo far hf)
theorem delay (e : Engine) (n m : Nat) : e.Onward (e.delay n m) := by
  refine ⟨.inl rfl, fun far h => ?_⟩
  have hfifo : ((e.delay n m).end_ far).fifo = (e.end_ far).fifo.map (fun k : Col => { k with at_ := k.at_ + n }) := by
    cases far <;> rfl
  rw [hfifo, h]
  rfl
end Engine.Onward

namespace Engine.Moves
theorem refl (e : Engine) : e.Moves e := ⟨.refl e, fun _ => rfl, fun _ => rfl, rfl, rfl, fun _ _ => rfl, fun _ _ => rfl⟩
theorem trans {e f g : Engine} (h : e.Moves f) (h' : f.Moves g) : e.Moves g where
  toOnward := h.toOnward.trans h'.toOnward
  pre far := (h'.pre far).trans (h.pre far)
  stream far := (h'.stream far).trans (h.stream far)
  aFar := h'.aFar.trans h.aFar
  plans := h'.plans.trans h.plans
  sp q hq := (h'.sp q ((h.sp q hq).symm ▸ hq)).trans (h.sp q hq)
  counts q hq := (h'.counts q ((h.sp q hq).symm ▸ hq)).trans (h.counts q hq)
theorem setFetch (e : Engine) (far : Bool) (r : Option Fetch) : e.Moves (e.modEnd far (fun x => { x with fetch := r })) := by
  cases far <;> exact ⟨⟨.inl rfl, fun far h => by cases far <;> exact h⟩, fun far => by cases far <;> rfl, fun far => by cases far <;> rfl, rfl, rfl,
    fun _ _ => rfl, fun _ _ => rfl⟩
theorem beginPre (e : Engine) (now q : Nat) : e.Moves (e.beginPre now q) := by
  unfold Engine.beginPre
  split
  · exact refl e
  · next hq =>
    have hne {k : Nat} (hk : (e.sp.find k).isSome = true) : k ≠ q := fun h => hq (h ▸ hk)
    exact ⟨⟨.inl rfl, fun _ h => h⟩, fun _ => rfl, fun _ => rfl, rfl, rfl, fun k hk => Table.find_set_other _ (hne hk) _,
      fun k hk => Table.find_set_other _ (hne hk) _⟩
theorem setHeld (e : Engine) (h : Option (Nat × Bool)) (n : Nat) : e.Moves { e with held := h, stalls := n } :=
  ⟨⟨.inl rfl, fun _ h => h⟩, fun _ => rfl, fun _ => rfl, rfl, rfl, fun _ _ => rfl, fun _ _ => rfl⟩
/-- A pair that passes the intersection unit stays in the streams. -/
theorem pass {e : Engine} {a b : Col} {as bs : List Col} (ha : (e.end_ e.aFar).fifo = a :: as) (hb : (e.end_ (!e.aFar)).fifo = b :: bs) (live : Bool) :
    e.Moves (({ e with passed := e.passed ++ [(a, b, live)] }.modEnd e.aFar (fun x => { x with fifo := as })).modEnd (!e.aFar)
      (fun x => { x with fifo := bs })) := by
  cases haFar : e.aFar
  all_goals
    rw [haFar] at ha hb
    have hrole : e.near.roleB = _ := haFar
    refine ⟨⟨.inl rfl, fun far h => ?_⟩, fun far => by cases far <;> rfl, fun far => ?_, rfl, rfl, fun _ _ => rfl, fun _ _ => rfl⟩
    · cases far
      · exact absurd h (by simp_all)
      · exact absurd h (by simp_all)
    · cases far
      · simp_all [Engine.stream, Engine.modEnd, Engine.end_, Engine.aFar]
      · simp_all [Engine.stream, Engine.modEnd, Engine.end_, Engine.aFar]
theorem absorb (n : Nat) (e : Engine) : e.Moves (Machine.absorb n e) := by
  induction n generalizing e with
  | zero => exact refl e
  | succ n ih =>
    unfold Machine.absorb
    split
    · exact refl e
    · split
      · next a as b bs ha hb => exact (pass ha hb _).trans (ih _)
      · exact refl e
end Engine.Moves

theorem Engine.delay_zero (e : Engine) : e.delay 0 0 = e := by
  have hcols (cs : List Col) : cs.map (fun k => { k with at_ := k.at_ }) = cs := List.map_id cs
  have hfetch (r : Option Fetch) : r.map (fun f => { f with ends := f.ends }) = r := Option.map_id_apply
  have hpairs (ps : List (Col × Col × Bool)) :
      ps.map (fun p => (({ p.1 with at_ := p.1.at_ } : Col), ({ p.2.1 with at_ := p.2.1.at_ } : Col), p.2.2)) = ps := List.map_id ps
  have hdrains (ds : List Drain) : ds.map (fun d => { d with due := d.due }) = ds := List.map_id ds
  have hplans (t : Table Plan) : t.mapAll (fun _ (p : Plan) => { p with at_ := p.at_ }) = t := congrArg Table.mk (List.map_id t.cells)
  unfold Engine.delay
  simp only [Nat.add_zero, hcols, hfetch, hpairs, hdrains, hplans]

section
variable (s : State) (l : Nat)

theorem State.driveLoader_moves (far : Bool) (base : Nat) : (s.eng l).Moves ((s.driveLoader l far base).eng l) := by
  unfold State.driveLoader
  dsimp only
  split
  · exact .refl _
  · split
    · exact .refl _
    · next k fresh _ =>
      have hset (e : Engine) (r : Option Fetch) (n : Nat) (i : Instr) :
          ((s.setEng l (e.modEnd far (fun x => { x with fetch := r }))).sched n i).eng l = e.modEnd far (fun x => { x with fetch := r }) :=
        State.eng_setEng _ _ _
      rw [hset]
      refine Engine.Moves.trans ?_ (.setFetch _ far _)
      split
      · exact .beginPre _ _ _
      · exact .refl _
theorem State.eng_of_unsent {t : State} (h : t.unsent = s.unsent) : t.eng l = s.eng l := by
  unfold State.eng
  rw [State.engines_of_unsent h]
theorem State.offerEng_moves (base : Nat) : (s.eng l).Moves ((s.offerEng l base).eng l) := by
  have hloaders := (s.driveLoader_moves l false base).trans (State.driveLoader_moves _ l true base)
  have hframe : ((s.offerEng l base)).unsent = ((s.driveLoader l false base).driveLoader l true base).unsent := by
    unfold State.offerEng
    dsimp only
    generalize (s.driveLoader l false base).driveLoader l true base = t at *
    split
    · simp only [apply_ite State.unsent, State.schedSoon_unsent, State.schedOnce_unsent, ite_self]
    · simp only [apply_ite State.unsent, State.schedSoon_unsent, State.schedOnce_unsent, ite_self]
  rw [State.eng_of_unsent _ l hframe]
  exact hloaders
theorem State.goOnEng_eng (h t : Nat) : (s.goOnEng l h t).eng l = { (s.eng l).delay (t - h) (t - Nat.max h ((s.eng l).press.elim 0 (·.2))) with
    held := none, stalls := if (s.eng l).sched_ = true then (s.eng l).stalls + (t - h) else (s.eng l).stalls } := by
  unfold State.goOnEng
  dsimp only
  generalize ({ (s.eng l).delay (t - h) (t - Nat.max h ((s.eng l).press.elim 0 (·.2))) with
      held := none, stalls := if (s.eng l).sched_ = true then (s.eng l).stalls + (t - h) else (s.eng l).stalls } : Engine) = e
  refine (State.eng_of_unsent (s.setEng l e) l ?_).trans (s.eng_setEng l e)
  exact (State.reread_unsent _ l true _).trans (State.reread_unsent _ l false _)
theorem State.standing_onward (base : Nat) : (s.eng l).Onward ((s.standing l base).eng l) := by
  unfold State.standing
  dsimp only
  split
  · rw [State.eng_modEng]
    exact (Engine.Moves.setHeld (s.eng l) _ _).toOnward
  · split
    · split
      · rw [State.goOnEng_eng]
        exact (Engine.Onward.delay (s.eng l) _ _).trans (Engine.Moves.setHeld _ _ _).toOnward
      · rw [State.eng_modEng]
        exact (Engine.Moves.setHeld (s.eng l) _ _).toOnward
    · exact .refl _
/-- An engine that does not stand yet loses no cycle. -/
theorem State.standing_moves {base : Nat} (hheld : ∀ h, (s.eng l).held = some h → s.now + base ≤ h.1) : (s.eng l).Moves ((s.standing l base).eng l) := by
  unfold State.standing
  dsimp only
  split
  · rw [State.eng_modEng]
    exact Engine.Moves.setHeld (s.eng l) _ _
  · split
    · next h hh =>
      split
      · have hle : (if h.2 then s.now + base else s.now) ≤ h.1 := Nat.le_trans (by split <;> omega) (hheld h hh)
        rw [State.goOnEng_eng, Nat.sub_eq_zero_of_le hle, Nat.sub_eq_zero_of_le (Nat.le_trans hle (Nat.le_max_left _ _)), Engine.delay_zero]
        exact Engine.Moves.setHeld _ _ _
      · rw [State.eng_modEng]
        exact Engine.Moves.setHeld (s.eng l) _ _
    · exact .refl _

/-- An engine that is moved on goes on. -/
theorem State.driveEng_parts (base : Nat) : ∃ f : Engine, (s.eng l).Moves f ∧ f.held = (s.eng l).held
    ∧ (((s.setEng l f).standing l base).eng l).Moves ((s.driveEng l base).eng l) := by
  unfold State.driveEng
  dsimp only
  generalize he : (if (s.eng l).st = .ready ∧ (!(s.eng l).stopping) = true ∧ 0 < (s.eng l).near.fed ∧ 0 < (s.eng l).far.fed
    then { s.eng l with st := .running } else s.eng l) = e
  have hready : (s.eng l).Moves e ∧ e.held = (s.eng l).held := by
    rw [← he]
    split
    · next h => exact ⟨⟨⟨.inr ⟨h.1, rfl⟩, fun _ h => h⟩, fun _ => rfl, fun _ => rfl, rfl, rfl, fun _ _ => rfl, fun _ _ => rfl⟩, rfl⟩
    · exact ⟨.refl _, rfl⟩
  generalize hf : (if e.runs = true then absorb (64 * e.depth + 96) e else e) = f
  have habsorbed : e.Moves f ∧ f.held = e.held := by
    rw [← hf]
    split
    · exact ⟨.absorb _ e, Engine.held_absorb _ e⟩
    · exact ⟨.refl e, rfl⟩
  refine ⟨f, hready.1.trans habsorbed.1, habsorbed.2.trans hready.2, ?_⟩
  generalize (s.setEng l f).standing l base = t
  split
  · exact .refl _
  · exact t.offerEng_moves l _
theorem State.driveEng_onward (base : Nat) : (s.eng l).Onward ((s.driveEng l base).eng l) := by
  obtain ⟨f, hf, -, hrest⟩ := s.driveEng_parts l base
  have hstand := (s.setEng l f).standing_onward l base
  rw [State.eng_setEng] at hstand
  exact (hf.toOnward.trans hstand).trans hrest.toOnward
/-- What an engine has read and planned stands while it does not stand. -/
theorem State.driveEng_moves {base : Nat} (hheld : ∀ h, (s.eng l).held = some h → s.now + base ≤ h.1) :
    (s.eng l).Moves ((s.driveEng l base).eng l) := by
  obtain ⟨f, hf, hsame, hrest⟩ := s.driveEng_parts l base
  have hstand := State.standing_moves (s.setEng l f) l (base := base) (by rw [State.eng_setEng, hsame]; exact hheld)
  rw [State.eng_setEng] at hstand
  exact (hf.trans hstand).trans hrest

end

theorem Engine.moving_held {e : Engine} {now : Nat} (h : e.moving now = true) : ∀ w, e.held = some w → now + 1 ≤ w.1 := by
  intro w hw
  obtain ⟨-, hstand⟩ := Bool.and_eq_true_iff.1 h
  unfold Engine.standing at hstand
  rw [hw] at hstand
  have hle : ¬ w.1 ≤ now := by simpa using hstand
  omega

/-! ### Held opens -/

/-- The engine once a held open of an end takes effect. -/
def Engine.takesOpen (e : Engine) (far : Bool) (h : HeldOpen) (now : Nat) : Engine :=
  let cfgs := h.cfgs.map (fun c => { c with at_ := now })
  let e := e.modEnd far (fun x => { x with
    isOpen := true, party := h.ctx, last := some h.ctx, roleB := h.roleB, desc := h.desc, addr := h.addr, tok := some h.tok
    feeds := h.feeds, fed := fedK h.desc h.feeds, heldOpen := none })
  let e := { e with acks := e.acks ++ h.acks }
  if h.roleB then { e with cfgB := cfgs } else { e with cfgA := cfgs }
theorem Engine.takesOpen_left (e : Engine) (far : Bool) (h : HeldOpen) (now : Nat) :
    (e.takesOpen far h now).st = e.st ∧ (e.takesOpen far h now).end_ (!far) = e.end_ (!far)
      ∧ (e.takesOpen far h now).end_ far = { e.end_ far with
          isOpen := true, party := h.ctx, last := some h.ctx, roleB := h.roleB, desc := h.desc, addr := h.addr, tok := some h.tok
          feeds := h.feeds, fed := fedK h.desc h.feeds, heldOpen := none } := by
  unfold Engine.takesOpen
  dsimp only
  split <;> cases far <;> exact ⟨rfl, rfl, rfl⟩

section
variable {s : State} {l : Nat} {far : Bool}

theorem exec_heldOpen {h : HeldOpen} (hheld : ((s.eng l).end_ far).heldOpen = some h) (hnear : (s.eng l).near.isOpen = false)
    (hfar : (s.eng l).far.isOpen = false) (hst : (s.eng l).st = .idle) :
    ∃ t : State, exec (.heldOpenTakesEffect l far) s = .next (t.modEng l (fun e => { e with st := .openPending }))
      ∧ t.eng l = (s.eng l).takesOpen far h s.now ∧ (∀ k, k ≠ l → t.eng k = s.eng k) ∧ t = { s with engines := t.engines } := by
  have hother : ((s.eng l).end_ (!far)).isOpen = false := by
    cases far
    · exact hfar
    · exact hnear
  have hexec : exec (.heldOpenTakesEffect l far) s = .next (State.openEffect ((s.modEnd l far (fun x => { x with
      isOpen := true, party := h.ctx, last := some h.ctx, roleB := h.roleB, desc := h.desc, addr := h.addr, tok := some h.tok
      feeds := h.feeds, fed := fedK h.desc h.feeds, heldOpen := none })).modEng l (fun e =>
        let e := { e with acks := e.acks ++ h.acks }
        if h.roleB then { e with cfgB := h.cfgs.map (fun c => { c with at_ := s.now }) }
        else { e with cfgA := h.cfgs.map (fun c => { c with at_ := s.now }) })) l far) := by
    show execHeldOpenTakesEffect l far s = _
    unfold execHeldOpenTakesEffect
    dsimp only
    rw [hheld]
    dsimp only
    rw [hnear, hfar, if_neg (by simp)]
    rfl
  generalize ht : (s.modEnd l far _).modEng l _ = t at hexec
  have heng : t.eng l = (s.eng l).takesOpen far h s.now := by
    rw [← ht, State.eng_modEng, State.modEnd, State.eng_modEng]
    rfl
  obtain ⟨hst', hend', -⟩ := (s.eng l).takesOpen_left far h s.now
  have heffect : t.openEffect l far = t.modEng l (fun e => { e with st := .openPending }) := by
    unfold State.openEffect
    dsimp only
    rw [heng, hend', hother, if_pos (by decide), hst', if_pos hst]
  refine ⟨t, hexec.trans (congrArg Host.Outcome.next heffect), heng, fun k hk => ?_, ?_⟩
  · rw [← ht]
    exact (Table.get_set_other _ _ hk _).trans (Table.get_set_other _ _ hk _)
  · rw [← ht]
    rfl

/-! ### Restores -/

/-- A saved engine restored. -/
def Engine.restored (e : Engine) (now : Nat) : Engine :=
  let late (b : Bool) : List SpCfg := (e.spLater.filter (fun c => c.1 == b)).map (fun c => { c.2 with at_ := now })
  { e.rewind with
    st := e.saved, stopping := false, savedBy := none, spLater := [], cfgA := e.cfgA ++ late false, cfgB := e.cfgB ++ late true }
theorem Engine.rewind_left (e : Engine) : (∀ far, (e.rewind.end_ far).cache = [] ∧ (e.rewind.end_ far).fifo = []
    ∧ (e.rewind.end_ far).feeds = (e.end_ far).feeds) ∧ e.rewind = { e with near := e.rewind.near, far := e.rewind.far, plans := .empty, passed := [] } := by
  unfold Engine.rewind
  dsimp only
  cases e.aFar
  · exact ⟨fun far => by cases far <;> exact ⟨rfl, rfl, rfl⟩, rfl⟩
  · exact ⟨fun far => by cases far <;> exact ⟨rfl, rfl, rfl⟩, rfl⟩
theorem exec_engineRestore {z : Lease} (hst : (s.eng l).st = .suspended) (htoken : (s.eng l).token = true) (hlease : (s.eng l).lease = some z)
    (hwoken : z.grantAt + 1500 ≤ s.now) (hrun : s.partiesRun l = true) (hbroken : (s.eng l).broken = false)
    (hpending : (s.eng l).saved ≠ .openPending) (hidle : (s.eng l).saved ≠ .idle) :
    exec (.engineRestore l) s = .next ((s.setEng l ((s.eng l).restored s.now)).driveEng l 1) := by
  have hbroken' : ((s.eng l).restored s.now).broken = false := by
    have h := (s.eng l).rewind_left.2
    exact (congrArg Engine.broken h).trans hbroken
  have hst' : ((s.eng l).restored s.now).st = (s.eng l).saved := rfl
  have hwoken' : (decide (z.grantAt + Config.wakeCycles ≤ s.now)) = true := decide_eq_true hwoken
  show execEngineRestore l s = _
  unfold execEngineRestore
  dsimp only
  rw [hlease, htoken, hrun, if_neg (by simp [hst, Option.elim, hwoken'])]
  change Host.Outcome.next (if ((s.eng l).restored s.now).broken then (s.setEng l ((s.eng l).restored s.now)).breakRestored l
    else if ((s.eng l).restored s.now).st = .openPending ∧ ((s.eng l).restored s.now).formed then
      (s.setEng l ((s.eng l).restored s.now)).becomeReady l
    else if ((s.eng l).restored s.now).st = .idle then _ else (s.setEng l ((s.eng l).restored s.now)).driveEng l 1) = _
  rw [hbroken', if_neg (by decide), hst', if_neg (fun h => hpending h.1), if_neg hidle]
theorem exec_engineRestore_waits (htoken : (s.eng l).token = false) : exec (.engineRestore l) s = .next s := by
  show execEngineRestore l s = _
  unfold execEngineRestore
  dsimp only
  rw [htoken, if_pos (.inr (.inl rfl))]

/-! ### Loader fetches -/

/-- An end once its loader has read the next K-block of a feed. -/
def EEnd.reads (x : EEnd) (pre : Bool) (cols : List Col) (f : Feed) : EEnd :=
  { x with
    fetch := none, pre := if pre then x.pre ++ cols else x.pre, fifo := if pre then x.fifo else x.fifo ++ cols
    fetched := x.fetched + dBlock x.desc
    feeds := if f.pos + 1 = f.count then x.feeds.tail else { f with pos := f.pos + 1 } :: x.feeds.tail }
/-- The cache a read goes by: what another base of the handle left is gone. -/
def EEnd.boundCache (x : EEnd) (f : Feed) : List CLine :=
  if x.handles.find f.handle = some f.base then x.cache else x.cache.filter (fun c => c.handle != f.handle)
theorem State.readOne_fresh {f : Feed} (hbound : f.pos = 0 ∨ ((s.eng l).end_ far).handles.find f.handle = some f.base) (k0 : Nat) :
    ∃ hs ca, s.readOne l far ⟨f, f.pos, k0, []⟩ true = ({ (s.eng l).end_ far with handles := hs, cache := ca },
      (s.readBlock (endCore l far) (((s.eng l).end_ far).boundCache f) (dOfmt ((s.eng l).end_ far).desc) ((s.eng l).amode != 0) f f.pos k0).2) := by
  unfold State.readOne EEnd.boundCache
  dsimp only
  have hempty : ([] : List Col).isEmpty = true := rfl
  rw [if_pos hempty]
  by_cases h : ((s.eng l).end_ far).handles.find f.handle = some f.base
  · have hold : ¬ (true = true ∧ f.pos = 0 ∧ ((s.eng l).end_ far).handles.find f.handle ≠ some f.base) := fun hn => hn.2.2 h
    rw [if_neg hold, if_pos h, if_pos h, if_pos h]
    exact ⟨_, _, rfl⟩
  · have hpos := hbound.resolve_right h
    have hnew : (((s.eng l).end_ far).handles.set f.handle f.base).find f.handle = some f.base := Table.find_set_self _ _ _
    have hrebind : true = true ∧ f.pos = 0 ∧ ((s.eng l).end_ far).handles.find f.handle ≠ some f.base := ⟨rfl, hpos, h⟩
    rw [if_pos hrebind, if_neg h]
    dsimp only
    rw [if_pos hnew, if_pos hnew]
    exact ⟨_, _, rfl⟩

/-- The engine with an end that has read a K-block of a feed, which completes with its last. -/
def Engine.takes (e : Engine) (far : Bool) (f : Feed) (y : EEnd) : Engine :=
  if f.pos + 1 = f.count then (e.modEnd far (fun _ => y)).numDone f.num else e.modEnd far (fun _ => y)
theorem exec_loaderFetch_read {f : Feed} (hmove : (s.eng l).moving s.now = true)
    (hfetch : ((s.eng l).end_ far).fetch = some ⟨s.now, some ⟨f, f.pos, ((s.eng l).end_ far).fetched, []⟩, true⟩)
    (hbound : f.pos = 0 ∨ ((s.eng l).end_ far).handles.find f.handle = some f.base) {pre : Bool} {new : List Col}
    (hpre : (s.eng l).inPrePass (((s.eng l).end_ far).fetched / (s.eng l).kLen) = pre)
    (hnew : (s.readBlock (endCore l far) (((s.eng l).end_ far).boundCache f) (dOfmt ((s.eng l).end_ far).desc) ((s.eng l).amode != 0) f f.pos
      ((s.eng l).end_ far).fetched).2 = new) (hgood : pre = true → ∀ c ∈ new, c.bad = none) :
    ∃ hs ca, exec (.loaderFetch l far) s = .next ((s.setEng l (
      (s.eng l).takes far f ({ (s.eng l).end_ far with handles := hs, cache := ca }.reads pre
        (new.filter (fun c => pre || (s.eng l).prod * (s.eng l).kLen + (s.eng l).kpos ≤ c.k)) f))).driveEng l 1) := by
  obtain ⟨hs, ca, hread⟩ := State.readOne_fresh (s := s) (l := l) (far := far) hbound ((s.eng l).end_ far).fetched
  rw [hnew] at hread
  refine ⟨hs, ca, ?_⟩
  show execLoaderFetch l far s = _
  unfold execLoaderFetch
  dsimp only
  rw [if_pos hmove, hfetch]
  dsimp only [Option.filter]
  rw [if_pos (by simp)]
  dsimp only
  rw [hread]
  dsimp only
  rw [hpre]
  have hgood' : (if pre = true then (new.filter (fun c => pre || decide ((s.eng l).prod * (s.eng l).kLen + (s.eng l).kpos ≤ c.k))).findSome? (·.bad)
      else none) = none := by
    split
    · next h =>
      rw [List.findSome?_eq_none_iff]
      exact fun c hc => hgood h c (List.mem_of_mem_filter hc)
    · rfl
  rw [hgood']
  refine congrArg (fun e => Host.Outcome.next ((s.setEng l e).driveEng l 1)) ?_
  unfold Engine.takes
  by_cases hends : f.pos + 1 = f.count
  · exact (if_pos ⟨rfl, hends⟩).trans (if_pos hends).symm
  · exact (if_neg (fun h => hends h.2)).trans (if_neg hends).symm
theorem exec_loaderFetch_none (h : (s.eng l).moving s.now = false ∨ ((s.eng l).end_ far).fetch = none) : exec (.loaderFetch l far) s = .next s := by
  have hnone : (if (s.eng l).moving s.now = true then ((s.eng l).end_ far).fetch.filter (fun f => f.ends == s.now) else none) = none := by
    obtain h | h := h
    · rw [h, if_neg (by decide)]
    · rw [h]
      split <;> rfl
  show execLoaderFetch l far s = _
  unfold execLoaderFetch
  dsimp only
  rw [hnone]

end

theorem Engine.numDone_left (e : Engine) (n : Nat) : (∀ far, (e.numDone n).end_ far = e.end_ far) ∧ (∀ far, (e.numDone n).stream far = e.stream far)
    ∧ (e.numDone n).tile0 = e.tile0 ∧ (e.numDone n).tile1 = e.tile1 ∧ (e.numDone n).kdone = e.kdone ∧ (e.numDone n).held = e.held :=
  ⟨fun far => by cases far <;> rfl, fun far => by cases far <;> rfl, rfl, rfl, rfl, rfl⟩
theorem Engine.stream_modEnd (e : Engine) (far : Bool) {f : EEnd → EEnd} (hrole : (f (e.end_ far)).roleB = (e.end_ far).roleB) :
    (e.modEnd far f).stream far = e.passed.map (fun p => if far = e.aFar then p.1 else p.2.1) ++ (f (e.end_ far)).fifo := by
  have haFar : (e.modEnd far f).aFar = e.aFar := by
    cases far
    · exact hrole
    · rfl
  unfold Engine.stream
  rw [haFar, Engine.end_modEnd_self]
  cases far <;> rfl

theorem Engine.takes_left (e : Engine) (far : Bool) (f : Feed) {fs : List Feed} (hfeeds : (e.end_ far).feeds = f :: fs) (hs : Table Nat)
    (ca : List CLine) (pre : Bool) (cols : List Col) :
    let r := e.takes far f ({ e.end_ far with handles := hs, cache := ca }.reads pre cols f)
    (r.end_ far).pre = (if pre then (e.end_ far).pre ++ cols else (e.end_ far).pre)
      ∧ r.stream far = (if pre then e.stream far else e.stream far ++ cols) ∧ (r.end_ far).fetched = (e.end_ far).fetched + dBlock (e.end_ far).desc
      ∧ (r.end_ far).feeds = (if f.pos + 1 = f.count then fs else { f with pos := f.pos + 1 } :: fs) ∧ r.end_ (!far) = e.end_ (!far)
      ∧ (r.tile0 = e.tile0 ∧ r.tile1 = e.tile1 ∧ r.kdone = e.kdone) ∧ r.held = e.held := by
  dsimp only
  generalize hy : { e.end_ far with handles := hs, cache := ca }.reads pre cols f = y
  have hends : (e.takes far f y).end_ far = y ∧ (e.takes far f y).end_ (!far) = e.end_ (!far)
      ∧ (e.takes far f y).stream far = (e.modEnd far (fun _ => y)).stream far
      ∧ ((e.takes far f y).tile0 = e.tile0 ∧ (e.takes far f y).tile1 = e.tile1 ∧ (e.takes far f y).kdone = e.kdone)
      ∧ (e.takes far f y).held = e.held := by
    unfold Engine.takes
    split <;> cases far <;> exact ⟨rfl, rfl, rfl, ⟨rfl, rfl, rfl⟩, rfl⟩
  obtain ⟨hend, hother, hstream, hkept, hheld⟩ := hends
  obtain ⟨hrole, hpre, hfifo, hfetched, hfed⟩ : y.roleB = (e.end_ far).roleB ∧ y.pre = (if pre then (e.end_ far).pre ++ cols else (e.end_ far).pre)
      ∧ y.fifo = (if pre then (e.end_ far).fifo else (e.end_ far).fifo ++ cols) ∧ y.fetched = (e.end_ far).fetched + dBlock (e.end_ far).desc
      ∧ y.feeds = (if f.pos + 1 = f.count then (e.end_ far).feeds.tail else { f with pos := f.pos + 1 } :: (e.end_ far).feeds.tail) := by
    rw [← hy]
    exact ⟨rfl, rfl, rfl, rfl, rfl⟩
  have hjoined := e.stream_modEnd far (f := fun _ => y) hrole
  rw [hend, hstream, hjoined, hfifo]
  refine ⟨hpre, ?_, hfetched, hfed.trans (by rw [hfeeds]; rfl), hother, hkept, hheld⟩
  cases pre
  · exact (List.append_assoc _ _ _).symm
  · rfl

/-! ### Pre-passes -/

section
variable (e : Engine) (q now : Nat)

/-- The columns of product `q` an end's loader has read. -/
def Engine.readOf (far : Bool) : List Col := (e.end_ far).pre.filter (fun c => c.k / e.kLen == q)
/-- What the end of a pre-pass leaves of the ends and the product in progress. -/
structure Engine.PassEnded (f : Engine) : Prop where
  pre : ∀ far, (f.end_ far).pre = (e.end_ far).pre.filter (fun c => c.k / e.kLen != q)
  kdone : f.kdone = e.kdone
  held : f.held = e.held
theorem Engine.endPrePass_plan {sideB : Bool} {c : SpCfg} {p : Plan} {k : Counts} (hsp : Table.get none e.sp q = some (sideB, c))
    (hplan : makePlan e sideB c (e.readOf q e.aFar) (e.readOf q (!e.aFar)) now = some (p, k)) :
    e.PassEnded q (e.endPrePass q now) ∧ (e.endPrePass q now).plans.find q = some p ∧ (e.endPrePass q now).counts.find q = some k
      ∧ (e.endPrePass q now).sp = e.sp := by
  unfold Engine.readOf at hplan
  unfold Engine.endPrePass
  dsimp only
  rw [hsp]
  dsimp only
  rw [hplan]
  dsimp only
  cases e.drawFar p
  · exact ⟨⟨fun far => by cases far <;> rfl, rfl, rfl⟩, Table.find_set_self _ _ _, Table.find_set_self _ _ _, rfl⟩
  · exact ⟨⟨fun far => by cases far <;> rfl, rfl, rfl⟩, Table.find_set_self _ _ _, Table.find_set_self _ _ _, rfl⟩
theorem Engine.endPrePass_dense {sideB : Bool} {c : SpCfg} (hsp : Table.get none e.sp q = some (sideB, c))
    (hplan : makePlan e sideB c (e.readOf q e.aFar) (e.readOf q (!e.aFar)) now = none) :
    e.PassEnded q (e.endPrePass q now) ∧ (e.endPrePass q now).plans = e.plans ∧ (e.endPrePass q now).counts.find q = some { Counts.zero with fb := true }
      ∧ (e.endPrePass q now).sp.find q = some none := by
  unfold Engine.readOf at hplan
  unfold Engine.endPrePass
  dsimp only
  rw [hsp]
  dsimp only
  rw [hplan]
  dsimp only
  generalize ({ e with sp := e.sp.set q none, counts := e.counts.set q { Counts.zero with fb := true } } : Engine).aFar = b
  cases b
  · exact ⟨⟨fun far => by cases far <;> rfl, rfl, rfl⟩, rfl, Table.find_set_self _ _ _, Table.find_set_self _ _ _⟩
  · exact ⟨⟨fun far => by cases far <;> rfl, rfl, rfl⟩, rfl, Table.find_set_self _ _ _, Table.find_set_self _ _ _⟩

end

/-- A product whose pre-pass is ready has a configuration, and no plan. -/
theorem Engine.sp_of_prePassReady {e : Engine} {q : Nat} (h : e.prePassReady q = true) : (Table.get none e.sp q).isSome = true ∧ e.plans.find q = none := by
  unfold Engine.prePassReady Engine.inPrePass at h
  simp only [Bool.and_eq_true] at h
  exact ⟨h.1.1.1, by simpa using h.1.1.2⟩
theorem exec_prePass {s : State} {l : Nat} (hmove : (s.eng l).moving s.now = true) (hready : (s.eng l).prePassReady (s.eng l).prod = true) :
    exec (.prePass l) s = .next ((s.setEng l ((s.eng l).endPrePass (s.eng l).prod s.now)).driveEng l 1) := by
  show execPrePass l s = _
  unfold execPrePass
  dsimp only
  rw [if_neg (by simp [hmove]), if_pos hready]

/-- Settles O52: held opens, restores, fetches and pre-passes. -/
theorem loadersAndRestores : Obligations.LoadersAndRestores := by
  intro s l far e x
  refine ⟨fun h hheld hnear hfar hst => ?_, fun z hst htoken hlease hwoken hrun hbroken hsaved => ?_, fun _ => exec_engineRestore_waits,
    fun f fs hmove hfeeds hfetch hbound => ?_, exec_loaderFetch_none, ?_⟩
  · obtain ⟨t, hexec, heng, hothers, hframe⟩ := exec_heldOpen hheld hnear hfar hst
    obtain ⟨-, -, hend⟩ := (s.eng l).takesOpen_left far h s.now
    have heng' := State.eng_modEng t l (fun e => { e with st := .openPending })
    have hend' : ((t.modEng l (fun e => { e with st := .openPending })).eng l).end_ far = (t.eng l).end_ far := by
      rw [heng']
      cases far <;> rfl
    refine ⟨_, hexec, by rw [heng'], ?_, fun k hk => (Table.get_set_other _ _ hk _).trans (hothers k hk), by rw [hframe]; rfl⟩
    dsimp only
    rw [hend', heng, hend]
    exact ⟨rfl, rfl, rfl, rfl, rfl, rfl, rfl, rfl⟩
  · have hnot (st : EState) (h : st ≠ .done ∧ st ≠ .running ∧ st ≠ .faulted ∧ st ≠ .draining) : e.saved ≠ st := by
      rintro rfl
      tauto
    have hexec := exec_engineRestore hst htoken hlease hwoken hrun hbroken (hnot .openPending (by decide)) (hnot .idle (by decide))
    obtain ⟨hends, hrewind⟩ := e.rewind_left
    have hends' (far : Bool) : (((e.restored s.now).end_ far).cache = [] ∧ ((e.restored s.now).end_ far).fifo = []
        ∧ ((e.restored s.now).end_ far).feeds = (e.end_ far).feeds) := by
      cases far
      · exact hends false
      · exact hends true
    have hkept : (e.restored s.now).tile0 = e.tile0 ∧ (e.restored s.now).tile1 = e.tile1 ∧ (e.restored s.now).kdone = e.kdone
        ∧ (e.restored s.now).prod = e.prod :=
      ⟨(congrArg Engine.tile0 hrewind :), (congrArg Engine.tile1 hrewind :), (congrArg Engine.kdone hrewind :), (congrArg Engine.prod hrewind :)⟩
    have hsaved' : (e.restored s.now).st = e.saved ∧ (e.restored s.now).savedBy = none ∧ (e.restored s.now).stopping = false := ⟨rfl, rfl, rfl⟩
    generalize e.restored s.now = r at *
    have honward := State.driveEng_onward (s.setEng l r) l 1
    obtain ⟨w, -, hdriven⟩ := State.driveEng_driven (s.setEng l r) l 1
    have hstill := hdriven.still
    have hframe := State.driveEng_unmoved (s.setEng l r) l 1
    rw [State.eng_setEng] at honward hstill
    generalize (s.setEng l r).driveEng l 1 = t at *
    obtain ⟨hcache, hfifo, hfeeds⟩ := hends' false
    obtain ⟨hcache', hfifo', hfeeds'⟩ := hends' true
    refine ⟨t, hexec, ?_, (congrArg Engine.savedBy hstill :).trans hsaved'.2.1, (congrArg Engine.stopping hstill :).trans hsaved'.2.2,
      (congrArg (fun e : Engine => e.near.cache) hstill :).trans hcache, (congrArg (fun e : Engine => e.far.cache) hstill :).trans hcache',
      honward.fifo false hfifo, honward.fifo true hfifo', (congrArg (fun e : Engine => e.near.feeds) hstill :).trans hfeeds,
      (congrArg (fun e : Engine => e.far.feeds) hstill :).trans hfeeds', (congrArg Engine.tile0 hstill :).trans hkept.1,
      (congrArg Engine.tile1 hstill :).trans hkept.2.1, (congrArg Engine.kdone hstill :).trans hkept.2.2.1,
      (congrArg Engine.prod hstill :).trans hkept.2.2.2, (congrArg State.mem hframe :), (congrArg State.ctxs hframe :)⟩
    obtain h | ⟨h, -⟩ := honward.st
    · exact h.trans hsaved'.1
    · exact absurd (hsaved'.1.symm.trans h) (hnot .ready (by decide))
  · intro cache new pre hgood
    obtain ⟨hs, ca, hexec⟩ := exec_loaderFetch_read (new := new) (pre := pre) hmove hfetch hbound rfl rfl hgood
    generalize hcols : new.filter (fun c => pre || decide (e.prod * e.kLen + e.kpos ≤ c.k)) = cols at hexec
    obtain ⟨hpre, hstream, hfetched, hfed, hother, hkept, hheld⟩ := e.takes_left far f hfeeds hs ca pre cols
    generalize e.takes far f ({ e.end_ far with handles := hs, cache := ca }.reads pre cols f) = r at *
    have hmoves := State.driveEng_moves (s.setEng l r) l (base := 1) (by rw [State.eng_setEng, hheld]; exact Engine.moving_held hmove)
    obtain ⟨w, -, hdriven⟩ := State.driveEng_driven (s.setEng l r) l 1
    have hstill := hdriven.still
    have hframe := State.eq_of_unmoved (State.driveEng_unmoved (s.setEng l r) l 1)
    have hothers (k : Nat) (hk : k ≠ l) := (hdriven.others k hk).trans (Table.get_set_other Engine.dormant s.engines hk r)
    rw [State.eng_setEng] at hmoves hstill
    generalize (s.setEng l r).driveEng l 1 = t at *
    have hend (b : Bool) : ((t.eng l).end_ b).still = (r.end_ b).still := by
      cases b
      · exact (congrArg Engine.near hstill :)
      · exact (congrArg Engine.far hstill :)
    refine ⟨t, hexec, ?_, (congrArg EEnd.fetched (hend far) :).trans hfetched, (congrArg EEnd.feeds (hend far) :).trans hfed,
      (congrArg EEnd.feeds (hend (!far)) :).trans (congrArg EEnd.feeds hother :), (congrArg Engine.tile0 hstill :).trans hkept.1,
      (congrArg Engine.tile1 hstill :).trans hkept.2.1, (congrArg Engine.kdone hstill :).trans hkept.2.2, hothers, ?_⟩
    · have hpre' := (hmoves.pre far).trans hpre
      have hstream' := (hmoves.stream far).trans hstream
      rw [hpre', hstream', ← hcols]
      clear_value pre new
      cases pre
      · exact ⟨rfl, rfl⟩
      · exact ⟨congrArg (x.pre ++ ·) (List.filter_eq_self.2 (fun _ _ => rfl)), rfl⟩
    · rw [hframe]
      rfl
  · intro q ca cb hmove hready
    have hexec := exec_prePass hmove hready
    obtain ⟨⟨sideB, c⟩, hsp⟩ := Option.isSome_iff_exists.1 (e.sp_of_prePassReady hready).1
    obtain ⟨w, -, hdriven⟩ := State.driveEng_driven (s.setEng l (e.endPrePass q s.now)) l 1
    have hframe := State.eq_of_unmoved (State.driveEng_unmoved (s.setEng l (e.endPrePass q s.now)) l 1)
    have hpass : e.PassEnded q (e.endPrePass q s.now) := by
      cases hplan : makePlan e sideB c ca cb s.now with
      | none => exact (e.endPrePass_dense q s.now hsp hplan).1
      | some pk => exact (e.endPrePass_plan q s.now hsp hplan).1
    have hmoves := State.driveEng_moves (s.setEng l (e.endPrePass q s.now)) l (base := 1)
      (by rw [State.eng_setEng, hpass.held]; exact Engine.moving_held hmove)
    have hstill := hdriven.still
    have hothers (k : Nat) (hk : k ≠ l) := (hdriven.others k hk).trans (Table.get_set_other Engine.dormant s.engines hk (e.endPrePass q s.now))
    rw [State.eng_setEng] at hmoves hstill
    generalize (s.setEng l (e.endPrePass q s.now)).driveEng l 1 = t at *
    refine ⟨t, sideB, c, hexec, hsp, fun p k hplan => ?_, fun hplan => ?_, fun y hy => ?_, (congrArg Engine.kdone hstill :).trans hpass.kdone, hothers,
      by rw [hframe]; rfl⟩
    · obtain ⟨-, hp, hk, hspq⟩ := e.endPrePass_plan q s.now hsp hplan
      have hsome : ((e.endPrePass q s.now).sp.find q).isSome = true := by
        rw [hspq]
        cases hfind : e.sp.find q with
        | none => rw [Table.get, hfind] at hsp; cases hsp
        | some v => rfl
      refine ⟨by rw [hmoves.plans, hp], ?_⟩
      rw [Table.get, hmoves.counts q hsome, hk]
      rfl
    · obtain ⟨-, hp, hk, hspq⟩ := e.endPrePass_dense q s.now hsp hplan
      have hsome : ((e.endPrePass q s.now).sp.find q).isSome = true := by rw [hspq]; rfl
      refine ⟨by rw [hmoves.plans, hp]; exact (e.sp_of_prePassReady hready).2, ?_, ?_⟩
      · rw [Table.get, hmoves.sp q hsome, hspq]
        rfl
      · rw [Table.get, hmoves.counts q hsome, hk]
        rfl
    · have hpre (far : Bool) (hy : y ∈ ((t.eng l).end_ far).pre) : y.k / e.kLen ≠ q := by
        rw [hmoves.pre far, hpass.pre far] at hy
        simpa using (List.mem_filter.1 hy).2
      obtain hy | hy := List.mem_append.1 hy
      · exact hpre false hy
      · exact hpre true hy

end Sys2Proof.Machine
end

section
/-! PROOFS. K-steps, drains and the rows they write (O53). -/

namespace Sys2Proof.Machine

/-! ### K-steps -/

theorem length_stepTile (e : Engine) (tile : List Lane) (f : Nat → Nat → List Num) : (stepTile e tile f).length = tile.length := by
  simp [stepTile]
/-- The cell of row `m` and column `n` after a step. -/
theorem getD_stepTile (e : Engine) {tile : List Lane} (f : Nat → Nat → List Num) (hlen : tile.length = 1024) {m n : Nat} (hm : m < 32) (hn : n < 32) :
    (stepTile e tile f).getD (32 * m + n) 0
      = BitVec.ofNat 32 (kStepCell e.nbv (e.amode != 0) (e.amode == 2) (tile.getD (32 * m + n) 0).toNat (f m n)) := by
  have hlt : 32 * m + n < tile.length := by omega
  have hdiv : (32 * m + n) / 32 = m := by omega
  have hmod : (32 * m + n) % 32 = n := by omega
  rw [List.getD_eq_getElem _ _ (by rw [length_stepTile]; exact hlt), List.getD_eq_getElem _ _ hlt]
  simp only [stepTile, List.getElem_map, List.getElem_zipIdx, Nat.zero_add, hdiv, hmod]
theorem Engine.setTile_left (e : Engine) (t : List Lane) : (e.setTile t).tile = t
    ∧ e.setTile t = { e with tile0 := (e.setTile t).tile0, tile1 := (e.setTile t).tile1 } := by
  unfold Engine.setTile
  by_cases h : e.prod % 2 = 0
  · rw [if_pos h]
    exact ⟨if_pos h, rfl⟩
  · rw [if_neg h]
    exact ⟨if_neg h, rfl⟩
/-- New sums of an end change no descriptor. -/
theorem Engine.modEnd_sums (e : Engine) (far : Bool) (f : EEnd → List Lane) : ∃ N F, e.modEnd far (fun x => { x with sums := f x }) = { e with near := N, far := F }
    ∧ N.desc = e.near.desc ∧ F.desc = e.far.desc ∧ N.roleB = e.near.roleB := by
  cases far <;> exact ⟨_, _, rfl, rfl, rfl, rfl⟩
theorem Engine.kLen_congr {e f : Engine} (hnear : f.near.desc = e.near.desc) (hfar : f.far.desc = e.far.desc) (hrole : f.near.roleB = e.near.roleB) :
    f.kLen = e.kLen := by
  have hdA : f.dA = e.dA := by
    unfold Engine.dA Engine.aFar
    rw [hrole]
    cases e.near.roleB
    · exact hnear
    · exact hfar
  unfold Engine.kLen
  rw [hdA]
/-- A dense step that leaves K indices of the product. -/
theorem Engine.denseStep_live {e : Engine} (hlive : e.stepPairs.filter (·.2.2) ≠ []) (hmore : e.kpos + e.stepPairs.length < e.kLen) (now : Nat) :
    (e.denseStep now).prod = e.prod ∧ (e.denseStep now).kdone = e.kdone + 1 ∧ (e.denseStep now).kpos = e.kpos + e.stepPairs.length
      ∧ (e.denseStep now).held = e.held ∧ (e.denseStep now).tile
        = stepTile e e.tile (fun m n => (e.stepPairs.filter (·.2.2)).filterMap (fun p => prodOf (colEl p.1 m) (colEl p.2.1 n))) := by
  have hne : (e.stepPairs.filter (·.2.2)).isEmpty = false := by simpa using hlive
  unfold Engine.denseStep
  dsimp only
  rw [hne]
  simp only [Bool.false_eq_true, if_false]
  generalize stepTile e e.tile _ = T
  obtain ⟨htile, hset⟩ := e.setTile_left T
  generalize e.setTile T = g at *
  obtain ⟨N, F, hg, hN, hF, hrole⟩ := g.modEnd_sums e.aFar (fun x => (e.stepPairs.map (·.1)).foldl (addSums (e.amode != 0)) x.sums)
  rw [hg]
  generalize hg1 : ({ g with near := N, far := F } : Engine) = g1
  obtain ⟨N', F', hg', hN', hF', hrole'⟩ := g1.modEnd_sums (!g1.aFar) (fun x => (e.stepPairs.map (·.2.1)).foldl (addSums (e.amode != 0)) x.sums)
  rw [hg']
  have hkpos : g1.kpos = e.kpos := by
    rw [← hg1]
    exact (congrArg Engine.kpos hset :)
  have hkept : g1.prod = e.prod ∧ g1.kdone = e.kdone ∧ g1.held = e.held ∧ g1.tile = T := by
    rw [← hg1]
    exact ⟨(congrArg Engine.prod hset :), (congrArg Engine.kdone hset :), (congrArg Engine.held hset :), htile⟩
  have hkLen (f : Engine) (hf : f.near = N' ∧ f.far = F') : f.kLen = e.kLen := by
    refine Engine.kLen_congr ?_ ?_ ?_
    · rw [hf.1, hN', ← hg1]
      exact hN.trans (congrArg (fun e : Engine => e.near.desc) hset :)
    · rw [hf.2, hF', ← hg1]
      exact hF.trans (congrArg (fun e : Engine => e.far.desc) hset :)
    · rw [hf.1, hrole', ← hg1]
      exact hrole.trans (congrArg (fun e : Engine => e.near.roleB) hset :)
  generalize hf : ({ g1 with
      near := N', far := F', kpos := g1.kpos + e.stepPairs.length, passed := g1.passed.drop e.stepPairs.length
      hist := e.stepPairs.reverse ++ g1.hist } : Engine).counted now = f
  have hmore' : ¬ f.kLen ≤ f.kpos := by
    rw [hkLen f (by rw [← hf]; exact ⟨rfl, rfl⟩), ← hf]
    show ¬ e.kLen ≤ g1.kpos + e.stepPairs.length
    omega
  rw [if_neg hmore', ← hf]
  obtain ⟨hprod, hkdone, hheld, ht⟩ := hkept
  exact ⟨hprod, congrArg (· + 1) hkdone, congrArg (· + e.stepPairs.length) hkpos, hheld, ht⟩

section
variable {s : State} {l : Nat}

theorem State.takeCopies_none (hcopies : (s.eng l).copies = []) : s.takeCopies l = s.setEng l (s.eng l) := by
  unfold State.takeCopies
  dsimp only
  rw [hcopies, List.map_nil, List.append_nil]
  refine congrArg (s.setEng l) ?_
  rw [← hcopies]
/-- A K-step of the dense path. -/
theorem exec_kStep_dense (hmove : (s.eng l).moving s.now = true) (hst : (s.eng l).st = .running) (hstarted : (s.eng l).started = true)
    (hstep : (s.eng l).stepNow s.now = true) (hcopies : (s.eng l).copies = []) (htile : badTile l ∉ s.bad) (hplan : (s.eng l).plan = none)
    (hgood : ∀ p ∈ (s.eng l).passed, p.1.bad = none ∧ p.2.1.bad = none) :
    ∃ u : State, exec (.kStep l) s = .next (u.driveEng l 1) ∧ u.eng l = (s.eng l).denseStep s.now ∧ (∀ k, k ≠ l → u.eng k = s.eng k)
      ∧ u.unmoved = s.unmoved := by
  obtain ⟨hruns, hstand⟩ := Bool.and_eq_true_iff.1 hmove
  have hstand' : (s.eng l).standing s.now = false := by simpa using hstand
  have hbad : (s.eng l).stepBad = (none, none) := by
    unfold Engine.stepBad
    rw [hplan]
    have hnone : (s.eng l).passed.find? (fun p => p.1.bad.isSome || p.2.1.bad.isSome) = none := by
      rw [List.find?_eq_none]
      intro p hp
      rw [(hgood p hp).1, (hgood p hp).2]
      decide
    rw [hnone]
    rfl
  have hruns' : ¬ (!(s.eng l).runs) = true := by simp [hruns]
  have hdrain : ¬ ((s.eng l).st = .draining ∧ (s.eng l).pendingDrains.isEmpty = true) := by simp [hst]
  have hfault : ¬ ((s.eng l).stepNow s.now && (s.eng l).stepBad != (none, none)) = true := by simp [hbad]
  have hstart : ¬ ((s.eng l).stepNow s.now && !(s.eng l).started) = true := by simp [hstarted]
  have hnow : ¬ (!(s.eng l).stepNow (s.setEng l (s.eng l)).now) = true := by
    show ¬ (!(s.eng l).stepNow s.now) = true
    simp [hstep]
  have hcontains' : ¬ (s.setEng l (s.eng l)).bad.contains (badTile l) = true := by
    show ¬ s.bad.contains (badTile l) = true
    simp [htile]
  show ∃ u : State, execKStep l s = .next (u.driveEng l 1) ∧ _
  unfold execKStep
  dsimp only
  rw [if_neg hruns', if_neg (by rw [hstand']; decide), if_neg hdrain, if_neg hfault, if_neg hstart, State.takeCopies_none hcopies, State.eng_setEng,
    if_neg hnow, if_neg hcontains', hplan]
  dsimp only
  refine ⟨_, rfl, ?_⟩
  have heng : ((s.setEng l (s.eng l)).setEng l ((s.eng l).denseStep (s.setEng l (s.eng l)).now)).eng l = (s.eng l).denseStep s.now :=
    State.eng_setEng _ _ _
  have hothers (k : Nat) (hk : k ≠ l) : ((s.setEng l (s.eng l)).setEng l ((s.eng l).denseStep (s.setEng l (s.eng l)).now)).eng k = s.eng k :=
    (Table.get_set_other _ _ hk _).trans (Table.get_set_other _ _ hk _)
  have hkept : ((s.setEng l (s.eng l)).setEng l ((s.eng l).denseStep (s.setEng l (s.eng l)).now)).unmoved = s.unmoved := rfl
  generalize (s.setEng l (s.eng l)).setEng l ((s.eng l).denseStep (s.setEng l (s.eng l)).now) = u at *
  split
  · have hsent := u.schedOnce_frame 0 (.splitDrain l)
    refine ⟨?_, fun k hk => ?_, (u.schedOnce_unmoved 0 _).trans hkept⟩
    · rw [hsent]
      exact heng
    · rw [hsent]
      exact hothers k hk
  · exact ⟨heng, hothers, hkept⟩
theorem exec_kStep_done (hmove : (s.eng l).moving s.now = true) (hst : (s.eng l).st = .draining) (hdrains : (s.eng l).pendingDrains = []) :
    exec (.kStep l) s = .next (s.modEng l (fun e => { e with st := .done })) := by
  obtain ⟨hruns, hstand⟩ := Bool.and_eq_true_iff.1 hmove
  have hstand' : (s.eng l).standing s.now = false := by simpa using hstand
  show execKStep l s = _
  unfold execKStep
  dsimp only
  rw [if_neg (by simp [hruns]), if_neg (by rw [hstand']; decide), if_pos ⟨hst, by rw [hdrains]; rfl⟩]

/-! ### Split drains -/

/-- The engine once a split drain has taken the tile. -/
def Engine.splits (e : Engine) (now : Nat) : Engine :=
  { e.setTile (List.replicate 1024 0) with drains := e.drains ++ [e.drainOf 0 false false (now + 5)], since := 0, hist := [] }
theorem exec_splitDrain (hkspl : (s.eng l).kspl ≠ 0) (hsince : (s.eng l).since = (s.eng l).kspl) (hstarted : (s.eng l).started = true)
    (hst : (s.eng l).st = .running) : exec (.splitDrain l) s = .next ((s.setEng l ((s.eng l).splits s.now)).driveEng l 1) :=
  congrArg Host.Outcome.next (if_pos ⟨hkspl, hsince, hstarted, hst⟩)

/-! ### Drains that begin -/

/-- A drain that begins, with its number and its program. -/
def Engine.begins (e : Engine) (d : Drain) (n now : Nat) : Drain :=
  { d with num := n, begun := true, image := if e.eslot = 0 then none else e.imageAt now (e.eslot - 1) }
theorem exec_drainBegin {d : Drain} (hmove : (s.eng l).moving s.now = true) (htile : (s.eng l).heldTile = none) (hpass : (s.eng l).passing = none)
    (hst : (s.eng l).st ≠ .ready) (hnext : (s.eng l).nextDrain = some d) (hdue : d.due ≤ s.now) (hrow : (s.eng l).rowAt ≤ s.now)
    (hacks : (s.eng l).acks = []) {n : Nat} (hn : (if d.num = 0 then (s.eng l).num + 1 else d.num) = n) :
    exec (.drainBegin l) s = .next (
      if s.drainWhy l d = 0 then
        (s.setEng l { s.eng l with
          num := Nat.max (s.eng l).num n, acks := [], rowAt := s.now
          drains := (s.eng l).drains.map (fun x => if x = d then (s.eng l).begins d n s.now else x) }).sched 0 (.epilogueRow l)
      else
        let t := (s.setEng l { ({ s.eng l with num := Nat.max (s.eng l).num n, acks := [] } : Engine).quiet with
          drains := (s.eng l).drains.filter (fun x => x != d), heldTile := some { d with num := n }, back := (s.eng l).st, st := .faulted }).post l
            (s.eng l).aFar .drainTarget (s.drainWhy l d)
        if s.drainWhy l d = 7 then t.logFault (s.eng l).recvCore 0 ⟨.drainTarget, 7, BitVec.ofInt 64 ((s.eng l).raddr d.prod 0), 0⟩ else t) := by
  have hgo : ¬ ((!(s.eng l).moving s.now) = true ∨ (s.eng l).heldTile.isSome = true ∨ (s.eng l).passing.isSome = true ∨ (s.eng l).st = .ready) := by
    rw [hmove, htile, hpass]
    simp [hst]
  have hdue' : ¬ s.now < Nat.max d.due (s.eng l).rowAt := Nat.not_lt.2 (Nat.max_le.2 ⟨hdue, hrow⟩)
  show execDrainBegin l s = _
  unfold execDrainBegin
  dsimp only
  rw [if_neg hgo, hnext]
  dsimp only
  rw [if_neg hdue', hacks, if_neg (by simp), hn]
  rfl

/-! ### Rows -/

theorem exec_epilogueRow_stands {d : Drain} (hpass : (s.eng l).passing = some d) (hruns : (s.eng l).runs = true)
    (hmove : (s.eng l).moving s.now = false) : exec (.epilogueRow l) s = .next (s.schedOnce 1 (.epilogueRow l)) := by
  have hstand : ((s.eng l).runs && (s.eng l).standing s.now) = true := by
    unfold Engine.moving at hmove
    rw [hruns] at hmove ⊢
    simpa using hmove
  show execEpilogueRow l s = _
  unfold execEpilogueRow
  dsimp only
  rw [hpass]
  exact congrArg Host.Outcome.next (if_pos hstand)
theorem exec_epilogueRow_plain {d : Drain} (hgo : ((s.eng l).runs && (s.eng l).standing s.now) = false) (hrow : (s.eng l).rowAt ≤ s.now)
    (hpass : (s.eng l).passing = some d) (himage : d.image = none) :
    exec (.epilogueRow l) s = .next ((s.handRow l 0 (tileRow d.tile d.row)).1.finishRow l (s.handRow l 0 (tileRow d.tile d.row)).2) := by
  show execEpilogueRow l s = _
  unfold execEpilogueRow
  dsimp only
  rw [hpass]
  dsimp only
  rw [hgo, if_neg (by decide), if_neg (Nat.not_lt.2 hrow), himage]
theorem exec_epilogueRow_program {d : Drain} {im : List Byte} (hgo : ((s.eng l).runs && (s.eng l).standing s.now) = false)
    (hrow : (s.eng l).rowAt ≤ s.now) (hpass : (s.eng l).passing = some d) (himage : d.image = some im) :
    exec (.epilogueRow l) s = .next { s with epi := some ⟨l, 0, List.replicate 6 (List.replicate 32 0), 0⟩ } := by
  show execEpilogueRow l s = _
  unfold execEpilogueRow
  dsimp only
  rw [hpass]
  dsimp only
  rw [hgo, if_neg (by decide), if_neg (Nat.not_lt.2 hrow), himage]

/-- The write of a row that has no program comes 7 cycles later or more. -/
theorem State.handRow_plain {d : Drain} (hpass : (s.eng l).passing = some d) (himage : d.image = none) (lanes : List Lane)
    (hnear : (s.eng l).recvCore = linkNear l ∨ (s.eng l).recvCore = linkFar l) :
    ∃ due, (due, Instr.drainRowWrite ((s.eng l).rowWrite l d lanes)) ∈ (s.handRow l 0 lanes).1.agenda ∧ s.now + 7 ≤ due := by
  rw [State.handRow_eq hpass]
  dsimp only
  rw [himage, if_neg (by simp)]
  have hpath := le_pathAfter (path := (s.eng l).path) (n := (s.eng l).colsN * otypeBytes (s.eng l).otype)
    (near := (s.eng l).recvCore = linkNear l ∨ (s.eng l).recvCore = linkFar l) (Nat.le_add_right s.now 0)
  generalize pathAfter (s.eng l).path (s.now + 0) ((s.eng l).colsN * otypeBytes (s.eng l).otype)
    ((s.eng l).recvCore = linkNear l ∨ (s.eng l).recvCore = linkFar l) = path at *
  have hnear' : ((s.eng l).rowWrite l d lanes).core = linkNear ((s.eng l).rowWrite l d lanes).link
      ∨ ((s.eng l).rowWrite l d lanes).core = linkFar ((s.eng l).rowWrite l d lanes).link := hnear
  rw [State.sendsRow, if_pos hnear']
  refine ⟨s.now + ((path - 1) / 64 + 8 - s.now), State.mem_sched .., ?_⟩
  omega
theorem State.finishRow_adds (s : State) (l gap : Nat) : s.Adds (s.finishRow l gap) := by
  unfold State.finishRow
  dsimp only
  generalize hf : (fun e : Engine => ({ e.modPassing (fun d => { d with row := d.row + 1 }) with rowAt := s.now + gap } : Engine)) = f
  have hadds : s.Adds (s.modEng l f) := .of_eq rfl
  generalize s.modEng l f = u at *
  split
  · exact hadds.trans (u.sched_adds _ _)
  · exact hadds.trans (u.driveEng_adds _ _)

/-! ### Rows that land -/

theorem State.rowLanded_unmoved (s : State) (r : RowWrite) : (s.rowLanded r).unmoved = s.unmoved := by
  unfold State.rowLanded
  dsimp only
  split
  · rfl
  · split
    · rfl
    · exact State.driveEng_unmoved _ _ 1
theorem exec_drainRowWrite_pass {r : RowWrite}
    (hgate : s.gate r.core (some (((s.eng r.link).end_ (s.eng r.link).aFar).party / 16)) = .pass) (hrefused : (s.core r.core).refused = [])
    (hacc : r.acc = none) (hdw : r.dw = none) (hgood : s.badPart (spad r.core r.off) r.bytes.length = false) :
    exec (.drainRowWrite r) s = .next ((s.store (spad r.core r.off) r.bytes).rowLanded r) := by
  have hbefore (src tok : Nat) : refusedBefore (s.core r.core).refused src tok = false := by rw [hrefused]; rfl
  have hletIn (src tok : Nat) : s.letIn r.core src tok = s := if_pos (by rw [hrefused]; rfl)
  have hland : s.land r.core r.off r.bytes r.acc = some (s.store (spad r.core r.off) r.bytes) := by
    unfold State.land
    rw [hacc]
    exact if_neg (by rw [hgood]; decide)
  show execDrainRowWrite r s = _
  unfold execDrainRowWrite
  dsimp only
  rw [hgate, if_neg (by rw [hbefore]; simp), hletIn]
  dsimp only
  rw [hland]
  dsimp only
  rw [hdw]
theorem State.logFault_engines (s : State) (c n : Nat) (e : LogEnt) : (s.logFault c n e).engines = s.engines := by
  unfold State.logFault
  split
  · next h =>
    unfold State.haltTeam
    rw [if_pos h]
    rfl
  · dsimp only
    split
    · split <;> rfl
    · rfl

end

/-- Settles O53: K-steps, drains and the rows they write. -/
theorem stepsAndDrains : Obligations.StepsAndDrains := by
  intro s l e live
  refine ⟨fun hmove hst hstarted hstep hcopies htile hplan hgood hlive hmore hlen => ?_, fun hmove hst hdrains => ?_,
    fun hkspl hsince hstarted hst hheld => ?_, ?_, fun hmove hruns d hpass => ⟨_, exec_epilogueRow_stands hpass hruns hmove, s.schedOnce_frame _ _⟩,
    fun d hgo hrow hpass himage hnear => ?_, fun d im hgo hrow hpass himage => exec_epilogueRow_program hgo hrow hpass himage, ?_⟩
  · obtain ⟨u, hexec, heng, hothers, hframe⟩ := exec_kStep_dense hmove hst hstarted hstep hcopies htile hplan hgood
    obtain ⟨hprod, hkdone, hkpos, hheld, hT⟩ := e.denseStep_live hlive hmore s.now
    obtain ⟨w, -, hdriven⟩ := u.driveEng_driven l 1
    have hstill := hdriven.still
    rw [heng] at hstill
    have htile' : ((u.driveEng l 1).eng l).tile = (e.denseStep s.now).tile := (congrArg Engine.tile hstill :)
    refine ⟨_, hexec, (congrArg Engine.prod hstill :).trans hprod, (congrArg Engine.kdone hstill :).trans hkdone,
      (congrArg Engine.kpos hstill :).trans hkpos, ?_, fun m n hm hn => ?_, fun k hk => (hdriven.others k hk).trans (hothers k hk),
      State.eq_of_unmoved ((u.driveEng_unmoved l 1).trans hframe)⟩
    · rw [htile', hT, length_stepTile]
      exact hlen
    · rw [htile', hT]
      exact getD_stepTile e _ hlen hm hn
  · exact ⟨_, exec_kStep_done hmove hst hdrains, State.eng_modEng _ _ _, rfl⟩
  · have hexec := exec_splitDrain hkspl hsince hstarted hst
    obtain ⟨w, hw, hdriven⟩ := State.driveEng_driven (s.setEng l (e.splits s.now)) l 1
    have hframe := State.driveEng_unmoved (s.setEng l (e.splits s.now)) l 1
    obtain ⟨htile, hset⟩ := e.setTile_left (List.replicate 1024 0)
    have hheld' : (e.splits s.now).held = none := (congrArg Engine.held hset :).trans hheld
    have htile' : (e.splits s.now).tile = List.replicate 1024 0 := htile
    have hkdone : (e.splits s.now).kdone = e.kdone := (congrArg Engine.kdone hset :)
    have hrest : (e.splits s.now).since = 0 ∧ (e.splits s.now).drains = e.drains ++ [e.drainOf 0 false false (s.now + 5)] := ⟨rfl, rfl⟩
    generalize e.splits s.now = r at *
    rw [hw (by rw [State.eng_setEng]; exact hheld')] at hdriven
    have hstill := hdriven.still
    rw [State.eng_setEng, Engine.late_zero] at hstill
    exact ⟨_, hexec, (congrArg Engine.tile hstill :).trans htile', (congrArg Engine.since hstill :).trans hrest.1,
      (congrArg Engine.kdone hstill :).trans hkdone, (congrArg Engine.drains hstill :).trans hrest.2, State.eq_of_unmoved hframe⟩
  · intro d hmove htile hpass hst hnext hdue hrow hacks n
    have hst' : e.st ≠ .ready := by obtain h | h := hst <;> rw [h] <;> decide
    have hexec := exec_drainBegin hmove htile hpass hst' hnext hdue hrow hacks (n := n) rfl
    refine ⟨fun hwhy => ?_, fun hwhy hfault => ?_⟩
    · rw [if_pos hwhy] at hexec
      have hmem : e.begins d n s.now ∈ e.drains.map (fun x => if x = d then e.begins d n s.now else x) :=
        List.mem_map.2 ⟨d, List.mem_of_find?_eq_some hnext, if_pos rfl⟩
      generalize hr : ({ s.eng l with
          num := Nat.max (s.eng l).num n, acks := [], rowAt := s.now
          drains := (s.eng l).drains.map (fun x => if x = d then (s.eng l).begins d n s.now else x) } : Engine) = r at hexec
      have heng : ((s.setEng l r).sched 0 (.epilogueRow l)).eng l = r := s.eng_setEng l r
      refine ⟨_, e.begins d n s.now, hexec, ?_, rfl, rfl, rfl, ?_, State.mem_sched _ 0 _, rfl⟩
      · rw [heng, ← hr]
        exact hmem
      · rw [heng, ← hr]
    · rw [if_neg hwhy] at hexec
      dsimp only at hexec
      generalize hr : ({ ({ s.eng l with num := Nat.max (s.eng l).num n, acks := [] } : Engine).quiet with
          drains := (s.eng l).drains.filter (fun x => x != d), heldTile := some { d with num := n }, back := (s.eng l).st, st := .faulted } : Engine)
        = r at hexec
      have hr' : r.st = .faulted ∧ r.heldTile = some { d with num := n } ∧ (r.end_ e.aFar).fault = none
          ∧ (r.end_ e.aFar).party = (e.end_ e.aFar).party := by
        rw [← hr]
        cases haFar : e.aFar
        · rw [haFar] at hfault
          exact ⟨rfl, rfl, hfault, rfl⟩
        · rw [haFar] at hfault
          exact ⟨rfl, rfl, hfault, rfl⟩
      obtain ⟨hrst, hrtile, hrfault, hrparty⟩ := hr'
      obtain ⟨p, heng, hcode, hpwhy, hctx⟩ := (s.setEng l r).post_eng l (s.eng l).aFar .drainTarget (s.drainWhy l d)
      rw [State.eng_setEng] at heng hctx
      generalize (s.setEng l r).post l (s.eng l).aFar .drainTarget (s.drainWhy l d) = t at *
      have hlogged : (if s.drainWhy l d = 7 then t.logFault (s.eng l).recvCore 0 ⟨.drainTarget, 7, BitVec.ofInt 64 ((s.eng l).raddr d.prod 0), 0⟩
          else t).eng l = r.modEnd e.aFar (fun x => x.post p) := by
        split
        · unfold State.eng
          rw [State.logFault_engines]
          exact heng
        · exact heng
      refine ⟨_, p, hexec, ?_, ?_, ?_, hcode, hpwhy, hctx.trans hrparty⟩
      all_goals rw [hlogged]
      · rw [Engine.modEnd_frame]
        exact hrst
      · rw [Engine.modEnd_frame]
        exact hrtile
      · rw [Engine.end_modEnd_self]
        unfold EEnd.post
        rw [hrfault]
  · have hexec := exec_epilogueRow_plain hgo hrow hpass himage
    obtain ⟨due, hmem, hdue⟩ := State.handRow_plain hpass himage (tileRow d.tile d.row) hnear
    obtain ⟨hrest, -⟩ := State.handRow_outcome hpass 0 (tileRow d.tile d.row)
    exact ⟨_, e.rowWrite l d (tileRow d.tile d.row), due, hexec, State.finishRow_adds _ _ _ _ hmem, hdue, rfl, rfl, rfl, rfl,
      State.mem_of_rest ((State.finishRow_rest _ _ _).trans hrest), rfl⟩
  · rintro r rfl own
    refine ⟨fun hwf hgate hrefused hacc hdw hgood => ?_, fun h => congrArg Host.Outcome.next (if_pos h)⟩
    have hframe := State.rowLanded_unmoved (s.store (spad r.core r.off) r.bytes) r
    have hmem : ((s.store (spad r.core r.off) r.bytes).rowLanded r).mem = memPut s.mem (spad r.core r.off) r.bytes := (congrArg State.mem hframe :)
    refine ⟨_, exec_drainRowWrite_pass hgate hrefused hacc hdw hgood, fun b hb => ?_, fun j hj => ?_, (congrArg State.ctxs hframe :)⟩
    · rw [hmem]
      exact memRead_memPut_other _ _ hb
    · rw [hmem, memRead_memPut_self hwf _ _ _ hj, List.getD_eq_getElem _ _ hj]

end Sys2Proof.Machine
end

section
/-! PROOFS. The fabric's routers: what their operations leave, injection, arbitration, escapes and resent packets (O54). -/

namespace Sys2Proof.Machine

/-! ### What a router's operations leave -/

/-- The state without what its routers hold and what is scheduled. -/
def State.unrouted (s : State) : State := { s with routers := .empty, agenda := [] }
theorem State.eq_of_unrouted {s t : State} (h : t.unrouted = s.unrouted) : t = { s with routers := t.routers, agenda := t.agenda } :=
  congrArg (fun u : State => { u with routers := t.routers, agenda := t.agenda }) h

theorem State.mem_of_unrouted {s t : State} (h : t.unrouted = s.unrouted) : t.mem = s.mem := by
  rw [State.eq_of_unrouted h]
theorem State.ctxs_of_unrouted {s t : State} (h : t.unrouted = s.unrouted) : t.ctxs = s.ctxs := by
  rw [State.eq_of_unrouted h]
theorem State.core_of_unrouted {s t : State} (h : t.unrouted = s.unrouted) (k : Nat) : t.core k = s.core k := by
  rw [State.eq_of_unrouted h]
  rfl

/-- The router with a packet behind those of a channel. -/
def Router.entered (r : Router) (key : Nat) (p : Pkt) : Router :=
  { r with chans := r.chans.set key { r.chan key with q := (r.chan key).q ++ [p] } }
theorem Router.entered_self (r : Router) (key : Nat) (p : Pkt) : ((r.entered key p).chan key).q = (r.chan key).q ++ [p] :=
  congrArg Chan.q (Table.get_set_self ..)

section
variable (s : State)

theorem State.router_modRouter (c k : Nat) (f : Router → Router) :
    (s.modRouter c f).router k = if k = c then f (s.router k) else s.router k := by
  unfold State.modRouter State.router
  rw [Table.get_set]
  split
  · next h => rw [h]
  · rfl
theorem State.router_modRouter_self (c : Nat) (f : Router → Router) : (s.modRouter c f).router c = f (s.router c) := by
  rw [State.router_modRouter, if_pos rfl]
theorem State.router_modRouter_other {c k : Nat} (h : k ≠ c) (f : Router → Router) : (s.modRouter c f).router k = s.router k := by
  rw [State.router_modRouter, if_neg h]
theorem State.router_of_routers {s t : State} (h : t.routers = s.routers) (k : Nat) : t.router k = s.router k :=
  congrArg (fun r => Table.get Router.idle r k) h
theorem State.schedSoon_routers (d : Nat) (i : Instr) : (s.schedSoon d i).routers = s.routers := by
  unfold State.schedSoon
  split <;> rfl
theorem State.schedSoon_unrouted (d : Nat) (i : Instr) : (s.schedSoon d i).unrouted = s.unrouted := by
  unfold State.schedSoon
  split <;> rfl
theorem State.schedOnce_routers (d : Nat) (i : Instr) : (s.schedOnce d i).routers = s.routers := by
  unfold State.schedOnce
  split <;> rfl
theorem State.schedOnce_unrouted (d : Nat) (i : Instr) : (s.schedOnce d i).unrouted = s.unrouted := by
  unfold State.schedOnce
  split <;> rfl

/-- Offering a router's outputs schedules, and no more. -/
theorem State.kickRouter_frame (c : Nat) :
    (s.kickRouter c).routers = s.routers ∧ (s.kickRouter c).unrouted = s.unrouted ∧ s.Adds (s.kickRouter c) := by
  unfold State.kickRouter
  dsimp only
  refine List.foldlRecOn (motive := fun t : State => t.routers = s.routers ∧ t.unrouted = s.unrouted ∧ s.Adds t) _ _
    ⟨rfl, rfl, .refl s⟩ (fun t ⟨hrouters, hleft, hadds⟩ h _ => ?_)
  exact ⟨(t.schedSoon_routers _ _).trans hrouters, (t.schedSoon_unrouted _ _).trans hleft, hadds.trans (t.schedSoon_adds _ _)⟩

/-- A packet that enters a channel stands behind those of it; every other router stays. -/
theorem State.enterChan_spec (c key delay : Nat) (p : Pkt) :
    (s.enterChan c key delay p).routers = s.routers.set c ((s.router c).entered key { p with wait := 0, at_ := s.now + delay })
    ∧ (s.enterChan c key delay p).unrouted = s.unrouted ∧ s.Adds (s.enterChan c key delay p) := by
  unfold State.enterChan
  dsimp only
  split
  · exact ⟨State.schedSoon_routers _ _ _, State.schedSoon_unrouted _ _ _, (State.Adds.of_eq (by rfl)).trans (State.schedSoon_adds _ _ _)⟩
  · exact ⟨rfl, rfl, .of_eq rfl⟩
theorem State.router_enterChan (c key delay k : Nat) (p : Pkt) : (s.enterChan c key delay p).router k =
    if k = c then (s.router c).entered key { p with wait := 0, at_ := s.now + delay } else s.router k := by
  unfold State.router
  rw [(s.enterChan_spec c key delay p).1, Table.get_set]
  rfl

/-- A packet enters the local port where it takes it, else waits for a buffer. -/
theorem State.enterRouter_left (c : Nat) (p : Pkt) : (s.enterRouter c p).unrouted = s.unrouted ∧ s.Adds (s.enterRouter c p) := by
  unfold State.enterRouter
  split
  · exact (s.enterChan_spec ..).2
  · exact ⟨rfl, .of_eq rfl⟩
theorem State.enterRouter_takes {c : Nat} {p : Pkt} (h : (s.router c).takesLocal p = true) : (s.enterRouter c p).router c =
    (s.router c).entered ((s.router c).localKey p.cls) { p with wait := 0, at_ := s.now + localDelay p } := by
  unfold State.enterRouter
  rw [if_pos h, State.router_enterChan, if_pos rfl]
theorem State.enterRouter_waits {c : Nat} {p : Pkt} (h : ¬ (s.router c).takesLocal p = true) :
    ((s.enterRouter c p).router c).wait = (s.router c).wait ++ [p] := by
  unfold State.enterRouter
  rw [if_neg h, State.router_modRouter_self]
/-- A local port at which nothing waits takes nothing. -/
theorem State.admitLocal_of_none {c : Nat} (h : (s.router c).wait = []) : s.admitLocal c = s := by
  unfold State.admitLocal
  dsimp only
  rw [h]
  rfl

end

/-! ### Heads that are not granted -/

/-- `r'` is `r` but for channels other than `key`. -/
structure Router.KeepsChan (key : Nat) (r r' : Router) : Prop where
  chan : r'.chan key = r.chan key
  busy : r'.busy = r.busy
  last : r'.last = r.last
  wait : r'.wait = r.wait

section
variable (s : State) (c : Nat)

theorem State.ageHeads_left (qs : List Req) : (s.ageHeads c qs).unrouted = s.unrouted ∧ s.Adds (s.ageHeads c qs) := by
  unfold State.ageHeads
  refine List.foldlRecOn (motive := fun t : State => t.unrouted = s.unrouted ∧ s.Adds t) _ _ ⟨rfl, .refl s⟩
    (fun t ⟨hleft, hadds⟩ q _ => ?_)
  dsimp only
  split
  · exact ⟨(State.schedOnce_unrouted _ _ _).trans hleft, hadds.trans ((State.Adds.of_eq (by rfl)).trans (State.schedOnce_adds _ _ _))⟩
  · exact ⟨hleft, hadds⟩
theorem State.ageHeads_other (qs : List Req) {k : Nat} (h : k ≠ c) : (s.ageHeads c qs).router k = s.router k := by
  unfold State.ageHeads
  refine List.foldlRecOn (motive := fun t : State => t.router k = s.router k) _ _ rfl (fun t hrouter q _ => ?_)
  dsimp only
  split
  · exact ((State.router_of_routers (State.schedOnce_routers _ _ _) k).trans (t.router_modRouter_other h _)).trans hrouter
  · exact (t.router_modRouter_other h _).trans hrouter
theorem State.ageHeads_self {qs : List Req} {key : Nat} (hkeys : ∀ q ∈ qs, q.key ≠ key) :
    (s.router c).KeepsChan key ((s.ageHeads c qs).router c) := by
  unfold State.ageHeads
  refine List.foldlRecOn (motive := fun t : State => (s.router c).KeepsChan key (t.router c)) _ _ ⟨rfl, rfl, rfl, rfl⟩
    (fun t h q hq => ?_)
  have haged : ∀ x : Chan, (s.router c).KeepsChan key ({ t.router c with chans := (t.router c).chans.set q.key x } : Router) := fun x =>
    ⟨(Table.get_set_other _ _ (hkeys q hq).symm _).trans h.chan, h.busy, h.last, h.wait⟩
  dsimp only
  split
  · rw [State.router_of_routers (State.schedOnce_routers _ _ _) c, State.router_modRouter_self]
    exact haged _
  · rw [State.router_modRouter_self]
    exact haged _

end

/-! ### Pumping a core takes no event from the agenda -/

section
variable (s : State)

theorem State.foldl_adds {α : Type} (f : State → α → State) (hf : ∀ (s : State) a, s.Adds (f s a)) (l : List α) : s.Adds (l.foldl f s) :=
  List.foldlRecOn (motive := fun t : State => s.Adds t) _ _ (.refl s) (fun t h a _ => h.trans (hf t a))
theorem State.endOutside_adds (r : HomeReq) (d : Nat) (bad : Option FCode) : s.Adds (s.endOutside r d bad) := by
  unfold State.endOutside
  dsimp only
  have hcounted : s.Adds { s with fresh := s.fresh + 1 } := .of_eq rfl
  split
  · exact hcounted.trans (State.sched_adds _ _ _)
  · exact hcounted.trans (State.sched_adds _ _ _)
  · exact (hcounted.trans (State.sched_adds _ _ _)).trans (State.sched_adds _ _ _)
  · cases bad with
    | none => exact hcounted.trans (State.sched_adds _ _ _)
    | some f => exact (hcounted.trans (State.foldl_adds _ _ (fun t _ => t.sched_adds _ _) _)).trans (State.sched_adds _ _ _)
theorem State.sendHome_adds (r : HomeReq) (d : Nat) : s.Adds (s.sendHome r d) := by
  unfold State.sendHome
  split
  · exact s.sched_adds _ _
  · split <;> exact s.endOutside_adds _ _ _
  · split
    · exact s.sched_adds _ _
    · exact (State.Adds.of_eq (by rfl)).trans (State.sched_adds _ _ _)
  · exact .refl s
theorem State.spend_adds (n : Nat) : s.Adds (s.spend n) := by
  unfold State.spend
  split
  · exact .refl s
  · exact .of_eq rfl
theorem State.sendWc_adds (c : Nat) (w : WC) : s.Adds (s.sendWc c w) := by
  unfold State.sendWc
  exact (State.Adds.of_eq (by rfl)).trans (State.sendHome_adds _ _ _)
theorem State.drainReady_adds (c n : Nat) : s.Adds (s.drainReady c n) := by
  induction n generalizing s with
  | zero => exact .refl s
  | succ n ih =>
    unfold State.drainReady
    dsimp only
    split
    · exact ((s.spend_adds _).trans (State.sendWc_adds _ _ _)).trans (ih _)
    · exact .refl s
theorem State.pump_adds (c : Nat) : s.Adds (s.pump c) := by
  unfold State.pump
  dsimp only
  split
  · exact (s.drainReady_adds c 8).trans (State.schedSoon_adds _ _ _)
  · exact s.drainReady_adds c 8
theorem State.pump_inj (c k : Nat) : ((s.pump c).core k).inj = (s.core k).inj := by
  rw [(s.pump_drained c k).frame]

end

/-! ### Injection -/

/-- The core's injection queue without entry `k`, and its router's port taken until the next fabric cycle. -/
def State.injected (s : State) (c k : Nat) : State :=
  (s.modCore c (fun x => { x with inj := x.inj.take k ++ x.inj.drop (k + 1) })).modRouter c (fun r => { r with
    busy := r.busy.set injKey (s.now + s.toFabric) })
/-- An entry leaves for its home, for the router, or as the end of its fence. -/
def State.leaves (s : State) (c : Nat) (e : Inj) : State :=
  match e.body with
  | .home r => s.sendHome r (Config.homeWay - injDelay)
  | .pkt p => s.enterRouter c p
  | .marker ctx tok => s.sched 0 (.replyWrite c ctx tok .done)

section
variable {s : State} {c k : Nat} {e : Inj}

theorem exec_injectionSend_none (hpick : (s.core c).pickInj s.backPressure [] 0 (s.core c).inj = none) :
    exec (.injectionSend c) s = .next s := by
  show execInjectionSend c s = _
  unfold execInjectionSend
  dsimp only
  rw [hpick]
  rfl

section
variable (hpick : (s.core c).pickInj s.backPressure [] 0 (s.core c).inj = some k) (he : (s.core c).inj[k]? = some e)
include hpick he

/-- The picked entry waits where it is not ready, the port is taken, or the buffer it needs is. -/
theorem exec_injectionSend_waits (h : s.now < e.ready ∨ s.now < Table.get 0 (s.router c).busy injKey ∨ s.injRoom c e = false) :
    ∃ d, exec (.injectionSend c) s = .next (s.schedSoon d (.injectionSend c)) := by
  show ∃ d, execInjectionSend c s = _
  unfold execInjectionSend
  dsimp only
  rw [hpick, Option.bind_some, he]
  dsimp only [Option.map_some]
  split
  · exact ⟨_, rfl⟩
  · next hready =>
    split
    · exact ⟨_, rfl⟩
    · next hfree =>
      have hroom := (h.resolve_left hready).resolve_left hfree
      rw [hroom]
      exact ⟨_, rfl⟩
theorem exec_injectionSend_leaves (hready : e.ready ≤ s.now) (hfree : Table.get 0 (s.router c).busy injKey ≤ s.now)
    (hroom : s.injRoom c e = true) : exec (.injectionSend c) s = .next (((s.injected c k).leaves c e).pump c) := by
  show execInjectionSend c s = _
  unfold execInjectionSend
  dsimp only
  rw [hpick, Option.bind_some, he]
  dsimp only [Option.map_some]
  rw [if_neg (Nat.not_lt.2 hready), if_neg (Nat.not_lt.2 hfree), hroom]
  exact congrArg (fun t : State => Host.Outcome.next (t.pump c)) (by unfold State.leaves; rfl)

end

theorem State.leaves_core (s : State) (c : Nat) (e : Inj) (j : Nat) : (s.leaves c e).core j = s.core j := by
  unfold State.leaves
  split
  · exact s.sendHome_core _ _ j
  · exact State.core_of_unrouted (s.enterRouter_left c _).1 j
  · rfl
theorem State.leaves_mem (s : State) (c : Nat) (e : Inj) : (s.leaves c e).mem = s.mem := by
  unfold State.leaves
  split
  · exact State.mem_of_unsent (s.sendHome_unsent _ _)
  · exact State.mem_of_unrouted (s.enterRouter_left c _).1
  · rfl
theorem State.leaves_ctxs (s : State) (c : Nat) (e : Inj) : (s.leaves c e).ctxs = s.ctxs := by
  unfold State.leaves
  split
  · exact State.ctxs_of_unsent (s.sendHome_unsent _ _)
  · exact State.ctxs_of_unrouted (s.enterRouter_left c _).1
  · rfl

/-- A request is on its way to its home. -/
theorem State.mem_leaves_home {r : HomeReq} (s : State) (c : Nat) (hbody : e.body = .home r) (hkind : paKind r.pa = .hbm) :
    (s.now + 108, Instr.homeRequestArrival r) ∈ (s.leaves c e).agenda := by
  unfold State.leaves
  rw [hbody]
  dsimp only
  unfold State.sendHome
  rw [hkind]
  exact s.mem_sched _ _
/-- A packet stands last in the channel of the local port. -/
theorem State.router_leaves_pkt {p : Pkt} (s : State) (hbody : e.body = .pkt p) (htakes : (s.router c).takesLocal p = true) :
    (((s.leaves c e).router c).chan ((s.router c).localKey p.cls)).q =
      ((s.router c).chan ((s.router c).localKey p.cls)).q ++ [{ p with wait := 0, at_ := s.now + localDelay p }] := by
  unfold State.leaves
  rw [hbody]
  dsimp only
  rw [s.enterRouter_takes htakes, Router.entered_self]
theorem State.mem_leaves_marker {n tok : Nat} (s : State) (c : Nat) (hbody : e.body = .marker n tok) :
    (s.now, Instr.replyWrite c n tok .done) ∈ (s.leaves c e).agenda := by
  unfold State.leaves
  rw [hbody]
  exact s.mem_sched 0 _

end

/-! ### Arbitration -/

section
variable (s : State) (c port : Nat) (q : Req)

/-- The router whose output is granted to a head. -/
def Router.granted (r : Router) (s : State) (port : Nat) (q : Req) : Router :=
  { r with
    chans := r.chans.set q.key ⟨(r.chan q.key).q.tail, 0⟩
    last := r.last.set port (q.key / 16)
    busy := r.busy.set port (s.afterFabric q.pkt.flits) }
/-- The granted packet goes to its core by port 5, to the next router's channel by another. -/
def State.forwards (s : State) (c port : Nat) (q : Req) (nx : Nat × Nat) : State :=
  if port = 5 then s.eject c q.pkt else s.enterChan nx.1 nx.2 (if port = 4 then 9 else 3) q.pkt
theorem State.grant_eq : s.grant c port q =
    (let t := (s.modRouter c (fun r => r.granted s port q)).forwards c port q (s.nextChan c port q)
     if q.key / 16 = 5 then t.admitLocal c else t) := by
  unfold State.grant State.forwards
  rfl

/-- The next channel is chosen by what the next router holds. -/
theorem State.nextChan_congr {s t : State} {c port : Nat} {q : Req} (h : t.router (s.nextChan c port q).1 = s.router (s.nextChan c port q).1) :
    t.nextChan c port q = s.nextChan c port q := by
  have hpeer : (s.nextChan c port q).1 = (pktPeer c port q.pkt.dst).1 := by
    unfold State.nextChan
    dsimp only
    split <;> rfl
  rw [hpeer] at h
  unfold State.nextChan
  dsimp only
  rw [h]

/-! #### Where the granted packet goes -/

theorem State.forwards_left (nx : Nat × Nat) : (s.forwards c port q nx).unrouted = s.unrouted := by
  unfold State.forwards State.eject
  split
  · split <;> rfl
  · exact (s.enterChan_spec ..).2.1
/-- The granting router keeps its channels and what waits for them. -/
theorem State.forwards_own {nx : Nat × Nat} (hnx : port ≠ 5 → nx.1 ≠ c) :
    ((s.forwards c port q nx).router c).chans = (s.router c).chans
    ∧ Table.get 0 ((s.forwards c port q nx).router c).busy port = Table.get 0 (s.router c).busy port
    ∧ ((s.forwards c port q nx).router c).last = (s.router c).last ∧ ((s.forwards c port q nx).router c).wait = (s.router c).wait := by
  unfold State.forwards State.eject
  split
  · next hport =>
    subst hport
    split
    · have hrouter : ∀ (t : State) d i, (t.sched d i).router c = t.router c := fun _ _ _ => rfl
      rw [hrouter, State.router_modRouter_self]
      exact ⟨rfl, Table.get_set_other _ _ (by decide) _, rfl, rfl⟩
    · exact ⟨rfl, rfl, rfl, rfl⟩
  · next hport =>
    rw [State.router_enterChan, if_neg (hnx hport).symm]
    exact ⟨rfl, rfl, rfl, rfl⟩
theorem State.mem_forwards_arrival {port : Nat} (hport : port = 5) (nx : Nat × Nat) :
    (max (s.now + ejectDelay q.pkt) (if q.pkt.cls = .sync then Table.get 0 (s.router c).busy syncKey else 0), arrivalOf q.pkt)
      ∈ (s.forwards c port q nx).agenda := by
  unfold State.forwards State.eject
  rw [if_pos hport]
  split
  · have h := State.mem_sched (s.modRouter c (fun r => { r with
      busy := r.busy.set syncKey (max (s.now + ejectDelay q.pkt) (Table.get 0 (s.router c).busy syncKey)) }))
      (max (s.now + ejectDelay q.pkt) (Table.get 0 (s.router c).busy syncKey) - s.now) (arrivalOf q.pkt)
    rwa [State.modRouter_now, Nat.add_sub_cancel' ((Nat.le_add_right ..).trans (Nat.le_max_left ..))] at h
  · rw [Nat.max_eq_left (Nat.zero_le _)]
    exact s.mem_sched _ _
theorem State.router_forwards_next {port : Nat} (hport : port ≠ 5) (nx : Nat × Nat) : (((s.forwards c port q nx).router nx.1).chan nx.2).q =
    ((s.router nx.1).chan nx.2).q ++ [{ q.pkt with wait := 0, at_ := s.now + (if port = 4 then 9 else 3) }] := by
  unfold State.forwards
  rw [if_neg hport, State.router_enterChan, if_pos rfl, Router.entered_self]

/-- An output that is free is granted to the best of the requests that can be taken; the others age. -/
theorem exec_outputArbitration_grants {s : State} {c port : Nat} {q : Req} (hfree : Table.get 0 (s.router c).busy port ≤ s.now)
    (hbest : bestReq (Table.get 5 (s.router c).last port) ((s.requests c port).filter (s.canTake c port)) = some q) :
    exec (.outputArbitration c port) s =
      .next (((s.ageHeads c ((s.requests c port).filter (fun k => k.key != q.key))).grant c port q).kickRouter c) := by
  have hsome : ¬ (s.requests c port).isEmpty = true := fun h => by
    rw [List.isEmpty_iff.1 h] at hbest
    exact absurd hbest (by simp [bestReq])
  show execOutputArbitration c port s = _
  unfold execOutputArbitration
  dsimp only
  rw [if_neg hsome, if_neg (Nat.not_lt.2 hfree), hbest]

/-- What granting an output leaves. -/
theorem outputArbitration_outcome {s : State} {c port : Nat} {q : Req} (hnext : port ≠ 5 → (s.nextChan c port q).1 ≠ c)
    (hwait : q.key / 16 = 5 → (s.router c).wait = []) (qs : List Req) (hqs : ∀ k ∈ qs, k.key ≠ q.key) :
    let t := ((s.ageHeads c qs).grant c port q).kickRouter c
    ((t.router c).chan q.key).q = ((s.router c).chan q.key).q.tail
      ∧ Table.get 0 (t.router c).busy port = s.afterFabric q.pkt.flits ∧ Table.get 5 (t.router c).last port = q.key / 16
      ∧ (port = 5 → (max (s.now + ejectDelay q.pkt) (if q.pkt.cls = .sync then Table.get 0 (s.router c).busy syncKey else 0),
          arrivalOf q.pkt) ∈ t.agenda)
      ∧ (port ≠ 5 → (let n := s.nextChan c port q
          ((t.router n.1).chan n.2).q = ((s.router n.1).chan n.2).q
            ++ [{ q.pkt with wait := 0, at_ := s.now + (if port = 4 then 9 else 3) }]))
      ∧ t = { s with routers := t.routers, agenda := t.agenda } := by
  -- the other heads age: the granted channel, and every other router, are as they were
  have hleft := (s.ageHeads_left c qs).1
  have hown := s.ageHeads_self c hqs
  have hothers : ∀ k, k ≠ c → (s.ageHeads c qs).router k = s.router k := fun k hk => s.ageHeads_other c qs hk
  generalize s.ageHeads c qs = u at *
  have hnow : u.now = s.now := by rw [State.eq_of_unrouted hleft]
  have hnx : port ≠ 5 → u.nextChan c port q = s.nextChan c port q := fun h => State.nextChan_congr (hothers _ (hnext h))
  have hafter : u.afterFabric q.pkt.flits = s.afterFabric q.pkt.flits := by
    unfold State.afterFabric
    rw [hnow]
  -- the channel is without its head, and the output is taken
  have hgranted : (u.modRouter c (fun r => r.granted u port q)).router c = (u.router c).granted u port q := u.router_modRouter_self c _
  have hforwards := State.forwards_own (u.modRouter c (fun r => r.granted u port q)) c port q (nx := u.nextChan c port q)
    (fun h => by rw [hnx h]; exact hnext h)
  have hfwdleft := State.forwards_left (u.modRouter c (fun r => r.granted u port q)) c port q (u.nextChan c port q)
  have harrival := fun hport : port = 5 =>
    State.mem_forwards_arrival (u.modRouter c (fun r => r.granted u port q)) c q hport (u.nextChan c port q)
  have hnextq := fun hport : port ≠ 5 =>
    State.router_forwards_next (u.modRouter c (fun r => r.granted u port q)) c q hport (u.nextChan c port q)
  have hgrant : u.grant c port q = (u.modRouter c (fun r => r.granted u port q)).forwards c port q (u.nextChan c port q) := by
    rw [State.grant_eq]
    dsimp only
    split
    · next hport =>
      exact State.admitLocal_of_none _ (by rw [hforwards.2.2.2, hgranted]; exact hown.wait.trans (hwait hport))
    · rfl
  rw [hgrant]
  rw [hgranted] at hforwards
  have hmod : (u.modRouter c (fun r => r.granted u port q)).unrouted = u.unrouted := rfl
  have hpkt : (u.modRouter c (fun r => r.granted u port q)).now = s.now := hnow
  have hothers' : ∀ k, k ≠ c → (u.modRouter c (fun r => r.granted u port q)).router k = s.router k := fun k hk =>
    (u.router_modRouter_other hk _).trans (hothers k hk)
  generalize u.modRouter c (fun r => r.granted u port q) = v at *
  generalize hw : v.forwards c port q (u.nextChan c port q) = w at *
  obtain ⟨hchans, hbusy, hlast, -⟩ := hforwards
  obtain ⟨hrouters, hkickleft, hadds⟩ := w.kickRouter_frame c
  dsimp only
  generalize w.kickRouter c = t at *
  have hrouter := fun k => State.router_of_routers hrouters k
  rw [hrouter c]
  refine ⟨?_, ?_, ?_, ?_, ?_, State.eq_of_unrouted (hkickleft.trans (hfwdleft.trans (hmod.trans hleft)))⟩
  · unfold Router.chan
    rw [hchans]
    exact (congrArg Chan.q (Table.get_set_self ..)).trans (congrArg (fun x : Chan => x.q.tail) hown.chan)
  · rw [hbusy, ← hafter]
    exact Table.get_set_self ..
  · rw [hlast]
    exact Table.get_set_self ..
  · intro hport
    have hsync : Table.get 0 (v.router c).busy syncKey = Table.get 0 (s.router c).busy syncKey := by
      rw [hgranted, ← hown.busy, hport]
      exact Table.get_set_other _ _ (by decide) _
    rw [← hsync, ← hpkt]
    exact hadds _ (harrival hport)
  · intro hport
    rw [hrouter, ← hnx hport, hnextq hport, hpkt, hothers' _ (by rw [hnx hport]; exact hnext hport)]

end

/-! ### Escapes -/

/-- The head of an adaptive channel goes behind the escape channel of its class. -/
def Router.escaped (r : Router) (chan : Nat) (p : Pkt) (ps : List Pkt) : Router :=
  let key := chan - chan % 4 + 2
  { r with chans := (r.chans.set chan ⟨ps, 0⟩).set key { r.chan key with q := (r.chan key).q ++ [p] } }

theorem exec_escapeEntry_goes {s : State} {c key : Nat} {p : Pkt} {ps : List Pkt} (hq : ((s.router c).chan key).q = p :: ps)
    (hadaptive : key % 4 < 2) (hwaited : s.escwait ≤ p.wait) (hwait : key / 16 = 5 → (s.router c).wait = [])
    (hroom : p.flits ≤ ((s.router c).chan (key - key % 4 + 2)).free) :
    exec (.escapeEntry c key) s = .next ((s.modRouter c (fun r => r.escaped key p ps)).kickRouter c) := by
  have hnone : ∀ {P : Prop} [Decidable P], (P → (s.router c).wait = []) →
      (if P then (s.modRouter c (fun r => r.escaped key p ps)).admitLocal c else s.modRouter c (fun r => r.escaped key p ps)) =
        s.modRouter c (fun r => r.escaped key p ps) := fun {P} _ h => by
    split
    · next hp => exact State.admitLocal_of_none _ (by rw [State.router_modRouter_self]; exact h hp)
    · rfl
  show execEscapeEntry c key s = _
  unfold execEscapeEntry
  dsimp only
  rw [hq]
  dsimp only
  rw [if_pos ⟨hadaptive, hwaited, hroom⟩]
  exact congrArg (fun t : State => Host.Outcome.next (t.kickRouter c)) (hnone hwait :)
theorem escapeEntry_outcome {s : State} {c key : Nat} {p : Pkt} {ps : List Pkt} (hadaptive : key % 4 < 2) :
    let t := (s.modRouter c (fun r => r.escaped key p ps)).kickRouter c
    ((t.router c).chan key).q = ps
      ∧ ((t.router c).chan (key - key % 4 + 2)).q = ((s.router c).chan (key - key % 4 + 2)).q ++ [p]
      ∧ t = { s with routers := t.routers, agenda := t.agenda } := by
  have hne : key ≠ key - key % 4 + 2 := by omega
  obtain ⟨hrouters, hleft, -⟩ := (s.modRouter c (fun r => r.escaped key p ps)).kickRouter_frame c
  have hrouter := (State.router_of_routers hrouters c).trans (s.router_modRouter_self c _)
  dsimp only
  generalize (s.modRouter c (fun r => r.escaped key p ps)).kickRouter c = t at *
  refine ⟨?_, ?_, State.eq_of_unrouted hleft⟩
  · rw [hrouter]
    exact congrArg Chan.q ((Table.get_set_other _ _ hne _).trans (Table.get_set_self ..))
  · rw [hrouter]
    exact congrArg Chan.q (Table.get_set_self ..)

/-! ### The obligation -/

/-- Settles O54: what a router's operations leave, by the four events of a packet's way. -/
theorem fabricMoves : Obligations.FabricMoves := by
  intro s c
  refine ⟨?_, exec_injectionSend_none, ?_, ?_, ?_⟩
  · intro k e hpick he
    refine ⟨fun hready hfree hroom => ⟨_, exec_injectionSend_leaves hpick he hready hfree hroom, ?_, ?_, ?_, ?_, ?_, ?_⟩, fun h => ?_⟩
    · rw [State.pump_inj, State.leaves_core]
      exact congrArg Core.inj (s.core_modCore_self c (fun x => { x with inj := x.inj.take k ++ x.inj.drop (k + 1) }))
    · exact (State.mem_of_unsent (State.pump_unsent _ c)).trans (State.leaves_mem ..)
    · exact (State.ctxs_of_unsent (State.pump_unsent _ c)).trans (State.leaves_ctxs ..)
    · exact fun r hbody hkind => State.pump_adds _ c _ (State.mem_leaves_home (s.injected c k) c hbody hkind)
    · intro p hbody
      have hrouter : (s.injected c k).router c = { s.router c with busy := (s.router c).busy.set injKey (s.now + s.toFabric) } :=
        State.router_modRouter_self _ c _
      have htakes : (s.router c).takesLocal p = true := by simpa only [State.injRoom, hbody] using hroom
      have hentered := State.router_leaves_pkt (s.injected c k) (c := c) hbody (by rw [hrouter]; exact htakes)
      rw [hrouter] at hentered
      have hpump := State.router_of_routers (congrArg State.routers (State.eq_of_unsent (State.pump_unsent ((s.injected c k).leaves c e) c))) c
      rw [hpump]
      exact hentered
    · exact fun n tok hbody => State.pump_adds _ c _ (State.mem_leaves_marker (s.injected c k) c hbody)
    · obtain ⟨d, hexec⟩ := exec_injectionSend_waits hpick he h
      exact ⟨_, hexec, s.schedSoon_frame d _⟩
  · intro port q hfree hbest hnext hwait
    exact ⟨_, exec_outputArbitration_grants hfree hbest, outputArbitration_outcome hnext hwait _ (fun k hk => by
      simpa using (List.mem_filter.1 hk).2)⟩
  · intro key p ps hq hadaptive hwaited hwait hroom
    exact ⟨_, exec_escapeEntry_goes hq hadaptive hwaited hwait hroom, escapeEntry_outcome hadaptive⟩
  · intro p key i hi
    have hexec : exec i s = Host.Outcome.next (s.enterRouter p.src p) := by
      rcases List.mem_pair.1 hi with rfl | rfl <;> rfl
    refine ⟨_, hexec, ?_, State.eq_of_unrouted (s.enterRouter_left p.src p).1⟩
    split
    · next h => rw [s.enterRouter_takes h, Router.entered_self]
    · next h => exact s.enterRouter_waits h
end Sys2Proof.Machine
end

section
/-! PROOFS. Remote stores at their target, RST.fe, acknowledgements and the idle drain (O55). -/

namespace Sys2Proof.Machine

/-! ### A core whose router has refused nothing -/

theorem State.letIn_of_none {s : State} {c : Nat} (h : (s.core c).refused = []) (src tok : Nat) : s.letIn c src tok = s :=
  if_pos (by rw [h]; rfl)

section
variable {s : State} {p : Pkt} (kind off : Nat) (k : State → State)

/-- The gate lets a packet in where nothing stands refused. -/
theorem State.arrive_pass (hgate : s.gate p.dst (s.core p.src).team = .pass) (hrefused : (s.core p.dst).refused = []) :
    s.arrive p kind off k = k s := by
  have hbefore : refusedBefore (s.core p.dst).refused p.src p.tok = false := by rw [hrefused]; rfl
  unfold State.arrive
  dsimp only
  rw [hgate, hbefore, State.letIn_of_none hrefused]
  rfl
/-- The gate refuses a packet of a suspended team's core, or behind one that stands refused. -/
theorem State.arrive_refused (h : s.gate p.dst (s.core p.src).team = .refuse
    ∨ (s.gate p.dst (s.core p.src).team = .pass ∧ refusedBefore (s.core p.dst).refused p.src p.tok = true)) :
    s.arrive p kind off k = (s.refuseAt p.dst p.src p.tok).sched 96 (.writeResend p) := by
  unfold State.arrive
  dsimp only
  rw [if_pos h]
  rfl
theorem State.arrive_drop (hgate : s.gate p.dst (s.core p.src).team = .drop) (hrefused : (s.core p.dst).refused = []) :
    s.arrive p kind off k = s.failPkt p .teamBounds kind (apertureAddr p.dst off) := by
  unfold State.arrive
  dsimp only
  rw [hgate, State.letIn_of_none hrefused]
  rfl

end

/-! ### Remote stores -/

section
variable {s : State} {p : Pkt} {off : Nat} {bs : List Byte} (hbody : p.body = .store off bs)
include hbody

theorem exec_remoteStoreArrival_store :
    exec (.remoteStoreArrival p) s = .next (s.landPkt p off bs none none) := by
  show execRemoteStoreArrival p s = _
  unfold execRemoteStoreArrival
  rw [hbody]

variable (hgate : s.gate p.dst (s.core p.src).team = .pass) (hrefused : (s.core p.dst).refused = [])
include hgate hrefused

theorem exec_remoteStoreArrival_lands (htouch : s.touchesStacks p.dst off bs.length = false)
    (hbad : s.badPart (spad p.dst off) bs.length = false) :
    exec (.remoteStoreArrival p) s = .next ((s.store (spad p.dst off) bs).ackPkt p) := by
  rw [exec_remoteStoreArrival_store hbody]
  unfold State.landPkt
  rw [State.arrive_pass 5 off _ hgate hrefused]
  unfold State.land
  dsimp only
  rw [htouch, hbad]
  rfl
theorem exec_remoteStoreArrival_stacks (htouch : s.touchesStacks p.dst off bs.length = true) :
    exec (.remoteStoreArrival p) s = .next (s.failPkt p .bounds 5 (apertureAddr p.dst off)) := by
  rw [exec_remoteStoreArrival_store hbody]
  unfold State.landPkt
  rw [State.arrive_pass 5 off _ hgate hrefused, if_pos htouch]

end

/-- A span that is written holds the bytes; the rest of memory is as it was. -/
theorem State.store_spec {s : State} (hwf : Memory.wf s.mem = true) (cell : Nat) (bs : List Byte) :
    s.memKept (s.store cell bs) cell bs.length ∧ ∀ j, j < bs.length → memRead (s.store cell bs).mem (cell + j) = bs.getD j 0 := by
  refine ⟨fun b hb => memRead_memPut_other s.mem bs hb, fun j hj => ?_⟩
  rw [List.getD_eq_getElem _ _ hj]
  exact memRead_memPut_self hwf bs cell j hj

/-! ### Acknowledgements and reports -/

theorem State.ackPkt_left (s : State) (p : Pkt) : (s.ackPkt p).unrouted = s.unrouted ∧ s.Adds (s.ackPkt p) := s.enterRouter_left p.dst _
theorem State.failPkt_spec (s : State) (p : Pkt) (code : FCode) (kind : Nat) (a : Word) :
    (s.now + ackCycles p.src p.dst, Instr.faultLogEntry p.src p.ctx ⟨code, kind, a, 0⟩) ∈ (s.failPkt p code kind a).agenda
      ∧ (s.failPkt p code kind a).mem = s.mem ∧ (s.failPkt p code kind a).ctxs = s.ctxs := by
  obtain ⟨hleft, hadds⟩ := (s.sched (ackCycles p.src p.dst) (.faultLogEntry p.src p.ctx ⟨code, kind, a, 0⟩)).ackPkt_left p
  exact ⟨hadds _ (s.mem_sched ..), State.mem_of_unrouted hleft, State.ctxs_of_unrouted hleft⟩

/-! ### RST.fe -/

section
variable {s : State} {p : Pkt} {off : Nat} {v : Word} (hbody : p.body = .fe off v) (hgate : s.gate p.dst (s.core p.src).team = .pass)
  (hrefused : (s.core p.dst).refused = []) (hrst : (s.core p.dst).rstRefused = []) (htouch : s.touchesStacks p.dst off 8 = false)
include hbody hgate hrefused hrst htouch

/-- The word is filled, or the packet waits, or it is refused. -/
theorem exec_rstFeArrival_pass : exec (.rstFeArrival p) s = .next (
    if s.isFull p.dst off = false ∧ ((s.core p.dst).rstWait.any (fun w => w.off == off) || !(s.feWaiters p.dst off false).isEmpty) = false then
      ((s.modCore p.dst (fun x => { x with rstRefused := dropRefused x.rstRefused p.src p.tok })).fillWord p.dst off v).ackPkt p
    else if (s.core p.dst).rstWait.length < 32 then
      s.modCore p.dst (fun x => { x with
        rstRefused := dropRefused x.rstRefused p.src p.tok
        rstWait := x.rstWait ++ [{ off := off, v := v, src := p.src, ctx := p.ctx, tok := p.tok, since := s.now }] })
    else (s.modCore p.dst (fun x => { x with rstRefused := addRefused x.rstRefused p.src p.tok })).sched 96 (.rstFeResend p)) := by
  have hbefore : refusedBefore (s.core p.dst).rstRefused p.src p.tok = false := by rw [hrst]; rfl
  show execRstFeArrival p s = _
  unfold execRstFeArrival
  rw [hbody]
  dsimp only
  rw [State.arrive_pass 6 off _ hgate hrefused, htouch, hbefore]
  simp only [Bool.false_eq_true, if_false, Bool.not_eq_true']
  rfl

end

/-- A word that is filled holds the value, and is full. -/
theorem State.fillWord_spec {s : State} (hwf : Memory.wf s.mem = true) (c off : Nat) (v : Word) :
    memLe (s.fillWord c off v).mem 8 (spad c off) = v.toNat ∧ s.memKept (s.fillWord c off v) (spad c off) 8
      ∧ (s.fillWord c off v).isFull c off = true := by
  refine ⟨?_, fun b hb => ?_, ?_⟩
  · exact (memLe_memPut_leBytes hwf _ _ _).trans (Nat.mod_eq_of_lt v.isLt)
  · exact memRead_memPut_other s.mem _ (by rwa [length_leBytes])
  · exact List.contains_iff_mem.2 (mem_insertNat.2 (.inr rfl))

/-! ### Acknowledgements at the core -/

/-- What `y` has sent beyond `x` was in the write-combining buffer of `x`. -/
def Core.SentFrom (x y : Core) : Prop :=
  (∀ o ∈ y.unacked, o ∈ x.unacked ∨ ∃ w ∈ x.wcb, o.tok = w.tok) ∧ ∀ w ∈ y.wcb, w ∈ x.wcb
theorem Core.SentFrom.refl (x : Core) : x.SentFrom x := ⟨fun _ h => .inl h, fun _ h => h⟩
theorem Core.SentFrom.trans {x y z : Core} (h : x.SentFrom y) (h' : y.SentFrom z) : x.SentFrom z := by
  refine ⟨fun o ho => ?_, fun w hw => h.2 w (h'.2 w hw)⟩
  rcases h'.1 o ho with ho | ⟨w, hw, htok⟩
  · exact h.1 o ho
  · exact .inr ⟨w, h.2 w hw, htok⟩

theorem State.sendWc_sentFrom (s : State) {c : Nat} {w : WC} (hw : w ∈ (s.core c).wcb) (k : Nat) :
    (s.core k).SentFrom ((s.sendWc c w).core k) := by
  have hcore : (s.sendWc c w).core k = if k = c then (s.core k).sentWc w else s.core k := by
    unfold State.sendWc
    rw [State.sendHome_core]
    exact s.core_modCore c k (fun x => x.sentWc w)
  rw [hcore]
  split
  · next h =>
    subst h
    refine ⟨fun o ho => ?_, fun v hv => (List.mem_filter.1 hv).1⟩
    rcases List.mem_append.1 ho with ho | ho
    · exact .inl ho
    · exact .inr ⟨w, hw, by rw [List.mem_singleton.1 ho]⟩
  · exact .refl _
theorem State.drainReady_sentFrom (s : State) (c n k : Nat) : (s.core k).SentFrom ((s.drainReady c n).core k) := by
  induction n generalizing s with
  | zero => exact .refl _
  | succ n ih =>
    unfold State.drainReady
    dsimp only
    split
    · next w hw =>
      have hmem := (List.mem_filter.1 (List.mem_of_getElem? hw)).1
      have hsent := State.sendWc_sentFrom (s.spend (s.core c).readyWc.length) (c := c) (by rwa [State.spend_core]) k
      rw [State.spend_core] at hsent
      exact hsent.trans (ih _)
    · exact .refl _
/-- What a pump sends is of the write-combining buffer. -/
theorem State.pump_sentFrom (s : State) (c k : Nat) : (s.core k).SentFrom ((s.pump c).core k) := by
  have h := s.drainReady_sentFrom c 8 k
  unfold State.pump
  dsimp only
  split
  · rwa [State.schedSoon_core]
  · exact h

section
variable {s : State} {c n tok : Nat} (hn : n ≠ 16)
include hn

theorem exec_acknowledgement_known (h : ∃ o ∈ (s.core c).unacked, o.tok = tok) : exec (.acknowledgement c n tok) s =
    .next ((s.modCore c (fun x => { x with unacked := x.unacked.filter (fun o => o.tok != tok) })).pump c) := by
  show execAcknowledgement c n tok s = _
  unfold execAcknowledgement
  rw [if_neg hn, if_pos (by simpa using h)]
theorem exec_acknowledgement_unknown (h : ∀ o ∈ (s.core c).unacked, o.tok ≠ tok) : exec (.acknowledgement c n tok) s = .next s := by
  show execAcknowledgement c n tok s = _
  unfold execAcknowledgement
  rw [if_neg hn, if_neg (by simpa using h)]

end

/-- The acknowledged operation is gone, and every other that was not acknowledged is still there. -/
theorem acknowledgement_outcome {s : State} {c tok : Nat} (hwcb : ∀ w ∈ (s.core c).wcb, w.tok ≠ tok) :
    let t := (s.modCore c (fun x => { x with unacked := x.unacked.filter (fun o => o.tok != tok) })).pump c
    (∀ o ∈ (t.core c).unacked, o.tok ≠ tok) ∧ (∀ o ∈ (s.core c).unacked, o.tok ≠ tok → o ∈ (t.core c).unacked)
      ∧ t.mem = s.mem ∧ t.ctxs = s.ctxs := by
  have hcore := s.core_modCore_self c (fun x => { x with unacked := x.unacked.filter (fun o => o.tok != tok) })
  have hleft := State.pump_unsent (s.modCore c (fun x => { x with unacked := x.unacked.filter (fun o => o.tok != tok) })) c
  have hsent := State.pump_sentFrom (s.modCore c (fun x => { x with unacked := x.unacked.filter (fun o => o.tok != tok) })) c c
  have hdrained := State.pump_drained (s.modCore c (fun x => { x with unacked := x.unacked.filter (fun o => o.tok != tok) })) c c
  rw [hcore] at hsent hdrained
  refine ⟨fun o ho => ?_, fun o ho hne => ?_, State.mem_of_unsent hleft, State.ctxs_of_unsent hleft⟩
  · rcases hsent.1 o ho with ho | ⟨w, hw, htok⟩
    · simpa using (List.mem_filter.1 ho).2
    · exact htok ▸ hwcb w hw
  · obtain ⟨us, hus, -⟩ := hdrained.unacked
    rw [hus]
    exact List.mem_append_left _ (List.mem_filter.2 ⟨ho, by simpa using hne⟩)

/-! ### The idle drain -/

/-- An entry of a line has been idle for 256 cycles. -/
def WC.idleAt (now pa : Nat) (w : WC) : Bool := w.pa == pa && w.last + Config.wcIdle ≤ now
/-- The entries of a line that have been idle for 256 cycles are closed. -/
theorem wcIdleTimeout_outcome (s : State) (c pa : Nat) : ∃ t, exec (.wcIdleTimeout c pa) s = .next t ∧ t.mem = s.mem ∧ t.ctxs = s.ctxs
    ∧ ∀ w ∈ (t.core c).wcb, w.pa = pa → w.last + 256 ≤ s.now → w.closed = true := by
  by_cases hidle : (s.core c).wcb.any (fun w => w.pa == pa && !w.closed && w.last + Config.wcIdle ≤ s.now) = true
  · refine ⟨s.closeWc c (WC.idleAt s.now pa), congrArg Host.Outcome.next (if_pos hidle), State.mem_of_unsent (s.closeWc_unsent c _),
      State.ctxs_of_unsent (s.closeWc_unsent c _), fun w hw hpa hlast => ?_⟩
    have hmem := (State.pump_sentFrom (s.modCore c (fun x => { x with
      wcb := x.wcb.map (fun w => if w.idleAt s.now pa then { w with closed := true } else w) })) c c).2 w hw
    rw [State.core_modCore_self] at hmem
    obtain ⟨v, -, rfl⟩ := List.mem_map.1 hmem
    by_cases hv : v.idleAt s.now pa = true
    · rw [if_pos hv]
    · rw [if_neg hv] at hpa hlast
      exact absurd (by simp only [WC.idleAt, hpa, beq_self_eq_true, Bool.true_and, decide_eq_true_eq]; exact hlast) hv
  · refine ⟨s, congrArg Host.Outcome.next (if_neg hidle), rfl, rfl, fun w hw hpa hlast => ?_⟩
    by_contra hopen
    refine hidle (List.any_eq_true.2 ⟨w, hw, ?_⟩)
    simp only [hpa, beq_self_eq_true, Bool.true_and, Bool.and_eq_true, Bool.not_eq_true', decide_eq_true_eq]
    exact ⟨by simpa using hopen, hlast⟩

/-! ### The obligation -/

/-- Settles O55: the gate of a packet's target, what a store and an RST.fe leave, and what a pump sends. -/
theorem arrivalsAndAcknowledgements : Obligations.ArrivalsAndAcknowledgements := by
  intro s p
  refine ⟨?_, ?_, ?_, ?_, wcIdleTimeout_outcome s⟩
  · intro off bs hbody
    refine ⟨fun hwf hgate hrefused htouch hbad => ?_, fun hgate hrefused htouch =>
      exec_remoteStoreArrival_stacks hbody hgate hrefused htouch, fun h => ?_, fun hgate hrefused => ?_⟩
    · obtain ⟨hkept, hholds⟩ := State.store_spec hwf (spad p.dst off) bs
      exact ⟨_, exec_remoteStoreArrival_lands hbody hgate hrefused htouch hbad, hkept, hholds, rfl⟩
    · rw [exec_remoteStoreArrival_store hbody]
      exact congrArg Host.Outcome.next (State.arrive_refused 5 off _ h)
    · rw [exec_remoteStoreArrival_store hbody]
      exact congrArg Host.Outcome.next (State.arrive_drop 5 off _ hgate hrefused)
  · exact ⟨rfl, rfl, s.failPkt_spec p⟩
  · intro off v hbody hgate hrefused hrst htouch
    have hexec := exec_rstFeArrival_pass hbody hgate hrefused hrst htouch
    refine ⟨fun hwf hempty hwait hfe => ?_, fun hfull hroom => ?_, fun hfull hroom => ?_⟩
    · have hany : (s.core p.dst).rstWait.any (fun w => w.off == off) = false := by simpa using hwait
      rw [if_pos ⟨hempty, by rw [hany, hfe]; rfl⟩] at hexec
      exact ⟨_, hexec, State.fillWord_spec (s := s.modCore p.dst _) hwf _ _ _⟩
    · rw [if_neg (fun h => absurd (hfull.symm.trans h.1) (by decide)), if_pos hroom] at hexec
      exact ⟨_, hexec, congrArg Core.rstWait (s.core_modCore_self p.dst _), rfl, rfl⟩
    · rw [if_neg (fun h => absurd (hfull.symm.trans h.1) (by decide)), if_neg (Nat.not_lt.2 hroom)] at hexec
      exact ⟨_, hexec, State.mem_sched _ _ _, rfl, rfl⟩
  · intro c n tok hn
    exact ⟨fun hknown hwcb => ⟨_, exec_acknowledgement_known hn hknown, acknowledgement_outcome hwcb⟩, exec_acknowledgement_unknown hn⟩

end Sys2Proof.Machine
end

section
/-! PROOFS. Requests at their home, and held words passed on (O56). -/

namespace Sys2Proof.Machine

/-! ### Masked writes -/

/-- What a masked write leaves of every byte. -/
theorem memRead_memPutMasked {m : List Host.Cell} (hwf : Memory.wf m = true) (mask : Nat) (bs : List Byte) (a b : Nat) :
    memRead (memPutMasked m a mask bs) b =
      if a ≤ b ∧ b < a + bs.length ∧ mask.testBit (b - a) = true then bs.getD (b - a) 0 else memRead m b := by
  induction bs generalizing m a mask with
  | nil =>
    rw [if_neg (fun h => by simp at h; omega)]
    rfl
  | cons v vs ih =>
    have hwf' : Memory.wf (if mask % 2 = 1 then memWrite m a v else m) = true := by
      split
      · exact memory_wf_memWrite hwf a v
      · exact hwf
    rw [memPutMasked, ih hwf']
    rcases Nat.lt_trichotomy b a with hlt | rfl | hgt
    · have hbelow : ¬ (a + 1 ≤ b ∧ b < a + 1 + vs.length ∧ (mask / 2).testBit (b - (a + 1)) = true) := by omega
      have hbelow' : ¬ (a ≤ b ∧ b < a + (v :: vs).length ∧ mask.testBit (b - a) = true) := by omega
      rw [if_neg hbelow, if_neg hbelow']
      split
      · exact memRead_memWrite_other m (by omega) v
      · rfl
    · rw [if_neg (by omega), Nat.sub_self, Nat.testBit_zero]
      by_cases hbit : mask % 2 = 1
      · rw [if_pos hbit, if_pos ⟨Nat.le_refl b, by simp, by simpa using hbit⟩]
        exact memRead_memWrite_self hwf b v
      · rw [if_neg hbit, if_neg (fun h => hbit (by simpa using h.2.2))]
    · obtain ⟨d, rfl⟩ : ∃ d, b = a + 1 + d := ⟨b - (a + 1), by omega⟩
      have hother : memRead (if mask % 2 = 1 then memWrite m a v else m) (a + 1 + d) = memRead m (a + 1 + d) := by
        split
        · exact memRead_memWrite_other m (by omega) v
        · rfl
      rw [hother, show a + 1 + d - (a + 1) = d by omega, show a + 1 + d - a = d + 1 by omega, Nat.testBit_succ, List.getD_cons_succ,
        List.length_cons]
      exact if_congr ⟨fun ⟨_, h2, h3⟩ => ⟨by omega, by omega, h3⟩, fun ⟨_, h2, h3⟩ => ⟨by omega, by omega, h3⟩⟩ rfl rfl

/-! ### A drained entry's words -/

section
variable {s : State} {r : HomeReq} {mask : Nat}

/-- A byte lies in a word of the list, and the mask selects it there. -/
def selects (pa mask : Nat) (ks : List Nat) (b : Nat) : Prop :=
  ∃ k ∈ ks, pa + 8 * k ≤ b ∧ b < pa + 8 * k + 8 ∧ (maskWord mask k).testBit (b - (pa + 8 * k)) = true

/-- The request waits for no word of the list. -/
def State.unblocked (s : State) (r : HomeReq) (ks : List Nat) : Prop := ∀ k ∈ ks, s.queueFor r (r.pa + 8 * k) = none

theorem State.queueFor_congr {s t : State} (hholds : t.holds = s.holds) (hcores : t.cores = s.cores) (r : HomeReq) (a : Nat) :
    t.queueFor r a = s.queueFor r a := by
  have hblocks : ∀ h : HoldQ, h.blocks t r = h.blocks s r := fun h => by
    unfold HoldQ.blocks State.ownersOf State.core
    rw [hcores]
  unfold State.queueFor
  rw [hholds]
  simp only [hblocks]

/-- One word is written under its part of the mask. -/
theorem State.storeWord_spec (hwf : Memory.wf s.mem = true) (hlen : r.data.length = 64) {k : Nat} (hk : k < 8)
    (hbad : s.badIn (r.pa + 8 * k) 8 = false) :
    let t := s.storeWord r mask k
    t = { s with mem := t.mem, bad := t.bad } ∧ (∀ w ∈ t.bad, w ∈ s.bad) ∧ Memory.wf t.mem = true
      ∧ ∀ b, memRead t.mem b = if r.pa + 8 * k ≤ b ∧ b < r.pa + 8 * k + 8 ∧ (maskWord mask k).testBit (b - (r.pa + 8 * k)) = true
          then r.data.getD (b - r.pa) 0 else memRead s.mem b := by
  unfold State.storeWord
  dsimp only
  split
  · next hzero =>
    refine ⟨rfl, fun _ h => h, hwf, fun b => ?_⟩
    rw [if_neg (fun h => by rw [hzero] at h; simp at h)]
  · rw [if_neg (fun h => by rw [hbad] at h; exact absurd h.2 (by decide))]
    refine ⟨rfl, fun w hw => ?_, memory_wf_memPutMasked hwf _ _ _, fun b => ?_⟩
    · dsimp only at hw
      split at hw
      · exact (List.mem_filter.1 hw).1
      · exact hw
    · have hcount : ((r.data.drop (8 * k)).take 8).length = 8 := by rw [List.length_take, List.length_drop, hlen]; omega
      show memRead (memPutMasked _ _ _ _) b = _
      rw [memRead_memPutMasked hwf, hcount]
      refine ite_congr rfl (fun h => ?_) (fun _ => rfl)
      rw [List.getD_eq_getElem?_getD, List.getElem?_take_of_lt (by omega), List.getElem?_drop, ← List.getD_eq_getElem?_getD]
      exact congrArg (r.data.getD · 0) (by omega)

/-- Store one word of a drained entry, or wait for it. -/
def State.storePart (r : HomeReq) (mask : Nat) (s : State) (k : Nat) : State :=
  match s.queueFor r (r.pa + 8 * k) with
  | some a => s.waitHeld a { r with kind := .store (BitVec.ofNat 64 (maskWord mask k * 2 ^ (8 * k))) }
  | none => s.storeWord r mask k
theorem State.storeHome_eq (s : State) (r : HomeReq) (mask : Nat) :
    s.storeHome r mask = (storeWords mask).foldl (State.storePart r mask) s := rfl
theorem State.storePart_free {k : Nat} (h : s.queueFor r (r.pa + 8 * k) = none) : s.storePart r mask k = s.storeWord r mask k := by
  unfold State.storePart
  rw [h]

/-- The words of a drained entry that none holds are written under its mask. -/
theorem State.foldl_storeWord (hlen : r.data.length = 64) (ks : List Nat) (hks : ∀ k ∈ ks, k < 8) (s : State)
    (hwf : Memory.wf s.mem = true) (hfree : s.unblocked r ks) (hbad : ∀ k ∈ ks, s.badIn (r.pa + 8 * k) 8 = false) :
    let t := ks.foldl (State.storePart r mask) s
    t = { s with mem := t.mem, bad := t.bad }
      ∧ ∀ b, (selects r.pa mask ks b → memRead t.mem b = r.data.getD (b - r.pa) 0)
        ∧ (¬ selects r.pa mask ks b → memRead t.mem b = memRead s.mem b) := by
  induction ks generalizing s with
  | nil => exact ⟨rfl, fun b => ⟨fun ⟨_, h, _⟩ => absurd h List.not_mem_nil, fun _ => rfl⟩⟩
  | cons k ks ih =>
    rw [List.foldl_cons, State.storePart_free (hfree k (List.mem_cons_self ..))]
    obtain ⟨hframe, hsub, hwf', hread⟩ := State.storeWord_spec (mask := mask) hwf hlen (hks k (List.mem_cons_self ..))
      (hbad k (List.mem_cons_self ..))
    generalize s.storeWord r mask k = u at *
    have hholds : u.holds = s.holds := by rw [hframe]
    have hcores : u.cores = s.cores := by rw [hframe]
    have hbad' : ∀ j ∈ ks, u.badIn (r.pa + 8 * j) 8 = false := fun j hj => by
      have h := hbad j (List.mem_cons_of_mem _ hj)
      unfold State.badIn at h ⊢
      exact List.any_eq_false.2 (fun w hw => List.any_eq_false.1 h w (hsub w hw))
    obtain ⟨hframe', hread'⟩ := ih (fun j hj => hks j (List.mem_cons_of_mem _ hj)) u hwf'
      (fun j hj => (State.queueFor_congr hholds hcores r _).trans (hfree j (List.mem_cons_of_mem _ hj))) hbad'
    generalize ks.foldl _ u = t at *
    refine ⟨by rw [hframe', hframe], fun b => ?_⟩
    have hsplit : selects r.pa mask (k :: ks) b ↔ (r.pa + 8 * k ≤ b ∧ b < r.pa + 8 * k + 8
        ∧ (maskWord mask k).testBit (b - (r.pa + 8 * k)) = true) ∨ selects r.pa mask ks b := by
      simp [selects]
    rw [hsplit]
    by_cases hin : selects r.pa mask ks b
    · exact ⟨fun _ => (hread' b).1 hin, fun h => absurd (.inr hin) h⟩
    · refine ⟨fun h => ?_, fun h => ?_⟩
      · rw [(hread' b).2 hin, hread, if_pos (h.resolve_right hin)]
      · rw [(hread' b).2 hin, hread, if_neg (fun h' => h (.inl h'))]

/-- The bytes of a line that the mask selects. -/
theorem selects_storeWords (pa : Nat) (mask : BitVec 64) (b : Nat) :
    selects pa mask.toNat (storeWords mask.toNat) b ↔ pa ≤ b ∧ b < pa + 64 ∧ mask.getLsbD (b - pa) = true := by
  have hbit : ∀ k i, i < 8 → (maskWord mask.toNat k).testBit i = mask.getLsbD (8 * k + i) := fun k i hi => by
    unfold maskWord
    rw [show (256 : Nat) = 2 ^ 8 from rfl, Nat.testBit_mod_two_pow, Nat.testBit_div_two_pow, decide_eq_true hi, Bool.true_and]
    exact congrArg mask.getLsbD (Nat.add_comm i (8 * k))
  unfold selects
  constructor
  · rintro ⟨k, hk, hle, hlt, hsel⟩
    have hk8 : k < 8 := List.mem_range.1 (List.mem_filter.1 hk).1
    rw [hbit k _ (by omega), show 8 * k + (b - (pa + 8 * k)) = b - pa by omega] at hsel
    exact ⟨by omega, by omega, hsel⟩
  · rintro ⟨hle, hlt, hsel⟩
    have hword : (maskWord mask.toNat ((b - pa) / 8)).testBit ((b - pa) % 8) = true := by
      rw [hbit _ _ (Nat.mod_lt _ (by decide)), Nat.div_add_mod]
      exact hsel
    refine ⟨(b - pa) / 8, List.mem_filter.2 ⟨List.mem_range.2 (by omega), ?_⟩, by omega, by omega, ?_⟩
    · rw [bne_iff_ne]
      intro h
      rw [h, Nat.zero_testBit] at hword
      exact absurd hword (by decide)
    · rwa [show b - (pa + 8 * ((b - pa) / 8)) = (b - pa) % 8 by omega]

end

/-! ### What the home's buffer and its answers leave -/

section
variable {s : State} {r : HomeReq}

theorem State.ackHome_inside (hcore : r.core < 4096) : s.ackHome r = s.sched 110 (.acknowledgement r.core r.ctx r.tok) :=
  if_neg (by simpa [fromOutside] using hcore)
theorem State.replyHome_inside (hcore : r.core < 4096) (hkind : r.kind ≠ .xread) (d : Nat) (v : Reply) :
    s.replyHome r d v = s.sched d (.replyWrite r.core r.ctx r.tok v) := by
  have houtside : ¬ fromOutside r = true := by simpa [fromOutside] using hcore
  unfold State.replyHome
  rw [if_neg houtside]
  exact if_neg hkind
theorem State.dropCopy_unsent (s : State) (r : HomeReq) : (s.dropCopy r).unsent = s.unsent := by
  unfold State.dropCopy
  split <;> rfl
theorem State.dropCopy_cores (s : State) (r : HomeReq) : (s.dropCopy r).cores = s.cores := by
  unfold State.dropCopy
  split <;> rfl

/-- A request that brings no data away uses its line, and no more. -/
theorem State.lineData_plain (hdata : ∀ (t : State) d, t.sendData r d = t) (s : State) (dirty : Bool) :
    (s.lineData r dirty).homeless = s.homeless := by
  have hline := s.touchLine_homeless r.pa dirty
  unfold State.lineData
  dsimp only
  split
  · rw [hdata]
    split
    · exact hline
    · exact hline
  · exact (State.homeless_of_unsent (State.schedSoon_unsent _ _ _)).trans hline
theorem State.mem_of_homeless {s t : State} (h : t.homeless = s.homeless) : t.mem = s.mem := (congrArg State.mem h :)
theorem State.ctxs_of_homeless {s t : State} (h : t.homeless = s.homeless) : t.ctxs = s.ctxs := (congrArg State.ctxs h :)
theorem State.holds_of_homeless {s t : State} (h : t.homeless = s.homeless) : t.holds = s.holds := (congrArg State.holds h :)
theorem State.now_of_homeless {s t : State} (h : t.homeless = s.homeless) : t.now = s.now := (congrArg State.now h :)

/-- A load whose line the home buffer holds is answered at once. -/
theorem State.lineData_hit (hkind : r.kind = .load) (hcore : r.core < 4096) (hline : ∃ e ∈ (s.die (homeDie r.pa)).lines, e.1 = r.pa / 64)
    (dirty : Bool) : (s.now + 110, Instr.replyWrite r.core r.ctx r.tok (.bytes r.data)) ∈ (s.lineData r dirty).agenda
      ∧ (s.lineData r dirty).mem = s.mem := by
  obtain ⟨e, he⟩ : ∃ e, (s.die (homeDie r.pa)).lines.find? (fun e => e.1 == r.pa / 64) = some e := by
    obtain ⟨e, he, hkey⟩ := hline
    exact Option.isSome_iff_exists.1 (List.find?_isSome.2 ⟨e, he, by simpa using hkey⟩)
  have htouched : (s.touchLine r.pa dirty).2 = true := by
    unfold State.touchLine
    dsimp only
    rw [he]
  have hleft := s.touchLine_homeless r.pa dirty
  have hreply : ∀ t : State, t.homeless = s.homeless → (s.now + 110, Instr.replyWrite r.core r.ctx r.tok (.bytes r.data)) ∈
      (t.sendData r Config.homeWay).agenda ∧ (t.sendData r Config.homeWay).mem = s.mem := fun t ht => by
    have hfill : ∀ u : State, u.homeless = s.homeless → (s.now + 110, Instr.replyWrite r.core r.ctx r.tok (.bytes r.data)) ∈
        (u.replyHome r Config.homeWay (.bytes r.data)).agenda ∧ (u.replyHome r Config.homeWay (.bytes r.data)).mem = s.mem := fun u hu => by
      rw [State.replyHome_inside hcore (by rw [hkind]; decide), ← State.now_of_homeless hu]
      exact ⟨u.mem_sched 110 _, State.mem_of_homeless hu⟩
    unfold State.sendData
    rw [hkind]
    dsimp only
    split
    · exact hfill t ht
    · exact hfill _ ht
  unfold State.lineData
  dsimp only
  rw [htouched]
  simp only [if_true]
  split
  · exact hreply _ hleft
  · exact hreply _ hleft

end

/-! ### Requests at their home -/

section
variable {s : State} {r : HomeReq}

theorem exec_homeRequestArrival_parked (h : s.resident r = false ∨ ∃ q ∈ (s.die (homeDie r.pa)).resq, q.pa / 65536 = r.pa / 65536) :
    exec (.homeRequestArrival r) s = .next (s.modDie (homeDie r.pa) (fun x => { x with resq := x.resq ++ [r] })) :=
  congrArg Host.Outcome.next (if_pos (by simpa using h))
theorem exec_homeRequestArrival_applied (hres : s.resident r = true)
    (hnone : ∀ q ∈ (s.die (homeDie r.pa)).resq, q.pa / 65536 ≠ r.pa / 65536) : exec (.homeRequestArrival r) s = .next (s.atHome r) :=
  congrArg Host.Outcome.next (if_neg (by simpa [hres] using hnone))

theorem State.atHome_load (hkind : r.kind = .load) (hbad : s.loadBad r = false) :
    s.atHome r = s.lineData { r with data := memBytes s.mem 64 (alignDown 64 r.pa) } false := by
  unfold State.atHome
  simp only [hkind, if_true]
  exact if_neg (by rw [hbad]; decide)
theorem State.atHome_store {mask : BitVec 64} (hkind : r.kind = .store mask) : s.atHome r =
    (if (((s.dropCopy r).storeHome r mask.toNat).lineData r true).stillHeld r = true
      then ((s.dropCopy r).storeHome r mask.toNat).lineData r true
      else (((s.dropCopy r).storeHome r mask.toNat).lineData r true).ackHome r) := by
  unfold State.atHome
  simp only [hkind, reduceCtorEq, if_false]
theorem State.atHome_red {op : RedOp} (hkind : r.kind = .red op) (hblocked : (s.dropCopy r).blockedAt r [r.pa] = none)
    (hbad : s.badIn r.pa (redBytes op) = false) : s.atHome r =
    (((s.dropCopy r).store r.pa (leBytes (redBytes op) (redOp op (memLe s.mem (redBytes op) r.pa) (leNat r.data)))).lineData r true).ackHome r := by
  have hmem : (s.dropCopy r).mem = s.mem := State.mem_of_unsent (s.dropCopy_unsent r)
  have hbad' : (s.dropCopy r).badIn r.pa (redBytes op) = false := by
    rw [← hbad]
    unfold State.badIn
    rw [show (s.dropCopy r).bad = s.bad from (congrArg State.bad (s.dropCopy_unsent r) :)]
  unfold State.atHome
  simp only [hkind, reduceCtorEq, if_false, hblocked, hbad', hmem, Bool.false_eq_true]

/-- A drained entry that waits for no word is written under its mask, and acknowledged. -/
theorem State.atHome_store_outcome {mask : BitVec 64} (hcore : r.core < 4096) (hkind : r.kind = .store mask) (hwf : Memory.wf s.mem = true)
    (hlen : r.data.length = 64) (hbad : s.badIn r.pa 64 = false)
    (hblocked : s.blockedAt r ((storeWords mask.toNat).map (fun k => r.pa + 8 * k)) = none) (hheld : s.stillHeld r = false) :
    let t := s.atHome r
    s.memKept t r.pa 64
      ∧ (∀ j, j < 64 → memRead t.mem (r.pa + j) = if mask.getLsbD j then r.data.getD j 0 else memRead s.mem (r.pa + j))
      ∧ (s.now + 110, Instr.acknowledgement r.core r.ctx r.tok) ∈ t.agenda ∧ t.ctxs = s.ctxs := by
  have hdrop := s.dropCopy_unsent r
  have hqueue : ∀ a, (s.dropCopy r).queueFor r a = s.queueFor r a :=
    State.queueFor_congr (s := s) (t := s.dropCopy r) (congrArg State.holds hdrop :) (s.dropCopy_cores r) r
  have hmem : (s.dropCopy r).mem = s.mem := State.mem_of_unsent hdrop
  have hbads : (s.dropCopy r).bad = s.bad := (congrArg State.bad hdrop :)
  -- the words are written
  have hwords : ∀ k ∈ storeWords mask.toNat, k < 8 := fun k hk => List.mem_range.1 (List.mem_filter.1 hk).1
  have hfree : (s.dropCopy r).unblocked r (storeWords mask.toNat) := fun k hk =>
    (hqueue _).trans (List.findSome?_eq_none_iff.1 hblocked _ (List.mem_map_of_mem hk))
  have hgood : ∀ k ∈ storeWords mask.toNat, (s.dropCopy r).badIn (r.pa + 8 * k) 8 = false := fun k hk => by
    have hk8 := hwords k hk
    unfold State.badIn at hbad ⊢
    rw [hbads]
    refine List.any_eq_false.2 (fun w hw => ?_)
    have h := List.any_eq_false.1 hbad w hw
    simp only [Bool.and_eq_true, decide_eq_true_eq] at h ⊢
    omega
  obtain ⟨hframe, hread⟩ := State.foldl_storeWord (mask := mask.toNat) hlen _ hwords (s.dropCopy r) (by rwa [hmem]) hfree hgood
  rw [← State.storeHome_eq] at hframe hread
  -- the line is used, and no part of the request waits
  have hline := State.lineData_plain (r := r) (fun t d => by unfold State.sendData; rw [hkind]) ((s.dropCopy r).storeHome r mask.toNat) true
  have hatHome := State.atHome_store (s := s) hkind
  generalize (s.dropCopy r).storeHome r mask.toNat = u at *
  generalize u.lineData r true = v at *
  have hvmem : v.mem = u.mem := State.mem_of_homeless hline
  have hvholds : v.holds = s.holds := (State.holds_of_homeless hline).trans (by rw [hframe]; exact (congrArg State.holds hdrop :))
  have hvctxs : v.ctxs = s.ctxs := (State.ctxs_of_homeless hline).trans (by rw [hframe]; exact (congrArg State.ctxs hdrop :))
  have hvnow : v.now = s.now := (State.now_of_homeless hline).trans (by rw [hframe]; exact (congrArg State.now hdrop :))
  have hvheld : ¬ v.stillHeld r = true := by
    unfold State.stillHeld at hheld ⊢
    rw [hvholds, hheld]
    decide
  rw [hatHome, if_neg hvheld, State.ackHome_inside hcore]
  refine ⟨fun b hb => ?_, fun j hj => ?_, hvnow ▸ v.mem_sched 110 _, hvctxs⟩
  · show memRead v.mem b = _
    rw [hvmem, (hread b).2 (fun h => by have := (selects_storeWords r.pa mask b).1 h; omega), hmem]
  · show memRead v.mem (r.pa + j) = _
    rw [hvmem]
    split
    · next hsel =>
      rw [(hread _).1 ((selects_storeWords ..).2 ⟨by omega, by omega, by rwa [Nat.add_sub_cancel_left]⟩), Nat.add_sub_cancel_left]
    · next hsel =>
      rw [(hread _).2 (fun h => hsel (by have := ((selects_storeWords r.pa mask _).1 h).2.2; rwa [Nat.add_sub_cancel_left] at this)), hmem]

/-- RED's word is replaced by the operation's result, and the request is acknowledged. -/
theorem State.atHome_red_outcome {op : RedOp} (hcore : r.core < 4096) (hkind : r.kind = .red op) (hwf : Memory.wf s.mem = true)
    (hbad : s.badIn r.pa (redBytes op) = false) (hblocked : s.blockedAt r [r.pa] = none) :
    let t := s.atHome r
    s.memKept t r.pa (redBytes op)
      ∧ memLe t.mem (redBytes op) r.pa = redOp op (memLe s.mem (redBytes op) r.pa) (leNat r.data) % 2 ^ (8 * redBytes op)
      ∧ (s.now + 110, Instr.acknowledgement r.core r.ctx r.tok) ∈ t.agenda ∧ t.ctxs = s.ctxs := by
  have hdrop := s.dropCopy_unsent r
  have hqueue := State.queueFor_congr (s := s) (t := s.dropCopy r) (congrArg State.holds hdrop :) (s.dropCopy_cores r) r
  have hblocked' : (s.dropCopy r).blockedAt r [r.pa] = none :=
    (congrArg (fun f => [r.pa].findSome? f) (funext hqueue)).trans hblocked
  rw [State.atHome_red hkind hblocked' hbad, State.ackHome_inside hcore]
  generalize hv : redOp op (memLe s.mem (redBytes op) r.pa) (leNat r.data) = v
  have hline := State.lineData_plain (r := r) (fun t d => by unfold State.sendData; rw [hkind])
    ((s.dropCopy r).store r.pa (leBytes (redBytes op) v)) true
  generalize State.lineData _ r true = t at *
  have hmem : t.mem = memPut s.mem r.pa (leBytes (redBytes op) v) :=
    (State.mem_of_homeless hline).trans (congrArg (fun m => memPut m r.pa _) (State.mem_of_unsent hdrop))
  have hnow : t.now = s.now := (State.now_of_homeless hline).trans (congrArg State.now hdrop :)
  refine ⟨fun b hb => ?_, ?_, hnow ▸ t.mem_sched 110 _, (State.ctxs_of_homeless hline).trans (congrArg State.ctxs hdrop :)⟩
  · show memRead t.mem b = _
    rw [hmem]
    exact memRead_memPut_other s.mem _ (by rwa [length_leBytes])
  · show memLe t.mem _ _ = _
    rw [hmem, memLe_memPut_leBytes hwf, Nat.pow_mul]

end

/-! ### Held words -/

section
variable {s : State} {pa : Nat} {h : HoldQ} (hfind : s.holds.find (pa / 8) = some h) (hfree : h.core = 65535)
include hfind hfree

/-- A word that is free and for which none waits is forgotten. -/
theorem exec_holdGrant_none (hqueue : h.queue = []) : exec (.holdGrant pa) s = .next { s with holds := s.holds.erase (pa / 8) } := by
  have hkey : s.holds.find (wordKey pa) = some h := hfind
  show Host.Outcome.next (s.serveHold (wordKey pa) _) = _
  rw [State.serveHold, hkey]
  dsimp only
  rw [if_neg (fun hne => hne hfree), hqueue]
  rfl
/-- A word that is free is granted to the HOLD at the head of its queue. -/
theorem exec_holdGrant_head {r : HomeReq} {rs : List HomeReq} (hqueue : h.queue = r :: rs) (hkind : r.kind = .hold) :
    exec (.holdGrant pa) s = .next (s.grantHold r rs true) := by
  have hkey : s.holds.find (wordKey pa) = some h := hfind
  show Host.Outcome.next (s.serveHold (wordKey pa) _) = _
  rw [State.serveHold, hkey]
  dsimp only
  rw [if_neg (fun hne => hne hfree), hqueue]
  dsimp only
  rw [if_pos hkind]

end

/-- The grant of a word: its holder, and its value. -/
theorem State.grantHold_direct {s : State} {r : HomeReq} (hcore : r.core < 4096) (hkind : r.kind = .hold) (hbad : s.badIn r.pa 8 = false)
    (rs : List HomeReq) : s.grantHold r rs true = ({ s with holds := s.holds.set (r.pa / 8) ⟨r.core, r.ctx, rs⟩ } : State).sched 110
      (.replyWrite r.core r.ctx r.tok (.word (BitVec.ofNat 64 (memLe s.mem 8 r.pa)))) := by
  unfold State.grantHold
  rw [if_neg (by rw [hbad]; decide)]
  simp only [if_true]
  unfold State.sendData
  simp only [hkind]
  exact State.replyHome_inside (r := { r with kind := .hold, data := memBytes s.mem 8 r.pa }) hcore (by simp) _ _

/-! ### The obligation -/

/-- Settles O56: each kind of request by what its home writes and answers, and a released word by the head of its queue. -/
theorem homeEvents : Obligations.HomeEvents := by
  intro s r
  refine ⟨fun h => ?_, fun hres hnone hcore => ⟨?_, ?_, ?_⟩, ?_, ?_, ?_⟩
  · exact ⟨_, exec_homeRequestArrival_parked h, congrArg Die.resq (Table.get_set_self ..), rfl⟩
  · intro hkind hbad halign hline
    have hstart : alignDown 64 r.pa = r.pa := by unfold alignDown; omega
    refine ⟨_, exec_homeRequestArrival_applied hres hnone, ?_⟩
    rw [State.atHome_load hkind hbad, hstart]
    exact State.lineData_hit (s := s) (r := { r with data := memBytes s.mem 64 r.pa }) hkind hcore hline false
  · intro mask hkind hwf hlen hbad hblocked hheld
    exact ⟨_, exec_homeRequestArrival_applied hres hnone, State.atHome_store_outcome hcore hkind hwf hlen hbad hblocked hheld⟩
  · intro op hkind hwf hbad hblocked
    exact ⟨_, exec_homeRequestArrival_applied hres hnone, State.atHome_red_outcome hcore hkind hwf hbad hblocked⟩
  · intro h rs hfind hfree hqueue hkind hcore hbad
    refine ⟨_, exec_holdGrant_head hfind hfree hqueue hkind, ?_⟩
    rw [State.grantHold_direct hcore hkind hbad]
    exact ⟨Table.find_set_self .., State.mem_sched _ _ _, rfl⟩
  · intro h hfind hfree hqueue
    exact ⟨_, exec_holdGrant_none hfind hfree hqueue, Table.find_erase_self .., rfl⟩
  · intro hkind
    refine congrArg Host.Outcome.next ?_
    unfold State.sendHome
    rw [hkind]
    rfl

end Sys2Proof.Machine
end

section
/-! PROOFS. Memory channels: O57 fails where the served read ends the home's back-pressure, and a core whose injection queue is offered again
drains an entry of a line that waits in the channel. -/

namespace Sys2Proof.Machine

/-- A read of core 0 for the line at 0, which would fill its cluster's read cache. -/
def lineRead : HomeReq :=
  { kind := .hrel, core := 0, ctx := 0, pa := 0, va := 0, space := 0, res := true, tok := 2, data := [], tries := 0 }
/-- The channel of that line holds 112 of its reads; core 0 has a closed entry of the line in its write-combining buffer, and a marker in its
injection queue. -/
def fullChannelState : State :=
  { State.reset with
    agenda := []
    chans := ⟨[(homeChan 0, { HbmChan.idle with reads := List.replicate 112 (0, lineRead) })]⟩
    cores := ⟨[(0, { Core.idle with
      wcb := [⟨0, 0, 0, 1, List.replicate 64 0, [0], 3, 0, true, [], true, 65536⟩]
      inj := [⟨.marker 0 1, [], 0⟩] })]⟩ }

/-- The state after an event, or the reset state. -/
def stateAfter : Res → State
  | .next t => t
  | _ => State.reset

theorem fullChannelState_pick : pickServe fullChannelState.now (fullChannelState.chan (homeChan 0)).row
    (((fullChannelState.chan (homeChan 0)).reads.take 64).map (fun e => (e.1, hbmRow e.2.pa))) = 0 := by decide
theorem fullChannelState_served :
    (((stateAfter (exec (.hbmRequestServe (homeChan 0)) fullChannelState)).chan (homeChan 0)).reads.map (fun e => e.2.fill)).head? = some false := by
  decide

/-- Refutes O57: the served read is the 112th, so the home's back-pressure is over and core 0 is offered its injection queue again (R234); its
closed entry drains, and the 111 reads of the line that are left no longer fill the cache (R174, R199). -/
theorem not_channelsAndWalks : ¬ Obligations.ChannelsAndWalks := by
  intro h
  obtain ⟨t, hexec, hreads, -⟩ := (h fullChannelState (homeChan 0)).2.1 0 0 lineRead (by decide) rfl rfl fullChannelState_pick.symm rfl
  have hserved := fullChannelState_served
  rw [hexec] at hserved
  rw [show stateAfter (.next t) = t from rfl, hreads] at hserved
  exact absurd hserved (by decide)

end Sys2Proof.Machine
end

section
/-! PROOFS. The copy engine: O58 fails where a word with an uncorrectable error reaches past the segment a step writes. -/

namespace Sys2Proof.Machine

/-- A row of 128 bytes from offset 0x1000 of the core's scratchpad to offset 0. -/
def segmentRow : Row := { k := 0, src := 0x1000, dst := 0, fill := none }
/-- Its command: a box of one row. -/
def segmentCmd : Cmd :=
  { id := 5, kind := .copy, desc := 0x1000 + 128 * 2 ^ 128 + 2 ^ 160 + 2 ^ 192 + 2 ^ 224, swz := false, fill := 0, ctx := 0, tok := none, num := 1,
    sched := none, active := true, next := 1, rows := [segmentRow], sentAll := true, err := none, oor := 0, after := [], parked := none }
/-- Core 0 of a running team with that command; an uncorrectable error is recorded for the eight bytes from offset 60, which lie whole in the
row but not in its first segment of 64 bytes. -/
def segmentState : State :=
  { State.reset with
    agenda := []
    mem := [(spad 0 0x1000, 1)]
    bad := [spad 0 60]
    teams := ⟨[(0, { savedTeam with st := .running, ox := 0 })]⟩
    cores := ⟨[(0, { Core.idle with team := some 0, cmds := [segmentCmd] })]⟩ }

theorem segmentState_read : memRead segmentState.mem (spad 0 0x1000 + 0) = 1 := by decide
theorem segmentState_unwritten :
    memRead (stateAfter (exec (.copyRowWrite 0 5 0) segmentState)).mem (spad 0 0 + 0) = 0 := by decide +kernel

/-- Refutes O58: the row passes the check of its whole span, and its first segment then fails for the error that reaches past it, so no byte is
written (R246, R278). -/
theorem not_copyEngine : ¬ Obligations.CopyEngine := by
  intro h
  obtain ⟨t, hexec, -, hwritten, -⟩ := (h segmentState 0 segmentCmd []).2.1 5 segmentRow 0 0x1000 0 0 (by decide) rfl rfl rfl rfl
    (by decide) (by decide) rfl rfl (by decide +kernel) (by decide +kernel) (by decide) rfl rfl rfl rfl (by decide) (by decide) (by rfl) (by rfl)
    (by decide) (by decide)
  have hread := hwritten 0 (by decide)
  have hunwritten := segmentState_unwritten
  rw [show exec (.copyRowWrite 0 5 0) segmentState = .next t from hexec] at hunwritten
  rw [show (stateAfter (.next t)) = t from rfl, hread, segmentState_read] at hunwritten
  exact absurd hunwritten (by decide)

end Sys2Proof.Machine
end

section
/-! PROOFS. Residency repairs, peers, PCIe completions and uncorrectable errors (O59). -/

namespace Sys2Proof.Machine

/-! ### What serving a request leaves of the residency queues -/

/-- `t` has every event of `s`, its cycle, and its residency queues. -/
structure State.Serves (s t : State) : Prop where
  adds : s.Adds t
  now : t.now = s.now
  resq : ∀ d, (t.die d).resq = (s.die d).resq

section
variable {s t u : State}

theorem State.Serves.refl (s : State) : s.Serves s := ⟨.refl s, rfl, fun _ => rfl⟩
theorem State.Serves.trans (h : s.Serves t) (h' : t.Serves u) : s.Serves u :=
  ⟨h.adds.trans h'.adds, h'.now.trans h.now, fun d => (h'.resq d).trans (h.resq d)⟩
/-- An operation that keeps the events, the cycle and the dies. -/
theorem State.Serves.of_eq (hagenda : t.agenda = s.agenda) (hnow : t.now = s.now) (hdies : t.dies = s.dies) : s.Serves t :=
  ⟨.of_eq hagenda, hnow, fun d => congrArg (fun x => (Table.get Die.idle x d).resq) hdies⟩
/-- An operation behind one that keeps them. -/
theorem State.Serves.behind (h : t.Serves u) (hagenda : t.agenda = s.agenda) (hnow : t.now = s.now) (hdies : t.dies = s.dies) : s.Serves u :=
  (State.Serves.of_eq hagenda hnow hdies).trans h
theorem State.Serves.of_unsent (h : t.unsent = s.unsent) (hadds : s.Adds t) : s.Serves t :=
  ⟨hadds, State.now_of_unsent h, fun d => congrArg (fun x => (Table.get Die.idle x d).resq) (congrArg State.dies h :)⟩
theorem State.Serves.foldl {α : Type} {f : State → α → State} (hf : ∀ (s : State) a, s.Serves (f s a)) (l : List α) (s : State) :
    s.Serves (l.foldl f s) :=
  List.foldlRecOn (motive := fun t : State => s.Serves t) _ _ (.refl s) (fun t h a _ => h.trans (hf t a))

end

namespace State.Serves
variable (s : State) (r : HomeReq)

theorem sched (d : Nat) (i : Instr) : s.Serves (s.sched d i) := .of_unsent (s.sched_unsent d i) (s.sched_adds d i)
theorem schedOnce (d : Nat) (i : Instr) : s.Serves (s.schedOnce d i) := .of_unsent (s.schedOnce_unsent d i) (s.schedOnce_adds d i)
theorem schedSoon (d : Nat) (i : Instr) : s.Serves (s.schedSoon d i) := .of_unsent (s.schedSoon_unsent d i) (s.schedSoon_adds d i)
theorem pump (c : Nat) : s.Serves (s.pump c) := .of_unsent (s.pump_unsent c) (s.pump_adds c)

/-- A line's use changes the lines of a home, and what it writes back. -/
theorem touchLine (pa : Nat) (dirty : Bool) : s.Serves (s.touchLine pa dirty).1 := by
  have hline : ∀ ls, s.Serves (s.modDie (homeDie pa) (fun x => { x with lines := ls })) := fun ls =>
    ⟨.of_eq rfl, rfl, fun d => by
      by_cases hd : d = homeDie pa
      · subst hd
        exact (congrArg Die.resq (Table.get_set_self ..) :)
      · exact (congrArg Die.resq (Table.get_set_other _ _ hd _) :)⟩
  unfold State.touchLine
  dsimp only
  split
  · exact hline _
  · dsimp only
    split
    · exact (hline _).trans ((schedSoon _ _ _).behind rfl rfl rfl)
    · exact hline _

/-! #### Answers -/

theorem replyHome (d : Nat) (v : Reply) : s.Serves (s.replyHome r d v) := by
  unfold State.replyHome
  split
  · exact .refl s
  · dsimp only
    split
    · exact (sched s _ _).trans (sched _ _ _)
    · exact sched s _ _
theorem ackHome : s.Serves (s.ackHome r) := by
  unfold State.ackHome
  split
  · exact .refl s
  · exact sched s _ _
theorem logHome (code : FCode) (kind va : Nat) : s.Serves (s.logHome r code kind va) := by
  unfold State.logHome
  split
  · exact .refl s
  · split
    · exact .of_eq rfl rfl rfl
    · exact .foldl (fun t _ => sched t _ _) _ s
theorem sendData (d : Nat) : s.Serves (s.sendData r d) := by
  unfold State.sendData
  split
  · dsimp only
    split
    · exact replyHome s r _ _
    · exact (replyHome _ r _ _).behind rfl rfl rfl
  · exact replyHome s r _ _
  · exact replyHome s r _ _
  · exact .refl s
theorem lineData (dirty : Bool) : s.Serves (s.lineData r dirty) := by
  have hline := touchLine s r.pa dirty
  unfold State.lineData
  dsimp only
  split
  · refine State.Serves.trans ?_ (sendData _ r _)
    split
    · exact hline.trans (.of_eq rfl rfl rfl)
    · exact hline
  · exact hline.trans ((schedSoon _ _ _).behind rfl rfl rfl)
theorem fineData : s.Serves (s.fineData r) := by
  unfold State.fineData
  split
  · exact lineData s r _
  · exact (schedSoon _ _ _).behind rfl rfl rfl
theorem waitHeld (a : Nat) : s.Serves (s.waitHeld a r) := by
  unfold State.waitHeld
  split
  · exact .of_eq rfl rfl rfl
  · exact .refl s
theorem grantHold (queue : List HomeReq) (direct : Bool) : s.Serves (s.grantHold r queue direct) := by
  unfold State.grantHold
  split
  · dsimp only
    exact ((replyHome _ r _ _).trans (sched _ _ _)).behind rfl rfl rfl
  · refine State.Serves.trans (t := { s with holds := s.holds.set (wordKey r.pa) ⟨r.core, r.ctx, queue⟩ }) (.of_eq rfl rfl rfl) ?_
    dsimp only
    split
    · exact sendData _ _ _
    · split
      · exact fineData _ _
      · exact lineData _ _ _
theorem storeHome (mask : Nat) : s.Serves (s.storeHome r mask) := by
  refine .foldl (fun t k => ?_) _ s
  split
  · exact waitHeld t _ _
  · unfold State.storeWord
    dsimp only
    split
    · exact .refl t
    · split
      · exact logHome t r _ _ _
      · exact .of_eq rfl rfl rfl
theorem dropCopy : s.Serves (s.dropCopy r) := by
  unfold State.dropCopy
  split
  · exact .refl s
  · exact .of_eq rfl rfl rfl

/-- Bytes are written at a request's address, and its line is used. -/
theorem written (bs : List Byte) : s.Serves ((s.store r.pa bs).lineData r true) := (lineData _ r true).behind rfl rfl rfl
theorem stored (bs : List Byte) : s.Serves (((s.store r.pa bs).lineData r true).ackHome r) := (written s r bs).trans (ackHome _ r)
/-- A request applied at its home queues none for residency. -/
theorem atHome : s.Serves (s.atHome r) := by
  unfold State.atHome
  dsimp only
  have hstart : s.Serves (if r.kind = .load then s else s.dropCopy r) := by
    split
    · exact .refl s
    · exact dropCopy s r
  generalize (if r.kind = .load then s else s.dropCopy r) = t at *
  refine hstart.trans ?_
  split
  case h_1 =>
    split
    · exact replyHome t r _ _
    · exact lineData t _ _
  case h_2 =>
    split
    · exact replyHome t r _ _
    · exact fineData t _
  case h_3 mask _ =>
    have hstored := (storeHome t r mask.toNat).trans (lineData _ r true)
    split
    · exact hstored
    · exact hstored.trans (ackHome _ r)
  case h_4 =>
    split
    · exact grantHold t r _ _
    · split
      · exact waitHeld t r _
      · exact sched t _ _
  case h_5 =>
    refine (ackHome t r).trans ?_
    split
    · split
      · refine State.Serves.trans ?_ (sched _ _ _)
        exact (written (t.ackHome r) r r.data).trans (.of_eq rfl rfl rfl)
      · exact .refl _
    · exact .refl _
  case h_6 =>
    split
    · exact waitHeld t r _
    · split
      · exact (logHome t r _ _ _).trans (ackHome _ r)
      · exact stored t r _
  case h_7 =>
    split
    · exact waitHeld t r _
    · split
      · exact (logHome t r _ _ _).trans (ackHome _ r)
      · exact stored t r _
  case h_8 =>
    split
    · exact replyHome t r _ _
    · exact (lineData t r false).trans (replyHome _ r _ _)

/-- A queued request that ends with a fault. -/
theorem failHome (code : FCode) : s.Serves (s.failHome r code) := by
  unfold State.failHome
  split
  · exact replyHome s r _ _
  · exact replyHome s r _ _
  · exact replyHome s r _ _
  · exact replyHome s r _ _
  · exact (logHome s r _ _ _).trans (ackHome _ r)
  · exact (logHome s r _ _ _).trans (ackHome _ r)
  · exact (logHome s r _ _ _).trans (ackHome _ r)
  · exact atHome s _

end State.Serves

/-! ### Copies and fetches that wait for a page -/

/-- `t` has every event of `s`, and differs in what sending changes only. -/
structure State.Goes (s t : State) : Prop where
  left : t.unsent = s.unsent
  adds : s.Adds t

namespace State.Goes

theorem refl (s : State) : s.Goes s := ⟨rfl, .refl s⟩
theorem trans {s t u : State} (h : s.Goes t) (h' : t.Goes u) : s.Goes u := ⟨h'.left.trans h.left, h.adds.trans h'.adds⟩
theorem foldl {α : Type} {f : State → α → State} (hf : ∀ (s : State) a, s.Goes (f s a)) (l : List α) (s : State) : s.Goes (l.foldl f s) :=
  List.foldlRecOn (motive := fun t : State => s.Goes t) _ _ (.refl s) (fun t h a _ => h.trans (hf t a))
theorem step {s t u : State} {c : Prop} [Decidable c] (h : s.Goes t) (h' : s.Goes u) : s.Goes (if c then t else u) := by
  split
  · exact h
  · exact h'

variable (s : State) (core id : Nat)

theorem schedOnce (d : Nat) (i : Instr) : s.Goes (s.schedOnce d i) := ⟨s.schedOnce_unsent d i, s.schedOnce_adds d i⟩
theorem pump (c : Nat) : s.Goes (s.pump c) := ⟨s.pump_unsent c, s.pump_adds c⟩
theorem spend (n : Nat) : s.Goes (s.spend n) := ⟨s.spend_unsent n, s.spend_adds n⟩
theorem modCmd (f : Cmd → Cmd) : s.Goes (s.modCmd core id f) := ⟨rfl, .of_eq rfl⟩
theorem pumpAll : s.Goes s.pumpAll := by
  unfold State.pumpAll
  refine .foldl (fun t c => ?_) _ s
  split
  · exact .refl t
  · exact pump t c.1
theorem offerRow (d : Nat) : s.Goes (s.offerRow core id d) := by
  unfold State.offerRow
  split
  · exact .refl s
  · dsimp only
    split
    · exact schedOnce s _ _
    · split
      · exact (spend s _).trans (schedOnce _ _ _)
      · exact .refl s
theorem goOnCmd : s.Goes (s.goOnCmd core id) := by
  unfold State.goOnCmd
  split
  · exact .refl s
  · exact .step (.refl s) ((State.Goes.step (schedOnce s _ _) (.refl s)).trans (offerRow _ _ _ _))
theorem retryPage (e : TlbE) : s.Goes (s.retryPage e) :=
  .foldl (fun t _ => .step (.foldl (fun t _ => .step ((modCmd t _ _ _).trans (goOnCmd _ _ _)) (.refl t)) _ t) (.refl t)) _ s
theorem finishCmd : s.Goes (s.finishCmd core id) := by
  unfold State.finishCmd
  split
  · exact .refl s
  · exact .step (schedOnce s _ _) (.refl s)
theorem forgetRefused (src tok : Nat) : s.Goes (s.forgetRefused src tok) := .step ⟨rfl, .of_eq rfl⟩ (.refl s)
theorem failCmd (e : FCode) (a : Nat) : s.Goes (s.failCmd core id e a) := by
  unfold State.failCmd
  refine State.Goes.trans ?_ (schedOnce _ _ _)
  refine State.Goes.trans ?_ (finishCmd _ _ _)
  exact (modCmd s core id _).trans (forgetRefused _ _ _)
theorem failPage (e : TlbE) (code : FCode) : s.Goes (s.failPage e code) :=
  .foldl (fun t _ => .step (.foldl (fun t _ => .step ((modCmd t _ _ _).trans (failCmd _ _ _ _ _)) (.refl t)) _ t) (.refl t)) _ s

end State.Goes

section
variable (s : State)

theorem State.haltTeam_agenda (c n : Nat) (code : FCode) (w1 w2 w3 : Word) : (s.haltTeam c n code w1 w2 w3).agenda = s.agenda := by
  unfold State.haltTeam
  split
  · rfl
  · split
    · rfl
    · next t u _ =>
      dsimp only
      refine List.foldlRecOn (motive := fun v : State => v.agenda = s.agenda) _ _ ?_ (fun _ h _ _ => h)
      unfold State.modTeam
      split <;> rfl
theorem State.trap_agenda (c n : Nat) (code : FCode) (w1 w2 w3 : Word) : (s.trap c n code w1 w2 w3).agenda = s.agenda := by
  unfold State.trap
  dsimp only
  split
  · exact State.haltTeam_agenda _ _ _ _ _ _ _
  · split
    · exact State.haltTeam_agenda _ _ _ _ _ _ _
    · split
      · exact State.haltTeam_agenda _ _ _ _ _ _ _
      · split <;> rfl
theorem State.failFetch_agenda (e : TlbE) (code : FCode) : (s.failFetch e code).agenda = s.agenda :=
  List.foldlRecOn (motive := fun t : State => t.agenda = s.agenda) _ _ rfl (fun _ h _ _ => (State.trap_agenda _ _ _ _ _ _ _).trans h)
/-- Contexts that wait for a page fetch again. -/
theorem State.wakeFetch_frame (e : TlbE) : s.wakeFetch e = { s with ctxs := (s.wakeFetch e).ctxs } :=
  List.foldlRecOn (motive := fun t : State => t = { s with ctxs := t.ctxs }) _ _ rfl (fun t h _ _ => by
    show t.wake _ _ = { s with ctxs := (t.wake _ _).ctxs }
    rw [h]
    rfl)

end

/-! ### The repair of a page -/

/-- The page's entry at `a` is marked resident. -/
def State.marked (s : State) (a : Nat) : State :=
  if bit (memLe s.mem 8 a) 8 then s else { s with mem := memPut s.mem a (leBytes 8 (memLe s.mem 8 a + 256)) }
/-- What found the page not resident is forgotten. -/
def State.unstale (s : State) (space va : Nat) (e : TlbE) : State :=
  let stale (t : TlbE) : Bool := t.covers space va && !hasAttr t.attr attrRES
  { s with
    cores := s.cores.mapAll (fun _ (c : Core) => { c with utlb := c.utlb.filter (fun t => !stale t) })
    clusters := s.clusters.mapAll (fun _ (c : Cluster) => { c with tlb := c.tlb.filter (fun t => !stale t) })
    ctxs := s.ctxs.mapAll (fun _ (x : Ctx) => { x with xlat := x.xlat.filter (fun r => !e.covers r.1 (r.2.1 * 65536)) }) }
/-- The queued requests replay, and what else waited for the page goes on. -/
def State.replays (s : State) (e : TlbE) : State :=
  ((((s.takeQueued e.pa e.size).2.foldl (fun (s : State) r => s.atHome { r with res := true }) (s.takeQueued e.pa e.size).1).retryPage e).wakeFetch
    e).pumpAll

section
variable {s : State} {space va a : Nat} {e : TlbE}

theorem exec_residencyRepair (hwalk : s.walk space va = some e) (hread : (s.readsOf space va).getLast? = some a) :
    exec (.residencyRepair space va) s = .next (((s.marked a).unstale space va e).replays e) := by
  show execResidencyRepair space va s = _
  unfold execResidencyRepair
  rw [hwalk, hread]
  rfl

/-- No request of the page stays queued. -/
theorem State.replays_resq (s : State) (e : TlbE) (d : Nat) : ∀ q ∈ ((s.replays e).die d).resq, ¬ (e.pa ≤ q.pa ∧ q.pa < e.pa + e.size) := by
  have hserved := State.Serves.foldl (f := fun (s : State) (r : HomeReq) => s.atHome { r with res := true })
    (fun t r => State.Serves.atHome t _) (s.takeQueued e.pa e.size).2 (s.takeQueued e.pa e.size).1
  have hresq : ((s.replays e).die d).resq = ((s.takeQueued e.pa e.size).1.die d).resq := by
    unfold State.replays
    generalize List.foldl _ (s.takeQueued e.pa e.size).1 (s.takeQueued e.pa e.size).2 = t at *
    have hdies : (((t.retryPage e).wakeFetch e).pumpAll).dies = t.dies := by
      rw [State.dies_of_unsent (State.Goes.pumpAll _).left, State.wakeFetch_frame]
      exact (State.dies_of_unsent (State.Goes.retryPage t e).left :)
    exact (congrArg (fun x => (Table.get Die.idle x d).resq) hdies).trans (hserved.resq d)
  rw [hresq]
  intro q hq
  have hdie : ((s.takeQueued e.pa e.size).1.die d).resq = ((s.dies.find d).map (fun x => x.resq.filter (fun r =>
      !(decide (e.pa ≤ r.pa) && decide (r.pa < e.pa + e.size))))).getD [] := by
    show (Table.get Die.idle (s.dies.mapAll _) d).resq = _
    unfold Table.get
    rw [Table.find_mapAll]
    cases s.dies.find d <;> rfl
  rw [hdie] at hq
  cases hfind : s.dies.find d with
  | none =>
    rw [hfind] at hq
    exact absurd hq List.not_mem_nil
  | some x =>
    rw [hfind] at hq
    simpa [or_iff_not_imp_left] using (List.mem_filter.1 hq).2

/-- A repair for which no request is queued leaves memory as it is. -/
theorem State.replays_mem (hnone : ∀ d ∈ s.dies.cells, ∀ q ∈ d.2.resq, ¬ (e.pa ≤ q.pa ∧ q.pa < e.pa + e.size)) : (s.replays e).mem = s.mem := by
  have hempty : (s.takeQueued e.pa e.size).2 = [] := by
    refine List.eq_nil_iff_forall_not_mem.2 (fun q hq => ?_)
    obtain ⟨d, hd, hq⟩ := List.mem_flatMap.1 hq
    obtain ⟨hq, hin⟩ := List.mem_filter.1 hq
    exact hnone d hd q hq (by simpa using hin)
  unfold State.replays
  rw [hempty, List.foldl_nil, State.mem_of_unsent (State.Goes.pumpAll _).left, State.wakeFetch_frame]
  exact (State.mem_of_unsent (State.Goes.retryPage (s.takeQueued e.pa e.size).1 e).left :)

end

/-- The entry of the page as it reads afterwards, and the rest of memory. -/
theorem State.marked_spec {s : State} (hwf : Memory.wf s.mem = true) (a : Nat) : s.memKept (s.marked a) a 8
    ∧ memLe (s.marked a).mem 8 a = (if bit (memLe s.mem 8 a) 8 then memLe s.mem 8 a else memLe s.mem 8 a + 256) := by
  unfold State.marked
  split
  · exact ⟨fun _ _ => rfl, rfl⟩
  · next hbit =>
    refine ⟨fun b hb => memRead_memPut_other s.mem _ (by rwa [length_leBytes]), ?_⟩
    have hlt : memLe s.mem 8 a < 2 ^ 64 := Nat.lt_pow_two_of_testBit _ (fun j hj => by
      rw [testBit_memLe, decide_eq_false (by omega), Bool.false_and])
    have hzero : memLe s.mem 8 a / 2 ^ 8 % 2 ≠ 1 := by simpa [bit] using hbit
    show memLe (memPut s.mem a _) 8 a = _
    rw [memLe_memPut_leBytes hwf, Nat.mod_eq_of_lt (by omega)]

/-! ### A page declared fatal -/

section
variable {q : HomeReq} (hkind : q.kind = .load) (hcore : q.core < 4096) (code : FCode)
include hkind hcore

/-- Every queued load ends with the fault. -/
theorem State.mem_foldl_failHome {l : List HomeReq} (hq : q ∈ l) (s : State) :
    (s.now + 110, Instr.replyWrite q.core q.ctx q.tok (.fault code (BitVec.ofNat 64 q.va)))
      ∈ (l.foldl (fun (s : State) r => s.failHome r code) s).agenda := by
  induction l generalizing s with
  | nil => exact absurd hq List.not_mem_nil
  | cons r l ih =>
    rw [List.foldl_cons]
    rcases List.mem_cons.1 hq with rfl | hq
    · refine (State.Serves.foldl (fun t r => State.Serves.failHome t r code) l _).adds _ ?_
      have hfail : s.failHome q code = s.sched 110 (.replyWrite q.core q.ctx q.tok (.fault code (BitVec.ofNat 64 q.va))) := by
        unfold State.failHome
        rw [hkind]
        exact State.replyHome_inside hcore (by rw [hkind]; decide) _ _
      rw [hfail]
      exact s.mem_sched _ _
    · have h := ih hq (s.failHome r code)
      rwa [(State.Serves.failHome s r code).now] at h

end

/-- A page's queued requests end, and what else waited for it fails. -/
def State.condemns (s : State) (e : TlbE) (code : FCode) : State :=
  (((((s.takeQueued e.pa e.size).2.foldl (fun (s : State) r => s.failHome r code) (s.takeQueued e.pa e.size).1).failPage e code).failFetch e
    code)).pumpAll
theorem exec_residencyFatal {s : State} {space va : Nat} {e : TlbE} (protect : Bool) (hwalk : s.walk space va = some e) :
    exec (.residencyFatal space va protect) s = .next (s.condemns e (if protect then .protect else .translate)) := by
  have hpage : s.pageOf space va = e := by
    unfold State.pageOf
    rw [hwalk]
    rfl
  show execResidencyFatal space va protect s = _
  unfold execResidencyFatal
  dsimp only
  rw [hpage, hwalk]
  rfl
theorem State.condemns_load {s : State} {e : TlbE} {q : HomeReq} {d : Nat} (hq : q ∈ (s.die d).resq) (hlow : e.pa ≤ q.pa)
    (hhigh : q.pa < e.pa + e.size) (hkind : q.kind = .load) (hcore : q.core < 4096) (code : FCode) :
    (s.now + 110, Instr.replyWrite q.core q.ctx q.tok (.fault code (BitVec.ofNat 64 q.va))) ∈ (s.condemns e code).agenda := by
  have htaken : q ∈ (s.takeQueued e.pa e.size).2 := by
    cases hfind : s.dies.find d with
    | none =>
      unfold State.die Table.get at hq
      rw [hfind] at hq
      exact absurd hq List.not_mem_nil
    | some x =>
      unfold State.die Table.get at hq
      rw [hfind] at hq
      exact List.mem_flatMap.2 ⟨(d, x), Table.mem_of_findIn hfind, List.mem_filter.2 ⟨hq, by simp [hlow, hhigh]⟩⟩
  have hfail := State.mem_foldl_failHome hkind hcore code htaken (s.takeQueued e.pa e.size).1
  unfold State.condemns
  generalize List.foldl _ (s.takeQueued e.pa e.size).1 (s.takeQueued e.pa e.size).2 = t at *
  refine (State.Goes.pumpAll _).adds _ ?_
  rw [State.failFetch_agenda]
  exact (State.Goes.failPage t e code).adds _ hfail

/-! ### From outside -/

section
variable {s : State} {k : Fin 24} {r : HomeReq}

/-- A peer's request as its home receives it. -/
theorem exec_spanInboundRequest_goes (hhold : r.kind ≠ .hold) (hhrel : r.kind ≠ .hrel) (hon : s.spanEn.getLsbD k.val = true)
    (hlow : (Table.get (0, 0) s.spanin k.val).1 ≤ r.pa)
    (hhigh : r.pa < (Table.get (0, 0) s.spanin k.val).1 + (Table.get (0, 0) s.spanin k.val).2) (hhbm : r.pa < 0xC0_0000_0000) :
    exec (.spanInboundRequest k r) s = .next (s.sched 0 (.homeRequestArrival { r with core := 4096 + k.val, ctx := 0, res := true })) := by
  have hbit : s.spanEn.toNat / 2 ^ k.val % 2 = 1 := by simpa [BitVec.getLsbD, Nat.testBit_eq_decide_div_mod_eq] using hon
  show execSpanInboundRequest k r s = _
  unfold execSpanInboundRequest
  dsimp only
  split
  · next h => exact absurd h hhold
  · next h => exact absurd h hhrel
  · rw [if_pos ⟨hbit, hlow, hhigh, hhbm⟩]
    rfl
theorem exec_spanInboundRequest_ignored (h : s.spanEn.getLsbD k.val = false ∨ r.pa < (Table.get (0, 0) s.spanin k.val).1
    ∨ (Table.get (0, 0) s.spanin k.val).1 + (Table.get (0, 0) s.spanin k.val).2 ≤ r.pa ∨ 0xC0_0000_0000 ≤ r.pa) :
    exec (.spanInboundRequest k r) s = .next s := by
  have hbit : s.spanEn.getLsbD k.val = decide (s.spanEn.toNat / 2 ^ k.val % 2 = 1) := by
    simp [BitVec.getLsbD, Nat.testBit_eq_decide_div_mod_eq]
  have hoff : ¬ (s.spanEn.toNat / 2 ^ k.val % 2 = 1 ∧ (Table.get (0, 0) s.spanin k.val).1 ≤ r.pa
      ∧ r.pa < (Table.get (0, 0) s.spanin k.val).1 + (Table.get (0, 0) s.spanin k.val).2 ∧ r.pa < Config.hbmTop) := by
    rintro ⟨hon, hlow, hhigh, hhbm⟩
    have hhbm : r.pa < 0xC0_0000_0000 := hhbm
    rw [hbit, decide_eq_false_iff_not] at h
    omega
  show execSpanInboundRequest k r s = _
  unfold execSpanInboundRequest
  dsimp only
  split
  · rfl
  · rfl
  · rw [if_neg hoff]

end

section
variable {s : State} {c n tok len sz a : Nat} {dst : Reg} {signed : Bool} (hknown : ∃ p ∈ s.pcie, p.2.2.1 = tok)
  (hpark : (s.ctx c n).park = some (.result tok len (.load dst sz signed a (List.replicate sz none))))
include hknown hpark

theorem exec_pcieCompletion (bs : List Byte) : exec (.pcieCompletion c n tok bs) s =
    .next (({ s with pcie := s.pcie.filter (fun p => p.2.2.1 != tok) } : State).reply c n tok
      (if bs.length < sz then .fault .memErr (BitVec.ofNat 64 a) else .bytes (bs.take 32))) := by
  show execPcieCompletion c n tok bs s = _
  unfold execPcieCompletion State.endPcie State.loadNeeds State.parkVa
  dsimp only
  rw [if_pos (by simpa using hknown), hpark]
theorem exec_pcieCompletionTimeout : exec (.pcieCompletionTimeout c n tok) s =
    .next (({ s with pcie := s.pcie.filter (fun p => p.2.2.1 != tok) } : State).reply c n tok (.fault .memErr (BitVec.ofNat 64 a))) := by
  show execPcieCompletionTimeout c n tok s = _
  unfold execPcieCompletionTimeout State.endPcie State.parkVa
  rw [if_pos (by simpa using hknown), hpark]

end

/-! ### The obligation -/

/-- Settles O59: what serving and failing a page's requests leave, and the arms of what comes from outside. -/
theorem outsideEvents : Obligations.OutsideEvents := by
  intro s
  refine ⟨?_, ?_, ?_, ?_, ?_⟩
  · intro space va e a hwf hwalk hread
    refine ⟨_, exec_residencyRepair hwalk hread, State.replays_resq _ e, fun hnone => ?_⟩
    have hdies : ((s.marked a).unstale space va e).dies = s.dies := by
      show (s.marked a).dies = _
      unfold State.marked
      split <;> rfl
    have hmem := State.replays_mem (s := (s.marked a).unstale space va e) (e := e) (by rw [hdies]; exact hnone)
    obtain ⟨hkept, hentry⟩ := State.marked_spec hwf a
    exact ⟨fun b hb => (congrArg (memRead · b) hmem).trans (hkept b hb), (congrArg (memLe · 8 a) hmem).trans hentry⟩
  · intro space va protect e hwalk
    exact ⟨_, exec_residencyFatal protect hwalk, fun d q hq hlow hhigh hkind hcore => State.condemns_load hq hlow hhigh hkind hcore _⟩
  · intro k r
    exact ⟨exec_spanInboundRequest_goes, exec_spanInboundRequest_ignored⟩
  · intro c n tok len dst sz signed a bs hknown hpark
    have hexec := exec_pcieCompletion hknown hpark bs
    exact ⟨fun h => by rw [hexec, if_neg (Nat.not_lt.2 h)], fun h => by rw [hexec, if_pos h], exec_pcieCompletionTimeout hknown hpark⟩
  · intro key hkey
    refine ⟨_, rfl, rfl, fun w => ?_⟩
    rw [if_pos hkey, mem_insertNat]
    have halign : alignDown 8 key = key / 8 * 8 := by unfold alignDown; omega
    rw [halign]

end Sys2Proof.Machine
end

section
/-! PROOFS. The steward's registers (O60). -/

namespace Sys2Proof.Machine

section
variable (s : State) (k : Nat)

/-! ### The service queue -/

/-- A value put at a plain register of a context is what the register reads. -/
theorem State.putCtx_read {dst : Reg} (hdst : isPlainDst dst = true) (c n : Nat) (v : Word) :
    ((s.putCtx c n dst v).ctx c n).read dst = v ∧ s.putCtx c n dst v = { s with ctxs := (s.putCtx c n dst v).ctxs } := by
  rw [State.putCtx_plain hdst]
  refine ⟨?_, rfl⟩
  rw [State.ctx_modCtx_self, Ctx.shift_read _ _ (Ctx.plain_not_last hdst), Ctx.read_write _ _ _ _ (Ctx.plain_not_last hdst), if_pos ⟨rfl, hdst⟩]

variable {s k}

/-- SVCREQ pops the oldest request. -/
theorem svcreq_pops {r : SvcReq} {rs : List SvcReq} {dst : Reg} (hqueue : s.svcq = r :: rs) (hdst : isPlainDst dst = true) :
    ∃ t, exec (.svcreq k dst) s = .next t ∧ t.svcq = rs ∧ (t.steward k).popped = some r ∧ (t.steward k).svcarg = r.arg
      ∧ (t.ctx (2304 + k) 0).read dst = BitVec.ofNat 64 (svcWord r) ∧ t = { s with svcq := rs, stewards := t.stewards, ctxs := t.ctxs } := by
  have hexec : exec (.svcreq k dst) s = .next ((({ s with svcq := rs } : State).modSteward k (fun x => { x with
      popped := some r, svcarg := r.arg })).putCtx (2304 + k) 0 dst (BitVec.ofNat 64 (svcWord r))) := by
    show Host.Outcome.next (s.svcPop k dst) = _
    unfold State.svcPop
    rw [hqueue]
    rfl
  obtain ⟨hread, hframe⟩ := (({ s with svcq := rs } : State).modSteward k (fun x => { x with popped := some r, svcarg := r.arg })).putCtx_read hdst
    (2304 + k) 0 (BitVec.ofNat 64 (svcWord r))
  have hsteward : (({ s with svcq := rs } : State).modSteward k (fun x => { x with popped := some r, svcarg := r.arg })).steward k =
      { s.steward k with popped := some r, svcarg := r.arg } := Table.get_set_self ..
  generalize hu : ({ s with svcq := rs } : State).modSteward k (fun x => { x with popped := some r, svcarg := r.arg }) = u at *
  refine ⟨_, hexec, ?_, ?_, ?_, hread, ?_⟩
  · rw [hframe, ← hu]
    rfl
  · rw [hframe]
    exact congrArg Steward.popped hsteward
  · rw [hframe]
    exact congrArg Steward.svcarg hsteward
  · rw [hframe, ← hu]
    rfl
theorem svcreq_empty {dst : Reg} (hqueue : s.svcq = []) (hdst : isPlainDst dst = true) :
    ∃ t, exec (.svcreq k dst) s = .next t ∧ (t.ctx (2304 + k) 0).read dst = 0 ∧ t = { s with ctxs := t.ctxs } := by
  have hexec : exec (.svcreq k dst) s = .next (s.putCtx (2304 + k) 0 dst 0) := by
    show Host.Outcome.next (s.svcPop k dst) = _
    unfold State.svcPop
    rw [hqueue]
    rfl
  exact ⟨_, hexec, s.putCtx_read hdst (2304 + k) 0 0⟩
/-- SVCANS answers the request popped last. -/
theorem svcans_answers {r : SvcReq} (hpopped : (s.steward k).popped = some r) (v : Word) :
    ∃ t, exec (.svcans k v) s = .next t ∧ (t.steward k).popped = none
      ∧ (s.now + answerCycles r.core, Instr.trapAnswer r.core r.ctx v) ∈ t.agenda ∧ t = { s with stewards := t.stewards, agenda := t.agenda } := by
  have hexec : exec (.svcans k v) s =
      .next ((s.modSteward k (fun x => { x with popped := none })).sched (answerCycles r.core) (.trapAnswer r.core r.ctx v)) := by
    show Host.Outcome.next (s.svcAnswer k v) = _
    unfold State.svcAnswer
    rw [hpopped]
  exact ⟨_, hexec, congrArg Steward.popped (Table.get_set_self ..), State.mem_sched _ _ _, rfl⟩
/-- The answer is the result of the TRAP that waits. -/
theorem trapAnswer_ends {c n tok len : Nat} {dst : Reg} (hpark : (s.ctx c n).park = some (.result tok len (.answer dst)))
    (hdst : isPlainDst dst = true) (v : Word) :
    ∃ t, exec (.trapAnswer c n v) s = .next t ∧ (t.ctx c n).read dst = v ∧ (t.ctx c n).park = none
      ∧ (t.ctx c n).pc = (s.ctx c n).pc + BitVec.ofNat 64 len ∧ t.mem = s.mem := by
  have hexec : exec (.trapAnswer c n v) s = exec (.replyWrite c n tok (.word v)) s := by
    show Host.Outcome.next _ = Host.Outcome.next _
    rw [hpark]
  obtain ⟨hctx, -, -⟩ := State.putEnds_outcome (s := s) (c := c) (n := n) (len := len) hdst v
  obtain ⟨hread, -⟩ := (s.ctx c n).result_read v s.now len hdst
  refine ⟨_, hexec.trans (exec_replyWrite_ends hpark (by simp)), ?_⟩
  have hends : ((s.writeResult c n (.answer dst) (.word v)).modCtx c n (fun x => x.resumes s.now len)).ctx c n =
      (s.putEnds c n len dst v).ctx c n := rfl
  rw [hends, hctx]
  refine ⟨hread, rfl, ?_, ?_⟩
  · show ((s.ctx c n).write dst v).pc + _ = _
    rw [Ctx.write_pc]
  · show (s.putCtx c n dst v).mem = _
    rw [State.putCtx_plain hdst]
    rfl

/-! ### Switch-outs -/

/-- SWREQ begins the switch-out of a running team, at the next rotation boundary. -/
theorem swreq_begins {v : Word} {team : Nat} (hteam : s.runningTeam (fld v.toNat 41 32) (fld v.toNat 15 0) = some team) (hnone : s.switch = none) :
    ∃ t w due, exec (.swreq k v) s = .next t ∧ t.switch = some w ∧ w.team = team ∧ w.step = 1
      ∧ (due, Instr.preemptStopIssue team) ∈ t.agenda ∧ due % 16 = 0 ∧ t = { s with switch := t.switch, agenda := t.agenda } := by
  have hexec : ∃ w, exec (.swreq k v) s = .next (s.beginSwitch team w) := by
    show ∃ w, execSwreq k v s = .next (s.beginSwitch team w)
    unfold execSwreq
    rw [hteam]
    dsimp only
    rw [if_neg (by rw [hnone]; decide)]
    exact ⟨_, rfl⟩
  obtain ⟨w, hexec⟩ := hexec
  exact ⟨_, ⟨team, 1, s.now, 0, w⟩, s.now + (16 - s.now % 16) % 16, hexec, rfl, rfl, rfl,
    State.mem_sched { s with switch := some ⟨team, 1, s.now, 0, w⟩ } _ _, by omega, rfl⟩

/-! ### TLB invalidation -/

theorem State.oldAccess_dropTlb (s : State) (t : Nat) (all all' : Bool) (va va' : Nat) :
    (s.dropTlb all va).oldAccess t all' va' = s.oldAccess t all' va' := by
  unfold State.oldAccess State.dropTlb Table.mapAll
  dsimp only
  rw [List.any_map]
  rfl
/-- What is left of a TLB covers no byte of the page. -/
theorem mem_unhit {all : Bool} {va : Nat} {l : List TlbE} {e : TlbE}
    (he : e ∈ l.filter (fun e => !(all || (decide (e.va ≤ va) && decide (va < e.va + e.size))))) :
    all = false ∧ ¬ (e.va ≤ va ∧ va < e.va + e.size) := by
  have h := (List.mem_filter.1 he).2
  simp only [Bool.not_eq_true', Bool.or_eq_false_iff, ← Bool.decide_and, decide_eq_false_iff_not] at h
  exact h
theorem State.core_dropTlb (s : State) (all : Bool) (va c : Nat) :
    ∀ e ∈ ((s.dropTlb all va).core c).utlb, all = false ∧ ¬ (e.va ≤ va ∧ va < e.va + e.size) := by
  intro e he
  unfold State.core State.dropTlb Table.get at he
  rw [Table.find_mapAll] at he
  cases hfind : s.cores.find c with
  | none =>
    rw [hfind] at he
    exact absurd he List.not_mem_nil
  | some x =>
    rw [hfind] at he
    exact mem_unhit he
theorem State.cluster_dropTlb (s : State) (all : Bool) (va c : Nat) :
    ∀ e ∈ ((s.dropTlb all va).cluster c).tlb, all = false ∧ ¬ (e.va ≤ va ∧ va < e.va + e.size) := by
  intro e he
  unfold State.cluster State.dropTlb Table.get at he
  rw [Table.find_mapAll] at he
  cases hfind : s.clusters.find c with
  | none =>
    rw [hfind] at he
    exact absurd he List.not_mem_nil
  | some x =>
    rw [hfind] at he
    exact mem_unhit he
/-- TLBINV, where no earlier access of the page is awaited. -/
theorem exec_tlbinv {v : Word} (hinv : (s.steward k).inv = none) (hold : s.oldAccess s.tok (bit v.toNat 0) (fld v.toNat 51 16 * 65536) = false) :
    exec (.tlbinv k v) s = .next
      (((s.dropTlb (bit v.toNat 0) (fld v.toNat 51 16 * 65536)).modSteward k (fun x => { x with inv := none })).wakeSteward k) := by
  show execTlbinv k v s = _
  unfold execTlbinv
  simp only [hinv, Option.getD_none, Option.isNone_none, if_true, State.oldAccess_dropTlb, hold, Bool.false_eq_true, if_false]

/-! ### Registers of device scope -/

theorem State.slot_rooted (s : State) (sl root j : Nat) : (s.modSlot sl (fun x => { x with root := root })).slot j =
    if j = sl then { s.slot j with root := root } else s.slot j := by
  split
  · next hj =>
    subst hj
    exact State.slot_modSlot_self ..
  · next hj => exact State.slot_modSlot_other _ _ _ hj
theorem exec_slotroot {v : Word} (hroot : fld v.toNat 51 16 * 65536 < 0xC0_0000_0000) : exec (.slotroot k v) s =
    .next ((s.modSlot (fld v.toNat 63 54) (fun x => { x with root := fld v.toNat 51 16 * 65536 })).wakeSteward k) := by
  have hvalue : slotRootOf v = some (fld v.toNat 63 54, fld v.toNat 51 16 * 65536) := if_pos hroot
  show execSlotroot k v s = _
  unfold execSlotroot
  rw [hvalue]
theorem exec_slotroot_refused {v : Word} (hroot : 0xC0_0000_0000 ≤ fld v.toNat 51 16 * 65536) :
    exec (.slotroot k v) s = .next (s.refuseSteward k) := by
  have hvalue : slotRootOf v = none := if_neg (Nat.not_lt.2 hroot)
  show execSlotroot k v s = _
  unfold execSlotroot
  rw [hvalue]
theorem exec_spanin {v : Word} (hlink : fld v.toNat 4 0 ≤ 23) (hfits : fld v.toNat 47 28 = 0 ∨ fld v.toNat 27 8 + fld v.toNat 47 28 ≤ 752) :
    exec (.spanin k v) s = .next (({ s with
      spanin := s.spanin.set (fld v.toNat 4 0) (fld v.toNat 27 8 * 2 ^ 30, fld v.toNat 47 28 * 2 ^ 30) } : State).wakeSteward k) := by
  have hvalue : spaninOf v = some (fld v.toNat 4 0, fld v.toNat 27 8 * 2 ^ 30, fld v.toNat 47 28 * 2 ^ 30) := if_neg (by omega)
  show execSpanin k v s = _
  unfold execSpanin
  rw [hvalue]
theorem exec_spanin_refused {v : Word} (h : 23 < fld v.toNat 4 0 ∨ (fld v.toNat 47 28 ≠ 0 ∧ 752 < fld v.toNat 27 8 + fld v.toNat 47 28)) :
    exec (.spanin k v) s = .next (s.refuseSteward k) := by
  have hvalue : spaninOf v = none := if_pos h
  show execSpanin k v s = _
  unfold execSpanin
  rw [hvalue]
theorem exec_escwait {v : Word} (hlow : 16 ≤ fld v.toNat 12 0) (hhigh : fld v.toNat 12 0 ≤ 4096) :
    exec (.escwait k v) s = .next (({ s with escwait := fld v.toNat 12 0 } : State).wakeSteward k) := by
  have hvalue : escwaitOf v = some (fld v.toNat 12 0) := if_pos ⟨hlow, hhigh⟩
  show execEscwait k v s = _
  unfold execEscwait
  rw [hvalue]
theorem exec_escwait_refused {v : Word} (h : fld v.toNat 12 0 < 16 ∨ 4096 < fld v.toNat 12 0) :
    exec (.escwait k v) s = .next (s.refuseSteward k) := by
  have hvalue : escwaitOf v = none := if_neg (by omega)
  show execEscwait k v s = _
  unfold execEscwait
  rw [hvalue]

end

/-! ### The obligation -/

/-- Settles O60: each register by what its event sets; the end of the steward's write changes its context alone. -/
theorem stewardEvents : Obligations.StewardEvents := by
  intro s k v
  refine ⟨fun r rs dst => svcreq_pops, fun dst => svcreq_empty, fun r hpopped => svcans_answers hpopped v,
    fun c n tok len dst hpark hdst => trapAnswer_ends hpark hdst v, fun team => swreq_begins, ?_, ⟨?_, exec_slotroot_refused⟩,
    ⟨?_, exec_spanin_refused⟩, ⟨?_, exec_escwait_refused⟩⟩
  · intro all va hinv hold
    refine ⟨_, exec_tlbinv hinv hold, ?_⟩
    rw [State.wakeSteward_frame]
    exact ⟨rfl, s.core_dropTlb all va, s.cluster_dropTlb all va⟩
  · intro hroot
    refine ⟨_, exec_slotroot hroot, ?_⟩
    rw [State.wakeSteward_frame]
    exact ⟨fun j => s.slot_rooted _ _ j, rfl⟩
  · intro hlink hfits
    refine ⟨_, exec_spanin hlink hfits, ?_⟩
    rw [State.wakeSteward_frame]
    exact ⟨rfl, fun j => Table.get_set _ _ _ _ _⟩
  · intro hlow hhigh
    refine ⟨_, exec_escwait hlow hhigh, ?_⟩
    rw [State.wakeSteward_frame]
    exact ⟨rfl, rfl⟩

end Sys2Proof.Machine
end

section
/-! PROOFS. The spec's worked decodings, and what reset leaves (O1, O4). -/

namespace Sys2Proof

/-! ### Worked decodings -/

/-- Where a bundle lies in its fetch block matters only for whether it crosses the block's end. -/
theorem decodeBundle_whole {w off : Nat} {sh : Shape} (st : Bool) (hshape : decShape w = .ok sh) (hwhole : off + sh.bytes ≤ 32) :
    decodeBundle st off w = decodeBundle st 0 w := by
  unfold decodeBundle
  rw [hshape]
  simp only [bind, Except.bind, if_neg (Nat.not_lt.2 hwhole), if_neg (show ¬ 32 < 0 + sh.bytes by omega)]
theorem decodeBundle_cross {w off : Nat} {sh : Shape} (st : Bool) (hshape : decShape w = .ok sh) (hpos : (fld w 5 5 == 1) = false)
    (hcross : 32 < off + sh.bytes) : decodeBundle st off w = .error .cross := by
  unfold decodeBundle
  rw [hshape]
  simp only [bind, Except.bind, hpos, if_pos hcross]
  rfl
/-- The S slot of the worked refusal of a long form, with any extension. -/
theorem bundleS_extended (e : Nat) :
    bundleS .b96s (0x0000_0009_0000_3801 + 2 ^ 64 * e) = ⟨0x38, 0, 0, 0, 9, some (fld (0x0000_0009_0000_3801 + 2 ^ 64 * e) 95 64)⟩ := by
  unfold bundleS
  rw [fld_add_mul (by decide)]
  rfl
theorem decodeBundle_extended (e : Nat) : decodeBundle false 0 (0x0000_0009_0000_3801 + 2 ^ 64 * e) = .error (.illegal 0x05 1 32) := by
  have hshape : decShape (0x0000_0009_0000_3801 + 2 ^ 64 * e) = .ok .b96s :=
    (decShape_congr (fld_add_mul (by decide) ..) (fld_add_mul (by decide) ..)).trans (by decide)
  have hpos : fld (0x0000_0009_0000_3801 + 2 ^ 64 * e) 5 5 = 0 := (fld_add_mul (by decide) ..).trans (by decide)
  unfold decodeBundle
  rw [hshape]
  simp only [bind, Except.bind, hpos, bundleS_extended]
  rfl

/-- Settles O1: each word decodes as the spec says, wherever it lies whole. -/
theorem decodeRight : Obligations.DecodeRight := by
  refine ⟨fun off h => ?_, fun off h => ?_, fun off h => ?_, by decide +kernel, by decide +kernel, by decide +kernel, by decide +kernel,
    fun e _ => decodeBundle_extended e, by decide +kernel, by decide +kernel, by decide +kernel⟩
  · rw [decodeBundle_whole (sh := .b96s) false (by decide) h]
    decide +kernel
  · rw [decodeBundle_whole (sh := .b128) false (by decide) h]
    decide +kernel
  · exact decodeBundle_cross (sh := .b128) false (by decide) (by decide) h

end Sys2Proof

namespace Sys2Proof.Machine

/-- Settles O4: the reset state's tables hold nothing, so that each read gives its idle value. -/
theorem resetValues : Obligations.ResetValues := by
  refine ⟨rfl, rfl, rfl, rfl, rfl, fun _ => rfl, rfl, rfl, rfl, rfl, rfl, fun _ => rfl, fun c n => ⟨rfl, fun r => ?_, fun _ => rfl, fun k => ?_,
    rfl, rfl, rfl⟩, fun _ => rfl, fun _ => rfl, rfl, Tests.witness_StepKeepsInv.1⟩
  · cases r with
    | w k =>
      show (Ctx.idle.readW k.val) = 0
      revert k
      decide
    | _ => rfl
  · show Ctx.idle.readP k = (k == 0)
    revert k
    decide

end Sys2Proof.Machine
end

section
/-! PROOFS. The invariant of O5: what it asks of memory, of the table of contexts and of the teams, and the updates of one unit that
keep it. -/

namespace Sys2Proof
variable {α : Type} {p : α → Prop} {t : Table α}

/-- Every entry of a table has a property. -/
def Table.All (p : α → Prop) (t : Table α) : Prop := ∀ x ∈ t.cells, p x.2

theorem Table.All.empty : (Table.empty : Table α).All p := fun _ h => absurd h List.not_mem_nil
theorem Table.All.putIn {l : List (Nat × α)} (h : ∀ x ∈ l, p x.2) (k : Nat) {v : α} (hv : p v) : ∀ x ∈ Table.putIn k v l, p x.2 := by
  induction l with
  | nil => exact List.forall_mem_singleton.2 hv
  | cons c cs ih =>
    obtain ⟨hc, hcs⟩ := List.forall_mem_cons.1 h
    unfold Table.putIn
    split
    · exact List.forall_mem_cons.2 ⟨hv, hcs⟩
    · split
      · exact List.forall_mem_cons.2 ⟨hv, h⟩
      · exact List.forall_mem_cons.2 ⟨hc, ih hcs⟩
theorem Table.All.set (h : t.All p) {k : Nat} {v : α} (hv : p v) : (t.set k v).All p := Table.All.putIn h k hv
theorem Table.All.filter (h : t.All p) {q : Nat × α → Bool} : Table.All p ⟨t.cells.filter q⟩ := fun x hx => h x (List.mem_filter.1 hx).1
theorem Table.All.erase (h : t.All p) {k : Nat} : (t.erase k).All p := h.filter
theorem Table.All.mapAll (h : t.All p) {f : Nat → α → α} (hf : ∀ k x, p x → p (f k x)) : (t.mapAll f).All p := by
  intro x hx
  obtain ⟨c, hc, rfl⟩ := List.mem_map.1 hx
  exact hf c.1 c.2 (h c hc)
theorem Table.All.find (h : t.All p) {k : Nat} {v : α} (hv : t.find k = some v) : p v := h (k, v) (Machine.Table.mem_of_findIn hv)
theorem Table.All.get (h : t.All p) {d : α} (hd : p d) (k : Nat) : p (Table.get d t k) := by
  unfold Table.get
  cases hfind : t.find k with
  | none => exact hd
  | some v => exact h.find hfind

end Sys2Proof

namespace Sys2Proof.Machine
-- One theorem at a time: Lean evaluates the rules' default arguments on a thread of its own for each theorem that waits for them.
set_option Elab.async false

theorem memory_wf_ite {p : Prop} [Decidable p] {m n : List Host.Cell} (hm : Memory.wf m = true) (hn : Memory.wf n = true) :
    Memory.wf (if p then m else n) = true := by
  split
  · exact hm
  · exact hn

/-! ### Contexts and teams -/

/-- The contexts that a team's context area holds are well nested. -/
def Team.nested (u : Team) : Prop := ∀ x ∈ u.savedCtx, x.2.nested

theorem Team.nested.ite {p : Prop} [Decidable p] {u v : Team} (hu : u.nested) (hv : v.nested) : (if p then u else v).nested := by
  split
  · exact hu
  · exact hv

namespace Ctx.nested
variable {x : Ctx}

theorem idle : Ctx.idle.nested := Nat.le_refl 0
theorem start {pc : Word} {r : Nat} : (Ctx.start pc r).nested := Nat.le_refl 0
/-- What leaves the trap depth and the openers as they are leaves a context well nested. -/
theorem keep (h : x.nested) {y : Ctx} (ht : y.trapDepth = x.trapDepth) (ho : y.openers = x.openers) : y.nested := by
  unfold Ctx.nested
  rwa [ht, ho]
theorem ite {p : Prop} [Decidable p] {y : Ctx} (hx : x.nested) (hy : y.nested) : (if p then x else y).nested := by
  split
  · exact hx
  · exact hy
theorem readyAt (h : x.nested) {r : Nat} : ({ x with readyAt := r } : Ctx).nested := h
theorem write (h : x.nested) {r : Reg} {v : Word} : (x.write r v).nested := h.keep (by simp) (by simp)
theorem writeW (h : x.nested) {r : Nat} {v : Word} : (x.writeW r v).nested := h.keep (by simp) (by simp)
theorem writeP (h : x.nested) {k : Fin 8} {b : Bool} : (x.writeP k b).nested := h.keep (by simp) (by simp)
theorem writeM (h : x.nested) {k : Fin 8} {v : Lane} : (x.writeM k v).nested := h.keep (by simp) (by simp)
theorem writeV (h : x.nested) {k : Fin 16} {v : VWord} : (x.writeV k v).nested := h
theorem raise (h : x.nested) {f : Flags} : (x.raise f).nested := h
theorem shift (h : x.nested) {v : Word} : (x.shift v).nested := h
theorem addPend (h : x.nested) {r : Reg} {t : Nat} {b : Bool} : (x.addPend r t b).nested := h.keep (by simp) (by simp)
theorem movePend (h : x.nested) {f : Nat → Nat → Option PLoc} : (x.movePend f).nested := h
theorem writeLoc (h : x.nested) {p : PLoc} {v : Word} : (x.writeLoc p v).nested := by
  unfold Ctx.writeLoc
  split
  · exact h
  · exact h
  · split
    · exact h
    · split <;> exact h
  · exact h
/-- A window opens: its opener may add to the traps the windows show, and takes none away. -/
theorem openWindow (h : x.nested) {op : Opener} : (x.openWindow op).nested := by
  unfold Ctx.nested
  rw [Ctx.openWindow_trapDepth, Ctx.openWindow_openers]
  exact Nat.le_trans h (List.count_le_count_cons)
/-- A window that no trap entry opened closes. -/
theorem closeWindow (h : x.nested) (hop : x.openers.head? ≠ some .trap) : x.closeWindow.nested := by
  unfold Ctx.nested at h ⊢
  rw [Ctx.closeWindow_trapDepth, Ctx.closeWindow_openers]
  cases hx : x.openers with
  | nil => simpa [hx] using h
  | cons op ops =>
    rw [hx] at h hop
    have hne : op ≠ .trap := fun e => hop (congrArg some e)
    rwa [List.count_cons_of_ne hne] at h
/-- A trap's window opens with the trap counted. -/
theorem enterTrap (h : x.nested) {a : Word} {code : FCode} {w1 w2 w3 : Word} : (x.enterTrap a code w1 w2 w3).nested := by
  have hentered := x.entered_enterTrap a code w1 w2 w3
  unfold Ctx.nested
  rw [hentered.trapDepth, hentered.openers, List.count_cons_self]
  exact Nat.succ_le_succ h
/-- A trap's window closes with the trap no longer counted. -/
theorem leaveTrap (h : x.nested) : x.leaveTrap.nested := by
  unfold Ctx.nested at h ⊢
  rw [Ctx.leaveTrap_trapDepth, Ctx.leaveTrap_openers]
  cases hx : x.openers with
  | nil => rw [hx] at h; exact Nat.le_trans (Nat.sub_le _ _) h
  | cons op ops =>
    rw [hx, List.count_cons] at h
    rw [List.tail_cons]
    split at h <;> omega
theorem mPut (h : x.nested) {md mask : Fin 8} {r : Lane} : (x.mPut md mask r).nested := h.writeM
theorem abandon (h : x.nested) : x.abandon.nested := by
  unfold Ctx.abandon
  split <;> exact h
theorem enterLight (h : x.nested) {a : Word} {d : Dir} {v : Word} : (x.enterLight a d v).nested := by
  have hwritten := (((h.openWindow (op := .light)).writeW (r := 0) (v := v)).writeW (r := 1) (v := BitVec.ofNat 64 (dirNum d))).writeW
    (r := 8) (v := x.pc)
  unfold Ctx.enterLight
  dsimp only
  generalize (((x.openWindow .light).writeW 0 v).writeW 1 (BitVec.ofNat 64 (dirNum d))).writeW 8 x.pc = y at *
  exact hwritten

end Ctx.nested

namespace State.Inv
variable {s t : State} {c n k : Nat}

theorem wf (h : s.Inv) : Memory.wf s.mem = true := h.1
theorem ctxs (h : s.Inv) : s.ctxs.All Ctx.nested := h.2.1
theorem teams (h : s.Inv) : s.teams.All Team.nested := h.2.2
theorem ctx (h : s.Inv) (c n : Nat) : (s.ctx c n).nested := h.ctxs.get Ctx.nested.idle _
theorem me (h : s.Inv) : s.me.nested := h.ctx _ _
theorem of (hm : Memory.wf s.mem = true) (hc : s.ctxs.All Ctx.nested) (ht : s.teams.All Team.nested) : s.Inv := ⟨hm, hc, ht⟩
/-- What leaves memory, the table of contexts and the teams as they are keeps the invariant. -/
theorem keep (h : s.Inv) (hm : t.mem = s.mem := by rfl) (hc : t.ctxs = s.ctxs := by rfl) (ht : t.teams = s.teams := by rfl) : t.Inv := by
  unfold State.Inv
  rwa [hm, hc, ht]

/-! ### Choices and folds -/

theorem ite {p : Prop} [Decidable p] (hs : s.Inv) (ht : t.Inv) : (if p then s else t).Inv := by
  split
  · exact hs
  · exact ht
theorem elim {α : Type} {o : Option α} {f : α → State} (hn : s.Inv) (hs : ∀ a, (f a).Inv) : (o.elim s f).Inv := by
  cases o with
  | none => exact hn
  | some a => exact hs a
theorem foldl {α : Type} {l : List α} {f : State → α → State} (h : s.Inv) (hf : ∀ t a, t.Inv → (f t a).Inv) : (l.foldl f s).Inv :=
  List.foldlRecOn l f h (fun t ht a _ => hf t a ht)

/-! ### One unit -/

theorem setCtx (h : s.Inv) {x : Ctx} (hx : x.nested) : (s.setCtx c n x).Inv := of h.wf (h.ctxs.set hx) h.teams
theorem modCtx (h : s.Inv) {f : Ctx → Ctx} (hf : ∀ x, x.nested → (f x).nested := by exact fun _ h => h) : (s.modCtx c n f).Inv :=
  h.setCtx (hf _ (h.ctx c n))
theorem modMe (h : s.Inv) {f : Ctx → Ctx} (hf : ∀ x, x.nested → (f x).nested := by exact fun _ h => h) : (s.modMe f).Inv := h.modCtx hf
theorem setCtxs (h : s.Inv) {x : Table Ctx} (hx : s.ctxs.All Ctx.nested → x.All Ctx.nested) : ({ s with ctxs := x } : State).Inv :=
  of h.wf (hx h.ctxs) h.teams
theorem setTeams (h : s.Inv) {x : Table Team} (hx : s.teams.All Team.nested → x.All Team.nested) : ({ s with teams := x } : State).Inv :=
  of h.wf h.ctxs (hx h.teams)
/-- Memory written and nothing else of the three changed. -/
theorem write (h : s.Inv) (hm : Memory.wf t.mem = true) (hc : t.ctxs = s.ctxs := by rfl) (ht : t.teams = s.teams := by rfl) : t.Inv :=
  of hm (hc ▸ h.ctxs) (ht ▸ h.teams)
theorem modTeam (h : s.Inv) {f : Team → Team} (hf : ∀ u, u.nested → (f u).nested := by exact fun _ h => h) : (s.modTeam k f).Inv := by
  unfold State.modTeam
  split
  next u hu => exact of h.wf h.ctxs (h.teams.set (hf u (h.teams.find hu)))
  next => exact h

end State.Inv

/-! ### What an operation or a step comes to -/

/-- An operation's effect keeps the invariant of every state it acts on. -/
def Eff.Sound : Eff → Prop
  | .ok f | .wait _ f | .deliver f .. => ∀ s, s.Inv → (f s).Inv
  | .trap .. => True
/-- The same of the states at hand: the one an operation runs in, and the one with its operands taken. -/
def Eff.SoundAt (s t : State) : Eff → Prop
  | .ok f => (f t).Inv
  | .wait _ f | .deliver f .. => (f s).Inv
  | .trap .. => True
theorem Eff.Sound.at {e : Eff} (he : e.Sound) {s t : State} (hs : s.Inv) (ht : t.Inv) : e.SoundAt s t := by
  cases e with
  | ok f => exact he t ht
  | trap => trivial
  | wait w f => exact he s hs
  | deliver f => exact he s hs
/-- What a step goes on to, if to any state, keeps the invariant. -/
def Res.Sound : Res → Prop
  | .next t => t.Inv
  | .fault _ | .refused _ => True

/-- The state a sound step goes on to keeps the invariant. -/
theorem Res.Sound.next {r : Res} (hr : r.Sound) {t : State} (h : r = .next t) : t.Inv := by
  subst h
  exact hr

theorem Eff.Sound.ite {p : Prop} [Decidable p] {e f : Eff} (he : e.Sound) (hf : f.Sound) : (if p then e else f).Sound := by
  split
  · exact he
  · exact hf
theorem Res.Sound.ite {p : Prop} [Decidable p] {r q : Res} (hr : r.Sound) (hq : q.Sound) : Res.Sound (if p then r else q) := by
  split
  · exact hr
  · exact hq

end Sys2Proof.Machine
end

section
/-! PROOFS. The invariant of O5, kept by every operation of its own: contexts, queues, operands, the fabric and the homes' buffers. -/

namespace Sys2Proof.Machine
-- One theorem at a time: Lean evaluates the rules' default arguments on a thread of its own for each theorem that waits for them.
set_option Elab.async false
variable {s t : State}

theorem State.Inv.store (h : s.Inv) {cell : Nat} {bs : List Byte} : (s.store cell bs).Inv := h.write (memory_wf_memPut h.wf _ _)
theorem State.Inv.setCore (h : s.Inv) {c : Nat} {x : Core} : (s.setCore c x).Inv := h.keep
theorem State.Inv.modCore (h : s.Inv) {c : Nat} {f : Core → Core} : (s.modCore c f).Inv := h.setCore
theorem State.Inv.setEng (h : s.Inv) {l : Nat} {x : Engine} : (s.setEng l x).Inv := h.keep
theorem State.Inv.modEng (h : s.Inv) {l : Nat} {f : Engine → Engine} : (s.modEng l f).Inv := h.setEng
theorem State.Inv.modCluster (h : s.Inv) {k : Nat} {f : Cluster → Cluster} : (s.modCluster k f).Inv := h.keep
theorem State.Inv.modDie (h : s.Inv) {d : Nat} {f : Die → Die} : (s.modDie d f).Inv := h.keep
theorem State.Inv.modChan (h : s.Inv) {k : Nat} {f : HbmChan → HbmChan} : (s.modChan k f).Inv := h.keep
theorem State.Inv.modRouter (h : s.Inv) {k : Nat} {f : Router → Router} : (s.modRouter k f).Inv := h.keep
theorem State.Inv.modSteward (h : s.Inv) {k : Nat} {f : Steward → Steward} : (s.modSteward k f).Inv := h.keep
theorem State.Inv.modSlot (h : s.Inv) {k : Nat} {f : Slot → Slot} : (s.modSlot k f).Inv := h.keep
theorem State.Inv.sched (h : s.Inv) {delay : Nat} {i : Instr} : (s.sched delay i).Inv := h.keep
theorem State.Inv.newTok (h : s.Inv) : s.newTok.Inv := h.keep
theorem State.Inv.spend (h : s.Inv) {n : Nat} : (s.spend n).Inv := .ite h h.keep
theorem State.Inv.modSide (h : s.Inv) {c k : Nat} {f : Core → Core} : (s.modSide c k f).Inv := by
  unfold State.modSide
  split
  · exact .ite h.modTeam h.modCore
  · exact h.modCore

theorem State.Inv.spillWindow (h : s.Inv) {c n k : Nat} : (s.spillWindow c n k).Inv :=
  (h.write (memory_wf_ite (memory_wf_memPut (memory_wf_memPut (memory_wf_memPut h.wf _ _) _ _) _ _) (memory_wf_memPut (memory_wf_memPut h.wf _ _) _
    _))).setCtx (h.ctx _ _)

theorem State.Inv.refillWindow (h : s.Inv) {c n k : Nat} : (s.refillWindow c n k).Inv := h.setCtx (h.ctx _ _)
theorem State.Inv.complete (h : s.Inv) {c n tok : Nat} {v : Word} : (s.complete c n tok v).Inv := by
  unfold State.complete
  dsimp only
  split
  · exact h.setCtx (h.ctx _ _).writeLoc
  · exact h.setTeams (fun h => h.mapAll (fun _ _ h => .ite h h))

theorem State.Inv.park (h : s.Inv) {c n : Nat} {p : Park} : (s.park c n p).Inv := h.modCtx
theorem State.Inv.wake (h : s.Inv) {c n : Nat} : (s.wake c n).Inv := h.modCtx
theorem State.Inv.haltTeam (h : s.Inv) {c n : Nat} {code : FCode} {w1 w2 w3 : Word} : (s.haltTeam c n code w1 w2 w3).Inv := by
  unfold State.haltTeam
  refine .ite h.keep.modCtx ?_
  split
  · exact h.modCtx
  · exact (h.modTeam.foldl (fun _ _ h => h.modEng)).setCtxs (fun h => h.mapAll (fun _ _ h => .ite h h))

theorem State.Inv.trap (h : s.Inv) {c n : Nat} {code : FCode} {w1 w2 w3 : Word} : (s.trap c n code w1 w2 w3).Inv := by
  unfold State.trap
  extract_lets x r
  have hr : r.Inv := h.keep
  refine .ite hr.haltTeam (.ite hr.haltTeam ?_)
  split
  · exact hr.haltTeam
  · split
    · exact hr.setCtx (h.ctx _ _).enterTrap.readyAt
    · exact hr.setCtx (h.ctx _ _).enterTrap.readyAt
    · exact hr.park
    · exact hr.park

theorem State.Inv.fault (h : s.Inv) {code : FCode} {w2 w3 : Word} : (s.fault code w2 w3).Inv := h.trap
theorem State.Inv.advance (h : s.Inv) : s.advance.Inv := h.modMe
theorem State.Inv.jump (h : s.Inv) {t : Word} : (s.jump t).Inv := h.modMe
theorem State.Inv.useClusterTlb (h : s.Inv) {c : Nat} {e : TlbE} : (s.useClusterTlb c e).Inv := h.modCluster
theorem State.Inv.useTlb (h : s.Inv) {c : Nat} {e : TlbE} : (s.useTlb c e).Inv := (State.Inv.ite h h.modCore).useClusterTlb
theorem State.Inv.startWalk (h : s.Inv) {c n va : Nat} : (s.startWalk c n va).Inv := .ite h.modDie.sched h.modDie
theorem State.Inv.cacheFill (h : s.Inv) {c : Nat} {l : RLine} : (s.cacheFill c l).Inv := h.modCluster
theorem State.Inv.cacheDrop (h : s.Inv) {c pa : Nat} : (s.cacheDrop c pa).Inv := h.modCluster.modChan
theorem State.Inv.cacheDropRange (h : s.Inv) {c base len : Nat} : (s.cacheDropRange c base len).Inv := h.keep
theorem State.Inv.cacheDropAll (h : s.Inv) {c : Nat} : (s.cacheDropAll c).Inv := h.keep
theorem State.Inv.popQ (h : s.Inv) {c : Nat} {d : Dir} : (s.popQ c d).Inv := h.modCore.sched
theorem State.Inv.spendQ (h : s.Inv) {c : Nat} {d : Dir} : (s.spendQ c d).Inv := h.modCore
theorem State.Inv.pushQ (h : s.Inv) {c : Nat} {d : Dir} {e : QEnt} : (s.pushQ c d e).Inv := h.modSide.sched
theorem State.Inv.lightCall (h : s.Inv) {c n : Nat} {d : Dir} : (s.lightCall c n d).Inv := by
  unfold State.lightCall
  extract_lets x k r q
  have hr : r.Inv := h.keep
  split
  · exact h
  · refine .ite hr.trap (.ite hr.trap (.ite hr.park ?_))
    split
    · exact hr.popQ.setCtx (h.ctx _ _).enterLight.readyAt
    · exact hr.popQ.setCtx (h.ctx _ _).enterLight.readyAt
    · exact hr.popQ.park
    · exact hr.popQ.park

theorem State.Inv.wait (h : s.Inv) {w : Wait} : (s.wait w).Inv := h.keep.park
theorem State.Inv.putCtx (h : s.Inv) {c n : Nat} {dst : Reg} {v : Word} : (s.putCtx c n dst v).Inv := by
  unfold State.putCtx
  dsimp only
  split
  · exact h.modCtx.pushQ
  · exact h.modCtx (fun _ h => h.write.shift)

theorem State.Inv.put (h : s.Inv) {dst : Reg} {v : Word} : (s.put dst v).Inv := h.putCtx
theorem State.Inv.taken (h : s.Inv) {srcs : List Reg} {dst : Option Reg} : (s.taken srcs dst).Inv :=
  (h.foldl (fun _ _ h => h.popQ)).foldl (fun _ _ h => h.spendQ)

/-- The operation's body is met with the values of its sources, and acts with its operands taken. -/
theorem State.Inv.runOp_of (h : s.Inv) {srcs : List Reg} {dst : Option Reg} {body : List Word → Eff}
    (hbody : (body (srcs.map s.srcVal)).SoundAt s (s.taken srcs dst)) : (s.runOp srcs dst body).Inv := by
  unfold State.runOp
  generalize body (srcs.map s.srcVal) = e at hbody
  dsimp only
  split
  · split
    · exact h.modMe.fault
    · exact h.wait
  · refine .ite h.fault ?_
    split
    · exact h.fault
    · split
      · exact h.lightCall
      · refine .ite h.wait (.ite h.fault ?_)
        cases e with
        | trap => exact h.fault
        | wait w f => exact State.Inv.wait hbody
        | deliver f => exact State.Inv.fault hbody
        | ok f => exact hbody

theorem State.Inv.runOp (h : s.Inv) {srcs : List Reg} {dst : Option Reg} {body : List Word → Eff} (hf : ∀ vs, (body vs).Sound) :
    (s.runOp srcs dst body).Inv := h.runOp_of ((hf _).at h h.taken)

theorem State.Inv.runPut (h : s.Inv) {srcs : List Reg} {dst : Reg} {f : List Word → Word} : (s.runPut srcs dst f).Inv :=
  h.runOp (fun _ => fun _ h => h.put.advance)

theorem State.Inv.parkResult (h : s.Inv) {r : Result} : (s.parkResult r).Inv := h.park.newTok
theorem State.Inv.alu (h : s.Inv) {x : AluOps} {op : Nat → Nat → Nat → Nat} : (s.alu x op).Inv := h.runPut
theorem State.Inv.alu1 (h : s.Inv) {x : UnOps} {op : Nat → Nat → Nat} : (s.alu1 x op).Inv := h.runPut
theorem State.Inv.execNop (h : s.Inv) : (execNop s).Sound := h.advance
theorem State.Inv.execAdd (h : s.Inv) {x : AluOps} : (execAdd x s).Sound := h.alu
theorem State.Inv.execSub (h : s.Inv) {x : AluOps} : (execSub x s).Sound := h.alu
theorem State.Inv.execMul (h : s.Inv) {x : AluOps} : (execMul x s).Sound := h.alu
theorem State.Inv.execMulh (h : s.Inv) {k : MulhKind} {x : AluOps} : (execMulh k x s).Sound := h.alu
theorem State.Inv.execAnd (h : s.Inv) {x : AluOps} : (execAnd x s).Sound := h.alu
theorem State.Inv.execOr (h : s.Inv) {x : AluOps} : (execOr x s).Sound := h.alu
theorem State.Inv.execXor (h : s.Inv) {x : AluOps} : (execXor x s).Sound := h.alu
theorem State.Inv.execShl (h : s.Inv) {x : AluOps} : (execShl x s).Sound := h.alu
theorem State.Inv.execShr (h : s.Inv) {x : AluOps} : (execShr x s).Sound := h.alu
theorem State.Inv.execSra (h : s.Inv) {x : AluOps} : (execSra x s).Sound := h.alu
theorem State.Inv.execRot (h : s.Inv) {x : AluOps} : (execRot x s).Sound := h.alu
theorem State.Inv.execMin (h : s.Inv) {u : Bool} {x : AluOps} : (execMin u x s).Sound := h.alu
theorem State.Inv.execMax (h : s.Inv) {u : Bool} {x : AluOps} : (execMax u x s).Sound := h.alu
theorem State.Inv.execClz (h : s.Inv) {x : UnOps} : (execClz x s).Sound := h.alu1
theorem State.Inv.execPopc (h : s.Inv) {x : UnOps} : (execPopc x s).Sound := h.alu1
theorem State.Inv.execMov (h : s.Inv) {x : UnOps} : (execMov x s).Sound := h.alu1
theorem State.Inv.divOp (h : s.Inv) {x : AluOps} {u : Bool} {op : Nat → Nat → Nat → Nat} : (s.divOp x u op).Inv :=
  h.runOp (fun _ => fun _ h => h.sched.parkResult)

theorem State.Inv.execDiv (h : s.Inv) {u : Bool} {x : AluOps} : (execDiv u x s).Sound := h.divOp
theorem State.Inv.execRem (h : s.Inv) {u : Bool} {x : AluOps} : (execRem u x s).Sound := h.divOp
theorem State.Inv.execLtab (h : s.Inv) {w32 : Bool} {dst a b : Reg} {tbl : BitVec 8} : (execLtab w32 dst a b tbl s).Sound := h.runPut
theorem State.Inv.execFsh (h : s.Inv) {w32 : Bool} {dst a b : Reg} {sh : BitVec 6} : (execFsh w32 dst a b sh s).Sound := h.runPut
theorem State.Inv.execBfx (h : s.Inv) {sx : Bool} {dst a : Reg} {pos len : BitVec 6} : (execBfx sx dst a pos len s).Sound := h.runPut
theorem State.Inv.execBfi (h : s.Inv) {dst a b : Reg} {pos len : BitVec 6} : (execBfi dst a b pos len s).Sound := h.runPut
theorem State.Inv.execCmp (h : s.Inv) {u : Bool} {c : Cond} {pd : Fin 8} {w32 : Bool} {a : Reg} {b : Src2} : (execCmp u c pd w32 a b s).Sound :=
  h.runOp (fun _ => fun _ h => (h.modMe (fun _ h => h.writeP)).advance)

theorem State.Inv.execSel (h : s.Inv) {inv : Bool} {p : Fin 8} {dst a b : Reg} : (execSel inv p dst a b s).Sound := h.runPut
theorem State.Inv.execLi (h : s.Inv) {dst : Reg} {imm : BitVec 32} : (execLi dst imm s).Sound := h.runPut
theorem State.Inv.execLih (h : s.Inv) {dst : Reg} {imm : BitVec 32} : (execLih dst imm s).Sound := h.runPut
theorem State.Inv.execAddpc (h : s.Inv) {dst : Reg} {imm : BitVec 32} : (execAddpc dst imm s).Sound := h.runPut
theorem State.Inv.execPlog (h : s.Inv) {pd pa pb pc : Fin 8} {tbl : BitVec 8} : (execPlog pd pa pb pc tbl s).Sound :=
  (h.modMe (fun _ h => h.writeP)).advance

theorem State.Inv.schedOnce (h : s.Inv) {delay : Nat} {i : Instr} : (s.schedOnce delay i).Inv := .ite h h.sched
theorem State.Inv.schedSoon (h : s.Inv) {delay : Nat} {i : Instr} : (s.schedSoon delay i).Inv := .ite h h.sched
theorem State.Inv.kickRouter (h : s.Inv) {c : Nat} : (s.kickRouter c).Inv := h.foldl (fun _ _ h => h.schedSoon)
theorem State.Inv.enterChan (h : s.Inv) {c key delay : Nat} {p : Pkt} : (s.enterChan c key delay p).Inv := by
  unfold State.enterChan
  dsimp only
  split
  · exact h.modRouter.schedSoon
  · exact h.modRouter

theorem State.Inv.enterRouter (h : s.Inv) {c : Nat} {p : Pkt} : (s.enterRouter c p).Inv := .ite h.enterChan h.modRouter
theorem State.Inv.admitLocal (h : s.Inv) {c : Nat} : (s.admitLocal c).Inv := .ite h (h.modRouter.foldl (fun _ _ h => h.enterRouter))
theorem State.Inv.sendPkt (h : s.Inv) {cls : PktClass} {src dst ctx tok n : Nat} {b : PktBody} : (s.sendPkt cls src dst ctx tok n b).Inv :=
  h.enterRouter

theorem State.Inv.refuseAt (h : s.Inv) {c src tok : Nat} : (s.refuseAt c src tok).Inv := h.modCore
theorem State.Inv.letIn (h : s.Inv) {c src tok : Nat} : (s.letIn c src tok).Inv := .ite h h.modCore
theorem State.Inv.forgetRefused (h : s.Inv) {src tok : Nat} : (s.forgetRefused src tok).Inv := .ite h.keep h
theorem State.Inv.touchLine (h : s.Inv) {pa : Nat} {dirty : Bool} : (s.touchLine pa dirty).1.Inv := by
  unfold State.touchLine
  dsimp only
  split
  · exact h.modDie
  · split
    · exact h.modDie.modChan.schedSoon
    · exact h.modDie

theorem State.Inv.touchLines (h : s.Inv) {dirty : Bool} {pa n : Nat} : (s.touchLines dirty pa n).Inv := h.foldl (fun _ _ h => h.touchLine)
theorem State.Inv.touchSpan (h : s.Inv) {pa n : Nat} : (s.touchSpan pa n).Inv := h.touchLines
theorem State.Inv.endOutside (h : s.Inv) {r : HomeReq} {delay : Nat} {bad : Option FCode} : (s.endOutside r delay bad).Inv := by
  unfold State.endOutside
  dsimp only
  split
  · exact h.keep.sched
  · exact h.keep.sched
  · exact h.keep.sched.sched
  · refine State.Inv.sched ?_
    split
    · exact h.keep.foldl (fun _ _ h => h.sched)
    · exact h.keep

theorem State.Inv.sendHome (h : s.Inv) {r : HomeReq} {d : Nat} : (s.sendHome r d).Inv := by
  unfold State.sendHome
  split
  · exact h.sched
  · exact .ite h.endOutside h.endOutside
  · split
    · exact h.sched
    · exact h.keep.sched
  · exact h

theorem State.Inv.sendWc (h : s.Inv) {c : Nat} {w : WC} : (s.sendWc c w).Inv := h.modCore.cacheDrop.sendHome
theorem State.Inv.drainReady (h : s.Inv) {c n : Nat} : (s.drainReady c n).Inv := by
  induction n generalizing s with
  | zero => exact h
  | succ n ih =>
    unfold State.drainReady
    dsimp only
    split
    · exact ih h.spend.sendWc
    · exact h

theorem State.Inv.pump (h : s.Inv) {c : Nat} : (s.pump c).Inv := by
  unfold State.pump
  dsimp only
  split
  · exact h.drainReady.schedSoon
  · exact h.drainReady

theorem State.Inv.pumpAll (h : s.Inv) : s.pumpAll.Inv := h.foldl (fun _ _ h => .ite h h.pump)
theorem State.Inv.closeWc (h : s.Inv) {c : Nat} {f : WC → Bool} : (s.closeWc c f).Inv := h.modCore.pump
theorem State.Inv.inject (h : s.Inv) {c : Nat} {b : InjBody} {after : List Nat} : (s.inject c b after).Inv := h.modCore.pump
theorem State.Inv.newOut (h : s.Inv) {c n tok : Nat} {k : OutKind} : (s.newOut c n tok k).Inv := h.modCore
theorem State.Inv.releaseBound (h : s.Inv) {c n : Nat} {o : Obj} : (s.releaseBound c n o).1.Inv := h.closeWc
theorem State.Inv.releaseAll (h : s.Inv) {c n : Nat} : (s.releaseAll c n).1.Inv := h.closeWc
theorem State.Inv.acquire (h : s.Inv) {c : Nat} {o : Obj} : (s.acquire c o).Inv := h.foldl (fun _ _ h => h.cacheDropRange)

end Sys2Proof.Machine
end

section
/-! PROOFS. The invariant of O5, kept by every operation of its own: memory, synchronisation words, control, queues and levelling. -/

namespace Sys2Proof.Machine
-- One theorem at a time: Lean evaluates the rules' default arguments on a thread of its own for each theorem that waits for them.
set_option Elab.async false
variable {s t : State}

theorem Eff.Sound.localStore {s : State} {a : Nat} {bs : List Byte} : (s.localStore a bs).Sound :=
  .ite trivial (.ite trivial (fun _ h => h.store.advance))

theorem Eff.Sound.withPage {s : State} {va want : Nat} {k : TlbE → Nat → Eff} (hf : ∀ (a : TlbE) (a_1 : Nat), (k a a_1).Sound) :
    (s.withPage va want k).Sound := by
  unfold State.withPage
  split
  · exact fun _ h => h.startWalk
  · exact trivial
  · exact .ite (hf _ _) trivial

theorem State.Inv.drainLine (h : s.Inv) {pa : Nat} : (s.drainLine pa).Inv := .ite h.closeWc h
theorem Eff.Sound.withInj {s : State} {k : Eff} (hf : k.Sound) : (s.withInj k).Sound := .ite hf (fun _ h => h)
theorem Eff.Sound.globalLoad {s : State} {a n : Nat} {fg fgAllowed : Bool} {r : List (Option Byte) → Result} :
    (s.globalLoad a n fg fgAllowed r).Sound := by
  unfold State.globalLoad
  refine .withPage (fun _ _ => ?_)
  refine .ite (.withInj (fun _ h => h.drainLine.useTlb.parkResult.inject)) (.ite (fun _ h => h.useTlb.sched.parkResult) ?_)
  split
  · exact fun _ h => h.useTlb.cacheFill.sched.parkResult
  · exact .withInj (fun _ h => h.useTlb.parkResult.inject)

theorem State.Inv.execLd (h : s.Inv) {fg : Bool} {ty : BitVec 3} {dst : Reg} {a : Addr} : (execLd fg ty dst a s).Sound :=
  h.runOp (fun _ => .ite trivial (.ite (.ite trivial (.ite trivial (fun _ h => h.put.advance))) (.ite .globalLoad trivial)))

theorem State.Inv.execVld (h : s.Inv) {v : Fin 16} {a : Addr} : (execVld v a s).Sound :=
  h.runOp (fun _ => .ite trivial (.ite (.ite trivial (.ite trivial (fun _ h => h.modMe.advance))) (.ite .globalLoad trivial)))

theorem Eff.Sound.wcStore {s : State} {e : TlbE} {va : Nat} {bs : List Byte} : (s.wcStore e va bs).Sound := by
  unfold State.wcStore
  dsimp only
  split
  · exact fun _ h => h.modCore.useTlb.cacheDrop.pump.sched.advance
  · exact .ite (fun _ h => h.newTok.modCore.useTlb.cacheDrop.pump.sched.advance) (fun _ h => .ite h h.closeWc)

theorem Eff.Sound.aperture {s : State} {a : Nat} {k : Nat → Nat → Eff} (hf : ∀ (a a_1 : Nat), (k a a_1).Sound) : (s.aperture a k).Sound := by
  unfold State.aperture
  split
  · exact trivial
  · split
    · exact .ite (hf _ _) trivial
    · exact hf _ _

theorem State.Inv.remote (h : s.Inv) {cls : PktClass} {c : Nat} {b : PktBody} {rel : List Nat} : (s.remote cls c b rel).Inv :=
  h.newTok.newOut.inject.advance

theorem Eff.Sound.storeAt {s : State} {va : Nat} {bs : List Byte} : (s.storeAt va bs).Sound :=
  .ite trivial (.ite (.ite trivial .localStore) (.ite (.aperture (fun _ _ => .withInj (fun _ h => h.remote))) (.ite (.withPage (fun _ _ =>
    .wcStore)) trivial)))

theorem State.Inv.execSt (h : s.Inv) {ty : BitVec 3} {src : Reg} {a : Addr} : (execSt ty src a s).Sound := h.runOp (fun _ => .storeAt)
theorem State.Inv.execVst (h : s.Inv) {v : Fin 16} {a : Addr} : (execVst v a s).Sound := h.runOp (fun _ => .storeAt)
theorem State.Inv.execBpack (h : s.Inv) {all : Bool} {v : Fin 16} {ctl : Reg} {a : Addr} : (execBpack all v ctl a s).Sound := by
  unfold Machine.execBpack
  show State.Inv _
  refine h.runOp (fun _ => ?_)
  dsimp only
  split
  · exact trivial
  · split
    · exact trivial
    · exact .localStore

theorem State.Inv.execBunpk (h : s.Inv) {ty : Ty} {v : Fin 16} {ctl : Reg} {a : Addr} : (execBunpk ty v ctl a s).Sound := by
  unfold Machine.execBunpk
  show State.Inv _
  refine h.runOp (fun _ => ?_)
  dsimp only
  split
  · exact trivial
  · refine .ite trivial (.ite trivial (.ite trivial (.ite trivial (.ite trivial ?_))))
    split
    · exact trivial
    · exact fun _ h => h.modMe.advance

theorem State.Inv.setFull (h : s.Inv) {c off : Nat} {b : Bool} : (s.setFull c off b).Inv := h.keep
theorem Eff.Sound.feWait {s : State} {off : Nat} {full : Bool} : (s.feWait off full).Sound := fun _ h => h.modMe
theorem State.Inv.execLdfe (h : s.Inv) {n64 : Bool} {dst : Reg} {a : Addr} : (execLdfe n64 dst a s).Sound := by
  unfold Machine.execLdfe
  show State.Inv _
  refine h.runOp (fun _ => ?_)
  refine .ite trivial ?_
  split
  · exact trivial
  · exact .ite .feWait (.ite trivial (fun _ h => h.setFull.put.acquire.advance))

theorem State.Inv.execStfe (h : s.Inv) {n64 : Bool} {src : Reg} {a : Addr} : (execStfe n64 src a s).Sound := by
  unfold Machine.execStfe
  show State.Inv _
  refine h.runOp (fun _ => ?_)
  refine .ite trivial ?_
  split
  · exact trivial
  · exact .ite .feWait (fun _ h => h.store.setFull.advance)

theorem State.Inv.execFeinit (h : s.Inv) {full : Bool} {words : BitVec 9} {a : Addr} : (execFeinit full words a s).Sound := by
  unfold Machine.execFeinit
  show State.Inv _
  refine h.runOp (fun _ => ?_)
  dsimp only
  split
  · exact trivial
  · exact fun _ h => h.keep.advance

theorem State.Inv.execRst (h : s.Inv) {k : RstKind} {src dw : Reg} {a : Addr} : (execRst k src dw a s).Sound := by
  unfold Machine.execRst
  show State.Inv _
  refine h.runOp (fun _ => ?_)
  refine .ite trivial (.aperture (fun _ _ => ?_))
  refine .withInj ?_
  intro _ h
  split
  · exact h.remote
  · exact h.remote
  · exact h.remote
  · exact h.releaseBound.remote
  · exact h.releaseBound.remote
  · exact h.releaseBound.remote
  · exact h.releaseBound.remote
  · exact h.releaseBound.remote

theorem Eff.Sound.atomicCheck {va al : Nat} {k : Eff} (hf : k.Sound) : (atomicCheck va al k).Sound := .ite trivial (.ite trivial hf)
theorem Eff.Sound.homeOnly {pa va : Nat} {peer : Bool} {k : Eff} (hf : k.Sound) : (homeOnly pa va peer k).Sound := by
  unfold Machine.homeOnly
  split
  · exact hf
  · exact .ite hf trivial
  · exact trivial

theorem State.Inv.execHold (h : s.Inv) {fg : Bool} {dst : Reg} {a : Addr} : (execHold fg dst a s).Sound :=
  h.runOp (fun _ => .atomicCheck (.ite trivial (.withPage (fun _ _ => .homeOnly (.withInj (fun _ h =>
    h.drainLine.useTlb.cacheDrop.parkResult.inject))))))

theorem State.Inv.waitHeld (h : s.Inv) {a : Nat} {r : HomeReq} : (s.waitHeld a r).Inv := by
  unfold State.waitHeld
  split
  · exact h.keep
  · exact h

theorem State.Inv.letGo (h : s.Inv) {pa d : Nat} : (s.letGo pa d).Inv := by
  unfold State.letGo
  split
  · exact h.keep.sched
  · exact h

theorem State.Inv.execHrel (h : s.Inv) {src : Reg} {a : Addr} : (execHrel src a s).Sound := by
  unfold Machine.execHrel
  show State.Inv _
  refine h.runOp (fun _ => ?_)
  refine .ite trivial ?_
  split
  · exact trivial
  · exact .withPage (fun _ _ => .homeOnly (.withInj (fun _ h => (State.Inv.ite h.releaseBound.drainLine.useTlb.modMe.cacheDrop
    h.releaseBound.drainLine.useTlb.modMe.cacheDrop.letGo).newTok.newOut.inject.advance)))

theorem Eff.Sound.reduce {s : State} {k : HomeKind} {va al : Nat} {bs : List Byte} : (s.reduce k va al bs).Sound :=
  .atomicCheck (.withPage (fun _ _ => .homeOnly (.withInj (fun _ h => h.drainLine.useTlb.cacheDrop.newTok.newOut.inject.advance))))

theorem State.Inv.execRed (h : s.Inv) {op : RedOp} {src : Reg} {a : Addr} : (execRed op src a s).Sound := h.runOp (fun _ => .reduce)
theorem State.Inv.execXsum (h : s.Inv) {ty : Ty} {src : Reg} {a : Addr} : (execXsum ty src a s).Sound := h.runOp (fun _ => .reduce)
theorem Eff.Sound.withPend {s : State} {k : Eff} (hf : k.Sound) : (s.withPend k).Sound := .ite hf (fun _ h => h)
theorem State.Inv.execXread (h : s.Inv) {dst : Reg} {a : Addr} : (execXread dst a s).Sound :=
  h.runOp (fun _ => .atomicCheck (.withPage (fun _ _ => .homeOnly (.withPend (.withInj (fun _ h => (h.drainLine.useTlb.modMe (fun _ h =>
    h.addPend)).newTok.newOut.inject.advance))))))

theorem State.Inv.logFault (h : s.Inv) {c n : Nat} {e : LogEnt} : (s.logFault c n e).Inv := by
  unfold State.logFault
  refine .ite h.haltTeam ?_
  refine State.Inv.modCtx ?_
  refine .ite ?_ h
  split
  · exact h.write (memory_wf_memPut h.wf _ _)
  · exact h

theorem State.Inv.credit (h : s.Inv) {c q b : Nat} : (s.credit c q b).Inv :=
  .ite (h.write (memory_wf_memPut h.wf _ _)).logFault (h.write (memory_wf_memPut h.wf _ _))

theorem State.Inv.execDwinit (h : s.Inv) {src : Reg} {a : Addr} : (execDwinit src a s).Sound := by
  unfold Machine.execDwinit
  show State.Inv _
  refine h.runOp (fun _ => ?_)
  dsimp only
  split
  · exact trivial
  · exact .ite trivial (fun _ h => h.store.advance)

theorem State.Inv.execDwwait (h : s.Inv) {src : Reg} {a : Addr} : (execDwwait src a s).Sound := by
  unfold Machine.execDwwait
  show State.Inv _
  refine h.runOp (fun _ => ?_)
  dsimp only
  split
  · exact trivial
  · exact .ite (fun _ h => h.acquire.advance) (fun _ h => h)

theorem Eff.Sound.asyncFirst {s : State} {k : Eff} (hf : k.Sound) : (s.asyncFirst k).Sound := .ite trivial hf
theorem State.Inv.execFence (h : s.Inv) {k : FenceKind} {sc : Scope} : (execFence k sc s).Sound := by
  unfold Machine.execFence
  show State.Inv _
  refine h.runOp (fun _ => ?_)
  refine .asyncFirst ?_
  split
  · exact fun _ h => h.advance
  · exact fun _ h => h.advance
  · exact .withInj (fun _ h => (State.Inv.ite h.closeWc h).parkResult.inject)
  · exact fun _ h => h.cacheDropAll.advance
  · exact .withInj (fun _ h => (State.Inv.ite h.closeWc h).parkResult.inject)

theorem State.Inv.execSpfence (h : s.Inv) : (execSpfence s).Sound := h.runOp (fun _ => fun _ h => h.sched.parkResult)
theorem State.Inv.execAcq (h : s.Inv) {o : ObjRef} : (execAcq o s).Sound := by
  unfold Machine.execAcq
  show State.Inv _
  refine h.runOp (fun _ => ?_)
  dsimp only
  split
  · exact trivial
  · exact fun _ h => h.acquire.advance

theorem State.Inv.execRls (h : s.Inv) {o : ObjRef} : (execRls o s).Sound := by
  unfold Machine.execRls
  show State.Inv _
  refine h.runOp (fun _ => ?_)
  refine .asyncFirst ?_
  dsimp only
  split
  · exact trivial
  · exact fun _ h => h.releaseBound.modMe.advance

theorem State.Inv.execBind (h : s.Inv) {slot : BitVec 4} {base : Reg} {lines : BitVec 20} {o : ObjRef} : (execBind slot base lines o s).Sound := by
  unfold Machine.execBind
  show State.Inv _
  refine h.runOp (fun _ => ?_)
  refine .ite trivial (.ite trivial (.ite trivial ?_))
  split
  · exact trivial
  · exact fun _ h => h.modCore.advance

theorem State.Inv.execUnbind (h : s.Inv) {slot : BitVec 4} : (execUnbind slot s).Sound := h.runOp (fun _ => fun _ h => h.modCore.advance)
theorem State.Inv.execTrig (h : s.Inv) : (execTrig s).Sound := by
  unfold Machine.execTrig
  show State.Inv _
  refine h.runOp (fun _ => ?_)
  intro _ h
  refine .ite h.advance ?_
  refine State.Inv.advance ?_
  split
  · exact h.releaseAll.modMe.modTeam
  · exact h.releaseAll.modMe

theorem State.Inv.execCstage (h : s.Inv) {st : BitVec 16} : (execCstage st s).Sound := by
  unfold Machine.execCstage
  show State.Inv _
  refine h.runOp (fun _ => ?_)
  intro _ h
  refine State.Inv.advance ?_
  split
  · exact h.releaseAll.modTeam
  · exact h.releaseAll

theorem State.Inv.execBr (h : s.Inv) {off : Off} : (execBr off s).Sound := h.runOp (fun _ => fun _ h => h.jump)
theorem State.Inv.execJmp (h : s.Inv) {a : Addr} : (execJmp a s).Sound := h.runOp (fun _ => fun _ h => h.jump)
theorem State.Inv.execCall (h : s.Inv) {off : Off} : (execCall off s).Sound := by
  unfold Machine.execCall
  show State.Inv _
  refine h.runOp (fun _ => ?_)
  refine .ite trivial ?_
  split
  · exact fun _ h => (h.modMe (fun _ h => h.openWindow.writeW)).jump
  · exact fun _ h => (h.modMe (fun _ h => h.openWindow.writeW)).jump
  · exact fun _ h => h
  · exact fun _ h => h

/-- RET closes a window only where no trap entry opened it. -/
theorem State.Inv.execRet (h : s.Inv) : (execRet s).Sound := by
  refine h.runOp_of ?_
  dsimp only
  split
  · trivial
  next hopen =>
    split
    · exact h
    · have hjumped : (s.jump (([Reg.w 8].map s.srcVal).getD 0 0)).Inv := h.jump
      exact hjumped.setCtx (hjumped.me.closeWindow (by simpa using (not_or.1 hopen).2))

theorem State.Inv.execEret (h : s.Inv) : (execEret s).Sound :=
  h.runOp (fun _ => .ite trivial (.ite (fun _ h => h) (fun _ h => h.modMe (fun _ h => h.leaveTrap.keep rfl rfl))))

theorem State.Inv.execBrk (h : s.Inv) {imm : BitVec 16} : (execBrk imm s).Sound := h.runOp (fun _ => trivial)
theorem State.Inv.fetchAhead (h : s.Inv) {c : Nat} : (s.fetchAhead c).Inv := .ite h.modCore.sched h
theorem Eff.Sound.iterWait {s : State} : s.iterWait.Sound := fun _ h => h.modMe.fetchAhead
theorem State.Inv.execIter (h : s.Inv) {off : BitVec 32} : (execIter off s).Sound := by
  unfold Machine.execIter
  show State.Inv _
  refine h.runOp (fun _ => ?_)
  refine .ite .iterWait ?_
  split
  · exact .ite (fun _ h => h.modCore.modMe.fetchAhead.advance) (.ite (fun _ h => h.jump) .iterWait)
  · exact .ite (fun _ h => h.jump) .iterWait

theorem State.Inv.execIterationClaim (h : s.Inv) {core : Nat} : (execIterationClaim core s).Sound := by
  unfold Machine.execIterationClaim
  show State.Inv _
  split
  · exact h.modTeam.sched
  · exact h

theorem State.Inv.execClaimReply (h : s.Inv) {core : Nat} {chunk : Option (Nat × Nat)} : (execClaimReply core chunk s).Sound :=
  State.Inv.ite h.modCore.fetchAhead h

theorem State.Inv.reweigh (h : s.Inv) {c n : Nat} : (s.reweigh c n).Inv := h.modCtx.sched
theorem State.Inv.execCtxstart (h : s.Inv) {n : BitVec 4} {off : BitVec 32} : (execCtxstart n off s).Sound := by
  refine h.runOp (fun _ => .ite trivial (.ite (fun _ h => h) (fun r hr => ?_)))
  refine State.Inv.advance (.ite (hr.setCtx ?_) (State.Inv.reweigh (hr.setCtx ?_)))
  · exact Ctx.nested.idle.keep rfl rfl
  · exact Ctx.nested.idle.keep rfl rfl

theorem State.Inv.execCtxreap (h : s.Inv) {n : BitVec 4} : (execCtxreap n s).Sound :=
  h.runOp (fun _ => .ite trivial (.ite (fun _ h => h) (fun _ h => h.modCtx.advance)))

theorem State.Inv.execCtxid (h : s.Inv) {dst : Reg} : (execCtxid dst s).Sound := h.runPut
theorem State.Inv.execLevid (h : s.Inv) {dst : Reg} {level : BitVec 3} : (execLevid dst level s).Sound := by
  unfold Machine.execLevid
  show State.Inv _
  refine h.runOp (fun _ => ?_)
  split
  · exact .ite trivial (fun _ h => h.put.advance)
  · exact trivial

theorem State.Inv.execExit (h : s.Inv) : (execExit s).Sound := by
  unfold Machine.execExit
  refine h.runOp (fun _ => .asyncFirst (.ite trivial ?_))
  split
  · exact fun _ h => h.modMe
  · exact .ite (fun _ h => h) (fun _ h => h.closeWc.modMe (fun _ _ => Ctx.nested.idle))

theorem State.Inv.execTrap (h : s.Inv) {dst : Reg} {svc : BitVec 8} {src : Reg} : (execTrap dst svc src s).Sound := by
  refine h.runOp (fun _ => .ite trivial (fun r hr => ?_))
  have hparked : ((r.releaseAll r.curCore r.curCtx).1.parkResult (.answer dst)).Inv := hr.releaseAll.parkResult
  exact hparked.keep

theorem State.Inv.execWeightTakesEffect (h : s.Inv) {core ctx : Nat} : (execWeightTakesEffect core ctx s).Sound := h.modCtx
theorem State.Inv.demand (h : s.Inv) {c n key : Nat} {v : Option Nat} : (s.demand c n key v).Inv := h.modCtx.reweigh
theorem State.Inv.setLev (h : s.Inv) {c k : Nat} {l : Lev} : (s.setLev c k l).Inv := h.modCore
theorem State.Inv.makeDemands (h : s.Inv) {c k : Nat} {l : Lev} {on : Bool} : (s.makeDemands c k l on).Inv :=
  .ite h.demand.modEng (.ite h.demand.sched h.demand.demand)

theorem State.Inv.demandArrives (h : s.Inv) {m : LevMsg} : (s.demandArrives m).Inv := h.demand
theorem State.Inv.execLevellingDemandArrive (h : s.Inv) {m : LevMsg} : (execLevellingDemandArrive m s).Sound := h.demandArrives
theorem State.Inv.execLevellingSample (h : s.Inv) {core ctl : Nat} : (execLevellingSample core ctl s).Sound := by
  unfold Machine.execLevellingSample
  show State.Inv _
  split
  · exact .ite h.setLev.makeDemands.sched h
  · exact h

theorem State.Inv.execEngineLevelSample (h : s.Inv) {link : Nat} : (execEngineLevelSample link s).Sound :=
  State.Inv.ite h (.ite h.schedSoon h.setEng.schedSoon)

theorem State.Inv.execQbind (h : s.Inv) {op : QBindOp} : (execQbind op s).Sound := by
  unfold Machine.execQbind
  show State.Inv _
  refine h.runOp (fun _ => ?_)
  refine .ite trivial ?_
  split
  · exact .ite trivial (.ite trivial (fun _ h => h.modCore.advance))
  · exact .ite trivial (fun _ h => h.modCore.advance)
  · exact fun _ h => h.modCore.reweigh.advance
  · exact .ite trivial (fun _ h => h.modCore.reweigh.advance)

theorem State.Inv.execQctl (h : s.Inv) {d : Dir} {src : Reg} : (execQctl d src s).Sound := h.runOp (fun _ => fun _ h => h.pushQ.advance)
theorem State.Inv.execQhnd (h : s.Inv) {d : Dir} {src : Reg} : (execQhnd d src s).Sound := by
  unfold Machine.execQhnd
  show State.Inv _
  refine h.runOp (fun _ => ?_)
  split
  · exact trivial
  · exact .ite trivial (.ite trivial (fun _ h => h.modCore.advance))

theorem State.Inv.execLvset (h : s.Inv) {ctl : BitVec 3} {ps : Option LvParams} : (execLvset ctl ps s).Sound := by
  unfold Machine.execLvset
  show State.Inv _
  refine h.runOp (fun _ => ?_)
  refine .ite trivial ?_
  split
  · exact trivial
  · split
    · exact .ite trivial (fun _ h => h.setLev.makeDemands.sched.advance)
    · exact fun _ h => h.setLev.makeDemands.advance

theorem State.Inv.execLvread (h : s.Inv) {dst : Reg} {ctl : BitVec 3} : (execLvread dst ctl s).Sound := by
  unfold Machine.execLvread
  show State.Inv _
  refine h.runOp (fun _ => ?_)
  split
  · exact trivial
  · exact fun _ h => h.put.advance

theorem State.Inv.entryArrives (h : s.Inv) {core : Nat} {d : Dir} : (s.entryArrives core d).Inv := h.modSide
theorem State.Inv.creditReturns (h : s.Inv) {core : Nat} {d : Dir} : (s.creditReturns core d).Inv := h.modSide
theorem State.Inv.execQueueEntryArrive (h : s.Inv) {core : Nat} {d : Dir} : (execQueueEntryArrive core d s).Sound := h.entryArrives
theorem State.Inv.execCreditReturn (h : s.Inv) {core : Nat} {d : Dir} : (execCreditReturn core d s).Sound := h.creditReturns
theorem State.Inv.settleCore (h : s.Inv) {c : Nat} : (s.settleCore c).Inv := by
  unfold State.settleCore
  refine h.keep.foldl (fun _ _ h => ?_)
  split
  · exact h.entryArrives
  · exact h.creditReturns
  · exact h.demandArrives
  · exact h

theorem State.Inv.execLightHandlerCall (h : s.Inv) {core ctx : Nat} {d : Dir} : (execLightHandlerCall core ctx d s).Sound := h.lightCall

end Sys2Proof.Machine
end

section
/-! PROOFS. The invariant of O5, kept by every operation of its own: link engines, their instructions, vectors and epilogue programs. -/

namespace Sys2Proof.Machine
-- One theorem at a time: Lean evaluates the rules' default arguments on a thread of its own for each theorem that waits for them.
set_option Elab.async false
variable {s t : State}

theorem State.Inv.modEnd (h : s.Inv) {l : Nat} {far : Bool} {f : EEnd → EEnd} : (s.modEnd l far f).Inv := h.modEng
theorem State.Inv.post (h : s.Inv) {l : Nat} {far : Bool} {code : FCode} {why : Nat} : (s.post l far code why).Inv := h.modEnd
theorem State.Inv.writeOpen (h : s.Inv) {l : Nat} {far : Bool} : (s.writeOpen l far).Inv := by
  unfold State.writeOpen
  dsimp only
  split
  · exact h
  · exact h.complete.modEnd

theorem State.Inv.driveLoader (h : s.Inv) {l : Nat} {far : Bool} {base : Nat} : (s.driveLoader l far base).Inv := by
  unfold State.driveLoader
  refine .ite h ?_
  dsimp only
  split
  · exact h
  · exact h.setEng.sched

theorem State.Inv.goOnEng (h : s.Inv) {l height t : Nat} : (s.goOnEng l height t).Inv := by
  unfold State.goOnEng
  dsimp only
  split
  · refine State.Inv.sched ?_
    split
    · exact h.setEng.sched
    · exact h.setEng
  · split
    · exact h.setEng.sched
    · exact h.setEng

theorem State.Inv.standing (h : s.Inv) {l base : Nat} : (s.standing l base).Inv := by
  unfold State.standing
  dsimp only
  split
  · exact h.modEng
  · split
    · exact .ite h.goOnEng h.modEng
    · exact h

theorem State.Inv.offerEng (h : s.Inv) {l base : Nat} : (s.offerEng l base).Inv := by
  unfold State.offerEng
  extract_lets e s1 s2 s3 s4
  have h1 : s1.Inv := h.driveLoader.driveLoader
  have h2 : s2.Inv := .ite h1.schedOnce h1
  have h3 : s3.Inv := .ite h2.schedSoon h2
  have h4 : s4.Inv := .ite h3.schedSoon h3
  split
  · exact .ite h4.schedSoon h4
  · exact h4

theorem State.Inv.driveEng (h : s.Inv) {l base : Nat} : (s.driveEng l base).Inv := .ite h.setEng.standing h.setEng.standing.offerEng
theorem State.Inv.offerLease (h : s.Inv) {d : Nat} : (s.offerLease d).Inv := .ite h.schedOnce h
theorem State.Inv.returnToken (h : s.Inv) {l : Nat} : (s.returnToken l).Inv := .ite h.modEng.modDie.offerLease h.modEng
theorem State.Inv.cancelLease (h : s.Inv) {l : Nat} : (s.cancelLease l).Inv := by
  unfold State.cancelLease
  split
  · exact .ite h.complete h
  · exact h

theorem State.Inv.giveUp (h : s.Inv) {l : Nat} : (s.giveUp l).Inv := h.cancelLease.returnToken
theorem State.Inv.becomeReady (h : s.Inv) {l : Nat} : (s.becomeReady l).Inv := h.modEng.writeOpen.writeOpen.driveEng.schedSoon
theorem State.Inv.checkFeeds (h : s.Inv) {l : Nat} {far : Bool} : (s.checkFeeds l far).Inv := .ite h.setEng h.setEng.post
theorem State.Inv.form (h : s.Inv) {l : Nat} : (s.form l).Inv := .ite h.setEng.checkFeeds.checkFeeds.post h.setEng.checkFeeds.checkFeeds
theorem State.Inv.openEffect (h : s.Inv) {l : Nat} {far : Bool} : (s.openEffect l far).Inv :=
  .ite (.ite h.modEng h) (.ite (.ite h.form.becomeReady h.form) h.setEng.post.post.writeOpen.writeOpen)

theorem State.Inv.offerHeld (h : s.Inv) {l : Nat} : (s.offerHeld l).Inv := .ite (State.Inv.ite h.schedOnce h).schedOnce (.ite h.schedOnce h)
theorem State.Inv.settle (h : s.Inv) {l : Nat} : (s.settle l).Inv :=
  .ite h (.ite (State.Inv.ite h.setEng h.setEng.offerHeld).giveUp (.ite h.setEng h.setEng.offerHeld))

theorem State.Inv.closeEnd (h : s.Inv) {l : Nat} {far : Bool} : (s.closeEnd l far).Inv := h.modEnd.modEng.writeOpen.settle
theorem State.Inv.breakRzv (h : s.Inv) {l : Nat} {far : Bool} : (s.breakRzv l far).Inv := (State.Inv.ite h.setEng.post h.setEng).modEng
theorem State.Inv.execHeldOpenTakesEffect (h : s.Inv) {link : Nat} {far : Bool} : (execHeldOpenTakesEffect link far s).Sound := by
  unfold Machine.execHeldOpenTakesEffect
  show State.Inv _
  split
  · exact h
  · exact .ite h h.modEnd.modEng.openEffect

theorem State.Inv.delivered (h : s.Inv) {l : Nat} {far : Bool} {p : Post} : (s.delivered l far p).Inv :=
  .ite (.ite h.modEnd.closeEnd h.modEnd.settle) (.ite h.modEnd.modEnd h.modEnd)

theorem State.Inv.resumeEng (h : s.Inv) {l : Nat} : (s.resumeEng l).Inv := .ite h h.modEng.driveEng
theorem Eff.Sound.after {g : State → State} {e : Eff} (hg : ∀ s, s.Inv → (g s).Inv) (he : e.Sound) : (Eff.after g e).Sound := by
  cases e with
  | trap => exact hg
  | ok f => exact fun s hs => he _ (hg s hs)
  | wait w f => exact fun s hs => he _ (hg s hs)
  | deliver f => exact fun s hs => he _ (hg s hs)

theorem State.Inv.linkChecks (h : s.Inv) {d : Dir} {who : LinkWho} {k : State → Nat → Bool → Eff} (hf : ∀ (a : State) (a_1 : Nat) (a_2 : Bool),
    a.Inv → (k a a_1 a_2).Sound) : (s.linkChecks d who k).Sound := by
  unfold State.linkChecks
  refine .ite trivial (.ite trivial ?_)
  dsimp only
  split
  · exact .ite (fun _ h => h.delivered) (.ite (.after (fun _ h => h.resumeEng) (hf _ _ _ h.resumeEng)) (hf _ _ _ h))
  · exact .ite (.after (fun _ h => h.resumeEng) (hf _ _ _ h.resumeEng)) (hf _ _ _ h)

theorem State.Inv.execLease (h : s.Inv) {dst : Reg} {d : Dir} {pri : BitVec 2} : (execLease dst d pri s).Sound :=
  h.runOp (fun _ => .withPend (fun _ h => (State.Inv.ite (h.modMe (fun _ h => h.addPend)).newTok.sched (State.Inv.ite (h.modMe (fun _ h =>
    h.addPend)).newTok.modDie.sched (h.modMe (fun _ h => h.addPend)).newTok.modDie).offerLease).advance))

theorem State.Inv.unqueue (h : s.Inv) {l : Nat} : (s.unqueue l).Inv := h.modDie
theorem State.Inv.unlease (h : s.Inv) {l team : Nat} : (s.unlease l team).Inv := by
  unfold State.unlease
  dsimp only
  split
  · exact .ite h.unqueue.complete (.ite h.unqueue.modTeam (.ite h.modEng h))
  · exact .ite h (.ite h.modEng h.giveUp)

theorem State.Inv.execUnlease (h : s.Inv) {d : Dir} : (execUnlease d s).Sound := by
  unfold Machine.execUnlease
  show State.Inv _
  refine h.runOp (fun _ => ?_)
  refine h.linkChecks (fun _ _ _ h => ?_)
  intro _ h
  refine State.Inv.advance ?_
  split
  · exact h.unlease
  · exact h

theorem Eff.Sound.withLocal {s : State} {a n al : Nat} {k : Nat → Eff} (hf : ∀ (a : Nat), (k a).Sound) : (s.withLocal a n al k).Sound := by
  unfold State.withLocal
  split
  · exact trivial
  · exact .ite trivial (hf _)

theorem State.Inv.execLkopen (h : s.Inv) {dst base : Reg} {d : Dir} {roleB : Bool} {disp : BitVec 16} :
    (execLkopen dst base d roleB disp s).Sound := by
  unfold Machine.execLkopen
  show State.Inv _
  refine h.runOp (fun _ => ?_)
  refine h.linkChecks (fun _ _ _ h => ?_)
  dsimp only
  split
  · exact trivial
  · refine .ite trivial ?_
    split
    · exact trivial
    · exact .ite trivial (.ite trivial (.withPend (fun _ h => (State.Inv.ite (h.modMe (fun _ h => h.addPend)).newTok.modEnd (h.modMe (fun _ h =>
      h.addPend)).newTok.modEnd.openEffect).advance)))

theorem State.Inv.queueFeed (h : s.Inv) {l : Nat} {far : Bool} {f : Feed} : (s.queueFeed l far f).Inv := h.setEng.driveEng
theorem State.Inv.execLkfeed (h : s.Inv) {d : Dir} {handle : BitVec 4} {base : Reg} {bdisp : BitVec 6} {stride : BitVec 12} {count : BitVec 16} :
    (execLkfeed d handle base bdisp stride count s).Sound := h.runOp (fun _ => h.linkChecks (fun _ _ _ _ => .ite trivial (.ite trivial (.ite
      trivial (.ite trivial (.ite (fun _ h => h) (fun _ h => h.modEng.queueFeed.advance)))))))

theorem State.Inv.refuseB (h : s.Inv) {l : Nat} {far : Bool} : (s.refuseB l far).Inv := by
  unfold State.refuseB
  dsimp only
  split
  next b _ =>
    refine State.Inv.keep (s := State.trap (State.modCtx _ _ _ _) _ _ _ _ _ _) (State.Inv.trap (h.setEng.modCtx (fun _ h => ?_)))
    split <;> exact h
  next => exact h

theorem State.Inv.execLksparse (h : s.Inv) {d : Dir} {c : SparseCfg} {bound : Option Reg} : (execLksparse d c bound s).Sound :=
  h.runOp (fun _ => h.linkChecks (fun _ _ _ _ => .ite trivial (.ite trivial (.ite trivial (.ite trivial (fun _ h => (State.Inv.ite h.refuseB
    h).modEng.advance))))))

theorem State.Inv.execLkdrain (h : s.Inv) {d : Dir} {f : DrainForm} : (execLkdrain d f s).Sound := by
  unfold Machine.execLkdrain
  show State.Inv _
  refine h.runOp (fun _ => ?_)
  refine h.linkChecks (fun _ _ _ h => ?_)
  refine .ite trivial (.ite (fun _ h => h) ?_)
  dsimp only
  split
  · exact .ite trivial (fun _ h => h.modEng.modEng.schedOnce.advance)
  · split
    · exact trivial
    · refine .ite trivial (.ite trivial ?_)
      split
      · exact trivial
      · exact fun _ h => h.modEng.modEng.driveEng.advance

theorem State.Inv.execLkclose (h : s.Inv) {d : Dir} : (execLkclose d s).Sound := by
  unfold Machine.execLkclose
  show State.Inv _
  refine h.runOp (fun _ => ?_)
  refine h.linkChecks (fun _ _ _ h => ?_)
  intro _ h
  refine State.Inv.advance ?_
  split
  · exact h.complete.setEng.settle
  · refine .ite h ?_
    split
    · exact h.setEng.closeEnd
    · exact h.setEng.closeEnd
    · exact h.setEng.closeEnd
    · exact h.breakRzv.closeEnd
    · exact h.breakRzv.closeEnd
    · exact h.breakRzv.closeEnd
    · exact h.breakRzv.closeEnd
    · exact .ite h.setEng.closeEnd h.setEng.closeEnd.modEng
    · exact h.closeEnd
    · exact h.closeEnd

theorem State.Inv.execLkstat (h : s.Inv) {dst : Reg} {d : Dir} {word : Fin 3} : (execLkstat dst d word s).Sound :=
  h.runOp (fun _ => h.linkChecks (fun _ _ _ _ => fun _ h => h.put.advance))

theorem State.Inv.execLkwait (h : s.Inv) {d : Dir} {c : LkCond} : (execLkwait d c s).Sound :=
  h.runOp (fun _ => h.linkChecks (fun _ _ _ _ => .ite (fun _ h => h.advance) (.ite (fun _ h => h.advance) (.ite trivial (fun _ h => h.modMe)))))

theorem State.Inv.engineLoad (h : s.Inv) {d : Dir} {w : Nat} {apply : State → Nat → Bool → State} (hf : ∀ (a : State) (a_1 : Nat) (a_2 : Bool),
    a.Inv → (apply a a_1 a_2).Inv) : (s.engineLoad d w apply).Sound := by
  unfold State.engineLoad
  refine h.linkChecks (fun _ _ _ h => ?_)
  split
  · exact trivial
  · exact fun _ h => h.modMe
  · exact fun _ h => (hf _ _ _ h).advance

theorem Eff.Sound.withImage {s : State} {a n al : Nat} {k : Nat → Eff} (hf : ∀ (a : Nat), (k a).Sound) : (s.withImage a n al k).Sound := by
  unfold State.withImage
  split
  · exact hf _
  · exact .withLocal (fun _ => hf _)

theorem State.Inv.execCbload (h : s.Inv) {d : Dir} {slot : BitVec 3} {base : Reg} {disp : BitVec 16} : (execCbload d slot base disp s).Sound :=
  h.runOp (fun _ => .withImage (fun _ => h.engineLoad (fun _ _ _ h => h.modEnd)))

theorem State.Inv.execEpload (h : s.Inv) {d : Dir} {slot : Bool} {base : Reg} {disp : BitVec 16} : (execEpload d slot base disp s).Sound :=
  h.runOp (fun _ => .withImage (fun _ => .ite trivial (h.engineLoad (fun _ _ _ h => h.modEng))))

theorem State.Inv.execChread (h : s.Inv) {dst : Reg} {sel : BitVec 4} : (execChread dst sel s).Sound := h.runPut
theorem State.Inv.execChwait (h : s.Inv) {sel : BitVec 4} {src : Reg} : (execChwait sel src s).Sound := by
  unfold Machine.execChwait
  show State.Inv _
  refine h.runOp (fun _ => ?_)
  refine .ite ?_ ?_
  · split
    · exact trivial
    · exact .ite trivial (.ite (fun _ h => h.acquire.advance) (fun _ h => h))
  · dsimp only
    split
    · exact fun _ h => h.delivered
    · exact .ite trivial (.ite (fun _ h => h) (.ite (fun _ h => h.acquire.advance) (fun _ h => h)))

theorem State.Inv.vRun (h : s.Inv) {f : Ctx → Ctx} (hf : ∀ x, x.nested → (f x).nested) : (s.vRun f).Inv :=
  h.modMe hf

theorem State.Inv.execVnop (h : s.Inv) : (execVnop s).Sound := h
theorem State.Inv.execVadd (h : s.Inv) {sat : Bool} {x : VOps} : (execVadd sat x s).Sound := h.vRun (fun _ h => h)
theorem State.Inv.execVsub (h : s.Inv) {sat : Bool} {x : VOps} : (execVsub sat x s).Sound := h.vRun (fun _ h => h)
theorem State.Inv.execVmul (h : s.Inv) {x : VOps} : (execVmul x s).Sound := h.vRun (fun _ h => h)
theorem State.Inv.execVfma (h : s.Inv) {x : VOps} : (execVfma x s).Sound := h.vRun (fun _ h => h)
theorem State.Inv.execVmad (h : s.Inv) {x : VOps} : (execVmad x s).Sound := h.vRun (fun _ h => h)
theorem State.Inv.execVmin (h : s.Inv) {x : VOps} : (execVmin x s).Sound := h.vRun (fun _ h => h)
theorem State.Inv.execVmax (h : s.Inv) {x : VOps} : (execVmax x s).Sound := h.vRun (fun _ h => h)
theorem State.Inv.execVabs (h : s.Inv) {sat : Bool} {x : VUnOps} : (execVabs sat x s).Sound := h.vRun (fun _ h => h)
theorem State.Inv.execVneg (h : s.Inv) {sat : Bool} {x : VUnOps} : (execVneg sat x s).Sound := h.vRun (fun _ h => h)
theorem State.Inv.execVltab (h : s.Inv) {vd va vb : Fin 16} {mask : Fin 8} {tbl : BitVec 8} : (execVltab vd va vb mask tbl s).Sound :=
  h.vRun (fun _ h => h)

theorem State.Inv.execVshl (h : s.Inv) {ty : Ty} {vd va : Fin 16} {amt : VAmt} {mask : Fin 8} : (execVshl ty vd va amt mask s).Sound :=
  h.vRun (fun _ h => h)

theorem State.Inv.execVshr (h : s.Inv) {ty : Ty} {vd va : Fin 16} {amt : VAmt} {mask : Fin 8} : (execVshr ty vd va amt mask s).Sound :=
  h.vRun (fun _ h => h)

theorem State.Inv.execVsra (h : s.Inv) {ty : Ty} {vd va : Fin 16} {amt : VAmt} {mask : Fin 8} : (execVsra ty vd va amt mask s).Sound :=
  h.vRun (fun _ h => h)

theorem State.Inv.execVfsh (h : s.Inv) {ty : Ty} {vd va vb : Fin 16} {mask : Fin 8} {sh : BitVec 6} : (execVfsh ty vd va vb mask sh s).Sound :=
  h.vRun (fun _ h => h)

theorem State.Inv.execVcmp (h : s.Inv) {c : Cond} {ty : Ty} {md : Fin 8} {va : Fin 16} {vb : VSrc} {mask : Fin 8} :
    (execVcmp c ty md va vb mask s).Sound := h.vRun (fun _ h => h.mPut)

theorem State.Inv.execVsel (h : s.Inv) {vd va vb : Fin 16} {mask : Fin 8} : (execVsel vd va vb mask s).Sound := h.vRun (fun _ h => h)
theorem State.Inv.execVmask (h : s.Inv) {md ma : Fin 8} {mb : Fin 8 ⊕ Fin 8} {mask : Fin 8} {tbl : BitVec 4} :
    (execVmask md ma mb mask tbl s).Sound := h.vRun (fun _ h => h.mPut)

theorem State.Inv.execVcvt (h : s.Inv) {td : Ty} {vd va : Fin 16} {mask : Fin 8} {ts : Ty} {rm : Rm} {sat : Bool} {part : BitVec 3} :
    (execVcvt td vd va mask ts rm sat part s).Sound := h.vRun (fun _ h => h)

theorem State.Inv.execVdot (h : s.Inv) {su : Bool} {x : VOps} : (execVdot su x s).Sound := h.vRun (fun _ h => h)
theorem State.Inv.execVqmul (h : s.Inv) {x : VOps} : (execVqmul x s).Sound := h.vRun (fun _ h => h)
theorem State.Inv.execVreduce (h : s.Inv) {op : RedKind} {x : VUnOps} : (execVreduce op x s).Sound := h.vRun (fun _ h => h)
theorem State.Inv.execVscan (h : s.Inv) {op : RedKind} {ex : Bool} {hm : Fin 8} {x : VUnOps} : (execVscan op ex hm x s).Sound := h.vRun (fun _ h => h)
theorem State.Inv.execVperm (h : s.Inv) {ty : Ty} {vd va vb : Fin 16} {mask : Fin 8} : (execVperm ty vd va vb mask s).Sound := h.vRun (fun _ h => h)
theorem State.Inv.execVbcast (h : s.Inv) {ty : Ty} {vd : Fin 16} {src : BcSrc} {mask : Fin 8} : (execVbcast ty vd src mask s).Sound :=
  h.vRun (fun _ h => h)

theorem State.Inv.execVpopc (h : s.Inv) {x : VUnOps} : (execVpopc x s).Sound := h.vRun (fun _ h => h)
theorem State.Inv.execVrcp (h : s.Inv) {vd va : Fin 16} {mask : Fin 8} : (execVrcp vd va mask s).Sound := h.vRun (fun _ h => h)
theorem State.Inv.execVrsq (h : s.Inv) {vd va : Fin 16} {mask : Fin 8} : (execVrsq vd va mask s).Sound := h.vRun (fun _ h => h)
theorem State.Inv.execVexp2 (h : s.Inv) {vd va : Fin 16} {mask : Fin 8} : (execVexp2 vd va mask s).Sound := h.vRun (fun _ h => h)
theorem State.Inv.handRow (h : s.Inv) {l w : Nat} {lanes : List Lane} : (s.handRow l w lanes).1.Inv := by
  unfold State.handRow
  dsimp only
  split
  · exact h
  · exact .ite (State.Inv.ite h.modEng.sched h.modEng.sched).driveEng.sched (.ite h.modEng.sched h.modEng.sched)

theorem State.Inv.finishRow (h : s.Inv) {l gap : Nat} : (s.finishRow l gap).Inv := .ite h.modEng.sched h.modEng.driveEng
theorem State.Inv.execEpilogueRow (h : s.Inv) {link : Nat} : (execEpilogueRow link s).Sound := by
  unfold Machine.execEpilogueRow
  show State.Inv _
  split
  · exact h
  · refine .ite h.schedOnce (.ite h.schedOnce ?_)
    split
    · exact h.keep
    · exact h.handRow.finishRow

theorem State.Inv.epiPut (h : s.Inv) {d : Fin 6} {lanes : List Lane} : (s.epiPut d lanes).Inv := h.keep
theorem State.Inv.epi1 (h : s.Inv) {d : Fin 6} {a : ESrc} {f : Nat → Nat} : (s.epi1 d a f).Inv := h.epiPut
theorem State.Inv.epi2 (h : s.Inv) {d : Fin 6} {a b : ESrc} {f : Nat → Nat → Nat} : (s.epi2 d a b f).Inv := h.epiPut
theorem State.Inv.epi3 (h : s.Inv) {d : Fin 6} {a b c : ESrc} {f : Nat → Nat → Nat → Nat} : (s.epi3 d a b c f).Inv := h.epiPut
theorem State.Inv.execEend (h : s.Inv) : (execEend s).Sound := by
  unfold Machine.execEend
  show State.Inv _
  split
  · exact h
  · exact h.keep.finishRow

theorem State.Inv.execEmov (h : s.Inv) {d : Fin 6} {a : ESrc} : (execEmov d a s).Sound := h.epi1
theorem State.Inv.execEadd (h : s.Inv) {f : Bool} {d : Fin 6} {a b : ESrc} : (execEadd f d a b s).Sound := h.epi2
theorem State.Inv.execEsub (h : s.Inv) {f : Bool} {d : Fin 6} {a b : ESrc} : (execEsub f d a b s).Sound := h.epi2
theorem State.Inv.execEmul (h : s.Inv) {f : Bool} {d : Fin 6} {a b : ESrc} : (execEmul f d a b s).Sound := h.epi2
theorem State.Inv.execEfma (h : s.Inv) {f : Bool} {d : Fin 6} {a b c : ESrc} : (execEfma f d a b c s).Sound := h.epi3
theorem State.Inv.execEmin (h : s.Inv) {f : Bool} {d : Fin 6} {a b : ESrc} : (execEmin f d a b s).Sound := h.epi2
theorem State.Inv.execEmax (h : s.Inv) {f : Bool} {d : Fin 6} {a b : ESrc} : (execEmax f d a b s).Sound := h.epi2
theorem State.Inv.execEshrImm (h : s.Inv) {d : Fin 6} {a : ESrc} {sh : BitVec 5} : (execEshrImm d a sh s).Sound := h.epi1
theorem State.Inv.execEshrReg (h : s.Inv) {d : Fin 6} {a b : ESrc} : (execEshrReg d a b s).Sound := h.epi2
theorem State.Inv.execEqmul (h : s.Inv) {d : Fin 6} {a b : ESrc} : (execEqmul d a b s).Sound := h.epi2
theorem State.Inv.execEcvt (h : s.Inv) {f : Bool} {d : Fin 6} {a : ESrc} {ty : Ty} {rm : Rm} {sat : Bool} : (execEcvt f d a ty rm sat s).Sound :=
  h.epi1

theorem State.Inv.execEzpc (h : s.Inv) {f : Bool} {d : Fin 6} {a b c : ESrc} : (execEzpc f d a b c s).Sound := h.epiPut
theorem State.Inv.execErelu (h : s.Inv) {f : Bool} {d : Fin 6} {a : ESrc} : (execErelu f d a s).Sound := h.epi1
theorem State.Inv.execEsel (h : s.Inv) {f : Bool} {d : Fin 6} {a b c : ESrc} {k : ECond} : (execEsel f d a b c k s).Sound := h.epi3
theorem State.Inv.execEldc (h : s.Inv) {f : Bool} {d : Fin 6} {sl : ESel} : (execEldc f d sl s).Sound := h.epiPut
theorem State.Inv.execEwr (h : s.Inv) {a : ESrc} : (execEwr a s).Sound := by
  unfold Machine.execEwr
  show State.Inv _
  split
  · exact h
  · exact h.handRow.keep

end Sys2Proof.Machine
end

section
/-! PROOFS. The invariant of O5, kept by every operation of its own: running engines, copies, the barrel's events and system registers. -/

namespace Sys2Proof.Machine
-- One theorem at a time: Lean evaluates the rules' default arguments on a thread of its own for each theorem that waits for them.
set_option Elab.async false
variable {s t : State}

theorem State.Inv.execLeaseGrant (h : s.Inv) {die : Nat} : (execLeaseGrant die s).Sound := by
  unfold Machine.execLeaseGrant
  show State.Inv _
  refine .ite h.offerLease ?_
  split
  · exact h
  · exact (State.Inv.ite h.modDie.modEng.modTeam h.modDie.modEng).sched.offerLease

theorem State.Inv.execEngineWake (h : s.Inv) {link : Nat} : (execEngineWake link s).Sound := by
  unfold Machine.execEngineWake
  show State.Inv _
  split
  · exact h
  · exact .ite h (.ite h.sched (.ite h (.ite h.complete.modEng.becomeReady h.complete.modEng)))

theorem State.Inv.breakRestored (h : s.Inv) {l : Nat} : (s.breakRestored l).Inv := .ite h.modEng.breakRzv (.ite h.modEng.breakRzv h.modEng.settle)
theorem State.Inv.execEngineRestore (h : s.Inv) {link : Nat} : (execEngineRestore link s).Sound :=
  State.Inv.ite h (.ite h.setEng.breakRestored (.ite h.setEng.becomeReady (.ite (.ite h.setEng.modEng h.setEng.settle) h.setEng.driveEng)))

theorem State.Inv.evict (h : s.Inv) {l : Nat} : (s.evict l).Inv :=
  (State.Inv.ite (State.Inv.ite h.post h).post (.ite h.post h)).setEng.cancelLease.returnToken

theorem State.Inv.execEviction (h : s.Inv) {die : Nat} : (execEviction die s).Sound := by
  unfold Machine.execEviction
  show State.Inv _
  split
  · exact h
  · refine .ite h.schedOnce (.ite h ?_)
    dsimp only
    split
    · exact h
    · split
      · exact h.evict.schedOnce
      · exact h.evict

theorem State.Inv.feedFault (h : s.Inv) {l : Nat} {a b : Option FCode} : (s.feedFault l a b).Inv := by
  unfold State.feedFault
  refine State.Inv.modEng ?_
  split
  · refine State.Inv.post ?_
    split
    · exact h.post
    · exact h
  · split
    · exact h.post
    · exact h

theorem State.Inv.prePassFault (h : s.Inv) {l q : Nat} {far : Bool} {c : FCode} : (s.prePassFault l q far c).Inv :=
  (State.Inv.ite h.setEng.feedFault h.setEng.feedFault).modEng

theorem State.Inv.execLoaderFetch (h : s.Inv) {link : Nat} {far : Bool} : (execLoaderFetch link far s).Sound := by
  unfold Machine.execLoaderFetch
  show State.Inv _
  split
  · exact h
  · split
    · exact h.modEnd.driveEng
    · dsimp only
      split
      · exact h.setEng.prePassFault
      · exact h.setEng.driveEng

theorem State.Inv.execPrePass (h : s.Inv) {link : Nat} : (execPrePass link s).Sound :=
  State.Inv.ite h (.ite h.setEng.driveEng (.ite h.setEng.driveEng h))

theorem State.Inv.startProduct (h : s.Inv) {l : Nat} : (s.startProduct l).Inv := h.keep.setEng
theorem State.Inv.tileError (h : s.Inv) {l : Nat} : (s.tileError l).Inv := h.keep.setEng
theorem State.Inv.takeCopies (h : s.Inv) {l : Nat} : (s.takeCopies l).Inv := h.setEng
theorem State.Inv.execKStep (h : s.Inv) {link : Nat} : (execKStep link s).Sound := by
  unfold Machine.execKStep
  show State.Inv _
  refine .ite h (.ite h.driveEng (.ite h.modEng (.ite h.feedFault ?_)))
  extract_lets s1 s2 s3 e s4
  have h1 : s1.Inv := .ite h.startProduct h
  have h2 : s2.Inv := h1.takeCopies
  have h3 : s3.Inv := by
    refine .ite h2 (.ite h2.tileError ?_)
    split <;> exact h2.setEng
  have h4 : s4.Inv := .ite h3.schedOnce h3
  exact h4.driveEng

theorem State.Inv.execSplitDrain (h : s.Inv) {link : Nat} : (execSplitDrain link s).Sound := State.Inv.ite h.setEng.driveEng h
theorem State.Inv.execDrainBegin (h : s.Inv) {link : Nat} : (execDrainBegin link s).Sound := by
  unfold Machine.execDrainBegin
  show State.Inv _
  refine .ite h ?_
  split
  · exact h
  · exact .ite h.schedOnce (.ite h.schedOnce (.ite h.setEng.sched (.ite h.setEng.post.logFault h.setEng.post)))

theorem State.Inv.rowLanded (h : s.Inv) {r : RowWrite} : (s.rowLanded r).Inv := by
  unfold State.rowLanded
  dsimp only
  split
  · exact h
  · exact .ite h.setEng h.setEng.driveEng

theorem State.Inv.land (h : s.Inv) {core off : Nat} {bs : List Byte} {acc : Option AccTy} {t : State} (ht : s.land core off bs acc = some t) :
    t.Inv := by
  unfold State.land at ht
  split at ht
  · obtain ⟨-, heq⟩ := Option.ite_none_left_eq_some.1 ht
    cases heq
    exact h.store
  · obtain ⟨-, heq⟩ := Option.ite_none_left_eq_some.1 ht
    cases heq
    exact h.store

theorem State.Inv.execDrainRowWrite (h : s.Inv) {r : RowWrite} : (execDrainRowWrite r s).Sound := by
  unfold Machine.execDrainRowWrite
  show State.Inv _
  refine .ite h.refuseAt.sched ?_
  extract_lets q
  have hq : q.Inv := h.letIn
  split
  · exact hq
  · refine State.Inv.rowLanded ?_
    split
    · exact hq.logFault
    · exact hq
  · cases hland : q.land r.core r.off r.bytes r.acc with
    | none => exact hq.logFault.rowLanded
    | some p =>
      refine State.Inv.rowLanded ?_
      split
      · exact (hq.land hland).credit
      · exact hq.land hland

theorem State.Inv.putHome (h : s.Inv) {core tok : Nat} {p : Piece} {bs : List Byte} : (s.putHome core tok p bs).Inv := by
  unfold State.putHome
  refine .ite h.store ?_
  refine h.foldl (fun _ _ h => ?_)
  dsimp only
  split
  · exact h.waitHeld
  · exact h.store

theorem State.Inv.putPieces (h : s.Inv) {core tok : Nat} {ps : List Piece} {bs : List Byte} : (s.putPieces core tok ps bs).Inv := by
  induction ps generalizing s bs with
  | nil => exact h
  | cons p ps ih =>
    unfold State.putPieces
    refine ih ?_
    split
    · exact h.putHome.touchSpan
    · exact h

theorem State.Inv.modCmd (h : s.Inv) {core id : Nat} {f : Cmd → Cmd} : (s.modCmd core id f).Inv := h.modCore
theorem State.Inv.takeBeats (h : s.Inv) {core n : Nat} : (s.takeBeats core n).Inv := h.modCluster
theorem State.Inv.offerRow (h : s.Inv) {core id delay : Nat} : (s.offerRow core id delay).Inv := by
  unfold State.offerRow
  split
  · exact h
  · dsimp only
    split
    · exact h.schedOnce
    · split
      · exact h.spend.schedOnce
      · exact h

theorem State.Inv.finishCmd (h : s.Inv) {core id : Nat} : (s.finishCmd core id).Inv := by
  unfold State.finishCmd
  split
  · exact h
  · exact .ite h.schedOnce h

theorem State.Inv.failCmd (h : s.Inv) {core id : Nat} {e : FCode} {a : Nat} : (s.failCmd core id e a).Inv :=
  h.modCmd.forgetRefused.finishCmd.schedOnce

theorem State.Inv.missCmd (h : s.Inv) {core id va : Nat} : (s.missCmd core id va).Inv := h.modCmd.startWalk
theorem State.Inv.parkCmd (h : s.Inv) {core id va : Nat} : (s.parkCmd core id va).Inv := h.modCmd
theorem State.Inv.modRow (h : s.Inv) {core id k : Nat} {f : Row → Row} : (s.modRow core id k f).Inv := h.modCmd
/-- An access of a copy engine that succeeds gives a value with a property. -/
def CopyRes.All {α : Type} (p : α → Prop) : CopyRes α → Prop
  | .ok v => p v
  | _ => True

theorem CopyRes.All.andThen {α β : Type} {p : β → Prop} (r : CopyRes α) {f : α → CopyRes β} (hf : ∀ v, (f v).All p) :
    (r.andThen f).All p := by
  cases r with
  | ok v => exact hf v
  | _ => trivial

theorem State.Inv.usePieces (h : s.Inv) {core : Nat} {ps : List Piece} : (s.usePieces core ps).Inv := h.foldl (fun _ _ h => h.useClusterTlb)
theorem State.Inv.copyRead (h : s.Inv) {core id a n : Nat} : (s.copyRead core id a n).All (fun r => r.2.Inv) := by
  unfold State.copyRead
  split
  · refine .andThen _ (fun r => ?_)
    dsimp only
    split
    · trivial
    · exact h
  · refine .andThen _ (fun ps => ?_)
    split
    · trivial
    · split
      · trivial
      · exact h.usePieces.foldl (fun _ _ h => .ite h.touchLines h)

theorem State.Inv.copyWrite (h : s.Inv) {core id a aw : Nat} {bs : List Byte} : (s.copyWrite core id a aw bs).All (fun r => r.1.Inv) := by
  unfold State.copyWrite
  split
  · refine .andThen _ (fun r => ?_)
    dsimp only
    split
    · trivial
    · split
      next hland => exact (h.land hland).letIn
      next => trivial
  · refine .andThen _ (fun ps => ?_)
    split
    · trivial
    · split
      · trivial
      · exact h.usePieces.newTok.putPieces

theorem State.Inv.cmdCredit (h : s.Inv) {core id dst n : Nat} {t : State} (ht : s.cmdCredit core id dst n = some t) : t.Inv := by
  unfold State.cmdCredit at ht
  split at ht
  · cases ht; exact h
  · dsimp only at ht
    split at ht
    · cases ht; exact h
    · split at ht
      · cases ht
      · cases ht; exact h.failCmd
      · split at ht
        · cases ht
        · split at ht
          · cases ht; exact h.failCmd
          · cases ht; exact h.credit.letIn

theorem State.Inv.endRow (h : s.Inv) {core id k dst : Nat} : (s.endRow core id k dst).Inv := by
  unfold State.endRow
  split
  · exact h
  · split
    · exact h.refuseAt.modRow.schedOnce
    next hcredit =>
      have hdone := (h.cmdCredit hcredit).modCmd (core := core) (id := id) (f := fun c => { c with rows := c.rows.filter (fun x => x.k != k) })
      dsimp only
      split
      · exact hdone
      · exact .ite hdone.finishCmd (State.Inv.ite hdone.modCmd.schedOnce hdone).offerRow.finishCmd

theorem State.Inv.execCopyCommandStart (h : s.Inv) {core : Nat} : (execCopyCommandStart core s).Sound := by
  unfold Machine.execCopyCommandStart
  show State.Inv _
  split
  · exact h
  · refine .ite h (.ite h.schedOnce (.ite ?_ (.ite h.modCmd.failCmd ?_)))
    · split
      · exact h.refuseAt.schedOnce
      next hcredit => exact (h.modCmd.cmdCredit hcredit).modCmd.finishCmd.schedOnce
    · split
      · exact h.modCmd.modCmd.offerRow.schedOnce
      · exact h.modCmd.schedOnce

theorem State.Inv.execGatherIndexBatch (h : s.Inv) {core id : Nat} : (execGatherIndexBatch core id s).Sound := by
  unfold Machine.execGatherIndexBatch
  show State.Inv _
  split
  · exact h
  next c _ =>
    have hread := h.copyRead (core := core) (id := id) (a := fld c.desc 319 256 + 32 * c.next) (n := 32)
    refine .ite h (.ite h.schedOnce ?_)
    dsimp only
    generalize s.copyRead core id (fld c.desc 319 256 + 32 * c.next) 32 = r at *
    cases r with
    | err e => exact h.failCmd
    | stall => exact h.schedOnce
    | parked va => exact h.parkCmd
    | miss va => exact h.missCmd
    | ok v =>
      have hgone := State.Inv.keep hread (t := { v.2 with fresh := v.2.fresh + 1 })
      exact .ite hgone.modCmd.offerRow.schedOnce hgone.modCmd.offerRow.schedOnce

theorem State.Inv.refuseRow (h : s.Inv) {core : Nat} {c : Cmd} {r : Row} : (s.refuseRow core c r).Inv := by
  unfold State.refuseRow
  refine .ite ?_ h
  split
  · exact h.refuseAt
  · exact h

theorem State.Inv.rowBytes (h : s.Inv) {core : Nat} {c : Cmd} {r : Row} : (s.rowBytes core c r).All (fun r => r.2.Inv) := by
  unfold State.rowBytes
  split
  · exact h
  · exact h
  · have hread := h.copyRead (core := core) (id := c.id) (a := r.src) (n := c.len)
    generalize s.copyRead core c.id r.src c.len = v at *
    cases v with
    | ok v => exact State.Inv.keep hread
    | _ => trivial

theorem State.Inv.execCopyRowWrite (h : s.Inv) {core id k : Nat} : (execCopyRowWrite core id k s).Sound := by
  unfold Machine.execCopyRowWrite
  show State.Inv _
  split
  · exact h
  next c _ =>
    split
    · exact h.offerRow.finishCmd
    next r _ =>
      refine .ite h (.ite h.schedOnce (.ite h.schedOnce (.ite h.endRow (.ite h.endRow ?_))))
      have hbytes := CopyRes.All.andThen (s.rowOk core c r) (fun _ => h.rowBytes (core := core) (c := c) (r := r))
      generalize (s.rowOk core c r).andThen (fun _ => s.rowBytes core c r) = v at *
      cases v with
      | err e => exact h.failCmd
      | stall => exact h.refuseRow.schedOnce
      | parked va => exact h.parkCmd
      | miss va => exact h.missCmd
      | ok v =>
        have hwrite := State.Inv.copyWrite hbytes (core := core) (id := id) (a := r.dst + r.done) (aw := fld c.desc 483 482)
          (bs := v.1.take (segLen (r.dst + r.done) v.1.length))
        dsimp only
        generalize v.2.copyWrite core id (r.dst + r.done) (fld c.desc 483 482) (v.1.take (segLen (r.dst + r.done) v.1.length)) = w at *
        cases w with
        | err e => exact h.failCmd
        | stall => exact h.refuseRow.schedOnce
        | parked va => exact h.parkCmd
        | miss va => exact h.missCmd
        | ok w =>
          have hdone := State.Inv.takeBeats hwrite (core := core) (n := segLen (r.dst + r.done) v.1.length)
          dsimp only
          split
          · exact hdone.modCmd.offerRow
          · exact .ite hdone.endRow hdone.modRow.schedOnce

theorem State.Inv.heldRowEnds (h : s.Inv) {core tok : Nat} : (s.heldRowEnds core tok).Inv := by
  unfold State.heldRowEnds
  split
  · exact .ite h.modCmd.finishCmd h.modCmd.endRow
  · exact h

theorem State.Inv.goOnCmd (h : s.Inv) {core id : Nat} : (s.goOnCmd core id).Inv := by
  unfold State.goOnCmd
  split
  · exact h
  · exact .ite h (State.Inv.ite h.schedOnce h).offerRow

theorem State.Inv.retryCmds (h : s.Inv) {core : Nat} {hit : Nat → Bool} : (s.retryCmds core hit).Inv :=
  h.foldl (fun _ _ h => .ite h.modCmd.goOnCmd h)

theorem State.Inv.admitSched (h : s.Inv) {core n : Nat} : (s.admitSched core n).Inv := by
  induction n generalizing s with
  | zero => exact h
  | succ n ih =>
    unfold State.admitSched
    split
    · refine .ite h (ih ?_)
      split
      · exact h.modCore.newTok.modCore.schedOnce
      · exact h.modCore
    · exact h

theorem State.Inv.execScheduleEntryRelease (h : s.Inv) {team sched : Nat} : (execScheduleEntryRelease team sched s).Sound := by
  unfold Machine.execScheduleEntryRelease
  show State.Inv _
  split
  · exact h
  · split
    · split
      · exact h
      · exact .ite h h.modTeam.modCore.admitSched.schedOnce
    · exact h

theorem State.Inv.execCopyCommandComplete (h : s.Inv) {core id : Nat} : (execCopyCommandComplete core id s).Sound := by
  unfold Machine.execCopyCommandComplete
  show State.Inv _
  split
  · exact h
  · refine State.Inv.schedOnce ?_
    refine State.Inv.admitSched ?_
    split
    · split
      · refine State.Inv.modTeam ?_
        split
        · exact h.modCore.sched
        · exact h.modCore.sched
        · exact h.modCore
      · split
        · exact h.modCore.sched
        · exact h.modCore.sched
        · exact h.modCore
    · refine State.Inv.modCore ?_
      split
      · exact h.modCore.sched
      · exact h.modCore.sched
      · exact h.modCore

theorem State.Inv.copyOp (h : s.Inv) {kind : CmdKind} {dst base : Reg} {disp : BitVec 16} {swz : Bool} {fill : Byte} :
    (s.copyOp kind dst base disp swz fill).Sound := by
  refine h.runOp (fun _ => ?_)
  extract_lets a d go
  have hgo : go.Sound := by
    refine fun _ h => State.Inv.advance (State.Inv.schedOnce (State.Inv.modCore (State.Inv.newTok (h.modMe (fun _ h => ?_)))))
    exact h.addPend.keep rfl rfl
  split
  · exact trivial
  · refine .ite trivial ?_
    split
    · exact trivial
    · exact .ite (fun _ h => h) (.ite hgo (.withPend hgo))

theorem State.Inv.execCopy (h : s.Inv) {dst base : Reg} {disp : BitVec 16} {swz : Bool} : (execCopy dst base disp swz s).Sound := h.copyOp
theorem State.Inv.execGather (h : s.Inv) {dst base : Reg} {disp : BitVec 16} {swz : Bool} {fill : BitVec 8} :
    (execGather dst base disp swz fill s).Sound := h.copyOp

theorem State.Inv.execScatter (h : s.Inv) {dst base : Reg} {disp : BitVec 16} : (execScatter dst base disp s).Sound := h.copyOp
theorem State.Inv.finishEntry (h : s.Inv) {c n : Nat} : (s.finishEntry c n).Inv := by
  unfold State.finishEntry
  refine .ite h ?_
  split
  · split
    · exact h.setCtx (h.ctx _ _).enterTrap.readyAt
    · exact h.haltTeam
  · exact h.setCtx (h.ctx _ _).enterLight.readyAt
  · exact h

theorem State.Inv.execTrapEntry (h : s.Inv) {core ctx : Nat} {code : FCode} {w2 w3 : Word} : (execTrapEntry core ctx code w2 w3 s).Sound := by
  unfold Machine.execTrapEntry
  show State.Inv _
  split
  · exact h.finishEntry
  · exact h.finishEntry
  · exact .ite h.trap h

theorem State.Inv.execSoftError (h : s.Inv) {core ctx : Nat} : (execSoftError core ctx s).Sound := State.Inv.ite h.trap h
theorem State.Inv.execFaultLogEntry (h : s.Inv) {core ctx : Nat} {e : LogEnt} : (execFaultLogEntry core ctx e s).Sound := h.logFault
theorem State.Inv.execTriggerNotice (h : s.Inv) {core ctx : Nat} : (execTriggerNotice core ctx s).Sound := h.modCtx.schedOnce
theorem State.Inv.writeResult (h : s.Inv) {c n : Nat} {res : Result} {r : Reply} : (s.writeResult c n res r).Inv := by
  unfold State.writeResult
  split
  · exact h.putCtx
  · exact h.putCtx
  · exact h.modCtx
  · exact h.putCtx.modCtx.acquire
  · exact h.putCtx.cacheDropAll
  · exact h
  · exact h.modCore

theorem State.Inv.refund (h : s.Inv) {c : Nat} {res : Result} : (s.refund c res).Inv := by
  unfold State.refund
  split
  · exact h.modCore
  · exact h.modCore
  · exact h.modCore
  · exact h.modCore
  · exact h

theorem State.Inv.unpop (h : s.Inv) {c at_ : Nat} {p : Dir × QEnt} : (s.unpop c at_ p).Inv := .ite h.keep h.modCore.modSide
theorem State.Inv.undoBundle (h : s.Inv) {c n : Nat} : (s.undoBundle c n).Inv := by
  unfold State.undoBundle
  split
  · exact h.modCtx.foldl (fun _ _ h => h.unpop)
  · exact h

theorem State.Inv.reply (h : s.Inv) {c n tok : Nat} {r : Reply} : (s.reply c n tok r).Inv := by
  unfold State.reply
  dsimp only
  split
  · refine .ite ?_ ?_
    · split
      · exact h.refund.undoBundle.modCtx.trap
      · exact h.writeResult.modCtx
    · split
      · exact h.modCtx
      · exact h.complete
  · split
    · exact h.modCtx
    · exact h.complete

theorem State.Inv.execReplyWrite (h : s.Inv) {core ctx tok : Nat} {r : Reply} : (execReplyWrite core ctx tok r s).Sound := h.reply
theorem State.Inv.execPendingCompletionWrite (h : s.Inv) {core ctx tok : Nat} {v : Word} : (execPendingCompletionWrite core ctx tok v s).Sound :=
  h.complete

theorem State.Inv.execEagerSpill (h : s.Inv) {core : Nat} : (execEagerSpill core s).Sound := by
  unfold Machine.execEagerSpill
  show State.Inv _
  split
  · exact h.spillWindow
  · exact h

theorem State.Inv.execWindowSpill (h : s.Inv) {core ctx : Nat} : (execWindowSpill core ctx s).Sound := by
  unfold Machine.execWindowSpill
  show State.Inv _
  refine .ite ?_ h
  dsimp only
  split
  · exact h.spillWindow
  · exact h.spillWindow.finishEntry

theorem State.Inv.execWindowRefill (h : s.Inv) {core ctx : Nat} : (execWindowRefill core ctx s).Sound := by
  unfold Machine.execWindowRefill
  show State.Inv _
  split
  · exact h.refillWindow
  · exact h

theorem State.Inv.driveLinks (h : s.Inv) {c : Nat} : (s.driveLinks c).Inv := h.foldl (fun _ _ h => .ite h.driveEng h)
theorem State.Inv.execThrottleStepBegin (h : s.Inv) {core : Nat} : (execThrottleStepBegin core s).Sound :=
  State.Inv.ite h.keep.driveLinks h.schedOnce

theorem State.Inv.execThrottleStepEnd (h : s.Inv) {core : Nat} : (execThrottleStepEnd core s).Sound := State.Inv.ite h.keep.driveLinks h.schedOnce
theorem State.Inv.wakeSteward (h : s.Inv) {k : Nat} : (s.wakeSteward k).Inv := by
  unfold State.wakeSteward
  split
  · exact h.reply
  · exact h

theorem State.Inv.refuseSteward (h : s.Inv) {k : Nat} : (s.refuseSteward k).Inv := h.modCtx.trap
theorem State.Inv.svcPop (h : s.Inv) {k : Nat} {dst : Reg} : (s.svcPop k dst).Inv := by
  unfold State.svcPop
  split
  · exact h.putCtx
  · exact h.keep.modSteward.putCtx

theorem State.Inv.execSvcreq (h : s.Inv) {k : Nat} {dst : Reg} : (execSvcreq k dst s).Sound := h.svcPop
theorem State.Inv.svcAnswer (h : s.Inv) {k : Nat} {v : Word} : (s.svcAnswer k v).Inv := by
  unfold State.svcAnswer
  split
  · exact h.modSteward.sched
  · exact h

theorem State.Inv.execSvcans (h : s.Inv) {k : Nat} {v : Word} : (execSvcans k v s).Sound := h.svcAnswer
theorem State.Inv.execTrapAnswer (h : s.Inv) {core ctx : Nat} {v : Word} : (execTrapAnswer core ctx v s).Sound := by
  unfold Machine.execTrapAnswer
  show State.Inv _
  split
  · exact h.reply
  · exact h

theorem State.Inv.execSpanin (h : s.Inv) {k : Nat} {v : Word} : (execSpanin k v s).Sound := by
  unfold Machine.execSpanin
  show State.Inv _
  split
  · exact h.keep.wakeSteward
  · exact h.refuseSteward

theorem State.Inv.execSlotroot (h : s.Inv) {k : Nat} {v : Word} : (execSlotroot k v s).Sound := by
  unfold Machine.execSlotroot
  show State.Inv _
  split
  · exact h.modSlot.wakeSteward
  · exact h.refuseSteward

theorem State.Inv.execEscwait (h : s.Inv) {k : Nat} {v : Word} : (execEscwait k v s).Sound := by
  unfold Machine.execEscwait
  show State.Inv _
  split
  · exact h.keep.wakeSteward
  · exact h.refuseSteward

theorem State.Inv.dropTlb (h : s.Inv) {all : Bool} {va : Nat} : (s.dropTlb all va).Inv := h.setCtxs (fun h => h.mapAll (fun _ _ h => h))
theorem State.Inv.execTlbinv (h : s.Inv) {k : Nat} {v : Word} : (execTlbinv k v s).Sound :=
  State.Inv.ite (State.Inv.ite h.dropTlb h).modSteward.sched (State.Inv.ite h.dropTlb h).modSteward.wakeSteward

theorem State.Inv.beginSwitch (h : s.Inv) {t : Nat} {w : Option (Nat × Nat)} : (s.beginSwitch t w).Inv := h.keep.sched
theorem State.Inv.execSwreq (h : s.Inv) {k : Nat} {v : Word} : (execSwreq k v s).Sound := by
  unfold Machine.execSwreq
  show State.Inv _
  split
  · exact h.wakeSteward
  · exact .ite h.sched h.beginSwitch

theorem State.Inv.execSysrd (h : s.Inv) {dst : Reg} {sreg : BitVec 12} : (execSysrd dst sreg s).Sound :=
  h.runOp (fun _ => .ite trivial (.ite trivial (.ite (fun _ h => h.svcPop.advance) (fun _ h => h.put.advance))))

theorem Eff.Sound.devWrite {i : Instr} : (devWrite i).Sound := fun _ h => h.sched.parkResult
theorem State.Inv.execSyswr (h : s.Inv) {sreg : BitVec 12} {src : Reg} : (execSyswr sreg src s).Sound := by
  unfold Machine.execSyswr
  refine h.runOp (fun _ => .ite trivial (.ite trivial ?_))
  split
  · exact fun _ h => h.modMe.advance
  · exact fun _ h => h.modMe.advance
  · exact .devWrite
  · exact .devWrite
  · exact .devWrite
  · exact .ite trivial .devWrite
  · exact .devWrite
  · exact .ite (fun _ h => h.advance) (fun _ h => h.sched.parkResult)
  · exact fun _ h => h.svcAnswer.advance
  · exact .ite trivial .devWrite
  · exact fun _ h => h.modSteward.advance
  · exact .ite trivial .devWrite
  · exact fun _ h => h.modSteward.advance
  · trivial

end Sys2Proof.Machine
end

section
/-! PROOFS. The invariant of O5, kept by every operation of its own: the fabric, the homes and channels, and uploads. -/

namespace Sys2Proof.Machine
-- One theorem at a time: Lean evaluates the rules' default arguments on a thread of its own for each theorem that waits for them.
set_option Elab.async false
variable {s t : State}

theorem State.Inv.execInjectionSend (h : s.Inv) {core : Nat} : (execInjectionSend core s).Sound := by
  unfold Machine.execInjectionSend
  show State.Inv _
  split
  · exact h
  · refine .ite h.schedSoon (.ite h.schedSoon (.ite h.schedSoon ?_))
    refine State.Inv.pump ?_
    split
    · exact h.modCore.modRouter.sendHome
    · exact h.modCore.modRouter.enterRouter
    · exact h.modCore.modRouter.sched

theorem State.Inv.ageHeads (h : s.Inv) {c : Nat} {qs : List Req} : (s.ageHeads c qs).Inv :=
  h.foldl (fun _ _ h => .ite h.modRouter.schedOnce h.modRouter)

theorem State.Inv.eject (h : s.Inv) {c : Nat} {p : Pkt} : (s.eject c p).Inv := .ite h.modRouter.sched h.sched
theorem State.Inv.grant (h : s.Inv) {c port : Nat} {q : Req} : (s.grant c port q).Inv :=
  .ite (State.Inv.ite h.modRouter.eject h.modRouter.enterChan).admitLocal (.ite h.modRouter.eject h.modRouter.enterChan)

theorem State.Inv.execOutputArbitration (h : s.Inv) {core port : Nat} : (execOutputArbitration core port s).Sound := by
  unfold Machine.execOutputArbitration
  show State.Inv _
  refine .ite h.kickRouter ?_
  dsimp only
  split
  · exact h.ageHeads.kickRouter
  · exact h.ageHeads.grant.kickRouter

theorem State.Inv.execEscapeEntry (h : s.Inv) {core chan : Nat} : (execEscapeEntry core chan s).Sound := by
  unfold Machine.execEscapeEntry
  show State.Inv _
  split
  · exact .ite (State.Inv.ite h.modRouter.admitLocal h.modRouter).kickRouter h
  · exact h

theorem State.Inv.ackTo (h : s.Inv) {c src ctx tok : Nat} : (s.ackTo c src ctx tok).Inv := h.sendPkt
theorem State.Inv.ackPkt (h : s.Inv) {p : Pkt} : (s.ackPkt p).Inv := h.ackTo
theorem State.Inv.failPkt (h : s.Inv) {p : Pkt} {code : FCode} {kind : Nat} {a : Word} : (s.failPkt p code kind a).Inv := h.sched.ackPkt
theorem State.Inv.arrive (h : s.Inv) {p : Pkt} {dropKind off : Nat} {k : State → State} (hf : ∀ (a : State), a.Inv → (k a).Inv) :
    (s.arrive p dropKind off k).Inv := .ite h.refuseAt.sched (.ite h.letIn.failPkt (hf _ h.letIn))

theorem State.Inv.pktCredit (h : s.Inv) {p : Pkt} {off q n : Nat} : (s.pktCredit p off q n).Inv := by
  unfold State.pktCredit
  split
  · exact h.failPkt
  · exact h.credit.ackPkt

theorem State.Inv.landPkt (h : s.Inv) {p : Pkt} {off : Nat} {bs : List Byte} {acc : Option AccTy} {q : Option Nat} :
    (s.landPkt p off bs acc q).Inv := by
  unfold State.landPkt
  refine h.arrive (fun _ h => .ite h.failPkt ?_)
  split
  · exact h.failPkt
  next hland =>
    split
    · exact (h.land hland).pktCredit
    · exact (h.land hland).ackPkt

theorem State.Inv.execRemoteStoreArrival (h : s.Inv) {p : Pkt} : (execRemoteStoreArrival p s).Sound := by
  unfold Machine.execRemoteStoreArrival
  show State.Inv _
  split
  · exact h.landPkt
  · exact h.landPkt
  · exact h.landPkt
  · exact h

theorem State.Inv.fillWord (h : s.Inv) {c off : Nat} {v : Word} : (s.fillWord c off v).Inv := h.store.setFull
theorem State.Inv.execRstFeArrival (h : s.Inv) {p : Pkt} : (execRstFeArrival p s).Sound := by
  unfold Machine.execRstFeArrival
  show State.Inv _
  split
  · exact h.arrive (fun _ h => .ite h.failPkt (.ite h.modCore.sched (.ite h.modCore.fillWord.ackPkt (.ite h.modCore h.modCore.sched))))
  · exact h

theorem State.Inv.resendPkt (h : s.Inv) {p : Pkt} : (s.resendPkt p).Inv := h.enterRouter
theorem State.Inv.execRstFeResend (h : s.Inv) {p : Pkt} : (execRstFeResend p s).Sound := h.resendPkt
theorem State.Inv.execWriteResend (h : s.Inv) {p : Pkt} : (execWriteResend p s).Sound := h.resendPkt
theorem State.Inv.execAcknowledgement (h : s.Inv) {core ctx tok : Nat} : (execAcknowledgement core ctx tok s).Sound :=
  State.Inv.ite h.heldRowEnds (.ite h.modCore.pump h)

theorem State.Inv.execWcIdleTimeout (h : s.Inv) {core pa : Nat} : (execWcIdleTimeout core pa s).Sound := State.Inv.ite h.closeWc h
theorem State.Inv.replyHome (h : s.Inv) {r : HomeReq} {delay : Nat} {v : Reply} : (s.replyHome r delay v).Inv := .ite h (.ite h.sched.sched h.sched)
theorem State.Inv.ackHome (h : s.Inv) {r : HomeReq} : (s.ackHome r).Inv := .ite h h.sched
theorem State.Inv.logHome (h : s.Inv) {r : HomeReq} {code : FCode} {kind va : Nat} : (s.logHome r code kind va).Inv :=
  .ite h (.ite h.modCore (h.foldl (fun _ _ h => h.sched)))

theorem State.Inv.storeWord (h : s.Inv) {r : HomeReq} {mask k : Nat} : (s.storeWord r mask k).Inv :=
  .ite h (.ite h.logHome (h.write (memory_wf_memPutMasked h.wf _ _ _)))

theorem State.Inv.storeHome (h : s.Inv) {r : HomeReq} {mask : Nat} : (s.storeHome r mask).Inv := by
  unfold State.storeHome
  refine h.foldl (fun _ _ h => ?_)
  split
  · exact h.waitHeld
  · exact h.storeWord

theorem State.Inv.sendData (h : s.Inv) {r : HomeReq} {delay : Nat} : (s.sendData r delay).Inv := by
  unfold State.sendData
  split
  · exact (State.Inv.ite h h.cacheFill).replyHome
  · exact h.replyHome
  · exact h.replyHome
  · exact h

theorem State.Inv.lineData (h : s.Inv) {r : HomeReq} {dirty : Bool} : (s.lineData r dirty).Inv :=
  .ite (State.Inv.ite h.touchLine.modChan h.touchLine).sendData h.touchLine.modChan.schedSoon

theorem State.Inv.fineData (h : s.Inv) {r : HomeReq} : (s.fineData r).Inv := .ite h.lineData h.modChan.schedSoon
theorem State.Inv.grantHold (h : s.Inv) {r : HomeReq} {queue : List HomeReq} {direct : Bool} : (s.grantHold r queue direct).Inv :=
  .ite h.keep.replyHome.sched (.ite h.keep.sendData (.ite h.keep.fineData h.keep.lineData))

theorem State.Inv.dropCopy (h : s.Inv) {r : HomeReq} : (s.dropCopy r).Inv := .ite h h.cacheDrop
theorem State.Inv.atHome (h : s.Inv) {r : HomeReq} : (s.atHome r).Inv := by
  unfold State.atHome
  extract_lets s1
  have h1 : s1.Inv := .ite h h.dropCopy
  clear_value s1
  split
  · exact .ite h1.replyHome h1.lineData
  · exact .ite h1.replyHome h1.fineData
  · exact .ite h1.storeHome.lineData h1.storeHome.lineData.ackHome
  · split
    · exact h1.grantHold
    · exact .ite h1.waitHeld h1.sched
  · split
    · exact .ite h1.ackHome.store.lineData.keep.sched h1.ackHome
    · exact h1.ackHome
  · split
    · exact h1.waitHeld
    · exact .ite h1.logHome.ackHome h1.store.lineData.ackHome
  · split
    · exact h1.waitHeld
    · exact .ite h1.logHome.ackHome h1.store.lineData.ackHome
  · exact .ite h1.replyHome h1.lineData.replyHome

theorem State.Inv.execHomeRequestArrival (h : s.Inv) {r : HomeReq} : (execHomeRequestArrival r s).Sound := State.Inv.ite h.modDie h.atHome
theorem State.Inv.serveHold (h : s.Inv) {k n : Nat} : (s.serveHold k n).Inv := by
  induction n generalizing s with
  | zero => exact h
  | succ n ih =>
    unfold State.serveHold
    split
    · exact h
    · refine .ite h ?_
      split
      · exact h.keep
      · extract_lets r
        have hr : r.Inv := State.Inv.atHome h.keep
        exact .ite h.grantHold (.ite hr (ih hr.keep))

theorem State.Inv.execHoldGrant (h : s.Inv) {pa : Nat} : (execHoldGrant pa s).Sound := h.serveHold
theorem State.Inv.execHoldResend (h : s.Inv) {r : HomeReq} : (execHoldResend r s).Sound := h.sendHome
theorem State.Inv.execHbmRequestServe (h : s.Inv) {ch : Nat} : (execHbmRequestServe ch s).Sound := by
  unfold Machine.execHbmRequestServe
  show State.Inv _
  refine .ite h.schedSoon ?_
  extract_lets draining rAt wAt oldW write s1 kw kr s2 y s3
  have h1 : s1.Inv := h.modChan
  have h2 : s2.Inv := by
    refine .ite h1.modChan ?_
    split
    · exact h1.modChan.sendData
    · exact h1
  have h3 : s3.Inv := .ite h2.pumpAll h2
  refine .ite h3.schedSoon ?_
  split
  · exact h3.schedSoon
  · exact h3

theorem State.Inv.execHbmRefresh (h : s.Inv) {ch : Nat} : (execHbmRefresh ch s).Sound := h.modChan.spend
theorem State.Inv.execFineGrainBatchIssue (h : s.Inv) {ch : Nat} : (execFineGrainBatchIssue ch s).Sound := State.Inv.ite h h.modChan.schedSoon
theorem State.Inv.endWalk (h : s.Inv) {die : Nat} {w : Walk} : (s.endWalk die w).Inv := by
  unfold State.endWalk
  refine h.foldl (fun _ _ h => ?_)
  refine .ite ?_ h
  refine State.Inv.modCtx ?_
  split
  · exact h.useTlb
  · exact h

theorem State.Inv.endCopyWalk (h : s.Inv) {die : Nat} {w : Walk} : (s.endCopyWalk die w).Inv := by
  unfold State.endCopyWalk
  refine h.foldl (fun _ _ h => ?_)
  refine .ite ?_ h
  refine State.Inv.foldl ?_ (fun _ _ h => h.goOnCmd)
  refine State.Inv.modCore ?_
  split
  · exact h.useClusterTlb
  · exact h.modCore

theorem State.Inv.execPageWalk (h : s.Inv) {die : Nat} : (execPageWalk die s).Sound := by
  unfold Machine.execPageWalk
  show State.Inv _
  split
  · exact h
  · dsimp only
    split
    · exact ((h.foldl (fun _ _ h => h.touchLine)).modDie.foldl (fun _ _ h => h.endWalk.endCopyWalk)).sched
    · exact (h.foldl (fun _ _ h => h.touchLine)).modDie.foldl (fun _ _ h => h.endWalk.endCopyWalk)

theorem State.Inv.retryPage (h : s.Inv) {e : TlbE} : (s.retryPage e).Inv := h.foldl (fun _ _ h => .ite h.retryCmds h)
theorem State.Inv.failPage (h : s.Inv) {e : TlbE} {code : FCode} : (s.failPage e code).Inv :=
  h.foldl (fun _ _ h => .ite (h.foldl (fun _ _ h => .ite h.modCmd.failCmd h)) h)

theorem State.Inv.takeQueued (h : s.Inv) {pa size : Nat} : (s.takeQueued pa size).1.Inv := h.keep
theorem State.Inv.wakeFetch (h : s.Inv) {e : TlbE} : (s.wakeFetch e).Inv := h.foldl (fun _ _ h => h.wake)
theorem State.Inv.failFetch (h : s.Inv) {e : TlbE} {code : FCode} : (s.failFetch e code).Inv := h.foldl (fun _ _ h => h.modCtx.trap)
theorem State.Inv.execResidencyRepair (h : s.Inv) {space va : Nat} : (execResidencyRepair space va s).Sound := by
  unfold Machine.execResidencyRepair
  show State.Inv _
  split
  · extract_lets v r stale q taken p
    have hr : r.Inv := .ite h (h.write (memory_wf_memPut h.wf _ _))
    have hq : q.Inv := .of hr.wf (hr.ctxs.mapAll (fun _ _ h => h)) hr.teams
    have hp : p.Inv := hq.takeQueued.foldl (fun _ _ h => h.atHome)
    exact hp.retryPage.wakeFetch.pumpAll
  · exact h

theorem State.Inv.failHome (h : s.Inv) {r : HomeReq} {code : FCode} : (s.failHome r code).Inv := by
  unfold State.failHome
  split
  · exact h.replyHome
  · exact h.replyHome
  · exact h.replyHome
  · exact h.replyHome
  · exact h.logHome.ackHome
  · exact h.logHome.ackHome
  · exact h.logHome.ackHome
  · exact h.atHome

theorem State.Inv.execResidencyFatal (h : s.Inv) {space va : Nat} {protect : Bool} : (execResidencyFatal space va protect s).Sound := by
  unfold Machine.execResidencyFatal
  show State.Inv _
  refine State.Inv.pumpAll ?_
  refine State.Inv.failFetch ?_
  refine State.Inv.failPage ?_
  refine State.Inv.foldl ?_ (fun _ _ h => h.failHome)
  split
  · exact h.takeQueued
  · exact h

theorem State.Inv.execSpanInboundRequest (h : s.Inv) {link : Fin 24} {r : HomeReq} : (execSpanInboundRequest link r s).Sound := by
  unfold Machine.execSpanInboundRequest
  show State.Inv _
  dsimp only
  split
  · exact h
  · exact h
  · exact .ite h.sched h

theorem State.Inv.endPcie (h : s.Inv) {core ctx tok : Nat} {v : Reply} : (s.endPcie core ctx tok v).Inv := .ite h.keep.reply h
theorem State.Inv.execPcieCompletion (h : s.Inv) {core ctx tok : Nat} {bytes : List Byte} : (execPcieCompletion core ctx tok bytes s).Sound :=
  h.endPcie

theorem State.Inv.execPcieCompletionTimeout (h : s.Inv) {core ctx tok : Nat} : (execPcieCompletionTimeout core ctx tok s).Sound := h.endPcie
theorem State.Inv.execUncorrectableError (h : s.Inv) {key : Nat} : (execUncorrectableError key s).Sound := h.keep

end Sys2Proof.Machine
end

section
/-! PROOFS. The invariant of O5, kept by every operation of its own: the host, launches and switches. -/

namespace Sys2Proof.Machine
-- One theorem at a time: Lean evaluates the rules' default arguments on a thread of its own for each theorem that waits for them.
set_option Elab.async false
variable {s t : State}

theorem State.Inv.afterReset {on : Bool} : (s.afterReset on).Inv := of memory_wf_empty .empty .empty
theorem State.Inv.execDeviceReset (_ : s.Inv) : (execDeviceReset s).Sound := State.Inv.afterReset
theorem State.Inv.execPowerLoss (_ : s.Inv) : (execPowerLoss s).Sound := State.Inv.afterReset
theorem State.Inv.recover (h : s.Inv) {stage cause : Nat} : (s.recover stage cause).Inv := h.keep
theorem State.Inv.runStage (h : s.Inv) {k : Nat} {d : List Byte} : (s.runStage k d).Inv := h.keep
theorem State.Inv.applyMap (h : s.Inv) {d : List Byte} : (s.applyMap d).Inv := h.keep
theorem State.Inv.startSteward (h : s.Inv) : s.startSteward.Inv := by
  unfold State.startSteward
  extract_lets img r
  have hr : r.Inv := h.foldl (fun _ _ h => (h.setCtx Ctx.nested.start).modSteward)
  exact hr.keep

theorem State.Inv.bringUpGoesOn (h : s.Inv) : s.bringUpGoesOn.Inv := .ite h.schedOnce h
theorem State.Inv.execBootStage (h : s.Inv) {stage : Nat} : (execBootStage stage s).Sound := by
  unfold Machine.execBootStage
  show State.Inv _
  refine .ite h ?_
  split
  · split
    · exact h.recover
    · exact h.runStage.sched
  · split
    · exact h.recover
    · exact .ite h.recover h.runStage.applyMap.sched
  · split
    · exact h.recover
    · exact h.runStage
  · exact .ite h.startSteward h
  · exact h

theorem State.Inv.execHbmTrainingAttempt (h : s.Inv) {stack : Fin 12} {ok : Bool} : (execHbmTrainingAttempt stack ok s).Sound :=
  State.Inv.ite h (.ite h.keep.keep.bringUpGoesOn (.ite h.keep.recover h.keep))

theorem State.Inv.execSramSelfTest (h : s.Inv) {ok : Bool} : (execSramSelfTest ok s).Sound :=
  State.Inv.ite h (.ite h.keep.bringUpGoesOn h.keep.recover)

theorem State.Inv.execDieBridgeTraining (h : s.Inv) {ok : Bool} : (execDieBridgeTraining ok s).Sound :=
  State.Inv.ite h (.ite h.keep.bringUpGoesOn h.keep.recover)

theorem State.Inv.execSpanLinkTraining (h : s.Inv) {link : Fin 24} {lanes : Nat} {peer : BitVec 8} :
    (execSpanLinkTraining link lanes peer s).Sound := State.Inv.ite h h.keep

theorem State.Inv.execPortTraining (h : s.Inv) {port : Fin 9} {width rate : Nat} : (execPortTraining port width rate s).Sound :=
  State.Inv.ite h h.keep

theorem State.Inv.begins (h : s.Inv) {tag : BitVec 16} {f : State → State × MailRun} (hf : ∀ (a : State), a.Inv → (f a).1.Inv) :
    (s.begins tag f).Inv := hf _ h.keep

theorem State.Inv.command (h : s.Inv) {tag : BitVec 16} {f : State → State × MailRun} (hf : ∀ (a : State), a.Inv → (f a).1.Inv) :
    (s.command tag f).Inv := .ite h.keep (hf _ h.keep.keep)

theorem State.Inv.touchContent (h : s.Inv) {g : Img} {slot : Nat} : (s.touchContent g slot).Inv := by
  unfold State.touchContent
  refine h.foldl (fun _ _ h => ?_)
  refine h.foldl (fun _ _ h => ?_)
  split
  · exact h.touchSpan
  · exact h

theorem memory_wf_ensureTable {m : List Host.Cell} (h : Memory.wf m = true) (next tbl level va : Nat) :
    Memory.wf (ensureTable m next tbl level va).1 = true := by
  unfold ensureTable
  dsimp only
  split
  · exact h
  · exact memory_wf_memPut h _ _

theorem memory_wf_mapPage {m : List Host.Cell} (h : Memory.wf m = true) (next root va attr : Nat) :
    Memory.wf (mapPage m next root va attr).1 = true :=
  memory_wf_memPut (memory_wf_ensureTable (memory_wf_ensureTable (memory_wf_ensureTable h _ _ _ _) _ _ _ _) _ _ _ _) _ _

theorem memory_wf_mapRegion {m : List Host.Cell} (h : Memory.wf m = true) (root va attr : Nat) (bytes : List Byte) (n next : Nat) :
    Memory.wf (mapRegion root va attr bytes n m next).1 = true := by
  induction n with
  | zero => exact h
  | succ n ih => exact memory_wf_memPut (memory_wf_mapPage ih _ _ _ _) _ _

theorem memory_wf_buildSpace {m : List Host.Cell} (h : Memory.wf m = true) (g : Img) (codeBase place : Nat) :
    Memory.wf (buildSpace m g codeBase place) = true :=
  List.foldlRecOn (motive := fun r : List Host.Cell × Nat => Memory.wf r.1 = true) (plans g) _
    (memory_wf_mapRegion (memory_wf_memClear h _ _) _ _ _ _ _ _) (fun _ hr _ _ => memory_wf_mapRegion hr _ _ _ _ _ _)

theorem State.Inv.execUpload (h : s.Inv) {tag : BitVec 16} {codeBase place : Nat} : (execUpload tag codeBase place s).Sound := by
  unfold Machine.execUpload
  show State.Inv _
  refine .ite h (h.command (fun _ h => ?_))
  split
  · exact h
  · split
    · exact h
    · split
      · exact h
      · split
        · exact h
        · exact (h.write (memory_wf_buildSpace h.wf _ _ _)).modSlot.touchContent

theorem State.Inv.execRelease (h : s.Inv) {tag : BitVec 16} : (execRelease tag s).Sound := by
  unfold Machine.execRelease
  show State.Inv _
  refine h.command (fun _ h => ?_)
  split
  · exact h
  · dsimp only
    split
    · exact h
    · split
      · exact h
      · exact h.modSlot

theorem State.Inv.attestRun (h : s.Inv) {nonce : List Byte} : (attestRun nonce s).1.Inv := by
  unfold Machine.attestRun
  split <;> exact h

theorem State.Inv.execAttest (h : s.Inv) {tag : BitVec 16} : (execAttest tag s).Sound := State.Inv.ite h.keep (h.command (fun _ h => h.attestRun))
theorem State.Inv.execMailboxCommandComplete (h : s.Inv) : (execMailboxCommandComplete s).Sound := by
  unfold Machine.execMailboxCommandComplete
  show State.Inv _
  split
  · exact h
  · refine .ite h.keep.sched ?_
    split
    · exact h.keep.begins (fun _ h => h.attestRun)
    · exact h.keep

theorem State.Inv.flashChunk (h : s.Inv) : s.flashChunk.1.Inv := by
  unfold State.flashChunk
  dsimp only
  split
  · exact h.keep
  · split
    · exact h.keep
    · split
      · exact h.keep
      · split <;> exact h.keep

theorem State.Inv.execFlashwr (h : s.Inv) {tag : BitVec 16} : (execFlashwr tag s).Sound := by
  unfold Machine.execFlashwr
  show State.Inv _
  refine h.command (fun _ h => ?_)
  split
  · exact h
  · split
    · exact h
    · exact h.flashChunk

theorem State.Inv.execReset (h : s.Inv) {tag : BitVec 16} : (execReset tag s).Sound := by
  unfold Machine.execReset
  show State.Inv _
  refine h.command (fun _ h => ?_)
  split
  · exact h.keep
  · exact h

theorem State.Inv.cmdWrite (h : s.Inv) {op : Nat} {tag : BitVec 16} : (s.cmdWrite op tag).Sound := by
  unfold State.cmdWrite
  split
  · exact h.execUpload
  · exact h.execRelease
  · exact h.execAttest
  · exact h.execFlashwr
  · exact h.execReset
  · exact h.command (fun _ h => h)

theorem State.Inv.execRegisterWrite (h : s.Inv) {r : HostReg} {v : Word} : (execRegisterWrite r v s).Sound := by
  unfold Machine.execRegisterWrite
  refine .ite h.cmdWrite ?_
  show State.Inv _
  split
  · exact h.keep
  · exact h.keep
  · exact h
  · exact h.keep.wakeSteward
  · exact (h.keep.foldl (fun _ _ h => h.schedSoon)).wakeSteward
  · exact h.keep.schedOnce.wakeSteward

theorem State.Inv.execKick (h : s.Inv) {k : Nat} {v : Word} : (execKick k v s).Sound :=
  State.Inv.ite (.ite h h.keep) (.ite (State.Inv.ite h h.keep).modSlot (.ite (State.Inv.ite h h.keep).modSlot.schedOnce (State.Inv.ite h
    h.keep).modSlot))

theorem State.Inv.execHostStagingWrite (h : s.Inv) {off : Nat} {bytes : List Byte} : (execHostStagingWrite off bytes s).Sound :=
  State.Inv.ite h.store.touchSpan h

theorem State.Inv.execHostStagingRead (h : s.Inv) {off n : Nat} : (execHostStagingRead off n s).Sound := h.keep
theorem State.Inv.advanceReplay (h : s.Inv) {slot : Nat} : (s.advanceReplay slot).Inv := by
  unfold State.advanceReplay
  split
  · exact .ite (State.Inv.ite h.modSlot h.modSlot.schedOnce).schedOnce h.modSlot.schedOnce
  · exact h

theorem State.Inv.modReplay (h : s.Inv) {slot : Nat} {f : Replay → Replay} : (s.modReplay slot f).Inv := h.modSlot
theorem State.Inv.setNode (h : s.Inv) {slot j : Nat} {n : NodeSt} : (s.setNode slot j n).Inv := h.modReplay
theorem State.Inv.patchMem (h : s.Inv) {g : Graph} {slot : Nat} {ps : List (Nat × Nat)} : (s.patchMem g slot ps).Inv := by
  unfold State.patchMem
  refine h.foldl (fun _ _ h => ?_)
  split
  · split
    · exact h.store.touchSpan
    · exact h
  · exact h

theorem State.Inv.execReplayBegin (h : s.Inv) {slot : Nat} : (execReplayBegin slot s).Sound := by
  unfold Machine.execReplayBegin
  show State.Inv _
  split
  · dsimp only
    split
    · exact .ite h.modSlot.modSlot h.modSlot.modSlot.schedOnce
    · exact .ite (.ite h.modSlot.modSlot h.modSlot.modSlot.schedOnce) (.ite (.ite h.modSlot.modSlot h.modSlot.modSlot.schedOnce)
      h.modSlot.patchMem.modSlot.advanceReplay)
  · exact h

theorem State.Inv.dropEvents (h : s.Inv) {c : Nat} : (s.dropEvents c).Inv := h.settleCore.keep
theorem State.Inv.dropLink (h : s.Inv) {k : Nat} {d : Dir} : (s.dropLink k d).Inv := h.keep
theorem State.Inv.clearCtxs (h : s.Inv) {c : Nat} : (s.clearCtxs c).Inv := of h.wf h.ctxs.filter h.teams
theorem State.Inv.setupCore (h : s.Inv) {t c : Nat} : (s.setupCore t c).Inv :=
  h.dropEvents.clearCtxs.write (memory_wf_memClear h.dropEvents.clearCtxs.wf _ _)

theorem State.Inv.setupDirs (h : s.Inv) {c : Nat} : (s.setupDirs c).Inv := h.foldl (fun _ _ h => h.modCore)
theorem State.Inv.mapSides (h : s.Inv) {k : Nat} {f : Team → Core → Core} : (s.mapSides k f).Inv := by
  unfold State.mapSides
  extract_lets r
  have hr : r.Inv := by
    unfold r
    split
    · exact .ite h h.modCore
    · exact h
  exact .of hr.wf hr.ctxs (hr.teams.mapAll (fun _ _ h => h))

theorem State.Inv.linkNeighbours (h : s.Inv) {t : Team} {c : Nat} : (s.linkNeighbours t c).Inv := h.foldl (fun _ _ h => .ite h h.dropLink.mapSides)
theorem State.Inv.unlinkNeighbours (h : s.Inv) {t : Team} {c : Nat} : (s.unlinkNeighbours t c).Inv :=
  h.foldl (fun _ _ h => .ite h h.dropLink.mapSides)

theorem State.Inv.applyRm (h : s.Inv) {t : Team} {e : RmEntry} : (s.applyRm t e).Inv := by
  unfold State.applyRm
  dsimp only
  split
  · exact h.keep
  · exact h.write (memory_wf_memPut h.wf _ _)
  · exact h.modCore
  · exact h.modCore
  · exact h.modCore
  · exact h.modCore

theorem State.Inv.setupTeam (h : s.Inv) {t : Nat} {u : Team} (hu : u.nested) : (s.setupTeam t u).Inv := by
  have hset : ({ s with teams := s.teams.set t u } : State).Inv := of h.wf h.ctxs (h.teams.set hu)
  exact ((((hset.foldl (fun _ _ h => h.setupCore)).foldl (fun _ _ h => h.setupDirs.linkNeighbours)).foldl (fun _ _ h => h.applyRm)).foldl
    (fun _ _ h => h.cacheDropAll)).foldl (fun _ _ h => h.schedOnce)

theorem State.Inv.armPreempt (h : s.Inv) : s.armPreempt.Inv := by
  unfold State.armPreempt
  split
  · exact h
  · exact h.schedSoon

theorem State.Inv.tryPlace (h : s.Inv) {k : Cand} {t : State} (ht : s.tryPlace k = some t) : t.Inv := by
  unfold State.tryPlace at ht
  split at ht
  · split at ht
    · obtain ⟨-, heq⟩ := Option.ite_none_right_eq_some.1 ht
      cases heq
      exact (h.foldl (fun _ _ h => h.modCore)).sched
    · cases ht
  · split at ht
    · split at ht
      · obtain ⟨p, -, rfl⟩ := Option.map_eq_some_iff.1 ht
        exact ((h.newTok.setupTeam (fun _ hx => absurd hx List.not_mem_nil)).setNode).sched
      · cases ht
    · cases ht

theorem State.Inv.execPlacement (h : s.Inv) : (execPlacement s).Sound := by
  unfold Machine.execPlacement
  show State.Inv _
  split
  next hplace =>
    obtain ⟨k, -, hk⟩ := List.exists_of_findSome?_eq_some hplace
    exact (h.tryPlace hk).schedOnce
  next => exact h.armPreempt

theorem State.Inv.firstDemand (h : s.Inv) {c n key w : Nat} : (s.firstDemand c n key w).Inv := h.modCtx
theorem State.Inv.startLev (h : s.Inv) {c k r0 : Nat} {l : Lev} : (s.startLev c k r0 l).Inv :=
  .ite h (.ite h.setLev.sched.firstDemand.modEng h.setLev.sched.firstDemand.firstDemand)

theorem State.Inv.execTeamLaunch (h : s.Inv) {team : Nat} : (execTeamLaunch team s).Sound := by
  unfold Machine.execTeamLaunch
  show State.Inv _
  split
  · exact h
  · refine .ite h ?_
    extract_lets entry r q p
    have hr : r.Inv := h.modTeam
    have hq : q.Inv := hr.foldl (fun _ _ h => h.setCtx Ctx.nested.start)
    have hp : p.Inv := hq.foldl (fun _ _ h => h.foldl (fun _ _ h => h.startLev))
    exact (hp.foldl (fun _ _ h => h.fetchAhead)).schedOnce

theorem State.Inv.dropEnd (h : s.Inv) {t l : Nat} {far : Bool} : (s.dropEnd t l far).Inv := by
  unfold State.dropEnd
  extract_lets e x s1 e1 s2 e2 e3 s3
  have h1 : s1.Inv := .ite h.setEng h
  have h2 : s2.Inv := h1.modEnd
  have h3 : s3.Inv := by
    refine .ite ?_ h1
    split
    · exact h2.setEng.closeEnd
    · exact h2.setEng.closeEnd
    · exact h2.setEng.closeEnd
    · exact h2.breakRzv.closeEnd
    · exact h2.breakRzv.closeEnd
    · exact h2.breakRzv.closeEnd
    · exact h2.breakRzv.closeEnd
    · exact (State.Inv.ite h2.setEng.post h2.setEng).closeEnd
    · exact h2.closeEnd
    · exact h2.closeEnd
  exact h3.modEnd

theorem State.Inv.dropEngines (h : s.Inv) {t : Nat} : (s.dropEngines t).Inv :=
  ((h.foldl (fun _ _ h => h.dropEnd.dropEnd)).keep.foldl (fun _ _ h => .ite (.ite h.modEng h.returnToken) (.ite h.returnToken h))).foldl (fun _ _ h
    => h.offerLease)

theorem State.Inv.dropWaiting (h : s.Inv) {u : Team} {c : Nat} : (s.dropWaiting u c).Inv := h.foldl (fun _ _ h => h.sched.ackTo)
theorem State.Inv.dropHolds (h : s.Inv) {c : Nat} : (s.dropHolds c).Inv := h.keep.foldl (fun _ _ h => .ite h.schedOnce h)
theorem State.Inv.dropSavedHolds (h : s.Inv) {u : Team} : (s.dropSavedHolds u).Inv := h.keep.foldl (fun _ _ h => .ite h.schedOnce h)
theorem State.Inv.freeCores (h : s.Inv) {t : Nat} {u : Team} : (s.freeCores t u).Inv := by
  unfold State.freeCores
  have hfreed := (h.foldl (l := u.cores) (f := fun s c => s.unlinkNeighbours u c) (fun _ _ h => h.unlinkNeighbours)).foldl (l := u.cores)
    (f := fun s c =>
      let s := s.dropWaiting u c
      if (s.core c).team = some t then (({ s with cores := s.cores.set c Core.idle } : State).clearCtxs c).dropEvents c else s)
    (fun _ _ h => .ite h.dropWaiting.keep.clearCtxs.dropEvents h.dropWaiting)
  exact of hfreed.wf hfreed.ctxs hfreed.teams.erase

theorem State.Inv.execTeamComplete (h : s.Inv) {team : Nat} : (execTeamComplete team s).Sound := by
  unfold Machine.execTeamComplete
  show State.Inv _
  split
  · exact h
  · exact .ite h (State.Inv.ite h.keep h.keep.modReplay).dropEngines.freeCores.setNode.advanceReplay.schedOnce

theorem State.Inv.execTeamTeardown (h : s.Inv) {team : Nat} : (execTeamTeardown team s).Sound := by
  unfold Machine.execTeamTeardown
  show State.Inv _
  split
  · exact h
  · refine .ite h ?_
    extract_lets own s1 live s2 s3 early s4 s5 s6
    have h1 : s1.Inv := h.keep
    have h2 : s2.Inv := (h1.foldl (fun _ _ h => h.dropHolds)).dropSavedHolds
    have h3 : s3.Inv := h2.dropEngines.freeCores
    have h4 : s4.Inv := h3.foldl (fun _ _ h => h.dropEngines.freeCores)
    have h5 : s5.Inv := h4.modReplay
    have h6 : s6.Inv := h5.keep
    exact h6.advanceReplay.schedOnce

theorem State.Inv.execPreemptTrigger (h : s.Inv) : (execPreemptTrigger s).Sound := by
  unfold Machine.execPreemptTrigger
  show State.Inv _
  refine .ite h ?_
  split
  · exact h.schedOnce
  · split
    · exact h.beginSwitch
    · exact .ite h.schedSoon h

theorem State.Inv.endSwitch (h : s.Inv) : s.endSwitch.Inv := by
  unfold State.endSwitch
  refine State.Inv.schedOnce ?_
  refine State.Inv.keep ?_
  split
  · split
    · exact h.reply
    · exact h
  · exact h

theorem State.Inv.setStep (h : s.Inv) {n : Nat} : (s.setStep n).Inv := h.keep
theorem State.Inv.abandonAll (h : s.Inv) {u : Team} : (s.abandonAll u).Inv :=
  h.foldl (fun _ _ h => h.foldl (fun _ _ h => .ite (h.modCtx (fun _ h => h.abandon)) h))

theorem State.Inv.execPreemptStopIssue (h : s.Inv) {team : Nat} : (execPreemptStopIssue team s).Sound := by
  unfold Machine.execPreemptStopIssue
  show State.Inv _
  split
  · exact .ite h (.ite h.endSwitch h.modTeam.abandonAll.setStep.sched.sched)
  · exact .ite h.endSwitch h

theorem State.Inv.execPreemptHoldGrace (h : s.Inv) {team : Nat} : (execPreemptHoldGrace team s).Sound := by
  unfold Machine.execPreemptHoldGrace
  show State.Inv _
  split
  · exact .ite h (.ite h.sched (.ite h.sched h))
  · exact h

theorem State.Inv.execHoldGraceExpiry (h : s.Inv) {team : Nat} : (execHoldGraceExpiry team s).Sound := by
  unfold Machine.execHoldGraceExpiry
  show State.Inv _
  split
  · refine .ite h ?_
    split
    · exact h
    · exact h.haltTeam.endSwitch
  · exact h

theorem State.Inv.cancelLeases (h : s.Inv) {t : Nat} : (s.cancelLeases t).Inv := h.foldl (fun _ _ h => h.unqueue.complete)
theorem State.Inv.execPreemptDrain (h : s.Inv) {team : Nat} : (execPreemptDrain team s).Sound := by
  unfold Machine.execPreemptDrain
  show State.Inv _
  split
  · exact .ite (h.abandonAll.cancelLeases.setStep.foldl (fun _ _ h => h.closeWc)).sched (.ite h.setStep.sched h)
  · exact h

theorem State.Inv.execPreemptEngineStop (h : s.Inv) {team : Nat} : (execPreemptEngineStop team s).Sound := by
  unfold Machine.execPreemptEngineStop
  show State.Inv _
  split
  · exact .ite h (.ite (h.foldl (fun _ _ h => h.modEng)) (h.foldl (fun _ _ h => h.modEng)).modTeam.setStep.sched)
  · exact h

theorem State.Inv.putVirt (h : s.Inv) {space n va : Nat} {bs : List Byte} : (s.putVirt space n va bs).Inv := by
  induction n generalizing s va bs with
  | zero => exact h
  | succ n ih =>
    unfold State.putVirt
    refine .ite h (ih ?_)
    split
    · exact .ite (h.write (memory_wf_memPut h.wf _ _)) h
    · exact h

theorem State.Inv.moveVirt (h : s.Inv) {space cell : Nat} {out : Bool} {n va k : Nat} : (s.moveVirt space cell out n va k).Inv := by
  induction n generalizing s cell va k with
  | zero => exact h
  | succ n ih =>
    unfold State.moveVirt
    refine .ite h (ih ?_)
    split
    · refine .ite (h.write ?_) h
      cases out with
      | true => exact memory_wf_memMove h.wf _ _ _
      | false => exact memory_wf_memMove h.wf _ _ _
    · exact h

theorem State.Inv.setFresh (h : s.Inv) {n : Nat} : ({ s with fresh := n } : State).Inv := h.keep
theorem State.Inv.saveBlock (h : s.Inv) {t : Nat} {u : Team} {c : Nat} : (s.saveBlock t u c).Inv := by
  unfold State.saveBlock
  extract_lets sp b seed s1 s2 s3 s4 s5 s6
  have h3 : s3.Inv := h.moveVirt.putVirt.putVirt
  have h4 : s4.Inv := h3.foldl (fun _ _ h => h.putVirt)
  have h6 : s6.Inv := (h4.foldl (fun _ _ h => h.putVirt)).putVirt
  exact h6.setFresh

theorem State.Inv.saveEngine (h : s.Inv) {t l : Nat} : (s.saveEngine t l).Inv := by
  unfold State.saveEngine
  dsimp only
  split
  · exact .ite h.modEng.modDie.offerLease h.modEng
  · exact .ite h.modEng.modDie.offerLease h.modEng
  · exact .ite h.modEng.modDie.offerLease h.modEng
  · exact .ite h.modEng.modDie.offerLease h.modEng
  · exact .ite h.modEng.modDie.offerLease h.modEng
  · exact .ite h.modEng.modDie.offerLease h.modEng
  · exact .ite h.modTeam.returnToken h.modEng
  · exact h.modEng

theorem Ctx.nested.lastWeight {x : Ctx} (h : x.nested) : x.lastWeight.nested := h
theorem State.Inv.execPreemptSave (h : s.Inv) {team : Nat} : (execPreemptSave team s).Sound := by
  unfold Machine.execPreemptSave
  show State.Inv _
  split
  next u _ =>
    refine .ite h ?_
    extract_lets s1 s2 v s3 s4 ctxs cores s5 k s6
    have h1 : s1.Inv := h.foldl (fun _ _ h => h.settleCore)
    have h2 : s2.Inv := h1.foldl (fun _ _ h => h.saveEngine)
    have h3 : s3.Inv := h2.putVirt
    clear_value s3
    have h4 : s4.Inv := h3.foldl (fun _ _ h => h.saveBlock)
    have hctxs : ∀ x ∈ ctxs, x.2.nested := by
      intro x hx
      obtain ⟨c, -, hx⟩ := List.mem_flatMap.1 hx
      obtain ⟨n, -, rfl⟩ := List.mem_map.1 hx
      exact (h4.ctx c n).lastWeight
    clear_value ctxs
    have h5 : s5.Inv := by
      refine h4.modTeam (fun _ _ => ?_)
      exact hctxs
    have h6 : s6.Inv := h5.foldl (fun _ _ h => h.keep.clearCtxs.dropEvents)
    exact h6.endSwitch
  next => exact h

theorem State.Inv.loadFe (h : s.Inv) {u : Team} {c : Nat} : (s.loadFe u c).Inv := by
  unfold State.loadFe
  split
  · exact h.keep
  · exact h

/-- A restored context has the windows and the traps of its saved one. -/
theorem Ctx.nested.restored {x : Ctx} (h : x.nested) (s : State) (u : Team) (c n r0 : Nat) : ((s.loadRecord u c n x).goOn n r0).nested := h
theorem State.Inv.loadCore (h : s.Inv) {u : Team} (hu : u.nested) {r0 c : Nat} {k : Core} : (s.loadCore u r0 c k).Inv := by
  have hempty : ((s.dropEvents c).clearCtxs c).Inv := h.dropEvents.clearCtxs
  unfold State.loadCore
  dsimp only
  refine .ite ?_ (State.Inv.schedOnce ?_)
  all_goals
    refine State.Inv.foldl (State.Inv.foldl ((hempty.write (memory_wf_memClear hempty.wf _ _)).moveVirt.loadFe) (fun r n h => ?_))
      (fun _ _ h => .ite h.sched h)
    split
    next hx => exact h.setCtx ((hu _ (List.mem_of_find?_eq_some hx)).restored r u c n r0)
    next => exact h

theorem State.Inv.askLease (h : s.Inv) {t l pri core ctx : Nat} : (s.askLease t l pri core ctx).Inv :=
  (State.Inv.ite h.modDie.sched h.modDie).offerLease

theorem State.Inv.resumeEngine (h : s.Inv) {t l : Nat} : (s.resumeEngine t l).Inv := by
  unfold State.resumeEngine
  refine .ite h (.ite ?_ (.ite h.schedOnce h))
  refine .ite (State.Inv.ite (State.Inv.ite h.post h).post (.ite h.post h)).setEng.modEnd.writeOpen.modEnd.writeOpen.modEng.offerHeld ?_
  split <;> exact h.askLease

theorem State.Inv.execResume (h : s.Inv) {team : Nat} : (execResume team s).Sound := by
  unfold Machine.execResume
  show State.Inv _
  split
  next u hteam =>
    have hu : u.nested := h.teams.find hteam
    refine .ite h ?_
    extract_lets r0 s1 s2 s3 s4 s5 s6 s7
    have h1 : s1.Inv := h.foldl (fun _ _ h => h.loadCore hu)
    have h2 : s2.Inv := by
      refine h1.modTeam (fun _ _ _ hx => ?_)
      exact absurd hx List.not_mem_nil
    have h3 : s3.Inv := h2.foldl (fun _ _ h => h.complete)
    have h4 : s4.Inv := by
      refine h3.foldl (fun _ _ h => ?_)
      split
      · exact h.askLease
      · exact h
    have h5 : s5.Inv := h4.foldl (fun _ _ h => h.resumeEngine)
    have h6 : s6.Inv := h5.foldl (fun _ _ h => h.schedOnce)
    have h7 : s7.Inv := h6.foldl (fun _ _ h => h.admitSched)
    exact (h7.foldl (fun _ _ h => h.fetchAhead)).schedOnce
  next => exact h

end Sys2Proof.Machine
end

section
/-! PROOFS. The invariant of O5, kept by every operation of its own: the dispatch, bundles, the end of a cycle and a step. -/

namespace Sys2Proof.Machine
-- One theorem at a time: Lean evaluates the rules' default arguments on a thread of its own for each theorem that waits for them.
set_option Elab.async false
variable {s t : State}

theorem State.Inv.exec (h : s.Inv) {i : Instr} : Res.Sound (exec i s) := by
  unfold Machine.exec
  split
  · exact h.execNop
  · exact h.execAdd
  · exact h.execSub
  · exact h.execMul
  · exact h.execMulh
  · exact h.execDiv
  · exact h.execRem
  · exact h.execAnd
  · exact h.execOr
  · exact h.execXor
  · exact h.execLtab
  · exact h.execShl
  · exact h.execShr
  · exact h.execSra
  · exact h.execRot
  · exact h.execFsh
  · exact h.execMin
  · exact h.execMax
  · exact h.execClz
  · exact h.execPopc
  · exact h.execBfx
  · exact h.execBfi
  · exact h.execCmp
  · exact h.execSel
  · exact h.execMov
  · exact h.execLi
  · exact h.execLih
  · exact h.execAddpc
  · exact h.execPlog
  · exact h.execBr
  · exact h.execJmp
  · exact h.execCall
  · exact h.execRet
  · exact h.execIter
  · exact h.execExit
  · exact h.execCtxstart
  · exact h.execCtxreap
  · exact h.execCtxid
  · exact h.execLevid
  · exact h.execLd
  · exact h.execSt
  · exact h.execVld
  · exact h.execVst
  · exact h.execBpack
  · exact h.execBunpk
  · exact h.execLdfe
  · exact h.execStfe
  · exact h.execFeinit
  · exact h.execRst
  · exact h.execHold
  · exact h.execHrel
  · exact h.execRed
  · exact h.execXsum
  · exact h.execXread
  · exact h.execDwinit
  · exact h.execDwwait
  · exact h.execFence
  · exact h.execSpfence
  · exact h.execAcq
  · exact h.execRls
  · exact h.execBind
  · exact h.execUnbind
  · exact h.execTrig
  · exact h.execChwait
  · exact h.execChread
  · exact h.execCopy
  · exact h.execGather
  · exact h.execScatter
  · exact h.execCstage
  · exact h.execLease
  · exact h.execUnlease
  · exact h.execLkopen
  · exact h.execLkfeed
  · exact h.execLksparse
  · exact h.execLkdrain
  · exact h.execLkclose
  · exact h.execLkstat
  · exact h.execLkwait
  · exact h.execCbload
  · exact h.execEpload
  · exact h.execQbind
  · exact h.execQctl
  · exact h.execQhnd
  · exact h.execLvset
  · exact h.execLvread
  · exact h.execTrap
  · exact h.execEret
  · exact h.execBrk
  · exact h.execSysrd
  · exact h.execSyswr
  · exact h.execVnop
  · exact h.execVadd
  · exact h.execVsub
  · exact h.execVmul
  · exact h.execVfma
  · exact h.execVmad
  · exact h.execVmin
  · exact h.execVmax
  · exact h.execVabs
  · exact h.execVneg
  · exact h.execVltab
  · exact h.execVshl
  · exact h.execVshr
  · exact h.execVsra
  · exact h.execVfsh
  · exact h.execVcmp
  · exact h.execVsel
  · exact h.execVmask
  · exact h.execVcvt
  · exact h.execVdot
  · exact h.execVqmul
  · exact h.execVreduce
  · exact h.execVscan
  · exact h.execVperm
  · exact h.execVbcast
  · exact h.execVpopc
  · exact h.execVrcp
  · exact h.execVrsq
  · exact h.execVexp2
  · exact h.execEend
  · exact h.execEmov
  · exact h.execEadd
  · exact h.execEsub
  · exact h.execEmul
  · exact h.execEfma
  · exact h.execEmin
  · exact h.execEmax
  · exact h.execEshrImm
  · exact h.execEshrReg
  · exact h.execEqmul
  · exact h.execEcvt
  · exact h.execEzpc
  · exact h.execErelu
  · exact h.execEsel
  · exact h.execEldc
  · exact h.execEwr
  · exact h.execDeviceReset
  · exact h.execBootStage
  · exact h.execHbmTrainingAttempt
  · exact h.execSpanLinkTraining
  · exact h.execPortTraining
  · exact h.execUpload
  · exact h.execRelease
  · exact h.execAttest
  · exact h.execFlashwr
  · exact h.execReset
  · exact h.execMailboxCommandComplete
  · exact h.execRegisterWrite
  · exact h.execKick
  · exact h.execHostStagingWrite
  · exact h.execHostStagingRead
  · exact h.execReplayBegin
  · exact h.execPlacement
  · exact h.execTeamLaunch
  · exact h.execTeamComplete
  · exact h.execPreemptTrigger
  · exact h.execPreemptStopIssue
  · exact h.execPreemptHoldGrace
  · exact h.execHoldGraceExpiry
  · exact h.execPreemptDrain
  · exact h.execPreemptEngineStop
  · exact h.execPreemptSave
  · exact h.execResume
  · exact h.execTeamTeardown
  · exact h.execTrapEntry
  · exact h.execLightHandlerCall
  · exact h.execSoftError
  · exact h.execFaultLogEntry
  · exact h.execReplyWrite
  · exact h.execPendingCompletionWrite
  · exact h.execEagerSpill
  · exact h.execWindowSpill
  · exact h.execWindowRefill
  · exact h.execWeightTakesEffect
  · exact h.execThrottleStepBegin
  · exact h.execThrottleStepEnd
  · exact h.execQueueEntryArrive
  · exact h.execCreditReturn
  · exact h.execLevellingSample
  · exact h.execLevellingDemandArrive
  · exact h.execEngineLevelSample
  · exact h.execLeaseGrant
  · exact h.execEngineWake
  · exact h.execEviction
  · exact h.execHeldOpenTakesEffect
  · exact h.execPrePass
  · exact h.execLoaderFetch
  · exact h.execKStep
  · exact h.execSplitDrain
  · exact h.execDrainBegin
  · exact h.execEpilogueRow
  · exact h.execDrainRowWrite
  · exact h.execEngineRestore
  · exact h.execInjectionSend
  · exact h.execOutputArbitration
  · exact h.execEscapeEntry
  · exact h.execHomeRequestArrival
  · exact h.execHoldGrant
  · exact h.execHoldResend
  · exact h.execRemoteStoreArrival
  · exact h.execRstFeArrival
  · exact h.execRstFeResend
  · exact h.execWriteResend
  · exact h.execAcknowledgement
  · exact h.execWcIdleTimeout
  · exact h.execFineGrainBatchIssue
  · exact h.execHbmRequestServe
  · exact h.execHbmRefresh
  · exact h.execCopyCommandStart
  · exact h.execGatherIndexBatch
  · exact h.execCopyRowWrite
  · exact h.execCopyCommandComplete
  · exact h.execScheduleEntryRelease
  · exact h.execTriggerNotice
  · exact h.execIterationClaim
  · exact h.execClaimReply
  · exact h.execPageWalk
  · exact h.execResidencyRepair
  · exact h.execResidencyFatal
  · exact h.execSpanInboundRequest
  · exact h.execPcieCompletion
  · exact h.execPcieCompletionTimeout
  · exact h.execTrapAnswer
  · exact h.execSwreq
  · exact h.execSvcreq
  · exact h.execSvcans
  · exact h.execTlbinv
  · exact h.execSlotroot
  · exact h.execSpanin
  · exact h.execEscwait
  · exact h.execPowerLoss
  · exact h.execUncorrectableError
  · exact h.execSramSelfTest
  · exact h.execDieBridgeTraining

theorem State.Inv.act (h : s.Inv) {c n : Nat} {b : Bundle} : (s.act c n b).Inv := h.keep
theorem State.Inv.noteUndo (h : t.Inv) {s : State} : (s.noteUndo t).Inv := by
  unfold State.noteUndo
  split
  · exact h.modCtx
  · exact h

theorem State.Inv.runSlots (h : s.Inv) {b : Bundle} : (s.runSlots b).Sound := by
  unfold State.runSlots
  split
  next hs =>
    have hnoted := (h.exec.next hs).noteUndo (s := s)
    refine .ite hnoted ?_
    split
    · exact hnoted.modCtx
    · trivial
    · trivial
  · trivial
  · trivial

theorem State.Inv.runBundle (h : s.Inv) {c n : Nat} {b : Bundle} : (s.runBundle c n b).Sound := .ite h.act.runSlots h.act.advance
theorem State.Inv.useFetch (h : s.Inv) {c : Nat} {e : TlbE} : (s.useFetch c e).Inv := h.modCluster
theorem State.Inv.issue (h : s.Inv) {c n : Nat} : (s.issue c n).Sound := by
  unfold State.issue
  dsimp only
  split
  · exact h.keep.startWalk.wait
  · exact h.keep.wait
  · exact h.keep.fault
  · exact h.useFetch.runBundle

theorem State.Inv.countBundle (h : s.Inv) {c : Nat} : (s.countBundle c).Inv := by
  unfold State.countBundle
  split
  · exact .ite (.ite h.keep.schedOnce h.keep) h
  · exact h

theorem State.Inv.slotStep (h : s.Inv) {c : Nat} : (s.slotStep c).Sound := by
  unfold State.slotStep
  split
  · exact h.keep.countBundle.issue
  · exact h.keep.exec
  · exact h.keep.exec
  · exact h.keep.exec
  · exact h.keep

theorem State.Inv.noteOpen (h : s.Inv) {c n : Nat} {w : Wait} : (s.noteOpen c n w).Inv := by
  unfold State.noteOpen
  split
  · exact .ite h.modCtx h
  · exact h

theorem State.Inv.redo (h : s.Inv) {c n : Nat} {b : Bundle} : (s.redo c n b).Inv := by
  unfold State.redo
  split
  next hrun => exact h.wake.runBundle.next hrun
  next => exact h

theorem State.Inv.watchCtx (h : s.Inv) {c n : Nat} : (s.watchCtx c n).Inv := by
  unfold State.watchCtx
  refine .ite h ?_
  split
  · refine .ite h (.ite ?_ h.noteOpen)
    split
    · exact h.redo
    · exact h.wake
  · exact h.finishEntry
  · exact h.finishEntry
  · exact h

theorem State.Inv.serveIters (h : s.Inv) {c k : Nat} : (s.serveIters c k).Inv := by
  induction k generalizing s with
  | zero => exact h
  | succ k ih =>
    unfold State.serveIters
    dsimp only
    split
    · exact h
    · exact ih h.watchCtx

theorem State.Inv.serveFe (h : s.Inv) {c : Nat} {w : FeWaiter} : (s.serveFe c w).Inv := by
  unfold State.serveFe
  split
  · split
    · exact h.redo
    · exact h
  · split
    · exact h.modCore.fillWord.ackTo
    · exact h

theorem State.Inv.serveFes (h : s.Inv) {c k : Nat} : (s.serveFes c k).Inv := by
  induction k generalizing s with
  | zero => exact h
  | succ k ih =>
    unfold State.serveFes
    split
    · exact h
    · exact ih h.serveFe

theorem State.Inv.watchReleases (h : s.Inv) {t : Nat} {u : Team} : (s.watchReleases t u).Inv :=
  .ite h (.ite (.ite h (h.modTeam.foldl (fun _ _ h => h.sched))) ((State.Inv.ite h (h.modTeam.foldl (fun _ _ h => h.sched))).modTeam.foldl (fun _ _
    h => h.schedOnce)))

theorem State.Inv.watchTeam (h : s.Inv) {t : Nat} : (s.watchTeam t).Inv := by
  unfold State.watchTeam
  split
  · exact h
  · dsimp only
    split
    · exact .ite (State.Inv.ite h.watchReleases.setNode.advanceReplay h.watchReleases).schedOnce (.ite h.watchReleases.setNode.advanceReplay
      h.watchReleases)
    · exact .ite h.watchReleases.setNode.advanceReplay h.watchReleases

theorem State.Inv.watchSvc (h : s.Inv) {k : Nat} : (State.watchSvc k s).Inv := by
  induction k generalizing s with
  | zero => exact h
  | succ k ih =>
    unfold State.watchSvc
    dsimp only
    split
    · exact .ite (ih h.keep) h
    · exact h

theorem State.Inv.watchSwitch (h : s.Inv) : s.watchSwitch.Inv := by
  unfold State.watchSwitch
  split
  · exact h
  · split
    · exact h.endSwitch
    · exact .ite h.endSwitch (.ite (.ite h.schedOnce h) (.ite (.ite h.schedOnce h) (.ite (.ite h h.schedOnce) h)))

theorem State.Inv.watchShare (h : s.Inv) {c : Nat} : (s.watchShare c).Inv := by
  refine .ite (State.Inv.modCore (h.setCtxs (fun h => ?_))) h
  exact h.mapAll (fun _ _ h => .ite h h)

theorem State.Inv.tick (h : s.Inv) : s.tick.Inv := by
  unfold State.tick
  extract_lets s1 s2 s3 s4 s5 s6 s7
  have h1 : s1.Inv := h.foldl (fun _ _ h => h.serveFes)
  have h2 : s2.Inv := h1.foldl (fun _ _ h => h.serveIters)
  have h3 : s3.Inv := h2.foldl (fun _ _ h => h.watchCtx)
  have h4 : s4.Inv := h3.foldl (fun _ _ h => h.watchShare)
  have h5 : s5.Inv := h4.foldl (fun _ _ h => h.watchTeam)
  have h7 : s7.Inv := h5.watchSvc.watchSwitch
  exact h7.keep

theorem State.Inv.unpowered (h : s.Inv) : s.unpowered.Sound := by
  unfold State.unpowered
  split
  · trivial
  · exact h.keep.exec
  · exact h.keep

theorem State.Inv.dueInput (h : s.Inv) {i : Instr} {t : State} (hdue : s.dueInput = some (i, t)) : t.Inv := by
  unfold State.dueInput at hdue
  split at hdue
  · obtain ⟨-, heq⟩ := Option.ite_none_right_eq_some.1 hdue
    cases heq
    exact h.keep
  · cases hdue

theorem State.Inv.dueEvent (h : s.Inv) {i : Instr} {t : State} (hdue : s.dueEvent = some (i, t)) : t.Inv := by
  obtain ⟨r, -, heq⟩ := Option.map_eq_some_iff.1 hdue
  cases heq
  exact h.keep

theorem State.Inv.dueBank (h : s.Inv) {i : Instr} {t : State} (hdue : s.dueBank = some (i, t)) : t.Inv := by
  obtain ⟨l, -, hl⟩ := List.exists_of_findSome?_eq_some hdue
  obtain ⟨r, -, heq⟩ := Option.map_eq_some_iff.1 hl
  cases heq
  exact h.keep

theorem State.Inv.step (h : s.Inv) : Res.Sound (step s) := by
  unfold Machine.step
  refine .ite h.unpowered ?_
  split
  · split
    · exact h.exec
    · trivial
  · split
    next hdue => exact .ite (h.dueInput hdue).exec (h.dueInput hdue)
    next =>
      split
      next hdue => exact (h.dueEvent hdue).exec
      next =>
        split
        · exact h.slotStep
        · split
          next hdue => exact (h.dueBank hdue).exec
          next => exact h.tick

/-- Settles O5: the invariant is kept by every operation the step is built of (`State.Inv.<operation>`), and so by every instruction
(`State.Inv.exec`) and by the step (`State.Inv.step`). -/
theorem stepKeepsInv : Obligations.StepKeepsInv := by
  unfold Obligations.StepKeepsInv
  intro s t h hstep
  exact h.step.next hstep

end Sys2Proof.Machine
end
